-- ==== Sys2Proof/Word.lean ====
section
/-! DEFINITION. The plainest data of the model: bytes, byte strings and sparse tables.
Everything a test could show wrong (byte order, bit fields, table operations) stands under Machine/. -/

namespace Sys2Proof

/-- One byte. -/
abbrev Byte := BitVec 8

/-- A string of bytes; byte 0 of a structure comes first (R7). -/
abbrev Blob := List Byte

/-- A sparse table: entries by number, numbers strictly rising. A number that is not listed has the
table's default, which the reader of the table names. -/
abbrev Tbl (α : Type) := List (Nat × α)

end Sys2Proof
end

