-- ==== Sys2Proof/Syntax.lean ====
section
/-! DEFINITION. The commands of the block: one constructor of `Instr` per row of spec/opcode_table.json.
A row is a register access, a response or packet that arrives at a port, a level change of a pin, or one of
the block's own indivisible steps (95_what_each_step_holds.md), offered to it as a command. The operands name
the object the step is about and carry what comes from outside: bytes read, responses, packets, levels. -/

namespace Sys2Proof

/-- Which window an access falls in (R54, R57, R58, R605): PF0 BAR0, PF0 BAR2, the BAR0 of one VF, or Tarn's own address space. -/
inductive Space where
  | bar0 | bar2 | vf (fn : Nat) | tarn
deriving DecidableEq, Repr

/-- A doorbell block: block `local` of a VF's own BAR0 (R58), or the block of a queue ID in PF0 BAR2 (R57). -/
inductive Door where
  | own (fn loc : Nat) | pf0 (q : Nat)
deriving DecidableEq, Repr

/-- The ECC state a memory read response carries (R72). -/
inductive Ecc where
  | clean | corrected | uncorrectable | poisoned
deriving DecidableEq, Repr

/-- How a host read completes: with data, Unsupported Request, Completer Abort, poisoned data or a
completion timeout (R104, R135, R151, R308). -/
inductive HostResp where
  | ok | ur | ca | poison | timeout
deriving DecidableEq, Repr

/-- The host's side of an admin command (R151, R152): the bytes its data buffer holds and how that read
completes, and how the confirming read of what Vexzer writes to the host completes. -/
structure HostIo where
  data  : Blob := []
  read  : HostResp := .ok
  write : HostResp := .ok
deriving DecidableEq, Repr

/-- A tile port packet in the up direction (R65, R66): header fields, payload, and the PAR signals that its beats came with; none
where they are the odd parity of DATA (R62, R67). `Machine.upBeats` gives its beats. -/
structure TilePkt where
  typ      : Nat
  index    : Nat := 0
  tag      : Nat := 0
  ctx      : Nat := 0
  payload  : Blob := []
  par      : Option (List (BitVec 16)) := none
deriving DecidableEq, Repr

/-- What Glaze and Varve find when a read returns (R482, R486): every tag and MAC on the path matches, the data
tag does not match, a node's MAC does not match, or a node of the path reads uncorrectable or poisoned.
Level 0 is the counter line, 1 to 3 the tree levels. -/
inductive PathCheck where
  | good | badTag | badMac (level : Nat) | nodeEcc (level : Nat)
deriving DecidableEq, Repr

/-- What a read of a batch list returns: its ECC state, and what Glaze and Varve find (R176, R486). -/
structure BatchRead where
  ecc : Ecc := .clean
  chk : PathCheck := .good
deriving DecidableEq, Repr

/-- The ECC state of a read, and the place it was found at: the level of a table page (R257), or a granule of a slice (R383). -/
structure EccAt where
  ecc   : Ecc := .clean
  place : Nat := 0
deriving DecidableEq, Repr

/-- The port a weight block goes to, and the coded block of its tensor that is found corrupt, where one is (R335). -/
structure BlockSend where
  port    : Nat
  corrupt : Option Nat := none
deriving DecidableEq, Repr

/-- The ECC state of the read-back of a repaired unit, and the other units of its frame, by tensor and unit, that fail to read when the frame
is moved (R338). -/
structure Readback where
  ecc : Ecc := .clean
  bad : List (Nat × Nat) := []
deriving DecidableEq, Repr

/-- A memory request inside Vexzer (R71, R208, R240): who it is for, the DPA fields, and the bytes of a write.
`hot` is false for the Firn stream and Snowpack's own traffic (R278); `cmd` is the command it belongs to, `epoch` the configuration epoch that
a work item, tap or fetch gave it (R221). -/
structure MemReq where
  fn       : Nat := 0
  gen      : Nat := 0
  ctx      : Nat := 0
  cmd      : Option Nat := none
  key      : Nat := 0
  prot     : Nat := 0
  node     : Nat := 0
  tier     : Nat := 0
  offset   : Nat := 0
  len      : Nat := 64
  write    : Option Blob := none
  hot      : Bool := true
  remote   : Bool := false
  epoch    : Option Nat := none
deriving DecidableEq, Repr

/-- A Floe message (R563): the header fields and the body. -/
structure FloeMsg where
  typ      : Nat
  ring     : Nat := 0
  src      : Nat := 0
  dst      : Nat := 0
  hops     : Nat := 0
  tag      : Nat := 0
  fn       : Nat := 0
  ctx      : Nat := 0
  status   : Nat := 0
  dpa      : Nat := 0
  body     : Blob := []
deriving DecidableEq, Repr

/-- The SPDM 1.3 requests the responder of R459 tells apart. -/
inductive SpdmMsg where
  | getVersion (version : Nat)
  | getCapabilities
  | negotiateAlgorithms (ecdsaP384 sha384 secp384r1 aes256gcm : Bool)
  | getDigests
  | getCertificate (slot : Nat)
  | challenge (slot : Nat)
  | keyExchange (slot reqSession : Nat)
  | finish (session : Nat) (mutualAuth : Option Blob)
  | heartbeat (session : Nat)
  | keyUpdate (session op tag : Nat)
  | endSession (session : Nat)
  | other (code : Nat)
deriving DecidableEq, Repr

/-- The wake sources of R587. -/
inductive WakeSrc where
  | packet | uart | timer
deriving DecidableEq, Repr

/-- The supplies the voltage monitor compares (R592). -/
inductive Rail where
  | vdd | vddm | retention
deriving DecidableEq, Repr

/-- The kinds of access the Tarn core makes (R605). -/
inductive CoreAccess where
  | read | write | fetch
deriving DecidableEq, Repr

/-- The capabilities that R49's table names, and any that it does not. -/
inductive Capability where
  | pciExpress | aer | ari | sriov | msix | flr | ptm | doe | powerManagement | serialNumber
  | ats | pageRequest | pasid | ide | tdisp | msi | intx | resizableBar | vfResizableBar | processingHints | latencyTolerance
  | atomicOpCompleter
  | unnamed (id : Nat)
deriving DecidableEq, Repr

/-- The parameters of configuration space that R49 and R50 give a value: whether a function has a capability, sizes in bytes, counts, and of
a BAR its size, whether it is 64-bit and whether it is prefetchable. -/
inductive CfgParam where
  | has (c : Capability)
  | maxPayload | maxReadRequest | extendedTag | tenBitTag
  | totalVfs | initialVfs | firstVfOffset | vfStride | vfBarBytes (bar : Nat) | vfBarWide (bar : Nat) | vfBarPrefetch (bar : Nat)
  | pageSizes | msixVectors | d3hot | otherPowerStates | doeObjectBytes | serial
  | barBytes (bar : Nat) | barWide (bar : Nat) | barPrefetch (bar : Nat)
deriving DecidableEq, Repr

/-- The registers of configuration space that a capability of R49 gives a function beside its parameters: the vendor ID, the Max_Payload_Size
and Max_Read_Request_Size fields, Advanced Error Reporting, the PTM requester's enable, and PF0's SR-IOV control. -/
inductive CfgReg where
  | vendorId
  | payloadField | readRequestField
  | uncorrectableStatus | uncorrectableMask | uncorrectableSeverity | correctableStatus | correctableMask | errorControl
  | ptmEnable
  | vfControl | numVfs | vfPageSize
deriving DecidableEq, Repr

/-- A PCI Express configuration request (R126, R49, R621): to MSI-X Enable, the Function Mask, the power state
field, a parameter of R49 or R50, a register of a capability, or any other place of configuration space. -/
inductive CfgAccess where
  | readMsix
  | writeMsix (enable mask : Bool)
  | readPm
  | writePm (d3 : Bool)
  | readParam (p : CfgParam)
  | readReg (r : CfgReg)
  | writeReg (r : CfgReg) (value : Nat)
  | readOther (off : Nat)
  | writeOther (off value : Nat)
deriving DecidableEq, Repr

/-- The commands, one per row of the table, in the table's order. -/
inductive Instr where
  /-- R637. A write to a register field that has no behaviour of its own sets RW fields, clamps out-of-range
    values, clears W1C bits and sets W1S bits. -/
  | registerWrite (sp : Space) (off width value : Nat)
  /-- R18. An access to a BAR offset that no register occupies, or an access of the wrong width, reads zero, has
    no effect and is counted in VX_UNMAPPED_ACCESS. -/
  | unmappedAccess (sp : Space) (off width : Nat) (value : Option Nat)
  /-- R56. A 4-byte read of the low half of an 8-byte register returns that half and captures the high half for
    the same function. -/
  | splitLowRead (sp : Space) (off : Nat)
  /-- R56. A 4-byte write of the low half of an 8-byte register is held without changing the register, and any
    earlier held half is discarded and counted. -/
  | splitLowWrite (sp : Space) (off value : Nat)
  /-- R56. A 4-byte write of the high half writes all 8 bytes together with the held low half, or is treated as
    an unmapped access when no low half is held. -/
  | splitHighWrite (sp : Space) (off value : Nat)
  /-- R95. A doorbell write to SQ_TAIL is accepted, or is refused with db_error set and a DOORBELL_INVALID
    event, or is rejected and counted in CIRQ_DB_REJECT. -/
  | sqTail (d : Door) (value : Nat)
  /-- R98. A doorbell write to CQ_HEAD frees CQ slots, or is refused under R95, and lets a waiting replay or
    waiting events proceed. -/
  | cqHead (d : Door) (value : Nat)
  /-- R126. A write to CQ_INT.mask suppresses the CQ's interrupt, or on clearing raises the vector at once when
    any CQE is not yet signalled. -/
  | cqIntMask (d : Door) (value : Nat)
  /-- R126. Clearing an MSI-X vector mask or the Function Mask sends the messages whose pending bits are held.
    -/
  | msixMaskClear (fn : Nat) (vector : Option Nat)
  /-- R117. A write to CIRQ_RT_RESERVE stages a new Realtime reserve under the next configuration epoch. -/
  | cirqRtReserve (value : Nat)
  /-- R89. A write to CIRQ_FN_QCFG changes q_base, q_count and classes only while the function is Disabled, and
    applies park_cap at any time. -/
  | cirqFnQcfg (fn value : Nat)
  /-- R143. Writing 1 to CIRQ_ADMIN_RESUME performs CQ_RESUME on PF0's device admin queue. -/
  | cirqAdminResume (value : Nat)
  /-- R212. Writing 1 to VX_FN_MORAINE_CLR.clear sets the function's Moraine count to 0. -/
  | moraineClear (fn value : Nat)
  /-- R231. Writing 1 to VX_WPLOG_CTL.flush clears flush_done and begins to wait for every earlier write of the
    function and its record to become visible. -/
  | wplogFlush (fn value : Nat)
  /-- R231. When every write accepted before a flush and its record are visible, the deduplication filter is
    cleared and flush_done is set. -/
  | wplogFlushDone (fn : Nat)
  /-- R271. ESK_CREV_CTL action 1 translates an open Crevasse record's union again and resolves the record when
    the union is mapped. -/
  | crevRetry (slot : Nat)
  /-- R271. ESK_CREV_CTL action 2 sets an open record aborted, and each command parked on it completes
    FAULT_ABORTED after draining. -/
  | crevAbort (slot : Nat)
  /-- R273. A write to ESK_CREV_HEAD retires Crevasse records up to the named slot, stopping at the first open
    record, and lets waiting records be posted. -/
  | crevHeadWrite (value : Nat)
  /-- R427. A write to SNOW_HOST_ADD enters a 2 MiB host chunk in the host chunk table and adds its 8 pages to
    the host pool, or refuses the write and counts it. -/
  | snowHostAdd (value : Nat)
  /-- R432. A write to SNOW_IMAGE_CFG sets an image's token_bytes only while no sequence exists in a context
    bound to that image. -/
  | snowImageCfg (image value : Nat)
  /-- R429. A write to SNOW_FN_QUOTA sets the function's page quota, and raising it is a provisioning boundary.
    -/
  | snowFnQuota (fn value : Nat)
  /-- R581. FLOE_RING_CTL action 1 queues a join of a ring whose links are present. -/
  | ringJoinRequest (ring : Nat)
  /-- R574. FLOE_RING_CTL action 2 releases the ring: its bypass closes, its PHYs are reset and its links go out
    of service. -/
  | ringReleaseRequest (ring : Nat)
  /-- R623. Writing 1 to TARN_ADMIN_CTL.enable creates PF0's device admin queue and enables PF0 with generation
    1, or sets admin_cfg_error when a field is out of range. -/
  | adminQueueEnable (value : Nat)
  /-- R552. VX_RESET_REQ domain 1 begins an engine reset of the named engine on PF0's request. -/
  | engineResetRequest (engine : Nat)
  /-- R552. VX_RESET_REQ domain 2 begins a compute-domain reset on PF0's request. -/
  | computeDomainResetRequest
  /-- R551. A write to VX_RESET_HEAD retires reset records up to the named slot. -/
  | resetHeadWrite (value : Nat)
  /-- R102. Cirque issues a read of up to 8 consecutive entries from an SQ granted by the fetch arbiters, once
    the fetch conditions hold. -/
  | sqFetch (q : Nat)
  /-- R104. A fetch read completes: the entries are taken for admission, or the SQ is marked broken on a failed
    read. -/
  | sqFetchDone (q : Nat) (entries : List Blob) (resp : HostResp)
  /-- R105. Cirque applies the admission checks to a fetched entry in ring order, then translates its buffers at
    submission or completes it with the failing status. -/
  | admitEntry (q : Nat) (rd : BatchRead) (away : Blob)
  /-- R106. Cirque pins the graph and image versions current at acceptance and hands the command to the Serac
    units of its context, to Glaze for a COPY, or to Tarn. -/
  | dispatch (r : Nat)
  /-- R108. When every Serac unit, or Tarn, has reported the command's end, the completion arbiter takes it and
    records its end time. -/
  | commandComplete (r : Nat)
  /-- R493. Ledger appends the command's receipt to its function's chain once its writes are visible, waiting
    when 1,024 receipts are unwritten. -/
  | receiptAppend (r : Nat)
  /-- R111. Cirque writes a completion or event entry into the CQ slot at CQ_TAIL, or parks or holds it when the
    CQ is broken, and counts it toward the interrupt. -/
  | cqeWrite (r : Nat)
  /-- R135. The confirming read of a CQE burst returns: the burst is released, or the CQ is marked broken and
    the burst moves to the park. -/
  | cqConfirmReadDone (q : Nat) (resp : HostResp)
  /-- R123. A pending event is written to an admin CQ when a reserved event slot frees, in the order its kind
    first became pending. -/
  | eventEntryWrite (fn : Nat)
  /-- R125. int_time passes after the oldest unsignalled CQE was written, and the CQ raises its MSI-X vector. -/
  | intTimeExpiry (q : Nat)
  /-- R128. A command's deadline expires before its completion is recorded, and the command begins to drain or
    completes TIMEOUT. -/
  | commandDeadlineExpiry (r : Nat)
  /-- R129. Every engine reports a draining command drained within the drain window, and the command completes
    with the status decided. -/
  | drainComplete (r : Nat)
  /-- R130. The drain window passes without a full drain, and the command's context is reset with that context
    named as guilty. -/
  | drainWindowExpiry (r : Nat)
  /-- R155. Admin command that writes a result block with the version, function, queue count, generation, keys
    and cluster mask. -/
  | identify (r : Nat) (io : HostIo)
  /-- R90. Admin command that creates a queue pair with the given rings and attributes. -/
  | qpCreate (r : Nat) (io : HostIo)
  /-- R92. Admin command that deletes an idle queue pair. -/
  | qpDelete (r : Nat) (io : HostIo)
  /-- R141. Admin command that replays a broken CQ's parked and held completions and restarts fetching. -/
  | cqResume (r : Nat) (io : HostIo)
  /-- R202. Admin command that checks and enables a VF, joins an enable in progress, or waits for a shutdown to
    end. -/
  | fnEnable (r : Nat) (io : HostIo)
  /-- R203. An enable discards old completions, increments the generation, sets the function Enabled and begins
    fetching. -/
  | enableTakesEffect (fn : Nat) (io : HostIo)
  /-- R205. Admin command that stops a function's fetching and lets its accepted commands run to their end. -/
  | fnQuiesce (r : Nat) (io : HostIo)
  /-- R205. The last command of a quiescing function produces its CQE, the function becomes Disabled and
    FN_QUIESCE completes. -/
  | quiesceComplete (fn : Nat)
  /-- R214. Admin command that begins a function reset: generation increment, fetch stop, discard of old
    completions and drain. -/
  | fnReset (r : Nat) (io : HostIo)
  /-- R51. A PCI Express Function Level Reset of a VF performs that VF's function reset. -/
  | vfFunctionLevelReset (fn : Nat)
  /-- R214. After the drain, the function's objects are torn down and its queues reset, and the function returns
    to Enabled or Disabled. -/
  | functionResetEnd (fn : Nat) (io : HostIo)
  /-- R52. A Function Level Reset of PF0 performs a warm block reset, and every VF leaves its state at once. -/
  | pf0FunctionLevelReset
  /-- R235. Admin command that writes a Disabled function's encrypted state blob under its migration key. -/
  | fnExport (r : Nat) (io : HostIo)
  /-- R236. Admin command that checks a state blob and installs the function's state, generation and objects,
    leaving it Enabled. -/
  | fnImport (r : Nat) (io : HostIo) (frames : List Nat)
  /-- R228. Admin command that starts a function's written-page log ring or flushes and stops it. -/
  | wplogCtl (r : Nat) (io : HostIo)
  /-- R162. Admin command that replaces one topology section, with sections 3 and 4 after commit taking effect
    by configuration epoch. -/
  | topoWrite (r : Nat) (io : HostIo)
  /-- R624. Admin command that checks the topology, places the regions, fills key slots, opens the persist
    region and begins the ring joins. -/
  | topoCommit (r : Nat) (io : HostIo)
  /-- R159. Admin command that stages a configuration item under the next configuration epoch. -/
  | configSet (r : Nat) (io : HostIo)
  /-- R220. An engine at its safe point adopts a staged epoch, and the change completes when every engine
    concerned has adopted it. -/
  | configAdopt (engine : Nat) (io : HostIo)
  /-- R585. Admin command that moves the block to Active or Chill, or checks that it may enter Freeze or
    Permafrost. -/
  | pwrState (r : Nat) (io : HostIo)
  /-- R586. After its ledger flush, the block stops fetching, releases its rings, halts its stages and drives
    the supply setpoint for Freeze or Permafrost. -/
  | powerStateEntry
  /-- R596. Admin command that sets the power limit and the emergency limit. -/
  | pwrLimit (r : Nat) (io : HostIo)
  /-- R609. Admin command that checks and activates a signed patch through a Tarn restart, or deactivates the
    active patch. -/
  | patchLoad (r : Nat) (io : HostIo)
  /-- R632. Admin command that unlocks the serial monitor on a valid authorisation, or relocks it. -/
  | monUnlock (r : Nat) (io : HostIo)
  /-- R158. Admin command that assigns a range of key IDs to a function and fills their slots with fresh keys.
    -/
  | keyAssign (r : Nat) (io : HostIo)
  /-- R158. Admin command that releases a function's key IDs and zeroes their slots and tenant records. -/
  | keyRelease (r : Nat) (io : HostIo)
  /-- R171. Admin command that creates a context bound to one image over a cluster set. -/
  | ctxCreate (r : Nat) (io : HostIo)
  /-- R171. Admin command that destroys an idle context that belongs to no pool and releases its slot states and
    sequences. -/
  | ctxDestroy (r : Nat) (io : HostIo)
  /-- R521. Admin command that resets a context. -/
  | ctxReset (r : Nat) (io : HostIo)
  /-- R168. Admin command that allocates memory in a tier under a key and protection. -/
  | memAlloc (r : Nat) (io : HostIo) (frames : List Nat)
  /-- R170. Admin command that frees an allocation that has no mapped range. -/
  | memFree (r : Nat) (io : HostIo)
  /-- R170. Admin command that writes a context's mirrored table leaves and broadcasts their invalidation. -/
  | mapRange (r : Nat) (io : HostIo)
  /-- R170. Admin command that removes a context's mappings over a range and broadcasts their invalidation. -/
  | unmapRange (r : Nat) (io : HostIo)
  /-- R286. Admin command that writes the frame DPAs of an allocation and marks the allocation shared. -/
  | memShare (r : Nat) (io : HostIo)
  /-- R287. Admin command that maps remote frame DPAs as 2 MiB pages of a context. -/
  | mapRemote (r : Nat) (io : HostIo)
  /-- R261. An engine acknowledges a range invalidation, and the MAP or UNMAP completes, resolving Crevasse
    records, when all 34 engines have acknowledged. -/
  | invalidationAck (inv engine : Nat)
  /-- R307. Admin command that validates a manifest and queues a load of a new image. -/
  | imgLoad (r : Nat) (io : HostIo)
  /-- R312. Admin command that continues a staged load from its first unverified shard. -/
  | imgResumeLoad (r : Nat) (io : HostIo)
  /-- R330. Admin command that loads a new version of an image alongside the live versions or after a drain. -/
  | imgReplace (r : Nat) (io : HostIo)
  /-- R312. Admin command that frees a staged version, or an image's current version when nothing uses it. -/
  | imgDrop (r : Nat) (io : HostIo)
  /-- R307. Firn begins the next queued load, or a replacement's load once its drain has freed room. -/
  | imgLoadBegin (frames : List Nat)
  /-- R308. A shard read completes, and its digest is checked, or a failed read or failed digest schedules
    another read. -/
  | shardReadDone (shard : Nat) (resp : HostResp) (data : Blob)
  /-- R308. 100 µs after a failed shard read, Firn reads the shard again. -/
  | shardRetryTimer (shard : Nat)
  /-- R308. The shard timeout expires with no successful read, and the load fails SHARD_MISSING with the version
    staged. -/
  | shardTimeout (shard : Nat)
  /-- R310. The body digest check ends, and the version is activated, or the load fails MANIFEST_INVALID. -/
  | bodyDigestDone (io : HostIo)
  /-- R348. Admin command that registers a variant: it unwraps the adapter into storage, zeroes its state and
    computes its digest. -/
  | varRegister (r : Nat) (io : HostIo) (ecc : Ecc)
  /-- R352. Admin command that requests a variant's seal. -/
  | varSeal (r : Nat) (io : HostIo)
  /-- R352. When no accepted TRAIN_STEP of the variant remains, Silt recomputes the digest, seals the variant
    and completes VAR_SEAL. -/
  | sealTakesEffect (variant : Nat)
  /-- R353. Admin command that verifies an unseal token and returns a sealed variant to Registered. -/
  | varUnseal (r : Nat) (io : HostIo)
  /-- R355. Admin command that changes a variant's descriptor or contents and commits a new revision. -/
  | varUpdate (r : Nat) (io : HostIo)
  /-- R356. Admin command that discards a variant's Silt state and frees its ID. -/
  | varDrop (r : Nat) (io : HostIo)
  /-- R174. A VAR_UPDATE or VAR_DROP with its wait bit set proceeds once no accepted command names the variant.
    -/
  | variantWaitEnd (r : Nat) (io : HostIo)
  /-- R181. Admin command that stores a graph or kernel image as version 1 of a new handle. -/
  | graphStore (r : Nat) (io : HostIo)
  /-- R186. Admin command that replaces node bodies and creates the next graph version. -/
  | graphPatch (r : Nat) (io : HostIo)
  /-- R188. Admin command that retires a handle, its versions being freed as their pins end. -/
  | graphFree (r : Nat) (io : HostIo)
  /-- R505. Admin command that returns a function's held receipts from a sequence number. -/
  | rcptRead (r : Nat) (io : HostIo)
  /-- R503. Admin command that queues a signed checkpoint of a function's chain head. -/
  | ckptRequest (r : Nat) (io : HostIo)
  /-- R504. Tarn's signer finishes a checkpoint, which is stored or written, and a periodic one posts
    CHECKPOINT_WRITTEN. -/
  | checkpointSigned (io : HostIo)
  /-- R190. Admin command that creates an equal-treatment pool on a sealed variant and pins its image version.
    -/
  | poolCreate (r : Nat) (io : HostIo)
  /-- R192. Admin command that adds an idle context to a pool. -/
  | poolJoin (r : Nat) (io : HostIo)
  /-- R192. Admin command that removes an idle context from a pool. -/
  | poolLeave (r : Nat) (io : HostIo)
  /-- R192. Admin command that destroys an empty pool and ends its image pin. -/
  | poolDestroy (r : Nat) (io : HostIo)
  /-- R175. I/O command that runs one inference step of a stored graph over a batch. -/
  | inferStep (r : Nat)
  /-- R175. I/O command that runs one training step of a stored graph over a batch and updates the variants. -/
  | trainStep (r : Nat)
  /-- R175. I/O command that runs a stored graph with an argument buffer. -/
  | graphLaunch (r : Nat)
  /-- R175. I/O command that runs a stored kernel with an argument buffer. -/
  | kernelLaunch (r : Nat)
  /-- R177. I/O command that copies a range through Glaze, re-keying between allocations. -/
  | copy (r : Nat) (ecc : Ecc)
  /-- R430. I/O command that creates a sequence with its initial pages in a provisioning pass. -/
  | seqCreate (r : Nat)
  /-- R452. I/O command that releases a sequence at its next step boundary. -/
  | seqRelease (r : Nat)
  /-- R452. I/O command that truncates a sequence at its next step boundary. -/
  | seqTruncate (r : Nat)
  /-- R442. At a boundary, Snowpack applies due leaves, reserves growth, provisions joins with spills, and
    starts the steps before the cut. -/
  | provisioningPass
  /-- R401. A Serac unit grants the next turn of its frame to a runnable resident context by reserve, class
    pattern and round robin. -/
  | turnGrant (u : Nat)
  /-- R403. A turn's quantum passes, and Serac begins the switch with PREEMPT mode 0 or a pointer-only switch.
    -/
  | quantumExpiry (u : Nat)
  /-- R405. With a Realtime context waiting, a non-pool turn reaches min_turn_us, and Serac sends PREEMPT. -/
  | minTurnExpiry (u : Nat)
  /-- R409. CLEAVE_BOUND passes without CLEAVE_REACHED, and Serac sends PREEMPT mode 1. -/
  | cleaveBoundExpiry (u : Nat)
  /-- R397. Serac checks a tile's descriptors and issues it as an ISSUE work item to the cluster, or faults or
    rejects it as a whole. -/
  | issue (u : Nat)
  /-- R269. A fault record that waited for a place is posted to the Crevasse ring as a place frees. -/
  | crevasseWaitingPost
  /-- R258. Esker translates the stale spans and holes of the next tiles in the run-ahead window and posts early
    records for missing pages. -/
  | runAhead (u : Nat)
  /-- R263. A table walk finishes and installs its result, or discards it and walks again after an overlapping
    invalidation. -/
  | tableWalkDone (walker : Nat) (rd : EccAt)
  /-- R400. A cluster's DONE for a work item is taken and its write data written through the tile's descriptors,
    or the work item is an error. -/
  | tileDone (u : Nat) (p : TilePkt)
  /-- R408. A cluster reports a cleave point and the live bytes its save will carry, checked against the node's
    tables. -/
  | cleaveReached (u : Nat) (p : TilePkt)
  /-- R411. A SAVE_DATA packet's bytes are written into the context's save area through Glaze. -/
  | saveData (u : Nat) (p : TilePkt)
  /-- R411. A SAVE_END completes a save, which becomes valid, or a discard, and Serac proceeds to restore or
    resume the incoming context. -/
  | saveEnd (u : Nat) (p : TilePkt)
  /-- R411. Serac sends the incoming context's save with RESTORE_DATA and RESTORE_END, then RESUME. -/
  | restoreData (u : Nat)
  /-- R519. A cluster's TILE_ERROR packet fails its command, resets its context or resets the port's Serac unit
    by severity. -/
  | tileError (u : Nat) (p : TilePkt)
  /-- R63. A tile port receiver returns beats of credit for a class. -/
  | creditReturn (u : Nat) (down : Bool) (cls count : Nat)
  /-- R416. A waiting context is swapped in when every Serac unit of its set can give it a slot. -/
  | swapIn (ctx : Nat)
  /-- R417. Serac writes a blocked resident context's slot states to the backing to free a slot. -/
  | eviction (u : Nat)
  /-- R418. A context waiting for residency passes age_us and becomes aged, forcing evictions on its set. -/
  | ageExpiry (ctx : Nat)
  /-- R324. Firn and Melt send the next WBLOCK of a layer's tiles to a cluster when class-1 credit and staging
    allow. -/
  | wblock (b : BlockSend)
  /-- R361. Silt takes a cluster's TAP_IN, schedules its segments on engines, or answers TAP_NULL for a
    malformed or dead tap. -/
  | tapIn (u : Nat) (p : TilePkt)
  /-- R367. An adapter slice fetched through Glaze arrives in an engine's cache. -/
  | sliceFetchDone (engine : Nat) (rd : EccAt)
  /-- R68. Silt sends the TAP_ADD or TAP_NULL that answers a tap once its products are done. -/
  | tapAnswer (u tag : Nat)
  /-- R377. After a step's last backward tap, Silt applies the AdamW update to every trained component. -/
  | trainUpdate (r : Nat)
  /-- R379. When every update is written, the updated variants' revisions are incremented and the step's receipt
    may be appended. -/
  | trainUpdateCommit (r : Nat)
  /-- R275. A memory request passes the generation check, the frame key table, hot-page counting and Glaze or
    Rime at its port. -/
  | memoryRequest (q : MemReq)
  /-- R72. A memory controller returns a read response, matched by tag, which Glaze checks and routes by its ECC
    state. -/
  | memoryReadResponse (port tag : Nat) (ecc : Ecc) (chk : PathCheck)
  /-- R474. The re-key walker visits the next page of a key ID and re-encrypts it under the new key epoch,
    zeroing the old half at the end. -/
  | rekeyWalk (key : Nat)
  /-- R480. A dirty counter-tree node is written back to memory once its 100 ns interval has passed. -/
  | varveNodeWriteback (level pos : Nat)
  /-- R278. At the end of each window_ms window, every hot-page counter resets to 0. -/
  | hotWindowEnd
  /-- R282. Vexzer moves a hot VX1 board frame to HBM, blocking the tiles that touch it and invalidating its
    ranges. -/
  | vx1FrameMove (fn frame dest : Nat)
  /-- R336. Firn begins the repair of an image unit needing repair, within the limit of 8, by asking its peers
    in turn. -/
  | repairStart
  /-- R337. A peer gives no answer within 200 µs and counts as unavailable, and Firn tries the next source. -/
  | peerAnswerTimeout (repair : Nat)
  /-- R337. A read of the host's canonical manifest or shard for a repair completes and yields the unit, or the
    version is poisoned. -/
  | canonicalReadDone (repair : Nat) (resp : HostResp) (manifest data : Blob)
  /-- R338. The read-back of a repaired unit resumes the stalled streams, or moves the unit's frame. -/
  | repairReadback (repair : Nat) (rd : Readback) (frame : Option Nat)
  /-- R514. A dual-rail code word that is neither valid nor empty begins an engine reset of its stage or a Tarn
    restart. -/
  | railFault (engine : Nat)
  /-- R514. A fast-path request stays unacknowledged for 10 µs, and an engine reset or Tarn restart begins. -/
  | stallSentinelExpiry (engine : Nat)
  /-- R516. Every 200 µs Tarn reads every engine's progress counter and reports to Loess each engine stalled for
    STALL_LIMIT. -/
  | progressSample
  /-- R518. Every 100 µs Tarn writes its heartbeat to Loess. -/
  | heartbeat
  /-- R514. 300 µs pass without a heartbeat, and Loess restarts Tarn from ROM. -/
  | heartbeatWatchdogExpiry
  /-- R525. An engine reset completes, for a Serac unit when its cluster has returned credit for every class,
    and lost contexts are recovered. -/
  | engineResetComplete (engine : Nat)
  /-- R522. 100 µs pass without a context reset completing, and the Serac units that have not answered are reset
    as engines. -/
  | contextResetDeadline (ctx : Nat)
  /-- R542. An engine reset passes 200 µs and escalates to a compute-domain reset, a fence or out of service. -/
  | engineResetDeadline (engine : Nat)
  /-- R530. The compute domain completes its reset, silent ports are fenced, and guilty and innocent contexts
    are recovered. -/
  | computeDomainResetComplete
  /-- R542. A compute-domain reset passes 5 ms and the block goes out of service. -/
  | computeDomainResetDeadline
  /-- R549. Tarn's restart from ROM ends and it completes its journalled admin commands by stage. -/
  | tarnRestartComplete
  /-- R550. A Tarn restart does not complete within 1 ms and the block goes out of service. -/
  | tarnRestartDeadline
  /-- R561. A Floe data, idle or nak frame is received, checked by CRC and sequence, and its ack and credit
    taken, sending a nak on the first discard. -/
  | frameReceive (link : Nat) (frame : Blob)
  /-- R561. A sender's ack has not advanced for 10 µs, and it sends again from the oldest unacknowledged frame,
    retraining after 8 sends. -/
  | ackTimeout (link : Nat)
  /-- R571. A remote read request reaches its destination, or is forwarded, and is answered with READ_RESP after
    the frame key table and Glaze. -/
  | readReq (link : Nat) (m : FloeMsg) (ecc : Ecc)
  /-- R571. A remote write request reaches its destination, or is forwarded, and is answered with WRITE_ACK
    after the frame key table and Glaze. -/
  | writeReq (link : Nat) (m : FloeMsg) (ecc : Ecc)
  /-- R565. A peer repair request is answered with the unit or with unavailable. -/
  | peerReq (link : Nat) (m : FloeMsg)
  /-- R570. A remote read response completes the requesting work with its status, or is discarded as stale. -/
  | readResp (link : Nat) (m : FloeMsg)
  /-- R570. A remote write acknowledgement completes the requesting work, or is discarded as stale. -/
  | writeAck (link : Nat) (m : FloeMsg)
  /-- R565. A peer's answer yields the repaired unit, or counts as unavailable and moves the repair to the next
    source. -/
  | peerResp (link : Nat) (m : FloeMsg)
  /-- R572. A far HELLO brings the link Up or counts a mismatch and a failed training. -/
  | hello (link : Nat) (m : FloeMsg)
  /-- R554. A census message is appended to and forwarded, completed by its originator, adopted, or discarded,
    putting the ring in service. -/
  | census (link : Nat) (m : FloeMsg)
  /-- R554. An originator that has adopted no list 1 ms after sending its census sends a new one. -/
  | censusResendTimer (ring : Nat)
  /-- R570. A remote request's end-to-end timer expires, and it is sent once more the other way or completes
    REMOTE_UNREACHABLE. -/
  | e2eTimerExpiry (tag : Nat)
  /-- R570. hold_ms passes with no ring in service listing the destination, and the request completes
    REMOTE_UNREACHABLE. -/
  | ringHoldExpiry (tag : Nat)
  /-- R573. A chip releases a ring's PHY resets and opens its bypass to join it, one ring at a time in
    increasing order. -/
  | ringJoin (ring : Nat)
  /-- R573. join_ms passes without the ring in service, and the ring is released with LINK_DOWN. -/
  | joinTimeout (ring : Nat)
  /-- R572. RDY and SIGDET are up on all four lanes of a training link, and Floe sends HELLO. -/
  | lanesReady (link : Nat)
  /-- R575. SIGDET or RDY falls on an Up link, which goes Down, retrains and posts LINK_DOWN. -/
  | linkSignalLost (link : Nat)
  /-- R575. A retraining link is not Up within train_ms, and the retrain fails and releases its ring. -/
  | trainTimeout (link : Nat)
  /-- R53. A requester writes a data object to a DOE mailbox, which is taken or discarded with DOE Busy. -/
  | doeObject (fn : Nat) (data : Blob)
  /-- R53. A DOE Abort discards the object in progress on that mailbox. -/
  | doeAbort (fn : Nat)
  /-- R459. An SPDM 1.3 request on a mailbox is answered by the responder, including session establishment and
    certificates. -/
  | spdmMessage (fn : Nat) (msg : SpdmMsg)
  /-- R490. An SPDM GET_MEASUREMENTS returns the signed measurement blocks. -/
  | getMeasurements (fn index : Nat) (signed : Bool)
  /-- R462. A vendor message in a mutually authenticated session installs a tenant's root secret for a key ID.
    -/
  | keyPut (fn : Nat) (session : Option Nat) (payload : Blob)
  /-- R461. A vendor message returns whether a key ID has a record and its requester digest. -/
  | keyInfo (fn : Nat) (session : Option Nat) (payload : Blob)
  /-- R462. A vendor message clears a tenant record bound to the requester. -/
  | keyClear (fn : Nat) (session : Option Nat) (payload : Blob)
  /-- R466. A vendor message sets the function's migration key and resets its export and import counts. -/
  | migPut (fn : Nat) (session : Option Nat) (payload : Blob)
  /-- R461. A vendor message clears the function's migration record. -/
  | migClear (fn : Nat) (session : Option Nat) (payload : Blob)
  /-- R508. A receipt and its head entry finish their write to the persist region, freeing room for waiting
    appends. -/
  | persistWriteDone
  /-- R511. VX_HOLDUP_N falls, the ledger is cut and flushed, and a hold-up Freeze follows. -/
  | holdupFall (ns : Nat)
  /-- R511. The ledger flush ends with the header clean, and the block enters hold-up Freeze. -/
  | ledgerFlushDone
  /-- R603. VX_HOLDUP_N rises and starts its 10 ms wait. -/
  | holdupRise (ns : Nat)
  /-- R603. VX_HOLDUP_N has been high for 10 ms, the hold-up state ends by a wake and the cut is lifted. -/
  | holdupEnd
  /-- R588. A wake latch is set in Freeze or Permafrost, and Vexzer drives the supply back to its operating
    point. -/
  | wake (src : WakeSrc)
  /-- R588. VX_PWR_GOOD rises, a wake restores assist and resumes stages, or a brownout hold from its fall ends.
    -/
  | pwrGoodRise (ns : Nat)
  /-- R594. VX_PWR_GOOD falls in Active or Chill with hold-up high, starting brownout hold and closing the
    bypasses. -/
  | pwrGoodFall (ns : Nat)
  /-- R593. VX_VDD falls below 0.60 V above the reset threshold, and every stage stops at its next handshake
    boundary. -/
  | brownoutHoldEnter (mv : Nat)
  /-- R593. VX_VDD has been above 0.61 V for 1 µs, and the stages resume. -/
  | brownoutHoldExit (mv : Nat)
  /-- R592. A supply crosses its reset threshold and the block is held in a cold block reset. -/
  | voltageMonitorReset (rail : Rail) (mv : Nat)
  /-- R592. The supply has been 20 mV above the threshold for 10 µs and the monitor releases the reset. -/
  | voltageMonitorRelease (rail : Rail) (mv : Nat)
  /-- R595. VX_DROOP_N falls and every bulk datapath is paced to at most 8 sixteenths. -/
  | droopFall (ns : Nat)
  /-- R595. VX_DROOP_N rises and starts the 10 µs before the droop pace ends. -/
  | droopRise (ns : Nat)
  /-- R595. VX_DROOP_N has been high for 10 µs and the droop pace ends. -/
  | droopPaceEnd
  /-- R597. VX_PWRBRAKE_N changes, switching between the emergency limit and the limit. -/
  | pwrbrakeChange (low : Bool) (ns : Nat)
  /-- R598. Every 1 µs Vexzer estimates its power and sets the pace that keeps the 100 µs mean within the limit
    in force. -/
  | paceUpdate (mw : Nat)
  /-- R584. In Chill, an engine idle for 1 µs relaxes its SRAM assist. -/
  | assistRelax (engine : Nat)
  /-- R82. VX_COLD_RST_N falls, holding a cold block reset and closing every bypass. -/
  | coldResetAssert (ns : Nat)
  /-- R621. VX_COLD_RST_N rises, the timebase starts at zero, SRAM clears and the ROM self-test begins. -/
  | coldResetRelease (ns : Nat)
  /-- R82. VX_RST_N falls, holding a warm block reset and closing every bypass. -/
  | warmResetAssert (ns : Nat)
  /-- R621. VX_RST_N rises, SRAM clears and the ROM self-test begins. -/
  | warmResetRelease (ns : Nat)
  /-- R622. The ROM self-test reports its outcome, making the registers reachable in phase 1 or taking the block
    out of service. -/
  | selftestDone (code : Nat)
  /-- R622. 10 ms after release without a self-test outcome, Loess takes the block out of service. -/
  | selftestLimitExpiry
  /-- R617. The core takes the highest enabled pending source above the current level, which becomes active. -/
  | interruptEntry
  /-- R618. A write to TARN_TIC_EOI clears the named source's active bit. -/
  | eoi (src : Nat)
  /-- R619. A handler returns, and a re-fired source is taken again first. -/
  | mret
  /-- R605. A Tarn access outside the map, a write to ROM or patch RAM, or a fetch from data RAM stops the
    heartbeat. -/
  | accessFault (addr : Nat) (kind : CoreAccess)
  /-- R628. A character received on the monitor UART is echoed and edited into the line, and a line end executes
    the line. -/
  | uartCharacter (c : Byte)
  /-- R628. A framing error or break discards the monitor line in progress. -/
  | uartFramingError
  /-- R629. Monitor command that lists the commands available in the lock state. -/
  | monHelp
  /-- R629. Monitor command that prints the version fields and the patch digest prefix. -/
  | monVer
  /-- R629. Monitor command that prints the heartbeat fields, timebase and Tarn phase. -/
  | monHb
  /-- R629. Monitor command that prints the status registers. -/
  | monSt
  /-- R629. Monitor command that reads 4-byte registers through the PF0 BAR0 view. -/
  | monRd (off count : Nat)
  /-- R629. Monitor command that reads 8-byte registers through the PF0 BAR0 view. -/
  | monRq (off count : Nat)
  /-- R631. Monitor command that makes a 4-byte register write through the PF0 BAR0 view. -/
  | monWr (off value : Nat)
  /-- R631. Monitor command that makes an 8-byte register write through the PF0 BAR0 view. -/
  | monWq (off value : Nat)
  /-- R629. Monitor command that prints a function's status, Moraine, park and fault registers. -/
  | monFn (fn : Nat)
  /-- R629. Monitor command that prints the newest reset records. -/
  | monRec (count : Nat)
  /-- R629. Monitor command that prints each ring's state, members and position. -/
  | monRing
  /-- R629. Monitor command that prints the power status, limit and event registers. -/
  | monPwr
  /-- R629. Monitor command that prints VX_SEAL. -/
  | monSeal
  /-- R627. Monitor command that changes the UART rate after its ok line. -/
  | monBaud (rate : Nat)
  /-- R634. Monitor command that locks the monitor. -/
  | monLock
  /-- R621. A PCI Express configuration request to a Vexzer function completes with Configuration Request Retry
    Status during the self-test or a hold-up state, sets a wake latch in Freeze or Permafrost, and otherwise
    reads or writes configuration space, such as MSI-X Enable or the Function Mask. -/
  | configurationRequest (fn : Nat) (a : CfgAccess)
  /-- R85. The die's boundary-scan chain enters or leaves a test mode that drives output cells, and each
    VX_BYP_OPEN{k} follows its scan cell instead of Vexzer, or returns to Vexzer's level. -/
  | boundaryScanTestMode (cells : Option (BitVec 18))
deriving DecidableEq, Repr

end Sys2Proof
end

