-- ==== Sys2Proof/Decode.lean ====
section
/-! DEFINITION. The command that a word spells. The table gives no row any bits: a command reaches the block as an access, a
packet, a level or a step of its own, and no word spells one (assumption 2). -/

namespace Sys2Proof

/-- The command whose bits are `w`: none for every word. -/
def decodeTableWord (_nbits _w : Nat) : Option Instr := none

end Sys2Proof
end

