-- ==== Sys2Proof/Config.lean ====
section
/-! DEFINITION. What the spec leaves open, as constants with no body: nothing can be proved of their values, so
a statement holds whatever they are. `free` is applied to the counter `State.free`; the others to what they
depend on. notes/assumptions/3.md lists them. -/

namespace Sys2Proof.Config

open Sys2Proof

/-- A value the spec leaves free, or draws at random, by draw number (assumption 3). -/
opaque free : Nat → Nat

/-- The Device Serial Number, unique to the die (R49). -/
opaque deviceSerial : Nat

/-- The vendor ID that the functions' configuration headers report (R460). -/
opaque vendorId : Nat

/-- The signature Vexzer's own signing key makes over a byte string: 96 bytes of ECDSA P-384 (R459, R503). -/
opaque sign : Blob → Blob

/-- The device identity public key (R459, R503). -/
opaque identityKey : Blob

/-- Whether a signature verifies over a byte string under the fused patch key (R609). -/
opaque patchSigned : Blob → Blob → Bool

/-- The least security version of a patch that the die's fuses accept (R609). -/
opaque minSvn : Nat

/-- Whether an SPDM requester's certificate chain is one the responder accepts (R459). -/
opaque requesterAccepted : Blob → Bool

/-- The certificate chain of a slot, as the responder returns it (R459). -/
opaque certificate : Nat → Blob

/-- The SHA-384 of Tarn's ROM (R490). -/
opaque romDigest : Blob

/-- The bytes of the fields that a measurement block's digest covers, by index; the spec lists the fields and leaves their packing open (R490). -/
opaque measured : Nat → List Nat → List Blob → Blob

/-- The key fused for the monitor's unlock (R632). -/
opaque debugKey : Blob

/-- The bits a conversion leaves open, by what they are for: a NaN pattern of a format, the elements of a NaN block, a block scale out of
range (R315, R316). -/
opaque meltBits : Nat → Nat

/-- The pace Vexzer sets from its own power estimates, 1 to 16 sixteenths (R598): the list of estimates, the limit. -/
opaque pace : List Nat → Nat → Nat

end Sys2Proof.Config
end

