-- ==== Sys2Proof/Machine/Table.lean ====
section
/-! DEFINITION. Sparse tables, byte strings and bit fields: the plain operations every unit uses. -/

namespace Sys2Proof.Machine

open Sys2Proof

variable {α : Type}

/-! ## Sparse tables -/

/-- The entry of a number, if one is listed. -/
def tget? : Tbl α → Nat → Option α
  | [], _ => none
  | (k, v) :: t, n => if k = n then some v else tget? t n

/-- The entry of a number, or the table's default. -/
def tget (t : Tbl α) (d : α) (n : Nat) : α := (tget? t n).getD d

/-- Change one place of a list. -/
def setAt (l : List Nat) (i v : Nat) : List Nat := l.zipIdx.map fun e => if e.2 = i then v else e.1

/-- Set an entry, keeping the numbers strictly rising. -/
def tset : Tbl α → Nat → α → Tbl α
  | [], n, x => [(n, x)]
  | (k, v) :: t, n, x =>
    if n < k then (n, x) :: (k, v) :: t
    else if n = k then (n, x) :: t
    else (k, v) :: tset t n x

/-- Remove an entry. -/
def tdel : Tbl α → Nat → Tbl α
  | [], _ => []
  | (k, v) :: t, n => if k = n then t else (k, v) :: tdel t n

/-- Change the entry of a number if it is listed. -/
def tmod : Tbl α → Nat → (α → α) → Tbl α
  | [], _, _ => []
  | (k, v) :: t, n, f => if k = n then (k, f v) :: t else (k, v) :: tmod t n f

/-- Change the entry of a number, which starts from the default where none is listed. -/
def tupd (t : Tbl α) (d : α) (n : Nat) (f : α → α) : Tbl α := tset t n (f (tget t d n))

/-- Change every listed entry. -/
def tmap (t : Tbl α) (f : Nat → α → α) : Tbl α := t.map fun e => (e.1, f e.1 e.2)

/-- Keep the entries that satisfy a condition. -/
def tfilter (t : Tbl α) (p : Nat → α → Bool) : Tbl α := t.filter fun e => p e.1 e.2

/-- The numbers listed. -/
def tkeys (t : Tbl α) : List Nat := t.map Prod.fst

/-- The numbers whose entries satisfy a condition. -/
def tfind (t : Tbl α) (p : Nat → α → Bool) : List Nat := tkeys (tfilter t p)

/-- Some entry satisfies a condition. -/
def tany (t : Tbl α) (p : Nat → α → Bool) : Bool := t.any fun e => p e.1 e.2

/-- The count of entries that satisfy a condition. -/
def tcount (t : Tbl α) (p : Nat → α → Bool) : Nat := t.countP fun e => p e.1 e.2

/-- The lowest number from `n` up that the table does not list; the numbers are rising (R149). -/
def tfree : Tbl α → Nat → Nat
  | [], n => n
  | (k, _) :: t, n => if k < n then tfree t n else if k = n then tfree t (n + 1) else n

/-! ## Bit fields -/

/-- Bits [hi:lo] of a value (R6). -/
def bits (v hi lo : Nat) : Nat := v / 2 ^ lo % 2 ^ (hi + 1 - lo)

/-- Bit i of a value. -/
def bit (v i : Nat) : Bool := v / 2 ^ i % 2 == 1

/-- 1 for true, 0 for false. -/
def b2n (b : Bool) : Nat := if b then 1 else 0

/-- A value at bit position lo. -/
def at_ (v lo : Nat) : Nat := v * 2 ^ lo

/-- Addition that saturates. -/
def satAdd (a b top : Nat) : Nat := min (a + b) top

/-- The nearest value of a range (R637). -/
def clampTo (lo hi v : Nat) : Nat := max lo (min hi v)

/-- The numbers of the bits set in a mask, below `n`. -/
def maskBits (n mask : Nat) : List Nat := (List.range n).filter fun i => bit mask i

/-- The mask whose bits are the numbers of a list that has no repeats. -/
def bitsMask (l : List Nat) : Nat := l.foldl (fun m i => if bit m i then m else m + 2 ^ i) 0

/-- Round up to a multiple. -/
def roundUp (m v : Nat) : Nat := (v + m - 1) / m * m

/-! ## Byte strings -/

/-- The little-endian value of a byte string (R7). -/
def leVal : Blob → Nat
  | [] => 0
  | b :: t => b.toNat + 256 * leVal t

/-- The `n` bytes of a value, least significant first (R7). -/
def leBytes : Nat → Nat → Blob
  | 0, _ => []
  | n + 1, v => BitVec.ofNat 8 v :: leBytes n (v / 256)

/-- `n` bytes of a byte string from an offset, as a little-endian value. -/
def fld (b : Blob) (off n : Nat) : Nat := leVal ((b.drop off).take n)

/-- `n` bytes of a byte string from an offset; bytes past its end are zero. -/
def slice (b : Blob) (off n : Nat) : Blob :=
  let p := (b.drop off).take n
  p ++ List.replicate (n - p.length) 0

/-- Zero bytes. -/
def zeros (n : Nat) : Blob := List.replicate n 0

/-- Every byte of a range is zero. -/
def zeroAt (b : Blob) (off n : Nat) : Bool := ((b.drop off).take n).all (· == 0)

/-- Cut or fill with zeros to a length. -/
def padTo (n : Nat) (b : Blob) : Blob := slice b 0 n

/-- A signed 16-bit field. -/
def int16 (v : Int) : Nat := (v % 65536).toNat

/-- Cut a byte string into pieces of `n` bytes; `fuel` bounds the pieces. -/
def chunks (n : Nat) : Nat → Blob → List Blob
  | 0, _ => []
  | f + 1, b => if b.isEmpty then [] else b.take n :: chunks n f (b.drop n)

/-- Bytes of characters, for the monitor's text. -/
def asc (s : String) : List Nat := s.toList.map Char.toNat

/-- `n` hexadecimal digits of a value, in upper case, as the manual writes them (R628). -/
def hexDigits : Nat → Nat → List Nat
  | 0, _ => []
  | n + 1, v => hexDigits n (v / 16) ++ [let d := v % 16; if d < 10 then 48 + d else 55 + d]

/-- Decimal digits of a value; `fuel` bounds the digits. -/
def decDigits : Nat → Nat → List Nat
  | 0, _ => []
  | f + 1, v => (if v < 10 then [] else decDigits f (v / 10)) ++ [48 + v % 10]

end Sys2Proof.Machine
end

