-- ==== Sys2Proof/Machine/Float.lean ====
section
/-! DEFINITION. The number formats of R165 as bit patterns, and the FP32 arithmetic of the adapter engine (R370, R371, R377): each
operation takes the exact result and rounds it once, to nearest with ties to even (assumption 11). A NaN result's sign and fraction are free (assumption 3). -/

namespace Sys2Proof.Machine

open Sys2Proof

/-- What a bit pattern stands for: a number is its magnitude times 2^exp. -/
inductive Fp where
  | nan
  | inf (neg : Bool)
  | num (neg : Bool) (man : Nat) (exp : Int)
deriving DecidableEq, Repr

/-! ## Reading formats (R165) -/

/-- Read an IEEE-style pattern: `eb` exponent bits, `mb` fraction bits. -/
def readIeee (eb mb v : Nat) : Fp :=
  let neg := bit v (eb + mb)
  let e := v / 2 ^ mb % 2 ^ eb
  let m := v % 2 ^ mb
  let bias : Int := 2 ^ (eb - 1) - 1
  if e = 2 ^ eb - 1 then (if m = 0 then .inf neg else .nan)
  else if e = 0 then .num neg m (1 - bias - mb)
  else .num neg (2 ^ mb + m) ((e : Int) - bias - mb)

def readF32 (v : Nat) : Fp := readIeee 8 23 v
def readBf16 (v : Nat) : Fp := readIeee 8 7 v
def readE5m2 (v : Nat) : Fp := readIeee 5 2 v

/-- FP8 E4M3: no infinity, and one NaN magnitude. -/
def readE4m3 (v : Nat) : Fp :=
  let neg := bit v 7
  let e := v / 8 % 16
  let m := v % 8
  if e = 15 ∧ m = 7 then .nan
  else if e = 0 then .num neg m (-9)
  else .num neg (8 + m) ((e : Int) - 10)

/-- Multiply by a power of two. -/
def Fp.scale (x : Fp) (k : Int) : Fp :=
  match x with
  | .num n m e => .num n m (e + k)
  | y => y

/-- An MX block scale: a power of two (E8M0). -/
def scaleExp (v : Nat) : Option Int := if v = 255 then none else some ((v : Int) - 127)

/-! ## Rounding -/

/-- Round a magnitude m x 2^e to `p` bits, none below 2^emin, to nearest with ties to even: magnitude and exponent. -/
def roundNear (p : Nat) (emin : Int) (m : Nat) (e : Int) : Nat × Int :=
  if m = 0 then (0, emin)
  else
    let t : Int := max (e + (Nat.log2 m + 1 : Nat) - p) emin
    if t ≤ e then (m * 2 ^ (e - t).toNat, t)
    else
      let d := 2 ^ (t - e).toNat
      let q := m / d
      let r := m % d
      (if d < 2 * r ∨ (d = 2 * r ∧ q % 2 = 1) then q + 1 else q, t)

/-- Lay out a rounded magnitude as an FP32 pattern; too large a one becomes infinity. -/
def packF32 (neg : Bool) (m : Nat) (e : Int) : Nat :=
  let s := b2n neg * 2 ^ 31
  let m1 := if m = 2 ^ 24 then 2 ^ 23 else m
  let e1 := if m = 2 ^ 24 then e + 1 else e
  if m1 < 2 ^ 23 then s + m1
  else if 255 ≤ e1 + 150 then s + 255 * 2 ^ 23
  else s + (e1 + 150).toNat * 2 ^ 23 + (m1 - 2 ^ 23)

/-- The NaN pattern an operation gives: the spec fixes no sign and no fraction for it. -/
def f32Nan : Nat := 0x7F800001 + Config.meltBits 32 % (2 ^ 23 - 1) + Config.meltBits 33 % 2 * 2 ^ 31

/-- The FP32 pattern nearest to a value. -/
def toF32 : Fp → Nat
  | .nan => f32Nan
  | .inf n => b2n n * 2 ^ 31 + 255 * 2 ^ 23
  | .num n m e => let r := roundNear 24 (-149) m e; packF32 n r.1 r.2

/-- Infinite or NaN. -/
def f32Bad (v : Nat) : Bool := v / 2 ^ 23 % 256 == 255

/-! ## FP32 operations -/

/-- The exact sum of two numbers. -/
def fpAdd (a b : Fp) : Fp :=
  match a, b with
  | .nan, _ => .nan
  | _, .nan => .nan
  | .inf n, .inf k => if n = k then .inf n else .nan
  | .inf n, _ => .inf n
  | _, .inf n => .inf n
  | .num n m e, .num k l f =>
    let g := min e f
    let x : Int := (if n then -1 else 1) * ((m * 2 ^ (e - g).toNat : Nat) : Int)
    let y : Int := (if k then -1 else 1) * ((l * 2 ^ (f - g).toNat : Nat) : Int)
    if x + y = 0 then .num (n && k) 0 g else .num (decide (x + y < 0)) (x + y).natAbs g

/-- The exact product. -/
def fpMul (a b : Fp) : Fp :=
  match a, b with
  | .nan, _ => .nan
  | _, .nan => .nan
  | .inf n, .inf k => .inf (n != k)
  | .inf n, .num k m _ => if m = 0 then .nan else .inf (n != k)
  | .num k m _, .inf n => if m = 0 then .nan else .inf (n != k)
  | .num n m e, .num k l f => .num (n != k) (m * l) (e + f)

/-- The quotient to enough bits to be rounded once: 64 quotient bits and a sticky bit. -/
def fpDiv (a b : Fp) : Fp :=
  match a, b with
  | .nan, _ => .nan
  | _, .nan => .nan
  | .inf _, .inf _ => .nan
  | .inf n, .num k _ _ => .inf (n != k)
  | .num n _ _, .inf k => .num (n != k) 0 0
  | .num n m e, .num k l f =>
    if l = 0 then (if m = 0 then .nan else .inf (n != k))
    else
      let w := 64 + Nat.log2 l
      let q := m * 2 ^ w / l
      let r := m * 2 ^ w % l
      .num (n != k) (2 * q + (if r = 0 then 0 else 1)) (e - f - w - 1)

/-- FP32 arithmetic on patterns. -/
def f32Add (a b : Nat) : Nat := toF32 (fpAdd (readF32 a) (readF32 b))
def f32Mul (a b : Nat) : Nat := toF32 (fpMul (readF32 a) (readF32 b))
def f32Div (a b : Nat) : Nat := toF32 (fpDiv (readF32 a) (readF32 b))
def f32Neg (a : Nat) : Nat := if a < 2 ^ 31 then a + 2 ^ 31 else a - 2 ^ 31
def f32Sub (a b : Nat) : Nat := f32Add a (f32Neg b)

/-- a < b on FP32 patterns; false where either is NaN. -/
def f32Lt (a b : Nat) : Bool :=
  match fpAdd (readF32 a) (.num false 0 0), fpAdd (readF32 b) (.num false 0 0) with
  | .nan, _ => false
  | _, .nan => false
  | .inf n, .inf k => n && !k
  | .inf n, _ => n
  | _, .inf n => !n
  | .num n m e, .num k l f =>
    match fpAdd (.num n m e) (.num (!k) l f) with
    | .num neg d _ => neg && d != 0
    | _ => false

/-- The larger of two patterns. -/
def f32Max (a b : Nat) : Nat := if f32Lt a b then b else a

def f32One : Nat := 0x3F800000
def f32NegInf : Nat := 0xFF800000

/-! ## BF16 and FP8 results (R371) -/

/-- Round an FP32 pattern to BF16: to nearest with ties to even, or stochastically with a 16-bit value `u` below the kept bits. -/
def f32ToBf16 (stochastic : Bool) (u v : Nat) : Nat :=
  if v % 2 ^ 31 > 255 * 2 ^ 23 then 0x7F81 + Config.meltBits 34 % 127 + Config.meltBits 35 % 2 * 32768
  else if v % 2 ^ 31 = 255 * 2 ^ 23 then v / 65536
  else if stochastic then (v + u % 65536) / 65536
  else
    let r := v % 65536
    let q := v / 65536
    if 32768 < r ∨ (r = 32768 ∧ q % 2 = 1) then q + 1 else q

/-- Round a value to E4M3's grid, saturating at 448, and give it back as a value (R315, R371). `u` is the 16-bit value of
stochastic rounding, added below the kept bits. -/
def gridE4m3 (stochastic : Bool) (u : Nat) : Fp → Fp
  | .nan => .nan
  | .inf n => .num n 7 6
  | .num n m e =>
    if m = 0 then .num n 0 (-9)
    else
      let r : Nat × Int :=
        if stochastic then
          let t : Int := max (e + (Nat.log2 m + 1 : Nat) - 4) (-9)
          let w := m * 2 ^ (e - t + 16 + 64).toNat / 2 ^ 64
          ((w + u % 65536) / 65536, t)
        else roundNear 4 (-9) m e
      -- 448 = 7 x 2^6
      if 0 ≤ r.2 ∧ 448 < r.1 * 2 ^ r.2.toNat then .num n 7 6 else .num n r.1 r.2

/-- The power of two that scales a block of 32 to E4M3: 2^(floor(log2 amax) - 8) (R315). -/
def blockExp (l : List Fp) : Int :=
  let mags := l.filterMap fun x => match x with
    | .num _ m e => if m = 0 then none else some ((Nat.log2 m : Int) + e)
    | _ => none
  match mags with
  | [] => 0
  | x :: t => t.foldl max x - 8

/-- Convert a row to E4M3 with one scale per 32 elements along it, and give the values that the codes stand for (R370). -/
def rowE4m3 (stochastic : Bool) (us : Nat → Nat) : Nat → Nat → List Fp → List Fp
  | 0, _, _ => []
  | f + 1, i, l =>
    if l.isEmpty then []
    else
      let b := l.take 32
      let k := blockExp b
      (b.zipIdx.map fun e => (gridE4m3 stochastic (us (i + e.2)) (e.1.scale (-k))).scale k) ++
        rowE4m3 stochastic us f (i + 32) (l.drop 32)

/-- Elements of tap data in an activation format: values, from a byte string of `n` elements (R358). -/
def readActs (fmt n : Nat) (b : Blob) : List Fp :=
  if fmt = 8 then (List.range n).map fun i => readBf16 (fld b (2 * i) 2)
  else if fmt = 1 then (List.range n).map fun i => readE4m3 (fld b i 1)
  else if fmt = 2 then (List.range n).map fun i => readE5m2 (fld b i 1)
  else (List.range n).map fun i =>
    let o := 33 * (i / 32)
    match scaleExp (fld b o 1) with
    | some k => (readE4m3 (fld b (o + 1 + i % 32) 1)).scale k
    | none => .nan

/-- Bytes of `n` elements in an activation format: MX blocks of 32 carry a scale byte first (R358). -/
def actBytes (fmt n : Nat) : Nat := if fmt = 8 then 2 * n else if fmt = 3 then n + n / 32 else n

/-- BF16 elements of a byte string. -/
def readBf16s (n : Nat) (b : Blob) : List Fp := (List.range n).map fun i => readBf16 (fld b (2 * i) 2)

/-- A value as a BF16 operand (R370). -/
def bf16Of (v : Fp) : Fp := readBf16 (f32ToBf16 false 0 (toF32 v))

/-! ## Square root, power and exponential (R373, R374, R377)

Each is the exact value rounded once to FP32, as the operations above (assumption 11). -/

/-- The integer part of a square root, two bits at a time; `fuel` bounds the pairs. -/
def isqrt : Nat → Nat → Nat
  | 0, _ => 0
  | f + 1, n =>
    let r := 2 * isqrt f (n / 4)
    if (r + 1) * (r + 1) ≤ n then r + 1 else r

/-- A square root to 64 bits and a sticky bit. -/
def fpSqrt : Fp → Fp
  | .nan => .nan
  | .inf n => if n then .nan else .inf false
  | .num n m e =>
    if m = 0 then .num n 0 0
    else if n then .nan
    else
      let odd := (e % 2).toNat
      let w := m * 2 ^ (128 + odd)
      let r := isqrt (Nat.log2 w / 2 + 1) w
      .num false (2 * r + (if r * r = w then 0 else 1)) ((e - odd) / 2 - 65)

/-- An exact power. -/
def fpPow (a : Fp) (t : Nat) : Fp :=
  match a with
  | .nan => .nan
  | .inf n => .inf (n && t % 2 == 1)
  | .num n m e => .num (n && t % 2 == 1) (m ^ t) (e * t)

/-- Fraction bits of the exponential's fixed point. -/
def expBits : Nat := 640

/-- The Taylor sum of exp(v / 2^640) - the terms before it, from term `n` on; `fuel` bounds the terms. -/
def expTerms (v : Nat) : Nat → Nat → Nat → Nat
  | 0, _, _ => 0
  | f + 1, n, term => term + expTerms v f (n + 1) (term * v / 2 ^ expBits / (n + 1))

/-- Square a fixed-point value `n` times. -/
def expSquares : Nat → Nat → Nat
  | 0, v => v
  | n + 1, v => expSquares n (v * v / 2 ^ expBits)

/-- exp(m x 2^e) in fixed point, for a magnitude below 256: a 256th of it goes through the Taylor sum, and the sum is squared eight times. -/
def expFixed (m : Nat) (e : Int) : Nat :=
  let k : Int := e + expBits - 8
  let v := if 0 ≤ k then m * 2 ^ k.toNat else m / 2 ^ (-k).toNat
  expSquares 8 (expTerms v 128 0 (2 ^ expBits))

/-- The exponential, to far more bits than FP32 holds; only that of 0 is exact, so its last bit is a sticky one. -/
def fpExp : Fp → Fp
  | .nan => .nan
  | .inf n => if n then .num false 0 0 else .inf false
  | .num n m e =>
    if m = 0 then .num false 1 0
    else if 8 ≤ e ∨ 256 ≤ m / 2 ^ (-e).toNat then (if n then .num false 0 0 else .inf false)
    else
      let x := expFixed m e
      if n then .num false (2 * (2 ^ (2 * expBits) / x) + 1) (-(expBits : Int) - 1)
      else .num false (2 * x + 1) (-(expBits : Int) - 1)

/-- FP32 functions on patterns. -/
def f32Sqrt (a : Nat) : Nat := toF32 (fpSqrt (readF32 a))
def f32Pow (a t : Nat) : Nat := toF32 (fpPow (readF32 a) t)
def f32Exp (a : Nat) : Nat := toF32 (fpExp (readF32 a))

/-! ## Sums and products (R370, R372) -/

/-- Take the element at a place out of a list. -/
def takeAt : Nat → List Nat → Nat × List Nat
  | _, [] => (0, [])
  | 0, x :: t => (x, t)
  | n + 1, x :: t => let r := takeAt n t; (r.1, x :: r.2)

/-- Sum FP32 values in the order that a number picks: two of them are replaced by their FP32 sum until one is left. Every order and grouping of
the additions is one number's; `fuel` bounds the additions. -/
def sumPicked : Nat → Nat → List Nat → Nat
  | _, _, [] => 0
  | _, _, [x] => x
  | 0, _, x :: _ => x
  | f + 1, n, l =>
    let a := takeAt (n % l.length) l
    let b := takeAt (n / l.length % a.2.length) a.2
    sumPicked f (n / (l.length * a.2.length)) (f32Add a.1 b.1 :: b.2)

/-- An FP32 sum, in an order that the spec leaves open: that of a free value (R372, assumption 3). -/
def sumF32 (d : Nat) (l : List Nat) : Nat := sumPicked l.length (Config.free d) l

/-- FP32 products of two rows, each rounded to FP32. -/
def products (a b : List Fp) : List Nat := (a.zip b).map fun p => toF32 (fpMul p.1 p.2)

end Sys2Proof.Machine
end

