-- ==== Sys2Proof/Machine/Aes.lean ====
section
/-! DEFINITION. AES-256-GCM (FIPS 197, NIST SP 800-38D), which the spec names for state blobs, wrapped adapters and Glaze (R233, R465, R468). -/

namespace Sys2Proof.Machine

open Sys2Proof

/-! ## The field of the cipher -/

/-- Multiply by x in the field of AES. -/
def xtime (a : Byte) : Byte := (a <<< 1) ^^^ (if a.getLsbD 7 then 0x1B else 0)

/-- The product of two elements; `n` counts the bits of the second. -/
def gfMul : Nat → Byte → Byte → Byte
  | 0, _, _ => 0
  | n + 1, a, b => (if b.getLsbD 0 then a else 0) ^^^ gfMul n (xtime a) (b >>> 1)

/-- The inverse of an element: its 254th power. -/
def gfInv (a : Byte) : Byte :=
  let m := gfMul 8
  let a2 := m a a
  let a4 := m a2 a2
  let a8 := m a4 a4
  let a16 := m a8 a8
  let a32 := m a16 a16
  let a64 := m a32 a32
  m (m (m (m (m (m a2 a4) a8) a16) a32) a64) (m a64 a64)

/-- The substitution of one byte. -/
def subByte (a : Byte) : Byte :=
  let b := gfInv a
  b ^^^ b.rotateLeft 1 ^^^ b.rotateLeft 2 ^^^ b.rotateLeft 3 ^^^ b.rotateLeft 4 ^^^ 0x63

/-! ## AES-256 -/

/-- Exclusive or of byte strings. -/
def xorBytes (a b : Blob) : Blob := a.zipWith (· ^^^ ·) b

/-- Extend the key schedule by a word, newest first; `i` is the word's number. -/
def nextWord (i : Nat) (w : List Blob) : Blob :=
  let t := w.getD 0 []
  let u := if i % 8 = 0 then xorBytes ((t.drop 1 ++ t.take 1).map subByte) [Nat.repeat xtime (i / 8 - 1) 1, 0, 0, 0]
           else if i % 8 = 4 then t.map subByte else t
  xorBytes (w.getD 7 []) u

/-- The words of the key schedule, newest first; `n` words are to be added from word `i` on. -/
def expandKey : Nat → Nat → List Blob → List Blob
  | 0, _, w => w
  | n + 1, i, w => expandKey n (i + 1) (nextWord i w :: w)

/-- The 15 round keys of a 32-byte key. -/
def roundKeys (key : Blob) : List Blob :=
  let w := (expandKey 52 8 (chunks 4 8 (padTo 32 key)).reverse).reverse
  (List.range 15).map fun i => ((w.drop (4 * i)).take 4).flatten

/-- Rotate the rows of the state, which is held column by column. -/
def shiftRows (b : Blob) : Blob := (List.range 16).map fun i => b.getD ((i / 4 + i % 4) % 4 * 4 + i % 4) 0

/-- Mix one column. -/
def mixColumn (c : Blob) : Blob :=
  (List.range 4).map fun i =>
    let a (k : Nat) : Byte := c.getD ((i + k) % 4) 0
    xtime (a 0) ^^^ (xtime (a 1) ^^^ a 1) ^^^ a 2 ^^^ a 3

/-- The rounds of AES over a block; the last has no column mixing. -/
def aesRounds : List Blob → Blob → Blob
  | [], b => b
  | [k], b => xorBytes (shiftRows (b.map subByte)) k
  | k :: t, b => aesRounds t (xorBytes ((chunks 4 4 (shiftRows (b.map subByte))).flatMap mixColumn) k)

/-- AES-256 of one block under its round keys. -/
def aesBlock (ks : List Blob) (b : Blob) : Blob :=
  match ks with
  | k :: t => aesRounds t (xorBytes b k)
  | [] => b

/-! ## GCM -/

/-- The value of a block, first byte most significant. -/
def beVal (b : Blob) : Nat := b.foldl (fun a x => a * 256 + x.toNat) 0

/-- The `n` bytes of a value, most significant first. -/
def beOf (n v : Nat) : Blob := (leBytes n v).reverse

/-- The product of GHASH, bit 0 of a block being its most significant; `n` counts the bits left of `x`. -/
def ghashMul (x : Nat) : Nat → Nat → Nat → Nat
  | 0, _, z => z
  | n + 1, v, z =>
    let z1 := if bit x n then Nat.xor z v else z
    let v1 := if v % 2 = 1 then Nat.xor (v / 2) (0xE1 * 2 ^ 120) else v / 2
    ghashMul x n v1 z1

/-- GHASH of a byte string of whole blocks. -/
def ghash (h : Nat) (b : Blob) : Nat :=
  (chunks 16 (b.length / 16) b).foldl (fun y x => ghashMul (Nat.xor y (beVal x)) 128 h 0) 0

/-- Fill a byte string to whole blocks. -/
def blocksOf (b : Blob) : Blob := padTo (roundUp 16 b.length) b

/-- Counter-mode encryption from a counter on. -/
def gctr (ks : List Blob) (nonce : Blob) (b : Blob) : Blob :=
  (chunks 16 (b.length / 16 + 1) b).zipIdx.flatMap fun e => xorBytes e.1 (aesBlock ks (nonce ++ beOf 4 (e.2 + 2)))

/-- The tag over additional data and ciphertext. -/
def gcmTag (ks : List Blob) (nonce aad c : Blob) : Blob :=
  let h := beVal (aesBlock ks (zeros 16))
  let y := ghash h (blocksOf aad ++ blocksOf c ++ beOf 8 (8 * aad.length) ++ beOf 8 (8 * c.length))
  xorBytes (beOf 16 y) (aesBlock ks (nonce ++ beOf 4 1))

/-- The ciphertext and the 16-byte tag of a clear text under a 32-byte key and a 12-byte nonce. -/
def gcmSeal (key nonce aad clear : Blob) : Blob :=
  let ks := roundKeys key
  let c := gctr ks nonce clear
  c ++ gcmTag ks nonce aad c

/-- The clear text of a ciphertext with its tag, none where the tag does not verify. -/
def gcmOpen (key nonce aad b : Blob) : Option Blob :=
  let ks := roundKeys key
  let n := b.length - 16
  let c := b.take n
  if b.length < 16 ∨ gcmTag ks nonce aad c ≠ b.drop n then none else some (gctr ks nonce c)

end Sys2Proof.Machine
end

