-- ==== Sys2Proof/Machine/State.lean ====
section
/-! DEFINITION. The state of the block: every register, queue, ring, table, buffer, mode and pin the spec
names, as plain data, one structure per unit; `State.reset` is the block at the release of a cold block reset
(R82, R621). A field's value after its colon-equals is its reset value. INVENTORY.md lists each field with
its rule. -/

namespace Sys2Proof.Machine

open Sys2Proof

/-- The model never stops with a fault: the spec gives the block's own errors an effect (a status, an event, a
reset record, a halt), and those are next states. The type has the one constructor a stop would carry. -/
inductive Fault where
  /-- Raised by no meaning. Safe: no run ends in it. -/
  | none
deriving DecidableEq, Repr

/-- Why a command has no meaning. -/
inductive Refusal where
  /-- Raised only by an arm of `exec` whose command has no meaning yet. Safe: nothing is claimed of it. -/
  | notModelled (mnemonic : String)
deriving DecidableEq, Repr

/-! ## Status codes and events -/

/-- Status codes (R195, R196). -/
inductive Status where
  | success | invalidOpcode | invalidField | invalidHandle | invalidContext | invalidVariant | invalidImage
  | invalidPool | classNotPermitted | notPermitted | generationMismatch | notReady | busy | busyQuiescing
  | topologyNotCommitted | topologyLocked | topologyInvalid | versionConflict | variantSealed | variantNotSealed
  | variantImageMismatch | poolConfigMismatch | capabilityMismatch | cqStillBroken | outOfMemory | noContextId
  | noHandle | noPoolId | variantLimit | hostAccessFailed | rightsViolation | faultAborted | frameKeyDenied
  | memoryUncorrectable | remoteUnreachable | timeout | timeoutKilled | contextReset | retryNeighbourReset
  | tileError | outOfService | authFailed | integrityUnverifiable | keyUnavailable | signatureInvalid
  | basePoisoned | shardMissing | shardCorrupt | imageNotStaged | manifestInvalid
deriving DecidableEq, Repr

/-- Event codes (R196). -/
inductive Event where
  | doorbellInvalid | sqFetchFailed | cqBroken | faultPosted | hotPage | resetRecord | engineFenced
  | blockOutOfService | imagePoisoned | linkDown | checkpointWritten
deriving DecidableEq, Repr

/-- An event waiting for a slot of an admin CQ (R122, R123). -/
structure PendEvent where
  code  : Event
  param : Nat
  time  : Nat
deriving DecidableEq, Repr

/-! ## Pins, supply and power -/

/-- The boundary signals of R79 and the controls of R62, R74, R76 and R525, as levels; `byp` is the level
Vexzer drives on each VX_BYP_OPEN, `scan` the boundary-scan cells while a test mode drives them (R85). -/
structure Pins where
  pwrGood : Bool := true
  droopN : Bool := true
  holdupN : Bool := true
  pwrbrakeN : Bool := true
  coldRstN : Bool := true
  rstN : Bool := true
  byp : BitVec 18 := 0
  scan : Option (BitVec 18) := none
  vddSel : BitVec 2 := 0
  retEn : Bool := false
  haltN : Bool := true
  phyRstN : BitVec 36 := 0
  tpRstN : BitVec 32 := 0xFFFFFFFF
  holdupSeen : Bool := false
  droopSeen : Bool := false
deriving DecidableEq, Repr

/-- The power states as VX_PWR_STATUS.state codes them (R582, R604). -/
inductive PwrSt where
  | active | chill | freeze | permafrost | entering | waking
deriving DecidableEq, Repr

/-- Power registers and the supply monitor (R582 to R604). -/
structure Power where
  st : PwrSt := .active
  target : PwrSt := .active
  ret : PwrSt := .active
  holdup : Bool := false
  cut : Bool := false
  /-- hold by VX_VDD below 0.60 V (R593) -/
  brownout : Bool := false
  /-- hold by a fall of VX_PWR_GOOD (R594) -/
  goodHold : Bool := false
  droopPace : Bool := false
  droopHigh : Option Nat := none
  holdupHigh : Option Nat := none
  /-- a fall of VX_HOLDUP_N seen during an entry or exit, still to be acted on (R602) -/
  holdupDue : Bool := false
  brake : Bool := false
  limitPace : Nat := 16
  limitW : Nat := 150
  emergencyW : Nat := 60
  wakeAt : Nat := 0
  pacedNs : Nat := 0
  brownouts : Nat := 0
  holdups : Nat := 0
  wakes : Nat := 0
  droops : Nat := 0
  estimates : List Nat := []
  /-- the supply that holds the block in reset, and the threshold it must pass by 20 mV (R592) -/
  monitorReset : Option (Rail × Nat) := none
  /-- engines whose SRAM assist is relaxed (R584) -/
  relaxed : List Nat := []
  /-- accesses that wait at the host port for the stages to run, oldest first (R588, R590, R593) -/
  delayed : List Instr := []
  /-- the order number of the last completion reached before the ledger cut was lifted (R603) -/
  lifted : Nat := 0
  /-- rings to join again on the return to Active (R577) -/
  rejoin : List Nat := []
  /-- wake latches of sources 48 to 50 (R587, R615) -/
  wakeLatch : Option WakeSrc := none
  /-- timebase nanoseconds spent in Freeze, Permafrost or brownout hold, which no stall limit counts (R517) -/
  heldNs : Nat := 0
deriving DecidableEq, Repr

/-! ## Register access at the host port -/

/-- What 4-byte accesses left behind for a function (R56): the high half that a low read of a register captured, by register,
and the low half a low write holds. -/
structure Halves where
  captured : List (Space × Nat × Nat) := []
  held : Option (Space × Nat × Nat) := none
deriving DecidableEq, Repr

/-- What Vexzer sends through the host port, oldest first: memory writes with their requester, reads it
issues, MSI-X messages, and completions of host reads and configuration requests. -/
inductive HostTx where
  | write (fn addr : Nat) (data : Blob)
  | read (fn addr len : Nat)
  | msix (fn vector : Nat)
  | readData (value : Nat)
  | completerAbort
  | cfgData (value : Nat)
  | cfgRetry
  | doe (fn : Nat) (data : Blob)
deriving DecidableEq, Repr

/-- A packet Vexzer sends down a tile port (R65, R66); `DownPkt.beats` gives its beats. -/
structure DownPkt where
  port : Nat
  cls : Nat
  typ : Nat
  index : Nat
  tag : Nat
  ctx : Nat
  payload : Blob
deriving DecidableEq, Repr

/-- What Vexzer has put on its ports, oldest first, not yet taken by the neighbour (the model's own record of
its outputs), the UART's transmit characters, and the count of unoccupied accesses (R18). -/
structure Ports where
  host : List HostTx := []
  tile : List DownPkt := []
  /-- credit returned in the up direction: port, class and beats, as CRD_CLS and CRD_CNT carry them (R62, R64) -/
  credits : List (Nat × Nat × Nat) := []
  floe : List (Nat × FloeMsg) := []
  /-- Floe frames sent: link and the 256 bytes; `laneWords` gives the words of its lanes -/
  frames : List (Nat × Blob) := []
  uart : List Nat := []
  halves : Tbl Halves := []
  unmapped : Nat := 0
deriving DecidableEq, Repr

/-! ## Functions -/

/-- The registers that R49's capabilities give a function's configuration space (assumption 191): Max_Payload_Size and Max_Read_Request_Size as
their fields code them, Advanced Error Reporting, the PTM requester's enable, and PF0's SR-IOV control. -/
structure CfgRegs where
  payload : Nat := 0
  readReq : Nat := 2
  uncStatus : BitVec 32 := 0
  uncMask : BitVec 32 := 0
  uncSeverity : BitVec 32 := 0x00462030
  corStatus : BitVec 32 := 0
  corMask : BitVec 32 := 0x00002000
  ptmEnable : Bool := false
  vfControl : BitVec 16 := 0
  numVfs : Nat := 0
  vfPageSize : Nat := 1
deriving DecidableEq, Repr

/-- The Max_Payload_Size in bytes, and the Max_Read_Request_Size. -/
def CfgRegs.payloadBytes (c : CfgRegs) : Nat := 128 * 2 ^ c.payload
def CfgRegs.readBytes (c : CfgRegs) : Nat := 128 * 2 ^ c.readReq

/-- Function states (R199). -/
inductive FnPhase where
  | disabled | enabling | enabled | quiescing | resetting
deriving DecidableEq, Repr

/-- One MSI-X table entry and its pending bit (R49, R54, R58). -/
structure MsixVec where
  addr : Nat := 0
  data : Nat := 0
  masked : Bool := true
  pending : Bool := false
deriving DecidableEq, Repr

/-- A written-page log (R227 to R231). -/
structure Wplog where
  active : Bool := false
  overflow : Bool := false
  flushDone : Bool := false
  flushing : Bool := false
  base : Nat := 0
  entries : Nat := 0
  head : Nat := 0
  tail : Nat := 0
  filter : List Nat := []
  /-- the WPLOG_CTL stop that waits for the flush -/
  stopper : Option Nat := none
deriving DecidableEq, Repr

/-- What a function is: its state and generation, its configuration registers, MSI-X table, park use, log,
and the admin commands that wait for one of its transitions (R86 to R146, R199 to R239). -/
structure Fn where
  phase : FnPhase := .disabled
  generation : Nat := 0
  moraine : Nat := 0
  qBase : Nat := 0
  qCount : Nat := 0
  classes : Nat := 7
  parkCap : Nat := 64
  drainUs : Nat := 50
  timeoutUs : Nat := 10000000
  parkG : Nat := 0
  parkS : Nat := 0
  fetchStopped : Bool := false
  clusters : Nat := 0
  /-- mode from the next enable, as VX_FN_CONFIG shows it -/
  vx1Next : Bool := false
  vx1 : Bool := false
  runahead : Nat := 8
  maxPages : Nat := 0
  wplog : Wplog := {}
  msixEnable : Bool := false
  msixMask : Bool := false
  vectors : Tbl MsixVec := []
  d3 : Bool := false
  cfgRegs : CfgRegs := {}
  events : List PendEvent := []
  /-- FN_ENABLE commands that wait or were joined, in Tarn's order (R201, R206, R207) -/
  enablers : List Nat := []
  /-- FN_QUIESCE commands of the quiesce in progress (R201, R205) -/
  quiescers : List Nat := []
  /-- FN_RESET commands of the reset in progress (R201, R214) -/
  resetters : List Nat := []
  /-- FN_QUIESCE and FN_RESET commands that wait for Enabled or for a reset's end -/
  afterwards : List Nat := []
  /-- its reset has begun to tear down its objects: its mappings are gone and their invalidations are on the fabric (R214 step 5) -/
  tearing : List Nat := []
  /-- the function was Enabled when its reset began -/
  wasEnabled : Bool := false
  /-- the restart receipt of this block reset has been appended (R510) -/
  restarted : Bool := false
  /-- VX1 moves: HBM frames in order of entry, and when the last move began (R282) -/
  vx1Frames : List Nat := []
  vx1LastMove : Option Nat := none
deriving DecidableEq, Repr

/-! ## Queues, commands and completions -/

/-- A completion or event entry (R118, R122). `intNow` is the SQE's flag and is no byte of the entry. -/
structure Cqe where
  faults : Nat := 0
  event : Bool := false
  replayed : Bool := false
  marginSat : Bool := false
  boundLayers : Nat := 0
  minMargin : Int := 0
  preemptions : Nat := 0
  queuedNs : Nat := 0
  endTime : Nat := 0
  startTime : Nat := 0
  generation : Nat := 0
  sqHead : Nat := 0
  status : Nat := 0
  commandId : Nat := 0
  intNow : Bool := false
deriving DecidableEq, Repr

/-- A parked completion: the entry and whether its park entry is a guaranteed one (R137). -/
structure Parked where
  cqe : Cqe
  guaranteed : Bool
deriving DecidableEq, Repr

/-- An SQE fetched and waiting for admission: its bytes, SQ_HEAD after it, and when the doorbell that exposed it
was captured (R105, R118). -/
structure Fetched where
  sqe : Blob
  headAfter : Nat
  capture : Nat
deriving DecidableEq, Repr

/-- One queue pair: attributes (R90), doorbell block (R93), fetch, burst, replay (R102 to R142). -/
structure Queue where
  fn : Nat
  admin : Bool := false
  sqBase : Nat := 0
  cqBase : Nat := 0
  depth : Nat := 2
  cls : Nat := 0
  inflightMax : Nat := 1
  vector : Nat := 0
  intCount : Nat := 1
  intTime : Nat := 0
  sqHead : Nat := 0
  sqTail : Nat := 0
  cqHead : Nat := 0
  cqTail : Nat := 0
  phase : Bool := true
  dbError : Bool := false
  sqBroken : Bool := false
  cqBroken : Bool := false
  mask : Bool := false
  /-- capture time of each entry that is exposed and not yet fetched -/
  exposed : List Nat := []
  /-- entries of the fetch read in flight -/
  fetching : Nat := 0
  /-- fetching stopped while that read was out: its entries stay in the ring (R104, R205) -/
  fetchDead : Bool := false
  fetched : List Fetched := []
  /-- entries taken from the SQ and not yet admitted hold their CQ slots too -/
  unsignalled : Nat := 0
  unsigSince : Option Nat := none
  /-- CQEs of the burst whose confirming read has not returned, with its first slot -/
  burst : List Cqe := []
  burstStart : Nat := 0
  burstPhase : Bool := true
  /-- confirming reads still out whose entries have gone back to the park -/
  deadReads : Nat := 0
  /-- slots with event entries that the driver has not consumed (R102, R123) -/
  eventSlots : List Nat := []
  parked : List Parked := []
  held : List Cqe := []
  /-- the admission number of the last entry admitted from the SQ, 0 for none (R110) -/
  lastNo : Nat := 0
  /-- a replay in progress: the CQ_RESUME command, or none for CIRQ_ADMIN_RESUME -/
  replay : Option (Option Nat) := none
  /-- the replay's confirming read of the first slot has returned -/
  replayOn : Bool := false
  /-- the replay's confirming read of the first slot is out, behind this many other reads of the CQ (R141) -/
  firstRead : Option Nat := none
deriving DecidableEq, Repr

/-- Where a command record stands. -/
inductive Stage where
  /-- admitted and waiting for its predecessor or for a free place (R110) -/
  | accepted
  /-- dispatched to its Serac units, Glaze, Snowpack or Tarn -/
  | dispatched
  /-- begun: tiles may issue, or Tarn runs it -/
  | running
  /-- its last work item is done, or Tarn reported its end: the completion arbiter may take it (R108) -/
  | ended
  /-- taken by the completion arbiter; its receipt is due (R493) -/
  | completed
  /-- its receipt is appended, or it has none; its CQE is due -/
  | receipted
deriving DecidableEq, Repr

/-- How far Tarn's journal says an admin command is (R608). -/
inductive Journal where
  | notBegun | handedOver | committed
deriving DecidableEq, Repr

/-- A variant as a command's acceptance saw it (R357, R496). -/
structure VarSnap where
  id : Nat
  rev : Nat
  digestRev : Nat
  digest : Blob
deriving DecidableEq, Repr

/-- A batch entry (R175). -/
structure BatchEnt where
  seq : Nat
  variant : Nat
  tokens : Nat
  input : Nat
deriving DecidableEq, Repr

/-- A leaf of a context's mirrored tables (R250's entry table): VA of the page, size code, DPA fields and rights. -/
structure Leaf where
  va : Nat
  size : Nat
  node : Nat
  tier : Nat
  offset : Nat
  key : Nat
  prot : Nat
  rd : Bool
  wr : Bool
  atomic : Bool
  alloc : Nat
deriving DecidableEq, Repr

/-- A translation slot (R253): the first leaf of a run with its run field, or a hole, whose valid bit is 0. -/
inductive Slot where
  | run (leaf : Leaf) (n : Nat)
  | hole
deriving DecidableEq, Repr

/-- A pre-translated descriptor (R252, R253): one span of one buffer and its one to four slots. Its record, its context and the descriptor
after it are those of the command that holds it (`State.descBytes`). -/
structure Desc where
  buffer : Nat
  access : Nat
  va : Nat
  len : Nat
  epoch : Nat
  stale : Bool := false
  slots : List Slot := []
deriving DecidableEq, Repr

/-- A page of a sequence: its tier and its offset in the tier, in pages of 256 KiB (R433's page entry). -/
structure Page where
  tier : Nat
  page : Nat
deriving DecidableEq, Repr

/-- A tile still to be issued on a cluster: its node's place in the graph version and its index in the node's
tile table (R396). -/
structure TileRef where
  node : Nat
  tile : Nat
deriving DecidableEq, Repr

/-- A command record (R109): who sent what, when, what it pinned, how far it is, and what its CQE and receipt
will say. -/
structure Cmd where
  q : Nat
  fn : Nat
  gen : Nat
  sqe : Blob
  opcode : Nat := 0
  cls : Nat := 0
  ctx : Nat := 0
  sqHead : Nat := 0
  capture : Nat := 0
  accept : Nat := 0
  deadline : Nat := 0
  admin : Bool := false
  stage : Stage := .accepted
  /-- its admission number, and that of the entry admitted before it from the same SQ (R110) -/
  no : Nat := 0
  prevNo : Nat := 0
  seqno : Nat := 0
  start : Option Nat := none
  endT : Nat := 0
  /-- status decided and not yet completed: the command drains (R129, R639) -/
  decided : Option Status := none
  window : Option Nat := none
  status : Status := .success
  handle : Nat := 0
  graphVer : Nat := 0
  image : Nat := 0
  imageVer : Nat := 0
  /-- the digest of the pinned version, for its receipt (R496) -/
  imageDigest : Blob := []
  variants : List VarSnap := []
  batch : List BatchEnt := []
  descs : List Desc := []
  pool : Nat := 0
  quantumUs : Nat := 0
  faults : Nat := 0
  preempts : Nat := 0
  quanta : Nat := 0
  issueOrder : Nat := 0
  /-- the block-wide count of its first turn, and whether a weight stream ran for it (R494) -/
  firstTurn : Nat := 0
  /-- its sequences have taken their tokens at the commit of its update (R450) -/
  tookTokens : Bool := false
  ran : Bool := false
  order : Nat := 0
  minMargin : Option Int := none
  /-- the (layer, pass) pairs found stream-bound (R327, R328) -/
  bound : List (Nat × Nat) := []
  /-- the clusters and passes whose weight stream has been started (R320) -/
  streamed : List (Nat × Nat) := []
  /-- clusters on which it has issued a work item (R538) -/
  issuedOn : List Nat := []
  /-- tiles left to issue, by cluster -/
  tiles : Tbl (List TileRef) := []
  /-- the step names a sequence and is not yet provisioned (R438) -/
  waitProv : Bool := false
  /-- pages reserved for the waiting step, each with the sequence it is for (R442) -/
  reserved : List (Nat × Page) := []
  /-- the step table: tokens of each batch entry's sequence before and after the step (R436) -/
  stepTab : List (Nat × Nat) := []
  /-- bytes that arrived from other chips for its tiles, by remote address (R571) -/
  remoteData : List (Nat × Blob) := []
  /-- remote requests of its tiles that wait for a tag, for their granule, or for the bytes around a partial write (R569) -/
  remoteOut : List MemReq := []
  /-- released to Serac by a pass (R442) -/
  provisioned : Bool := false
  backward : Bool := false
  updating : Bool := false
  updated : Bool := false
  skipped : Bool := false
  refused : Bool := false
  journal : Journal := .notBegun
  result : Blob := []
  /-- who reports the command's end: a Serac unit, or 32 for Tarn (R108, R114) -/
  unit : Nat := 32
  /-- Tarn waits for a unit, a drain or another command: nothing else of the command is due -/
  parked : Bool := false
deriving DecidableEq, Repr

/-- Cirque: registers of R145, the free park entries, arbiters (R114), and the order counter of accepted
commands. -/
structure Cirque where
  rtPct : Nat := 0
  sharedFree : Nat := 8192
  dbReject : Nat := 0
  adminCqBroken : Bool := false
  /-- class slot of the fetch frame, 0 to 7, and for each class the queue ID after the last one granted -/
  fetchSlot : Nat := 0
  fetchLast : List Nat := [0, 0, 0]
  /-- where the round robins of the completion arbiter and of the CQE writes go on (R114) -/
  compLast : Nat := 0
  cqeLast : Nat := 0
  accepts : Nat := 0
  /-- entries admitted since reset -/
  admits : Nat := 0
deriving DecidableEq, Repr

/-! ## Configuration epochs and the topology table -/

/-- What a configuration epoch changes (R159, R220). -/
inductive CfgItem where
  | rtReserve (pct : Nat) | fnClusters (fn mask : Nat) | fnMode (fn : Nat) (vx1 : Bool) | stallLimit (us : Nat)
  | hotThreshold (n : Nat) | cleaveBound (us : Nat) | links (data : Blob) | peers (data : Blob)
deriving DecidableEq, Repr

/-- A staged change: its epoch, what it changes, the engines that have adopted it, and the command that waits. -/
structure Staged where
  epoch : Nat
  item : CfgItem
  adopted : List Nat := []
  cmd : Option Nat := none
  /-- when it was staged, with the time then held (R223) -/
  at_ : Nat := 0
  heldAt : Nat := 0
deriving DecidableEq, Repr

/-- Configuration epochs (R219 to R225) and the items' values in effect (R159). -/
structure Cfg where
  epoch : Nat := 0
  done : Nat := 0
  staged : List Staged := []
  /-- changes past the eighth, waiting for a place (R222) -/
  waiting : List Staged := []
  stallUs : Nat := 2000
  hotThreshold : Nat := 65535
  cleaveUs : Nat := 10
  /-- RT_RESERVE of the last completed epoch -/
  rtPct : Nat := 0
  /-- the changes by epoch, newest first, as far back as a request tagged with an earlier epoch needs them (R221) -/
  past : List (Nat × CfgItem) := []
deriving DecidableEq, Repr

/-- The topology table (R160 to R164): the bytes of each section written, and whether it is committed. -/
structure Topo where
  clusters : Option Blob := none
  memory : Option Blob := none
  links : Option Blob := none
  peers : Option Blob := none
  committed : Bool := false
deriving DecidableEq, Repr

/-! ## Contexts and Serac -/

/-- A part of a tile's span as it is translated when the tile issues (R253, R264, R435, R436): bytes under a leaf, bytes of a hole, bytes
clipped, and bytes of the step table. -/
inductive Piece where
  | hit (leaf : Leaf) (va len : Nat)
  | hole (va len : Nat)
  | clip (len : Nat)
  | table (off len : Nat)
deriving DecidableEq, Repr

/-- A work item in flight on a tile port (R397). `out` is the translation of its write spans. -/
structure Work where
  tag : Nat
  cmd : Nat
  ctx : Nat
  node : Nat
  tile : Nat
  /-- its state was saved with its context (R410) -/
  saved : Bool := false
  /-- payload taken so far of a DONE that spans packets (R398) -/
  got : Blob := []
  out : List Piece := []
  /-- the configuration epoch it carries (R221) -/
  epoch : Nat := 0
deriving DecidableEq, Repr

/-- A save area of a context on a cluster (R411, R412): what the last save holds. -/
structure SaveArea where
  valid : Bool := false
  kind : Nat := 0
  cleave : Nat := 0
  layer : Nat := 0
  pass : Nat := 0
  total : Nat := 0
  endTime : Nat := 0
  /-- which of the cluster's 24 areas it is (R389) -/
  index : Nat := 0
  /-- the scratchpad offset and the length of each part of the save, in the order in which the area holds them -/
  chunks : List (Nat × Nat) := []
  /-- Serac's issue position recorded with the save: the tiles then left (R539) -/
  position : Tbl (List TileRef) := []
  /-- the work items in progress whose state it holds (R410) -/
  works : List Work := []
deriving DecidableEq, Repr

/-- A context (R171, R387 to R421) with its mirrored tables (R245) and translation epoch (R260). -/
structure Ctx where
  fn : Nat
  clusters : Nat
  image : Nat
  prio : Nat := 0
  pool : Nat := 0
  cls : Nat := 0
  leaves : List Leaf := []
  /-- VA ranges under a table page that read uncorrectable: first address and length (R257) -/
  badTables : List (Nat × Nat) := []
  epoch : Nat := 0
  resident : Bool := false
  residentSince : Nat := 0
  blockedSince : Nat := 0
  /-- waiting for residency since (R416), and aged (R418) -/
  waitSince : Option Nat := none
  aged : Bool := false
  saves : Tbl SaveArea := []
  /-- its slot states in the context backing, one for each cluster of its set (R390) -/
  backing : List Nat := []
  resetting : Bool := false
  /-- clusters that have not answered PREEMPT mode 2 (R522) -/
  resetWait : List Nat := []
  resetStart : Nat := 0
  /-- the time held at the start of its reset (R591, R593) -/
  resetHeld : Nat := 0
  resetCmd : Option Nat := none
  resetRecord : Option Nat := none
  /-- sequences named by its last step that completed SUCCESS (R441) -/
  lastSeqs : List Nat := []
deriving DecidableEq, Repr

/-- The turn in progress on a Serac unit (R401 to R405). `ctx` is none for an idle reserved turn. -/
structure Turn where
  /-- its number in Ledger's count of turns (R494) -/
  no : Nat := 0
  ctx : Option Nat
  start : Nat
  quantumNs : Nat
  reserved : Bool
  pool : Bool := false
deriving DecidableEq, Repr

/-- A PREEMPT that has not been answered by SAVE_END (R408 to R414). -/
structure Preempt where
  ctx : Nat
  mode : Nat
  sentAt : Nat
  bound : Nat
  reached : Option (Nat × Nat) := none
  seq : Nat := 0
  bytes : Nat := 0
deriving DecidableEq, Repr

/-- A restore in progress: the context and the chunks still to send (R411). -/
structure Restore where
  ctx : Nat
  seq : Nat := 0
  /-- the parts still to send: scratchpad offset, place in the save area, length -/
  left : List (Nat × Nat × Nat) := []
deriving DecidableEq, Repr

/-- One step of a weight stream: a chunk of a tile's bytes with the NaN blocks of its tile, or the end of a layer (R320 to R324). -/
inductive StreamItem where
  | block (layer tensor tile offset fmt nans : Nat) (bytes : Blob)
  | layerEnd (layer tensors bytes : Nat)
deriving DecidableEq, Repr

/-- The weight stream of the command whose tiles run on a cluster (R320 to R329). -/
structure Stream where
  ctx : Nat
  cmd : Nat
  tag : Nat
  pass : Nat
  image : Nat
  imageVer : Nat
  items : List StreamItem := []
  /-- the first block of its present layer has been ready: the layer's span has begun (R327) -/
  begun : Bool := false
  blocked : Nat := 0
  starved : Nat := 0
  restarted : Bool := false
  /-- the repair that the stream waits for (R335) -/
  stall : Option Nat := none
  /-- items at its front that stand in Melt's staging buffer, ahead of the cluster's credits (R325) -/
  ahead : Nat := 0
deriving DecidableEq, Repr

/-- A Serac unit with its tile port (R387 to R415, R424): slots by index to context ID, turns, switch, work items,
credits (beats held by Vexzer toward the cluster, and granted to it), stream. -/
structure SUnit where
  slots : Tbl Nat := []
  framePos : Nat := 0
  patPos : Nat := 0
  lastSlot : List Nat := [15, 15, 15]
  turn : Option Turn := none
  preempt : Option Preempt := none
  restore : Option Restore := none
  /-- the context that takes the cluster when the switch ends -/
  incoming : Option Nat := none
  bare : Bool := true
  window : Nat := 4
  turns : Nat := 0
  swFull : Nat := 0
  swCleave : Nat := 0
  swPtr : Nat := 0
  saveBytes : Nat := 0
  reserve : Nat := 0
  cleaveUs : Nat := 10
  works : List Work := []
  nextTag : Nat := 1
  lastBody : Option (Nat × Nat × Nat) := none
  downMax : List Nat := [0, 0, 0, 0]
  down : List Nat := [0, 0, 0, 0]
  up : List Nat := [0, 0, 0, 0]
  /-- beats of packets already begun that wait for a credit, by class (R63) -/
  due : List Nat := [0, 0, 0, 0]
  credited : List Nat := []
  /-- when a reset of its port drove VX_TP{p}_RST_N low; none once it is released (R525) -/
  rstAt : Option Nat := none
  /-- the Realtime contexts that are runnable on the cluster, and whether one became so during the present turn (R405) -/
  rtSeen : List Nat := []
  rtNew : Bool := false
  /-- the streams started on the cluster and not yet ended -/
  streams : List Stream := []
  /-- the context whose state the cluster holds -/
  holder : Option Nat := none
  /-- the present turn change has been counted as a save (R415) -/
  swCounted : Bool := false
deriving DecidableEq, Repr

/-- Serac's common registers (R424). -/
structure Serac where
  units : Tbl SUnit := []
  minTurnUs : Nat := 20
  batchUs : Nat := 2000
  intUs : Nat := 400
  rtUs : Nat := 100
  ageUs : Nat := 10000
  cfgTurns : Nat := 0
  cfgCleave : Nat := 10
  evictions : Nat := 0
  swapIns : Nat := 0
  region : Nat := 0
deriving DecidableEq, Repr

/-! ## Esker -/

/-- A Crevasse record (R267); status 0 open, 1 resolved, 2 aborted, 3 withdrawn, 4 closed. `stuck` lists the
commands with a tile parked on it. -/
structure Crev where
  engines : Nat := 0
  time : Nat := 0
  missingVa : Nat := 0
  spanLast : Nat := 0
  spanFirst : Nat := 0
  missing : Nat := 0
  tiles : Nat := 0
  gen : Nat := 0
  fn : Nat := 0
  ctx : Nat := 0
  cmdId : Nat := 0
  seq : Nat := 0
  access : Nat := 0
  status : Nat := 0
  kind : Nat := 1
  early : Bool := false
  /-- when its last fault was found (R268) -/
  faultAt : Nat := 0
  stuck : List Nat := []
  /-- the page ranges of the union of the faulting tiles' spans: first page and pages -/
  union : List (Nat × Nat) := []
deriving DecidableEq, Repr

/-- A frame key table or host chunk table entry (R275, R242). -/
structure Fkt where
  prot : Nat
  key : Nat
  fn : Nat := 0
  addr : Nat := 0
  alloc : Nat := 0
deriving DecidableEq, Repr

/-- What a MAP or an UNMAP changes once it completes (R246, R257, R270): the context's leaves, the range that the command names, and whether it
maps. -/
structure Change where
  leaves : List Leaf
  lo : Nat
  hi : Nat
  isMap : Bool
deriving DecidableEq, Repr

/-- A range invalidation on the fabric (R260, R261); the range covers every run that the change breaks (R251). -/
structure Inval where
  id : Nat
  ctx : Nat
  lo : Nat
  hi : Nat
  epoch : Nat
  acked : List Nat := []
  cmd : Option Nat := none
  change : Option Change := none
deriving DecidableEq, Repr

/-- A table walk in progress (R263). -/
structure Walk where
  ctx : Nat
  va : Nat
  epoch : Nat
  cmd : Option Nat := none
  /-- ranges of the context's invalidations that began after it did -/
  later : List (Nat × Nat) := []
deriving DecidableEq, Repr

/-- A table page of the page-table pool (R245, R250): its context, its level, and the address bits above those that index it. -/
structure TablePage where
  ctx : Nat
  level : Nat
  index : Nat
deriving DecidableEq, Repr

/-- A cached translation (R251): the first leaf of a run and the run field. -/
structure CacheEnt where
  ctx : Nat
  leaf : Leaf
  run : Nat
deriving DecidableEq, Repr

/-- A hot list entry (R279). -/
structure HotEnt where
  offset : Nat
  alloc : Nat
  fn : Nat
  tier : Nat
  void : Bool := false
deriving DecidableEq, Repr

/-- ESK_FKT_LOG (R288). -/
structure FktLog where
  ctx : Nat := 0
  reqKey : Nat := 0
  frameKey : Nat := 0
  frame : Nat := 0
  write : Bool := false
  remote : Bool := false
  host : Bool := false
  valid : Bool := false
deriving DecidableEq, Repr

/-- Esker (R240 to R289). `frames` is the frame key table, HBM frames first and then board frames; `chunks` is
the host chunk table; `tables` the page-table pool, by page; `cache` the translation cache, oldest entry first. -/
structure Esker where
  crevHead : Nat := 0
  crevTail : Nat := 0
  crevFull : Bool := false
  crev : Tbl Crev := []
  crevWaiting : List Crev := []
  crevSeq : Nat := 0
  fktCount : Nat := 0
  fktLog : FktLog := {}
  windowMs : Nat := 100
  windowNext : Nat := 100
  windowStart : Nat := 0
  hotShown : Nat := 65535
  hotHead : Nat := 0
  hotTail : Nat := 0
  hotLost : Nat := 0
  hotList : Tbl HotEnt := []
  hot : Tbl Nat := []
  hotListed : List Nat := []
  region : Nat := 0
  frames : Tbl Fkt := []
  chunks : Tbl Fkt := []
  invals : List Inval := []
  /-- invalidations past the eighth (R262) -/
  invalWait : List Inval := []
  invalNext : Nat := 0
  walks : Tbl Walk := []
  /-- walks of a fenced walker that wait for another (R523) -/
  walkWait : List Walk := []
  tables : Tbl TablePage := []
  cache : List CacheEnt := []
  /-- invalidations of VX1 moves: tiles that touch their ranges wait (R282) -/
  moving : List Nat := []
deriving DecidableEq, Repr

/-- An allocation (R168 to R170, R286): its frames are offsets in units of 2 MiB of its tier, or chunk indices. -/
structure Alloc where
  fn : Nat
  size : Nat
  tier : Nat
  prot : Nat
  key : Nat
  frames : List (Nat × Nat) := []
  shared : Bool := false
  variant : Nat := 0
deriving DecidableEq, Repr

/-! ## Stored graphs and pools -/

/-- A span record (R393). -/
structure Span where
  buffer : Nat
  access : Nat
  length : Nat
  offset : Nat
deriving DecidableEq, Repr

/-- A tile of a node: its lane and its spans (R393). -/
structure Tile where
  lane : Nat
  spans : List Span
deriving DecidableEq, Repr

/-- A weight span record (R393). -/
structure WSpan where
  passes : Nat
  lane : Nat
  tensor : Nat
  first : Nat
  count : Nat
deriving DecidableEq, Repr

/-- A cleave record with its live ranges (R393). -/
structure Cleave where
  live : Nat
  ranges : List (Nat × Nat)
deriving DecidableEq, Repr

/-- A node of a stored graph (R179, R393): entry, tables and whole body. -/
structure Node where
  id : Nat
  layer : Nat
  adapted : Bool
  hasCleaves : Bool
  pass : Nat
  tiles : List Tile
  wspans : List WSpan
  cleaves : List Cleave
  body : Blob
deriving DecidableEq, Repr

/-- A stored graph or kernel (R178 to R188): its versions, the current one, and whether it is retired. -/
structure Graph where
  fn : Nat
  kind : Nat
  index : Nat
  cap : Nat
  versions : Tbl (List Node) := []
  current : Nat := 1
  retired : Bool := false
deriving DecidableEq, Repr

/-- An equal-treatment pool (R190 to R194). -/
structure Pool where
  fn : Nat
  variant : Nat
  image : Nat
  imageVer : Nat
  arith : Nat
  quantumUs : Nat
  cls : Nat
deriving DecidableEq, Repr

/-! ## Firn and Melt -/

/-- A tensor of an image version (R299, R305) and the bytes Firn keeps of it. -/
structure Tensor where
  layer : Nat
  index : Nat
  fmt : Nat
  backward : Bool
  rows : Nat
  cols : Nat
  offset : Nat
  stored : Nat
  decoded : Nat
  board : Bool := false
  data : Blob := []
deriving DecidableEq, Repr

/-- A shard of a manifest and how far its load is (R305, R308). -/
structure Shard where
  addr : Nat
  offset : Nat
  length : Nat
  digest : Blob
  ok : Bool := false
  data : Blob := []
  inFlight : Bool := false
  firstRead : Option Nat := none
  retryAt : Option Nat := none
  badDigests : Nat := 0
deriving DecidableEq, Repr

/-- An image version (R291, R292). -/
structure ImgVer where
  digest : Blob
  pref : Nat
  layers : Nat
  bytes : Nat
  tensors : List Tensor := []
  shards : List Shard := []
  frames : List Nat := []
  poisoned : Bool := false
  /-- units that needed repair when the version was poisoned: tensor and unit (R337) -/
  lost : List (Nat × Nat) := []
deriving DecidableEq, Repr

/-- An image (R293): its state code, current version (0 none), last version number, live versions and the staged
version. -/
structure Image where
  state : Nat := 0
  current : Nat := 0
  lastVer : Nat := 0
  versions : Tbl ImgVer := []
  staged : Option (Nat × ImgVer) := none
  /-- the state a replacement that waits for a drain returns to (R332) -/
  before : Nat := 0
deriving DecidableEq, Repr

/-- A load queued or running (R307): kind 0 IMG_LOAD, 1 IMG_RESUME_LOAD, 2 IMG_REPLACE. -/
structure Load where
  cmd : Nat
  image : Nat
  kind : Nat
  pref : Nat
  timeoutMs : Nat
  ver : ImgVer
  number : Nat := 0
  begun : Bool := false
  /-- waiting for a drain (R332) -/
  draining : Bool := false
deriving DecidableEq, Repr

/-- A repair of an image unit (R336 to R340): the peers still to ask, whom it waits on, and where it stands. -/
structure Repair where
  id : Nat
  image : Nat
  ver : Nat
  tensor : Nat
  unit : Nat
  started : Bool := false
  peers : List Nat := []
  asked : Option (Nat × Nat) := none
  /-- the tag of the request sent to the peer asked -/
  tag : Nat := 0
  canonical : Bool := false
  got : Option Blob := none
  /-- the configuration epoch that its requests carry, and the peer record that it gives them (R221) -/
  epoch : Nat := 0
  peerRec : Option Blob := none
  /-- the move of its frame: the tier, the old frame and the new one, and the repairs of other units of the frame that the move waits for (R338) -/
  moving : Option (Nat × Nat × Nat) := none
  waits : List Nat := []
deriving DecidableEq, Repr

/-- A margin log entry (R329). -/
structure MarginEnt where
  time : Nat
  margin : Int
  layer : Nat
  cmdId : Nat
  ctx : Nat
  fn : Nat
  imageVer : Nat
  cluster : Nat
  pass : Nat
  bound : Bool
  restarted : Bool
  image : Nat
deriving DecidableEq, Repr

/-- Firn and Melt (R290 to R342). -/
structure Firn where
  loadState : Nat := 0
  loadImage : Nat := 0
  loadFail : Nat := 0
  failedShard : Nat := 0
  shardsDone : Nat := 0
  shardCount : Nat := 0
  hbmReserve : Nat := 0
  fromHost : Nat := 0
  fromPeer : Nat := 0
  marginAll : Bool := false
  marginHead : Nat := 0
  marginTail : Nat := 0
  marginLost : Nat := 0
  marginLog : Tbl MarginEnt := []
  images : Tbl Image := []
  loads : List Load := []
  repairs : List Repair := []
  repairNext : Nat := 0
  codeErr : Nat := 0
  nanCount : Nat := 0
deriving DecidableEq, Repr

/-! ## Silt -/

/-- A slice (R366): variant, layer, site, kind 0 band, 1 vector, 2 prefix, and its index. -/
structure Slice where
  variant : Nat
  layer : Nat
  site : Nat
  kind : Nat
  index : Nat
  bytes : Nat
deriving DecidableEq, Repr

/-- A descriptor entry (R344), and whether the step in flight has tapped its site (R377). Its parameters, moments and gradients lie in the storage allocation. -/
structure VarEntry where
  layer : Nat
  site : Nat
  attention : Bool
  kinds : Nat
  train : Nat
  dimIn : Nat
  dimOut : Nat
  rank : Nat
  kvHeads : Nat
  alpha : Nat
  raw : Blob
  tapped : Bool := false
deriving DecidableEq, Repr

/-- A registered variant (R349 to R357). -/
structure Variant where
  fn : Nat
  image : Nat
  key : Nat
  alloc : Nat
  trainable : Bool
  saveBytes : Nat
  rev : Nat := 1
  digestRev : Nat := 1
  digest : Blob := []
  steps : Nat := 0
  sealed : Bool := false
  torn : Bool := false
  sealCmds : List Nat := []
  /-- a VAR_UPDATE or VAR_DROP waits or executes (R174) -/
  changer : Option Nat := none
  unsealSeq : Nat := 0
  entries : List VarEntry := []
  /-- granules of its storage that read uncorrectable, until new contents come (R383) -/
  bad : List Nat := []
  /-- slices whose last fetch carried a stale generation and was answered with zeros (R209) -/
  zeroed : List Slice := []
deriving DecidableEq, Repr

/-- A tap taken and not yet answered (R361 to R365); `null` is one that TAP_NULL answers, and `cmd` is 16,384 once its command has
completed. -/
structure Tap where
  port : Nat
  tag : Nat
  ctx : Nat
  wtag : Nat
  cmd : Nat
  phase : Nat
  site : Nat
  layer : Nat
  first : Nat
  tokens : Nat
  ansFirst : Nat
  ansCount : Nat
  scale : Nat
  fmt : Nat
  data : Blob
  /-- the engine that answers it: that of its first slice, 64 for none yet (R367, R368) -/
  engine : Nat := 64
  null : Bool := false
  /-- the pass of its work item's node (R369) -/
  pass : Nat := 0
  /-- the slices it needs (R367) -/
  slices : List Slice := []
  /-- of them, those whose part is computed, each with the engine that computed it (R367, R368) -/
  used : List (Slice × Nat) := []
  /-- the configuration epoch it carries (R221) -/
  epoch : Nat := 0
deriving DecidableEq, Repr

/-- The intermediate h of a band, kept in an engine's cache (R369): its command by admission number, and its bytes. -/
structure Inter where
  cmd : Nat
  pass : Nat
  band : Slice
  first : Nat
  tokens : Nat
  bytes : Nat
deriving DecidableEq, Repr

/-- A Silt engine (R369, R385): slices and intermediates held, each least recently used first; slices being fetched; counters. -/
structure SiltEng where
  rt : Bool := false
  taps : Nat := 0
  hits : Nat := 0
  misses : Nat := 0
  busyNs : Nat := 0
  slices : List Slice := []
  fetches : List Slice := []
  inters : List Inter := []
deriving DecidableEq, Repr

/-- Silt (R343 to R386). -/
structure Silt where
  engines : Tbl SiltEng := []
  sel : Nat := 0
  tapErr : Nat := 0
  skipped : Nat := 0
  variants : Tbl Variant := []
  taps : List Tap := []
  /-- packets of a tap that spans several, by port (R360) -/
  partials : Tbl (Nat × Blob) := []
deriving DecidableEq, Repr

/-! ## Snowpack -/

/-- A sequence (R430 to R452): state 1 idle, 2 provisioning, 3 pinned, 4 leaving. -/
structure Sequence where
  ctx : Nat
  fn : Nat
  image : Nat
  /-- a release of it has been accepted (R451) -/
  leaving : Bool := false
  /-- a step in flight and provisioned names it (R441) -/
  pinned : Bool := false
  tokens : Nat := 0
  lastUse : Nat := 0
  pages : List Page := []
  /-- HBM offsets of its chain of table blocks (R433) -/
  blocks : List Nat := []
  pendingKeep : Option Nat := none
  /-- the commands of the leaves that wait (R451) -/
  releaser : Option Nat := none
  truncators : List Nat := []
deriving DecidableEq, Repr

/-- Snowpack (R426 to R453): pool sizes, free pages by tier, sequences, waiting SEQ_CREATEs. -/
structure Snow where
  boardFrames : Nat := 0
  hbmFrames : Nat := 0
  region : Nat := 0
  boardRegion : Nat := 0
  freeHbm : List Nat := []
  freeBoard : List Nat := []
  freeHost : List Nat := []
  hostTotal : Nat := 0
  hostRejects : Nat := 0
  toHost : Nat := 0
  toBoard : Nat := 0
  tokenBytes : Tbl Nat := []
  seqs : Tbl Sequence := []
  creates : List Nat := []
  passDue : Bool := false
  /-- HBM pool pages that hold table blocks (R433) -/
  blockPages : List Nat := []
  /-- the step at which the last pass ended, while it waits (R445) -/
  cut : Option Nat := none
deriving DecidableEq, Repr

/-! ## Kaolin, Glaze and Varve -/

/-- A tenant record (R461 to R463): the root secret and the requester digest. -/
structure Tenant where
  root : Nat
  binder : Blob
deriving DecidableEq, Repr

/-- A key slot (R455): halves, key epoch, owner, tenant record, and the pages a re-key walk has left (R474). -/
structure KeySlot where
  half0 : Nat := 0
  half1 : Nat := 0
  epoch : Nat := 0
  owner : Option Nat := none
  tenant : Option Tenant := none
  walk : Option (List (Nat × Nat)) := none
deriving DecidableEq, Repr

/-- A function's migration record (R462, R466) with the digest of the requester it is bound to. -/
structure Mig where
  key : Nat
  binder : Blob := []
  exports : Nat := 0
  imported : Nat := 0
deriving DecidableEq, Repr

/-- An SPDM session (R459, R460): its function, whether it is established and mutually authenticated, and the digest of
the requester's leaf key. -/
structure Session where
  fn : Nat
  /-- the requester's half of the session ID -/
  req : Nat := 0
  up : Bool := false
  requester : Option Blob := none
  /-- the secret of the response direction, of the handshake until the session is established, and the records sent under it (R457, R459) -/
  secret : Blob := []
  sent : Nat := 0
deriving DecidableEq, Repr

/-- A DOE mailbox (R53): the object held in each direction and DOE Busy. -/
structure Mailbox where
  inObj : Option Blob := none
  outObj : Option Blob := none
  busy : Bool := false
  /-- how far the SPDM responder of this mailbox is: 0 none, 1 version, 2 capabilities, 3 algorithms -/
  conn : Nat := 0
deriving DecidableEq, Repr

/-- Kaolin (R454 to R466). -/
structure Kaolin where
  sel : Nat := 0
  slots : Tbl KeySlot := []
  migs : Tbl Mig := []
  sessions : Tbl Session := []
  boxes : Tbl Mailbox := []
  erased : Bool := false
deriving DecidableEq, Repr

/-- Write counters of one page (R467): major, key-epoch bit, minors by granule. -/
structure PageCtr where
  major : Nat := 0
  epochBit : Bool := false
  minors : Tbl Nat := []
deriving DecidableEq, Repr

/-- A Varve slot (R476): the frame it covers (tier, frame number), its block's tier, whether it is marked to retire,
its pages' counters and the pages that are unverifiable. -/
structure VSlot where
  /-- the frame's allocation raised every counter line: all are dirty but those of the pages listed, written back since (R470, R481) -/
  raised : Option (List Nat) := none
  frame : Option (Nat × Nat) := none
  key : Nat := 0
  tier : Nat := 0
  retire : Bool := false
  /-- major counter and key-epoch bit of the pages that `pages` does not list -/
  base : Nat := 0
  epochBit : Bool := false
  pages : Tbl PageCtr := []
  bad : List Nat := []
deriving DecidableEq, Repr

/-- VARVE_UNV_LOG (R491). -/
structure UnvLog where
  key : Nat := 0
  slot : Nat := 0
  index : Nat := 0
  level : Nat := 0
  valid : Bool := false
deriving DecidableEq, Repr

/-- The 96-bit IV and the additional data of the last granule Glaze encrypted (R468): what left for the memory port. -/
structure LastIv where
  iv : BitVec 96 := 0
  aad : BitVec 64 := 0
  half : Bool := false
deriving DecidableEq, Repr

/-- A write that Glaze holds until it has read the granules it must verify first (R472, R473), each by its place in `reads`. -/
structure GlzWrite where
  req : MemReq
  left : List Nat
deriving DecidableEq, Repr

/-- Glaze (R467 to R475). -/
structure Glaze where
  partials : Nat := 0
  rekeys : Nat := 0
  reenc : Nat := 0
  last : LastIv := {}
  /-- outstanding reads by port x 1024 + tag (R71) -/
  reads : Tbl MemReq := []
  /-- writes that wait for reads -/
  writes : List GlzWrite := []
deriving DecidableEq, Repr

/-- Varve (R476 to R483). `dirty` holds nodes (level, position) with the time of their last write-back. -/
structure Varve where
  slots : Tbl VSlot := []
  region : Nat := 0
  unvCount : Nat := 0
  unvLog : UnvLog := {}
  dirty : List (Nat × Nat) := []
  lastWrite : List ((Nat × Nat) × Nat) := []
  versions : List ((Nat × Nat) × Nat) := []
  /-- metadata blocks in HBM and in the board tier (R477), and their frames by tier in the order taken -/
  blocks : Nat × Nat := (0, 0)
  metaFrames : List (Nat × Nat) := []
deriving DecidableEq, Repr

/-- The seal record (R489) without its signature, which `Config.sign` gives. -/
structure Seal where
  cfgEpoch : Nat := 0
  further : Nat := 0
  remote : Bool := false
  level : Nat := 0
  key : Nat := 0
  slot : Nat := 0
  dpa : Nat := 0
  time : Nat := 0
  engine : Nat := 0
  cause : Nat := 0
deriving DecidableEq, Repr

/-! ## Ledger -/

/-- A receipt (R494). -/
structure Receipt where
  kind : Nat := 0
  cls : Nat := 0
  opcode : Nat := 0
  seq : Nat := 0
  fn : Nat := 0
  ctx : Nat := 0
  pool : Nat := 0
  status : Nat := 0
  variant : Nat := 0
  variantCount : Nat := 0
  commandId : Nat := 0
  generation : Nat := 0
  imageId : Nat := 0
  flags : Nat := 0
  imageVersion : Nat := 0
  handle : Nat := 0
  graphVersion : Nat := 0
  quantumUs : Nat := 0
  arith : Nat := 0
  revision : Nat := 0
  digestRevision : Nat := 0
  fwdFormat : Nat := 0
  bwdFormat : Nat := 0
  imageDigest : Blob := []
  adapterDigest : Blob := []
  quanta : Nat := 0
  preemptions : Nat := 0
  faults : Nat := 0
  queuedNs : Nat := 0
  boundLayers : Nat := 0
  minMargin : Int := 0
  startTime : Nat := 0
  endTime : Nat := 0
  issueOrder : Nat := 0
  completionOrder : Nat := 0
  prevDigest : Blob := []
deriving DecidableEq, Repr

/-- The head of a function's chain (R499, R507). -/
structure Head where
  seq : Nat := 0
  digest : Blob := []
  ckpt : Nat := 0
deriving DecidableEq, Repr

/-- A checkpoint (R503) without its signature: what it covers and why it was taken. -/
structure Ckpt where
  fn : Nat
  seq : Nat
  digest : Blob
  time : Nat
  prev : Nat := 0
  /-- bit 0 requested, bit 1 export, bit 2 periodic -/
  flags : Nat := 0
  cmd : Option Nat := none
deriving DecidableEq, Repr

/-- What Ledger holds of the persist region (R507): its place, and the fields of its header. The region itself is bytes of board memory, under key 0.
`magic` is whether the region is open. -/
structure Persist where
  magic : Bool := false
  clean : Bool := false
  bytes : Nat := 0
  offset : Nat := 0
  nonce : Nat := 0
  tail : Nat := 0
deriving DecidableEq, Repr

/-- Ledger (R492 to R513). -/
structure Ledger where
  recovered : Bool := false
  fresh : Bool := false
  unclean : Bool := false
  flushing : Bool := false
  flushDone : Bool := false
  ckptSel : Nat := 0
  wraps : Nat := 0
  flushReceipts : Nat := 0
  flushNs : Nat := 0
  flushStart : Nat := 0
  turnCount : Nat := 0
  compCount : Nat := 0
  heads : Tbl Head := []
  /-- receipts appended and not yet written, oldest first (R508) -/
  buffer : List Receipt := []
  /-- checkpoints queued for signing, the first being signed (R502 to R504) -/
  queue : List Ckpt := []
  /-- each function's last periodic or export checkpoint, signed (R502, R513) -/
  ckpts : Tbl Blob := []
  capacity : Nat := 0
  persist : Persist := {}
deriving DecidableEq, Repr

/-! ## Loess: resets and fences -/

/-- A reset in progress of an engine, of the compute domain or of Tarn. -/
structure Rst where
  start : Nat
  deadline : Nat
  slot : Nat
  /-- the time held at its start, which counts toward no deadline (R591, R593) -/
  heldAt : Nat := 0
  guilty : Option Nat := none
  /-- the guilty contexts of the resets it absorbed (R533, R537) -/
  also : List Nat := []
  /-- contexts that lost their state, each with the unit (R526, R531) -/
  lost : List (Nat × Nat) := []
deriving DecidableEq, Repr

/-- What Loess keeps of an engine (R515, R543): fence, reset in progress, when it was reset, and its progress stamp
with the held time at the stamp (R517). -/
structure Eng where
  fenced : Bool := false
  rst : Option Rst := none
  history : List Nat := []
  count : Nat := 0
  stamp : Nat := 0
  heldAt : Nat := 0
  /-- handshakes completed on its outputs (R515) -/
  progressed : Nat := 0
deriving DecidableEq, Repr

/-- A reset record (R551). -/
structure RstRec where
  seq : Nat := 0
  domain : Nat := 0
  cause : Nat := 0
  outcome : Nat := 0
  fenced : Bool := false
  engine : Nat := 0
  guiltyCtx : Nat := 0
  guiltyFn : Nat := 0
  escFrom : Nat := 0xFFFF
  detail : Nat := 0
  affected : Nat := 0
  resumed : Nat := 0
  retried : Nat := 0
  failed : Nat := 0
  startTime : Nat := 0
  endTime : Nat := 0
deriving DecidableEq, Repr

/-- Loess (R514 to R553). -/
structure Loess where
  /-- VX_ERR_STATUS bits 7 to 0 -/
  err : BitVec 8 := 0
  oos : Bool := false
  oosCause : Nat := 0
  oosEngine : Nat := 0
  head : Nat := 0
  tail : Nat := 0
  records : Tbl RstRec := []
  seq : Nat := 0
  domains : Nat := 0
  domainTimes : List Nat := []
  domain : Option Rst := none
  restarts : Nat := 0
  hbLast : Nat := 0
  hbHeldAt : Nat := 0
  hbStopped : Bool := false
  /-- when Tarn last read the progress counters (R516) -/
  sampledAt : Nat := 0
  restart : Option Rst := none
  restartForPatch : Bool := false
  restartTimes : List Nat := []
  engines : Tbl Eng := []
  halted : Bool := false
  sealRec : Option Seal := none
deriving DecidableEq, Repr

/-! ## Floe -/

/-- A data frame kept for retry (R561): sequence number, stream, first_msg, payload, times sent, and the configuration epoch it carries (R221). -/
structure TxFrame where
  seq : Nat
  stream : Nat
  first : Nat := 0
  payload : Blob
  sent : Nat := 1
  epoch : Nat := 0
deriving DecidableEq, Repr

/-- Bytes of a message that a link has still to send in a stream (R558): `left` more of them are to come where the message is forwarded while it
arrives (R568), from a link and stream. -/
structure TxItem where
  stream : Nat
  bytes : Blob
  left : Nat := 0
  /-- the header has not been sent -/
  head : Bool := true
  /-- a whole message of the chip's own, shown when it begins -/
  msg : Option FloeMsg := none
  source : Option (Nat × Nat) := none
  /-- frames of the source's receive buffer that the bytes occupy (R559) -/
  frames : Nat := 0
deriving DecidableEq, Repr

/-- Link states (R571's table). -/
inductive LinkSt where
  | absent | down | training | hello | up | outOfService | fenced
deriving DecidableEq, Repr

/-- A link (R557 to R562, R572 to R580). -/
structure Link where
  st : LinkSt := .absent
  farLink : Nat := 0
  farNode : Nat := 0
  bypassed : Bool := false
  reason : Nat := 0
  retrains : Nat := 0
  mismatches : Nat := 0
  protocol : Nat := 0
  crc : Nat := 0
  bytes : Nat := 0
  txSeq : Nat := 0
  rxSeq : Nat := 0
  nakSent : Bool := false
  retry : List TxFrame := []
  acked : Nat := 0
  ackTime : Nat := 0
  credit : List Nat := [0, 0, 0, 0, 0, 0]
  /-- what waits to be sent, in the order of each stream -/
  out : List TxItem := []
  /-- frames of credit to return, and bytes of messages partly received, by stream -/
  owed : List Nat := [0, 0, 0, 0, 0, 0]
  rx : Tbl Blob := []
  /-- frames of the receive buffer that those bytes occupy, by stream (R559) -/
  rxFrames : List Nat := [0, 0, 0, 0, 0, 0]
  /-- bytes to come of a message that is passed on while it arrives, by stream (R568) -/
  passing : Tbl Nat := []
  /-- messages passed on from their frames: type, source, destination and tag -/
  passed : List (List Nat) := []
  /-- when it lost service; its PHY_RST_N is low for 1 us from then on (R575) -/
  downAt : Nat := 0
  trainDeadline : Option Nat := none
  upSince : Nat := 0
  retrainTimes : List Nat := []
deriving DecidableEq, Repr

/-- A ring (R554 to R556, R573, R574): state 0 absent, 1 released, 2 joining, 3 in service, 4 census pending, 5 failed. -/
structure Ring where
  st : Nat := 0
  members : List Nat := []
  joinDeadline : Option Nat := none
  censusSent : Option Nat := none
deriving DecidableEq, Repr

/-- A remote request outstanding (R569, R570). -/
structure Remote where
  q : MemReq
  ring : Nat := 0
  downstream : Bool := true
  resent : Bool := false
  deadline : Nat
  /-- waiting for a ring that lists the destination -/
  hold : Bool := false
  /-- it waits to be sent a second time, in the opposite direction -/
  again : Bool := false
deriving DecidableEq, Repr

/-- Floe (R554 to R581). -/
structure Floe where
  holdMs : Nat := 200
  e2eUs : Nat := 500
  joinMs : Nat := 250
  trainMs : Nat := 100
  unreachable : Nat := 0
  resent : Nat := 0
  stale : Nat := 0
  discarded : Nat := 0
  links : Tbl Link := []
  rings : Tbl Ring := []
  /-- FLOE_RING_CTL writes and joins waiting, in order: (ring, join) -/
  ctl : List (Nat × Bool) := []
  /-- rings that start-up, a commit, a section 3 write or a wake joins, in increasing order (R573) -/
  joins : List Nat := []
  remotes : Tbl Remote := []
deriving DecidableEq, Repr

/-! ## Tarn -/

/-- An interrupt source (R615 to R620, R636). `vector` holds address bits [31:2]. -/
structure TicSrc where
  active : Bool := false
  pending : Bool := false
  /-- it fired while it was active, and is taken again at its mret (R619) -/
  again : Bool := false
  enable : Bool := false
  prio : Nat := 0
  vector : Nat := 0
deriving DecidableEq, Repr

/-- Tarn (R605 to R636): status registers, admin queue registers, patch, monitor, interrupt controller. `stack` holds the
active sources with the program counter each saved, newest first; `patch` is the image before its signature, as the
ROM rebuilds it from patch RAM. -/
structure Tarn where
  phase : Nat := 0
  selftest : Nat := 0
  patchDropped : Bool := false
  adminCfgError : Bool := false
  sqBase : Nat := 0
  cqBase : Nat := 0
  depthM1 : Nat := 15
  vector : Nat := 0
  intCount : Nat := 1
  intTime : Nat := 0
  inflightMax : Nat := 64
  enabled : Bool := false
  patchLoaded : Bool := false
  svn : Nat := 0
  patch : Blob := []
  digest : Blob := []
  /-- the PATCH_LOAD that waits to be alone, or restarts Tarn (R611) -/
  patchCmd : Option Nat := none
  /-- the patch it will activate: image and svn; empty to deactivate -/
  patchNext : Option (Blob × Nat) := none
  unlocked : Bool := false
  lockout : Bool := false
  failures : Nat := 0
  baud : Nat := 0
  challenge : Nat := 0
  line : List Nat := []
  lastCr : Bool := false
  sources : Tbl TicSrc := []
  refire : Nat := 0
  stack : List (Nat × Nat) := []
  pc : Nat := 0
  everEnabled : Bool := false
  /-- when the last block reset was released (R622) -/
  released : Nat := 0
deriving DecidableEq, Repr

/-! ## The whole block -/

/-- The state of the block. `now` is the timebase; `held` is some while a block reset is held (true for cold); `free`
counts the free values drawn (the model's own field, log entry 3); `mem` is the clear contents of device memory as
Vexzer's units see it, addressed by tier x 2^44 + offset. -/
structure State where
  pending : List Instr := []
  now : Nat := 0
  held : Option Bool := none
  free : Nat := 0
  pins : Pins := {}
  pwr : Power := {}
  ports : Ports := {}
  fns : Tbl Fn := []
  queues : Tbl Queue := []
  cmds : Tbl Cmd := []
  cirq : Cirque := {}
  cfg : Cfg := {}
  topo : Topo := {}
  ctxs : Tbl Ctx := []
  serac : Serac := {}
  esk : Esker := {}
  allocs : Tbl Alloc := []
  graphs : List Graph := []
  pools : Tbl Pool := []
  firn : Firn := {}
  silt : Silt := {}
  snow : Snow := {}
  kao : Kaolin := {}
  glz : Glaze := {}
  varve : Varve := {}
  ledg : Ledger := {}
  loess : Loess := {}
  floe : Floe := {}
  tarn : Tarn := {}
  mem : List Host.Cell := []
deriving DecidableEq, Repr

/-- The block at the release of a cold block reset: the timebase at zero, every register at its reset value, the ROM
self-test running (R35, R82, R621). The monitor's challenge is drawn at the self-test's end. -/
def State.reset : State := {}

end Sys2Proof.Machine
end

