-- ==== Sys2Proof/Machine/Ops.lean ====
section
/-! DEFINITION. The named operations every unit shares: status and event codes, device memory, functions and queues,
the outputs at the host port, interrupts, events, time, and the life of a command record. -/

namespace Sys2Proof.Machine

open Sys2Proof

/-! ## Status and event codes (R196) -/

/-- The 16-bit value of a status (R196). -/
def Status.code : Status → Nat
  | .success => 0x0000 | .invalidOpcode => 0x1001 | .invalidField => 0x1002 | .invalidHandle => 0x1003
  | .invalidContext => 0x1004 | .invalidVariant => 0x1005 | .invalidImage => 0x1006 | .invalidPool => 0x1007
  | .classNotPermitted => 0x1008 | .notPermitted => 0x1009 | .generationMismatch => 0x2001 | .notReady => 0x2002
  | .busy => 0x2003 | .busyQuiescing => 0x2004 | .topologyNotCommitted => 0x2005 | .topologyLocked => 0x2006
  | .topologyInvalid => 0x2007 | .versionConflict => 0x2008 | .variantSealed => 0x2009
  | .variantNotSealed => 0x200A | .variantImageMismatch => 0x200B | .poolConfigMismatch => 0x200C
  | .capabilityMismatch => 0x200D | .cqStillBroken => 0x200E | .outOfMemory => 0x3001 | .noContextId => 0x3002
  | .noHandle => 0x3003 | .noPoolId => 0x3004 | .variantLimit => 0x3005 | .hostAccessFailed => 0x4001
  | .rightsViolation => 0x4002 | .faultAborted => 0x4003 | .frameKeyDenied => 0x4004
  | .memoryUncorrectable => 0x4005 | .remoteUnreachable => 0x4006 | .timeout => 0x5001 | .timeoutKilled => 0x5002
  | .contextReset => 0x5003 | .retryNeighbourReset => 0x5004 | .tileError => 0x5005 | .outOfService => 0x5006
  | .authFailed => 0x6001 | .integrityUnverifiable => 0x6002 | .keyUnavailable => 0x6003
  | .signatureInvalid => 0x6004 | .basePoisoned => 0x7001 | .shardMissing => 0x7002 | .shardCorrupt => 0x7003
  | .imageNotStaged => 0x7004 | .manifestInvalid => 0x7005

/-- The 16-bit value of an event (R196). -/
def Event.code : Event → Nat
  | .doorbellInvalid => 0xE001 | .sqFetchFailed => 0xE002 | .cqBroken => 0xE003 | .faultPosted => 0xE010
  | .hotPage => 0xE011 | .resetRecord => 0xE020 | .engineFenced => 0xE021 | .blockOutOfService => 0xE022
  | .imagePoisoned => 0xE030 | .linkDown => 0xE040 | .checkpointWritten => 0xE050

/-! ## Device memory

The clear contents of device memory as Vexzer's units see it, one byte to a cell, at tier x 2^44 + offset. A byte
nothing has written reads 0 (assumption 4). -/

/-- What an unlisted address reads as (assumption 4). -/
def memDefault : Byte := 0

/-- Read one byte. -/
def memGet : List Host.Cell → Nat → Byte
  | [], _ => memDefault
  | (k, v) :: m, a => if k = a then v else if a < k then memDefault else memGet m a

/-- Write one byte, keeping the canonical form. -/
def memPut : List Host.Cell → Nat → Byte → List Host.Cell
  | [], a, b => if b = memDefault then [] else [(a, b)]
  | (k, v) :: m, a, b =>
    if a < k then (if b = memDefault then (k, v) :: m else (a, b) :: (k, v) :: m)
    else if a = k then (if b = memDefault then m else (a, b) :: m)
    else (k, v) :: memPut m a b

/-- Read `n` bytes. -/
def memRead (m : List Host.Cell) (a : Nat) : Nat → Blob
  | 0 => []
  | n + 1 => memGet m a :: memRead m (a + 1) n

/-- Write a byte string. -/
def memWrite (m : List Host.Cell) (a : Nat) : Blob → List Host.Cell
  | [] => m
  | b :: t => memWrite (memPut m a b) (a + 1) t

/-- A range returns to what nothing has written. -/
def memClear (m : List Host.Cell) (a n : Nat) : List Host.Cell :=
  m.filter fun c => decide (c.1 < a) || decide (a + n ≤ c.1)

/-- Cells of a range, from its start. -/
def cellsOf (m : List Host.Cell) (a n : Nat) : List Host.Cell :=
  (m.filter fun c => decide (a ≤ c.1) && decide (c.1 < a + n)).map fun c => (c.1 - a, c.2)

/-- The canonical form: addresses strictly rising, and no entry equal to what an unlisted address reads as. -/
def Memory.wf : List Host.Cell → Bool
  | [] => true
  | (_, v) :: [] => v != memDefault
  | (k, v) :: (k', v') :: m => v != memDefault && decide (k < k') && Memory.wf ((k', v') :: m)

/-- The address of a byte of a tier (R241's DPA without its key and node). -/
def devAddr (tier offset : Nat) : Nat := tier * 2 ^ 44 + offset

/-! ## The state of a function, a queue, a command, a context -/

/-- A function (R19); one that nothing has configured is at its reset values. -/
def State.fn (s : State) (f : Nat) : Fn := tget s.fns {} f

/-- Change a function. -/
def State.updFn (s : State) (f : Nat) (g : Fn → Fn) : State := { s with fns := tupd s.fns {} f g }

/-- Change a queue that exists. -/
def State.modQ (s : State) (q : Nat) (g : Queue → Queue) : State := { s with queues := tmod s.queues q g }

/-- Change a command record in use. -/
def State.modCmd (s : State) (r : Nat) (g : Cmd → Cmd) : State := { s with cmds := tmod s.cmds r g }

/-- Change a context that exists. -/
def State.modCtx (s : State) (c : Nat) (g : Ctx → Ctx) : State := { s with ctxs := tmod s.ctxs c g }

/-- A Serac unit; its registers are at their reset values until something changes them. -/
def State.unit (s : State) (u : Nat) : SUnit := tget s.serac.units {} u

/-- Change a Serac unit. -/
def State.updUnit (s : State) (u : Nat) (g : SUnit → SUnit) : State :=
  { s with serac := { s.serac with units := tupd s.serac.units {} u g } }

/-- What Loess keeps of an engine (R515). -/
def State.eng (s : State) (e : Nat) : Eng := tget s.loess.engines {} e

/-- Change what Loess keeps of an engine. -/
def State.updEng (s : State) (e : Nat) (g : Eng → Eng) : State :=
  { s with loess := { s.loess with engines := tupd s.loess.engines {} e g } }

/-- An engine makes progress (R515); its first request in Chill has its SRAM assist restored (R584). -/
def State.progress (s : State) (e : Nat) : State :=
  { (s.updEng e fun x => { x with stamp := s.now, heldAt := s.pwr.heldNs, progressed := x.progressed + 1 }) with
    pwr := { s.pwr with relaxed := s.pwr.relaxed.filter (· != e) } }

/-- A source of Tarn's interrupt controller; its vector is the ROM entry until something changes it (R636). -/
def State.ticSrc (s : State) (n : Nat) : TicSrc := (tget? s.tarn.sources n).getD { vector := 0x400 + 4 * n }

/-- Change a source. -/
def State.updSrc (s : State) (n : Nat) (g : TicSrc → TicSrc) : State :=
  { s with tarn := { s.tarn with sources := tset s.tarn.sources n (g (s.ticSrc n)) } }

/-- A pulse on a source (R615, R619): it is latched once; one that finds the source active and pending is counted. -/
def State.pulse (s : State) (n : Nat) : State :=
  let x := s.ticSrc n
  if x.active && x.pending then { s with tarn := { s.tarn with refire := satAdd s.tarn.refire 1 0xFFFFFFFF } }
  else s.updSrc n fun y => { y with pending := true, again := y.again || y.active }

/-- The queue ID of a function's local index (R87). -/
def State.qid (s : State) (f loc : Nat) : Nat := (s.fn f).qBase + loc

/-- The queue at a function's local index, where it exists (R87, R92). -/
def State.queueAt? (s : State) (f loc : Nat) : Option (Nat × Queue) :=
  match tget? s.queues (s.qid f loc) with
  | some q => if q.fn = f ∧ (q.admin = true ↔ loc = 0) then some (s.qid f loc, q) else none
  | none => none

/-- The queues of a function. -/
def State.queuesOf (s : State) (f : Nat) : List Nat := tfind s.queues fun _ q => q.fn == f

/-- The commands of a function. -/
def State.cmdsOf (s : State) (f : Nat) : List Nat := tfind s.cmds fun _ c => c.fn == f

/-- The commands of a context (R171). -/
def State.cmdsOfCtx (s : State) (c : Nat) : List Nat := tfind s.cmds fun _ m => m.ctx == c && !m.admin

/-- The contexts of a function. -/
def State.ctxsOf (s : State) (f : Nat) : List Nat := tfind s.ctxs fun _ c => c.fn == f

/-! ## Free values -/

/-- The next free value (assumption 3). -/
def State.draw (s : State) : Nat := Config.free s.free

/-- Count a draw. -/
def State.drawn (s : State) : State := { s with free := s.free + 1 }

/-! ## Where the block runs -/

/-- No reset is held, no hold stops the stages, and the block is neither halted nor in a hold-up state, Freeze or
Permafrost (R82, R487, R586, R593, R594, R600). -/
def State.stagesRun (s : State) : Bool :=
  s.held.isNone && !s.pwr.brownout && !s.pwr.goodHold && !s.loess.halted && !s.pwr.holdup &&
    (s.pwr.st == .active || s.pwr.st == .chill)

/-- Tarn runs firmware: the stages run, the self-test has passed and no restart is under way (R549, R622). -/
def State.tarnRuns (s : State) : Bool :=
  s.stagesRun && decide (1 ≤ s.tarn.phase) && s.loess.restart.isNone

/-! ## Time -/

/-- The pace in force, in sixteenths (R595, R598). -/
def State.paceNow (s : State) : Nat :=
  if s.pwr.droopPace then min 8 s.pwr.limitPace else s.pwr.limitPace

/-- The stages are held or powered down, so that no stall limit counts (R517). -/
def State.timeHeld (s : State) : Bool :=
  s.pwr.brownout || s.pwr.goodHold || (s.pwr.st != .active && s.pwr.st != .chill)

/-- Time passes for a stream (R327). A beat of it is ready where the unit holds no credit, since Melt runs ahead, and is not ready where the
unit has credit, since it would have gone (assumption 148). So it is blocked without a credit, unless it is stalled for a repair and nothing of it
waits for a credit; and starved while the unit holds every credit the cluster has granted, within the layer's span alone. `due` are the beats of
packets begun that wait. -/
def Stream.elapse (w : Stream) (down downMax due dt : Nat) : Stream :=
  if w.items.isEmpty then w
  else if down = 0 then
    (if w.stall.isSome && w.ahead == 0 && due == 0 then w else { w with begun := true, blocked := w.blocked + dt })
  else if down = downMax && w.begun then { w with starved := w.starved + dt }
  else w

/-- The stream of a unit that its cluster is being sent: the first that does not wait for a repair, or has items ahead in Melt (R325, R335). -/
def SUnit.active (u : SUnit) : Nat := (u.streams.findIdx? fun w => w.stall.isNone || decide (0 < w.ahead)).getD 0

/-- Time passes for the stream that a unit's cluster is being sent. -/
def SUnit.elapse (u : SUnit) (dt : Nat) : SUnit :=
  match u.streams[u.active]? with
  | none => u
  | some w => { u with streams := u.streams.set u.active (w.elapse (u.down.getD 1 0) (u.downMax.getD 1 0) (u.due.getD 1 0) dt) }

/-- A Silt engine has work (R385): a slice to fetch, a tap to answer, or a slice of its own that a tap needs. -/
def State.siltBusy (s : State) (e : Nat) : Bool :=
  let g := tget s.silt.engines {} e
  !g.fetches.isEmpty || (!g.rt && decide (e < 64) && !(s.eng (0x0200 + e)).fenced && s.cmds.any fun c => c.2.updating) || s.silt.taps.any fun t => !t.null && (t.engine == e || t.slices.any fun x => g.slices.contains x)

/-- Time passes: the timebase advances, and with it the counters of time (R34, R327, R385, R517, R604). -/
def State.elapse (s : State) (dt : Nat) : State :=
  { s with
    now := s.now + dt
    pwr := { s.pwr with
      heldNs := if s.timeHeld then s.pwr.heldNs + dt else s.pwr.heldNs
      pacedNs := if s.paceNow < 16 then s.pwr.pacedNs + dt else s.pwr.pacedNs }
    serac := { s.serac with
      units := tmap s.serac.units fun _ u => u.elapse dt }
    silt := { s.silt with
      engines := ((List.range 64).filter s.siltBusy).foldl
        (fun t e => tupd t {} e fun g => { g with busyNs := satAdd g.busyNs dt (2 ^ 64 - 1) }) s.silt.engines } }

/-- VX_TP{p}_RST_N rises once it has been low for 1 us (R525): the pins that rise as time reaches a moment. -/
def State.risingPorts (s : State) (t : Nat) : List Nat :=
  tfind s.serac.units fun _ u => match u.rstAt with | some a => decide (a + 1000 ≤ t) | none => false

/-- The up-direction credit that Vexzer holds for a port after its reset and grants to its cluster, by class (R64). -/
def upMax : List Nat := [16, 0, 64, 64]

/-- The grants of it, as the port's CRD signals carry them. -/
def upGrants (p : Nat) : List (Nat × Nat × Nat) := [(p, 0, 16), (p, 2, 64), (p, 3, 64)]

/-- Release the ports whose reset pulse is over, and grant their clusters the up direction's credit (R64, R525). -/
def State.releasePorts (s : State) (t : Nat) : State :=
  let l := s.risingPorts t
  if l.isEmpty then s
  else { s with
    ports := { s.ports with credits := s.ports.credits ++ l.flatMap upGrants }
    pins := { s.pins with tpRstN := l.foldl (fun m p => m ||| (1#32 <<< p)) s.pins.tpRstN }
    serac := { s.serac with units := tmap s.serac.units fun p u => if l.contains p then { u with rstAt := none } else u } }

/-- Let time pass until the first timebase reading at or after a moment (R12, R34); a moment already past
changes nothing (assumption 5). -/
def State.advanceTo (s : State) (t : Nat) : State :=
  if s.now < t then (s.elapse (roundUp 10 t - s.now)).releasePorts (roundUp 10 t) else s

/-- What a meaning answers. -/
abbrev Out := Host.Outcome State Fault Refusal

/-! ## Outputs at the host port -/

/-- Bytes that nothing defines, from a free value (R348, assumption 3). -/
def freeBytes (k n : Nat) : Blob := (List.range n).map fun i => BitVec.ofNat 8 (Config.free k / 256 ^ i)

/-- Put a transaction on the host port. -/
def State.pushHost (s : State) (x : HostTx) : State :=
  { s with ports := { s.ports with host := s.ports.host ++ [x] } }

/-- Put transactions on the host port, in order. -/
def State.pushHosts (s : State) (l : List HostTx) : State :=
  { s with ports := { s.ports with host := s.ports.host ++ l } }

/-- The pieces of a span, address and length, that no multiple of `lim` divides: `lim` divides 4 KiB, so that no piece is longer than `lim` or
crosses a 4 KiB boundary (R49, assumption 191). -/
def hostPieces (lim addr len : Nat) : List (Nat × Nat) :=
  if len = 0 then []
  else (List.range ((addr + len - 1) / lim - addr / lim + 1)).map fun i =>
    let lo := max addr ((addr / lim + i) * lim)
    (lo, min (addr + len) ((addr / lim + i + 1) * lim) - lo)

/-- The requests that read a span for a function, none longer than its Max_Read_Request_Size. -/
def State.readTx (s : State) (f addr len : Nat) : List HostTx :=
  (hostPieces (s.fn f).cfgRegs.readBytes addr len).map fun e => .read f e.1 e.2

/-- The requests that write a span for a function, none longer than its Max_Payload_Size. -/
def State.writeTx (s : State) (f addr : Nat) (data : Blob) : List HostTx :=
  (hostPieces (s.fn f).cfgRegs.payloadBytes addr data.length).map fun e => .write f e.1 (slice data (e.1 - addr) e.2)

/-- The 4 KiB pages a write touches. -/
def pagesOf (addr len : Nat) : List Nat :=
  if len = 0 then [] else (List.range ((addr + len - 1) / 4096 - addr / 4096 + 1)).map (addr / 4096 + ·)

/-- One written-page record (R227 to R230): none where the filter holds the page or the overflow flag stands; the ring being
full sets overflow. The filter keeps the last 256 pages recorded (DESIGN CHOICE, assumption 169). -/
def State.logPage (s : State) (f page : Nat) : State :=
  let w := (s.fn f).wplog
  if w.filter.contains page || w.overflow then s
  else if (w.tail + 1) % max 1 w.entries = w.head then
    s.updFn f fun x => { x with wplog := { x.wplog with overflow := true } }
  else
    let s1 := s.pushHost (.write 0 (w.base + 8 * w.tail) (leBytes 8 (page * 4096)))
    s1.updFn f fun x => { x with wplog := { x.wplog with
      tail := (x.wplog.tail + 1) % max 1 x.wplog.entries
      filter := (page :: x.wplog.filter).take 256 } }

/-- A write to host memory with a function's requester ID, with its written-page records (R91, R227). -/
def State.hostWrite (s : State) (f addr : Nat) (data : Blob) : State :=
  let s1 := s.pushHosts (s.writeTx f addr data)
  if (s.fn f).wplog.active then (pagesOf addr data.length).foldl (fun t p => t.logPage f p) s1 else s1

/-- A read of host memory with a function's requester ID. -/
def State.hostRead (s : State) (f addr len : Nat) : State := s.pushHosts (s.readTx f addr len)

/-! ## Interrupts (R125, R126) -/

/-- Raise an MSI-X vector: nothing while MSI-X Enable is clear; the pending bit while the vector or the function is masked
(R126). -/
def State.raiseVector (s : State) (f v : Nat) : State :=
  let fn := s.fn f
  if !fn.msixEnable then s
  else if fn.msixMask || (tget fn.vectors {} v).masked then
    s.updFn f fun x => { x with vectors := tupd x.vectors {} v fun m => { m with pending := true } }
  else s.pushHost (.msix f v)

/-- A CQ raises its interrupt: every CQE written so far is signalled (R125). -/
def State.signalCq (s : State) (q : Nat) : State :=
  match tget? s.queues q with
  | some x =>
    (s.modQ q fun y => { y with unsignalled := 0, unsigSince := none }).raiseVector x.fn x.vector
  | none => s

/-! ## Events (R122, R123) -/

/-- Post an event to the admin CQ of a function: an event of a kind already pending there is merged into it (R123,
assumption 6). -/
def State.postEvent (s : State) (f : Nat) (e : Event) (param : Nat) : State :=
  s.updFn f fun x =>
    if x.events.any (·.code == e) then x
    else { x with events := x.events ++ [{ code := e, param := param, time := s.now }] }

/-- The parameter of a queue's events: the queue ID and the function number (R122). -/
def queueParam (q f : Nat) : Nat := q % 8192 + f * 2 ^ 16

/-- Where a queue's own events go: to its function's admin CQ, or to PF0's device admin CQ for an admin queue (R95). -/
def Queue.eventFn (q : Queue) : Nat := if q.admin then 0 else q.fn

/-! ## Moraine (R210) -/

/-- Count discards for a stale generation; the count saturates (R210). -/
def State.moraine (s : State) (f n : Nat) : State :=
  s.updFn f fun x => { x with moraine := satAdd x.moraine n 0xFFFFFFFF }

/-! ## The life of a command record -/

/-- Record numbers in use: the records of commands, and those that keep a held completion (R109, R139). -/
def State.recordsUsed (s : State) : Nat :=
  s.cmds.length + (s.queues.map fun q => q.2.held.length).sum

/-- The command still runs or drains: it has not completed. -/
def Cmd.unfinished (c : Cmd) : Bool :=
  c.stage == .accepted || c.stage == .dispatched || c.stage == .running || c.stage == .ended

/-- The commands of a queue accepted and not yet completed (R93, R108); an entry refused at admission was never accepted. -/
def State.inflight (s : State) (q : Nat) : Nat := tcount s.cmds fun _ c => c.q == q && !c.refused && c.unfinished

/-- The commands and refused entries of a queue whose CQE is not yet produced: each holds a CQ slot (R102). -/
def State.slotsDue (s : State) (q : Nat) : Nat := tcount s.cmds fun _ c => c.q == q

/-- Admin commands Tarn is running (R148): those begun and not yet ended. -/
def State.adminRunning (s : State) : Nat :=
  tcount s.cmds fun _ c => c.admin && (c.stage == .running || c.stage == .dispatched)

/-- The command has no status yet: it waits, or runs and has not failed. -/
def Cmd.live (c : Cmd) : Bool :=
  (c.stage == .accepted || c.stage == .dispatched || c.stage == .running) && c.decided.isNone

/-- Work items of a command that a cluster still holds (R397). -/
def State.worksOf (s : State) (r : Nat) : Nat :=
  (s.serac.units.map fun u => (u.2.works.filter fun w => w.cmd == r && !w.saved).length).sum

/-- The command holds an engine: a work item on a cluster, a tap in Silt, or a memory request of its own (R131). -/
def State.holdsEngine (s : State) (r : Nat) : Bool :=
  decide (s.worksOf r ≠ 0) || (tget? s.cmds r).any (fun c => !c.remoteOut.isEmpty) || s.silt.taps.any (·.cmd == r) || tany s.glz.reads (fun _ m => m.cmd == some r) ||
    tany s.floe.remotes fun _ m => m.q.cmd == some r

/-- A refused entry waits for a command to complete, and completes next in the order of completions (R111). -/
def Cmd.waitsOn (m c : Cmd) : Bool := m.refused && m.stage == .completed && m.order == 0 && m.q == c.q && m.prevNo == c.no

/-- The refused entries that wait for a command complete behind it, in ring order (R111). -/
def State.releaseRefused (s : State) (r : Nat) : State :=
  match tget? s.cmds r with
  | none => s
  | some c =>
    let n := tcount s.cmds fun _ m => m.waitsOn c
    { s with
      cmds := tmap s.cmds fun _ m =>
        if m.waitsOn c then { m with order := s.ledg.compCount + 1 + tcount s.cmds fun _ x => x.waitsOn c && decide (x.no < m.no) } else m
      ledg := { s.ledg with compCount := s.ledg.compCount + n } }

/-- Record a command's end (R108): its end time and its place in the order of completions (R113). A command that never
began has its start time at its end (R120). -/
def State.endCmd (s : State) (r : Nat) (st : Status) : State :=
  let s1 := s.modCmd r fun c => { c with
    stage := .completed, status := st, endT := s.now, start := some (c.start.getD s.now)
    order := s.ledg.compCount + 1, tiles := [], remoteOut := [], waitProv := false, window := none }
  ({ s1 with
    ledg := { s1.ledg with compCount := s1.ledg.compCount + 1 }
    serac := { s1.serac with units := tmap s1.serac.units fun _ u =>
      { u with works := u.works.filter (fun w => w.cmd != r)
               streams := u.streams.filter (fun w => w.cmd != r) } }
    silt := { s1.silt with taps := s1.silt.taps.map fun t => if t.cmd = r then { t with null := true, cmd := 16384, engine := 64 } else t }
    esk := { s1.esk with crev := tmap s1.esk.crev (fun _ v => { v with stuck := v.stuck.filter (· != r) })
                         crevWaiting := s1.esk.crevWaiting.map (fun v => { v with stuck := v.stuck.filter (· != r) }) } } : State).releaseRefused r

/-- Tarn, or the last Serac unit, reports the command's end: the completion arbiter may take it (R108). A status decided before the end is
the command's status (R128). -/
def State.report (s : State) (r : Nat) (st : Status) : State :=
  s.modCmd r fun c => { c with stage := .ended, status := c.decided.getD st, parked := false }

/-- The drain window of a command's function, in ns (R129, R145). -/
def State.drainNs (s : State) (f : Nat) : Nat := (s.fn f).drainUs * 1000

/-- Firn and Melt stop streaming for a command (R129). Where its stream waits on a repair, its work items there cannot run to their end, and the
command holds nothing of the cluster any more (R131, R340). -/
def State.dropStreams (s : State) (r : Nat) : State :=
  { s with serac := { s.serac with units := tmap s.serac.units fun _ u =>
    { u with
      works := if u.streams.any fun w => w.cmd == r && w.stall.isSome then u.works.filter (·.cmd != r) else u.works
      streams := u.streams.filter (·.cmd != r) } } }

/-- Records the ring holds that are not retired (R267). -/
def Esker.crevHeld (e : Esker) : Nat :=
  if e.crevFull then 1024 else (e.crevTail + 1024 - e.crevHead) % 1024

/-- The slots held, oldest first. -/
def Esker.crevSlots (e : Esker) : List Nat :=
  (List.range e.crevHeld).map fun i => (e.crevHead + i) % 1024

/-- A record is open or waiting for a place, and not settled (R268, R270). -/
def Crev.unsettled (r : Crev) : Bool := r.status == 0

/-- Change every held record, and every waiting one, that a condition picks. -/
def State.crevMap (s : State) (p : Crev → Bool) (f : Crev → Crev) : State :=
  { s with esk := { s.esk with
      crev := tmap s.esk.crev fun i r => if s.esk.crevSlots.contains i && p r then f r else r
      crevWaiting := s.esk.crevWaiting.map fun r => if p r then f r else r } }

/-- A parked command expires, fails or ends: it leaves the records it is parked on, and a record on which no command is parked any more
is withdrawn (R131, R272). -/
def State.crevLeave (s : State) (r : Nat) : State :=
  s.crevMap (fun x => x.unsettled && x.stuck.contains r) fun x =>
    let left := x.stuck.filter (· != r)
    { x with stuck := left, status := if left.isEmpty then 3 else x.status }

/-- A command fails, or expires, with a status: the status is decided at this moment and the command drains (R128, R129,
R639). One whose status is decided already, or that has ended, keeps what it has. R129 leaves the contents of an expired command's output
buffers undefined: they hold what the work items that have ended, and those that end as it drains, write there (DESIGN CHOICE, assumption 174). -/
def State.failCmd (s : State) (r : Nat) (st : Status) : State :=
  (if (tget? s.cmds r).any (·.live) then (s.dropStreams r).crevLeave r else s).modCmd r fun c =>
    if c.live then { c with decided := some st, window := some (s.now + s.drainNs c.fn), tiles := [] } else c

/-- Fail the commands of a list (R639). -/
def State.failAll (s : State) (l : List Nat) (st : Status) : State := l.foldl (fun t r => t.failCmd r st) s

/-- The beats a payload needs (R65). -/
def beatsOf (n : Nat) : Nat := (16 + n + 255) / 256

/-- Beats of a class go down a port: each takes one credit, and those that find none wait for it (R63). -/
def SUnit.spend (u : SUnit) (cls n : Nat) : SUnit :=
  let have_ := u.down.getD cls 0
  { u with down := setAt u.down cls (have_ - n), due := setAt u.due cls (u.due.getD cls 0 + (n - have_)) }

/-- Beats of credit of a class come back: the beats that wait take theirs first (R63). -/
def SUnit.earn (u : SUnit) (cls n : Nat) : SUnit :=
  let owed := u.due.getD cls 0
  { u with due := setAt u.due cls (owed - n), down := setAt u.down cls (min (u.down.getD cls 0 + (n - owed)) (u.downMax.getD cls 0)) }

/-- Put a packet on a tile port in the down direction: its first beat takes a credit, and each further beat leaves as one is there (R63,
R65). -/
def State.sendTile (s : State) (p : DownPkt) : State :=
  { (s.updUnit p.port fun u => u.spend p.cls (beatsOf p.payload.length)) with ports := { s.ports with tile := s.ports.tile ++ [p] } }

/-- A packet of a class may begin: no beat of an earlier one waits, and its first beat has a credit (R63, R65, assumption 12). -/
def SUnit.hasCredit (u : SUnit) (cls : Nat) : Bool := decide (0 < u.down.getD cls 0) && u.due.getD cls 0 == 0

/-- One beat of a tile port, as its signals carry it (R62): 256 bytes of DATA, the 16 bits of PAR, CLS, SOP and EOP. -/
structure Beat where
  data : Blob
  par : BitVec 16
  cls : BitVec 2
  sop : Bool
  eop : Bool
deriving DecidableEq, Repr

/-- The parity bit that makes the ones of a byte string and itself odd in number. -/
def oddParity (b : Blob) : Bool := b.foldl (fun a x => (List.range 8).foldl (fun p i => p ^^ x.getLsbD i) a) true

/-- The 16 parity bits of a beat: bit i covers bytes 16i to 16i + 15 (R62). -/
def beatParity (b : Blob) : BitVec 16 := BitVec.ofNat 16 (bitsMask ((List.range 16).filter fun i => oddParity (slice b (16 * i) 16)))

/-- The bytes of a packet: the header, then the payload (R65). -/
def DownPkt.bytes (p : DownPkt) : Blob :=
  leBytes 1 (p.cls * 64 + p.typ) ++ zeros 1 ++ leBytes 2 p.ctx ++ leBytes 4 p.tag ++ leBytes 4 p.payload.length ++ leBytes 4 p.index ++ p.payload

/-- The beats of a packet (R62, R65); the bytes of the last beat after the payload are zeros (assumption 149). -/
def DownPkt.beats (p : DownPkt) : List Beat :=
  let n := beatsOf p.payload.length
  (List.range n).map fun i =>
    let b := slice p.bytes (256 * i) 256
    { data := b, par := beatParity b, cls := BitVec.ofNat 2 p.cls, sop := i == 0, eop := i + 1 == n }

/-- The packet of the up direction as one of the port's packets, which the two directions lay out alike (R62, R65). -/
def upPacket (p : TilePkt) (port cls : Nat) : DownPkt :=
  { port := port, cls := cls, typ := p.typ, index := p.index, tag := p.tag, ctx := p.ctx, payload := p.payload }

/-- The beats of a packet of the up direction, with the PAR signals it came with (R62). -/
def upBeats (p : TilePkt) (cls : Nat) : List Beat :=
  let l := (upPacket p 0 cls).beats
  match p.par with
  | none => l
  | some w => l.zipWith (fun b x => { b with par := x }) w

/-- Every beat's parity is right: its PAR bits make the ones of each 16 bytes and their bit odd in number (R62, R67). -/
def parityOk (p : TilePkt) (cls : Nat) : Bool := p.par.isNone || (upBeats p cls).all fun b => b.par == beatParity b.data

/-- The cluster spends up-direction credit on beats of a class (R63). -/
def SUnit.spendUp (u : SUnit) (cls n : Nat) : SUnit := { u with up := setAt u.up cls (u.up.getD cls 0 - n) }

/-- The 128-bit words that the four lanes of a link carry for a frame: four cycles, 16 bytes for each lane, lane 0 first (R74). -/
def laneWords (f : Blob) : List (List (BitVec 128)) :=
  (List.range 4).map fun c => (List.range 4).map fun l => BitVec.ofNat 128 (leVal (slice f (64 * c + 16 * l) 16))

/-- The frame that words of the four lanes carry (R74). -/
def frameOfWords (w : List (List (BitVec 128))) : Blob := w.flatMap fun c => c.flatMap fun x => leBytes 16 x.toNat

/-- The levels on VX_BYP_OPEN: what Vexzer drives, or the boundary-scan cells in a test mode (R79, R85). -/
def Pins.bypLevel (p : Pins) : BitVec 18 := p.scan.getD p.byp

/-- Send a Floe message on a link. -/
def State.sendFloe (s : State) (link : Nat) (m : FloeMsg) : State :=
  { s with ports := { s.ports with floe := s.ports.floe ++ [(link, m)] } }

/-- Put characters on the UART (R628). -/
def State.sendUart (s : State) (l : List Nat) : State :=
  { s with ports := { s.ports with uart := s.ports.uart ++ l } }

/-- Clusters the topology declares present (R163). -/
def State.clusterRec (s : State) (n : Nat) : Blob := slice (s.topo.clusters.getD []) (64 * n) 64

/-- A cluster is present. -/
def State.present (s : State) (n : Nat) : Bool := s.topo.committed && bit (fld (s.clusterRec n) 4 1) 0

/-- The mask of present clusters. -/
def State.presentMask (s : State) : Nat := bitsMask ((List.range 32).filter fun n => s.present n)

/-! ## The configuration epoch that a request carries (R220 to R223) -/

/-- The engines that adopt a change; a fenced engine is not waited for (R220, R223). -/
def State.concerned (s : State) (i : CfgItem) : List Nat :=
  let serac := ((List.range 32).filter s.present).map (0x0100 + ·)
  let l := match i with
    | .rtReserve _ => serac ++ (List.range 64).map (0x0200 + ·)
    | .fnClusters _ _ => [0x0700]
    | .fnMode _ _ => []
    | .stallLimit _ => [0x0B00]
    | .hotThreshold _ => [0x0800]
    | .cleaveBound _ => serac
    | .links _ => (List.range 36).map (0x0500 + ·)
    | .peers _ => [0x0900]
  l.filter fun e => !(s.eng e).fenced

/-- The epoch that an engine has adopted, and that its requests carry (R221, R222): the last one staged, short of the first that waits for this
engine. A change that does not concern the engine holds none of its epochs up (assumption 159). -/
def State.epochOf (s : State) (e : Nat) : Nat :=
  match s.cfg.staged.find? fun x => (s.concerned x.item).contains e && !x.adopted.contains e with
  | some x => x.epoch - 1
  | none => match s.cfg.waiting.head? with
    | some x => x.epoch - 1
    | none => s.cfg.epoch

/-- The hot-page threshold of an epoch (R159, R221). -/
def Cfg.hotAt (c : Cfg) (e : Nat) : Nat :=
  (c.past.findSome? fun x => match x.2 with | .hotThreshold n => if x.1 ≤ e then some n else none | _ => none).getD 65535

/-- RT_RESERVE of an epoch (R159, R221). -/
def Cfg.rtAt (c : Cfg) (e : Nat) : Nat :=
  (c.past.findSome? fun x => match x.2 with | .rtReserve n => if x.1 ≤ e then some n else none | _ => none).getD 0

/-- What a change replaces: its item, and the function of an item that is a function's. -/
def CfgItem.key : CfgItem → Nat × Nat
  | .rtReserve _ => (1, 0) | .fnClusters f _ => (2, f) | .fnMode f _ => (3, f) | .stallLimit _ => (4, 0) | .hotThreshold _ => (5, 0)
  | .cleaveBound _ => (6, 0) | .links _ => (7, 0) | .peers _ => (8, 0)

/-- The epochs that requests in progress carry. -/
def State.tags (s : State) : List Nat :=
  (s.serac.units.flatMap fun u => u.2.works.map (·.epoch)) ++ s.silt.taps.map (·.epoch) ++
    (s.glz.reads.filterMap fun q => q.2.epoch) ++ (s.floe.links.flatMap fun l => l.2.retry.map (·.epoch)) ++ s.firn.repairs.map (·.epoch)

/-- Drop the changes that no request needs any more (R221): of each item, what stands before the last one at or below `lo`. -/
def trimPast (lo : Nat) (l : List (Nat × CfgItem)) : List (Nat × CfgItem) :=
  l.foldl (fun acc x => if lo < x.1 || !acc.any (fun y => decide (y.1 ≤ lo) && y.2.key == x.2.key) then acc ++ [x] else acc) []

end Sys2Proof.Machine
end

