-- ==== Sys2Proof/Machine/Access.lean ====
section
/-! DEFINITION. What every access at the host port meets before it reaches a register: self-test, hold-up, sleep, holds and the halt (R488, R587, R588,
R590, R593, R601, R621, R622). -/

namespace Sys2Proof.Machine

open Sys2Proof

/-- The registers can be reached: no block reset is held and the self-test has passed (R82, R622). -/
def State.regsUp (s : State) : Bool := s.held.isNone && decide (1 ≤ s.tarn.phase) && s.tarn.phase != 6

/-- Freeze or Permafrost. -/
def State.resident (s : State) : Bool := s.pwr.st == .freeze || s.pwr.st == .permafrost

/-- The interrupt source of a wake latch (R620). -/
def wakeSource : WakeSrc → Nat
  | .packet => 48 | .uart => 49 | .timer => 50

/-- A wake begins (R588 step 1): the supply setpoint returns to the operating point, and VX_PWR_GOOD is low until the supply is within its range
(R79, assumption 22). -/
def State.beginWake (s : State) : State :=
  { s with
    pwr := { s.pwr with st := .waking, target := s.pwr.st, wakeAt := 0, holdup := false }
    pins := { s.pins with vddSel := 0, retEn := false, pwrGood := false } }

/-- A wake source of R587; in a hold-up state it is ignored. -/
def State.startWake (s : State) (src : WakeSrc) : State :=
  if s.resident && !s.pwr.holdup then
    let t := s.pulse (wakeSource src)
    ({ t with pwr := { t.pwr with wakeLatch := some src } } : State).beginWake
  else s

/-- An access that waits at the host port until the stages run again (R588, R590, R593). -/
def State.delay (s : State) (c : Instr) : State := { s with pwr := { s.pwr with delayed := s.pwr.delayed ++ [c] } }

/-- Count accesses in VX_UNMAPPED_ACCESS (R18, R56). -/
def State.countUnmapped (s : State) (n : Nat) : State :=
  { s with ports := { s.ports with unmapped := satAdd s.ports.unmapped n 0xFFFFFFFF } }

/-- What a requester's 4-byte accesses left behind; Tarn's own accesses stand under 4,096. -/
def State.halves (s : State) (f : Nat) : Halves := tget s.ports.halves {} f

/-- Change what a requester's 4-byte accesses left behind. -/
def State.updHalves (s : State) (f : Nat) (g : Halves → Halves) : State :=
  { s with ports := { s.ports with halves := tupd s.ports.halves {} f g } }

/-- A requester makes another access: the low half it holds is discarded and counted (R56). -/
def State.dropHeld (s : State) (f : Nat) : State :=
  if (s.halves f).held.isSome then (s.updHalves f fun h => { h with held := none }).countUnmapped 1 else s

/-- A configuration request to a function (R601, R621, R622): Configuration Request Retry Status until the self-test has passed and in a
hold-up state; asleep, it wakes the block and waits. -/
def State.config (s : State) (c : Instr) (f : State → State) : State :=
  if s.held.isSome then s
  else if s.tarn.phase = 0 || s.tarn.phase = 6 || s.pwr.holdup then s.pushHost .cfgRetry
  else if s.resident || s.pwr.st == .waking then (s.delay c).startWake .packet
  else if s.pwr.brownout || s.pwr.goodHold then s.delay c
  else f s

/-- Whose held half an access discards before it acts: PF0's for the rows that stand for a write of one of its registers; the accesses that go
through the register map see to it there. -/
def accessor : Instr → Option Nat
  | .moraineClear _ _ | .wplogFlush _ _ | .crevRetry _ | .crevAbort _ | .crevHeadWrite _ | .ringJoinRequest _ | .ringReleaseRequest _
  | .engineResetRequest _ | .computeDomainResetRequest | .resetHeadWrite _ => some 0
  | _ => none

/-- The function whose BAR an access reads. -/
def readerOf : Instr → Nat
  | .unmappedAccess (.vf f) _ _ _ => f
  | .splitLowRead (.vf f) _ => f
  | _ => 0

/-- A read of a function's BAR is answered with Completer Abort, which its error status shows (R49, R601, assumption 191). -/
def State.abortRead (s : State) (f : Nat) : State :=
  (s.updFn f fun x => { x with cfgRegs := { x.cfgRegs with uncStatus := x.cfgRegs.uncStatus ||| 0x8000 } }).pushHost .completerAbort

/-- An access of the host, `c`, and what it does at the registers. A read is answered with Completer Abort in a hold-up state, and a write is
discarded (R601); a halt leaves a write without effect (R488). -/
def State.access (s : State) (c : Instr) (read : Bool) (f : State → State) : State :=
  if !s.regsUp then s
  else if s.pwr.holdup then (if read then s.abortRead (readerOf c) else s)
  else if s.resident || s.pwr.st == .waking then (s.delay c).startWake .packet
  else if s.pwr.brownout || s.pwr.goodHold then s.delay c
  else if s.loess.halted && !read then s
  else match accessor c with
    | some g => f (s.dropHeld g)
    | none => f s

end Sys2Proof.Machine
end

