-- ==== Sys2Proof/Machine/Operands.lean ====
section
/-! DEFINITION. The operand forms of the spec: the submission entry and its reserved bytes, the opcode sets, the admin
parameter header, the buffers of an I/O command, batch entries, and device physical addresses. -/

namespace Sys2Proof.Machine

open Sys2Proof

/-! ## The submission entry (R99) -/

def sqeOpcode (b : Blob) : Nat := fld b 0 1
def sqeFlags (b : Blob) : Nat := fld b 1 1
def sqeConcurrent (b : Blob) : Bool := bit (sqeFlags b) 0
def sqeIntNow (b : Blob) : Bool := bit (sqeFlags b) 1
def sqeId (b : Blob) : Nat := fld b 2 2
def sqeGeneration (b : Blob) : Nat := fld b 4 2
def sqeClass (b : Blob) : Nat := fld b 6 1
def sqeTimeout (b : Blob) : Nat := fld b 8 4
def sqeContext (b : Blob) : Nat := fld b 12 2
def sqeVariant (b : Blob) : Nat := fld b 16 4
def sqeHandle (b : Blob) : Nat := fld b 20 4

/-! ## The admin parameter header (R150) -/

def admDataAddr (b : Blob) : Nat := fld b 12 8
def admDataLen (b : Blob) : Nat := fld b 20 4
def admResult (b : Blob) : Nat := fld b 24 8

/-- Where an opcode may be submitted (R147, R155, R167, R175). -/
inductive OpSet where
  /-- the device admin queue only -/
  | device
  /-- every admin queue -/
  | function
  /-- I/O queues -/
  | io
deriving DecidableEq, Repr

/-- A row of the opcode tables: where the opcode may be submitted, whether its table gives a result block, a data buffer it
reads, and the named bytes of its parameters with the bits of each that are not reserved: first byte, length, mask. -/
structure OpRow where
  set : OpSet
  result : Bool := false
  data : Bool := false
  named : List (Nat × Nat) := []
  masked : List (Nat × Nat) := []
deriving DecidableEq, Repr

/-- The opcode tables of R155, R167 and R175. `named` lists bytes that parameters occupy; `masked` lists single bytes with the
bits that a parameter occupies. -/
def opRow : Nat → Option OpRow
  | 0x00 => some { set := .function, result := true }
  | 0x01 => some { set := .function, named := [(32, 22), (54, 10)] }
  | 0x02 => some { set := .function, named := [(32, 4)] }
  | 0x03 => some { set := .function, named := [(32, 4)] }
  | 0x10 => some { set := .device, result := true, named := [(32, 2)], masked := [(34, 1)] }
  | 0x11 => some { set := .device, named := [(32, 2)] }
  | 0x12 => some { set := .device, result := true, named := [(32, 2)] }
  | 0x13 => some { set := .device, result := true, data := true, named := [(32, 2)] }
  | 0x14 => some { set := .device, result := true, data := true, named := [(32, 2)] }
  | 0x15 => some { set := .device, named := [(32, 3), (36, 4)] }
  | 0x18 => some { set := .device, result := true, data := true, named := [(32, 1)] }
  | 0x19 => some { set := .device, result := true }
  | 0x1C => some { set := .device, result := true, named := [(32, 4), (40, 8)] }
  | 0x1D => some { set := .device, named := [(32, 1)] }
  | 0x1E => some { set := .device, named := [(32, 4)] }
  | 0x1F => some { set := .device, result := true, data := true }
  | 0x20 => some { set := .device, named := [(32, 16)], masked := [(48, 1)] }
  | 0x22 => some { set := .device, named := [(32, 6)] }
  | 0x23 => some { set := .device, named := [(32, 6)] }
  | 0x28 => some { set := .function, result := true, named := [(32, 9)] }
  | 0x29 => some { set := .function, named := [(32, 2)] }
  | 0x2A => some { set := .function, named := [(32, 2)] }
  | 0x30 => some { set := .function, result := true, data := true, named := [(32, 12)] }
  | 0x31 => some { set := .function, named := [(32, 4)] }
  | 0x32 => some { set := .function, named := [(32, 2), (35, 29)], masked := [(34, 7)] }
  | 0x33 => some { set := .function, named := [(32, 2), (40, 16)] }
  | 0x34 => some { set := .function, result := true, named := [(32, 4)] }
  | 0x35 => some { set := .function, data := true, named := [(32, 2), (40, 8)], masked := [(34, 7)] }
  | 0x38 => some { set := .device, result := true, data := true, named := [(32, 5), (40, 4)] }
  | 0x39 => some { set := .device, result := true, named := [(32, 4), (40, 4)] }
  | 0x3A => some { set := .device, result := true, data := true, named := [(32, 5), (40, 4)] }
  | 0x3B => some { set := .device, named := [(32, 4)] }
  | 0x40 => some { set := .function, result := true, data := true, named := [(32, 8)] }
  | 0x41 => some { set := .function, named := [(32, 4)] }
  | 0x42 => some { set := .function, data := true, named := [(32, 4)] }
  | 0x43 => some { set := .function, data := true, named := [(32, 4)], masked := [(36, 1)] }
  | 0x44 => some { set := .function, named := [(32, 4)], masked := [(36, 1)] }
  | 0x48 => some { set := .function, result := true, data := true, named := [(32, 1)] }
  | 0x49 => some { set := .function, result := true, data := true, named := [(32, 6)] }
  | 0x4A => some { set := .function, named := [(32, 4)] }
  | 0x50 => some { set := .function, result := true, named := [(32, 14)] }
  | 0x51 => some { set := .function, result := true, named := [(32, 2)] }
  | 0x58 => some { set := .function, result := true, named := [(32, 13)] }
  | 0x59 => some { set := .function, named := [(32, 4)] }
  | 0x5A => some { set := .function, named := [(32, 4)] }
  | 0x5B => some { set := .function, named := [(32, 2)] }
  | 0x80 => some { set := .io, named := [(24, 32)] }
  | 0x81 => some { set := .io, named := [(24, 40)] }
  | 0x82 => some { set := .io, named := [(24, 16)] }
  | 0x83 => some { set := .io, named := [(24, 16)] }
  | 0x84 => some { set := .io, named := [(24, 24)] }
  | 0x88 => some { set := .io, named := [(24, 12)] }
  | 0x89 => some { set := .io, named := [(24, 4)] }
  | 0x8A => some { set := .io, named := [(24, 8)] }
  | _ => none

/-- Opcodes 0x00 to 0x7F form the admin set, 0x80 to 0xFF the I/O set (R147). -/
def opIsIo (op : Nat) : Bool := decide (0x80 ≤ op)

/-- A queue accepts an opcode (R147): the device admin queue every admin opcode of the tables, a function admin queue those of the
set F, an I/O queue the I/O opcodes. -/
def queueAccepts (q : Queue) (op : Nat) : Bool :=
  match opRow op with
  | none => false
  | some r =>
    match r.set with
    | .device => q.admin && q.fn == 0
    | .function => q.admin
    | .io => !q.admin

/-- A byte of the SQE is named by the header or by the opcode's row. -/
def byteNamed (op : Nat) (r : OpRow) (i : Nat) : Bool :=
  decide (i < 7) || (decide (8 ≤ i) && decide (i < 12)) ||
  (if opIsIo op then (decide (12 ≤ i) && decide (i < 14)) || (decide (16 ≤ i) && decide (i < 24))
   else decide (12 ≤ i) && decide (i < 32)) ||
  r.named.any (fun e => decide (e.1 ≤ i) && decide (i < e.1 + e.2)) || r.masked.any (fun e => e.1 == i)

/-- The reserved bytes and bits of an SQE outside its parameter area are zero and its encodings are not reserved (R16, R99, R100): for an opcode
of the I/O set, bytes 14 and 15 among them. -/
def sqeReservedOk (b : Blob) : Bool :=
  decide (sqeFlags b < 4) && decide (sqeClass b < 3) && decide (sqeId b ≠ 0xFFFF) && decide (fld b 7 1 = 0) &&
    (!opIsIo (sqeOpcode b) || fld b 14 2 == 0)

/-- The reserved bytes and bits of the parameter area are zero (R16, R153). They are judged with the parameters, in check 6 (R638,
assumption 7). -/
def paramsReservedOk (b : Blob) : Bool :=
  let op := sqeOpcode b
  match opRow op with
  | none => true
  | some r =>
    ((List.range 64).all fun i => byteNamed op r i || i == 7 || fld b i 1 == 0) &&
    r.masked.all fun e => fld b e.1 1 % (e.2 + 1) == fld b e.1 1

/-- The common header of an admin command is well formed, and nothing reserved in its parameter area is set (R150, R152, R638): the data
buffer is 4 KiB-aligned and has length 0 where it is absent, the result block is 64-byte aligned and present where the opcode gives one. -/
def admHeaderOk (b : Blob) : Bool :=
  paramsReservedOk b && decide (admDataAddr b % 4096 = 0) && (decide (admDataAddr b ≠ 0) || decide (admDataLen b = 0)) &&
  decide (admResult b % 64 = 0) &&
  match opRow (sqeOpcode b) with
  | some r => !r.result || decide (admResult b ≠ 0)
  | none => true

/-! ## Sorting by a key (step orders, lists of intervals) -/

/-- Insert by an order. -/
def insBy {α : Type} (le : α → α → Bool) (x : α) : List α → List α
  | [] => [x]
  | y :: t => if le x y then x :: y :: t else y :: insBy le x t

/-- Sort by an order, keeping the order of equals. -/
def sortBy {α : Type} (le : α → α → Bool) (l : List α) : List α := l.foldr (insBy le) []

/-- Sort numbers in increasing order. -/
def sortNat (l : List Nat) : List Nat := sortBy (fun a b => decide (a ≤ b)) l

/-! ## I/O parameters (R175) -/

/-- The command runs a stored graph or kernel on clusters. -/
def opRunsGraph (op : Nat) : Bool := op == 0x80 || op == 0x81 || op == 0x82 || op == 0x83

/-- The command is a step: INFER_STEP or TRAIN_STEP. -/
def opIsStep (op : Nat) : Bool := op == 0x80 || op == 0x81

def ioBatchCount (b : Blob) : Nat := fld b 48 4

/-- arith_cfg of the opcodes that carry one (R166, R175). -/
def ioArith (b : Blob) : Nat :=
  if opIsStep (sqeOpcode b) then fld b 52 4
  else if opRunsGraph (sqeOpcode b) then fld b 36 4 else 0

/-- The virtual address of a buffer by its code (R252): in 0, out 1, batch 2, opt 3, arg 4, src 5, dst 6, result 7. The key/value
space of a step is buffer 4 from address 0 (R434). -/
def ioBufAddr (b : Blob) (buf : Nat) : Nat :=
  let op := sqeOpcode b
  if opIsStep op then
    match buf with
    | 0 => fld b 24 8 | 1 => fld b 32 8 | 2 => fld b 40 8 | 3 => fld b 56 8 | _ => 0
  else if opRunsGraph op then fld b 24 8
  else if op == 0x84 then (if buf = 5 then fld b 24 8 else fld b 32 8)
  else fld b 24 8

/-- The command gives a buffer (R252). -/
def opGives (op buf : Nat) : Bool :=
  if op == 0x80 then buf == 0 || buf == 1 || buf == 2 || buf == 4
  else if op == 0x81 then buf == 0 || buf == 1 || buf == 2 || buf == 3 || buf == 4
  else buf == 4

/-- The fixed extent of a buffer that the command's parameters give: address and length (R252). -/
def ioExtents (b : Blob) : List (Nat × Nat × Nat × Nat) :=
  let op := sqeOpcode b
  -- (buffer, access, address, length)
  if op == 0x80 then [(2, 1, fld b 40 8, 16 * ioBatchCount b)]
  else if op == 0x81 then [(2, 1, fld b 40 8, 16 * ioBatchCount b), (3, 1, fld b 56 8, 32)]
  else if opRunsGraph op then (if fld b 32 4 = 0 then [] else [(4, 3, fld b 24 8, fld b 32 4)])
  else if op == 0x84 then
    (if fld b 40 8 = 0 then [] else [(5, 1, fld b 24 8, fld b 40 8), (6, 2, fld b 32 8, fld b 40 8)])
  else if op == 0x88 then [(7, 2, fld b 24 8, 8)]
  else []

/-- A batch entry (R175). -/
def batchEnt (b : Blob) : BatchEnt :=
  { seq := fld b 0 4, variant := fld b 4 4, tokens := fld b 8 4, input := fld b 12 4 }

/-- The batch, with the SQE's variant in the place of 0xFFFFFFFF (R175). -/
def batchOf (sqe bytes : Blob) : List BatchEnt :=
  (chunks 16 (ioBatchCount sqe) bytes).map fun e =>
    let x := batchEnt e
    if x.variant = 0xFFFFFFFF then { x with variant := sqeVariant sqe } else x

/-- The elements of a list, each once, in the order of their first places. -/
def nubBy (l : List Nat) : List Nat :=
  l.foldl (fun acc x => if acc.contains x then acc else acc ++ [x]) []

/-- The distinct non-zero variants a command names, in its SQE or its batch, in increasing ID (R494, R496): a step's SQE variant is named whether or
not an entry takes it. -/
def namedVariants (sqe : Blob) (batch : List BatchEnt) : List Nat :=
  let l := sqeVariant sqe :: if opIsStep (sqeOpcode sqe) then batch.map (·.variant) else []
  sortNat (nubBy (l.filter (· != 0)))

/-- Format codes that act_fmt and adapter_fmt permit (R166). -/
def arithFieldsOk (a : Nat) : Bool :=
  decide (a < 2 ^ 14) && decide (bits a 13 12 < 2) && decide (bits a 11 8 = 0)

/-- act_fmt and adapter_fmt name permitted formats (R165, R166). -/
def arithFormatsOk (a : Nat) : Bool :=
  (bits a 7 4 == 1 || bits a 7 4 == 8) &&
  (bits a 3 0 == 1 || bits a 3 0 == 2 || bits a 3 0 == 3 || bits a 3 0 == 8)

/-! ## Device physical addresses (R240) -/

/-- A DPA as a 64-bit value. -/
def dpaOf (key node tier offset : Nat) : Nat := key * 2 ^ 52 + node * 2 ^ 46 + tier * 2 ^ 44 + offset

def dpaKey (d : Nat) : Nat := bits d 63 52
def dpaNode (d : Nat) : Nat := bits d 51 46
def dpaTier (d : Nat) : Nat := bits d 45 44
def dpaOffset (d : Nat) : Nat := bits d 43 0

/-- This chip's node ID, from the memory record (R163). -/
def State.nodeId (s : State) : Nat := fld (s.topo.memory.getD []) 0 1 % 64

/-- Usable HBM and board bytes (R163). -/
def State.hbmBytes (s : State) : Nat := fld (s.topo.memory.getD []) 8 8
def State.boardBytes (s : State) : Nat := fld (s.topo.memory.getD []) 16 8

/-- 2 MiB. -/
def frameBytes : Nat := 2097152

/-- Frames of bytes, rounded up. -/
def framesFor (n : Nat) : Nat := (n + frameBytes - 1) / frameBytes

/-- The HBM frames of the frame key table (R275): the last is cut short where hbm_bytes ends within it. -/
def State.hbmFrames (s : State) : Nat := framesFor s.hbmBytes

/-- The index of a frame in the frame key table: HBM frames first, then board frames (R288). -/
def State.frameIndex (s : State) (tier frame : Nat) : Nat :=
  if tier = 0 then frame else s.hbmFrames + frame

/-- The frame key table or host chunk table entry of an address (R275). -/
def State.fktEntry (s : State) (tier offset : Nat) : Option Fkt :=
  if tier = 2 then tget? s.esk.chunks (offset / frameBytes)
  else if (if tier = 0 then s.hbmBytes else s.boardBytes) ≤ offset then none
  else tget? s.esk.frames (s.frameIndex tier (offset / frameBytes))

end Sys2Proof.Machine
end

