-- ==== Sys2Proof/Machine/GlazeOps.lean ====
section
/-! DEFINITION. Kaolin's keys, Glaze's write counters and re-keys, Varve's slots and tree, and the halt (R454 to R489); and the frames of
the memory tiers (R276). The clear contents of memory stand in `State.mem`; what a bus agent could see of them is out of scope. -/

namespace Sys2Proof.Machine

open Sys2Proof

/-- Copy a range of device memory. -/
def memCopy (m : List Host.Cell) (src dst n : Nat) : List Host.Cell :=
  (m.filter fun c => decide (src ≤ c.1) && decide (c.1 < src + n)).foldl
    (fun acc c => memPut acc (dst + (c.1 - src)) c.2) (memClear m dst n)

/-! ## Frames (R276) -/

/-- A frame of a tier that nothing owns: below the tier's size and absent from the frame key table. -/
def State.frameFree (s : State) (tier frame : Nat) : Bool :=
  (tget? s.esk.frames (s.frameIndex tier frame)).isNone &&
    decide ((frame + 1) * frameBytes ≤ if tier = 0 then s.hbmBytes else s.boardBytes)

/-- Frames of a tier. -/
def State.frameCount (s : State) (tier : Nat) : Nat := if tier = 0 then s.hbmFrames else s.boardBytes / frameBytes

/-- The count of free frames of a tier. -/
def State.freeFrames (s : State) (tier : Nat) : Nat :=
  let base := s.hbmFrames
  s.frameCount tier - tcount s.esk.frames fun k _ => if tier = 0 then decide (k < base) else decide (base ≤ k)

/-- The lowest free frame of a tier. -/
def State.lowestFrame (s : State) (tier : Nat) : Option Nat := (List.range (s.frameCount tier)).find? (s.frameFree tier)

/-- Write a frame's entry in the frame key table, or a chunk's in the host chunk table. -/
def State.setFkt (s : State) (tier frame : Nat) (e : Fkt) : State :=
  if tier = 2 then { s with esk := { s.esk with chunks := tset s.esk.chunks frame e } }
  else { s with esk := { s.esk with frames := tset s.esk.frames (s.frameIndex tier frame) e } }

/-- Clear a frame's entry. -/
def State.clearFkt (s : State) (tier frame : Nat) : State :=
  if tier = 2 then { s with esk := { s.esk with chunks := tdel s.esk.chunks frame } }
  else { s with esk := { s.esk with frames := tdel s.esk.frames (s.frameIndex tier frame) } }

/-! ## Keys (R455, R456) -/

/-- A key slot. -/
def State.key (s : State) (k : Nat) : KeySlot := tget s.kao.slots {} k

/-- Change a key slot. -/
def State.updKey (s : State) (k : Nat) (f : KeySlot → KeySlot) : State :=
  { s with kao := { s.kao with slots := tupd s.kao.slots {} k f } }

/-- A fresh 256-bit key, from the random bit generator. -/
def State.freshKey (s : State) : Nat := s.draw % 2 ^ 256

/-- Fill a slot with a fresh key in half 0, at key epoch 0, for an owner. -/
def State.fillKey (s : State) (k : Nat) (owner : Option Nat) : State :=
  (s.updKey k fun x => { x with half0 := s.freshKey, half1 := 0, epoch := 0, owner := owner }).drawn

/-- Zero a slot with its record and key epoch (R456). -/
def State.dropKey (s : State) (k : Nat) : State := { s with kao := { s.kao with slots := tdel s.kao.slots k } }

/-- The key-epoch bit of a key ID. -/
def State.keyBit (s : State) (k : Nat) : Bool := bit (s.key k).epoch 0

/-! ## Varve slots (R476) -/

/-- The slot that covers a frame. -/
def State.slotOf (s : State) (tier frame : Nat) : Option (Nat × VSlot) :=
  s.varve.slots.find? fun e => e.2.frame == some (tier, frame)

/-- Change a slot. -/
def State.modSlot (s : State) (k : Nat) (f : VSlot → VSlot) : State :=
  { s with varve := { s.varve with slots := tmod s.varve.slots k f } }

/-- Slots in all. -/
def varveSlots : Nat := 917504

/-- The tier of the metadata block for a frame of a tier. -/
def blockTier (tier : Nat) : Nat := if tier = 0 then 0 else 1

/-- Metadata blocks of a tier. -/
def Varve.blocksIn (v : Varve) (t : Nat) : Nat := if t = 0 then v.blocks.1 else v.blocks.2

/-- Count a new metadata block of a tier; the first of 29 takes a free frame of the tier (R477). -/
def State.newBlock (s : State) (t : Nat) : Option State :=
  let n := s.varve.blocksIn t
  let s1 := { s with varve := { s.varve with blocks := if t = 0 then (n + 1, s.varve.blocks.2) else (s.varve.blocks.1, n + 1) } }
  if n % 29 ≠ 0 then some s1
  else (s.lowestFrame t).map fun f =>
    ({ s1 with varve := { s1.varve with metaFrames := s1.varve.metaFrames ++ [(t, f)] } } : State).setFkt t f { prot := 2, key := 7 }

/-- A free slot for a frame of a tier: one whose block lies in the frame's tier, then any. -/
def State.freeSlot (s : State) (tier : Nat) : Option Nat :=
  let ok (v : VSlot) : Bool := v.frame.isNone && !v.retire
  match s.varve.slots.find? fun e => ok e.2 && e.2.tier == blockTier tier with
  | some e => some e.1
  | none => (s.varve.slots.find? fun e => ok e.2).map (·.1)

/-- Give a slot to a frame: every page's major counter goes up by one, its minors are zero, it begins in the key's current epoch, and every
counter line is dirty (R470, R475, R481). -/
def State.useSlot (s : State) (k tier frame key : Nat) : State :=
  let b := s.keyBit key
  s.modSlot k fun v => { v with
    raised := some [], frame := some (tier, frame), key := key, base := v.base + 1, epochBit := b, bad := []
    pages := tmap v.pages fun _ c => { c with major := c.major + 1, epochBit := b, minors := [] } }

/-- Put a frame under Glaze: it takes a slot, none where no slot and no block can be had. -/
def State.protect (s : State) (tier frame key : Nat) : Option State :=
  match s.freeSlot tier with
  | some k => some (s.useSlot k tier frame key)
  | none =>
    let k := s.varve.slots.length
    if varveSlots ≤ k then none
    else (s.newBlock (blockTier tier)).map fun t =>
      ({ t with varve := { t.varve with slots := tset t.varve.slots k { tier := blockTier tier } } } : State).useSlot k tier frame key

/-- Put the frames of a list under Glaze, one after another; each reads as zeros (R469, R470). -/
def State.protectAll (tier key : Nat) : List Nat → State → Option State
  | [], s => some s
  | f :: t, s =>
    match s.protect tier f key with
    | none => none
    | some s2 => State.protectAll tier key t { s2 with mem := memClear s2.mem (devAddr tier (f * frameBytes)) frameBytes }

/-- Take frames of a tier for an entry of the frame key table: under Glaze each takes a Varve slot, none where a slot cannot be had
(R276, R476). -/
def State.takeFrames (s : State) (tier : Nat) (e : Fkt) (l : List Nat) : Option State :=
  let s1 := l.foldl (fun x g => x.setFkt tier g e) s
  if e.prot = 0 then State.protectAll tier e.key l s1 else some s1

/-- The clear bytes of a frame go: what lay there under Glaze, and the chunk of the host, no later owner reads (R382, R470, assumption 187). -/
def State.forgetFrame (s : State) (tier frame : Nat) : State := { s with mem := memClear s.mem (devAddr tier (frame * frameBytes)) frameBytes }

/-- Free a frame: its entry is cleared and its slot returns to the free list unless it is marked to retire; a re-key walk skips it (R276,
R475, R476). -/
def State.releaseFrame (s : State) (tier frame : Nat) : State :=
  let s1 := s.clearFkt tier frame
  match s1.slotOf tier frame with
  | none => if tier = 2 then s1.forgetFrame tier frame else s1
  | some (k, v) =>
    let s2 := (s1.forgetFrame tier frame).modSlot k fun x => { x with frame := none, bad := [], raised := none }
    s2.updKey v.key fun x => { x with walk := x.walk.map fun l => l.filter fun p => p.1 != k }

/-! ## Write counters, re-encryption and re-keying (R467 to R475) -/

/-- The counters of a page of a slot. -/
def VSlot.page (v : VSlot) (p : Nat) : PageCtr := tget v.pages { major := v.base, epochBit := v.epochBit } p

/-- Change a page's counters; the counter line is then dirty (R480, R481). -/
def State.setPage (s : State) (k p : Nat) (c : PageCtr) : State :=
  let s1 := s.modSlot k fun v => { v with pages := tset v.pages p c }
  let n := (0, k * 512 + p)
  if s1.varve.dirty.contains n then s1 else { s1 with varve := { s1.varve with dirty := s1.varve.dirty ++ [n] } }

/-- A page as its whole re-encryption leaves it: its written granules at minor 1. -/
def PageCtr.rewrite (c : PageCtr) (major : Nat) (b : Bool) : PageCtr :=
  { major := major, epochBit := b, minors := (c.minors.filter fun m => m.2 != 0).map fun m => (m.1, 1) }

/-- A page leaves the walk of its key. -/
def State.leaveWalk (s : State) (key k p : Nat) : State :=
  s.updKey key fun x => { x with walk := x.walk.map fun l => l.filter (· != (k, p)) }

/-! ## What the granules of a page hold -/

/-- The IV and the additional data of a granule (R468). -/
def glazeIv (k p g : Nat) (c : PageCtr) (key : Nat) : LastIv :=
  { iv := BitVec.ofNat 96 (at_ (k % 2 ^ 20) 76 + at_ p 67 + at_ g 64 + at_ (c.major % 2 ^ 40) 24 + tget c.minors 0 g % 2 ^ 24)
    aad := BitVec.ofNat 64 (key % 4096 + at_ (b2n c.epochBit) 12), half := c.epochBit }

/-- The granule of an unwritten page, which Glaze answers with zeros (R469). -/
def State.unwritten (s : State) (tier off : Nat) : Bool :=
  match s.slotOf tier (off / frameBytes) with
  | some (_, v) => tget (v.page (off % frameBytes / 4096)).minors 0 (off % 4096 / 512) == 0
  | none => false

/-- The bytes of a granule as they leave Glaze: AES-256 in the GCM construction under the half that the page's key-epoch bit selects (R468). -/
def State.granuleCipher (s : State) (k p g : Nat) (v : VSlot) (clear : Blob) : Blob :=
  let c := v.page p
  let x := s.key v.key
  gctr (roundKeys (leBytes 32 (if c.epochBit then x.half1 else x.half0))) (beOf 12 (glazeIv k p g c v.key).iv.toNat) clear

/-- The host chunk of an address of the host tier (R242). -/
def State.chunkOf (s : State) (tier off : Nat) : Option Fkt := if tier = 2 then tget? s.esk.chunks (off / frameBytes) else none

/-- Glaze reads a granule of a host chunk, and its owner's host port shows it (R242, R469). -/
def State.chunkFetch (s : State) (tier off : Nat) : State :=
  match s.chunkOf tier off with
  | some e => s.hostRead e.fn (e.addr + off % frameBytes / 512 * 512) 512
  | none => s

/-- Glaze writes a granule of a host chunk: the host port shows the whole granule's ciphertext, and the written-page record of the chunk's owner
(R227, R242, R468, R472). -/
def State.chunkStore (s : State) (tier off : Nat) : State :=
  match s.chunkOf tier off, s.slotOf tier (off / frameBytes) with
  | some e, some (k, v) =>
    let lo := off / 512 * 512
    s.hostWrite e.fn (e.addr + lo % frameBytes)
      (s.granuleCipher k (off % frameBytes / 4096) (off % 4096 / 512) v (memRead s.mem (devAddr tier lo) 512))
  | _, _ => s

/-- The written granules of a page. -/
def PageCtr.written (c : PageCtr) : List Nat := (List.range 8).filter fun g => tget c.minors 0 g != 0

/-- A page is read, and written again under new counters or another half (R473, R474). -/
def State.recrypt (s : State) (k p : Nat) (c : PageCtr) : State :=
  match tget? s.varve.slots k with
  | none => s
  | some v => match v.frame with
    | none => s.setPage k p c
    | some f =>
      let at_ (g : Nat) : Nat := f.2 * frameBytes + p * 4096 + g * 512
      let s1 := ((v.page p).written.foldl (fun t g => t.chunkFetch f.1 (at_ g)) s).setPage k p c
      c.written.foldl (fun t g => t.chunkStore f.1 (at_ g)) s1

/-- End a re-key walk: every page left moves to the new epoch, and the old half is zeroed (R474). -/
def State.endWalk (s : State) (key : Nat) : State :=
  match (s.key key).walk with
  | none => s
  | some l =>
    let b := s.keyBit key
    let s1 := l.foldl (fun t e => match tget? t.varve.slots e.1 with
      | some v => t.recrypt e.1 e.2 { v.page e.2 with epochBit := b }
      | none => t) s
    s1.updKey key fun x => { x with walk := none, half0 := if b then 0 else x.half0, half1 := if b then x.half1 else 0 }

/-- The pages of every frame under a key that are not in an epoch, in increasing slot and page order. -/
def State.oldPages (s : State) (key : Nat) (b : Bool) : List (Nat × Nat) :=
  (s.varve.slots.filter fun e => e.2.frame.isSome && e.2.key == key).flatMap fun e =>
    ((List.range 512).filter fun p => (e.2.page p).epochBit != b).map fun p => (e.1, p)

/-- Start a re-key of a key ID: a fresh key in the other half, the next key epoch, and the walk of its pages (R474). -/
def State.startRekey (s : State) (key : Nat) : State :=
  let x := s.key key
  let b := !bit x.epoch 0
  let s1 := (s.updKey key fun y => { y with
    epoch := (y.epoch + 1) % 2 ^ 32, half0 := if b then y.half0 else s.freshKey, half1 := if b then s.freshKey else y.half1 }).drawn
  let s2 := s1.updKey key fun y => { y with walk := some (s1.oldPages key b) }
  { s2 with glz := { s2.glz with rekeys := satAdd s2.glz.rekeys 1 0xFFFFFFFF } }

/-- A page whose major counter has reached its end is re-encrypted under a new key with its major counter at 0, and its slot is marked to
retire: in the walk that runs where the page is still in the old epoch, otherwise in a re-key of its own, which waits for the walk that
runs (R474, R475). -/
def State.rekeyPage (s : State) (key k p : Nat) (c : PageCtr) : State :=
  let s1 :=
    match (s.key key).walk with
    | none => s.startRekey key
    | some _ => if c.epochBit == s.keyBit key then (s.endWalk key).startRekey key else s
  ((s1.recrypt k p (c.rewrite 0 (s1.keyBit key))).modSlot k fun v => { v with retire := true }).leaveWalk key k p

/-- Re-encrypt a page on minor overflow (R473). -/
def State.reencrypt (s : State) (k p : Nat) (v : VSlot) : State :=
  let c := v.page p
  let s1 := { s with glz := { s.glz with reenc := satAdd s.glz.reenc 1 0xFFFFFFFF } }
  if c.major = 2 ^ 40 - 1 then s1.rekeyPage v.key k p c
  else (s1.recrypt k p (c.rewrite (c.major + 1) (s1.keyBit v.key))).leaveWalk v.key k p

/-- Count a granule's write: its minor counter goes up by one, and the granule is encrypted under it (R468). -/
def State.bumpMinor (s : State) (k p g : Nat) : State :=
  match tget? s.varve.slots k with
  | none => s
  | some v =>
    let c := v.page p
    let c1 := { c with minors := tset c.minors g (tget c.minors 0 g + 1) }
    let s1 := s.setPage k p c1
    { s1 with glz := { s1.glz with last := glazeIv k p g c1 v.key } }

/-- What a write of `len` bytes within one granule does to Glaze's counters (R468, R472, R473). -/
def State.glazeWrite (s : State) (tier off len : Nat) : State :=
  match s.slotOf tier (off / frameBytes) with
  | none => s
  | some (k, v) =>
    let p := off % frameBytes / 4096
    let g := off % 4096 / 512
    let m := tget (v.page p).minors 0 g
    let s1 := if len < 512 ∧ m ≠ 0 then { s with glz := { s.glz with partials := (s.glz.partials + 1) % 2 ^ 64 } } else s
    (if m = 0xFFFFFF then s1.reencrypt k p v else s1).bumpMinor k p g

/-- An address lies in a page that Varve has marked unverifiable (R482). -/
def State.pageBad (s : State) (tier off : Nat) : Bool :=
  match s.slotOf tier (off / frameBytes) with
  | some (_, v) => v.bad.contains (off % frameBytes / 4096)
  | none => false

/-- The Glaze engine that serves a page (R471), its partner where it is fenced (R523). -/
def State.glazeEngine (s : State) (k p : Nat) : Nat :=
  let e := (k * 512 + p) % 24
  if (s.eng (0x0400 + e)).fenced then (e + 12) % 24 else e

/-! ## The tree (R478 to R483) -/

/-- A node of the tree is dirty: its line has changed since it was last written back, or its frame's allocation raised it. -/
def Varve.isDirty (v : Varve) (level pos : Nat) : Bool :=
  v.dirty.contains (level, pos) ||
    (level == 0 && match tget? v.slots (pos / 512) with
      | some x => (match x.raised with | some l => !l.contains (pos % 512) | none => false)
      | none => false)

/-- Write a dirty node back: its version, which its parent holds, goes up by one, and the parent below level 4 is then dirty (R478, R480,
R481). -/
def State.writeNode (s : State) (level pos : Nat) : State :=
  let n := (level, pos)
  let v := s.varve
  let up := (level + 1, pos / 8)
  let ver := ((v.versions.find? (·.1 == n)).map (·.2)).getD 0
  let dirty := v.dirty.filter (· != n)
  let wash (x : VSlot) : VSlot := { x with raised := x.raised.map fun l => if l.contains (pos % 512) then l else l ++ [pos % 512] }
  let s0 := if level = 0 then s.modSlot (pos / 512) wash else s
  { s0 with varve := { s0.varve with
      dirty := if level < 3 && !dirty.contains up then dirty ++ [up] else dirty
      lastWrite := (n, s.now) :: v.lastWrite.filter (·.1 != n)
      versions := (n, ver + 1) :: v.versions.filter (·.1 != n) } }

/-- The slot of a tree node, and the pages of the slot that it covers: first page and count (R478, R482). -/
def nodePages (level pos : Nat) : Nat × Nat × Nat :=
  match level with
  | 0 => (pos / 512, pos % 512, 1)
  | 1 => (pos / 64, pos % 64 * 8, 8)
  | 2 => (pos / 8, pos % 8 * 64, 64)
  | _ => (pos, 0, 512)

/-! ## The halt (R486 to R489) -/

/-- The place of a node of the tree: tier and offset (R477). -/
def State.nodePlace (s : State) (level k p : Nat) : Nat × Nat :=
  match tget? s.varve.slots k with
  | none => (0, 0)
  | some v =>
    if 3 ≤ level then (0, s.varve.region + 8388608 + 64 * k)
    else
      let b := (s.varve.slots.filter fun e => e.2.tier == v.tier && decide (e.1 < k)).length
      let f := (((s.varve.metaFrames.filter fun e => e.1 == v.tier).map (·.2))[b / 29]?).getD 0
      (v.tier, f * frameBytes + 70144 * (b % 29) + (if level = 0 then 64 * p else if level = 1 then 0x10000 + 64 * (p / 8) else 0x11000 + 64 * (p / 64)))

/-- The position of a node of the path of a page (R478). -/
def nodePos (level k p : Nat) : Nat :=
  match level with | 0 => k * 512 + p | 1 => k * 64 + p / 8 | 2 => k * 8 + p / 64 | _ => k

/-- The seal record of a failed check (R487, R489): level 0xFF is the data granule. -/
def State.sealFor (s : State) (q : MemReq) (cause level k p : Nat) : Seal :=
  let place := if level = 255 then (q.tier, q.offset) else s.nodePlace level k p
  { cause := cause, level := level, slot := k, engine := s.glazeEngine k p, remote := q.remote,
    key := match tget? s.varve.slots k with | some v => v.key | none => q.key,
    dpa := dpaOf (if level = 255 then q.key else 7) s.nodeId place.1 place.2 }

/-- A failed check halts the block: the data paths stop, the bypasses close, the seal record is written, and Kaolin and the Silt caches are
cleared (R487). A failed check after the first is only counted (R489). -/
def State.halt (s : State) (r : Seal) : State :=
  match s.loess.halted, s.loess.sealRec with
  | true, some x => { s with loess := { s.loess with sealRec := some { x with further := satAdd x.further 1 0xFFFFFFFF } } }
  | _, _ =>
    { s with
      pins := { s.pins with byp := 0, haltN := false }
      loess := { s.loess with halted := true, sealRec := some { r with time := s.now, cfgEpoch := s.cfg.epoch } }
      kao := { s.kao with slots := [], erased := true }
      silt := { s.silt with engines := tmap s.silt.engines fun _ e => { e with slices := [], inters := [] } } }

end Sys2Proof.Machine
end

