-- ==== Sys2Proof/Machine/LedgerOps.lean ====
section
/-! DEFINITION. What Ledger makes of a command: the completion entry, the receipt and the checkpoint as bytes, a function's
chain, and the appending of a receipt (R118, R494 to R504). -/

namespace Sys2Proof.Machine

open Sys2Proof

/-! ## The completion entry (R118, R119) -/

/-- The 32 bytes of a completion entry with the phase the slot takes (R118, R121). -/
def Cqe.bytes (c : Cqe) (phase : Bool) : Blob :=
  leBytes 2 c.commandId ++ leBytes 2 c.status ++ leBytes 2 c.sqHead ++ leBytes 2 c.generation ++
  leBytes 6 c.startTime ++ leBytes 6 c.endTime ++ leBytes 4 c.queuedNs ++ leBytes 2 c.preemptions ++
  leBytes 2 (int16 c.minMargin) ++ leBytes 2 c.boundLayers ++
  leBytes 1 (b2n phase + 2 * b2n c.event + 4 * b2n c.replayed + 8 * b2n c.marginSat) ++ leBytes 1 c.faults

/-- A margin in units of 100 ns, rounded toward negative infinity (R328). -/
def marginUnits (m : Option Int) : Int := match m with | some x => x / 100 | none => 0

/-- The nearest limit of ±32,767 units (R119). -/
def marginClamp (u : Int) : Int := max (-32767) (min 32767 u)

/-- A margin lies beyond the limits (R119). -/
def marginSat (u : Int) : Bool := decide (u < -32767) || decide (32767 < u)

/-- Time from the capture of the doorbell write to the start, saturating (R118, R120). -/
def Cmd.queuedNs (c : Cmd) : Nat := min (c.start.getD c.endT - c.capture) 0xFFFFFFFF

/-- The completion entry of a command (R118): generation is the function's when the CQE is produced. -/
def State.cqeOf (s : State) (c : Cmd) : Cqe :=
  { faults := min c.faults 255
    marginSat := marginSat (marginUnits c.minMargin)
    boundLayers := min c.bound.length 0xFFFF
    minMargin := marginClamp (marginUnits c.minMargin)
    preemptions := min c.preempts 0xFFFF
    queuedNs := c.queuedNs
    endTime := c.endT % 2 ^ 48
    startTime := c.start.getD c.endT % 2 ^ 48
    generation := (s.fn c.fn).generation
    sqHead := c.sqHead
    status := c.status.code
    commandId := sqeId c.sqe
    intNow := sqeIntNow c.sqe }

/-- An event as a completion entry (R122). -/
def PendEvent.cqe (e : PendEvent) : Cqe :=
  { event := true, commandId := 0xFFFF, status := e.code.code, startTime := e.time % 2 ^ 48, queuedNs := e.param,
    intNow := true }

/-! ## The receipt (R494 to R497, R512) -/

/-- The 256 bytes of a receipt (R494). -/
def Receipt.bytes (r : Receipt) : Blob :=
  leBytes 4 0x43525856 ++ leBytes 1 1 ++ leBytes 1 r.kind ++ leBytes 1 r.cls ++ leBytes 1 r.opcode ++
  leBytes 8 r.seq ++ leBytes 2 r.fn ++ leBytes 2 r.ctx ++ leBytes 2 r.pool ++ leBytes 2 r.status ++
  leBytes 4 r.variant ++ leBytes 4 r.variantCount ++ leBytes 2 r.commandId ++ leBytes 2 r.generation ++
  leBytes 1 r.imageId ++ leBytes 1 r.flags ++ leBytes 2 r.imageVersion ++ leBytes 4 r.handle ++
  leBytes 2 r.graphVersion ++ leBytes 2 r.quantumUs ++ leBytes 4 r.arith ++ leBytes 4 r.revision ++
  leBytes 4 r.digestRevision ++ zeros 2 ++ leBytes 1 r.fwdFormat ++ leBytes 1 r.bwdFormat ++
  padTo 48 r.imageDigest ++ padTo 48 r.adapterDigest ++ leBytes 4 r.quanta ++ leBytes 2 r.preemptions ++
  leBytes 2 r.faults ++ leBytes 4 r.queuedNs ++ leBytes 2 r.boundLayers ++ leBytes 2 (int16 r.minMargin) ++
  leBytes 8 r.startTime ++ leBytes 8 r.endTime ++ leBytes 8 r.issueOrder ++ leBytes 8 r.completionOrder ++
  padTo 48 r.prevDigest

/-- The 64-byte record of a variant in a variant set (R496). -/
def VarSnap.bytes (v : VarSnap) : Blob :=
  leBytes 4 v.id ++ leBytes 4 v.rev ++ leBytes 4 v.digestRev ++ zeros 4 ++ padTo 48 v.digest

/-- The adapter digest of a receipt (R496). -/
def setDigest : List VarSnap → Blob
  | [] => zeros 48
  | [v] => v.digest
  | l => sha384 (l.flatMap VarSnap.bytes)

/-- The clusters of a context in increasing number (R395). -/
def Ctx.clusterList (c : Ctx) : List Nat := maskBits 32 c.clusters

/-- fwd_format and bwd_format of a context's clusters: those of its lowest cluster (R494). -/
def State.ctxFormat (s : State) (c : Ctx) (off : Nat) : Nat :=
  match c.clusterList with
  | u :: _ => fld (s.clusterRec u) off 1
  | [] => 0

/-- The digest of an image version (R306). -/
def State.imageDigest (s : State) (img ver : Nat) : Blob :=
  match tget? s.firn.images img with
  | some i => match tget? i.versions ver with | some v => v.digest | none => zeros 48
  | none => zeros 48

/-- The receipt of a command, before its place in the chain is known (R494 to R497). -/
def State.receiptOf (s : State) (c : Cmd) : Receipt :=
  let base : Receipt :=
    { cls := sqeClass c.sqe % 4, opcode := c.opcode, fn := c.fn, ctx := sqeContext c.sqe,
      status := c.status.code, commandId := sqeId c.sqe, generation := (s.fn c.fn).generation,
      queuedNs := c.queuedNs, startTime := c.start.getD c.endT, endTime := c.endT, completionOrder := c.order }
  if c.refused then base
  else
    let single := match c.variants with | [v] => some v | _ => none
    let u := marginUnits c.minMargin
    let ctx := tget? s.ctxs c.ctx
    let streamed := c.ran
    { base with
      pool := c.pool
      variant := match c.variants with | [] => 0 | [v] => v.id | _ => 0xFFFFFFFF
      variantCount := c.variants.length
      imageId := match ctx with | some x => x.image | none => 0
      flags := b2n (decide (1 < c.variants.length)) + 2 * b2n c.updated + 4 * b2n c.skipped + 8 * b2n (marginSat u)
      imageVersion := c.imageVer
      handle := sqeHandle c.sqe
      graphVersion := c.graphVer
      quantumUs := if c.pool = 0 then 0 else min c.quantumUs 0xFFFF
      arith := ioArith c.sqe
      revision := match single with | some v => v.rev | none => 0
      digestRevision := match single with | some v => v.digestRev | none => 0
      fwdFormat := match ctx with | some x => if streamed then s.ctxFormat x 5 else 0 | none => 0
      bwdFormat := match ctx with | some x => if c.opcode = 0x81 then s.ctxFormat x 6 else 0 | none => 0
      imageDigest := if c.imageVer = 0 then zeros 48 else c.imageDigest
      adapterDigest := setDigest c.variants
      quanta := min c.quanta 0xFFFFFFFF
      preemptions := min c.preempts 0xFFFF
      faults := min c.faults 0xFFFF
      boundLayers := min c.bound.length 0xFFFF
      minMargin := marginClamp u
      issueOrder := c.issueOrder }

/-! ## Chains and checkpoints (R499 to R504) -/

/-- The genesis digest of a function's chain (R500). -/
def State.genesis (s : State) (f : Nat) : Blob :=
  sha384 (leBytes 8 Config.deviceSerial ++ leBytes 2 f ++ zeros 6 ++ leBytes 16 s.ledg.persist.nonce)

/-- The head of a function's chain. -/
def State.head (s : State) (f : Nat) : Head := tget s.ledg.heads {} f

/-- The digest that the next receipt of a chain carries (R499). -/
def State.prevDigest (s : State) (f : Nat) : Blob :=
  let h := s.head f
  if h.seq = 0 then s.genesis f else h.digest

/-- A checkpoint as the signer takes it: bytes 0 to 159 (R503). -/
def State.ckptBody (s : State) (c : Ckpt) : Blob :=
  leBytes 4 0x4B435856 ++ leBytes 2 1 ++ leBytes 1 c.flags ++ zeros 1 ++ leBytes 8 c.seq ++ leBytes 2 c.fn ++
  zeros 6 ++ leBytes 8 Config.deviceSerial ++ leBytes 8 c.time ++ padTo 48 c.digest ++
  sha384 Config.identityKey ++ leBytes 8 c.prev ++ leBytes 16 s.ledg.persist.nonce

/-- The 256 bytes of a signed checkpoint (R503). -/
def State.ckptBytes (s : State) (c : Ckpt) : Blob :=
  s.ckptBody c ++ padTo 96 (Config.sign (s.ckptBody c))

/-- A checkpoint of a function's head as it is now (R503). -/
def State.ckptNow (s : State) (f flags : Nat) (cmd : Option Nat) : Ckpt :=
  let h := s.head f
  { fn := f, seq := h.seq, digest := if h.seq = 0 then s.genesis f else h.digest, time := s.now, prev := h.ckpt,
    flags := flags, cmd := cmd }

/-- Queue a periodic checkpoint, replacing one of the function that still waits behind the one being signed (R502). -/
def queuePeriodic (q : List Ckpt) (c : Ckpt) : List Ckpt :=
  match q with
  | [] => [c]
  | x :: t =>
    if t.any (fun y => y.fn == c.fn && bit y.flags 2) then
      x :: t.map fun y => if y.fn == c.fn && bit y.flags 2 then c else y
    else x :: t ++ [c]

/-- Append a receipt to its function's chain (R499): it takes the next sequence number and the digest of the receipt before it;
a multiple of 4,096 queues a periodic checkpoint (R502). -/
def State.append (s : State) (f : Nat) (r : Receipt) : State :=
  let h := s.head f
  let r1 := { r with fn := f, seq := h.seq + 1, prevDigest := s.prevDigest f }
  let s1 := { (if s.ledg.buffer.isEmpty then s.progress 0x0E00 else s) with ledg := { s.ledg with
    buffer := s.ledg.buffer ++ [r1]
    heads := tset s.ledg.heads f { h with seq := h.seq + 1, digest := sha384 r1.bytes } } }
  if (h.seq + 1) % 4096 = 0 then
    { s1.pulse 44 with ledg := { s1.ledg with queue := queuePeriodic s1.ledg.queue (s1.ckptNow f 4 none) } }
  else s1

/-! ## The persist region (R507 to R509) -/

/-- The address of a byte of the persist region in board memory. -/
def State.persistAt (s : State) (o : Nat) : Nat := devAddr 1 (s.ledg.persist.offset + o)

/-- Write bytes of the persist region, which is plain. -/
def State.persistPut (s : State) (o : Nat) (b : Blob) : State := { s with mem := memWrite s.mem (s.persistAt o) b }

/-- The header of the persist region (R507): its first 48 bytes, the others being zero. -/
def State.persistHeader (s : State) : Blob :=
  leBytes 4 0x52505856 ++ leBytes 1 (b2n s.ledg.persist.clean) ++ zeros 3 ++ leBytes 8 Config.deviceSerial ++
    leBytes 8 s.ledg.persist.bytes ++ leBytes 16 s.ledg.persist.nonce ++ leBytes 8 s.ledg.persist.tail

/-- Write the header, with its state clean or dirty. -/
def State.putHeader (s : State) (clean : Bool) : State :=
  let t : State := { s with ledg := { s.ledg with persist := { s.ledg.persist with clean := clean } } }
  t.persistPut 0 t.persistHeader

/-- A function's head entry, and where it and the function's checkpoint lie (R507). -/
def Head.bytes (h : Head) : Blob := leBytes 8 h.seq ++ padTo 48 h.digest ++ leBytes 8 h.ckpt

def headAt (f : Nat) : Nat := 0x1000 + 64 * f

def ckptAt (f : Nat) : Nat := 0x41000 + 256 * f

/-- Where a ring entry lies, and its bytes. -/
def ringAt (i : Nat) : Nat := 0x141000 + 256 * i

def State.ringEntry (s : State) (i : Nat) : Blob := memRead s.mem (s.persistAt (ringAt i)) 256

/-- Bytes that are a receipt's. -/
def isReceipt (b : Blob) : Bool := fld b 0 4 == 0x43525856

/-- The receipts in the ring. -/
def State.ringReceipts (s : State) : List Blob :=
  ((nubBy ((cellsOf s.mem (s.persistAt (ringAt 0)) (256 * s.ledg.capacity)).map (·.1 / 256))).map s.ringEntry).filter isReceipt

/-- Write a receipt, its function's head entry and the tail to the persist region; it overwrites the oldest where the ring is full (R506, R508). -/
def State.persistOne (s : State) (x : Receipt) : State :=
  let p := s.ledg.persist
  let full := isReceipt (s.ringEntry p.tail)
  let s1 := (s.persistPut (ringAt p.tail) x.bytes).persistPut (headAt x.fn)
    ({ seq := x.seq, digest := sha384 x.bytes, ckpt := (s.head x.fn).ckpt } : Head).bytes
  ({ s1 with ledg := { s1.ledg with
      wraps := if full then s.ledg.wraps + 1 else s.ledg.wraps
      persist := { p with tail := (p.tail + 1) % max 1 s.ledg.capacity } } } : State).putHeader p.clean

/-- The chains that a region's head table holds (R507, R509). -/
def State.readHeads (s : State) : Tbl Head :=
  (nubBy ((cellsOf s.mem (s.persistAt (headAt 0)) (64 * 4096)).map (·.1 / 64))).map fun f =>
    let b := memRead s.mem (s.persistAt (headAt f)) 64
    (f, { seq := fld b 0 8, digest := slice b 8 48, ckpt := fld b 56 8 })

/-- The periodic checkpoints that a region holds (R507). -/
def State.readCkpts (s : State) : Tbl Blob :=
  (nubBy ((cellsOf s.mem (s.persistAt (ckptAt 0)) (256 * 4096)).map (·.1 / 256))).map fun f => (f, memRead s.mem (s.persistAt (ckptAt f)) 256)

/-- A restart receipt (R510). -/
def State.restartReceipt (s : State) (f : Nat) : Receipt :=
  let h := s.head f
  let bad := s.ringReceipts.any fun b => fld b 16 2 == f && fld b 8 8 == h.seq && decide (sha384 b ≠ h.digest)
  { kind := 1, fn := f, startTime := s.now, endTime := s.now,
    flags := 16 * b2n s.ledg.unclean + 32 * b2n (decide (h.seq ≠ 0) && bad) }

/-- The ledger waits: 1,024 receipts are appended and not yet written (R508). -/
def State.ledgerFull (s : State) : Bool := decide (1024 ≤ s.ledg.buffer.length)

/-- A restart receipt is due to a function (R510). -/
def State.restartOwed (s : State) (f : Nat) : Bool := s.ledg.recovered && !(s.fn f).restarted

/-- The restart receipt that is due to a function cannot be appended now: Ledger waits (R508) or is cut (R511). -/
def State.restartWaits (s : State) (f : Nat) : Bool := s.restartOwed f && (s.ledgerFull || s.pwr.cut)

/-- Append the restart receipt that is due to a function (R510), but not where the append waits (R508, R511): it then precedes the function's next
receipt. -/
def State.restartDue (s : State) (f : Nat) : State :=
  if s.restartOwed f && !s.restartWaits f then (s.append f (s.restartReceipt f)).updFn f fun x => { x with restarted := true }
  else s

/-- Receipts of a function that Ledger holds, in the ring or the buffer, in order, each with its sequence number (R505). -/
def State.heldReceipts (s : State) (f : Nat) : List (Nat × Blob) :=
  sortBy (fun a b => decide (a.1 ≤ b.1))
    (((s.ringReceipts.filter fun b => fld b 16 2 == f).map fun b => (fld b 8 8, b)) ++
      (s.ledg.buffer.filter (·.fn == f)).map fun x => (x.seq, x.bytes))

/-- Write what Ledger still holds to the persist region (R508, R511). -/
def State.persistAll (s : State) : State :=
  s.ledg.buffer.foldl State.persistOne { s with ledg := { s.ledg with buffer := [] } }

end Sys2Proof.Machine
end

