-- ==== Sys2Proof/Machine/EskerOps.lean ====
section
/-! DEFINITION. Translation and memory placement (Esker): the mirrored tables, runs, descriptors, invalidations, fault
records, the frame key table, hot pages, and the accesses of Vexzer's units to memory (R240 to R289). -/

namespace Sys2Proof.Machine

open Sys2Proof

/-! ## Leaves of the mirrored tables (R245 to R251) -/

/-- Bytes a leaf maps, by its size code (R245). -/
def pageBytes (size : Nat) : Nat :=
  if size = 0 then 4096 else if size = 1 then 2097152 else 1073741824

/-- The last address a leaf maps, plus one. -/
def Leaf.vend (l : Leaf) : Nat := l.va + pageBytes l.size

/-- A leaf maps an address. -/
def Leaf.covers (l : Leaf) (va : Nat) : Bool := decide (l.va ≤ va) && decide (va < l.vend)

/-- A leaf overlaps a range of addresses. -/
def Leaf.overlaps (l : Leaf) (lo hi : Nat) : Bool := decide (l.va < hi) && decide (lo < l.vend)

/-- The leaf as a smaller one at an address within it. -/
def Leaf.part (l : Leaf) (va size : Nat) : Leaf :=
  { l with va := va, size := size, offset := l.offset + (va - l.va) }

/-- The 512 leaves of the next smaller size that map what a leaf maps (R247). -/
def Leaf.split (l : Leaf) : List Leaf :=
  if l.size = 0 then [l]
  else (List.range 512).map fun i => l.part (l.va + i * pageBytes (l.size - 1)) (l.size - 1)

/-- Unmap a range: leaves wholly within it go, and a leaf it splits is rewritten as smaller leaves (R247). A 1 GiB leaf may have
to be split twice. -/
def unmapLeaves (ls : List Leaf) (lo hi : Nat) : List Leaf :=
  let cut (l : Leaf) : List Leaf :=
    if !l.overlaps lo hi then [l] else if decide (lo ≤ l.va) && decide (l.vend ≤ hi) then [] else l.split
  ((ls.flatMap cut).flatMap cut).filter fun l => !l.overlaps lo hi

/-- Map leaves, replacing what they overlap, in increasing address (R170). -/
def mapLeaves (ls new : List Leaf) (lo hi : Nat) : List Leaf :=
  sortBy (fun a b => decide (a.va ≤ b.va)) (new ++ unmapLeaves ls lo hi)

/-- The table pages that a context's leaves need (R245), by level and index: one table of each level for each distinct index prefix. -/
def tableKeys (ls : List Leaf) : List (Nat × Nat) :=
  if ls.isEmpty then []
  else (0, 0) :: (nubBy (ls.map (·.va / 2 ^ 39))).map (1, ·) ++
    (nubBy ((ls.filter (decide <| ·.size < 2)).map (·.va / 2 ^ 30))).map (2, ·) ++
    (nubBy ((ls.filter (decide <| ·.size = 0)).map (·.va / 2 ^ 21))).map (3, ·)

/-- Table pages a context's leaves need. -/
def tablePages (ls : List Leaf) : Nat := (tableKeys ls).length

/-- Table pages in use in the page-table pool. -/
def State.tablePagesUsed (s : State) : Nat := s.esk.tables.length

/-- The page-table pool (R244). -/
def tablePool : Nat := 524288

/-- Whether the 2^n leaves of the aligned run around a leaf qualify as a run (R251). -/
def runOk (ls : List Leaf) (l : Leaf) (n : Nat) : Bool :=
  let sz := pageBytes l.size
  let base := l.va / (sz * 2 ^ n) * (sz * 2 ^ n)
  (List.range (2 ^ n)).all fun i =>
    ls.any fun x => x.va == base + i * sz && x.size == l.size && x.node == l.node && x.tier == l.tier &&
      x.offset + l.va == l.offset + (base + i * sz) && x.rd == l.rd && x.wr == l.wr && x.atomic == l.atomic &&
      x.prot == l.prot && x.key == l.key

/-- The run field of a leaf: the largest n, 0 to 4, for which R251 holds. -/
def leafRun (ls : List Leaf) (l : Leaf) : Nat :=
  ([4, 3, 2, 1].find? (runOk ls l)).getD 0

/-- The page-table entry, or translation slot, of a leaf (R250, R253). -/
def leafEntry (ls : List Leaf) (l : Leaf) : Nat :=
  dpaOf l.key l.node l.tier l.offset / 4096 * 4096 + leafRun ls l * 512 + l.prot * 128 + l.size * 32 +
    b2n l.atomic * 16 + b2n l.wr * 8 + b2n l.rd * 4 + 3

/-- The run that a leaf belongs to: its first leaf and its run field (R251). -/
def runAt (ls : List Leaf) (l : Leaf) : Leaf × Nat :=
  let n := leafRun ls l
  let base := l.va / (pageBytes l.size * 2 ^ n) * (pageBytes l.size * 2 ^ n)
  ({ l with va := base, offset := l.offset - (l.va - base) }, n)

/-- The address after a run. -/
def runEnd (l : Leaf) (n : Nat) : Nat := l.va + pageBytes l.size * 2 ^ n

/-- A cached run covers an address; it overlaps a range (R251, R261). -/
def CacheEnt.covers (e : CacheEnt) (va : Nat) : Bool := decide (e.leaf.va ≤ va) && decide (va < runEnd e.leaf e.run)
def CacheEnt.overlaps (e : CacheEnt) (lo hi : Nat) : Bool := decide (e.leaf.va < hi) && decide (lo < runEnd e.leaf e.run)

/-- The range that a change of a range invalidates: it takes in every run that it breaks (R251). -/
def brokenRange (ls : List Leaf) (lo hi : Nat) : Nat × Nat :=
  ((ls.filter (·.overlaps lo hi)).map (runAt ls)).foldl (fun a r => (min a.1 r.1.va, max a.2 (runEnd r.1 r.2))) (lo, hi)

/-- The requests of at most 512 bytes, each within one aligned 512-byte granule, that carry a range of addresses (R71). -/
def granules : Nat → Nat → Nat → List (Nat × Nat)
  | 0, _, _ => []
  | f + 1, a, n =>
    if n = 0 then [] else let k := min n (512 - a % 512); (a, k) :: granules f (a + k) (n - k)

/-- The granules of a range. -/
def granulesOf (a n : Nat) : List (Nat × Nat) := granules (n / 512 + 2) a n

/-! ### The page-table pool (R244, R249, R250) -/

/-- The page of the pool that holds a table. -/
def State.poolPage (s : State) (x level index : Nat) : Option Nat :=
  (s.esk.tables.find? fun t => t.2.ctx == x && t.2.level == level && t.2.index == index).map (·.1)

/-- Entry `i` of a table page (R250): a leaf, the DPA of the next table under key 1, or nothing. -/
def State.tableEntry (s : State) (ls : List Leaf) (p : TablePage) (i : Nat) : Nat :=
  let k := p.index * 512 + i
  match ls.find? fun l => l.size + p.level == 3 && l.va / pageBytes l.size == k with
  | some l => leafEntry ls l
  | none => match s.poolPage p.ctx (p.level + 1) k with
    | some n => if p.level < 3 then dpaOf 1 s.nodeId 0 (s.esk.region + n * 4096) / 4096 * 4096 + 1 else 0
    | none => 0

/-- Write bytes of a region of HBM that Vexzer keeps under Glaze, granule by granule (R468). -/
def State.regionWrite (s : State) (off : Nat) (b : Blob) : State :=
  (granulesOf off b.length).foldl (fun t g =>
    let u := t.glazeWrite 0 g.1 g.2
    { u with mem := memWrite u.mem (devAddr 0 g.1) (slice b (g.1 - off) g.2) }) s

/-- Write the granules of a region that differ from what is there. -/
def State.regionPut (s : State) (off : Nat) (b : Blob) : State :=
  (granulesOf off b.length).foldl (fun t g =>
    let d := slice b (g.1 - off) g.2
    if memRead t.mem (devAddr 0 g.1) g.2 = d then t else t.regionWrite g.1 d) s

/-- Give a context's tables their pages: those that its leaves need no longer return to the pool, and new ones take the lowest free pages. -/
def State.placeTables (s : State) (x : Nat) (ls : List Leaf) : State :=
  let keys := tableKeys ls
  let kept := tfilter s.esk.tables fun _ p => p.ctx != x || keys.contains (p.level, p.index)
  let all := keys.foldl (fun t k =>
    if tany t fun _ p => p.ctx == x && p.level == k.1 && p.index == k.2 then t
    else tset t (tfree t 0) { ctx := x, level := k.1, index := k.2 }) kept
  { s with esk := { s.esk with tables := all } }

/-- The leaves that a context's tables hold: those of a change under way, or those in effect (R246). -/
def State.tablesOf (s : State) (x : Nat) : List Leaf :=
  match (s.esk.invals ++ s.esk.invalWait).findSome? fun i => if i.ctx = x then i.change else none with
  | some z => z.leaves
  | none => match tget? s.ctxs x with | some c => c.leaves | none => []

/-- Write a context's tables in the page-table pool (R245, R250, R251). -/
def State.putTables (s : State) (x : Nat) (ls : List Leaf) : State :=
  let s1 := s.placeTables x ls
  (tfilter s1.esk.tables fun _ p => p.ctx == x).foldl (fun t e =>
    t.regionPut (t.esk.region + e.1 * 4096) ((List.range 512).flatMap fun i => leBytes 8 (t.tableEntry ls e.2 i))) s1

/-- A context's leaf for an address. -/
def leafAt (ls : List Leaf) (va : Nat) : Option Leaf := ls.find? (·.covers va)

/-- The lowest start of a leaf above an address. -/
def nextLeaf (ls : List Leaf) (va hi : Nat) : Nat :=
  ls.foldl (fun m l => if decide (va < l.va) && decide (l.va < m) then l.va else m) hi

/-- A part of a translated span: mapped by a leaf, or a hole. -/
inductive Seg where
  | hit (leaf : Leaf) (va len : Nat)
  | hole (va len : Nat)
deriving DecidableEq, Repr

/-- Translate a span of addresses piece by piece (R253); `fuel` bounds the pieces. -/
def walkSpan (ls : List Leaf) : Nat → Nat → Nat → List Seg
  | 0, _, _ => []
  | f + 1, va, hi =>
    if hi ≤ va then []
    else match leafAt ls va with
      | some l => .hit l va (min l.vend hi - va) :: walkSpan ls f (min l.vend hi) hi
      | none => let e := nextLeaf ls va hi; .hole va (e - va) :: walkSpan ls f e hi

/-- The pieces of a span of a context. -/
def translate (ls : List Leaf) (va len : Nat) : List Seg := walkSpan ls (2 * ls.length + 2) va (va + len)

/-- A span has a page with no translation. -/
def Seg.isHole : Seg → Bool | .hole _ _ => true | .hit _ _ _ => false

/-- The rights of a leaf cover an access: bit 0 read, bit 1 write, bit 2 atomic (R256). -/
def Leaf.allows (l : Leaf) (access : Nat) : Bool :=
  (!bit access 0 || l.rd) && (!bit access 1 || l.wr) && (!bit access 2 || l.atomic)

/-- A translation goes through a table page that read uncorrectable (R257). -/
def Ctx.badAt (c : Ctx) (va len : Nat) : Bool :=
  c.badTables.any fun b => decide (va < b.1 + b.2) && decide (b.1 < va + len)

/-! ## Descriptors (R252 to R255) -/

/-- The leaves that a slot covers. -/
def Slot.leaves : Slot → List Leaf
  | .run l n => (List.range (2 ^ n)).map fun i => l.part (l.va + i * pageBytes l.size) l.size
  | .hole => []

/-- The 8 bytes of a slot, in the layout of a leaf entry (R253). -/
def Slot.entry : Slot → Nat
  | .run l n => dpaOf l.key l.node l.tier l.offset / 4096 * 4096 + n * 512 + l.prot * 128 + l.size * 32 +
      b2n l.atomic * 16 + b2n l.wr * 8 + b2n l.rd * 4 + 3
  | .hole => 0

/-- The slots of a span, each with the bytes of the span that it covers: a slot covers the whole of its leaf's run, and a hole reaches to the
next mapped page or the end of the span (R253). `fuel` bounds the slots. -/
def walkSlots (ls : List Leaf) : Nat → Nat → Nat → List (Slot × Nat × Nat)
  | 0, _, _ => []
  | f + 1, va, hi =>
    if hi ≤ va then []
    else match leafAt ls va with
      | some l =>
        let r := runAt ls l
        let e := min (runEnd r.1 r.2) hi
        (.run r.1 r.2, va, e - va) :: walkSlots ls f e hi
      | none => let e := nextLeaf ls va hi; (.hole, va, e - va) :: walkSlots ls f e hi

/-- Descriptors of four slots each for the slots of a span; `fuel` bounds the descriptors. -/
def descsFor (epoch buf access : Nat) : Nat → List (Slot × Nat × Nat) → List Desc
  | 0, _ => []
  | f + 1, l =>
    match l with
    | [] => []
    | e :: _ =>
      { buffer := buf, access := access, va := e.2.1, len := ((l.take 4).map (·.2.2)).sum, epoch := epoch, slots := (l.take 4).map (·.1) } ::
        descsFor epoch buf access f (l.drop 4)

/-- The chain of descriptors of one span of a buffer (R252). -/
def chain (c : Ctx) (buf access va len : Nat) : List Desc :=
  let l := walkSlots c.leaves (2 * c.leaves.length + 2) va (va + len)
  descsFor c.epoch buf access (l.length + 1) l

/-- A slot of a descriptor is a hole, whose valid bit is 0 (R253). -/
def Desc.hole (d : Desc) : Bool := d.slots.contains .hole

/-- The leaves that a descriptor's slots hold. -/
def Desc.leaves (d : Desc) : List Leaf := d.slots.flatMap Slot.leaves

/-- What a command's descriptors that are not stale say of a buffer. -/
def Cmd.mapOf (c : Cmd) (buf : Nat) : List Leaf := (c.descs.filter fun d => d.buffer == buf && !d.stale).flatMap Desc.leaves

/-- The 64 bytes of a descriptor in the cache or the backing (R252). -/
def Desc.bytes (d : Desc) (ctx record next : Nat) : Blob :=
  leBytes 1 d.slots.length ++ leBytes 1 (b2n d.hole * 2 + b2n d.stale) ++ leBytes 1 d.access ++ leBytes 1 d.buffer ++ leBytes 4 record ++
    leBytes 8 d.va ++ leBytes 4 d.len ++ leBytes 4 next ++ leBytes 2 ctx ++ leBytes 6 d.epoch ++
    padTo 32 (d.slots.flatMap fun x => leBytes 8 x.entry)

/-- A descriptor overlaps a range of addresses. -/
def Desc.overlaps (d : Desc) (lo hi : Nat) : Bool := decide (d.va < hi) && decide (lo < d.va + d.len)

/-- Descriptors of the command records, in all (R254). -/
def State.descCount (s : State) : Nat := (s.cmds.map fun c => c.2.descs.length).sum

/-- The bytes of every descriptor of a record's chain (R252, R254): a descriptor's index is its place among those of all records, and the next
one of its buffer follows it (assumption 160). -/
def State.descBytes (s : State) (r : Nat) : List Blob :=
  match tget? s.cmds r with
  | none => []
  | some c =>
    let base := ((s.cmds.filter fun e => decide (e.1 < r)).map fun e => e.2.descs.length).sum
    (c.descs.zip ((c.descs.drop 1).map some ++ [none])).zipIdx.map fun e =>
      let next := if e.1.2.any fun d => d.buffer == e.1.1.buffer then base + e.2 + 1 else 0xFFFFFFFF
      e.1.1.bytes c.ctx r next

/-- Room for descriptors: 245,760 in the cache and 8,388,608 in the backing (R254). -/
def descRoom : Nat := 245760 + 8388608

/-! ## Key/value space (R434 to R437) -/

/-- Token records of a page (R431). -/
def tpp (tokenBytes : Nat) : Nat := 262144 / max 1 tokenBytes

/-! ## Ranges of pages (R267, R268) -/

/-- The 4 KiB pages of a span: first page number and count. -/
def pageRange (va len : Nat) : Nat × Nat := (va / 4096, (va + len - 1) / 4096 - va / 4096 + 1)

/-- Merge page ranges, sorted by their first page, that touch or overlap. -/
def mergeRanges : List (Nat × Nat) → List (Nat × Nat)
  | [] => []
  | (a, n) :: t =>
    match mergeRanges t with
    | [] => [(a, n)]
    | (b, m) :: u => if b ≤ a + n then (a, max (a + n) (b + m) - a) :: u else (a, n) :: (b, m) :: u

/-- The union of page ranges. -/
def unionRanges (l : List (Nat × Nat)) : List (Nat × Nat) :=
  mergeRanges (sortBy (fun a b => decide (a.1 ≤ b.1)) l)

/-- Pages of ranges that lack a translation (R267). -/
def missingIn (ls : List Leaf) (l : List (Nat × Nat)) : Nat :=
  (l.map fun r =>
    ((translate ls (r.1 * 4096) (r.2 * 4096)).map fun g => match g with | .hole _ n => n / 4096 | .hit _ _ _ => 0).sum).sum

/-- Every page of the ranges is mapped. -/
def wholeMapped (ls : List Leaf) (l : List (Nat × Nat)) : Bool := decide (missingIn ls l = 0)

/-! ## The Crevasse queue (R266 to R274) -/

/-- Open records of a function (R269). -/
def Esker.openOf (e : Esker) (f : Nat) : Nat :=
  (e.crevSlots.filter fun i => (tget? e.crev i).any fun r => r.status == 0 && r.fn == f).length

/-- Open records in all (R288). -/
def Esker.openAll (e : Esker) : Nat :=
  (e.crevSlots.filter fun i => (tget? e.crev i).any fun r => r.status == 0).length

/-- Write a record at the tail and post FAULT_POSTED (R266, R267). -/
def State.crevWrite (s : State) (r : Crev) : State :=
  let e := s.esk
  let slot := e.crevTail
  let r1 := { r with seq := (e.crevSeq + 1) % 65536, time := s.now }
  let tail := (slot + 1) % 1024
  ({ s with esk := { e with crev := tset e.crev slot r1, crevTail := tail, crevSeq := e.crevSeq + 1,
                            crevFull := tail == e.crevHead } }).postEvent 0 .faultPosted (slot + r.fn * 2 ^ 16)

/-- A record may take a place: the ring is not full and, for an open record, its function has fewer than 16 open records
(R269, assumption 8). -/
def State.crevPlace (s : State) (r : Crev) : Bool :=
  !s.esk.crevFull && (r.status != 0 || decide (s.esk.openOf r.fn < 16))

/-- The waiting records that a place is free for, oldest first (R269). -/
def State.crevReady (s : State) : List Crev := s.esk.crevWaiting.filter s.crevPlace

/-- Post a record, or let it wait for a place behind the waiting ones that a place is free for (R269). -/
def State.crevPost (s : State) (r0 : Crev) : State :=
  let r := { r0 with faultAt := s.now }
  if s.crevReady.isEmpty && s.crevPlace r then s.crevWrite r
  else { s with esk := { s.esk with crevWaiting := s.esk.crevWaiting ++ [r] } }

/-- Post the oldest of the waiting records that a place is free for (R269): one that its function's limit holds back keeps no other function's
record waiting. -/
def State.crevPostWaiting (s : State) : State :=
  match s.crevReady with
  | [] => s
  | r :: _ => ({ s with esk := { s.esk with crevWaiting := s.esk.crevWaiting.erase r } }).crevWrite r

/-- Some record matches, held or waiting. -/
def State.crevAny (s : State) (p : Crev → Bool) : Bool :=
  s.esk.crevSlots.any (fun i => (tget? s.esk.crev i).any p) || s.esk.crevWaiting.any p

/-- A context is parked: a tile of one of its commands is parked on an unsettled record (R266). -/
def State.ctxParked (s : State) (c : Nat) : Bool :=
  s.crevAny fun r => r.unsettled && r.ctx == c && decide (r.stuck ≠ [])

/-- A tile of a command faults on a missing page, or run-ahead finds one: it joins an open or waiting record of the same context and
missing address, or posts a new one (R255, R259, R268). `engines` is the bit of who faulted, `early` a run-ahead finding. -/
def State.tileFault (s : State) (r : Nat) (c : Cmd) (ls : List Leaf) (engines access missingVa : Nat)
    (ranges : List (Nat × Nat)) (early : Bool) : State :=
  let same (x : Crev) : Bool :=
    x.unsettled && x.kind == 1 && x.ctx == c.ctx && x.missingVa == missingVa
  let first := (ranges.map (·.1)).foldl min (missingVa / 4096)
  let last := (ranges.map fun e => e.1 + e.2 - 1).foldl max (missingVa / 4096)
  let s1 := if early then s else
    s.modCmd r fun m => { m with faults := m.faults + 1 }
  if s.crevAny same then
    s1.crevMap same fun x =>
      let u := unionRanges (x.union ++ ranges)
      { x with
        engines := bitsMask (nubBy (maskBits 34 x.engines ++ maskBits 34 engines))
        spanFirst := min x.spanFirst first, spanLast := max x.spanLast last, union := u
        missing := missingIn ls u, faultAt := s.now
        tiles := if early then x.tiles else min (x.tiles + 1) 0xFFFF
        access := bitsMask (nubBy (maskBits 3 x.access ++ maskBits 3 access))
        stuck := if early || x.stuck.contains r then x.stuck else x.stuck ++ [r] }
  else
    let u := unionRanges ranges
    s1.crevPost
      { engines := engines, missingVa := missingVa, spanFirst := first, spanLast := last, union := u
        missing := missingIn ls u, tiles := if early then 0 else 1, gen := c.gen, fn := c.fn, ctx := c.ctx
        cmdId := sqeId c.sqe, access := access, kind := 1, early := early, stuck := if early then [] else [r] }

/-- Pages of page ranges. -/
def pagesIn (l : List (Nat × Nat)) : Nat := (l.map (·.2)).sum

/-- A kind-2 record, posted closed (R256, R267): `lack` are the page ranges that lack the rights they need. -/
def State.rightsFault (s : State) (c : Cmd) (engines access : Nat) (va : Nat) (ranges lack : List (Nat × Nat)) : State :=
  let u := unionRanges ranges
  s.crevPost
    { engines := engines, missingVa := va / 4096 * 4096, spanFirst := (ranges.map (·.1)).foldl min (va / 4096)
      spanLast := (ranges.map fun e => e.1 + e.2 - 1).foldl max (va / 4096), union := u
      missing := pagesIn (unionRanges lack), tiles := 0, gen := c.gen, fn := c.fn, ctx := c.ctx
      cmdId := sqeId c.sqe, access := access, kind := 2, status := 4 }

/-- Resolve the unsettled kind-1 records of a context whose union overlaps a range and is now wholly mapped (R270). -/
def State.crevResolve (s : State) (c lo hi : Nat) : State :=
  match tget? s.ctxs c with
  | none => s
  | some x =>
    s.crevMap
      (fun r => r.unsettled && r.kind == 1 && r.ctx == c &&
        r.union.any (fun e => decide (e.1 * 4096 < hi) && decide (lo < (e.1 + e.2) * 4096)) &&
        wholeMapped x.leaves r.union)
      fun r => { r with status := 1, stuck := [] }

/-- Withdraw the unsettled records of a context (R272). -/
def State.crevWithdrawCtx (s : State) (c : Nat) : State :=
  s.crevMap (fun r => r.unsettled && r.ctx == c) fun r => { r with status := 3, stuck := [] }

/-- The 64 bytes of a Crevasse record (R267). -/
def Crev.bytes (r : Crev) : Blob :=
  zeros 4 ++ leBytes 1 (b2n r.early) ++ leBytes 1 r.kind ++ leBytes 1 r.status ++ leBytes 1 r.access ++
  leBytes 2 r.seq ++ leBytes 2 r.cmdId ++ leBytes 2 r.ctx ++ leBytes 2 r.fn ++ leBytes 2 r.gen ++ leBytes 2 r.tiles ++
  leBytes 4 r.missing ++ leBytes 8 (r.spanFirst * 4096) ++ leBytes 8 (r.spanLast * 4096) ++ leBytes 8 r.missingVa ++
  leBytes 8 r.time ++ leBytes 8 r.engines

/-! ## Invalidations (R260 to R265) -/

/-- The 34 engines of the invalidation fabric (R260), by engine ID (R523): the Esker cache, Cirque and the Serac units. -/
def invalEngines : List Nat := 0x0800 :: 0x0700 :: (List.range 32).map (0x0100 + ·)

/-- Begin an invalidation of a range of a context at its next epoch; past the eighth it waits for a place (R260, R262). Walks of the context
that began before it note its range (R263). -/
def State.invalidate (s : State) (c lo hi : Nat) (cmd : Option Nat) (change : Option Change) : State :=
  let e := s.esk
  let ep := match tget? s.ctxs c with | some x => x.epoch + 1 | none => 1
  let i : Inval := { id := e.invalNext, ctx := c, lo := lo, hi := hi, epoch := ep, cmd := cmd, change := change }
  let s0 := s.modCtx c fun x => { x with epoch := ep }
  let s1 := { s0 with esk := { s0.esk with walks := tmap s0.esk.walks fun _ w =>
    if w.ctx = c then { w with later := w.later ++ [(lo, hi)] } else w } }
  { s1.progress 0x0800 with esk := if e.invals.length < 8 then { s1.esk with invals := e.invals ++ [i], invalNext := e.invalNext + 1 }
                   else { s1.esk with invalWait := e.invalWait ++ [i], invalNext := e.invalNext + 1 } }

/-! ## The frame key table and the ports (R275 to R279, R209, R284) -/

/-- Count a denial and log the first (R277, R288). -/
def State.fktDeny (s : State) (q : MemReq) : State :=
  let e := s.esk
  let ent := s.fktEntry q.tier q.offset
  let log : FktLog :=
    if e.fktLog.valid then e.fktLog
    else { ctx := q.ctx, reqKey := q.key, frameKey := match ent with | some x => x.key | none => 0
           frame := if q.tier = 2 then q.offset / frameBytes else s.frameIndex q.tier (q.offset / frameBytes)
           write := q.write.isSome, remote := q.remote, host := q.tier == 2, valid := true }
  let s1 := { s with esk := { e with fktCount := satAdd e.fktCount 1 0xFFFFFFFF, fktLog := log } }
  match q.cmd with
  | some r => if q.remote then s1 else s1.failCmd r .frameKeyDenied
  | none => s1

/-- The frame key table, or the host chunk table, passes a request (R275). -/
def State.fktPass (s : State) (q : MemReq) : Bool :=
  match s.fktEntry q.tier q.offset with
  | some x => x.key == q.key && x.prot == q.prot
  | none => false

/-- The hot counter of a frame: board frames by frame number, host chunks after them (R244, R278). -/
def hotKey (tier offset : Nat) : Nat := (if tier = 1 then 0 else 786432) + offset / frameBytes

/-- The allocation, its function and the frame's place in it, for an address (R279). -/
def State.frameOwner (s : State) (tier offset : Nat) : Option (Nat × Nat × Nat) :=
  (s.allocs.filterMap fun a =>
    (a.2.frames.zipIdx.find? fun e => e.1 == (tier, offset / frameBytes)).map fun e => (a.1, a.2.fn, e.2)).head?

/-- The hot list is full (R279). -/
def Esker.hotFull (e : Esker) : Bool := (e.hotTail + 1) % 256 == e.hotHead

/-- Count a context's request to a board frame or a host chunk; at the threshold list the frame once per window (R278,
R279), but never a frame of a function in VX1 compatibility. A request that carries an epoch is counted under that epoch's threshold (R221). -/
def State.hotCount (s : State) (tier offset : Nat) (epoch : Option Nat) : State :=
  if tier = 0 then s
  else
    let k := hotKey tier offset
    let n := satAdd (tget s.esk.hot 0 k) 1 0xFFFF
    let s1 := { s with esk := { s.esk with hot := tset s.esk.hot k n } }
    if n < (match epoch with | some e => s.cfg.hotAt e | none => s.cfg.hotThreshold) || s.esk.hotListed.contains k then s1
    else match s.frameOwner tier offset with
      | none => s1
      | some (a, f, i) =>
        if (s.fn f).vx1 then s1
        else
          let e := { s1.esk with hotListed := k :: s1.esk.hotListed }
          if e.hotFull then { s1 with esk := { e with hotLost := satAdd e.hotLost 1 0xFFFFFFFF } }
          else
            ({ s1 with esk := { e with
                hotList := tset e.hotList e.hotTail { offset := i, alloc := a, fn := f, tier := tier }
                hotTail := (e.hotTail + 1) % 256 } }).postEvent 0 .hotPage (e.hotTail + f * 2 ^ 16)

/-- The 16 bytes of a hot list entry (R279). -/
def HotEnt.bytes (h : HotEnt) : Blob :=
  zeros 4 ++ leBytes 1 (b2n h.void) ++ leBytes 1 h.tier ++ leBytes 2 h.fn ++ leBytes 4 h.alloc ++ leBytes 4 h.offset

/-- What becomes of a request at a port. -/
inductive PortEnd where
  | pass | stale | denied | away
deriving DecidableEq, Repr

/-- Where a request ends, before Glaze and Rime (R209, R275, R284): a stale generation is checked first; a remote address leaves
for its node. -/
def State.portEnd (s : State) (q : MemReq) : PortEnd :=
  if q.fn ≠ 0 ∧ q.gen ≠ (s.fn q.fn).generation then .stale
  else if q.node ≠ s.nodeId then .away
  else if s.fktPass q then .pass else .denied

/-- An access to a page that Varve marked unverifiable fails its command (R483). -/
def State.refuseBad (s : State) (q : MemReq) : State :=
  match q.cmd with
  | some r => s.failCmd r .integrityUnverifiable
  | none => s

/-- What a write of host-tier data puts on the host port, with the written-page records of the chunk's owner (R227, R242): the bytes themselves
where they are plain, and the granule's ciphertext under Glaze. -/
def State.chunkWrite (s : State) (q : MemReq) (data : Blob) : State :=
  if q.prot = 0 then s.chunkStore q.tier q.offset
  else match s.chunkOf q.tier q.offset with
    | some e => s.hostWrite e.fn (e.addr + q.offset % frameBytes) data
    | none => s

/-- A write covers part of a granule that Glaze has written: the granule is read first (R472). -/
def State.mergesFirst (s : State) (q : MemReq) (n : Nat) : Bool := q.prot == 0 && decide (n < 512) && !s.unwritten q.tier q.offset

/-- Write a granule's bytes at a port that the request has passed: hot-page counting, Glaze's counters, and the bytes (R278, R468, R472). -/
def State.putGranule (s : State) (q : MemReq) (data : Blob) : State :=
  let s1 := if q.hot && q.ctx != 0 then s.hotCount q.tier q.offset q.epoch else s
  if s1.pageBad q.tier q.offset then s1.refuseBad q
  else
    let s0 := if s1.mergesFirst q data.length then s1.chunkFetch q.tier q.offset else s1
    let s2 := if q.prot = 0 then s0.glazeWrite q.tier q.offset data.length else s0
    ({ s2 with mem := memWrite s2.mem (devAddr q.tier q.offset) data } : State).chunkWrite q data

/-- A write of a command's bytes at an address of a tier, through the port's checks, granule by granule: a stale one is discarded and
counted, a denied one is dropped and fails its command (R209, R210, R277). -/
def State.portWrite (s : State) (q : MemReq) (data : Blob) : State :=
  (granulesOf q.offset data.length).foldl (fun t g =>
    let d := slice data (g.1 - q.offset) g.2
    let q1 := { q with offset := g.1, len := g.2, write := some d }
    match t.portEnd q1 with
    | .pass => t.putGranule q1 d
    | .stale => t.moraine q.fn 1
    | .denied => t.fktDeny q1
    | .away => t) s

/-- A read of a host chunk on the host port, with its owner's requester ID (R242): under Glaze the whole granule, none where it is unwritten (R469). -/
def State.chunkRead (s : State) (q : MemReq) : State :=
  if q.prot = 0 then (if s.unwritten q.tier q.offset then s else s.chunkFetch q.tier q.offset)
  else match s.chunkOf q.tier q.offset with
    | some e => s.hostRead e.fn (e.addr + q.offset % frameBytes) q.len
    | none => s

/-- The bytes of a granule at a port that the request has passed. -/
def State.getGranule (s : State) (q : MemReq) : Blob × State :=
  let s1 := if q.hot && q.ctx != 0 then s.hotCount q.tier q.offset q.epoch else s
  if s1.pageBad q.tier q.offset then (zeros q.len, s1.refuseBad q)
  else
    (memRead s1.mem (devAddr q.tier q.offset) q.len, s1.chunkRead q)

/-- The bytes a command reads at an address of a tier, through the port's checks: a stale read is answered with zeros (R209), a
denied one with none (R277), which the model carries as zeros. -/
def State.portRead (s : State) (q : MemReq) (n : Nat) : Blob × State :=
  (granulesOf q.offset n).foldl (fun bt g =>
    let t := bt.2
    let q1 := { q with offset := g.1, len := g.2, write := none }
    match t.portEnd q1 with
    | .pass => let x := t.getGranule q1; (bt.1 ++ x.1, x.2)
    | .stale => (bt.1 ++ zeros g.2, t)
    | .denied => (bt.1 ++ zeros g.2, t.fktDeny q1)
    | .away => (bt.1 ++ zeros g.2, t)) ([], s)

/-- The request of a leaf at an address within it. -/
def Leaf.req (l : Leaf) (fn gen ctx : Nat) (cmd : Option Nat) (va : Nat) : MemReq :=
  { fn := fn, gen := gen, ctx := ctx, cmd := cmd, key := l.key, prot := l.prot, node := l.node, tier := l.tier,
    offset := l.offset + (va - l.va) }

/-- Bytes that another chip has answered, by their address. -/
def findRemote (l : List (Nat × Blob)) (dpa n : Nat) : Option Blob :=
  (l.find? fun e => decide (e.1 ≤ dpa) && decide (dpa + n ≤ e.1 + e.2.length)).map fun e => slice e.2 (dpa - e.1) n

/-- The bytes that other chips have answered for a range; what has not arrived reads as zeros. -/
def remoteBytes (l : List (Nat × Blob)) (key node tier off n : Nat) : Blob :=
  (granulesOf off n).flatMap fun g => (findRemote l (dpaOf key node tier g.1) g.2).getD (zeros g.2)

/-- Read a mapped span of a command's context. Holes read as zeros: the caller has checked that none is there. -/
def State.readVa (s : State) (r : Nat) (c : Cmd) (ls : List Leaf) (va len : Nat) : Blob × State :=
  (translate ls va len).foldl (fun bt g =>
    match g with
    | .hole _ n => (bt.1 ++ zeros n, bt.2)
    | .hit l v n =>
      let q := { l.req c.fn c.gen c.ctx (some r) v with epoch := some (s.epochOf 0x0700) }
      if l.node ≠ s.nodeId then
        (bt.1 ++ remoteBytes c.remoteData l.key l.node l.tier q.offset n, bt.2)
      else
        let x := bt.2.portRead q n
        (bt.1 ++ x.1, x.2)) ([], s)

/-- The bytes of one allocation's frames: tier and offset of a byte of an allocation. -/
def Alloc.place (a : Alloc) (off : Nat) : Nat × Nat :=
  match a.frames[off / frameBytes]? with
  | some (t, f) => (t, f * frameBytes + off % frameBytes)
  | none => (a.tier, 0)

/-- Read bytes of an allocation, frame by frame; `fuel` bounds the frames. -/
def allocRead (m : List Host.Cell) (a : Alloc) : Nat → Nat → Nat → Blob
  | 0, _, _ => []
  | f + 1, off, n =>
    if n = 0 then []
    else
      let k := min n (frameBytes - off % frameBytes)
      let p := a.place off
      memRead m (devAddr p.1 p.2) k ++ allocRead m a f (off + k) (n - k)

/-- Write bytes of an allocation. -/
def allocWrite (m : List Host.Cell) (a : Alloc) : Nat → Nat → Blob → List Host.Cell
  | 0, _, _ => m
  | f + 1, off, b =>
    if b.isEmpty then m
    else
      let k := min b.length (frameBytes - off % frameBytes)
      let p := a.place off
      allocWrite (memWrite m (devAddr p.1 p.2) (b.take k)) a f (off + k) (b.drop k)

/-- Read and write within an allocation. -/
def Alloc.read (a : Alloc) (m : List Host.Cell) (off n : Nat) : Blob := allocRead m a (n / frameBytes + 2) off n

def Alloc.write (a : Alloc) (m : List Host.Cell) (off : Nat) (b : Blob) : List Host.Cell :=
  allocWrite m a (b.length / frameBytes + 2) off b

/-- A command's request to an allocation, with the generation it carries (R208); the tier and the offset are the byte's. -/
def Alloc.req (a : Alloc) (node : Nat) (r : Nat) (c : Cmd) : MemReq :=
  { fn := c.fn, gen := c.gen, ctx := c.ctx, cmd := some r, key := a.key, prot := a.prot, node := node }

/-- Write bytes of an allocation through the ports; `fuel` bounds the frames. -/
def putFrames (a : Alloc) (q : MemReq) : Nat → Nat → Blob → State → State
  | 0, _, _, s => s
  | f + 1, off, b, s =>
    if b.isEmpty then s
    else
      let k := min b.length (frameBytes - off % frameBytes)
      let p := a.place off
      putFrames a q f (off + k) (b.drop k) (s.portWrite { q with tier := p.1, offset := p.2 } (b.take k))

/-- Read bytes of an allocation through the ports; `fuel` bounds the frames. -/
def getFrames (a : Alloc) (q : MemReq) : Nat → Nat → Nat → State → Blob × State
  | 0, _, _, s => ([], s)
  | f + 1, off, n, s =>
    if n = 0 then ([], s)
    else
      let k := min n (frameBytes - off % frameBytes)
      let p := a.place off
      let x := s.portRead { q with tier := p.1, offset := p.2 } k
      let y := getFrames a q f (off + k) (n - k) x.2
      (x.1 ++ y.1, y.2)

/-- Write bytes of an allocation for a command, through the ports' checks and Glaze (R209, R382). -/
def State.allocPut (s : State) (a : Alloc) (q : MemReq) (off : Nat) (b : Blob) : State :=
  putFrames a q (b.length / frameBytes + 2) off b s

/-- Read bytes of an allocation for a command, through the ports' checks and Glaze (R209, R382). -/
def State.allocGet (s : State) (a : Alloc) (q : MemReq) (off n : Nat) : Blob × State :=
  getFrames a q (n / frameBytes + 2) off n s

end Sys2Proof.Machine
end

