-- ==== Sys2Proof/Machine/SnowOps.lean ====
section
/-! DEFINITION. Snowpack: pages, spills, reservations, leaves and the provisioning pass (R426 to R452). -/

namespace Sys2Proof.Machine

open Sys2Proof

/-- Bytes of a page. -/
def pageSize : Nat := 262144

/-- The Vexzer key of key/value pages (R428, R456). -/
def kvKey : Nat := 4

/-- The address of a page's bytes. -/
def Page.addr (p : Page) : Nat := devAddr p.tier (p.page * pageSize)

/-- Token bytes of an image (R431, R453). -/
def State.tokenBytes (s : State) (img : Nat) : Nat := tget s.snow.tokenBytes 0 img

/-- The pages a sequence needs for a count of tokens (R442). -/
def State.pagesFor (s : State) (q : Sequence) (tokens : Nat) : Nat :=
  let t := tpp (s.tokenBytes q.image)
  if t = 0 then 0 else (tokens + t - 1) / t

/-- Pages that waiting steps have reserved for a sequence (R442). -/
def State.reservedFor (s : State) (q : Nat) : Nat :=
  (s.cmds.map fun c => (c.2.reserved.filter (·.1 == q)).length).sum

/-- Pages a function holds and reserves, in all tiers (R429, R453). -/
def State.pagesOfFn (s : State) (f : Nat) : Nat :=
  (s.snow.seqs.map fun q => if q.2.fn = f then q.2.pages.length else 0).sum +
  (s.cmds.map fun c => if c.2.fn = f then c.2.reserved.length else 0).sum

/-- The quota allows a function `n` more pages (R429). -/
def State.quotaOk (s : State) (f n : Nat) : Bool :=
  (s.fn f).maxPages == 0 || decide (s.pagesOfFn f + n ≤ (s.fn f).maxPages)

/-- Return a page to its pool, lowest first. -/
def Snow.put (w : Snow) (p : Page) : Snow :=
  if p.tier = 0 then { w with freeHbm := insBy (fun a b => decide (a ≤ b)) p.page w.freeHbm }
  else if p.tier = 1 then { w with freeBoard := insBy (fun a b => decide (a ≤ b)) p.page w.freeBoard }
  else { w with freeHost := insBy (fun a b => decide (a ≤ b)) p.page w.freeHost }

/-- A move of a page's contents, from one place to another. -/
abbrev Move := Page × Page

/-- The victim page of a tier: for growth of a running sequence, that sequence's own lowest page but its last; then the lowest page of the
unpinned sequence used longest ago, the lower ID first where they are equal (R444, assumption 10). -/
def Snow.victim (w : Snow) (tier : Nat) (grow : Option Nat) : Option (Nat × Page) :=
  let first (l : List Page) : Option Page := l.find? fun x => x.tier == tier
  let may (e : Nat × Sequence) : List Page := if grow = some e.1 then e.2.pages.dropLast else e.2.pages
  let own := grow.bind fun i => (tget? w.seqs i).bind fun q => (first (may (i, q))).map fun p => (i, p)
  match own with
  | some v => some v
  | none =>
    let cands := w.seqs.filter fun e => !e.2.pinned && (first (may e)).isSome
    (sortBy (fun (a b : Nat × Sequence) => decide (a.2.lastUse ≤ b.2.lastUse)) cands).head?.bind fun e => (first (may e)).map fun p => (e.1, p)

/-- Give a spilled page its new place (R444: its entry changes in one step). -/
def Snow.rename (w : Snow) (i : Nat) (p p' : Page) : Snow :=
  { w with seqs := tmod w.seqs i fun q => { q with pages := q.pages.map fun x => if x = p then p' else x } }

/-- Take a free page of the host pool. -/
def Snow.takeHost (w : Snow) : Option (Nat × Snow) :=
  match w.freeHost with
  | p :: t => some (p, { w with freeHost := t })
  | [] => none

/-- A board page freed by spilling one to the host tier (R443). -/
def Snow.spillBoard (w : Snow) (grow : Option Nat) : Option (Nat × Snow × List Move) :=
  match w.victim 1 grow, w.takeHost with
  | some (i, p), some (h, w1) =>
    let p' : Page := { tier := 2, page := h }
    some (p.page, { (w1.rename i p p') with toHost := satAdd w.toHost 1 0xFFFFFFFF }, [(p, p')])
  | _, _ => none

/-- A board page: a free one, or one freed by a spill. -/
def Snow.boardPage (w : Snow) (grow : Option Nat) : Option (Nat × Snow × List Move) :=
  match w.freeBoard with
  | p :: t => some (p, { w with freeBoard := t }, [])
  | [] => w.spillBoard grow

/-- An HBM page: a free one, or one freed by spilling to the board tier, which first spills that tier's own victim where it is full (R443). -/
def Snow.hbmPage (w : Snow) (grow : Option Nat) : Option (Nat × Snow × List Move) :=
  match w.freeHbm with
  | p :: t => some (p, { w with freeHbm := t }, [])
  | [] =>
    match w.victim 0 grow with
    | none => none
    | some (i, p) =>
      match w.boardPage grow with
      | none => none
      | some (b, w1, mv) =>
        let p' : Page := { tier := 1, page := b }
        some (p.page, { (w1.rename i p p') with toBoard := satAdd w.toBoard 1 0xFFFFFFFF }, mv ++ [(p, p')])

/-- A new page from the first source that has one (R443). -/
def Snow.takePage (w : Snow) (grow : Option Nat) : Option (Page × Snow × List Move) :=
  match w.hbmPage grow with
  | some (p, w1, mv) => some ({ tier := 0, page := p }, w1, mv)
  | none =>
    match w.boardPage grow with
    | some (p, w1, mv) => some ({ tier := 1, page := p }, w1, mv)
    | none => w.takeHost.map fun x => ({ tier := 2, page := x.1 }, x.2, [])

/-- Take `n` pages, or none at all (R442). -/
def Snow.takePages (grow : Option Nat) : Nat → Snow → Option (List Page × Snow × List Move)
  | 0, w => some ([], w, [])
  | n + 1, w =>
    match w.takePage grow with
    | none => none
    | some (p, w1, mv) =>
      match Snow.takePages grow n w1 with
      | none => none
      | some (ps, w2, mv2) => some (p :: ps, w2, mv ++ mv2)

/-- Table blocks of a chain of so many pages: 511 entries each (R433). -/
def chainBlocks (pages : Nat) : Nat := (pages + 510) / 511

/-- HBM offset of a table block: 64 of them lie in a page (R433). -/
def blockAt (page i : Nat) : Nat := page * pageSize + 4096 * i

/-- A free table block in the pages that hold blocks. -/
def Snow.freeBlock (w : Snow) : Option Nat :=
  let used := w.seqs.flatMap fun q => q.2.blocks
  (w.blockPages.flatMap fun p => (List.range 64).map (blockAt p)).find? fun b => !used.contains b

/-- A table block joins a sequence's chain: a free one, or the first of a new HBM page (R433). -/
def Snow.addBlock (w : Snow) (i : Nat) (grow : Option Nat) : Option (Snow × List Move) :=
  let join (x : Snow) (b : Nat) : Snow := { x with seqs := tmod x.seqs i fun q => { q with blocks := q.blocks ++ [b] } }
  match w.freeBlock with
  | some b => some (join w b, [])
  | none => (w.hbmPage grow).map fun x => (join { x.2.1 with blockPages := x.2.1.blockPages ++ [x.1] } (blockAt x.1 0), x.2.2)

/-- Add `n` table blocks to a sequence's chain, or none at all. -/
def Snow.addBlocks (i : Nat) (grow : Option Nat) : Nat → Snow → Option (Snow × List Move)
  | 0, w => some (w, [])
  | n + 1, w =>
    match w.addBlock i grow with
    | none => none
    | some (w1, mv) => (Snow.addBlocks i grow n w1).map fun x => (x.1, mv ++ x.2)

/-- Free the table blocks that a sequence of so many pages does not need, and the pages whose blocks are all free (R433). -/
def Snow.dropBlocks (w : Snow) (i pages : Nat) : Snow :=
  let w1 := { w with seqs := tmod w.seqs i fun q => { q with blocks := q.blocks.take (chainBlocks pages) } }
  let used := w1.seqs.flatMap fun q => q.2.blocks
  let live (p : Nat) : Bool := used.any fun b => b / pageSize == p
  (w1.blockPages.filter fun p => !live p).foldl (fun x p => x.put { tier := 0, page := p }) { w1 with blockPages := w1.blockPages.filter live }

/-- Give a sequence `n` pages more than the `held` it holds and has reserved, with the table blocks that list them; nothing where it cannot be had in
full (R433, R442). The blocks are taken before the pages (assumption 188). -/
def Snow.grant (w : Snow) (i held n : Nat) (grow : Option Nat) : Option (List Page × Snow × List Move) :=
  let have_ := match tget? w.seqs i with | some q => q.blocks.length | none => 0
  match Snow.addBlocks i grow (chainBlocks (held + n) - have_) w with
  | none => none
  | some (w1, mv) => (Snow.takePages grow n w1).map fun x => (x.1, x.2.1, mv ++ x.2.2)

/-! ## Bytes of pages and of the sequence table (R427, R428, R433) -/

/-- The offset of a page in its tier. -/
def Page.offset (p : Page) : Nat := p.page * pageSize

/-- The granules of a page by their offsets. -/
def Page.granules (p : Page) : List Nat := (List.range 512).map fun g => p.offset + 512 * g

/-- Snowpack rewrites a page with what `mem` then holds there: every granule under a fresh counter, with the host port's writes (R427, R468). -/
def State.pageWritten (s : State) (p : Page) (mem : List Host.Cell) : State :=
  p.granules.foldl (fun t o => (t.glazeWrite p.tier o 512).chunkStore p.tier o) { s with mem := mem }

/-- Snowpack writes zeros to a page (R428). -/
def State.zeroPage (s : State) (p : Page) : State := s.pageWritten p (memClear s.mem p.addr pageSize)

/-- Snowpack copies a page that is spilled (R427, R444). -/
def State.copyPage (s : State) (m : Move) : State :=
  let s1 := m.1.granules.foldl (fun t o => if t.unwritten m.1.tier o then t else t.chunkFetch m.1.tier o) s
  s1.pageWritten m.2 (memCopy s1.mem m.1.addr m.2.addr pageSize)

/-- Carry out spills and zero new pages (R428, R444). -/
def State.doMoves (s : State) (mv : List Move) (fresh : List Page) : State :=
  fresh.foldl State.zeroPage (mv.foldl State.copyPage s)

/-- The pages that waiting steps have reserved for a sequence, in the order of their reservation. -/
def State.reservedPages (s : State) (i : Nat) : List Page :=
  s.cmds.flatMap fun c => (c.2.reserved.filter (·.1 == i)).map (·.2)

/-- A page entry (R433). -/
def Page.entry (p : Page) (pinned : Bool) : Nat := at_ p.page 18 + at_ p.tier 16 + at_ (b2n pinned) 1 + 1

/-- A table block (R433): its entries, and the offset of the next. -/
def blockBytes (ps : List Page) (pinned : Bool) (next : Nat) : Blob :=
  padTo 4088 (ps.flatMap fun p => leBytes 8 (p.entry pinned)) ++ leBytes 8 next

/-- The state of a sequence in its record: leaving, pinned, provisioning while a waiting step names it, or idle (R433). -/
def State.seqCode (s : State) (i : Nat) (q : Sequence) : Nat :=
  if q.leaving then 4 else if q.pinned then 3
  else if tany s.cmds fun _ c => c.waitProv && c.unfinished && c.batch.any (·.seq == i) then 2 else 1

/-- The record of a sequence (R433). -/
def State.seqRecord (s : State) (i : Nat) (q : Sequence) : Blob :=
  let ps := q.pages ++ s.reservedPages i
  zeros 4 ++ leBytes 4 i ++ leBytes 4 (q.pendingKeep.getD 0xFFFFFFFF) ++ leBytes 1 (s.seqCode i q) ++ leBytes 1 q.image ++ leBytes 2 q.ctx ++
    leBytes 2 q.fn ++ zeros 6 ++ leBytes 4 (ps.countP fun p => p.tier == 0) ++ leBytes 4 ps.length ++ leBytes 8 (q.blocks.head?.getD 0) ++
    leBytes 8 (q.blocks.getLast?.getD 0) ++ leBytes 8 q.tokens ++ leBytes 8 q.lastUse

/-- Snowpack writes a sequence's record and its chain where they have changed (R433). -/
def State.syncSeq (s : State) (i : Nat) (q : Sequence) : State :=
  let ps := q.pages ++ s.reservedPages i
  q.blocks.zipIdx.foldl (fun t b =>
    t.regionPut b.1 (blockBytes ((ps.drop (511 * b.2)).take 511) q.pinned (q.blocks.getD (b.2 + 1) 0))) (s.regionPut (s.snow.region + 64 * i) (s.seqRecord i q))

/-- The sequence table follows what Snowpack holds. -/
def State.syncSeqs (s : State) : State := s.snow.seqs.foldl (fun t e => t.syncSeq e.1 e.2) s

/-- Reserve `n` pages for a sequence on behalf of a waiting step; nothing changes where they cannot be had in full. -/
def State.reserve (s : State) (r seq n : Nat) (grow : Option Nat) : Option State :=
  let held := match tget? s.snow.seqs seq with | some q => q.pages.length + s.reservedFor seq | none => 0
  match s.snow.grant seq held n grow with
  | none => none
  | some (ps, w, mv) =>
    some (({ (s.modCmd r fun c => { c with reserved := c.reserved ++ ps.map fun p => (seq, p) }) with snow := w } : State).doMoves mv ps)

/-- The table blocks of a sequence are those that its pages, and the pages reserved for it, need. -/
def State.fitBlocks (s : State) (i : Nat) : State :=
  match tget? s.snow.seqs i with
  | some q => { s with snow := s.snow.dropBlocks i (q.pages.length + s.reservedFor i) }
  | none => s

/-- Return the pages reserved for a step (R445, R448). -/
def State.unreserve (s : State) (r : Nat) : State :=
  match tget? s.cmds r with
  | none => s
  | some c =>
    let s1 : State := { (s.modCmd r fun x => { x with reserved := [] }) with snow := c.reserved.foldl (fun w e => w.put e.2) s.snow }
    (nubBy (c.reserved.map (·.1))).foldl State.fitBlocks s1

/-- Free pages of a sequence from an index upward (R452). -/
def State.freeSeqPages (s : State) (i keep : Nat) : State :=
  match tget? s.snow.seqs i with
  | none => s
  | some q =>
    let w := { s.snow with seqs := tset s.snow.seqs i { q with pages := q.pages.take keep } }
    State.fitBlocks { s with snow := (q.pages.drop keep).foldl (fun x p => x.put p) w } i

/-- Release a sequence: its pages, its table blocks and its ID, whose record is free (R433, R452). -/
def State.releaseSeq (s : State) (i : Nat) : State :=
  let s1 := s.freeSeqPages i 0
  let s2 : State := { s1 with snow := { (s1.snow.dropBlocks i 0) with seqs := tdel (s1.snow.dropBlocks i 0).seqs i } }
  s2.regionPut (s2.snow.region + 64 * i) (zeros 64)

/-- A boundary: the next pass is due (R439). -/
def State.passBoundary (s : State) : State :=
  if s.snow.passDue then s else ({ s with snow := { s.snow with passDue := true } } : State).progress 0x0A00

/-- Some unfinished step names a sequence (R451). -/
def State.seqNamed (s : State) (i : Nat) : Bool :=
  tany s.cmds fun _ c => c.unfinished && opIsStep c.opcode && c.batch.any (·.seq == i)

/-- A sequence is pinned: a step in flight and provisioned names it (R441). -/
def State.seqPinned (s : State) (i : Nat) : Bool :=
  match tget? s.snow.seqs i with | some q => q.pinned | none => false

/-- Sequences a step names. -/
def Cmd.seqs (c : Cmd) : List Nat := (c.batch.map (·.seq)).filter (· != 0)

/-- A step's new tokens for a sequence. -/
def Cmd.newTokens (c : Cmd) (i : Nat) : Nat := ((c.batch.filter (·.seq == i)).map (·.tokens)).sum

/-- The sequences of a provisioned step take its new tokens, and their pages are unpinned (R449, R450). -/
def State.takeTokens (s : State) (c : Cmd) (take : Bool) : State :=
  let step (i : Nat) (q : Sequence) : Sequence :=
    if c.provisioned && c.seqs.contains i then
      { q with pinned := false, tokens := if take then q.tokens + c.newTokens i else q.tokens, lastUse := if take then s.now else q.lastUse }
    else q
  { s with snow := { s.snow with seqs := tmap s.snow.seqs step } }

/-- The records of a sequence at positions from `tokens` upward hold undefined contents: each page's share takes free bytes (R449). -/
def State.loosen (s : State) (i : Nat) : State :=
  match tget? s.snow.seqs i with
  | none => s
  | some q =>
    let tb := s.tokenBytes q.image
    let n := tpp tb
    q.pages.zipIdx.foldl (fun t e =>
      let lo := min n (q.tokens - e.2 * n) * tb
      if lo < n * tb then { t with mem := memWrite t.mem (e.1.addr + lo) (freeBytes t.free (n * tb - lo)), free := t.free + 1 } else t) s

/-- A step ends: on success its sequences take its tokens and its context remembers them; in any case its pages are unpinned, what a step that
started and failed wrote is undefined, and a step that never started returns its reservations (R448, R449). The sequences of a TRAIN_STEP took their
tokens at the commit of its update (R450). -/
def State.snowEnd (s : State) (r : Nat) (ok : Bool) : State :=
  match tget? s.cmds r with
  | none => s
  | some c =>
    if !opIsStep c.opcode then s
    else
      let s1 := if c.provisioned then s else s.unreserve r
      let s2 := if c.tookTokens then s1 else s1.takeTokens c ok
      let s3 := if c.provisioned && !c.tookTokens && !ok then c.seqs.foldl State.loosen s2 else s2
      let s4 := (if ok && c.tookTokens then
          { s3 with snow := { s3.snow with seqs := tmap s3.snow.seqs fun i q => if c.seqs.contains i then { q with lastUse := s.now } else q } }
        else s3).passBoundary
      (if ok then s4.modCtx c.ctx fun x => { x with lastSeqs := c.seqs } else s4).syncSeqs

/-- The update of a TRAIN_STEP has committed: its sequences take their tokens and are unpinned (R450). -/
def State.commitTokens (s : State) (r : Nat) (c : Cmd) : State :=
  if c.provisioned && !c.tookTokens then ((s.takeTokens c true).modCmd r fun x => { x with tookTokens := true }).syncSeqs else s

/-! ## The provisioning pass (R438 to R447) -/

/-- The waiting steps and SEQ_CREATEs in step order (R440): class, priority, acceptance time. -/
def State.stepOrder (s : State) : List (Nat × Cmd) :=
  let prio (c : Cmd) : Nat := match tget? s.ctxs c.ctx with | some x => x.prio | none => 0
  let le (a b : Nat × Cmd) : Bool :=
    if a.2.cls ≠ b.2.cls then decide (a.2.cls < b.2.cls)
    else if prio a.2 ≠ prio b.2 then decide (prio b.2 < prio a.2)
    else decide (a.2.accept ≤ b.2.accept)
  sortBy le (s.cmds.filter fun e =>
    (e.2.waitProv && e.2.live) || (s.snow.creates.contains e.1 && e.2.stage == .running))

/-- The context's latest step that completed SUCCESS named the sequence, and it holds a token: it is running (R441). -/
def State.seqRunning (s : State) (c : Cmd) (i : Nat) : Bool :=
  match tget? s.snow.seqs i, tget? s.ctxs c.ctx with
  | some q, some x => decide (0 < q.tokens) && x.lastSeqs.contains i
  | _, _ => false

/-- Pages a step still lacks for a sequence (R442). -/
def State.lacks (s : State) (r : Nat) (c : Cmd) (i : Nat) : Nat :=
  match tget? s.snow.seqs i with
  | none => 0
  | some q =>
    let reserved := match tget? s.cmds r with
      | some x => (x.reserved.filter (·.1 == i)).length
      | none => 0
    s.pagesFor q (q.tokens + c.newTokens i) - (q.pages.length + reserved)

/-- The step waits for a sequence that another step pins (R441). -/
def State.waitsPinned (s : State) (c : Cmd) : Bool := c.seqs.any fun i => s.seqPinned i

/-- Everything a step lacks stays within its function's quota (R446). -/
def State.stepQuota (s : State) (r : Nat) (c : Cmd) : Bool :=
  s.quotaOk c.fn ((c.seqs.map fun i => s.lacks r c i).sum)

/-- The progress of a pass: the state, and whether the cut has been met. -/
structure Pass where
  s : State
  cut : Option Nat := none

/-- Growth: reserve for the running sequences of one step, or make it the cut (R442, R445). -/
def Pass.grow (p : Pass) (e : Nat × Cmd) : Pass :=
  if p.cut.isSome || !opIsStep e.2.opcode || p.s.waitsPinned e.2 then p
  else if !p.s.stepQuota e.1 e.2 then { p with s := p.s.unreserve e.1 }
  else
    (e.2.seqs.filter fun i => p.s.seqRunning e.2 i).foldl (fun q i =>
      if q.cut.isSome then q
      else match q.s.reserve e.1 i (q.s.lacks e.1 e.2 i) (some i) with
        | some s1 => { q with s := s1 }
        | none => { q with cut := some e.1 }) p

/-- Start a step whose every sequence is provisioned: its pages join its sequences and are pinned, its step table is built, and Serac may
issue it (R436, R442). -/
def State.startStep (s : State) (r : Nat) (c : Cmd) : State :=
  let res := match tget? s.cmds r with | some x => x.reserved | none => []
  let tab := c.batch.map fun b =>
    match tget? s.snow.seqs b.seq with
    | some q => if b.seq = 0 then (0, 0) else (q.tokens, q.tokens + b.tokens)
    | none => (0, 0)
  let seqs := tmap s.snow.seqs fun i q =>
    if c.seqs.contains i then { q with pages := q.pages ++ ((res.filter (·.1 == i)).map (·.2)), pinned := true } else q
  { (s.modCmd r fun x => { x with reserved := [], waitProv := false, provisioned := true, stepTab := tab }) with
    snow := { s.snow with seqs := seqs } }

/-- The lowest free sequence ID, 1 to 262,143 (R430). -/
def Snow.freeSeq (w : Snow) : Option Nat :=
  let i := tfree w.seqs 1
  if i ≤ 262143 then some i else none

/-- Give a SEQ_CREATE its initial pages and its sequence, whose ID then stands in the record's result until it is written, or fail it
OUT_OF_MEMORY (R430, R446). -/
def State.createSeq (s : State) (r : Nat) (c : Cmd) : State :=
  let n := fld c.sqe 32 4
  let done (t : State) (st : Status) : State :=
    ({ t with snow := { t.snow with creates := t.snow.creates.filter (· != r) } }.modCmd r
      fun x => { x with start := some s.now }).report r st
  match s.snow.freeSeq, tget? s.ctxs c.ctx with
  | some i, some x =>
    if !s.quotaOk c.fn n then done s .outOfMemory
    else
      let q0 : Sequence := { ctx := c.ctx, fn := c.fn, image := x.image, lastUse := s.now }
      match ({ s.snow with seqs := tset s.snow.seqs i q0 } : Snow).grant i 0 n none with
      | none => done s .outOfMemory
      | some (ps, w, mv) =>
        let w1 := { w with creates := w.creates.filter (· != r), seqs := tmod w.seqs i fun q => { q with pages := ps } }
        (({ s with snow := w1 } : State).doMoves mv ps).modCmd r fun y => { y with start := some s.now, result := leBytes 8 i }
  | _, _ => done s .outOfMemory

/-- Joins: give a step's other sequences their pages in full and start it, or make it the cut; a SEQ_CREATE takes its place in the
same order (R440, R442). A step whose need passes its function's quota holds nothing (R446). -/
def Pass.join (p : Pass) (e : Nat × Cmd) : Pass :=
  if !opIsStep e.2.opcode then { p with s := p.s.createSeq e.1 e.2 }
  else if p.s.waitsPinned e.2 then p
  else if !p.s.stepQuota e.1 e.2 then { p with s := p.s.unreserve e.1 }
  else
    let q := (e.2.seqs.filter fun i => !p.s.seqRunning e.2 i).foldl (fun (q : Pass) i =>
      if q.cut.isSome then q
      else match q.s.reserve e.1 i (q.s.lacks e.1 e.2 i) none with
        | some s1 => { q with s := s1 }
        | none => { q with cut := some e.1 }) { p with cut := none }
    if q.cut.isSome then q else { s := q.s.startStep e.1 e.2, cut := p.cut }

/-- Joins of the steps before the growth cut, ending at a new cut (R445). -/
def joinPhase : List (Nat × Cmd) → Pass → Pass
  | [], p => p
  | e :: t, p =>
    if p.cut == some e.1 then p
    else
      let q := p.join e
      if q.cut == some e.1 then q else joinPhase t { q with cut := p.cut }

/-- Growth and joins of steps in step order. -/
def Pass.over (p : Pass) (l : List (Nat × Cmd)) : Pass := joinPhase l (l.foldl Pass.grow p)

/-- The entries of the step order up to a step, and those behind it. -/
def splitAfter (k : Nat) : List (Nat × Cmd) → List (Nat × Cmd) × List (Nat × Cmd)
  | [] => ([], [])
  | e :: t => if e.1 == k then ([e], t) else let x := splitAfter k t; (e :: x.1, x.2)

/-- Apply the leaves that are due (R451, R452). -/
def State.applyLeaves (s : State) : State :=
  s.snow.seqs.foldl (fun t e =>
    let q := e.2
    if t.seqNamed e.1 then t
    else match q.releaser.filter fun r => tany t.cmds fun k c => k == r && c.stage == .running && c.decided.isNone with
      | some r =>
        let t1 := (t.releaseSeq e.1).modCmd r fun x => { x with start := some s.now }
        q.truncators.foldl (fun u k => (u.modCmd k fun x => { x with start := some s.now }).report k .success)
          (t1.report r .success)
      | none =>
        match q.pendingKeep with
        | none => t
        | some keep =>
          let kept := s.pagesFor q keep
          let t1 := { t with snow := { t.snow with seqs := tmod t.snow.seqs e.1 fun x =>
            { x with tokens := min x.tokens keep, pendingKeep := none, truncators := [] } } }
          let t2 := if keep < q.tokens then t1.freeSeqPages e.1 kept else t1
          q.truncators.foldl (fun u k => (u.modCmd k fun x => { x with start := some s.now }).report k .success) t2) s

/-- A step waits for its pages. -/
def State.waitsPages (s : State) (r : Nat) : Bool := tany s.cmds fun k c => k == r && c.waitProv && c.live

/-- The steps up to the cut that a former pass left, and those behind it. -/
def splitCut (order : List (Nat × Cmd)) (cut : Option Nat) : List (Nat × Cmd) × List (Nat × Cmd) :=
  match cut with
  | some k => if order.any (fun e => e.1 == k) then splitAfter k order else (order, [])
  | none => (order, [])

/-- Growth and joins over the steps up to the cut that a former pass left, and over those behind it once the cut is provisioned (R445). -/
def State.passOver (s : State) (order : List (Nat × Cmd)) (cut : Option Nat) : Pass :=
  let l := splitCut order cut
  let p := ({ s := s } : Pass).over l.1
  let held := cut.any fun k => p.s.waitsPages k && l.1.any fun (e : Nat × Cmd) => e.1 == k && p.s.stepQuota k e.2
  if p.cut.isSome then p else if held then { p with cut := cut } else p.over l.2

/-- One provisioning pass (R442): steps behind the cut of an earlier pass reserve nothing until a pass has provisioned it, and those behind the cut at
which this one ends return what they hold (R445). -/
def State.pass (s : State) : State :=
  let s1 := ((({ s with snow := { s.snow with passDue := false } } : State).progress 0x0A00).pulse 45).applyLeaves
  let q := s1.passOver s1.stepOrder s.snow.cut
  let t := match q.cut with
    | none => q.s
    | some k => (splitAfter k s1.stepOrder).2.foldl (fun (t : State) (e : Nat × Cmd) => t.unreserve e.1) q.s
  ({ t with snow := { t.snow with cut := q.cut } } : State).syncSeqs

end Sys2Proof.Machine
end

