-- ==== Sys2Proof/Machine/VariantOps.lean ====
section
/-! DEFINITION. Variants: the storage layout that a descriptor gives, the components' bytes, the digests, and the slices a site
has (R343 to R351, R366). -/

namespace Sys2Proof.Machine

open Sys2Proof

/-- The components of an entry, in storage order (R344). -/
inductive Comp where
  | a | b | m | bias | kp | vp
deriving DecidableEq, Repr

/-- A component belongs to a set coded as in kinds: bit 0 low-rank, 1 scale, 2 bias, 3 prefix. -/
def Comp.inKinds (c : Comp) (kinds : Nat) : Bool :=
  match c with
  | .a => bit kinds 0 | .b => bit kinds 0 | .m => bit kinds 1 | .bias => bit kinds 2 | .kp => bit kinds 3 | .vp => bit kinds 3

/-- Elements of a component of an entry. -/
def VarEntry.elems (e : VarEntry) (c : Comp) : Nat :=
  match c with
  | .a => e.dimIn * e.rank | .b => e.rank * e.dimOut | .m => e.dimOut | .bias => e.dimOut
  | .kp => e.rank * e.kvHeads * e.dimIn | .vp => e.rank * e.kvHeads * e.dimIn

/-- The components an entry holds, in storage order. -/
def VarEntry.comps (e : VarEntry) : List Comp := [.a, .b, .m, .bias, .kp, .vp].filter fun c => c.inKinds e.kinds

/-- The components an entry trains. -/
def VarEntry.trained (e : VarEntry) : List Comp := e.comps.filter fun c => c.inKinds e.train

/-- A 32-byte descriptor entry (R343, R344). -/
def varEntry (b : Blob) : VarEntry :=
  { layer := fld b 8 4, site := fld b 14 1, attention := fld b 15 1 == 1, kinds := fld b 16 1, train := fld b 17 1,
    dimIn := fld b 18 2, dimOut := fld b 20 2, rank := fld b 22 2, kvHeads := fld b 24 2, alpha := fld b 28 4, raw := padTo 32 b }

/-- Adapter bytes: every component's element count x 2 B (R344). -/
def adapterBytes (es : List VarEntry) : Nat := 2 * (es.map fun e => (e.comps.map e.elems).sum).sum

/-- An entry keeps R344's rules and the field ranges of the descriptor table. -/
def VarEntry.ok (e : VarEntry) (trainable : Bool) (layers : Nat) : Bool :=
  zeroAt e.raw 0 8 && zeroAt e.raw 12 2 && zeroAt e.raw 26 2 && decide (fld e.raw 15 1 < 2) && decide (e.layer < layers) &&
  decide (e.kinds < 16) && decide (e.train < 16) && (e.train &&& e.kinds == e.train) && (trainable || e.train == 0) &&
  if e.attention then
    e.kinds == 8 && e.dimIn % 32 == 0 && decide (32 ≤ e.dimIn) && decide (e.dimIn ≤ 256) && decide (1 ≤ e.dimOut) &&
      decide (e.dimOut ≤ 256) && decide (1 ≤ e.rank) && decide (e.rank ≤ 4096) && decide (1 ≤ e.kvHeads) &&
      decide (e.kvHeads ≤ 256) && e.dimOut % e.kvHeads == 0 && e.alpha == 0
  else
    decide (0 < e.kinds) && decide (e.kinds < 8) && e.dimIn % 32 == 0 && decide (32 ≤ e.dimIn) && decide (e.dimIn ≤ 32768) &&
      e.dimOut % 32 == 0 && decide (32 ≤ e.dimOut) && decide (e.dimOut ≤ 32768) && e.kvHeads == 0 &&
      if bit e.kinds 0 then
        decide (8 ≤ e.rank) && decide (e.rank ≤ 512) && e.rank % 8 == 0 && e.alpha % 2 ^ 31 != 0 && !f32Bad e.alpha
      else e.rank == 0 && e.alpha == 0

/-- Entries in strictly increasing (layer, site) order (R344). -/
def entriesOrdered : List VarEntry → Bool
  | a :: b :: t => decide (a.layer * 256 + a.site < b.layer * 256 + b.site) && entriesOrdered (b :: t)
  | _ => true

/-- A placed array: the entry's index, the component, 0 for the parameters and 1, 2, 3 for the first moment, the second moment and the
gradient, its offset and its elements. -/
structure Placed where
  entry : Nat
  comp : Comp
  part : Nat
  off : Nat
  elems : Nat
deriving DecidableEq, Repr

/-- The arrays of a list of (entry, component, part, element size), placed from an offset at multiples of 512 B (R344). -/
def placeArrays (es : List VarEntry) : List (Nat × Comp × Nat) → Nat → List Placed × Nat
  | [], off => ([], off)
  | (i, c, p) :: t, off =>
    let o := roundUp 512 off
    let n := match es[i]? with | some e => e.elems c | none => 0
    let r := placeArrays es t (o + n * (if p = 0 then 2 else 4))
    ({ entry := i, comp := c, part := p, off := o, elems := n } :: r.1, r.2)

/-- The storage layout of a descriptor (R344): its arrays, the offset of the save area, and the required size. -/
def layoutOf (es : List VarEntry) (trainable : Bool) (saveBytes : Nat) : List Placed × Nat × Nat :=
  let ps := es.zipIdx.flatMap fun e => e.1.comps.map fun c => (e.2, c, 0)
  let p := placeArrays es ps 0
  if trainable then
    let ts := es.zipIdx.flatMap fun e => e.1.trained.flatMap fun c => [(e.2, c, 1), (e.2, c, 2), (e.2, c, 3)]
    let q := placeArrays es ts p.2
    let save := roundUp 512 q.2
    (p.1 ++ q.1, save, roundUp 2097152 (save + saveBytes))
  else (p.1, p.2, roundUp 2097152 p.2)

/-- The layout of a registered variant. -/
def Variant.layout (v : Variant) : List Placed × Nat × Nat := layoutOf v.entries v.trainable v.saveBytes

/-- The place of an array. -/
def Variant.find (v : Variant) (i : Nat) (c : Comp) (part : Nat) : Option Placed :=
  v.layout.1.find? fun p => p.entry == i && p.comp == c && p.part == part

/-- The bytes of a component of an entry, from the variant's storage. -/
def State.compBytes (s : State) (v : Variant) (i : Nat) (c : Comp) : Blob :=
  match v.find i c 0, tget? s.allocs v.alloc with
  | some p, some a => a.read s.mem p.off (2 * p.elems)
  | _, _ => []

/-- The adapter digest of a variant's present contents (R350). -/
def State.variantDigest (s : State) (v : Variant) : Blob :=
  sha384 (v.entries.zipIdx.flatMap fun e =>
    e.1.raw ++ sha384 (e.1.comps.flatMap fun c => s.compBytes v e.2 c))

/-- Write the clear adapter's components into storage, through Glaze (R347, R348). -/
def writeAdapter (a : Alloc) (q : MemReq) : List Placed → Blob → State → State
  | [], _, s => s
  | p :: t, b, s => writeAdapter a q t (b.drop (2 * p.elems)) (s.allocPut a q p.off (b.take (2 * p.elems)))

/-- Zero the moments, gradients and, where asked, the save area, through Glaze (R348, R355). -/
def State.zeroTraining (s : State) (a : Alloc) (q : MemReq) (lay : List Placed × Nat × Nat) (saveBytes : Nat) (grads : Bool) : State :=
  ((lay.1.filter fun p => if grads then p.part == 3 else p.part != 0).foldl
    (fun t p => t.allocPut a q p.off (zeros (roundUp 512 (4 * p.elems)))) s).allocPut a q lay.2.1 (zeros saveBytes)

/-- Zero the gradients a step accumulated in its variants (R380). -/
def State.zeroGradients (s : State) (r : Nat) (c : Cmd) : State :=
  let s1 := c.variants.foldl (fun t x =>
    match tget? t.silt.variants x.id with
    | some v => match tget? t.allocs v.alloc with
      | some a => t.zeroTraining a (a.req t.nodeId r c) v.layout 0 true
      | none => t
    | none => t) s
  { s1 with silt := { s1.silt with
      variants := tmap s1.silt.variants fun k v =>
        if c.variants.any (·.id == k) then { v with entries := v.entries.map fun e => { e with tapped := false } } else v } }

/-! ## Slices (R366) -/

/-- The band width: the largest multiple of 8, no greater than r, with w x (K + N) x 2 B at most 1 MiB. -/
def bandWidth (e : VarEntry) : Nat := max 8 (min e.rank (1048576 / ((e.dimIn + e.dimOut) * 2) / 8 * 8))

/-- Prefix positions of one key/value head whose Kp and Vp fit in 1 MiB. -/
def prefixRun (e : VarEntry) : Nat := min e.rank (1048576 / (e.dimIn * 4))

/-- The rank bands of an entry: first rank and width (R366). -/
def VarEntry.bands (e : VarEntry) : List (Nat × Nat) :=
  (List.range ((e.rank + bandWidth e - 1) / bandWidth e)).map fun i => (i * bandWidth e, min (bandWidth e) (e.rank - i * bandWidth e))

/-- The runs of prefix positions of an entry: first position and count (R366). -/
def VarEntry.runs (e : VarEntry) : List (Nat × Nat) :=
  let w := max 1 (prefixRun e)
  (List.range ((e.rank + w - 1) / w)).map fun i => (i * w, min w (e.rank - i * w))

/-- Element `j` of a component of an entry belongs to a slice (R366). -/
def Slice.holds (x : Slice) (e : VarEntry) (c : Comp) (j : Nat) : Bool :=
  let within (r : Nat × Nat) (p : Nat) : Bool := decide (r.1 ≤ p) && decide (p < r.1 + r.2)
  match c with
  | .a => x.kind == 0 && within (e.bands.getD x.index (0, 0)) (j % max 1 e.rank)
  | .b => x.kind == 0 && within (e.bands.getD x.index (0, 0)) (j / max 1 e.dimOut)
  | .m => x.kind == 1
  | .bias => x.kind == 1
  | .kp => x.kind == 2 && within (e.runs.getD (x.index % 4096) (0, 0)) (j / max 1 (e.kvHeads * e.dimIn)) && j / max 1 e.dimIn % max 1 e.kvHeads == x.index / 4096
  | .vp => x.kind == 2 && within (e.runs.getD (x.index % 4096) (0, 0)) (j / max 1 (e.kvHeads * e.dimIn)) && j / max 1 e.dimIn % max 1 e.kvHeads == x.index / 4096

/-- The elements of a component as Silt fetched them: zero where the fetch of their slice was answered with zeros (R209). -/
def State.compVals (s : State) (v : Variant) (i : Nat) (c : Comp) : List Fp :=
  let b := s.compBytes v i c
  let l := readBf16s (b.length / 2) b
  match v.entries[i]? with
  | none => l
  | some e =>
    let z := v.zeroed.filter fun x => x.layer == e.layer && x.site == e.site
    if z.isEmpty then l else l.zipIdx.map fun y => if z.any fun x => x.holds e c y.2 then readBf16 0 else y.1

/-- The slices of an entry that a tap's phase needs: bands for phases 0 and 4, the vector slice for phases 0, 1 and 3, the prefix
slices of the answer's key/value heads for phases 2 and 5 (R367). -/
def VarEntry.slices (e : VarEntry) (variant phase ansFirst ansCount : Nat) : List Slice :=
  let bands := if bit e.kinds 0 && (phase == 0 || phase == 4) then
      e.bands.zipIdx.map fun y =>
        { variant := variant, layer := e.layer, site := e.site, kind := 0, index := y.2, bytes := y.1.2 * (e.dimIn + e.dimOut) * 2 }
    else []
  let vecs := if (bit e.kinds 1 || bit e.kinds 2) && (phase == 0 || phase == 1 || phase == 3) then
      [{ variant := variant, layer := e.layer, site := e.site, kind := 1, index := 0,
         bytes := 2 * (b2n (bit e.kinds 1) + b2n (bit e.kinds 2)) * e.dimOut : Slice }]
    else []
  let heads := nubBy ((List.range ansCount).map fun h => (ansFirst + h) * e.kvHeads / max 1 e.dimOut)
  let pre := if bit e.kinds 3 && (phase == 2 || phase == 5) then
      heads.flatMap fun g => e.runs.zipIdx.map fun y =>
        ({ variant := variant, layer := e.layer, site := e.site, kind := 2, index := g * 4096 + y.2, bytes := y.1.2 * e.dimIn * 4 } : Slice)
    else []
  bands ++ vecs ++ pre

/-- A variant's entry at a site, with its index. -/
def Variant.entryAt (v : Variant) (layer site : Nat) : Option (Nat × VarEntry) :=
  (v.entries.zipIdx.find? fun e => e.1.layer == layer && e.1.site == site).map fun e => (e.2, e.1)

/-- The bytes of a slice in the variant's storage: offsets and lengths (R344, R366). -/
def Variant.sliceRanges (v : Variant) (x : Slice) : List (Nat × Nat) :=
  match v.entryAt x.layer x.site with
  | none => []
  | some (k, e) =>
    let off (c : Comp) (i : Nat) : Nat := ((v.find k c 0).map (·.off)).getD 0 + 2 * i
    if x.kind = 0 then
      let b := e.bands.getD x.index (0, 0)
      ((List.range e.dimIn).map fun r => (off .a (r * e.rank + b.1), 2 * b.2)) ++ [(off .b (b.1 * e.dimOut), 2 * b.2 * e.dimOut)]
    else if x.kind = 1 then
      ([.m, .bias].filter fun c => c.inKinds e.kinds).map fun c => (off c 0, 2 * e.dimOut)
    else
      let b := e.runs.getD (x.index % 4096) (0, 0)
      [Comp.kp, .vp].flatMap fun c => (List.range b.2).map fun p => (off c (((b.1 + p) * e.kvHeads + x.index / 4096) * e.dimIn), 2 * e.dimIn)

/-- The granules of the storage that hold a slice, in rising order within each of its ranges (R383). -/
def Variant.sliceGranules (v : Variant) (x : Slice) : List Nat :=
  nubBy ((v.sliceRanges x).flatMap fun r => (List.range ((r.1 + r.2 - 1) / 512 - r.1 / 512 + 1)).map (r.1 / 512 + ·))

end Sys2Proof.Machine
end

