-- ==== Sys2Proof/Machine/SiltOps.lean ====
section
/-! DEFINITION. Silt's engines and taps: segments, engine choice and caches, the adapter arithmetic of each phase, and the
training update (R358 to R381). -/

namespace Sys2Proof.Machine

open Sys2Proof

/-! ## Segments (R366) -/

/-- The variant of a token of a command: its batch entry's, or the SQE's for a launch. -/
def Cmd.variantOf (c : Cmd) (token : Nat) : Nat :=
  if opIsStep c.opcode then
    match c.batch.find? fun e => decide (e.input ≤ token) && decide (token < e.input + e.tokens) with
    | some e => e.variant
    | none => 0
  else sqeVariant c.sqe

/-- The variants of a tap's rows, each once. -/
def Tap.rowVariants (t : Tap) (c : Cmd) : List Nat :=
  nubBy (((List.range t.tokens).map fun i => c.variantOf (t.first + i)).filter (· != 0))

/-- Segments of a tap: runs of consecutive rows that share a variant, each with its rows. -/
def Tap.segments (t : Tap) (c : Cmd) : List (Nat × Nat) :=
  (List.range t.tokens).foldl (fun acc i =>
    let v := c.variantOf (t.first + i)
    match acc.getLast? with
    | some y => if y.1 = v then acc.dropLast ++ [(v, y.2 + 1)] else acc ++ [(v, 1)]
    | none => [(v, 1)]) []

/-- The data of the tap's rows agree with an entry (R362): the site's type, K, N, head_dim and q_heads. -/
def Tap.agrees (t : Tap) (e : VarEntry) : Bool :=
  let n := t.tokens
  if t.phase = 2 ∨ t.phase = 5 then
    e.attention && decide (t.ansFirst + t.ansCount ≤ e.dimOut) &&
      (if t.phase = 2 then t.data.length == n * actBytes t.fmt (t.ansCount * e.dimIn)
       else t.data.length == 2 * n * actBytes t.fmt (t.ansCount * e.dimIn) + 8 * n * t.ansCount)
  else
    !e.attention &&
      (if t.phase = 0 then
         t.data.length == n * actBytes t.fmt e.dimIn && decide (t.ansFirst + t.ansCount ≤ e.dimOut)
       else if t.phase = 4 then
         t.data.length == n * (actBytes t.fmt e.dimIn + actBytes t.fmt e.dimOut) &&
           decide (t.ansFirst + t.ansCount ≤ e.dimIn)
       else decide (t.ansFirst + t.ansCount ≤ e.dimOut))

/-- The slices a tap needs, each once. -/
def State.tapSlices (s : State) (t : Tap) (c : Cmd) : List Slice :=
  (t.rowVariants c).flatMap fun v =>
    match tget? s.silt.variants v with
    | some x => match x.entryAt t.layer t.site with
      | some (_, e) => if t.agrees e then e.slices v t.phase t.ansFirst t.ansCount else []
      | none => []
    | none => []

/-! ## Engines (R115, R367) -/

/-- The engine ID of a Silt engine (R523). -/
def siltEngine (n : Nat) : Nat := 0x0200 + n

/-- A Silt engine that may take work: not fenced and not in reset. -/
def State.siltOk (s : State) (n : Nat) : Bool :=
  !(s.eng (siltEngine n)).fenced && (s.eng (siltEngine n)).rst.isNone

/-- A Silt engine; its registers are at their reset values until something changes them. -/
def State.siltEng (s : State) (n : Nat) : SiltEng := tget s.silt.engines {} n

/-- Change a Silt engine. -/
def State.updSilt (s : State) (n : Nat) (g : SiltEng → SiltEng) : State :=
  { s with silt := { s.silt with engines := tupd s.silt.engines {} n g } }

/-- Members of the Realtime reserve under a percentage: the lowest engines that are not fenced (R115). -/
def State.rtMembers (s : State) (pct : Nat) : List Nat :=
  ((List.range 64).filter fun n => !(s.eng (siltEngine n)).fenced).take (64 * pct / 100)

/-- The engine that holds, or is fetching, a slice. -/
def State.sliceHolder (s : State) (x : Slice) : Option Nat :=
  (s.silt.engines.find? fun e => e.2.slices.contains x || e.2.fetches.contains x).map (·.1)

/-- The engine that holds a slice in its cache. -/
def State.cachedBy (s : State) (x : Slice) : Option Nat := (s.silt.engines.find? fun e => e.2.slices.contains x).map (·.1)

/-- Handshakes of a product of M rows, reduction length R and width W (R384). -/
def handshakes (lanes m r w : Nat) : Nat := (m + 15) / 16 * r * ((w + lanes - 1) / lanes)

/-- An engine keeps the intermediate h of a band for a tap's rows (R369). -/
def SiltEng.keeps (g : SiltEng) (t : Tap) (c : Cmd) (x : Slice) : Bool :=
  g.inters.any fun y => y.cmd == c.no && y.pass == t.pass && y.band == x && y.first == t.first && y.tokens == t.tokens

/-- Handshakes of a slice for a segment of `rows` tokens (R384): of phase 0, without those of xA where h is kept; of phase 5, two products with
the tokens as rows and two with them as the reduction for each head (assumption 156). -/
def Tap.sliceWork (t : Tap) (c : Cmd) (e : VarEntry) (x : Slice) (rows : Nat) (kept : Bool) : Nat :=
  let a := t.ansCount
  let k := e.dimIn
  if x.kind = 0 then
    let w := (e.bands.getD x.index (0, 0)).2
    if t.phase = 0 then
      let lanes := if bits (ioArith c.sqe) 7 4 = 1 then 32 else 16
      (if kept then 0 else handshakes lanes rows k w) + handshakes lanes rows w a
    else
      handshakes 16 rows k w + handshakes 16 rows e.dimOut w + handshakes 16 rows w a + handshakes 16 k rows w + handshakes 16 w rows e.dimOut
  else if x.kind = 2 then
    let p := (e.runs.getD (x.index % 4096) (0, 0)).2
    let heads := (List.range a).countP fun h => (t.ansFirst + h) * e.kvHeads / max 1 e.dimOut == x.index / 4096
    heads * (if t.phase = 2 then handshakes 16 rows k p + handshakes 16 rows p k else 2 * handshakes 16 rows k p + 2 * handshakes 16 p rows k)
  else 0

/-- The slices of a tap whose part is not computed yet. -/
def Tap.needs (t : Tap) : List Slice := t.slices.filter fun x => !(t.used.map (·.1)).contains x

/-- Handshakes queued on an engine: those of the slices it holds or fetches, for the taps that are not answered (R367). -/
def State.siltLoad (s : State) (n : Nat) : Nat :=
  let g := s.siltEng n
  (s.silt.taps.map fun t =>
    match tget? s.cmds t.cmd with
    | none => 0
    | some c => if t.null then 0 else
      ((t.segments c).map fun y =>
        match (tget? s.silt.variants y.1).bind fun v => v.entryAt t.layer t.site with
        | none => 0
        | some e =>
          ((t.needs.filter fun x => x.variant == y.1 && (g.slices.contains x || g.fetches.contains x)).map fun x =>
            t.sliceWork c e.2 x y.2 (g.keeps t c x)).sum).sum).sum

/-- The least loaded engine of a list, the first of equals. -/
def State.leastLoaded (s : State) : List Nat → Option Nat
  | [] => none
  | x :: t => match s.leastLoaded t with
    | some y => if s.siltLoad y < s.siltLoad x then some y else some x
    | none => some x

/-- An engine belongs to the Realtime reserve of an epoch (R115, R221). -/
def State.rtMember (s : State) (e n : Nat) : Bool := (s.rtMembers (s.cfg.rtAt e)).contains n

/-- An engine may work for a class under an epoch (R115, R116, R221): it is up, and it is no engine of the reserve unless the class is Realtime. -/
def State.mayWork (s : State) (e cls n : Nat) : Bool := s.siltOk n && (cls == 0 || !s.rtMember e n)

/-- The engine a class's segment is fetched into (R367): of the engine set, the reserve first for Realtime, the one with the fewest handshakes
queued. -/
def State.pickEngine (s : State) (e cls : Nat) : Option Nat :=
  let ok := (List.range 64).filter fun n => s.mayWork e cls n
  s.leastLoaded ((ok.filter fun n => s.rtMember e n) ++ ok.filter fun n => !s.rtMember e n)

/-- A granule of a slice reads uncorrectable (R383). -/
def State.sliceBad (s : State) (x : Slice) : Bool :=
  match tget? s.silt.variants x.variant with
  | some v => !v.bad.isEmpty && (v.sliceGranules x).any fun g => v.bad.contains g
  | none => false

/-- Read a slice through Glaze, granule by granule, for a command (R367, R382): one whose generation is stale reads zeros (R209). -/
def State.readSlice (s : State) (e r : Nat) (c : Cmd) (x : Slice) : State :=
  match tget? s.silt.variants x.variant with
  | none => s
  | some v => match tget? s.allocs v.alloc with
    | none => s
    | some a =>
      let q := { a.req s.nodeId r c with epoch := some e }
      let stale := decide (s.portEnd q = .stale)
      let s1 := (v.sliceGranules x).foldl (fun t g => (t.allocGet a q (512 * g) 512).2) s
      { s1 with silt := { s1.silt with variants := tmod s1.silt.variants x.variant fun w =>
          { w with zeroed := w.zeroed.filter (· != x) ++ if stale then [x] else [] } } }

/-- A Realtime tap that is not answered needs a slice. -/
def State.rtNeeds (s : State) (x : Slice) : Bool :=
  s.silt.taps.any fun t => !t.null && t.needs.contains x && (tget? s.cmds t.cmd).any fun c => c.cls == 0

/-- Fetch a slice into the engine chosen for a command; an engine of the reserve that holds it gives it up, as it is held in one engine at a
time (R116, R367, assumption 157). -/
def State.fetchSlice (s : State) (e r : Nat) (c : Cmd) (x : Slice) : State :=
  match s.pickEngine e c.cls with
  | none => s
  | some n =>
    let s1 := match s.sliceHolder x with
      | some k => s.updSilt k fun g => { g with slices := g.slices.filter (· != x), fetches := g.fetches.filter (· != x) }
      | none => s
    ((s1.updSilt n fun g => { g with misses := satAdd g.misses 1 0xFFFFFFFF, fetches := g.fetches ++ [x] }).readSlice (s.epochOf (siltEngine n)) r c x).progress (siltEngine n)

/-- Take a slice for a command: it is used where it lies, fetched where no engine that may work for the command holds it, and waited for while a
Realtime tap needs it in the reserve (R116, R367). -/
def State.needSlice (s : State) (e r : Nat) (c : Cmd) (x : Slice) : State :=
  match s.sliceHolder x with
  | some n =>
    if s.mayWork e c.cls n then
      s.updSilt n fun g => { g with slices := if g.slices.contains x then g.slices.filter (· != x) ++ [x] else g.slices }
    else if s.rtNeeds x then s
    else s.fetchSlice e r c x
  | none => s.fetchSlice e r c x

/-- Take the slices of a segment: each engine that serves it from its cache counts one hit (R367, R385). -/
def State.segmentSlices (s : State) (e r : Nat) (c : Cmd) (xs : List Slice) : State :=
  let hits := nubBy ((xs.filterMap s.cachedBy).filter fun n => s.mayWork e c.cls n)
  xs.foldl (fun u x => u.needSlice e r c x) (hits.foldl (fun u n => u.updSilt n fun g => { g with hits := satAdd g.hits 1 0xFFFFFFFF }) s)

/-- The engine that answers a tap (R367, R368): that of its first slice, band 0 where it has bands; without a slice, one of its engine set. -/
def State.tapEngine (s : State) (t : Tap) (c : Cmd) : Option Nat :=
  match (t.slices.head?).bind fun x => ((t.used.find? fun y => y.1 == x).map (·.2)).orElse fun _ => s.sliceHolder x with
  | some n => if s.mayWork t.epoch c.cls n then some n else none
  | none => if s.mayWork t.epoch c.cls t.engine && decide (t.engine < 64) then some t.engine else s.pickEngine t.epoch c.cls

/-- Name the engine that answers a queued tap; 64 until one may work for it. -/
def State.assign (s : State) (t : Tap) (c : Cmd) : State :=
  let e := s.tapEngine t c
  let s1 := { s with silt := { s.silt with taps := s.silt.taps.map fun y =>
    if y.port = t.port ∧ y.tag = t.tag then { y with engine := e.getD 64 } else y } }
  match e with
  | some n => s1.progress (siltEngine n)
  | none => s1

/-- Queue a tap: its slices are found or fetched segment by segment, and an engine is named to answer it (R367, R368). -/
def State.queueTap (s : State) (t : Tap) (c : Cmd) : State :=
  let t1 := { t with slices := s.tapSlices t c }
  let s1 := { s with silt := { s.silt with taps := s.silt.taps ++ [t1] } }
  ((t.segments c).foldl (fun u y => u.segmentSlices t.epoch t.cmd c (t1.slices.filter (·.variant == y.1))) s1).assign t1 c

/-- Fetch again the slices of a tap that no engine which may work for it holds or fetches. -/
def State.refetch (s : State) (t : Tap) (c : Cmd) : State :=
  ((t.needs.filter fun x => !s.sliceBad x && !(s.sliceHolder x).any fun n => s.mayWork t.epoch c.cls n).foldl (fun u x => u.needSlice t.epoch t.cmd c x) s).assign t c

/-- Every slice a tap needs has been computed, is in the cache of an engine that may work for it, or has been fetched and reads uncorrectable. -/
def State.tapReady (s : State) (t : Tap) (c : Cmd) : Bool :=
  t.needs.all fun x => ((s.cachedBy x).any fun n => s.mayWork t.epoch c.cls n) || (s.sliceBad x && (s.sliceHolder x).isNone)

/-- Slices that queued taps need. -/
def State.neededSlices (s : State) : List Slice := s.silt.taps.flatMap fun t => if t.null then [] else t.needs

/-- The slices of an engine that make room until its cache holds at most 2 MiB (R25, R366, R367): the least recently used of those that no queued
segment needs, then, where every slice is needed, the least recently used. `fuel` bounds the slices dropped. -/
def evictSlices (needed : List Slice) : Nat → List Slice → List Slice
  | 0, l => l
  | f + 1, l =>
    if (l.map (·.bytes)).sum ≤ 2097152 then l
    else match (l.find? fun x => !needed.contains x).orElse fun _ => l.head? with
      | some x => evictSlices needed f (l.filter (· != x))
      | none => l

/-- An engine computes its part of every queued segment that needs one of the slices, which then needs them no more. -/
def State.computeParts (s : State) (n : Nat) (xs : List Slice) : State :=
  let part (t : Tap) : Tap := { t with used := t.used ++ (xs.filter fun x => t.needs.contains x).map fun x => (x, n) }
  { s with silt := { s.silt with taps := s.silt.taps.map fun t => if t.null then t else part t } }

/-- A fetched slice enters an engine's cache. Slices that make room for it leave it; an engine computes the queued segments of one that it
drops before it goes (assumption 186). -/
def State.cacheSlice (s : State) (n : Nat) (x : Slice) : State :=
  let g := s.siltEng n
  let l := evictSlices (s.neededSlices ++ [x]) (g.slices.length + 1) (g.slices ++ [x])
  (s.computeParts n (g.slices.filter fun y => !l.contains y)).updSilt n fun y => { y with slices := l }

/-- Drop the oldest intermediates that the space the slices leave free does not hold (R369). -/
def trimInters (room : Nat) : List Inter → List Inter
  | [] => []
  | y :: t => if ((y :: t).map (·.bytes)).sum ≤ room then y :: t else trimInters room t

/-- Keep an engine's intermediates within the space its slices leave free. -/
def SiltEng.trim (g : SiltEng) : SiltEng := { g with inters := trimInters (2097152 - (g.slices.map (·.bytes)).sum) g.inters }

/-- The engines that computed a phase-0 tap keep the h of their bands (R369). -/
def State.keepInters (s : State) (t : Tap) (c : Cmd) : State :=
  if t.phase ≠ 0 then s
  else (t.slices.filter (·.kind == 0)).foldl (fun u x =>
    match u.cachedBy x, (tget? u.silt.variants x.variant).bind fun v => v.entryAt t.layer t.site with
    | some n, some e =>
      let rows := ((t.segments c).map fun y => if y.1 = x.variant then y.2 else 0).sum
      let h : Inter := { cmd := c.no, pass := t.pass, band := x, first := t.first, tokens := t.tokens, bytes := 4 * rows * (e.2.bands.getD x.index (0, 0)).2 }
      u.updSilt n fun g => { g with inters := g.inters.filter (· != h) ++ [h] }.trim
    | _, _ => u) s

/-- A reset of a Silt engine: its cache is cleared, and what it fetched or was to answer goes to other engines (R381, R382). -/
def State.siltClear (s : State) (n : Nat) : State :=
  let s1 := s.updSilt n fun x => { x with slices := [], fetches := [], inters := [] }
  let again (t : Tap) : Tap := { t with used := t.used.filter fun y => y.2 != n }
  let s2 : State := { s1 with silt := { s1.silt with taps := s1.silt.taps.map again } }
  s2.silt.taps.foldl (fun u t =>
    match tget? u.cmds t.cmd with
    | some c => if t.null then u else u.refetch t c
    | none => u) s2

/-! ## The arithmetic of a tap (R343, R370 to R375) -/

/-- How a tap computes: the formats and rounding of arith_cfg, and the first free value that belongs to it. -/
structure Arith where
  act : Nat
  fp8 : Bool
  stoch : Bool
  base : Nat

/-- arith_cfg's parts (R166). -/
def arithOf (a base : Nat) : Arith :=
  { act := bits a 3 0, fp8 := bits a 7 4 == 1, stoch := bits a 13 12 == 1, base := base }

/-- The number of a free value of a tap: row, column, use. -/
def Arith.idx (x : Arith) (i j k : Nat) : Nat := x.base + ((i * 2 ^ 24 + j) * 2 ^ 10 + k)

/-- How many free values a tap may use. -/
def tapDraws : Nat := 2 ^ 64

/-- Round an FP32 answer to BF16 (R371). -/
def Arith.round (x : Arith) (i j v : Nat) : Nat := f32ToBf16 x.stoch (Config.free (x.idx i j 0)) v

/-- Activations, or a matrix's row or column, as operands of a product along their reduction axis: E4M3 with a scale per 32, to nearest, or BF16
(R370, R371). -/
def Arith.operand (x : Arith) (l : List Fp) : List Fp :=
  if x.fp8 then rowE4m3 false (fun _ => 0) (l.length / 32 + 1) 0 l else l.map bf16Of

/-- h as operands of the second product, rounded as arith_cfg says (R371): `k` numbers the row and the band. -/
def Arith.hidden (x : Arith) (i k : Nat) (l : List Nat) : List Fp :=
  if x.fp8 then rowE4m3 x.stoch (fun j => Config.free (x.idx i (k * 512 + j) 1)) (l.length / 32 + 1) 0 (l.map readF32)
  else l.zipIdx.map fun e => readBf16 (f32ToBf16 x.stoch (Config.free (x.idx i (k * 512 + e.2) 1)) e.1)

/-- Column `j` of a matrix of `w` columns with `n` rows. -/
def column (l : List Fp) (w n j : Nat) : List Fp := (List.range n).map fun k => l.getD (k * w + j) .nan

/-- Row `k` of a matrix of `w` columns. -/
def row (l : List Fp) (w k : Nat) : List Fp := (l.drop (k * w)).take w

/-- h = xA of one row and band, as operands of the second product. -/
def rowH (x : Arith) (i : Nat) (e : VarEntry) (band : Nat × Nat) (xs a : List Fp) : List Fp :=
  let xq := x.operand xs
  x.hidden i (band.1 / 8) ((List.range band.2).map fun j =>
    sumF32 (x.idx i (band.1 + j) 2) (products xq (x.operand (column a e.rank e.dimIn (band.1 + j)))))

/-- α (xA) B + b over the answer columns, for one row (phase 0): the bands' partial results are summed in FP32 (R368, R370). -/
def rowFwd (x : Arith) (i : Nat) (e : VarEntry) (xs a b bias : List Fp) (first count : Nat) : List Nat :=
  let hs := e.bands.map fun w => (w, rowH x i e w xs a)
  (List.range count).map fun c =>
    let n := first + c
    let part (w : (Nat × Nat) × List Fp) : Nat :=
      sumF32 (x.idx i n (16 + w.1.1 / 8)) (products w.2 (x.operand (((column b e.dimOut e.rank n).drop w.1.1).take w.1.2)))
    let lr := if bit e.kinds 0 then f32Mul e.alpha (sumF32 (x.idx i n 4) (hs.map part)) else 0
    x.round i n (if bit e.kinds 2 then f32Add lr (toF32 (bias.getD n .nan)) else lr)

/-- v ⊙ (m − 1) over the answer columns (phases 1 and 3): zeros where the entry holds no scale. -/
def rowScale (x : Arith) (i : Nat) (e : VarEntry) (vs m : List Fp) (first count : Nat) : List Nat :=
  (List.range count).map fun c =>
    if bit e.kinds 1 then
      x.round i c (f32Mul (toF32 (vs.getD c .nan)) (f32Sub (toF32 (m.getD (first + c) .nan)) f32One))
    else 0

/-- g Bᵀ for one row in FP32: `r` values (phase 4). -/
def rowDh (x : Arith) (i : Nat) (e : VarEntry) (g b : List Fp) : List Nat :=
  (List.range e.rank).map fun j => sumF32 (x.idx i j 6) (products (g.map bf16Of) (row b e.dimOut j))

/-- α (g Bᵀ) Aᵀ over the answer columns of K (phase 4): the bands' partial results are summed in FP32 (R368). -/
def rowBwd (x : Arith) (i : Nat) (e : VarEntry) (dh : List Nat) (a : List Fp) (first count : Nat) : List Nat :=
  let ds := dh.map fun v => bf16Of (readF32 v)
  (List.range count).map fun c =>
    let n := first + c
    let part (w : Nat × Nat) : Nat :=
      sumF32 (x.idx i n (16 + w.1 / 8)) (products ((ds.drop w.1).take w.2) (((row a e.rank n).drop w.1).take w.2))
    if bit e.kinds 0 then x.round i n (f32Mul e.alpha (sumF32 (x.idx i n 7) (e.bands.map part))) else 0

/-- The elements of a prefix block for a position and a key/value head. -/
def prefixVec (e : VarEntry) (kp : List Fp) (p g : Nat) : List Fp := (kp.drop ((p * e.kvHeads + g) * e.dimIn)).take e.dimIn

/-- The prefix scores of one head's query over a run of positions (R373). -/
def scores (x : Arith) (i h : Nat) (e : VarEntry) (scale : Nat) (run : Nat × Nat) (q kp : List Fp) : List Nat :=
  let g := h * e.kvHeads / max 1 e.dimOut
  (List.range run.2).map fun y =>
    let p := run.1 + y
    f32Mul scale (sumF32 (x.idx i (p * 256 + h) 8) (products (q.map bf16Of) (prefixVec e kp p g)))

/-- A prefix record in FP32: m_p, l_p and o_p (R373). -/
structure Rec where
  m : Nat
  l : Nat
  o : List Nat

/-- The record of one head over one slice's positions (R373): the weights are BF16 operands of the second product (R384). -/
def sliceRecord (x : Arith) (i h : Nat) (e : VarEntry) (scale : Nat) (q kp vp : List Fp) (run : Nat × Nat) : Rec :=
  let g := h * e.kvHeads / max 1 e.dimOut
  let sc := scores x i h e scale run q kp
  let m := sc.foldl f32Max f32NegInf
  let ex := sc.map fun v => f32Exp (f32Sub v m)
  let l := sumF32 (x.idx i (run.1 * 256 + h) 9) ex
  let ws := ex.map fun v => bf16Of (readF32 v)
  { m := m, l := l
    o := (List.range e.dimIn).map fun d =>
      f32Div (sumF32 (x.idx i (run.1 * 256 + h) (16 + d)) (products ws ((List.range run.2).map fun y => (prefixVec e vp (run.1 + y) g).getD d .nan))) l }

/-- Records of a prefix's slices merged in FP32, as a cluster merges records (R373). -/
def mergeRecords (x : Arith) (i h dim : Nat) : List Rec → Rec
  | [r] => r
  | rs =>
    let m := (rs.map (·.m)).foldl f32Max f32NegInf
    let ws := rs.map fun r => f32Mul r.l (f32Exp (f32Sub r.m m))
    let l := sumF32 (x.idx i h 10) ws
    { m := m, l := l
      o := (List.range dim).map fun d =>
        f32Div (sumF32 (x.idx i h (300 + d)) ((rs.zip ws).map fun y => f32Mul (y.1.o.getD d 0) y.2)) l }

/-- The phase-2 record of one head: o_p in BF16, then m_p and l_p (R359, R373). -/
def headRecord (x : Arith) (i h : Nat) (e : VarEntry) (scale : Nat) (q kp vp : List Fp) : Blob :=
  let r := mergeRecords x i h e.dimIn (e.runs.map (sliceRecord x i h e scale q kp vp))
  (r.o.zipIdx.flatMap fun y => leBytes 2 (x.round i (h * 256 + y.2) y.1)) ++ leBytes 4 r.m ++ leBytes 4 r.l

/-- The weights p_p and ds_p of one head in the backward pass, in FP32 (R374). -/
def headBack (x : Arith) (i h : Nat) (e : VarEntry) (scale l d : Nat) (q dO kp vp : List Fp) : List (Nat × Nat) :=
  let g := h * e.kvHeads / max 1 e.dimOut
  (scores x i h e scale (0, e.rank) q kp).zipIdx.map fun y =>
    let p := f32Exp (f32Sub y.1 l)
    let dp := sumF32 (x.idx i (y.2 * 256 + h) 11) (products (dO.map bf16Of) (prefixVec e vp y.2 g))
    (p, f32Mul p (f32Sub dp d))

/-- dq of one head over head_dim (phase 5). -/
def headDq (x : Arith) (i h : Nat) (e : VarEntry) (scale : Nat) (w : List (Nat × Nat)) (kp : List Fp) : List Nat :=
  let g := h * e.kvHeads / max 1 e.dimOut
  let ds := w.map fun y => bf16Of (readF32 y.2)
  (List.range e.dimIn).map fun d =>
    x.round i (h * 256 + d) (f32Mul scale (sumF32 (x.idx i (h * 256 + d) 12)
      (products ds ((List.range e.rank).map fun p => (prefixVec e kp p g).getD d .nan))))

/-- The part of a tap's data that belongs to one row (R358): x, y, g or q, and a second part g or d_o. -/
def Tap.rowVals (t : Tap) (e : VarEntry) (i : Nat) : List Fp × List Fp :=
  let two (a b : Nat) : List Fp × List Fp :=
    let n1 := actBytes t.fmt a
    let n2 := actBytes t.fmt b
    (readActs t.fmt a ((t.data.drop (i * n1)).take n1),
     readActs t.fmt b ((t.data.drop (t.tokens * n1 + i * n2)).take n2))
  if t.phase = 0 then two e.dimIn 0
  else if t.phase = 4 then two e.dimIn e.dimOut
  else if t.phase = 2 then two (t.ansCount * e.dimIn) 0
  else if t.phase = 5 then two (t.ansCount * e.dimIn) (t.ansCount * e.dimIn)
  else two t.ansCount 0

/-- L and D of a row and head (phase 5). -/
def Tap.lAndD (t : Tap) (e : VarEntry) (i h : Nat) : Nat × Nat :=
  let o := 2 * t.tokens * actBytes t.fmt (t.ansCount * e.dimIn)
  (fld t.data (o + 4 * (i * t.ansCount + h)) 4,
   fld t.data (o + 4 * t.tokens * t.ansCount + 4 * (i * t.ansCount + h)) 4)

/-- The bytes of an answer row for a token that receives nothing (R359). -/
def Tap.emptyRow (t : Tap) (headDim : Nat) : Blob :=
  if t.phase = 2 then (List.range t.ansCount).flatMap fun _ => zeros (2 * headDim) ++ leBytes 4 f32NegInf ++ leBytes 4 0
  else if t.phase = 5 then zeros (2 * headDim * t.ansCount)
  else zeros (2 * t.ansCount)

/-- The head_dim a phase-2 or phase-5 tap's data imply. -/
def Tap.headDim (t : Tap) : Nat :=
  let n := max 1 (t.tokens * t.ansCount)
  let b := if t.phase = 5 then (t.data.length - 8 * n) / (2 * n) else t.data.length / n
  if t.fmt = 8 then b / 2 else if t.fmt = 3 then b * 32 / 33 else b

/-- One answer row (R343, R359). -/
def State.answerRow (s : State) (t : Tap) (x : Arith) (i : Nat) (v : Variant) (k : Nat) (e : VarEntry) : Blob :=
  let vals := t.rowVals e i
  let two (l : List Nat) : Blob := l.flatMap (leBytes 2)
  if t.phase = 0 then
    two (rowFwd x i e vals.1 (s.compVals v k .a) (s.compVals v k .b) (s.compVals v k .bias) t.ansFirst t.ansCount)
  else if t.phase = 4 then
    two (rowBwd x i e (rowDh x i e vals.2 (s.compVals v k .b)) (s.compVals v k .a) t.ansFirst t.ansCount)
  else if t.phase = 2 then
    (List.range t.ansCount).flatMap fun h =>
      headRecord x i (t.ansFirst + h) e t.scale (row vals.1 e.dimIn h) (s.compVals v k .kp) (s.compVals v k .vp)
  else if t.phase = 5 then
    (List.range t.ansCount).flatMap fun h =>
      let ld := t.lAndD e i h
      let w := headBack x i (t.ansFirst + h) e t.scale ld.1 ld.2 (row vals.1 e.dimIn h) (row vals.2 e.dimIn h)
        (s.compVals v k .kp) (s.compVals v k .vp)
      two (headDq x i (t.ansFirst + h) e t.scale w (s.compVals v k .kp))
  else two (rowScale x i e vals.1 (s.compVals v k .m) t.ansFirst t.ansCount)

/-- A row of an entry needs a slice that was fetched and read uncorrectable (R383): no engine has computed with it or holds it. -/
def State.badRow (s : State) (t : Tap) (id : Nat) (e : VarEntry) : Bool :=
  (e.slices id t.phase t.ansFirst t.ansCount).any fun x => s.sliceBad x && (s.cachedBy x).isNone && t.needs.contains x

/-- The rows of a tap's answer; what rows hold whose slices read uncorrectable, nothing defines (R383). -/
def State.answerData (s : State) (t : Tap) (c : Cmd) (x : Arith) : Blob :=
  (List.range t.tokens).flatMap fun i =>
    match tget? s.silt.variants (c.variantOf (t.first + i)) with
    | some v => match v.entryAt t.layer t.site with
      | some (k, e) =>
        if !t.agrees e then t.emptyRow t.headDim
        else if s.badRow t (c.variantOf (t.first + i)) e then freeBytes (x.idx i 0 1000) (t.emptyRow t.headDim).length
        else s.answerRow t x i v k e
      | none => t.emptyRow t.headDim
    | none => t.emptyRow t.headDim

/-- Some row's variant has an entry in the tap's layer (R68), or holds a scale at its site (R364). -/
def State.tapAdapted (s : State) (t : Tap) (c : Cmd) (scale : Bool) : Bool :=
  (t.rowVariants c).any fun v =>
    match tget? s.silt.variants v with
    | some x =>
      if scale then match x.entryAt t.layer t.site with | some (_, e) => t.agrees e && bit e.kinds 1 | none => false
      else x.entries.any (·.layer == t.layer)
    | none => false

/-- Some row's variant has an entry at the site that disagrees with the tap (R362). -/
def State.tapDisagrees (s : State) (t : Tap) (c : Cmd) : Bool :=
  (t.rowVariants c).any fun v =>
    match tget? s.silt.variants v with
    | some x => match x.entryAt t.layer t.site with | some (_, e) => !t.agrees e | none => false
    | none => false

/-- The 32-byte header of an answer. -/
def Tap.answerHeader (t : Tap) (dataBytes flags : Nat) : Blob :=
  zeros 4 ++ leBytes 1 flags ++ leBytes 1 (b2n (t.phase == 2)) ++ leBytes 1 t.phase ++ leBytes 1 t.site ++
  leBytes 4 t.layer ++ leBytes 4 t.first ++ zeros 2 ++ leBytes 2 t.tokens ++ leBytes 2 t.ansFirst ++
  leBytes 2 t.ansCount ++ leBytes 4 dataBytes ++ zeros 4

/-- The packets of an answer (R65, R360). -/
def Tap.packets (t : Tap) (typ : Nat) (payload : Blob) : List DownPkt :=
  (chunks 65520 (payload.length / 65520 + 1) payload).map fun b =>
    { port := t.port, cls := 2, typ := typ, index := t.tag, tag := t.wtag, ctx := t.ctx, payload := b }

/-- TAP_NULL answers a tap, at once where the port has the credit for it (R63, R68). -/
def State.answerNull (s : State) (t : Tap) : State :=
  if (s.unit t.port).hasCredit 2 then (t.packets 2 (t.answerHeader 0 0)).foldl State.sendTile s
  else { s with silt := { s.silt with taps := s.silt.taps ++ [{ t with null := true, engine := 64 }] } }

/-- The TAP_ADD that answers a tap. -/
def State.tapAdd (s : State) (t : Tap) (c : Cmd) : Blob :=
  let x := arithOf (ioArith c.sqe) (s.free + 2 ^ 62)
  let data := s.answerData t c x
  let flag := (t.phase == 0 || t.phase == 4) && s.tapAdapted t c true
  t.answerHeader data.length (if flag then (if t.phase = 0 then 1 else 2) else 0) ++ data

/-! ## Gradients (R364, R375) -/

/-- Add values to consecutive elements of an FP32 array of a variant's storage: whole granules are read and written through Glaze (R344, R375). -/
def State.addArray (s : State) (a : Alloc) (q : MemReq) (off first : Nat) (vals : List Nat) : State :=
  if vals.isEmpty then s
  else
    let lo := (off + 4 * first) / 512 * 512
    let at_ := off + 4 * first - lo
    let x := s.allocGet a q lo (roundUp 512 (at_ + 4 * vals.length))
    x.2.allocPut a q lo (x.1.take at_ ++ (vals.zipIdx.flatMap fun e => leBytes 4 (f32Add (fld x.1 (at_ + 4 * e.2) 4) e.1)) ++
      x.1.drop (at_ + 4 * vals.length))

/-- Tokens of a step's batch that name a variant (R376). -/
def Cmd.tokensOf (c : Cmd) (v : Nat) : Nat := ((c.batch.filter (·.variant == v)).map (·.tokens)).sum

/-- A token's place among the tokens of its variant, in batch order. -/
def tokenRank (v token : Nat) : List BatchEnt → Nat
  | [] => 0
  | e :: t =>
    if e.variant ≠ v then tokenRank v token t
    else if e.input ≤ token ∧ token < e.input + e.tokens then token - e.input
    else e.tokens + tokenRank v token t

/-- Where the save area holds the phase-1 data of a token at a scale site: sites in entry order, N x 2 B for each of the variant's tokens in batch
order (R364, R376, assumption 155). -/
def Variant.savePlace (v : Variant) (c : Cmd) (id k token : Nat) : Nat :=
  let n := c.tokensOf id
  v.layout.2.1 + (((v.entries.take k).filter fun e => bit e.kinds 1).map fun e => n * e.dimOut * 2).sum +
    tokenRank id token c.batch * (match v.entries[k]? with | some e => e.dimOut * 2 | none => 0)

/-- Write a tap's phase-1 rows of a variant to its save area, as they came (R364). -/
def State.saveRows (s : State) (t : Tap) (c : Cmd) (rows : List Nat) (id k : Nat) (v : Variant) (a : Alloc) : State :=
  let n := actBytes t.fmt t.ansCount
  rows.foldl (fun u i => u.allocPut a { a.req u.nodeId t.cmd c with epoch := some t.epoch } (v.savePlace c id k (t.first + i) + actBytes t.fmt t.ansFirst)
    (slice t.data (i * n) n)) s

/-- Read the phase-1 data of rows back from the save area: the answer columns of each row. -/
def State.savedRows (s : State) (t : Tap) (c : Cmd) (rows : List Nat) (id k : Nat) (v : Variant) (a : Alloc) : List (List Fp) × State :=
  rows.foldl (fun y i =>
    let x := y.2.allocGet a { a.req y.2.nodeId t.cmd c with epoch := some t.epoch } (v.savePlace c id k (t.first + i) + actBytes t.fmt t.ansFirst) (actBytes t.fmt t.ansCount)
    (y.1 ++ [readActs t.fmt t.ansCount x.1], x.2)) ([], s)

/-- The rows of a tap that belong to a variant. -/
def Tap.rowsOf (t : Tap) (c : Cmd) (v : Nat) : List Nat := (List.range t.tokens).filter fun i => c.variantOf (t.first + i) == v

/-- What a backward tap adds to the gradient of one component: the first element, and FP32 values (R374, R375). Products take BF16 operands;
`ys` is the phase-1 data of the rows. -/
def State.gradTerms (s : State) (t : Tap) (x : Arith) (rows : List Nat) (ys : List (List Fp)) (id : Nat) (v : Variant) (k : Nat) (e : VarEntry)
    (cmp : Comp) : Nat × List Nat :=
  let y := { x with fp8 := false }
  let av := s.compVals v k .a
  let bv := s.compVals v k .b
  let sum (j : Nat) (l : List Nat) : Nat := sumF32 (x.base + 2 ^ 60 + id * 2 ^ 40 + cmp.ctorIdx * 2 ^ 34 + j) l
  let prod (a b : List Fp) : List Nat := products (a.map bf16Of) (b.map bf16Of)
  match cmp with
  | .b =>
    let hs := rows.map fun i => (e.bands.flatMap fun w => rowH y i e w (t.rowVals e i).1 av, (t.rowVals e i).2)
    (0, (List.range (e.rank * e.dimOut)).map fun q =>
      f32Mul e.alpha (sum q (prod (hs.map fun p => p.1.getD (q / e.dimOut) .nan) (hs.map fun p => p.2.getD (q % e.dimOut) .nan))))
  | .a =>
    let ds := rows.map fun i => ((t.rowVals e i).1, (rowDh y i e (t.rowVals e i).2 bv).map fun z => readF32 (f32Mul e.alpha z))
    (0, (List.range (e.dimIn * e.rank)).map fun q =>
      sum q (prod (ds.map fun p => p.1.getD (q / e.rank) .nan) (ds.map fun p => p.2.getD (q % e.rank) .nan)))
  | .bias => (0, (List.range e.dimOut).map fun n => sum n (rows.map fun i => toF32 ((t.rowVals e i).2.getD n .nan)))
  | .m =>
    (t.ansFirst, (List.range t.ansCount).map fun q =>
      sum q ((rows.zip ys).map fun p => f32Mul (toF32 ((t.rowVals e p.1).1.getD q .nan)) (toF32 (p.2.getD q .nan))))
  | _ =>
    let isV := cmp == .vp
    let per := rows.flatMap fun i => (List.range t.ansCount).map fun h =>
      let r := t.rowVals e i
      let ld := t.lAndD e i h
      (h, headBack y i (t.ansFirst + h) e t.scale ld.1 ld.2 (row r.1 e.dimIn h) (row r.2 e.dimIn h)
        (s.compVals v k .kp) (s.compVals v k .vp), row r.1 e.dimIn h, row r.2 e.dimIn h)
    (0, (List.range (e.rank * e.kvHeads * e.dimIn)).map fun q =>
      let p := q / (e.kvHeads * e.dimIn)
      let g := q / e.dimIn % e.kvHeads
      let d := q % e.dimIn
      let mine := per.filter fun z => (t.ansFirst + z.1) * e.kvHeads / max 1 e.dimOut == g
      if isV then sum q (prod (mine.map fun z => readF32 (z.2.1.getD p (0, 0)).1) (mine.map fun z => z.2.2.2.getD d .nan))
      else f32Mul t.scale (sum q (prod (mine.map fun z => readF32 (z.2.1.getD p (0, 0)).2) (mine.map fun z => z.2.2.1.getD d .nan))))

/-- The components a backward tap accumulates (R365, R375). -/
def Tap.gradComps (t : Tap) (e : VarEntry) : List Comp :=
  e.trained.filter fun c =>
    match c with
    | .a => t.phase == 4 && t.ansFirst == 0
    | .b => t.phase == 4 && t.ansFirst == 0
    | .bias => t.phase == 4 && t.ansFirst == 0
    | .m => t.phase == 3
    | .kp => t.phase == 5
    | .vp => t.phase == 5

/-- Accumulate a tap's gradients for one variant, through Glaze and once per tap, save its phase-1 rows, and mark the site tapped. -/
def State.accumulateFor (s : State) (t : Tap) (c : Cmd) (x : Arith) (id : Nat) : State :=
  match tget? s.silt.variants id with
  | none => s
  | some v =>
    match v.entryAt t.layer t.site, tget? s.allocs v.alloc with
    | some (k, e), some a =>
      if !t.agrees e then s
      else
        let rows := t.rowsOf c id
        let y := if t.phase = 3 && (t.gradComps e).contains .m then s.savedRows t c rows id k v a else ([], s)
        let s1 := (t.gradComps e).foldl (fun u cmp =>
          match v.find k cmp 3 with
          | some p => let g := s.gradTerms t x rows y.1 id v k e cmp; u.addArray a { a.req u.nodeId t.cmd c with epoch := some t.epoch } p.off g.1 g.2
          | none => u) y.2
        let s2 := if t.phase = 1 && bit e.kinds 1 then s1.saveRows t c rows id k v a else s1
        { s2 with silt := { s2.silt with variants := tmod s2.silt.variants id fun w => { w with entries := w.entries.zipIdx.map fun z =>
            if z.2 = k then { z.1 with tapped := true } else z.1 } } }
    | _, _ => s

/-- What a training step's tap leaves behind: saved phase-1 rows and gradients, under the generation it carries (R208, R364, R375). -/
def State.accumulateTap (s : State) (t : Tap) (c : Cmd) : State :=
  if c.opcode = 0x81 then
    let x := arithOf (ioArith c.sqe) (s.free + 2 ^ 62)
    (t.rowVariants c).foldl (fun u id => u.accumulateFor t c x id) s
  else s

/-! ## The update (R377, R378) -/

/-- The optimizer block's values (R175). -/
structure Opt where
  lr : Nat
  beta1 : Nat
  beta2 : Nat
  eps : Nat
  decay : Nat
  gscale : Nat

/-- Read the 32-byte optimizer block. -/
def optOf (b : Blob) : Opt :=
  { lr := fld b 0 4, beta1 := fld b 4 4, beta2 := fld b 8 4, eps := fld b 12 4, decay := fld b 16 4, gscale := fld b 20 4 }

/-- One parameter's update: the new moments and the new parameter in FP32 (R377). -/
def adamW (o : Opt) (t p m1 m2 grad : Nat) : Nat × Nat × Nat :=
  let g := f32Mul grad o.gscale
  let n1 := f32Add (f32Mul o.beta1 m1) (f32Mul (f32Sub f32One o.beta1) g)
  let n2 := f32Add (f32Mul o.beta2 m2) (f32Mul (f32Mul (f32Sub f32One o.beta2) g) g)
  let c1 := f32Div n1 (f32Sub f32One (f32Pow o.beta1 t))
  let c2 := f32Div n2 (f32Sub f32One (f32Pow o.beta2 t))
  let step := f32Add (f32Div c1 (f32Add (f32Sqrt c2) o.eps)) (f32Mul o.decay p)
  (n1, n2, f32Sub p (f32Mul o.lr step))

/-- Update one trained component of an entry: its arrays are read, and written in whole granules, through Glaze (R344, R377). -/
def State.updateComp (s : State) (q : MemReq) (v : Variant) (a : Alloc) (o : Opt) (stoch : Bool) (t base k : Nat) (cmp : Comp) : State :=
  match v.find k cmp 0, v.find k cmp 1, v.find k cmp 2, v.find k cmp 3 with
  | some pp, some p1, some p2, some pg =>
    let n := pp.elems
    let b0 := s.allocGet a q pp.off (roundUp 512 (2 * n))
    let b1 := b0.2.allocGet a q p1.off (roundUp 512 (4 * n))
    let b2 := b1.2.allocGet a q p2.off (roundUp 512 (4 * n))
    let b3 := b2.2.allocGet a q pg.off (roundUp 512 (4 * n))
    let xs := (List.range n).map fun i =>
      adamW o t (fld b0.1 (2 * i) 2 * 65536) (fld b1.1 (4 * i) 4) (fld b2.1 (4 * i) 4) (fld b3.1 (4 * i) 4)
    let ps := xs.zipIdx.flatMap fun x => leBytes 2 (f32ToBf16 stoch (Config.free (base + (k * 8 + cmp.ctorIdx) * 2 ^ 34 + x.2)) x.1.2.2)
    (((b3.2.allocPut a q p1.off ((xs.flatMap fun x => leBytes 4 x.1) ++ b1.1.drop (4 * n))).allocPut a q p2.off
      ((xs.flatMap fun x => leBytes 4 x.2.1) ++ b2.1.drop (4 * n))).allocPut a q pp.off (ps ++ b0.1.drop (2 * n))).allocPut a q pg.off
        (zeros (roundUp 512 (4 * n)))
  | _, _, _, _ => s

/-- Some gradient of a variant, read through Glaze, is NaN or infinite (R378); with the state the reads leave. -/
def State.gradBad (s : State) (q : MemReq) (v : Variant) (a : Alloc) : Bool × State :=
  (v.layout.1.filter fun p => p.part == 3).foldl (fun x p =>
    let b := x.2.allocGet a q p.off (roundUp 512 (4 * p.elems))
    (x.1 || (List.range p.elems).any fun i => f32Bad (fld b.1 (4 * i) 4), b.2)) (false, s)

/-- The engine whose requests an update's are, of the engines outside the Realtime reserve (R115, R537). -/
def State.updateEngine (s : State) : Nat := siltEngine ((s.pickEngine (s.epochOf 0x0700) 1).getD 63)

/-- The update of one variant of a step (R377), or its being skipped (R378). -/
def State.updateVariant (s : State) (r : Nat) (c : Cmd) (o : Opt) (stoch : Bool) (id : Nat) : State :=
  match tget? s.silt.variants id with
  | none => s
  | some v =>
    match tget? s.allocs v.alloc with
    | none => s
    | some a =>
      let tapped := v.entries.zipIdx.filter fun e => e.1.tapped
      let q := { a.req s.nodeId r c with epoch := some (s.epochOf s.updateEngine) }
      let bad := s.gradBad q v a
      if bad.1 then
        let s1 := (bad.2.modCmd r fun x => { x with skipped := true }).zeroTraining a q v.layout 0 true
        { s1 with silt := { s1.silt with
            skipped := satAdd s1.silt.skipped 1 0xFFFFFFFF
            variants := tset s1.silt.variants id { v with entries := v.entries.map fun e => { e with tapped := false } } } }
      else if tapped.isEmpty then s
      else
        let t := satAdd v.steps 1 0xFFFFFFFF
        let s1 := tapped.foldl (fun u e => e.1.trained.foldl (fun w cmp => w.updateComp q v a o stoch t (s.free + 2 ^ 51) e.2 cmp) u) s
        { s1 with
          free := s1.free + 2 ^ 52
          silt := { s1.silt with variants := tset s1.silt.variants id { v with steps := t } } }

/-- A revision passes from 0xFFFF_FFFF to 1 (R349). -/
def nextRevision (r : Nat) : Nat := if r = 0xFFFFFFFF then 1 else r + 1

/-- Tear the variants of a command whose update was cut (R381). -/
def State.tear (s : State) (c : Cmd) : State :=
  let vs := tmap s.silt.variants fun k v => if c.variants.any (·.id == k) then { v with torn := true } else v
  { s with silt := { s.silt with variants := vs } }

end Sys2Proof.Machine
end

