-- ==== Sys2Proof/Machine/CmdOps.lean ====
section
/-! DEFINITION. How a command ends: what it withdraws from, what it unpins, what its context gives back, and the discard of a
command whose generation is stale (R27, R131, R184, R210, R292, R380, R412, R448). -/

namespace Sys2Proof.Machine

open Sys2Proof

/-! ## Withdrawing -/

/-- Remove a record number from a list of waiting commands. -/
def dropRec (r : Nat) (l : List Nat) : List Nat := l.filter (· != r)

/-- Clear an optional record number. -/
def clearRec (r : Nat) (o : Option Nat) : Option Nat := if o = some r then none else o

/-- Withdraw a command from the functions and queues it waits on (R207, R142). -/
def State.withdrawFns (s : State) (r : Nat) : State :=
  { s with
    fns := tmap s.fns fun _ f => { f with
      enablers := dropRec r f.enablers, quiescers := dropRec r f.quiescers, resetters := dropRec r f.resetters
      afterwards := dropRec r f.afterwards, wplog := { f.wplog with stopper := clearRec r f.wplog.stopper } }
    queues := tmap s.queues fun _ q => if q.replay = some (some r) then { q with replay := none } else q }

/-- A leave that ends before its boundary leaves its sequence as the other leaves of it stand (R451, assumption 13). -/
def State.withdrawLeave (s : State) (r i : Nat) (q : Sequence) : Sequence :=
  let q1 := if q.releaser = some r then { q with releaser := none, leaving := false } else q
  if q.truncators.contains r then
    let left := dropRec r q.truncators
    { q1 with truncators := left, pendingKeep :=
        left.getLast?.map fun k => match tget? s.cmds k with | some c => fld c.sqe 28 4 | none => 0 }
  else q1

/-- Withdraw a command from the units that carry its effect on; the work goes on without it (R132, R222, R272). -/
def State.withdrawUnits (s : State) (r : Nat) : State :=
  { s with
    cfg := { s.cfg with
      staged := s.cfg.staged.map fun x => { x with cmd := clearRec r x.cmd }
      waiting := s.cfg.waiting.map fun x => { x with cmd := clearRec r x.cmd } }
    ctxs := tmap s.ctxs fun _ c => { c with resetCmd := clearRec r c.resetCmd }
    esk := { s.esk with
      invals := s.esk.invals.map fun x => { x with cmd := clearRec r x.cmd }
      invalWait := s.esk.invalWait.map fun x => { x with cmd := clearRec r x.cmd }
      walks := tmap s.esk.walks fun _ w => { w with cmd := clearRec r w.cmd } }
    silt := { s.silt with
      variants := tmap s.silt.variants fun _ v => { v with
        sealCmds := dropRec r v.sealCmds, changer := clearRec r v.changer } }
    snow := { s.snow with
      creates := dropRec r s.snow.creates
      seqs := tmap s.snow.seqs fun i q => s.withdrawLeave r i q }
    ledg := { s.ledg with queue := s.ledg.queue.map fun c => { c with cmd := clearRec r c.cmd } }
    tarn := { s.tarn with patchCmd := clearRec r s.tarn.patchCmd } }

/-- The frame key table indices of the new frames of the moves of some repairs (R338). -/
def State.movedInto (s : State) (q : Repair → Bool) : List Nat :=
  s.firn.repairs.filterMap fun p => if q p then p.moving.map fun m => s.frameIndex m.1 m.2.2 else none

/-- Clear frame key entries by their index in the table (R276). -/
def State.freeIdx (s : State) (l : List Nat) : State :=
  { s with esk := { s.esk with frames := s.esk.frames.filter fun e => !l.contains e.1 } }

/-- Change an image. -/
def State.modImage (s : State) (i : Nat) (g : Image → Image) : State :=
  { s with firn := { s.firn with images := tmod s.firn.images i g } }

/-- An image without a current version becomes Absent; older versions that pools still pin stay live (R292, R333). -/
def State.absentImage (s : State) (i : Nat) : State :=
  match tget? s.firn.images i with
  | none => s
  | some x =>
    if x.versions.isEmpty then { s with firn := { s.firn with images := tdel s.firn.images i } }
    else s.modImage i fun y => { y with state := 0, current := 0, staged := none }

/-- End the load at the head of the queue without a version: its memory is freed; a first load leaves the image Absent, and a
replacement leaves it in the state it held while the current version serves (R311, R333). -/
def State.dropLoadVersion (s : State) (l : Load) : State :=
  match tget? s.firn.images l.image with
  | none => s
  | some i =>
    let s1 := s.freeIdx l.ver.frames
    if i.current = 0 then s1.absentImage l.image
    else s1.modImage l.image fun x => { x with state := if x.state = 4 then x.before else x.state }

/-- A replacement no longer waits for a drain: the image returns to the state it held, or is Absent where its current version has been freed
(R332, R333). -/
def State.undrain (s : State) (i : Nat) : State :=
  if (tget? s.firn.images i).any (·.current == 0) then s.absentImage i
  else s.modImage i fun x => { x with state := if x.state = 4 then x.before else x.state }

/-- Withdraw a load command (R311, R333): one that has begun frees its version; one that waits for a drain gives the image back its
state; one that resumes keeps its staged version only where it has not begun. -/
def State.withdrawLoad (s : State) (r : Nat) : State :=
  match s.firn.loads.find? (·.cmd == r) with
  | none => s
  | some l =>
    let s1 := { s with firn := { s.firn with
      loads := s.firn.loads.filter (·.cmd != r)
      loadState := if l.begun || l.draining then 0 else s.firn.loadState } }
    let timedOut : State := ({ s1 with firn := { s1.firn with loadFail := 4, failedShard := s1.draw % 65536 } } : State).drawn
    if l.begun then timedOut.dropLoadVersion l
    else if l.draining then timedOut.undrain l.image
    else if l.kind = 0 then s1.absentImage l.image
    else s1

/-- Withdraw a command from everything it waits on. -/
def State.withdraw (s : State) (r : Nat) : State := ((s.withdrawFns r).withdrawUnits r).withdrawLoad r

/-! ## Pins (R184, R292) -/

/-- A command still pins its versions: it has not completed, or it timed out and its CQE is not yet produced (R184, R292). -/
def Cmd.pins (c : Cmd) : Bool := !c.refused && !c.admin && (c.unfinished || c.status == .timeout || c.status == .timeoutKilled)

/-- A graph version is pinned by a command. -/
def State.graphPinned (s : State) (f handle ver : Nat) : Bool :=
  tany s.cmds fun _ c => c.pins && c.fn == f && opRunsGraph c.opcode && sqeHandle c.sqe == handle && c.graphVer == ver

/-- The handle of a stored graph (R178). -/
def Graph.handle (g : Graph) : Nat := g.kind * 2 ^ 30 + g.index

/-- Free graph versions that are neither current nor pinned, and retired handles with none left (R184, R188). A handle that goes may
name another graph later, so no cluster still has its bodies (R399). -/
def State.pruneGraphs (s : State) : State :=
  let gs := s.graphs.map fun g =>
    { g with versions := tfilter g.versions fun k _ =>
        (k == g.current && !g.retired) || s.graphPinned g.fn g.handle k }
  let gone (h : Nat) (x : Option Nat) : Bool := gs.any fun g => g.retired && g.versions.isEmpty && g.handle == h &&
    (x.bind (tget? s.ctxs ·)).any (·.fn == g.fn)
  { s with
    graphs := gs.filter fun g => !g.retired || !g.versions.isEmpty
    serac := { s.serac with units := tmap s.serac.units fun _ u =>
      { u with lastBody := if u.lastBody.any fun b => gone b.1 u.holder then none else u.lastBody } } }

/-- An image version is pinned by a command or by a pool. -/
def State.imagePinned (s : State) (img ver : Nat) : Bool :=
  tany s.cmds (fun _ c => c.pins && c.image == img && c.imageVer == ver) ||
    tany s.pools fun _ p => p.image == img && p.imageVer == ver

/-- Free image versions that are neither current nor pinned, and abandon their repairs (R292, R340). -/
def State.pruneImages (s : State) : State :=
  let keep (i : Nat) (x : Image) (k : Nat) : Bool := k == x.current || s.imagePinned i k
  let dead := s.firn.images.flatMap fun e => (e.2.versions.filter fun v => !keep e.1 e.2 v.1).map fun v => (e.1, v.1, v.2.frames)
  if dead.isEmpty then s
  else
    let gone (p : Repair) : Bool := dead.any fun d => d.1 == p.image && d.2.1 == p.ver
    let s1 := s.freeIdx (dead.flatMap (fun d => d.2.2) ++ s.movedInto gone)
    { s1 with firn := { s1.firn with
      images := tmap s1.firn.images fun i x => { x with versions := tfilter x.versions fun k _ => keep i x k }
      repairs := s1.firn.repairs.filter fun p => !gone p } }

/-- Free what no pin holds any more. -/
def State.prune (s : State) : State := s.pruneGraphs.pruneImages

/-! ## Ends -/

/-- A save area of a cluster holds live bytes of a command: a work item of it is saved there, or it has begun on the cluster and has tiles left
there (R410, R412). -/
def SaveArea.holds (a : SaveArea) (u r : Nat) (c : Cmd) : Bool :=
  a.works.any (·.cmd == r) || (c.issuedOn.contains u && tany c.tiles fun k l => k == u && !l.isEmpty)

/-- A context's save area on a cluster is at rest: the cluster neither holds, saves nor restores the context. -/
def State.savedAway (s : State) (c u : Nat) : Bool :=
  let y := s.unit u
  y.holder != some c && !(y.preempt.any fun p => p.ctx == c) && !(y.restore.any fun p => p.ctx == c)

/-- Release a context's save areas as a command of it ends (R131, R412): an area at rest with live bytes of no other command goes where this one
ended otherwise than well; and once none of the context's commands is unfinished, an area stays only where live bytes are saved in it while the
cluster does not hold the context, or where a save into it is under way. -/
def State.releaseSaves (s : State) (r c : Nat) (ok : Bool) : State :=
  if tany s.cmds fun _ m => m.ctx == c && !m.admin && m.unfinished then
    if ok then s
    else
      let other (u : Nat) (a : SaveArea) : Bool :=
        tany s.cmds fun k m => k != r && m.ctx == c && !m.admin && m.unfinished && a.holds u k m
      s.modCtx c fun x => { x with saves := tfilter x.saves fun u a => !a.valid || !s.savedAway c u || other u a }
  else s.modCtx c fun x => { x with saves := tfilter x.saves fun u a =>
    ((s.unit u).preempt.any fun p => p.ctx == c && p.mode != 2) || (ok && a.valid && a.total != 0 && (s.unit u).holder != some c) }

/-- A command ends with a status: it leaves the records it is parked on and whatever it waits on, its step's pages are unpinned, a
training step cut before its update leaves no gradient, and the versions it pinned are freed (R108, R131, R272, R380, R448, R449). -/
def State.finish (s : State) (r : Nat) (st : Status) : State :=
  match tget? s.cmds r with
  | none => s
  | some c =>
    let s1 := ((s.withdraw r).crevLeave r).snowEnd r (st == .success)
    let s2 := if c.opcode = 0x81 && !c.refused then s1.zeroGradients r c else s1
    let s3 := (s2.endCmd r st).prune
    if c.admin then s3 else s3.releaseSaves r c.ctx (st == .success)

/-- Discard a command whose generation is stale: one is counted for it and nothing is written (R27, R210). -/
def State.discard (s : State) (r : Nat) : State :=
  match tget? s.cmds r with
  | none => s
  | some c =>
    let s1 := (s.finish r .contextReset).moraine c.fn 1
    ({ s1 with cmds := tdel s1.cmds r, ledg := { s1.ledg with compCount := if s1.ledg.compCount = s.ledg.compCount + 1 then s.ledg.compCount else s1.ledg.compCount } } : State).prune

/-- A reset of an engine or of the compute domain holds a context: it made the context lose state and has not ended (R526, R535). -/
def State.resetHolds (s : State) (x : Nat) : Bool :=
  (s.loess.engines.any fun e => match e.2.rst with | some r => r.lost.any (·.1 == x) | none => false) ||
  (match s.loess.domain with | some r => r.lost.any (·.1 == x) | none => false)

/-- A command whose status is decided completes with it once nothing of it holds an engine and no reset holds its context (R129, R131, R535,
R639). -/
def State.drainIfIdle (s : State) (r : Nat) : State :=
  match tget? s.cmds r with
  | none => s
  | some c =>
    match c.decided with
    | none => s
    | some st => if s.holdsEngine r || c.updating || (!c.admin && s.resetHolds c.ctx) || c.stage == .completed || c.stage == .receipted then s else s.finish r st

/-- A command fails with a status: it drains, and one that holds no engine completes at once (R131, R639). -/
def State.fail (s : State) (r : Nat) (st : Status) : State := (s.failCmd r st).drainIfIdle r

/-- Fail the commands of a list. -/
def State.failList (s : State) (l : List Nat) (st : Status) : State := l.foldl (fun t r => t.fail r st) s

/-- A command in flight completes with a status now, whatever it holds, unless it has completed; a training step whose update has begun
finishes it first, and then completes with that status (R198, R379, R521). -/
def State.kill (s : State) (r : Nat) (st : Status) : State :=
  match tget? s.cmds r with
  | none => s
  | some c =>
    if !c.unfinished then s
    else if c.updating then s.modCmd r fun x => { x with decided := some st, window := none } else s.finish r st

end Sys2Proof.Machine
end

