-- ==== Sys2Proof/Machine/FloeOps.lean ====
section
/-! DEFINITION. Floe: frames and their CRC, retry and credits, routing, remote requests, link and ring states (R554 to R581). -/

namespace Sys2Proof.Machine

open Sys2Proof

/-! ## Links and rings -/

/-- A link; its registers are at their reset values until something changes them. -/
def State.link (s : State) (n : Nat) : Link := tget s.floe.links {} n

/-- Change a link. -/
def State.updLink (s : State) (n : Nat) (g : Link → Link) : State :=
  { s with floe := { s.floe with links := tupd s.floe.links {} n g } }

/-- A ring. -/
def State.ring (s : State) (k : Nat) : Ring := tget s.floe.rings {} k

/-- Change a ring. -/
def State.updRing (s : State) (k : Nat) (g : Ring → Ring) : State :=
  { s with floe := { s.floe with rings := tupd s.floe.rings {} k g } }

/-- The link record of section 3 (R163, R164): 8 bytes. -/
def State.linkRec (s : State) (n : Nat) : Blob := slice (s.topo.links.getD []) (8 * n) 8

/-- Section 3 marks a link present. -/
def State.linkPresent (s : State) (n : Nat) : Bool := bit (fld (s.linkRec n) 0 1) 0

/-- The engine ID of a Floe controller (R523). -/
def floeEngine (n : Nat) : Nat := 0x0500 + n

/-- Both links of a ring are Up. -/
def State.bothUp (s : State) (k : Nat) : Bool := (s.link (2 * k)).st == .up && (s.link (2 * k + 1)).st == .up

/-- Drive a ring's bypass and PHY resets (R62, R76). -/
def State.drivePhys (s : State) (k : Nat) (release : Bool) : State :=
  let m : BitVec 36 := 3#36 <<< (2 * k)
  { s with pins := { s.pins with phyRstN := if release then s.pins.phyRstN ||| m else s.pins.phyRstN &&& ~~~m } }

def State.driveBypass (s : State) (k : Nat) (high : Bool) : State :=
  let m : BitVec 18 := 1#18 <<< k
  { s with pins := { s.pins with byp := if high then s.pins.byp ||| m else s.pins.byp &&& ~~~m } }

/-- Post LINK_DOWN for a link, and show its reason (R579). -/
def State.linkDown (s : State) (n reason : Nat) : State :=
  ((s.updLink n fun l => { l with reason := reason }).pulse 43).postEvent 0 .linkDown
    (n + reason * 2 ^ 8 + (s.link n).farNode * 2 ^ 16)

/-- A link's service state at its start, with its counters kept: no frame is held, sequence numbers start at 0 (R574, R575). -/
def Link.fresh (l : Link) (st : LinkSt) (deadline : Option Nat) : Link :=
  { l with st := st, txSeq := 0, rxSeq := 0, nakSent := false, retry := [], acked := 65535, ackTime := 0, out := [],
           credit := [0, 0, 0, 0, 0, 0], owed := [0, 0, 0, 0, 0, 0], rx := [], rxFrames := [0, 0, 0, 0, 0, 0], passing := [], passed := [],
           trainDeadline := deadline }

/-- Messages that a link was passing on as they arrived end short when it loses service: zeros stand for what did not come (assumption 190). -/
def State.cutPassing (s : State) (n : Nat) : State :=
  let fill (i : TxItem) : TxItem :=
    if i.source.any (·.1 == n) then { i with bytes := i.bytes ++ zeros i.left, left := 0, source := none, frames := 0 } else i
  { s with floe := { s.floe with links := tmap s.floe.links fun _ l => { l with out := l.out.map fill } } }

/-- Take a link to a state it holds while out of service; LINK_DOWN is posted where it leaves Up, or where a join fails. -/
def State.dropLink (s : State) (n reason : Nat) (joining : Bool) : State :=
  let was := (s.link n).st
  let st : LinkSt := if was = .fenced then .fenced else .outOfService
  let s1 := (s.updLink n fun l => l.fresh st none).cutPassing n
  if was = .up || joining then s1.linkDown n reason else s1

/-- Release a ring (R574): the bypass closes, the PHYs are reset and both links go out of service. `failed` is a failed join or retrain. -/
def State.releaseRing (s : State) (k reason : Nat) (failed : Bool) : State :=
  let joining := (s.ring k).st == 2 && failed
  let s1 := (s.driveBypass k false).drivePhys k false
  let s2 := (s1.dropLink (2 * k) reason joining).dropLink (2 * k + 1) reason joining
  s2.updRing k fun r => { r with st := if failed then 5 else 1, members := [], joinDeadline := none, censusSent := none }

/-- A ring may be joined: its links are present and neither controller is fenced. -/
def State.ringJoinable (s : State) (k : Nat) : Bool :=
  decide (k < 18) && s.linkPresent (2 * k) && s.linkPresent (2 * k + 1) &&
    (s.link (2 * k)).st != .fenced && (s.link (2 * k + 1)).st != .fenced

/-- Begin to join a ring (R573): the PHY resets are released and the bypass is driven high. -/
def State.beginJoin (s : State) (k : Nat) : State :=
  let s1 := (s.drivePhys k true).driveBypass k true
  let s2 := (s1.updLink (2 * k) fun l => l.fresh .training none).updLink (2 * k + 1) fun l => l.fresh .training none
  s2.updRing k fun r => { r with st := 2, members := [], joinDeadline := some (s.now + s.floe.joinMs * 1000000) }

/-- Some ring is joining (R573: one at a time). -/
def State.joinBusy (s : State) : Bool := tany s.floe.rings fun _ r => r.st == 2

/-- Execute the releases at the head of the waiting ring controls (R581); `fuel` bounds them. -/
def State.runReleases : Nat → State → State
  | 0, s => s
  | f + 1, s =>
    match s.floe.ctl with
    | (k, false) :: t => State.runReleases f (({ s with floe := { s.floe with ctl := t } } : State).releaseRing k 6 false)
    | _ => s

/-- Queue a ring control, and execute what is due at once (R581). -/
def State.ringCtl (s : State) (k : Nat) (join : Bool) : State :=
  let s1 := { s with floe := { s.floe with ctl := s.floe.ctl ++ [(k, join)] } }
  State.runReleases s1.floe.ctl.length s1

/-- A ring joins of the chip's own accord: it waits with the others in increasing order (R573). -/
def State.wantJoin (s : State) (k : Nat) : State :=
  if s.floe.joins.contains k then s else { s with floe := { s.floe with joins := insBy (fun a b => decide (a ≤ b)) k s.floe.joins } }

/-! ## Frames (R557 to R562) -/

/-- One step of the CRC-64 of R557. -/
def crc64Bit (c : Nat) : Nat :=
  let d := c * 2 % 2 ^ 64
  if c / 2 ^ 63 = 1 then d ^^^ 0x42F0E1EBA9EA3693 else d

/-- The CRC-64 of a byte string: not reflected, initial value 0. -/
def crc64 (b : Blob) : Nat :=
  b.foldl (fun c x =>
    let d := c ^^^ (x.toNat * 2 ^ 56)
    crc64Bit (crc64Bit (crc64Bit (crc64Bit (crc64Bit (crc64Bit (crc64Bit (crc64Bit d)))))))) 0

/-- The place of a stream in the credit lists: class x 2 + vc; the coded stream is class + 4 x vc. -/
def streamIdx (code : Nat) : Nat := code % 4 * 2 + code / 4 % 2

def streamCode (idx : Nat) : Nat := idx / 2 + 4 * (idx % 2)

/-- A frame's 256 bytes (R557). -/
def frameBytesOf (typ stream seq ack crdStream crdCount first : Nat) (payload : Blob) : Blob :=
  let b := leBytes 1 typ ++ leBytes 1 stream ++ leBytes 2 seq ++ leBytes 2 ack ++ leBytes 1 crdStream ++ leBytes 1 crdCount ++
    leBytes 1 payload.length ++ leBytes 1 first ++ zeros 6 ++ padTo 232 payload
  b ++ leBytes 8 (crc64 b)

/-- Send a frame on a link: it carries the ack and the credit to return of one stream. -/
def State.sendFrame (s : State) (n typ stream seq first : Nat) (payload : Blob) : State :=
  let l := s.link n
  let i := ((List.range 6).find? fun i => decide (0 < l.owed.getD i 0)).getD 0
  let cnt := min (l.owed.getD i 0) 255
  let f := frameBytesOf typ stream seq ((l.rxSeq + 65535) % 65536) (streamCode i) cnt first payload
  { ((s.updLink n fun x => { x with owed := setAt x.owed i (x.owed.getD i 0 - cnt) }).progress (floeEngine n)) with
    ports := { s.ports with frames := s.ports.frames ++ [(n, f)] } }

/-- The class of a message type (R563). -/
def msgClass (typ : Nat) : Nat := if typ < 0x10 then 0 else if typ < 0x20 then 1 else 2

/-- A message's bytes (R563). -/
def msgBytes (m : FloeMsg) : Blob :=
  leBytes 1 m.typ ++ zeros 3 ++ leBytes 1 m.ring ++ leBytes 1 m.src ++ leBytes 1 m.dst ++ leBytes 1 m.hops ++ leBytes 2 m.tag ++
  leBytes 2 m.fn ++ leBytes 2 m.ctx ++ leBytes 2 m.status ++ zeros 4 ++ leBytes 4 m.body.length ++ leBytes 8 m.dpa ++ m.body

/-- The bytes of a data frame of a stream, at most `space` of them, from what waits: with the offset at which the first message header in the frame
begins, what the frame begins to send, and what still waits (R558). `at_` is the offset reached. -/
def fillFrame (stream : Nat) : Nat → Nat → List TxItem → Blob × Option Nat × List FloeMsg × List TxItem
  | _, _, [] => ([], none, [], [])
  | at_, space, i :: t =>
    if i.stream ≠ stream then
      let y := fillFrame stream at_ space t
      (y.1, y.2.1, y.2.2.1, i :: y.2.2.2)
    else if space = 0 ∨ i.bytes.isEmpty then ([], none, [], i :: t)
    else
      let d := i.bytes.take space
      let j := { i with bytes := i.bytes.drop space, head := false }
      let first := if i.head then some at_ else none
      if !j.bytes.isEmpty || 0 < j.left then (d, first, i.msg.toList.filter (fun _ => i.head), j :: t)
      else
        let y := fillFrame stream (at_ + d.length) (space - d.length) t
        (d ++ y.1, first.orElse fun _ => y.2.1, i.msg.toList.filter (fun _ => i.head) ++ y.2.2.1, y.2.2.2)

/-- A stream has bytes that wait, a credit, and room in the retry buffer. -/
def Link.canSend (l : Link) (stream : Nat) : Bool :=
  decide (0 < l.credit.getD stream 0) && decide (l.retry.length < 128) &&
    match l.out.find? fun i => i.stream == stream with | some i => !i.bytes.isEmpty | none => false

/-- Bytes that were passed on have left the chip: their frames' credit goes back to the link they came from (R559). -/
def State.creditPassed (s : State) (before : List TxItem) (after : List TxItem) : State :=
  before.foldl (fun t i =>
    match i.source with
    | some (n, st) =>
      if i.bytes.isEmpty || after.any (fun j => j.source == i.source && !j.bytes.isEmpty) then t
      else t.updLink n fun l => { l with owed := setAt l.owed st (l.owed.getD st 0 + i.frames) }
    | none => t) s

/-- Send the next data frame of a stream: it takes a sequence number, a credit and a place of the retry buffer (R559, R561). -/
def State.sendData (s : State) (n stream : Nat) : State :=
  let l := s.link n
  let x := fillFrame stream 0 232 l.out
  let rest := x.2.2.2.map fun i => if i.bytes.isEmpty then { i with frames := 0 } else i
  let first := x.2.1.getD 255
  let s0 := x.2.2.1.foldl (fun t m => t.sendFloe n m) s
  let s1 := s0.sendFrame n 1 (streamCode stream) l.txSeq first x.1
  let s2 := s1.updLink n fun y => { y with
    txSeq := (y.txSeq + 1) % 65536
    retry := y.retry ++ [{ seq := l.txSeq, stream := streamCode stream, first := first, payload := x.1, epoch := s.epochOf (0x0500 + n) }]
    ackTime := if y.retry.isEmpty then s.now else y.ackTime
    bytes := (y.bytes + x.1.length) % 2 ^ 64, out := rest
    credit := setAt y.credit stream (y.credit.getD stream 0 - 1) }
  s2.creditPassed l.out rest

/-- Send frames while some stream can send, the stream of what waits longest first; `fuel` bounds the frames. -/
def State.pumpFrames (n : Nat) : Nat → State → State
  | 0, s => s
  | f + 1, s =>
    let l := s.link n
    match (l.out.map (·.stream)).find? l.canSend with
    | some i => State.pumpFrames n f (s.sendData n i)
    | none => s

/-- Send what a link can send. -/
def State.pump (s : State) (n : Nat) : State := if (s.link n).st = .up then State.pumpFrames n 128 s else s

/-- Hand a message to a link in a virtual channel. -/
def State.toLink (s : State) (n vc : Nat) (m : FloeMsg) : State :=
  (s.updLink n fun l => { l with out := l.out ++ [{ stream := msgClass m.typ * 2 + vc, bytes := msgBytes m, msg := some m }] }).pump n

/-- A census message (R563). -/
def censusMsg (k origin : Nat) (done : Bool) (nodes : List Nat) : FloeMsg :=
  { typ := 0x22, ring := k, src := origin, dst := origin,
    body := leBytes 1 origin ++ leBytes 1 (b2n done) ++ leBytes 1 nodes.length ++ zeros 1 ++
      padTo 64 (nodes.flatMap (leBytes 1)) }

/-- Send a census of a ring with our own node first (R554). -/
def State.startCensus (s : State) (k : Nat) : State :=
  (s.toLink (2 * k + 1) 0 (censusMsg k s.nodeId false [s.nodeId])).updRing k fun r =>
    { r with censusSent := some s.now, st := if r.st = 3 then 4 else r.st }

/-- A link of a ring whose links were both Up has changed state: a census goes out where the downstream link carries it (R554). -/
def State.linkMoved (s : State) (k : Nat) : State :=
  let r := s.ring k
  if (r.st = 3 ∨ r.st = 4) ∧ (s.link (2 * k + 1)).st = .up then s.startCensus k else s

/-- A link loses service: it is Down with its PHY_RST_N low, and its ring waits for a new census (R575, R576). LINK_DOWN is posted where it leaves Up. -/
def State.loseLink (s : State) (n reason : Nat) : State :=
  let s1 := if (s.link n).st = .up then s.linkDown n reason else s
  let s2 := (s1.updLink n fun x => { x.fresh .down none with downAt := s.now }).cutPassing n
  let s3 := { s2 with pins := { s2.pins with phyRstN := s2.pins.phyRstN &&& ~~~(1#36 <<< n) } }
  (s3.updRing (n / 2) fun r => { r with st := if r.st = 3 then 4 else r.st, censusSent := none }).linkMoved (n / 2)

/-- The pulse of a Down link's PHY_RST_N is over: it trains (R575). -/
def State.trainLink (s : State) (n : Nat) : State :=
  if (s.link n).st ≠ .down then s
  else
    let s1 := { s with pins := { s.pins with phyRstN := s.pins.phyRstN ||| (1#36 <<< n) } }
    (s1.updLink n fun x => { x with st := .training }).linkMoved (n / 2)

/-- A link leaves Up and retrains (R575): the third retrain within 1 s releases the ring instead (R574). `counted` is false for an engine
reset of its controller (R576). -/
def State.retrain (s : State) (n reason : Nat) (counted : Bool) : State :=
  let k := n / 2
  let l := s.link n
  let recent := l.retrainTimes.filter fun t => decide (s.now < t + 1000000000)
  if counted && decide (2 ≤ recent.length) then
    (s.updLink n fun x => { x with retrains := satAdd x.retrains 1 0xFFFF, retrainTimes := recent ++ [s.now] }).releaseRing k reason true
  else
    (s.loseLink n reason).updLink n fun x => { x with
      trainDeadline := some (s.now + s.floe.trainMs * 1000000)
      retrains := satAdd x.retrains (b2n counted) 0xFFFF
      retrainTimes := if counted then recent ++ [s.now] else x.retrainTimes }

/-- Send again every frame that is not acknowledged, or retrain where one has been sent 8 times (R561, R562). -/
def State.resend (s : State) (n : Nat) : State :=
  let l := s.link n
  if l.retry.any fun f => decide (8 ≤ f.sent) then s.retrain n 2 true
  else
    let s1 := l.retry.foldl (fun t f => t.sendFrame n 1 f.stream f.seq f.first f.payload) s
    s1.updLink n fun x => { x with retry := x.retry.map (fun f => { f with sent := f.sent + 1 }), ackTime := s.now }

/-- Take an ack: frames up to it leave the retry buffer (R561). -/
def Link.takeAck (l : Link) (now ack : Nat) : Link :=
  match l.retry.findIdx? fun f => f.seq == ack with
  | some i => { l with retry := l.retry.drop (i + 1), acked := ack, ackTime := now }
  | none => l

/-! ## Routing (R555, R556, R567, R568) -/

/-- The index of an element of a list. -/
def idxOf (l : List Nat) (x : Nat) : Nat := (l.findIdx? (· == x)).getD 0

/-- Hops downstream from one member to another. -/
def hopsDown (l : List Nat) (a b : Nat) : Nat := (idxOf l b + l.length - idxOf l a) % max 1 l.length

/-- The route to a node around one ring: downstream or not, and the first link. -/
def State.ringRoute (s : State) (k dst : Nat) : Option (Bool × Nat) :=
  let r := s.ring k
  if r.st = 3 ∧ r.members.contains dst then
    let d := hopsDown r.members s.nodeId dst
    let down := decide (2 * d ≤ r.members.length)
    some (down, if down then 2 * k + 1 else 2 * k)
  else none

/-- The best ring for a node: most class-0 credit on the first link, then the lower index. `dir` fixes the direction. -/
def State.route (s : State) (dst : Nat) (dir : Option Bool) : Option (Nat × Bool) :=
  ((List.range 18).filterMap fun k => (s.ringRoute k dst).map fun x => (k, dir.getD x.1)).foldl
    (fun best e =>
      let credit (x : Nat × Bool) : Nat := (s.link (if x.2 then 2 * x.1 + 1 else 2 * x.1)).credit.getD 0 0
      match best with
      | none => some e
      | some b => if credit b < credit e then some e else some b) none

/-- The link of a ring in a direction. -/
def outLink (k : Nat) (down : Bool) : Nat := if down then 2 * k + 1 else 2 * k

/-- A message that leaves here in a direction crosses, or has been forwarded across, the dateline (R556, R560): the chips from the one after
its source up to here have sent it over the link between the highest node and its downstream neighbour. -/
def crossed (l : List Nat) (src me : Nat) (down : Bool) : Bool :=
  let n := max 1 l.length
  let top := l.foldl max 0
  let t := idxOf l top
  let a := idxOf l src
  let b := idxOf l me
  if down then
    -- links used by forwarding chips: from index a + 1 to b, each to its successor
    (List.range ((b + n - a) % n)).any fun i => (a + 1 + i) % n == t
  else
    -- upstream: a chip at index (t + 1) sends over the dateline link
    (List.range ((a + n - b) % n)).any fun i => (a + n - 1 - i) % n == (t + 1) % n

/-- Send a message of our own by a route; it enters in vc 0 (R560). -/
def State.sendOn (s : State) (r : Nat × Bool) (m : FloeMsg) : State :=
  s.toLink (outLink r.1 r.2) 0 { m with ring := r.1, src := s.nodeId }

/-- Count a discard (R564, R568). -/
def State.floeDiscard (s : State) : State :=
  { s with floe := { s.floe with discarded := satAdd s.floe.discarded 1 0xFFFF } }

/-- A message for another chip that arrives on a link cannot go on (R564, R568). -/
def State.noForward (s : State) (link dst hops : Nat) : Bool :=
  decide (63 ≤ hops) || (s.link (outLink (link / 2) (link % 2 == 0))).st != .up || !(s.ring (link / 2)).members.contains dst

/-- The virtual channel in which a message goes on (R560). -/
def State.forwardVc (s : State) (link src : Nat) : Nat := b2n (crossed (s.ring (link / 2)).members src s.nodeId (link % 2 == 0))

/-- What tells the messages apart that a link passes on from their frames. -/
def passKey (typ src dst tag : Nat) : List Nat := [typ, src, dst, tag]

/-- Forward a message that is for another chip, or discard it (R564, R568); one whose frames have already been passed on is done. -/
def State.forward (s : State) (link : Nat) (m : FloeMsg) : State :=
  let key := passKey m.typ m.src m.dst m.tag
  if (s.link link).passed.contains key then s.updLink link fun l => { l with passed := l.passed.erase key }
  else if s.noForward link m.dst m.hops then s.floeDiscard
  else s.toLink (outLink (link / 2) (link % 2 == 0)) (s.forwardVc link m.src) { m with hops := m.hops + 1 }

/-- A protocol error of a link (R564). -/
def State.floeProtocol (s : State) (n : Nat) : State :=
  s.updLink n fun l => { l with protocol := satAdd l.protocol 1 0xFF }

/-- A message agrees with the table of R563: type and body length. -/
def msgOk (m : FloeMsg) (typ : Nat) : Bool :=
  m.typ == typ && decide (m.ring < 18) && decide (m.src < 64) && decide (m.dst < 64) && decide (m.tag < 4096) &&
  (let n := m.body.length
   if typ = 0x01 then n == 4 && (let k := leVal m.body; decide (64 ≤ k) && decide (k ≤ 512) && k % 64 == 0)
   else if typ = 0x02 then decide (64 ≤ n) && decide (n ≤ 512) && n % 64 == 0
   else if typ = 0x03 then n == 60
   else if typ = 0x11 then (if m.status = 0 then decide (64 ≤ n) && decide (n ≤ 512) else n == 0)
   else if typ = 0x12 then n == 0
   else if typ = 0x13 then (if m.status = 0 then n == 4096 else n == 0)
   else if typ = 0x21 then n == 16
   else n == 68)

/-- Send an answer to a message back to its source by R567's rule; where no ring serves, it is lost and counted. -/
def State.answerMsg (s : State) (m : FloeMsg) (typ status : Nat) (body : Blob) : State :=
  match s.route m.src none with
  | some r => s.sendOn r { typ := typ, dst := m.src, tag := m.tag, status := status, body := body }
  | none => s.floeDiscard

/-! ## Remote requests (R567 to R570) -/

/-- The message of a remote request. -/
def remoteMsg (q : MemReq) (tag : Nat) : FloeMsg :=
  { typ := if q.write.isSome then 0x02 else 0x01, dst := q.node, tag := tag, fn := q.fn, ctx := q.ctx,
    dpa := dpaOf q.key q.node q.tier q.offset,
    body := match q.write with | some b => b | none => leBytes 4 (roundUp 64 q.len) }

/-- The work of a request ends: a command fails with the status (R284, R571). -/
def State.endWork (s : State) (q : MemReq) (st : Status) : State :=
  match q.cmd with
  | some r => if st = .success then s.drainIfIdle r else s.fail r st
  | none => s

/-- A remote request ends REMOTE_UNREACHABLE. -/
def State.unreachable (s : State) (tag : Nat) (q : MemReq) : State :=
  ({ s with floe := { s.floe with
      remotes := tdel s.floe.remotes tag, unreachable := satAdd s.floe.unreachable 1 0xFFFF } } : State).endWork q .remoteUnreachable

/-- Some ring is joining, retraining or waiting for a census (R570). -/
def State.ringsComing (s : State) : Bool := tany s.floe.rings fun _ r => r.st == 2 || r.st == 4

/-- A write to the same 512 B granule of a remote node is outstanding (R569). -/
def State.granuleBusy (s : State) (q : MemReq) : Bool :=
  q.write.isSome && tany s.floe.remotes fun _ x =>
    x.q.write.isSome && x.q.node == q.node && x.q.tier == q.tier && x.q.offset / 512 == q.offset / 512

/-- Keep an outstanding remote request under its tag. -/
def State.setRemote (s : State) (tag : Nat) (x : Remote) : State :=
  { s with floe := { s.floe with remotes := tset s.floe.remotes tag x } }

/-- Keep a remote request and send its message by its route. -/
def State.sendRemote (s : State) (tag : Nat) (x : Remote) : State :=
  (s.setRemote tag x).sendOn (x.ring, x.downstream) (remoteMsg x.q tag)

/-- The lowest tag that no outstanding request of this chip carries (R569). -/
def State.freeTag (s : State) : Nat :=
  tfree (s.firn.repairs.foldl (fun t r => if r.asked.isSome then tset t r.tag () else t)
    (s.floe.remotes.map fun e => (e.1, ()))) 0

/-- A request that carries a stale generation goes no further (R209, R210, R567): a write is discarded and counted, a read is answered with zeros. -/
def State.staleRemote (s : State) (q : MemReq) : State :=
  match q.write, q.cmd with
  | some _, _ => s.moraine q.fn 1
  | none, some r => s.modCmd r fun c => { c with remoteData := c.remoteData ++ [(dpaOf q.key q.node q.tier q.offset, zeros q.len)] }
  | none, none => s

/-- A request carries a generation of its function that is no longer current. -/
def State.staleGen (s : State) (q : MemReq) : Bool := q.fn != 0 && q.gen != (s.fn q.fn).generation

/-- Issue a remote request (R567, R569, R570): it waits where 4,096 are outstanding or its granule is being written. A tag stands for the buffer space
of a whole response (R560, assumption 189). -/
def State.remoteIssue (s : State) (q : MemReq) : State :=
  let tag := s.freeTag
  if s.staleGen q then s.staleRemote q
  else if 4096 ≤ tag ∨ s.granuleBusy q then s
  else match s.route q.node none with
    | some r => s.sendRemote tag { q := q, ring := r.1, downstream := r.2, deadline := s.now + s.floe.e2eUs * 1000 }
    | none =>
      if s.ringsComing then s.setRemote tag { q := q, hold := true, deadline := s.now + s.floe.holdMs * 1000000 }
      else s.unreachable tag q

/-- Send the held requests that a ring now serves (R570). -/
def State.releaseHeld (s : State) : State :=
  s.floe.remotes.foldl (fun t e =>
    if e.2.hold then
      if t.staleGen e.2.q then ({ t with floe := { t.floe with remotes := tdel t.floe.remotes e.1 } } : State).staleRemote e.2.q
      else match t.route e.2.q.node (if e.2.again then some (!e.2.downstream) else none) with
      | some r => t.sendRemote e.1
          { e.2 with hold := false, again := false, resent := e.2.again, ring := r.1, downstream := r.2, deadline := t.now + t.floe.e2eUs * 1000 }
      | none => t
    else t) s

/-! ## The census (R554) -/

/-- Adopt a list: the ring is in service where both its links are Up (R555). -/
def State.adoptCensus (s : State) (k : Nat) (nodes : List Nat) : State :=
  let up := s.bothUp k
  ((s.updRing k fun r => { r with
    members := nodes, st := if up then 3 else r.st, joinDeadline := if up then none else r.joinDeadline
    censusSent := none }).pulse 43).releaseHeld

/-- A link comes Up (R559, R572): credits are granted, and a census follows when both links of its ring are Up. -/
def State.linkUp (s : State) (n farNode farLink : Nat) : State :=
  let rec_ := s.linkRec n
  let s1 := s.updLink n fun l =>
    { (l.fresh .up none) with
      farLink := farLink, farNode := farNode, bypassed := decide (farNode ≠ fld rec_ 1 1), upSince := s.now
      credit := [24, 24, 28, 28, 12, 12] }
  if s1.bothUp (n / 2) then (s1.pulse 43).startCensus (n / 2) else (s1.pulse 43).linkMoved (n / 2)

end Sys2Proof.Machine
end

