-- ==== Sys2Proof/Machine/MeltOps.lean ====
section
/-! DEFINITION. Melt: the Till-4 decoder, the values of a stored tensor, the conversion to a cluster's format and layout, and the
items of a weight stream (R298 to R304, R315 to R324). -/

namespace Sys2Proof.Machine

open Sys2Proof

/-! ## Till-4 (R301 to R304) -/

/-- The bits of a byte string, each byte from bit 0 upward (R303). -/
def bitList (b : Blob) : List Bool := b.flatMap fun x => (List.range 8).map fun i => bit x.toNat i

/-- The value of bits, least significant first. -/
def bitsVal : List Bool → Nat
  | [] => 0
  | b :: t => b2n b + 2 * bitsVal t

/-- Take `n` bits as a value, least significant first. -/
def takeBits (n : Nat) (l : List Bool) : Option (Nat × List Bool) :=
  if l.length < n then none else some (bitsVal (l.take n), l.drop n)

/-- The canonical codes of a list of lengths: value, length, code (R303). -/
def prefixCodes (lens : List Nat) : List (Nat × Nat × Nat) :=
  let vs := sortBy (fun a b => decide (a.2 ≤ b.2)) ((lens.zipIdx.map fun e => (e.2, e.1)).filter fun e => e.2 != 0)
  (vs.foldl (fun (acc : List (Nat × Nat × Nat) × Nat × Nat) e =>
    let code := if acc.1.isEmpty then 0 else (acc.2.2 + 1) * 2 ^ (e.2 - acc.2.1)
    (acc.1 ++ [(e.1, e.2, code)], e.2, code)) ([], 0, 0)).1

/-- Decode one symbol: most significant bit first, at most 15 bits. -/
def decodeSym (codes : List (Nat × Nat × Nat)) : Nat → Nat → Nat → List Bool → Option (Nat × List Bool)
  | 0, _, _, _ => none
  | _, _, _, [] => none
  | f + 1, len, acc, b :: t =>
    let c := acc * 2 + b2n b
    match codes.find? fun e => e.2.1 == len + 1 && e.2.2 == c with
    | some e => some (e.1, t)
    | none => decodeSym codes f (len + 1) c t

/-- Decode `n` symbols. -/
def decodeSyms (codes : List (Nat × Nat × Nat)) : Nat → List Bool → Option (List Nat × List Bool)
  | 0, l => some ([], l)
  | n + 1, l =>
    match decodeSym codes 15 0 0 l with
    | none => none
    | some (v, t) => (decodeSyms codes n t).map fun r => (v :: r.1, r.2)

/-- Decode a scale code (R303): the scale after `prev`. -/
def decodeScale (prev : Nat) : List Bool → Option (Nat × List Bool)
  | [] => none
  | false :: t => some (prev, t)
  | true :: false :: t =>
    match takeBits 3 t with
    | none => none
    | some (d, u) =>
      let s : Int := prev + (if d < 4 then (d : Int) else (d : Int) - 8)
      if 0 ≤ s ∧ s ≤ 254 then some (s.toNat, u) else none
  | true :: true :: t => takeBits 8 t
  | [true] => none

/-- The 17 bytes of an MXFP4 block (R298, R300). -/
def mxfp4Bytes (scale : Nat) (els : List Nat) : Blob :=
  leBytes 1 scale ++ (List.range 16).map fun i => BitVec.ofNat 8 (els.getD (2 * i) 0 + 16 * els.getD (2 * i + 1) 0)

/-- Decode `n` MX blocks of a bitstream. -/
def decodeMx (codes : List (Nat × Nat × Nat)) : Nat → Nat → List Bool → Option (List Blob × List Bool)
  | 0, _, l => some ([], l)
  | n + 1, prev, l =>
    match decodeScale prev l with
    | none => none
    | some (s, t) =>
      match decodeSyms codes 32 t with
      | none => none
      | some (els, u) => (decodeMx codes n s u).map fun r => (mxfp4Bytes s els :: r.1, r.2)

/-- The MX blocks of a coded block, or none where Melt rejects it as corrupt (R302 to R304). -/
def decodeCoded (b : Blob) : Option (List Blob) :=
  let n := fld b 0 2
  let mode := fld b 2 1
  let lens := (List.range 16).map fun v => fld b 4 8 / 16 ^ v % 16
  let pb := fld b 14 2
  let stream := bitList (slice b 16 4076)
  let padOk := (stream.drop pb).all (· == false)
  if b.length ≠ 4096 ∨ fld b 4092 4 ≠ crc32c (b.take 4092) ∨ fld b 3 1 ≠ 0 ∨ fld b 13 1 ≠ 0 ∨ 32608 < pb ∨ padOk = false then none
  else if mode = 1 then
    if n = 0 ∨ 239 < n ∨ fld b 4 8 ≠ 0 ∨ pb ≠ 136 * n then none
    else some (chunks 17 n (slice b 16 (17 * n)))
  else if mode = 0 then
    let kraft := (lens.map fun l => if l = 0 then 0 else 2 ^ (15 - l)).sum
    if n = 0 ∨ 988 < n ∨ lens.all (· == 0) ∨ 2 ^ 15 < kraft then none
    else match decodeMx (prefixCodes lens) n (fld b 12 1) (stream.take pb) with
      | some (l, []) => some l
      | _ => none
  else none

/-- Decode coded blocks in turn; each must begin at the MX block its index entry names. -/
def decodeBlocks (b : Blob) (base : Nat) : List Nat → Nat → Nat → Option (List Blob)
  | [], _, _ => some []
  | e :: t, j, start =>
    match decodeCoded (slice b (base + 4096 * j) 4096) with
    | none => none
    | some l => if e ≠ start then none else (decodeBlocks b base t (j + 1) (start + l.length)).map (l ++ ·)

/-- The coded blocks of a Till-4 tensor. -/
def tillBlocks (b : Blob) : Nat := fld b 16 4

/-- The decoded bytes of a Till-4 tensor, none where it is corrupt or its header disagrees with its entry (R304, R309). -/
def decodeTill4 (b : Blob) (rows cols : Nat) : Option Blob :=
  let k := tillBlocks b
  let mx := rows / 32 * cols
  if fld b 0 4 ≠ 0x34545856 ∨ fld b 4 2 ≠ 1 ∨ fld b 6 2 ≠ 0 ∨ fld b 8 4 ≠ rows ∨ fld b 12 4 ≠ cols ∨ fld b 20 4 ≠ 0 ∨
      fld b 24 8 ≠ mx ∨ zeroAt b 32 32 = false ∨ b.length ≠ 64 + 4100 * k then none
  else
    match decodeBlocks b (64 + 4 * k) ((List.range k).map fun j => fld b (64 + 4 * j) 4) 0 0 with
    | some l => if l.length = mx then some l.flatten else none
    | none => none

/-- Coded blocks of a Till-4 tensor that Melt finds corrupt. -/
def tillCorrupt (b : Blob) : Nat :=
  (List.range (tillBlocks b)).countP fun j => (decodeCoded (slice b (64 + 4 * tillBlocks b + 4096 * j) 4096)).isNone

/-! ## Stored values (R298 to R300, R315) -/

/-- A small format without infinities or NaN: `eb` exponent bits, `mb` fraction bits, a bias. -/
def readMini (eb mb : Nat) (bias : Int) (v : Nat) : Fp :=
  let e := v / 2 ^ mb % 2 ^ eb
  let m := v % 2 ^ mb
  if e = 0 then .num (bit v (eb + mb)) m (1 - bias - mb) else .num (bit v (eb + mb)) (2 ^ mb + m) ((e : Int) - bias - mb)

/-- The element format of a format code: 1 E4M3, 2 E5M2, 5 E2M3, 6 E3M2, 7 E2M1, 8 BF16. -/
def elemKind (fmt : Nat) : Nat := if fmt = 3 then 1 else if fmt = 4 then 2 else if fmt = 10 then 7 else fmt

/-- Read an element. -/
def readElem (kind v : Nat) : Fp :=
  if kind = 1 then readE4m3 v else if kind = 2 then readE5m2 v else if kind = 5 then readMini 2 3 1 v
  else if kind = 6 then readMini 3 2 3 v else if kind = 7 then readMini 2 1 1 v else readBf16 v

/-- Bits of an element. -/
def elemBits (kind : Nat) : Nat := if kind = 8 then 16 else if kind = 7 then 4 else if kind = 5 ∨ kind = 6 then 6 else 8

/-- A format with block scales. -/
def isMx (fmt : Nat) : Bool := fmt == 3 || fmt == 4 || fmt == 5 || fmt == 6 || fmt == 7 || fmt == 10

/-- Bytes of an MX block (R298). -/
def mxBytes (fmt : Nat) : Nat := 1 + 4 * elemBits (elemKind fmt)

/-- Bytes of a tensor in its decoded form (R305). -/
def formatBytes (fmt rows cols : Nat) : Nat :=
  if isMx fmt then rows / 32 * cols * mxBytes fmt else rows * cols * (elemBits fmt / 8)

/-- The value of element (k, n) of a tensor in canonical order, from its decoded bytes (R299). -/
def elemAt (fmt cols : Nat) (b : Blob) (k n : Nat) : Fp :=
  let kind := elemKind fmt
  let w := elemBits kind
  if isMx fmt then
    let o := (k / 32 * cols + n) * mxBytes fmt
    let v := fld b (o + 1) (4 * w) / 2 ^ (w * (k % 32)) % 2 ^ w
    match scaleExp (fld b o 1) with
    | some s => (readElem kind v).scale s
    | none => .nan
  else readElem kind (fld b ((k * cols + n) * (w / 8)) (w / 8))

/-! ## Conversion (R315 to R317) -/

/-- Fraction bits, least exponent, bias and greatest finite code of an element format. -/
def elemShape (kind : Nat) : Nat × Int × Int × Nat :=
  if kind = 1 then (3, -9, 7, 0x7E) else if kind = 2 then (2, -16, 15, 0x7B) else if kind = 5 then (3, -3, 1, 0x1F)
  else if kind = 6 then (2, -4, 3, 0x1F) else if kind = 7 then (1, -1, 1, 0x7) else (7, -133, 127, 0x7F7F)

/-- Bits of a NaN pattern that the spec leaves open (R316). -/
def nanElem (kind : Nat) : Nat :=
  let x := Config.meltBits kind
  if kind = 1 then 0x7F + 128 * (x % 2)
  else if kind = 2 then 0x7D + x / 2 % 3 + 128 * (x % 2)
  else 0x7F81 + x / 2 % 127 + 32768 * (x % 2)

/-- Round a value to an element format, to nearest with ties to even, saturating (R315, R316). -/
def packElem (kind : Nat) (x : Fp) : Nat :=
  let f := elemShape kind
  let sign (n : Bool) (v : Nat) : Nat := v + b2n n * 2 ^ (elemBits kind - 1)
  match x with
  | .nan => nanElem kind
  | .inf n => sign n f.2.2.2
  | .num n m e =>
    let r := roundNear (f.1 + 1) f.2.1 m e
    let p := 2 ^ f.1
    let q := if r.1 = 2 * p then (p, r.2 + 1) else r
    if q.1 < p then sign n q.1
    else sign n (min f.2.2.2 ((q.2 + f.1 + f.2.2.1).toNat * p + (q.1 - p)))

/-- The exponent of the target element's largest normal (R315). -/
def elemTop (kind : Nat) : Int :=
  if kind = 1 then 8 else if kind = 2 then 15 else if kind = 6 then 4 else 2

/-- The scale of a target block (R315): one below 2^-127 is 2^-127, the least that E8M0 holds, so that small values stay exact (R317, assumption
153); one above 2^127 is a value the spec does not state. -/
def blockScale (kind : Nat) (l : List Fp) : Option Int :=
  let mags := l.filterMap fun x => match x with
    | .num _ m e => if m = 0 then none else some ((Nat.log2 m : Int) + e)
    | _ => none
  match mags with
  | [] => none
  | x :: t =>
    let s := t.foldl max x - elemTop kind
    some (if s ≤ 127 then max s (-127) else (Config.meltBits (1000 + s.natAbs) % 255 : Nat) - 127)

/-- A value is NaN or infinite. -/
def Fp.special : Fp → Bool
  | .num _ _ _ => false
  | _ => true

/-- The scale byte and element codes of a target block (R315, R316). -/
def packBlock (kind : Nat) (l : List Fp) : Nat × List Nat :=
  if l.any Fp.special then (0xFF, (List.range 32).map fun i => Config.meltBits (100 + i) % 2 ^ elemBits kind)
  else match blockScale kind l with
    | none => (0, List.replicate 32 0)
    | some s => ((s + 127).toNat, l.map fun x => packElem kind (x.scale (-s)))

/-- Pack element codes, the first in the lowest bits (R300). -/
def packCodes (w : Nat) (l : List Nat) : Blob :=
  leBytes ((w * l.length + 7) / 8) (l.zipIdx.map fun e => e.1 * 2 ^ (w * e.2)).sum

/-! ## Native layout (R318, R319) -/

/-- A cluster's layout for one pass: format, tile extents, alignment, and the layout code's bits. -/
structure Lay where
  fmt : Nat
  red : Nat
  out : Nat
  align : Nat
  axisN : Bool
  scalesAfter : Bool
  rowOrder : Bool
  redOuter : Bool
deriving DecidableEq, Repr

/-- The layout of a capability record (R163, R318). -/
def layOf (rec_ : Blob) (bwd : Bool) : Lay :=
  let code := fld rec_ (if bwd then 14 else 12) 2
  { fmt := fld rec_ (if bwd then 6 else 5) 1, red := fld rec_ (if bwd then 20 else 16) 2, out := fld rec_ (if bwd then 22 else 18) 2,
    align := fld rec_ (if bwd then 25 else 24) 1, axisN := bit code 5, scalesAfter := bit code 4, rowOrder := bits code 3 2 == 1,
    redOuter := bits code 1 0 == 1 }

/-- Tiles along the reduction and output axes (R319). -/
def Lay.grid (y : Lay) (rows cols : Nat) : Nat × Nat :=
  let r := if y.axisN then cols else rows
  let o := if y.axisN then rows else cols
  ((r + y.red - 1) / max 1 y.red, (o + y.out - 1) / max 1 y.out)

/-- The value at (reduction index, output index) of a tensor, zero beyond its edges. -/
def Lay.value (y : Lay) (fmt rows cols : Nat) (b : Blob) (r o : Nat) : Fp :=
  let k := if y.axisN then o else r
  let n := if y.axisN then r else o
  if k < rows ∧ n < cols then elemAt fmt cols b k n else .num false 0 0

/-- The bytes of one tile in the target format and layout, zero-filled to the alignment, and its NaN blocks (R316, R319). In an MX
target, the blocks of 32 along the reduction axis are what the order inside a tile arranges. -/
def Lay.tile (y : Lay) (fmt rows cols : Nat) (b : Blob) (t : Nat) : Blob × Nat :=
  let g := y.grid rows cols
  let ri := if y.redOuter then t / max 1 g.2 else t % max 1 g.1
  let oi := if y.redOuter then t % max 1 g.2 else t / max 1 g.1
  let kind := elemKind y.fmt
  let at2 (r o : Nat) : Fp := y.value fmt rows cols b (ri * y.red + r) (oi * y.out + o)
  let body : Blob × Nat :=
    if isMx y.fmt then
      let nb := y.red / 32
      let order := if y.rowOrder then (List.range nb).flatMap fun i => (List.range y.out).map fun o => (i, o)
                   else (List.range y.out).flatMap fun o => (List.range nb).map fun i => (i, o)
      let bs := order.map fun p => packBlock kind ((List.range 32).map fun j => at2 (p.1 * 32 + j) p.2)
      let w := elemBits kind
      ((if y.scalesAfter then bs.flatMap (fun p => packCodes w p.2) ++ bs.flatMap (fun p => leBytes 1 p.1)
        else bs.flatMap fun p => leBytes 1 p.1 ++ packCodes w p.2), bs.countP (·.1 == 0xFF))
    else
      let order := if y.rowOrder then (List.range y.red).flatMap fun r => (List.range y.out).map fun o => (r, o)
                   else (List.range y.out).flatMap fun o => (List.range y.red).map fun r => (r, o)
      (order.flatMap fun p => leBytes (elemBits kind / 8) (packElem kind (at2 p.1 p.2)), 0)
  (padTo (roundUp (2 ^ y.align) body.1.length) body.1, body.2)

/-! ## Streams (R320 to R324) -/

/-- The decoded bytes of a tensor as Firn keeps it (R296). -/
def Tensor.values (t : Tensor) : Blob :=
  if t.fmt = 10 ∧ t.board then (decodeTill4 t.data t.rows t.cols).getD [] else t.data

/-- The format of a tensor's decoded bytes. -/
def Tensor.valFmt (t : Tensor) : Nat := if t.fmt = 10 then 7 else t.fmt

/-- The version's tensors of a layer, in index order. -/
def ImgVer.layer (v : ImgVer) (l : Nat) : List Tensor :=
  sortBy (fun a b => decide (a.index ≤ b.index)) (v.tensors.filter (·.layer == l))

/-- The tiles of a tensor in the shares of a cluster at a position of a context's set (R321, R395). -/
def shareTiles (nodes : List Node) (pass pos n layer tensor : Nat) (count : Nat) : List Nat :=
  let spans := nodes.flatMap fun x => if x.layer = layer then x.wspans.filter fun w =>
    bit w.passes pass && w.lane % max 1 n == pos && w.tensor == tensor else []
  (List.range count).filter fun t => spans.any fun w => decide (w.first ≤ t) && decide (t < w.first + w.count)

/-- The items of one tile: WBLOCKs of at most 65,504 bytes; the first carries the tile's NaN blocks (R324). -/
def tileItems (layer tensor tile fmt : Nat) (b : Blob × Nat) : List StreamItem :=
  (chunks 65504 (b.1.length / 65504 + 1) b.1).zipIdx.map fun e =>
    .block layer tensor tile (e.2 * 65504) fmt (if e.2 = 0 then b.2 else 0) e.1

/-- Bytes of an item. -/
def StreamItem.size : StreamItem → Nat
  | .block _ _ _ _ _ _ b => b.length
  | .layerEnd _ _ _ => 0

/-- The items of one layer of a pass on a cluster: none where the cluster has no share of it. -/
def layerItems (v : ImgVer) (nodes : List Node) (y : Lay) (pass pos n layer : Nat) : List StreamItem :=
  let per := ((v.layer layer).filter fun t => pass == 0 || t.backward).map fun t =>
    let g := y.grid t.rows t.cols
    (shareTiles nodes pass pos n layer t.index (g.1 * g.2)).flatMap fun k =>
      tileItems layer t.index k y.fmt (y.tile t.valFmt t.rows t.cols t.values k)
  let l := per.flatten
  if l.isEmpty then []
  else l ++ [.layerEnd layer (per.countP fun p => !p.isEmpty) (l.map StreamItem.size).sum]

/-- The items of a pass from a layer on (R320, R326). -/
def passItems (v : ImgVer) (nodes : List Node) (y : Lay) (pass pos n start : Nat) : List StreamItem :=
  let ls := sortNat (nubBy (nodes.map (·.layer)))
  let order := if pass = 0 then ls.filter fun l => decide (start ≤ l) else (ls.filter fun l => decide (l ≤ start)).reverse
  order.flatMap fun l => layerItems v nodes y pass pos n l

/-- The WBLOCK or LAYER_END payload of an item (R323). -/
def StreamItem.payload (i : StreamItem) (pass ver : Nat) : Blob :=
  match i with
  | .block _ tensor tile off fmt _ b =>
    leBytes 2 tensor ++ leBytes 1 pass ++ leBytes 1 fmt ++ leBytes 4 tile ++ leBytes 4 off ++ leBytes 2 ver ++ zeros 2 ++ b
  | .layerEnd _ tensors bytes => leBytes 2 tensors ++ leBytes 1 pass ++ zeros 1 ++ leBytes 8 bytes ++ zeros 4

/-- The layer of an item. -/
def StreamItem.layer : StreamItem → Nat
  | .block l _ _ _ _ _ _ => l
  | .layerEnd l _ _ => l

end Sys2Proof.Machine
end

