-- ==== Sys2Proof/Machine/SeracOps.lean ====
section
/-! DEFINITION. Serac: what a context may issue, turns, switches of the occupant, saves and restores, weight streams, and residency
(R387 to R423). -/

namespace Sys2Proof.Machine

open Sys2Proof

/-! ## Units and what they may run (R392) -/

/-- The engine ID of a Serac unit (R523). -/
def seracEngine (u : Nat) : Nat := 0x0100 + u

/-- An engine is in reset or fenced. -/
def State.engDown (s : State) (e : Nat) : Bool := (s.eng e).fenced || (s.eng e).rst.isSome

/-- A Serac unit serves its cluster: the cluster is present and the unit is not fenced and not in reset. -/
def State.unitOk (s : State) (u : Nat) : Bool := s.present u && !s.engDown (seracEngine u) && s.loess.domain.isNone

/-- Melt's partner of a unit (R322). -/
def meltPartner (m : Nat) : Nat := (m + 8) % 16

/-- The Melt unit that serves a cluster works: its own, or its partner where that is fenced (R322). -/
def State.meltServes (s : State) (u : Nat) : Bool :=
  let m := u / 2
  if (s.eng (0x0300 + m)).fenced then !s.engDown (0x0300 + meltPartner m) else !s.engDown (0x0300 + m)

/-- The Melt unit that serves a cluster. -/
def State.meltOf (s : State) (u : Nat) : Nat := if (s.eng (0x0300 + u / 2)).fenced then meltPartner (u / 2) else u / 2

/-- The clusters a Melt unit serves now (R322). -/
def State.meltClusters (s : State) (m : Nat) : List Nat :=
  let p := meltPartner m
  [2 * m, 2 * m + 1] ++ if (s.eng (0x0300 + p)).fenced then [2 * p, 2 * p + 1] else []

/-- Tiles of a command still to be issued on a cluster. -/
def Cmd.tilesOn (c : Cmd) (u : Nat) : List TileRef := (tget? c.tiles u).getD []

/-- Commands of a context that run on clusters, in the order in which Cirque dispatched them (R107). -/
def State.seracCmds (s : State) (x : Nat) : List (Nat × Cmd) :=
  sortBy (fun a b => decide (a.2.seqno ≤ b.2.seqno))
    (s.cmds.filter fun e => e.2.ctx == x && !e.2.admin && e.2.stage == .running && opRunsGraph e.2.opcode)

/-- A command's stream on a unit waits for a repair (R335). -/
def State.stalledOn (s : State) (u r : Nat) : Bool := (s.unit u).streams.any fun w => w.cmd == r && w.stall.isSome

/-- The first tile that a context has left for a cluster, parked or not (R396). -/
def State.frontTile (s : State) (x u : Nat) : Option (Nat × Cmd × TileRef) :=
  match tget? s.ctxs x with
  | none => none
  | some c =>
    if c.resetting then none
    else
      (s.seracCmds x).findSome? fun e =>
        if e.2.live && !e.2.waitProv && !s.stalledOn u e.1 then
          match e.2.tilesOn u with | t :: _ => some (e.1, e.2, t) | [] => none
        else none

/-- A unit looks at its tile of a parked context at the very time of the fault that parked it, and has not faulted itself (R268). -/
def State.faultsNow (s : State) (x u : Nat) : Bool :=
  let mine (r : Crev) : Bool := r.unsettled && r.ctx == x && decide (r.stuck ≠ [])
  (s.crevAny fun r => mine r && r.faultAt == s.now) && !s.crevAny fun r => mine r && bit r.engines u

/-- A context's next tile on a cluster: its command, record and tile, where it may issue one (R392, R396). -/
def State.nextTile (s : State) (x u : Nat) : Option (Nat × Cmd × TileRef) := if s.ctxParked x then none else s.frontTile x u

/-- Work items of a context on a cluster whose DONE has not been taken. -/
def SUnit.worksOf (u : SUnit) (x : Nat) : List Work := u.works.filter (·.ctx == x)

/-- A context is runnable on a cluster (R392). -/
def State.runnable (s : State) (x u : Nat) : Bool :=
  !((s.unit u).worksOf x).isEmpty || (s.nextTile x u).isSome

/-- The clusters of a context's set. -/
def State.clustersOf (s : State) (x : Nat) : List Nat := match tget? s.ctxs x with | some c => c.clusterList | none => []

/-- A context is runnable on some cluster of its set. -/
def State.anyRunnable (s : State) (x : Nat) : Bool := (s.clustersOf x).any fun u => s.runnable x u

/-- A context's class: its pool's, or that of its command in flight or its last command (R402, R424). -/
def State.classOf (s : State) (c : Ctx) : Nat :=
  if c.pool = 0 then c.cls else match tget? s.pools c.pool with | some p => p.cls | none => c.cls

/-- A context's priority and class. -/
def State.ctxClass (s : State) (x : Nat) : Nat := match tget? s.ctxs x with | some c => s.classOf c | none => 2

def State.ctxPrio (s : State) (x : Nat) : Nat := match tget? s.ctxs x with | some c => c.prio | none => 0

/-- The quantum of a context, in ns (R403, R422). -/
def State.quantumNs (s : State) (x : Nat) : Nat :=
  match tget? s.ctxs x with
  | none => 0
  | some c =>
    match (if c.pool = 0 then none else tget? s.pools c.pool) with
    | some p => p.quantumUs * 1000
    | none => (let k := s.classOf c; if k = 0 then s.serac.rtUs else if k = 1 then s.serac.intUs else s.serac.batchUs) * 1000

/-! ## Choosing the next turn (R401, R402, R404) -/

/-- The class of a slot of the pattern of R114. -/
def patternClass (i : Nat) : Nat := if i = 7 then 2 else if i % 2 = 0 then 0 else 1

/-- Turn `i` of a frame is reserved for Realtime under a reserve of `n` (R401). -/
def turnReserved (n i : Nat) : Bool := decide (i * n / 64 < (i + 1) * n / 64)

/-- Slots of a unit whose contexts are runnable on its cluster and of a class. -/
def State.slotsOfClass (s : State) (u k : Nat) : List (Nat × Nat) :=
  (s.unit u).slots.filter fun e => s.ctxClass e.2 == k && s.runnable e.2 u

/-- The slot after the class's last holder, in round robin (R402). -/
def State.robin (s : State) (u k : Nat) : Option (Nat × Nat) :=
  let l := s.slotsOfClass u k
  let last := (s.unit u).lastSlot.getD k 15
  match l.find? fun e => decide (last < e.1) with
  | some e => some e
  | none => l.head?

/-- What the next turn is: its holder with its slot, or none for an idle reserved turn; whether it is reserved; and where the pattern
pointer then stands. -/
structure Pick where
  who : Option (Nat × Nat)
  reserved : Bool
  pat : Nat

/-- Walk the pattern from the pointer to the first slot whose class has a runnable resident context. -/
def State.pickPattern (s : State) (u : Nat) : Option Pick :=
  (List.range 8).findSome? fun d =>
    let i := ((s.unit u).patPos + d) % 8
    (s.robin u (patternClass i)).map fun e => { who := some e, reserved := false, pat := (i + 1) % 8 }

/-- The next turn of a unit, none where no resident context is runnable on its cluster (R401, R404). -/
def State.pick (s : State) (u : Nat) : Option Pick :=
  let x := s.unit u
  if turnReserved x.reserve x.framePos then
    match s.robin u 0 with
    | some e => some { who := some e, reserved := true, pat := x.patPos }
    | none => if (s.pickPattern u).isSome then some { who := none, reserved := true, pat := x.patPos } else none
  else s.pickPattern u

/-! ## Packets of a switch -/

/-- The PREEMPT, RESUME and RESTORE_END payloads. -/
def preemptBytes (mode : Nat) : Blob := leBytes 1 mode ++ zeros 15

def resumeBytes (mode pass layer : Nat) : Blob := leBytes 1 mode ++ leBytes 1 pass ++ zeros 2 ++ leBytes 4 layer ++ zeros 8

def saveEndBytes (a : SaveArea) : Blob :=
  leBytes 1 a.kind ++ leBytes 1 a.pass ++ leBytes 2 a.cleave ++ leBytes 8 a.total ++ leBytes 4 a.layer

/-- The pinned graph version of a command. -/
def State.nodesOf (s : State) (c : Cmd) : List Node :=
  match s.graphs.find? fun g => g.fn == c.fn && g.handle == sqeHandle c.sqe with
  | some g => (tget? g.versions c.graphVer).getD []
  | none => []

/-- The tiles of a graph version by the cluster they run on, in node-entry order and tile-table order (R395, R396). -/
def tilesFor (nodes : List Node) (cl : List Nat) : Tbl (List TileRef) :=
  cl.zipIdx.map fun u => (u.1, nodes.zipIdx.flatMap fun n =>
    n.1.tiles.zipIdx.filterMap fun t => if t.1.lane % max 1 cl.length = u.2 then some { node := n.2, tile := t.2 } else none)

/-- The tiles that a command has still to issue on a cluster, those of its graph before Serac takes it up. -/
def State.tilesLeft (s : State) (u : Nat) (c : Cmd) : List TileRef :=
  if c.stage == .accepted || c.stage == .dispatched then (if c.live then (tget? (tilesFor (s.nodesOf c) (s.clustersOf c.ctx)) u).getD [] else [])
  else c.tilesOn u

/-- A command of a context is in flight and not complete on a cluster (R415). -/
def State.openOn (s : State) (u r : Nat) (c : Cmd) : Bool :=
  c.unfinished && opRunsGraph c.opcode && (!(s.tilesLeft u c).isEmpty || (s.unit u).works.any (·.cmd == r))

/-- A turn of a command: it counts as a quantum, and the first is noted (R415, R494). -/
def Cmd.turn (no : Nat) (c : Cmd) : Cmd := { c with quanta := c.quanta + 1, firstTurn := if c.firstTurn = 0 then no else c.firstTurn }

/-- Count a preemption, or a quantum, for a context's commands on a cluster (R415). -/
def State.countFor (s : State) (u x : Nat) (f : Cmd → Cmd) : State :=
  { s with cmds := tmap s.cmds fun r c => if c.ctx == x && !c.admin && s.openOn u r c then f c else c }

/-- Send a PREEMPT for a context (R408, R409, R413): mode 0 counts a preemption, and Firn stops the context's streams (R326). -/
def State.sendPreempt (s : State) (u x mode : Nat) : State :=
  let s1 := if mode = 0 then s.countFor u x fun c => { c with preempts := c.preempts + 1 } else s
  let s2 := s1.sendTile { port := u, cls := 0, typ := 2, index := 0, tag := 0, ctx := x, payload := preemptBytes mode }
  s2.updUnit u fun y =>
    { y with
      preempt := some (match y.preempt with
        | some p => { p with mode := mode }
        | none => { ctx := x, mode := mode, sentAt := s.now, bound := y.cleaveUs * 1000 })
      lastBody := none }

/-- Stop a context's streams on a cluster; the commands' passes are to be streamed again (R326). -/
def State.stopStreams (s : State) (u x : Nat) : State :=
  { (s.updUnit u fun y => { y with streams := y.streams.filter (·.ctx != x) }) with
    cmds := tmap s.cmds fun _ c => if c.ctx == x then { c with streamed := c.streamed.filter (·.1 != u) } else c }

/-! ## Weight streams (R320 to R329) -/

/-- An image version. -/
def State.imgVer (s : State) (img ver : Nat) : Option ImgVer :=
  match tget? s.firn.images img with | some i => tget? i.versions ver | none => none

/-- Start the stream of a command's pass on a cluster from a layer on (R320, R326): nothing is streamed where the graph gives the cluster
no share, or where the command drains (R129). -/
def State.startStream (s : State) (u r : Nat) (c : Cmd) (pass layer : Nat) (again : Bool) : State :=
  match s.imgVer c.image c.imageVer with
  | none => s
  | some v =>
    if c.decided.isSome then s
    else
    let cl := s.clustersOf c.ctx
    let items := passItems v (s.nodesOf c) (layOf (s.clusterRec u) (pass == 1)) pass (idxOf cl u) cl.length layer
    let tag := (s.unit u).nextTag
    let w : Stream := { ctx := c.ctx, cmd := r, tag := tag, pass := pass, image := c.image, imageVer := c.imageVer, items := items,
                        restarted := again }
    let s1 := s.modCmd r fun x => { x with streamed := (u, pass) :: x.streamed, ran := x.ran || !items.isEmpty }
    if items.isEmpty then s1
    else (s1.updUnit u fun y => { y with streams := y.streams ++ [w], nextTag := (tag + 1) % 2 ^ 32 }).progress (0x0300 + s.meltOf u)

/-- Write a margin log entry (R329). -/
def State.marginLog (s : State) (m : MarginEnt) : State :=
  let f := s.firn
  if !m.bound && !f.marginAll then s
  else if (f.marginTail + 1) % 2048 = f.marginHead then
    { s with firn := { f with marginLost := satAdd f.marginLost 1 0xFFFFFFFF } }
  else
    { s with firn := { f with marginLog := tset f.marginLog f.marginTail m, marginTail := (f.marginTail + 1) % 2048 } }

/-- A cluster takes a layer's end: the layer's margin goes to the command and to the log, and the next layer's span begins (R327 to R329). -/
def State.layerDone (s : State) (u : Nat) (w : Stream) (layer : Nat) : State :=
  let margin : Int := (w.blocked : Int) - w.starved
  let bound := decide (margin < 0)
  match tget? s.cmds w.cmd with
  | none => s
  | some c =>
    let s1 := s.modCmd w.cmd fun x =>
      { x with
        minMargin := some (match x.minMargin with | some m => min m margin | none => margin)
        bound := if bound && !x.bound.contains (layer, w.pass) then (layer, w.pass) :: x.bound else x.bound }
    s1.marginLog { time := s.now, margin := max (-0x7FFFFFFF) (min 0x7FFFFFFF margin), layer := layer, cmdId := sqeId c.sqe,
                   ctx := w.ctx, fn := c.fn, imageVer := w.imageVer, cluster := u, pass := w.pass, bound := bound,
                   restarted := w.restarted, image := w.image }

/-- The packet of a stream's item (R323, R324). -/
def Stream.packet (w : Stream) (u : Nat) (i : StreamItem) : DownPkt :=
  { port := u, cls := 1, typ := match i with | .block .. => 1 | .layerEnd .. => 2, index := i.layer, tag := w.tag, ctx := w.ctx,
    payload := i.payload w.pass w.imageVer }

/-- Send the next item of a unit's stream at a place in its list (R320 to R327): a LAYER_END ends the layer's span, and the stream ends with its last
item. -/
def State.sendItem (s : State) (u k : Nat) (w : Stream) : State :=
  match w.items with
  | [] => s.updUnit u fun y => { y with streams := y.streams.eraseIdx k }
  | i :: more =>
    let s1 := (s.sendTile (w.packet u i)).progress (0x0300 + s.meltOf u)
    let put (z : Stream) (y : SUnit) : SUnit := { y with streams := if more.isEmpty then y.streams.eraseIdx k else y.streams.set k z }
    match i with
    | .block .. => s1.updUnit u (put { w with items := more, ahead := w.ahead - 1, begun := true })
    | .layerEnd l _ _ =>
      (s1.layerDone u w l).updUnit u (put
        { w with items := more, ahead := w.ahead - 1, blocked := 0, starved := 0, begun := false, restarted := false })

/-- Send what stands ahead in Melt's staging buffer for a cluster, as far as class-1 credit allows (R325); the first number bounds the items. -/
def State.sendAhead (u : Nat) : Nat → State → State
  | 0, s => s
  | n + 1, s =>
    let y := s.unit u
    match y.streams.findIdx? fun w => decide (0 < w.ahead) with
    | none => s
    | some k => match y.streams[k]? with
      | some w => if y.hasCredit 1 then State.sendAhead u n (s.sendItem u k w) else s
      | none => s

/-- Items that stand ahead in Melt's staging buffer for a cluster. -/
def SUnit.itemsAhead (u : SUnit) : Nat := (u.streams.map (·.ahead)).sum

/-- Bytes in a Melt unit's staging buffer (R325): the beats of packets begun that wait for credits, and the items ahead of them, of the clusters that
it serves. -/
def State.stagedBytes (s : State) (m : Nat) : Nat :=
  ((s.meltClusters m).map fun u => 256 * ((s.unit u).due.getD 1 0 + ((s.unit u).streams.flatMap fun w =>
    (w.items.take w.ahead).map fun i => beatsOf (i.payload w.pass w.imageVer).length).sum)).sum

/-- A packet's beats fit the 256 KiB staging buffer of the Melt unit that serves a cluster (R325). -/
def State.stageRoom (s : State) (u n : Nat) : Bool := decide (s.stagedBytes (s.meltOf u) + 256 * beatsOf n ≤ 262144)

/-- The 32 bytes of a margin log entry (R329). -/
def MarginEnt.bytes (m : MarginEnt) : Blob :=
  zeros 4 ++ leBytes 1 m.image ++ leBytes 1 (b2n m.bound + 2 * b2n m.restarted) ++ leBytes 1 m.pass ++ leBytes 1 m.cluster ++
  leBytes 2 m.imageVer ++ leBytes 2 m.fn ++ leBytes 2 m.ctx ++ leBytes 2 m.cmdId ++ leBytes 4 m.layer ++
  leBytes 4 (m.margin % 2 ^ 32).toNat ++ leBytes 8 m.time

/-! ## Switching the occupant (R407 to R414) -/

/-- Change a context's save area on a cluster. -/
def State.modSave (s : State) (x u : Nat) (f : SaveArea → SaveArea) : State :=
  s.modCtx x fun c => { c with saves := tupd c.saves {} u f }

/-- The save area of a context on a cluster, where it holds one. -/
def State.saveOf (s : State) (x u : Nat) : Option SaveArea :=
  match tget? s.ctxs x with | some c => tget? c.saves u | none => none

/-- The cluster takes a context's state: its turn begins to run and the switch is counted (R407, R424). -/
def State.nowHolds (s : State) (u x : Nat) : State :=
  s.updUnit u fun y =>
    { y with
      holder := some x, restore := none, lastBody := none, swCounted := false
      swPtr := if y.swCounted then y.swPtr else satAdd y.swPtr 1 (2 ^ 21 - 1)
      turn := y.turn.map fun t => if t.ctx = some x then { t with start := s.now } else t }

/-- Send RESUME (R411) and restart the streams it names (R326). -/
def State.resume (s : State) (u x mode pass layer : Nat) : State :=
  let s1 := (s.sendTile { port := u, cls := 0, typ := 3, index := 0, tag := 0, ctx := x, payload := resumeBytes mode pass layer }).nowHolds u x
  let s2 := s1.updUnit u fun y => { y with works := y.works.map fun w => if w.ctx = x then { w with saved := false } else w }
  if mode = 0 ∨ layer = 0xFFFFFFFF then s2
  else
    let first := ((s2.unit u).worksOf x).head?.map (·.cmd)
    let cand := match first with | some r => some r | none => (s2.nextTile x u).map (·.1)
    match cand with
    | some r => match tget? s2.cmds r with | some c => s2.startStream u r c pass layer true | none => s2
    | none => s2

/-- Pieces of a restore, each at most 65,504 bytes (R65, R411): scratchpad offset, place in the save area, length; `at_` is where the first
part lies. -/
def restoreChunks (at_ : Nat) : List (Nat × Nat) → List (Nat × Nat × Nat)
  | [] => []
  | (o, n) :: t =>
    ((List.range ((n + 65503) / 65504)).map fun i => (o + i * 65504, at_ + i * 65504, min 65504 (n - i * 65504))) ++ restoreChunks (at_ + n) t

/-- full_save_bytes of a cluster (R163). -/
def State.fullSave (s : State) (u : Nat) : Nat := fld (s.clusterRec u) 48 8

/-- Where a save area of a cluster lies in HBM: behind the 4 GiB of the context backing, 24 areas for each present cluster in order (R389,
assumption 163). -/
def State.savePoint (s : State) (u index : Nat) : Nat :=
  let size (v : Nat) : Nat := roundUp frameBytes (s.fullSave v)
  s.serac.region + 2 ^ 32 + (((List.range u).filter s.present).map fun v => 24 * size v).sum + index * size u

/-- The save area that a context takes on a cluster: the one it holds, or the lowest that no context holds (R412). -/
def State.areaFor (s : State) (x u : Nat) : Nat :=
  match s.saveOf x u with
  | some a => a.index
  | none =>
    let used := s.ctxs.filterMap fun c => (tget? c.2.saves u).map (·.index)
    ((List.range (used.length + 1)).find? fun i => !used.contains i).getD 0

/-- Bring the turn's holder into a cluster that holds no state: restore its save, or RESUME mode 0 (R407, R410, R411). It waits where
the unit lacks the credit for a RESUME. -/
def State.bringIn (s : State) (u x : Nat) : State :=
  match s.saveOf x u with
  | some a =>
    if a.valid then s.updUnit u fun y => { y with restore := some { ctx := x, left := restoreChunks 0 a.chunks } }
    else if (s.unit u).hasCredit 0 then s.resume u x 0 0 0xFFFFFFFF else s
  | none => if (s.unit u).hasCredit 0 then s.resume u x 0 0 0xFFFFFFFF else s

/-- Begin to move a context's state out of a cluster: a pointer-only switch where bare is set and no work item is in flight, PREEMPT
mode 0 otherwise (R407, R408). It waits where the unit lacks the credit. -/
def State.switchOut (s : State) (u x : Nat) : State :=
  let y := s.unit u
  if y.bare && (y.worksOf x).all (·.saved) then
    (s.stopStreams u x).updUnit u fun z => { z with holder := none, lastBody := none }
  else if y.hasCredit 0 then (s.stopStreams u x).sendPreempt u x 0
  else s

/-- Go on with the switch to the turn's holder, as far as nothing is awaited from the cluster. -/
def State.switchOn (s : State) (u : Nat) : State :=
  let y := s.unit u
  match y.turn with
  | some { ctx := some x, .. } =>
    if y.preempt.isSome || y.restore.isSome || y.holder == some x || !s.unitOk u then s
    else
      let s1 := match y.holder with | some h => s.switchOut u h | none => s
      if (s1.unit u).holder.isNone && (s1.unit u).preempt.isNone then s1.bringIn u x else s1
  | _ => s

/-- Grant the next turn (R401 to R405, R415). -/
def State.grantTurn (s : State) (u : Nat) (p : Pick) : State :=
  let q := match p.who with | some e => s.quantumNs e.2 | none => s.serac.rtUs * 1000
  let pool := match p.who with | some e => (match tget? s.ctxs e.2 with | some c => c.pool != 0 | none => false) | none => false
  let s1 := s.updUnit u fun y =>
    { y with
      turn := some { no := s.ledg.turnCount + 1, ctx := p.who.map (·.2), start := s.now, quantumNs := q, reserved := p.reserved, pool := pool }
      framePos := (y.framePos + 1) % 64, patPos := p.pat, turns := (y.turns + 1) % 2 ^ 64
      rtSeen := (s.slotsOfClass u 0).map (·.2), rtNew := false
      lastSlot := match p.who with | some e => setAt y.lastSlot (s.ctxClass e.2) e.1 | none => y.lastSlot }
  let s2 := { s1 with ledg := { s1.ledg with turnCount := s1.ledg.turnCount + 1 } }
  match p.who with
  | some e => (s2.countFor u e.2 (Cmd.turn s2.ledg.turnCount)).switchOn u
  | none => s2

/-- End the turn in progress. -/
def State.endTurn (s : State) (u : Nat) : State := s.updUnit u fun y => { y with turn := none }

/-- End a turn that the next turn follows: the switch begins unless the next turn goes to the same context (R403, R407, R408). -/
def State.cutTurn (s : State) (u : Nat) : State :=
  let s1 := s.endTurn u
  match (s.unit u).holder, (s.unit u).preempt with
  | some h, none =>
    let same : Bool := match s1.pick u with | some p => p.who.map (·.2) == some h | none => true
    if same then s1 else s1.switchOut u h
  | _, _ => s1

/-! ## Settling (R392, R403, R416) -/

/-- Note the Realtime contexts that are runnable on a cluster, and whether one became so during its turn (R405). -/
def State.noteRealtime (s : State) (u : Nat) : State :=
  let l := (s.slotsOfClass u 0).map (·.2)
  s.updUnit u fun y => { y with rtSeen := l, rtNew := y.rtNew || l.any fun x => !y.rtSeen.contains x }

/-- A turn whose holder is no longer runnable on the cluster ends (R403), but not where its first tile there may fault at the same moment (R268); a Realtime context that becomes runnable takes the rest of an idle
reserved turn at once (R404). -/
def State.settleUnit (s : State) (u : Nat) : State :=
  match (s.unit u).turn with
  | none => s
  | some t =>
    match t.ctx with
    | some x => if s.runnable x u || (s.faultsNow x u && (s.frontTile x u).isSome) then s else s.endTurn u
    | none =>
      match s.robin u 0 with
      | some e =>
        (((s.updUnit u fun y => { y with turn := some { t with ctx := some e.2, start := s.now, quantumNs := t.start + t.quantumNs - s.now }
                                         lastSlot := setAt y.lastSlot 0 e.1 }).countFor u e.2
            (Cmd.turn t.no))).switchOn u
      | none => s

/-- Keep what residency looks at: since when a swapped-out context waits and since when a resident one is blocked (R416, R417). -/
def State.settleCtx (s : State) (x : Nat) (c : Ctx) : Ctx :=
  let run := s.anyRunnable x
  { c with
    waitSince := if c.resident || !run then none else match c.waitSince with | some t => some t | none => some s.now
    aged := c.aged && !c.resident && run
    blockedSince := if run then 0 else if c.blockedSince = 0 then s.now + 1 else c.blockedSince }

/-- Bring turns and residency up to date after a change of what contexts may run. -/
def State.settle (s : State) : State :=
  let s0 := (tkeys s.serac.units).foldl State.noteRealtime s
  let s1 := (tkeys s0.serac.units).foldl State.settleUnit s0
  { s1 with ctxs := tmap s1.ctxs fun x c => s1.settleCtx x c }

/-! ## Residency (R416 to R420) -/

/-- Contexts that wait for residency, in the order in which units consider them (R416). -/
def State.waiters (s : State) : List Nat :=
  let key (x : Nat) : Nat × Nat × Nat :=
    match tget? s.ctxs x with | some c => (s.classOf c, c.prio, c.waitSince.getD 0) | none => (3, 0, 0)
  sortBy (fun a b =>
    let p := key a
    let q := key b
    if p.1 ≠ q.1 then decide (p.1 < q.1) else if p.2.1 ≠ q.2.1 then decide (q.2.1 < p.2.1) else decide (p.2.2 ≤ q.2.2))
    (tfind s.ctxs fun _ c => c.waitSince.isSome)

/-- A unit has a free slot. -/
def State.slotFree (s : State) (u : Nat) : Bool := s.unitOk u && decide ((s.unit u).slots.length < 16)

/-- Every unit of a context's set has a free slot. -/
def State.placeable (s : State) (x : Nat) : Bool := (s.clustersOf x).all s.slotFree

/-- A context holds a save area of a cluster, or will: the cluster still holds state of it that a switch is to save (R412, R421). -/
def State.holdsArea (s : State) (x u : Nat) : Bool :=
  (s.saveOf x u).isSome ||
    ((s.unit u).holder == some x && !((s.unit u).bare && ((s.unit u).worksOf x).all (·.saved)))

/-- Swapped-out contexts that hold a save area of a cluster, not counting one. -/
def State.saversOut (s : State) (u but : Nat) : Nat :=
  tcount s.ctxs fun x c => x != but && !c.resident && s.holdsArea x u

/-- Evicting a context keeps at most 8 swapped-out holders of save areas of each cluster, `entering` being swapped in (R417, R418). -/
def State.saveRoom (s : State) (victim entering : Nat) : Bool :=
  (s.clustersOf victim).all fun u => !s.holdsArea victim u || decide (s.saversOut u entering + 1 ≤ 8)

/-- A resident context is the occupant of some cluster. -/
def State.occupies (s : State) (x : Nat) : Bool :=
  s.serac.units.any fun e => (e.2.turn.any fun t => t.ctx == some x) ||
    (e.2.preempt.any fun p => p.ctx == x) || (e.2.restore.any fun r => r.ctx == x)

/-- The victim of R417 on a unit where every resident context is blocked on its cluster: of those blocked on all their clusters, the lowest
priority, then the longest blocked. -/
def State.victim417 (s : State) (u : Nat) : Option Nat :=
  let rs := (s.unit u).slots.map (·.2)
  if rs.any fun x => s.anyRunnable x then none
  else
    let since (x : Nat) : Nat := match tget? s.ctxs x with | some c => c.blockedSince | none => 0
    (sortBy (fun a b => if s.ctxPrio a ≠ s.ctxPrio b then decide (s.ctxPrio a < s.ctxPrio b) else decide (since a ≤ since b))
      (rs.filter fun x => s.saveRoom x 0)).head?

/-- The resident context of a unit that has been resident longest and qualifies (R418). -/
def State.victim418 (s : State) (u entering : Nat) (all : Bool) : Option Nat :=
  let since (x : Nat) : Nat := match tget? s.ctxs x with | some c => c.residentSince | none => 0
  (sortBy (fun a b => decide (since a ≤ since b))
    (((s.unit u).slots.map (·.2)).filter fun x => all || s.saveRoom x entering)).head?

/-- Aged contexts, in the order of R416. -/
def State.agedList (s : State) : List Nat := s.waiters.filter fun x => match tget? s.ctxs x with | some c => c.aged | none => false

/-- The sets of two contexts share a cluster. -/
def State.setsMeet (s : State) (a b : Nat) : Bool := (s.clustersOf a).any fun u => (s.clustersOf b).contains u

/-- An aged context can be given a slot on every unit of its set by a free slot or an eviction that R418 allows. -/
def State.agedServable (s : State) (x : Nat) : Bool :=
  (s.clustersOf x).all fun u => s.slotFree u || (s.unitOk u && ((s.victim417 u).isSome || (s.victim418 u x false).isSome))

/-- The other swapped-out context that is served before an aged one: of those that hold a save area of a cluster of its set, the one that has waited
longest; one that is not runnable has waited for no time (R418). -/
def State.servedFirst (s : State) (x : Nat) : Option Nat :=
  let since (y : Nat) : Nat := match tget? s.ctxs y with | some c => c.waitSince.getD (s.now + 1) | none => s.now + 1
  (sortBy (fun a b => decide (since a ≤ since b))
    ((tfind s.ctxs fun _ c => !c.resident).filter fun y => y != x && (s.clustersOf x).any fun u => s.holdsArea y u)).head?

/-- Whom an aged context's units serve next: the context itself, or the one served before it; true for the latter. -/
def State.agedTarget (s : State) (x : Nat) : Nat × Bool :=
  if s.agedServable x then (x, false) else match s.servedFirst x with | some y => (y, true) | none => (x, false)

/-- A context may be swapped in as far as aged contexts are concerned: the units of an aged context's set, and those of the set of the one served
before it as if it were aged, admit no other (R418). -/
def State.agedAllow (s : State) (x : Nat) : Bool :=
  match s.agedList.find? fun a => s.setsMeet a x || s.setsMeet (s.agedTarget a).1 x || (s.agedTarget a).1 == x with
  | some a => (s.agedTarget a).1 == x
  | none => true

/-- A waiting context is the next that can be placed: it can, and no earlier one whose set meets its own can (R416). -/
def State.swapDue (s : State) (x : Nat) : Bool :=
  (s.waiters.contains x || s.agedList.any fun a => (s.agedTarget a).1 == x) && s.placeable x && s.agedAllow x &&
    ((s.waiters.takeWhile (· != x)).all fun y => !(s.setsMeet x y && s.placeable y && s.agedAllow y))

/-- A context's slot states are written to the context backing: what they hold is Serac's own, so their bytes are free values (R389, R391, R419,
assumption 164). -/
def State.writeSlotStates (s : State) (x : Nat) : State :=
  match tget? s.ctxs x with
  | none => s
  | some c => c.backing.foldl (fun t i => (t.regionWrite (t.serac.region + i * 16384) (freeBytes t.free 16384)).drawn) s

/-- Give a context a slot in every unit of its set; its slot states are read back (R388, R419). -/
def State.swapInCtx (s : State) (x : Nat) : State :=
  let s1 := (s.clustersOf x).foldl (fun t u => t.updUnit u fun y => { y with slots := tset y.slots (tfree y.slots 0) x }) s
  let s2 := s1.modCtx x fun c => { c with resident := true, residentSince := s.now, waitSince := none, aged := false }
  { s2 with serac := { s2.serac with swapIns := satAdd s2.serac.swapIns 1 0xFFFFFFFF } }

/-- Free a context's slots on every unit. -/
def State.freeSlots (s : State) (x : Nat) : State :=
  { (s.modCtx x fun c => { c with resident := false }) with
    serac := { s.serac with units := tmap s.serac.units fun _ y => { y with slots := tfilter y.slots fun _ z => z != x } } }

/-- Evict a context: its slot states go to the context backing (R417, R419). -/
def State.evictCtx (s : State) (x : Nat) : State :=
  let s1 := (s.writeSlotStates x).freeSlots x
  ({ s1 with serac := { s1.serac with evictions := satAdd s1.serac.evictions 1 0xFFFFFFFF } } : State).settle

/-- Whom an eviction on a unit frees a slot of: R417's choice where a waiting context needs a slot there, or R418's for an aged one. -/
def State.evictDue (s : State) (u : Nat) : Option Nat :=
  if !s.unitOk u || s.slotFree u then none
  else
    let aged := s.agedList.findSome? fun a =>
      let t := s.agedTarget a
      if (s.clustersOf t.1).contains u then some t else none
    let v := match aged with
      | some t => (match s.victim417 u with | some x => some x | none => s.victim418 u t.1 t.2)
      | none => if s.waiters.any fun x => (s.clustersOf x).contains u && s.agedAllow x then s.victim417 u else none
    match v with
    | some x => if s.occupies x then none else some x
    | none => none

/-! ## Unverifiable pages (R482, R483) -/

/-- A command needs pages of a frame that holds memory of Vexzer's own (R483): its context's tables lie there under key 1, a save of its context
under key 3, and a record, a table block or a page of a sequence that it names under key 4. Where the graph store keeps a graph and Kaolin a
record, the spec does not say (assumption 78). -/
def State.needsPages (s : State) (c : Cmd) (key tier frame first n : Nat) : Bool :=
  let lo := frame * frameBytes + first * 4096
  let hi := lo + n * 4096
  let meets (a len : Nat) : Bool := decide (a < hi) && decide (lo < a + len)
  if key = 1 then tier == 0 && tany s.esk.tables fun i p => p.ctx == c.ctx && meets (s.esk.region + i * 4096) 4096
  else if key = 3 then
    tier == 0 && match tget? s.ctxs c.ctx with
      | some x => tany x.saves fun u a => a.valid && meets (s.savePoint u a.index) (s.fullSave u)
      | none => false
  else
    c.batch.any fun b => match tget? s.snow.seqs b.seq with
      | some q => (tier == 0 && meets (s.snow.region + 64 * b.seq) 64) || (tier == 0 && q.blocks.any fun k => meets k 4096) ||
          q.pages.any fun g => g.tier == tier && meets (g.page * pageSize) pageSize
      | none => false

/-- Mark a subtree unverifiable and its slot to retire, log it, and fail the commands that R483 names; `owner` is the command of the read
that found it. -/
def State.unverifiable (s : State) (level pos : Nat) (owner : Option Nat) : State :=
  let (k, first, n) := nodePages level pos
  match tget? s.varve.slots k with
  | none => s
  | some v =>
    let s1 := s.modSlot k fun x => { x with
      retire := true, bad := x.bad ++ ((List.range n).map (first + ·)).filter fun p => !x.bad.contains p }
    let log : UnvLog := { key := v.key, slot := k, level := level, valid := true
                          index := match level with | 0 => pos % 512 | 1 => pos % 64 | 2 => pos % 8 | _ => 0 }
    let s2 := { s1 with varve := { s1.varve with
      unvCount := satAdd s1.varve.unvCount 1 0xFFFFFFFF
      unvLog := if s1.varve.unvLog.valid then s1.varve.unvLog else log } }
    let hit (r : Nat) (c : Cmd) : Bool :=
      !c.refused && (if 16 ≤ v.key then (s.key v.key).owner == some c.fn
        else some r == owner || (match v.frame with | some f => s.needsPages c v.key f.1 f.2 first n | none => false))
    s2.failAll (tfind s2.cmds hit) .integrityUnverifiable

end Sys2Proof.Machine
end

