-- ==== Sys2Proof/Machine/AdminOps.lean ====
section
/-! DEFINITION. How Tarn executes an admin command: its header, its data buffer, its result block and its end (R148 to R153, R607,
R608); and configuration epochs (R219 to R225). -/

namespace Sys2Proof.Machine

open Sys2Proof

/-! ## Executing an admin command -/

/-- An admin command that Tarn may begin: handed over by Cirque, of the row's opcode, not expired, with Tarn running (R106, R132, R549). -/
def State.adminCmd (s : State) (r opc : Nat) : Option Cmd :=
  match tget? s.cmds r with
  | some c =>
    if c.admin && c.opcode == opc && c.decided.isNone && c.stage == .dispatched && s.tarnRuns then some c else none
  | none => none

/-- Begin an admin command, and end it INVALID_FIELD where its common header is malformed (R150, R152). -/
def State.runAdmin (s : State) (r opc : Nat) (f : State → Cmd → State) : State :=
  match s.adminCmd r opc with
  | none => s
  | some c =>
    let s1 := s.modCmd r fun x => { x with stage := .running, start := some s.now }
    if admHeaderOk c.sqe then f s1 c else s1.report r .invalidField

/-- An admin command's effect holds in full: its journal entry says so, and it ends SUCCESS (R608). -/
def State.commit (s : State) (r : Nat) : State := (s.modCmd r fun c => { c with journal := .committed }).report r .success

/-- A unit begins to carry an admin command's effect on its own, and Tarn waits for it (R608). -/
def State.handOver (s : State) (r : Nat) : State := s.modCmd r fun c => { c with journal := .handedOver, parked := true }

/-- Tarn waits before it begins an admin command's effect. -/
def State.park (s : State) (r : Nat) : State := s.modCmd r fun c => { c with parked := true }

/-- Read the data buffer of an admin command, up to `n` bytes, and go on with its bytes (R151). A command whose data buffer is absent fails
INVALID_FIELD, after the checks that its caller has made (DESIGN CHOICE, assumption 177). -/
def State.withData (s : State) (r : Nat) (c : Cmd) (io : HostIo) (n : Nat) (f : State → Blob → State) : State :=
  if admDataAddr c.sqe = 0 then s.report r .invalidField
  else
    let s1 := s.hostRead c.fn (admDataAddr c.sqe) n
    if io.read = .ok then f s1 (padTo n io.data) else s1.report r .hostAccessFailed

/-- Write a result block and read it back (R152). -/
def State.writeResult (s : State) (c : Cmd) (b : Blob) : State :=
  (s.hostWrite c.fn (admResult c.sqe) (padTo 64 b)).hostRead c.fn (admResult c.sqe + 60) 4

/-- Write the result block, confirm it, and only then commit the command's effect (R152). -/
def State.answer (s : State) (r : Nat) (c : Cmd) (io : HostIo) (b : Blob) (eff : State → State) : State :=
  let s1 := s.writeResult c b
  if io.write = .ok then ((eff s1).modCmd r fun x => { x with result := padTo 64 b }).commit r
  else s1.report r .hostAccessFailed

/-- Fail a command that still gives a result block (R155's TOPO_WRITE and TOPO_COMMIT). -/
def State.failWith (s : State) (r : Nat) (c : Cmd) (io : HostIo) (b : Blob) (st : Status) : State :=
  let s1 := s.writeResult c b
  s1.report r (if io.write = .ok then st else .hostAccessFailed)

/-- A command that waited is taken up again: it is still running and not expired. -/
def State.waitingCmd (s : State) (r opc : Nat) : Option Cmd :=
  match tget? s.cmds r with
  | some c =>
    if c.admin && c.opcode == opc && c.decided.isNone && c.stage == .running && c.parked && s.tarnRuns then some c else none
  | none => none

/-- The allocation of a function by its ID (R149). -/
def State.allocOf (s : State) (f a : Nat) : Option Alloc :=
  match tget? s.allocs a with | some x => if x.fn = f then some x else none | none => none

/-- The context, variant or pool of a function by its ID (R149). -/
def State.ctxOf (s : State) (f x : Nat) : Option Ctx :=
  match tget? s.ctxs x with | some c => if c.fn = f then some c else none | none => none

def State.variantOfFn (s : State) (f v : Nat) : Option Variant :=
  match tget? s.silt.variants v with | some x => if x.fn = f then some x else none | none => none

def State.poolOf (s : State) (f p : Nat) : Option Pool :=
  match tget? s.pools p with | some x => if x.fn = f then some x else none | none => none

/-- A stored graph by its handle; a retired one is no longer named (R149, R188), and a handle with reserved bits names none (DESIGN CHOICE,
assumption 178). -/
def State.graphOf (s : State) (f h : Nat) : Option Graph :=
  s.graphs.find? fun g => g.fn == f && g.handle == h && !g.retired

/-- A key ID may be used by a function's allocations and variants: its own key slots (R158, R456). -/
def State.ownsKey (s : State) (f k : Nat) : Bool :=
  decide (16 ≤ k) && (match tget? s.kao.slots k with | some x => x.owner == some f | none => false)

/-! ## Configuration epochs (R219 to R225) -/

/-- A unit grants no turns because no context is runnable on its cluster (R401). -/
def State.unitIdle (s : State) (u : Nat) : Bool := (s.unit u).turn.isNone && (s.pick u).isNone

/-- An engine is at its safe point for a change (R220): a Serac unit takes a new reserve at the start of a frame, or while idle. -/
def State.safePoint (s : State) (e : Nat) (i : CfgItem) : Bool :=
  !s.engDown e &&
  match i with
  | .rtReserve _ => if e / 256 = 1 then ((s.unit (e % 256)).framePos == 0 && (s.unit (e % 256)).turn.isNone) || s.unitIdle (e % 256) else true
  | _ => true

/-- Replace a byte range of a byte string. -/
def patchBlob (b : Blob) (off : Nat) (x : Blob) : Blob := slice b 0 off ++ x ++ b.drop (off + x.length)

/-- A Floe controller takes its record of a new section 3: a ring whose links are no longer present is released, and one whose links are both
newly present is queued to join (R162, R573, R574). -/
def State.adoptLink (s : State) (n : Nat) (data : Blob) : State :=
  let was := s.linkPresent n
  let s1 := { s with topo := { s.topo with links := some (patchBlob (s.topo.links.getD []) (8 * n) (slice data (8 * n) 8)) } }
  let is := s1.linkPresent n
  if was && !is then
    let s2 := s1.releaseRing (n / 2) 6 false
    (s2.updLink n fun l => { l with st := if l.st = .fenced then .fenced else .absent }).updRing (n / 2) fun r => { r with st := 0 }
  else if !was && is then
    let s2 := s1.updLink n fun l => { l with st := if l.st = .fenced then .fenced else .outOfService }
    if s2.linkPresent (2 * (n / 2)) && s2.linkPresent (2 * (n / 2) + 1) then (s2.updRing (n / 2) fun r => { r with st := 1 }).wantJoin (n / 2) else s2
  else if is && s1.ringJoinable (n / 2) && ((s1.ring (n / 2)).st == 1 || (s1.ring (n / 2)).st == 5) then s1.wantJoin (n / 2)
  else s1

/-- What an engine does when it adopts a change. -/
def State.adoptEffect (s : State) (e : Nat) (i : CfgItem) : State :=
  match i with
  | .rtReserve pct =>
    if e / 256 = 1 then s.updUnit (e % 256) fun u => { u with reserve := 64 * pct / 100, framePos := 0 }
    else s.updSilt (e % 256) fun g => { g with rt := (s.rtMembers pct).contains (e % 256) }
  | .fnClusters f mask => s.updFn f fun x => { x with clusters := mask }
  | .fnMode _ _ => s
  | .stallLimit us => { s with cfg := { s.cfg with stallUs := us } }
  | .hotThreshold n => { s with cfg := { s.cfg with hotThreshold := n } }
  | .cleaveBound us => s.updUnit (e % 256) fun u => { u with cleaveUs := us }
  | .links d => s.adoptLink (e % 256) d
  | .peers d => { s with topo := { s.topo with peers := some d } }

/-- What holds once every engine has adopted a change; shadow copies that no request needs go (R221, R222, R224, R425). -/
def State.completeEffect (s : State) (x : Staged) : State :=
  let s1 := { s with cfg := { s.cfg with done := x.epoch, past := trimPast (s.tags.foldl min x.epoch) s.cfg.past } }
  match x.item with
  | .rtReserve pct => { s1 with serac := { s1.serac with cfgTurns := 64 * pct / 100 }, cfg := { s1.cfg with rtPct := pct } }
  | .fnMode f m => s1.updFn f fun y => { y with vx1Next := m }
  | .hotThreshold n => { s1 with esk := { s1.esk with hotShown := n } }
  | .cleaveBound us => { s1 with serac := { s1.serac with cfgCleave := us }, cfg := { s1.cfg with cleaveUs := us } }
  | _ => s1

/-- The result block of the command that made a change (R155). -/
def Staged.result (x : Staged) : Blob :=
  match x.item with
  | .links _ => leBytes 1 3
  | .peers _ => leBytes 1 4
  | _ => leBytes 8 x.epoch

/-- End the command of a completed change: its result block was written and confirmed before the change was staged (R152, R222). -/
def State.answerStaged (s : State) (x : Staged) : State := match x.cmd with | some r => s.commit r | none => s

/-- Complete the changes at the head of the list that every engine has adopted, and stage those that wait (R222); `fuel` bounds the
changes. -/
def State.completeEpochs : Nat → State → State
  | 0, s => s
  | f + 1, s =>
    match s.cfg.staged with
    | [] => s
    | x :: t =>
      if (s.concerned x.item).all fun e => x.adopted.contains e then
        let next := (s.cfg.waiting.take 1).map fun y => { y with at_ := s.now, heldAt := s.pwr.heldNs }
        let s1 := { s with cfg := { s.cfg with staged := t ++ next, waiting := s.cfg.waiting.drop 1 } }
        State.completeEpochs f ((s1.completeEffect x).answerStaged x)
      else s

/-- The changes staged or waiting, as a bound. -/
def State.epochFuel (s : State) : Nat := s.cfg.staged.length + s.cfg.waiting.length + 1

/-- Complete what is due. -/
def State.completeDue (s : State) : State := State.completeEpochs s.epochFuel s

/-- An engine adopts the oldest staged change that it has not adopted, at its safe point (R220, R222). -/
def State.adoptOne (s : State) (e : Nat) (force : Bool) : State :=
  match s.cfg.staged.find? fun x => (s.concerned x.item).contains e && !x.adopted.contains e with
  | none => s
  | some x =>
    if force || s.safePoint e x.item then
      let s1 := (s.adoptEffect e x.item).pulse 40
      { s1 with cfg := { s1.cfg with staged := s1.cfg.staged.map fun y => if y.epoch = x.epoch then { y with adopted := y.adopted ++ [e] } else y } }
    else s

/-- An engine that leaves reset adopts every staged change (R223). -/
def State.adoptAll (s : State) (e : Nat) : State :=
  (s.cfg.staged.foldl (fun t _ => t.adoptOne e true) s).completeDue

/-- Stage a change under the next epoch; past the eighth it waits (R219, R222). One with no engine to wait for completes at once. -/
def State.stage (s : State) (i : CfgItem) (cmd : Option Nat) : State :=
  let x : Staged := { epoch := (s.cfg.epoch + 1) % 2 ^ 64, item := i, cmd := cmd, at_ := s.now, heldAt := s.pwr.heldNs }
  let s1 := { s with cfg :=
    (if s.cfg.staged.length < 8 then { s.cfg with epoch := x.epoch, past := (x.epoch, i) :: s.cfg.past, staged := s.cfg.staged ++ [x] }
     else { s.cfg with epoch := x.epoch, past := (x.epoch, i) :: s.cfg.past, waiting := s.cfg.waiting ++ [x] }) }
  s1.completeDue

/-- Stage a change for a command: its result block, the epoch or the section, is written and confirmed first, and where that fails no epoch is
taken and nothing changes (R152, R155, R219). `eff` is what takes hold as the change is staged. -/
def State.stageFor (s : State) (r : Nat) (c : Cmd) (i : CfgItem) (io : HostIo) (eff : State → State) : State :=
  let b := ({ epoch := (s.cfg.epoch + 1) % 2 ^ 64, item := i } : Staged).result
  let s1 := s.writeResult c b
  if io.write = .ok then (((eff s1).modCmd r fun x => { x with result := padTo 64 b }).handOver r).stage i (some r) else s1.report r .hostAccessFailed

end Sys2Proof.Machine
end

