-- ==== Sys2Proof/Machine/ResetOps.lean ====
section
/-! DEFINITION. Loess: reset records, context resets, engine and compute-domain resets, fences, recovery, Tarn restarts and leaving
service (R514 to R553). -/

namespace Sys2Proof.Machine

open Sys2Proof

/-! ## Reset records (R551) -/

/-- The function of a context, 0 for none. -/
def State.fnOfCtx (s : State) (x : Option Nat) : Nat :=
  match x with
  | some k => match tget? s.ctxs k with | some c => c.fn | none => 0
  | none => 0

/-- Set bits of VX_ERR_STATUS. -/
def State.setErr (s : State) (b : Nat) : State := { s with loess := { s.loess with err := s.loess.err ||| (1#8 <<< b) } }

/-- Write a record at the tail; a full ring drops its oldest (R551). -/
def State.openRecord (s : State) (r : RstRec) : Nat × State :=
  let l := s.loess
  let full := (l.tail + 1) % 256 == l.head
  let seq := (l.seq + 1) % 65536
  let s1 := { s with loess := { l with
    records := tset l.records l.tail { r with seq := seq, startTime := s.now }
    tail := (l.tail + 1) % 256, seq := seq, head := if full then (l.head + 1) % 256 else l.head } }
  (l.tail, (if full then s1.setErr 7 else s1).pulse 8)

/-- Change a record. -/
def State.modRecord (s : State) (slot : Nat) (f : RstRec → RstRec) : State :=
  { s with loess := { s.loess with records := tmod s.loess.records slot f } }

/-- End a record with its outcome, and post RESET_RECORD for it (R551). -/
def State.closeRecord (s : State) (slot outcome : Nat) (fenced : Bool) : State :=
  let s1 := s.modRecord slot fun r => { r with outcome := outcome, fenced := fenced, endTime := s.now }
  let s2 := if outcome = 1 then (s1.setErr 4).pulse 8 else s1
  match tget? s2.loess.records slot with
  | some r => s2.postEvent 0 .resetRecord (slot + r.domain * 2 ^ 8 + r.guiltyFn * 2 ^ 16)
  | none => s2

/-- The 64 bytes of a reset record (R551). -/
def RstRec.bytes (r : RstRec) : Blob :=
  leBytes 4 0x53525856 ++ leBytes 2 1 ++ leBytes 2 r.seq ++ leBytes 1 r.domain ++ leBytes 1 r.cause ++ leBytes 1 r.outcome ++
  leBytes 1 (b2n r.fenced) ++ leBytes 2 r.engine ++ leBytes 2 r.guiltyCtx ++ leBytes 2 r.guiltyFn ++ leBytes 2 r.escFrom ++
  leBytes 4 r.detail ++ leBytes 2 r.affected ++ leBytes 2 r.resumed ++ leBytes 2 r.retried ++ leBytes 2 r.failed ++
  leBytes 8 r.startTime ++ leBytes 8 r.endTime ++ zeros 16

/-! ## Killing a context's commands (R521, R535, R537, R541) -/

/-- Commands of a context that a reset of it ends: those whose completion is not recorded yet (R198, R521). -/
def State.openCmds (s : State) (x : Nat) : List Nat :=
  (s.cmdsOfCtx x).filter fun r => (tget? s.cmds r).any Cmd.unfinished

/-- Commands of a context that a neighbour's reset ends: a command whose work has ended, or whose update has begun, has lost nothing (R379,
R535). -/
def State.retryCmds (s : State) (x : Nat) : List Nat :=
  (s.openCmds x).filter fun r => (tget? s.cmds r).any fun c => c.stage != .ended && !c.updating

/-- Complete a context's commands: CONTEXT_RESET, or RETRY_NEIGHBOUR_RESET, in whose place a status decided earlier stands (R535). -/
def State.killCtx (s : State) (x : Nat) (st : Status) : State :=
  (if st = .retryNeighbourReset then s.retryCmds x else s.openCmds x).foldl (fun t r =>
    match tget? t.cmds r with
    | some c => t.kill r (if st = .retryNeighbourReset then c.decided.getD st else st)
    | none => t) s

/-! ## Out of service (R547) -/

/-- What the block's leaving service makes of a command in flight. -/
def State.oosCmd (s : State) (tarn : Bool) (r : Nat) : State :=
  match tget? s.cmds r with
  | none => s
  | some c =>
    if !c.unfinished || c.stage == .ended then s
    else if c.admin && c.journal == .committed then s.report r .success
    else if c.admin && !tarn && (c.opcode == 0x00 || c.opcode == 0x50 || c.opcode == 0x51) then s
    else s.finish r .outOfService

/-- Hold the compute domain in reset: no cluster holds state and nothing is in flight (R547). -/
def State.holdDomain (s : State) : State :=
  { s with
    pins := { s.pins with tpRstN := 0, byp := 0 }
    serac := { s.serac with units := tmap s.serac.units fun _ u =>
      { u with turn := none, preempt := none, restore := none, works := [], streams := [], holder := none, lastBody := none, rstAt := none } }
    silt := { s.silt with taps := [], partials := [], engines := tmap s.silt.engines fun _ g => { g with slices := [], fetches := [], inters := [] } }
    loess := { s.loess with domain := none } }

/-- Close a record that is still open. -/
def State.closeIfOpen (s : State) (slot outcome : Nat) : State :=
  if (tget? s.loess.records slot).any (·.endTime == 0) then s.closeRecord slot outcome false else s

/-- Records of the resets that the block's leaving service cuts for good: of contexts, of engines of the compute domain, and of the domain. They end
with outcome 3 (DESIGN CHOICE, assumption 175); an engine outside the domain, and Tarn, complete theirs. -/
def State.cutRecords (s : State) : List Nat :=
  (s.ctxs.filterMap fun c => if c.2.resetting then c.2.resetRecord else none) ++
  (s.loess.engines.filterMap fun e => if e.1 / 256 ≤ 3 then e.2.rst.map (·.slot) else none) ++ (s.loess.domain.map (·.slot)).toList

/-- The block goes out of service (R545, R547). -/
def State.outOfService (s : State) (cause engine : Nat) : State :=
  if s.loess.oos then s
  else
    let s1 := ({ s with loess := { s.loess with oos := true, oosCause := cause, oosEngine := engine } } : State).setErr 6
    let s2 := (s.cutRecords.foldl (fun t n => t.closeIfOpen n 3) s1).holdDomain
    let torn := s2.cmds.foldl (fun t e => if e.2.updating then t.tear e.2 else t) s2
    let s3 := { torn with cmds := tmap torn.cmds fun _ c => { c with updating := false } }
    if engine = 0x0700 then s3
    else ((tkeys s3.cmds).foldl (State.oosCmd · (cause == 6) ·) s3).postEvent 0 .blockOutOfService (cause + engine * 2 ^ 16)

/-! ## Context reset (R521, R522) -/

/-- Silt answers a context's outstanding taps with TAP_NULL (R363). -/
def State.nullTaps (s : State) (x : Nat) : State :=
  let mine := s.silt.taps.filter (·.ctx == x)
  let s1 := { s with silt := { s.silt with taps := s.silt.taps.filter (·.ctx != x) } }
  mine.foldl (fun t p => t.answerNull { p with cmd := 16384 }) s1

/-- A cluster holds, or is saving or restoring, a context's state. -/
def State.clusterHas (s : State) (x u : Nat) : Bool :=
  let y := s.unit u
  y.holder == some x || (y.preempt.any fun p => p.ctx == x) || (y.restore.any fun r => r.ctx == x)

/-- A unit abandons a context: PREEMPT mode 2 is sent, and its work items, streams and turn end (R413, R521). -/
def State.abandon (s : State) (x u : Nat) : State :=
  let s1 := (s.stopStreams u x).updUnit u fun y =>
    { y with
      works := y.works.filter (·.ctx != x)
      turn := match y.turn with | some t => if t.ctx = some x then none else some t | none => none
      restore := match y.restore with | some r => if r.ctx = x then none else some r | none => none
      preempt := none, holder := some x }
  s1.sendPreempt u x 2

/-- A context reset ends (R522): the context is usable again, and its CTX_RESET completes. -/
def State.ctxResetDone (s : State) (x : Nat) : State :=
  match tget? s.ctxs x with
  | none => s
  | some c =>
    let s1 := s.modCtx x fun y => { y with resetting := false, resetWait := [], resetCmd := none, resetRecord := none }
    let s2 := match c.resetRecord with
      | some n => match tget? s1.loess.records n with
        | some r => if r.endTime = 0 then s1.closeRecord n 0 false else s1
        | none => s1
      | none => s1
    match c.resetCmd with
    | some r => s2.commit r
    | none => s2

/-- A context reset that waits for no cluster, and for no training step that finishes its update, ends (R521, R522). -/
def State.ctxResetSettle (s : State) (x : Nat) : State :=
  match tget? s.ctxs x with
  | none => s
  | some c =>
    if c.resetting && c.resetWait.isEmpty && !(tany s.cmds fun _ m => m.ctx == x && m.updating) then s.ctxResetDone x else s

/-- A unit no longer keeps a context reset waiting; one that waits for nothing more ends. -/
def State.ctxResetAnswered (s : State) (x u : Nat) : State :=
  match tget? s.ctxs x with
  | none => s
  | some c =>
    if c.resetting && c.resetWait.contains u then
      (s.modCtx x fun y => { y with resetWait := y.resetWait.filter (· != u) }).ctxResetSettle x
    else s

/-- Cirque frees the descriptors of a context's commands (R521). -/
def State.freeDescs (s : State) (x : Nat) : State :=
  { s with cmds := tmap s.cmds fun _ c => if c.ctx == x && !c.admin then { c with descs := [] } else c }

/-- Reset a context (R521): `cause` 0 is a function reset's, which has no record and leaves its commands to the function reset; `victim` is
the command that did not drain and the status it completes with. -/
def State.contextReset (s : State) (x cause detail : Nat) (victim : Option (Nat × Status)) (cmd : Option Nat) : State :=
  match tget? s.ctxs x with
  | none => s
  | some c =>
    let sv := match victim with | some (r, st) => s.kill r st | none => s
    if c.resetting then sv.modCtx x fun y => { y with resetCmd := if y.resetCmd.isNone then cmd else y.resetCmd }
    else
      let failed := ((s.openCmds x).filter fun r => victim.all fun v => v.1 != r || v.2 == .timeoutKilled).length
      let rec_ : RstRec := { domain := 1, cause := cause, guiltyCtx := x, guiltyFn := c.fn, detail := detail, affected := 1, failed := min failed 0xFFFF }
      let (slot, s1) := if cause = 0 then (0, sv) else sv.openRecord rec_
      let has := c.clusterList.filter fun u => s1.clusterHas x u
      let live := has.filter fun u => !s1.engDown (seracEngine u) && s1.loess.domain.isNone
      let late := c.clusterList.filter fun u =>
        (s1.eng (seracEngine u)).rst.any (fun y => y.lost.contains (x, u)) || s1.loess.domain.any (fun y => y.lost.contains (x, u))
      let s2 := s1.modCtx x fun y =>
        { y with
          resetting := true, resetStart := s.now, resetHeld := s.pwr.heldNs, resetWait := live ++ late, resetCmd := cmd
          resetRecord := if cause = 0 then none else some slot, saves := [] }
      let s3 := ((live.foldl (fun t u => t.abandon x u) s2).nullTaps x).crevWithdrawCtx x
      let s4 := (s3.cmdsOfCtx x).foldl State.unreserve s3
      let s5 := if cause = 0 then s4 else s4.killCtx x .contextReset
      (s5.freeDescs x).ctxResetSettle x

/-! ## Recovery (R537 to R541) -/

/-- A lost context may resume on a cluster from its save (R538). -/
def State.mayResume (s : State) (x p : Nat) : Bool :=
  match s.saveOf x p with
  | none => false
  | some a =>
    a.valid && a.kind == 0 &&
    s.cmds.all fun e =>
      !(e.2.ctx == x && !e.2.admin && e.2.unfinished && e.2.issuedOn.contains p) ||
        (decide (e.2.start.getD s.now < a.endTime) && !e.2.backward)

/-- Set a resumed context's issue position on a cluster back to the one recorded with its save; the work items in progress in the save are
outstanding again (R410, R539). -/
def State.rewind (s : State) (x p : Nat) : State :=
  match s.saveOf x p with
  | none => s
  | some a =>
    let back := a.works.filter fun w => match tget? s.cmds w.cmd with | some c => c.live | none => false
    { (s.updUnit p fun u => { u with works := u.works.filter (fun w => w.ctx != x) ++ back.map fun w => { w with saved := true } }) with
      cmds := tmap s.cmds fun r c =>
        if c.ctx == x && c.live then
          match tget? a.position r with
          | some l => { c with tiles := tset c.tiles p l }
          | none => c
        else c }

/-- Commands of a context that a reset completes CONTEXT_RESET, those counted when their work was cut apart (R551). -/
def State.failCount (s : State) (x : Nat) : Nat :=
  ((s.openCmds x).filter fun r => (tget? s.cmds r).any fun c => c.decided != some .contextReset).length

/-- Commands of a context that a reset completes RETRY_NEIGHBOUR_RESET: those with no status decided (R535, R551). -/
def State.retryCount (s : State) (x : Nat) : Nat :=
  ((s.retryCmds x).filter fun r => (tget? s.cmds r).any fun c => c.decided.isNone).length

/-- Complete every command of a guilty context, counting them in the record (R537, R551). -/
def State.blame (s : State) (slot x : Nat) : State :=
  (s.modRecord slot fun r => { r with failed := satAdd r.failed (s.failCount x) 0xFFFF }).killCtx x .contextReset

/-- Complete the commands of an innocent context that cannot resume, counting them in the record (R538, R551). -/
def State.sendBack (s : State) (slot x : Nat) : State :=
  (s.modRecord slot fun r => { r with retried := satAdd r.retried (s.retryCount x) 0xFFFF }).killCtx x .retryNeighbourReset

/-- Recover one context that lost its state on some clusters (R537, R538), counting in the record. -/
def State.recoverCtx (s : State) (slot : Nat) (guilty : List Nat) (x : Nat) (ps : List Nat) : State :=
  let s0 := s.modRecord slot fun r => { r with affected := satAdd r.affected 1 0xFFFF }
  let s1 :=
    if guilty.contains x then s0.blame slot x
    else if ps.all fun p => s.mayResume x p then
      (ps.foldl (fun t p => t.rewind x p) s0).modRecord slot fun r => { r with resumed := satAdd r.resumed 1 0xFFFF }
    else s0.sendBack slot x
  let s2 := ps.foldl (fun t p => t.ctxResetAnswered x p) s1
  (s2.openCmds x).foldl State.drainIfIdle s2

/-- Count contexts that lost state in a reset's record (R551). -/
def State.countLost (s : State) (slot n : Nat) : State := s.modRecord slot fun r => { r with affected := satAdd r.affected n 0xFFFF }

/-- Recover every context that a reset made lose its state, and the guilty ones although they lost none (R537). -/
def State.recover (s : State) (slot : Nat) (guilty : List Nat) (lost : List (Nat × Nat)) : State :=
  let xs := sortNat (nubBy (lost.map (·.1)))
  let s1 := xs.foldl (fun t x => t.recoverCtx slot guilty x ((lost.filter (·.1 == x)).map (·.2))) s
  (guilty.filter fun g => !xs.contains g).foldl (fun t g => t.blame slot g) s1

/-- The contexts that a reset names as guilty, with those of the resets it absorbed (R533, R537). -/
def Rst.blamed (x : Rst) : List Nat := nubBy (x.guilty.toList ++ x.also)

/-! ## What an engine reset begins with (R523 to R529) -/

/-- Contexts that lose their state when a unit is reset: those whose state its cluster holds, saves or restores (R526). -/
def SUnit.losers (u : SUnit) : List Nat :=
  nubBy (u.holder.toList ++ (u.preempt.map (·.ctx)).toList ++ (u.restore.map (·.ctx)).toList)

/-- Stop a tile port and drive its reset pin low (R525): work items in flight are gone, and no credit is held. The pin rises 1 us later, unless the
unit is fenced and its cluster held in reset. -/
def State.seracDown (s : State) (p : Nat) (hold : Bool) : State :=
  let s1 := s.updUnit p fun u =>
    { u with
      turn := none, preempt := none, restore := none, incoming := none, holder := none, lastBody := none, swCounted := false
      works := u.works.filter (·.saved), streams := [], credited := [], down := [0, 0, 0, 0], due := [0, 0, 0, 0], up := upMax
      rstAt := if hold then none else some s.now }
  { s1 with
    pins := { s1.pins with tpRstN := s1.pins.tpRstN &&& ~~~(1#32 <<< p) }
    cmds := tmap s1.cmds fun _ c => { c with streamed := c.streamed.filter (·.1 != p) }
    silt := { s1.silt with taps := s1.silt.taps.filter (·.port != p), partials := tdel s1.silt.partials p } }

/-- Preempt the occupant of a cluster with mode 0 and stop its streams: every occupant for a Melt reset, and one that has a stream for a Firn reset
(R523, R529). -/
def State.preemptOccupant (s : State) (all : Bool) (u : Nat) : State :=
  match (s.unit u).holder with
  | some h =>
    if (s.unit u).preempt.isSome || (!all && (s.unit u).streams.isEmpty) || s.engDown (seracEngine u) then s
    else ((s.endTurn u).stopStreams u h).sendPreempt u h 0
  | none => s

/-- A Silt engine is lost to the training steps it works for (R381): a backward pass whose gradient work it held changes nothing, and an update,
which the engines outside the reserve share, is cut and leaves its variants Torn. Such a step completes CONTEXT_RESET where its context is
guilty and RETRY_NEIGHBOUR_RESET otherwise (R537, R538, assumption 158). -/
def State.siltCut (s : State) (n slot : Nat) (guilty : Option Nat) : State :=
  let held (r : Nat) : Bool := s.silt.taps.any fun t =>
    t.cmd == r && !t.null && decide (3 ≤ t.phase) && (t.engine == n || t.slices.any fun x => (s.siltEng n).slices.contains x)
  s.cmds.foldl (fun t e =>
    let c := e.2
    let mine : Bool := guilty == some c.ctx
    let st : Status := if mine then .contextReset else .retryNeighbourReset
    let count (y : State) : State := if c.decided.isSome then y else y.modRecord slot fun r =>
      if mine then { r with failed := satAdd r.failed 1 0xFFFF } else { r with retried := satAdd r.retried 1 0xFFFF }
    if c.opcode ≠ 0x81 ∨ !c.unfinished then t
    else if c.updating then
      if (s.siltEng n).rt then t
      else (count (((t.tear c).modCmd e.1 fun x => { x with updating := false }).failCmd e.1 st)).drainIfIdle e.1
    else if held e.1 && c.live then count (t.failCmd e.1 st)
    else t) s

/-- Cirque's confirming reads are cut: their bursts are written again as it leaves reset (R529), and what the reads return no longer matters. -/
def Queue.cutReads (q : Queue) : Queue :=
  { q with deadReads := q.deadReads + q.burst.length + (if q.firstRead.isSome then 1 else 0), firstRead := q.firstRead.map fun _ => q.burst.length }

/-- Write the unconfirmed entries of a CQ again, each into its slot with its phase and its own confirming read, and read the first slot of a replay
again (R134, R141, R529). -/
def State.rewriteBurst (s : State) (q : Queue) : State :=
  let s1 := q.burst.zipIdx.foldl (fun t e =>
    let k := q.burstStart + e.2
    let at_ := q.cqBase + 32 * (k % max 1 q.depth)
    (t.hostWrite q.fn at_ (e.1.bytes (if k < q.depth then q.burstPhase else !q.burstPhase))).hostRead q.fn (at_ + 28) 4) s
  if q.firstRead.isSome then s1.hostRead q.fn (q.cqBase + 28) 4 else s1

/-- A walk is taken by the lowest walker that is free and up, or waits for one (R523). -/
def State.placeWalk (s : State) (w : Walk) : State :=
  match (List.range 16).find? fun i => (tget? s.esk.walks i).isNone && !s.engDown (0x0600 + i) with
  | some i => { s.progress (0x0600 + i) with esk := { s.esk with walks := tset s.esk.walks i w } }
  | none => { s with esk := { s.esk with walkWait := s.esk.walkWait ++ [w] } }

/-- The oldest walk that waits for a walker is taken where one is free. -/
def State.nextWalk (s : State) : State :=
  match s.esk.walkWait with
  | [] => s
  | w :: t => ({ s with esk := { s.esk with walkWait := t } } : State).placeWalk w

/-- A walker is fenced: the walk it was making is made by another (R523). -/
def State.handWalk (s : State) (n : Nat) : State :=
  match tget? s.esk.walks n with
  | none => s
  | some w => ({ s with esk := { s.esk with walks := tdel s.esk.walks n } } : State).placeWalk { w with later := [] }

/-- A walk begins again from the table as it stands (R523, R529). -/
def State.againWalk (s : State) (p : Nat → Bool) : State :=
  let now (w : Walk) : Nat := match tget? s.ctxs w.ctx with | some x => x.epoch | none => w.epoch
  let ws := tmap s.esk.walks fun i w => if p i then { w with later := [], epoch := now w } else w
  { s with esk := { s.esk with walks := ws } }

/-- The control of an engine restarts (R523, R524, R529). -/
def State.engineBegin (s : State) (e : Nat) : State :=
  let n := e % 256
  let k := e / 256
  if k = 1 then s.seracDown n false
  else if k = 2 then
    (match (s.eng e).rst with
      | some x => s.siltCut n x.slot x.guilty
      | none => s).siltClear n
  else if k = 3 then (s.meltClusters n).foldl (State.preemptOccupant · true) s
  else if k = 5 then (if [.up, .hello, .training, .down].contains (s.link n).st then s.loseLink n 1 else s)
  else if k = 6 then s.againWalk (· == n)
  else if k = 7 then { s with queues := tmap s.queues fun _ q => q.cutReads }
  else if k = 8 then
    let s1 := s.againWalk fun _ => true
    { s1 with esk := { s1.esk with invals := s1.esk.invals.map fun i => { i with acked := [] } } }
  else if k = 9 then
    let s1 := (List.range 32).foldl (State.preemptOccupant · false) s
    { s1.freeIdx (s1.movedInto fun _ => true) with firn := { s1.firn with
      repairs := s1.firn.repairs.map (fun r =>
        if r.started then { r with asked := none, canonical := false, got := none, started := false, moving := none, waits := [] } else r)
      loads := s1.firn.loads.map fun l => { l with ver := { l.ver with shards := l.ver.shards.map fun x =>
        if x.inFlight then { x with inFlight := false, retryAt := some s.now } else x } } } }
  else s

/-- Engine classes of the compute domain (R520, R523). -/
def inDomain (e : Nat) : Bool := e / 256 == 1 || e / 256 == 2 || e / 256 == 3

/-- The engine IDs that name a resettable engine (R523). -/
def State.engineExists (s : State) (e : Nat) : Bool :=
  let n := e % 256
  let k := e / 256
  (k == 1 && decide (n < 32) && s.present n) || (k == 2 && decide (n < 64)) || (k == 3 && decide (n < 16)) || (k == 4 && decide (n < 24)) ||
  (k == 5 && decide (n < 36)) || (k == 6 && decide (n < 16)) || (decide (7 ≤ k) && decide (k ≤ 14) && n == 0)

/-! ## Fences (R528, R541, R543, R545, R546) -/

/-- The commands of every context whose set includes a lost cluster end (R541). -/
def State.loseCluster (s : State) (p slot : Nat) (guilty : List Nat) : State :=
  let xs := tfind s.ctxs fun _ c => bit c.clusters p
  xs.foldl (fun t x => (if guilty.contains x then t.blame slot x else t.sendBack slot x).ctxResetAnswered x p) s

/-- Mark an engine fenced and post ENGINE_FENCED (R543). -/
def State.markFenced (s : State) (e : Nat) : State :=
  (((s.updEng e fun x => { x with fenced := true, rst := none }).setErr 5).pulse 8).postEvent 0 .engineFenced e

/-- Every present cluster's Serac unit, or every Silt engine, is fenced (R545). -/
def State.classExhausted (s : State) (k : Nat) : Bool :=
  if k = 1 then (List.range 32).all fun p => !s.present p || (s.eng (seracEngine p)).fenced
  else (List.range 64).all fun n => (s.eng (siltEngine n)).fenced

/-- Fence a Serac unit. -/
def State.fenceSerac (s : State) (p slot : Nat) (guilty : List Nat) : State :=
  let s1 := ((s.markFenced (seracEngine p)).seracDown p true).loseCluster p slot guilty
  if s1.classExhausted 1 then s1.outOfService 5 (seracEngine p) else s1

/-- The lowest-numbered unfenced engine above the reserve joins it when a member is fenced (R115). -/
def State.rtReplace (s : State) (n : Nat) : State :=
  if (s.siltEng n).rt then
    let s1 := s.updSilt n fun g => { g with rt := false }
    match (List.range 64).find? fun k => !(s1.eng (siltEngine k)).fenced && !(s1.siltEng k).rt with
    | some k => s1.updSilt k fun g => { g with rt := true }
    | none => s1
  else s

/-- Fence an engine (R523's last column): what its share of the block becomes. -/
def State.fence (s : State) (e slot : Nat) (guilty : Option Nat) : State :=
  let n := e % 256
  let k := e / 256
  let s1 :=
    if k = 1 then s.fenceSerac n slot guilty.toList
    else
      let t := s.markFenced e
      if k = 2 then
        let t1 := ((t.siltCut n slot guilty).siltClear n).rtReplace n
        if t1.classExhausted 2 then t1.outOfService 5 e else t1
      else if k = 3 then
        let t1 := (s.meltClusters n).foldl (State.preemptOccupant · true) t
        if (t.eng (0x0300 + meltPartner n)).fenced then
          [2 * n, 2 * n + 1, 2 * meltPartner n, 2 * meltPartner n + 1].foldl
            (fun u p => if u.present p && !(u.eng (seracEngine p)).fenced then u.fenceSerac p slot guilty.toList else u) t1
        else t1
      else if k = 4 then (if (t.eng (0x0400 + (n + 12) % 24)).fenced then t.outOfService 5 e else t)
      else if k = 5 then (t.releaseRing (n / 2) 7 true).updLink n fun l => { l with st := .fenced }
      else if k = 6 then t.handWalk n
      else t.outOfService (if k = 0x0B then 6 else 3) e
  -- the guilty context's commands complete, whatever engine is fenced (R537)
  let s2 := match guilty with | some g => if k = 1 || s1.loess.oos then s1 else s1.blame slot g | none => s1
  s2.completeDue

/-! ## Engine resets (R514, R523, R532, R533, R543) -/

/-- The earlier resets of an engine within 10 s (R543). -/
def State.recentResets (s : State) (e : Nat) : List Nat := (s.eng e).history.filter fun t => decide (s.now < t + 10000000000)

/-- Begin a Tarn restart (R549, R550): it joins one in progress, and the third within 10 s takes the block out of service. A restart for a
patch has no record and counts toward neither limit (R611). -/
def State.tarnRestart (s : State) (cause esc : Nat) : State :=
  if s.loess.oos || s.loess.restart.isSome then s
  else
    let recent := s.loess.restartTimes.filter fun t => decide (s.now < t + 10000000000)
    let (slot, s1) := s.openRecord { domain := 4, cause := cause, engine := 0x0B00, escFrom := esc }
    if 2 ≤ recent.length then (s1.closeRecord slot 3 false).outOfService 6 0x0B00
    else
      ({ s1 with loess := { s1.loess with
          restart := some { start := s.now, deadline := s.now + 1000000, slot := slot, heldAt := s.pwr.heldNs }, restartForPatch := false
          restartTimes := recent ++ [s.now], restarts := satAdd s1.loess.restarts 1 0xFFFF } } : State).setErr 3

/-- A reset joins another: it counts toward its engine's fence history, but once for reports of the same moment (R532, R533, R543). -/
def State.joinReset (s : State) (e : Nat) : State :=
  if (s.eng e).history.contains s.now then s else s.updEng e fun x => { x with history := s.recentResets e ++ [s.now] }

/-- Begin an engine reset (R523): it joins one in progress, the third within 10 s fences the engine instead, and Kaolin, Varve and Ledger
have none. -/
def State.engineReset (s : State) (e cause : Nat) (guilty : Option Nat) (detail esc : Nat) : State :=
  if s.loess.oos || s.loess.halted || !s.engineExists e || (s.eng e).fenced then s
  else if e / 256 = 0x0B then s.tarnRestart cause esc
  else if 0x0C ≤ e / 256 then s.outOfService 4 e
  else if (s.eng e).rst.isSome || (inDomain e && s.loess.domain.isSome) then s.joinReset e
  else
    let rec_ : RstRec := { domain := 2, cause := cause, engine := e, guiltyCtx := guilty.getD 0, guiltyFn := s.fnOfCtx guilty, escFrom := esc, detail := detail }
    let (slot, s1) := s.openRecord rec_
    let recent := s.recentResets e
    let s2 := s1.updEng e fun x => { x with history := recent ++ [s.now] }
    if 2 ≤ recent.length then
      ((s2.countLost slot (if e / 256 = 1 then (s.unit (e % 256)).losers.length else 0)).fence e slot guilty).closeRecord slot 2 true
    else
      let lost := if e / 256 = 1 then (s.unit (e % 256)).losers.map fun x => (x, e % 256) else []
      (s2.updEng e fun x => { x with rst := some { start := s.now, deadline := s.now + 200000, slot := slot, heldAt := s.pwr.heldNs, guilty := guilty, lost := lost } }).engineBegin e

/-- A link that its controller's reset took Down trains again once the reset is over (R576): within train_ms, or within its ring's join. -/
def State.retrainAfter (s : State) (n : Nat) : State :=
  if (s.link n).st ≠ .down then s
  else (s.trainLink n).updLink n fun l => { l with
    trainDeadline := if (s.ring (n / 2)).st = 2 then none else some (s.now + s.floe.trainMs * 1000000) }

/-- The reads that a reset of a Glaze engine cut go out again from their start, and with them those that held writes wait for (R527); what a write has
counted and stored is whole, so none is cut halfway. -/
def State.readAgain (s : State) (n : Nat) : State :=
  s.glz.reads.foldl (fun t e =>
    match (if e.2.prot = 0 then s.slotOf e.2.tier (e.2.offset / frameBytes) else none) with
    | some (k, _) => if s.glazeEngine k (e.2.offset % frameBytes / 4096) = n then t.chunkRead e.2 else t
    | none => t) s

/-- An engine leaves reset: contexts are recovered, and staged epochs adopted (R223, R525, R537). -/
def State.engineDone (s : State) (e : Nat) : State :=
  match (s.eng e).rst with
  | none => s
  | some x =>
    let s1 := s.updEng e fun y => { y with rst := none, count := y.count + 1, stamp := s.now, heldAt := s.pwr.heldNs }
    let s2 := (s1.recover x.slot x.blamed x.lost).closeIfOpen x.slot 0
    -- Cirque writes the bursts again whose confirming reads the reset cut (R529); walks that wait find a walker
    let s3 := if e = 0x0700 then s2.queues.foldl (fun t q => t.rewriteBurst q.2) s2 else if e / 256 = 6 then s2.nextWalk
      else if e / 256 = 4 then s2.readAgain (e % 256)
      else if e / 256 = 5 then s2.retrainAfter (e % 256) else s2
    (s3.adoptAll e).settle

/-! ## The compute domain (R530 to R533, R544) -/

/-- Take every engine of the domain into the reset: absorbed resets end escalated, ports stop, caches clear, and an update that is cut leaves
its variants Torn (R381, R530, R533). -/
def State.domainBegin (s : State) : State :=
  let absorbed := s.loess.engines.filter fun e => inDomain e.1 && e.2.rst.isSome
  let s1 := absorbed.foldl (fun t e =>
    match e.2.rst with
    | some x => (t.updEng e.1 fun y => { y with rst := none }).closeRecord x.slot 1 false
    | none => t) s
  let s2 := (List.range 32).foldl (fun t p => if t.present p && !(t.eng (seracEngine p)).fenced then t.seracDown p false else t) s1
  let s3 := { s2 with silt := { s2.silt with engines := tmap s2.silt.engines fun _ g => { g with slices := [], fetches := [], inters := [] } } }
  let s4 := s3.cmds.foldl (fun t e => if e.2.updating then t.tear e.2 else t) s3
  let s5 := { s4 with cmds := tmap s4.cmds fun _ c => { c with updating := false } }
  (tkeys s5.ctxs).foldl State.ctxResetSettle s5

/-- Contexts that a compute-domain reset makes lose state, those of absorbed resets included (R531). -/
def State.domainLost (s : State) : List (Nat × Nat) :=
  (s.serac.units.flatMap fun u => u.2.losers.map fun x => (x, u.1)) ++
  s.loess.engines.flatMap fun e => if inDomain e.1 then match e.2.rst with | some x => x.lost | none => [] else []

/-- The guilty contexts of the engine resets that a compute-domain reset absorbs (R533, R537). -/
def State.absorbedGuilty (s : State) : List Nat :=
  nubBy (s.loess.engines.flatMap fun e => if inDomain e.1 then match e.2.rst with | some x => x.blamed | none => [] else [])

/-- Begin a compute-domain reset (R530): the fourth within 60 s takes the block out of service instead (R544). -/
def State.domainReset (s : State) (cause : Nat) (guilty : Option Nat) (engine esc : Nat) (lost : List (Nat × Nat)) : State :=
  if s.loess.oos || s.loess.halted || s.loess.domain.isSome then s
  else
    let recent := s.loess.domainTimes.filter fun t => decide (s.now < t + 60000000000)
    let rec_ : RstRec := { domain := 3, cause := cause, engine := engine, guiltyCtx := guilty.getD 0, guiltyFn := s.fnOfCtx guilty, escFrom := esc }
    let (slot, s1) := s.openRecord rec_
    if 3 ≤ recent.length then (s1.closeRecord slot 3 false).outOfService 2 engine
    else
      let all := lost ++ s1.domainLost
      ({ s1.domainBegin with loess := { s1.domainBegin.loess with
          domain := some { start := s.now, deadline := s.now + 5000000, slot := slot, heldAt := s.pwr.heldNs, guilty := guilty, also := s1.absorbedGuilty, lost := all }
          domains := satAdd s1.loess.domains 1 0xFFFF, domainTimes := recent ++ [s.now] } } : State)

/-- The compute domain completes its reset (R530): silent ports are fenced and contexts recovered. -/
def State.domainDone (s : State) : State :=
  match s.loess.domain with
  | none => s
  | some x =>
    let s0 := { s with loess := { s.loess with domain := none } }
    let silent := (List.range 32).filter fun p => s.present p && !(s.eng (seracEngine p)).fenced && (s.unit p).credited.length != 4
    let s1 := silent.foldl (fun t p => t.fenceSerac p x.slot x.blamed) s0
    let dead := nubBy ((x.lost.filter fun e => silent.contains e.2).map (·.1))
    let s1 := (x.lost.filter fun e => dead.contains e.1).foldl (fun t e => t.ctxResetAnswered e.1 e.2) (s1.countLost x.slot dead.length)
    let s2 := s1.recover x.slot x.blamed (x.lost.filter fun e => !dead.contains e.1)
    let s3 := s2.closeRecord x.slot 0 (!silent.isEmpty)
    (((List.range 32).map seracEngine ++ (List.range 64).map siltEngine).foldl State.adoptAll s3).settle

/-- An engine reset passes its deadline (R542). -/
def State.engineOverdue (s : State) (e : Nat) : State :=
  match (s.eng e).rst with
  | none => s
  | some x =>
    let s1 := s.updEng e fun y => { y with rst := none }
    if inDomain e then (s1.closeRecord x.slot 1 false).domainReset 11 x.guilty e x.slot x.lost
    else if e / 256 = 4 ∨ e / 256 = 5 ∨ e / 256 = 6 then (s1.fence e x.slot x.guilty).closeRecord x.slot 1 true
    else (s1.closeRecord x.slot 1 false).outOfService 3 e

/-- A port error resets its Serac unit and blames its occupant (R514, R537): cause 6 parity, 7 protocol. -/
def State.portError (s : State) (u cause : Nat) : State := s.engineReset (seracEngine u) cause (s.unit u).holder 0 0xFFFF

end Sys2Proof.Machine
end

