-- ==== Sys2Proof/Machine/CirqueOps.lean ====
section
/-! DEFINITION. Cirque: fetch conditions and arbiters, completion and event entries, the park, confirming reads and replays
(R93 to R144). -/

namespace Sys2Proof.Machine

open Sys2Proof

/-! ## Ring arithmetic (R98, R102) -/

/-- Entries of a submission ring not yet fetched. -/
def Queue.waiting (q : Queue) : Nat := (q.sqTail + q.depth - q.sqHead) % max 1 q.depth

/-- CQEs written and not yet consumed. -/
def Queue.unread (q : Queue) : Nat := (q.cqTail + q.depth - q.cqHead) % max 1 q.depth

/-- A CQ's free slots (R98). -/
def Queue.freeSlots (q : Queue) : Nat := q.depth - 1 - q.unread

/-- Entries of a queue taken from its ring and not yet admitted, those of a read in flight among them. -/
def Queue.incoming (q : Queue) : Nat := q.fetching + q.fetched.length

/-- Entries all queues have taken and not admitted: each will need a command record. -/
def State.incomingAll (s : State) : Nat := (s.queues.map fun e => e.2.incoming).sum

/-- Entries that admin queues have taken and not admitted. -/
def State.incomingAdmin (s : State) : Nat := (s.queues.map fun e => if e.2.admin then e.2.incoming else 0).sum

/-! ## Arbitration (R114) -/

/-- The first of a rising list at or after a place, else its first: one round of a round-robin token (R114). -/
def roundRobin (last : Nat) (l : List Nat) : Option Nat :=
  match l.find? fun x => decide (last ≤ x) with | some x => some x | none => l.head?

/-! ## Writing completion entries (R111, R121, R125, R126, R134) -/

/-- Raise a CQ's vector unless its mask is set (R126): what has been written is then signalled. -/
def State.interruptCq (s : State) (i : Nat) : State :=
  match tget? s.queues i with
  | some q => if q.mask then s else s.signalCq i
  | none => s

/-- Write an entry into the slot at CQ_TAIL, read its last dword back, and count it toward the interrupt. -/
def State.emitCqe (s : State) (i : Nat) (e : Cqe) : State :=
  match tget? s.queues i with
  | none => s
  | some q =>
    let at_ := q.cqBase + 32 * q.cqTail
    let wrap := q.cqTail + 1 == q.depth
    let s1 := ((s.progress 0x0700).hostWrite q.fn at_ (e.bytes q.phase)).hostRead q.fn (at_ + 28) 4
    let s2 := s1.modQ i fun x =>
      { x with
        cqTail := if wrap then 0 else x.cqTail + 1, phase := if wrap then !x.phase else x.phase
        eventSlots := if e.event then x.eventSlots ++ [x.cqTail] else x.eventSlots
        burst := x.burst ++ [e], burstStart := if x.burst.isEmpty then x.cqTail else x.burstStart
        burstPhase := if x.burst.isEmpty then x.phase else x.burstPhase
        unsignalled := x.unsignalled + 1, unsigSince := if x.unsigSince.isNone then some s.now else x.unsigSince }
    let due := e.intNow || decide (q.intCount ≤ q.unsignalled + 1) || q.intTime == 0
    if due then s2.interruptCq i else s2

/-! ## The park (R136 to R140) -/

/-- Park entries a function holds. -/
def Fn.parked (f : Fn) : Nat := f.parkG + f.parkS

/-- Set or clear a function's fetch_stopped (R138, R140): it needs a shared entry once its guaranteed ones are in use. -/
def State.checkPark (s : State) (f : Nat) : State :=
  let x := s.fn f
  let heldAny := tany s.queues fun _ q => q.fn == f && !q.held.isEmpty
  let stop := decide (x.parkCap ≤ x.parked) || (heldAny && decide (2 ≤ x.parkG) && s.cirq.sharedFree == 0)
  if stop == x.fetchStopped then s else s.updFn f fun y => { y with fetchStopped := stop }

/-- Put an entry behind a queue's parked ones, in the park or, where no entry is to be had, in its record (R136, R137, R139);
behind entries that are held it is held too (DESIGN CHOICE, assumption 167). -/
def State.parkCqe (s : State) (i : Nat) (e : Cqe) : State :=
  match tget? s.queues i with
  | none => s
  | some q =>
    let f := s.fn q.fn
    let s1 :=
      if !q.held.isEmpty then s.modQ i fun x => { x with held := x.held ++ [e] }
      else if f.parkG < 2 then
        (s.modQ i fun x => { x with parked := x.parked ++ [{ cqe := e, guaranteed := true }] }).updFn q.fn fun y => { y with parkG := y.parkG + 1 }
      else if f.parked < f.parkCap ∧ 0 < s.cirq.sharedFree then
        let t := (s.modQ i fun x => { x with parked := x.parked ++ [{ cqe := e, guaranteed := false }] }).updFn q.fn
          fun y => { y with parkS := y.parkS + 1 }
        { t with cirq := { t.cirq with sharedFree := t.cirq.sharedFree - 1 } }
      else s.modQ i fun x => { x with held := x.held ++ [e] }
    s1.checkPark q.fn

/-- Set or clear fetch_stopped of every function that has it set: a shared entry that frees may be what it needed (R140). -/
def State.checkParks (s : State) : State :=
  (tfind s.fns fun _ y => y.fetchStopped).foldl State.checkPark s

/-- Return park entries to the pool: the function, and any other that waited for a shared entry, may be fetched from again (R140). -/
def State.unpark (s : State) (f : Nat) (l : List Parked) : State :=
  let g := l.countP (·.guaranteed)
  let s1 := s.updFn f fun y => { y with parkG := y.parkG - g, parkS := y.parkS - (l.length - g) }
  (({ s1 with cirq := { s1.cirq with sharedFree := min 8192 (s1.cirq.sharedFree + (l.length - g)) } } : State).checkPark f).checkParks

/-- A completion is produced: written, or parked or held where the CQ is broken (R111, R136). -/
def State.produceCqe (s : State) (i : Nat) (e : Cqe) : State :=
  match tget? s.queues i with
  | none => s
  | some q => if q.cqBroken then s.parkCqe i e else s.emitCqe i e

/-- The event entries that the driver has not consumed, as the ring's pointers stand (R98, R123). -/
def Queue.liveEvents (q : Queue) : Queue :=
  { q with eventSlots := q.eventSlots.filter fun k => decide ((k + q.depth - q.cqHead) % max 1 q.depth < q.unread) }

/-- Event entries of a queue that take one of its four slots: those written and not consumed, and those in the park or held (R102, R123). -/
def Queue.eventsOut (q : Queue) : Nat :=
  q.eventSlots.length + (q.parked.filter (·.cqe.event)).length + (q.held.filter (·.event)).length

/-- A confirming read fails (R135): the entries not yet confirmed move to the park in order, CQ_TAIL returns to the first of their slots, and
the CQ is broken. The reads of the entries after the first, and that of a replay's first slot, are still out, and what they return no longer
matters. Whether an entry that goes back still counts toward int_count and int_time is left open: it does not, until it is written again
(DESIGN CHOICE, assumption 172). The device admin CQ that is still broken after a replay sets admin_cq_broken again, although PF0 may have
cleared it (DESIGN CHOICE, assumption 173). -/
def State.breakCq (s : State) (i : Nat) : State :=
  match tget? s.queues i with
  | none => s
  | some q =>
    let s1 := s.modQ i fun x =>
      { x with
        cqBroken := true, cqTail := if x.burst.isEmpty then x.cqTail else x.burstStart
        phase := if x.burst.isEmpty then x.phase else x.burstPhase, burst := []
        deadReads := x.deadReads + (x.burst.length - 1) + (if x.firstRead.isSome then 1 else 0), firstRead := none
        unsignalled := x.unsignalled - x.burst.length
        unsigSince := if x.unsignalled ≤ x.burst.length then none else x.unsigSince
        -- entries of a replay go back before those that still wait
        parked := [], held := [] }
    let s2 := (s1.modQ i Queue.liveEvents).unpark q.fn q.parked
    let s3 := (q.burst ++ q.parked.map (·.cqe) ++ q.held).foldl (fun t e => t.parkCqe i e) s2
    -- entries that went back took no part of the pool from any other function (R140)
    let s3 := (tfind s.fns fun _ y => y.fetchStopped).foldl State.checkPark s3
    let s4 := if q.cqBroken then s3 else s3.postEvent 0 .cqBroken (queueParam i q.fn)
    if i = 0 ∧ q.admin then { s4 with cirq := { s4.cirq with adminCqBroken := true } } else s4

/-! ## Replay (R141 to R143) -/

/-- The next entry of a replay, taken from the park or the held set. -/
def State.replayTake (s : State) (i : Nat) (q : Queue) : Option (Cqe × State) :=
  match q.parked with
  | p :: t => some (p.cqe, (s.modQ i fun x => { x with parked := t }).unpark q.fn [p])
  | [] =>
    match q.held with
    | e :: t => some (e, (s.modQ i fun x => { x with held := t }).checkPark q.fn)
    | [] => none

/-- A slot is free that no command of the queue, nor an entry on its way to admission, has reserved (R102). -/
def State.slotSpare (s : State) (i : Nat) (q : Queue) : Bool := decide (s.slotsDue i + q.incoming < q.freeSlots)

/-- A replay has an entry to write and a slot for it (R142). -/
def State.replayDue (s : State) (i : Nat) (q : Queue) : Bool :=
  q.replay.isSome && q.replayOn && !(q.parked.isEmpty && q.held.isEmpty) && s.slotSpare i q

/-- An admin queue has an event entry to write: one is pending, and fewer than four of its slots hold events (R102, R123). -/
def State.eventDue (s : State) (i : Nat) (q : Queue) : Bool :=
  q.admin && !q.cqBroken && !(s.fn q.fn).events.isEmpty && decide (q.eventsOut < 4) && s.slotSpare i q

/-- The block left service because of Ledger, so that completions skip their receipts (R547). -/
def State.ledgerLost (s : State) : Bool := s.loess.oos && s.loess.oosEngine == 0x0E00

/-- The command's generation is no longer its function's (R27). -/
def State.stale (s : State) (c : Cmd) : Bool := !c.refused && c.gen != (s.fn c.fn).generation

/-- A completed command is the first, by its order of completion, of those that a condition picks; a refusal that waits for the command before
it has no place in that order yet (R111). -/
def State.firstDone (s : State) (c : Cmd) (p : Cmd → Bool) : Bool :=
  s.cmds.all fun e => !p e.2 || e.2.order == 0 || decide (c.order ≤ e.2.order)

/-- A completion's CQE is due: it has its place in the order of completions, and its receipt is appended, or it takes none (R26, R111, R492,
R547). -/
def State.cqeDue (s : State) (c : Cmd) : Bool :=
  c.order != 0 && (c.stage == .receipted || (c.stage == .completed && (c.admin || s.ledgerLost)))

/-- The next CQE of its queue: due, not stale, and of the queue's oldest completion (R111). -/
def State.cqeNext (s : State) (c : Cmd) : Bool :=
  s.cqeDue c && !s.stale c && s.firstDone c fun x => x.q == c.q && !x.unfinished

/-- The CQ whose entry is written next: those with a completion, an event or an entry of a replay to write and a free slot, in a round robin on
queue ID (R98, R114). -/
def State.cqeGrant (s : State) : Option Nat :=
  roundRobin s.cirq.cqeLast (tfind s.queues fun i q =>
    s.replayDue i q || s.eventDue i q ||
      (!q.cqBroken && decide (0 < q.freeSlots) && tany s.cmds fun _ c => c.q == i && s.cqeNext c))

/-- The CQE write arbiter's token moves past a CQ (R114). -/
def State.tookCqe (s : State) (i : Nat) : State := { s with cirq := { s.cirq with cqeLast := i + 1 } }

/-- Parked and held entries, in all. -/
def State.backlog (s : State) : Nat := (s.queues.map fun e => e.2.parked.length + e.2.held.length).sum

/-- Write entries of replays as the CQE write arbiter's grant falls to their CQs (R114, R141, R142); `fuel` bounds the entries. -/
def State.replayPump : Nat → State → State
  | 0, s => s
  | f + 1, s =>
    match s.cqeGrant with
    | none => s
    | some i =>
      match tget? s.queues i with
      | none => s
      | some q =>
        if !s.replayDue i q then s
        else match s.replayTake i q with
          | none => s
          | some (e, t) => State.replayPump f ((t.tookCqe i).emitCqe i { e with replayed := true })

/-- Replays go on where the grant falls to them; none does while Cirque is in reset, or after the ledger's cut (R511, R529). -/
def State.replayOnward (s : State) : State :=
  if s.pwr.cut || s.engDown 0x0700 then s else State.replayPump s.backlog s

/-- A replay with nothing left to write and nothing unconfirmed ends: the queue is whole again and CQ_RESUME completes SUCCESS (R141). -/
def State.replayEnd (s : State) (i : Nat) : State :=
  match tget? s.queues i with
  | none => s
  | some q =>
    match q.replay with
    | none => s
    | some who =>
      if q.replayOn && q.parked.isEmpty && q.held.isEmpty && q.burst.isEmpty then
        let s1 := (s.modQ i fun x => { x with cqBroken := false, sqBroken := false, replay := none, replayOn := false }).checkPark q.fn
        match who with | some r => s1.commit r | none => s1
      else s

/-- Let a replay go on. -/
def State.replayStep (s : State) (i : Nat) : State :=
  match tget? s.queues i with
  | some _ => if s.pwr.cut || s.engDown 0x0700 then s else s.replayOnward.replayEnd i
  | none => s

/-- A replay fails: its command completes CQ_STILL_BROKEN. -/
def State.replayFail (s : State) (i : Nat) : State :=
  match tget? s.queues i with
  | none => s
  | some q =>
    let s1 := s.modQ i fun x => { x with replay := none, replayOn := false }
    match q.replay with
    | some (some r) => s1.report r .cqStillBroken
    | _ => s1

/-! ## Discards (R144, R203) -/

/-- Discard the parked and held completions of a function, counting each (R144, R203, R210). -/
def State.discardParked (s : State) (f : Nat) : State :=
  (s.queuesOf f).foldl (fun t i =>
    match tget? t.queues i with
    | none => t
    | some q =>
      ((t.modQ i fun x => { x with parked := [], held := [] }).unpark f q.parked).moraine f (q.parked.length + q.held.length)) s

/-! ## Doorbells (R95 to R98) -/

/-- Refuse a doorbell write (R95). -/
def State.refuseDoorbell (s : State) (i : Nat) (q : Queue) : State :=
  (s.modQ i fun x => { x with dbError := true }).postEvent q.eventFn .doorbellInvalid (queueParam i q.fn)

/-- Count a write in CIRQ_DB_REJECT (R96, R97). -/
def State.rejectDoorbell (s : State) : State := { s with cirq := { s.cirq with dbReject := satAdd s.cirq.dbReject 1 0xFFFFFFFF } }

/-- The queue a doorbell block belongs to, where a write to it may act: it exists, its function is Enabled, and the writer owns it (R57, R58,
R96, R97). -/
def State.doorQueue (s : State) (d : Door) : Option (Nat × Queue) :=
  match d with
  | .own f l =>
    let x := s.fn f
    if f = 0 ∨ x.phase ≠ .enabled ∨ x.qCount ≤ l then none
    else (tget? s.queues (x.qBase + l)).bind fun q => if q.fn = f then some (x.qBase + l, q) else none
  | .pf0 i =>
    (tget? s.queues i).bind fun q => if q.fn = 0 ∧ (s.fn 0).phase = .enabled then some (i, q) else none

/-- A doorbell write to SQ_TAIL (R95, R98): the new tail exposes entries, each with the time of this write's capture. -/
def State.ringTail (s : State) (i : Nat) (q : Queue) (v : Nat) : State :=
  if q.depth ≤ v then s.refuseDoorbell i q
  else s.modQ i fun x =>
    let y := { x with sqTail := v }
    let n := y.waiting
    { y with exposed := (x.exposed ++ List.replicate (n - x.exposed.length) s.now).take n }

/-- A doorbell write to CQ_HEAD (R95, R98): slots free, and a waiting replay goes on. -/
def State.ringHead (s : State) (i : Nat) (q : Queue) (v : Nat) : State :=
  if q.depth ≤ v then s.refuseDoorbell i q
  else if q.unread < (v + q.depth - q.cqHead) % max 1 q.depth then s.refuseDoorbell i q
  else (s.modQ i fun x => Queue.liveEvents { x with cqHead := v }).replayStep i

/-- A write to CQ_INT (R126): a mask that clears raises the vector where a CQE is not yet signalled. -/
def State.ringMask (s : State) (i : Nat) (q : Queue) (v : Nat) : State :=
  let s1 := s.modQ i fun x => { x with mask := bit v 0 }
  if q.mask && !bit v 0 && decide (0 < q.unsignalled) then s1.signalCq i else s1

/-! ## Events (R122 to R124) -/

/-- The block left service because of Cirque, so that no entry is written (R547). -/
def State.cirqueLost (s : State) : Bool := s.loess.oos && s.loess.oosEngine == 0x0700

/-- Cirque works: the stages run, it is neither in reset nor fenced, and it is not what took the block out of service. -/
def State.cirqueRuns (s : State) : Bool := s.stagesRun && !s.engDown 0x0700 && !s.cirqueLost

/-- Write the first pending event of a function where its admin CQ has the grant: one of the four slots is free (R102, R114, R123). -/
def State.writeEvent (s : State) (f : Nat) : State :=
  match s.queueAt? f 0, (s.fn f).events with
  | some (i, q), e :: t =>
    if !s.cirqueRuns || s.pwr.cut || !s.eventDue i q || s.cqeGrant != some i then s
    else (((s.updFn f fun x => { x with events := t }).tookCqe i).emitCqe i e.cqe).replayOnward
  | _, _ => s

end Sys2Proof.Machine
end

