-- ==== Sys2Proof/Machine/AdmitOps.lean ====
section
/-! DEFINITION. Admission of a fetched entry (R105): checks 1 to 5, the checks of an I/O command's handle, variant, parameters, batch and
buffers that form check 6 (R638), acceptance with its pins (R106, R183, R292), and an entry's refusal. -/

namespace Sys2Proof.Machine

open Sys2Proof

/-! ## Checks 1 to 5, and what the block refuses as a whole (R105, R160, R548) -/

/-- Admin commands that run before TOPO_COMMIT (R160). -/
def runsUncommitted (op : Nat) : Bool := [0x00, 0x01, 0x02, 0x03, 0x18, 0x19, 0x1F, 0x20].contains op

/-- Admin commands that run while the block is out of service (R548). -/
def runsOutOfService (op : Nat) : Bool := [0x00, 0x50, 0x51].contains op

/-- The first failing check of checks 1 to 5. -/
def State.checkEntry (s : State) (q : Queue) (b : Blob) : Option Status :=
  let op := sqeOpcode b
  if sqeGeneration b ≠ (s.fn q.fn).generation then some .generationMismatch
  else if !sqeReservedOk b then some .invalidField
  else if !queueAccepts q op then some .invalidOpcode
  else if sqeClass b ≠ q.cls then some .classNotPermitted
  else if q.admin then
    if s.loess.oos && !runsOutOfService op then some .outOfService
    else if q.fn = 0 ∧ !s.topo.committed ∧ !runsUncommitted op then some .topologyNotCommitted
    else none
  else if (s.ctxOf q.fn (sqeContext b)).isNone then some .invalidContext
  else if s.loess.oos then some .outOfService
  else none

/-! ## Check 6, before the batch is read -/

/-- The version of a graph that a command accepted now would pin. -/
def Graph.nodes (g : Graph) : List Node := tget g.versions [] g.current

/-- Two ranges of addresses overlap. -/
def rangesMeet (a b n : Nat) : Bool := decide (0 < n) && decide (a < b + n) && decide (b < a + n)

/-- The parameter area of an I/O command (R175, R177, R165, R166, assumption 80). -/
def ioParamsOk (b : Blob) : Bool :=
  let op := sqeOpcode b
  paramsReservedOk b &&
  if opRunsGraph op then
    arithFieldsOk (ioArith b) && arithFormatsOk (ioArith b) &&
      (!opIsStep op || (decide (1 ≤ ioBatchCount b) && decide (ioBatchCount b ≤ 65536)))
  else
    sqeHandle b == 0 && sqeVariant b == 0 &&
      (if op == 0x84 then !rangesMeet (fld b 24 8) (fld b 32 8) (fld b 40 8) else true)

/-- A sequence that a command of a context may name (R433). -/
def State.seqOk (s : State) (x i : Nat) : Bool :=
  match tget? s.snow.seqs i with
  | some q => q.ctx == x && !q.leaving
  | none => false

/-- The variant a command names: none of the function, or one that a cut update tore (R149, R381). -/
def State.variantMissing (s : State) (f v : Nat) : Bool :=
  match s.variantOfFn f v with
  | some x => x.torn
  | none => true

/-- The pool of a context, where it is a member. -/
def State.poolOfCtx (s : State) (x : Ctx) : Option Pool := if x.pool = 0 then none else tget? s.pools x.pool

/-- A variant that a command names clashes with the context's image or with its pool (R172, R193). -/
def State.variantClash (s : State) (f : Nat) (x : Ctx) (v : Nat) : Option Status :=
  if v = 0 then (if (s.poolOfCtx x).isSome then some .poolConfigMismatch else none)
  else if s.variantMissing f v then some .invalidVariant
  else match s.variantOfFn f v with
    | some y =>
      if y.image ≠ x.image then some .variantImageMismatch
      else match s.poolOfCtx x with
        | some p => if p.variant ≠ v then some .poolConfigMismatch else none
        | none => none
    | none => some .invalidVariant

/-- Commands in flight that name a variant, by a condition on them. -/
def State.variantUsed (s : State) (v : Nat) (p : Cmd → Bool) : Bool :=
  tany s.cmds fun _ c => !c.admin && !c.refused && c.unfinished && c.variants.any (·.id == v) && p c

/-- The state of a variant refuses a command that names it (R173, R174, R357), a seal before a change (DESIGN CHOICE, assumption 179). -/
def State.variantState (s : State) (op v : Nat) : Option Status :=
  match tget? s.silt.variants v with
  | none => none
  | some y =>
    if op == 0x81 && (y.sealed || !y.sealCmds.isEmpty) then some .variantSealed
    else if y.changer.isSome then some .busy
    else if s.variantUsed v (·.opcode == 0x81) then some .busy
    else if op == 0x81 && s.variantUsed v (fun _ => true) then some .busy
    else none

/-- The image's state refuses a command of a context (R293). -/
def State.imageRefuses (s : State) (x : Ctx) : Option Status :=
  match tget? s.firn.images x.image with
  | none => some .invalidImage
  | some i =>
    if i.state < 3 then some .invalidImage
    else if i.state = 4 then (if x.pool = 0 then some .busy else none)
    else if i.state = 5 then
      match s.poolOfCtx x with
      | some p => if (tget? i.versions p.imageVer).any fun v => !v.poisoned then none else some .basePoisoned
      | none => some .basePoisoned
    else none

/-- A cluster of a context has been fenced away from it (R541). -/
def State.ctxFenced (s : State) (x : Ctx) : Bool := x.clusterList.any fun u => (s.eng (seracEngine u)).fenced

/-- The capability identifier that a cluster's record declares, and its trains flag (R163, R180, R314). -/
def State.capOf (s : State) (u : Nat) : Nat := fld (s.clusterRec u) 0 4
/-- The format code of a cluster's tap data (R163). -/
def State.tapFormat (s : State) (u : Nat) : Nat := fld (s.clusterRec u) 7 1
def State.trains (s : State) (u : Nat) : Bool := bit (fld (s.clusterRec u) 4 1) 1

/-- The first of a list of answers. -/
def firstSome (l : List (Option Status)) : Option Status := l.findSome? id

/-- A condition that fails with a status. -/
def failIf (c : Bool) (st : Status) : Option Status := if c then some st else none

/-- Spans of a graph version, with the codes of their buffers (R252, R393). -/
def spansOf (n : List Node) : List Span := n.flatMap fun x => x.tiles.flatMap (·.spans)

/-- Check 6 up to the point where the batch is read (R638). A handle of a reserved kind, or with reserved bits set, gives INVALID_HANDLE (DESIGN
CHOICE, assumption 178); the place of the last two checks and of INVALID_IMAGE is the model's (DESIGN CHOICE, assumption 180). -/
def State.checkObjects (s : State) (q : Queue) (b : Blob) (x : Ctx) : Option Status :=
  let op := sqeOpcode b
  let v := sqeVariant b
  let graph := if opRunsGraph op then s.graphOf q.fn (sqeHandle b) else none
  firstSome [
    failIf (!ioParamsOk b) .invalidField,
    failIf (opRunsGraph op && x.clusterList.any fun u => s.tapFormat u != bits (ioArith b) 3 0) .invalidField,
    failIf (opRunsGraph op && (graph.isNone || sqeHandle b / 2 ^ 30 != (if op == 0x83 then 1 else 0))) .invalidHandle,
    failIf (opRunsGraph op && v != 0 && s.variantMissing q.fn v) .invalidVariant,
    failIf ((op == 0x89 || op == 0x8A) && !s.seqOk (sqeContext b) (fld b 24 4)) .invalidField,
    failIf (s.ctxFenced x) .notPermitted,
    if opRunsGraph op && (v != 0 || !opIsStep op) then s.variantClash q.fn x v else none,
    (match s.poolOfCtx x with
     | some p => failIf (p.cls != q.cls || (opRunsGraph op && p.arith != ioArith b)) .poolConfigMismatch
     | none => none),
    s.imageRefuses x,
    failIf (opRunsGraph op && x.clusterList.any fun u => graph.any fun g => g.cap != s.capOf u) .capabilityMismatch,
    failIf (op == 0x81 && x.clusterList.any fun u => !s.trains u) .capabilityMismatch,
    if opRunsGraph op && v != 0 then s.variantState op v else none,
    failIf (op == 0x88 && s.tokenBytes x.image == 0) .invalidField,
    failIf (graph.any fun g => (spansOf g.nodes).any fun z => !opGives op z.buffer) .invalidField ]

/-! ## The batch (R175, R176, R376) -/

/-- Every page of a range is mapped with read rights. -/
def readable (ls : List Leaf) (va len : Nat) : Bool :=
  (translate ls va len).all fun g => match g with | .hit l _ _ => l.rd | .hole _ _ => false

/-- Bytes that other chips answered, split over the remote pieces of a span, by their addresses. -/
def awayData (s : State) : List Seg → Blob → List (Nat × Blob)
  | [], _ => []
  | .hole _ _ :: t, b => awayData s t b
  | .hit l v n :: t, b =>
    if l.node = s.nodeId then awayData s t b
    else (dpaOf l.key l.node l.tier (l.offset + (v - l.va)), padTo n b) :: awayData s t (b.drop n)

/-- No element of a list occurs twice. -/
def allDistinct : List Nat → Bool
  | [] => true
  | a :: t => !t.contains a && allDistinct t

/-- Bytes that a training step saves for a variant, for each token (R364, R376). -/
def Variant.tokenSave (v : Variant) : Nat :=
  ((v.entries.filter fun e => bit e.kinds 1).map fun e => 2 * e.dimOut).sum

/-- The batch of a step after it has been read (R175, R176, R433, R172, R193, R173, R174, R357, R376): first what INVALID_FIELD says of all
entries, then the variants they name (assumption 143), and last whether they may be trained (DESIGN CHOICE, assumption 180). -/
def State.checkBatch (s : State) (q : Queue) (b : Blob) (x : Ctx) (l : List BatchEnt) : Option Status :=
  let op := sqeOpcode b
  let seqs := (l.map (·.seq)).filter (· != 0)
  let vs := nubBy (l.map (·.variant))
  let named := vs.filter (· != 0)
  firstSome [
    failIf (l.any fun e => e.tokens == 0) .invalidField,
    failIf (!allDistinct seqs || decide (4096 < vs.length)) .invalidField,
    failIf (seqs.any fun i => !s.seqOk (sqeContext b) i) .invalidField,
    failIf (op == 0x81 && vs.contains 0) .invalidField,
    vs.findSome? fun v => s.variantClash q.fn x v,
    named.findSome? fun v => s.variantState op v,
    failIf (op == 0x81 && named.any fun v =>
      match tget? s.silt.variants v with
      | some y => !y.trainable || decide (y.saveBytes < ((l.filter (·.variant == v)).map (·.tokens)).sum * y.tokenSave)
      | none => true) .invalidField ]

/-! ## Buffers (R252 to R254, R437) -/

/-- The extents that a command's tiles declare: buffer, access, address and length, each once. -/
def tileExtents (b : Blob) (nodes : List Node) : List (Nat × Nat × Nat × Nat) :=
  ((spansOf nodes).filter fun z => z.buffer != 4 || !opIsStep (sqeOpcode b)).foldl (fun acc z =>
    let e := (z.buffer, z.access, ioBufAddr b z.buffer + z.offset, z.length)
    if acc.contains e then acc else acc ++ [e]) []

/-- One buffer's extents cut where they begin and end, each byte once, with the accesses of all that take it in; neighbours of one access are
one span (R252). -/
def cutExtents (l : List (Nat × Nat × Nat × Nat)) (buf : Nat) : List (Nat × Nat × Nat × Nat) :=
  let mine := l.filter (·.1 == buf)
  let pts := sortNat (nubBy (mine.flatMap fun e => [e.2.2.1, e.2.2.1 + e.2.2.2]))
  (pts.zip (pts.drop 1)).foldl (fun acc p =>
    let here := mine.filter fun e => decide (e.2.2.1 ≤ p.1) && decide (p.2 ≤ e.2.2.1 + e.2.2.2)
    if here.isEmpty then acc
    else
      let a := bitsMask (nubBy (here.flatMap fun e => maskBits 3 e.2.1))
      match acc.getLast? with
      | some e => if e.2.1 = a ∧ e.2.2.1 + e.2.2.2 = p.1 then acc.dropLast ++ [(buf, a, e.2.2.1, p.2 - e.2.2.1)] else acc ++ [(buf, a, p.1, p.2 - p.1)]
      | none => acc ++ [(buf, a, p.1, p.2 - p.1)]) []

/-- The spans of a command's buffers that Cirque translates: what its parameters give and what its tiles touch (R252). -/
def bufferSpans (b : Blob) (nodes : List Node) : List (Nat × Nat × Nat × Nat) :=
  (List.range 8).flatMap (cutExtents (ioExtents b ++ tileExtents b nodes))

/-- The pages of a step's key/value space that its tiles touch. -/
def kvPages (nodes : List Node) : List Nat :=
  ((spansOf nodes).filter (·.buffer == 4)).foldl (fun acc z =>
    ((List.range ((z.offset + z.length - 1) / 262144 - z.offset / 262144 + 1)).map (z.offset / 262144 + ·)).foldl
      (fun a p => if a.contains p then a else a ++ [p]) acc) []

/-- A descriptor of a new command as Cirque fills it: one that overlaps an invalidation of its context that Cirque has acknowledged and that has not
completed is not filled, and is stale, since the tables that tiles see are older (R263, R264). -/
def State.unfilled (s : State) (x : Nat) (d : Desc) : Desc :=
  if s.esk.invals.any fun i => i.ctx == x && i.acked.contains 0x0700 && d.overlaps i.lo i.hi then
    { d with stale := true, slots := d.slots.map fun _ => .hole }
  else d

/-- The descriptor chains of a command (R252); those of key/value pages are stale until provisioning (R437). -/
def State.descsOf (s : State) (b : Blob) (x : Ctx) (nodes : List Node) : List Desc :=
  ((bufferSpans b nodes).flatMap fun e => chain x e.1 e.2.1 e.2.2.1 e.2.2.2).map (s.unfilled (sqeContext b)) ++
    (if opIsStep (sqeOpcode b) then
      (kvPages nodes).map fun p =>
        { buffer := 4, access := 3, va := p * 262144, len := 262144, epoch := x.epoch, stale := true, slots := [.hole, .hole, .hole, .hole] }
     else [])

/-- A translation of a command goes through a table page that reads uncorrectable (R257). -/
def badTranslation (b : Blob) (x : Ctx) (nodes : List Node) : Bool :=
  (bufferSpans b nodes).any fun e => x.badAt e.2.2.1 e.2.2.2

/-! ## Acceptance and refusal -/

/-- A record number is free (R109, R139). -/
def State.recordFree (s : State) : Bool := decide (s.recordsUsed < 16384)

/-- The record of an entry as it leaves the fetched entries of its queue. -/
def State.recordOf (s : State) (i : Nat) (q : Queue) (e : Fetched) : Cmd :=
  let b := e.sqe
  { q := i, fn := q.fn, gen := sqeGeneration b, sqe := b, opcode := sqeOpcode b, cls := q.cls,
    ctx := if q.admin then 0 else sqeContext b, sqHead := e.headAfter, capture := e.capture, accept := s.now,
    deadline := s.now + 1000 * (if sqeTimeout b = 0 then (s.fn q.fn).timeoutUs else sqeTimeout b), admin := q.admin,
    no := s.cirq.admits + 1, prevNo := q.lastNo }

/-- The command before an entry in its SQ has not completed, and the entry is not concurrent, so that its completion follows that command's
(R110, R111). -/
def State.refusalWaits (s : State) (c : Cmd) : Bool :=
  !sqeConcurrent c.sqe && tany s.cmds fun _ p => p.no == c.prevNo && p.q == c.q && p.unfinished

/-- An entry that fails a check is completed with its status (R105, R120): at once, or in ring order where it is not concurrent (R111). Its
times are those of the attempt. -/
def State.refuseEntry (s : State) (c : Cmd) (st : Status) : State :=
  let r := tfree s.cmds 0
  let n := if s.refusalWaits c then 0 else 1
  { s with
    cmds := tset s.cmds r { c with
      gen := (s.fn c.fn).generation, refused := true, stage := .completed, status := st, start := some s.now, endT := s.now
      order := n * (s.ledg.compCount + 1) }
    ledg := { s.ledg with compCount := s.ledg.compCount + n } }

/-- What a variant is when a command is accepted (R496). -/
def State.snapOf (s : State) (v : Nat) : Option VarSnap :=
  (tget? s.silt.variants v).map fun y => { id := v, rev := y.rev, digestRev := y.digestRev, digest := y.digest }

/-- The image version that a command of a context pins at acceptance: its pool's, or the current one (R190, R292). -/
def State.pinOf (s : State) (x : Ctx) : Nat :=
  match s.poolOfCtx x with
  | some p => p.imageVer
  | none => match tget? s.firn.images x.image with | some i => i.current | none => 0

/-- A released sequence is leaving from acceptance on (R451). -/
def State.markLeaving (s : State) (r : Nat) (c : Cmd) : State :=
  if c.opcode == 0x89 then
    { s with snow := { s.snow with seqs := tmod s.snow.seqs (fld c.sqe 24 4) fun q => { q with leaving := true, releaser := some r } } }
  else s

/-- A command accepted while its context holds a turn on a cluster has that turn counted among its quanta (R415). -/
def State.countHeld (s : State) (r : Nat) (c : Cmd) : State :=
  let l := ((s.clustersOf c.ctx).filter fun u => (s.unit u).turn.any (fun t => t.ctx == some c.ctx) && s.openOn u r c).map fun u =>
    match (s.unit u).turn with | some t => t.no | none => 0
  s.modCmd r fun x => { x with quanta := x.quanta + l.length, firstTurn := (sortNat l).headD 0 }

/-- A command admitted is the one before the next entry of its SQ; an entry refused never became work (R105, R110). -/
def State.noteAdmitted (s : State) (c : Cmd) : State := s.modQ c.q fun y => { y with lastNo := c.no }

/-- Accept an I/O command: it pins its versions, its variants are noted as they are, its descriptors are written, and a boundary of
Snowpack follows a step, a leave and SEQ_CREATE (R106, R252, R438, R439). -/
def State.acceptIo (s : State) (c : Cmd) (x : Ctx) (l : List BatchEnt) (nodes : List Node) (gv : Nat) : State :=
  let r := tfree s.cmds 0
  let c1 := { c with
    handle := if opRunsGraph c.opcode then sqeHandle c.sqe else 0, graphVer := gv, image := x.image, imageVer := s.pinOf x
    imageDigest := s.imageDigest x.image (s.pinOf x)
    variants := (namedVariants c.sqe l).filterMap s.snapOf, batch := l, descs := s.descsOf c.sqe x nodes, pool := x.pool
    quantumUs := match s.poolOfCtx x with | some p => p.quantumUs | none => 0
    waitProv := l.any fun e => e.seq != 0, unit := x.clusterList.headD 0 }
  let s1 := (({ s with cmds := tset s.cmds r c1 }.noteAdmitted c).modCtx c.ctx fun y => { y with cls := c.cls }).markLeaving r c1
  let s1 := s1.countHeld r c1
  let s2 := if opIsStep c.opcode || c.opcode == 0x88 || c.opcode == 0x89 || c.opcode == 0x8A then s1.passBoundary.syncSeqs else s1
  if badTranslation c.sqe x nodes then s2.fail r .memoryUncorrectable else s2

/-- The first piece of a range that lies in Vexzer's own memory under Glaze, as the request that reads it, with its Varve slot and page. -/
def State.glazedAt (s : State) (c : Cmd) (x : Ctx) (va len : Nat) : Option (MemReq × Nat × Nat) :=
  (translate x.leaves va len).findSome? fun g => match g with
    | .hole _ _ => none
    | .hit l v _ =>
      let off := l.offset + (v - l.va)
      if l.node ≠ s.nodeId || l.prot ≠ 0 then none
      else (s.slotOf l.tier (off / frameBytes)).map fun e =>
        ({ fn := c.fn, gen := c.gen, ctx := c.ctx, key := l.key, tier := l.tier, offset := off / 512 * 512, len := 512 }, e.1, off % frameBytes / 4096)

/-- What the path of a batch read that Glaze serves may end it with (R176, R483, R486): a failed check halts the block and answers no status;
a node that reads uncorrectable makes its subtree unverifiable. -/
def State.batchPath (s : State) (c : Cmd) (x : Ctx) (va len : Nat) (ecc : Ecc) (chk : PathCheck) : Option (Option Status × State) :=
  match s.glazedAt c x va len with
  | none => none
  | some (q, k, p) =>
    match chk with
    | .good => none
    | .nodeEcc l => some (some .integrityUnverifiable, s.unverifiable (min l 3) (nodePos (min l 3) k p) none)
    | .badMac l => some (none, s.halt (s.sealFor q 2 (min l 3) k p))
    | .badTag =>
      if ecc = .uncorrectable ∨ ecc = .poisoned then none else some (none, s.halt (s.sealFor q 1 255 k p))

/-- The bytes of a step's batch, read through the context's translation at admission, or the status that ends the read, or none where the
block has halted (R176). -/
def State.readBatch (s : State) (c : Cmd) (x : Ctx) (ecc : Ecc) (chk : PathCheck) (away : Blob) : Except (Option Status) Blob × State :=
  if !opIsStep c.opcode then (.ok [], s)
  else
    let va := ioBufAddr c.sqe 2
    let n := 16 * ioBatchCount c.sqe
    if x.badAt va n then (.error (some .memoryUncorrectable), s)
    else if !readable x.leaves va n then (.error (some .invalidField), s)
    else match s.batchPath c x va n ecc chk with
      | some (st, t) => (.error st, t)
      | none =>
        if ecc = .uncorrectable ∨ ecc = .poisoned then (.error (some .memoryUncorrectable), s)
        else
          let y := s.readVa 16384 { c with remoteData := awayData s (translate x.leaves va n) away } x.leaves va n
          if y.2.esk.fktCount ≠ s.esk.fktCount then (.error (some .frameKeyDenied), y.2) else (.ok y.1, y.2)

/-- Admission check 6 and acceptance of an I/O entry. -/
def State.admitIo (s : State) (q : Queue) (c : Cmd) (x : Ctx) (ecc : Ecc) (chk : PathCheck) (away : Blob) : State :=
  match s.checkObjects q c.sqe x with
  | some st => s.refuseEntry c st
  | none =>
    match s.readBatch c x ecc chk away with
    | (.error none, s1) => s1
    | (.error (some st), s1) => s1.refuseEntry c st
    | (.ok bytes, s1) =>
      let l := if opIsStep c.opcode then batchOf c.sqe bytes else []
      let g := if opRunsGraph c.opcode then s1.graphOf q.fn (sqeHandle c.sqe) else none
      let nodes := match g with | some y => y.nodes | none => []
      let st := if opIsStep c.opcode then s1.checkBatch q c.sqe x l else none
      match st with
      | some e => s1.refuseEntry c e
      | none =>
        if 1048576 < (s1.descsOf c.sqe x nodes).length then s1.refuseEntry c .invalidField
        else s1.acceptIo c x l nodes (match g with | some y => y.current | none => 0)

/-- Room in the descriptor backing for the chains of an entry (R254). -/
def State.backingRoom (s : State) (q : Queue) (b : Blob) : Bool :=
  if q.admin then true
  else match s.ctxOf q.fn (sqeContext b) with
    | none => true
    | some x =>
      let nodes := match s.graphOf q.fn (sqeHandle b) with | some g => if opRunsGraph (sqeOpcode b) then g.nodes else [] | none => []
      let n := (s.descsOf b x nodes).length
      decide (1048576 < n) || decide (s.descCount + n ≤ descRoom)

/-- Cirque admits: no Enabled function's oldest fetched entry lacks room in the descriptor backing (R254, assumption 144). -/
def State.admitsOpen (s : State) : Bool :=
  s.queues.all fun e => (s.fn e.2.fn).phase != .enabled || e.2.fetched.head?.all fun x => s.backingRoom e.2 x.sqe

/-- An entry leaves the fetched list of its queue, and its admission number is taken. -/
def State.takeEntry (s : State) (i : Nat) (q : Queue) (e : Fetched) (rest : List Fetched) : State :=
  let s0 := (s.progress 0x0700).modQ i fun y => { y with fetched := rest }
  { s0 with cirq := { s0.cirq with admits := (s.recordOf i q e).no } }

/-- Admit the oldest fetched entry of a queue (R105). -/
def State.admitOne (s : State) (i : Nat) (ecc : Ecc) (chk : PathCheck) (away : Blob) : State :=
  match tget? s.queues i with
  | none => s
  | some q =>
    match q.fetched with
    | [] => s
    | e :: t =>
      if !s.stagesRun || s.engDown 0x0700 || !s.recordFree || !s.admitsOpen || (s.fn q.fn).phase != .enabled then s
      else
        let c := s.recordOf i q e
        let s1 := s.takeEntry i q e t
        let s2 := match s1.checkEntry q e.sqe with
          | some st => s1.refuseEntry c st
          | none =>
            if q.admin then ({ s1 with cmds := tset s1.cmds (tfree s1.cmds 0) c } : State).noteAdmitted c
            else match s1.ctxOf q.fn (sqeContext e.sqe) with
              | some x => s1.admitIo q c x ecc chk away
              | none => s1.refuseEntry c .invalidContext
        s2.settle

/-! ## Fetch (R93, R102, R103, R138, R148, R160, R254, R547) -/

/-- A completion that waited for the ledger cut to be lifted has not had its CQE yet: fetching resumes after it (R603). -/
def State.liftWaits (s : State) : Bool :=
  s.cmds.any fun e => (e.2.stage == .completed || e.2.stage == .receipted) && e.2.order != 0 && decide (e.2.order ≤ s.pwr.lifted)

/-- Reasons for which Cirque does not fetch from a queue that is not empty (R93's fetch_stopped), apart from the queue's own room:
Cirque in reset or fenced among them, and no room in the descriptor backing for the chains of an entry that waits for admission (R254, R529). -/
def State.fetchBarred (s : State) (q : Queue) : Bool :=
  let f := s.fn q.fn
  q.sqBroken || q.cqBroken || f.phase != .enabled || s.pwr.target != .active || s.liftWaits ||
    (s.loess.oos && !(q.admin && q.fn == 0)) ||
    (if q.admin then s.loess.restart.isSome || s.tarn.patchCmd.isSome else f.fetchStopped || !s.topo.committed) ||
    s.engDown 0x0700 || decide (descRoom ≤ s.descCount) || !s.admitsOpen

/-- How many entries a fetch may take (R102, R103, R109, R148). -/
def State.fetchSize (s : State) (i : Nat) (q : Queue) : Nat :=
  let reserved := s.slotsDue i + (if q.admin then 4 else 0)
  [8, q.depth - q.sqHead, q.waiting, q.inflightMax - (s.inflight i + q.incoming), q.freeSlots - (reserved + q.incoming),
   16384 - (s.recordsUsed + s.incomingAll)].foldl min
    (if q.admin then 64 - (s.adminRunning + s.incomingAdmin) else 8)

/-- Cirque may fetch from a queue now. -/
def State.fetchable (s : State) (i : Nat) : Bool :=
  match tget? s.queues i with
  | some q => s.stagesRun && !s.fetchBarred q && q.fetching == 0 && decide (0 < s.fetchSize i q)
  | none => false

/-- A queue has no room for one more command, whatever a fetch in flight brings: inflight_max is reached, no CQ slot is spare, no command
record is free, or Tarn runs 64 admin commands (R93). -/
def State.roomGone (s : State) (i : Nat) (q : Queue) : Bool :=
  decide (q.inflightMax ≤ s.inflight i) || decide (q.freeSlots ≤ s.slotsDue i + (if q.admin then 4 else 0)) ||
    decide (16384 ≤ s.recordsUsed) || (q.admin && decide (64 ≤ s.adminRunning))

/-- fetch_stopped of Q_STATUS (R93): the SQ is not empty and Cirque cannot fetch from it; a read in flight is no reason of its own. -/
def State.qStopped (s : State) (i : Nat) (q : Queue) : Bool :=
  decide (0 < q.waiting) && (s.fetchBarred q || s.roomGone i q || (q.fetching == 0 && decide (s.fetchSize i q = 0)))

/-- Fetchable queues of a class. -/
def State.fetchables (s : State) (k : Nat) : List Nat := tfind s.queues fun i q => q.cls == k && s.fetchable i

/-- The queue the fetch arbiters grant next: the class by the frame's slot, the queue in round robin on queue ID; and the slot that then
follows (R114). -/
def State.fetchGrant (s : State) : Option (Nat × Nat) :=
  (List.range 8).findSome? fun d =>
    let i := (s.cirq.fetchSlot + d) % 8
    let l := s.fetchables (patternClass i)
    let last := s.cirq.fetchLast.getD (patternClass i) 0
    (roundRobin last l).map fun x => (x, (i + 1) % 8)

/-- Take a grant for a queue: the read of its entries is issued (R102, R114). -/
def State.grantFetch (s : State) (i : Nat) (slot : Nat) : State :=
  match tget? s.queues i with
  | none => s
  | some q =>
    let n := s.fetchSize i q
    let s1 := ((s.progress 0x0700).modQ i fun x => { x with fetching := n, fetchDead := false }).hostRead q.fn (q.sqBase + 64 * q.sqHead) (64 * n)
    { s1 with cirq := { s1.cirq with fetchSlot := slot, fetchLast := setAt s1.cirq.fetchLast q.cls (i + 1) } }

end Sys2Proof.Machine
end

