-- ==== Sys2Proof/Machine/Flags.lean ====
section
/-! DEFINITION. The status words that registers and result blocks show, each computed from the state (R61, R93, R145, R218 and the register
tables of the other chapters). -/

namespace Sys2Proof.Machine

open Sys2Proof

/-- VX_VERSION (R3, R61). -/
def State.versionWord (s : State) : Nat :=
  at_ 0x0562 48 + at_ 0xB0 40 + at_ 0x02 32 + at_ 0x00 24 + at_ 0x02 16 + at_ 0x01 8 + b2n s.tarn.patchLoaded

/-- The keys assigned to a function (R158), in increasing ID. -/
def State.keysOf (s : State) (f : Nat) : List Nat := tfind s.kao.slots fun k x => decide (16 ≤ k) && x.owner == some f

end Sys2Proof.Machine
end

