-- ==== Sys2Proof/Machine/AdminQueues.lean ====
section
/-! DEFINITION. IDENTIFY, QP_CREATE, QP_DELETE and CQ_RESUME (R90, R92, R141, R155 to R157). -/

namespace Sys2Proof.Machine

open Sys2Proof

/-- The result block of IDENTIFY (R155). -/
def State.identity (s : State) (f : Nat) : Blob :=
  let x := s.fn f
  let k := s.keysOf f
  leBytes 8 s.versionWord ++ leBytes 2 f ++ leBytes 2 x.qCount ++ leBytes 2 x.generation ++ leBytes 2 k.length ++
    leBytes 2 (k.headD 0) ++ zeros 2 ++ leBytes 4 x.clusters

/-- IDENTIFY. -/
def execIdentify (r : Nat) (io : HostIo) (s : State) : Out :=
  .next (s.runAdmin r 0x00 fun t c => t.answer r c io (t.identity c.fn) id)

/-- The function that a queue command names: its own on a function admin queue, where the field must be zero; on the device admin queue
the field's (R156). -/
def namedFn (c : Cmd) (field : Nat) : Option Nat :=
  if c.fn = 0 then (if field < 4096 then some field else none) else if field = 0 then some c.fn else none

/-- The attributes of a QP_CREATE are in range (R90). -/
def qpRangeOk (b : Blob) (f loc : Nat) : Bool :=
  decide (fld b 32 8 % 4096 = 0) && decide (fld b 40 8 % 4096 = 0) &&
  decide ((if loc = 0 then 16 else 2) ≤ fld b 48 4) && decide (fld b 48 4 ≤ 65536) &&
  (if loc = 0 then fld b 54 1 == 0 else decide (fld b 54 1 < 3)) && decide (fld b 55 1 ≤ if f = 0 then 255 else 7) &&
  decide (1 ≤ fld b 56 2) && decide (fld b 56 2 ≤ 256) && decide (1 ≤ fld b 58 2) && decide (fld b 58 2 ≤ 256) &&
  decide (fld b 60 2 ≤ 1023)

/-- The checks of QP_CREATE (R90, R92, R145, R156, R157, R638). -/
def State.checkQpCreate (s : State) (c : Cmd) (f loc : Nat) : Option Status :=
  let b := c.sqe
  let x := s.fn f
  firstSome [
    failIf (!qpRangeOk b f loc || decide (x.qCount ≤ loc) || decide (8192 ≤ s.qid f loc) || (loc == 0 && c.fn != 0)) .invalidField,
    failIf (loc != 0 && !bit x.classes (fld b 54 1)) .classNotPermitted,
    failIf (loc == 0 && x.phase != .disabled) .busy,
    failIf (loc != 0 && f != 0 && x.phase != .enabled) .notReady,
    failIf (tany s.queues fun i _ => i == s.qid f loc) .busy ]

/-- QP_CREATE. -/
def execQpCreate (r : Nat) (_io : HostIo) (s : State) : Out :=
  .next (s.runAdmin r 0x01 fun t c =>
    let b := c.sqe
    let loc := fld b 52 2
    match namedFn c (fld b 62 2) with
    | none => t.report r .invalidField
    | some f =>
      match t.checkQpCreate c f loc with
      | some st => t.report r st
      | none =>
        let q : Queue :=
          { fn := f, admin := loc == 0, sqBase := fld b 32 8, cqBase := fld b 40 8, depth := fld b 48 4, cls := fld b 54 1,
            inflightMax := fld b 56 2, vector := fld b 55 1, intCount := fld b 58 2, intTime := fld b 60 2 }
        ({ t with queues := tset t.queues (t.qid f loc) q } : State).commit r)

/-- The checks that QP_DELETE and CQ_RESUME share: the queue ID they name, or their status (R92, R156, R157). -/
def State.namedQueue (s : State) (c : Cmd) (delete : Bool) : Except Status (Nat × Queue) :=
  let loc := fld c.sqe 32 2
  match namedFn c (fld c.sqe 34 2) with
  | none => .error .invalidField
  | some f =>
    let x := s.fn f
    if x.qCount ≤ loc ∨ (loc = 0 ∧ c.fn ≠ 0) then .error .invalidField
    else if loc = 0 ∧ f = 0 ∧ !delete then .error .invalidField
    else if delete ∧ loc = 0 ∧ x.phase ≠ .disabled then .error .busy
    else if f ≠ 0 ∧ x.phase ≠ .enabled ∧ !(delete ∧ loc = 0) then .error .notReady
    else match s.queueAt? f loc with
      | some e => .ok e
      | none => .error .invalidField

/-- A queue has commands in flight, or completions parked or held (R92). -/
def State.queueBusy (s : State) (i : Nat) (q : Queue) : Bool :=
  decide (0 < s.slotsDue i) || decide (0 < q.incoming) || !q.parked.isEmpty || !q.held.isEmpty

/-- QP_DELETE. -/
def execQpDelete (r : Nat) (_io : HostIo) (s : State) : Out :=
  .next (s.runAdmin r 0x02 fun t c =>
    match t.namedQueue c true with
    | .error st => t.report r st
    | .ok (i, q) =>
      if t.queueBusy i q then t.report r .busy else ({ t with queues := tdel t.queues i } : State).commit r)

/-- CQ_RESUME: the confirming read of the first slot, then the replay (R141, R142). -/
def execCqResume (r : Nat) (io : HostIo) (s : State) : Out :=
  .next (s.runAdmin r 0x03 fun t c =>
    match t.namedQueue c false with
    | .error st => t.report r st
    | .ok (i, q) =>
      let t1 := t.hostRead q.fn (q.cqBase + 28) 4
      if io.read ≠ .ok ∨ q.replay.isSome then t1.report r .cqStillBroken
      else ((t1.modQ i fun x => { x with replay := some (some r), replayOn := true }).handOver r).replayStep i)

end Sys2Proof.Machine
end

