-- ==== Sys2Proof/Machine/FnImage.lean ====
section
/-! DEFINITION. What a state blob carries of a function (R234), and its layout in bytes, which the spec leaves to Vexzer. -/

namespace Sys2Proof.Machine

open Sys2Proof

/-- An allocation in a blob: its record, the host bus addresses of its chunks, and its contents from its own offset 0. -/
structure FnAlloc where
  id : Nat
  alloc : Alloc
  addrs : List Nat
  cells : List Host.Cell
deriving DecidableEq, Repr

/-- A sequence in a blob, with the contents of its pages. -/
structure FnSeq where
  id : Nat
  seq : Sequence
  pages : List (List Host.Cell)
deriving DecidableEq, Repr

/-- What the sections of a blob carry (R234, R466): the queues by local index with their parked and held completions, the contexts with their
mappings, the allocations, variants, graphs, sequences and pools, the head of the receipt chain, the tenant records, and the digests of
the images that contexts and pools use. -/
structure FnImage where
  vx1 : Bool
  generation : Nat
  queues : List (Nat × Queue)
  ctxs : Tbl Ctx
  allocs : List FnAlloc
  variants : Tbl Variant
  graphs : List Graph
  seqs : List FnSeq
  pools : List (Nat × Pool × Blob)
  head : Head
  tenants : Tbl Tenant
  images : List (Nat × Blob)
  vx1Frames : List Nat
deriving DecidableEq, Repr

/-- The ten sections of a blob, in the order of R234, with what each carries. -/
inductive Section where
  | queues (l : List (Nat × Queue))
  | contexts (l : Tbl Ctx) (images : List (Nat × Blob))
  | mappings (l : Tbl (List Leaf))
  | allocations (l : List FnAlloc) (vx1Frames : List Nat)
  | variants (l : Tbl Variant) (tenants : Tbl Tenant)
  | graphs (l : List Graph)
  | sequences (l : List FnSeq)
  | pools (l : List (Nat × Pool × Blob))
  | completions (l : List (Nat × List Parked × List Cqe))
  | receiptHead (h : Head)
deriving DecidableEq, Repr

/-- The sections that carry a function (R234). -/
def FnImage.sections (z : FnImage) : List Section :=
  [ .queues (z.queues.map fun e => (e.1, { e.2 with parked := [], held := [] })),
    .contexts (tmap z.ctxs fun _ c => { c with leaves := [] }) z.images,
    .mappings (z.ctxs.map fun e => (e.1, e.2.leaves)),
    .allocations z.allocs z.vx1Frames, .variants z.variants z.tenants, .graphs z.graphs, .sequences z.seqs, .pools z.pools,
    .completions (z.queues.map fun e => (e.1, e.2.parked, e.2.held)), .receiptHead z.head ]

/-- What ten sections in their order carry, with the mode and the generation that the header gives (R233, R234, R237). -/
def FnImage.ofSections (vx1 : Bool) (generation : Nat) : List Section → Option FnImage
  | [.queues q, .contexts c im, .mappings m, .allocations a fr, .variants v tn, .graphs g, .sequences sq, .pools p, .completions k, .receiptHead h] =>
    some {
      vx1 := vx1, generation := generation
      queues := q.map fun e => match k.find? (·.1 == e.1) with | some x => (e.1, { e.2 with parked := x.2.1, held := x.2.2 }) | none => e
      ctxs := tmap c fun i x => { x with leaves := (tget? m i).getD [] }
      allocs := a, variants := v, graphs := g, seqs := sq, pools := p, head := h, tenants := tn, images := im, vx1Frames := fr }
  | _ => none

end Sys2Proof.Machine

namespace Sys2Proof.Config

open Sys2Proof

/-- The bytes of a section's contents, what a block reads from them, and the types that section headers give, by place: they are Vexzer's own (R233,
R234, assumption 3). A block takes only contents that are those of what it reads from them. -/
opaque packSection : Machine.Section → Blob
opaque readSection : Nat → Blob → Option Machine.Section
opaque sectionType : Nat → Nat

end Sys2Proof.Config

namespace Sys2Proof.Machine

open Sys2Proof

/-- The bytes of sections, each behind its header of 16 bytes: the type in bytes 0 to 3 and the length of the contents in bytes 8 to 15 (R233);
`k` is the place of the first. -/
def packSections (k : Nat) : List Section → Blob
  | [] => []
  | x :: t =>
    let b := Config.packSection x
    leBytes 4 (Config.sectionType k) ++ zeros 4 ++ leBytes 8 b.length ++ b ++ packSections (k + 1) t

/-- Read `n` sections from bytes that they fill. -/
def readSections (k : Nat) : Nat → Blob → Option (List Section)
  | 0, b => if b.isEmpty then some [] else none
  | n + 1, b =>
    let len := fld b 8 8
    let body := slice b 16 len
    if b.length < 16 + len ∨ fld b 0 4 ≠ Config.sectionType k % 2 ^ 32 then none
    else match Config.readSection k body with
      | some x => if Config.packSection x = body then (readSections (k + 1) n (b.drop (16 + len))).map (x :: ·) else none
      | none => none

end Sys2Proof.Machine
end

