-- ==== Sys2Proof/Machine/TileOps.lean ====
section
/-! DEFINITION. Tiles: the pieces of a tile's spans, their check before issue, the ISSUE packet, the data of a DONE, and a command's remote
requests (R252 to R266, R393 to R400, R434 to R437, R569). -/

namespace Sys2Proof.Machine

open Sys2Proof

/-! ## Pieces of a span (R253, R434 to R436) -/

/-- Bytes of a piece. -/
def Piece.len : Piece → Nat
  | .hit _ _ n => n | .hole _ n => n | .clip n => n | .table _ n => n

/-- The pieces of a part of a step's key/value space within one entry's layout, page by page (R434 to R436); `fuel` bounds the pages. -/
def State.kvPieces (s : State) (c : Cmd) (ent : Nat) : Nat → Nat → Nat → List Piece
  | 0, _, _ => []
  | f + 1, off, n =>
    if n = 0 then []
    else if ent = 0x10000 then
      let top := 16 * c.stepTab.length
      if off < top then .table off (min n (top - off)) :: State.kvPieces s c ent f (off + min n (top - off)) (n - min n (top - off))
      else [.clip n]
    else
      let k := min n (pageSize - off % pageSize)
      let pages := match c.batch[ent]? with
        | some b => (match tget? s.snow.seqs b.seq with | some q => if b.seq = 0 then [] else q.pages | none => [])
        | none => []
      let here : Piece := match pages[off / pageSize]? with
        | some p =>
          let va := ent * 2 ^ 40 + off / pageSize * pageSize
          .hit { va := va, size := 0, node := s.nodeId, tier := p.tier, offset := p.page * pageSize, key := kvKey, prot := 0, rd := true,
                 wr := true, atomic := false, alloc := 0 } (ent * 2 ^ 40 + off) k
        | none => .clip k
      here :: State.kvPieces s c ent f (off + k) (n - k)

/-- The pieces of a buffer-4 span of a step: one part for each entry it crosses (R434); `fuel` bounds the entries. -/
def State.kvSpan (s : State) (c : Cmd) : Nat → Nat → Nat → List Piece
  | 0, _, _ => []
  | f + 1, off, n =>
    if n = 0 then []
    else if 2 ^ 57 ≤ off then [.clip n]
    else
      let k := min n (2 ^ 40 - off % 2 ^ 40)
      s.kvPieces c (off / 2 ^ 40) (k / pageSize + 3) (off % 2 ^ 40) k ++ State.kvSpan s c f (off + k) (n - k)

/-- Translated parts of a span as pieces. -/
def segPieces (l : List Seg) : List Piece := l.map fun g => match g with | .hit f v n => .hit f v n | .hole v n => .hole v n

/-- The pieces of a range of a buffer, by the command's descriptors (R252, R253). -/
def Cmd.pieces (c : Cmd) (buf va len : Nat) : List Piece := segPieces (translate (c.mapOf buf) va len)

/-- The pieces of a span of a command's tile. -/
def State.spanPieces (s : State) (c : Cmd) (z : Span) : List Piece :=
  if opIsStep c.opcode ∧ z.buffer = 4 then s.kvSpan c (z.length / 2 ^ 40 + 2) z.offset z.length
  else c.pieces z.buffer (ioBufAddr c.sqe z.buffer + z.offset) z.length

/-- A span of a command's buffer in the context's address space. -/
structure VaSpan where
  buffer : Nat
  va : Nat
  len : Nat
  access : Nat
deriving DecidableEq, Repr

/-- A span meets a range. -/
def VaSpan.meets (e : VaSpan) (lo hi : Nat) : Bool := decide (e.va < hi) && decide (lo < e.va + e.len)

/-- The spans of a tile that go through the context's tables. -/
def Tile.vaSpans (t : Tile) (c : Cmd) : List VaSpan :=
  (t.spans.filter fun z => !(opIsStep c.opcode && z.buffer == 4)).map fun z =>
    { buffer := z.buffer, va := ioBufAddr c.sqe z.buffer + z.offset, len := z.length, access := z.access }

/-! ## The check of a tile's translations (R255 to R257, R282) -/

/-- What a check of translations finds. -/
inductive Check where
  /-- every page is mapped with the rights needed -/
  | ok
  /-- a table page reads uncorrectable (R257) -/
  | table
  /-- the lowest missing page (R255) -/
  | missing (va : Nat)
  /-- the lowest page that lacks rights (R256) -/
  | rights (va : Nat)
  /-- a VX1 move or an invalidation under way blocks the range (R246, R263, R282) -/
  | wait
deriving DecidableEq, Repr

/-- The least of a list. -/
def leastOf : List Nat → Option Nat
  | [] => none
  | a :: t => match leastOf t with | some b => some (min a b) | none => some a

/-- A descriptor is one of a span's buffer that the span touches. A step's key/value space has descriptors of its own (R437). -/
def Desc.touches (d : Desc) (e : VaSpan) : Bool := d.buffer == e.buffer && d.overlaps e.va (e.va + e.len)

/-- What a descriptor's slots say of the part of a span that it covers. -/
def Desc.part (d : Desc) (e : VaSpan) : List Seg :=
  let lo := max d.va e.va
  translate d.leaves lo (min (d.va + d.len) (e.va + e.len) - lo)

/-- A span needs a descriptor translated again before use: it is stale, or a slot that the span touches is a hole (R255). -/
def Desc.again (d : Desc) (e : VaSpan) : Bool := d.touches e && (d.stale || (d.part e).any Seg.isHole)

/-- A command's descriptors that the context's tables fill: not those of its key/value space. -/
def Cmd.vaDesc (c : Cmd) (d : Desc) : Bool := !(opIsStep c.opcode && d.buffer == 4)

/-- A range of a context waits (R246, R261, R263, R282): a VX1 move blocks it, the unit that would use it has acknowledged an invalidation of
it that is not complete, or it must be translated again and Cirque has acknowledged one (assumption 161). -/
def State.rangeWaits (s : State) (ctx engine va n : Nat) (again : Bool) : Bool :=
  (s.esk.invals ++ s.esk.invalWait).any fun i =>
    i.ctx == ctx && decide (va < i.hi) && decide (i.lo < va + n) &&
      (s.esk.moving.contains i.id || i.acked.contains engine || (again && i.acked.contains 0x0700))

/-- Translate a command's stale spans and holes among those that spans touch again, from the tables as they are (R255). -/
def Cmd.refreshed (c : Cmd) (x : Ctx) (l : List VaSpan) : List Desc :=
  c.descs.flatMap fun d => if c.vaDesc d && l.any d.again then chain x d.buffer d.access d.va d.len else [d]

/-- The parts of a span by the descriptors that it touches, each with the access its descriptor needs. -/
def Cmd.parts (c : Cmd) (e : VaSpan) : List (Seg × Nat) :=
  (c.descs.filter fun d => d.touches e).flatMap fun d => (d.part e).map fun g => (g, d.access)

/-- The lowest missing page of parts. -/
def missingPage (l : List (Seg × Nat)) : Option Nat :=
  leastOf (l.filterMap fun g => match g.1 with | .hole v _ => some (v / 4096 * 4096) | .hit _ _ _ => none)

/-- The page ranges of parts that lack the rights their descriptors need (R256, R267). -/
def lackRanges (l : List (Seg × Nat)) : List (Nat × Nat) :=
  l.filterMap fun g => match g.1 with | .hit f v n => if f.allows g.2 then none else some (pageRange v n) | .hole _ _ => none

/-- Check the spans of a command for an engine: what must be translated again is, and the command is answered with its descriptors so
refreshed (R255 to R257, R282). -/
def State.checkSpans (s : State) (c : Cmd) (x : Ctx) (engine : Nat) (l : List VaSpan) : Check × Cmd :=
  let again := c.descs.filter fun d => c.vaDesc d && l.any d.again
  let c1 := { c with descs := c.refreshed x l }
  if again.any fun d => x.badAt d.va d.len then (.table, c)
  else if (l.any fun e => s.rangeWaits c.ctx engine e.va e.len false) || again.any fun d => s.rangeWaits c.ctx engine d.va d.len true then (.wait, c)
  else
    let p := l.flatMap c1.parts
    match missingPage p with
    | some va => (.missing va, c1)
    | none =>
      match leastOf ((lackRanges p).map (·.1)) with
      | some v => (.rights (v * 4096), c1)
      | none => (.ok, c1)

/-- The page ranges and the accesses of spans, as a record notes them (R267). -/
def spanRanges (l : List VaSpan) : List (Nat × Nat) := l.map fun e => pageRange e.va e.len

def spanAccess (l : List VaSpan) : Nat := bitsMask (nubBy (l.flatMap fun e => maskBits 3 e.access))

/-- A tile that writes the step table fails for want of rights: the table is read-only (R436). -/
def Tile.writesTable (t : Tile) (c : Cmd) : Bool :=
  opIsStep c.opcode && t.spans.any fun z => z.buffer == 4 && bit z.access 1 && decide ((z.offset + z.length - 1) / 2 ^ 40 = 0x10000)

/-! ## Remote requests of a command (R567, R569) -/

/-- The request of a leaf for a command, under the configuration epoch of its work (R208, R221). -/
def Leaf.reqAt (f : Leaf) (c : Cmd) (r e v : Nat) : MemReq := { f.req c.fn c.gen c.ctx (some r) v with epoch := some e }

/-- The reads of remote bytes that pieces still lack, in whole 64-byte blocks within one granule. -/
def State.lackReads (s : State) (r : Nat) (c : Cmd) (e : Nat) (l : List Piece) : List MemReq :=
  l.flatMap fun p =>
    match p with
    | .hit f v n =>
      if f.node = s.nodeId then []
      else
        let q := f.reqAt c r e v
        (granulesOf q.offset n).filterMap fun g =>
          if (findRemote c.remoteData (dpaOf f.key f.node f.tier g.1) g.2).isSome then none
          else some { q with offset := g.1 / 64 * 64, len := roundUp 64 (g.1 + g.2) - g.1 / 64 * 64 }
    | _ => []

/-- A request waits or is outstanding already. -/
def State.remoteAsked (s : State) (c : Cmd) (q : MemReq) : Bool :=
  let same (y : MemReq) : Bool := y.node == q.node && y.tier == q.tier && y.key == q.key && y.offset == q.offset && y.write.isSome == q.write.isSome
  c.remoteOut.any same || tany s.floe.remotes fun _ x => x.q.cmd == q.cmd && same x.q

/-- A remote request may go to Floe now. -/
def State.remoteRoom (s : State) (q : MemReq) : Bool := decide (s.freeTag < 4096) && !s.granuleBusy q

/-- Send one waiting request of a command: a write of part of a 64-byte block first reads the block and merges, since a request's length is
in whole blocks (R71, R563). What cannot go yet waits. -/
def State.remoteSend (s : State) (r : Nat) (q : MemReq) : State :=
  let wait (t : State) : State := t.modCmd r fun c => { c with remoteOut := c.remoteOut ++ [q] }
  match q.write, tget? s.cmds r with
  | some b, some c =>
    let lo := q.offset / 64 * 64
    let n := roundUp 64 (q.offset + b.length) - lo
    if q.offset % 64 = 0 ∧ b.length % 64 = 0 then (if s.remoteRoom q then s.remoteIssue q else wait s)
    else
      match findRemote c.remoteData (dpaOf q.key q.node q.tier lo) n with
      | some old =>
        let q1 := { q with offset := lo, len := n, write := some (slice old 0 (q.offset - lo) ++ b ++ old.drop (q.offset - lo + b.length)) }
        if s.remoteRoom q1 then
          (s.modCmd r fun y => { y with remoteData := y.remoteData.filter fun e => e.1 != dpaOf q.key q.node q.tier lo }).remoteIssue q1
        else wait s
      | none =>
        let rd := { q with offset := lo, len := n, write := none }
        if s.remoteAsked c rd || !s.remoteRoom rd then wait s else wait (s.remoteIssue rd)
  | _, _ => if s.remoteRoom q then s.remoteIssue q else wait s

/-- Send what a command's waiting remote requests may send. -/
def State.remotePump (s : State) (r : Nat) : State :=
  match tget? s.cmds r with
  | none => s
  | some c => c.remoteOut.foldl (fun t q => t.remoteSend r q) (s.modCmd r fun y => { y with remoteOut := [] })

/-- Ask other chips for the bytes that pieces lack. -/
def State.askRemote (s : State) (r : Nat) (l : List MemReq) : State :=
  let s1 := l.foldl (fun t q => match tget? t.cmds r with
    | some c => if t.remoteAsked c q then t else t.modCmd r fun y => { y with remoteOut := y.remoteOut ++ [q] }
    | none => t) s
  s1.remotePump r

/-! ## Reading and writing pieces -/

/-- The bytes of a step table (R436). -/
def Cmd.tableBytes (c : Cmd) : Blob := c.stepTab.flatMap fun e => leBytes 8 e.1 ++ leBytes 8 e.2

/-- Read pieces for a command. Holes and clipped bytes read as zeros. -/
def State.readPieces (s : State) (r : Nat) (c : Cmd) (e : Nat) (l : List Piece) : Blob × State :=
  l.foldl (fun bt p =>
    match p with
    | .hit f v n =>
      let q := f.reqAt c r e v
      if f.node ≠ s.nodeId then (bt.1 ++ remoteBytes c.remoteData f.key f.node f.tier q.offset n, bt.2)
      else
        let x := bt.2.portRead q n
        (bt.1 ++ x.1, x.2)
    | .table o n => (bt.1 ++ slice c.tableBytes o n, bt.2)
    | .hole _ n => (bt.1 ++ zeros n, bt.2)
    | .clip n => (bt.1 ++ zeros n, bt.2)) ([], s)

/-- Write bytes through pieces for a command: remote parts join its waiting requests; what is clipped is discarded (R435). -/
def State.writePieces (s : State) (r : Nat) (c : Cmd) (e : Nat) : List Piece → Blob → State
  | [], _ => s
  | p :: t, b =>
    let d := b.take p.len
    let s1 := match p with
      | .hit f v _ =>
        let q := f.reqAt c r e v
        if f.node ≠ s.nodeId then
          s.modCmd r fun y => { y with remoteOut := y.remoteOut ++ (granulesOf q.offset d.length).map fun g =>
            { q with offset := g.1, len := g.2, write := some (slice d (g.1 - q.offset) g.2) } }
        else s.portWrite q d
      | _ => s
    State.writePieces s1 r c e t (b.drop p.len)

/-! ## Issue (R396 to R399) -/

/-- A tile's node and tile record. -/
def tileAt (nodes : List Node) (t : TileRef) : Option (Node × Tile) :=
  (nodes[t.node]?).bind fun n => (n.tiles[t.tile]?).map fun x => (n, x)

/-- A tag that no work item in flight and no stream of the port carries (R397). -/
def SUnit.freshTag (u : SUnit) : Nat :=
  let used := u.works.map (·.tag) ++ u.streams.map (·.tag)
  ((List.range (used.length + 1)).map fun i => (u.nextTag + i) % 2 ^ 32).find? (fun t => !used.contains t) |>.getD u.nextTag

/-- The ISSUE payload (R397, R399): header, body unless the cluster has it, read data. -/
def issuePayload (last : Bool) (n : Node) (ver : Nat) (body : Bool) (data : Blob) : Blob :=
  zeros 2 ++ leBytes 1 (b2n last) ++ leBytes 1 n.pass ++ leBytes 2 ver ++ leBytes 2 n.id ++
  leBytes 4 (if body then n.body.length else 0) ++ leBytes 4 data.length ++ zeros 16 ++ (if body then n.body else []) ++ data

/-- The occupant of a unit may issue: the turn's holder's state is in the cluster and no switch is under way. -/
def State.mayIssue (s : State) (u : Nat) : Option Nat :=
  let y := s.unit u
  match y.turn with
  | some { ctx := some x, .. } =>
    if s.stagesRun && s.unitOk u && y.holder == some x && y.preempt.isNone && y.restore.isNone && decide ((y.worksOf x).length < y.window)
    then some x else none
  | _ => none

/-- Send a tile to its cluster: its first work item starts the command, and the first of a pass starts the weight stream (R118, R320, R397,
R494, R538). -/
def State.sendIssue (s : State) (u r : Nat) (c : Cmd) (t : TileRef) (n : Node) (out : List Piece) (data : Blob) : State :=
  let y := s.unit u
  let e := s.epochOf (seracEngine u)
  let body := y.lastBody != some (sqeHandle c.sqe, c.graphVer, n.id)
  let p := issuePayload ((c.tilesOn u).length == 1) n c.graphVer body data
  let tag := y.freshTag
  let s1 := (chunks 65520 (p.length / 65520 + 1) p).foldl (fun x b =>
    x.sendTile { port := u, cls := 0, typ := 1, index := t.tile, tag := tag, ctx := c.ctx, payload := b }) s
  let s2 := s1.updUnit u fun z => { z with
    works := z.works ++ [{ tag := tag, cmd := r, ctx := c.ctx, node := t.node, tile := t.tile, out := out, epoch := e }]
    nextTag := (tag + 1) % 2 ^ 32, lastBody := some (sqeHandle c.sqe, c.graphVer, n.id) }
  let s3 := s2.modCmd r fun z => { z with
    tiles := tset z.tiles u ((z.tilesOn u).drop 1), start := some (z.start.getD s.now)
    issueOrder := if z.issueOrder ≠ 0 then z.issueOrder else if z.firstTurn ≠ 0 then z.firstTurn else (match y.turn with | some q => q.no | none => 0)
    issuedOn := if z.issuedOn.contains u then z.issuedOn else z.issuedOn ++ [u]
    remoteData := [] }
  let s4 := if c.streamed.contains (u, n.pass) then s3 else s3.startStream u r c n.pass (if n.pass = 0 then 0 else 2 ^ 32) false
  s4.progress (seracEngine u)

/-- The check of a command's spans for an engine, and what follows where it is not passed (R255 to R257, R266): `f` goes on with the
descriptors as they are refreshed. -/
def State.withSpans (s : State) (r : Nat) (c : Cmd) (x : Ctx) (n engine : Nat) (l : List VaSpan) (f : State → Cmd → State) : State :=
  let k := s.checkSpans c x engine l
  let t := s.modCmd r fun z => { z with descs := k.2.descs }
  match k.1 with
  | .table => s.fail r .memoryUncorrectable
  | .wait => s
  | .missing va => t.tileFault r c x.leaves (2 ^ n) (spanAccess l) va (spanRanges l) false
  | .rights va => (t.rightsFault c (2 ^ n) (spanAccess l) va (spanRanges l) (lackRanges (l.flatMap k.2.parts))).fail r .rightsViolation
  | .ok => f t k.2

/-- The slots of a provisioned page of a step's key/value space: four runs of sixteen 4 KiB leaves (R437). -/
def kvSlots (node base : Nat) (p : Page) : List Slot :=
  (List.range 4).map fun i =>
    .run { va := base + i * 65536, size := 0, node := node, tier := p.tier, offset := p.page * pageSize + i * 65536, key := kvKey, prot := 0,
           rd := true, wr := true, atomic := false, alloc := 0 } 4

/-- The page of a sequence that a place of a step's key/value space falls on (R434, R435). -/
def State.kvPage (s : State) (c : Cmd) (va : Nat) : Option Page :=
  (c.batch[va / 2 ^ 40]?).bind fun b => if b.seq = 0 then none else (tget? s.snow.seqs b.seq).bind fun q => q.pages[va % 2 ^ 40 / pageSize]?

/-- Translate the stale descriptors of a step's key/value pages that a tile touches (R437). -/
def State.kvRefresh (s : State) (c : Cmd) (w : Tile) : List Desc :=
  c.descs.map fun d =>
    if d.stale && !c.vaDesc d && w.spans.any (fun z => z.buffer == 4 && d.overlaps z.offset (z.offset + z.length)) then
      { d with stale := false, slots := match s.kvPage c d.va with | some p => kvSlots s.nodeId d.va p | none => d.slots }
    else d

/-- Issue a tile whose translations have passed: its remote bytes are asked for first, and it waits for a credit of its class (R397, R569). -/
def State.issueTile (s : State) (u r : Nat) (c : Cmd) (t : TileRef) (n : Node) (w : Tile) : State :=
  let e := s.epochOf (seracEngine u)
  let ins := (w.spans.filter fun z => bit z.access 0).flatMap fun z => s.spanPieces c z
  let out := (w.spans.filter fun z => bit z.access 1).flatMap fun z => s.spanPieces c z
  let lack := s.lackReads r c e ins
  if !lack.isEmpty then s.askRemote r lack
  else if !(s.unit u).hasCredit 0 then s
  else
    let y := (s.modCmd r fun z => { z with descs := s.kvRefresh z w }).readPieces r c e ins
    match tget? y.2.cmds r with
    | some c1 => if c1.decided.isSome then y.2.drainIfIdle r else y.2.sendIssue u r c1 t n out y.1
    | none => y.2

/-- Issue the next tile of a unit's occupant, or find that it faults, lacks rights or must wait (R255 to R257, R266, R397). A tile of a context
that has just been parked is looked at too where its unit found it at the very time of the fault: it faults as well, or it is not issued (R268). -/
def State.issueNext (s : State) (u : Nat) : State :=
  match s.mayIssue u with
  | none => s
  | some k =>
    match (if s.ctxParked k then (if s.faultsNow k u then s.frontTile k u else none) else s.nextTile k u), tget? s.ctxs k with
    | some (r, c, t), some x =>
      match tileAt (s.nodesOf c) t with
      | none => s
      | some (n, w) =>
        if w.writesTable c then s.fail r .rightsViolation
        else s.withSpans r c x u (seracEngine u) (w.vaSpans c) fun s1 c1 => if s.ctxParked k then s else s1.issueTile u r c1 t n w
    | _, _ => s

/-! ## The end of a command's work -/

/-- Nothing of a running command is left to do: no tile, work item, tap or remote request. -/
def State.workDone (s : State) (r : Nat) (c : Cmd) : Bool :=
  c.tiles.all (·.2.isEmpty) && !(s.serac.units.any fun u => u.2.works.any (·.cmd == r)) && !s.holdsEngine r

/-- A command whose end follows from its work alone: one that runs a graph, a COPY, or a SEQ_CREATE whose ID has been sent; a training step
goes on to its update first (R377). -/
def State.endsByWork (s : State) (r : Nat) (c : Cmd) : Bool :=
  (opRunsGraph c.opcode && c.opcode != 0x81) || c.opcode == 0x84 ||
    (c.opcode == 0x88 && c.result.isEmpty && !s.snow.creates.contains r)

/-- Every Serac unit, or Glaze or Snowpack, reports a command's end (R108). -/
def State.settleDone (s : State) (r : Nat) : State :=
  match tget? s.cmds r with
  | none => s
  | some c =>
    if s.endsByWork r c && c.stage == .running && c.live && !c.waitProv && s.workDone r c then
      s.report r .success
    else s

/-- What follows a change in a command's work: it ends, or drains. -/
def State.workMoved (s : State) (r : Nat) : State := ((s.settleDone r).drainIfIdle r).settle

end Sys2Proof.Machine
end

