-- ==== Sys2Proof/Machine/ObjOps.lean ====
section
/-! DEFINITION. Contexts, allocations and mappings as objects: their making, their release, and the tables' changes (R149, R168 to R171,
R242 to R251, R276, R286, R390). -/

namespace Sys2Proof.Machine

open Sys2Proof

/-! ## Contexts -/

/-- Slot states that contexts have reserved in the backing (R389, R390). -/
def State.slotsTaken (s : State) : List Nat := s.ctxs.flatMap (·.2.backing)

def State.slotStates (s : State) : Nat := s.slotsTaken.length

/-- The lowest slot states that no context has reserved. -/
def State.takeSlotStates (s : State) (n : Nat) : List Nat :=
  let l := s.slotsTaken
  ((List.range (l.length + n)).filter fun i => !l.contains i).take n

/-- Commands of a context that are in flight: accepted, and their completion entry not yet produced. -/
def State.ctxBusy (s : State) (x : Nat) : Bool := tany s.cmds fun _ c => c.ctx == x && !c.admin && !c.refused

/-- An invalidation of a context is on the fabric or waits for it. -/
def State.invalOf (s : State) (x : Nat) : Bool := s.esk.invals.any (·.ctx == x) || s.esk.invalWait.any (·.ctx == x)

/-- A command of a function that names a context waits for that context's invalidations: one that names no context of the function does not
(R149, R250). -/
def State.invalWaits (s : State) (f x : Nat) : Bool := (s.ctxOf f x).isSome && s.invalOf x

/-- Release a context: its sequences, records, cached translations, walks, slots, save areas and what Serac holds of it (R171, R390). -/
def State.destroyCtx (s : State) (x : Nat) : State :=
  let s1 := (tfind s.snow.seqs fun _ q => q.ctx == x).foldl State.releaseSeq s
  let s2 := (s1.crevWithdrawCtx x).freeSlots x
  let s3 := { s2 with
    esk := { s2.esk with
      tables := tfilter s2.esk.tables fun _ p => p.ctx != x
      cache := s2.esk.cache.filter (·.ctx != x), walks := tfilter s2.esk.walks fun _ w => w.ctx != x
      invals := s2.esk.invals.filter (·.ctx != x), invalWait := s2.esk.invalWait.filter (·.ctx != x) }
    serac := { s2.serac with units := tmap s2.serac.units fun _ u =>
      { u with
        holder := if u.holder = some x then none else u.holder, works := u.works.filter (·.ctx != x)
        streams := u.streams.filter (·.ctx != x)
        turn := match u.turn with | some t => if t.ctx = some x then none else some t | none => none
        restore := match u.restore with | some r => if r.ctx = x then none else some r | none => none } } }
  let s4 := match tget? s.ctxs x with | some c => (match c.resetCmd with | some r => s3.commit r | none => s3) | none => s3
  ({ s4 with ctxs := tdel s4.ctxs x } : State).passBoundary.settle

/-! ## Allocations (R168, R276, R279) -/

/-- The first `n` free frames of a tier, those asked for where they are free and distinct, or else the lowest. -/
def State.chooseFrames (s : State) (tier n : Nat) (asked : List Nat) : Option (List Nat) :=
  let ok := asked.length == n && allDistinct asked && asked.all (s.frameFree tier)
  if ok then some asked
  else
    let l := ((List.range (s.frameCount tier)).filter (s.frameFree tier)).take n
    if l.length = n then some l else none

/-- The first `n` free chunks of the host chunk table. -/
def State.chooseChunks (s : State) (n : Nat) (asked : List Nat) : Option (List Nat) :=
  let free (k : Nat) : Bool := decide (k < 1048576) && (tget? s.esk.chunks k).isNone
  if asked.length == n && allDistinct asked && asked.all free then some asked
  else if 1048576 < s.esk.chunks.length + n then none
  else
    let l := ((List.range (s.esk.chunks.length + n)).filter free).take n
    if l.length = n then some l else none

/-- Take host chunks one by one, each at its bus address (R242). -/
def State.takeChunks (s : State) (e : Fkt) : List (Nat × Nat) → Option State
  | [] => some s
  | (k, a) :: t =>
    match s.takeFrames 2 { e with addr := a } [k] with
    | some s1 => State.takeChunks s1 e t
    | none => none

/-- Free an allocation: its frames, its hot list entries, its place in a VX1 order (R276, R279, R282). -/
def State.freeAlloc (s : State) (a : Nat) : State :=
  match tget? s.allocs a with
  | none => s
  | some x =>
    let s1 := x.frames.foldl (fun t f => t.releaseFrame f.1 f.2) s
    let s2 := s1.updFn x.fn fun f => { f with vx1Frames := f.vx1Frames.filter fun k => !x.frames.contains (0, k) }
    { s2 with
      allocs := tdel s2.allocs a
      esk := { s2.esk with hotList := tmap s2.esk.hotList fun _ h => if h.alloc = a then { h with void := true } else h } }

/-- An allocation is mapped in some context, or will be once a MAP completes. -/
def State.allocMapped (s : State) (a : Nat) : Bool :=
  let uses (ls : List Leaf) : Bool := ls.any fun l => l.alloc == a && l.node == s.nodeId
  (tany s.ctxs fun _ c => uses c.leaves) || (s.esk.invals ++ s.esk.invalWait).any fun i => i.change.any fun z => uses z.leaves

/-- A registered variant uses an allocation. -/
def State.allocOfVariant (s : State) (a : Nat) : Bool := tany s.silt.variants fun _ v => v.alloc == a

/-! ## Mappings (R247 to R250, R286, R287) -/

/-- A leaf of an allocation at an offset. -/
def Alloc.leaf (a : Alloc) (id node rights va size off : Nat) : Leaf :=
  let p := a.place off
  { va := va, size := size, node := node, tier := p.1, offset := p.2, key := a.key, prot := a.prot, rd := bit rights 0, wr := bit rights 1,
    atomic := bit rights 2, alloc := id }

/-- The 512 frames under a 1 GiB page form one contiguous and aligned run (R248). -/
def Alloc.wholeRun (a : Alloc) (off : Nat) : Bool :=
  let p := a.place off
  p.2 % 1073741824 == 0 && (List.range 512).all fun i => a.place (off + i * frameBytes) == (p.1, p.2 + i * frameBytes)

/-- The leaves that a MAP writes. -/
def Alloc.leaves (a : Alloc) (id node rights size va off len : Nat) : List Leaf :=
  (List.range (len / pageBytes size)).flatMap fun i =>
    let v := va + i * pageBytes size
    let o := off + i * pageBytes size
    if size = 2 && !a.wholeRun o then (List.range 512).map fun j => a.leaf id node rights (v + j * frameBytes) 1 (o + j * frameBytes)
    else [a.leaf id node rights v size o]

/-- The page-table pool holds a context's tables with new leaves in place of its present ones (R249). -/
def State.tablesFit (s : State) (x : Ctx) (ls : List Leaf) : Bool :=
  decide (s.tablePagesUsed + tablePages ls ≤ tablePool + tablePages x.leaves)

/-- Write a context's tables and broadcast the invalidation of the range, with that of every run it breaks, for a command that then waits; the
device sees the change once the command completes (R170, R246, R251, R260). -/
def State.writeTables (s : State) (r x : Nat) (ls : List Leaf) (lo hi : Nat) (isMap : Bool) : State :=
  let old := match tget? s.ctxs x with | some c => c.leaves | none => []
  let b := brokenRange old lo hi
  ((s.putTables x ls).handOver r).invalidate x b.1 b.2 (some r) (some { leaves := ls, lo := lo, hi := hi, isMap := isMap })

/-- A completed change takes effect (R246): the context's leaves are the new ones, an UNMAP frees the table pages wholly under its range with their
errors (R257), and a MAP resolves records (R270). -/
def State.applyChange (s : State) (x : Nat) (z : Change) : State :=
  let t := s.modCtx x fun c => { c with
    leaves := z.leaves
    badTables := if z.isMap then c.badTables else c.badTables.filter fun b => !(decide (z.lo ≤ b.1) && decide (b.1 + b.2 ≤ z.hi)) }
  if z.isMap then t.crevResolve x z.lo z.hi else t

/-- The largest translation epoch (R265). -/
def topEpoch : Nat := 2 ^ 48 - 1

/-- A tile in progress of a context on a unit overlaps a range (R261). -/
def State.tileInRange (s : State) (u : Nat) (i : Inval) : Bool :=
  ((s.unit u).worksOf i.ctx).any fun w =>
    match tget? s.cmds w.cmd with
    | some c => match tileAt (s.nodesOf c) { node := w.node, tile := w.tile } with
      | some (_, t) => (t.vaSpans c).any fun e => e.meets i.lo i.hi
      | none => false
    | none => false

/-- What an engine does as it acknowledges an invalidation (R261). -/
def State.ackEffect (s0 : State) (e : Nat) (i : Inval) : State :=
  let s := (s0.progress 0x0800).pulse 41
  if e = 0x0800 then { s with esk := { s.esk with cache := s.esk.cache.filter fun c => c.ctx != i.ctx || !c.overlaps i.lo i.hi } }
  else if e = 0x0700 then
    { s with cmds := tmap s.cmds fun _ c =>
      if c.ctx = i.ctx ∧ !c.admin then { c with descs := c.descs.map fun d => if d.overlaps i.lo i.hi && c.vaDesc d then { d with stale := true } else d }
      else c }
  else s

/-- An invalidation that all engines have acknowledged ends: records resolve, its command completes, and one that waits takes its place (R261,
R262, R270). -/
def State.invalDone (s : State) (i : Inval) : State :=
  let s1 := { s with esk := { s.esk with
    invals := (s.esk.invals.filter fun (x : Inval) => x.id != i.id) ++ s.esk.invalWait.take 1, invalWait := s.esk.invalWait.drop 1
    moving := s.esk.moving.filter (· != i.id) } }
  let s2 := match i.change with | some z => s1.applyChange i.ctx z | none => s1
  (match i.cmd with | some r => s2.commit r | none => s2).settle

/-! ## Keys (R158, R456) -/

/-- The key IDs that a KEY_ASSIGN or KEY_RELEASE names, where its fields are in range. -/
def keyRange (b : Blob) : Option (List Nat) :=
  let k := fld b 34 2
  let n := fld b 36 2
  if fld b 32 2 < 4096 ∧ 1 ≤ n ∧ 16 ≤ k ∧ k + n ≤ 4096 then some ((List.range n).map (k + ·)) else none

/-- An allocation or a registered variant uses a key ID. -/
def State.keyUsed (s : State) (k : Nat) : Bool := tany s.allocs (fun _ a => a.key == k) || tany s.silt.variants fun _ v => v.key == k

end Sys2Proof.Machine
end

