-- ==== Sys2Proof/Machine/GraphOps.lean ====
section
/-! DEFINITION. Stored graphs and kernels: the image, its nodes' tables, and the store that holds the versions (R178 to R188, R393, R394). -/

namespace Sys2Proof.Machine

open Sys2Proof

/-! ## Node bodies (R393, R394) -/

/-- The records of a table of a body: `n` records of `w` bytes from an offset. -/
def tableAt (b : Blob) (off w n : Nat) : List Blob := (List.range n).map fun i => slice b (off + w * i) w

/-- A span record. -/
def spanOf (b : Blob) : Span := { buffer := fld b 1 1, access := fld b 2 1, length := fld b 4 4, offset := fld b 8 8 }

/-- A span record keeps its field ranges. -/
def spanOk (b : Blob) : Bool :=
  fld b 0 1 == 0 && fld b 3 1 == 0 && decide (fld b 1 1 ≤ 4) && decide (1 ≤ fld b 2 1) && decide (fld b 2 1 ≤ 3) && decide (1 ≤ fld b 4 4)

/-- A weight span record. -/
def wspanOf (b : Blob) : WSpan :=
  { passes := fld b 4 1, lane := fld b 5 1, tensor := fld b 6 2, first := fld b 8 4, count := fld b 12 4 }

/-- A weight span record keeps its field ranges. -/
def wspanOk (b : Blob) : Bool := fld b 0 4 == 0 && decide (fld b 4 1 ≤ 3) && decide (fld b 5 1 ≤ 31) && decide (1 ≤ fld b 12 4)

/-- Bytes of the spans of a tile that read, or write. -/
def accessTotal (k : Nat) (l : List Span) : Nat := ((l.filter fun z => bit z.access k).map (·.length)).sum

/-- A tile record with its spans from the body's span table, where it is well formed. -/
def tileRec (spans : List Span) (b : Blob) : Option Tile :=
  let first := fld b 4 4
  let n := fld b 2 2
  let mine := (spans.drop first).take n
  if fld b 0 1 = 0 ∧ fld b 1 1 ≤ 31 ∧ 1 ≤ n ∧ n ≤ 64 ∧ first + n ≤ spans.length ∧
      accessTotal 0 mine ≤ 2 ^ 24 ∧ accessTotal 1 mine ≤ 2 ^ 24 then
    some { lane := fld b 1 1, spans := mine }
  else none

/-- A cleave record with its ranges, where it is well formed and fits the save areas of the clusters. -/
def cleaveRec (ranges : List (Nat × Nat)) (full : List Nat) (b : Blob) : Option Cleave :=
  let first := fld b 4 4
  let n := fld b 2 2
  let mine := (ranges.drop first).take n
  let live := fld b 8 8
  if fld b 0 2 = 0 ∧ 1 ≤ n ∧ n ≤ 256 ∧ first + n ≤ ranges.length ∧ live = (mine.map (·.2)).sum ∧ full.all (decide <| live ≤ ·) then
    some { live := live, ranges := mine }
  else none

/-- All of a list, or none. -/
def allSome {α : Type} : List (Option α) → Option (List α)
  | [] => some []
  | none :: _ => none
  | some x :: t => (allSome t).map (x :: ·)

/-- A node from its entry and its body: none where the body breaks R393 or R394. `full` lists the full_save_bytes of the present clusters that
have the graph's cap_id. -/
def nodeOf (entry body : Blob) (full : List Nat) : Option Node :=
  let tiles := fld body 20 4
  let spans := fld body 24 4
  let wspans := fld body 18 2
  let cleaves := fld body 16 2
  let ranges := fld body 4 4
  let native := fld body 28 4
  let o1 := 32 + 8 * tiles
  let o2 := o1 + 16 * spans
  let o3 := o2 + 16 * wspans
  let o4 := o3 + 16 * cleaves
  let zs := tableAt body o1 16 spans
  let ws := tableAt body o2 16 wspans
  if body.length < 32 ∨ fld body 0 4 ≠ 0x43535856 ∨ !zeroAt body 9 7 ∨ 1 < fld body 8 1 ∨ tiles = 0 ∨ 1048576 < tiles ∨ 4096 < cleaves ∨
      (cleaves ≠ 0 ∧ bit (fld entry 2 2) 1 = false) ∨ body.length < native ∨ native < o4 + 16 * ranges then none
  else if !zs.all spanOk || !ws.all wspanOk then none
  else
    let rs := (tableAt body o4 16 ranges).map fun r => (fld r 8 8, fld r 0 8)
    match allSome ((tableAt body 32 8 tiles).map (tileRec (zs.map spanOf))), allSome ((tableAt body o3 16 cleaves).map (cleaveRec rs full)) with
    | some ts, some cs => some
      { id := fld entry 0 2, layer := fld entry 12 4, adapted := bit (fld entry 2 2) 0, hasCleaves := bit (fld entry 2 2) 1, pass := fld body 8 1
        tiles := ts, wspans := ws.map wspanOf, cleaves := cs, body := body }
    | _, _ => none

/-! ## Images (R179, R180) -/

/-- The node entries of an image. -/
def nodeEntries (b : Blob) : List Blob := tableAt b 64 16 (fld b 6 2)

/-- The header of an image is well formed, for a kind; its length and its reserved bytes are judged with it (DESIGN CHOICE, assumption 96). -/
def imageHeadOk (b : Blob) (kind : Nat) : Bool :=
  let n := fld b 6 2
  let total := fld b 16 8
  decide (64 ≤ b.length) && fld b 0 4 == 0x47525856 && fld b 4 2 == 1 && fld b 8 4 == kind && zeroAt b 24 40 && decide (1 ≤ n) &&
    decide (64 + 16 * n ≤ total) && decide (total ≤ b.length) && decide (total ≤ 2 ^ 26)

/-- A node entry names its body within the image, behind the entries. -/
def entryOk (b e : Blob) : Bool :=
  decide (fld e 2 2 ≤ 3) && decide (64 + 16 * fld b 6 2 ≤ fld e 4 4) && decide (fld e 4 4 + fld e 8 4 ≤ fld b 16 8)

/-- full_save_bytes of the present clusters that have a cap_id (R394). -/
def State.savesOf (s : State) (cap : Nat) : List Nat :=
  (((List.range 32).filter s.present).filter fun u => s.capOf u == cap).map fun u => fld (s.clusterRec u) 48 8

/-- The nodes of an image, none where an entry or a body is malformed (R179, R394). -/
def State.imageNodes (s : State) (b : Blob) : Option (List Node) :=
  let es := nodeEntries b
  if !es.all (entryOk b) || !allDistinct (es.map fun e => fld e 0 2) then none
  else allSome (es.map fun e => nodeOf e (slice b (fld e 4 4) (fld e 8 4)) (s.savesOf (fld b 12 4)))

/-- Some present cluster has a cap_id (R180). -/
def State.capPresent (s : State) (cap : Nat) : Bool := (List.range 32).any fun u => s.present u && s.capOf u == cap

/-! ## The store (R178, R181 to R185) -/

/-- The lowest handle index of a function that no live handle has (R149, R178). -/
def freeIndex (used : List Nat) : Nat → Nat → Nat
  | 0, n => n
  | f + 1, n => if used.contains n then freeIndex used f (n + 1) else n

/-- Bytes that a graph takes of the store: header and entries of each version, and each body that its versions hold once (R182,
assumption 14). -/
def Graph.bytes (g : Graph) : Nat :=
  let bodies := g.versions.foldl (fun acc v => v.2.foldl (fun a n => if a.contains (n.id, n.body) then a else (n.id, n.body) :: a) acc) []
  (g.versions.map fun v => 64 + 16 * v.2.length).sum + (bodies.map fun x => x.2.length).sum

/-- Bytes of the store in use. -/
def storeUsed (l : List Graph) : Nat := (l.map Graph.bytes).sum

/-- Bytes that topology section 2 sets aside for stored graphs (R163). -/
def State.storeBytes (s : State) : Nat := fld (s.topo.memory.getD []) 40 8

/-- The next version number (R181). -/
def nextVersion (v : Nat) : Nat := if v = 0xFFFF then 1 else v + 1

/-- The next version number after `v` that is not in use; `fuel` bounds those passed over. -/
def freshVersion (used : List Nat) : Nat → Nat → Nat
  | 0, v => nextVersion v
  | f + 1, v => if used.contains (nextVersion v) then freshVersion used f (nextVersion v) else nextVersion v

/-- The nodes of the version that a patch makes: none where it names a node that is absent or has another layer or flags (R182). -/
def patchNodes (old new : List Node) : Option (List Node) :=
  if new.all fun n => old.any fun o => o.id == n.id && o.layer == n.layer && o.adapted == n.adapted && o.hasCleaves == n.hasCleaves then
    some (old.map fun o => (new.find? (·.id == o.id)).getD o)
  else none

/-- Live versions of a graph (R184, R185). -/
def Graph.live (g : Graph) : Nat := g.versions.length

/-- Put a graph's new version in the store: it is current, and the version before it stays while a command pins it (R181, R184). -/
def State.addVersion (s : State) (g : Graph) (v : Nat) (nodes : List Node) : State :=
  ({ s with graphs := s.graphs.map fun x =>
      if x.fn = g.fn ∧ x.index = g.index then { x with versions := tset x.versions v nodes, current := v } else x } : State).pruneGraphs

end Sys2Proof.Machine
end

