-- ==== Sys2Proof/Machine/FnOps.lean ====
section
/-! DEFINITION. Function states and their transitions, the teardown of a function's objects, and the state blob (R199 to R218, R232 to R237,
R466). -/

namespace Sys2Proof.Machine

open Sys2Proof

/-! ## Fetching and generations -/

/-- The next generation: it passes from 0xFFFF to 1 (R203). -/
def nextGen (g : Nat) : Nat := if g = 0xFFFF then 1 else g + 1

/-- A function field names a VF (R200). -/
def vfField (f : Nat) : Bool := decide (0 < f) && decide (f < 4096)

/-- Entries that were fetched and not admitted return to the ring (assumption 15); what a read still out brings stays there too (R104). -/
def Queue.unfetch (q : Queue) : Queue :=
  { q with
    sqHead := (q.sqHead + q.depth - q.fetched.length) % max 1 q.depth
    exposed := q.fetched.map (·.capture) ++ q.exposed, fetched := [], fetchDead := q.fetching != 0 }

/-- Stop fetching from every queue of a function (R205, R214). -/
def State.stopFetch (s : State) (f : Nat) : State :=
  { s with queues := tmap s.queues fun _ q => if q.fn = f then q.unfetch else q }

/-- The queue range of a function overlaps that of one that is not Disabled (R89). -/
def State.rangeClash (s : State) (f : Nat) : Bool :=
  let x := s.fn f
  tany s.fns fun g y =>
    g != f && y.phase != .disabled && decide (x.qBase < y.qBase + y.qCount) && decide (y.qBase < x.qBase + x.qCount)

/-- The checks of FN_ENABLE (R202). -/
def State.enableCheck (s : State) (f : Nat) : Option Status :=
  firstSome [
    failIf (!s.topo.committed) .topologyNotCommitted, failIf (s.rangeClash f) .invalidField, failIf (s.queueAt? f 0).isNone .invalidField ]

/-! ## Function reset (R214) -/

/-- A command of a function that a reset has begun for: an admin command, and one that has ended, is discarded; any other drains, and is
discarded once it holds no engine (R133, R214). -/
def State.abandonCmd (s : State) (r : Nat) : State :=
  match tget? s.cmds r with
  | none => s
  | some c =>
    if c.admin || !c.unfinished || c.stage == .ended then s.discard r
    else
      let s1 := s.fail r .contextReset
      match tget? s1.cmds r with
      | some d => if d.unfinished then s1 else s1.discard r
      | none => s1

/-- A function reset begins (R214 steps 1 to 4, R144, R460). -/
def State.beginReset (s : State) (f : Nat) : State :=
  let s1 := s.updFn f fun x =>
    { x with phase := .resetting, generation := nextGen x.generation, wasEnabled := x.phase == .enabled }
  let s2 := (s1.stopFetch f).discardParked f
  let s3 := { s2 with kao := { s2.kao with sessions := tfilter s2.kao.sessions fun _ x => x.fn != f } }
  ((s3.cmdsOf f).foldl State.abandonCmd s3).settle

/-- Remove a variant with its cached slices; its storage is an allocation and is not touched (R356). -/
def State.dropVariant (s : State) (v : Nat) : State :=
  { s with silt := { s.silt with
    variants := tdel s.silt.variants v
    engines := tmap s.silt.engines fun _ e =>
      { e with slices := e.slices.filter (·.variant != v), fetches := e.fetches.filter (·.variant != v)
               inters := e.inters.filter (·.band.variant != v) } } }

/-- The admin queue as a function reset leaves it: pointers at 0, phase 1 (R214). -/
def Queue.restart (q : Queue) : Queue :=
  { q with
    sqHead := 0, sqTail := 0, cqHead := 0, cqTail := 0, phase := true, exposed := [], fetchDead := q.fetching != 0, fetched := [], eventSlots := []
    unsignalled := 0, unsigSince := none, burst := [], deadReads := q.deadReads + q.burst.length + (if q.firstRead.isSome then 1 else 0)
    firstRead := none, lastNo := 0, replay := none, replayOn := false }

/-- Contexts of a function that hold mappings, or table pages for them. -/
def State.mappedCtxs (s : State) (f : Nat) : List Nat :=
  tfind s.ctxs fun x c => c.fn == f && (!c.leaves.isEmpty || tany s.esk.tables fun _ p => p.ctx == x)

/-- Tear down what a function has but its mappings and its memory, in the order of R214 step 5: pools, sequences, contexts, variants and graphs; an
image version that only they pinned is freed at once (R292). -/
def State.dropObjects (s : State) (f : Nat) : State :=
  let s1 := { s with pools := tfilter s.pools fun _ p => p.fn != f }
  let s2 := (tfind s1.snow.seqs fun _ q => q.fn == f).foldl State.releaseSeq s1
  let s3 := (s2.ctxsOf f).foldl State.destroyCtx s2
  let s4 := (tfind s3.silt.variants fun _ v => v.fn == f).foldl State.dropVariant s3
  ({ s4 with graphs := s4.graphs.filter (·.fn != f) } : State).prune

/-- Begin to tear down a function's objects (R214 step 5): the invalidations of its contexts' mappings follow the graphs, and the allocations follow
once they are acknowledged (assumption 145). -/
def State.unmapFn (s : State) (f : Nat) : State :=
  let l := s.mappedCtxs f
  (l.foldl (fun t x => t.invalidate x 0 (2 ^ 48) none none) (s.dropObjects f)).updFn f fun x => { x with tearing := l }

/-- Tear down a function's objects and delete its I/O queues (R214 step 5). -/
def State.teardown (s : State) (f : Nat) : State :=
  let s1 := s.dropObjects f
  let s2 := (tfind s1.allocs fun _ a => a.fn == f).foldl State.freeAlloc s1
  { s2 with queues := tmap (tfilter s2.queues fun _ q => q.fn != f || q.admin) fun _ q => if q.fn = f then q.restart else q }

/-- The drain of a function reset has ended: no command of the function holds an engine or writes an update, no context of it is being reset,
and no invalidation of its contexts is on the fabric (R214). -/
def State.resetDrained (s : State) (f : Nat) : Bool :=
  ((s.cmdsOf f).all fun r => !s.holdsEngine r && !(tget? s.cmds r).any (·.updating)) &&
    ((s.ctxsOf f).all fun x => !(tget? s.ctxs x).any (·.resetting) && !s.invalOf x) && (s.fn f).tearing.all fun x => !s.invalOf x

/-! ## Commands that wait for a transition (R201, R206, R207) -/

/-- What stands in a function's list of waiting commands for a Function Level Reset. -/
def flrMark : Nat := 16384

/-- Answer a list of commands with the generation of a function, in order. -/
def State.answerGen (s : State) (f : Nat) (io : HostIo) (l : List Nat) : State :=
  l.foldl (fun t r => match tget? t.cmds r with
    | some c => if c.result.isEmpty then t.answer r c io (leBytes 2 (t.fn f).generation) id else t.commit r
    | none => t) s

/-- Begin an FN_QUIESCE as its function stands: it quiesces an Enabled function, joins a quiesce, and fails on a Disabled one (R201, R205). -/
def State.runQuiesce (s : State) (f r : Nat) : State :=
  match (s.fn f).phase with
  | .enabled => ((s.updFn f fun x => { x with phase := .quiescing, quiescers := [r] }).stopFetch f).handOver r
  | .quiescing => (s.updFn f fun x => { x with quiescers := x.quiescers ++ [r] }).handOver r
  | .disabled => s.report r .notReady
  | _ => (s.updFn f fun x => { x with afterwards := x.afterwards ++ [r] }).park r

/-- Begin an FN_RESET as its function stands: it writes and confirms its result block, then resets (R152, R201, R214). One that joins a reset
completes with it. -/
def State.runReset (s : State) (f r : Nat) (io : HostIo) : State :=
  match (s.fn f).phase with
  | .resetting => (s.updFn f fun x => { x with resetters := x.resetters ++ [r] }).handOver r
  | .enabling => (s.updFn f fun x => { x with afterwards := x.afterwards ++ [r] }).park r
  | _ =>
    match tget? s.cmds r with
    | none => s
    | some c =>
      let b := leBytes 2 (nextGen (s.fn f).generation)
      let s1 := s.writeResult c b
      if io.write ≠ .ok then s1.report r .hostAccessFailed
      else
        ((((s1.modCmd r fun x => { x with result := padTo 64 b }).handOver r).updFn f fun x =>
          { x with resetters := [r] }).beginReset f)

/-- Take up one of the commands that waited for a transition's end. -/
def State.runWaiting (s : State) (f r : Nat) (io : HostIo) : State :=
  if r = flrMark then s.beginReset f
  else if (s.waitingCmd r 0x11).isSome then s.runQuiesce f r
  else if (s.waitingCmd r 0x12).isSome then s.runReset f r io
  else s

/-- Take up what waited for a function to leave Enabling or Resetting, in Tarn's order, until it is in one of them again; `fuel` bounds the
commands. -/
def State.runAfterwards (f : Nat) (io : HostIo) : Nat → State → State
  | 0, s => s
  | n + 1, s =>
    let x := s.fn f
    match x.afterwards with
    | [] => s
    | r :: t =>
      if x.phase == .enabling || (x.phase == .resetting && r == flrMark) then s
      else State.runAfterwards f io n ((s.updFn f fun y => { y with afterwards := t }).runWaiting f r io)

/-- Let the commands that waited for a transition go on. -/
def State.afterTransition (s : State) (f : Nat) (io : HostIo) : State := State.runAfterwards f io (s.fn f).afterwards.length s

/-- A shutdown ends in Disabled: the waiting enables apply the checks of R202 and the first takes effect (R206, R207). -/
def State.enableWaiting (s : State) (f : Nat) : State :=
  let x := s.fn f
  if x.enablers.isEmpty || x.phase != .disabled then s
  else match s.enableCheck f with
    | some st => (x.enablers.foldl (fun t r => t.report r st) s).updFn f fun y => { y with enablers := [] }
    | none => s.updFn f fun y => { y with phase := .enabling }

/-! ## The state blob (R232 to R237, R466) -/

/-- The contents of an allocation, frame by frame. -/
def State.allocCells (s : State) (a : Alloc) : List Host.Cell :=
  a.frames.zipIdx.flatMap fun e =>
    (cellsOf s.mem (devAddr e.1.1 (e.1.2 * frameBytes)) frameBytes).map fun c => (e.2 * frameBytes + c.1, c.2)

/-- What a blob of a function carries. -/
def State.fnImage (s : State) (f : Nat) : FnImage :=
  let x := s.fn f
  let digest (img ver : Nat) : Blob := match s.imgVer img ver with | some v => v.digest | none => []
  let current (img : Nat) : Nat := match tget? s.firn.images img with | some i => i.current | none => 0
  let ctxs := tfilter s.ctxs fun _ c => c.fn == f
  { vx1 := x.vx1, generation := x.generation
    queues := (tfilter s.queues fun _ q => q.fn == f).map fun e => (e.1 - x.qBase, e.2)
    ctxs := ctxs
    allocs := (tfilter s.allocs fun _ a => a.fn == f).map fun e =>
      { id := e.1, alloc := e.2, addrs := (e.2.frames.filter (·.1 == 2)).map fun k => (tget? s.esk.chunks k.2).elim 0 (·.addr)
        cells := s.allocCells e.2 }
    variants := tfilter s.silt.variants fun _ v => v.fn == f
    graphs := s.graphs.filter (·.fn == f)
    seqs := (tfilter s.snow.seqs fun _ q => q.fn == f).map fun e =>
      { id := e.1, seq := e.2, pages := e.2.pages.map fun p => cellsOf s.mem p.addr pageSize }
    pools := (tfilter s.pools fun _ p => p.fn == f).map fun e => (e.1, e.2, digest e.2.image e.2.imageVer)
    head := s.head f
    tenants := (s.kao.slots.filter fun e => e.2.owner == some f).filterMap fun e => e.2.tenant.map fun t => (e.1, t)
    images := nubBy (ctxs.map (·.2.image)) |>.map fun i => (i, digest i (current i))
    vx1Frames := x.vx1Frames }

/-- The 64 bytes of a blob's header (R233). -/
def State.blobHeader (s : State) (f len seq nonce : Nat) : Blob :=
  let x := s.fn f
  let k := s.keysOf f
  let v := s.versionWord
  leBytes 4 0x42465856 ++ leBytes 4 1 ++ leBytes 2 (bits v 23 16) ++ leBytes 2 (bits v 63 48) ++ zeros 1 ++ leBytes 1 (b2n x.vx1) ++
    leBytes 2 f ++ leBytes 2 x.generation ++ leBytes 2 (s.queuesOf f).length ++ leBytes 2 (k.headD 0) ++ leBytes 2 k.length ++
    leBytes 8 len ++ leBytes 8 Config.deviceSerial ++ leBytes 8 seq ++ leBytes 4 10 ++ leBytes 12 nonce

/-- The blob of a function: header, sections under the migration key, tag (R233). -/
def State.blob (s : State) (f : Nat) (m : Mig) : Blob :=
  let body := packSections 0 (s.fnImage f).sections
  let nonce := s.draw
  let head := s.blobHeader f (64 + body.length + 16) (m.exports + 1) nonce
  head ++ gcmSeal (leBytes 32 m.key) (leBytes 12 nonce) head body

/-- The addresses of a chunk list (R232): 8 bytes each, 2 MiB-aligned. -/
def chunkList (b : Blob) : Option (List Nat) :=
  let l := (chunks 8 b.length b).map leVal
  if b.length % 8 = 0 && l.all fun a => a % frameBytes == 0 then some l else none

/-- An object of a function (R236). -/
def State.hasObject (s : State) (f : Nat) : Bool :=
  tany s.ctxs (fun _ c => c.fn == f) || tany s.allocs (fun _ a => a.fn == f) || tany s.silt.variants (fun _ v => v.fn == f) ||
    s.graphs.any (·.fn == f) || tany s.pools (fun _ p => p.fn == f) || tany s.snow.seqs fun _ q => q.fn == f

/-- A function that a blob may be imported into (R236 check 3). -/
def State.importable (s : State) (f : Nat) : Bool :=
  (s.fn f).phase == .disabled && (s.queuesOf f).isEmpty && !s.hasObject f

/-- The local version of an image whose digest is the one given; 0 for none. -/
def State.verWith (s : State) (img : Nat) (d : Blob) : Nat :=
  match tget? s.firn.images img with
  | none => 0
  | some i => (((i.versions.filter fun v => v.2.digest == d).map (·.1))).headD 0

/-- Every image that the blob's contexts and pools use is loaded with its digest (R236 check 5). -/
def State.imagesOk (s : State) (z : FnImage) : Bool :=
  (z.images.all fun e => match tget? s.firn.images e.1 with
    | some i => i.current != 0 && (match tget? i.versions i.current with | some v => v.digest == e.2 | none => false)
    | none => false) &&
  z.pools.all fun e => s.verWith e.2.1.image e.2.2 != 0

/-- The objects' IDs are free in this block (assumption 16). -/
def State.idsFree (s : State) (z : FnImage) : Bool :=
  (z.ctxs.all fun e => (tget? s.ctxs e.1).isNone) && (z.allocs.all fun a => (tget? s.allocs a.id).isNone) &&
    (z.variants.all fun e => (tget? s.silt.variants e.1).isNone) && (z.seqs.all fun q => (tget? s.snow.seqs q.id).isNone) &&
    z.pools.all fun e => (tget? s.pools e.1).isNone

/-- Take one frame, or host chunk, of a tier for an entry: the one asked for where it is free. -/
def State.takeOne (s : State) (e : Fkt) (tier addr : Nat) (ask : Option Nat) : Option (Nat × State) :=
  if tier = 2 then
    match s.chooseChunks 1 [] with
    | some [k] => (s.takeChunks e [(k, addr)]).map fun t => (k, t)
    | _ => none
  else
    let pick := match ask with | some a => if s.frameFree tier a then some a else s.lowestFrame tier | none => s.lowestFrame tier
    pick.bind fun k => (s.takeFrames tier e [k]).map fun t => (k, t)

/-- The tier of an imported frame: its own, but a function in VX1 compatibility takes HBM while free HBM remains and the board tier otherwise (R281). -/
def State.importTier (s : State) (vx1 : Bool) (tier : Nat) : Nat := if vx1 && tier != 2 then (if s.freeFrames 0 = 0 then 1 else 0) else tier

/-- Take the frames of an allocation, and give them with the frames of the placement asked for that are left. -/
def State.takeAll (vx1 : Bool) (e : Fkt) : List (Nat × Nat) → List Nat → List Nat → State → Option (List (Nat × Nat) × List Nat × State)
  | [], _, ask, s => some ([], ask, s)
  | (t0, _) :: t, addrs, ask, s =>
    let tier := s.importTier vx1 t0
    match s.takeOne e tier (addrs.headD 0) (if tier = 2 then none else ask.head?) with
    | none => none
    | some (k, s1) =>
      (State.takeAll vx1 e t (if tier = 2 then addrs.drop 1 else addrs) (if tier = 2 then ask else ask.drop 1) s1).map fun x =>
        ((tier, k) :: x.1, x.2)

/-- Give a part of memory its contents through the port, granule by granule, where they differ from what is there: host chunks are written
through the host port, and their pages logged (R227, R237). -/
def State.putPart (s : State) (q : MemReq) (n : Nat) (cells : List Host.Cell) : State :=
  let old := cellsOf s.mem (devAddr q.tier q.offset) n
  (nubBy ((old ++ cells).map (·.1 / 512))).foldl (fun t g =>
    let b := memRead cells (g * 512) 512
    if memRead t.mem (devAddr q.tier (q.offset + g * 512)) 512 = b then t
    else t.portWrite { q with offset := q.offset + g * 512 } b) s

/-- Install an allocation with its contents (R237, R466). -/
def State.putAlloc (s : State) (vx1 : Bool) (a : FnAlloc) (ask : List Nat) : Option (List (Nat × Nat) × List Nat × State) :=
  let e : Fkt := { prot := a.alloc.prot, key := a.alloc.key, fn := a.alloc.fn, alloc := a.id }
  let q : MemReq := { fn := a.alloc.fn, gen := (s.fn a.alloc.fn).generation, key := e.key, prot := e.prot, node := s.nodeId }
  (State.takeAll vx1 e a.alloc.frames a.addrs ask s).map fun x =>
    let t := x.1.zipIdx.foldl (fun t y => t.putPart { q with tier := y.1.1, offset := y.1.2 * frameBytes } frameBytes
      (cellsOf a.cells (y.2 * frameBytes) frameBytes)) x.2.2
    (x.1, x.2.1, { t with allocs := tset t.allocs a.id { a.alloc with frames := x.1, tier := (x.1.map (·.1)).foldl max 0 } })

/-- Install every allocation; the result lists where each old frame went: the old tier and frame, and the new ones. -/
def State.putAllocs (vx1 : Bool) : List FnAlloc → List Nat → State → Option (List ((Nat × Nat) × Nat × Nat) × State)
  | [], _, s => some ([], s)
  | a :: t, ask, s =>
    match s.putAlloc vx1 a ask with
    | none => none
    | some (fs, ask1, s1) => (State.putAllocs vx1 t ask1 s1).map fun x => (a.alloc.frames.zip fs ++ x.1, x.2)

/-- A leaf at the place its frame has moved to; a 1 GiB leaf becomes 2 MiB leaves. -/
def moveLeaf (node : Nat) (dst : List ((Nat × Nat) × Nat × Nat)) (l : Leaf) : List Leaf :=
  if l.alloc = 0 then [l]
  else (if l.size = 2 then l.split else [l]).map fun x =>
    match dst.find? fun e => e.1 == (x.tier, x.offset / frameBytes) with
    | some e => { x with node := node, tier := e.2.1, offset := e.2.2 * frameBytes + x.offset % frameBytes }
    | none => x

/-- Install a sequence with new pages (R237). -/
def State.putSeq (s : State) (q : FnSeq) : Option State :=
  match ({ s.snow with seqs := tset s.snow.seqs q.id { q.seq with pages := [], blocks := [], pinned := false, leaving := false } } : Snow).grant q.id 0 q.pages.length none with
  | none => none
  | some (ps, w, mv) =>
    let t := ({ s with snow := { w with seqs := tmod w.seqs q.id fun x => { x with pages := ps } } } : State).doMoves mv ps
    let r : MemReq := { key := kvKey, node := s.nodeId }
    some ((ps.zip q.pages).foldl (fun u e => u.putPart { r with tier := e.1.tier, offset := e.1.page * pageSize } pageSize e.2) t)

/-- Install the sequences, with the table blocks they need. -/
def State.putSeqs (s : State) (l : List FnSeq) : Option State :=
  (l.foldl (fun o q => o.bind fun t => t.putSeq q) (some s)).map State.syncSeqs

/-- Install a queue; its parked and held completions take park entries of this block. -/
def State.putQueue (s : State) (f : Nat) (e : Nat × Queue) : State :=
  let i := s.qid f e.1
  let s1 := { s with queues := tset s.queues i { e.2 with fn := f, parked := [], held := [] } }
  (e.2.parked.map (·.cqe) ++ e.2.held).foldl (fun t c => t.parkCqe i c) s1

/-- Add the entries of a table to another. -/
def mergeTbl {α : Type} (t u : Tbl α) : Tbl α := u.foldl (fun x e => tset x e.1 e.2) t

/-- Install the contents of a blob in a function (R236 check 6, R237, R466): none where memory, a table or an ID is lacking. Whether its queue range
overlaps another function's is not asked (DESIGN CHOICE, assumption 166). -/
def State.install (s : State) (f : Nat) (z : FnImage) (seq : Nat) (ask : List Nat) : Option State :=
  let own (a : FnAlloc) : FnAlloc := { a with alloc := { a.alloc with fn := f } }
  let s1 := (s.keysOf f).foldl (fun t k => (t.fillKey k (some f)).updKey k fun x =>
    { x with tenant := match tget? z.tenants k with | some y => some y | none => x.tenant }) s
  if !s.idsFree z || decide (s.storeBytes < storeUsed (s.graphs ++ z.graphs)) then none
  else
    (State.putAllocs z.vx1 (z.allocs.map own) ask s1).bind fun x =>
    let dst := x.1
    let s2 := x.2
    let ctxs := tmap z.ctxs fun _ c =>
      { c with fn := f, leaves := c.leaves.flatMap (moveLeaf s2.nodeId dst), resident := false, waitSince := none, aged := false, saves := [] }
    if tablePool < s2.tablePagesUsed + (ctxs.map fun c => tablePages c.2.leaves).sum ∨
        262144 < s2.slotStates + (ctxs.map fun c => c.2.clusterList.length).sum then none
    else
      (s2.putSeqs (z.seqs.map fun q => { q with seq := { q.seq with fn := f } })).map fun s3 =>
      let s4 := { s3 with
        ctxs := (ctxs.foldl (fun (t : State) (e : Nat × Ctx) =>
          { t with ctxs := tset t.ctxs e.1 { e.2 with backing := t.takeSlotStates e.2.clusterList.length } }) s3).ctxs
        silt := { s3.silt with variants := mergeTbl s3.silt.variants (tmap z.variants fun _ (v : Variant) => { v with fn := f }) }
        graphs := s3.graphs ++ z.graphs.map fun (g : Graph) => { g with fn := f }
        pools := mergeTbl s3.pools (z.pools.map fun (e : Nat × Pool × Blob) =>
          (e.1, { e.2.1 with fn := f, imageVer := s.verWith e.2.1.image e.2.2 }))
        ledg := { s3.ledg with heads := tset s3.ledg.heads f { z.head with ckpt := 0 } }
        kao := { s3.kao with migs := tmod s3.kao.migs f fun m => { m with imported := seq } } }
      let s5 := z.queues.foldl (fun t e => t.putQueue f e) (ctxs.foldl (fun t e => t.putTables e.1 e.2.leaves) s4)
      let stayed := z.vx1Frames.filterMap fun k => (dst.find? fun e => e.1 == (0, k) && e.2.1 == 0).map (·.2.2)
      let frames := stayed ++ (dst.filterMap fun e => if e.2.1 = 0 ∧ !stayed.contains e.2.2 then some e.2.2 else none)
      ((s5.persistPut (headAt f) (s5.head f).bytes).updFn f fun y => { y with
        vx1 := z.vx1, vx1Next := z.vx1, generation := z.generation, phase := .enabled, restarted := true, vx1Frames := frames }).settle

end Sys2Proof.Machine
end

