-- ==== Sys2Proof/Machine/Functions.lean ====
section
/-! DEFINITION. The function commands, their transitions, migration, and the written-page log (R51, R199 to R239). -/

namespace Sys2Proof.Machine

open Sys2Proof

/-- FN_ENABLE (R201, R202, R206). -/
def execFnEnable (r : Nat) (io : HostIo) (s : State) : Out :=
  .next (s.runAdmin r 0x10 fun t c =>
    let f := fld c.sqe 32 2
    if !vfField f then t.report r .invalidField
    else
      let join := (t.updFn f fun x => { x with enablers := x.enablers ++ [r] }).park r
      match (t.fn f).phase with
      | .disabled =>
        match t.enableCheck f with
        | some st => t.report r st
        | none => (t.updFn f fun x => { x with phase := .enabling, enablers := [r] }).park r
      | .enabling => join
      | .enabled => t.answer r c io (leBytes 2 (t.fn f).generation) id
      | _ => if bit (fld c.sqe 34 1) 0 then join else t.report r .busyQuiescing)

/-- An enable takes effect (R203, R510, R625): the generation goes up, the function is Enabled, and every FN_ENABLE of it completes. -/
def State.enableNow (s : State) (f r : Nat) (io : HostIo) (others : List Nat) : State :=
  let s1 := (s.discardParked f).updFn f fun x =>
    { x with generation := nextGen x.generation, vx1 := x.vx1Next, phase := .enabled, enablers := [] }
  let s2 := s1.restartDue f
  let s3 := if s2.tarn.everEnabled then s2
    else { (List.range 32).foldl (fun t u => t.updUnit u fun y => { y with bare := false }) s2 with
           tarn := { s2.tarn with everEnabled := true } }
  ((s3.modCmd r fun x => { x with result := padTo 64 (leBytes 2 (s3.fn f).generation) }).commit r).answerGen f io others

/-- ENABLE_TAKES_EFFECT: the result block is written and confirmed first (R152); where that fails the function stays Disabled, and the enables
that joined fail with it. An enable whose restart receipt must wait for Ledger waits with it (R508, R511). An enable that every command has been withdrawn from takes no effect (R207). -/
def execEnableTakesEffect (fn : Nat) (io : HostIo) (s : State) : Out :=
  .next (
    let x := s.fn fn
    if x.phase != .enabling || !s.tarnRuns || s.restartWaits fn then s
    else
      let off := s.updFn fn fun y => { y with phase := .disabled, enablers := [] }
      match x.enablers with
      | [] => off.afterTransition fn io
      | r :: t =>
        match tget? s.cmds r with
        | none => s.updFn fn fun y => { y with enablers := t }
        | some c =>
          let s1 := s.writeResult c (leBytes 2 (nextGen x.generation))
          if io.write = .ok then (s1.enableNow fn r io t).afterTransition fn io
          else
            (((r :: t).foldl (fun u k => u.report k .hostAccessFailed) s1).updFn fn fun y =>
              { y with phase := .disabled, enablers := [] }).afterTransition fn io)

/-- FN_QUIESCE (R201, R205). -/
def execFnQuiesce (r : Nat) (_io : HostIo) (s : State) : Out :=
  .next (s.runAdmin r 0x11 fun t c =>
    let f := fld c.sqe 32 2
    if !vfField f then t.report r .invalidField else t.runQuiesce f r)

/-- QUIESCE_COMPLETE: the last command of the function has produced its CQE (R205). -/
def execQuiesceComplete (fn : Nat) (s : State) : Out :=
  .next (
    let x := s.fn fn
    if x.phase != .quiescing || !(s.cmdsOf fn).isEmpty || !s.tarnRuns then s
    else
      let s1 := s.updFn fn fun y => { y with phase := .disabled, quiescers := [] }
      (x.quiescers.foldl State.commit s1).enableWaiting fn)

/-- FN_RESET (R201, R214). -/
def execFnReset (r : Nat) (io : HostIo) (s : State) : Out :=
  .next (s.runAdmin r 0x12 fun t c =>
    let f := fld c.sqe 32 2
    if !vfField f then t.report r .invalidField else t.runReset f r io)

/-- VF_FUNCTION_LEVEL_RESET: as FN_RESET, with no command to answer (R51, R201). -/
def execVfFunctionLevelReset (fn : Nat) (s : State) : Out :=
  .next (
    if !vfField fn then s
    else s.config (.vfFunctionLevelReset fn) fun t =>
      match (t.fn fn).phase with
      | .resetting => t
      | .enabling => t.updFn fn fun x => { x with afterwards := x.afterwards ++ [flrMark] }
      | _ => t.beginReset fn)

/-- FUNCTION_RESET_END (R201, R206, R214): the drain has ended. Where the function has mappings, what comes before them goes and their
invalidations are broadcast; once these are acknowledged the row comes again: the rest of the teardown, the state the function returns to, and the
commands that waited for it. -/
def execFunctionResetEnd (fn : Nat) (io : HostIo) (s : State) : Out :=
  .next (
    let x := s.fn fn
    if x.phase != .resetting || !s.resetDrained fn || !s.tarnRuns then s
    else
      let s0 := ((s.cmdsOf fn).foldl State.discard s).discardParked fn
      if !(s0.mappedCtxs fn).isEmpty then (s0.unmapFn fn).settle
      else
      let s1 := s0.teardown fn
      let s2 := s1.updFn fn fun y =>
        { y with phase := if x.wasEnabled then .enabled else .disabled, wasEnabled := false, tearing := [], quiescers := [], resetters := []
                 enablers := if x.wasEnabled then [] else y.enablers }
      let s3 := x.quiescers.foldl State.commit (s2.answerGen fn io x.resetters)
      if x.wasEnabled then ((s3.answerGen fn io x.enablers).afterTransition fn io).settle
      else ((s3.afterTransition fn io).enableWaiting fn).settle)

/-- FN_EXPORT (R201, R232 to R235, R466); a checkpoint of the head is taken before the blob is written (R501). -/
def execFnExport (r : Nat) (io : HostIo) (s : State) : Out :=
  .next (s.runAdmin r 0x13 fun t c =>
    let f := fld c.sqe 32 2
    if !vfField f then t.report r .invalidField
    else match tget? t.kao.migs f with
      | none => t.report r .keyUnavailable
      | some m =>
        if (t.fn f).phase ≠ .disabled then t.report r .busy
        else t.withData r c io (admDataLen c.sqe) fun u b =>
          match chunkList b with
          | none => u.report r .invalidField
          | some l =>
            let z := u.blob f m
            if l.length * frameBytes < z.length then u.failWith r c io (leBytes 8 z.length) .invalidField
            else
              let u1 : State := { u with ledg := { u.ledg with queue := u.ledg.queue ++ [u.ckptNow f 2 none] } }
              let v := ((l.zip (chunks frameBytes l.length z)).foldl (fun w e => w.hostWrite c.fn e.1 e.2) u1).drawn
              v.answer r c io (leBytes 8 z.length) fun w =>
                { w with kao := { w.kao with migs := tmod w.kao.migs f fun y => { y with exports := y.exports + 1 } } })

/-- The header of a blob names this block's format (R236 check 1); a reserved byte that is not zero and a reserved mode are refused with it
(R16, R233, assumption 176). -/
def State.blobHeadOk (s : State) (b : Blob) : Bool :=
  fld b 0 4 == 0x42465856 && fld b 4 4 == 1 && fld b 8 2 == bits s.versionWord 23 16 && fld b 10 2 == bits s.versionWord 63 48 &&
    fld b 12 1 == 0 && decide (fld b 13 1 ≤ 1)

/-- The sections of a blob, where its tag verifies under the function's migration key and its use count is a new one (R236 check 2). -/
def State.openBlob (s : State) (f : Nat) (b : Blob) : Option FnImage :=
  match tget? s.kao.migs f with
  | none => none
  | some m =>
    let len := fld b 24 8
    if len < 80 ∨ b.length < len ∨ fld b 40 8 ≤ m.imported then none
    else (gcmOpen (leBytes 32 m.key) (slice b 52 12) (b.take 64) ((b.take len).drop 64)).bind fun body =>
      (readSections 0 (fld b 48 4) body).bind (FnImage.ofSections (fld b 13 1 == 1) (fld b 16 2))

/-- The keys and queues of a function match those of a blob (R236 check 4). -/
def State.blobFits (s : State) (f : Nat) (b : Blob) : Bool :=
  s.keysOf f == (List.range (fld b 22 2)).map (fld b 20 2 + ·) && decide (fld b 18 2 ≤ (s.fn f).qCount)

/-- FN_IMPORT (R201, R232, R236, R237, R466): the host data are the chunk list and then the bytes of the chunks. -/
def execFnImport (r : Nat) (io : HostIo) (frames : List Nat) (s : State) : Out :=
  .next (s.runAdmin r 0x14 fun t c =>
    let f := fld c.sqe 32 2
    if !vfField f then t.report r .invalidField
    else t.withData r c io (admDataLen c.sqe) fun u l =>
      match chunkList l with
      | none => u.report r .invalidField
      | some as =>
        let v := as.foldl (fun w a => w.hostRead c.fn a frameBytes) u
        let b := io.data.drop (admDataLen c.sqe)
        if !v.blobHeadOk b then v.report r .invalidField
        else match v.openBlob f b with
          | none => v.report r .authFailed
          | some z =>
            if !v.importable f then v.report r .busy
            else if !v.blobFits f b then v.report r .invalidField
            else if !v.imagesOk z then v.report r .invalidImage
            else match v.install f z (fld b 40 8) frames with
              | none => v.report r .outOfMemory
              | some _ => v.answer r c io (leBytes 2 z.generation) fun y => (y.install f z (fld b 40 8) frames).getD y)

/-! ## The written-page log (R227 to R231) -/

/-- Ring entries of a WPLOG_CTL start are in range (R228). -/
def wplogEntriesOk (n : Nat) : Bool := (List.range 15).any fun k => n == 2 ^ (10 + k)

/-- WPLOG_CTL (R228). -/
def execWplogCtl (r : Nat) (_io : HostIo) (s : State) : Out :=
  .next (s.runAdmin r 0x15 fun t c =>
    let f := fld c.sqe 32 2
    let act := fld c.sqe 34 1
    let n := fld c.sqe 36 4
    let w := (t.fn f).wplog
    if !vfField f || decide (1 < act) then t.report r .invalidField
    else if act = 1 then
      if !wplogEntriesOk n || admDataAddr c.sqe == 0 || admDataLen c.sqe != 8 * n then t.report r .invalidField
      else if w.active || decide (64 ≤ tcount t.fns fun _ x => x.wplog.active) then t.report r .busy
      else (t.updFn f fun x =>
        { x with wplog := { x.wplog with
            active := true, overflow := false, base := admDataAddr c.sqe, entries := n, head := 0, tail := 0, filter := [] } }).commit r
    else if !w.active then t.commit r
    else (t.updFn f fun x => { x with wplog := { x.wplog with flushDone := false, flushing := true, filter := [], stopper := some r } }).handOver r)

/-- VX_WPLOG_CTL is written. The pages of later writes are recorded anew from the request on (R231, assumption 162): what was written before it has
its record. -/
def State.wplogFlush (s : State) (fn value : Nat) : State :=
  if fn < 4096 ∧ bit value 0 = true then
    s.updFn fn fun x => { x with wplog := { x.wplog with flushDone := false, flushing := true, filter := [] } }
  else s

/-- WPLOG_FLUSH: a write to VX_WPLOG_CTL (R231). -/
def execWplogFlush (fn value : Nat) (s : State) : Out :=
  .next (s.access (.wplogFlush fn value) false fun t => t.wplogFlush fn value)

/-- Stops of a function's log that wait for its flush. -/
def State.stopsOf (s : State) (f : Nat) : List Nat :=
  tfind s.cmds fun _ c => c.admin && c.opcode == 0x15 && c.parked && c.stage == .running && fld c.sqe 32 2 == f

/-- WPLOG_FLUSH_DONE: every earlier write and its record is visible (R231); a stop that waits for the flush then ends the log (R228). -/
def execWplogFlushDone (fn : Nat) (s : State) : Out :=
  .next (
    let w := (s.fn fn).wplog
    if !w.flushing || !s.stagesRun then s
    else
      let stop := w.stopper.isSome
      let s1 := s.updFn fn fun x => { x with wplog := { x.wplog with
        flushing := false, flushDone := true, filter := [], stopper := none, active := x.wplog.active && !stop } }
      if stop then (s.stopsOf fn).foldl State.commit s1 else s1)

/-- VX_FN_MORAINE_CLR is written. -/
def State.moraineClear (s : State) (fn value : Nat) : State :=
  if fn < 4096 ∧ bit value 0 = true then s.updFn fn fun x => { x with moraine := 0 } else s

/-- MORAINE_CLEAR: a write to VX_FN_MORAINE_CLR (R212). -/
def execMoraineClear (fn value : Nat) (s : State) : Out :=
  .next (s.access (.moraineClear fn value) false fun t => t.moraineClear fn value)

end Sys2Proof.Machine
end

