-- ==== Sys2Proof/Machine/Queueing.lean ====
section
/-! DEFINITION. The commands of Cirque's own work: fetching, admission, dispatch, completion, receipts, completion and event entries,
deadlines and drains (R102 to R143, R493). -/

namespace Sys2Proof.Machine

open Sys2Proof

/-- SQ_FETCH: the arbiters grant a queue, and the read of its next entries is issued (R102, R103, R114). -/
def execSqFetch (q : Nat) (s : State) : Out :=
  .next (match s.fetchGrant with
    | some (i, slot) => if i = q then s.grantFetch i slot else s
    | none => s)

/-- Take entries that a fetch read obtained from a ring (R104, R105): SQ_HEAD moves past them. -/
def Queue.takeEntries (q : Queue) (l : List Blob) : Queue :=
  { q with
    fetching := 0, fetchDead := false, sqHead := (q.sqHead + l.length) % max 1 q.depth, exposed := q.exposed.drop l.length
    fetched := q.fetched ++ l.zipIdx.map fun e =>
      { sqe := padTo 64 e.1, headAfter := (q.sqHead + e.2 + 1) % max 1 q.depth, capture := q.exposed.getD e.2 0 } }

/-- SQ_FETCH_DONE: the entries obtained are taken for admission; a read that failed leaves the ring at the first entry it did not obtain,
marks the SQ broken and posts SQ_FETCH_FAILED (R104). Entries that return after fetching has stopped stay in the ring (assumption 141). -/
def execSqFetchDone (q : Nat) (entries : List Blob) (resp : HostResp) (s : State) : Out :=
  .next (match tget? s.queues q with
    | none => s
    | some x =>
      if x.fetching = 0 then s
      else
        let stopped := x.fetchDead || x.sqBroken || x.cqBroken || (s.fn x.fn).phase != .enabled
        if resp = .ok then
          if stopped then s.modQ q fun y => { y with fetching := 0, fetchDead := false }
          else s.modQ q fun y => y.takeEntries ((List.range y.fetching).map fun i => entries.getD i [])
        else
          (s.modQ q fun y => { y.takeEntries (if stopped then [] else entries.take y.fetching) with sqBroken := true }).postEvent x.eventFn
            .sqFetchFailed (queueParam q x.fn))

/-- ADMIT_ENTRY (R105). -/
def execAdmitEntry (q : Nat) (rd : BatchRead) (away : Blob) (s : State) : Out := .next (s.admitOne q rd.ecc rd.chk away)

/-- A command may start with respect to the entry before it in its SQ (R110). -/
def State.orderOk (s : State) (c : Cmd) : Bool :=
  match (s.cmds.find? fun e => e.2.no == c.prevNo && e.2.q == c.q) with
  | none => true
  | some (_, p) => if sqeConcurrent c.sqe then p.stage != .accepted else !p.unfinished

/-- DISPATCH: an accepted command goes to the Serac units of its context, to Glaze or to Tarn, in its place among the dispatches (R106,
R107); Tarn runs up to 64 admin commands at once (R148). -/
def execDispatch (r : Nat) (s : State) : Out :=
  .next (match tget? s.cmds r with
    | none => s
    | some c =>
      if s.cirqueRuns && c.stage == .accepted && c.decided.isNone && s.orderOk c && (!c.admin || decide (s.adminRunning < 64)) then
        ({ ((if c.admin then s.pulse 32 else s).modCmd r fun x => { x with stage := .dispatched, seqno := s.cirq.accepts + 1 }) with
            cirq := { s.cirq with accepts := s.cirq.accepts + 1 } } : State).settle
      else s)

/-- The requester that the completion arbiter grants next: the 32 Serac units and Tarn in a round robin (R114). -/
def State.compGrant (s : State) : Option Nat :=
  roundRobin s.cirq.compLast ((List.range 33).filter fun u => tany s.cmds fun _ c => c.stage == .ended && c.unit == u)

/-- COMMAND_COMPLETE: the completion arbiter takes a command whose end every unit, or Tarn, has reported, when the one that reported it has the
grant (R108, R114). -/
def execCommandComplete (r : Nat) (s : State) : Out :=
  .next (match tget? s.cmds r with
    | none => s
    | some c =>
      if s.cirqueRuns && c.stage == .ended && s.compGrant == some c.unit then
        (({ s with cirq := { s.cirq with compLast := c.unit + 1 } } : State).finish r c.status).settle
      else s)

/-- RECEIPT_APPEND: the receipt of a completed I/O command joins its function's chain, commands of one function in the order of their
completions, behind a restart receipt that is still due to it (R510); a stale command is discarded instead (R26, R27, R493, R499, R508). -/
def execReceiptAppend (r : Nat) (s : State) : Out :=
  .next (match tget? s.cmds r with
    | none => s
    | some c =>
      if c.admin || c.stage != .completed || c.order == 0 || !s.stagesRun || s.pwr.cut then s
      else if s.stale c then s.discard r
      else
        let t := s.restartDue c.fn
        if t.ledgerFull || t.restartOwed c.fn || t.ledgerLost ||
            !t.firstDone c (fun x => !x.admin && x.fn == c.fn && x.stage == .completed) then s
        else (t.append c.fn (t.receiptOf c)).modCmd r fun x => { x with stage := .receipted })

/-- Fill the fields of a CQE that Cirque adds as it produces it, and remove the record (R109, R118, R184). -/
def State.completeOut (s : State) (r : Nat) (c : Cmd) : State :=
  (({ s with cmds := tdel s.cmds r } : State).produceCqe c.q { s.cqeOf c with intNow := sqeIntNow c.sqe }).prune

/-- CQE_WRITE: the entry of the queue's oldest completion is written where its CQ has the grant, or parked or held where the CQ is broken, and
its record is freed (R26, R98, R111, R114, R136). -/
def execCqeWrite (r : Nat) (s : State) : Out :=
  .next (match tget? s.cmds r with
    | none => s
    | some c =>
      if !s.cqeDue c || !s.cirqueRuns || s.pwr.cut then s
      else if s.stale c then s.discard r
      else if !s.cqeNext c then s
      else if (tget? s.queues c.q).any (·.cqBroken) then s.completeOut r c
      else if s.cqeGrant == some c.q then ((s.tookCqe c.q).completeOut r c).replayOnward
      else s)

/-- The oldest unconfirmed entry of a CQ is confirmed: it is kept no longer (R134). -/
def Queue.confirmOne (q : Queue) : Queue :=
  let wrap := q.burstStart + 1 == q.depth
  { q with
    burst := q.burst.drop 1, burstStart := if wrap then 0 else q.burstStart + 1
    burstPhase := if wrap then !q.burstPhase else q.burstPhase }

/-- CQ_CONFIRM_READ_DONE: the oldest confirming read that is out returns. Each entry is a burst of its own, with a read of its own, and the
reads of a CQ return in order (R134, assumption 142): the entry is released and a replay goes on, or the CQ breaks or stays broken (R135,
R141). The read of a replay's first slot returns in its turn among them. The reads that were out when the CQ broke change nothing. -/
def execCqConfirmReadDone (q : Nat) (resp : HostResp) (s : State) : Out :=
  .next (match tget? s.queues q with
    | none => s
    | some x =>
      if x.firstRead = some 0 then
        let s1 := s.modQ q fun y => { y with firstRead := none }
        if resp = .ok then (s1.modQ q fun y => { y with replayOn := true }).replayStep q else s1.replayFail q
      else
        let s1 := s.modQ q fun y => { y with firstRead := y.firstRead.map (· - 1) }
        if x.deadReads ≠ 0 then s1.modQ q fun y => { y with deadReads := y.deadReads - 1 }
        else if x.burst.isEmpty then s
        else if resp = .ok then (s1.modQ q Queue.confirmOne).replayStep q
        else (s1.breakCq q).replayFail q)

/-- EVENT_ENTRY_WRITE (R123, R124). -/
def execEventEntryWrite (fn : Nat) (s : State) : Out := .next (s.writeEvent fn)

/-- INT_TIME_EXPIRY: int_time has passed since the oldest unsignalled CQE was written (R125, R126). -/
def execIntTimeExpiry (q : Nat) (s : State) : Out :=
  .next (match tget? s.queues q with
    | none => s
    | some x =>
      match x.unsigSince with
      | none => s
      | some t => if x.mask then s else (s.advanceTo (t + 1000 * x.intTime)).interruptCq q)

/-- The command's end was reported with a failure, which was detected before any expiry (R198). -/
def Cmd.failedFirst (c : Cmd) : Bool := c.stage == .ended && c.status != .success

/-- COMMAND_DEADLINE_EXPIRY: the deadline passes before the completion is recorded (R128, R129, R131, R132): the outcome is a timeout, for an
admin command whose effect holds too, unless a failure was detected before it (R198). While the stages are halted
nothing detects it, so that a command whose deadline passed in a hold-up drains afterwards (R586, R603). An admin command's timeout is an
interrupt of the timer helper (R620, assumption 194). -/
def execCommandDeadlineExpiry (r : Nat) (s : State) : Out :=
  .next (match tget? s.cmds r with
    | none => s
    | some c =>
      if !c.unfinished || c.decided.isSome || c.failedFirst || !s.stagesRun then s
      else
        let s1 := if c.admin then (s.advanceTo c.deadline).pulse 2 else s.advanceTo c.deadline
        if c.stage == .ended then (s1.finish r .timeout).settle
        else if c.admin && !s1.tarnRuns then s1.failCmd r .timeout
        else (s1.fail r .timeout).settle)

/-- DRAIN_COMPLETE: no engine holds anything of a draining command, which completes with the status decided (R129, R639). -/
def execDrainComplete (r : Nat) (s : State) : Out :=
  .next (match tget? s.cmds r with
    | none => s
    | some c => if c.unfinished && s.stagesRun && (!c.admin || s.tarnRuns) then (s.drainIfIdle r).settle else s)

/-- DRAIN_WINDOW_EXPIRY: a command has not drained within its window, and its context is reset (R130, R639); an update that has begun is not
interrupted (R379), and for an admin command the heartbeat's rules recover Tarn (R132). In a function reset the context's commands are
discarded instead (R133, R214). -/
def execDrainWindowExpiry (r : Nat) (s : State) : Out :=
  .next (match tget? s.cmds r with
    | none => s
    | some c =>
      match c.decided, c.window with
      | some st, some w =>
        if c.admin || c.updating || !c.unfinished || !s.holdsEngine r || !s.stagesRun then s
        else
          let s1 := s.advanceTo w
          if (s1.fn c.fn).phase = .resetting then
            (((s1.contextReset c.ctx 0 0 none none).cmdsOfCtx c.ctx).foldl State.discard (s1.contextReset c.ctx 0 0 none none)).settle
          else
            (s1.contextReset c.ctx 1 0 (some (r, if st == .timeout then .timeoutKilled else st)) none).settle
      | _, _ => s)

end Sys2Proof.Machine
end

