-- ==== Sys2Proof/Machine/TopoOps.lean ====
section
/-! DEFINITION. The topology table: its checks, the placement of Vexzer's regions, and what a commit sets up (R160 to R164, R244, R313, R389, R426,
R456, R476, R477, R509, R624). -/

namespace Sys2Proof.Machine

open Sys2Proof

/-! ## Records (R162 to R164, R313, R318) -/

/-- A layout code and its tile parameters (R318). -/
def layoutOk (code red out align : Nat) : Bool :=
  decide (code < 64) && decide (bits code 3 2 < 2) && decide (bits code 1 0 < 2) && red % 32 == 0 && decide (32 ≤ red) && decide (red ≤ 4096) &&
    decide (1 ≤ out) && decide (out ≤ 4096) && decide (6 ≤ align) && decide (align ≤ 12)

/-- A cluster record's reserved fields are zero. -/
def clusterReserved (b : Blob) : Bool :=
  decide (fld b 4 1 < 4) && zeroAt b 8 4 && zeroAt b 26 6 && zeroAt b 40 4 && zeroAt b 45 1 && zeroAt b 56 8

/-- A cluster capability record (R162, R163, R313). R165 leaves open which format codes tap_format permits: those of R166's act_fmt, which must equal
it (DEDUCED, assumption 165). -/
def clusterRecOk (b : Blob) : Bool :=
  let fl := fld b 4 1
  let fmt (x : Nat) : Bool := decide (1 ≤ x) && decide (x ≤ 8)
  if !clusterReserved b then false
  else if !bit fl 0 then zeroAt b 0 64
  else
    decide (fld b 44 1 ≤ 1) && fmt (fld b 5 1) && [1, 2, 3, 8].contains (fld b 7 1) &&
      ((List.range 4).all fun k => decide (1 ≤ fld b (32 + 2 * k) 2) && decide (fld b (32 + 2 * k) 2 ≤ 1024)) &&
      layoutOk (fld b 12 2) (fld b 16 2) (fld b 18 2) (fld b 24 1) &&
      (if bit fl 1 then fmt (fld b 6 1) && layoutOk (fld b 14 2) (fld b 20 2) (fld b 22 2) (fld b 25 1)
       else zeroAt b 6 1 && zeroAt b 14 2 && zeroAt b 20 4 && zeroAt b 25 1)

/-- The memory record (R163). -/
def memoryRecOk (b : Blob) : Bool :=
  let gran (x : Nat) : Bool := decide (8 ≤ x) && decide (x ≤ 21)
  decide (fld b 0 1 < 64) && decide (fld b 2 2 < 4096) && zeroAt b 4 4 && decide (fld b 8 8 ≤ 192 * 2 ^ 30) &&
    decide (fld b 16 8 ≤ 1536 * 2 ^ 30) && fld b 24 8 % frameBytes == 0 && decide (4 * 2 ^ 20 ≤ fld b 32 4) &&
    decide (fld b 24 8 + fld b 32 4 ≤ fld b 16 8) && zeroAt b 36 2 && gran (fld b 38 1) && gran (fld b 39 1) &&
    fld b 40 8 % frameBytes == 0 && zeroAt b 48 16

/-- A link record within its section, for this chip's node ID (R164). -/
def linkRecOk (sec : Blob) (node i : Nat) : Bool :=
  let b := slice sec (8 * i) 8
  let mate := slice sec (8 * (if i % 2 = 0 then i + 1 else i - 1)) 8
  decide (fld b 0 1 < 2) && decide (fld b 1 1 < 64) && decide (fld b 2 1 < 36) && zeroAt b 3 5 && fld b 0 1 % 2 == fld mate 0 1 % 2 &&
    !(bit (fld b 0 1) 0 && fld b 1 1 == node)

/-- A peer record within its section (R164). -/
def peerRecOk (sec : Blob) (i : Nat) : Bool :=
  let b := slice sec (32 * i) 32
  let id := fld b 0 4
  decide (1 ≤ id) && decide (id ≤ 63) && zeroAt b 4 4 && zeroAt b 28 4 && (List.range i).all fun j => fld sec (32 * j) 4 != id

/-- Bytes of a record of a section, and the records it has; the peer section has any number up to 63. -/
def recordBytes (sec : Nat) : Nat := if sec = 1 ∨ sec = 2 then 64 else if sec = 3 then 8 else 32
def recordCount (sec len : Nat) : Nat := if sec = 1 then 32 else if sec = 2 then 1 else if sec = 3 then 36 else len / 32

/-- The length of a section is one that it may have. -/
def sectionLenOk (sec len : Nat) : Bool :=
  if sec = 4 then len % 32 == 0 && decide (len ≤ 63 * 32) else len == recordBytes sec * recordCount sec len

/-- The first invalid record of a section: the first missing or surplus one where its length is wrong (assumption 17). -/
def firstInvalid (sec node : Nat) (b : Blob) : Option Nat :=
  if !sectionLenOk sec b.length then some (min (b.length / recordBytes sec) (if sec = 4 then 63 else recordCount sec 0))
  else (List.range (recordCount sec b.length)).find? fun i =>
    !(if sec = 1 then clusterRecOk (slice b (64 * i) 64)
      else if sec = 2 then memoryRecOk b
      else if sec = 3 then linkRecOk b node i
      else peerRecOk b i)

/-- A section as it was written. -/
def Topo.section_ (t : Topo) (k : Nat) : Option Blob :=
  if k = 1 then t.clusters else if k = 2 then t.memory else if k = 3 then t.links else t.peers

/-- Write a section. -/
def Topo.put (t : Topo) (k : Nat) (b : Blob) : Topo :=
  if k = 1 then { t with clusters := some b } else if k = 2 then { t with memory := some b }
  else if k = 3 then { t with links := some b } else { t with peers := some b }

/-! ## Placement (R244, R389, R426, R476, R477)

Regions are placed in whole frames; a rest of hbm_bytes or board_bytes below 2 MiB is unused (assumption 18). -/

/-- The regions: the first HBM frame and the frames of each, and those of the board pool. -/
structure Regions where
  hbm : Nat
  board : Nat
  trans : Nat
  serac : Nat
  snow : Nat
  varve : Nat
  graph : Nat
  pool : Nat
  persist : Nat
  persistN : Nat
  transN : Nat
  /-- the byte at which the translation region begins: it ends at hbm_bytes -/
  transAt : Nat
  seracN : Nat
  snowN : Nat
  poolN : Nat
  graphN : Nat
deriving DecidableEq, Repr

/-- Bytes of the translation region (R244), and frames of the Varve region. -/
def transBytes : Nat := 2580 * 2 ^ 20
def varveFrames : Nat := 33

/-- Place the regions, without asking whether they fit. -/
def State.regions (s : State) : Regions :=
  let m := s.topo.memory.getD []
  let sec1 := s.topo.clusters.getD []
  let present := (List.range 32).filter fun u => bit (fld sec1 (64 * u + 4) 1) 0
  let seracN := 2048 + (present.map fun u => 24 * framesFor (fld sec1 (64 * u + 48) 8)).sum
  let snowN := 8 + s.snow.hbmFrames
  let graphN := framesFor (fld m 40 8)
  let hbm := s.hbmFrames
  let board := fld m 16 8 / frameBytes
  let trans := (s.hbmBytes - transBytes) / frameBytes
  { hbm := hbm, board := board, seracN := seracN, snowN := snowN, graphN := graphN, poolN := s.snow.boardFrames
    trans := trans, transN := hbm - trans, transAt := s.hbmBytes - transBytes, serac := trans - seracN, snow := trans - (seracN + snowN)
    varve := trans - (seracN + snowN + varveFrames), graph := trans - (seracN + snowN + varveFrames + graphN)
    pool := board - s.snow.boardFrames, persist := fld m 24 8 / frameBytes, persistN := framesFor (fld m 32 4) }

/-- Metadata frames for a count of Varve slots (R477). -/
def metaFrames (n : Nat) : Nat := (n + 28) / 29

/-- The regions fit HBM, the board tier and Varve's slots, with the metadata frames that they need (R389, R426, R476, R477). -/
def Regions.fit (z : Regions) : Bool :=
  let slotsH := z.transN + z.seracN + z.snowN + z.graphN + 1
  decide (z.transN + z.seracN + z.snowN + varveFrames + z.graphN + metaFrames slotsH ≤ z.hbm) &&
    decide (z.poolN + z.persistN + metaFrames z.poolN ≤ z.board) && decide (z.persist + z.persistN ≤ z.pool) &&
    decide (slotsH + z.poolN ≤ varveSlots)

/-- The check of a commit: the section and record that fail, if any (R161, R313, R389, R426, R476, R477). -/
def State.topoFault (s : State) : Option (Nat × Nat) :=
  let node := s.nodeId
  let bad := [1, 2, 3, 4].findSome? fun k =>
    match s.topo.section_ k with
    | none => some (k, 0)
    | some b => (firstInvalid k node b).map fun i => (k, i)
  match bad with
  | some e => some e
  | none =>
    if !((List.range 32).any fun u => bit (fld (s.topo.clusters.getD []) (64 * u + 4) 1) 0) then some (1, 0)
    else if !s.regions.fit then some (2, 0) else none

/-- The frames that a commit claims: tier, first frame, frames, and their entry. -/
def Regions.claims (z : Regions) : List (Nat × Nat × Nat × Fkt) :=
  [ (1, z.persist, z.persistN, { prot := 2, key := 0 }), (0, z.varve, 32, { prot := 2, key := 7 }),
    (0, z.varve + 32, 1, { prot := 0, key := 6 }), (0, z.trans, z.transN, { prot := 0, key := 1 }),
    (0, z.serac, z.seracN, { prot := 0, key := 3 }), (0, z.snow, z.snowN, { prot := 0, key := 4 }),
    (1, z.pool, z.poolN, { prot := 0, key := 4 }), (0, z.graph, z.graphN, { prot := 0, key := 5 }) ]

/-- Claim the regions' frames. -/
def State.claimAll (s : State) (l : List (Nat × Nat × Nat × Fkt)) : State :=
  l.foldl (fun t e => (t.takeFrames e.1 e.2.2.2 ((List.range e.2.2.1).map (e.2.1 + ·))).getD t) s

/-- The regions' places and the page pools over them (R244, R389, R426, R477). -/
def State.setRegions (s : State) (z : Regions) : State :=
  let pages (first n : Nat) : List Nat := (List.range (8 * n)).map (8 * first + ·)
  { s with
    esk := { s.esk with region := z.transAt }
    serac := { s.serac with region := z.serac * frameBytes }
    varve := { s.varve with region := z.varve * frameBytes }
    snow := { s.snow with
      region := z.snow * frameBytes, boardRegion := z.pool * frameBytes
      freeHbm := pages (z.snow + 8) s.snow.hbmFrames, freeBoard := pages z.pool z.poolN } }

/-- Place the regions and give Snowpack its pools (R244, R389, R426, R477). -/
def State.placeRegions (s : State) : State := (s.claimAll s.regions.claims).setRegions s.regions

/-- The header of a persist region is this device's and this region's (R509). -/
def persistOurs (h : Blob) (n : Nat) : Bool :=
  fld h 0 4 == 0x52505856 && fld h 8 8 == Config.deviceSerial % 2 ^ 64 && fld h 16 8 == n

/-- Ledger takes over what the persist region holds, with its header (R509, R510): PF0's restart receipt follows. -/
def State.recoverPersist (s : State) (h : Blob) : State :=
  let l := { s.ledg with
    persist := { s.ledg.persist with nonce := fld h 24 16, tail := fld h 40 8 % max 1 s.ledg.capacity }
    recovered := true, fresh := false, unclean := fld h 4 1 != 1 }
  let t : State := { s with ledg := l }
  (({ t with ledg := { l with heads := t.readHeads, ckpts := t.readCkpts } } : State).putHeader false).restartDue 0

/-- Ledger initialises the persist region with a fresh nonce (R500, R509). -/
def State.formatPersist (s : State) : State :=
  (({ s with
    mem := memClear s.mem (devAddr 1 s.ledg.persist.offset) s.ledg.persist.bytes
    ledg := { s.ledg with
      recovered := false, fresh := true, unclean := false, heads := [], ckpts := []
      persist := { s.ledg.persist with nonce := s.draw % 2 ^ 128, tail := 0 } } } : State).putHeader false).drawn

/-- Ledger reads the persist region that section 2 names, or initialises it (R500, R507, R509, R510). -/
def State.openPersist (s : State) : State :=
  let m := s.topo.memory.getD []
  let off := fld m 24 8
  let n := fld m 32 4
  let h := memRead s.mem (devAddr 1 off) 48
  let t : State := { s with ledg := { s.ledg with capacity := (n - 0x141000) / 256, persist := { magic := true, bytes := n, offset := off } } }
  if persistOurs h n then t.recoverPersist h else t.formatPersist

/-- Open the tile ports of the present clusters with the credits that their records declare (R64, R163). -/
def State.openPorts (s : State) : State :=
  ((List.range 32).filter s.present).foldl (fun t u =>
    let c := (List.range 4).map fun k => fld (s.clusterRec u) (32 + 2 * k) 2
    let t1 := t.updUnit u fun y => { y with downMax := c, down := c, due := [0, 0, 0, 0], up := upMax, credited := [0, 1, 2, 3] }
    { t1 with ports := { t1.ports with credits := t1.ports.credits ++ upGrants u } }) s

/-- Begin to join the rings whose links are present, one at a time (R573, R624). -/
def State.joinRings (s : State) : State :=
  ((List.range 18).filter fun k => s.linkPresent (2 * k)).foldl (fun t k =>
    let t1 := [2 * k, 2 * k + 1].foldl (fun u n => u.updLink n fun l => { l with st := if l.st = .fenced then .fenced else .outOfService }) t
    (t1.updRing k fun r => { r with st := 1 }).wantJoin k) s

/-- Every function, with the clusters that the topology lists (R158, R163). -/
def State.everyFn (s : State) : Tbl Fn := (List.range 4096).map fun f => (f, { s.fn f with clusters := s.presentMask })

/-- Keys 1 to 7 become live under new values, no function owning them (R159). -/
def State.startKeys (s : State) : State := [1, 2, 3, 4, 5, 6, 7].foldl (fun t k => t.fillKey k none) s

/-- The topology is committed: Tarn reports phase 3 and every function reaches every present cluster (R161). -/
def State.markCommitted (s : State) : State :=
  let s1 : State := { s with topo := { s.topo with committed := true }, tarn := { s.tarn with phase := 3 } }
  { s1 with fns := s1.everyFn }

/-- What a commit does once its checks have passed (R159, R161, R624). -/
def State.commitTopo (s : State) : State :=
  s.placeRegions.startKeys.openPersist.markCommitted.openPorts.joinRings

end Sys2Proof.Machine
end

