-- ==== Sys2Proof/Machine/FirnOps.lean ====
section
/-! DEFINITION. Firn: manifests, placement, loads and the repair of image units (R290 to R312, R330 to R341). The bytes of an image stand
in its tensors; its frames are claimed in the frame key table (R297). -/

namespace Sys2Proof.Machine

open Sys2Proof

/-! ## The manifest (R305) -/

/-- A shard entry, for the body offset that it must begin at. -/
def shardOf (pos : Nat) (b : Blob) : Option Shard :=
  let len := fld b 16 4
  if fld b 0 8 % 4096 ≠ 0 ∨ fld b 8 8 ≠ pos ∨ len % 4096 ≠ 0 ∨ len = 0 ∨ 268435456 < len ∨ fld b 20 4 ≠ 0 ∨ fld b 72 8 ≠ 0 then none
  else some { addr := fld b 0 8, offset := pos, length := len, digest := slice b 24 48 }

/-- The shard entries of a manifest, which cover the body from an offset on. -/
def shardsFrom (b : Blob) (i pos : Nat) : Nat → Option (List Shard × Nat)
  | 0 => some ([], pos)
  | n + 1 =>
    match shardOf pos (slice b (128 + 80 * i) 80) with
    | none => none
    | some x => (shardsFrom b (i + 1) (pos + x.length) n).map fun r => (x :: r.1, r.2)

/-- A stored format code (R298). -/
def storedFormat (f : Nat) : Bool := (decide (1 ≤ f) && decide (f ≤ 8)) || f == 10

/-- stored_bytes and decoded_bytes agree with the format, rows and cols (R298, R300, R301). -/
def Tensor.sizesOk (t : Tensor) : Bool :=
  let mx := t.rows / 32 * t.cols
  (!isMx t.fmt || t.rows % 32 == 0) && t.decoded == formatBytes t.fmt t.rows t.cols &&
    (if t.fmt = 10 then
      decide (64 ≤ t.stored) && (t.stored - 64) % 4100 == 0 && decide ((t.stored - 64) / 4100 ≤ mx) &&
        decide (mx ≤ 988 * ((t.stored - 64) / 4100))
     else t.stored == t.decoded)

/-- A tensor entry, for the layer and index of the entry before it, a count of layers and a body length. -/
def tensorOf (prev : Option (Nat × Nat)) (layers body : Nat) (b : Blob) : Option Tensor :=
  let t : Tensor :=
    { layer := fld b 0 4, index := fld b 4 2, fmt := fld b 6 1, backward := bit (fld b 7 1) 0, rows := fld b 8 4, cols := fld b 12 4
      offset := fld b 16 8, stored := fld b 24 8, decoded := fld b 32 8 }
  let follows := match prev with
    | none => t.layer == 0 && t.index == 0
    | some p => (t.layer == p.1 && t.index == p.2 + 1) || (t.layer == p.1 + 1 && t.index == 0)
  if storedFormat t.fmt && decide (fld b 7 1 < 2) && follows && decide (t.layer < layers) && decide (0 < t.rows) && decide (0 < t.cols) &&
      t.offset % 4096 == 0 && decide (t.offset + t.stored ≤ body) && t.sizesOk && fld b 40 8 == 0
  then some t else none

/-- The tensor entries of a manifest, in order. -/
def tensorsFrom (layers body : Nat) : Option (Nat × Nat) → List Blob → Option (List Tensor)
  | _, [] => some []
  | p, b :: t =>
    match tensorOf p layers body b with
    | none => none
    | some x => (tensorsFrom layers body (some (x.layer, x.index)) t).map (x :: ·)

/-- No two tensors, in the order of their offsets, overlap. -/
def tensorsApart : List Tensor → Bool
  | a :: b :: t => decide (a.offset + a.stored ≤ b.offset) && tensorsApart (b :: t)
  | _ => true

/-- The version that a manifest describes, with a tier preference: none where the manifest is not valid. -/
def manifestOf (b : Blob) (len pref : Nat) : Option ImgVer :=
  let shards := fld b 8 4
  let tensors := fld b 12 4
  let layers := fld b 16 4
  let body := fld b 24 8
  if len < 128 ∨ fld b 0 4 ≠ 0x4D495856 ∨ fld b 4 2 ≠ 1 ∨ fld b 6 2 ≠ 0 ∨ shards = 0 ∨ 65535 < shards ∨ tensors = 0 ∨ 1048576 < tensors ∨
      layers = 0 ∨ 65535 < layers ∨ fld b 20 4 ≠ 0 ∨ fld b 32 8 ≠ 128 + 80 * shards + 48 * tensors ∨ len < fld b 32 8 ∨
      zeroAt b 40 24 = false ∨ zeroAt b 112 16 = false then none
  else
    match shardsFrom b 0 0 shards, tensorsFrom layers body none (tableAt b (128 + 80 * shards) 48 tensors) with
    | some (sh, pos), some ts =>
      if pos = body ∧ ts.getLast?.map (·.layer) = some (layers - 1) ∧
          tensorsApart (sortBy (fun a b => decide (a.offset ≤ b.offset)) ts) = true then
        some { digest := slice b 64 48, pref := pref, layers := layers, bytes := body, tensors := ts, shards := sh }
      else none
    | _, _ => none

/-! ## Placement (R295 to R297) -/

/-- Bytes that a tensor takes in a tier, from one 4 KiB boundary to the next. -/
def Tensor.room (t : Tensor) (board : Bool) : Nat := roundUp 4096 (if board then t.stored else t.decoded)

/-- Whole layers in HBM in increasing order, as long as a room holds the next one; the layers that follow, by number, go to the board tier. -/
def splitLayers (ts : List Tensor) : List Nat → Nat → List Nat
  | [], _ => []
  | l :: rest, room =>
    let need := ((ts.filter (·.layer == l)).map fun t => t.room false).sum
    if need ≤ room then splitLayers ts rest (room - need) else l :: rest

/-- The tensors of a version with their tiers, for the bytes that are free in HBM. -/
def State.tiersOf (s : State) (v : ImgVer) (hbmFree : Nat) : List Tensor :=
  let board := if v.pref = 3 then splitLayers v.tensors (List.range v.layers) (hbmFree - s.firn.hbmReserve) else []
  v.tensors.map fun t => { t with board := v.pref == 1 || board.contains t.layer }

/-- Bytes of the tensors in a tier. -/
def tierBytes (ts : List Tensor) (board : Bool) : Nat := ((ts.filter (·.board == board)).map fun t => t.room board).sum

/-- Place a version where so many frames of HBM and of the board tier are free: a tensor that is not in Till-4 cannot stand in the board tier
(R296), and the tiers must hold it (R295). -/
def State.placeVer (s : State) (v : ImgVer) (hbm board : Nat) : Except Status ImgVer :=
  let ts := s.tiersOf v (hbm * frameBytes)
  if ts.any fun t => t.board && t.fmt != 10 then .error .manifestInvalid
  else if framesFor (tierBytes ts false) ≤ hbm ∧ framesFor (tierBytes ts true) ≤ board then .ok { v with tensors := ts }
  else .error .outOfMemory

/-- Frames of a list of frame key table indices that lie in HBM, and in the board tier. -/
def State.hbmOf (s : State) (l : List Nat) : List Nat := l.filter fun k => decide (k < s.hbmFrames)
def State.boardOf (s : State) (l : List Nat) : List Nat :=
  (l.filter fun k => decide (s.hbmFrames ≤ k)).map (· - s.hbmFrames)

/-- Place a version in the memory that is free once some frames are freed. -/
def State.placeWith (s : State) (v : ImgVer) (freed : List Nat) : Except Status ImgVer :=
  s.placeVer v (s.freeFrames 0 + (s.hbmOf freed).length) (s.freeFrames 1 + (s.boardOf freed).length)

/-! ## The turn of a load (R307, R330 to R334) -/

/-- Firn runs: the stages run and its engine is neither in reset nor fenced (R523). -/
def State.firnRuns (s : State) : Bool := s.stagesRun && !s.engDown 0x0900

/-- An image. -/
def State.image (s : State) (i : Nat) : Image := tget s.firn.images {} i

/-- What a load does when its turn comes: it fails, waits for a drain, waits with the current version freed because nothing pins it (R332), or
begins with a placed version and its number, freeing the staged version's frames and, where set, the current version. -/
inductive LoadTurn where
  | fail (st : Status)
  | drain
  | free
  | begin_ (v : ImgVer) (n : Nat) (current : Bool)
deriving DecidableEq, Repr

/-- The number of a replacement: the next that no live version of the image has (R291, assumption 152). -/
def Image.nextNo (x : Image) : Nat := freshVersion (tkeys x.versions) x.versions.length x.lastVer

/-- The number of a first load: 1, or the next that no live version of the image has (R291, assumption 152). -/
def Image.firstNo (x : Image) : Nat := if (tget? x.versions 1).isNone then 1 else x.nextNo

/-- Decide the turn of a load. -/
def State.loadTurn (s : State) (l : Load) : LoadTurn :=
  let x := s.image l.image
  let staged := (x.staged.map fun p => p.2.frames).getD []
  if l.kind = 1 then
    match x.staged with
    | none => .fail .imageNotStaged
    | some p => .begin_ p.2 p.1 false
  else if l.kind = 0 then
    match s.placeWith l.ver [] with
    | .ok v => .begin_ v x.firstNo false
    | .error st => .fail st
  else if x.state ≠ 3 ∧ x.state ≠ 5 ∧ !l.draining then .fail .invalidImage
  else
    let current := (tget? x.versions x.current).map fun v => v.frames
    match s.placeWith l.ver staged with
    | .ok v => .begin_ v x.nextNo false
    | .error _ =>
      match s.placeWith l.ver (staged ++ x.versions.flatMap fun v => v.2.frames) with
      | .error st => .fail st
      | .ok _ =>
        if current.isNone || s.imagePinned l.image x.current then .drain
        else match s.placeWith l.ver (staged ++ current.getD []) with
          | .ok v => .begin_ v x.nextNo true
          | .error _ => .free

/-- Set the record of a load at the head of the queue. -/
def State.modLoad (s : State) (f : Load → Load) : State :=
  match s.firn.loads with
  | [] => s
  | l :: t => { s with firn := { s.firn with loads := f l :: t } }

/-- Take the load at the head of the queue away. -/
def State.popLoad (s : State) : State :=
  { s with firn := { s.firn with loads := s.firn.loads.drop 1, loadState := 0 } }

/-- A load fails before it begins; FIRN_LOAD_STATUS shows a manifest that its turn finds invalid, with no shard to name (R342, assumption 183). -/
def State.refuseLoad (s : State) (l : Load) (st : Status) : State :=
  let s1 := s.popLoad
  let s2 := if l.kind = 0 then s1.absentImage l.image else if l.draining then s1.undrain l.image else s1
  let s3 : State := if st = .manifestInvalid then { s2 with firn := { s2.firn with loadFail := 3, loadImage := l.image, failedShard := s.draw % 65536 } }
    else s2
  (if st = .manifestInvalid then s3.drawn else s3).report l.cmd st

/-- A replacement waits for a drain: the staged replacement it supersedes is freed, and the image refuses (R330, R332). -/
def State.drainFor (s : State) (l : Load) : State :=
  if l.draining then s
  else
    let s1 := s.freeIdx (((s.image l.image).staged.map fun p => p.2.frames).getD [])
    let s2 := (s1.modImage l.image fun x => { x with before := x.state, state := 4, staged := none }).modLoad fun y => { y with draining := true }
    { s2 with firn := { s2.firn with
      loadState := 3, loadImage := l.image, shardCount := l.ver.shards.length, shardsDone := l.ver.shards.countP (·.ok) } }

/-- Free the current version of an image that a replacement drains, now that nothing pins it; the image goes on refusing (R332). -/
def State.freeCurrent (s : State) (i : Nat) : State := (s.modImage i fun x => { x with current := 0 }).pruneImages

/-- Decide the turn of the load at the head as its command is taken: it fails or begins to wait for a drain at once (R330). -/
def State.turnNow (s : State) : State :=
  match s.firn.loads with
  | [l] => match s.loadTurn l with
    | .fail st => s.refuseLoad l st
    | .drain => s.drainFor l
    | .free => (s.drainFor l).freeCurrent l.image
    | .begin_ _ _ _ => s
  | _ => s

/-- Claim the frames of a placed version, those asked for where they are free (R297): base images stand under key 2 in HBM with protection 1,
and under key 0 on the board with protection 2. -/
def State.claimVer (s : State) (v : ImgVer) (asked : List Nat) : Option State × List Nat :=
  let nh := framesFor (tierBytes v.tensors false)
  let nb := framesFor (tierBytes v.tensors true)
  match s.chooseFrames 0 nh (s.hbmOf asked), s.chooseFrames 1 nb (s.boardOf asked) with
  | some h, some b =>
    (some (b.foldl (fun t f => t.setFkt 1 f { prot := 2, key := 0 }) (h.foldl (fun t f => t.setFkt 0 f { prot := 1, key := 2 }) s)),
      h.map (s.frameIndex 0) ++ b.map (s.frameIndex 1))
  | _, _ => (none, [])

/-- Shards in flight: those being read, and those that wait for another read. -/
def Shard.open_ (x : Shard) : Bool := x.inFlight || x.retryAt.isSome

/-- Issue the next shard reads in increasing index order, up to 4 in flight (R308); `n` bounds them. -/
def State.issueShards : Nat → State → State
  | 0, s => s
  | n + 1, s =>
    match s.firn.loads with
    | [] => s
    | l :: _ =>
      if 4 ≤ l.ver.shards.countP Shard.open_ then s
      else match l.ver.shards.findIdx? fun x => !x.ok && !x.open_ with
        | none => s
        | some i =>
          let x := l.ver.shards.getD i default_
          let s1 := (s.modLoad fun y => { y with ver := { y.ver with shards := y.ver.shards.zipIdx.map fun e =>
            if e.2 = i then { e.1 with inFlight := true, firstRead := some (e.1.firstRead.getD s.now) } else e.1 } }).hostRead 0 x.addr x.length
          State.issueShards n s1
where
  default_ : Shard := { addr := 0, offset := 0, length := 0, digest := [] }

/-- Shards verified. -/
def ImgVer.verified (v : ImgVer) : Nat := v.shards.countP (·.ok)

/-- Begin the load at the head with a version and its number. -/
def State.beginLoad (s : State) (l : Load) (v : ImgVer) (n : Nat) (current : Bool) (asked : List Nat) : State :=
  let x := s.image l.image
  let s1 := s.freeIdx (if l.kind = 1 then [] else (x.staged.map fun p => p.2.frames).getD [])
  let s2 := if current then (s1.modImage l.image fun y => { y with current := 0 }).pruneImages else s1
  let claim := if l.kind = 1 then (some s2, v.frames) else s2.claimVer v asked
  match claim.1 with
  | none => s.refuseLoad l .outOfMemory
  | some s3 =>
    let v1 := { v with frames := claim.2, shards := v.shards.map fun z =>
      { z with firstRead := none, retryAt := none, inFlight := false, badDigests := 0 } }
    let s4 := s3.modImage l.image fun y => { y with
      staged := none
      state := if l.kind = 0 then 1 else if current || (l.draining && y.current == 0) then 4 else if l.draining then y.before else if y.state = 2 then 1 else y.state
      before := if current && !l.draining then y.state else y.before }
    let s5 := s4.modLoad fun y => { y with ver := v1, number := n, begun := true, draining := false }
    let s6 := { s5 with firn := { s5.firn with
      loadState := if v1.verified = v1.shards.length then 2 else 1, loadImage := l.image
      shardCount := v1.shards.length, shardsDone := v1.verified } }
    State.issueShards 4 s6

/-! ## Shards (R308, R309, R311) -/

/-- The load that is reading shards, and a shard of it. -/
def State.loadShard (s : State) (i : Nat) : Option (Load × Shard) :=
  match s.firn.loads with
  | [] => none
  | l :: _ => if l.begun && s.firn.loadState == 1 then (l.ver.shards[i]?).map fun x => (l, x) else none

/-- Change a shard of the load at the head. -/
def State.modShard (s : State) (i : Nat) (f : Shard → Shard) : State :=
  (s.progress 0x0900).modLoad fun y => { y with ver := { y.ver with shards := y.ver.shards.zipIdx.map fun e => if e.2 = i then f e.1 else e.1 } }

/-- The load fails for a shard: its version is staged (R311, R333). -/
def State.stageLoad (s : State) (l : Load) (i fail : Nat) (st : Status) : State :=
  let s1 := s.popLoad.modImage l.image fun x => { x with
    staged := some (l.number, l.ver), state := if x.current = 0 then 2 else if x.state = 4 then x.before else x.state }
  ({ s1 with firn := { s1.firn with loadFail := fail, failedShard := i } } : State).report l.cmd st

/-- The load fails MANIFEST_INVALID: its version is freed (R309 to R311, R333). -/
def State.spoilLoad (s : State) (l : Load) (shard : Nat) : State :=
  let s1 := s.popLoad.dropLoadVersion l
  ({ s1 with firn := { s1.firn with loadFail := 3, failedShard := shard } } : State).report l.cmd .manifestInvalid

/-- Bytes of the body from verified shards, none where a part of the range is not yet verified. -/
def bodyRange (sh : List Shard) (off n : Nat) : Option Blob :=
  let l := sh.filter fun x => decide (x.offset < off + n) && decide (off < x.offset + x.length)
  if l.all (·.ok) then some (slice (l.flatMap (·.data)) (off - (l.map (·.offset)).headD 0) n) else none

/-- The Till-4 tensors that a shard completes: those that overlap it and whose shards are all verified, with their bytes. -/
def ImgVer.completedBy (v : ImgVer) (x : Shard) : List (Tensor × Blob) :=
  v.tensors.filterMap fun t =>
    if t.fmt = 10 ∧ t.offset < x.offset + x.length ∧ x.offset < t.offset + t.stored then
      (bodyRange v.shards t.offset t.stored).map fun b => (t, b)
    else none

/-- A tensor as Melt finds it at load: whether it decodes and agrees with its entry, and its corrupt coded blocks (R304, R309). -/
def tillGood (t : Tensor) (b : Blob) : Bool := (decodeTill4 b t.rows t.cols).isSome

/-- A good shard arrives: Melt decodes the tensors that it completes; the load goes on, turns to the body digest after the last shard, or
fails (R308 to R310). -/
def State.takeShard (s : State) (i : Nat) (x : Shard) (data : Blob) : State :=
  let s1 := s.modShard i fun y => { y with ok := true, data := data, inFlight := false }
  match s1.firn.loads with
  | [] => s1
  | l :: _ =>
    let done := l.ver.completedBy x
    let bad := (done.map fun p => if tillBlocks p.2 * 4100 + 64 = p.2.length then tillCorrupt p.2 else 0).sum
    let s2 := { s1 with firn := { s1.firn with
      shardsDone := l.ver.verified, codeErr := satAdd s1.firn.codeErr bad 0xFFFFFFFF } }
    if done.any fun p => !tillGood p.1 p.2 then s2.spoilLoad l i
    else if l.ver.verified = l.ver.shards.length then { s2 with firn := { s2.firn with loadState := 2 } }
    else State.issueShards 4 s2

/-- The shard timeout of a load, in ns (R308). -/
def Load.timeoutNs (l : Load) : Nat := (if l.timeoutMs = 0 then 1000 else l.timeoutMs) * 1000000

/-! ## Activation (R310, R331) -/

/-- A version with its tensors' bytes in place: Till-4 is decoded where it stands in HBM (R296). -/
def ImgVer.filled (v : ImgVer) : ImgVer :=
  let body := v.shards.flatMap (·.data)
  { v with shards := [], tensors := v.tensors.map fun t =>
      let b := slice body t.offset t.stored
      { t with data := if t.fmt = 10 ∧ !t.board then (decodeTill4 b t.rows t.cols).getD [] else b } }

/-- Activate the version of a load in one step; the version it supersedes is freed once unpinned (R292, R310). -/
def State.activate (s : State) (l : Load) : State :=
  let s1 := s.modImage l.image fun x => { x with
    state := 3, current := l.number, lastVer := l.number, versions := tset x.versions l.number l.ver.filled, staged := none }
  ((({ s1 with firn := { s1.firn with loadFail := 0 } } : State).popLoad).pruneImages).pulse 42

/-! ## Units (R335 to R337) -/

/-- A tensor of an image version by its number in manifest order. -/
def State.tensorAt (s : State) (img ver i : Nat) : Option Tensor :=
  match s.imgVer img ver with
  | some v => v.tensors[i]?
  | none => none

/-- Where a unit begins in its tensor's kept bytes: 4 KiB of decoded bytes in HBM, a coded block on the board. -/
def Tensor.unitStart (t : Tensor) (u : Nat) : Nat := if t.board then 64 + 4 * tillBlocks t.data + 4096 * u else 4096 * u

/-- A unit of a tensor: 4 KiB, filled with zeros beyond the tensor's end. -/
def Tensor.unit (t : Tensor) (u : Nat) : Blob := slice t.data (t.unitStart u) 4096

/-- Units of a tensor. -/
def Tensor.units (t : Tensor) : Nat := if t.board then tillBlocks t.data else (t.data.length + 4095) / 4096

/-- The unit that holds a byte of a tensor's kept bytes: for a coded tensor's header and index, its first block. -/
def Tensor.unitOf (t : Tensor) (off : Nat) : Nat :=
  if t.board then (off - (64 + 4 * tillBlocks t.data)) / 4096 else off / 4096

/-- The place of a tensor in its tier's frames: the bytes of the tensors of that tier before it. -/
def ImgVer.tensorBase (v : ImgVer) (i : Nat) : Nat :=
  match v.tensors[i]? with
  | none => 0
  | some t => (((v.tensors.take i).filter (·.board == t.board)).map fun x => x.room t.board).sum

/-- The frames of a version in the tier of a tensor. -/
def State.verFrames (s : State) (v : ImgVer) (board : Bool) : List Nat := if board then s.boardOf v.frames else s.hbmOf v.frames

/-- The image unit at an address of a tier: image, version, tensor and unit. -/
def State.unitAt (s : State) (tier off : Nat) : Option (Nat × Nat × Nat × Nat) :=
  s.firn.images.findSome? fun e => e.2.versions.findSome? fun v =>
    match (s.verFrames v.2 (tier == 1)).findIdx? (· == off / frameBytes) with
    | none => none
    | some i =>
      let o := i * frameBytes + off % frameBytes
      (v.2.tensors.zipIdx.find? fun t => t.1.board == (tier == 1) && decide (v.2.tensorBase t.2 ≤ o) &&
        decide (o < v.2.tensorBase t.2 + t.1.room t.1.board)).map fun t => (e.1, v.1, t.2, t.1.unitOf (o - v.2.tensorBase t.2))

/-- The repair of a unit. -/
def State.repairOf (s : State) (img ver t u : Nat) : Option Repair :=
  s.firn.repairs.find? fun p => p.image == img && p.ver == ver && p.tensor == t && p.unit == u

/-- The decoded bytes of a tensor that come from a unit, first and end: a coded block yields the MX blocks from its index entry to the next
(R301, R335). -/
def Tensor.unitRange (t : Tensor) (u : Nat) : Nat × Nat :=
  if t.board then
    let n := tillBlocks t.data
    (17 * fld t.data (64 + 4 * u) 4, 17 * if u + 1 < n then fld t.data (68 + 4 * u) 4 else t.rows / 32 * t.cols)
  else (4096 * u, 4096 * u + 4096)

/-- Decoded bytes of the elements of one row, between two columns (R299). -/
def Tensor.rowRange (t : Tensor) (k n0 n1 : Nat) : Nat × Nat :=
  if isMx t.valFmt then ((k / 32 * t.cols + n0) * mxBytes t.valFmt, (k / 32 * t.cols + n1) * mxBytes t.valFmt)
  else ((k * t.cols + n0) * (elemBits t.valFmt / 8), (k * t.cols + n1) * (elemBits t.valFmt / 8))

/-- A tile of a layout reads decoded bytes of a unit (R319, R335). -/
def Tensor.tileNeeds (t : Tensor) (y : Lay) (tile u : Nat) : Bool :=
  let g := y.grid t.rows t.cols
  let ri := (if y.redOuter then tile / max 1 g.2 else tile % max 1 g.1) * y.red
  let oi := (if y.redOuter then tile % max 1 g.2 else tile / max 1 g.1) * y.out
  let (k0, k1, n0, n1) := if y.axisN then (oi, oi + y.out, ri, ri + y.red) else (ri, ri + y.red, oi, oi + y.out)
  let b := t.unitRange u
  (List.range (min k1 t.rows - k0)).any fun i =>
    let r := t.rowRange (k0 + i) n0 (min n1 t.cols)
    decide (r.1 < b.2) && decide (b.1 < r.2)

/-- The repair, if any, that a stream meets at its next step: that of a unit which the step's tile reads (R335, R336). -/
def State.repairMet (s : State) (u : Nat) (w : Stream) : Option Nat :=
  match w.items[w.ahead]? with
  | some (.block l i tile _ _ _ _) =>
    (s.firn.repairs.find? fun p => p.image == w.image && p.ver == w.imageVer &&
      match s.tensorAt p.image p.ver p.tensor with
      | some t => t.layer == l && t.index == i && t.tileNeeds (layOf (s.clusterRec u) (w.pass == 1)) tile p.unit
      | none => false).map (·.id)
  | _ => none

/-- The streams whose next step reads a unit under repair stall at it (R335). -/
def State.stallStreams (s : State) : State :=
  { s with serac := { s.serac with units := tmap s.serac.units fun u x => { x with streams := x.streams.map fun w =>
    if w.stall.isNone then { w with stall := s.repairMet u w } else w } } }

/-- A unit needs repair: it joins a repair under way or waits its turn for one (R335, R336). -/
def State.needRepair (s : State) (img ver t u : Nat) : State :=
  match s.repairOf img ver t u with
  | some _ => s.stallStreams
  | none =>
    let p : Repair := { id := s.firn.repairNext, image := img, ver := ver, tensor := t, unit := u }
    ({ s with firn := { s.firn with repairs := s.firn.repairs ++ [p], repairNext := s.firn.repairNext + 1 } } : State).stallStreams

/-- Change a repair. -/
def State.modRepair (s : State) (id : Nat) (f : Repair → Repair) : State :=
  { s with firn := { s.firn with repairs := s.firn.repairs.map fun p => if p.id = id then f p else p } }

/-- End a repair: the streams that waited for it go on. -/
def State.endRepair (s : State) (id : Nat) : State :=
  { (s.progress 0x0900).pulse 42 with
    firn := { s.firn with repairs := s.firn.repairs.filter fun p => p.id != id }
    serac := { s.serac with
      units := tmap s.serac.units fun _ u => { u with
        streams := u.streams.map fun w => if w.stall = some id then { w with stall := none } else w } } }

/-- The peer record of an image (section 4). -/
def State.peerRec (s : State) (img : Nat) : Option Blob :=
  (tableAt (s.topo.peers.getD []) 0 32 ((s.topo.peers.getD []).length / 32)).find? fun b => fld b 0 4 == img

/-- The image version is poisoned (R339): the commands that pinned it stop while they are stalled, and its repairs end. -/
def State.poison (s : State) (img ver : Nat) : State :=
  let rs := s.firn.repairs.filter fun p => p.image == img && p.ver == ver
  let s0 := s.freeIdx (s.movedInto fun p => p.image == img && p.ver == ver)
  let s1 := s0.modImage img fun x => { x with
    versions := tmod x.versions ver fun v => { v with poisoned := true, lost := v.lost ++ rs.map fun p => (p.tensor, p.unit) }
    state := if x.current = ver ∧ x.state = 3 then 5 else x.state
    before := if x.current = ver ∧ x.before = 3 then 5 else x.before }
  let s2 := s1.postEvent 0 .imagePoisoned (img + ver * 65536)
  let s3 := s2.failList (tfind s2.cmds fun _ c => c.pins && c.unfinished && c.image == img && c.imageVer == ver) .basePoisoned
  ((rs.map (·.id)).foldl State.endRepair s3).settle

/-- A repair asks the next peer that a ring in service lists, or reads the host's canonical copy, or finds no source (R337). -/
def State.askNext (s : State) (p : Repair) : State :=
  let s := s.progress 0x0900
  match p.peers.dropWhile fun n => (s.route n none).isNone with
  | n :: rest =>
    let tag := s.freeTag
    if 4096 ≤ tag then s.modRepair p.id fun y => { y with peers := p.peers, asked := none }
    else match s.route n none, s.tensorAt p.image p.ver p.tensor with
      | some r, some t =>
        (s.modRepair p.id fun y => { y with peers := rest, asked := some (n, s.now + 200000), tag := tag }).sendOn r
          { typ := 0x03, dst := n, tag := tag, body := s.imageDigest p.image p.ver ++ leBytes 4 p.tensor ++ leBytes 4 p.unit ++
              leBytes 1 (b2n t.board) ++ zeros 3 }
      | _, _ => s
  | [] =>
    match p.peerRec with
    | some b =>
      if fld b 16 8 = 0 then s.poison p.image p.ver
      else (s.modRepair p.id fun y => { y with peers := [], asked := none, canonical := true }).hostRead 0 (fld b 16 8) (fld b 24 4)
    | none => s.poison p.image p.ver

/-- Put a unit's bytes in place. -/
def Tensor.putUnit (t : Tensor) (u : Nat) (b : Blob) : Tensor :=
  let o := t.unitStart u
  { t with data := t.data.take o ++ b.take (t.data.length - o) ++ t.data.drop (o + 4096) }

/-- A source yields the unit: it is written back in place, and read again (R338). -/
def State.gotUnit (s : State) (p : Repair) (b : Blob) (host : Bool) : State :=
  let s1 := (s.progress 0x0900).modImage p.image fun x => { x with versions := tmod x.versions p.ver fun v =>
    { v with tensors := v.tensors.zipIdx.map fun e => if e.2 = p.tensor then e.1.putUnit p.unit b else e.1 } }
  let s2 := s1.modRepair p.id fun y => { y with asked := none, peers := [], canonical := false, got := some b }
  { s2 with firn := { s2.firn with
    fromHost := if host then satAdd s2.firn.fromHost 1 0xFFFF else s2.firn.fromHost
    fromPeer := if host then s2.firn.fromPeer else satAdd s2.firn.fromPeer 1 0xFFFF } }

/-- The shards of a manifest that overlap a range of the body. -/
def shardsOver (l : List Shard) (off n : Nat) : List Shard :=
  l.filter fun x => decide (x.offset < off + n) && decide (off < x.offset + x.length)

/-- Shards with the bytes read for them, in order; one whose digest fails is not good. -/
def shardsRead : List Shard → Blob → List Shard
  | [], _ => []
  | x :: t, b =>
    let d := padTo x.length (b.take x.length)
    { x with data := d, ok := sha384 d == x.digest } :: shardsRead t (b.drop x.length)

/-- The bytes of the body in a range, from shards that were read and are good. -/
def goodRange (l : List Shard) (off n : Nat) : Option Blob :=
  let x := shardsOver l off n
  if x.isEmpty then none else bodyRange x off n

/-- The coded blocks of a tensor that cover MX blocks from one up to another, by the index of R301: first block and the block after the last. -/
def blockSpan (starts : List Nat) (lo hi : Nat) : Nat × Nat :=
  ((starts.countP fun e => decide (e ≤ lo)) - 1, starts.countP fun e => decide (e < hi))

/-- The coded blocks of a Till-4 tensor (R301). -/
def Tensor.blocks (t : Tensor) : Nat := (t.stored - 64) / 4100

/-- The body's range of a coded tensor's index, and of `n` of its coded blocks from one on (R301). -/
def Tensor.indexRange (t : Tensor) : Nat × Nat := (t.offset + 64, 4 * t.blocks)
def Tensor.blockRange (t : Tensor) (j n : Nat) : Nat × Nat := (t.offset + 64 + 4 * t.blocks + 4096 * j, 4096 * n)

/-- The index entries of a coded tensor. -/
def Tensor.indexOf (t : Tensor) (ix : Blob) : List Nat := (List.range t.blocks).map fun j => fld ix (4 * j) 4

/-- The coded blocks that cover a decoded unit of a tensor, by its index: the first and the one after the last. -/
def Tensor.unitBlocks (t : Tensor) (u : Nat) (ix : Blob) : Nat × Nat :=
  blockSpan (t.indexOf ix) (4096 * u / 17) (min (4096 * u + 4096 + 16) (t.decoded + 16) / 17)

/-- The shards that cover a unit of a tensor, in order, among those of a canonical manifest (R337): those over its bytes as stored, or over its coded
block; for a decoded unit those over the index, and once `data` gives them those over the coded blocks that the index names. -/
def canonicalShards (l : List Shard) (t : Tensor) (u : Nat) (data : Blob) : List Shard :=
  if t.fmt ≠ 10 then shardsOver l (t.offset + 4096 * u) (min 4096 (t.stored - 4096 * u))
  else if t.board then shardsOver l (t.blockRange u 1).1 4096
  else
    let ix := shardsOver l t.indexRange.1 t.indexRange.2
    match goodRange (shardsRead ix data) t.indexRange.1 t.indexRange.2 with
    | none => ix
    | some b =>
      let z := t.unitBlocks u b
      let r := t.blockRange z.1 (z.2 - z.1)
      ix ++ (shardsOver l r.1 r.2).filter fun x => !ix.contains x

/-- The unit of a tensor from the canonical copy's shards that cover it: the bytes as stored, a coded block, or the decoded bytes of the coded blocks
that cover the unit (R337). -/
def canonicalUnit (l : List Shard) (t : Tensor) (u : Nat) : Option Blob :=
  if t.fmt ≠ 10 then
    (goodRange l (t.offset + 4096 * u) (min 4096 (t.stored - 4096 * u))).map (padTo 4096)
  else if t.board then goodRange l (t.blockRange u 1).1 4096
  else
    (goodRange l t.indexRange.1 t.indexRange.2).bind fun ix =>
      let z := t.unitBlocks u ix
      let starts := t.indexOf ix
      (goodRange l (t.blockRange z.1 (z.2 - z.1)).1 (t.blockRange z.1 (z.2 - z.1)).2).bind fun b =>
        (decodeBlocks b 0 ((starts.drop z.1).take (z.2 - z.1)) 0 (starts.getD z.1 0)).map fun mx =>
          slice mx.flatten (4096 * u - 17 * starts.getD z.1 0) 4096

/-- The shards that a repair reads of a canonical manifest, where its digest is the version's (R337). -/
def State.canonShards (s : State) (p : Repair) (manifest data : Blob) : Option (Tensor × List Shard) :=
  match manifestOf manifest manifest.length 0, s.tensorAt p.image p.ver p.tensor with
  | some m, some t => if m.digest = s.imageDigest p.image p.ver then some (t, canonicalShards m.shards t p.unit data) else none
  | _, _ => none

/-- Read the shards that cover a repair's unit from the host (R337). -/
def State.readCanonical (s : State) (p : Repair) (manifest data : Blob) : State :=
  match s.canonShards p manifest data with
  | some x => x.2.foldl (fun t z => t.hostRead 0 z.addr z.length) s
  | none => s

/-- The unit of a repair from the canonical manifest and the bytes of the shards that cover it, in order (R337). -/
def State.fromCanonical (s : State) (p : Repair) (manifest data : Blob) : Option Blob :=
  (s.canonShards p manifest data).bind fun x => canonicalUnit (shardsRead x.2 data) x.1 p.unit

/-- The frames that a unit lies in, by their place among the frames of its version in its tier: a coded block may straddle two. -/
def ImgVer.unitFrames (v : ImgVer) (t u : Nat) : Nat × Nat :=
  match v.tensors[t]? with
  | some x => let o := v.tensorBase t + x.unitStart u; (o / frameBytes, (o + 4095) / frameBytes)
  | none => (0, 0)

/-- The tier of a repair's unit and the frame that it begins in, which is the one that a move moves (R338, assumption 93). -/
def State.repairFrame (s : State) (p : Repair) : Option (Nat × Nat) :=
  match s.imgVer p.image p.ver, s.tensorAt p.image p.ver p.tensor with
  | some v, some t => ((s.verFrames v t.board)[(v.unitFrames p.tensor p.unit).1]?).map fun f => (b2n t.board, f)
  | _, _ => none

/-- Units of the frame that a repair moves: those of a list of tensor and unit that exist there, straddling ones too (R338). -/
def State.frameUnits (s : State) (p : Repair) (l : List (Nat × Nat)) : List (Nat × Nat) :=
  match s.imgVer p.image p.ver, s.tensorAt p.image p.ver p.tensor with
  | some v, some t =>
    let k := (v.unitFrames p.tensor p.unit).1
    l.filter fun e => e != (p.tensor, p.unit) && ((v.unitFrames e.1 e.2).1 == k || (v.unitFrames e.1 e.2).2 == k) &&
      match v.tensors[e.1]? with | some x => x.board == t.board && decide (e.2 < x.units) | none => false
  | _, _ => []

/-- Begin to move the frame of a repaired unit: take a free frame of its tier, enter it (R276), and repair the units of the frame that fail to read
(R338). -/
def State.beginMove (s : State) (p : Repair) (asked : Option Nat) (bad : List (Nat × Nat)) : Option State :=
  (s.repairFrame p).bind fun f =>
    match s.chooseFrames f.1 1 asked.toList with
    | some [new] =>
      let s1 := s.setFkt f.1 new (if f.1 = 1 then { prot := 2, key := 0 } else { prot := 1, key := 2 })
      let us := s.frameUnits p bad
      let s2 := us.foldl (fun x e => x.needRepair p.image p.ver e.1 e.2) s1
      let ids := us.filterMap fun e => (s2.repairOf p.image p.ver e.1 e.2).map (·.id)
      some (s2.modRepair p.id fun y => { y with moving := some (f.1, f.2, new), waits := ids })
    | _ => none

/-- A frame's move ends: the version's frame is the new one, and the old frame's entry is cleared (R276, R338). -/
def State.endMove (s : State) (p : Repair) (m : Nat × Nat × Nat) : State :=
  (((s.clearFkt m.1 m.2.1).modImage p.image fun x => { x with versions := tmod x.versions p.ver fun y =>
    { y with frames := y.frames.map fun f => if f = s.frameIndex m.1 m.2.1 then s.frameIndex m.1 m.2.2 else f } }).endRepair p.id)

/-- Some repair moves a frame. -/
def State.movesFrame (s : State) (f : Nat × Nat) : Bool :=
  s.firn.repairs.any fun p => p.moving.any fun m => (m.1, m.2.1) == f

/-- End the moves that wait for no repair any more. -/
def State.endMoves (s : State) : State :=
  s.firn.repairs.foldl (fun t p => match p.moving with
    | some m => if p.waits.any fun i => t.firn.repairs.any (·.id == i) then t else t.endMove p m
    | none => t) s

end Sys2Proof.Machine
end

