-- ==== Sys2Proof/Machine/Images.lean ====
section
/-! DEFINITION. The image commands, the steps of a load, and repairs (R290 to R312, R330 to R341). -/

namespace Sys2Proof.Machine

open Sys2Proof

/-- image_id of an image command. -/
def imgId (b : Blob) : Nat := fld b 32 4

/-- An image ID is 1 to 63 (R290). -/
def imgIdOk (i : Nat) : Bool := decide (1 ≤ i) && decide (i ≤ 63)

/-- Queue a load behind those that run or wait (R307). -/
def State.queueLoad (s : State) (l : Load) : State :=
  ((s.park l.cmd).modCmd l.cmd fun c => { c with journal := .handedOver } : State) |> fun t =>
    ({ t with firn := { t.firn with loads := t.firn.loads ++ [l] } } : State).turnNow

/-- The manifest of a load command, checked before any shard is read (R305); one that tier 1 would place a tensor of another format than Till-4
on the board is invalid too (R296). -/
def State.withManifest (s : State) (r : Nat) (c : Cmd) (io : HostIo) (f : State → ImgVer → State) : State :=
  s.withData r c io (admDataLen c.sqe) fun t b =>
    match manifestOf b (admDataLen c.sqe) (fld c.sqe 36 1) with
    | none => t.report r .manifestInvalid
    | some v => if v.pref = 1 ∧ v.tensors.any (fun x => x.fmt != 10) = true then t.report r .manifestInvalid else f t v

/-- IMG_LOAD (R290, R293, R295, R305, R307). -/
def execImgLoad (r : Nat) (io : HostIo) (s : State) : Out :=
  .next (s.runAdmin r 0x38 fun t c =>
    let i := imgId c.sqe
    let pref := fld c.sqe 36 1
    if !imgIdOk i || (pref != 0 && pref != 1 && pref != 3) then t.report r .invalidField
    else if (t.image i).state ≠ 0 then t.report r .busy
    else t.withManifest r c io fun u v =>
      let u1 := { u with firn := { u.firn with images := tupd u.firn.images {} i fun x => { x with state := 1 } } }
      u1.queueLoad { cmd := r, image := i, kind := 0, pref := pref, timeoutMs := fld c.sqe 40 4, ver := v })

/-- IMG_RESUME_LOAD (R312). -/
def execImgResumeLoad (r : Nat) (_io : HostIo) (s : State) : Out :=
  .next (s.runAdmin r 0x39 fun t c =>
    let i := imgId c.sqe
    if !imgIdOk i then t.report r .invalidField
    else match (t.image i).staged with
      | none => t.report r .imageNotStaged
      | some p => t.queueLoad { cmd := r, image := i, kind := 1, pref := p.2.pref, timeoutMs := fld c.sqe 40 4, ver := p.2, number := p.1 })

/-- IMG_REPLACE (R330 to R334). -/
def execImgReplace (r : Nat) (io : HostIo) (s : State) : Out :=
  .next (s.runAdmin r 0x3A fun t c =>
    let i := imgId c.sqe
    let pref := fld c.sqe 36 1
    if !imgIdOk i || (pref != 0 && pref != 1 && pref != 3) then t.report r .invalidField
    else if (t.image i).state ≠ 3 ∧ (t.image i).state ≠ 5 then t.report r .invalidImage
    else t.withManifest r c io fun u v =>
      u.queueLoad { cmd := r, image := i, kind := 2, pref := pref, timeoutMs := fld c.sqe 40 4, ver := v })

/-- A pool or a context uses an image (R194). -/
def State.imageUsed (s : State) (i : Nat) : Bool := tany s.ctxs (fun _ c => c.image == i) || tany s.pools fun _ p => p.image == i

/-- IMG_DROP (R194, R312). -/
def execImgDrop (r : Nat) (_io : HostIo) (s : State) : Out :=
  .next (s.runAdmin r 0x3B fun t c =>
    let i := imgId c.sqe
    let x := t.image i
    if !imgIdOk i then t.report r .invalidField
    else if t.firn.loads.any (·.image == i) then t.report r .busy
    else match x.staged with
      | some p =>
        let t1 := (t.freeIdx p.2.frames).modImage i fun y => { y with staged := none }
        (if x.current = 0 then t1.absentImage i else t1).commit r
      | none =>
        if x.current = 0 then t.report r .invalidImage
        else if t.imageUsed i then t.report r .busy
        else (((t.modImage i fun y => { y with current := 0, state := 0 }).pruneImages).absentImage i).commit r)

/-- IMG_LOAD_BEGIN: the load at the head of the queue begins once its turn, and any drain it waits for, allows (R307, R330 to R334). -/
def execImgLoadBegin (frames : List Nat) (s : State) : Out :=
  .next (match s.firn.loads with
    | [] => s
    | l :: _ =>
      if l.begun || !s.firnRuns then s
      else match s.loadTurn l with
        | .fail st => s.refuseLoad l st
        | .drain => s.drainFor l
        | .free => (s.drainFor l).freeCurrent l.image
        | .begin_ v n cur => s.beginLoad l v n cur frames)

/-- SHARD_READ_DONE (R308, R309): a good shard is taken; a failed read waits 100 µs; a failed digest is read again, and fails the load the
fourth time. -/
def execShardReadDone (shard : Nat) (resp : HostResp) (data : Blob) (s : State) : Out :=
  .next (match s.loadShard shard with
    | none => s
    | some (l, x) =>
      if !x.inFlight || !s.firnRuns then s
      else if resp ≠ .ok then s.modShard shard fun y => { y with inFlight := false, retryAt := some (s.now + 100000) }
      else
        let d := padTo x.length data
        if sha384 d = x.digest then s.takeShard shard x d
        else if x.badDigests = 3 then
          (s.modShard shard fun y => { y with inFlight := false }).stageLoad l shard 2 .shardCorrupt
        else (s.modShard shard fun y => { y with badDigests := y.badDigests + 1 }).hostRead 0 x.addr x.length)

/-- SHARD_RETRY_TIMER (R308): the shard is read again 100 µs after a failed read, unless its shard timeout has passed by then. -/
def execShardRetryTimer (shard : Nat) (s : State) : Out :=
  .next (match s.loadShard shard with
    | none => s
    | some (l, x) =>
      match x.retryAt with
      | none => s
      | some t =>
        if x.firstRead.getD 0 + l.timeoutNs ≤ t ∨ !s.firnRuns then s
        else ((s.advanceTo t).modShard shard fun y => { y with inFlight := true, retryAt := none }).hostRead 0 x.addr x.length)

/-- SHARD_TIMEOUT (R308, R311): no read of a shard has succeeded within the shard timeout, or the re-reads of one fail beyond it. -/
def execShardTimeout (shard : Nat) (s : State) : Out :=
  .next (match s.loadShard shard with
    | none => s
    | some (l, x) =>
      if (x.retryAt.isSome || (x.inFlight && x.badDigests == 0)) && s.firnRuns then
        (s.advanceTo (x.firstRead.getD 0 + l.timeoutNs)).stageLoad l shard 1 .shardMissing
      else s)

/-- BODY_DIGEST_DONE (R152, R310): the version is activated once its result is confirmed; a mismatch frees it. -/
def execBodyDigestDone (io : HostIo) (s : State) : Out :=
  .next (match s.firn.loads with
    | [] => s
    | l :: _ =>
      if !l.begun || s.firn.loadState != 2 || !s.firnRuns then s
      else match tget? s.cmds l.cmd with
        | none => s
        | some c =>
          if sha384 (l.ver.shards.flatMap (·.data)) ≠ l.ver.digest then s.drawn.spoilLoad l (s.draw % 65536)
          else
            let res := leBytes 2 l.number
            let s1 := s.writeResult c res
            if io.write = .ok then ((s1.activate l).modCmd l.cmd fun x => { x with result := padTo 64 res }).commit l.cmd
            else (s1.popLoad.dropLoadVersion l).report l.cmd .hostAccessFailed)

/-! ## Repairs -/

/-- A repair that has peers to ask and could send no request for want of a tag. -/
def Repair.waitsTag (p : Repair) : Bool := p.started && p.asked.isNone && !p.canonical && p.got.isNone && !p.peers.isEmpty

/-- REPAIR_START (R221, R336, R337): a repair that waited for a tag asks again; else the oldest unit that waits is taken up, with at most 8 under
repair, under the configuration that Firn has adopted then. -/
def execRepairStart (s : State) : Out :=
  .next (
    if !s.firnRuns then s
    else match s.firn.repairs.find? Repair.waitsTag with
    | some p => s.askNext p
    | none =>
    if 8 ≤ s.firn.repairs.countP (·.started) then s
    else match s.firn.repairs.find? fun p => !p.started with
      | none => s
      | some p =>
        let rec_ := s.peerRec p.image
        let peers := (maskBits 64 (match rec_ with | some b => fld b 8 8 | none => 0)).filter (· != s.nodeId)
        let go (y : Repair) : Repair := { y with started := true, peers := peers, epoch := s.epochOf 0x0900, peerRec := rec_ }
        (s.modRepair p.id go).askNext (go p))

/-- PEER_ANSWER_TIMEOUT (R337): a peer that gives no answer within 200 µs is unavailable. -/
def execPeerAnswerTimeout (repair : Nat) (s : State) : Out :=
  .next (match s.firn.repairs.find? (·.id == repair) with
    | none => s
    | some p => match p.asked with
      | none => s
      | some a =>
        if !s.firnRuns then s
        else ((s.advanceTo a.2).modRepair p.id fun y => { y with asked := none }).askNext { p with asked := none })

/-- CANONICAL_READ_DONE (R337, R339): the manifest has been read, and the shards it names for the unit are read after it; the copy yields the
unit, or the version is poisoned. -/
def execCanonicalReadDone (repair : Nat) (resp : HostResp) (manifest data : Blob) (s : State) : Out :=
  .next (match s.firn.repairs.find? (·.id == repair) with
    | none => s
    | some p =>
      if !p.canonical || !s.firnRuns then s
      else
        let len := match p.peerRec with | some b => fld b 24 4 | none => 0
        let s1 := if resp = .ok then s.readCanonical p (padTo len manifest) data else s
        match (if resp = .ok then s.fromCanonical p (padTo len manifest) data else none) with
        | some b => s1.gotUnit p b true
        | none => s1.poison p.image p.ver)

/-- REPAIR_READBACK (R338, R339): a clean read-back resumes the streams, as does one of a unit whose frame is being moved already; any other begins to
move the frame, and `bad` are the units of it that fail to read, which are repaired before the move ends. -/
def execRepairReadback (repair : Nat) (rd : Readback) (frame : Option Nat) (s : State) : Out :=
  .next (match s.firn.repairs.find? (·.id == repair) with
    | none => s
    | some p =>
      if p.got.isNone || p.moving.isSome || !s.firnRuns then s
      else if rd.ecc = .clean ∨ rd.ecc = .corrected ∨ (s.repairFrame p).any s.movesFrame = true then (s.endRepair repair).endMoves.settle
      else match s.beginMove p frame rd.bad with
        | some t => t.endMoves.settle
        | none => s.poison p.image p.ver)

end Sys2Proof.Machine
end

