-- ==== Sys2Proof/Machine/Steps.lean ====
section
/-! DEFINITION. The I/O commands as they begin: steps, launches, COPY, and the sequence commands with the provisioning pass (R175 to R177,
R430, R438 to R452). -/

namespace Sys2Proof.Machine

open Sys2Proof

/-- An I/O command of an opcode that has been dispatched and has no status yet (R106). -/
def State.ioCmd (s : State) (r opc : Nat) : Option Cmd :=
  match tget? s.cmds r with
  | some c => if !c.admin && c.opcode == opc && c.stage == .dispatched && c.decided.isNone && s.stagesRun then some c else none
  | none => none

/-- The Serac units take up a command: its tiles, in the order of each cluster, are those of its pinned graph version (R107, R395, R396). -/
def State.takeUpTiles (s : State) (r opc : Nat) : State :=
  match s.ioCmd r opc with
  | none => s
  | some c =>
    let cl := s.clustersOf c.ctx
    (s.modCmd r fun x => { x with stage := .running, tiles := tilesFor (s.nodesOf c) cl }).settle

/-- INFER_STEP (R175, R438). -/
def execInferStep (r : Nat) (s : State) : Out := .next (s.takeUpTiles r 0x80)

/-- TRAIN_STEP (R175, R376, R438). -/
def execTrainStep (r : Nat) (s : State) : Out := .next (s.takeUpTiles r 0x81)

/-- GRAPH_LAUNCH (R175). -/
def execGraphLaunch (r : Nat) (s : State) : Out := .next (s.takeUpTiles r 0x82)

/-- KERNEL_LAUNCH (R175). -/
def execKernelLaunch (r : Nat) (s : State) : Out := .next (s.takeUpTiles r 0x83)

/-- Go on where every span that Cirque translated for a command is mapped with its rights; a missing page faults with Cirque's engine bit
(R255 to R257, R266, R267). -/
def State.cirqueSpans (s : State) (r : Nat) (c : Cmd) (l : List VaSpan) (f : State → Cmd → State) : State :=
  match tget? s.ctxs c.ctx with
  | none => s
  | some x => if s.crevAny fun v => v.unsettled && v.stuck.contains r then s else s.withSpans r c x 32 0x0700 l f

/-- COPY (R177): its source is read under its key and written under the destination's. One whose source lies on another chip asks for it and goes
on when the answers have come. -/
def execCopy (r : Nat) (ecc : Ecc) (s : State) : Out :=
  .next (match s.ioCmd r 0x84 with
    | none => s
    | some c =>
      let n := fld c.sqe 40 8
      let src := ioBufAddr c.sqe 5
      let dst := ioBufAddr c.sqe 6
      let e := s.epochOf 0x0700
      (s.cirqueSpans r c [⟨5, src, n, 1⟩, ⟨6, dst, n, 2⟩] fun t c0 =>
        let ins := c0.pieces 5 src n
        let lack := t.lackReads r c e ins
        if !lack.isEmpty then (t.modCmd r fun z => { z with start := some (z.start.getD t.now) }).askRemote r lack
        else
          let t1 := t.modCmd r fun z => { z with stage := .running, start := some (z.start.getD t.now) }
          if ecc = .uncorrectable ∨ ecc = .poisoned then t1.fail r .memoryUncorrectable
          else
            let y := t1.readPieces r c e ins
            match tget? y.2.cmds r with
            | some c1 =>
              if c1.decided.isSome then y.2.drainIfIdle r
              else ((y.2.writePieces r c1 e (c0.pieces 6 dst n) y.1).remotePump r).workMoved r
            | none => y.2).settle)

/-- Snowpack writes the ID of a new sequence at the command's result address; where that fails for good, the sequence is released again. -/
def State.writeSeqId (s : State) (r : Nat) (c : Cmd) : State :=
  let va := ioBufAddr c.sqe 7
  let t := s.cirqueSpans r c [⟨7, va, 8, 2⟩] fun u c0 =>
    let u1 := u.modCmd r fun z => { z with result := [] }
    ((u1.writePieces r { c with result := [] } (s.epochOf 0x0700) (c0.pieces 7 va 8) c.result).remotePump r).workMoved r
  match tget? t.cmds r with
  | some c1 => if c1.decided.isSome && !c1.result.isEmpty then t.releaseSeq (fld c.result 0 4) else t
  | none => t

/-- SEQ_CREATE (R430): Snowpack takes it for the next pass, once its result page is there; one whose ID waits to be written is tried again. -/
def execSeqCreate (r : Nat) (s : State) : Out :=
  .next (match s.ioCmd r 0x88 with
    | some c =>
      (s.cirqueSpans r c [⟨7, ioBufAddr c.sqe 7, 8, 2⟩] fun t _ =>
        (({ t with snow := { t.snow with creates := t.snow.creates ++ [r] } } : State).modCmd r fun z => { z with stage := .running }).passBoundary).settle
    | none =>
      match tget? s.cmds r with
      | some c =>
        if c.opcode == 0x88 && c.stage == .running && c.decided.isNone && !c.result.isEmpty && s.stagesRun then (s.writeSeqId r c).settle else s
      | none => s)

/-- SEQ_RELEASE (R451, R452): it is a leave that a pass applies. -/
def execSeqRelease (r : Nat) (s : State) : Out :=
  .next (match s.ioCmd r 0x89 with
    | none => s
    | some _ => (s.modCmd r fun x => { x with stage := .running }).passBoundary)

/-- SEQ_TRUNCATE (R451, R452): it replaces the pending truncate of its sequence, and a pass applies it. -/
def execSeqTruncate (r : Nat) (s : State) : Out :=
  .next (match s.ioCmd r 0x8A with
    | none => s
    | some c =>
      let i := fld c.sqe 24 4
      let s1 := s.modCmd r fun x => { x with stage := .running }
      match tget? s.snow.seqs i with
      | none => ((s1.modCmd r fun x => { x with start := some s.now }).report r .success)
      | some _ =>
        ({ s1 with snow := { s1.snow with seqs := tmod s1.snow.seqs i fun q =>
          { q with pendingKeep := some (fld c.sqe 28 4), truncators := q.truncators ++ [r] } } } : State).passBoundary.syncSeqs)

/-- PROVISIONING_PASS (R438 to R447): leaves, growth, joins, start; then the IDs of the sequences that it made are written. -/
def execProvisioningPass (s : State) : Out :=
  .next (if !s.snow.passDue || !s.stagesRun || s.engDown 0x0A00 then s
    else
      let s1 := s.pass
      ((s1.cmds.filter fun e => e.2.opcode == 0x88 && e.2.stage == .running && e.2.decided.isNone && !e.2.result.isEmpty).foldl
        (fun t e => t.writeSeqId e.1 e.2) s1).settle)

end Sys2Proof.Machine
end

