-- ==== Sys2Proof/Machine/Tiles.lean ====
section
/-! DEFINITION. Issue and the packets of the work class, credits, and the Crevasse queue's commands (R63 to R67, R255 to R274, R392 to R400,
R519). -/

namespace Sys2Proof.Machine

open Sys2Proof

/-- The packet types of a class in the up direction (R66). -/
def upTypes (cls : Nat) : List Nat := if cls = 0 then [0x11, 0x12, 0x13] else if cls = 2 then [0x11] else if cls = 3 then [0x11, 0x12] else []

/-- Take a packet of a class and a type at a port (R66, R67): a parity error or a type that the class does not have resets the port's Serac
unit; a unit that is fenced or in reset takes nothing. -/
def State.takeUp (s : State) (u cls typ : Nat) (p : TilePkt) (f : State → State) : State :=
  if !s.stagesRun || !s.unitOk u then s
  else if !parityOk p cls then s.portError u 6
  else if !(upTypes cls).contains p.typ then s.portError u 7
  else if p.typ != typ then s
  else f ((s.updUnit u fun y => y.spendUp cls (beatsOf p.payload.length)).progress (seracEngine u))

/-- ISSUE. -/
def execIssue (u : Nat) (s : State) : Out := .next (s.issueNext u).settle

/-- Bytes of a work item's write spans. -/
def Work.bytes (w : Work) : Nat := (w.out.map Piece.len).sum

/-- The whole payload of a DONE has come: its data are written, or are not where their length is wrong (R400). The unit is then the last to
report for the command (R108). -/
def State.finishWork (s : State) (u : Nat) (w : Work) (c : Cmd) (b : Blob) : State :=
  let s0 := s.updUnit u fun y => { y with works := y.works.filter (·.tag != w.tag) }
  let s1 := s0.modCmd w.cmd fun y => { y with unit := u }
  let s2 := if fld b 0 4 = w.bytes then (s1.writePieces w.cmd c w.epoch w.out (b.drop 16)).remotePump w.cmd else s1.failCmd w.cmd .tileError
  s2.workMoved w.cmd

/-- DONE: its packets are gathered by tag (R398), and the work item ends with the last, or at once where data_bytes is wrong (R400). -/
def execTileDone (u : Nat) (p : TilePkt) (s : State) : Out :=
  .next (s.takeUp u 0 0x11 p fun t =>
    match (t.unit u).works.find? (·.tag == p.tag) with
    | none => t
    | some w =>
      match tget? t.cmds w.cmd with
      | none => t
      | some c =>
        let b := w.got ++ p.payload
        if fld b 0 4 = w.bytes ∧ b.length < 16 + fld b 0 4 then
          t.updUnit u fun y => { y with works := y.works.map fun x => if x.tag = p.tag then { x with got := b } else x }
        else t.finishWork u w c b)

/-- TILE_ERROR (R519). -/
def execTileError (u : Nat) (p : TilePkt) (s : State) : Out :=
  .next (s.takeUp u 0 0x13 p fun t =>
    let code := fld p.payload 4 4
    match fld p.payload 3 1 with
    | 0 =>
      match (t.unit u).works.find? (·.tag == p.tag) with
      | some w => ((t.updUnit u fun y => { y with works := y.works.filter (·.tag != p.tag) }).failCmd w.cmd .tileError).workMoved w.cmd
      | none => t
    | 1 => (t.contextReset p.ctx 4 code none none).settle
    | _ => (t.engineReset (seracEngine u) 5 (if (tget? t.ctxs p.ctx).isSome then some p.ctx else none) code 0xFFFF).settle)

/-- Vexzer returns beats of a class that it has taken to the cluster, which holds at most what R64 grants (R62, R63). -/
def State.returnUp (s : State) (u cls count : Nat) : State :=
  let held := (s.unit u).up.getD cls 0
  if !s.stagesRun || !s.unitOk u || decide (upMax.getD cls 0 < held + count) then s
  else { (s.updUnit u fun y => { y with up := setAt y.up cls (held + count) }) with
    ports := { s.ports with credits := s.ports.credits ++ [(u, cls, count)] } }

/-- CREDIT_RETURN: the cluster returns beats of the down direction, also after a reset of its port (R63, R64, R525), and what waits in Melt's
staging buffer and a switch that waited for credit go on; of the up direction Vexzer is the receiver, and returns beats that it has taken. -/
def execCreditReturn (u : Nat) (down : Bool) (cls count : Nat) (s : State) : Out :=
  .next (if decide (4 ≤ cls) || !s.present u || (s.eng (seracEngine u)).fenced || count == 0 then s
    else if !down then s.returnUp u cls count
    else
      -- a port in reset is released before its cluster can return anything (R525)
      let s1 := match (s.unit u).rstAt with | some t => s.advanceTo (t + 1000) | none => s
      let s2 := s1.updUnit u fun y => { y.earn cls count with
        credited := if y.credited.contains cls then y.credited else y.credited ++ [cls] }
      (State.sendAhead u (s2.unit u).itemsAhead s2).switchOn u)

/-! ## Run-ahead and walks (R258, R259, R263) -/

/-- The tiles that run-ahead looks at on a unit: the next of each stream that waits there, up to the function's window (R258). -/
def State.aheadTiles (s : State) (u : Nat) : List (Nat × Tile) :=
  s.ctxs.flatMap fun x => (s.seracCmds x.1).flatMap fun e =>
    if e.2.live && !e.2.waitProv then
      ((e.2.tilesOn u).take (s.fn e.2.fn).runahead).filterMap fun t => (tileAt (s.nodesOf e.2) t).map fun n => (e.1, n.2)
    else []

/-- Start a walk for an address that the cache does not hold, on a walker that is not fenced (R257, R258). -/
def State.startWalk (s : State) (r : Nat) (c : Cmd) (va : Nat) : State :=
  let e := s.esk
  if e.cache.any (fun x => x.ctx == c.ctx && x.covers va) || tany e.walks (fun _ w => w.ctx == c.ctx && w.va / 4096 == va / 4096) then s
  else match (List.range 16).find? fun i => (tget? e.walks i).isNone && !s.engDown (0x0600 + i) with
    | some i =>
      let ep := match tget? s.ctxs c.ctx with | some x => x.epoch | none => 0
      { s.progress (0x0600 + i) with esk := { e with walks := tset e.walks i { ctx := c.ctx, va := va, epoch := ep, cmd := some r } } }
    | none => s

/-- Run-ahead over one tile: its stale spans and holes are translated again, those of a step's key/value space too, its leaves walked into the cache,
and a missing page posts an early record (R258, R259); a translation through a bad table page fails the command (R257). -/
def State.aheadOne (s : State) (u r : Nat) (w : Tile) : State :=
  match tget? s.cmds r with
  | none => s
  | some c =>
    match tget? s.ctxs c.ctx with
    | none => s
    | some x =>
      let l := w.vaSpans c
      let k := s.checkSpans c x (seracEngine u) l
      let s1 := s.modCmd r fun z => { z with descs := s.kvRefresh k.2 w }
      let s2 := (l.flatMap k.2.parts).foldl (fun t g => match g.1 with | .hit _ v _ => t.startWalk r c v | .hole _ _ => t) s1
      match k.1 with
      | .missing va => s2.tileFault r c x.leaves (2 ^ 33) (spanAccess l) va (spanRanges l) true
      | .table => s.fail r .memoryUncorrectable
      | _ => s2

/-- RUN_AHEAD. -/
def execRunAhead (u : Nat) (s : State) : Out :=
  .next (if s.stagesRun && s.unitOk u && !s.engDown 0x0800 then (s.aheadTiles u).foldl (fun t e => t.aheadOne u e.1 e.2) s else s)

/-- The range of what a walk finds: the run that it installs (R251, R263). -/
def walkRange (ls : List Leaf) (va : Nat) : Option (Nat × Nat) :=
  (leafAt ls va).map fun l => let r := runAt ls l; (r.1.va, runEnd r.1 r.2)

/-- The result of a walk may not be installed (R246, R263): an invalidation that began after the walk overlaps it, or one under way that the
cache has acknowledged. -/
def State.walkStale (s : State) (w : Walk) (x : Ctx) : Bool :=
  match walkRange x.leaves w.va with
  | none => false
  | some (lo, hi) =>
    (w.later.any fun e => decide (e.1 < hi) && decide (lo < e.2)) ||
      s.esk.invals.any fun i => i.ctx == w.ctx && i.acked.contains 0x0800 && decide (i.lo < hi) && decide (lo < i.hi)

/-- The translation cache with a run installed (R251): one entry for each run, and past the last place the oldest entry goes (R25,
assumption 147). -/
def Esker.install (k : Esker) (x : Nat) (l : Leaf) (n : Nat) : Esker :=
  let c := k.cache.filter fun e => !(e.ctx == x && e.leaf == l && e.run == n)
  { k with cache := (c.reverse.take 65535).reverse ++ [{ ctx := x, leaf := l, run := n }] }

/-- Install a run in the shared translation cache (R251). -/
def State.cacheRun (s : State) (x : Nat) (l : Leaf) (n : Nat) : State := { s with esk := s.esk.install x l n }

/-- The level of the deepest table page that a walk of an address reads (R245). -/
def walkDepth (ls : List Leaf) (va : Nat) : Nat :=
  if ls.any fun l => l.size == 0 && l.va / 2 ^ 21 == va / 2 ^ 21 then 3
  else if ls.any fun l => decide (l.size < 2) && l.va / 2 ^ 30 == va / 2 ^ 30 then 2
  else if ls.any fun l => l.va / 2 ^ 39 == va / 2 ^ 39 then 1 else 0

/-- The addresses under a table page of a level (R245). -/
def tableSpan (level : Nat) : Nat := 2 ^ (48 - 9 * level)

/-- TABLE_WALK_DONE: a walk whose result an invalidation has overtaken is made again (R263); one that reads an uncorrectable table page, of the
level given, fails its command, and so does every later translation through that page (R257); otherwise its result is installed. -/
def execTableWalkDone (walker : Nat) (rd : EccAt) (s : State) : Out :=
  .next (match tget? s.esk.walks walker with
    | none => s
    | some w =>
      if !s.stagesRun || s.engDown (0x0600 + walker) then s
      else
        match tget? s.ctxs w.ctx with
        | none => ({ s with esk := { s.esk with walks := tdel s.esk.walks walker } } : State).nextWalk
        | some x =>
          let s1 := { s.progress (0x0600 + walker) with esk := { s.esk with walks := tdel s.esk.walks walker } }
          if rd.ecc = .uncorrectable ∨ rd.ecc = .poisoned then
            let n := tableSpan (min rd.place (walkDepth x.leaves w.va))
            let s2 := s1.modCtx w.ctx fun y => { y with badTables := y.badTables ++ [(w.va / n * n, n)] }
            match w.cmd with | some r => (s2.fail r .memoryUncorrectable).settle | none => s2
          else if x.badAt w.va 1 then (match w.cmd with | some r => (s1.fail r .memoryUncorrectable).settle | none => s1)
          else if s.walkStale w x then { s with esk := { s.esk with walks := tset s.esk.walks walker { w with later := [], epoch := x.epoch } } }
          else match leafAt x.leaves w.va with
            | some l => let r := runAt x.leaves l; s1.cacheRun w.ctx r.1 r.2
            | none => s1)

/-! ## The Crevasse queue (R269 to R273) -/

/-- CREVASSE_WAITING_POST. -/
def execCrevasseWaitingPost (s : State) : Out := .next (if s.stagesRun then s.crevPostWaiting else s)

/-- The record of a slot that is held and open. -/
def State.crevOpenAt (s : State) (slot : Nat) : Option Crev :=
  if s.esk.crevSlots.contains slot then (tget? s.esk.crev slot).filter (·.status == 0) else none

/-- Set the record of a slot. -/
def State.setCrev (s : State) (slot : Nat) (r : Crev) : State := { s with esk := { s.esk with crev := tset s.esk.crev slot r } }

/-- ESK_CREV_CTL action 1: the union of an open record is translated again. -/
def State.crevRetry (s : State) (slot : Nat) : State :=
  match s.crevOpenAt slot with
  | none => s
  | some r =>
    match tget? s.ctxs r.ctx with
    | some x => if wholeMapped x.leaves r.union then (s.setCrev slot { r with status := 1, stuck := [] }).settle else s
    | none => s

/-- CREV_RETRY (R271). -/
def execCrevRetry (slot : Nat) (s : State) : Out := .next (s.access (.crevRetry slot) false fun t => t.crevRetry slot)

/-- ESK_CREV_CTL action 2: an open record is aborted, and the commands parked on it fail. -/
def State.crevAbort (s : State) (slot : Nat) : State :=
  match s.crevOpenAt slot with
  | none => s
  | some r => ((s.setCrev slot { r with status := 2, stuck := [] }).failList r.stuck .faultAborted).settle

/-- CREV_ABORT (R271). -/
def execCrevAbort (slot : Nat) (s : State) : Out := .next (s.access (.crevAbort slot) false fun t => t.crevAbort slot)

/-- ESK_CREV_HEAD is written (R273): records are retired up to the slot named, stopping at the first open one. -/
def State.crevHeadWrite (s : State) (value : Nat) : State :=
  let e := s.esk
  let v := value % 1024
  let n := if v = e.crevHead then 0 else (v + 1024 - e.crevHead) % 1024
  let stop := ((e.crevSlots.take n).findIdx? fun i => (tget? e.crev i).any fun r => r.status == 0).getD n
  if e.crevHeld < n then s
  else { s with esk := { e with crevHead := (e.crevHead + stop) % 1024, crevFull := e.crevFull && stop == 0 } }

/-- CREV_HEAD_WRITE. -/
def execCrevHeadWrite (value : Nat) (s : State) : Out := .next (s.access (.crevHeadWrite value) false fun t => t.crevHeadWrite value)

end Sys2Proof.Machine
end

