-- ==== Sys2Proof/Machine/Taps.lean ====
section
/-! DEFINITION. The tap exchange and the training update: TAP_IN, slice fetches, answers, and a step's update with its commit (R68, R357 to
R381). -/

namespace Sys2Proof.Machine

open Sys2Proof

/-! ## TAP_IN -/

/-- A tap as its header gives it, with its data. -/
def tapOf (u : Nat) (p : TilePkt) (b : Blob) : Tap :=
  { port := u, tag := p.index, ctx := p.ctx, wtag := p.tag, cmd := 16384, phase := fld b 6 1, site := fld b 7 1, layer := fld b 8 4,
    first := fld b 12 4, tokens := fld b 18 2, ansFirst := fld b 20 2, ansCount := fld b 22 2, scale := fld b 28 4, fmt := fld b 5 1,
    data := b.drop 32 }

/-- data_bytes agrees with what the header says of the rows (R358): where the header does not give a width, some width that a site can have
fits, K and N being multiples of 32 up to 32,768 and head_dim one up to 256 (R344). -/
def Tap.dataFits (t : Tap) : Bool :=
  let n := t.data.length
  let unit := actBytes t.fmt 32
  let fits (rows len lo hi : Nat) : Bool := len % (rows * unit) == 0 && decide (lo * rows * unit ≤ len) && decide (len ≤ hi * rows * unit)
  let heads := max 1 (t.tokens * t.ansCount)
  if t.phase = 1 ∨ t.phase = 3 then n == t.tokens * actBytes t.fmt t.ansCount
  else if t.phase = 2 then fits heads n 1 8
  else if t.phase = 5 then decide (8 * heads ≤ n) && fits (2 * heads) (n - 8 * heads) 1 8
  else if t.phase = 4 then fits (max 1 t.tokens) n 2 2048
  else fits (max 1 t.tokens) n 1 1024

/-- The end of a step's input: past the last row of its batch entries; a launch gives none. -/
def Cmd.inputEnd (c : Cmd) : Option Nat :=
  if opIsStep c.opcode then some ((c.batch.map fun e => e.input + e.tokens).foldl max 0) else none

/-- Bytes of the answer to a tap (R359). -/
def Tap.answerBytes (t : Tap) : Nat := t.tokens * (t.emptyRow t.headDim).length

/-- A TAP_IN is malformed (R361): `b` is its whole payload, `nodes` the pinned graph version and `input` the end of the step's input. -/
def tapMalformed (fmt : Nat) (nodes : List Node) (input : Option Nat) (b : Blob) (t : Tap) : Bool :=
  decide (b.length < 32) || !zeroAt b 0 5 || !zeroAt b 16 2 || decide (255 < t.tag) || decide (5 < t.phase) || t.tokens == 0 ||
    decide (256 < t.tokens) || (input.any fun n => decide (n < t.first + t.tokens)) ||
    decide ((if t.phase = 2 ∨ t.phase = 5 then 256 else 32768) < t.ansFirst + t.ansCount) || t.ansCount == 0 || t.fmt != fmt || fld b 24 4 != t.data.length || decide (4194304 < t.data.length) ||
    !t.dataFits || decide (1048576 < t.answerBytes) ||
    ((t.phase == 1 || t.phase == 3) && t.fmt == 3 && (t.ansFirst % 32 != 0 || t.ansCount % 32 != 0)) ||
    (t.phase != 2 && t.phase != 5 && t.scale != 0) || !nodes.any fun n => n.adapted && n.layer == t.layer

/-- A whole tap has come (R361 to R363): it is answered TAP_NULL where its command is gone, it is malformed, or no token's variant adapts the
layer (R68); a disagreement fails its command, and the tap is answered with zero rows. -/
def State.takeTap (s : State) (u : Nat) (t : Tap) (b : Blob) : State :=
  let live := (s.unit u).works.find? fun w => w.tag == t.wtag && w.ctx == t.ctx
  match live with
  | none => s.answerNull t
  | some w =>
    match tget? s.cmds w.cmd with
    | none => s.answerNull t
    | some c =>
      let x := { t with cmd := w.cmd, epoch := w.epoch, pass := (((s.nodesOf c)[w.node]?).map (·.pass)).getD 0 }
      if !c.unfinished || (tget? s.ctxs t.ctx).any (·.resetting) then s.answerNull t
      else if tapMalformed (s.tapFormat u) (s.nodesOf c) c.inputEnd b t then
        let s1 := { s with silt := { s.silt with tapErr := satAdd s.silt.tapErr 1 0xFFFFFFFF } }
        ((s1.failCmd w.cmd .tileError).answerNull x).workMoved w.cmd
      else if !s.tapAdapted x c false then s.answerNull x
      else
        let s1 := (s.modCmd w.cmd fun z => { z with backward := z.backward || (c.opcode == 0x81 && decide (3 ≤ t.phase)) }).queueTap x c
        if s.tapDisagrees x c then s1.failCmd w.cmd .invalidField else s1

/-- TAP_IN: the packets of a tap are gathered by port (R360). One of another tap in their midst, or of a tag that is outstanding, is a
protocol error of the port (R66, R69). -/
def execTapIn (u : Nat) (p : TilePkt) (s : State) : Out :=
  .next (s.takeUp u 2 0x11 p fun t =>
    let part := tget? t.silt.partials u
    let got : Blob := match part with | some x => x.2 | none => []
    let bad := match part with
      | some x => x.1 != p.index
      | none => t.silt.taps.any fun y => y.port == u && y.tag == p.index
    if bad then (t.portError u 7).settle
    else
      let b := got ++ p.payload
      if 32 ≤ b.length ∧ b.length < 32 + fld b 24 4 then
        { t with silt := { t.silt with partials := tset t.silt.partials u (p.index, b) } }
      else
        (({ t with silt := { t.silt with partials := tdel t.silt.partials u } } : State).takeTap u (tapOf u p b) b).settle)

/-! ## Slices -/

/-- A fetch of a slice returns a bad state: the granule that read bad now, if any, is marked, and the commands that need the slice fail (R383).
`g` picks the granule. -/
def State.sliceFails (s : State) (x : Slice) (g : Option Nat) : State :=
  let mark (i : Nat) (v : Variant) : Variant :=
    let l := v.sliceGranules x
    let n := l.getD (i % max 1 l.length) 0
    if v.bad.contains n then v else { v with bad := v.bad ++ [n] }
  let s1 := match g with
    | none => s
    | some i => { s with silt := { s.silt with variants := tmod s.silt.variants x.variant (mark i) } }
  let hit := nubBy ((s.silt.taps.filter fun t => !t.null && t.needs.contains x).map (·.cmd))
  s1.failAll hit .memoryUncorrectable

/-- SLICE_FETCH_DONE: the engine's oldest fetch arrives (R367). -/
def execSliceFetchDone (engine : Nat) (rd : EccAt) (s : State) : Out :=
  .next (match (s.siltEng engine).fetches with
    | [] => s
    | x :: rest =>
      if !s.stagesRun || !s.siltOk engine then s
      else
        let s1 := s.updSilt engine fun g => { g with fetches := rest }
        let s2 :=
          if rd.ecc = .uncorrectable ∨ rd.ecc = .poisoned then s1.sliceFails x (some rd.place)
          else if s.sliceBad x then s1.sliceFails x none
          else (s1.cacheSlice engine x).updSilt engine SiltEng.trim
        s2.progress (siltEngine engine))

/-! ## Answers -/

/-- Remove a tap from those that wait for their answer. -/
def State.dropTap (s : State) (t : Tap) : State :=
  { s with silt := { s.silt with taps := s.silt.taps.filter fun y => !(y.port == t.port && y.tag == t.tag) } }

/-- TAP_ANSWER (R68): a TAP_NULL that waited for credit, or the TAP_ADD of a tap whose slices are there; a training step's gradients are
accumulated with it (R375). -/
def execTapAnswer (u tag : Nat) (s : State) : Out :=
  .next (match s.silt.taps.find? fun t => t.port == u && t.tag == tag with
    | none => s
    | some t =>
      if !s.stagesRun || !s.unitOk u then s
      else if t.null then
        if (s.unit u).hasCredit 2 then ((s.dropTap t).answerNull t).workMoved t.cmd else s
      else match tget? s.cmds t.cmd with
        | none => s
        | some c => match s.tapReady t c, s.tapEngine t c with
          | false, _ => s.refetch t c
          | true, none => s
          | true, some e =>
            let b := s.tapAdd t c
            if !(s.unit u).hasCredit 2 then s
            else
              let s1 := ((t.packets 1 b).foldl State.sendTile (s.dropTap t)).keepInters t c
              let s2 := { s1.accumulateTap t c with free := s.free + tapDraws }
              (((s2.updSilt e fun g => { g with taps := (g.taps + 1) % 2 ^ 64 }).progress (siltEngine e)).workMoved t.cmd).settle)

/-! ## The update (R377 to R381) -/

/-- The optimizer block of a step: its reserved bytes are zero. -/
def optValid (b : Blob) : Bool := zeroAt b 24 8

/-- Silt reads the optimizer block and updates the variants of a step. -/
def State.beginUpdate (s : State) (r : Nat) (c : Cmd) (b : Blob) : State :=
  if !optValid b then s.fail r .invalidField
  else
    let stoch := bits (ioArith c.sqe) 13 12 == 1
    ((c.variants.map (·.id)).foldl (fun t v => t.updateVariant r c (optOf b) stoch v) s).modCmd r fun x => { x with updating := true }

/-- TRAIN_UPDATE: the last backward tap of a step is answered and its tiles are done. -/
def execTrainUpdate (r : Nat) (s : State) : Out :=
  .next (match tget? s.cmds r with
    | none => s
    | some c =>
      if c.opcode != 0x81 || c.stage != .running || !c.live || c.updating || c.waitProv || !s.workDone r c || !s.stagesRun then s
      else
        let va := ioBufAddr c.sqe 3
        let e := s.epochOf 0x0700
        (s.cirqueSpans r c [⟨3, va, 32, 1⟩] fun t c0 =>
          let ins := c0.pieces 3 va 32
          let lack := t.lackReads r c e ins
          if !lack.isEmpty then t.askRemote r lack
          else
            let y := t.readPieces r c e ins
            match tget? y.2.cmds r with
            | some c1 => if c1.decided.isSome then y.2.drainIfIdle r else y.2.beginUpdate r c1 y.1
            | none => y.2).settle)

/-- A variant whose update a step's commit makes its next revision (R379). -/
def Variant.trains (v : Variant) : Bool := v.entries.any (·.tapped) && !v.torn

/-- The revision of a variant that the step's update changed goes up. -/
def Variant.commitStep (v : Variant) : Variant :=
  if v.trains then
    { v with rev := nextRevision v.rev, entries := v.entries.map fun e => { e with tapped := false } }
  else { v with entries := v.entries.map fun e => { e with tapped := false } }

/-- TRAIN_UPDATE_COMMIT (R379, R521): an expiry or a failure decided meanwhile takes effect now, and a context reset that waited for the update
goes on. -/
def execTrainUpdateCommit (r : Nat) (s : State) : Out :=
  .next (match tget? s.cmds r with
    | none => s
    | some c =>
      if !c.updating || !s.stagesRun then s
      else
        let vs := tmap s.silt.variants fun k v => if c.variants.any (·.id == k) then v.commitStep else v
        let done := c.variants.any fun y => (tget? s.silt.variants y.id).any Variant.trains
        let s1 := ({ s with silt := { s.silt with variants := vs } } : State).modCmd r fun x => { x with updating := false, updated := done }
        let s2 := s1.commitTokens r c
        ((if c.decided.isSome then s2.drainIfIdle r else s2.report r .success).ctxResetSettle c.ctx).settle)

end Sys2Proof.Machine
end

