-- ==== Sys2Proof/Machine/Memory.lean ====
section
/-! DEFINITION. The memory ports: requests and their answers, re-key walks, write-backs of tree nodes, hot-page windows and VX1 moves (R71 to
R73, R275 to R283, R467 to R487). -/

namespace Sys2Proof.Machine

open Sys2Proof

/-! ## Ports (R71, R163) -/

/-- The ports of a tier that the memory record populates: two for each HBM stack, one for three board channels. Port 20 stands for the host
port, which serves the host tier. -/
def State.portsOf (s : State) (tier : Nat) : List Nat :=
  let m := s.topo.memory.getD []
  if tier = 0 then (List.range 16).filter fun i => bit (fld m 1 1) (i / 2)
  else if tier = 1 then ((List.range 4).filter fun i => bits (fld m 2 2) (3 * i + 2) (3 * i) != 0).map (16 + ·)
  else [20]

/-- The port that serves an address: the interleave granules go to the tier's ports in turn. -/
def State.portFor (s : State) (tier off : Nat) : Nat :=
  let m := s.topo.memory.getD []
  let l := s.portsOf tier
  let g := if tier = 0 then fld m 38 1 else fld m 39 1
  if tier = 2 then 20 else l.getD (off / 2 ^ g % max 1 l.length) 0

/-- The lowest tag that no outstanding read of a port carries. -/
def State.portTag (s : State) (port : Nat) : Nat := tfree s.glz.reads (port * 1024) - port * 1024

/-- A tier's addresses that exist (R241). -/
def State.tierHas (s : State) (tier off : Nat) : Bool :=
  if tier = 0 then decide (off < s.hbmBytes) else if tier = 1 then decide (off < s.boardBytes) else tier == 2 && decide (off < 2 ^ 44)

/-- A request has the form of R71: 64 to 512 bytes in multiples of 64. -/
def reqFormed (q : MemReq) : Bool :=
  decide (64 ≤ q.len) && decide (q.len ≤ 512) && q.len % 64 == 0 && (match q.write with | some b => b.length == q.len | none => true)

/-- A request falls into one part for each granule of 512 bytes that it touches, each with its bytes of a write (assumption 146). -/
def reqParts (q : MemReq) : List MemReq :=
  (granulesOf q.offset q.len).map fun g => { q with offset := g.1, len := g.2, write := q.write.map fun b => slice b (g.1 - q.offset) g.2 }

/-- The Varve slot and the page of a request under Glaze. -/
def State.glazedPage (s : State) (q : MemReq) : Option (Nat × Nat) :=
  if q.prot = 0 then (s.slotOf q.tier (q.offset / frameBytes)).map fun e => (e.1, q.offset % frameBytes / 4096) else none

/-- The Glaze engine that serves a page is in reset: what comes to it waits at its inputs (R524). -/
def State.glazeHeld (s : State) (k p : Nat) : Bool := (s.eng (0x0400 + s.glazeEngine k p)).rst.isSome

/-- A request must wait at Glaze: the page's engine is in reset, or an operation holds the page (R471, R524). -/
def State.glazeWaits (s : State) (q : MemReq) : Bool :=
  match s.glazedPage q with
  | some (k, p) => s.glazeHeld k p || s.glz.writes.any fun w => s.glazedPage w.req == some (k, p)
  | none => false

/-- A read goes out to its port, for a whole granule where Glaze protects it (R469) and for whole lines of 64 bytes otherwise; `port` holds the tag
that it takes. One of a host chunk is a read on the host port with the requester ID of the chunk's owner (R242). -/
def State.portRequest (s : State) (q : MemReq) (port : Nat) : State :=
  let unit := if q.prot = 0 then 512 else 64
  let q1 := { q with offset := q.offset / unit * unit, len := roundUp unit (q.offset % unit + q.len), write := none }
  let s1 := s.chunkRead q1
  let s2 := { s1 with glz := { s1.glz with reads := tset s1.glz.reads (port * 1024 + s.portTag port) q1 } }
  match s2.glazedPage q with
  | some (k, p) => s2.progress (0x0400 + s2.glazeEngine k p)
  | none => s2

/-- A read that has passed its port: it is counted, refused where Varve has marked its page, answered at once where its granule is unwritten,
and otherwise outstanding until the controller answers. -/
def State.readRequest (s : State) (q : MemReq) : State :=
  let s1 := if q.hot && q.ctx != 0 then s.hotCount q.tier q.offset q.epoch else s
  if s1.pageBad q.tier q.offset then s1.refuseBad q
  else if q.prot == 0 && s1.unwritten q.tier q.offset then s1
  else s1.portRequest q (s.portFor q.tier q.offset)

/-- The granules that Glaze reads and verifies before a write proceeds: the one that the write merges with (R472), and every written one of a page
whose granule's minor counter has reached its end (R473). -/
def State.verifyFirst (s : State) (q : MemReq) : List Nat :=
  if s.pageBad q.tier q.offset then []
  else match s.glazedPage q with
    | none => []
    | some (k, p) => match tget? s.varve.slots k with
      | none => []
      | some v =>
        let page := q.offset / 4096 * 4096
        if tget (v.page p).minors 0 (q.offset % 4096 / 512) = 0xFFFFFF then (v.page p).written.map fun g => page + g * 512
        else if s.mergesFirst q q.len then [q.offset / 512 * 512]
        else []

/-- A write that has passed its port: it is carried out, or held until Glaze has read what it verifies first. -/
def State.writeRequest (s : State) (q : MemReq) (b : Blob) : State :=
  match s.verifyFirst q with
  | [] => s.putGranule q b
  | l =>
    let port := s.portFor q.tier q.offset
    let x := l.foldl (fun y a =>
      let t := y.1.portRequest { q with offset := a, len := 512 } port
      (t, y.2 ++ [port * 1024 + y.1.portTag port])) (s, [])
    { x.1 with glz := { x.1.glz with writes := x.1.glz.writes ++ [{ req := q, left := x.2 }] } }

/-- A part of a request ends at its port, or goes on. -/
def State.serveRequest (s : State) (q : MemReq) : State :=
  match s.portEnd q with
  | .stale => if q.write.isSome then s.moraine q.fn 1 else s
  | .denied => if s.tierHas q.tier q.offset then s.fktDeny q else s
  | .away => s.remoteIssue q
  | .pass =>
    match q.write with
    | some b => s.writeRequest q b
    | none => s.readRequest q

/-- A request waits: its port has too few free tags, its page is held, or a link has no room for it. -/
def State.requestWaits (s : State) (q : MemReq) : Bool :=
  match s.portEnd q with
  | .away => !s.remoteRoom q
  | .pass => decide (1024 ≤ s.portTag (s.portFor q.tier q.offset) + 8) || s.glazeWaits q
  | _ => false

/-- MEMORY_REQUEST. -/
def execMemoryRequest (q : MemReq) (s : State) : Out :=
  .next (if !s.stagesRun || !reqFormed q || (reqParts q).any s.requestWaits then s else (reqParts q).foldl State.serveRequest s)

/-! ## Answers (R72, R383, R482 to R487) -/

/-- Data that read uncorrectable or poisoned fail their command, or begin the repair of their image unit (R72, R336). -/
def State.dataBad (s : State) (q : MemReq) : State :=
  match q.cmd with
  | some r => (s.fail r .memoryUncorrectable).settle
  | none => match s.unitAt q.tier q.offset with
    | some (i, v, t, u) => s.needRepair i v t u
    | none => s

/-- Data go to their requester. -/
def State.dataGood (s : State) (q : MemReq) : State :=
  match q.cmd with | some r => s.workMoved r | none => s

/-- What Glaze and Varve make of an answer under Glaze. -/
def State.glazeAnswer (s : State) (q : MemReq) (ecc : Ecc) (chk : PathCheck) (k p : Nat) : State :=
  let bad : Bool := ecc == .uncorrectable || ecc == .poisoned
  match chk with
  | .nodeEcc l =>
    let s1 := s.unverifiable (min l 3) (nodePos (min l 3) k p) q.cmd
    (match q.cmd with | some r => s1.fail r .integrityUnverifiable | none => s1).settle
  | .badMac l => s.halt (s.sealFor q 2 (min l 3) k p)
  | .badTag => if bad then s.dataBad q else s.halt (s.sealFor q 1 255 k p)
  | .good => if bad then s.dataBad q else s.dataGood q

/-- An answer reached a write that waits for it (R472, R473): a good one lets the write proceed once it is the last; after any other the write is
dropped. -/
def State.writeAnswered (s : State) (x : Nat) (good : Bool) : State :=
  match s.glz.writes.find? fun w => w.left.contains x with
  | none => s
  | some w =>
    let left := w.left.filter (· != x)
    let rest := s.glz.writes.filter fun y => !y.left.contains x
    if !good then { s with glz := { s.glz with writes := rest, reads := left.foldl tdel s.glz.reads } }
    else if left.isEmpty then ({ s with glz := { s.glz with writes := rest } } : State).putGranule w.req (w.req.write.getD [])
    else { s with glz := { s.glz with writes := s.glz.writes.map fun y => if y.left.contains x then { y with left := left } else y } }

/-- MEMORY_READ_RESPONSE: the answer that a tag awaits; one for a Glaze engine in reset waits at its inputs (R524). A failed check that is detected at
the very time of a halt is counted (R489). -/
def execMemoryReadResponse (port tag : Nat) (ecc : Ecc) (chk : PathCheck) (s : State) : Out :=
  .next (match tget? s.glz.reads (port * 1024 + tag) with
    | none => s
    | some q =>
      let halting := s.loess.halted && s.loess.sealRec.any fun x => x.time == s.now
      let bad : Bool := ecc == .uncorrectable || ecc == .poisoned
      if !s.stagesRun && !halting then s
      else
        let s1 := { s with glz := { s.glz with reads := tdel s.glz.reads (port * 1024 + tag) } }
        match s1.glazedPage q with
        | some (k, p) =>
          if halting then
            match chk with
            | .badMac l => s1.halt (s1.sealFor q 2 (min l 3) k p)
            | .badTag => if bad then s else s1.halt (s1.sealFor q 1 255 k p)
            | _ => s
          else if s.glazeHeld k p then s
          else ((s1.writeAnswered (port * 1024 + tag) (chk == .good && !bad)).glazeAnswer q ecc chk k p).progress (0x0400 + s1.glazeEngine k p)
        | none =>
          if halting then s
          else if bad then s1.dataBad q else s1.dataGood q)

/-! ## Walks and write-backs -/

/-- REKEY_WALK: the next page of the walk moves to the new epoch with its counters unchanged, and the walk ends with the last (R474). -/
def execRekeyWalk (key : Nat) (s : State) : Out :=
  .next (if !s.stagesRun then s
    else match (s.key key).walk with
      | none => s
      | some [] => s.endWalk key
      | some ((k, p) :: rest) =>
        if s.glazeHeld k p || s.glz.writes.any (fun w => s.glazedPage w.req == some (k, p)) then s else
        let s1 := match tget? s.varve.slots k with
          | some v => s.recrypt k p { v.page p with epochBit := s.keyBit key }
          | none => s
        let s2 := s1.updKey key fun x => { x with walk := some rest }
        if rest.isEmpty then s2.endWalk key else s2)

/-- VARVE_NODE_WRITEBACK: a dirty node whose last write-back lies at least 100 ns back (R480). -/
def execVarveNodeWriteback (level pos : Nat) (s : State) : Out :=
  .next (let n := (level, pos)
    let due := match s.varve.lastWrite.find? (·.1 == n) with | some e => decide (e.2 + 100 ≤ s.now) | none => true
    if s.stagesRun && s.varve.isDirty level pos && due then s.writeNode level pos else s)

/-- When the hot-page window now open ends (R278). -/
def State.windowEnd (s : State) : Nat := s.esk.windowStart + s.esk.windowMs * 1000000

/-- A new hot-page window opens with its counters at zero (R278). -/
def State.newWindow (s : State) : State :=
  { s with esk := { s.esk with hot := [], hotListed := [], windowStart := s.now, windowMs := s.esk.windowNext } }

/-- HOT_WINDOW_END: every counter returns to 0, and the next window has the length last written (R278). -/
def execHotWindowEnd (s : State) : Out :=
  .next (if !s.stagesRun then s else (s.advanceTo s.windowEnd).newWindow)

/-! ## VX1 moves (R281 to R283) -/

/-- A function has a move in progress: an invalidation of one of its contexts that a move began. -/
def State.vx1Moving (s : State) (f : Nat) : Bool :=
  (s.esk.invals ++ s.esk.invalWait).any fun i => s.esk.moving.contains i.id && (tget? s.ctxs i.ctx).any (·.fn == f)

/-- A leaf maps part of a frame of the chip's own, as part of an allocation. -/
def State.mapsFrame (s : State) (f : Nat × Nat) (l : Leaf) : Bool :=
  l.node == s.nodeId && l.alloc != 0 && l.tier == f.1 && decide (l.offset < (f.2 + 1) * frameBytes) && decide (f.2 * frameBytes < l.offset + pageBytes l.size)

/-- Leaves once a frame has moved: those that map it name its new place, and a larger one that takes it in is split. -/
def State.movedLeaves (s : State) (f dst : Nat × Nat) (ls : List Leaf) : List Leaf :=
  (ls.flatMap fun l => if l.size = 2 && s.mapsFrame f l then l.split else [l]).map fun l =>
    if s.mapsFrame f l then { l with tier := dst.1, offset := dst.2 * frameBytes + l.offset % frameBytes } else l

/-- A piece of a tile in progress once a frame has moved (R283). -/
def State.movedPiece (s : State) (f dst : Nat × Nat) (p : Piece) : List Piece :=
  match p with
  | .hit l v n =>
    if !s.mapsFrame f l then [p]
    else (translate (s.movedLeaves f dst [l]) v n).map fun g => match g with | .hit x y k => .hit x y k | .hole y k => .hole y k
  | _ => [p]

/-- The work items in progress, and those whose state a save holds, name a moved frame's new place: what they write is not lost (R283). -/
def State.movedWorks (s : State) (f dst : Nat × Nat) : State :=
  let fix (w : Work) : Work := { w with out := w.out.flatMap (s.movedPiece f dst) }
  { s with
    serac := { s.serac with units := tmap s.serac.units fun _ u => { u with works := u.works.map fix } }
    ctxs := tmap s.ctxs fun _ c => { c with saves := tmap c.saves fun _ a => { a with works := a.works.map fix } } }

/-- Move a frame's contents to a free frame of another tier, which takes the entry; none where Varve has no slot for it. The written granules are
read and written again, each under a fresh minor counter of the slot that the new frame takes, and the old frame is freed (R276, R468, R470). -/
def State.moveBytes (s : State) (e : Fkt) (src dst : Nat × Nat) : Option State :=
  (s.takeFrames dst.1 e [dst.2]).map fun t =>
    let a := src.2 * frameBytes
    let b := dst.2 * frameBytes
    let t1 := { t with mem := memCopy t.mem (devAddr src.1 a) (devAddr dst.1 b) frameBytes }
    let gs := match t1.slotOf src.1 src.2 with
      | some (_, v) => (tkeys v.pages).flatMap fun p => (v.page p).written.map fun g => p * 4096 + g * 512
      | none => []
    (gs.foldl (fun u o => u.glazeWrite dst.1 (b + o) 512) t1).releaseFrame src.1 src.2

/-- Move a frame of one tier to a frame of another, with its contents, its entry, every leaf that maps it and the tables they stand
in, and begin the invalidations of the ranges that those leaves map. -/
def State.moveFrame (s : State) (from_ dst : Nat × Nat) : Option State :=
  match (s.fktEntry from_.1 (from_.2 * frameBytes)).bind fun e => s.moveBytes e from_ dst with
  | none => none
  | some s0 =>
    let work := s.ctxs.flatMap fun c => ((s.movedLeaves from_ dst c.2.leaves).filter (s.mapsFrame dst)).map fun l => (c.1, l.va, l.vend)
    let fix (i : Inval) : Inval := { i with change := i.change.map fun z => { z with leaves := s.movedLeaves from_ dst z.leaves } }
    let s1 := s0.movedWorks from_ dst
    let s2 := { s1 with
      allocs := tmap s1.allocs fun _ a => { a with frames := a.frames.map fun x => if x = from_ then dst else x }
      ctxs := tmap s1.ctxs fun _ c => { c with leaves := s.movedLeaves from_ dst c.leaves }
      esk := { s1.esk with invals := s1.esk.invals.map fix, invalWait := s1.esk.invalWait.map fix } }
    let s3 := (tfind s2.ctxs fun x _ => (s2.tablesOf x).any (s2.mapsFrame dst)).foldl (fun t x => t.putTables x (t.tablesOf x)) s2
    some <| work.foldl (fun t w =>
      let b := brokenRange (match tget? t.ctxs w.1 with | some c => c.leaves | none => []) w.2.1 w.2.2
      let u := t.invalidate w.1 b.1 b.2 none none
      ({ u with esk := { u.esk with moving := u.esk.moving ++ [t.esk.invalNext] } } : State)) s3

/-- A board frame of a function in VX1 compatibility is due to move: it has reached HOT_THRESHOLD, no move of the function is in progress, and
its last one began 100 us ago or more (R282). -/
def State.vx1Due (s : State) (fn frame : Nat) : Bool :=
  let off := frame * frameBytes
  let mine : Bool := match s.frameOwner 1 off with | some (_, g, _) => g == fn | none => false
  let late : Bool := match (s.fn fn).vx1LastMove with | some t => decide (t + 100000 ≤ s.now) | none => true
  s.stagesRun && (s.fn fn).vx1 && mine && late && !s.vx1Moving fn && decide (s.cfg.hotThreshold ≤ tget s.esk.hot 0 (hotKey 1 off))

/-- Where no HBM frame is free, the function's oldest goes back to the board tier, if it is the one that the move takes (R282 step 1). -/
def State.vx1Room (s : State) (fn dest : Nat) : Option State :=
  if s.freeFrames 0 ≠ 0 then some s
  else match (s.fn fn).vx1Frames.head?, s.lowestFrame 1 with
    | some h, some b =>
      if h = dest then (s.moveFrame (0, h) (1, b)).map fun (t : State) => t.updFn fn fun x => { x with vx1Frames := x.vx1Frames.drop 1 } else some s
    | _, _ => some s

/-- Move a board frame to an HBM frame that is free then; none where it is not (R282). -/
def State.vx1Move (s : State) (fn frame dest : Nat) : Option State :=
  (s.vx1Room fn dest).bind fun t =>
    if t.frameFree 0 dest then
      (t.moveFrame (1, frame) (0, dest)).map fun (u : State) =>
        u.updFn fn fun x => { x with vx1Frames := x.vx1Frames ++ [dest], vx1LastMove := some s.now }
    else none

/-- VX1_FRAME_MOVE (R282): a board frame of a function in VX1 compatibility that has reached HOT_THRESHOLD moves to a free HBM frame, or to
that of the function's oldest one, which goes back to the board tier first. -/
def execVx1FrameMove (fn frame dest : Nat) (s : State) : Out :=
  .next (if s.vx1Due fn frame then
      match s.vx1Move fn frame dest with
      | none => s
      | some t => t.settle
    else s)

end Sys2Proof.Machine
end

