-- ==== Sys2Proof/Machine/System.lean ====
section
/-! DEFINITION. The device commands of topology, configuration, power, patches and the monitor's lock (R117, R155, R159 to R164, R219 to R225, R582
to R586, R596, R609 to R614, R624, R632 to R634). -/

namespace Sys2Proof.Machine

open Sys2Proof

/-- The result block of TOPO_WRITE and TOPO_COMMIT. -/
def topoResult (sec idx : Nat) : Blob := leBytes 2 sec ++ leBytes 2 idx

/-- TOPO_WRITE (R161, R162). -/
def execTopoWrite (r : Nat) (io : HostIo) (s : State) : Out :=
  .next (s.runAdmin r 0x18 fun t c =>
    let k := fld c.sqe 32 1
    if k = 0 ∨ 4 < k then t.report r .invalidField
    else if t.topo.committed && decide (k ≤ 2) then t.report r .topologyLocked
    else
      let go (u : State) (b : Blob) : State :=
        if !t.topo.committed then
          if sectionLenOk k b.length then u.answer r c io (topoResult k 0) fun v => { v with topo := v.topo.put k b }
          else u.failWith r c io (topoResult k ((firstInvalid k 64 b).getD 0)) .topologyInvalid
        else match firstInvalid k t.nodeId b with
          | some i => u.failWith r c io (topoResult k i) .topologyInvalid
          | none => u.stageFor r c (if k = 3 then .links b else .peers b) io id
      -- a peer section of no records has no data buffer
      if k = 4 ∧ admDataLen c.sqe = 0 then go t [] else t.withData r c io (admDataLen c.sqe) go)

/-- TOPO_COMMIT (R161, R163, R624). -/
def execTopoCommit (r : Nat) (io : HostIo) (s : State) : Out :=
  .next (s.runAdmin r 0x19 fun t c =>
    if t.topo.committed then t.answer r c io (topoResult 0 0) id
    else match t.topoFault with
      | some e => t.failWith r c io (topoResult e.1 e.2) .topologyInvalid
      | none => t.answer r c io (topoResult 0 0) State.commitTopo)

/-- The change a CONFIG_SET names: an item of R159 with its value in range and its function field as its scope asks. -/
def configItem (item f v : Nat) : Option CfgItem :=
  let block := f == 0
  if item = 1 ∧ block ∧ v ≤ 25 then some (.rtReserve v)
  else if item = 2 ∧ f < 4096 ∧ v < 2 ^ 32 then some (.fnClusters f v)
  else if item = 3 ∧ f < 4096 ∧ v ≤ 1 then some (.fnMode f (v == 1))
  else if item = 4 ∧ block ∧ 200 ≤ v ∧ v ≤ 100000 then some (.stallLimit v)
  else if item = 5 ∧ block ∧ 1 ≤ v ∧ v ≤ 65535 then some (.hotThreshold v)
  else if item = 6 ∧ block ∧ 1 ≤ v ∧ v ≤ 15 then some (.cleaveBound v)
  else none

/-- What refuses a change (R159, R224, R387). -/
def State.configRefused (s : State) (i : CfgItem) : Option Status :=
  match i with
  | .fnClusters f mask =>
    firstSome [
      failIf ((maskBits 32 mask).any fun u => !s.present u) .invalidField,
      failIf (tany s.ctxs fun _ x => x.fn == f && x.clusterList.any fun u => !bit mask u) .busy ]
  | .fnMode f _ => failIf ((s.fn f).phase != .disabled) .busy
  | _ => none

/-- CONFIG_SET (R159, R219, R222). -/
def execConfigSet (r : Nat) (io : HostIo) (s : State) : Out :=
  .next (s.runAdmin r 0x1C fun t c =>
    match configItem (fld c.sqe 32 2) (fld c.sqe 34 2) (fld c.sqe 40 8) with
    | none => t.report r .invalidField
    | some i =>
      match t.configRefused i with
      | some st => t.report r st
      | none =>
        t.stageFor r c i io fun u => match i with | .rtReserve v => { u with cirq := { u.cirq with rtPct := v } } | _ => u)

/-- CONFIG_ADOPT: an engine at its safe point adopts the oldest change it has not adopted (R220 to R222). -/
def execConfigAdopt (engine : Nat) (_io : HostIo) (s : State) : Out :=
  .next (if s.stagesRun then (s.adoptOne engine false).completeDue else s)

/-! ## Power (R582 to R586, R596) -/

/-- A reset of a context, of an engine, of the compute domain or of Tarn is in progress (R536, R585). -/
def State.anyReset (s : State) : Bool :=
  s.loess.domain.isSome || s.loess.restart.isSome || tany s.loess.engines (fun _ e => e.rst.isSome) || tany s.ctxs fun _ c => c.resetting

/-- An engine reset or a compute-domain reset is in progress (R536). -/
def State.computeReset (s : State) : Bool := s.loess.domain.isSome || tany s.loess.engines fun _ e => e.rst.isSome

/-- Work that keeps the block out of Freeze and Permafrost (R585). -/
def State.powerBusy (s : State) (r : Nat) : Bool :=
  (s.cmds.any fun e => e.1 != r) || !s.firn.loads.isEmpty || !s.firn.repairs.isEmpty || tany s.kao.slots (fun _ k => k.walk.isSome) ||
    s.snow.passDue || !s.ledg.queue.isEmpty || s.ledg.flushing || tany s.fns (fun _ f => f.wplog.flushing) || s.anyReset ||
    !s.pins.holdupN || s.loess.halted || s.loess.oos

/-- PWR_STATE (R536, R583 to R586). -/
def execPwrState (r : Nat) (_io : HostIo) (s : State) : Out :=
  .next (s.runAdmin r 0x1D fun t c =>
    let k := fld c.sqe 32 1
    if 3 < k then t.report r .invalidField
    else if t.computeReset then t.report r .busy
    else if k = 0 then ({ t with pwr := { t.pwr with st := .active, relaxed := [] } } : State).commit r
    else if k = 1 then ({ t with pwr := { t.pwr with st := .chill } } : State).commit r
    else if t.powerBusy r then t.report r .busy
    else ({ t with pwr := { t.pwr with target := if k = 2 then .freeze else .permafrost } } : State).commit r)

/-- Rings in service. -/
def State.ringsUp (s : State) : List Nat := (List.range 18).filter fun k => (s.ring k).st == 3

/-- The rings whose bypass the chip holds open: joining, in service, or waiting for a census. -/
def State.ringsHeld (s : State) : List Nat := (List.range 18).filter fun k => decide (2 ≤ (s.ring k).st) && (s.ring k).st != 5

/-- Write the header of an open persist region (R508). -/
def State.markHeader (s : State) (clean : Bool) : State := if s.ledg.persist.magic then s.putHeader clean else s

/-- The block halts its stages and drives the supply setpoint of a state (R586 steps 5 and 6). -/
def State.powerDown (s : State) (k : PwrSt) : State :=
  { s with
    pwr := { s.pwr with st := k, target := .active }
    pins := { s.pins with vddSel := if k = .permafrost then 2 else 1, retEn := k == .permafrost } }

/-- POWER_STATE_ENTRY: the completion of the PWR_STATE is confirmed, Ledger has flushed, the rings are released, and the stages halt (R577, R586). A
fall of VX_HOLDUP_N that came during the entry makes the residence a hold-up state (R602). -/
def execPowerStateEntry (s : State) : Out :=
  .next (
    let k := s.pwr.target
    let sent := !(s.cmds.any fun e => e.2.opcode == 0x1D && e.2.admin) && !tany s.queues fun _ q => q.admin && q.fn == 0 && !q.burst.isEmpty
    if (k != .freeze && k != .permafrost) || !s.stagesRun || !sent then s
    else
      let n := s.ledg.buffer.length
      let s1 := s.persistAll.markHeader true
      let s2 := { s1 with ledg := { s1.ledg with flushDone := true, flushReceipts := n, flushNs := 0 } }
      let up := s2.ringsUp
      let s3 := s2.ringsHeld.foldl (fun t i => t.releaseRing i 6 false) s2
      let s4 := ({ s3 with pwr := { s3.pwr with ret := s.pwr.st, rejoin := up } } : State).powerDown k
      if s4.pwr.holdupDue then
        { s4 with pwr := { s4.pwr with holdup := true, holdupDue := false, holdups := satAdd s4.pwr.holdups 1 65535 } }
      else s4)

/-- PWR_LIMIT (R596). -/
def execPwrLimit (r : Nat) (_io : HostIo) (s : State) : Out :=
  .next (s.runAdmin r 0x1E fun t c =>
    let l := fld c.sqe 32 2
    let e := fld c.sqe 34 2
    if l < 30 ∨ 150 < l ∨ e < 30 ∨ l < e then t.report r .invalidField
    else ({ t with pwr := { t.pwr with limitW := l, emergencyW := e } } : State).commit r)

/-! ## Patches (R609 to R614) -/

/-- A patch image has the form of R609 check 1. -/
def patchFormOk (b : Blob) (len : Nat) : Bool :=
  let body := fld b 12 4
  let hooks := fld b 20 4
  fld b 0 4 == 0x50545856 && fld b 4 2 == 1 && zeroAt b 24 40 && decide (hooks ≤ 256) && body % 4 == 0 && decide (fld b 16 4 < body) &&
    64 + 8 * hooks + body + 96 == len && decide (len ≤ 131072) &&
    (List.range hooks).all fun i => decide (fld b (64 + 8 * i) 4 < 0x200) && decide (fld b (68 + 8 * i) 4 < body)

/-- The first check of R609 that a patch image fails. -/
def patchFault (b : Blob) (len : Nat) : Option Status :=
  firstSome [
    failIf (!patchFormOk b len) .invalidField, failIf (fld b 6 1 != 2 || fld b 7 1 != 1) .invalidField,
    failIf (decide (fld b 8 4 < Config.minSvn) || !Config.patchSigned (b.take (len - 96)) (b.drop (len - 96))) .signatureInvalid ]

/-- Restart Tarn for a patch: no limit counts it (R611), and no record is written, since a record has no cause for it (assumption 19). -/
def State.restartForPatch (s : State) : State :=
  { s with loess := { s.loess with
      err := s.loess.err ||| 8#8, restarts := satAdd s.loess.restarts 1 0xFFFF
      restart := some { start := s.now, deadline := s.now + 1000000, slot := 0, heldAt := s.pwr.heldNs }, restartForPatch := true } }

/-- A PATCH_LOAD whose checks have passed: its result block is confirmed, its journal entry committed, the patch recorded, and Tarn restarts (R610,
R611). -/
def State.loadPatch (s : State) (r : Nat) (c : Cmd) (io : HostIo) (image : Blob) (svn : Nat) : State :=
  let digest := if image.isEmpty then zeros 48 else sha384 image
  let s1 := s.writeResult c digest
  if io.write ≠ .ok then { s1.report r .hostAccessFailed with tarn := { s1.tarn with patchCmd := none } }
  else
    let s2 := s1.modCmd r fun x => { x with journal := .committed, result := padTo 64 digest, parked := true }
    ({ s2 with tarn := { s2.tarn with
        patchNext := some (image, svn), patch := image, svn := svn, digest := if image.isEmpty then [] else digest } } : State).restartForPatch

/-- PATCH_LOAD: it waits until it is the only admin command being executed (R609, R611). -/
def execPatchLoad (r : Nat) (io : HostIo) (s : State) : Out :=
  .next (match s.adminCmd r 0x1F with
    | none => s
    | some _ =>
      if s.tarn.patchCmd.any (· != r) then s
      else if s.cmds.any (fun e => e.2.admin && e.1 != r && (e.2.stage == .running || e.2.stage == .dispatched)) then
        { s with tarn := { s.tarn with patchCmd := some r } }
      else
        let end_ (t : State) : State := { t with tarn := { t.tarn with patchCmd := none } }
        let t0 := { s with tarn := { s.tarn with patchCmd := some r } }
        let t1 := t0.runAdmin r 0x1F fun t c =>
          if admDataAddr c.sqe = 0 ∧ admDataLen c.sqe = 0 then t.loadPatch r c io [] 0
          else if 131072 < admDataLen c.sqe then t.report r .invalidField
          else t.withData r c io (admDataLen c.sqe) fun u b =>
            match patchFault b (admDataLen c.sqe) with
            | some st => u.report r st
            | none => u.loadPatch r c io (b.take (admDataLen c.sqe - 96)) (fld b 8 4)
        if t1.loess.restart.isSome then t1 else end_ t1)

/-! ## The monitor's lock (R632 to R634) -/

/-- The authorisation that unlocks the monitor now (R632). -/
def State.unlockCode (s : State) : Blob :=
  (hmac384 Config.debugKey (leBytes 8 s.tarn.challenge ++ leBytes 8 Config.deviceSerial)).take 16

/-- Draw a new challenge (R633). -/
def State.newChallenge (s : State) : State := ({ s with tarn := { s.tarn with challenge := s.draw % 2 ^ 64 } } : State).drawn

/-- MON_UNLOCK. -/
def execMonUnlock (r : Nat) (_io : HostIo) (s : State) : Out :=
  .next (s.runAdmin r 0x20 fun t c =>
    let auth := slice c.sqe 32 16
    if bit (fld c.sqe 48 1) 0 then
      if zeroAt c.sqe 32 16 then ({ t with tarn := { t.tarn with unlocked := false } } : State).commit r else t.report r .invalidField
    else if t.tarn.lockout then t.report r .authFailed
    else if auth = t.unlockCode then
      (({ t with tarn := { t.tarn with unlocked := true } } : State).newChallenge).commit r
    else
      (({ t with tarn := { t.tarn with
          failures := satAdd t.tarn.failures 1 255, lockout := decide (3 ≤ t.tarn.failures) } } : State).newChallenge).report r .authFailed)

end Sys2Proof.Machine
end

