-- ==== Sys2Proof/Machine/UartOps.lean ====
section
/-! DEFINITION. The monitor's text, and what Tarn does whenever it starts: the sources as the ROM programs them, the patch, and the banner
(R613, R620, R626, R628). -/

namespace Sys2Proof.Machine

open Sys2Proof

/-! ## Text -/

/-- Hexadecimal digits in groups of four, as the manual writes numbers. -/
def groupHex : List Nat → List Nat
  | a :: b :: c :: d :: e :: t => if (t.length + 1) % 4 = 0 then a :: b :: c :: d :: 95 :: groupHex (e :: t) else a :: groupHex (b :: c :: d :: e :: t)
  | l => l

/-- A number of `n` hexadecimal digits in the manual's 0x form. -/
def hexOut (n v : Nat) : List Nat := asc "0x" ++ groupHex (hexDigits n v)

/-- A line: its characters, CR and LF (R628). -/
def textLine (l : List Nat) : List Nat := l ++ [13, 10]

/-- Words of a line, with one space between them. -/
def spaced : List (List Nat) → List Nat
  | [] => []
  | [x] => x
  | x :: t => x ++ 32 :: spaced t

/-- The bytes of a byte string in hexadecimal, byte 0 first. -/
def hexBytes (b : Blob) : List Nat := b.flatMap fun x => hexDigits 2 x.toNat

/-- The ROM version, 2.1 (R3), and the first 8 bytes of the patch digest, or none. -/
def romVersion : List Nat := asc "2.1"

def Tarn.patchText (t : Tarn) : List Nat := if t.digest.isEmpty then asc "none" else hexBytes (t.digest.take 8)

/-- The banner (R626). -/
def State.banner (s : State) : State :=
  s.sendUart (textLine (spaced [asc "vx2", romVersion, s.tarn.patchText, hexOut 4 s.loess.restarts]))

/-! ## Tarn starts -/

/-- The priorities that the ROM gives the sources (R620). -/
def romPriority (n : Nat) : Option Nat :=
  if n = 0 then some 15
  else if n = 1 ∨ n = 8 ∨ n = 9 then some 14
  else if n = 48 ∨ n = 49 ∨ n = 50 then some 13
  else if n ≤ 7 then some 12
  else if (16 ≤ n ∧ n ≤ 23) ∨ n = 24 ∨ n = 25 then some 10
  else if n = 57 ∨ n = 58 then some 9
  else if n = 32 then some 8
  else if n = 40 ∨ n = 41 ∨ n = 42 ∨ n = 43 ∨ n = 45 then some 7
  else if n = 33 ∨ n = 34 ∨ n = 35 then some 6
  else if n = 44 then some 5
  else if n = 64 ∨ n = 65 ∨ n = 66 then some 1
  else none

/-- The vector of a source under a patch: the hook that replaces it, in patch RAM (R609, R613). -/
def hookVector (patch : Blob) (n : Nat) : Option Nat :=
  ((List.range (fld patch 20 4)).find? fun i => fld patch (64 + 8 * i) 4 == 0x100 + n).map fun i =>
    (0x10000000 + fld patch (68 + 8 * i) 4) / 4

/-- The ROM programs the sources, keeping what is latched; no handler is under way any more (R608, R613, R620). -/
def Tarn.program (t : Tarn) (src : Nat → TicSrc) : Tarn :=
  { t with
    stack := [], pc := 0
    sources := ((List.range 256).filter fun n => (romPriority n).isSome || (src n).pending).map fun n =>
      (n, { pending := (src n).pending, enable := (romPriority n).isSome, prio := (romPriority n).getD 0
            vector := (hookVector t.patch n).getD (0x400 + 4 * n) }) }

/-- The patch's digest is checked again; where it differs the patch is dropped (R613). -/
def Tarn.checkPatch (t : Tarn) : Tarn :=
  if t.patch.isEmpty then { t with patchLoaded := false }
  else if sha384 t.patch = t.digest then { t with patchLoaded := true }
  else { t with patch := [], digest := [], svn := 0, patchLoaded := false, patchDropped := true }

/-- Tarn starts, after the self-test or after a restart: the line in progress is gone, the heartbeat begins, and the banner is sent (R518,
R626, R635). -/
def State.tarnStart (s : State) : State :=
  let t := s.tarn.checkPatch.program s.ticSrc
  ({ s with
    tarn := { t with line := [], lastCr := false }
    loess := { s.loess with hbLast := s.now, hbHeldAt := s.pwr.heldNs, hbStopped := false, sampledAt := s.now } } : State).banner

end Sys2Proof.Machine
end

