-- ==== Sys2Proof/Machine/Recovery.lean ====
section
/-! DEFINITION. Loess at work: detectors, the ends and the deadlines of resets, Tarn restarts, and PF0's reset registers (R514 to R553). -/

namespace Sys2Proof.Machine

open Sys2Proof

/-! ## Detectors (R514 to R518) -/

/-- The stages are powered and a detector may report: the block is not held in reset, halted, in a hold-up state, Freeze or Permafrost. -/
def State.detects (s : State) : Bool :=
  s.held.isNone && !s.loess.halted && !s.pwr.holdup && (s.pwr.st == .active || s.pwr.st == .chill)

/-- RAIL_FAULT. -/
def execRailFault (engine : Nat) (s : State) : Out :=
  .next (if s.detects && s.engineExists engine then ((s.setErr 0).engineReset engine 9 none 0 0xFFFF).settle else s)

/-- STALL_SENTINEL_EXPIRY; none is declared while the block is held (R517). -/
def execStallSentinelExpiry (engine : Nat) (s : State) : Out :=
  .next (if s.stagesRun && s.engineExists engine then ((s.setErr 1).engineReset engine 10 none 0 0xFFFF).settle else s)

/-- A Melt unit sends a stream: the first of a cluster that it serves, which waits for nothing. -/
def State.meltStream (s : State) (m : Nat) : Option Stream :=
  ((s.meltClusters m).filterMap fun u => ((s.unit u).streams.find? fun w => w.stall.isNone && !w.items.isEmpty)).head?

/-- An engine has work pending (R515): what the state shows that it has accepted and not finished. -/
def State.workPending (s : State) (e : Nat) : Bool :=
  let n := e % 256
  let u := s.unit n
  match e / 256 with
  | 1 => !u.works.isEmpty || u.preempt.isSome || u.restore.isSome
  | 2 => s.siltBusy n
  | 3 => (s.meltStream n).isSome
  | 4 => tany s.glz.reads fun _ q => match s.slotOf q.tier (q.offset / frameBytes) with
      | some (k, _) => s.glazeEngine k (q.offset % frameBytes / 4096) == n
      | none => false
  | 5 => (s.link n).st == .up && !(s.link n).retry.isEmpty
  | 6 => (tget? s.esk.walks n).isSome
  | 7 => s.queues.any fun e => e.2.fetching != 0 || !e.2.fetched.isEmpty || !e.2.burst.isEmpty
  | 8 => !s.esk.invals.isEmpty
  | 9 => (s.firn.loads.any (·.begun)) || s.firn.repairs.any (·.started)
  | 10 => s.snow.passDue
  | 12 => tany s.kao.slots fun _ k => k.walk.isSome
  | 13 => tany s.glz.reads fun _ q => q.prot == 0
  | 14 => !s.ledg.buffer.isEmpty
  | _ => false

/-- The time since an engine's stamp, less the time held since (R516, R517). -/
def State.sinceStamp (s : State) (e : Nat) : Nat := (s.now - (s.eng e).stamp) - (s.pwr.heldNs - (s.eng e).heldAt)

/-- An engine has reached no safe point for a staged change within the stall limit (R223). -/
def State.epochLate (s : State) (e : Nat) : Bool :=
  s.cfg.staged.any fun x => (s.concerned x.item).contains e && !x.adopted.contains e &&
    decide (s.cfg.stallUs * 1000 ≤ (s.now - x.at_) - (s.pwr.heldNs - x.heldAt))

/-- An engine is stalled: it has work pending and has made no progress for the stall limit, or keeps a staged change waiting that long (R223). -/
def State.stalled (s : State) (e : Nat) : Bool :=
  s.engineExists e && !s.engDown e && !(inDomain e && s.loess.domain.isSome) &&
    ((s.workPending e && decide (s.cfg.stallUs * 1000 ≤ s.sinceStamp e)) || s.epochLate e)

/-- The guilty context of a stall (R537). -/
def State.stallGuilty (s : State) (e : Nat) : Option Nat :=
  let n := e % 256
  match e / 256 with
  | 1 => (s.unit n).holder
  | 2 =>
    match s.silt.taps.find? fun t => t.engine == n with
    | some t => some t.ctx
    | none =>
      match (s.siltEng n).fetches.head? with
      | some x => ((s.cmds.find? fun c => c.2.unfinished && c.2.variants.any (·.id == x.variant)).map fun c => c.2.ctx)
      | none => if (s.siltEng n).rt then none else (s.cmds.find? fun c => c.2.updating).map fun c => c.2.ctx
  | 3 => (s.meltStream n).map (·.ctx)
  | _ => none

/-- Every engine that Tarn samples, by ID. -/
def sampledEngines : List Nat :=
  ((List.range 32).map (0x0100 + ·)) ++ ((List.range 64).map (0x0200 + ·)) ++ ((List.range 16).map (0x0300 + ·)) ++
  ((List.range 24).map (0x0400 + ·)) ++ ((List.range 36).map (0x0500 + ·)) ++ ((List.range 16).map (0x0600 + ·)) ++
  [0x0700, 0x0800, 0x0900, 0x0A00, 0x0C00, 0x0D00, 0x0E00]

/-- Tarn reads every progress counter and stamp, and reports the engines that are stalled. -/
def State.sample (s : State) : State :=
  (sampledEngines.filter s.stalled).foldl (fun t e =>
    if t.stalled e then (t.setErr 2).engineReset e 8 (t.stallGuilty e) 0 0xFFFF else t)
    { s.pulse 1 with loess := { s.loess with sampledAt := s.now } }

/-- PROGRESS_SAMPLE (R516): 200 us after the last. -/
def execProgressSample (s : State) : Out :=
  .next (if !s.tarnRuns || s.tarn.phase = 6 then s else (s.advanceTo (s.loess.sampledAt + 200000)).sample.settle)

/-- HEARTBEAT (R518): 100 us after the last; the ROM's fault handler writes none (R605). -/
def execHeartbeat (s : State) : Out :=
  .next (if !s.tarnRuns || s.loess.hbStopped then s
    else
      let t := (s.advanceTo (s.loess.hbLast + 100000)).pulse 0
      { t with loess := { t.loess with hbLast := t.now, hbHeldAt := t.pwr.heldNs } })

/-- HEARTBEAT_WATCHDOG_EXPIRY: 300 µs since the last heartbeat, less the time held (R514, R517). -/
def execHeartbeatWatchdogExpiry (s : State) : Out :=
  .next (if !s.tarnRuns || s.loess.oos then s
    else
      let t := s.advanceTo (s.loess.hbLast + 300000 + (s.pwr.heldNs - s.loess.hbHeldAt))
      (t.tarnRestart 13 0xFFFF).settle)

/-! ## Ends and deadlines of resets (R522, R525, R530, R542) -/

/-- The moment a reset is due: its deadline, later by the time held since its start (R517, R591, R593). -/
def State.dueAt (s : State) (x : Rst) : Nat := x.deadline + (s.pwr.heldNs - x.heldAt)

/-- The moment a context's reset is due, later by the time held since its start (R521, R591, R593). -/
def State.ctxDueAt (s : State) (c : Ctx) : Nat := c.resetStart + 100000 + (s.pwr.heldNs - c.resetHeld)

/-- ENGINE_RESET_COMPLETE: within its deadline, and for a Serac unit when its cluster has returned credit of every class. While the block is out of
service the compute domain stays in reset, and any other engine completes its own (R547). -/
def execEngineResetComplete (engine : Nat) (s : State) : Out :=
  .next (match (s.eng engine).rst with
    | none => s
    | some x =>
      if !s.detects || (s.loess.oos && inDomain engine) || s.dueAt x < s.now || (engine / 256 == 1 && (s.unit (engine % 256)).credited.length != 4) then s
      else (s.engineDone engine).replayOnward)

/-- CONTEXT_RESET_DEADLINE: the units that have not answered are reset as engines, under the guilt of the context's own reset (R522, R537).
No deadline comes while time is held (R591, R593). -/
def execContextResetDeadline (ctx : Nat) (s : State) : Out :=
  .next (match tget? s.ctxs ctx with
    | none => s
    | some c =>
      if !c.resetting || !s.detects || s.timeHeld || s.loess.oos then s
      else
        let t := s.advanceTo (s.ctxDueAt c)
        let late := c.resetWait.filter fun u => !t.engDown (seracEngine u) && t.loess.domain.isNone
        let t1 := match c.resetRecord with
          | some n => if late.isEmpty then t else t.closeRecord n 1 false
          | none => if late.isEmpty then t else (t.setErr 4).pulse 8
        (late.foldl (fun v u => v.engineReset (seracEngine u) 11 (if c.resetRecord.isSome then some ctx else none) 0 (c.resetRecord.getD 0xFFFF))
          t1).settle)

/-- ENGINE_RESET_DEADLINE (R542, R591, R593). -/
def execEngineResetDeadline (engine : Nat) (s : State) : Out :=
  .next (match (s.eng engine).rst with
    | none => s
    | some x => if !s.detects || s.timeHeld || s.loess.oos then s else ((s.advanceTo (s.dueAt x)).engineOverdue engine).settle)

/-- COMPUTE_DOMAIN_RESET_COMPLETE. -/
def execComputeDomainResetComplete (s : State) : Out :=
  .next (match s.loess.domain with
    | none => s
    | some x => if !s.detects || s.loess.oos || s.dueAt x < s.now then s else s.domainDone)

/-- COMPUTE_DOMAIN_RESET_DEADLINE (R544, R591, R593). -/
def execComputeDomainResetDeadline (s : State) : Out :=
  .next (match s.loess.domain with
    | none => s
    | some x =>
      if !s.detects || s.timeHeld || s.loess.oos then s
      else (((s.advanceTo (s.dueAt x)).closeRecord x.slot 1 false).outOfService 1 0).settle)

/-! ## Tarn restart (R549, R550, R611) -/

/-- What a restart makes of an admin command that was executing (R549). -/
def State.afterRestart (s : State) (r : Nat) : State :=
  match tget? s.cmds r with
  | none => s
  | some c =>
    if !c.admin || c.stage != .running then s
    else if c.journal = .committed then s.report r .success
    else if c.decided.isSome then s.drainIfIdle r
    else if c.journal = .handedOver then s
    else (s.withdraw r).report r .timeout

/-- The restart ends: Tarn starts, and a restart for a patch completes its command. -/
def State.restartDone (s : State) (x : Rst) : State :=
  let s1 := { s with loess := { s.loess with restart := none, restartForPatch := false }, tarn := { s.tarn with patchNext := none } }
  let s2 := (s1.tarnStart).progress 0x0B00
  let s3 := (tkeys s2.cmds).foldl State.afterRestart s2
  let s4 := { s3 with tarn := { s3.tarn with patchCmd := if s.loess.restartForPatch then none else s3.tarn.patchCmd } }
  (if s.loess.restartForPatch then s4 else s4.closeIfOpen x.slot 0).adoptAll 0x0B00

/-- TARN_RESTART_COMPLETE. -/
def execTarnRestartComplete (s : State) : Out :=
  .next (match s.loess.restart with
    | none => s
    | some x => if !s.stagesRun || s.dueAt x < s.now then s else (s.restartDone x).settle)

/-- TARN_RESTART_DEADLINE (R549, R591, R593). -/
def execTarnRestartDeadline (s : State) : Out :=
  .next (match s.loess.restart with
    | none => s
    | some x =>
      if !s.stagesRun || s.loess.oos then s
      else
        let t := s.advanceTo (s.dueAt x)
        let t1 := if s.loess.restartForPatch then t else t.closeRecord x.slot 3 false
        (({ t1 with loess := { t1.loess with restart := none } } : State).outOfService 6 0x0B00).settle)

/-! ## PF0's registers (R551, R552) -/

/-- A write of VX_RESET_REQ has effect: the block is neither halted nor out of service, and is not held. -/
def State.resetReqOk (s : State) : Bool := s.detects && !s.loess.oos && decide (1 ≤ s.tarn.phase)

/-- VX_RESET_REQ domain 1: an ID that names no resettable engine has no effect, Kaolin, Varve and Ledger among them. -/
def State.engineRequest (s : State) (engine : Nat) : State :=
  if s.resetReqOk && s.engineExists engine && decide (engine / 256 < 0x0C) then (s.engineReset engine 12 none 0 0xFFFF).settle else s

/-- ENGINE_RESET_REQUEST. -/
def execEngineResetRequest (engine : Nat) (s : State) : Out :=
  .next (s.access (.engineResetRequest engine) false fun t => t.engineRequest engine)

/-- VX_RESET_REQ domain 2. -/
def State.domainRequest (s : State) : State := if s.resetReqOk then (s.domainReset 12 none 0 0xFFFF []).settle else s

/-- COMPUTE_DOMAIN_RESET_REQUEST. -/
def execComputeDomainResetRequest (s : State) : Out := .next (s.access .computeDomainResetRequest false State.domainRequest)

/-- VX_RESET_HEAD is written: a slot outside the span from head to tail has no effect (R551). -/
def State.resetHead (s : State) (value : Nat) : State :=
  let l := s.loess
  let v := value % 256
  if (v + 256 - l.head) % 256 ≤ (l.tail + 256 - l.head) % 256 then { s with loess := { l with head := v } } else s

/-- RESET_HEAD_WRITE. -/
def execResetHeadWrite (value : Nat) (s : State) : Out := .next (s.access (.resetHeadWrite value) false fun t => t.resetHead value)

end Sys2Proof.Machine
end

