-- ==== Sys2Proof/Machine/Links.lean ====
section
/-! DEFINITION. Floe at work: frames and messages as they arrive, its timers, and the states of links and rings (R554 to R581). A message's
command stands for the moment its last byte has arrived; the frames that bring it are commands of their own, and the two are not tied
(assumption 20). -/

namespace Sys2Proof.Machine

open Sys2Proof

/-- A link's controller works: the stages run and it is neither fenced nor in reset. -/
def State.floeRuns (s : State) (n : Nat) : Bool := decide (n < 36) && s.stagesRun && !s.engDown (floeEngine n)

/-- A link that carries frames. -/
def State.linkUpNow (s : State) (n : Nat) : Bool := s.floeRuns n && (s.link n).st == .up

/-! ## Frames (R557 to R562) -/

/-- The frames a receiver's buffer holds for each stream (R559). -/
def creditTop : List Nat := [24, 24, 28, 28, 12, 12]

/-- A data frame is discarded, and the first discard sends a nak (R561). -/
def State.nakOnce (s : State) (n : Nat) : State :=
  if (s.link n).nakSent then s
  else (s.sendFrame n 2 0 0 255 []).updLink n fun l => { l with nakSent := true }

/-- Take the ack and the credit that a good frame carries. -/
def Link.takeHead (l : Link) (now : Nat) (f : Blob) : Link :=
  let i := streamIdx (fld f 6 1)
  let l1 := l.takeAck now (fld f 4 2)
  if fld f 6 1 % 4 = 3 then l1
  else { l1 with credit := setAt l1.credit i (min (creditTop.getD i 0) (l1.credit.getD i 0 + fld f 7 1)) }

/-- The length a message of a type may have in a stream's class (R563). -/
def headOk (b : Blob) (stream : Nat) : Bool :=
  let t := fld b 0 1
  let n := fld b 20 4
  [0x01, 0x02, 0x03, 0x11, 0x12, 0x13, 0x21, 0x22].contains t && msgClass t == stream / 2 &&
  (if t = 0x01 then n == 4 else if t = 0x02 then decide (64 ≤ n) && decide (n ≤ 512) && n % 64 == 0
   else if t = 0x03 then n == 60 else if t = 0x11 then decide (n ≤ 512) && n % 64 == 0
   else if t = 0x12 then n == 0 else if t = 0x13 then n == 0 || n == 4096
   else if t = 0x21 then n == 16 else n == 68)

/-- Bytes of a message that is passed on while it arrives join what the outgoing link has to send; `r` more are to come. They go nowhere where the
message has been discarded. -/
def State.passOn (s : State) (n stream : Nat) (d : Blob) (r : Nat) : State :=
  let s1 := s.updLink n fun l => { l with passing := if r = 0 then tdel l.passing stream else tset l.passing stream r }
  let add (i : TxItem) : TxItem :=
    if i.source = some (n, stream) ∧ 0 < i.left then { i with bytes := i.bytes ++ d, left := i.left - d.length } else i
  s1.updLink (outLink (n / 2) (n % 2 == 0)) fun l => { l with out := l.out.map add }

/-- The header of a message for another chip has arrived: its forwarding begins with its header, one hop further, or it is discarded (R568). -/
def State.beginPass (s : State) (n stream : Nat) (b : Blob) : State :=
  let typ := fld b 0 1
  let key := passKey typ (fld b 5 1) (fld b 6 1) (fld b 8 2)
  let total := 32 + fld b 20 4
  let s1 := s.updLink n fun l => { l with passing := tset l.passing stream total, passed := l.passed ++ [key] }
  if s.noForward n (fld b 6 1) (fld b 7 1) then s1.floeDiscard
  else s1.updLink (outLink (n / 2) (n % 2 == 0)) fun l => { l with out := l.out ++
    [{ stream := msgClass typ * 2 + s.forwardVc n (fld b 5 1), bytes := [], left := total, source := some (n, stream) }] }

/-- The header of a message that is passed on: its hops go up by one. -/
def nextHop (b : Blob) : Blob := b.take 7 ++ leBytes 1 (fld b 7 1 + 1) ++ b.drop 8

/-- Take the messages out of a stream's bytes. One whose header breaks the table is discarded as a protocol error, and a header that names more
bytes than any message holds loses the rest of the bytes with it (R564). One for another chip is passed on as it comes (R568); one for this chip
leaves the buffer once it is whole. -/
def State.takeMsgs (n stream : Nat) : Nat → Blob → State → State
  | 0, b, s => s.updLink n fun l => { l with rx := tset l.rx stream b }
  | f + 1, b, s =>
    let len := fld b 20 4
    match tget? (s.link n).passing stream with
    | some r =>
      let d := b.take r
      if d.isEmpty then s.updLink n fun l => { l with rx := tset l.rx stream [] }
      else State.takeMsgs n stream f (b.drop r) (s.passOn n stream d (r - d.length))
    | none =>
      if b.length < 32 then s.updLink n fun l => { l with rx := tset l.rx stream b }
      else if 4096 < len then ((s.floeProtocol n).floeDiscard).updLink n fun l => { l with rx := tset l.rx stream [] }
      else if headOk b stream && fld b 0 1 < 0x20 && fld b 6 1 != s.nodeId then State.takeMsgs n stream f (nextHop b) (s.beginPass n stream b)
      else if b.length < 32 + len then s.updLink n fun l => { l with rx := tset l.rx stream b }
      else State.takeMsgs n stream f (b.drop (32 + len)) (if headOk b stream then s else (s.floeProtocol n).floeDiscard)

/-- A frame's place in the receive buffer (R559): its credit goes back once its bytes have left the buffer: at once, with the last bytes of the
message that they belong to, or when a message passed on has gone out. `fresh` says that what the stream held before has left. -/
def State.holdFrame (s : State) (n i had : Nat) (fresh : Bool) : State :=
  let l := s.link n
  let held := l.rxFrames.getD i 0
  if 0 < ((tget? l.rx i).getD []).length then
    s.updLink n fun y => { y with
      rxFrames := setAt y.rxFrames i (if fresh then 1 else held + 1), owed := setAt y.owed i (y.owed.getD i 0 + if fresh then held else 0) }
  else
    let o := outLink (n / 2) (n % 2 == 0)
    let s1 := s.updLink n fun y => { y with rxFrames := setAt y.rxFrames i 0 }
    if (s.link o).out.any fun j => j.source == some (n, i) && !j.bytes.isEmpty then
      let last := ((s.link o).out.filter fun j => j.source == some (n, i) && !j.bytes.isEmpty).length
      let add (j : TxItem) : TxItem :=
        if j.source = some (n, i) ∧ j.bytes ≠ [] ∧ (last = 1 ∨ 0 < j.left) then { j with frames := j.frames + had } else j
      s1.updLink o fun y => { y with out := y.out.map add }
    else s1.updLink n fun y => { y with owed := setAt y.owed i (y.owed.getD i 0 + had) }

/-- Take a data frame that has come in order. -/
def State.takeData (s : State) (n : Nat) (f : Blob) : State :=
  let i := streamIdx (fld f 1 1)
  let old := (tget? (s.link n).rx i).getD []
  let busy := !old.isEmpty || (tget? (s.link n).passing i).isSome
  let pay := slice f 16 (min 232 (fld f 8 1))
  let new := if busy then pay else if fld f 9 1 = 0xFF then [] else pay.drop (fld f 9 1)
  let s1 := s.updLink n fun l => { l with rxSeq := (l.rxSeq + 1) % 65536, nakSent := false }
  let s2 := State.takeMsgs n i 16 (old ++ new) s1
  let rest := ((tget? (s2.link n).rx i).getD []).length
  (s2.holdFrame n i ((s.link n).rxFrames.getD i 0 + 1) (decide (rest < (old ++ new).length))).pump (outLink (n / 2) (n % 2 == 0))

/-- Send an idle frame where nothing else carries the ack and the credit (R557). -/
def State.ackFrame (s : State) (n before : Nat) : State :=
  if s.ports.frames.length = before then s.sendFrame n 0 0 0 255 [] else s

/-- FRAME_RECEIVE. -/
def execFrameReceive (link : Nat) (frame : Blob) (s : State) : Out :=
  let n := link
  let f := padTo 256 frame
  .next (if !s.linkUpNow n then s
    else if frame.length ≠ 256 ∨ crc64 (f.take 248) ≠ fld f 248 8 then
      let s1 := s.updLink n fun l => { l with crc := satAdd l.crc 1 0xFFFFFFFF }
      if fld f 0 1 = 1 then s1.nakOnce n else s1
    else if 2 < fld f 0 1 then s
    else
      let s1 := (s.updLink n fun l => l.takeHead s.now f).progress (floeEngine n)
      if fld f 0 1 = 2 then (s1.resend n).pump n
      else if fld f 0 1 = 0 then s1.pump n
      else if fld f 1 1 % 4 = 3 ∨ fld f 2 2 ≠ (s1.link n).rxSeq then (s1.nakOnce n).pump n
      else ((s1.takeData n f).pump n).ackFrame n s1.ports.frames.length)

/-- ACK_TIMEOUT. -/
def execAckTimeout (link : Nat) (s : State) : Out :=
  .next (if !s.linkUpNow link || (s.link link).retry.isEmpty then s
    else (s.advanceTo ((s.link link).ackTime + 10000)).resend link)

/-! ## Requests from other chips (R564, R568, R571) -/

/-- The memory request that a READ_REQ or WRITE_REQ makes at its destination; its protection is that of the frame, since the message carries
none. -/
def State.remoteReq (s : State) (m : FloeMsg) (n : Nat) : MemReq :=
  let tier := dpaTier m.dpa
  let off := dpaOffset m.dpa
  { fn := 0, ctx := m.ctx, key := dpaKey m.dpa, node := s.nodeId, tier := tier, offset := off, len := n, remote := true,
    prot := match s.fktEntry tier off with | some x => x.prot | none => 0,
    write := if m.typ = 0x02 then some m.body else none }

/-- The status a request from another chip meets before it is carried out: refused, unverifiable, uncorrectable, or none. -/
def State.remoteStatus (s : State) (q : MemReq) (ecc : Ecc) : Status :=
  if (1 ≤ q.key ∧ q.key ≤ 15) ∨ 2 ≤ q.tier ∨ !s.fktPass q then .frameKeyDenied
  else if (granulesOf q.offset q.len).any fun g => s.pageBad q.tier g.1 then .integrityUnverifiable
  else
    let reads := q.write.isNone || (q.prot == 0 && (granulesOf q.offset q.len).any fun g => g.2 != 512 && !s.unwritten q.tier g.1)
    if reads && (ecc == .uncorrectable || ecc == .poisoned) then .memoryUncorrectable else .success

/-- What every message of a link meets first: it is malformed, it is for another chip, or it is for this one. -/
def State.arrived (s : State) (link : Nat) (m : FloeMsg) (typ : Nat) (f : State → State) : State :=
  if !s.linkUpNow link then s
  else if !msgOk m typ then (s.floeProtocol link).floeDiscard
  else if m.dst ≠ s.nodeId then s.forward link m
  else f s

/-- READ_REQ. -/
def execReadReq (link : Nat) (m : FloeMsg) (ecc : Ecc) (s : State) : Out :=
  .next (s.arrived link m 0x01 fun s =>
    let n := leVal m.body
    let q := s.remoteReq m n
    match s.remoteStatus q ecc with
    | .frameKeyDenied => (s.fktDeny q).answerMsg m 0x11 Status.frameKeyDenied.code []
    | .success => let x := s.portRead q n; x.2.answerMsg m 0x11 0 x.1
    | st => s.answerMsg m 0x11 st.code [])

/-- WRITE_REQ. -/
def execWriteReq (link : Nat) (m : FloeMsg) (ecc : Ecc) (s : State) : Out :=
  .next (s.arrived link m 0x02 fun s =>
    let q := s.remoteReq m m.body.length
    match s.remoteStatus q ecc with
    | .frameKeyDenied => (s.fktDeny q).answerMsg m 0x12 Status.frameKeyDenied.code []
    | .success => (s.portWrite q m.body).answerMsg m 0x12 0 []
    | st => s.answerMsg m 0x12 st.code [])

/-- The image version of a digest, and its number of one of its tensors, held here in a form, where the unit needs no repair (R337). -/
def State.heldUnit (s : State) (digest : Blob) (tensor unit form : Nat) : Option Blob :=
  (s.firn.images.flatMap fun x => x.2.versions.map fun v => (x.1, v.1, v.2)).findSome? fun e =>
    match e.2.2.tensors[tensor]? with
    | some t =>
      if e.2.2.digest == digest && t.board == (form == 1) && decide (unit < t.units) && (s.repairOf e.1 e.2.1 tensor unit).isNone &&
          !e.2.2.lost.contains (tensor, unit) then
        some (t.unit unit)
      else none
    | none => none

/-- PEER_REQ. -/
def execPeerReq (link : Nat) (m : FloeMsg) (s : State) : Out :=
  .next (s.arrived link m 0x03 fun s =>
    match s.heldUnit (m.body.take 48) (fld m.body 48 4) (fld m.body 52 4) (fld m.body 56 1) with
    | some b => s.answerMsg m 0x13 0 b
    | none => s.answerMsg m 0x13 Status.basePoisoned.code [])

/-! ## Answers (R565, R570, R571) -/

/-- The status that a response carries. -/
def remoteEnd (code : Nat) : Status :=
  if code = Status.frameKeyDenied.code then .frameKeyDenied
  else if code = Status.integrityUnverifiable.code then .integrityUnverifiable
  else .memoryUncorrectable

/-- Commands whose remote requests wait go on: a tag or a granule has come free (R569). -/
def State.pumpRemotes (s : State) : State :=
  (tfind s.cmds fun _ c => !c.remoteOut.isEmpty).foldl (fun t r => t.remotePump r) s

/-- The work of a request that has been answered goes on. -/
def State.remoteMoved (s : State) (q : MemReq) : State :=
  match q.cmd with
  | some r => ((s.remotePump r).workMoved r).pumpRemotes
  | none => s.pumpRemotes

/-- A response whose tag is not outstanding is discarded (R570). -/
def State.floeStale (s : State) : State := { s with floe := { s.floe with stale := satAdd s.floe.stale 1 0xFFFF } }

/-- Take a response to a remote request: the bytes a read brings are kept for its command. -/
def State.remoteAnswer (s : State) (m : FloeMsg) (write : Bool) : State :=
  match tget? s.floe.remotes m.tag with
  | none => s.floeStale
  | some x =>
    if x.hold || x.q.write.isSome != write || x.q.node != m.src then s.floeStale
    else
      let s1 := { s with floe := { s.floe with remotes := tdel s.floe.remotes m.tag } }
      if m.status ≠ 0 then (s1.endWork x.q (remoteEnd m.status)).remoteMoved x.q
      else
        let s2 := match x.q.cmd, write with
          | some r, false => s1.modCmd r fun c => { c with
              remoteData := c.remoteData ++ [(dpaOf x.q.key x.q.node x.q.tier x.q.offset, padTo x.q.len m.body)] }
          | _, _ => s1
        s2.remoteMoved x.q

/-- READ_RESP. -/
def execReadResp (link : Nat) (m : FloeMsg) (s : State) : Out :=
  .next (s.arrived link m 0x11 fun s => s.remoteAnswer m false)

/-- WRITE_ACK. -/
def execWriteAck (link : Nat) (m : FloeMsg) (s : State) : Out :=
  .next (s.arrived link m 0x12 fun s => s.remoteAnswer m true)

/-- PEER_RESP. -/
def execPeerResp (link : Nat) (m : FloeMsg) (s : State) : Out :=
  .next (s.arrived link m 0x13 fun s =>
    match s.firn.repairs.find? fun p => p.tag == m.tag && (match p.asked with | some a => a.1 == m.src | none => false) with
    | none => s.floeStale
    | some p =>
      if m.status = 0 then (s.gotUnit p m.body false).pumpRemotes
      else ((s.modRepair p.id fun y => { y with asked := none }).askNext { p with asked := none }).pumpRemotes)

/-! ## Links (R571, R572, R575) -/

/-- HELLO. One that fails a check is treated as a failed training, which releases the ring, and leaves its link in Hello (R572, R574, assumption 107);
a ring that is not being joined or retrained takes none. -/
def execHello (link : Nat) (m : FloeMsg) (s : State) : Out :=
  .next (if !s.floeRuns link || (s.link link).st != .hello || (s.ring (link / 2)).st == 1 || (s.ring (link / 2)).st == 5 then s
    else if !msgOk m 0x21 then (s.floeProtocol link).floeDiscard
    else
      let node := fld m.body 0 1 % 64
      let far := fld m.body 1 1 % 64
      if fld m.body 1 1 = link / 2 * 2 + (1 - link % 2) ∧ node ≠ s.nodeId then s.linkUp link node far
      else
        let s1 := (s.updLink link fun l => { l with
          farNode := node, farLink := far, mismatches := satAdd l.mismatches 1 0xFF }).releaseRing (link / 2) 4 true
        s1.updLink link fun l => { l with st := .hello })

/-- LANES_READY: Floe sends its own HELLO. A Down link has trained since the pulse of its PHY_RST_N ended, 1 us after it went Down (R575). -/
def execLanesReady (link : Nat) (s : State) : Out :=
  .next (if !s.floeRuns link || ((s.link link).st != .training && (s.link link).st != .down) then s
    else
      let s0 := if (s.link link).st = .down then (s.advanceTo ((s.link link).downAt + 1000)).trainLink link else s
      let body := leBytes 1 s.nodeId ++ leBytes 1 link ++ zeros 6 ++ leBytes 8 Config.deviceSerial
      ((s0.updLink link fun l => { l with st := .hello }).sendFloe link
        { typ := 0x21, ring := link / 2, src := s.nodeId, body := body }).linkMoved (link / 2))

/-- LINK_SIGNAL_LOST: an Up link goes Down and retrains; one that awaits the far HELLO trains again. -/
def execLinkSignalLost (link : Nat) (s : State) : Out :=
  .next (if !s.floeRuns link then s
    else match (s.link link).st with
      | .up => s.retrain link 1 true
      | .hello => (s.updLink link fun l => { l with st := .training }).linkMoved (link / 2)
      | _ => s)

/-- TRAIN_TIMEOUT. -/
def execTrainTimeout (link : Nat) (s : State) : Out :=
  .next (match (s.link link).trainDeadline with
    | some t => if s.floeRuns link then (s.advanceTo t).releaseRing (link / 2) 3 true else s
    | none => s)

/-! ## Rings (R554, R573, R574, R581) -/

/-- FLOE_RING_CTL takes a control now: a ring of the block, which is neither halted nor out of service. -/
def State.ringCtlOk (s : State) (k : Nat) : Bool := decide (k < 18) && s.held.isNone && !s.loess.halted && !s.loess.oos

/-- FLOE_RING_CTL is written: a join of a ring whose links are absent has no effect. -/
def State.ringWrite (s : State) (k action : Nat) : State :=
  if !s.ringCtlOk k then s
  else if action = 1 then (if s.linkPresent (2 * k) && s.linkPresent (2 * k + 1) then s.ringCtl k true else s)
  else if action = 2 then s.ringCtl k false
  else s

/-- RING_JOIN_REQUEST. -/
def execRingJoinRequest (ring : Nat) (s : State) : Out := .next (s.access (.ringJoinRequest ring) false fun t => t.ringWrite ring 1)

/-- RING_RELEASE_REQUEST. -/
def execRingReleaseRequest (ring : Nat) (s : State) : Out :=
  .next (s.access (.ringReleaseRequest ring) false fun t => t.ringWrite ring 2)

/-- RING_JOIN: once no join is in progress, the join at the head of the waiting ring controls begins (R581), or that of the lowest ring which the chip
joins of its own accord (R573). -/
def execRingJoin (ring : Nat) (s : State) : Out :=
  .next (
    let go (t : State) : State := if t.ringJoinable ring && (t.ring ring).st != 3 && (t.ring ring).st != 4 then t.beginJoin ring else t
    if !s.stagesRun ∨ s.loess.oos ∨ s.joinBusy then s
    else if s.floe.ctl.head? = some (ring, true) then
      let rest := s.floe.ctl.drop 1
      State.runReleases rest.length (go { s with floe := { s.floe with ctl := rest } })
    else if s.floe.joins.head? = some ring then go { s with floe := { s.floe with joins := s.floe.joins.drop 1 } }
    else s)

/-- JOIN_TIMEOUT. -/
def execJoinTimeout (ring : Nat) (s : State) : Out :=
  .next (match (s.ring ring).joinDeadline with
    | some t => if s.stagesRun && (s.ring ring).st == 2 then (s.advanceTo t).releaseRing ring 5 true else s
    | none => s)

/-- A list whose elements are distinct. -/
def distinct : List Nat → Bool
  | [] => true
  | x :: t => !t.contains x && distinct t

/-- CENSUS. A census comes from upstream, on the even link of its ring. -/
def execCensus (link : Nat) (m : FloeMsg) (s : State) : Out :=
  let k := link / 2
  let origin := fld m.body 0 1
  let done := bit (fld m.body 1 1) 0
  let n := fld m.body 2 1
  let nodes := ((m.body.drop 4).take n).map BitVec.toNat
  let me := s.nodeId
  let on (t : State) (d : Bool) (l : List Nat) : State :=
    if (t.link (2 * k + 1)).st = .up ∧ m.hops < 63 then
      t.toLink (2 * k + 1) (t.forwardVc link m.src) { censusMsg k origin d l with src := m.src, hops := m.hops + 1 }
    else t.floeDiscard
  .next (if !s.linkUpNow link || link % 2 = 1 then s
    else if !msgOk m 0x22 || 64 < n then (s.floeProtocol link).floeDiscard
    else if !done then
      if origin = me then
        (if distinct nodes then (s.toLink (2 * k + 1) 0 (censusMsg k me true nodes)).adoptCensus k nodes else s)
      else if 64 ≤ n then s.floeDiscard
      else on s false (nodes ++ [me])
    else if origin = me then s
    else if nodes.count me = 1 then on (s.adoptCensus k nodes) true nodes
    else s.floeDiscard)

/-- CENSUS_RESEND_TIMER. -/
def execCensusResendTimer (ring : Nat) (s : State) : Out :=
  .next (match (s.ring ring).censusSent with
    | some t => if s.stagesRun && (s.link (2 * ring + 1)).st == .up then (s.advanceTo (t + 1000000)).startCensus ring else s
    | none => s)

/-! ## Timers of remote requests (R570) -/

/-- E2E_TIMER_EXPIRY. -/
def execE2eTimerExpiry (tag : Nat) (s : State) : Out :=
  .next (match tget? s.floe.remotes tag with
    | none => s
    | some x =>
      if x.hold || !s.stagesRun then s
      else
        let s1 := s.advanceTo x.deadline
        if s1.staleGen x.q then
          (({ s1 with floe := { s1.floe with remotes := tdel s1.floe.remotes tag } } : State).staleRemote x.q).remoteMoved x.q
        else match (if x.resent then none else s1.route x.q.node (some (!x.downstream))) with
        | some r =>
          ({ s1 with floe := { s1.floe with resent := satAdd s1.floe.resent 1 0xFFFF } } : State).sendRemote tag
            { x with ring := r.1, downstream := r.2, resent := true, deadline := s1.now + s1.floe.e2eUs * 1000 }
        | none =>
          if !x.resent && (s1.route x.q.node none).isNone && s1.ringsComing then
            s1.setRemote tag { x with hold := true, again := true, deadline := s1.now + s1.floe.holdMs * 1000000 }
          else (s1.unreachable tag x.q).remoteMoved x.q)

/-- RING_HOLD_EXPIRY. -/
def execRingHoldExpiry (tag : Nat) (s : State) : Out :=
  .next (match tget? s.floe.remotes tag with
    | none => s
    | some x => if !x.hold || !s.stagesRun then s else ((s.advanceTo x.deadline).unreachable tag x.q).remoteMoved x.q)

end Sys2Proof.Machine
end

