-- ==== Sys2Proof/Machine/Security.lean ====
section
/-! DEFINITION. DOE mailboxes, the SPDM responder of each, attestation, and the messages that provision tenant and migration records (R53,
R459 to R466, R490). Response codes, layouts and flag places are those of SPDM 1.3 with its secured messages and of DOE Discovery, which the spec names and does not
lay out (assumption 21). -/

namespace Sys2Proof.Machine

open Sys2Proof

/-! ## Mailboxes (R53) -/

/-- A function's mailbox. -/
def State.box (s : State) (f : Nat) : Mailbox := tget s.kao.boxes {} f

/-- Change a mailbox. -/
def State.updBox (s : State) (f : Nat) (g : Mailbox → Mailbox) : State :=
  { s with kao := { s.kao with boxes := tupd s.kao.boxes {} f g } }

/-- Return a response: the object that it answers leaves the mailbox. -/
def State.doeAnswer (s : State) (f : Nat) (b : Blob) : State :=
  (s.updBox f fun x => { x with inObj := none, outObj := some b, busy := false }).pushHost (.doe f b)

/-- An object of DOE Discovery: vendor ID 0x0001 and type 0. -/
def isDiscovery (b : Blob) : Bool := fld b 0 3 == 1

/-- The answer of DOE Discovery for an index: the protocols are Discovery, SPDM and Secured SPDM (R49). -/
def discoveryAnswer (b : Blob) : Blob :=
  let i := fld b 8 1
  leBytes 4 1 ++ leBytes 4 3 ++
    (if i < 3 then leBytes 2 1 ++ leBytes 1 i ++ leBytes 1 (if i = 2 then 0 else i + 1) else leBytes 4 0xFFFF)

/-- DOE_OBJECT: an object of at most 64 KiB is taken where the mailbox is free; one that comes before the last answer is discarded. -/
def execDoeObject (fn : Nat) (data : Blob) (s : State) : Out :=
  .next (s.config (.doeObject fn data) fun s =>
    if 4096 ≤ fn ∨ 65536 < data.length ∨ data.isEmpty = true ∨ s.loess.halted = true then s
    else if (s.box fn).inObj.isSome then s.updBox fn fun x => { x with busy := true }
    else if isDiscovery data then (s.pulse 33).doeAnswer fn (discoveryAnswer data)
    else (s.updBox fn fun x => { x with inObj := some data, outObj := none }).pulse 33)

/-- DOE_ABORT. -/
def execDoeAbort (fn : Nat) (s : State) : Out :=
  .next (s.config (.doeAbort fn) fun s =>
    if 4096 ≤ fn ∨ s.loess.halted = true then s else (s.updBox fn fun x => { x with inObj := none, outObj := none, busy := false }).pulse 34)

/-! ## The SPDM responder (R459) -/

/-- An SPDM message: version 1.3, its code and two parameters, and a body. -/
def spdm (code p1 p2 : Nat) (body : Blob) : Blob := leBytes 1 0x13 ++ leBytes 1 code ++ leBytes 1 p1 ++ leBytes 1 p2 ++ body

/-- An ERROR response. -/
def spdmError (code data : Nat) : Blob := spdm 0x7F code data []

/-- The capability flags of R459's profile. -/
def spdmFlags : Nat := 2 + 4 + 0x10 + 0x40 + 0x80 + 0x100 + 0x200 + 0x2000 + 0x4000

/-- Answer in clear with a nonce from Kaolin's generator and a signature by the device identity key. -/
def State.signedAnswer (s : State) (f code p1 p2 : Nat) (body : Blob) : State :=
  let m := spdm code p1 p2 (body ++ leBytes 32 (s.draw % 2 ^ 256))
  (s.drawn).doeAnswer f (m ++ padTo 96 (Config.sign m))

/-- An established session of a function's mailbox. -/
def State.session (s : State) (f n : Nat) : Option Session :=
  (tget? s.kao.sessions n).bind fun x => if x.fn = f ∧ x.up then some x else none

/-- Change a session that exists. -/
def State.modSession (s : State) (n : Nat) (g : Session → Session) : State :=
  { s with kao := { s.kao with sessions := tmod s.kao.sessions n g } }

/-- End a session. -/
def State.endSession (s : State) (n : Nat) : State := { s with kao := { s.kao with sessions := tdel s.kao.sessions n } }

/-- End every session of a mailbox. -/
def State.endSessions (s : State) (f : Nat) : State :=
  { s with kao := { s.kao with sessions := tfilter s.kao.sessions fun _ x => x.fn != f } }

/-- HKDF-Expand with SHA-384, for at most 48 bytes: one block of output. -/
def hkdfExpand (secret info : Blob) (n : Nat) : Blob := (hmac384 secret (info ++ leBytes 1 1)).take n

/-- The SPDM key schedule's derivation under a label: the length, "spdm1.3 ", and the label. -/
def spdmDerive (secret label : Blob) (n : Nat) : Blob :=
  hkdfExpand secret (leBytes 2 n ++ [0x73, 0x70, 0x64, 0x6D, 0x31, 0x2E, 0x33, 0x20] ++ label) n

/-- The labels "key", "iv" and "traffic upd". -/
def labelKey : Blob := [0x6B, 0x65, 0x79]
def labelIv : Blob := [0x69, 0x76]
def labelUpdate : Blob := [0x74, 0x72, 0x61, 0x66, 0x66, 0x69, 0x63, 0x20, 0x75, 0x70, 0x64]

/-- A secured record of a session (R457, R459): the session ID and the length in clear, then under AES-256-GCM the message with its length; the
record's number goes into the nonce. -/
def Session.record (x : Session) (n : Nat) (m : Blob) : Blob :=
  let clear := leBytes 2 m.length ++ m
  let head := leBytes 2 x.req ++ leBytes 2 n ++ leBytes 2 (clear.length + 16)
  head ++ gcmSeal (spdmDerive x.secret labelKey 32) (xorBytes (spdmDerive x.secret labelIv 12) (leBytes 12 x.sent)) head clear

/-- Answer within a session: Kaolin protects the record, and only its ciphertext reaches the mailbox (R457). -/
def State.secured (s : State) (f n : Nat) (m : Blob) : State :=
  match tget? s.kao.sessions n with
  | some x => (s.modSession n fun y => { y with sent := y.sent + 1 }).doeAnswer f (x.record n m)
  | none => s.doeAnswer f m

/-- A fresh secret of a session's response direction (assumption 192). -/
def State.newSecret (s : State) (n : Nat) : State :=
  (s.modSession n fun y => { y with secret := freeBytes s.free 48, sent := 0 }).drawn

/-- The body of KEY_EXCHANGE_RSP: the responder's half of the session ID, its choice of mutual authentication, no certificate slot asked for,
random data, its ephemeral public key, and no opaque data. -/
def State.exchangeBody (s : State) (n : Nat) : Blob :=
  leBytes 2 n ++ leBytes 1 (Config.free s.free) ++ leBytes 1 0 ++ freeBytes (s.free + 1) 32 ++ freeBytes (s.free + 2) 96 ++ leBytes 2 0

/-- KEY_EXCHANGE: a session is opened where the mailbox has fewer than 2 and the block fewer than 256. The answer is signed, and carries the
responder's proof of the handshake secret. -/
def State.keyExchange (s : State) (f req : Nat) : State :=
  if 2 ≤ tcount s.kao.sessions (fun _ x => x.fn == f) ∨ 256 ≤ s.kao.sessions.length then s.doeAnswer f (spdmError 0x0A 0)
  else
    let n := tfree s.kao.sessions 1
    let m := spdm 0x64 0 0 (s.exchangeBody n)
    let t : State := { s with
      free := s.free + 4
      kao := { s.kao with sessions := tset s.kao.sessions n { fn := f, req := req } } }
    (t.newSecret n).doeAnswer f (m ++ padTo 96 (Config.sign m) ++ freeBytes (s.free + 3) 48)

/-- The session is established: FINISH_RSP goes out under the handshake's secret, and the data secret takes its place. -/
def State.established (s : State) (f n : Nat) (who : Option Blob) : State :=
  (((s.modSession n fun y => { y with up := true, requester := who }).secured f n (spdm 0x65 0 0 []))).newSecret n

/-- FINISH: the session is established; a requester that proves its leaf key is authenticated. -/
def State.finishSession (s : State) (f n : Nat) (auth : Option Blob) : State :=
  match tget? s.kao.sessions n with
  | none => s.doeAnswer f (spdmError 0x04 0)
  | some x =>
    if x.fn ≠ f ∨ x.up = true then s.doeAnswer f (spdmError 0x04 0)
    else match auth with
      | none => s.established f n none
      | some k =>
        if Config.requesterAccepted k then s.established f n (some (sha384 k))
        else (s.secured f n (spdmError 0x01 0)).endSession n

/-- KEY_UPDATE: of its operations only "update all keys" changes the response direction's secret, and the answer goes out under the new one. -/
def State.keyUpdate (s : State) (f n op tag : Nat) : State :=
  if op = 1 ∨ op = 3 then s.secured f n (spdm 0x69 op tag [])
  else if op = 2 then
    (s.modSession n fun y => { y with secret := spdmDerive y.secret labelUpdate 48, sent := 0 }).secured f n (spdm 0x69 op tag [])
  else s.secured f n (spdmError 0x01 0)

/-- The body of ALGORITHMS: DMTF measurements with SHA-384, ECDSA P-384, SHA-384, no extended algorithm, and four tables: secp384r1, AES-256-GCM,
the requester's ECDSA P-384, and the SPDM key schedule (R459). -/
def algorithmsBody : Blob :=
  leBytes 2 52 ++ leBytes 1 1 ++ leBytes 1 2 ++ leBytes 4 4 ++ leBytes 4 0x80 ++ leBytes 4 2 ++ zeros 11 ++ zeros 5 ++
    (leBytes 1 2 ++ leBytes 1 0x20 ++ leBytes 2 0x10) ++ (leBytes 1 3 ++ leBytes 1 0x20 ++ leBytes 2 2) ++
    (leBytes 1 4 ++ leBytes 1 0x20 ++ leBytes 2 0x80) ++ (leBytes 1 5 ++ leBytes 1 0x20 ++ leBytes 2 1)

/-- The body of CAPABILITIES: the time exponent and the largest message sizes, which the spec leaves open, about the flags. -/
def State.capabilitiesBody (s : State) : Blob :=
  zeros 1 ++ leBytes 1 (Config.free s.free) ++ zeros 2 ++ leBytes 4 spdmFlags ++ leBytes 4 (Config.free (s.free + 1)) ++
    leBytes 4 (Config.free (s.free + 1))

/-- A response that needs the algorithms agreed. -/
def State.agreed (s : State) (f : Nat) (g : State → State) : State :=
  if 3 ≤ (s.box f).conn then g s else s.doeAnswer f (spdmError 0x04 0)

/-- A response inside an established session. -/
def State.inSession (s : State) (f n : Nat) (g : State → State) : State :=
  match s.session f n with
  | some _ => g s
  | none => s.doeAnswer f (spdmError 0x04 0)

/-- A certificate slot: slot 0 alone is there (R459). -/
def State.onSlot0 (s : State) (f slot : Nat) (g : State → State) : State :=
  s.agreed f fun t => if slot = 0 then g t else t.doeAnswer f (spdmError 0x01 0)

/-- What the responder makes of a request. -/
def State.spdmAnswer (s : State) (f : Nat) : SpdmMsg → State
  | .getVersion v =>
    if v = 0x10 then
      ((s.endSessions f).updBox f fun x => { x with conn := 1 }).doeAnswer f (leBytes 2 0x0410 ++ zeros 3 ++ leBytes 1 1 ++ leBytes 2 0x1300)
    else s.doeAnswer f (spdmError 0x41 0)
  | .getCapabilities =>
    if (s.box f).conn = 0 then s.doeAnswer f (spdmError 0x04 0)
    else (({ s with free := s.free + 2 } : State).updBox f fun x => { x with conn := max 2 x.conn }).doeAnswer f (spdm 0x61 0 0 s.capabilitiesBody)
  | .negotiateAlgorithms a b c d =>
    if (s.box f).conn < 2 then s.doeAnswer f (spdmError 0x04 0)
    else if a && b && c && d then (s.updBox f fun x => { x with conn := 3 }).doeAnswer f (spdm 0x63 4 0 algorithmsBody)
    else s.doeAnswer f (spdmError 0x01 0)
  | .getDigests => s.agreed f fun t => t.doeAnswer f (spdm 0x01 1 1 (sha384 (Config.certificate 0)))
  | .getCertificate slot => s.onSlot0 f slot fun t => t.doeAnswer f (spdm 0x02 0 0 (Config.certificate 0))
  | .challenge slot => s.onSlot0 f slot fun t => t.signedAnswer f 0x03 0 1 (sha384 (Config.certificate 0))
  | .keyExchange slot req => s.onSlot0 f slot fun t => t.keyExchange f req
  | .finish n auth => s.finishSession f n auth
  | .heartbeat n => s.inSession f n fun t => t.secured f n (spdm 0x68 0 0 [])
  | .keyUpdate n op tag => s.inSession f n fun t => t.keyUpdate f n op tag
  | .endSession n => s.inSession f n fun t => (t.secured f n (spdm 0x6C 0 0 [])).endSession n
  | .other code => s.doeAnswer f (spdmError 0x07 code)

/-- A message is in a function's mailbox, and the responder runs. -/
def State.doeHeld (s : State) (f : Nat) : Bool := s.tarnRuns && (s.box f).inObj.isSome

/-- SPDM_MESSAGE. -/
def execSpdmMessage (fn : Nat) (msg : SpdmMsg) (s : State) : Out :=
  .next (if s.doeHeld fn then (s.pulse 35).spdmAnswer fn msg else s)

/-! ## Measurements (R490) -/

/-- A DMTF measurement block: index, specification 1, size, value type, and a 48-byte digest. -/
def measBlock (index typ : Nat) (digest : Blob) : Blob :=
  leBytes 1 index ++ leBytes 1 1 ++ leBytes 2 51 ++ leBytes 1 typ ++ leBytes 2 48 ++ padTo 48 digest

/-- The fields of blocks 3 and 4. -/
def State.hardwareFields (s : State) : List Nat :=
  [s.versionWord, s.cfg.rtPct, s.cfg.stallUs, s.cfg.hotThreshold, s.cfg.cleaveUs, b2n s.tarn.unlocked]

def State.firmwareFields (s : State) (f : Nat) : List Nat :=
  let x := s.fn f
  let k := s.keysOf f
  [f, x.qBase, x.qCount, x.classes, x.parkCap, x.clusters, b2n x.vx1, k.headD 0, k.length]

/-- The topology sections as in effect. -/
def Topo.sections (t : Topo) : List Blob := [t.clusters.getD [], t.memory.getD [], t.links.getD [], t.peers.getD []]

/-- A measurement of a mailbox's function; the index of an absent image is none. -/
def State.measurement (s : State) (f i : Nat) : Option Blob :=
  if i = 1 then some (measBlock 1 0 Config.romDigest)
  else if i = 2 then some (measBlock 2 1 s.tarn.digest)
  else if i = 3 then some (measBlock 3 2 (sha384 (Config.measured 3 s.hardwareFields s.topo.sections)))
  else if i = 4 then some (measBlock 4 3 (sha384 (Config.measured 4 (s.firmwareFields f) [])))
  else if 0x11 ≤ i ∧ i ≤ 0x4F then
    if (s.image (i - 0x10)).current = 0 then none else some (measBlock i 3 (s.imageDigest (i - 0x10) (s.image (i - 0x10)).current))
  else none

/-- The indices that are there. -/
def State.measIndices (s : State) (f : Nat) : List Nat := (List.range 80).filter fun i => (s.measurement f i).isSome

/-- What GET_MEASUREMENTS asks for: 0 for the count, 0xFF for every block, or one index. -/
def State.measBlocks (s : State) (f i : Nat) : Option (List Blob) :=
  if i = 0 then some []
  else if i = 0xFF then some ((s.measIndices f).filterMap fun k => s.measurement f k)
  else (s.measurement f i).map fun b => [b]

/-- GET_MEASUREMENTS. -/
def execGetMeasurements (fn index : Nat) (signed : Bool) (s : State) : Out :=
  .next (if !s.doeHeld fn then s
    else (s.pulse 35).agreed fn fun t =>
      match t.measBlocks fn index with
      | none => t.doeAnswer fn (spdmError 0x01 0)
      | some l =>
        let rec_ := l.flatMap id
        let body := leBytes 1 l.length ++ leBytes 3 rec_.length ++ rec_
        let p1 := if index = 0 then (t.measIndices fn).length else 0
        if signed then t.signedAnswer fn 0x60 p1 0 body else t.doeAnswer fn (spdm 0x60 p1 0 body))

/-! ## Tenant and migration records (R460 to R466) -/

/-- A VENDOR_DEFINED_RESPONSE: the standard ID PCI-SIG, the vendor ID of the configuration header, and the payload: its result, and what follows
it (R460). -/
def vendorMessage (result : Nat) (body : Blob) : Blob :=
  spdm 0x7E 0 0 (leBytes 2 3 ++ leBytes 1 2 ++ leBytes 2 Config.vendorId ++ leBytes 2 (body.length + 1) ++ leBytes 1 result ++ body)

/-- Answer a vendor message: within its session where it has one (R457, R460). -/
def State.vendorAnswer (s : State) (f : Nat) (ses : Option Nat) (result : Nat) (body : Blob) : State :=
  match ses.bind fun n => (s.session f n).map fun _ => n with
  | some n => s.secured f n (vendorMessage result body)
  | none => s.doeAnswer f (vendorMessage result body)

/-- The checks every message meets: outside a session or of the wrong length it is malformed; but for KEY_INFO it needs a session with mutual
authentication. Answers the requester digest. -/
def State.vendorGate (s : State) (f : Nat) (ses : Option Nat) (payload : Blob) (len : Nat) (auth : Bool) : Except Nat Blob :=
  match ses.bind fun n => s.session f n with
  | none => .error 5
  | some x =>
    if payload.length ≠ len then .error 5
    else match x.requester with
      | some d => .ok d
      | none => if auth then .error 4 else .ok []

/-- A key ID of the session's function (R460). -/
def State.keyMine (s : State) (f k : Nat) : Bool := decide (16 ≤ k) && (s.key k).owner == some f

/-- A variant under a key ID is registered. -/
def State.keyInUse (s : State) (k : Nat) : Bool := tany s.silt.variants fun _ v => v.key == k

/-- The checks of a message that changes the record of a key ID. -/
def State.keyGate (s : State) (f k : Nat) (who : Blob) : Option Nat :=
  if !s.keyMine f k then some 1
  else match (s.key k).tenant with
    | some t => if t.binder ≠ who then some 2 else if s.keyInUse k then some 3 else none
    | none => if s.keyInUse k then some 3 else none

/-- KEY_PUT. -/
def execKeyPut (fn : Nat) (session : Option Nat) (payload : Blob) (s : State) : Out :=
  .next (if !s.doeHeld fn then s
    else
      let t := s.pulse 35
      match t.vendorGate fn session payload 34 true with
      | .error e => t.vendorAnswer fn session e []
      | .ok who =>
        let k := fld payload 0 2
        match t.keyGate fn k who with
        | some e => t.vendorAnswer fn session e []
        | none =>
          (t.updKey k fun x => { x with tenant := some { root := fld payload 2 32, binder := who } }).vendorAnswer fn session 0
            (leBytes 1 (b2n (t.key k).tenant.isNone)))

/-- KEY_INFO. -/
def execKeyInfo (fn : Nat) (session : Option Nat) (payload : Blob) (s : State) : Out :=
  .next (if !s.doeHeld fn then s
    else
      let t := s.pulse 35
      match t.vendorGate fn session payload 2 false with
      | .error e => t.vendorAnswer fn session e []
      | .ok _ =>
        let k := fld payload 0 2
        if !t.keyMine fn k then t.vendorAnswer fn session 1 []
        else match (t.key k).tenant with
          | some x => t.vendorAnswer fn session 0 (leBytes 1 1 ++ padTo 48 x.binder)
          | none => t.vendorAnswer fn session 0 (leBytes 1 0 ++ zeros 48))

/-- KEY_CLEAR. -/
def execKeyClear (fn : Nat) (session : Option Nat) (payload : Blob) (s : State) : Out :=
  .next (if !s.doeHeld fn then s
    else
      let t := s.pulse 35
      match t.vendorGate fn session payload 2 true with
      | .error e => t.vendorAnswer fn session e []
      | .ok who =>
        let k := fld payload 0 2
        match t.keyGate fn k who with
        | some e => t.vendorAnswer fn session e []
        | none => (t.updKey k fun x => { x with tenant := none }).vendorAnswer fn session 0 [])

/-- A migration record bound to another requester. -/
def State.migBound (s : State) (f : Nat) (who : Blob) : Bool := (tget? s.kao.migs f).any fun m => m.binder != who

/-- MIG_PUT. -/
def execMigPut (fn : Nat) (session : Option Nat) (payload : Blob) (s : State) : Out :=
  .next (if !s.doeHeld fn then s
    else
      let t := s.pulse 35
      match t.vendorGate fn session payload 32 true with
      | .error e => t.vendorAnswer fn session e []
      | .ok who =>
        if t.migBound fn who then t.vendorAnswer fn session 2 []
        else ({ t with kao := { t.kao with migs := tset t.kao.migs fn { key := leVal payload, binder := who } } } : State).vendorAnswer fn session 0 [])

/-- MIG_CLEAR. -/
def execMigClear (fn : Nat) (session : Option Nat) (payload : Blob) (s : State) : Out :=
  .next (if !s.doeHeld fn then s
    else
      let t := s.pulse 35
      match t.vendorGate fn session payload 0 true with
      | .error e => t.vendorAnswer fn session e []
      | .ok who =>
        if t.migBound fn who then t.vendorAnswer fn session 2 []
        else ({ t with kao := { t.kao with migs := tdel t.kao.migs fn } } : State).vendorAnswer fn session 0 [])

end Sys2Proof.Machine
end

