-- ==== Sys2Proof/Machine/Supply.lean ====
section
/-! DEFINITION. Power states, the supply's disturbances, hold-up with the ledger's flush, block resets and the self-test (R78 to R83, R507 to
R511, R582 to R604, R621, R622). -/

namespace Sys2Proof.Machine

open Sys2Proof

/-- A level change that lasts: Vexzer ignores a pulse shorter than 5 ns (R79). -/
def lasts (ns : Nat) : Bool := decide (5 ≤ ns)

/-- Active or Chill, with no block reset held. -/
def State.awake (s : State) : Bool := s.held.isNone && (s.pwr.st == .active || s.pwr.st == .chill)

/-! ## Ledger's writes and the flush (R508, R511) -/

/-- PERSIST_WRITE_DONE: the oldest receipt that waits, and its function's head entry, have reached the persist region. -/
def execPersistWriteDone (s : State) : Out :=
  .next (match s.ledg.buffer with
    | [] => s
    | x :: rest =>
      if !s.stagesRun || s.engDown 0x0E00 then s
      else
        (({ s with ledg := { s.ledg with buffer := rest } } : State).persistOne x).progress 0x0E00)

/-- The checkpoint being signed is abandoned (R511): one that a command waits for is queued anew, behind the others, and covers the same head, since
nothing is appended meanwhile (DESIGN CHOICE, assumption 115). -/
def abandonSigning (q : List Ckpt) : List Ckpt :=
  match q with
  | [] => []
  | c :: t => if c.cmd.isSome then t ++ [c] else t

/-- The cut of the ledger, and its flush (R511, R600). -/
def State.holdupBegin (s : State) : State :=
  { s with pwr := { s.pwr with cut := true }
           ledg := { s.ledg with flushing := true, flushStart := s.now, queue := abandonSigning s.ledg.queue } }

/-- A hold-up state begins. -/
def State.holdupState (s : State) : State :=
  { s with pwr := { s.pwr with holdup := true, holdups := satAdd s.pwr.holdups 1 0xFFFF } }

/-- HOLDUP_FALL. During an entry to or an exit from Freeze or Permafrost the fall is kept for its end; during residence the state becomes a
hold-up state (R602). A halt suppresses the flush (R488). -/
def execHoldupFall (ns : Nat) (s : State) : Out :=
  .next (if !lasts ns || !s.pins.holdupN then s
    else
      let s1 := { s with pins := { s.pins with holdupN := false }, pwr := { s.pwr with holdupHigh := none } }
      if s.held.isSome then s1
      else
        let s2 := ({ s1 with pins := { s1.pins with holdupSeen := true } } : State).pulse 9
        if s.loess.halted || s.ledg.flushing then s2
        else if s.resident then (if s.pwr.holdup then s2 else s2.holdupState)
        else if s.pwr.st == .waking || s.pwr.target != .active then { s2 with pwr := { s2.pwr with holdupDue := true } }
        else s2.holdupBegin)

/-- Release every ring; those in service are joined again on the return to Active (R577). -/
def State.leaveRings (s : State) : State :=
  let up := s.ringsUp
  let t := s.ringsHeld.foldl (fun t k => t.releaseRing k 6 false) s
  { t with pwr := { t.pwr with rejoin := up } }

/-- LEDGER_FLUSH_DONE: what Ledger held is in the region and its header is clean, but for a Ledger that has failed (R548); the block then enters
a hold-up Freeze (R600). -/
def execLedgerFlushDone (s : State) : Out :=
  .next (if !s.ledg.flushing || !s.awake || s.loess.halted || s.pwr.brownout then s
    else
      let n := s.ledg.buffer.length
      let s1 := if s.ledgerLost then s else s.persistAll.markHeader true
      let s2 := { s1 with ledg := { s1.ledg with
        flushing := false, flushDone := true, flushReceipts := n, flushNs := (s.now - s.ledg.flushStart) % 2 ^ 32 } }
      let s3 := s2.leaveRings
      (({ s3 with pwr := { s3.pwr with ret := s.pwr.st, goodHold := false } } : State).powerDown .freeze).holdupState)

/-- HOLDUP_RISE. -/
def execHoldupRise (ns : Nat) (s : State) : Out :=
  .next (if !lasts ns || s.pins.holdupN then s
    else { s with pins := { s.pins with holdupN := true }, pwr := { s.pwr with holdupHigh := some s.now } })

/-- HOLDUP_END: VX_HOLDUP_N has been high for 10 ms, and the hold-up state ends by a wake (R603). -/
def execHoldupEnd (s : State) : Out :=
  .next (match s.pwr.holdupHigh with
    | none => s
    | some t =>
      if !s.pwr.holdup || !s.resident || !s.pins.holdupN || s.held.isSome then s
      else
        let s1 := s.advanceTo (t + 10000000)
        ({ s1 with pwr := { s1.pwr with holdupHigh := none } } : State).beginWake)

/-! ## Waking (R587, R588) -/

/-- WAKE. -/
def execWake (src : WakeSrc) (s : State) : Out :=
  .next (match src with
    | .timer => if s.pwr.wakeAt = 0 || !s.resident || s.pwr.holdup then s else (s.advanceTo s.pwr.wakeAt).startWake .timer
    | _ => s.startWake src)

/-- A wake ends (R588 steps 3 to 7, R603): the assist is restored and the stages resume, the persist header is dirty, the cut is lifted, and the
rings that were in service join again. A fall of VX_HOLDUP_N that came meanwhile now cuts the ledger (R602). -/
def State.endWake (s : State) : State :=
  let up := s.pwr.rejoin
  let s1 := { s with
    pwr := { s.pwr with
      st := s.pwr.ret, target := .active, relaxed := [], cut := false, rejoin := [], wakeLatch := none, holdupDue := false
      lifted := if s.pwr.cut then s.ledg.compCount else s.pwr.lifted, wakes := satAdd s.pwr.wakes 1 0xFFFF } }
  let s2 := up.foldl (fun t k => t.wantJoin k) (s1.markHeader false)
  let s3 := (tkeys s2.queues).foldl State.replayStep s2
  let s4 := if s.pwr.holdupDue then s3.holdupBegin else s3
  s4.settle

/-! ## VX_PWR_GOOD and VX_VDD (R78, R592 to R594) -/

/-- A hold of the supply begins; a second cause does not count again (R604). -/
def State.holdBegins (s : State) : State :=
  if s.pwr.brownout || s.pwr.goodHold then s else { s with pwr := { s.pwr with brownouts := satAdd s.pwr.brownouts 1 0xFFFF } }

/-- PWR_GOOD_FALL: every bypass falls (R78); in Active or Chill, with VX_HOLDUP_N high, the stages are held (R594), and the rings stay passed by. -/
def execPwrGoodFall (ns : Nat) (s : State) : Out :=
  .next (if !lasts ns || !s.pins.pwrGood then s
    else
      let s1 := { s with pins := { s.pins with pwrGood := false, byp := 0 } }
      if !s.awake || s.loess.halted then s1
      else
        let s2 := s1.ringsHeld.foldl
          (fun t k => t.releaseRing k 6 false) s1
        if s.pins.holdupN then
          let s3 := s2.holdBegins
          { s3 with pwr := { s3.pwr with goodHold := true } }
        else s2)

/-- BROWNOUT_HOLD_ENTER, by VX_VDD in mV. -/
def execBrownoutHoldEnter (mv : Nat) (s : State) : Out :=
  .next (if !s.awake || 600 ≤ mv || mv < 580 || s.pwr.brownout then s
    else
      let s1 := s.holdBegins
      { s1 with pwr := { s1.pwr with brownout := true } })

/-- The threshold below which a supply holds the block in reset, in mV, by the power state; a wake keeps that of the state it leaves. -/
def State.resetLevel (s : State) (rail : Rail) : Option Nat :=
  let st := if s.pwr.st = .waking then s.pwr.target else s.pwr.st
  match st, rail with
  | .freeze, .vdd => some 500
  | .permafrost, .retention => some 400
  | .active, .vdd => some 580
  | .chill, .vdd => some 580
  | .active, .vddm => some 700
  | .chill, .vddm => some 700
  | _, _ => none

/-! ## Block resets (R82, R83, R458, R488, R621) -/

/-- The cells of board memory that a block reset leaves: not those of frames under Glaze, whose counters it discards (R458, assumption 185). -/
def State.boardKept (s : State) : List Host.Cell :=
  s.mem.filter fun c => decide (devAddr 1 0 ≤ c.1) && decide (c.1 < devAddr 2 0) &&
    match s.fktEntry 1 (c.1 - devAddr 1 0) with | some e => e.prot == 2 | none => true

/-- The block as a reset leaves it: every field at its reset value but for the inputs, the timebase, what has been sent, the commands that wait
outside, what stands in board memory but for Glaze's (R458, R509, assumption 185), and what a cold reset alone ends: a halt with its seal record. -/
def State.atReset (s : State) (cold : Bool) : State :=
  let keep := s.loess.halted && !cold
  { now := s.now, free := s.free, pending := s.pending
    ports := { s.ports with halves := [], unmapped := 0 }
    pins :=
      { pwrGood := s.pins.pwrGood, droopN := s.pins.droopN, holdupN := s.pins.holdupN, pwrbrakeN := s.pins.pwrbrakeN
        coldRstN := s.pins.coldRstN, rstN := s.pins.rstN, scan := s.pins.scan, haltN := !keep }
    pwr := { monitorReset := s.pwr.monitorReset, brake := !s.pins.pwrbrakeN, holdupHigh := s.pwr.holdupHigh }
    kao := { erased := keep && s.kao.erased }
    loess := if keep then { halted := true, sealRec := s.loess.sealRec } else {}
    mem := s.boardKept }

/-- A cause of a cold block reset stands: VX_COLD_RST_N low or the voltage monitor. -/
def State.coldCause (s : State) : Bool := !s.pins.coldRstN || s.pwr.monitorReset.isSome

/-- Hold the block in reset for as long as a cause stands; when the last ends, it is released and the self-test runs. The timebase starts at zero
when a cold block reset is released (R35, R621). -/
def State.relevel (s : State) : State :=
  if s.coldCause then { s.atReset true with held := some true }
  else
    let s1 := if s.held = some true then { s with now := 0 } else s
    if !s.pins.rstN then { s1.atReset false with held := some false }
    else if s.held.isSome then
      let s2 := s1.atReset false
      { s2 with held := none, tarn := { s2.tarn with released := s2.now } }
    else s1

/-- COLD_RESET_ASSERT. -/
def execColdResetAssert (ns : Nat) (s : State) : Out :=
  .next (if lasts ns then ({ s with pins := { s.pins with coldRstN := false } } : State).relevel else s)

/-- COLD_RESET_RELEASE. -/
def execColdResetRelease (ns : Nat) (s : State) : Out :=
  .next (if lasts ns && !s.pins.coldRstN then ({ s with pins := { s.pins with coldRstN := true } } : State).relevel else s)

/-- WARM_RESET_ASSERT. -/
def execWarmResetAssert (ns : Nat) (s : State) : Out :=
  .next (if lasts ns then ({ s with pins := { s.pins with rstN := false } } : State).relevel else s)

/-- WARM_RESET_RELEASE. -/
def execWarmResetRelease (ns : Nat) (s : State) : Out :=
  .next (if lasts ns && !s.pins.rstN then ({ s with pins := { s.pins with rstN := true } } : State).relevel else s)

/-- VOLTAGE_MONITOR_RESET, by the rail and its level in mV: the block is held in a cold block reset. -/
def execVoltageMonitorReset (rail : Rail) (mv : Nat) (s : State) : Out :=
  .next (match s.resetLevel rail with
    | some t =>
      if mv < t ∧ s.pwr.monitorReset = none then ({ s with pwr := { s.pwr with monitorReset := some (rail, t) } } : State).relevel else s
    | none => s)

/-- VOLTAGE_MONITOR_RELEASE: the supply has been 20 mV above the threshold for 10 µs. -/
def execVoltageMonitorRelease (rail : Rail) (mv : Nat) (s : State) : Out :=
  .next (match s.pwr.monitorReset with
    | some (r, t) =>
      if r = rail ∧ t + 20 < mv then
        let s1 := s.advanceTo (s.now + 10000)
        ({ s1 with pwr := { s1.pwr with monitorReset := none } } : State).relevel
      else s
    | none => s)

/-- PF0_FUNCTION_LEVEL_RESET: a warm block reset (R52). -/
def State.warmReset (s : State) : State :=
  let t := s.atReset false
  { t with tarn := { t.tarn with released := t.now } }

/-- SELFTEST_DONE (R622): with no failing test the registers are reachable in phase 1; otherwise the block goes out of service. -/
def execSelftestDone (code : Nat) (s : State) : Out :=
  .next (if s.held.isSome || s.tarn.phase != 0 || s.loess.oos || 6 < code then s
    else if code = 0 then
      (({ s.newChallenge with tarn := { s.newChallenge.tarn with phase := 1 } } : State)).tarnStart
    else (({ s with tarn := { s.tarn with phase := 6, selftest := code } } : State).outOfService 6 0x0B00).tarnStart)

/-- SELFTEST_LIMIT_EXPIRY. -/
def execSelftestLimitExpiry (s : State) : Out :=
  .next (if s.held.isSome || s.tarn.phase != 0 || s.loess.oos then s
    else (s.advanceTo (s.tarn.released + 10000000)).outOfService 6 0x0B00)

/-! ## Droop, brake and pace (R595 to R598) -/

/-- DROOP_FALL. -/
def execDroopFall (ns : Nat) (s : State) : Out :=
  .next (if !lasts ns || !s.pins.droopN then s
    else
      let s1 := { s with pins := { s.pins with droopN := false } }
      if s.held.isSome then s1
      else ({ s1 with
        pins := { s1.pins with droopSeen := true }
        pwr := { s1.pwr with droopPace := true, droopHigh := none, droops := satAdd s1.pwr.droops 1 0xFFFF } } : State).pulse 57)

/-- DROOP_RISE. -/
def execDroopRise (ns : Nat) (s : State) : Out :=
  .next (if !lasts ns || s.pins.droopN then s
    else { s with pins := { s.pins with droopN := true }, pwr := { s.pwr with droopHigh := some s.now } })

/-- DROOP_PACE_END. -/
def execDroopPaceEnd (s : State) : Out :=
  .next (match s.pwr.droopHigh with
    | some t =>
      if s.pins.droopN && s.pwr.droopPace then
        let s1 := s.advanceTo (t + 10000)
        { s1 with pwr := { s1.pwr with droopPace := false, droopHigh := none } }
      else s
    | none => s)

/-- PWRBRAKE_CHANGE. -/
def execPwrbrakeChange (low : Bool) (ns : Nat) (s : State) : Out :=
  .next (if !lasts ns || s.pins.pwrbrakeN != low then s
    else
      let s1 := { s with pins := { s.pins with pwrbrakeN := !low }, pwr := { s.pwr with brake := low } }
      if s.held.isSome then s1 else s1.pulse 58)

/-- The limit in force, in W (R596, R597). -/
def State.limitNow (s : State) : Nat := if s.pwr.brake then s.pwr.emergencyW else s.pwr.limitW

/-- PACE_UPDATE: the estimate of the last µs joins the 100 of the window, and the pace is set from them. -/
def execPaceUpdate (mw : Nat) (s : State) : Out :=
  .next (if !s.stagesRun then s
    else
      let s1 := s.advanceTo (s.now / 1000 * 1000 + 1000)
      let l := (mw :: s1.pwr.estimates).take 100
      { s1 with pwr := { s1.pwr with estimates := l, limitPace := clampTo 1 16 (Config.pace l s1.limitNow) } })

/-- ASSIST_RELAX: in Chill, an engine that has nothing pending for 1 µs (R584). -/
def execAssistRelax (engine : Nat) (s : State) : Out :=
  .next (if s.pwr.st != .chill || !s.stagesRun || !s.engineExists engine || s.workPending engine || s.pwr.relaxed.contains engine then s
    else
      let s1 := s.advanceTo (s.now + 1000)
      { s1 with pwr := { s1.pwr with relaxed := s1.pwr.relaxed ++ [engine] } })

end Sys2Proof.Machine
end

