-- ==== Sys2Proof/Machine/TarnCore.lean ====
section
/-! DEFINITION. Tarn's core at its interrupts and address map, the reset of PF0, configuration space and the boundary scan (R49, R52, R85, R126,
R605, R615 to R621). -/

namespace Sys2Proof.Machine

open Sys2Proof

/-! ## Interrupts (R615 to R620) -/

/-- The core runs instructions: firmware, or the monitor alone while the block is halted or out of service after a failed self-test. -/
def State.coreRuns (s : State) : Bool :=
  s.held.isNone && !s.pwr.brownout && !s.pwr.goodHold && !s.pwr.holdup && (s.pwr.st == .active || s.pwr.st == .chill) &&
    decide (1 ≤ s.tarn.phase) && s.loess.restart.isNone

/-- The current level: the priority of the most recently taken source still active, none when no source is (R616). -/
def State.ticLevel (s : State) : Option Nat :=
  (s.tarn.stack.find? fun e => (s.ticSrc e.1).active).map fun e => (s.ticSrc e.1).prio

/-- A source may be taken: enabled and pending, above the current level. -/
def State.ticOffers (s : State) (n : Nat) : Bool :=
  let x := s.ticSrc n
  x.enable && x.pending && (match s.ticLevel with | some l => decide (l < x.prio) | none => true)

/-- The source that the controller offers: of the highest priority, and of that the lowest number (R616). -/
def State.ticBest (s : State) : Option Nat :=
  (tkeys s.tarn.sources).foldl (fun best n =>
    if s.ticOffers n then
      match best with
      | some m => if (s.ticSrc m).prio < (s.ticSrc n).prio then some n else some m
      | none => some n
    else best) none

/-- The core takes a source (R617): it is active and no longer pending, the program counter is saved, and the handler begins. -/
def State.ticTake (s : State) (n : Nat) : State :=
  let v := (s.ticSrc n).vector
  let t := s.updSrc n fun x => { x with active := true, pending := false, again := false }
  { t with tarn := { t.tarn with stack := (n, s.tarn.pc) :: s.tarn.stack, pc := 4 * v } }

/-- INTERRUPT_ENTRY: sources nest up to 16 deep. -/
def execInterruptEntry (s : State) : Out :=
  .next (match s.ticBest with
    | some n => if s.coreRuns && decide (s.tarn.stack.length < 16) then s.ticTake n else s
    | none => s)

/-- A write of TARN_TIC_EOI (R618). -/
def State.ticEoi (s : State) (n : Nat) : State :=
  if (s.ticSrc n).active then s.updSrc n fun x => { x with active := false } else s

/-- EOI. -/
def execEoi (src : Nat) (s : State) : Out := .next (if s.coreRuns && decide (src < 256) then s.ticEoi src else s)

/-- MRET: the handler returns; where its source fired again while it was active, it is taken again, unless one of higher priority is
pending (R619). -/
def execMret (s : State) : Out :=
  .next (match s.tarn.stack with
    | [] => s
    | (n, p) :: rest =>
      if !s.coreRuns then s
      else
        let t := { s with tarn := { s.tarn with stack := rest, pc := p } }
        let x := s.ticSrc n
        if x.again && !x.active && t.ticOffers n && (t.ticBest.all fun m => decide ((t.ticSrc m).prio ≤ x.prio)) then t.ticTake n else t)

/-! ## The address map (R605) -/

/-- ROM. -/
def inRom (a : Nat) : Bool := decide (a < 0x40000)

/-- Patch RAM. -/
def inPatchRam (a : Nat) : Bool := decide (0x10000000 ≤ a) && decide (a < 0x10020000)

/-- The ranges that the core reads and writes: data RAM with the journal, the helpers and ports, and the view of PF0 BAR0. -/
def inData (a : Nat) : Bool :=
  (decide (0x20000000 ≤ a) && decide (a < 0x20040000)) || (decide (0x40000000 ≤ a) && decide (a < 0x40008000)) ||
    (decide (0x50000000 ≤ a) && decide (a < 0x54000000))

/-- An access of the core raises an access fault. -/
def coreFaults (a : Nat) : CoreAccess → Bool
  | .read => !(inRom a || inPatchRam a || inData a)
  | .write => !inData a
  | .fetch => !(inRom a || inPatchRam a)

/-- ACCESS_FAULT: the ROM's fault handler writes no more heartbeats. -/
def execAccessFault (addr : Nat) (kind : CoreAccess) (s : State) : Out :=
  .next (if s.coreRuns && coreFaults addr kind then { s with loess := { s.loess with hbStopped := true } } else s)

/-! ## PF0's reset, configuration space, boundary scan -/

/-- PF0_FUNCTION_LEVEL_RESET (R52). -/
def execPf0FunctionLevelReset (s : State) : Out := .next (s.config .pf0FunctionLevelReset State.warmReset)

/-- The vectors of a function (R49). -/
def vectorsOf (f : Nat) : Nat := if f = 0 then 256 else 8

/-- Send the messages that are pending and no longer masked (R126). -/
def State.releaseVectors (s : State) (f : Nat) : State :=
  if !(s.fn f).msixEnable || (s.fn f).msixMask then s
  else (tfind (s.fn f).vectors fun _ v => v.pending && !v.masked).foldl (fun t v =>
    (t.updFn f fun x => { x with vectors := tmod x.vectors v fun y => { y with pending := false } }).pushHost (.msix f v)) s

/-- Message Control of the MSI-X capability. -/
def State.msixControl (s : State) (f : Nat) : Nat :=
  at_ (b2n (s.fn f).msixEnable) 15 + at_ (b2n (s.fn f).msixMask) 14 + (vectorsOf f - 1)

/-- A function has a capability (R49): SR-IOV is PF0's alone, and what the table marks absent or does not name no function has. -/
def hasCapability (f : Nat) : Capability → Bool
  | .pciExpress | .aer | .ari | .msix | .flr | .ptm | .doe | .powerManagement | .serialNumber => true
  | .sriov => f == 0
  | .ats | .pageRequest | .pasid | .ide | .tdisp | .msi | .intx | .resizableBar | .vfResizableBar | .processingHints | .latencyTolerance
  | .atomicOpCompleter | .unnamed _ => false

/-- The bytes of a BAR: PF0 has BAR0 and BAR2 and no other, and a VF has BAR0 (R49, R50). -/
def barBytes (f bar : Nat) : Nat :=
  if f = 0 then (if bar = 0 then 64 * 2 ^ 20 else if bar = 2 then 256 * 2 ^ 10 else 0) else if bar = 0 then 64 * 2 ^ 10 else 0

/-- The value of a parameter of a function (R49, R50): 1 for a feature that is there and a BAR that is 64-bit; no BAR is prefetchable. PF0's
SR-IOV capability holds the VFs' parameters, and the supported page sizes as a sum of sizes in bytes. -/
def cfgValue (f : Nat) : CfgParam → Nat
  | .has c => b2n (hasCapability f c)
  | .maxPayload => 512
  | .maxReadRequest => 4096
  | .extendedTag | .tenBitTag => 1
  | .totalVfs | .initialVfs => if f = 0 then 4095 else 0
  | .firstVfOffset | .vfStride => if f = 0 then 1 else 0
  | .vfBarBytes k => if f = 0 then barBytes 1 k else 0
  | .vfBarWide k => b2n (f == 0 && barBytes 1 k != 0)
  | .pageSizes => if f = 0 then 4096 + 65536 else 0
  | .msixVectors => vectorsOf f
  | .d3hot => 1
  | .otherPowerStates => 0
  | .doeObjectBytes => 65536
  | .serial => Config.deviceSerial
  | .barBytes k => barBytes f k
  | .barWide k => b2n (barBytes f k != 0)
  | .barPrefetch _ | .vfBarPrefetch _ => 0

/-- What a register of configuration space reads as; SR-IOV is PF0's (R49). -/
def State.cfgReg (s : State) (f : Nat) (r : CfgReg) : Nat :=
  let c := (s.fn f).cfgRegs
  match r with
  | .vendorId => Config.vendorId % 2 ^ 16
  | .payloadField => c.payload
  | .readRequestField => c.readReq
  | .uncorrectableStatus => c.uncStatus.toNat
  | .uncorrectableMask => c.uncMask.toNat
  | .uncorrectableSeverity => c.uncSeverity.toNat
  | .correctableStatus => c.corStatus.toNat
  | .correctableMask => c.corMask.toNat
  | .errorControl => if c.uncStatus.getLsbD 15 then 15 else 0
  | .ptmEnable => b2n c.ptmEnable
  | .vfControl => if f = 0 then c.vfControl.toNat else 0
  | .numVfs => if f = 0 then c.numVfs else 0
  | .vfPageSize => if f = 0 then c.vfPageSize else 0

/-- The uncorrectable and the correctable errors that AER's registers have a bit for. -/
def uncBits : BitVec 32 := 0x007FF030
def corBits : BitVec 32 := 0x0000F1C1

/-- Write a register of configuration space: status bits clear where 1 is written, a size that Vexzer does not support and a page size it does not
have leave the field as it is, and NumVFs is read-only while VF Enable is set (R49, assumption 191). -/
def CfgRegs.write (c : CfgRegs) (f : Nat) (r : CfgReg) (v : Nat) : CfgRegs :=
  let w := BitVec.ofNat 32 v
  match r with
  | .vendorId | .errorControl => c
  | .payloadField => if v ≤ 2 then { c with payload := v } else c
  | .readRequestField => if v ≤ 5 then { c with readReq := v } else c
  | .uncorrectableStatus => { c with uncStatus := c.uncStatus &&& ~~~w }
  | .uncorrectableMask => { c with uncMask := w &&& uncBits }
  | .uncorrectableSeverity => { c with uncSeverity := w &&& uncBits }
  | .correctableStatus => { c with corStatus := c.corStatus &&& ~~~w }
  | .correctableMask => { c with corMask := w &&& corBits }
  | .ptmEnable => { c with ptmEnable := bit v 0 }
  | .vfControl => if f = 0 then { c with vfControl := BitVec.ofNat 16 v &&& 0x19 } else c
  | .numVfs => if f = 0 ∧ c.vfControl.getLsbD 0 = false ∧ v ≤ 4095 then { c with numVfs := v } else c
  | .vfPageSize => if f = 0 ∧ (v = 1 ∨ v = 16) then { c with vfPageSize := v } else c

/-- What a configuration request does. A write anywhere else, and a read anywhere else, is PCI Express's affair: the value read is free. Where in
configuration space a parameter of R49 or R50 stands is PCI Express's affair too, so that the row names the parameter (assumption 154). -/
def State.configAccess (s : State) (f : Nat) : CfgAccess → State
  | .readMsix => s.pushHost (.cfgData (s.msixControl f))
  | .writeMsix e m => (s.updFn f fun x => { x with msixEnable := e, msixMask := m }).releaseVectors f
  | .readPm => s.pushHost (.cfgData (if (s.fn f).d3 then 3 else 0))
  | .writePm d => s.updFn f fun x => { x with d3 := d }
  | .readParam p => s.pushHost (.cfgData (cfgValue f p))
  | .readReg r => s.pushHost (.cfgData (s.cfgReg f r))
  | .writeReg r v => s.updFn f fun x => { x with cfgRegs := x.cfgRegs.write f r v }
  | .readOther _ => (s.pushHost (.cfgData (s.draw % 2 ^ 32))).drawn
  | .writeOther _ _ => s

/-- CONFIGURATION_REQUEST. -/
def execConfigurationRequest (fn : Nat) (a : CfgAccess) (s : State) : Out :=
  .next (if 4096 ≤ fn then s else s.config (.configurationRequest fn a) fun t => t.configAccess fn a)

/-- BOUNDARY_SCAN_TEST_MODE (R85): in a test mode the levels on VX_BYP_OPEN follow the cells, as `Pins.bypLevel` says. -/
def execBoundaryScanTestMode (cells : Option (BitVec 18)) (s : State) : Out := .next { s with pins := { s.pins with scan := cells } }

end Sys2Proof.Machine
end

