-- ==== Sys2Proof/Machine/RegMap.lean ====
section
/-! DEFINITION. Where every register lies: the windows of PF0 BAR0, the shadow windows, the doorbell blocks, the VF BARs and the interrupt
controller in Tarn's address space (R54, R57, R58, R60, R61, R93, R145, R238, R288, R342, R385, R424, R453, R491, R513, R552, R580, R604, R636). -/

namespace Sys2Proof.Machine

open Sys2Proof

/-- The registers. -/
inductive Reg where
  | version | timebase | unmapped | pinStatus | pinEvent | cfgEpoch | cfgDone | errStatus | oosStatus | resetHead | resetTail | resetReq
  | domainCount | hbStatus | fenceSerac | fenceSilt | fenceUnits | fenceFloe | pwrStatus | pwrLimit | pwrWakeAt | pwrPaced | pwrEvents
  | rtReserve | parkStatus | dbReject | cirqEvent | adminResume
  | seracStatus (u : Nat) | seracCtl (u : Nat) | seracTurns (u : Nat) | seracSwitch (u : Nat) | seracSaveBytes (u : Nat)
  | seracSlot (u slot : Nat) | seracQuantum | seracSwapCtl | seracCfg | seracSwapCount | seracRegion
  | crevHead | crevTail | crevStatus | crevCtl | fktCount | fktLog | hotCtl | hotHead | hotTail | hotStatus | eskRegion
  | loadStatus | hbmReserve | repairCount | repairStatus | marginCtl | marginHead | marginTail | marginLost | imageState (n : Nat)
  | codeErr | nanCount | meltActive
  | engStatus (n : Nat) | engTaps (n : Nat) | engFetch (n : Nat) | engBusy (n : Nat)
  | varSel | varInfo | varSteps | varDigest (i : Nat) | tapErr | updateSkipped | siltStatus
  | poolCfg | snowRegion | snowBoardRegion | snowFree | snowHost | snowHostAdd | snowStatus | spillCount | imageCfg (n : Nat)
  | glzStatus | glzPartial | glzReenc | varveSlots | varveRegion | unvCount | unvLog | kaoSel | kaoInfo | kaoRekey
  | ledgStatus | ckptSel | ledgRing | ledgWraps | ledgFlush
  | linkStatus (n : Nat) | linkErr (n : Nat) | linkTraffic (n : Nat) | ringState (k : Nat) | floeCtl | floeRingCtl | floeRemote
  | tarnStatus | adminSq | adminCq | adminCfg | adminCtl | tarnPatch | patchDigest (i : Nat) | monStatus | monChallenge
  | ticSrc (n : Nat) | ticEoi | ticLevel | ticRefire
  | fnStatus (f : Nat) | fnMoraine (f : Nat) | moraineClr (f : Nat) | fnQcfg (f : Nat) | fnTimeout (f : Nat) | fnPark (f : Nat)
  | fnConfig (f : Nat) | wplogStatus (f : Nat) | wplogHead (f : Nat) | wplogCtl (f : Nat) | runahead (f : Nat) | fnFaults (f : Nat)
  | fnQuota (f : Nat) | fnPages (f : Nat) | fnMig (f : Nat)
  /-- register k of a doorbell block (R93), at offset 4k -/
  | door (d : Door) (k : Nat)
deriving DecidableEq, Repr

/-- Places that are read by any aligned 4 or 8 bytes: records in rings, the 256-byte records, the census and the pending bit arrays. -/
inductive Area where
  | sealRec | resetRecords | crevRecords | hotList | marginLog | ckptRec | census (k : Nat) | pending (f : Nat)
deriving DecidableEq, Repr

/-- What lies at an offset: a register and the byte within it, an area and the byte within it, or a byte of a function's MSI-X table. -/
inductive Place where
  | reg (r : Reg) (o : Nat)
  | area (a : Area) (o : Nat)
  | msix (f o : Nat)
deriving DecidableEq, Repr

/-- The width of a register in bytes. -/
def Reg.width : Reg → Nat
  | .version | .timebase | .cfgEpoch | .cfgDone | .hbStatus | .fenceSilt | .fenceUnits | .fenceFloe | .pwrStatus | .pwrWakeAt | .pwrPaced
  | .pwrEvents | .seracTurns _ | .seracSwitch _ | .seracSaveBytes _ | .seracSlot _ _ | .seracQuantum | .seracSwapCount | .seracRegion
  | .fktLog | .eskRegion | .loadStatus | .hbmReserve | .imageState _ | .engTaps _ | .engFetch _ | .engBusy _ | .varInfo | .varSteps
  | .varDigest _ | .poolCfg | .snowRegion | .snowBoardRegion | .snowFree | .snowHost | .snowHostAdd | .snowStatus | .spillCount
  | .glzPartial | .glzReenc | .varveSlots | .varveRegion | .unvLog | .kaoInfo | .kaoRekey | .ledgRing | .ledgWraps | .ledgFlush
  | .linkErr _ | .linkTraffic _ | .ringState _ | .floeCtl | .floeRemote | .tarnStatus | .adminSq | .adminCq | .adminCfg | .tarnPatch
  | .patchDigest _ | .monChallenge | .ticSrc _ | .fnQcfg _ | .fnTimeout _ | .fnMig _ => 8
  | _ => 4

/-- The group of units a register belongs to. -/
inductive RegGroup where
  | vx | core | data | rest | fn
deriving DecidableEq, Repr

/-- The group of a register, by the unit that holds it. -/
def Reg.group : Reg → RegGroup
  | .version | .timebase | .unmapped | .pinStatus | .pinEvent | .cfgEpoch | .cfgDone | .errStatus | .oosStatus | .resetHead | .resetTail
  | .resetReq | .domainCount | .hbStatus | .fenceSerac | .fenceSilt | .fenceUnits | .fenceFloe | .pwrStatus | .pwrLimit | .pwrWakeAt
  | .pwrPaced | .pwrEvents => .vx
  | .rtReserve | .parkStatus | .dbReject | .cirqEvent | .adminResume | .seracStatus _ | .seracCtl _ | .seracTurns _ | .seracSwitch _
  | .seracSaveBytes _ | .seracSlot _ _ | .seracQuantum | .seracSwapCtl | .seracCfg | .seracSwapCount | .seracRegion | .crevHead | .crevTail
  | .crevStatus | .crevCtl | .fktCount | .fktLog | .hotCtl | .hotHead | .hotTail | .hotStatus | .eskRegion => .core
  | .loadStatus | .hbmReserve | .repairCount | .repairStatus | .marginCtl | .marginHead | .marginTail | .marginLost | .imageState _
  | .codeErr | .nanCount | .meltActive | .engStatus _ | .engTaps _ | .engFetch _ | .engBusy _ | .varSel | .varInfo | .varSteps
  | .varDigest _ | .tapErr | .updateSkipped | .siltStatus | .poolCfg | .snowRegion | .snowBoardRegion | .snowFree | .snowHost
  | .snowHostAdd | .snowStatus | .spillCount | .imageCfg _ => .data
  | .glzStatus | .glzPartial | .glzReenc | .varveSlots | .varveRegion | .unvCount | .unvLog | .kaoSel | .kaoInfo | .kaoRekey
  | .ledgStatus | .ckptSel | .ledgRing | .ledgWraps | .ledgFlush | .linkStatus _ | .linkErr _ | .linkTraffic _ | .ringState _ | .floeCtl
  | .floeRingCtl | .floeRemote | .tarnStatus | .adminSq | .adminCq | .adminCfg | .adminCtl | .tarnPatch | .patchDigest _ | .monStatus
  | .monChallenge | .ticSrc _ | .ticEoi | .ticLevel | .ticRefire => .rest
  | .fnStatus _ | .fnMoraine _ | .moraineClr _ | .fnQcfg _ | .fnTimeout _ | .fnPark _ | .fnConfig _ | .wplogStatus _ | .wplogHead _
  | .wplogCtl _ | .runahead _ | .fnFaults _ | .fnQuota _ | .fnPages _ | .fnMig _ | .door _ _ => .fn

/-- The register of a table that an offset falls in. -/
def inTable (l : List (Nat × Reg)) (o : Nat) : Option Place :=
  (l.find? fun e => decide (e.1 ≤ o) && decide (o < e.1 + e.2.width)).map fun e => .reg e.2 (o - e.1)

/-- Element `i` of an array of registers. -/
def inArray (r : Nat → Reg) (base first count o : Nat) : Option Place :=
  let w := (r first).width
  if base + first * w ≤ o ∧ o < base + (first + count) * w then some (.reg (r ((o - base) / w)) ((o - base) % w)) else none

/-- A byte of an area. -/
def inArea (a : Area) (base len o : Nat) : Option Place := if base ≤ o ∧ o < base + len then some (.area a (o - base)) else none

/-- The first place found. -/
def firstOf (l : List (Option Place)) : Option Place := l.findSome? id

/-- The VX_ window. -/
def vxPlace (o : Nat) : Option Place :=
  firstOf [
    inTable [(0x00, .version), (0x08, .timebase), (0x10, .unmapped), (0x18, .pinStatus), (0x1C, .pinEvent), (0x20, .cfgEpoch), (0x28, .cfgDone),
      (0x200, .errStatus), (0x204, .oosStatus), (0x208, .resetHead), (0x20C, .resetTail), (0x210, .resetReq), (0x214, .domainCount),
      (0x218, .hbStatus), (0x220, .fenceSerac), (0x228, .fenceSilt), (0x230, .fenceUnits), (0x238, .fenceFloe),
      (0x300, .pwrStatus), (0x308, .pwrLimit), (0x310, .pwrWakeAt), (0x318, .pwrPaced), (0x320, .pwrEvents)] o,
    inArea .sealRec 0x100 0x100 o, inArea .resetRecords 0x10000 0x4000 o]

/-- The CIRQ_ window. -/
def cirqPlace (o : Nat) : Option Place :=
  inTable [(0x0, .rtReserve), (0x8, .parkStatus), (0xC, .dbReject), (0x10, .cirqEvent), (0x14, .adminResume)] o

/-- The window of Serac unit `u`. -/
def seracPlace (u o : Nat) : Option Place :=
  firstOf [
    inTable [(0x0, .seracStatus u), (0x4, .seracCtl u), (0x8, .seracTurns u), (0x10, .seracSwitch u), (0x18, .seracSaveBytes u),
      (0x8000, .seracQuantum), (0x8008, .seracSwapCtl), (0x800C, .seracCfg), (0x8010, .seracSwapCount), (0x8018, .seracRegion)] o,
    inArray (.seracSlot u) 0x100 0 16 o]

/-- The ESK_ window. -/
def eskPlace (o : Nat) : Option Place :=
  firstOf [
    inTable [(0x0, .crevHead), (0x4, .crevTail), (0x8, .crevStatus), (0xC, .crevCtl), (0x10, .fktCount), (0x18, .fktLog), (0x20, .hotCtl),
      (0x24, .hotHead), (0x28, .hotTail), (0x2C, .hotStatus), (0x30, .eskRegion)] o,
    inArea .crevRecords 0x80000 0x10000 o, inArea .hotList 0x90000 0x1000 o]

/-- The FIRN_ window. -/
def firnPlace (o : Nat) : Option Place :=
  firstOf [
    inTable [(0x0, .loadStatus), (0x8, .hbmReserve), (0x10, .repairCount), (0x14, .repairStatus), (0x18, .marginCtl), (0x1C, .marginHead),
      (0x20, .marginTail), (0x24, .marginLost)] o,
    inArray .imageState 0x100 1 63 o, inArea .marginLog 0x80000 0x10000 o]

/-- The MELT_ window. -/
def meltPlace (o : Nat) : Option Place := inTable [(0x0, .codeErr), (0x4, .nanCount), (0x8, .meltActive)] o

/-- The window of Silt engine `n`. -/
def siltPlace (n o : Nat) : Option Place :=
  firstOf [
    inTable [(0x0, .engStatus n), (0x8, .engTaps n), (0x10, .engFetch n), (0x18, .engBusy n), (0x8000, .varSel), (0x8008, .varInfo),
      (0x8010, .varSteps), (0x8050, .tapErr), (0x8054, .updateSkipped), (0x8058, .siltStatus)] o,
    inArray .varDigest 0x8020 0 6 o]

/-- The SNOW_ window. -/
def snowPlace (o : Nat) : Option Place :=
  firstOf [
    inTable [(0x0, .poolCfg), (0x8, .snowRegion), (0x10, .snowBoardRegion), (0x18, .snowFree), (0x20, .snowHost), (0x28, .snowHostAdd),
      (0x30, .snowStatus), (0x38, .spillCount)] o,
    inArray .imageCfg 0x100 1 63 o]

/-- The LEDG_ window. -/
def ledgPlace (o : Nat) : Option Place :=
  firstOf [
    inTable [(0x0, .ledgStatus), (0x4, .ckptSel), (0x8, .ledgRing), (0x10, .ledgWraps), (0x18, .ledgFlush)] o,
    inArea .ckptRec 0x100 0x100 o]

/-- The window of Floe link `n`; the ring registers lie in that of link 2k. -/
def floePlace (n o : Nat) : Option Place :=
  firstOf [
    inTable [(0x0, .linkStatus n), (0x8, .linkErr n), (0x10, .linkTraffic n), (0x8000, .floeCtl), (0x8008, .floeRingCtl), (0x8010, .floeRemote)] o,
    if n % 2 = 0 then firstOf [inTable [(0x100, .ringState (n / 2))] o, inArea (.census (n / 2)) 0x140 0x40 o] else none]

/-- The TARN_ window. -/
def tarnPlace (o : Nat) : Option Place :=
  firstOf [
    inTable [(0x0, .tarnStatus), (0x8, .adminSq), (0x10, .adminCq), (0x18, .adminCfg), (0x20, .adminCtl), (0x28, .tarnPatch),
      (0x60, .monStatus), (0x68, .monChallenge)] o,
    inArray .patchDigest 0x30 0 6 o]

/-- The shadow window of function `f`. -/
def shadowPlace (f o : Nat) : Option Place :=
  inTable [(0x0, .fnStatus f), (0x4, .fnMoraine f), (0x8, .moraineClr f), (0x10, .fnQcfg f), (0x18, .fnTimeout f), (0x20, .fnPark f),
    (0x28, .fnConfig f), (0x30, .wplogStatus f), (0x34, .wplogHead f), (0x38, .wplogCtl f), (0x40, .runahead f), (0x44, .fnFaults f),
    (0x50, .fnQuota f), (0x54, .fnPages f), (0x60, .fnMig f)] o

/-- PF0 BAR0 (R54). -/
def bar0Place (o : Nat) : Option Place :=
  if o < 0x100000 then vxPlace o
  else if o < 0x200000 then cirqPlace (o - 0x100000)
  else if o < 0x400000 then seracPlace ((o - 0x200000) / 0x10000) (o % 0x10000)
  else if o < 0x500000 then eskPlace (o - 0x400000)
  else if o < 0x600000 then firnPlace (o - 0x500000)
  else if o < 0x700000 then meltPlace (o - 0x600000)
  else if o < 0xB00000 then siltPlace ((o - 0x700000) / 0x10000) (o % 0x10000)
  else if o < 0xC00000 then snowPlace (o - 0xB00000)
  else if o < 0xD00000 then inTable [(0x0, .glzStatus), (0x8, .glzPartial), (0x10, .glzReenc)] (o - 0xC00000)
  else if o < 0xE00000 then inTable [(0x0, .varveSlots), (0x8, .varveRegion), (0x10, .unvCount), (0x18, .unvLog)] (o - 0xD00000)
  else if o < 0xF00000 then inTable [(0x0, .kaoSel), (0x8, .kaoInfo), (0x10, .kaoRekey)] (o - 0xE00000)
  else if o < 0x1000000 then ledgPlace (o - 0xF00000)
  else if o < 0x1400000 then (if (o - 0x1000000) / 0x10000 < 36 then floePlace ((o - 0x1000000) / 0x10000) (o % 0x10000) else none)
  else if o < 0x1500000 then tarnPlace (o - 0x1400000)
  else if o < 0x1501000 then some (.msix 0 (o - 0x1500000))
  else if o < 0x1501020 then some (.area (.pending 0) (o - 0x1501000))
  else if o < 0x2000000 then none
  else if o < 0x4000000 then shadowPlace ((o - 0x2000000) / 0x2000) (o % 0x2000)
  else none

/-- A doorbell block (R93). -/
def doorPlace (d : Door) (o : Nat) : Option Place := if o < 0x18 then some (.reg (.door d (o / 4)) (o % 4)) else none

/-- The BAR0 of a VF (R58). -/
def vfPlace (f o : Nat) : Option Place :=
  if o < 0x8000 then doorPlace (.own f (o / 32)) (o % 32)
  else if o < 0x8080 then some (.msix f (o - 0x8000))
  else if o < 0x8800 then none
  else if o < 0x8808 then some (.area (.pending f) (o - 0x8800))
  else inTable [(0x9000, .fnStatus f), (0x9004, .fnMoraine f), (0x9008, .timebase)] o

/-- The interrupt controller in Tarn's address space (R636); 0x5000_0000 onward is PF0 BAR0 (R605). -/
def tarnSpacePlace (o : Nat) : Option Place :=
  if 0x50000000 ≤ o ∧ o < 0x54000000 then bar0Place (o - 0x50000000)
  else firstOf [inArray .ticSrc 0x40004000 0 256 o,
    inTable [(0x40004800, .ticEoi), (0x40004804, .ticLevel), (0x40004808, .ticRefire)] o]

/-- What lies at an offset of a window. -/
def placeAt (sp : Space) (o : Nat) : Option Place :=
  match sp with
  | .bar0 => bar0Place o
  | .bar2 => doorPlace (.pf0 (o / 32)) (o % 32)
  | .vf f => vfPlace f o
  | .tarn => tarnSpacePlace o

/-- An offset lies within its BAR (R49, R50, R57). -/
def inBar (sp : Space) (o : Nat) : Bool :=
  match sp with
  | .bar0 => decide (o < 0x4000000)
  | .bar2 => decide (o < 0x40000)
  | .vf f => decide (0 < f) && decide (f < 4096) && decide (o < 0x10000)
  | .tarn => decide (o < 0x100000000)

/-- Who accesses: PF0, a VF, or Tarn, which accesses as PF0 does. -/
def requester : Space → Nat
  | .bar0 | .bar2 => 0
  | .vf f => f
  | .tarn => 4096

end Sys2Proof.Machine
end

