-- ==== Sys2Proof/Machine/RegRead.lean ====
section
/-! DEFINITION. What every register reads as (the field maps of R61, R93, R145, R238, R288, R342, R385, R424, R453, R491, R513, R552, R580, R604
and R636). Reserved fields and write-only registers read as zero (R15). -/

namespace Sys2Proof.Machine

open Sys2Proof

/-- A saturating field of `n` bits. -/
def satTo (n v : Nat) : Nat := min v (2 ^ n - 1)

/-- The mask of the numbers below `n` that satisfy a condition. -/
def maskOf (n : Nat) (p : Nat → Bool) : Nat := bitsMask ((List.range n).filter p)

/-- An engine is fenced. -/
def State.fencedEng (s : State) (e : Nat) : Bool := (s.eng e).fenced

/-- VX_ALERT_N is asserted (R143, R275, R482, R552, R613). -/
def State.alert (s : State) : Bool :=
  s.loess.err != 0 || s.cirq.adminCqBroken || s.esk.fktLog.valid || s.varve.unvLog.valid || s.tarn.patchDropped

/-- VX_PIN_STATUS. -/
def State.pinStatusWord (s : State) : Nat :=
  at_ s.pins.byp.toNat 10 + at_ (b2n s.loess.oos) 4 + at_ (b2n s.alert) 3 + at_ (b2n !s.pins.holdupN) 2 + at_ (b2n !s.pins.droopN) 1 +
    b2n s.pins.pwrGood

/-- The code of a function's state (R61). -/
def FnPhase.code : FnPhase → Nat
  | .disabled => 0 | .enabling => 1 | .enabled => 2 | .quiescing => 3 | .resetting => 4

/-- VX_FN_STATUS. -/
def Fn.statusWord (x : Fn) : Nat :=
  at_ x.generation 16 + at_ (b2n (x.phase == .enabled)) 8 + at_ (b2n x.fetchStopped) 6 + at_ (b2n (decide (0 < x.parked))) 5 + x.phase.code

/-- CIRQ_FN_QCFG. -/
def Fn.qcfgWord (x : Fn) : Nat := at_ x.parkCap 42 + at_ x.classes 32 + at_ x.qCount 16 + x.qBase

/-- Held completions of a function. -/
def State.heldOf (s : State) (f : Nat) : Nat := (s.queues.map fun e => if e.2.fn = f then e.2.held.length else 0).sum

/-- CIRQ_FN_PARK. -/
def State.fnParkWord (s : State) (f : Nat) : Nat := at_ (satTo 16 (s.heldOf f)) 16 + (s.fn f).parked

/-- Park entries in use, across all functions. -/
def State.parkedAll (s : State) : Nat := (s.fns.map fun e => e.2.parked).sum

/-- VX_WPLOG_STATUS. -/
def Wplog.statusWord (w : Wplog) : Nat :=
  at_ (b2n w.active) 31 + at_ (b2n w.overflow) 30 + at_ (b2n w.flushDone) 29 + w.tail % 2 ^ 24

/-- Q_STATUS. -/
def State.qStatusWord (s : State) (i : Nat) (q : Queue) : Nat :=
  at_ (s.inflight i) 16 + at_ (b2n q.dbError) 4 + at_ (b2n q.sqBroken) 3 + at_ (b2n q.cqBroken) 2 + at_ (b2n (s.qStopped i q)) 1 +
    b2n ((s.fn q.fn).phase == .enabled)

/-- The queue whose block a door is, whatever the state of its function (R57, R58, R96). -/
def State.blockQueue (s : State) (d : Door) : Option (Nat × Queue) :=
  match d with
  | .pf0 i => (tget? s.queues i).map fun q => (i, q)
  | .own f l =>
    if (s.fn f).qCount ≤ l then none
    else (tget? s.queues ((s.fn f).qBase + l)).bind fun q => if q.fn = f then some ((s.fn f).qBase + l, q) else none

/-- A doorbell block; that of a queue that does not exist reads as at reset. -/
def State.doorRead (s : State) (d : Door) (k : Nat) : Nat :=
  match s.blockQueue d with
  | none => if k = 3 then 2 ^ 16 else 0
  | some (i, q) =>
    match k with
    | 0 => q.sqTail
    | 1 => q.cqHead
    | 2 => q.sqHead
    | 3 => at_ (b2n q.phase) 16 + q.cqTail
    | 4 => s.qStatusWord i q
    | _ => b2n q.mask

/-- SERAC_STATUS.state. -/
def State.seracState (s : State) (u : Nat) : Nat :=
  let x := s.unit u
  if s.fencedEng (seracEngine u) then 5
  else if (s.eng (seracEngine u)).rst.isSome || s.loess.domain.isSome then 4
  else if x.preempt.isSome || x.restore.isSome || x.incoming.isSome then 2
  else match x.turn with
    | some t => if t.ctx.isNone then 3 else 1
    | none => 0

/-- The slot of the context whose turn is in progress. -/
def SUnit.occupantSlot (u : SUnit) : Option Nat :=
  u.turn.bind fun t => t.ctx.bind fun x => (u.slots.find? fun e => e.2 == x).map (·.1)

/-- SERAC_STATUS. -/
def State.seracStatusWord (s : State) (u : Nat) : Nat :=
  let x := s.unit u
  at_ x.framePos 22 + at_ (s.seracState u) 16 + at_ x.slots.length 8 + at_ (b2n x.occupantSlot.isSome) 4 + x.occupantSlot.getD 0

/-- SERAC_SLOT; a swap-in and an eviction are one step each, so no slot shows either under way. -/
def State.slotWord (s : State) (u k : Nat) : Nat :=
  match tget? (s.unit u).slots k with
  | none => 0
  | some x =>
    match tget? s.ctxs x with
    | none => at_ x 48
    | some c =>
      let st := if (s.unit u).occupantSlot = some k then 3 else if s.anyRunnable x then 1 else 2
      at_ x 48 + at_ c.fn 32 + at_ c.prio 28 + at_ (s.ctxClass x) 24 + at_ (b2n (s.saveOf x u).isSome) 18 + at_ (b2n (s.ctxParked x)) 17 +
        at_ (b2n (c.pool != 0)) 16 + st

/-- FIRN_IMAGE_STATE. -/
def Image.stateWord (i : Image) : Nat :=
  at_ i.current 48 + at_ (satTo 8 i.versions.length) 40 + at_ (satTo 8 (tcount i.versions fun _ v => v.poisoned)) 32 +
    at_ (b2n (i.staged.isSome && decide (3 ≤ i.state))) 16 + at_ (((tget? i.versions i.current).map (·.pref)).getD 0) 8 + i.state

/-- SILT_ENG_STATUS. -/
def State.engStatusWord (s : State) (n : Nat) : Nat :=
  let g := s.siltEng n
  let st :=
    if s.fencedEng (siltEngine n) then 3
    else if (s.eng (siltEngine n)).rst.isSome || s.loess.domain.isSome || s.loess.oos then 2
    else b2n (s.siltBusy n)
  at_ g.slices.length 16 + at_ (b2n g.rt) 7 + st

/-- The state code of a variant: where several apply, the first in the order of the table of variant states. -/
def State.variantCode (s : State) (id : Nat) (v : Variant) : Nat :=
  if v.torn then 6
  else if v.changer.isSome then 4
  else if !v.sealCmds.isEmpty then 2
  else if s.variantUsed id (·.opcode == 0x81) then 5
  else if v.sealed then 3
  else 1

/-- SILT_VAR_INFO. -/
def State.varInfoWord (s : State) : Nat :=
  match tget? s.silt.variants s.silt.sel with
  | none => 0
  | some v => at_ v.rev 32 + at_ v.fn 16 + at_ (b2n (v.digestRev == v.rev)) 15 + s.variantCode s.silt.sel v

/-- A field of the selected variant, zero where the ID names none. -/
def State.selVariant (s : State) (f : Variant → Nat) : Nat := ((tget? s.silt.variants s.silt.sel).map f).getD 0

/-- KAO_INFO. -/
def State.kaoInfoWord (s : State) : Nat :=
  let k := s.kao.sel
  let x := s.key k
  at_ x.epoch 32 + at_ (x.owner.getD 0) 16 + at_ (b2n x.tenant.isSome) 6 + at_ (b2n x.tenant.isSome) 5 + at_ (b2n x.walk.isSome) 4 +
    (if k < 16 then 1 else if x.owner.isSome then 2 else 0)

/-- KAO_FN_MIG. -/
def State.migWord (s : State) (f : Nat) : Nat := match tget? s.kao.migs f with | some m => 2 ^ 63 + m.exports % 2 ^ 63 | none => 0

/-- VARVE_SLOTS. -/
def Varve.slotsWord (v : Varve) : Nat :=
  at_ (tcount v.slots fun _ x => x.retire && x.frame.isNone) 32 + tcount v.slots fun _ x => x.frame.isSome

/-- VARVE_UNV_LOG. -/
def UnvLog.word (l : UnvLog) : Nat := at_ l.key 52 + at_ l.slot 20 + at_ l.index 11 + at_ l.level 1 + b2n l.valid

/-- ESK_FKT_LOG. -/
def FktLog.word (l : FktLog) : Nat :=
  at_ l.ctx 48 + at_ l.reqKey 36 + at_ l.frameKey 24 + at_ l.frame 4 + at_ (b2n l.write) 3 + at_ (b2n l.remote) 2 + at_ (b2n l.host) 1 + b2n l.valid

/-- The code of a link's state (R571). -/
def LinkSt.code : LinkSt → Nat
  | .absent => 0 | .down => 1 | .training => 2 | .hello => 3 | .up => 4 | .outOfService => 5 | .fenced => 6

/-- What a link's state reads as: a Down link whose PHY has been pulsed trains again, unless its controller is in reset (R575, R576). -/
def State.linkCode (s : State) (n : Nat) : Nat :=
  let l := s.link n
  if l.st = .down ∧ l.downAt + 1000 ≤ s.now ∧ s.engDown (floeEngine n) = false then LinkSt.training.code else l.st.code

/-- FLOE_LINK_STATUS, with the link's state. -/
def Link.statusWord (l : Link) (code : Nat) : Nat :=
  at_ l.farLink 24 + at_ (b2n l.bypassed) 23 + at_ l.farNode 16 + at_ l.reason 8 + code

/-- FLOE_LINK_ERR. -/
def Link.errWord (l : Link) : Nat := at_ l.retrains 48 + at_ l.mismatches 40 + at_ l.protocol 32 + l.crc

/-- FLOE_RING_STATE. -/
def State.ringWord (s : State) (k : Nat) : Nat :=
  let r := s.ring k
  at_ r.members.length 32 + at_ (if r.members.contains s.nodeId then idxOf r.members s.nodeId else 0) 24 + r.st

/-- VX_PWR_STATUS.state: entering from the command until the state is reached, a hold-up flush included. -/
def State.pwrCode (s : State) : Nat :=
  match s.pwr.st with
  | .freeze => 2
  | .permafrost => 3
  | .entering => 4
  | .waking => 5
  | _ =>
    if s.pwr.target = .freeze ∨ s.pwr.target = .permafrost ∨ s.ledg.flushing = true then 4
    else if s.pwr.st = .chill then 1 else 0

/-- VX_PWR_STATUS. -/
def State.pwrStatusWord (s : State) : Nat :=
  at_ s.paceNow 32 + at_ (b2n (s.pwr.brownout || s.pwr.goodHold)) 12 + at_ (b2n s.pwr.holdup) 11 + at_ (b2n s.pwr.brake) 10 +
    at_ (b2n s.pwr.droopPace) 9 + at_ (b2n s.pwr.cut) 8 + at_ (b2n (s.pwr.ret == .chill)) 6 + s.pwrCode

/-- TARN_STATUS.phase. -/
def State.phaseShown (s : State) : Nat :=
  if s.loess.halted then 5 else if s.loess.restart.isSome then 4 else s.tarn.phase

/-- TARN_STATUS. -/
def State.tarnStatusWord (s : State) : Nat :=
  at_ s.tarn.selftest 40 + at_ (b2n s.tarn.patchDropped) 9 + at_ (b2n s.tarn.adminCfgError) 8 + s.phaseShown

/-- TARN_ADMIN_CFG. -/
def Tarn.adminCfgWord (t : Tarn) : Nat := at_ t.inflightMax 43 + at_ t.intTime 33 + at_ t.intCount 24 + at_ t.vector 16 + t.depthM1

/-- TARN_MON_STATUS. -/
def Tarn.monStatusWord (t : Tarn) : Nat := at_ (satTo 8 t.failures) 8 + at_ (b2n t.lockout) 4 + at_ (b2n t.unlocked) 3 + t.baud

/-- TARN_TIC_SRC. -/
def TicSrc.word (x : TicSrc) : Nat :=
  at_ (b2n x.active) 39 + at_ (b2n x.pending) 38 + at_ (b2n x.enable) 37 + at_ x.prio 32 + at_ x.vector 2

/-- LEDG_STATUS. -/
def Ledger.statusWord (l : Ledger) : Nat :=
  at_ (b2n l.recovered) 31 + at_ (b2n l.fresh) 30 + at_ (b2n l.unclean) 29 + at_ (b2n l.flushing) 28 + at_ (b2n l.flushDone) 27 +
    satTo 13 l.queue.length

/-- The registers of the VX_ window. -/
def State.vxRead (s : State) : Reg → Nat
  | .version => s.versionWord
  | .timebase => s.now
  | .unmapped => s.ports.unmapped
  | .pinStatus => s.pinStatusWord
  | .pinEvent => at_ (b2n s.pins.holdupSeen) 1 + b2n s.pins.droopSeen
  | .cfgEpoch => s.cfg.epoch
  | .cfgDone => s.cfg.done
  | .errStatus => s.loess.err.toNat
  | .oosStatus => at_ (b2n s.loess.oos) 31 + at_ s.loess.oosEngine 8 + s.loess.oosCause
  | .resetHead => s.loess.head
  | .resetTail => s.loess.tail
  | .domainCount => at_ s.loess.domains 16 + min 3 (s.loess.domainTimes.countP fun t => decide (s.now < t + 60000000000))
  | .hbStatus => at_ (satTo 16 s.loess.restarts) 48 + s.loess.hbLast % 2 ^ 48
  | .fenceSerac => maskOf 32 fun n => s.fencedEng (0x0100 + n)
  | .fenceSilt => maskOf 64 fun n => s.fencedEng (0x0200 + n)
  | .fenceUnits =>
    at_ (maskOf 16 fun n => s.fencedEng (0x0600 + n)) 40 + at_ (maskOf 24 fun n => s.fencedEng (0x0400 + n)) 16 +
      maskOf 16 fun n => s.fencedEng (0x0300 + n)
  | .fenceFloe => maskOf 36 fun n => s.fencedEng (0x0500 + n)
  | .pwrStatus => s.pwrStatusWord
  | .pwrLimit => at_ s.pwr.emergencyW 16 + s.pwr.limitW
  | .pwrWakeAt => s.pwr.wakeAt
  | .pwrPaced => s.pwr.pacedNs
  | .pwrEvents => at_ s.pwr.brownouts 48 + at_ s.pwr.holdups 32 + at_ s.pwr.wakes 16 + s.pwr.droops
  | _ => 0

/-- The registers of Cirque, Serac and Esker. -/
def State.coreRead (s : State) : Reg → Nat
  | .rtReserve => s.cirq.rtPct
  | .parkStatus => at_ s.cirq.sharedFree 16 + s.parkedAll
  | .dbReject => s.cirq.dbReject
  | .cirqEvent => at_ (b2n !(s.fn 0).events.isEmpty) 1 + b2n s.cirq.adminCqBroken
  | .seracStatus u => s.seracStatusWord u
  | .seracCtl u => at_ (b2n (s.unit u).bare) 8 + (s.unit u).window
  | .seracTurns u => (s.unit u).turns
  | .seracSwitch u => at_ (s.unit u).swFull 42 + at_ (s.unit u).swCleave 21 + (s.unit u).swPtr
  | .seracSaveBytes u => (s.unit u).saveBytes
  | .seracSlot u k => s.slotWord u k
  | .seracQuantum => at_ s.serac.minTurnUs 48 + at_ s.serac.batchUs 32 + at_ s.serac.intUs 16 + s.serac.rtUs
  | .seracSwapCtl => s.serac.ageUs
  | .seracCfg => at_ s.serac.cfgTurns 8 + s.serac.cfgCleave
  | .seracSwapCount => at_ s.serac.evictions 32 + s.serac.swapIns
  | .seracRegion => s.serac.region
  | .crevHead => s.esk.crevHead
  | .crevTail => s.esk.crevTail
  | .crevStatus => at_ (satTo 16 s.esk.crevWaiting.length) 16 + at_ (b2n s.esk.crevFull) 11 + s.esk.openAll
  | .fktCount => s.esk.fktCount
  | .fktLog => s.esk.fktLog.word
  | .hotCtl => at_ s.esk.hotShown 16 + s.esk.windowNext
  | .hotHead => s.esk.hotHead
  | .hotTail => s.esk.hotTail
  | .hotStatus => s.esk.hotLost
  | .eskRegion => s.esk.region
  | _ => 0

/-- The registers of Firn, Melt, Silt and Snowpack. -/
def State.dataRead (s : State) : Reg → Nat
  | .loadStatus =>
    at_ s.firn.shardCount 48 + at_ s.firn.shardsDone 32 + at_ s.firn.failedShard 16 + at_ s.firn.loadFail 12 + at_ s.firn.loadImage 4 +
      s.firn.loadState
  | .hbmReserve => s.firn.hbmReserve
  | .repairCount => at_ s.firn.fromHost 16 + s.firn.fromPeer
  | .repairStatus => at_ (satTo 16 (s.firn.repairs.countP fun p => !p.started)) 16 + s.firn.repairs.countP (·.started)
  | .marginCtl => b2n s.firn.marginAll
  | .marginHead => s.firn.marginHead
  | .marginTail => s.firn.marginTail
  | .marginLost => s.firn.marginLost
  | .imageState n => ((tget? s.firn.images n).map Image.stateWord).getD 0
  | .codeErr => s.firn.codeErr
  | .nanCount => s.firn.nanCount
  | .meltActive => maskOf 16 fun m => (s.meltStream m).isSome
  | .engStatus n => s.engStatusWord n
  | .engTaps n => (s.siltEng n).taps
  | .engFetch n => at_ (s.siltEng n).misses 32 + (s.siltEng n).hits
  | .engBusy n => (s.siltEng n).busyNs
  | .varSel => s.silt.sel
  | .varInfo => s.varInfoWord
  | .varSteps => s.selVariant fun v => at_ v.digestRev 32 + v.steps
  | .varDigest i => s.selVariant fun v => fld v.digest (8 * i) 8
  | .tapErr => s.silt.tapErr
  | .updateSkipped => s.silt.skipped
  | .siltStatus =>
    at_ ((List.range 64).countP fun n => (s.siltEng n).rt) 16 + (List.range 64).countP fun n => s.fencedEng (siltEngine n)
  | .poolCfg => at_ s.snow.boardFrames 32 + s.snow.hbmFrames
  | .snowRegion => s.snow.region
  | .snowBoardRegion => s.snow.boardRegion
  | .snowFree => at_ s.snow.freeBoard.length 32 + s.snow.freeHbm.length
  | .snowHost => at_ s.snow.hostTotal 32 + s.snow.freeHost.length
  | .snowStatus => at_ s.snow.seqs.length 32 + at_ (satTo 16 (tcount s.cmds fun _ c => c.waitProv)) 16 + s.snow.hostRejects
  | .spillCount => at_ s.snow.toHost 32 + s.snow.toBoard
  | .imageCfg n => s.tokenBytes n
  | _ => 0

/-- The registers of protection, the ledger, the links and Tarn. -/
def State.restRead (s : State) : Reg → Nat
  | .glzStatus => at_ (tcount s.kao.slots fun _ x => x.walk.isSome) 16 + (List.range 24).countP fun n => s.fencedEng (0x0400 + n)
  | .glzPartial => s.glz.partials
  | .glzReenc => at_ s.glz.rekeys 32 + s.glz.reenc
  | .varveSlots => s.varve.slotsWord
  | .varveRegion => s.varve.region
  | .unvCount => s.varve.unvCount
  | .unvLog => s.varve.unvLog.word
  | .kaoSel => s.kao.sel
  | .kaoInfo => s.kaoInfoWord
  | .kaoRekey => (((s.key s.kao.sel).walk.map (·.length)).getD 0) % 2 ^ 32
  | .ledgStatus => s.ledg.statusWord
  | .ckptSel => s.ledg.ckptSel
  | .ledgRing => at_ s.ledg.capacity 32 + s.ledg.persist.tail
  | .ledgWraps => s.ledg.wraps
  | .ledgFlush => at_ s.ledg.flushReceipts 32 + s.ledg.flushNs
  | .linkStatus n => (s.link n).statusWord (s.linkCode n)
  | .linkErr n => (s.link n).errWord
  | .linkTraffic n => (s.link n).bytes
  | .ringState k => s.ringWord k
  | .floeCtl => at_ s.floe.holdMs 48 + at_ s.floe.e2eUs 32 + at_ s.floe.joinMs 20 + at_ s.floe.trainMs 10
  | .floeRemote => at_ s.floe.unreachable 48 + at_ s.floe.resent 32 + at_ s.floe.stale 16 + s.floe.discarded
  | .tarnStatus => s.tarnStatusWord
  | .adminSq => s.tarn.sqBase
  | .adminCq => s.tarn.cqBase
  | .adminCfg => s.tarn.adminCfgWord
  | .adminCtl => at_ (b2n s.tarn.enabled) 1
  | .tarnPatch => at_ s.tarn.svn 32 + s.tarn.patch.length
  | .patchDigest i => fld s.tarn.digest (8 * i) 8
  | .monStatus => s.tarn.monStatusWord
  | .monChallenge => s.tarn.challenge
  | .ticSrc n => (s.ticSrc n).word
  | .ticLevel => match s.ticLevel with | some l => l | none => 16
  | .ticRefire => s.tarn.refire
  | _ => 0

/-- The per-function registers and the doorbell blocks. -/
def State.fnRead (s : State) : Reg → Nat
  | .fnStatus f => (s.fn f).statusWord
  | .fnMoraine f => (s.fn f).moraine
  | .fnQcfg f => (s.fn f).qcfgWord
  | .fnTimeout f => at_ (s.fn f).drainUs 32 + (s.fn f).timeoutUs
  | .fnPark f => s.fnParkWord f
  | .fnConfig f => b2n (if (s.fn f).phase = .enabled then (s.fn f).vx1 else (s.fn f).vx1Next)
  | .wplogStatus f => (s.fn f).wplog.statusWord
  | .wplogHead f => (s.fn f).wplog.head
  | .runahead f => (s.fn f).runahead
  | .fnFaults f => s.esk.openOf f
  | .fnQuota f => (s.fn f).maxPages
  | .fnPages f => s.pagesOfFn f
  | .fnMig f => s.migWord f
  | .door d k => s.doorRead d k
  | _ => 0

/-- What a register reads as. -/
def State.regRead (s : State) (r : Reg) : Nat :=
  match r.group with
  | .vx => s.vxRead r
  | .core => s.coreRead r
  | .data => s.dataRead r
  | .rest => s.restRead r
  | .fn => s.fnRead r

/-! ## Records -/

/-- The seal record without its signature (R489). -/
def Seal.body (x : Seal) : Blob :=
  leBytes 4 0x4C535856 ++ leBytes 2 1 ++ leBytes 1 x.cause ++ leBytes 1 x.engine ++ leBytes 8 x.time ++ leBytes 8 x.dpa ++ leBytes 4 x.slot ++
    leBytes 2 x.key ++ leBytes 1 x.level ++ leBytes 1 (b2n x.remote) ++ leBytes 4 x.further ++ zeros 4 ++ leBytes 8 x.cfgEpoch ++ zeros 64 ++
    sha384 Config.identityKey

/-- VX_SEAL: the record with its signature, or zeros. -/
def State.sealBytes (s : State) : Blob :=
  match s.loess.sealRec with
  | some x => x.body ++ padTo 96 (Config.sign x.body)
  | none => zeros 256

/-- LEDG_CKPT: the last periodic or export checkpoint of the function selected, or zeros. -/
def State.ckptShown (s : State) : Blob :=
  (tget? s.ledg.ckpts s.ledg.ckptSel).getD (zeros 256)

/-- The bytes that a list of records of `n` bytes shows at an offset. -/
def recordAt {α : Type} (t : Tbl α) (n : Nat) (bytes : α → Blob) (o w : Nat) : Nat :=
  match tget? t (o / n) with
  | some x => fld (bytes x) (o % n) w
  | none => 0

/-- FLOE_CENSUS: byte i is the node at downstream index i, 0xFF beyond the members. -/
def State.censusByte (s : State) (k i : Nat) : Nat := (s.ring k).members.getD i 0xFF

/-- `w` bytes of an area at an offset. -/
def State.areaRead (s : State) (a : Area) (o w : Nat) : Nat :=
  match a with
  | .sealRec => fld s.sealBytes o w
  | .resetRecords => recordAt s.loess.records 64 RstRec.bytes o w
  | .crevRecords => recordAt s.esk.crev 64 Crev.bytes o w
  | .hotList => recordAt s.esk.hotList 16 HotEnt.bytes o w
  | .marginLog => recordAt s.firn.marginLog 32 MarginEnt.bytes o w
  | .ckptRec => fld s.ckptShown o w
  | .census k => leVal ((List.range w).map fun i => BitVec.ofNat 8 (s.censusByte k (o + i)))
  | .pending f => maskOf (8 * w) fun i => (tget (s.fn f).vectors {} (8 * o + i)).pending

/-- An MSI-X table entry as a 128-bit value (R49). -/
def MsixVec.word (v : MsixVec) : Nat := v.addr + at_ v.data 64 + at_ (b2n v.masked) 96

/-- `w` bytes of a function's MSI-X table at an offset. -/
def State.msixRead (s : State) (f o w : Nat) : Nat := (tget (s.fn f).vectors {} (o / 16)).word / 2 ^ (8 * (o % 16)) % 2 ^ (8 * w)

end Sys2Proof.Machine
end

