-- ==== Sys2Proof/Machine/RegWrite.lean ====
section
/-! DEFINITION. What a write of each register does: a field with no behaviour of its own stores the value, or the nearest limit of its range; W1C bits
clear; read-only fields and registers are unchanged (R15, R637); the registers that ask for something do it. -/

namespace Sys2Proof.Machine

open Sys2Proof

/-! ## Registers with a behaviour of their own -/

/-- CIRQ_RT_RESERVE (R117, R219). -/
def State.rtReserveWrite (s : State) (v : Nat) : State :=
  let pct := min 25 (v % 32)
  ({ s with cirq := { s.cirq with rtPct := pct } } : State).stage (.rtReserve pct) none

/-- CIRQ_ADMIN_RESUME (R143): the confirming read of the device admin CQ's first slot, which its replay waits for. -/
def State.adminResumeWrite (s : State) (v : Nat) : State :=
  match s.queueAt? 0 0 with
  | some (i, q) =>
    if bit v 0 && q.replay.isNone && (s.fn 0).phase == .enabled then
      (s.hostRead 0 (q.cqBase + 28) 4).modQ i fun x =>
        { x with replay := some none, replayOn := false, firstRead := some (x.deadReads + x.burst.length) }
    else s
  | none => s

/-- PF0's own admin queue has been enabled: its registers and configuration are fixed until the next block reset (R623). -/
def State.adminFixed (s : State) (f : Nat) : Bool := f == 0 && s.tarn.enabled

/-- CIRQ_FN_QCFG (R89, R146, R623). -/
def State.qcfgWrite (s : State) (f v : Nat) : State :=
  if s.adminFixed f then s
  else
    let s1 := s.updFn f fun x =>
      if x.phase = .disabled then
        { x with
          parkCap := clampTo 2 1024 (bits v 52 42), classes := bits v 34 32, qCount := min 1024 (bits v 26 16)
          qBase := if f = 0 then 0 else bits v 12 0 }
      else { x with parkCap := clampTo 2 1024 (bits v 52 42) }
    s1.checkPark f

/-- SNOW_HOST_ADD (R427): the chunk enters the host chunk table under PF0, and its pages join the host pool; a write refused is counted. -/
def State.hostAddWrite (s : State) (v : Nat) : State :=
  let reject := { s with snow := { s.snow with hostRejects := satAdd s.snow.hostRejects 1 0xFFFF } }
  if v % frameBytes ≠ 0 then reject
  else match s.chooseChunks 1 [] with
    | some [k] =>
      match s.takeChunks { prot := 0, key := kvKey } [(k, v)] with
      | some t =>
        let w := (List.range 8).foldl (fun (w : Snow) i => w.put { tier := 2, page := 8 * k + i }) t.snow
        ({ t with snow := { w with hostTotal := w.hostTotal + 8 } } : State).passBoundary
      | none => reject
    | _ => reject

/-- A value of SNOW_IMAGE_CFG as stored (R431). -/
def tokenBytesOf (v : Nat) : Nat :=
  let t := v % 2 ^ 19
  if t % 64 = 0 ∧ 64 ≤ t ∧ t ≤ 262144 then t else 0

/-- SNOW_IMAGE_CFG (R432). -/
def State.imageCfgWrite (s : State) (n v : Nat) : State :=
  if tany s.snow.seqs fun _ q => q.image == n then s
  else { s with snow := { s.snow with tokenBytes := tset s.snow.tokenBytes n (tokenBytesOf v) } }

/-- SNOW_FN_QUOTA (R429, R439). -/
def State.quotaWrite (s : State) (f v : Nat) : State :=
  let old := (s.fn f).maxPages
  let s1 := s.updFn f fun x => { x with maxPages := v }
  if old ≠ 0 ∧ (v = 0 ∨ old < v) then s1.passBoundary else s1

/-- The fields of TARN_ADMIN_CFG and the queue range that an enable needs (R90, R623). -/
def State.adminCfgOk (s : State) : Bool :=
  let t := s.tarn
  decide (15 ≤ t.depthM1) && decide (1 ≤ t.inflightMax) && decide (t.inflightMax ≤ 256) && decide (1 ≤ t.intCount) &&
    decide (t.intCount ≤ 256) && decide (1 ≤ (s.fn 0).qCount)

/-- TARN_ADMIN_CTL (R623): in phase 1, the device admin queue is created and PF0 is Enabled with generation 1. -/
def State.adminCtlWrite (s : State) (v : Nat) : State :=
  if !bit v 0 || s.tarn.enabled || s.tarn.phase != 1 then s
  else if s.adminCfgOk then
    let t := s.tarn
    let q : Queue :=
      { fn := 0, admin := true, sqBase := t.sqBase, cqBase := t.cqBase, depth := t.depthM1 + 1, inflightMax := t.inflightMax,
        vector := t.vector, intCount := t.intCount, intTime := t.intTime }
    let s1 := s.updFn 0 fun x => { x with phase := .enabled, generation := 1 }
    { s1 with queues := tset s1.queues 0 q, tarn := { t with enabled := true, phase := 2 } }
  else { s with tarn := { s.tarn with adminCfgError := true } }

/-- VX_RESET_REQ. -/
def State.resetReqWrite (s : State) (v : Nat) : State :=
  if bits v 17 16 = 1 then s.engineRequest (bits v 15 0) else if bits v 17 16 = 2 then s.domainRequest else s

/-- ESK_CREV_CTL. -/
def State.crevCtlWrite (s : State) (v : Nat) : State :=
  if bits v 17 16 = 1 then s.crevRetry (bits v 9 0) else if bits v 17 16 = 2 then s.crevAbort (bits v 9 0) else s

/-- A register of a doorbell block (R93 to R98, R126). A PF0 write to a block whose queue is not PF0's counts in CIRQ_DB_REJECT. -/
def State.doorWrite (s : State) (d : Door) (k v : Nat) : State :=
  let foreign := match d, s.blockQueue d with
    | .pf0 _, some (_, q) => q.fn != 0
    | _, _ => false
  if foreign then s.rejectDoorbell
  else
    match k with
    | 0 => match s.doorQueue d with | some (i, q) => s.ringTail i q (v % 65536) | none => s.rejectDoorbell
    | 1 => match s.doorQueue d with | some (i, q) => s.ringHead i q (v % 65536) | none => s.rejectDoorbell
    | 4 => match s.blockQueue d with
      | some (i, _) => if bit v 4 then s.modQ i fun x => { x with dbError := false } else s
      | none => s
    | 5 => match s.blockQueue d with | some (i, q) => s.ringMask i q v | none => s
    | _ => s

/-! ## The rest -/

/-- The VX_ window. -/
def State.vxWrite (s : State) (r : Reg) (v : Nat) : State :=
  match r with
  | .unmapped => { s with ports := { s.ports with unmapped := v } }
  | .pinEvent => { s with pins := { s.pins with droopSeen := s.pins.droopSeen && !bit v 0, holdupSeen := s.pins.holdupSeen && !bit v 1 } }
  | .errStatus => { s with loess := { s.loess with err := s.loess.err &&& ~~~(BitVec.ofNat 8 v) } }
  | .resetHead => s.resetHead v
  | .resetReq => s.resetReqWrite v
  | .pwrWakeAt => { s with pwr := { s.pwr with wakeAt := v } }
  | .pwrPaced => { s with pwr := { s.pwr with pacedNs := v } }
  | .pwrEvents => { s with pwr := { s.pwr with brownouts := bits v 63 48, holdups := bits v 47 32, wakes := bits v 31 16, droops := bits v 15 0 } }
  | _ => s

/-- Cirque, Serac and Esker. -/
def State.coreWrite (s : State) (r : Reg) (v : Nat) : State :=
  match r with
  | .rtReserve => s.rtReserveWrite v
  | .dbReject => { s with cirq := { s.cirq with dbReject := v } }
  | .cirqEvent => { s with cirq := { s.cirq with adminCqBroken := s.cirq.adminCqBroken && !bit v 0 } }
  | .adminResume => s.adminResumeWrite v
  | .seracCtl u => s.updUnit u fun x => { x with bare := bit v 8, window := clampTo 1 16 (bits v 4 0) }
  | .seracTurns u => s.updUnit u fun x => { x with turns := v }
  | .seracSwitch u => s.updUnit u fun x => { x with swFull := bits v 63 42, swCleave := bits v 41 21, swPtr := bits v 20 0 }
  | .seracSaveBytes u => s.updUnit u fun x => { x with saveBytes := v }
  | .seracQuantum =>
    { s with serac := { s.serac with
      minTurnUs := clampTo 1 1000 (bits v 63 48), batchUs := max 10 (bits v 47 32), intUs := max 10 (bits v 31 16), rtUs := max 10 (bits v 15 0) } }
  | .seracSwapCtl => { s with serac := { s.serac with ageUs := max 100 (bits v 23 0) } }
  | .seracSwapCount => { s with serac := { s.serac with evictions := bits v 63 32, swapIns := bits v 31 0 } }
  | .crevHead => s.crevHeadWrite v
  | .crevCtl => s.crevCtlWrite v
  | .fktCount => { s with esk := { s.esk with fktCount := v } }
  | .fktLog => { s with esk := { s.esk with fktLog := { s.esk.fktLog with valid := s.esk.fktLog.valid && !bit v 0 } } }
  | .hotCtl => { s with esk := { s.esk with windowNext := clampTo 1 1000 (bits v 9 0) } }
  | .hotHead => { s with esk := { s.esk with hotHead := v % 256 } }
  | .hotStatus => { s with esk := { s.esk with hotLost := v } }
  | _ => s

/-- Firn, Melt, Silt and Snowpack. -/
def State.dataWrite (s : State) (r : Reg) (v : Nat) : State :=
  match r with
  | .hbmReserve => { s with firn := { s.firn with hbmReserve := bits v 43 0 / frameBytes * frameBytes } }
  | .repairCount => { s with firn := { s.firn with fromHost := bits v 31 16, fromPeer := bits v 15 0 } }
  | .marginCtl => { s with firn := { s.firn with marginAll := bit v 0 } }
  | .marginHead => { s with firn := { s.firn with marginHead := v % 2048 } }
  | .marginLost => { s with firn := { s.firn with marginLost := v } }
  | .codeErr => { s with firn := { s.firn with codeErr := v } }
  | .nanCount => { s with firn := { s.firn with nanCount := v } }
  | .engTaps n => s.updSilt n fun g => { g with taps := v }
  | .engFetch n => s.updSilt n fun g => { g with misses := bits v 63 32, hits := bits v 31 0 }
  | .engBusy n => s.updSilt n fun g => { g with busyNs := v }
  | .varSel => { s with silt := { s.silt with sel := clampTo 1 65536 (bits v 16 0) } }
  | .tapErr => { s with silt := { s.silt with tapErr := v } }
  | .updateSkipped => { s with silt := { s.silt with skipped := v } }
  | .poolCfg => if s.topo.committed then s else { s with snow := { s.snow with boardFrames := bits v 63 32, hbmFrames := bits v 31 0 } }
  | .snowHostAdd => s.hostAddWrite v
  | .snowStatus => { s with snow := { s.snow with hostRejects := bits v 15 0 } }
  | .spillCount => { s with snow := { s.snow with toHost := bits v 63 32, toBoard := bits v 31 0 } }
  | .imageCfg n => s.imageCfgWrite n v
  | _ => s

/-- Protection, the ledger, the links and Tarn. -/
def State.restWrite (s : State) (r : Reg) (v : Nat) : State :=
  match r with
  | .glzPartial => { s with glz := { s.glz with partials := v } }
  | .glzReenc => { s with glz := { s.glz with rekeys := bits v 63 32, reenc := bits v 31 0 } }
  | .unvCount => { s with varve := { s.varve with unvCount := v } }
  | .unvLog => { s with varve := { s.varve with unvLog := { s.varve.unvLog with valid := s.varve.unvLog.valid && !bit v 0 } } }
  | .kaoSel => { s with kao := { s.kao with sel := v % 4096 } }
  | .ckptSel => { s with ledg := { s.ledg with ckptSel := v % 4096 } }
  | .ledgWraps => { s with ledg := { s.ledg with wraps := v } }
  | .linkErr n => s.updLink n fun l => { l with retrains := bits v 63 48, mismatches := bits v 47 40, protocol := bits v 39 32, crc := bits v 31 0 }
  | .linkTraffic n => s.updLink n fun l => { l with bytes := v }
  | .floeCtl =>
    { s with floe := { s.floe with
      holdMs := clampTo 1 10000 (bits v 63 48), e2eUs := max 50 (bits v 47 32), joinMs := max 10 (bits v 31 20), trainMs := max 10 (bits v 19 10) } }
  | .floeRingCtl => s.ringWrite (bits v 4 0) (bits v 17 16)
  | .floeRemote =>
    { s with floe := { s.floe with unreachable := bits v 63 48, resent := bits v 47 32, stale := bits v 31 16, discarded := bits v 15 0 } }
  | .tarnStatus =>
    { s with tarn := { s.tarn with patchDropped := s.tarn.patchDropped && !bit v 9, adminCfgError := s.tarn.adminCfgError && !bit v 8 } }
  | .adminSq => if s.tarn.enabled then s else { s with tarn := { s.tarn with sqBase := v / 4096 * 4096 } }
  | .adminCq => if s.tarn.enabled then s else { s with tarn := { s.tarn with cqBase := v / 4096 * 4096 } }
  | .adminCfg =>
    if s.tarn.enabled then s
    else { s with tarn := { s.tarn with
      inflightMax := bits v 51 43, intTime := bits v 42 33, intCount := bits v 32 24, vector := bits v 23 16, depthM1 := bits v 15 0 } }
  | .adminCtl => s.adminCtlWrite v
  | .ticSrc n => s.updSrc n fun x =>
    { x with pending := x.pending && !bit v 38, enable := bit v 37, prio := bits v 35 32, vector := bits v 31 2 }
  | .ticEoi => s.ticEoi (v % 256)
  | .ticRefire => { s with tarn := { s.tarn with refire := v } }
  | _ => s

/-- The per-function registers and the doorbell blocks. VX_WPLOG_HEAD of a function with no active log is judged by its last log (DESIGN CHOICE,
assumption 182). -/
def State.fnWrite (s : State) (r : Reg) (v : Nat) : State :=
  match r with
  | .moraineClr f => s.moraineClear f v
  | .fnQcfg f => s.qcfgWrite f v
  | .fnTimeout f => s.updFn f fun x => { x with drainUs := clampTo 10 10000 (bits v 45 32), timeoutUs := max 1 (bits v 31 0) }
  | .wplogStatus f => s.updFn f fun x => { x with wplog := { x.wplog with overflow := x.wplog.overflow && !bit v 30 } }
  | .wplogHead f => s.updFn f fun x => if v % 2 ^ 24 < x.wplog.entries then { x with wplog := { x.wplog with head := v % 2 ^ 24 } } else x
  | .wplogCtl f => s.wplogFlush f v
  | .runahead f => s.updFn f fun x => { x with runahead := clampTo 1 64 (bits v 6 0) }
  | .fnQuota f => s.quotaWrite f v
  | .door d k => s.doorWrite d k v
  | _ => s

/-- Write a register. -/
def State.regWrite (s : State) (r : Reg) (v : Nat) : State :=
  match r.group with
  | .vx => s.vxWrite r v
  | .core => s.coreWrite r v
  | .data => s.dataWrite r v
  | .rest => s.restWrite r v
  | .fn => s.fnWrite r v

/-- Replace `w` bytes at byte `o` of a value. -/
def putBytes (old o w v : Nat) : Nat :=
  old % 2 ^ (8 * o) + at_ (v % 2 ^ (8 * w)) (8 * o) + at_ (old / 2 ^ (8 * (o + w))) (8 * (o + w))

/-- Write `w` bytes of a function's MSI-X table; clearing a mask sends the message held (R126). -/
def State.msixWrite (s : State) (f o w v : Nat) : State :=
  let x := putBytes (tget (s.fn f).vectors {} (o / 16)).word (o % 16) w v
  (s.updFn f fun y => { y with vectors := tupd y.vectors {} (o / 16) fun m =>
    { m with addr := bits x 63 0, data := bits x 95 64, masked := bit x 96 } }).releaseVectors f

end Sys2Proof.Machine
end

