-- ==== Sys2Proof/Machine/HostAccess.lean ====
section
/-! DEFINITION. Accesses: width and alignment, the two halves of an 8-byte register, unoccupied offsets (R18, R55, R56), what a halt leaves readable
(R488), and the rows of the table that are accesses of the host. -/

namespace Sys2Proof.Machine

open Sys2Proof

/-! ## Accesses (R18, R55, R56) -/

/-- An access is of 4 or 8 bytes and naturally aligned. -/
def aligned (off w : Nat) : Bool := (w == 4 || w == 8) && off % w == 0

/-- What a halt leaves readable, through PF0 BAR0 alone (R488). -/
def haltReads (sp : Space) : Option Place → Bool
  | some (.reg .version _) | some (.reg .timebase _) | some (.reg .pinStatus _) | some (.area .sealRec _) => sp == .bar0 || sp == .tarn
  | _ => false

/-- The copies of Silt's common registers are one register each (R385): a half is kept under the place in engine 0's window. -/
def halfPlace (p : Place) (off : Nat) : Nat :=
  match p with
  | .reg .varInfo _ | .reg .varSteps _ | .reg (.varDigest _) _ => 0x700000 + off % 65536
  | _ => off

/-- A read of the half of an 8-byte register: the low half captures the high one, which the next read of the high half returns. -/
def State.readHalf (s : State) (sp : Space) (at0 : Nat) (r : Reg) (o : Nat) : Nat × State :=
  let f := requester sp
  let off := halfPlace (.reg r o) at0
  let v := s.regRead r
  if o = 0 then
    (v % 2 ^ 32, s.updHalves f fun h =>
      { h with captured := (sp, off, v / 2 ^ 32) :: h.captured.filter fun c => !(c.1 == sp && c.2.1 == off) })
  else
    match (s.halves f).captured.find? fun c => c.1 == sp && c.2.1 + 4 == off with
    | some c => (c.2.2, s.updHalves f fun h => { h with captured := h.captured.filter fun x => !(x.1 == sp && x.2.1 + 4 == off) })
    | none => (v / 2 ^ 32, s)

/-- A read of `w` bytes at an offset: its value, and the state it leaves. -/
def State.busRead (s : State) (sp : Space) (off w : Nat) : Nat × State :=
  if !inBar sp off then (0, s)
  else
    let t := s.dropHeld (requester sp)
    let p := placeAt sp off
    if s.loess.halted && !haltReads sp p then (0, t)
    else if !aligned off w then (0, t.countUnmapped 1)
    else match p with
      | some (.reg r o) =>
        if o = 0 ∧ w = r.width then (t.regRead r, t)
        else if r.width = 8 ∧ w = 4 then t.readHalf sp off r o
        else (0, t.countUnmapped 1)
      | some (.area a o) => (t.areaRead a o w, t)
      | some (.msix f o) => (t.msixRead f o w, t)
      | none => (0, t.countUnmapped 1)

/-- A write of the high half of an 8-byte register: with the low half that the requester holds, all 8 bytes; with none held, it is refused and
counted. -/
def State.writeHigh (s : State) (sp : Space) (off : Nat) (r : Reg) (v : Nat) : State :=
  let f := requester sp
  match (s.halves f).held with
  | some (sp', off', lo) =>
    if sp' = sp ∧ off' + 4 = off then (s.updHalves f fun h => { h with held := none }).regWrite r (lo + at_ v 32)
    else (s.dropHeld f).countUnmapped 1
  | none => s.countUnmapped 1

/-- A write of the low half: it is held, and changes nothing yet. -/
def State.writeLow (s : State) (sp : Space) (off v : Nat) : State :=
  (s.dropHeld (requester sp)).updHalves (requester sp) fun h => { h with held := some (sp, off, v) }

/-- A write of `w` bytes at an offset. -/
def State.busWrite (s : State) (sp : Space) (off w value : Nat) : State :=
  let t := s.dropHeld (requester sp)
  let v := value % 2 ^ (8 * w)
  if !inBar sp off || s.loess.halted then s
  else if !aligned off w then t.countUnmapped 1
  else match placeAt sp off with
    | some (.reg r o) =>
      if o = 0 ∧ w = r.width then t.regWrite r v
      else if r.width = 8 ∧ w = 4 then (if o = 0 then s.writeLow sp off v else s.writeHigh sp off r v)
      else t.countUnmapped 1
    | some (.area _ _) => t
    | some (.msix f o) => t.msixWrite f o w v
    | none => t.countUnmapped 1

/-- A write through a window: Tarn's by its core, the others by the host. -/
def State.writeVia (s : State) (c : Instr) (sp : Space) (off w v : Nat) : State :=
  match sp with
  | .tarn => if s.coreRuns then s.busWrite .tarn off w v else s
  | _ => s.access c false fun t => t.busWrite sp off w v

/-- A read through a window; the host's is answered at the host port. -/
def State.readVia (s : State) (c : Instr) (sp : Space) (off w : Nat) : State :=
  match sp with
  | .tarn => if s.coreRuns then (s.busRead .tarn off w).2 else s
  | _ => s.access c true fun t => (t.busRead sp off w).2.pushHost (.readData (t.busRead sp off w).1)

/-- REGISTER_WRITE (R637). -/
def execRegisterWrite (sp : Space) (off width value : Nat) (s : State) : Out :=
  .next (s.writeVia (.registerWrite sp off width value) sp off width value)

/-- UNMAPPED_ACCESS (R18, R55): a read where no value is given. -/
def execUnmappedAccess (sp : Space) (off width : Nat) (value : Option Nat) (s : State) : Out :=
  .next (match value with
    | some v => s.writeVia (.unmappedAccess sp off width value) sp off width v
    | none => s.readVia (.unmappedAccess sp off width value) sp off width)

/-- SPLIT_LOW_READ (R56). -/
def execSplitLowRead (sp : Space) (off : Nat) (s : State) : Out := .next (s.readVia (.splitLowRead sp off) sp off 4)

/-- SPLIT_LOW_WRITE (R56). -/
def execSplitLowWrite (sp : Space) (off value : Nat) (s : State) : Out :=
  .next (s.writeVia (.splitLowWrite sp off value) sp off 4 value)

/-- SPLIT_HIGH_WRITE (R56): `off` is the offset accessed, that of the high half. -/
def execSplitHighWrite (sp : Space) (off value : Nat) (s : State) : Out :=
  .next (s.writeVia (.splitHighWrite sp off value) sp off 4 value)

/-! ## Doorbells and interrupts (R95 to R98, R126) -/

/-- Where a doorbell block lies: the window and its offset (R57, R58). -/
def doorAt : Door → Space × Nat
  | .own f l => (.vf f, 32 * l)
  | .pf0 q => (.bar2, 32 * q)

/-- A door names a block that exists. -/
def doorOk : Door → Bool
  | .own f l => decide (0 < f) && decide (f < 4096) && decide (l < 1024)
  | .pf0 q => decide (q < 8192)

/-- A 4-byte write of register `k` of a doorbell block. -/
def State.doorVia (s : State) (c : Instr) (d : Door) (k v : Nat) : State :=
  if doorOk d then s.access c false fun t => t.busWrite (doorAt d).1 ((doorAt d).2 + 4 * k) 4 v else s

/-- SQ_TAIL. -/
def execSqTail (d : Door) (value : Nat) (s : State) : Out := .next (s.doorVia (.sqTail d value) d 0 value)

/-- CQ_HEAD. -/
def execCqHead (d : Door) (value : Nat) (s : State) : Out := .next (s.doorVia (.cqHead d value) d 1 value)

/-- CQ_INT_MASK. -/
def execCqIntMask (d : Door) (value : Nat) (s : State) : Out := .next (s.doorVia (.cqIntMask d value) d 5 value)

/-- MSIX_MASK_CLEAR: the mask of a vector, in the function's MSI-X table, or the Function Mask. -/
def execMsixMaskClear (fn : Nat) (vector : Option Nat) (s : State) : Out :=
  .next (
    if 4096 ≤ fn then s
    else match vector with
      | none => s.config (.msixMaskClear fn none) fun t => (t.updFn fn fun x => { x with msixMask := false }).releaseVectors fn
      | some v =>
        if vectorsOf fn ≤ v then s
        else
          let sp : Space := if fn = 0 then .bar0 else .vf fn
          let base := if fn = 0 then 0x1500000 else 0x8000
          s.access (.msixMaskClear fn (some v)) false fun t => t.busWrite sp (base + 16 * v + 12) 4 0)

/-! ## Registers with a row of their own -/

/-- The offset of a function's shadow window (R60). -/
def shadowAt (f : Nat) : Nat := 0x2000000 + f * 0x2000

/-- CIRQ_RT_RESERVE (R117). -/
def execCirqRtReserve (value : Nat) (s : State) : Out :=
  .next (s.access (.cirqRtReserve value) false fun t => t.busWrite .bar0 0x100000 4 value)

/-- CIRQ_FN_QCFG (R89, R146). -/
def execCirqFnQcfg (fn value : Nat) (s : State) : Out :=
  .next (if 4096 ≤ fn then s else s.access (.cirqFnQcfg fn value) false fun t => t.busWrite .bar0 (shadowAt fn + 0x10) 8 value)

/-- CIRQ_ADMIN_RESUME (R143). -/
def execCirqAdminResume (value : Nat) (s : State) : Out :=
  .next (s.access (.cirqAdminResume value) false fun t => t.busWrite .bar0 0x100014 4 value)

/-- SNOW_HOST_ADD (R427). -/
def execSnowHostAdd (value : Nat) (s : State) : Out :=
  .next (s.access (.snowHostAdd value) false fun t => t.busWrite .bar0 0xB00028 8 value)

/-- SNOW_IMAGE_CFG (R432). -/
def execSnowImageCfg (image value : Nat) (s : State) : Out :=
  .next (if image = 0 ∨ 64 ≤ image then s
    else s.access (.snowImageCfg image value) false fun t => t.busWrite .bar0 (0xB00100 + 4 * image) 4 value)

/-- SNOW_FN_QUOTA (R429). -/
def execSnowFnQuota (fn value : Nat) (s : State) : Out :=
  .next (if 4096 ≤ fn then s else s.access (.snowFnQuota fn value) false fun t => t.busWrite .bar0 (shadowAt fn + 0x50) 4 value)

/-- ADMIN_QUEUE_ENABLE (R623). -/
def execAdminQueueEnable (value : Nat) (s : State) : Out :=
  .next (s.access (.adminQueueEnable value) false fun t => t.busWrite .bar0 0x1400020 4 value)

end Sys2Proof.Machine
end

