-- ==== Sys2Proof/Machine/Monitor.lean ====
section
/-! DEFINITION. The serial monitor: its line, its grammar and its commands (R627 to R635). The spec gives what each command prints and the form of
numbers; how the values of one command are laid out in lines is the model's choice (assumption 23). -/

namespace Sys2Proof.Machine

open Sys2Proof

/-- A monitor command with its arguments (R629). -/
inductive MonCmd where
  | help | ver | hb | st
  | rd (off count : Nat) | rq (off count : Nat) | wr (off value : Nat) | wq (off value : Nat)
  | fn (f : Nat) | rec_ (count : Nat) | ring | pwr | seal | baud (rate : Nat) | lock
deriving DecidableEq, Repr

/-- Why a line is refused (R628). -/
inductive MonErr where
  | syntax_ | unknown | locked | range | overflow | busy
deriving DecidableEq, Repr

/-- The word of a refusal. -/
def monWord : MonErr → List Nat
  | .syntax_ => asc "syntax" | .unknown => asc "unknown" | .locked => asc "locked" | .range => asc "range"
  | .overflow => asc "overflow" | .busy => asc "busy"

/-- An answer: output lines, then ok or err and one word, then the prompt (R628). -/
def State.monAnswer (s : State) (lines : List (List Nat)) (e : Option MonErr) : State :=
  let last := match e with | none => asc "ok" | some x => spaced [asc "err", monWord x]
  (s.sendUart ((lines ++ [last]).flatMap textLine ++ asc "> ")).pulse 65

/-- A refusal. -/
def State.monRefuse (s : State) (e : MonErr) : State := s.monAnswer [] (some e)

/-- PF0 BAR0 as Tarn reads it (R606, R631). -/
def State.view (s : State) (off w : Nat) : Nat × State := s.busRead .tarn (0x50000000 + off) w

/-- Read registers of `w` bytes, one after another: a line of offset and value each. -/
def State.monRead (s : State) (off w : Nat) : Nat → List (List Nat) × State
  | 0 => ([], s)
  | n + 1 =>
    let r := s.view off w
    let rest := State.monRead r.2 (off + w) w n
    (spaced [hexOut 8 off, hexOut (2 * w) r.1] :: rest.1, rest.2)

/-- Read registers at given offsets and widths, and print their values on one line. -/
def State.monList (s : State) : List (Nat × Nat) → List (List Nat) × State
  | [] => ([], s)
  | (off, w) :: t =>
    let r := s.view off w
    let rest := State.monList r.2 t
    (hexOut (2 * w) r.1 :: rest.1, rest.2)

/-- Answer with the values of registers, a line for each list. -/
def State.monLines (s : State) : List (List (Nat × Nat)) → List (List Nat) × State
  | [] => ([], s)
  | l :: t =>
    let r := s.monList l
    let rest := State.monLines r.2 t
    (spaced r.1 :: rest.1, rest.2)

/-- Answer with lines that reads have given. -/
def answerWith (p : List (List Nat) × State) : State := p.2.monAnswer p.1 none

/-- The commands that answer while the monitor is locked, and all. -/
def monNames (unlocked : Bool) : List Nat :=
  spaced ([asc "help", asc "ver", asc "hb"] ++ if unlocked then [asc "st", asc "rd", asc "rq", asc "wr", asc "wq", asc "fn", asc "rec",
    asc "ring", asc "pwr", asc "seal", asc "baud", asc "lock"] else [])

/-- A command answers while the monitor is locked (R629, R630). -/
def monOpen : MonCmd → Bool
  | .help | .ver | .hb => true
  | _ => false

/-- The rates of R627, in the order listed. -/
def baudRates : List Nat := [115200, 230400, 460800, 921600, 1000000, 1500000, 2000000, 3000000]

/-- An argument is outside its range. -/
def monRange : MonCmd → Bool
  | .rd o n => !(decide (1 ≤ n) && decide (n ≤ 64) && decide (o + 4 * n ≤ 0x4000000))
  | .rq o n => !(decide (1 ≤ n) && decide (n ≤ 64) && decide (o + 8 * n ≤ 0x4000000))
  | .wr o v => !(decide (o < 0x4000000) && decide (v < 2 ^ 32))
  | .wq o v => !(decide (o < 0x4000000) && decide (v < 2 ^ 64))
  | .fn f => !decide (f < 4096)
  | .rec_ n => !(decide (1 ≤ n) && decide (n ≤ 16))
  | .baud r => !baudRates.contains r
  | _ => false

/-- Offsets of the newest reset records, newest first. -/
def State.newestRecords (s : State) (n : Nat) : List Nat :=
  ((List.range n).map fun i => (s.loess.tail + 255 - i) % 256).filter fun k => (tget? s.loess.records k).isSome

/-- The 8-byte words of a range of the view. -/
def wordsAt (off n : Nat) : List (Nat × Nat) := (List.range n).map fun i => (off + 8 * i, 8)

/-- What VER prints: the fields of VX_VERSION and the patch digest's first 8 bytes or none. -/
def State.monVersion (s : State) : State :=
  let r := s.view 0 8
  let v := r.1
  r.2.monAnswer [spaced [hexOut 4 (bits v 63 48), hexOut 2 (bits v 47 40), hexOut 2 (bits v 39 32), hexOut 2 (bits v 31 24),
    hexOut 2 (bits v 23 16), hexOut 2 (bits v 15 8), hexOut 1 (bits v 0 0), s.tarn.patchText]] none

/-- What HB prints: restarts, last, timebase and phase. -/
def State.monHeartbeat (s : State) : State :=
  let h := s.view 0x218 8
  let t := h.2.view 0x8 8
  let p := t.2.view 0x1400000 8
  p.2.monAnswer [spaced [hexOut 4 (bits h.1 63 48), hexOut 12 (bits h.1 47 0), hexOut 16 t.1, hexOut 1 (bits p.1 2 0)]] none

/-- What RING prints for each ring: state, members and position. -/
def State.monRings (s : State) : List Nat → List (List Nat) × State
  | [] => ([], s)
  | k :: t =>
    let r := s.view (0x1000100 + 2 * k * 0x10000) 8
    let rest := State.monRings r.2 t
    (spaced [hexOut 2 k, hexOut 1 (bits r.1 2 0), hexOut 2 (bits r.1 39 32), hexOut 2 (bits r.1 29 24)] :: rest.1, rest.2)

/-- A command that the lock state and its arguments allow. -/
def State.monDo (s : State) (c : MonCmd) : State :=
  match c with
  | .help => s.monAnswer [monNames s.tarn.unlocked] none
  | .ver => s.monVersion
  | .hb => s.monHeartbeat
  | .st => answerWith (s.monLines [[(0x1400000, 8)], [(0x18, 4)], [(0x200, 4)], [(0x204, 4)], [(0x300, 8)]])
  | .rd o n => answerWith (s.monRead o 4 n)
  | .rq o n => answerWith (s.monRead o 8 n)
  | .wr o v => (s.busWrite .tarn (0x50000000 + o) 4 v).monAnswer [] none
  | .wq o v => (s.busWrite .tarn (0x50000000 + o) 8 v).monAnswer [] none
  | .fn f => answerWith (s.monLines [[(shadowAt f, 4), (shadowAt f + 4, 4), (shadowAt f + 0x20, 4), (shadowAt f + 0x44, 4)]])
  | .rec_ n => answerWith (s.monLines ((s.newestRecords n).map fun k => wordsAt (0x10000 + 64 * k) 8))
  | .ring => answerWith (s.monRings (List.range 18))
  | .pwr => answerWith (s.monLines [[(0x300, 8)], [(0x308, 4)], [(0x320, 8)]])
  | .seal => answerWith (s.monLines ((List.range 8).map fun i => wordsAt (0x100 + 32 * i) 4))
  | .baud r =>
    let t := s.monAnswer [] none
    { t with tarn := { t.tarn with baud := idxOf baudRates r } }
  | .lock => ({ s with tarn := { s.tarn with unlocked := false } } : State).monAnswer [] none

/-- A command of the monitor (R629, R630). -/
def State.monitor (s : State) (c : MonCmd) : State :=
  if !s.tarn.unlocked && !monOpen c then s.monRefuse .locked
  else if monRange c then s.monRefuse .range
  else s.monDo c

/-- A row of the table that is a command of the monitor. -/
def State.monRow (s : State) (c : MonCmd) : State := if s.coreRuns then s.monitor c else s

/-- HELP. -/
def execMonHelp (s : State) : Out := .next (s.monRow .help)

/-- VER. -/
def execMonVer (s : State) : Out := .next (s.monRow .ver)

/-- HB. -/
def execMonHb (s : State) : Out := .next (s.monRow .hb)

/-- ST. -/
def execMonSt (s : State) : Out := .next (s.monRow .st)

/-- RD. -/
def execMonRd (off count : Nat) (s : State) : Out := .next (s.monRow (.rd off count))

/-- RQ. -/
def execMonRq (off count : Nat) (s : State) : Out := .next (s.monRow (.rq off count))

/-- WR. -/
def execMonWr (off value : Nat) (s : State) : Out := .next (s.monRow (.wr off value))

/-- WQ. -/
def execMonWq (off value : Nat) (s : State) : Out := .next (s.monRow (.wq off value))

/-- FN. -/
def execMonFn (fn : Nat) (s : State) : Out := .next (s.monRow (.fn fn))

/-- REC. -/
def execMonRec (count : Nat) (s : State) : Out := .next (s.monRow (.rec_ count))

/-- RING. -/
def execMonRing (s : State) : Out := .next (s.monRow .ring)

/-- PWR. -/
def execMonPwr (s : State) : Out := .next (s.monRow .pwr)

/-- SEAL. -/
def execMonSeal (s : State) : Out := .next (s.monRow .seal)

/-- BAUD: the new rate applies after the ok line. -/
def execMonBaud (rate : Nat) (s : State) : Out := .next (s.monRow (.baud rate))

/-- LOCK. -/
def execMonLock (s : State) : Out := .next (s.monRow .lock)

/-! ## The line (R628) -/

/-- Lower case. -/
def lower (c : Nat) : Nat := if 65 ≤ c ∧ c ≤ 90 then c + 32 else c

/-- Split a line into tokens; `cur` is the token under way. -/
def tokens : List Nat → List Nat → List (List Nat)
  | [], cur => if cur.isEmpty then [] else [cur]
  | c :: t, cur => if c = 32 ∨ c = 9 then (if cur.isEmpty then tokens t [] else cur :: tokens t []) else tokens t (cur ++ [lower c])

/-- The value of a digit. -/
def digitOf (c : Nat) : Option Nat :=
  if 48 ≤ c ∧ c ≤ 57 then some (c - 48) else if 97 ≤ c ∧ c ≤ 102 then some (c - 87) else none

/-- Digits in a base, with underscores between them: `after` is that the last character was a digit. -/
def digits (base : Nat) : List Nat → Nat → Bool → Option Nat
  | [], v, after => if after then some v else none
  | c :: t, v, after =>
    if c = 95 then (if after then digits base t v false else none)
    else match digitOf c with
      | some d => if d < base then digits base t (v * base + d) true else none
      | none => none

/-- A number of at most 64 bits: decimal, or 0x and hexadecimal digits. -/
def number (l : List Nat) : Option Nat :=
  let v := match l with
    | 48 :: 120 :: t => digits 16 t 0 false
    | _ => digits 10 l 0 false
  v.filter fun x => decide (x < 2 ^ 64)

/-- Every token is a number. -/
def numbers : List (List Nat) → Option (List Nat)
  | [] => some []
  | x :: t => match number x, numbers t with
    | some v, some l => some (v :: l)
    | _, _ => none

/-- The command that a name and its arguments spell: none where the name is unknown, and an error where its arguments are not those it takes. -/
def monParse (name : List Nat) (args : Option (List Nat)) : Option (Except MonErr MonCmd) :=
  let bare (c : MonCmd) : Except MonErr MonCmd := if args = some [] then .ok c else .error .syntax_
  let one (f : Nat → MonCmd) : Except MonErr MonCmd := match args with | some [a] => .ok (f a) | _ => .error .syntax_
  let two (f : Nat → Nat → MonCmd) : Except MonErr MonCmd := match args with | some [a, b] => .ok (f a b) | _ => .error .syntax_
  let read (f : Nat → Nat → MonCmd) : Except MonErr MonCmd :=
    match args with | some [a] => .ok (f a 1) | some [a, b] => .ok (f a b) | _ => .error .syntax_
  if name = asc "help" then some (bare .help)
  else if name = asc "ver" then some (bare .ver)
  else if name = asc "hb" then some (bare .hb)
  else if name = asc "st" then some (bare .st)
  else if name = asc "rd" then some (read .rd)
  else if name = asc "rq" then some (read .rq)
  else if name = asc "wr" then some (two .wr)
  else if name = asc "wq" then some (two .wq)
  else if name = asc "fn" then some (one .fn)
  else if name = asc "rec" then some (match args with | some [] => .ok (.rec_ 4) | some [a] => .ok (.rec_ a) | _ => .error .syntax_)
  else if name = asc "ring" then some (bare .ring)
  else if name = asc "pwr" then some (bare .pwr)
  else if name = asc "seal" then some (bare .seal)
  else if name = asc "baud" then some (one .baud)
  else if name = asc "lock" then some (bare .lock)
  else none

/-- A name is of a command that answers while locked. -/
def openName (name : List Nat) : Bool := name == asc "help" || name == asc "ver" || name == asc "hb"

/-- Execute a line (R628, R630). -/
def State.monLine (s : State) (l : List Nat) : State :=
  if 80 < l.length then s.monRefuse .overflow
  else match tokens l [] with
    | [] => s.sendUart (asc "> ")
    | name :: args =>
      match monParse name (numbers args) with
      | none => s.monRefuse .unknown
      | some p =>
        if !s.tarn.unlocked && !openName name then s.monRefuse .locked
        else match p with
          | .error e => s.monRefuse e
          | .ok c => s.monitor c

/-- Set the line in progress. -/
def State.setLine (s : State) (l : List Nat) (cr : Bool) : State := { s with tarn := { s.tarn with line := l, lastCr := cr } }

/-- A character arrives while the core runs. -/
def State.monChar (s : State) (c : Nat) : State :=
  let l := s.tarn.line
  if c = 13 ∨ c = 10 then
    (if c = 10 && s.tarn.lastCr then s.setLine l false else (s.setLine [] (c == 13)).monLine l)
  else if c = 8 ∨ c = 127 then
    (if l.isEmpty then s.setLine l false else (s.setLine l.dropLast false).sendUart [8, 32, 8])
  else if c = 3 then s.setLine [] false
  else if c = 9 then s.setLine (l ++ [9]) false
  else if 32 ≤ c ∧ c ≤ 126 then (s.setLine (l ++ [c]) false).sendUart [c]
  else s.setLine l false

/-- UART_CHARACTER: in Freeze or Permafrost its start bit wakes the block and the character is lost (R587, R588, R635). -/
def execUartCharacter (c : Byte) (s : State) : Out :=
  .next (if s.coreRuns then (s.pulse 64).monChar c.toNat else if s.held.isNone then s.startWake .uart else s)

/-- UART_FRAMING_ERROR. -/
def execUartFramingError (s : State) : Out :=
  .next (if s.coreRuns then (s.pulse 66).setLine [] false else if s.held.isNone then s.startWake .uart else s)

end Sys2Proof.Machine
end

