-- ==== Sys2Proof/Machine/Delivery.lean ====
section
/-! DEFINITION. The ends of a wake and of a brownout hold, and the accesses that waited for them (R588, R590, R593, R594). -/

namespace Sys2Proof.Machine

open Sys2Proof

/-- The state a meaning answers. -/
def outState (o : Out) (s : State) : State := match o with | .next t => t | _ => s

/-- Deliver an access that waited at the host port. -/
def deliver (c : Instr) (s : State) : State :=
  match c with
  | .registerWrite sp off w v => outState (execRegisterWrite sp off w v s) s
  | .unmappedAccess sp off w v => outState (execUnmappedAccess sp off w v s) s
  | .splitLowRead sp off => outState (execSplitLowRead sp off s) s
  | .splitLowWrite sp off v => outState (execSplitLowWrite sp off v s) s
  | .splitHighWrite sp off v => outState (execSplitHighWrite sp off v s) s
  | .sqTail d v => outState (execSqTail d v s) s
  | .cqHead d v => outState (execCqHead d v s) s
  | .cqIntMask d v => outState (execCqIntMask d v s) s
  | .msixMaskClear f v => outState (execMsixMaskClear f v s) s
  | .cirqRtReserve v => outState (execCirqRtReserve v s) s
  | .cirqFnQcfg f v => outState (execCirqFnQcfg f v s) s
  | .cirqAdminResume v => outState (execCirqAdminResume v s) s
  | .moraineClear f v => outState (execMoraineClear f v s) s
  | .wplogFlush f v => outState (execWplogFlush f v s) s
  | .crevRetry k => outState (execCrevRetry k s) s
  | .crevAbort k => outState (execCrevAbort k s) s
  | .crevHeadWrite v => outState (execCrevHeadWrite v s) s
  | .snowHostAdd v => outState (execSnowHostAdd v s) s
  | .snowImageCfg i v => outState (execSnowImageCfg i v s) s
  | .snowFnQuota f v => outState (execSnowFnQuota f v s) s
  | .ringJoinRequest k => outState (execRingJoinRequest k s) s
  | .ringReleaseRequest k => outState (execRingReleaseRequest k s) s
  | .adminQueueEnable v => outState (execAdminQueueEnable v s) s
  | .engineResetRequest e => outState (execEngineResetRequest e s) s
  | .computeDomainResetRequest => outState (execComputeDomainResetRequest s) s
  | .resetHeadWrite v => outState (execResetHeadWrite v s) s
  | .doeObject f b => outState (execDoeObject f b s) s
  | .doeAbort f => outState (execDoeAbort f s) s
  | .vfFunctionLevelReset f => outState (execVfFunctionLevelReset f s) s
  | .pf0FunctionLevelReset => outState (execPf0FunctionLevelReset s) s
  | .configurationRequest f a => outState (execConfigurationRequest f a s) s
  | _ => s

/-- Deliver what has waited, in the order of arrival. -/
def State.deliverAll (s : State) : State :=
  s.pwr.delayed.foldl (fun t c => deliver c t) { s with pwr := { s.pwr with delayed := [] } }

/-- PWR_GOOD_RISE: a wake goes on from its step 3, and the packet that caused it is delivered; or a hold by the fall of VX_PWR_GOOD ends, unless
VX_VDD holds the stages too. -/
def execPwrGoodRise (ns : Nat) (s : State) : Out :=
  .next (if !lasts ns || s.pins.pwrGood then s
    else
      let t := { s with pins := { s.pins with pwrGood := true } }
      if s.held.isSome then t
      else if s.pwr.st == .waking then t.endWake.deliverAll
      else if s.pwr.goodHold then
        let u := { t with pwr := { t.pwr with goodHold := false } }
        if s.pwr.brownout then u else u.deliverAll
      else t)

/-- BROWNOUT_HOLD_EXIT: VX_VDD, in mV, has been above 0.61 V for 1 µs; a hold by VX_PWR_GOOD still stands until that is high. -/
def execBrownoutHoldExit (mv : Nat) (s : State) : Out :=
  .next (if !s.pwr.brownout || mv ≤ 610 || s.held.isSome then s
    else
      let t := s.advanceTo (s.now + 1000)
      let u := { t with pwr := { t.pwr with brownout := false } }
      if s.pwr.goodHold then u else u.deliverAll)

end Sys2Proof.Machine
end

