-- ==== Sys2Proof/Machine/Objects.lean ====
section
/-! DEFINITION. The admin commands of keys, contexts, memory and mappings, and the acknowledgement of an invalidation (R158, R167 to R171, R247
to R262, R286, R287, R521). -/

namespace Sys2Proof.Machine

open Sys2Proof

/-- KEY_ASSIGN. -/
def execKeyAssign (r : Nat) (_io : HostIo) (s : State) : Out :=
  .next (s.runAdmin r 0x22 fun t c =>
    match keyRange c.sqe with
    | none => t.report r .invalidField
    | some l =>
      if l.any fun k => (tget? t.kao.slots k).isSome then t.report r .busy
      else (l.foldl (fun u k => u.fillKey k (some (fld c.sqe 32 2))) t).commit r)

/-- KEY_RELEASE. -/
def execKeyRelease (r : Nat) (_io : HostIo) (s : State) : Out :=
  .next (s.runAdmin r 0x23 fun t c =>
    match keyRange c.sqe with
    | none => t.report r .invalidField
    | some l =>
      if l.any fun k => !t.ownsKey (fld c.sqe 32 2) k then t.report r .invalidField
      else if l.any t.keyUsed then t.report r .busy
      else (l.foldl State.dropKey t).commit r)

/-- The image is one that a context may be bound to: it has a version (R293). -/
def State.imageReady (s : State) (i : Nat) : Bool := match tget? s.firn.images i with | some x => decide (3 ≤ x.state) | none => false

/-- CTX_CREATE (R171, R387, R390, R541, R638). -/
def execCtxCreate (r : Nat) (io : HostIo) (s : State) : Out :=
  .next (s.runAdmin r 0x28 fun t c =>
    let mask := fld c.sqe 32 4
    let img := fld c.sqe 36 4
    let x : Ctx := { fn := c.fn, clusters := mask, image := img, prio := fld c.sqe 40 1 }
    let id := tfree t.ctxs 1
    match firstSome [
      failIf (decide (15 < x.prio) || img == 0 || decide (63 < img)) .invalidField,
      failIf (!t.imageReady img) .invalidImage,
      failIf (mask == 0 || x.clusterList.any fun u => !bit (t.fn c.fn).clusters u || (t.eng (seracEngine u)).fenced) .notPermitted,
      failIf (decide (65535 < id)) .noContextId,
      failIf (decide (262144 < t.slotStates + x.clusterList.length)) .outOfMemory ] with
    | some st => t.report r st
    | none => t.answer r c io (leBytes 2 id) fun u => ({ u with ctxs := tset u.ctxs id { x with backing := u.takeSlotStates x.clusterList.length } } : State))

/-- CTX_DESTROY (R171). -/
def execCtxDestroy (r : Nat) (_io : HostIo) (s : State) : Out :=
  .next (match s.adminCmd r 0x29 with
    | none => s
    | some c0 =>
      if s.invalWaits c0.fn (fld c0.sqe 32 2) then s
      else s.runAdmin r 0x29 fun t c =>
        let x := fld c.sqe 32 2
        match t.ctxOf c.fn x with
        | none => t.report r .invalidContext
        | some y => if y.pool ≠ 0 ∨ t.ctxBusy x then t.report r .busy else (t.destroyCtx x).commit r)

/-- CTX_RESET (R521, R522): it completes when the context reset does. -/
def execCtxReset (r : Nat) (_io : HostIo) (s : State) : Out :=
  .next (s.runAdmin r 0x2A fun t c =>
    let x := fld c.sqe 32 2
    if (t.ctxOf c.fn x).isNone then t.report r .invalidContext else ((t.handOver r).contextReset x 2 0 none (some r)).settle)

/-- The parameters of MEM_ALLOC are in range (R167 to R169). -/
def allocParamsOk (b : Blob) (vx1 : Bool) : Bool :=
  let size := fld b 32 8
  decide (0 < size) && size % frameBytes == 0 && (vx1 || decide (fld b 40 1 < 4)) && (fld b 41 1 == 0 || fld b 41 1 == 2) &&
    (fld b 41 1 != 2 || fld b 42 2 == 0) && (if vx1 then admDataLen b == 0 else fld b 40 1 != 2 || admDataLen b == 8 * (size / frameBytes))

/-- Take the frames of a placement, with what Varve needs for them. -/
def State.takePlaced (s : State) (e : Fkt) (l : List (Nat × List Nat)) : Option State :=
  l.foldl (fun o p => o.bind fun t => t.takeFrames p.1 e p.2) (some s)

/-- The frames that an allocation in device memory takes, and the state once they are taken: a tier with them (R168), or for VX1 placement as many as
HBM holds, with the metadata that Varve needs for them, and the rest in the board tier (R281). -/
def State.placeAlloc (s : State) (vx1 : Bool) (tier n : Nat) (asked : List Nat) (e : Fkt) : Option (List (Nat × List Nat) × State) :=
  if vx1 then
    let m := min n (s.freeFrames 0)
    (List.range (m + 1)).findSome? fun i =>
      let h := m - i
      match s.chooseFrames 0 h (asked.take h), s.chooseFrames 1 (n - h) (asked.drop h) with
      | some a, some b => (s.takePlaced e [(0, a), (1, b)]).map fun t => ([(0, a), (1, b)], t)
      | _, _ => none
  else
    let t := if tier = 3 then (if n ≤ s.freeFrames 0 then 0 else 1) else tier
    (s.chooseFrames t n asked).bind fun l => (s.takePlaced e [(t, l)]).map fun u => ([(t, l)], u)

/-- Enter an allocation and answer with its ID. -/
def State.giveAlloc (s t : State) (r : Nat) (c : Cmd) (io : HostIo) (frames : List (Nat × Nat)) : State :=
  let id := tfree s.allocs 1
  let a : Alloc := { fn := c.fn, size := fld c.sqe 32 8, tier := (frames.map (·.1)).foldl max 0, prot := fld c.sqe 41 1, key := fld c.sqe 42 2, frames := frames }
  s.answer r c io (leBytes 4 id) fun u =>
    let v : State := { t with ports := u.ports, allocs := tset u.allocs id a, fns := u.fns, cmds := u.cmds }
    v.updFn c.fn fun f => { f with vx1Frames := f.vx1Frames ++ (frames.filter (·.1 == 0)).map (·.2) }

/-- MEM_ALLOC in device memory. -/
def State.allocDevice (s : State) (r : Nat) (c : Cmd) (io : HostIo) (asked : List Nat) : State :=
  let vx1 := (s.fn c.fn).vx1
  let e : Fkt := { prot := fld c.sqe 41 1, key := fld c.sqe 42 2, fn := c.fn, alloc := tfree s.allocs 1 }
  match s.placeAlloc vx1 (fld c.sqe 40 1) (fld c.sqe 32 8 / frameBytes) asked e with
  | none => s.report r .outOfMemory
  | some (l, t) => s.giveAlloc t r c io (l.flatMap fun p => p.2.map fun f => (p.1, f))

/-- MEM_ALLOC in host memory (R242). -/
def State.allocHost (s : State) (r : Nat) (c : Cmd) (io : HostIo) (asked : List Nat) : State :=
  s.withData r c io (admDataLen c.sqe) fun t b =>
    let n := fld c.sqe 32 8 / frameBytes
    let addrs := (chunks 8 n b).map leVal
    let e : Fkt := { prot := fld c.sqe 41 1, key := fld c.sqe 42 2, fn := c.fn, alloc := tfree t.allocs 1 }
    if addrs.any fun a => a % frameBytes != 0 then t.report r .invalidField
    else match t.chooseChunks n asked with
      | none => t.report r .outOfMemory
      | some l => match t.takeChunks e (l.zip addrs) with
        | none => t.report r .outOfMemory
        | some u => t.giveAlloc u r c io (l.map fun k => (2, k))

/-- MEM_ALLOC (R168, R169, R276, R281): `frames` is the placement where it is a legal one. -/
def execMemAlloc (r : Nat) (io : HostIo) (frames : List Nat) (s : State) : Out :=
  .next (s.runAdmin r 0x30 fun t c =>
    let vx1 := (t.fn c.fn).vx1
    if !allocParamsOk c.sqe vx1 then t.report r .invalidField
    else if fld c.sqe 41 1 = 0 && !t.ownsKey c.fn (fld c.sqe 42 2) then t.report r .keyUnavailable
    else if !vx1 && fld c.sqe 40 1 == 2 then t.allocHost r c io frames else t.allocDevice r c io frames)

/-- MEM_FREE (R170, R346). -/
def execMemFree (r : Nat) (_io : HostIo) (s : State) : Out :=
  .next (s.runAdmin r 0x31 fun t c =>
    let a := fld c.sqe 32 4
    if (t.allocOf c.fn a).isNone then t.report r .invalidField
    else if t.allocMapped a || t.allocOfVariant a then t.report r .busy
    else (t.freeAlloc a).commit r)

/-- A range of a context's address space is in range and aligned. -/
def rangeOk (va len align : Nat) : Bool := decide (0 < len) && decide (va + len ≤ 2 ^ 48) && va % align == 0 && len % align == 0

/-- MAP (R170, R247 to R250, R265, R346). -/
def execMapRange (r : Nat) (_io : HostIo) (s : State) : Out :=
  .next (match s.adminCmd r 0x32 with
    | none => s
    | some c0 =>
      if s.invalWaits c0.fn (fld c0.sqe 32 2) then s
      else s.runAdmin r 0x32 fun t c =>
        let b := c.sqe
        let size := fld b 35 1
        let va := fld b 40 8
        let off := fld b 48 8
        let len := fld b 56 8
        if decide (2 < size) || !rangeOk va len (pageBytes size) || off % pageBytes size != 0 then t.report r .invalidField
        else match t.ctxOf c.fn (fld b 32 2), t.allocOf c.fn (fld b 36 4) with
          | none, _ => t.report r .invalidContext
          | _, none => t.report r .invalidField
          | some x, some a =>
            if a.size < off + len then t.report r .invalidField
            else if t.allocOfVariant (fld b 36 4) || decide (topEpoch ≤ x.epoch) then t.report r .busy
            else
              let ls := mapLeaves x.leaves (a.leaves (fld b 36 4) t.nodeId (fld b 34 1) size va off len) va (va + len)
              if !t.tablesFit x ls then t.report r .outOfMemory else t.writeTables r (fld b 32 2) ls va (va + len) true)

/-- UNMAP (R170, R247, R257, R265). -/
def execUnmapRange (r : Nat) (_io : HostIo) (s : State) : Out :=
  .next (match s.adminCmd r 0x33 with
    | none => s
    | some c0 =>
      if s.invalWaits c0.fn (fld c0.sqe 32 2) then s
      else s.runAdmin r 0x33 fun t c =>
        let va := fld c.sqe 40 8
        let len := fld c.sqe 48 8
        if !rangeOk va len 4096 then t.report r .invalidField
        else match t.ctxOf c.fn (fld c.sqe 32 2) with
          | none => t.report r .invalidContext
          | some x =>
            if topEpoch ≤ x.epoch then t.report r .busy
            else t.writeTables r (fld c.sqe 32 2) (unmapLeaves x.leaves va (va + len)) va (va + len) false)

/-- MEM_SHARE (R286). -/
def execMemShare (r : Nat) (io : HostIo) (s : State) : Out :=
  .next (s.runAdmin r 0x34 fun t c =>
    let id := fld c.sqe 32 4
    match t.allocOf c.fn id with
    | none => t.report r .invalidField
    | some a =>
      let n := a.frames.length
      if admDataLen c.sqe < 8 * n then t.failWith r c io (leBytes 4 n) .invalidField
      else if admDataAddr c.sqe = 0 ∨ a.tier = 2 ∨ a.prot ≠ 0 ∨ (t.fn c.fn).vx1 then t.report r .invalidField
      else if t.allocOfVariant id then t.report r .busy
      else
        let data := a.frames.flatMap fun f => leBytes 8 (dpaOf a.key t.nodeId f.1 (f.2 * frameBytes))
        (t.hostWrite c.fn (admDataAddr c.sqe) data).answer r c io (leBytes 4 n) fun u =>
          ({ u with allocs := tset u.allocs id { a with shared := true } } : State))

/-- The first entry of a MAP_REMOTE's list that breaks a rule, and its status (R287). -/
def State.checkRemoteList (s : State) (f : Nat) (l : List Nat) : Option Status :=
  l.findSome? fun d =>
    if dpaNode d = s.nodeId ∨ 1 < dpaTier d ∨ dpaOffset d % frameBytes ≠ 0 then some .invalidField
    else if !s.ownsKey f (dpaKey d) then some .keyUnavailable else none

/-- MAP_REMOTE (R287). -/
def execMapRemote (r : Nat) (io : HostIo) (s : State) : Out :=
  .next (match s.adminCmd r 0x35 with
    | none => s
    | some c0 =>
      if s.invalWaits c0.fn (fld c0.sqe 32 2) then s
      else s.runAdmin r 0x35 fun t c =>
        let b := c.sqe
        let va := fld b 40 8
        let n := admDataLen b / 8
        if admDataLen b % 8 ≠ 0 || !rangeOk va (n * frameBytes) frameBytes || decide (3 < fld b 34 1) then t.report r .invalidField
        else match t.ctxOf c.fn (fld b 32 2) with
          | none => t.report r .invalidContext
          | some x =>
            if topEpoch ≤ x.epoch then t.report r .busy
            else t.withData r c io (8 * n) fun u d =>
              let l := (chunks 8 n d).map leVal
              match u.checkRemoteList c.fn l with
              | some st => u.report r st
              | none =>
                let new := l.zipIdx.map fun e =>
                  { va := va + e.2 * frameBytes, size := 1, node := dpaNode e.1, tier := dpaTier e.1, offset := dpaOffset e.1, key := dpaKey e.1,
                    prot := 0, rd := bit (fld b 34 1) 0, wr := bit (fld b 34 1) 1, atomic := false, alloc := 0 : Leaf }
                let ls := mapLeaves x.leaves new va (va + n * frameBytes)
                if !u.tablesFit x ls then u.report r .outOfMemory else u.writeTables r (fld b 32 2) ls va (va + n * frameBytes) true)

/-- INVALIDATION_ACK (R260 to R262): a Serac unit waits for its overlapping tiles; the last acknowledgement ends the invalidation. -/
def execInvalidationAck (inv engine : Nat) (s : State) : Out :=
  .next (match s.esk.invals.find? (·.id == inv) with
    | none => s
    | some i =>
      if !s.stagesRun || !invalEngines.contains engine || i.acked.contains engine || (s.eng engine).rst.isSome ||
          (engine / 256 == 1 && s.tileInRange (engine % 256) i) then s
      else
        let s1 := s.ackEffect engine i
        let i1 := { i with acked := engine :: i.acked }
        if invalEngines.all i1.acked.contains then s1.invalDone i1
        else { s1 with esk := { s1.esk with invals := s1.esk.invals.map fun x => if x.id = inv then i1 else x } })

end Sys2Proof.Machine
end

