-- ==== Sys2Proof/Machine/VarOps.lean ====
section
/-! DEFINITION. Variant descriptors, wrapped adapters, and what registering, updating and sealing a variant do (R343 to R357, R463 to
R465). -/

namespace Sys2Proof.Machine

open Sys2Proof

/-! ## Descriptors -/

/-- A variant descriptor (R343, R344). -/
structure VarDesc where
  trainable : Bool
  reset : Bool
  inHost : Bool
  alloc : Nat
  addr : Nat
  len : Nat
  saveBytes : Nat
  entries : List VarEntry
deriving DecidableEq, Repr

/-- Read a descriptor: none where it is not valid. `layers` is the image's layer count. -/
def varDesc (b : Blob) (len layers : Nat) (update : Bool) : Option VarDesc :=
  let n := fld b 16 2
  let flags := fld b 8 4
  let d : VarDesc :=
    { trainable := bit flags 0, reset := bit flags 1, inHost := bit flags 2, alloc := fld b 20 4, addr := fld b 24 8, len := fld b 32 8
      saveBytes := fld b 40 8, entries := (tableAt b 64 32 n).map varEntry }
  if len < 64 ∨ fld b 0 4 ≠ 0x44565856 ∨ fld b 4 2 ≠ 1 ∨ fld b 6 2 ≠ 0 ∨ 8 ≤ flags ∨ fld b 12 4 ≠ 0 ∨ n = 0 ∨ 8192 < n ∨ fld b 18 2 ≠ 0 ∨
      zeroAt b 48 16 = false ∨ len < 64 + 32 * n ∨ d.addr % 512 ≠ 0 ∨ d.saveBytes % 512 ≠ 0 ∨ (d.trainable = false ∧ d.saveBytes ≠ 0) ∨
      (d.reset = true ∧ update = false) ∨ d.entries.all (fun e => e.ok d.trainable layers) = false ∨ entriesOrdered d.entries = false ∨
      2147483648 < adapterBytes d.entries then none
  else some d

/-- An update's entry matches the registered one (R354). -/
def VarEntry.same (a b : VarEntry) : Bool :=
  a.layer == b.layer && a.site == b.site && a.attention == b.attention && a.kinds == b.kinds && a.dimIn == b.dimIn && a.dimOut == b.dimOut &&
    a.rank == b.rank && a.kvHeads == b.kvHeads

/-- The layer count of an image's current version; an image without one sets no bound. -/
def State.layersOf (s : State) (img : Nat) : Nat :=
  match s.imgVer img (s.image img).current with
  | some v => v.layers
  | none => 2 ^ 32

/-! ## The wrapped adapter (R463 to R465) -/

/-- HKDF-SHA-384 with an empty salt, up to 48 bytes (RFC 5869). -/
def hkdf384 (secret info : Blob) (n : Nat) : Blob := (hmac384 (hmac384 (zeros 48) secret) (info ++ [1])).take n

/-- The bytes of a text. -/
def textBytes (t : String) : Blob := (asc t).map (BitVec.ofNat 8)

/-- The wrap key and the unseal key of a tenant record. -/
def Tenant.wrapKey (x : Tenant) : Blob := hkdf384 (leBytes 32 x.root) (textBytes "VX2 wrap") 32

def Tenant.unsealKey (x : Tenant) : Blob := hkdf384 (leBytes 32 x.root) (textBytes "VX2 unseal") 48

/-- Unwrap an adapter for a key ID and an image, with the clear length that the descriptor needs (R347, R465). -/
def State.unwrap (s : State) (key img need : Nat) (b : Blob) : Except Status Blob :=
  match (s.key key).tenant with
  | none => .error .keyUnavailable
  | some x =>
    let digest := slice b 80 48
    if b.length < 144 ∨ fld b 0 4 ≠ 0x41575856 ∨ fld b 4 4 ≠ 1 ∨ fld b 8 8 ≠ 0 ∨ fld b 18 2 ≠ 0 ∨ zeroAt b 40 40 = false ∨
        b.length ≠ 144 + fld b 20 8 ∨ fld b 20 8 ≠ need then .error .invalidField
    else if fld b 16 2 ≠ key ∨ (digest ≠ zeros 48 ∧ digest ≠ s.imageDigest img (s.image img).current) then .error .authFailed
    else match gcmOpen x.wrapKey (slice b 28 12) (b.take 128) (b.drop 128) with
      | some c => .ok c
      | none => .error .authFailed

/-! ## Registration -/

/-- An allocation's contents are left undefined (R348). -/
def State.scramble (s : State) (a : Alloc) : State := { s with mem := a.write s.mem 0 (freeBytes s.free a.size) }.drawn

/-- Check VAR_REGISTER's allocation (R345). -/
def State.storageCheck (s : State) (f id key need : Nat) : Option Status :=
  match s.allocOf f id with
  | none => some .invalidField
  | some a =>
    if a.prot ≠ 0 ∨ a.key ≠ key ∨ a.size < need ∨ s.allocOfVariant id = true then some .invalidField
    else if s.allocMapped id || a.shared then some .busy
    else none

/-- Write an adapter's components and zero the moments, gradients and save area, for a command (R347, R348). -/
def State.loadAdapter (s : State) (r : Nat) (c : Cmd) (a : Alloc) (v : Variant) (clear : Blob) : State :=
  let q := a.req s.nodeId r c
  (writeAdapter a q (v.layout.1.filter (·.part == 0)) clear s).zeroTraining a q v.layout v.saveBytes false

/-- Register a variant from its clear adapter: it exists once its result is confirmed (R152, R348). -/
def State.register (s : State) (r : Nat) (c : Cmd) (io : HostIo) (d : VarDesc) (a : Alloc) (key img : Nat) (clear : Blob) : State :=
  let id := tfree s.silt.variants 1
  if 65536 < id then (s.scramble a).report r .variantLimit
  else
    let v : Variant :=
      { fn := c.fn, image := img, key := key, alloc := d.alloc, trainable := d.trainable, saveBytes := d.saveBytes, entries := d.entries }
    if io.write = .ok then
      let s1 := s.loadAdapter r c a v clear
      s1.answer r c io (leBytes 4 id) fun t =>
        ({ t with silt := { t.silt with variants := tset t.silt.variants id { v with digest := t.variantDigest v } } } : State)
    else (s.scramble a).answer r c io (leBytes 4 id) id_
where
  id_ (s : State) : State := s

/-- The pages of a wrapped adapter in device memory: it may be read where every page is mapped with read rights. -/
def adapterCheck (x : Ctx) (va len : Nat) : Option Status :=
  if x.badAt va len then some .memoryUncorrectable
  else if (translate x.leaves va len).any fun g => match g with | .hit l _ _ => !l.rd | .hole _ _ => true then some .rightsViolation
  else none

/-- Unwrap and register, once the wrapped adapter's bytes are there. -/
def State.unwrapAndRegister (s : State) (r : Nat) (c : Cmd) (io : HostIo) (d : VarDesc) (a : Alloc) (b : Blob) : State :=
  let key := fld c.sqe 34 2
  let img := fld c.sqe 36 4
  match s.unwrap key img (adapterBytes d.entries) b with
  | .error st => (s.scramble a).report r st
  | .ok clear => s.register r c io d a key img clear

/-! ## Update -/

/-- Silt discards every cached slice of a variant (R355). -/
def State.dropSlices (s : State) (v : Nat) : State :=
  { s with silt := { s.silt with engines := tmap s.silt.engines fun _ e =>
      { e with slices := e.slices.filter (·.variant != v), fetches := e.fetches.filter (·.variant != v)
               inters := e.inters.filter (·.band.variant != v) } } }

/-- A descriptor is a valid update of a variant (R354, R355). -/
def State.updateOk (s : State) (v : Variant) (d : VarDesc) : Bool :=
  d.entries.length == v.entries.length && (d.entries.zip v.entries).all (fun e => e.1.same e.2) && d.alloc == v.alloc &&
    (match tget? s.allocs v.alloc with | some a => decide ((layoutOf d.entries d.trainable d.saveBytes).2.2 ≤ a.size) | none => false) &&
    (d.len == 0 || d.inHost)

/-- An update commits in one step (R349, R355): the revision goes up, the digest is recomputed, and cached slices are discarded. -/
def State.commitUpdate (s : State) (r id : Nat) (c : Cmd) (v : Variant) (d : VarDesc) (clear : Option Blob) : State :=
  match tget? s.allocs v.alloc with
  | none => s
  | some a =>
    let zero := d.reset || (d.trainable && !v.trainable)
    let v1 : Variant := { v with
      trainable := d.trainable, saveBytes := d.saveBytes, rev := nextRevision v.rev, digestRev := nextRevision v.rev
      steps := if zero then 0 else v.steps, torn := v.torn && clear.isNone, changer := none
      entries := d.entries, bad := if clear.isNone then v.bad else [] }
    let q := a.req s.nodeId r c
    let s0 := match clear with | some b => writeAdapter a q (v1.layout.1.filter (·.part == 0)) b s | none => s
    let s1 := if zero then s0.zeroTraining a q v1.layout 0 false else s0
    ({ s1 with silt := { s1.silt with variants := tset s1.silt.variants id { v1 with digest := s1.variantDigest v1 } } } : State).dropSlices id

/-- Clear the mark that a variant is being changed. -/
def State.unchange (s : State) (id : Nat) : State :=
  { s with silt := { s.silt with variants := tmod s.silt.variants id fun v => { v with changer := none } } }

/-- Execute a VAR_UPDATE that waits for nothing (R353 to R355). -/
def State.runUpdate (s : State) (r id : Nat) (c : Cmd) (io : HostIo) (v : Variant) : State :=
  s.withData r c io (admDataLen c.sqe) fun t b =>
    match varDesc b (admDataLen c.sqe) (t.layersOf v.image) true with
    | none => t.report r .invalidField
    | some d =>
      if !t.updateOk v d then t.report r .invalidField
      else if d.len = 0 then
        if v.torn then t.report r .invalidVariant else (t.commitUpdate r id c v d none).commit r
      else
        let t1 := t.hostRead c.fn d.addr d.len
        match t1.unwrap v.key v.image (adapterBytes d.entries) (padTo d.len (io.data.drop (admDataLen c.sqe))) with
        | .error st => t1.report r st
        | .ok clear => (t1.commitUpdate r id c v d (some clear)).commit r

/-- Execute a VAR_DROP that waits for nothing (R356); seals that wait for the variant find it gone. -/
def State.runDrop (s : State) (r id : Nat) (v : Variant) : State :=
  (v.sealCmds.foldl (fun t k => t.report k .invalidVariant) (s.dropVariant id)).commit r

/-- A VAR_UPDATE or VAR_DROP begins: it executes, waits with its wait bit set, or fails BUSY while an accepted command names the variant
(R174). -/
def State.changeOrWait (s : State) (r id : Nat) (c : Cmd) (run : State → State) : State :=
  if s.variantUsed id (fun _ => true) then
    if bit (fld c.sqe 36 1) 0 then
      ({ s with silt := { s.silt with variants := tmod s.silt.variants id fun v => { v with changer := some r } } } : State).park r
    else s.report r .busy
  else run s

/-- The token that unseals a variant verifies (R353). -/
def State.tokenOk (s : State) (id : Nat) (v : Variant) (b : Blob) : Bool :=
  match (s.key v.key).tenant with
  | none => false
  | some x => fld b 0 4 == id && decide (v.unsealSeq < fld b 8 8) && slice b 16 32 == (hmac384 x.unsealKey (b.take 16 ++ v.digest)).take 32

end Sys2Proof.Machine
end

