-- ==== Sys2Proof/Machine/Stores.lean ====
section
/-! DEFINITION. Stored graphs, receipts and checkpoints, and equal-treatment pools (R178 to R194, R502 to R506). -/

namespace Sys2Proof.Machine

open Sys2Proof

/-! ## Graphs -/

/-- A new graph in a list of stored graphs. -/
def newGraph (f kind index cap : Nat) (nodes : List Node) : Graph :=
  { fn := f, kind := kind, index := index, cap := cap, versions := [(1, nodes)] }

/-- GRAPH_STORE (R149, R178 to R181, R394, R638): the header is judged whole before its capability (DESIGN CHOICE, assumption 96), and the index before
the storage (DESIGN CHOICE, assumption 181). -/
def execGraphStore (r : Nat) (io : HostIo) (s : State) : Out :=
  .next (s.runAdmin r 0x48 fun t c =>
    let kind := fld c.sqe 32 1
    if 1 < kind then t.report r .invalidField
    else t.withData r c io (admDataLen c.sqe) fun u b =>
      if !imageHeadOk b kind then u.report r .invalidField
      else if !u.capPresent (fld b 12 4) then u.report r .capabilityMismatch
      else match u.imageNodes b with
        | none => u.report r .invalidField
        | some nodes =>
          let used := (u.graphs.filter (·.fn == c.fn)).map (·.index)
          let ix := freeIndex used used.length 1
          let g := newGraph c.fn kind ix (fld b 12 4) nodes
          if 16383 < ix then u.report r .noHandle
          else if u.storeBytes < storeUsed (g :: u.graphs) then u.report r .outOfMemory
          else u.answer r c io (leBytes 4 g.handle ++ leBytes 2 1) fun w => { w with graphs := w.graphs ++ [g] })

/-- GRAPH_PATCH (R181, R182, R185 to R187). The number passes over those of versions that a command still pins (DESIGN CHOICE, assumption 152). -/
def execGraphPatch (r : Nat) (io : HostIo) (s : State) : Out :=
  .next (s.runAdmin r 0x49 fun t c =>
    match t.graphOf c.fn (fld c.sqe 32 4) with
    | none => t.report r .invalidHandle
    | some g =>
      if fld c.sqe 36 2 ≠ g.current then t.report r .versionConflict
      else if 4 ≤ g.live then t.report r .busy
      else t.withData r c io (admDataLen c.sqe) fun u b =>
        if !imageHeadOk b 2 || fld b 12 4 != g.cap then u.report r .invalidField
        else match (u.imageNodes b).bind (patchNodes g.nodes) with
          | none => u.report r .invalidField
          | some nodes =>
            let v := freshVersion (tkeys g.versions) g.versions.length g.current
            let g1 := { g with versions := tset g.versions v nodes }
            if u.storeBytes < storeUsed (u.graphs.map fun x => if x.fn = g.fn ∧ x.index = g.index then g1 else x) then
              u.report r .outOfMemory
            else u.answer r c io (leBytes 2 v) fun w => w.addVersion g v nodes)

/-- GRAPH_FREE (R188). -/
def execGraphFree (r : Nat) (_io : HostIo) (s : State) : Out :=
  .next (s.runAdmin r 0x4A fun t c =>
    match t.graphOf c.fn (fld c.sqe 32 4) with
    | none => t.report r .invalidHandle
    | some g =>
      (({ t with graphs := t.graphs.map fun x => if x.fn = g.fn ∧ x.index = g.index then { x with retired := true } else x } : State).pruneGraphs).commit r)

/-! ## Receipts and checkpoints -/

/-- RCPT_READ (R156, R505). -/
def execRcptRead (r : Nat) (io : HostIo) (s : State) : Out :=
  .next (s.runAdmin r 0x50 fun t c =>
    let count := fld c.sqe 40 4
    match namedFn c (fld c.sqe 44 2) with
    | none => t.report r .invalidField
    | some f =>
      if admDataAddr c.sqe = 0 ∨ count = 0 ∨ 65536 < count ∨ admDataLen c.sqe < count * 256 then t.report r .invalidField
      else
        let l := ((t.heldReceipts f).filter fun x => decide (fld c.sqe 32 8 ≤ x.1)).take count
        let t1 := if l.isEmpty then t else t.hostWrite c.fn (admDataAddr c.sqe) (l.flatMap (·.2))
        t1.answer r c io (leBytes 4 l.length ++ zeros 4 ++ leBytes 8 (t.head f).seq) id)

/-- CKPT_REQUEST (R156, R503): Ledger queues the checkpoint, and the command waits for its signing. -/
def execCkptRequest (r : Nat) (_io : HostIo) (s : State) : Out :=
  .next (s.runAdmin r 0x51 fun t c =>
    match namedFn c (fld c.sqe 32 2) with
    | none => t.report r .invalidField
    | some f =>
      if admDataAddr c.sqe = 0 ∨ admDataLen c.sqe < 256 then t.report r .invalidField
      else if t.ledg.queue.any fun x => x.fn == f && bit x.flags 0 then t.report r .busy
      else ({ t.pulse 44 with ledg := { t.ledg with queue := t.ledg.queue ++ [t.ckptNow f 1 (some r)] } } : State).handOver r)

/-- Store a signed checkpoint (R502, R507, R513): the head entry takes its sequence number; LEDG_CKPT shows a periodic or an export one as its
function's last, and the region keeps a periodic one. -/
def State.storeCkpt (s : State) (c : Ckpt) : State :=
  let b := s.ckptBytes c
  let s1 := ({ s with ledg := { s.ledg with
    heads := tupd s.ledg.heads {} c.fn fun h => { h with ckpt := c.seq }
    ckpts := if bit c.flags 2 || bit c.flags 1 then tset s.ledg.ckpts c.fn b else s.ledg.ckpts } } : State).persistPut (headAt c.fn + 56) (leBytes 8 c.seq)
  if bit c.flags 2 then (s1.persistPut (ckptAt c.fn) b).postEvent 0 .checkpointWritten (c.fn * 65536 + bits c.seq 27 12) else s1

/-- CHECKPOINT_SIGNED (R152, R502 to R504, R620): the signer finishes the first checkpoint of the queue, with its interrupt. One that a command asked for is stored once
the command's result block is confirmed. -/
def execCheckpointSigned (io : HostIo) (s : State) : Out :=
  .next (match s.ledg.queue with
    | [] => s
    | c :: rest =>
      if !s.tarnRuns || s.pwr.cut then s
      else
        let k := { c with prev := (s.head c.fn).ckpt }
        let s1 := ({ s with ledg := { s.ledg with queue := rest } } : State).pulse 25
        match c.cmd.bind fun r => (tget? s.cmds r).map fun m => (r, m) with
        | none => s1.storeCkpt k
        | some (r, m) => (s1.hostWrite m.fn (admDataAddr m.sqe) (s1.ckptBytes k)).answer r m io (leBytes 8 k.seq) fun u => u.storeCkpt k)

/-! ## Pools -/

/-- POOL_CREATE (R149, R154, R190). A variant whose image has no current version, which the rules give no status of its own, ends it
INVALID_FIELD before the seal is judged (DESIGN CHOICE, assumption 150). -/
def execPoolCreate (r : Nat) (io : HostIo) (s : State) : Out :=
  .next (s.runAdmin r 0x58 fun t c =>
    let arith := fld c.sqe 36 4
    let cls := fld c.sqe 44 1
    let vid := fld c.sqe 32 4
    let id := tfree t.pools 1
    if !arithFieldsOk arith || !arithFormatsOk arith || decide (2 < cls) then t.report r .invalidField
    else match t.variantOfFn c.fn vid with
      | none => t.report r .invalidVariant
      | some v =>
        if v.torn then t.report r .invalidVariant
        else if (t.image v.image).current = 0 then t.report r .invalidField
        else if !v.sealed then t.report r .variantNotSealed
        else if 1023 < id then t.report r .noPoolId
        else
          let ver := (t.image v.image).current
          let p : Pool :=
            { fn := c.fn, variant := vid, image := v.image, imageVer := ver, arith := arith, quantumUs := fld c.sqe 40 4, cls := cls }
          t.answer r c io (leBytes 2 id ++ leBytes 2 ver) fun u => { u with pools := tset u.pools id p })

/-- A member of a pool runs on clusters of another fwd_format than a context's: their receipts would differ (R512, DESIGN CHOICE, assumption 184). -/
def State.formatClash (s : State) (p : Nat) (z : Ctx) : Bool := tany s.ctxs fun _ y => y.pool == p && s.ctxFormat y 5 != s.ctxFormat z 5

/-- POOL_JOIN (R192, R512, R638). A context that is a member of a pool already gives BUSY (DESIGN CHOICE, assumption 151). -/
def execPoolJoin (r : Nat) (_io : HostIo) (s : State) : Out :=
  .next (s.runAdmin r 0x59 fun t c =>
    let p := fld c.sqe 32 2
    let x := fld c.sqe 34 2
    match t.poolOf c.fn p, t.ctxOf c.fn x with
    | none, _ => t.report r .invalidPool
    | _, none => t.report r .invalidContext
    | some y, some z =>
      if z.image ≠ y.image ∨ t.formatClash p z = true then t.report r .poolConfigMismatch
      else if t.ctxBusy x || z.pool != 0 then t.report r .busy
      else (t.modCtx x fun k => { k with pool := p }).commit r)

/-- POOL_LEAVE (R192). A context that is not in the pool named gives INVALID_CONTEXT (DESIGN CHOICE, assumption 151). -/
def execPoolLeave (r : Nat) (_io : HostIo) (s : State) : Out :=
  .next (s.runAdmin r 0x5A fun t c =>
    let p := fld c.sqe 32 2
    let x := fld c.sqe 34 2
    match t.poolOf c.fn p, t.ctxOf c.fn x with
    | none, _ => t.report r .invalidPool
    | _, none => t.report r .invalidContext
    | some _, some z =>
      if z.pool ≠ p then t.report r .invalidContext
      else if t.ctxBusy x then t.report r .busy
      else (t.modCtx x fun k => { k with pool := 0 }).commit r)

/-- POOL_DESTROY (R190, R192, R194): the pin of its image version ends. -/
def execPoolDestroy (r : Nat) (_io : HostIo) (s : State) : Out :=
  .next (s.runAdmin r 0x5B fun t c =>
    let p := fld c.sqe 32 2
    match t.poolOf c.fn p with
    | none => t.report r .invalidPool
    | some _ =>
      if tany t.ctxs fun _ z => z.pool == p then t.report r .busy
      else (({ t with pools := tdel t.pools p } : State).pruneImages).commit r)

end Sys2Proof.Machine
end

