-- ==== Sys2Proof/Machine/Turns.lean ====
section
/-! DEFINITION. Turns, switches and residency, and the weight stream, as commands (R320 to R329, R401 to R420). -/

namespace Sys2Proof.Machine

open Sys2Proof

/-- TURN_GRANT: at the start of a frame the unit first adopts a staged change, then it grants the next turn (R220, R401). -/
def execTurnGrant (u : Nat) (s : State) : Out :=
  .next (
    let y := s.unit u
    if !s.stagesRun || !s.unitOk u || y.turn.isSome || y.restore.isSome then s
    else
      let s1 := if y.framePos = 0 then (s.adoptOne (seracEngine u) false).completeDue else s
      match s1.pick u with
      | some p => (s1.grantTurn u p).settle
      | none => s1)

/-- QUANTUM_EXPIRY: the quantum of the turn has passed since the cluster took its holder (R403, R404). -/
def execQuantumExpiry (u : Nat) (s : State) : Out :=
  .next (match (s.unit u).turn with
    | none => s
    | some t =>
      if !s.stagesRun || !s.unitOk u || (t.ctx.isSome && (s.unit u).holder != t.ctx) then s
      else ((s.advanceTo (t.start + t.quantumNs)).cutTurn u).settle)

/-- MIN_TURN_EXPIRY: a turn during which a Realtime context became runnable has run its shortest time, and is cut (R405, R422). -/
def execMinTurnExpiry (u : Nat) (s : State) : Out :=
  .next (match (s.unit u).turn with
    | some { ctx := some x, start := t0, pool := false, .. } =>
      if !s.stagesRun || !s.unitOk u || (s.unit u).holder != some x || s.ctxClass x == 0 || !(s.unit u).rtNew || (s.slotsOfClass u 0).isEmpty then s
      else ((s.advanceTo (t0 + 1000 * s.serac.minTurnUs)).cutTurn u).settle
    | _ => s)

/-- CLEAVE_BOUND_EXPIRY (R409). -/
def execCleaveBoundExpiry (u : Nat) (s : State) : Out :=
  .next (match (s.unit u).preempt with
    | some p =>
      if !s.stagesRun || !s.unitOk u || p.mode != 0 || p.reached.isSome || !(s.unit u).hasCredit 0 then s
      else (s.advanceTo (p.sentAt + p.bound)).sendPreempt u p.ctx 1
    | none => s)

/-- The cleave record that a CLEAVE_REACHED names belongs to the node of a work item in flight, with its live bytes (R408). -/
def State.cleaveOk (s : State) (u x node idx live : Nat) : Bool :=
  idx == 0xFFFF || ((s.unit u).worksOf x).any fun w =>
    match tget? s.cmds w.cmd with
    | some c => match (s.nodesOf c)[w.node]? with
      | some n => n.id == node && match n.cleaves[idx]? with | some v => v.live == live | none => false
      | none => false
    | none => false

/-- CLEAVE_REACHED (R408). -/
def execCleaveReached (u : Nat) (p : TilePkt) (s : State) : Out :=
  .next (s.takeUp u 0 0x12 p fun t =>
    let idx := fld p.payload 4 2
    let live := fld p.payload 8 8
    if !t.cleaveOk u p.ctx (fld p.payload 6 2) idx live then (t.portError u 7).settle
    else match (t.unit u).preempt with
      | some q => if q.ctx = p.ctx ∧ q.mode ≠ 2 ∧ q.reached.isNone then
          t.updUnit u fun y => { y with preempt := some { q with reached := some (idx, live) } } else t
      | none => t)

/-- The bytes that a save in progress may carry (R414). -/
def State.saveLimit (s : State) (u : Nat) (p : Preempt) : Nat := match p.reached with | some e => e.2 | none => s.fullSave u

/-- SAVE_DATA: its bytes go into the context's save area in Serac's region, through Glaze; the first packet takes the area and makes its save
invalid (R391, R411, R412, R414). -/
def execSaveData (u : Nat) (p : TilePkt) (s : State) : Out :=
  .next (s.takeUp u 3 0x11 p fun t =>
    match (t.unit u).preempt with
    | none => (t.portError u 7).settle
    | some q =>
      if q.mode = 2 then t
      else
        let d := p.payload.drop 16
        if q.ctx ≠ p.ctx ∨ p.index ≠ q.seq ∨ fld p.payload 8 4 ≠ d.length ∨ t.saveLimit u q < q.bytes + d.length then (t.portError u 7).settle
        else
          let i := t.areaFor q.ctx u
          let t1 := (t.modSave q.ctx u fun a =>
            let b := if q.seq = 0 then { index := i } else a
            { b with chunks := b.chunks ++ [(fld p.payload 0 8, d.length)] }).regionWrite (t.savePoint u i + q.bytes) d
          t1.updUnit u fun y => { y with
            preempt := some { q with seq := q.seq + 1, bytes := q.bytes + d.length }, saveBytes := (y.saveBytes + d.length) % 2 ^ 64 })

/-- The tiles left of a context's live commands on a cluster: Serac's issue position (R539). -/
def State.positionOf (s : State) (x u : Nat) : Tbl (List TileRef) :=
  (s.cmds.filter fun e => e.2.ctx == x && e.2.live && !e.2.admin).map fun e => (e.1, e.2.tilesOn u)

/-- A save ends and becomes valid: the work items in progress are saved with it, and the switch goes on (R410, R411, R424). -/
def State.saveDone (s : State) (u : Nat) (q : Preempt) (b : Blob) : State :=
  let kind := fld b 0 1
  let s1 := s.modSave q.ctx u fun a =>
    let z := if q.seq = 0 then { index := s.areaFor q.ctx u } else a
    { z with valid := true, kind := kind, pass := fld b 1 1, cleave := fld b 2 2, total := fld b 4 8, layer := fld b 12 4, endTime := s.now
             position := s.positionOf q.ctx u, works := (s.unit u).worksOf q.ctx }
  let s2 := s1.updUnit u fun y => { y with
    preempt := none, holder := none, lastBody := none, swCounted := true
    works := y.works.map fun w => if w.ctx = q.ctx then { w with saved := true } else w
    swCleave := if kind = 0 then satAdd y.swCleave 1 (2 ^ 21 - 1) else y.swCleave
    swFull := if kind = 1 then satAdd y.swFull 1 (2 ^ 22 - 1) else y.swFull }
  (s2.cmdsOfCtx q.ctx).foldl State.drainIfIdle s2

/-- A SAVE_END agrees with the save it ends, and carries the next sequence number (R414). -/
def Preempt.endOk (q : Preempt) (full seq : Nat) (b : Blob) : Bool :=
  seq == q.seq && fld b 4 8 == q.bytes &&
    match q.reached with
    | some (idx, live) => fld b 0 1 == 0 && fld b 4 8 == live && fld b 2 2 == idx
    | none => fld b 0 1 == 1 && q.mode == 1 && decide (fld b 4 8 ≤ full)

/-- SAVE_END: of a save, or of the discard that a context reset asked for (R411, R413, R522). -/
def execSaveEnd (u : Nat) (p : TilePkt) (s : State) : Out :=
  .next (s.takeUp u 3 0x12 p fun t =>
    match (t.unit u).preempt with
    | none => (t.portError u 7).settle
    | some q =>
      if q.ctx ≠ p.ctx then (t.portError u 7).settle
      else if q.mode = 2 then
        if fld p.payload 0 1 ≠ 2 then t
        else (((t.updUnit u fun y => { y with preempt := none, holder := none, lastBody := none }).ctxResetAnswered q.ctx u).switchOn u).settle
      else if fld p.payload 0 1 = 2 ∨ !q.endOk (t.fullSave u) p.index p.payload then (t.portError u 7).settle
      else ((t.saveDone u q p.payload).switchOn u).settle)

/-- Send the packets of a restore while class-3 credit lasts; `fuel` bounds the packets. -/
def State.sendRestore (u : Nat) : Nat → State → State
  | 0, s => s
  | f + 1, s =>
    match (s.unit u).restore with
    | none => s
    | some r =>
      match r.left with
      | (o, k, n) :: t =>
        let d := memRead s.mem (devAddr 0 (s.savePoint u (s.areaFor r.ctx u) + k)) n
        let b := leBytes 8 o ++ leBytes 4 n ++ zeros 4 ++ d
        if !(s.unit u).hasCredit 3 then s
        else
          let s1 := s.sendTile { port := u, cls := 3, typ := 1, index := r.seq, tag := 0, ctx := r.ctx, payload := b }
          State.sendRestore u f (s1.updUnit u fun y => { y with
            restore := some { r with seq := r.seq + 1, left := t }, saveBytes := (y.saveBytes + n) % 2 ^ 64 })
      | [] =>
        match s.saveOf r.ctx u with
        | none => s
        | some a =>
          if !(s.unit u).hasCredit 3 || !(s.unit u).hasCredit 0 then s
          else
            let s1 := s.sendTile { port := u, cls := 3, typ := 2, index := r.seq, tag := 0, ctx := r.ctx, payload := saveEndBytes a }
            s1.resume u r.ctx 1 a.pass a.layer

/-- RESTORE_DATA (R411): the save's packets, RESTORE_END and RESUME, as far as credit allows. -/
def execRestoreData (u : Nat) (s : State) : Out :=
  .next (match (s.unit u).restore with
    | some r => if s.stagesRun && s.unitOk u then (State.sendRestore u (r.left.length + 1) s).settle else s
    | none => s)

/-- SWAP_IN (R416). -/
def execSwapIn (ctx : Nat) (s : State) : Out := .next (if s.stagesRun && s.swapDue ctx then (s.swapInCtx ctx).settle else s)

/-- EVICTION (R417, R418). -/
def execEviction (u : Nat) (s : State) : Out :=
  .next (if s.stagesRun then (match s.evictDue u with | some x => s.evictCtx x | none => s) else s)

/-- AGE_EXPIRY (R418). -/
def execAgeExpiry (ctx : Nat) (s : State) : Out :=
  .next (match tget? s.ctxs ctx with
    | some c =>
      match c.waitSince with
      | some t => if c.aged then s else (s.advanceTo (t + 1000 * s.serac.ageUs)).modCtx ctx fun x => { x with aged := true }
      | none => s
    | none => s)

/-- The coded block that Melt finds corrupt as it converts a stream's next tile: one of a tensor in the board tier that the tile reads (R304,
R335). -/
def State.corruptMet (s : State) (u : Nat) (w : Stream) (corrupt : Option Nat) : Option (Nat × Nat) :=
  match corrupt, w.items[w.ahead]?, s.imgVer w.image w.imageVer with
  | some k, some (.block l i tile _ _ _ _), some v =>
    (v.tensors.zipIdx.find? fun t => t.1.layer == l && t.1.index == i && t.1.board && decide (k < t.1.units) &&
      t.1.tileNeeds (layOf (s.clusterRec u) (w.pass == 1)) tile k).map fun t => (t.2, k)
  | _, _, _ => none

/-- The NaN blocks that Melt finds as it converts an item (R316). -/
def StreamItem.nans : StreamItem → Nat
  | .block _ _ _ _ _ n _ => n
  | .layerEnd _ _ _ => 0

/-- The stream of a unit that Melt converts next: the first that waits for no repair and has items not yet converted (R325, R335). -/
def SUnit.nextStream (u : SUnit) : Option (Nat × Stream) :=
  (u.streams.zipIdx.find? fun e => e.1.stall.isNone && decide (e.1.ahead < e.1.items.length)).map fun e => (e.2, e.1)

/-- WBLOCK: Melt converts the next item for a cluster and sends it, or keeps it in its staging buffer where the cluster's credits lag behind (R320 to
R327). A stream that reaches a unit under repair joins its repair (R336), and one for which Melt finds a coded block corrupt stalls at it; the
streams that do not need the unit go on (R335). `corrupt` is that block. -/
def execWblock (o : BlockSend) (s : State) : Out :=
  .next (match (s.unit o.port).nextStream with
    | none => s
    | some (k, w) =>
      match w.items[w.ahead]? with
      | none => s
      | some i =>
        let y := s.unit o.port
        if s.stagesRun && (s.repairMet o.port w).isSome then
          s.updUnit o.port fun z => { z with streams := z.streams.set k { w with stall := s.repairMet o.port w } }
        else if !s.stagesRun || !s.unitOk o.port || !s.meltServes o.port || s.engDown 0x0900 ||
            !s.stageRoom o.port (i.payload w.pass w.imageVer).length then s
        else match s.corruptMet o.port w o.corrupt with
        | some e =>
          ({ s with firn := { s.firn with codeErr := satAdd s.firn.codeErr 1 0xFFFFFFFF } } : State).needRepair w.image w.imageVer e.1 e.2
        | none =>
          let s1 : State := { s with firn := { s.firn with nanCount := satAdd s.firn.nanCount i.nans 0xFFFFFFFF } }
          if y.hasCredit 1 && y.itemsAhead == 0 then s1.sendItem o.port k w
          else
            (s1.updUnit o.port fun z => { z with streams := z.streams.set k { w with ahead := w.ahead + 1 } }).progress
              (0x0300 + s.meltOf o.port))

end Sys2Proof.Machine
end

