-- ==== Sys2Proof/Machine/Variants.lean ====
section
/-! DEFINITION. The variant commands (R172 to R174, R343 to R357). -/

namespace Sys2Proof.Machine

open Sys2Proof

/-- The checks of VAR_REGISTER that come before its data buffer is read (R293, R348 steps 1 and 2). -/
def State.registerCheck (s : State) (c : Cmd) : Option Status :=
  let img := fld c.sqe 36 4
  match s.ctxOf c.fn (fld c.sqe 32 2) with
  | none => if imageIdOk img then some .invalidContext else some .invalidField
  | some x =>
    firstSome [failIf (!imageIdOk img) .invalidField, failIf (x.image != img) .variantImageMismatch,
      failIf (decide ((s.image img).state < 3)) .invalidImage]
where
  imageIdOk (i : Nat) : Bool := decide (1 ≤ i) && decide (i ≤ 63)

/-- The requests that a VAR_REGISTER still needs of other chips, for a wrapped adapter in remote memory. -/
def State.registerLack (s : State) (r : Nat) (c : Cmd) (io : HostIo) : List MemReq :=
  match s.ctxOf c.fn (fld c.sqe 32 2), varDesc (padTo (admDataLen c.sqe) io.data) (admDataLen c.sqe) (s.layersOf (fld c.sqe 36 4)) false with
  | some x, some d =>
    if d.inHost ∨ (adapterCheck x d.addr d.len).isSome then []
    else s.lackReads r { c with ctx := fld c.sqe 32 2 } (s.epochOf 0x0700) (segPieces (translate x.leaves d.addr d.len))
  | _, _ => []

/-- VAR_REGISTER (R293, R344 to R348, R463 to R465). One whose wrapped adapter lies on another chip asks for it and is taken up again when
the answers have come. From the read of the adapter on, a failure leaves the allocation's contents undefined. -/
def execVarRegister (r : Nat) (io : HostIo) (ecc : Ecc) (s : State) : Out :=
  .next (match s.adminCmd r 0x40 with
    | none => s
    | some c0 =>
      if admHeaderOk c0.sqe && (s.registerCheck c0).isNone && io.read == .ok && !(s.registerLack r c0 io).isEmpty then
        s.askRemote r (s.registerLack r c0 io)
      else s.runAdmin r 0x40 fun t c =>
        match t.registerCheck c with
        | some st => t.report r st
        | none =>
          t.withData r c io (admDataLen c.sqe) fun u b =>
            match varDesc b (admDataLen c.sqe) (u.layersOf (fld c.sqe 36 4)) false with
            | none => u.report r .invalidField
            | some d =>
              match u.storageCheck c.fn d.alloc (fld c.sqe 34 2) (layoutOf d.entries d.trainable d.saveBytes).2.2, tget? u.allocs d.alloc,
                  u.ctxOf c.fn (fld c.sqe 32 2) with
              | none, some a, some x =>
                if d.inHost then
                  (u.hostRead c.fn d.addr d.len).unwrapAndRegister r c io d a (padTo d.len (io.data.drop (admDataLen c.sqe)))
                else match adapterCheck x d.addr d.len with
                  | some st => (u.scramble a).report r st
                  | none =>
                    if ecc = .uncorrectable ∨ ecc = .poisoned then (u.scramble a).report r .memoryUncorrectable
                    else
                      let y := u.readVa r { c with ctx := fld c.sqe 32 2 } x.leaves d.addr d.len
                      match tget? y.2.cmds r with
                      | some c1 => if c1.decided.isSome then (y.2.scramble a).drainIfIdle r else y.2.unwrapAndRegister r c io d a y.1
                      | none => y.2
              | some st, _, _ => u.report r st
              | _, _, _ => u.report r .invalidField)

/-- VAR_SEAL (R173, R352). -/
def execVarSeal (r : Nat) (_io : HostIo) (s : State) : Out :=
  .next (s.runAdmin r 0x41 fun t c =>
    let id := fld c.sqe 32 4
    match t.variantOfFn c.fn id with
    | none => t.report r .invalidVariant
    | some v =>
      if v.torn then t.report r .invalidVariant
      else if v.sealed then t.commit r
      else ({ t with silt := { t.silt with variants := tmod t.silt.variants id fun x => { x with sealCmds := x.sealCmds ++ [r] } } } : State).handOver r)

/-- SEAL_TAKES_EFFECT (R173, R352): once no accepted TRAIN_STEP of the variant remains and no update of it is under way. -/
def execSealTakesEffect (variant : Nat) (s : State) : Out :=
  .next (match tget? s.silt.variants variant with
    | none => s
    | some v =>
      if v.sealCmds.isEmpty || v.changer.isSome || !s.tarnRuns || s.variantUsed variant (·.opcode == 0x81) then s
      else
        let s1 := { s with silt := { s.silt with 
          variants := tset s.silt.variants variant { v with
            sealed := true, digest := s.variantDigest v, digestRev := v.rev, sealCmds := [] } } }
        v.sealCmds.foldl State.commit s1)

/-- VAR_UNSEAL (R191, R353). A token shorter than 48 bytes ends it INVALID_FIELD (DESIGN CHOICE, assumption 177). -/
def execVarUnseal (r : Nat) (io : HostIo) (s : State) : Out :=
  .next (s.runAdmin r 0x42 fun t c =>
    let id := fld c.sqe 32 4
    match t.variantOfFn c.fn id with
    | none => t.report r .invalidVariant
    | some v =>
      if v.torn then t.report r .invalidVariant
      else if !v.sealCmds.isEmpty || tany t.pools (fun _ p => p.variant == id) then t.report r .busy
      else t.withData r c io (admDataLen c.sqe) fun u b =>
        if admDataLen c.sqe < 48 ∨ fld b 4 4 ≠ 0 then u.report r .invalidField
        else if !u.tokenOk id v b then u.report r .authFailed
        else (({ u with silt := { u.silt with 
          variants := tset u.silt.variants id { v with sealed := false, unsealSeq := fld b 8 8 } } } : State).commit r))

/-- VAR_UPDATE (R174, R349, R354, R355). -/
def execVarUpdate (r : Nat) (io : HostIo) (s : State) : Out :=
  .next (s.runAdmin r 0x43 fun t c =>
    let id := fld c.sqe 32 4
    match t.variantOfFn c.fn id with
    | none => t.report r .invalidVariant
    | some v =>
      if v.sealed then t.report r .variantSealed
      else if v.changer.isSome then t.report r .busy
      else t.changeOrWait r id c fun u => u.runUpdate r id c io v)

/-- VAR_DROP (R174, R356). One that a pool uses may go, and the pool keeps the ID (DESIGN CHOICE, assumption 168). -/
def execVarDrop (r : Nat) (_io : HostIo) (s : State) : Out :=
  .next (s.runAdmin r 0x44 fun t c =>
    let id := fld c.sqe 32 4
    match t.variantOfFn c.fn id with
    | none => t.report r .invalidVariant
    | some v =>
      if v.changer.isSome then t.report r .busy
      else t.changeOrWait r id c fun u => u.runDrop r id v)

/-- VARIANT_WAIT_END (R174): the command that waits for a variant goes on once no accepted command names it. -/
def execVariantWaitEnd (r : Nat) (io : HostIo) (s : State) : Out :=
  .next (match tget? s.cmds r with
    | none => s
    | some c0 =>
      match s.waitingCmd r c0.opcode with
      | none => s
      | some c =>
        let id := fld c.sqe 32 4
        match tget? s.silt.variants id with
        | none => s
        | some v =>
          if v.changer ≠ some r ∨ s.variantUsed id (fun _ => true) then s
          else
            let s1 := s.unchange id
            if c.opcode = 0x43 then s1.runUpdate r id c io { v with changer := none } else s1.runDrop r id v)

end Sys2Proof.Machine
end

