-- ==== Sys2Proof/Machine/Dispatch.lean ====
section
/-! DEFINITION. What each command does: one arm per row of the table, a call of the row's meaning. -/

namespace Sys2Proof.Machine

open Sys2Proof

def exec (i : Instr) (s : State) : Host.Outcome State Fault Refusal :=
  match i with
  | .registerWrite sp off width value => Sys2Proof.Machine.execRegisterWrite sp off width value s
  | .unmappedAccess sp off width value => Sys2Proof.Machine.execUnmappedAccess sp off width value s
  | .splitLowRead sp off => Sys2Proof.Machine.execSplitLowRead sp off s
  | .splitLowWrite sp off value => Sys2Proof.Machine.execSplitLowWrite sp off value s
  | .splitHighWrite sp off value => Sys2Proof.Machine.execSplitHighWrite sp off value s
  | .sqTail d value => Sys2Proof.Machine.execSqTail d value s
  | .cqHead d value => Sys2Proof.Machine.execCqHead d value s
  | .cqIntMask d value => Sys2Proof.Machine.execCqIntMask d value s
  | .msixMaskClear fn vector => Sys2Proof.Machine.execMsixMaskClear fn vector s
  | .cirqRtReserve value => Sys2Proof.Machine.execCirqRtReserve value s
  | .cirqFnQcfg fn value => Sys2Proof.Machine.execCirqFnQcfg fn value s
  | .cirqAdminResume value => Sys2Proof.Machine.execCirqAdminResume value s
  | .moraineClear fn value => Sys2Proof.Machine.execMoraineClear fn value s
  | .wplogFlush fn value => Sys2Proof.Machine.execWplogFlush fn value s
  | .wplogFlushDone fn => Sys2Proof.Machine.execWplogFlushDone fn s
  | .crevRetry slot => Sys2Proof.Machine.execCrevRetry slot s
  | .crevAbort slot => Sys2Proof.Machine.execCrevAbort slot s
  | .crevHeadWrite value => Sys2Proof.Machine.execCrevHeadWrite value s
  | .snowHostAdd value => Sys2Proof.Machine.execSnowHostAdd value s
  | .snowImageCfg image value => Sys2Proof.Machine.execSnowImageCfg image value s
  | .snowFnQuota fn value => Sys2Proof.Machine.execSnowFnQuota fn value s
  | .ringJoinRequest ring => Sys2Proof.Machine.execRingJoinRequest ring s
  | .ringReleaseRequest ring => Sys2Proof.Machine.execRingReleaseRequest ring s
  | .adminQueueEnable value => Sys2Proof.Machine.execAdminQueueEnable value s
  | .engineResetRequest engine => Sys2Proof.Machine.execEngineResetRequest engine s
  | .computeDomainResetRequest => Sys2Proof.Machine.execComputeDomainResetRequest s
  | .resetHeadWrite value => Sys2Proof.Machine.execResetHeadWrite value s
  | .sqFetch q => Sys2Proof.Machine.execSqFetch q s
  | .sqFetchDone q entries resp => Sys2Proof.Machine.execSqFetchDone q entries resp s
  | .admitEntry q rd away => Sys2Proof.Machine.execAdmitEntry q rd away s
  | .dispatch r => Sys2Proof.Machine.execDispatch r s
  | .commandComplete r => Sys2Proof.Machine.execCommandComplete r s
  | .receiptAppend r => Sys2Proof.Machine.execReceiptAppend r s
  | .cqeWrite r => Sys2Proof.Machine.execCqeWrite r s
  | .cqConfirmReadDone q resp => Sys2Proof.Machine.execCqConfirmReadDone q resp s
  | .eventEntryWrite fn => Sys2Proof.Machine.execEventEntryWrite fn s
  | .intTimeExpiry q => Sys2Proof.Machine.execIntTimeExpiry q s
  | .commandDeadlineExpiry r => Sys2Proof.Machine.execCommandDeadlineExpiry r s
  | .drainComplete r => Sys2Proof.Machine.execDrainComplete r s
  | .drainWindowExpiry r => Sys2Proof.Machine.execDrainWindowExpiry r s
  | .identify r io => Sys2Proof.Machine.execIdentify r io s
  | .qpCreate r io => Sys2Proof.Machine.execQpCreate r io s
  | .qpDelete r io => Sys2Proof.Machine.execQpDelete r io s
  | .cqResume r io => Sys2Proof.Machine.execCqResume r io s
  | .fnEnable r io => Sys2Proof.Machine.execFnEnable r io s
  | .enableTakesEffect fn io => Sys2Proof.Machine.execEnableTakesEffect fn io s
  | .fnQuiesce r io => Sys2Proof.Machine.execFnQuiesce r io s
  | .quiesceComplete fn => Sys2Proof.Machine.execQuiesceComplete fn s
  | .fnReset r io => Sys2Proof.Machine.execFnReset r io s
  | .vfFunctionLevelReset fn => Sys2Proof.Machine.execVfFunctionLevelReset fn s
  | .functionResetEnd fn io => Sys2Proof.Machine.execFunctionResetEnd fn io s
  | .pf0FunctionLevelReset => Sys2Proof.Machine.execPf0FunctionLevelReset s
  | .fnExport r io => Sys2Proof.Machine.execFnExport r io s
  | .fnImport r io frames => Sys2Proof.Machine.execFnImport r io frames s
  | .wplogCtl r io => Sys2Proof.Machine.execWplogCtl r io s
  | .topoWrite r io => Sys2Proof.Machine.execTopoWrite r io s
  | .topoCommit r io => Sys2Proof.Machine.execTopoCommit r io s
  | .configSet r io => Sys2Proof.Machine.execConfigSet r io s
  | .configAdopt engine io => Sys2Proof.Machine.execConfigAdopt engine io s
  | .pwrState r io => Sys2Proof.Machine.execPwrState r io s
  | .powerStateEntry => Sys2Proof.Machine.execPowerStateEntry s
  | .pwrLimit r io => Sys2Proof.Machine.execPwrLimit r io s
  | .patchLoad r io => Sys2Proof.Machine.execPatchLoad r io s
  | .monUnlock r io => Sys2Proof.Machine.execMonUnlock r io s
  | .keyAssign r io => Sys2Proof.Machine.execKeyAssign r io s
  | .keyRelease r io => Sys2Proof.Machine.execKeyRelease r io s
  | .ctxCreate r io => Sys2Proof.Machine.execCtxCreate r io s
  | .ctxDestroy r io => Sys2Proof.Machine.execCtxDestroy r io s
  | .ctxReset r io => Sys2Proof.Machine.execCtxReset r io s
  | .memAlloc r io frames => Sys2Proof.Machine.execMemAlloc r io frames s
  | .memFree r io => Sys2Proof.Machine.execMemFree r io s
  | .mapRange r io => Sys2Proof.Machine.execMapRange r io s
  | .unmapRange r io => Sys2Proof.Machine.execUnmapRange r io s
  | .memShare r io => Sys2Proof.Machine.execMemShare r io s
  | .mapRemote r io => Sys2Proof.Machine.execMapRemote r io s
  | .invalidationAck inv engine => Sys2Proof.Machine.execInvalidationAck inv engine s
  | .imgLoad r io => Sys2Proof.Machine.execImgLoad r io s
  | .imgResumeLoad r io => Sys2Proof.Machine.execImgResumeLoad r io s
  | .imgReplace r io => Sys2Proof.Machine.execImgReplace r io s
  | .imgDrop r io => Sys2Proof.Machine.execImgDrop r io s
  | .imgLoadBegin frames => Sys2Proof.Machine.execImgLoadBegin frames s
  | .shardReadDone shard resp data => Sys2Proof.Machine.execShardReadDone shard resp data s
  | .shardRetryTimer shard => Sys2Proof.Machine.execShardRetryTimer shard s
  | .shardTimeout shard => Sys2Proof.Machine.execShardTimeout shard s
  | .bodyDigestDone io => Sys2Proof.Machine.execBodyDigestDone io s
  | .varRegister r io ecc => Sys2Proof.Machine.execVarRegister r io ecc s
  | .varSeal r io => Sys2Proof.Machine.execVarSeal r io s
  | .sealTakesEffect variant => Sys2Proof.Machine.execSealTakesEffect variant s
  | .varUnseal r io => Sys2Proof.Machine.execVarUnseal r io s
  | .varUpdate r io => Sys2Proof.Machine.execVarUpdate r io s
  | .varDrop r io => Sys2Proof.Machine.execVarDrop r io s
  | .variantWaitEnd r io => Sys2Proof.Machine.execVariantWaitEnd r io s
  | .graphStore r io => Sys2Proof.Machine.execGraphStore r io s
  | .graphPatch r io => Sys2Proof.Machine.execGraphPatch r io s
  | .graphFree r io => Sys2Proof.Machine.execGraphFree r io s
  | .rcptRead r io => Sys2Proof.Machine.execRcptRead r io s
  | .ckptRequest r io => Sys2Proof.Machine.execCkptRequest r io s
  | .checkpointSigned io => Sys2Proof.Machine.execCheckpointSigned io s
  | .poolCreate r io => Sys2Proof.Machine.execPoolCreate r io s
  | .poolJoin r io => Sys2Proof.Machine.execPoolJoin r io s
  | .poolLeave r io => Sys2Proof.Machine.execPoolLeave r io s
  | .poolDestroy r io => Sys2Proof.Machine.execPoolDestroy r io s
  | .inferStep r => Sys2Proof.Machine.execInferStep r s
  | .trainStep r => Sys2Proof.Machine.execTrainStep r s
  | .graphLaunch r => Sys2Proof.Machine.execGraphLaunch r s
  | .kernelLaunch r => Sys2Proof.Machine.execKernelLaunch r s
  | .copy r ecc => Sys2Proof.Machine.execCopy r ecc s
  | .seqCreate r => Sys2Proof.Machine.execSeqCreate r s
  | .seqRelease r => Sys2Proof.Machine.execSeqRelease r s
  | .seqTruncate r => Sys2Proof.Machine.execSeqTruncate r s
  | .provisioningPass => Sys2Proof.Machine.execProvisioningPass s
  | .turnGrant u => Sys2Proof.Machine.execTurnGrant u s
  | .quantumExpiry u => Sys2Proof.Machine.execQuantumExpiry u s
  | .minTurnExpiry u => Sys2Proof.Machine.execMinTurnExpiry u s
  | .cleaveBoundExpiry u => Sys2Proof.Machine.execCleaveBoundExpiry u s
  | .issue u => Sys2Proof.Machine.execIssue u s
  | .crevasseWaitingPost => Sys2Proof.Machine.execCrevasseWaitingPost s
  | .runAhead u => Sys2Proof.Machine.execRunAhead u s
  | .tableWalkDone walker rd => Sys2Proof.Machine.execTableWalkDone walker rd s
  | .tileDone u p => Sys2Proof.Machine.execTileDone u p s
  | .cleaveReached u p => Sys2Proof.Machine.execCleaveReached u p s
  | .saveData u p => Sys2Proof.Machine.execSaveData u p s
  | .saveEnd u p => Sys2Proof.Machine.execSaveEnd u p s
  | .restoreData u => Sys2Proof.Machine.execRestoreData u s
  | .tileError u p => Sys2Proof.Machine.execTileError u p s
  | .creditReturn u down cls count => Sys2Proof.Machine.execCreditReturn u down cls count s
  | .swapIn ctx => Sys2Proof.Machine.execSwapIn ctx s
  | .eviction u => Sys2Proof.Machine.execEviction u s
  | .ageExpiry ctx => Sys2Proof.Machine.execAgeExpiry ctx s
  | .wblock b => Sys2Proof.Machine.execWblock b s
  | .tapIn u p => Sys2Proof.Machine.execTapIn u p s
  | .sliceFetchDone engine rd => Sys2Proof.Machine.execSliceFetchDone engine rd s
  | .tapAnswer u tag => Sys2Proof.Machine.execTapAnswer u tag s
  | .trainUpdate r => Sys2Proof.Machine.execTrainUpdate r s
  | .trainUpdateCommit r => Sys2Proof.Machine.execTrainUpdateCommit r s
  | .memoryRequest q => Sys2Proof.Machine.execMemoryRequest q s
  | .memoryReadResponse port tag ecc chk => Sys2Proof.Machine.execMemoryReadResponse port tag ecc chk s
  | .rekeyWalk key => Sys2Proof.Machine.execRekeyWalk key s
  | .varveNodeWriteback level pos => Sys2Proof.Machine.execVarveNodeWriteback level pos s
  | .hotWindowEnd => Sys2Proof.Machine.execHotWindowEnd s
  | .vx1FrameMove fn frame dest => Sys2Proof.Machine.execVx1FrameMove fn frame dest s
  | .repairStart => Sys2Proof.Machine.execRepairStart s
  | .peerAnswerTimeout repair => Sys2Proof.Machine.execPeerAnswerTimeout repair s
  | .canonicalReadDone repair resp manifest data => Sys2Proof.Machine.execCanonicalReadDone repair resp manifest data s
  | .repairReadback repair rd frame => Sys2Proof.Machine.execRepairReadback repair rd frame s
  | .railFault engine => Sys2Proof.Machine.execRailFault engine s
  | .stallSentinelExpiry engine => Sys2Proof.Machine.execStallSentinelExpiry engine s
  | .progressSample => Sys2Proof.Machine.execProgressSample s
  | .heartbeat => Sys2Proof.Machine.execHeartbeat s
  | .heartbeatWatchdogExpiry => Sys2Proof.Machine.execHeartbeatWatchdogExpiry s
  | .engineResetComplete engine => Sys2Proof.Machine.execEngineResetComplete engine s
  | .contextResetDeadline ctx => Sys2Proof.Machine.execContextResetDeadline ctx s
  | .engineResetDeadline engine => Sys2Proof.Machine.execEngineResetDeadline engine s
  | .computeDomainResetComplete => Sys2Proof.Machine.execComputeDomainResetComplete s
  | .computeDomainResetDeadline => Sys2Proof.Machine.execComputeDomainResetDeadline s
  | .tarnRestartComplete => Sys2Proof.Machine.execTarnRestartComplete s
  | .tarnRestartDeadline => Sys2Proof.Machine.execTarnRestartDeadline s
  | .frameReceive link frame => Sys2Proof.Machine.execFrameReceive link frame s
  | .ackTimeout link => Sys2Proof.Machine.execAckTimeout link s
  | .readReq link m ecc => Sys2Proof.Machine.execReadReq link m ecc s
  | .writeReq link m ecc => Sys2Proof.Machine.execWriteReq link m ecc s
  | .peerReq link m => Sys2Proof.Machine.execPeerReq link m s
  | .readResp link m => Sys2Proof.Machine.execReadResp link m s
  | .writeAck link m => Sys2Proof.Machine.execWriteAck link m s
  | .peerResp link m => Sys2Proof.Machine.execPeerResp link m s
  | .hello link m => Sys2Proof.Machine.execHello link m s
  | .census link m => Sys2Proof.Machine.execCensus link m s
  | .censusResendTimer ring => Sys2Proof.Machine.execCensusResendTimer ring s
  | .e2eTimerExpiry tag => Sys2Proof.Machine.execE2eTimerExpiry tag s
  | .ringHoldExpiry tag => Sys2Proof.Machine.execRingHoldExpiry tag s
  | .ringJoin ring => Sys2Proof.Machine.execRingJoin ring s
  | .joinTimeout ring => Sys2Proof.Machine.execJoinTimeout ring s
  | .lanesReady link => Sys2Proof.Machine.execLanesReady link s
  | .linkSignalLost link => Sys2Proof.Machine.execLinkSignalLost link s
  | .trainTimeout link => Sys2Proof.Machine.execTrainTimeout link s
  | .doeObject fn data => Sys2Proof.Machine.execDoeObject fn data s
  | .doeAbort fn => Sys2Proof.Machine.execDoeAbort fn s
  | .spdmMessage fn msg => Sys2Proof.Machine.execSpdmMessage fn msg s
  | .getMeasurements fn index signed => Sys2Proof.Machine.execGetMeasurements fn index signed s
  | .keyPut fn session payload => Sys2Proof.Machine.execKeyPut fn session payload s
  | .keyInfo fn session payload => Sys2Proof.Machine.execKeyInfo fn session payload s
  | .keyClear fn session payload => Sys2Proof.Machine.execKeyClear fn session payload s
  | .migPut fn session payload => Sys2Proof.Machine.execMigPut fn session payload s
  | .migClear fn session payload => Sys2Proof.Machine.execMigClear fn session payload s
  | .persistWriteDone => Sys2Proof.Machine.execPersistWriteDone s
  | .holdupFall ns => Sys2Proof.Machine.execHoldupFall ns s
  | .ledgerFlushDone => Sys2Proof.Machine.execLedgerFlushDone s
  | .holdupRise ns => Sys2Proof.Machine.execHoldupRise ns s
  | .holdupEnd => Sys2Proof.Machine.execHoldupEnd s
  | .wake src => Sys2Proof.Machine.execWake src s
  | .pwrGoodRise ns => Sys2Proof.Machine.execPwrGoodRise ns s
  | .pwrGoodFall ns => Sys2Proof.Machine.execPwrGoodFall ns s
  | .brownoutHoldEnter mv => Sys2Proof.Machine.execBrownoutHoldEnter mv s
  | .brownoutHoldExit mv => Sys2Proof.Machine.execBrownoutHoldExit mv s
  | .voltageMonitorReset rail mv => Sys2Proof.Machine.execVoltageMonitorReset rail mv s
  | .voltageMonitorRelease rail mv => Sys2Proof.Machine.execVoltageMonitorRelease rail mv s
  | .droopFall ns => Sys2Proof.Machine.execDroopFall ns s
  | .droopRise ns => Sys2Proof.Machine.execDroopRise ns s
  | .droopPaceEnd => Sys2Proof.Machine.execDroopPaceEnd s
  | .pwrbrakeChange low ns => Sys2Proof.Machine.execPwrbrakeChange low ns s
  | .paceUpdate mw => Sys2Proof.Machine.execPaceUpdate mw s
  | .assistRelax engine => Sys2Proof.Machine.execAssistRelax engine s
  | .coldResetAssert ns => Sys2Proof.Machine.execColdResetAssert ns s
  | .coldResetRelease ns => Sys2Proof.Machine.execColdResetRelease ns s
  | .warmResetAssert ns => Sys2Proof.Machine.execWarmResetAssert ns s
  | .warmResetRelease ns => Sys2Proof.Machine.execWarmResetRelease ns s
  | .selftestDone code => Sys2Proof.Machine.execSelftestDone code s
  | .selftestLimitExpiry => Sys2Proof.Machine.execSelftestLimitExpiry s
  | .interruptEntry => Sys2Proof.Machine.execInterruptEntry s
  | .eoi src => Sys2Proof.Machine.execEoi src s
  | .mret => Sys2Proof.Machine.execMret s
  | .accessFault addr kind => Sys2Proof.Machine.execAccessFault addr kind s
  | .uartCharacter c => Sys2Proof.Machine.execUartCharacter c s
  | .uartFramingError => Sys2Proof.Machine.execUartFramingError s
  | .monHelp => Sys2Proof.Machine.execMonHelp s
  | .monVer => Sys2Proof.Machine.execMonVer s
  | .monHb => Sys2Proof.Machine.execMonHb s
  | .monSt => Sys2Proof.Machine.execMonSt s
  | .monRd off count => Sys2Proof.Machine.execMonRd off count s
  | .monRq off count => Sys2Proof.Machine.execMonRq off count s
  | .monWr off value => Sys2Proof.Machine.execMonWr off value s
  | .monWq off value => Sys2Proof.Machine.execMonWq off value s
  | .monFn fn => Sys2Proof.Machine.execMonFn fn s
  | .monRec count => Sys2Proof.Machine.execMonRec count s
  | .monRing => Sys2Proof.Machine.execMonRing s
  | .monPwr => Sys2Proof.Machine.execMonPwr s
  | .monSeal => Sys2Proof.Machine.execMonSeal s
  | .monBaud rate => Sys2Proof.Machine.execMonBaud rate s
  | .monLock => Sys2Proof.Machine.execMonLock s
  | .configurationRequest fn a => Sys2Proof.Machine.execConfigurationRequest fn a s
  | .boundaryScanTestMode cells => Sys2Proof.Machine.execBoundaryScanTestMode cells s

end Sys2Proof.Machine
end

