-- ==== Sys2Proof/Machine/Step.lean ====
section
/-! DEFINITION. One step of the block: the command at the front of the queue acts on the state with the queue's rest.
With no command waiting, one period of the reference clock passes (R34, assumption 1), and a tile port whose reset line was low for 1 µs
by then comes out of reset (R525). -/

namespace Sys2Proof.Machine

open Sys2Proof

/-- One step. -/
def step (s : State) : Host.Outcome State Fault Refusal :=
  match s.pending with
  | [] => .next ((s.elapse 10).releasePorts (s.now + 10))
  | c :: rest => exec c { s with pending := rest }

/-- Put a command in front of the queue. -/
def State.offer (s : State) (c : Instr) : State := { s with pending := c :: s.pending }

/-- Put the command that a word spells in front of the queue; the state is unchanged where the word spells none. -/
def State.withFetchWord (s : State) (nbits w : Nat) : State :=
  match decodeTableWord nbits w with
  | some c => s.offer c
  | none => s

end Sys2Proof.Machine
end

