-- ==== Sys2Proof/Safety.lean ====
section
/-! DEFINITION. The words in which statements about the block are made: what a command answers, when registers and Tarn are there to
take a command up, what stays as it was, and the invariant that every step keeps. -/

namespace Sys2Proof.Machine

open Sys2Proof

/-- A command answers a next state of which `P` holds. -/
def Answers (o : Out) (P : State → Prop) : Prop := ∃ t, o = .next t ∧ P t

/-- A command answers a next state that is `u` with its commands, turns and contexts settled, where `P` holds of `u`. -/
def AnswersSettled (o : Out) (P : State → Prop) : Prop := ∃ u, o = .next u.settle ∧ P u

/-- An access of the host to a register is carried out now: neither in reset, nor in the self-test, nor failed, nor in a hold-up, asleep,
waking, in a brownout hold or halted. -/
def State.reachable (s : State) : Bool :=
  s.regsUp && !s.pwr.holdup && !s.resident && s.pwr.st != .waking && !s.pwr.brownout && !s.pwr.goodHold && !s.loess.halted

/-- A configuration request is carried out now. -/
def State.configurable (s : State) : Bool :=
  s.held.isNone && s.tarn.phase != 0 && s.tarn.phase != 6 && !s.pwr.holdup && !s.resident && s.pwr.st != .waking && !s.pwr.brownout &&
    !s.pwr.goodHold

/-- No half of a split access of a requester is held. -/
def State.noHalf (s : State) (f : Nat) : Prop := (s.halves f).held = none

/-- Tarn may run the admin command at record `r` now, it has that opcode, and the fields every admin entry shares are in order. -/
def State.takes (s : State) (r opc : Nat) (c : Cmd) : Prop := s.adminCmd r opc = some c ∧ admHeaderOk c.sqe = true

/-- The state in which Tarn has taken up the command at a record. -/
def State.begun (s : State) (r : Nat) : State := s.modCmd r fun x => { x with stage := .running, start := some s.now }

/-- The state in which the stages have taken a packet of a tile port up: its credits are spent and the port has made progress. -/
def State.tookUp (s : State) (u cls : Nat) (p : TilePkt) : State :=
  (s.updUnit u fun y => y.spendUp cls (beatsOf p.payload.length)).progress (seracEngine u)

/-- The parity bits of a packet, where the packet gives them, fit its beats. -/
def packetSound (p : TilePkt) : Prop := ∀ cls, parityOk p cls = true

/-- The command at a record has ended with a status: only its completion remains. -/
def State.ended (s : State) (r : Nat) (st : Status) : Prop := ∃ c, tget? s.cmds r = some c ∧ c.stage = .ended ∧ c.status = st

/-- The command at a record is completed with a status: only its receipt and its completion entry remain. -/
def State.completed (s : State) (r : Nat) (st : Status) : Prop := ∃ c, tget? s.cmds r = some c ∧ c.stage = .completed ∧ c.status = st

/-- A status is decided for the command at a record: it drains. -/
def State.decides (s : State) (r : Nat) (st : Status) : Prop := ∃ c, tget? s.cmds r = some c ∧ c.decided = some st

/-- The queue at an ID, of which `P` holds. -/
def State.queueHas (s : State) (i : Nat) (P : Queue → Prop) : Prop := ∃ q, tget? s.queues i = some q ∧ P q

/-- The command record at an index, of which `P` holds. -/
def State.cmdHas (s : State) (r : Nat) (P : Cmd → Prop) : Prop := ∃ c, tget? s.cmds r = some c ∧ P c

/-- An invalidation of a range, on the fabric or waiting, holds the command at a record and the change of its tables. -/
def State.mapsWith (s : State) (r : Nat) (b : Nat × Nat) (z : Change) : Prop :=
  ∃ i ∈ s.esk.invals ++ s.esk.invalWait, i.cmd = some r ∧ i.lo = b.1 ∧ i.hi = b.2 ∧ i.change = some z

/-- Every byte of device memory reads as before. -/
def SameMemory (s t : State) : Prop := ∀ a, memGet t.mem a = memGet s.mem a

/-- Every byte of device memory outside a range reads as before. -/
def SameOutside (s t : State) (a n : Nat) : Prop := ∀ x, x < a ∨ a + n ≤ x → memGet t.mem x = memGet s.mem x

/-- The topology table, the allocations and the pools. -/
def State.objects (s : State) : Topo × Tbl Alloc × Tbl Pool := (s.topo, s.allocs, s.pools)

/-- The invariant of every run: memory stands in canonical form, so that equal memories are equal data. -/
def State.Inv (s : State) : Prop := Memory.wf s.mem = true

/-- The commands that leave every byte of device memory as it is, whatever the state: the others may write memory themselves or set off
something that does (a completion that frees storage, a reset). -/
def keepsMemory : Instr → Bool
  | .splitLowRead _ _ | .moraineClear _ _ | .wplogFlush _ _ | .wplogFlushDone _ | .crevRetry _ | .crevHeadWrite _
  | .ringJoinRequest _ | .ringReleaseRequest _ | .resetHeadWrite _ | .sqFetch _ | .sqFetchDone _ _ _ | .dispatch _
  | .cqConfirmReadDone _ _ | .eventEntryWrite _ | .intTimeExpiry _ | .identify _ _ | .qpCreate _ _ | .qpDelete _ _ | .cqResume _ _
  | .fnEnable _ _ | .fnQuiesce _ _ | .quiesceComplete _ | .fnExport _ _ | .wplogCtl _ _ | .topoWrite _ _ | .configSet _ _
  | .configAdopt _ _ | .pwrState _ _ | .pwrLimit _ _ | .patchLoad _ _ | .monUnlock _ _ | .keyAssign _ _
  | .keyRelease _ _ | .ctxCreate _ _ | .memShare _ _
  | .invalidationAck _ _ | .imgLoad _ _ | .imgResumeLoad _ _ | .imgReplace _ _ | .imgDrop _ _ | .imgLoadBegin _
  | .shardReadDone _ _ _ | .shardRetryTimer _ | .shardTimeout _ | .bodyDigestDone _ | .varSeal _ _ | .sealTakesEffect _
  | .varUnseal _ _ | .varDrop _ _ | .graphStore _ _ | .graphPatch _ _ | .graphFree _ _ | .rcptRead _ _ | .ckptRequest _ _
  | .poolCreate _ _ | .poolJoin _ _ | .poolLeave _ _ | .poolDestroy _ _ | .inferStep _ | .trainStep _
  | .graphLaunch _ | .kernelLaunch _ | .seqRelease _ | .turnGrant _ | .quantumExpiry _ | .minTurnExpiry _
  | .cleaveBoundExpiry _ | .crevasseWaitingPost | .creditReturn _ _ _ _ | .swapIn _ | .ageExpiry _
  | .sliceFetchDone _ _ | .rekeyWalk _ | .varveNodeWriteback _ _ | .hotWindowEnd | .heartbeat | .frameReceive _ _ | .ackTimeout _
  | .readReq _ _ _ | .peerReq _ _ | .hello _ _ | .census _ _ | .censusResendTimer _ | .ringJoin _ | .joinTimeout _ | .lanesReady _
  | .linkSignalLost _ | .trainTimeout _ | .doeObject _ _ | .doeAbort _ | .spdmMessage _ _ | .getMeasurements _ _ _ | .keyPut _ _ _
  | .keyInfo _ _ _ | .keyClear _ _ _ | .migPut _ _ _ | .migClear _ _ _ | .holdupFall _
  | .holdupRise _ | .holdupEnd | .wake _ | .pwrGoodFall _ | .brownoutHoldEnter _ | .droopFall _ | .droopRise _ | .droopPaceEnd
  | .pwrbrakeChange _ _ | .paceUpdate _ | .assistRelax _ | .interruptEntry | .eoi _ | .mret | .accessFault _ _ | .uartFramingError
  | .configurationRequest _ _ | .boundaryScanTestMode _ => true
  | .registerWrite _ _ _ _ | .unmappedAccess _ _ _ _ | .splitLowWrite _ _ _ | .splitHighWrite _ _ _ | .sqTail _ _ | .cqHead _ _
  | .cqIntMask _ _ | .msixMaskClear _ _ | .cirqRtReserve _ | .cirqFnQcfg _ _ | .cirqAdminResume _ | .crevAbort _ | .snowHostAdd _
  | .snowImageCfg _ _ | .snowFnQuota _ _ | .adminQueueEnable _ | .engineResetRequest _ | .computeDomainResetRequest
  | .mapRange _ _ | .unmapRange _ _ | .mapRemote _ _ | .eviction _
  | .powerStateEntry | .ctxDestroy _ _ | .memFree _ _ | .checkpointSigned _ | .seqTruncate _ | .runAhead _ | .persistWriteDone | .ledgerFlushDone
  | .admitEntry _ _ _ | .commandComplete _ | .receiptAppend _ | .cqeWrite _ | .commandDeadlineExpiry _ | .drainComplete _
  | .drainWindowExpiry _ | .enableTakesEffect _ _ | .fnReset _ _ | .vfFunctionLevelReset _ | .functionResetEnd _ _
  | .pf0FunctionLevelReset | .fnImport _ _ _ | .topoCommit _ _ | .ctxReset _ _ | .memAlloc _ _ _ | .varRegister _ _ _
  | .varUpdate _ _ | .variantWaitEnd _ _ | .copy _ _ | .seqCreate _ | .provisioningPass | .issue _ | .tableWalkDone _ _
  | .tileDone _ _ | .cleaveReached _ _ | .saveData _ _ | .saveEnd _ _ | .restoreData _ | .tileError _ _ | .wblock _ | .tapIn _ _
  | .tapAnswer _ _ | .trainUpdate _ | .trainUpdateCommit _ | .memoryRequest _ | .memoryReadResponse _ _ _ _ | .vx1FrameMove _ _ _
  | .repairStart | .peerAnswerTimeout _ | .canonicalReadDone _ _ _ _ | .repairReadback _ _ _ | .railFault _ | .stallSentinelExpiry _
  | .progressSample | .heartbeatWatchdogExpiry | .engineResetComplete _ | .contextResetDeadline _ | .engineResetDeadline _
  | .computeDomainResetComplete | .computeDomainResetDeadline | .tarnRestartComplete | .tarnRestartDeadline | .writeReq _ _ _
  | .readResp _ _ | .writeAck _ _ | .peerResp _ _ | .e2eTimerExpiry _ | .ringHoldExpiry _ | .pwrGoodRise _ | .brownoutHoldExit _
  | .voltageMonitorReset _ _ | .voltageMonitorRelease _ _ | .coldResetAssert _ | .coldResetRelease _ | .warmResetAssert _
  | .warmResetRelease _ | .selftestDone _ | .selftestLimitExpiry | .uartCharacter _ | .monHelp | .monVer | .monHb | .monSt
  | .monRd _ _ | .monRq _ _ | .monWr _ _ | .monWq _ _ | .monFn _ | .monRec _ | .monRing | .monPwr | .monSeal | .monBaud _ | .monLock => false

end Sys2Proof.Machine
end

