-- ==== Sys2Proof/Certificates/Slice0/Obligations.lean ====
section
/-! DEFINITION. What is to be proved of the block. Each statement says what commands do, in terms of the spec's chapters named in its
docstring; `Answers` says that the command answers a next state. -/

open Sys2Proof Sys2Proof.Machine

/-- A full-width write to a register. REGISTER_WRITE of a register that lies at the offset, at the register's own width, writes that
register, and no held half of a split access is touched. (02_edges.md, Address windows; 02_edges.md, Block-wide and function
registers; 98_reader.md) -/
def Obligations.RegisterWrites : Prop :=
  ∀ (s : State) (sp : Space) (off w v : Nat) (r : Reg), s.reachable = true → sp ≠ .tarn → inBar sp off = true → aligned off w = true →
    placeAt sp off = some (.reg r 0) → w = r.width → s.noHalf (requester sp) →
    Sys2Proof.Machine.exec (.registerWrite sp off w v) s = .next (s.regWrite r (v % 2 ^ (8 * w)))

/-- What a write does to the fields of five registers. A write clears the bits of VX_ERR_STATUS and VX_PIN_EVENT that are written as 1,
holds SERAC_QUANTUM and ESK_HOT_CTL in their ranges, and has no effect on VX_TIMEBASE. (09_scheduling.md, Registers;
06_translation.md, Registers; 13_reliability.md, Registers; 15_power_and_supply.md, Registers; 01_organisation_and_timing.md, The
timebase) -/
def Obligations.RegisterFields : Prop :=
  ∀ (s : State) (v : Nat),
    (s.regWrite .errStatus v).loess.err = s.loess.err &&& ~~~(BitVec.ofNat 8 v) ∧
    (s.regWrite .pinEvent v).pins = { s.pins with droopSeen := s.pins.droopSeen && !bit v 0, holdupSeen := s.pins.holdupSeen && !bit v 1 } ∧
    (s.regWrite .seracQuantum v).serac = { s.serac with
      minTurnUs := clampTo 1 1000 (bits v 63 48), batchUs := max 10 (bits v 47 32), intUs := max 10 (bits v 31 16), rtUs := max 10 (bits v 15 0) } ∧
    (s.regWrite .hotCtl v).esk.windowNext = clampTo 1 1000 (bits v 9 0) ∧
    (s.regWrite .timebase v) = s

/-- Split access of a 64-bit register. A low-half write is held for its requester; the high-half write that follows it carries out one
64-bit write; a low-half read answers the low word and captures the high word for the high-half read. (02_edges.md, Address windows) -/
def Obligations.SplitAccess : Prop :=
  (∀ (s : State) (sp : Space) (off v : Nat) (r : Reg), s.reachable = true → sp ≠ .tarn → inBar sp off = true → off % 4 = 0 →
    placeAt sp off = some (.reg r 0) → r.width = 8 →
    Answers (Sys2Proof.Machine.exec (.splitLowWrite sp off v) s) fun t =>
      (t.halves (requester sp)).held = some (sp, off, v % 2 ^ 32) ∧ t.mem = s.mem ∧ t.loess = s.loess ∧ t.cirq = s.cirq) ∧
  (∀ (s : State) (sp : Space) (off v lo : Nat) (r : Reg), s.reachable = true → sp ≠ .tarn → inBar sp (off + 4) = true → off % 4 = 0 →
    placeAt sp (off + 4) = some (.reg r 4) → r.width = 8 → (s.halves (requester sp)).held = some (sp, off, lo) →
    Sys2Proof.Machine.exec (.splitHighWrite sp (off + 4) v) s =
      .next ((s.updHalves (requester sp) fun h => { h with held := none }).regWrite r (lo + at_ (v % 2 ^ 32) 32))) ∧
  (∀ (s : State) (sp : Space) (off : Nat) (r : Reg), s.reachable = true → sp ≠ .tarn → inBar sp off = true → off % 4 = 0 →
    placeAt sp off = some (.reg r 0) → r.width = 8 → s.noHalf (requester sp) →
    Answers (Sys2Proof.Machine.exec (.splitLowRead sp off) s) fun t =>
      (sp, halfPlace (.reg r 0) off, s.regRead r / 2 ^ 32) ∈ (t.halves (requester sp)).captured ∧ t.ports.host = s.ports.host ++ [.readData (s.regRead r % 2 ^ 32)])

/-- Doorbell writes to a queue that exists. SQ_TAIL, CQ_HEAD and CQ_INT written to the block of an enabled queue move the index or the
mask they name and no other index; an index at or above the depth changes no index and sets the error flag. (03_queues.md, Doorbell
blocks) -/
def Obligations.Doorbells : Prop :=
  ∀ (s : State) (d : Door) (v i : Nat) (q : Queue), s.reachable = true → doorOk d = true → s.noHalf (requester (doorAt d).1) →
    s.doorQueue d = some (i, q) → tget? s.queues i = some q →
    (v % 65536 < q.depth → Answers (Sys2Proof.Machine.exec (.sqTail d v) s) fun t =>
      t.queueHas i fun x => x.sqTail = v % 65536 ∧ x.sqHead = q.sqHead ∧ x.cqHead = q.cqHead) ∧
    (q.depth ≤ v % 65536 → Answers (Sys2Proof.Machine.exec (.sqTail d v) s) fun t =>
      t.queueHas i fun x => x.sqTail = q.sqTail ∧ x.dbError = true) ∧
    (q.depth ≤ v % 65536 → Answers (Sys2Proof.Machine.exec (.cqHead d v) s) fun t =>
      t.queueHas i fun x => x.cqHead = q.cqHead ∧ x.dbError = true) ∧
    (v % 65536 < q.depth → (v % 65536 + q.depth - q.cqHead) % max 1 q.depth ≤ q.unread → q.replay = none →
      Answers (Sys2Proof.Machine.exec (.cqHead d v) s) fun t => t.queueHas i fun x => x.cqHead = v % 65536 ∧ x.sqTail = q.sqTail) ∧
    (Answers (Sys2Proof.Machine.exec (.cqIntMask d v) s) fun t => t.queueHas i fun x => x.mask = bit v 0 ∧ x.sqTail = q.sqTail)

/-- Fetching submission entries. SQ_FETCH asks the host for the run of entries at the head; SQ_FETCH_DONE with data moves the head past
them; a failed fetch breaks the SQ and raises the event. (03_queues.md, Fetch and admission; 03_queues.md, Completions that cannot
be written) -/
def Obligations.QueueFetch : Prop :=
  (∀ (s : State) (q slot : Nat) (x : Queue), s.fetchGrant = some (q, slot) → tget? s.queues q = some x →
    Answers (Sys2Proof.Machine.exec (.sqFetch q) s) fun t =>
      t.queueHas q (fun y => y.fetching = s.fetchSize q x ∧ y.sqHead = x.sqHead) ∧
      t.ports.host = s.ports.host ++ s.readTx x.fn (x.sqBase + 64 * x.sqHead) (64 * s.fetchSize q x) ∧ t.cirq.fetchSlot = slot) ∧
  (∀ (s : State) (q : Nat) (x : Queue) (l : List Blob), tget? s.queues q = some x → x.fetching ≠ 0 →
    (x.sqBroken = false → x.cqBroken = false → x.fetchDead = false → (s.fn x.fn).phase = .enabled →
      Answers (Sys2Proof.Machine.exec (.sqFetchDone q l .ok) s) fun t =>
      t.queueHas q fun y => y.fetching = 0 ∧ y.sqHead = (x.sqHead + x.fetching) % max 1 x.depth ∧ y.fetched.length = x.fetched.length + x.fetching) ∧
    ∀ resp, resp ≠ .ok → Answers (Sys2Proof.Machine.exec (.sqFetchDone q l resp) s) fun t =>
      t.queueHas q (fun y => y.fetching = 0 ∧ y.sqBroken = true) ∧ ∃ e ∈ (t.fn x.eventFn).events, e.code = .sqFetchFailed)

/-- From admission to the completion entry. ADMIT_ENTRY completes a refused entry with the status of its check and records an accepted
admin entry; DISPATCH of a command whose order has come, COMMAND_COMPLETE of the unit whose turn it is, RECEIPT_APPEND and CQE_WRITE
of the queue whose turn it is each take the command to its next stage, and the CQE moves the CQ tail by one place of the ring.
(03_queues.md, Fetch and admission; 03_queues.md, Ordering; 03_queues.md, The completion entry; 12_receipts.md, Chains) -/
def Obligations.CommandPath : Prop :=
  (∀ (s : State) (i : Nat) (q : Queue) (e : Fetched) (l : List Fetched) (ecc : Ecc) (chk : PathCheck) (b : Blob), tget? s.queues i = some q →
    q.fetched = e :: l → s.cirqueRuns = true → s.recordFree = true → s.admitsOpen = true → (s.fn q.fn).phase = .enabled →
    (∀ st, (s.takeEntry i q e l).checkEntry q e.sqe = some st → AnswersSettled (Sys2Proof.Machine.exec (.admitEntry i { ecc := ecc, chk := chk } b) s) fun t =>
      t.completed (tfree s.cmds 0) st ∧ t.queueHas i fun y => y.fetched = l) ∧
    ((s.takeEntry i q e l).checkEntry q e.sqe = none → q.admin = true → AnswersSettled (Sys2Proof.Machine.exec (.admitEntry i { ecc := ecc, chk := chk } b) s) fun t =>
      t.cmdHas (tfree s.cmds 0) (fun c => c.sqe = e.sqe ∧ c.stage = .accepted ∧ c.fn = q.fn) ∧ t.queueHas i fun y => y.fetched = l)) ∧
  (∀ (s : State) (r : Nat) (c : Cmd), tget? s.cmds r = some c → s.cirqueRuns = true →
    (c.stage = .accepted → c.decided = none → s.orderOk c = true → (c.admin = true → s.adminRunning < 64) → AnswersSettled (Sys2Proof.Machine.exec (.dispatch r) s) fun t =>
      t.cmdHas r (fun x => x = { c with stage := .dispatched, seqno := s.cirq.accepts + 1 }) ∧ t.cirq.accepts = s.cirq.accepts + 1) ∧
    (c.stage = .ended → s.compGrant = some c.unit → AnswersSettled (Sys2Proof.Machine.exec (.commandComplete r) s) fun t => t.completed r c.status)) ∧
  (∀ (s : State) (r : Nat) (c : Cmd), tget? s.cmds r = some c → c.admin = false → c.stage = .completed → s.stagesRun = true → s.pwr.cut = false →
    s.stale c = false → c.order ≠ 0 → s.restartOwed c.fn = false → s.ledgerFull = false → s.ledgerLost = false →
    s.firstDone c (fun x => !x.admin && x.fn == c.fn && x.stage == .completed) = true →
    Answers (Sys2Proof.Machine.exec (.receiptAppend r) s) fun t =>
      t.cmdHas r (fun x => x.stage = .receipted) ∧ t.ledg.buffer.length = s.ledg.buffer.length + 1 ∧ (t.head c.fn).seq = (s.head c.fn).seq + 1) ∧
  (∀ (s : State) (r : Nat) (c : Cmd) (q : Queue), tget? s.cmds r = some c → tget? s.queues c.q = some q → s.cirqueRuns = true → s.pwr.cut = false →
    (c.stage = .receipted ∨ c.stage = .completed ∧ c.admin = true) → s.stale c = false →
    s.firstDone c (fun x => x.q == c.q && !x.unfinished) = true → q.cqBroken = false → q.replay = none → c.order ≠ 0 → s.cqeGrant = some c.q →
    Answers (Sys2Proof.Machine.exec (.cqeWrite r) s) fun t =>
      t.cmds = tdel s.cmds r ∧ t.queueHas c.q fun y => y.cqTail = if q.cqTail + 1 = q.depth then 0 else q.cqTail + 1)

/-- Queue confirmations, interrupts, events, deadlines and drains. An answered confirming read forgets the oldest entry of the burst,
and one of a replay that is over counts as answered only; the interrupt time signals; an event entry is written in the turn of its
CQ when one of the places kept for events is left (log entry 140); a deadline decides TIMEOUT for a live command and for one that
ended SUCCESS and is not recorded, and leaves a failure already found (log entry 72); a command whose drain is complete completes
with the status decided. (03_queues.md, Event entries; 03_queues.md, Interrupts; 03_queues.md, Command timeout; 03_queues.md,
Completions that cannot be written) -/
def Obligations.QueueEvents : Prop :=
  (∀ (s : State) (i : Nat) (q : Queue), tget? s.queues i = some q →
    (q.deadReads = 0 → q.burst ≠ [] → q.replay = none → q.firstRead = none → Answers (Sys2Proof.Machine.exec (.cqConfirmReadDone i .ok) s) fun t =>
      t.queueHas i fun y => y = q.confirmOne) ∧
    (q.deadReads ≠ 0 → q.firstRead = none → ∀ resp, Answers (Sys2Proof.Machine.exec (.cqConfirmReadDone i resp) s) fun t =>
      t.queueHas i fun y => y = { q with deadReads := q.deadReads - 1 }) ∧
    (∀ t0, q.unsigSince = some t0 → q.mask = false → Answers (Sys2Proof.Machine.exec (.intTimeExpiry i) s) fun t =>
      t.queueHas i (fun y => y.unsignalled = 0 ∧ y.unsigSince = none) ∧ t0 + 1000 * q.intTime ≤ t.now)) ∧
  (∀ (s : State) (f i : Nat) (q : Queue) (e : PendEvent) (l : List PendEvent), s.queueAt? f 0 = some (i, q) → tget? s.queues i = some q →
    (s.fn f).events = e :: l → q.replay = none → s.eventDue i q = true → s.cqeGrant = some i → s.cirqueRuns = true → s.pwr.cut = false →
    Answers (Sys2Proof.Machine.exec (.eventEntryWrite f) s) fun t =>
      t.queueHas i fun y => y.cqTail = if q.cqTail + 1 = q.depth then 0 else q.cqTail + 1) ∧
  (∀ (s : State) (r : Nat) (c : Cmd), tget? s.cmds r = some c → s.stagesRun = true →
    (c.live = true → (c.admin = true → s.tarnRuns = true) →
      AnswersSettled (Sys2Proof.Machine.exec (.commandDeadlineExpiry r) s) fun t =>
        (t.decides r .timeout ∨ t.completed r .timeout) ∧ c.deadline ≤ t.now) ∧
    (c.stage = .ended → c.decided = none → c.status ≠ .success → Sys2Proof.Machine.exec (.commandDeadlineExpiry r) s = .next s) ∧
    (c.stage = .ended → c.decided = none → c.status = .success → AnswersSettled (Sys2Proof.Machine.exec (.commandDeadlineExpiry r) s) fun t =>
      t.completed r .timeout ∧ c.deadline ≤ t.now) ∧
    (∀ st, c.decided = some st → c.unfinished = true → (c.admin = true → s.tarnRuns = true) → s.holdsEngine r = false → c.updating = false →
      (c.admin = true ∨ s.resetHolds c.ctx = false) → AnswersSettled (Sys2Proof.Machine.exec (.drainComplete r) s) fun t => t.completed r st))

/-- Registers whose write is a command of the whole block. CIRQ_RT_RESERVE stages the reserve held at 25; CIRQ_ADMIN_RESUME begins the
replay of the device admin queue; SNOW_HOST_ADD of a chunk of 2 MiB adds its 8 pages of host memory, and an unaligned one is counted
as rejected; ADMIN_QUEUE_ENABLE enables PF0 or sets the configuration error; SNOW_IMAGE_CFG takes the token bytes of an unused
image. (03_queues.md, Cirque registers; 10_sequences.md, Registers; 16_tarn.md, Start-up; 03_queues.md, Service classes and the
Realtime reserve) -/
def Obligations.SharedRegisters : Prop :=
  ∀ (s : State) (v : Nat), s.reachable = true → s.noHalf 0 →
    Sys2Proof.Machine.exec (.cirqRtReserve v) s =
      .next (({ s with cirq := { s.cirq with rtPct := min 25 (v % 32) } } : State).stage (.rtReserve (min 25 (v % 32))) none) ∧
    (∀ i q, s.queueAt? 0 0 = some (i, q) → tget? s.queues i = some q → q.replay = none → (s.fn 0).phase = .enabled → bit v 0 = true →
      Answers (Sys2Proof.Machine.exec (.cirqAdminResume v) s) fun t =>
        t.queueHas i (fun x => x.replay = some none ∧ x.cqHead = q.cqHead) ∧
        t.ports.host = s.ports.host ++ s.readTx 0 (q.cqBase + 28) 4) ∧
    (v % 2 ^ 64 % frameBytes ≠ 0 → Answers (Sys2Proof.Machine.exec (.snowHostAdd v) s) fun t =>
      t.snow.hostRejects = satAdd s.snow.hostRejects 1 0xFFFF ∧ t.snow.hostTotal = s.snow.hostTotal) ∧
    (∀ k u, v % 2 ^ 64 % frameBytes = 0 → s.chooseChunks 1 [] = some [k] → s.takeChunks { prot := 0, key := kvKey } [(k, v % 2 ^ 64)] = some u →
      Answers (Sys2Proof.Machine.exec (.snowHostAdd v) s) fun t =>
        t.snow.hostTotal = s.snow.hostTotal + 8 ∧ t.snow.hostRejects = s.snow.hostRejects ∧ t.snow.passDue = true ∧ t.esk = u.esk) ∧
    (s.tarn.enabled = false → s.tarn.phase = 1 → bit v 0 = true → Answers (Sys2Proof.Machine.exec (.adminQueueEnable v) s) fun t =>
      if s.adminCfgOk = true then
        t.tarn.phase = 2 ∧ t.tarn.enabled = true ∧ (t.fn 0).phase = .enabled ∧ (t.fn 0).generation = 1 ∧
        t.queueHas 0 fun q => q.admin = true ∧ q.fn = 0 ∧ q.depth = s.tarn.depthM1 + 1 ∧ q.sqBase = s.tarn.sqBase ∧ q.cqBase = s.tarn.cqBase
      else t.tarn.adminCfgError = true ∧ t.tarn.enabled = false) ∧
    (∀ n, 0 < n → n < 64 → (tany s.snow.seqs fun _ q => q.image == n) = false →
      Answers (Sys2Proof.Machine.exec (.snowImageCfg n v) s) fun t => tget? t.snow.tokenBytes n = some (tokenBytesOf (v % 2 ^ 32)))

/-- Registers of one function whose write is a command. CIRQ_FN_QCFG sets the queue range and classes of a disabled VF, and only the
park cap of any other; SNOW_FN_QUOTA sets the page quota and makes a pass due where it is raised; MORAINE_CLEAR and WPLOG_FLUSH act
on a 1 and have no effect on a 0. (03_queues.md, Cirque registers; 10_sequences.md, Registers; 05_functions.md, Registers) -/
def Obligations.FunctionRegisters : Prop :=
  ∀ (s : State) (f v : Nat), f < 4096 → s.reachable = true → s.noHalf 0 →
    (f ≠ 0 → (s.fn f).phase = .disabled → Answers (Sys2Proof.Machine.exec (.cirqFnQcfg f v) s) fun t =>
      (t.fn f).qBase = bits v 12 0 ∧ (t.fn f).qCount = min 1024 (bits v 26 16) ∧ (t.fn f).classes = bits v 34 32 ∧
      (t.fn f).parkCap = clampTo 2 1024 (bits v 52 42)) ∧
    (f ≠ 0 → (s.fn f).phase ≠ .disabled → Answers (Sys2Proof.Machine.exec (.cirqFnQcfg f v) s) fun t =>
      (t.fn f).qBase = (s.fn f).qBase ∧ (t.fn f).qCount = (s.fn f).qCount ∧ (t.fn f).classes = (s.fn f).classes ∧
      (t.fn f).parkCap = clampTo 2 1024 (bits v 52 42)) ∧
    Answers (Sys2Proof.Machine.exec (.snowFnQuota f v) s) (fun t =>
      (t.fn f).maxPages = v % 2 ^ 32 ∧
        ((s.fn f).maxPages ≠ 0 → v % 2 ^ 32 = 0 ∨ (s.fn f).maxPages < v % 2 ^ 32 → t.snow.passDue = true)) ∧
    (bit v 0 = true → Answers (Sys2Proof.Machine.exec (.moraineClear f v) s) fun t => t.fn f = { s.fn f with moraine := 0 }) ∧
    (bit v 0 = true → Answers (Sys2Proof.Machine.exec (.wplogFlush f v) s) fun t =>
      t.fn f = { s.fn f with wplog := { (s.fn f).wplog with flushDone := false, flushing := true, filter := [] } }) ∧
    (bit v 0 = false → Sys2Proof.Machine.exec (.moraineClear f v) s = .next s ∧ Sys2Proof.Machine.exec (.wplogFlush f v) s = .next s)

/-- Control writes to Esker, Floe and Loess. The Crevasse retry, abort and head writes, the ring join and release requests, the engine
and compute-domain reset requests and the reset-head write have the effect given where their conditions hold; a Crevasse retry on a
union that is not wholly mapped and a reset head beyond the tail have none. (06_translation.md, Registers; 06_translation.md, Faults
and the Crevasse queue; 13_reliability.md, Registers; 13_reliability.md, Reset domains; 14_links.md, Registers) -/
def Obligations.ControlWrites : Prop :=
  ∀ (s : State), s.reachable = true → s.noHalf 0 →
    (∀ slot r x, s.crevOpenAt slot = some r → tget? s.ctxs r.ctx = some x → wholeMapped x.leaves r.union = true →
      Sys2Proof.Machine.exec (.crevRetry slot) s = .next (s.setCrev slot { r with status := 1, stuck := [] }).settle) ∧
    (∀ slot r x, s.crevOpenAt slot = some r → tget? s.ctxs r.ctx = some x → wholeMapped x.leaves r.union = false →
      Sys2Proof.Machine.exec (.crevRetry slot) s = .next s) ∧
    (∀ slot r, s.crevOpenAt slot = some r →
      Sys2Proof.Machine.exec (.crevAbort slot) s = .next ((s.setCrev slot { r with status := 2, stuck := [] }).failList r.stuck .faultAborted).settle) ∧
    (∀ v n, n = (v % 1024 + 1024 - s.esk.crevHead) % 1024 → s.esk.crevHead < 1024 → n ≤ s.esk.crevHeld →
      (∀ i ∈ s.esk.crevSlots.take n, ∀ r, tget? s.esk.crev i = some r → r.status ≠ 0) →
      Answers (Sys2Proof.Machine.exec (.crevHeadWrite v) s) fun t => t.esk.crevHead = v % 1024 ∧ t.esk.crev = s.esk.crev) ∧
    (∀ k, s.ringCtlOk k = true →
      (s.linkPresent (2 * k) && s.linkPresent (2 * k + 1) = true → Sys2Proof.Machine.exec (.ringJoinRequest k) s = .next (s.ringCtl k true)) ∧
      Sys2Proof.Machine.exec (.ringReleaseRequest k) s = .next (s.ringCtl k false)) ∧
    (∀ e, s.resetReqOk = true → s.engineExists e = true → e / 256 < 0x0C →
      Sys2Proof.Machine.exec (.engineResetRequest e) s = .next (s.engineReset e 12 none 0 0xFFFF).settle) ∧
    (s.resetReqOk = true → s.loess.domain = none → (s.loess.domainTimes.filter fun t => decide (s.now < t + 60000000000)).length < 3 →
      AnswersSettled (Sys2Proof.Machine.exec .computeDomainResetRequest s) fun t =>
        t.loess.domain.any (fun x => x.start == s.now && x.deadline == s.now + 5000000 && x.heldAt == s.pwr.heldNs) = true ∧
        t.loess.domains = satAdd s.loess.domains 1 0xFFFF) ∧
    (∀ v, (v % 256 + 256 - s.loess.head) % 256 ≤ (s.loess.tail + 256 - s.loess.head) % 256 →
      Answers (Sys2Proof.Machine.exec (.resetHeadWrite v) s) fun t => t.loess.head = v % 256 ∧ t.loess.records = s.loess.records) ∧
    (∀ v, (s.loess.tail + 256 - s.loess.head) % 256 < (v % 256 + 256 - s.loess.head) % 256 →
      Sys2Proof.Machine.exec (.resetHeadWrite v) s = .next s)

/-- Accesses that reach no register. An access inside a BAR that is not aligned to its width or lies at an offset with no register is
counted once as unmapped; a read of that kind answers 0. What the model takes an UNMAPPED_ACCESS row to carry out is log entry 24.
(02_edges.md, Address windows; 00_scope.md, Registers and formats) -/
def Obligations.UnmappedAccesses : Prop :=
  ∀ (s : State) (sp : Space) (off w : Nat), s.reachable = true → sp ≠ .tarn → inBar sp off = true → s.noHalf (requester sp) →
    (aligned off w = false ∨ placeAt sp off = none) →
    (∀ v, Sys2Proof.Machine.exec (.unmappedAccess sp off w (some v)) s = .next (s.countUnmapped 1)) ∧
    Sys2Proof.Machine.exec (.unmappedAccess sp off w none) s = .next ((s.countUnmapped 1).pushHost (.readData 0))

/-- A doorbell write with no enabled queue has no effect but its count. SQ_TAIL or CQ_HEAD written to the block of a queue that does not
exist, or whose function is not Enabled, changes nothing but CIRQ_DB_REJECT, which it counts up. (R97) -/
def Obligations.DoorbellRejected : Prop :=
  ∀ (s : State) (d : Door) (v : Nat), s.reachable = true → doorOk d = true → s.noHalf (requester (doorAt d).1) →
    (∀ i q, s.blockQueue d = some (i, q) → (s.fn q.fn).phase ≠ .enabled) →
    Sys2Proof.Machine.exec (.sqTail d v) s = .next { s with cirq := { s.cirq with dbReject := satAdd s.cirq.dbReject 1 0xFFFFFFFF } } ∧
    Sys2Proof.Machine.exec (.cqHead d v) s = .next { s with cirq := { s.cirq with dbReject := satAdd s.cirq.dbReject 1 0xFFFFFFFF } }

/-- IDENTIFY, QP_CREATE, QP_DELETE and CQ_RESUME. IDENTIFY answers the identity block or HOST_ACCESS_FAILED; QP_CREATE makes the queue
named with the attributes given, or fails with the status of the failed check and changes no queue; QP_DELETE fails BUSY on a busy
queue and removes it otherwise; CQ_RESUME begins the replay or answers CQ_STILL_BROKEN. (04_commands_and_graphs.md, Admin parameter
area; 03_queues.md, Queue pairs and their owners; 03_queues.md, Completions that cannot be written) -/
def Obligations.AdminQueueCommands : Prop :=
  ∀ (s : State) (r : Nat) (c : Cmd) (io : HostIo),
    (s.takes r 0x00 c → io.write = .ok → Answers (Sys2Proof.Machine.exec (.identify r io) s) fun t =>
      t.ended r .success ∧ t.cmdHas r (fun x => x.result = padTo 64 (s.identity c.fn)) ∧
      ((s.fn c.fn).wplog.active = false →
        t.ports.host = s.ports.host ++ (s.writeTx c.fn (admResult c.sqe) (padTo 64 (s.identity c.fn)) ++ s.readTx c.fn (admResult c.sqe + 60) 4))) ∧
    (s.takes r 0x00 c → io.write ≠ .ok → Answers (Sys2Proof.Machine.exec (.identify r io) s) fun t => t.ended r .hostAccessFailed) ∧
    (s.takes r 0x01 c → ∀ f, namedFn c (fld c.sqe 62 2) = some f →
      (∀ st, (s.begun r).checkQpCreate c f (fld c.sqe 52 2) = some st →
        Answers (Sys2Proof.Machine.exec (.qpCreate r io) s) fun t => t.ended r st ∧ t.queues = s.queues) ∧
      ((s.begun r).checkQpCreate c f (fld c.sqe 52 2) = none → Answers (Sys2Proof.Machine.exec (.qpCreate r io) s) fun t => t.ended r .success ∧
        t.queueHas (s.qid f (fld c.sqe 52 2)) (fun q => q.fn = f ∧ q.admin = (fld c.sqe 52 2 == 0) ∧ q.sqBase = fld c.sqe 32 8 ∧
          q.cqBase = fld c.sqe 40 8 ∧ q.depth = fld c.sqe 48 4 ∧ q.cls = fld c.sqe 54 1 ∧ q.sqHead = 0 ∧ q.sqTail = 0 ∧ q.cqHead = 0 ∧
          q.cqTail = 0 ∧ q.phase = true) ∧
        ∀ k, k ≠ s.qid f (fld c.sqe 52 2) → tget? t.queues k = tget? s.queues k)) ∧
    (s.takes r 0x02 c → ∀ i q, s.namedQueue c true = .ok (i, q) →
      ((s.begun r).queueBusy i q = true → Answers (Sys2Proof.Machine.exec (.qpDelete r io) s) fun t => t.ended r .busy ∧ t.queues = s.queues) ∧
      ((s.begun r).queueBusy i q = false → Answers (Sys2Proof.Machine.exec (.qpDelete r io) s) fun t =>
        t.ended r .success ∧ t.queues = tdel s.queues i)) ∧
    (s.takes r 0x03 c → ∀ i q, s.namedQueue c false = .ok (i, q) →
      (io.read ≠ .ok ∨ q.replay.isSome = true → Answers (Sys2Proof.Machine.exec (.cqResume r io) s) fun t => t.ended r .cqStillBroken) ∧
      (io.read = .ok → q.replay = none → Sys2Proof.Machine.exec (.cqResume r io) s =
        .next (((((s.begun r).hostRead q.fn (q.cqBase + 28) 4).modQ i fun x => { x with replay := some (some r), replayOn := true }).handOver r).replayStep i)))

/-- FN_ENABLE, FN_QUIESCE, FN_RESET and Function Level Resets. Each takes the function named into its next state where it stands in a
state that allows it, joins a transition under way, and otherwise ends with the status given; a Function Level Reset of a VF begins
its reset; one of PF0 leaves the block as a warm reset leaves it. (05_functions.md, States; 05_functions.md, Enabling;
05_functions.md, Quiescing; 05_functions.md, Function reset; 02_edges.md, Host port) -/
def Obligations.AdminFunctionCommands : Prop :=
  ∀ (s : State) (r : Nat) (c : Cmd) (io : HostIo) (f : Nat), f = fld c.sqe 32 2 → vfField f = true →
    (s.takes r 0x10 c → (s.fn f).phase = .disabled → (s.begun r).enableCheck f = none →
      Answers (Sys2Proof.Machine.exec (.fnEnable r io) s) fun t => t.fn f = { s.fn f with phase := .enabling, enablers := [r] } ∧
        t.cmdHas r fun x => x.stage = .running ∧ x.parked = true) ∧
    (s.takes r 0x10 c → (s.fn f).phase = .enabled → io.write = .ok →
      Answers (Sys2Proof.Machine.exec (.fnEnable r io) s) fun t => t.ended r .success ∧
        t.cmdHas r fun x => x.result = padTo 64 (leBytes 2 (s.fn f).generation)) ∧
    (s.takes r 0x10 c → (s.fn f).phase = .quiescing → bit (fld c.sqe 34 1) 0 = false →
      Answers (Sys2Proof.Machine.exec (.fnEnable r io) s) fun t => t.ended r .busyQuiescing ∧ t.fn f = s.fn f) ∧
    (s.takes r 0x11 c → (s.fn f).phase = .enabled → Answers (Sys2Proof.Machine.exec (.fnQuiesce r io) s) fun t =>
      t.fn f = { s.fn f with phase := .quiescing, quiescers := [r] } ∧ t.cmdHas r (fun x => x.journal = .handedOver) ∧
      ∀ i q, tget? t.queues i = some q → q.fn = f → q.fetched = [] ∧ (q.fetching ≠ 0 → q.fetchDead = true)) ∧
    (s.takes r 0x11 c → (s.fn f).phase = .disabled → Answers (Sys2Proof.Machine.exec (.fnQuiesce r io) s) fun t =>
      t.ended r .notReady ∧ t.fn f = s.fn f) ∧
    (s.takes r 0x12 c → (s.fn f).phase = .enabled ∨ (s.fn f).phase = .disabled ∨ (s.fn f).phase = .quiescing → io.write = .ok →
      Sys2Proof.Machine.exec (.fnReset r io) s =
        .next ((((((s.begun r).writeResult { c with stage := .running, start := some s.now } (leBytes 2 (nextGen (s.fn f).generation))).modCmd r
          fun x => { x with result := padTo 64 (leBytes 2 (nextGen (s.fn f).generation)) }).handOver r).updFn f fun x => { x with resetters := [r] }).beginReset f)) ∧
    (s.takes r 0x12 c → (s.fn f).phase = .resetting → Answers (Sys2Proof.Machine.exec (.fnReset r io) s) fun t =>
      (t.fn f).resetters = (s.fn f).resetters ++ [r] ∧ (t.fn f).phase = .resetting) ∧
    (s.configurable = true → (s.fn f).phase = .enabled ∨ (s.fn f).phase = .disabled ∨ (s.fn f).phase = .quiescing →
      Sys2Proof.Machine.exec (.vfFunctionLevelReset f) s = .next (s.beginReset f)) ∧
    (s.configurable = true → Answers (Sys2Proof.Machine.exec .pf0FunctionLevelReset s) fun t =>
      t.cmds = [] ∧ t.queues = [] ∧ t.ctxs = [] ∧ (t.fn f).phase = .disabled ∧ t.tarn.released = t.now)

/-- Ends of enable, quiesce, reset and flush. Where no restart receipt is owed, an enable whose result write succeeds leaves the
function Enabled under the next generation and ends its commands SUCCESS, and one whose write fails leaves it Disabled; a quiesce
with no command left disables the function and ends its commands; a drained reset first drops the mappings of the function and
begins their invalidations (log entry 145), and once none is left tears the function down and leaves it Enabled or Disabled as it
stood, its queues empty; a flushed written-page log clears its filter and ends the stop that waits for it. Each answers a next state
wherever its conditions on the state hold. (05_functions.md, Enabling; 05_functions.md, Quiescing; 05_functions.md, Function reset;
05_functions.md, Live migration) -/
def Obligations.FunctionTransitions : Prop :=
  ∀ (s : State) (f : Nat) (io : HostIo),
    (∀ r l c, (s.fn f).phase = .enabling → s.tarnRuns = true → s.restartWaits f = false → (s.fn f).enablers = r :: l → tget? s.cmds r = some c →
      c.decided = none → (s.fn f).afterwards = [] →
      (io.write = .ok → Answers (Sys2Proof.Machine.exec (.enableTakesEffect f io) s) fun t =>
        (t.fn f).phase = .enabled ∧ (t.fn f).generation = nextGen (s.fn f).generation ∧ (t.fn f).vx1 = (s.fn f).vx1Next ∧ (t.fn f).enablers = [] ∧
          t.ended r .success ∧ t.cmdHas r fun x => x.result = padTo 64 (leBytes 2 (nextGen (s.fn f).generation))) ∧
      (io.write ≠ .ok → Answers (Sys2Proof.Machine.exec (.enableTakesEffect f io) s) fun t =>
        (t.fn f).phase = .disabled ∧ (t.fn f).generation = (s.fn f).generation ∧ (t.fn f).enablers = [] ∧ t.ended r .hostAccessFailed)) ∧
    ((s.fn f).phase = .quiescing → s.cmdsOf f = [] → s.tarnRuns = true → (s.fn f).enablers = [] →
      Answers (Sys2Proof.Machine.exec (.quiesceComplete f) s) fun t =>
        t.fn f = { s.fn f with phase := .disabled, quiescers := [] } ∧
          ∀ r c, r ∈ (s.fn f).quiescers → tget? s.cmds r = some c → c.decided = none → t.ended r .success) ∧
    ((s.fn f).phase = .resetting → s.resetDrained f = true → s.tarnRuns = true →
      ((((s.cmdsOf f).foldl State.discard s).discardParked f).mappedCtxs f ≠ [] → AnswersSettled (Sys2Proof.Machine.exec (.functionResetEnd f io) s) fun t =>
        (t.fn f).tearing = (((s.cmdsOf f).foldl State.discard s).discardParked f).mappedCtxs f) ∧
      (∀ v, v = (((s.cmdsOf f).foldl State.discard s).discardParked f) → v.mappedCtxs f = [] →
        ((v.teardown f).fn f).afterwards = [] → ((v.teardown f).fn f).enablers = [] →
        AnswersSettled (Sys2Proof.Machine.exec (.functionResetEnd f io) s) fun t =>
          (t.fn f).phase = (if (s.fn f).wasEnabled then .enabled else .disabled) ∧ (t.fn f).generation = ((v.teardown f).fn f).generation ∧
          (∀ i q, tget? t.queues i = some q → q.fn = f → q.admin = true ∧ q.sqHead = 0 ∧ q.sqTail = 0 ∧ q.cqHead = 0 ∧ q.cqTail = 0 ∧ q.phase = true))) ∧
    ((s.fn f).wplog.flushing = true → s.stagesRun = true →
      ((s.fn f).wplog.stopper = none → Answers (Sys2Proof.Machine.exec (.wplogFlushDone f) s) fun t =>
        (t.fn f).wplog = { (s.fn f).wplog with flushing := false, flushDone := true, filter := [] } ∧ t.cmds = s.cmds) ∧
      (∀ x, (s.fn f).wplog.stopper = some x → Answers (Sys2Proof.Machine.exec (.wplogFlushDone f) s) fun t =>
          (t.fn f).wplog = { (s.fn f).wplog with flushing := false, flushDone := true, filter := [], stopper := none, active := false } ∧
            ∀ r c, r ∈ s.stopsOf f → tget? s.cmds r = some c → c.decided = none → t.ended r .success))

/-- FN_EXPORT, FN_IMPORT and WPLOG_CTL. FN_EXPORT writes the blob and counts the export, ends INVALID_FIELD where the chunks are too few
for it, or KEY_UNAVAILABLE without a migration key; FN_IMPORT installs a blob that opens under the migration key, whose images and
sizes fit, and fails AUTH_FAILED for one that does not open, changing no context or allocation; WPLOG_CTL starts a log at an empty
ring and stops one by a flush. (05_functions.md, Live migration; 11_protection.md, Tenant records over SPDM) -/
def Obligations.MigrationAndLogCommands : Prop :=
  ∀ (s : State) (r : Nat) (c : Cmd) (io : HostIo) (f : Nat), f = fld c.sqe 32 2 → vfField f = true →
    (∀ m l, s.takes r 0x13 c → tget? s.kao.migs f = some m → (s.fn f).phase = .disabled → admDataAddr c.sqe ≠ 0 → io.read = .ok → io.write = .ok →
      chunkList (padTo (admDataLen c.sqe) io.data) = some l →
      Answers (Sys2Proof.Machine.exec (.fnExport r io) s) fun t =>
        if (((s.begun r).hostRead c.fn (admDataAddr c.sqe) (admDataLen c.sqe)).blob f m).length ≤ l.length * frameBytes then
          t.ended r .success ∧ tget? t.kao.migs f = some { m with exports := m.exports + 1 }
        else t.ended r .invalidField ∧ t.kao = s.kao) ∧
    (s.takes r 0x13 c → tget? s.kao.migs f = none → Answers (Sys2Proof.Machine.exec (.fnExport r io) s) fun t =>
      t.ended r .keyUnavailable ∧ t.kao = s.kao) ∧
    (∀ as frames v b, s.takes r 0x14 c → admDataAddr c.sqe ≠ 0 → io.read = .ok →
      chunkList (padTo (admDataLen c.sqe) io.data) = some as →
      v = as.foldl (fun w a => w.hostRead c.fn a frameBytes) ((s.begun r).hostRead c.fn (admDataAddr c.sqe) (admDataLen c.sqe)) →
      b = io.data.drop (admDataLen c.sqe) → v.blobHeadOk b = true →
      (match v.openBlob f b with
       | none => Answers (Sys2Proof.Machine.exec (.fnImport r io frames) s) fun t => t.ended r .authFailed ∧ t.allocs = s.allocs ∧ t.ctxs = s.ctxs
       | some z => v.importable f = true → v.blobFits f b = true → v.imagesOk z = true → (v.install f z (fld b 40 8) frames).isSome = true →
         Sys2Proof.Machine.exec (.fnImport r io frames) s =
           .next (v.answer r c io (leBytes 2 z.generation) fun y => (y.install f z (fld b 40 8) frames).getD y))) ∧
    (s.takes r 0x15 c → fld c.sqe 34 1 = 1 → wplogEntriesOk (fld c.sqe 36 4) = true → admDataAddr c.sqe ≠ 0 →
      admDataLen c.sqe = 8 * fld c.sqe 36 4 → (s.fn f).wplog.active = false → tcount s.fns (fun _ x => x.wplog.active) < 64 →
      Answers (Sys2Proof.Machine.exec (.wplogCtl r io) s) fun t => t.ended r .success ∧ (t.fn f).wplog.active = true ∧
        (t.fn f).wplog.base = admDataAddr c.sqe ∧ (t.fn f).wplog.entries = fld c.sqe 36 4 ∧ (t.fn f).wplog.head = 0 ∧ (t.fn f).wplog.tail = 0) ∧
    (s.takes r 0x15 c → fld c.sqe 34 1 = 0 → (s.fn f).wplog.active = true →
      Answers (Sys2Proof.Machine.exec (.wplogCtl r io) s) fun t =>
        (t.fn f).wplog = { (s.fn f).wplog with flushDone := false, flushing := true, filter := [], stopper := some r })

/-- TOPO_WRITE, TOPO_COMMIT, CONFIG_SET and CONFIG_ADOPT. TOPO_WRITE stores a section before the commit and fails TOPOLOGY_LOCKED after
it; TOPO_COMMIT commits a table with no fault, reports the first fault, and succeeds again once committed; CONFIG_SET writes its
result and then stages the item, and stages nothing where the write fails (log entry 68); CONFIG_ADOPT marks an engine at its safe
point. The checks at the commit alone are log entry 25. (04_commands_and_graphs.md, The topology table; 05_functions.md,
Configuration epochs) -/
def Obligations.TopologyAndConfiguration : Prop :=
  ∀ (s : State) (r : Nat) (c : Cmd) (io : HostIo),
    (∀ k, s.takes r 0x18 c → k = fld c.sqe 32 1 → 1 ≤ k → k ≤ 4 → s.topo.committed = false → admDataAddr c.sqe ≠ 0 → io.read = .ok → io.write = .ok →
      sectionLenOk k (admDataLen c.sqe) = true → Answers (Sys2Proof.Machine.exec (.topoWrite r io) s) fun t =>
        t.ended r .success ∧ t.topo = s.topo.put k (padTo (admDataLen c.sqe) io.data)) ∧
    (∀ k, s.takes r 0x18 c → k = fld c.sqe 32 1 → 1 ≤ k → k ≤ 2 → s.topo.committed = true →
      Answers (Sys2Proof.Machine.exec (.topoWrite r io) s) fun t => t.ended r .topologyLocked ∧ t.topo = s.topo) ∧
    (s.takes r 0x19 c → s.topo.committed = true → io.write = .ok →
      Answers (Sys2Proof.Machine.exec (.topoCommit r io) s) fun t => t.ended r .success ∧ t.topo = s.topo) ∧
    (∀ e, s.takes r 0x19 c → s.topo.committed = false → (s.begun r).topoFault = some e → io.write = .ok →
      Answers (Sys2Proof.Machine.exec (.topoCommit r io) s) fun t => t.ended r .topologyInvalid ∧ t.topo = s.topo) ∧
    (s.takes r 0x19 c → s.topo.committed = false → (s.begun r).topoFault = none → io.write = .ok →
      Sys2Proof.Machine.exec (.topoCommit r io) s =
        .next (((((s.begun r).writeResult c (topoResult 0 0)).commitTopo).modCmd r fun x => { x with result := padTo 64 (topoResult 0 0) }).commit r)) ∧
    (∀ i b, s.takes r 0x1C c → configItem (fld c.sqe 32 2) (fld c.sqe 34 2) (fld c.sqe 40 8) = some i → (s.begun r).configRefused i = none →
      b = ({ epoch := (s.cfg.epoch + 1) % 2 ^ 64, item := i } : Staged).result →
      (io.write = .ok → ∀ u, u = (s.begun r).writeResult c b → Sys2Proof.Machine.exec (.configSet r io) s =
        .next ((((match i with | .rtReserve v => { u with cirq := { u.cirq with rtPct := v } } | _ => u : State).modCmd r fun x =>
          { x with result := padTo 64 b }).handOver r).stage i (some r))) ∧
      (io.write ≠ .ok → Answers (Sys2Proof.Machine.exec (.configSet r io) s) fun t => t.ended r .hostAccessFailed ∧ t.cfg = s.cfg)) ∧
    (s.takes r 0x1C c → configItem (fld c.sqe 32 2) (fld c.sqe 34 2) (fld c.sqe 40 8) = none →
      Answers (Sys2Proof.Machine.exec (.configSet r io) s) fun t => t.ended r .invalidField ∧ t.cfg = s.cfg) ∧
    (∀ e x, s.stagesRun = true → s.cfg.staged.find? (fun x => (s.concerned x.item).contains e && !x.adopted.contains e) = some x →
      s.safePoint e x.item = true → Sys2Proof.Machine.exec (.configAdopt e io) s =
        .next (State.completeDue (let s1 := (s.adoptEffect e x.item).pulse 40
          { s1 with cfg := { s1.cfg with staged := s1.cfg.staged.map fun y => if y.epoch = x.epoch then { y with adopted := y.adopted ++ [e] } else y } })))

/-- PWR_STATE, PWR_LIMIT, PATCH_LOAD, MON_UNLOCK, KEY_ASSIGN and KEY_RELEASE. Each has its effect on the power state, the limits, the
patch, the monitor lock or the key owners where its fields allow it, and otherwise ends with the status given and changes none of
them. (15_power_and_supply.md, The four states; 15_power_and_supply.md, Power limit and pacing; 16_tarn.md, Signed patches;
16_tarn.md, The serial monitor; 11_protection.md, Key IDs and Kaolin slots) -/
def Obligations.PowerPatchAndKeyCommands : Prop :=
  ∀ (s : State) (r : Nat) (c : Cmd) (io : HostIo),
    (s.takes r 0x1D c → s.computeReset = false → fld c.sqe 32 1 = 0 → Answers (Sys2Proof.Machine.exec (.pwrState r io) s) fun t =>
      t.ended r .success ∧ t.pwr = { s.pwr with st := .active, relaxed := [] }) ∧
    (s.takes r 0x1D c → s.computeReset = false → fld c.sqe 32 1 = 1 → Answers (Sys2Proof.Machine.exec (.pwrState r io) s) fun t =>
      t.ended r .success ∧ t.pwr = { s.pwr with st := .chill }) ∧
    (∀ k, s.takes r 0x1D c → s.computeReset = false → k = fld c.sqe 32 1 → k = 2 ∨ k = 3 → (s.begun r).powerBusy r = false →
      Answers (Sys2Proof.Machine.exec (.pwrState r io) s) fun t =>
        t.ended r .success ∧ t.pwr = { s.pwr with target := if k = 2 then .freeze else .permafrost }) ∧
    (s.takes r 0x1D c → s.computeReset = true → fld c.sqe 32 1 ≤ 3 → Answers (Sys2Proof.Machine.exec (.pwrState r io) s) fun t =>
      t.ended r .busy ∧ t.pwr = s.pwr) ∧
    (s.takes r 0x1E c → 30 ≤ fld c.sqe 34 2 → fld c.sqe 34 2 ≤ fld c.sqe 32 2 → fld c.sqe 32 2 ≤ 150 →
      Answers (Sys2Proof.Machine.exec (.pwrLimit r io) s) fun t =>
        t.ended r .success ∧ t.pwr = { s.pwr with limitW := fld c.sqe 32 2, emergencyW := fld c.sqe 34 2 }) ∧
    (s.takes r 0x1E c → 150 < fld c.sqe 32 2 → Answers (Sys2Proof.Machine.exec (.pwrLimit r io) s) fun t =>
        t.ended r .invalidField ∧ t.pwr = s.pwr) ∧
    (s.takes r 0x1F c → s.tarn.patchCmd = none → (∀ e ∈ s.cmds, e.2.admin = true → e.1 ≠ r → e.2.stage ≠ .running ∧ e.2.stage ≠ .dispatched) →
      admDataAddr c.sqe = 0 → admDataLen c.sqe = 0 → io.write = .ok → Answers (Sys2Proof.Machine.exec (.patchLoad r io) s) fun t =>
        t.tarn.patch = [] ∧ t.tarn.svn = 0 ∧ t.tarn.digest = [] ∧ t.loess.restartForPatch = true ∧
        t.loess.restart = some { start := s.now, deadline := s.now + 1000000, slot := 0, heldAt := s.pwr.heldNs } ∧
        t.cmdHas r fun x => x.journal = .committed ∧ x.result = padTo 64 (zeros 48)) ∧
    (∀ b, s.takes r 0x1F c → s.tarn.patchCmd = none → (∀ e ∈ s.cmds, e.2.admin = true → e.1 ≠ r → e.2.stage ≠ .running ∧ e.2.stage ≠ .dispatched) →
      admDataAddr c.sqe ≠ 0 → admDataLen c.sqe ≤ 131072 → io.read = .ok → io.write = .ok → b = padTo (admDataLen c.sqe) io.data →
      Answers (Sys2Proof.Machine.exec (.patchLoad r io) s) fun t =>
        match patchFault b (admDataLen c.sqe) with
        | none => t.tarn.patch = b.take (admDataLen c.sqe - 96) ∧ t.tarn.svn = fld b 8 4 ∧ t.loess.restart.isSome = true
        | some st => t.ended r st ∧ t.tarn = s.tarn) ∧
    (s.takes r 0x20 c → bit (fld c.sqe 48 1) 0 = true → zeroAt c.sqe 32 16 = true → Answers (Sys2Proof.Machine.exec (.monUnlock r io) s) fun t =>
      t.ended r .success ∧ t.tarn = { s.tarn with unlocked := false }) ∧
    (s.takes r 0x20 c → bit (fld c.sqe 48 1) 0 = false → s.tarn.lockout = false →
      Answers (Sys2Proof.Machine.exec (.monUnlock r io) s) fun t =>
        if slice c.sqe 32 16 = s.unlockCode then
          t.ended r .success ∧ t.tarn = { s.tarn with unlocked := true, challenge := s.draw % 2 ^ 64 }
        else t.ended r .authFailed ∧ t.tarn = { s.tarn with
          failures := satAdd s.tarn.failures 1 255, lockout := decide (3 ≤ s.tarn.failures), challenge := s.draw % 2 ^ 64 }) ∧
    (s.takes r 0x20 c → bit (fld c.sqe 48 1) 0 = false → s.tarn.lockout = true → Answers (Sys2Proof.Machine.exec (.monUnlock r io) s) fun t =>
        t.ended r .authFailed ∧ t.tarn = s.tarn) ∧
    (∀ k, s.takes r 0x22 c → keyRange c.sqe = some [k] → tget? s.kao.slots k = none → Answers (Sys2Proof.Machine.exec (.keyAssign r io) s) fun t =>
      t.ended r .success ∧ s.ownsKey (fld c.sqe 32 2) k = false ∧ t.ownsKey (fld c.sqe 32 2) k = decide (16 ≤ k)) ∧
    (∀ k, s.takes r 0x23 c → keyRange c.sqe = some [k] → s.ownsKey (fld c.sqe 32 2) k = true → s.keyUsed k = false →
      Answers (Sys2Proof.Machine.exec (.keyRelease r io) s) fun t => t.ended r .success ∧ t.kao.slots = tdel s.kao.slots k) ∧
    (∀ k, s.takes r 0x23 c → keyRange c.sqe = some [k] → s.ownsKey (fld c.sqe 32 2) k = true → s.keyUsed k = true →
      Answers (Sys2Proof.Machine.exec (.keyRelease r io) s) fun t => t.ended r .busy ∧ t.kao = s.kao)

/-- PWR_STATE is BUSY while an engine or the compute domain resets. A PWR_STATE that names a state, taken up while an engine reset or a
compute-domain reset is under way, completes BUSY and changes no power state. (R536) -/
def Obligations.PowerStateBusyDuringReset : Prop :=
  ∀ (s : State) (r : Nat) (c : Cmd) (io : HostIo), s.takes r 0x1D c → fld c.sqe 32 1 ≤ 3 →
    (s.loess.domain.isSome = true ∨ ∃ k e, (k, e) ∈ s.loess.engines ∧ e.rst.isSome = true) →
    Answers (Sys2Proof.Machine.exec (.pwrState r io) s) fun t => t.ended r .busy ∧ t.pwr = s.pwr ∧ t.loess = s.loess ∧ t.mem = s.mem

/-- CTX_CREATE, CTX_DESTROY, CTX_RESET, MEM_ALLOC, MEM_FREE and MEM_SHARE. Each makes, removes or changes the context or allocation it
names and no other, or ends with the status given and changes none. Which free frames an allocation takes is the operand of the row
(log entry 26); a context takes the lowest free slot states (log entry 164). (04_commands_and_graphs.md, Contexts, memory, images,
variants, graphs, receipts and pools; 06_translation.md, The frame key table; 13_reliability.md, Reset domains) -/
def Obligations.ContextAndMemoryCommands : Prop :=
  ∀ (s : State) (r : Nat) (c : Cmd) (io : HostIo),
    (∀ x id, s.takes r 0x28 c → io.write = .ok → id = tfree s.ctxs 1 →
      x = ({ fn := c.fn, clusters := fld c.sqe 32 4, image := fld c.sqe 36 4, prio := fld c.sqe 40 1 } : Ctx) → x.prio ≤ 15 → 1 ≤ x.image → x.image ≤ 63 →
      s.imageReady x.image = true → x.clusters ≠ 0 → (∀ u ∈ x.clusterList, bit (s.fn c.fn).clusters u = true ∧ (s.eng (seracEngine u)).fenced = false) →
      id ≤ 65535 → s.slotStates + x.clusterList.length ≤ 262144 → Answers (Sys2Proof.Machine.exec (.ctxCreate r io) s) fun t =>
        t.ended r .success ∧ t.ctxs = tset s.ctxs id { x with backing := s.takeSlotStates x.clusterList.length } ∧ t.cmdHas r fun y => y.result = padTo 64 (leBytes 2 id)) ∧
    (∀ y, s.takes r 0x29 c → s.invalWaits c.fn (fld c.sqe 32 2) = false → s.ctxOf c.fn (fld c.sqe 32 2) = some y →
      (y.pool ≠ 0 → Answers (Sys2Proof.Machine.exec (.ctxDestroy r io) s) fun t => t.ended r .busy ∧ t.ctxs = s.ctxs) ∧
      (y.pool = 0 → (s.begun r).ctxBusy (fld c.sqe 32 2) = false →
        Sys2Proof.Machine.exec (.ctxDestroy r io) s = .next (((s.begun r).destroyCtx (fld c.sqe 32 2)).commit r))) ∧
    (∀ y, s.takes r 0x2A c → s.ctxOf c.fn (fld c.sqe 32 2) = some y →
      Sys2Proof.Machine.exec (.ctxReset r io) s = .next (((s.begun r).handOver r).contextReset (fld c.sqe 32 2) 2 0 none (some r)).settle) ∧
    (s.takes r 0x2A c → s.ctxOf c.fn (fld c.sqe 32 2) = none → Answers (Sys2Proof.Machine.exec (.ctxReset r io) s) fun t =>
      t.ended r .invalidContext ∧ t.ctxs = s.ctxs) ∧
    (∀ l u frames, s.takes r 0x30 c → allocParamsOk c.sqe (s.fn c.fn).vx1 = true → fld c.sqe 41 1 = 0 → s.ownsKey c.fn (fld c.sqe 42 2) = true →
      fld c.sqe 40 1 ≠ 2 → io.write = .ok →
      (s.begun r).placeAlloc (s.fn c.fn).vx1 (fld c.sqe 40 1) (fld c.sqe 32 8 / frameBytes) frames
        { prot := fld c.sqe 41 1, key := fld c.sqe 42 2, fn := c.fn, alloc := tfree s.allocs 1 } = some (l, u) →
      Answers (Sys2Proof.Machine.exec (.memAlloc r io frames) s) fun t => t.ended r .success ∧
        (∃ a, tget? t.allocs (tfree s.allocs 1) = some a ∧ a.fn = c.fn ∧ a.size = fld c.sqe 32 8 ∧ a.prot = 0 ∧ a.key = fld c.sqe 42 2 ∧
          a.frames = l.flatMap fun p => p.2.map fun f => (p.1, f)) ∧
        ∀ k, k ≠ tfree s.allocs 1 → tget? t.allocs k = tget? s.allocs k) ∧
    (∀ frames, s.takes r 0x30 c → allocParamsOk c.sqe (s.fn c.fn).vx1 = true → fld c.sqe 41 1 = 0 → s.ownsKey c.fn (fld c.sqe 42 2) = true →
      fld c.sqe 40 1 ≠ 2 → (s.begun r).placeAlloc (s.fn c.fn).vx1 (fld c.sqe 40 1) (fld c.sqe 32 8 / frameBytes) frames
        { prot := fld c.sqe 41 1, key := fld c.sqe 42 2, fn := c.fn, alloc := tfree s.allocs 1 } = none →
      Answers (Sys2Proof.Machine.exec (.memAlloc r io frames) s) fun t => t.ended r .outOfMemory ∧ t.allocs = s.allocs) ∧
    (∀ a, s.takes r 0x31 c → s.allocOf c.fn (fld c.sqe 32 4) = some a → (s.allocMapped (fld c.sqe 32 4) || s.allocOfVariant (fld c.sqe 32 4)) = false →
      Answers (Sys2Proof.Machine.exec (.memFree r io) s) fun t => t.ended r .success ∧ t.allocs = tdel s.allocs (fld c.sqe 32 4)) ∧
    (∀ a, s.takes r 0x31 c → s.allocOf c.fn (fld c.sqe 32 4) = some a → (s.allocMapped (fld c.sqe 32 4) || s.allocOfVariant (fld c.sqe 32 4)) = true →
      Answers (Sys2Proof.Machine.exec (.memFree r io) s) fun t => t.ended r .busy ∧ t.allocs = s.allocs) ∧
    (∀ a, s.takes r 0x34 c → s.allocOf c.fn (fld c.sqe 32 4) = some a → 8 * a.frames.length ≤ admDataLen c.sqe → admDataAddr c.sqe ≠ 0 →
      a.tier ≠ 2 → a.prot = 0 → (s.fn c.fn).vx1 = false → s.allocOfVariant (fld c.sqe 32 4) = false → io.write = .ok →
      Answers (Sys2Proof.Machine.exec (.memShare r io) s) fun t => t.ended r .success ∧ t.allocs = tset s.allocs (fld c.sqe 32 4) { a with shared := true } ∧
        t.cmdHas r fun y => y.result = padTo 64 (leBytes 4 a.frames.length))

/-- MAP, UNMAP and MAP_REMOTE. A mapping command raises the context's translation epoch by one and sends or queues one invalidation, of
the whole range its runs are broken over, that holds the command and the change of the tables; the last acknowledgement of that
invalidation makes the change. Tables that would not fit end the command OUT_OF_MEMORY and change no context. That the change is
seen at the completion is log entry 161. (06_translation.md, Device virtual addresses and the mirrored tables; 06_translation.md,
Range invalidation; 06_translation.md, Remote addresses) -/
def Obligations.TranslationCommands : Prop :=
  (∀ (s : State) (x : Ctx) (i : Inval) (z : Change) (e : Nat), s.esk.invals.find? (·.id == i.id) = some i → tget? s.ctxs i.ctx = some x →
    i.change = some z → s.stagesRun = true → invalEngines.contains e = true → i.acked.contains e = false → (s.eng e).rst = none →
    (e / 256 == 1 && s.tileInRange (e % 256) i) = false → invalEngines.all (e :: i.acked).contains = true →
    AnswersSettled (Sys2Proof.Machine.exec (.invalidationAck i.id e) s) fun t =>
      ∃ y, tget? t.ctxs i.ctx = some y ∧ y.leaves = z.leaves ∧ y.epoch = x.epoch) ∧
  ∀ (s : State) (r : Nat) (c : Cmd) (io : HostIo) (x : Ctx), s.invalWaits c.fn (fld c.sqe 32 2) = false → s.ctxOf c.fn (fld c.sqe 32 2) = some x →
    x.epoch < topEpoch →
    (∀ a ls, s.takes r 0x32 c → fld c.sqe 35 1 ≤ 2 → rangeOk (fld c.sqe 40 8) (fld c.sqe 56 8) (pageBytes (fld c.sqe 35 1)) = true →
      fld c.sqe 48 8 % pageBytes (fld c.sqe 35 1) = 0 → s.allocOf c.fn (fld c.sqe 36 4) = some a → fld c.sqe 48 8 + fld c.sqe 56 8 ≤ a.size →
      s.allocOfVariant (fld c.sqe 36 4) = false →
      ls = mapLeaves x.leaves (a.leaves (fld c.sqe 36 4) s.nodeId (fld c.sqe 34 1) (fld c.sqe 35 1) (fld c.sqe 40 8) (fld c.sqe 48 8) (fld c.sqe 56 8))
        (fld c.sqe 40 8) (fld c.sqe 40 8 + fld c.sqe 56 8) →
      (s.tablesFit x ls = true → Answers (Sys2Proof.Machine.exec (.mapRange r io) s) fun t =>
        tget? t.ctxs (fld c.sqe 32 2) = some { x with epoch := x.epoch + 1 } ∧
        t.mapsWith r (brokenRange x.leaves (fld c.sqe 40 8) (fld c.sqe 40 8 + fld c.sqe 56 8))
          { leaves := ls, lo := fld c.sqe 40 8, hi := fld c.sqe 40 8 + fld c.sqe 56 8, isMap := true } ∧
        t.cmdHas r fun y => y.journal = .handedOver) ∧
      (s.tablesFit x ls = false → Answers (Sys2Proof.Machine.exec (.mapRange r io) s) fun t => t.ended r .outOfMemory ∧ t.ctxs = s.ctxs)) ∧
    (s.takes r 0x33 c → rangeOk (fld c.sqe 40 8) (fld c.sqe 48 8) 4096 = true → Answers (Sys2Proof.Machine.exec (.unmapRange r io) s) fun t =>
      tget? t.ctxs (fld c.sqe 32 2) = some { x with epoch := x.epoch + 1 } ∧
      t.mapsWith r (brokenRange x.leaves (fld c.sqe 40 8) (fld c.sqe 40 8 + fld c.sqe 48 8))
        { leaves := unmapLeaves x.leaves (fld c.sqe 40 8) (fld c.sqe 40 8 + fld c.sqe 48 8),
          lo := fld c.sqe 40 8, hi := fld c.sqe 40 8 + fld c.sqe 48 8, isMap := false }) ∧
    (∀ n l ls, s.takes r 0x35 c → n = admDataLen c.sqe / 8 → admDataLen c.sqe % 8 = 0 → rangeOk (fld c.sqe 40 8) (n * frameBytes) frameBytes = true →
      fld c.sqe 34 1 ≤ 3 → admDataAddr c.sqe ≠ 0 → io.read = .ok → l = (chunks 8 n (padTo (8 * n) io.data)).map leVal →
      s.checkRemoteList c.fn l = none →
      ls = mapLeaves x.leaves (l.zipIdx.map fun e =>
        { va := fld c.sqe 40 8 + e.2 * frameBytes, size := 1, node := dpaNode e.1, tier := dpaTier e.1, offset := dpaOffset e.1, key := dpaKey e.1,
          prot := 0, rd := bit (fld c.sqe 34 1) 0, wr := bit (fld c.sqe 34 1) 1, atomic := false, alloc := 0 : Leaf })
        (fld c.sqe 40 8) (fld c.sqe 40 8 + n * frameBytes) →
      s.tablesFit x ls = true → Answers (Sys2Proof.Machine.exec (.mapRemote r io) s) fun t =>
        tget? t.ctxs (fld c.sqe 32 2) = some { x with epoch := x.epoch + 1 } ∧
        t.mapsWith r (brokenRange x.leaves (fld c.sqe 40 8) (fld c.sqe 40 8 + n * frameBytes))
          { leaves := ls, lo := fld c.sqe 40 8, hi := fld c.sqe 40 8 + n * frameBytes, isMap := true })

/-- IMG_LOAD, IMG_RESUME_LOAD, IMG_REPLACE and IMG_DROP. A load, a resumed load and a replacement each queue behind the loads that wait;
an image in the wrong state ends the command with the status given; IMG_DROP makes an unused image absent and fails BUSY while a
load of it waits. (07_base_weights.md, Loading; 07_base_weights.md, Replacement; 07_base_weights.md, Images and their versions) -/
def Obligations.ImageCommands : Prop :=
  (∀ (s : State) (l : Load), s.firn.loads ≠ [] → (s.queueLoad l).firn.loads = s.firn.loads ++ [l]) ∧
  ∀ (s : State) (r : Nat) (c : Cmd) (io : HostIo),
    (∀ v, s.takes r 0x38 c → imgIdOk (imgId c.sqe) = true → fld c.sqe 36 1 = 0 ∨ fld c.sqe 36 1 = 3 → (s.image (imgId c.sqe)).state = 0 →
      admDataAddr c.sqe ≠ 0 → io.read = .ok →
      manifestOf (padTo (admDataLen c.sqe) io.data) (admDataLen c.sqe) (fld c.sqe 36 1) = some v → v.pref = fld c.sqe 36 1 →
      ∃ u : State, u.firn.images = tupd s.firn.images {} (imgId c.sqe) (fun x => { x with state := 1 }) ∧ u.firn.loads = s.firn.loads ∧
        Sys2Proof.Machine.exec (.imgLoad r io) s = .next (u.queueLoad
          { cmd := r, image := imgId c.sqe, kind := 0, pref := fld c.sqe 36 1, timeoutMs := fld c.sqe 40 4, ver := v })) ∧
    (s.takes r 0x38 c → imgIdOk (imgId c.sqe) = true → fld c.sqe 36 1 = 0 → (s.image (imgId c.sqe)).state ≠ 0 →
      Answers (Sys2Proof.Machine.exec (.imgLoad r io) s) fun t => t.ended r .busy ∧ t.firn = s.firn) ∧
    (∀ p, s.takes r 0x39 c → imgIdOk (imgId c.sqe) = true → (s.image (imgId c.sqe)).staged = some p →
      Sys2Proof.Machine.exec (.imgResumeLoad r io) s = .next ((s.begun r).queueLoad
        { cmd := r, image := imgId c.sqe, kind := 1, pref := p.2.pref, timeoutMs := fld c.sqe 40 4, ver := p.2, number := p.1 })) ∧
    (s.takes r 0x39 c → imgIdOk (imgId c.sqe) = true → (s.image (imgId c.sqe)).staged = none →
      Answers (Sys2Proof.Machine.exec (.imgResumeLoad r io) s) fun t => t.ended r .imageNotStaged ∧ t.firn = s.firn) ∧
    (∀ v, s.takes r 0x3A c → imgIdOk (imgId c.sqe) = true → fld c.sqe 36 1 = 0 ∨ fld c.sqe 36 1 = 3 →
      (s.image (imgId c.sqe)).state = 3 ∨ (s.image (imgId c.sqe)).state = 5 → admDataAddr c.sqe ≠ 0 → io.read = .ok →
      manifestOf (padTo (admDataLen c.sqe) io.data) (admDataLen c.sqe) (fld c.sqe 36 1) = some v → v.pref = fld c.sqe 36 1 →
      ∃ u : State, u.firn = s.firn ∧ Sys2Proof.Machine.exec (.imgReplace r io) s = .next (u.queueLoad
          { cmd := r, image := imgId c.sqe, kind := 2, pref := fld c.sqe 36 1, timeoutMs := fld c.sqe 40 4, ver := v })) ∧
    (s.takes r 0x3B c → imgIdOk (imgId c.sqe) = true → (s.firn.loads.any (·.image == imgId c.sqe)) = false →
      (s.image (imgId c.sqe)).staged = none → (s.image (imgId c.sqe)).current ≠ 0 → s.imageUsed (imgId c.sqe) = false →
      Sys2Proof.Machine.exec (.imgDrop r io) s =
        .next (((((s.begun r).modImage (imgId c.sqe) fun y => { y with current := 0, state := 0 }).pruneImages).absentImage (imgId c.sqe)).commit r)) ∧
    (s.takes r 0x3B c → imgIdOk (imgId c.sqe) = true → (s.firn.loads.any (·.image == imgId c.sqe)) = true →
      Answers (Sys2Proof.Machine.exec (.imgDrop r io) s) fun t => t.ended r .busy ∧ t.firn = s.firn)

/-- A load from its turn to its last digest. The load at the front begins, drains, frees a version that nothing pins (log entry 91) or
fails at its turn; a shard that arrives is taken by its digest, read again after a bad one and retried after a host failure; its
timer asks again and its time limit ends it; the body digest ends the load. (07_base_weights.md, Loading; 07_base_weights.md, The
manifest) -/
def Obligations.ImageLoading : Prop :=
  ∀ (s : State),
    (∀ l rest frames, s.firn.loads = l :: rest → l.begun = false → s.firnRuns = true →
      Sys2Proof.Machine.exec (.imgLoadBegin frames) s = .next (match s.loadTurn l with
        | .fail st => s.refuseLoad l st | .drain => s.drainFor l
        | .free => (s.drainFor l).freeCurrent l.image | .begin_ v n cur => s.beginLoad l v n cur frames)) ∧
    (∀ l rest st frames c, s.firn.loads = l :: rest → l.begun = false → s.firnRuns = true → s.loadTurn l = .fail st → tget? s.cmds l.cmd = some c → c.decided = none →
      Answers (Sys2Proof.Machine.exec (.imgLoadBegin frames) s) fun t => t.ended l.cmd st ∧ t.firn.loads = rest) ∧
    (∀ i l x b, s.loadShard i = some (l, x) → x.inFlight = true → s.firnRuns = true →
      (sha384 (padTo x.length b) = x.digest → Sys2Proof.Machine.exec (.shardReadDone i .ok b) s = .next (s.takeShard i x (padTo x.length b))) ∧
      (sha384 (padTo x.length b) ≠ x.digest → x.badDigests < 3 → Answers (Sys2Proof.Machine.exec (.shardReadDone i .ok b) s) fun t =>
        t.ports.host = s.ports.host ++ s.readTx 0 x.addr x.length ∧
        t.firn = (s.modShard i fun y => { y with badDigests := y.badDigests + 1 }).firn) ∧
      (∀ resp, resp ≠ .ok → Answers (Sys2Proof.Machine.exec (.shardReadDone i resp b) s) fun t =>
        t = s.modShard i fun y => { y with inFlight := false, retryAt := some (s.now + 100000) })) ∧
    (∀ i l x t0, s.loadShard i = some (l, x) → x.retryAt = some t0 → t0 < x.firstRead.getD 0 + l.timeoutNs → s.firnRuns = true →
      Answers (Sys2Proof.Machine.exec (.shardRetryTimer i) s) fun t => t0 ≤ t.now ∧ t.ports.host = s.ports.host ++ s.readTx 0 x.addr x.length) ∧
    (∀ i l x c, s.loadShard i = some (l, x) → x.retryAt.isSome = true → s.firnRuns = true → tget? s.cmds l.cmd = some c → c.decided = none →
      Answers (Sys2Proof.Machine.exec (.shardTimeout i) s) fun t =>
        t.ended l.cmd .shardMissing ∧ t.firn.failedShard = i ∧ t.firn.loadFail = 1 ∧ x.firstRead.getD 0 + l.timeoutNs ≤ t.now) ∧
    (∀ l rest c io, s.firn.loads = l :: rest → l.begun = true → s.firn.loadState = 2 → s.firnRuns = true → tget? s.cmds l.cmd = some c → c.decided = none →
      sha384 (l.ver.shards.flatMap (·.data)) = l.ver.digest → io.write = .ok →
      Answers (Sys2Proof.Machine.exec (.bodyDigestDone io) s) fun t => t.ended l.cmd .success ∧ t.firn.loads = rest ∧ t.firn.loadFail = 0) ∧
    (∀ l rest c io, s.firn.loads = l :: rest → l.begun = true → s.firn.loadState = 2 → s.firnRuns = true → tget? s.cmds l.cmd = some c → c.decided = none →
      sha384 (l.ver.shards.flatMap (·.data)) ≠ l.ver.digest →
      Answers (Sys2Proof.Machine.exec (.bodyDigestDone io) s) fun t => t.ended l.cmd .manifestInvalid ∧ t.firn.loadFail = 3)

/-- Variant commands, the seal and the end of a wait. VAR_REGISTER, VAR_SEAL, VAR_UNSEAL, VAR_UPDATE and VAR_DROP act on the variant
named or end with the status given; a seal takes effect once no TRAIN_STEP names the variant; a change that waited runs when its
wait ends. (08_adapters.md, Registration, revisions and the adapter digest; 08_adapters.md, The variant descriptor;
04_commands_and_graphs.md, Contexts, memory, images, variants, graphs, receipts and pools) -/
def Obligations.VariantCommands : Prop :=
  ∀ (s : State) (r : Nat) (c : Cmd) (io : HostIo),
    (∀ d a x clear ecc u c1, s.takes r 0x40 c → s.registerCheck c = none → admDataAddr c.sqe ≠ 0 → io.read = .ok → io.write = .ok →
      varDesc (padTo (admDataLen c.sqe) io.data) (admDataLen c.sqe) (s.layersOf (fld c.sqe 36 4)) false = some d → d.inHost = true →
      s.storageCheck c.fn d.alloc (fld c.sqe 34 2) (layoutOf d.entries d.trainable d.saveBytes).2.2 = none → tget? s.allocs d.alloc = some a →
      s.ctxOf c.fn (fld c.sqe 32 2) = some x → tfree s.silt.variants 1 ≤ 65536 →
      s.unwrap (fld c.sqe 34 2) (fld c.sqe 36 4) (adapterBytes d.entries) (padTo d.len (io.data.drop (admDataLen c.sqe))) = .ok clear →
      u = ((s.begun r).hostRead c.fn (admDataAddr c.sqe) (admDataLen c.sqe)).hostRead c.fn d.addr d.len →
      tget? (u.loadAdapter r c a
        { fn := c.fn, image := fld c.sqe 36 4, key := fld c.sqe 34 2, alloc := d.alloc, trainable := d.trainable, saveBytes := d.saveBytes, entries := d.entries }
        clear).cmds r = some c1 → c1.decided = none →
      Answers (Sys2Proof.Machine.exec (.varRegister r io ecc) s) fun t => t.ended r .success ∧
        (∃ v, tget? t.silt.variants (tfree s.silt.variants 1) = some v ∧ v.fn = c.fn ∧ v.image = fld c.sqe 36 4 ∧ v.key = fld c.sqe 34 2 ∧
          v.alloc = d.alloc ∧ v.sealed = false ∧ v.entries = d.entries) ∧
        t.cmdHas r fun y => y.result = padTo 64 (leBytes 4 (tfree s.silt.variants 1))) ∧
    (∀ v, s.takes r 0x41 c → s.variantOfFn c.fn (fld c.sqe 32 4) = some v → v.torn = false → v.sealed = true →
      Answers (Sys2Proof.Machine.exec (.varSeal r io) s) fun t => t.ended r .success ∧ t.silt = s.silt) ∧
    (∀ v, s.takes r 0x41 c → s.variantOfFn c.fn (fld c.sqe 32 4) = some v → v.torn = false → v.sealed = false →
      Answers (Sys2Proof.Machine.exec (.varSeal r io) s) fun t =>
        tget? t.silt.variants (fld c.sqe 32 4) = some { v with sealCmds := v.sealCmds ++ [r] } ∧ t.cmdHas r fun x => x.journal = .handedOver) ∧
    (∀ v, s.takes r 0x42 c → s.variantOfFn c.fn (fld c.sqe 32 4) = some v → v.torn = false → v.sealCmds = [] →
      (tany s.pools fun _ p => p.variant == fld c.sqe 32 4) = false → admDataAddr c.sqe ≠ 0 → io.read = .ok → 48 ≤ admDataLen c.sqe →
      fld (padTo (admDataLen c.sqe) io.data) 4 4 = 0 → s.tokenOk (fld c.sqe 32 4) v (padTo (admDataLen c.sqe) io.data) = true →
      Answers (Sys2Proof.Machine.exec (.varUnseal r io) s) fun t => t.ended r .success ∧
        tget? t.silt.variants (fld c.sqe 32 4) = some { v with sealed := false, unsealSeq := fld (padTo (admDataLen c.sqe) io.data) 8 8 }) ∧
    (∀ v, s.takes r 0x43 c → s.variantOfFn c.fn (fld c.sqe 32 4) = some v → v.sealed = true →
      Answers (Sys2Proof.Machine.exec (.varUpdate r io) s) fun t => t.ended r .variantSealed ∧ t.silt = s.silt) ∧
    (∀ v d, s.takes r 0x43 c → s.variantOfFn c.fn (fld c.sqe 32 4) = some v → v.sealed = false → v.changer = none → v.torn = false →
      (s.begun r).variantUsed (fld c.sqe 32 4) (fun _ => true) = false → admDataAddr c.sqe ≠ 0 → io.read = .ok →
      varDesc (padTo (admDataLen c.sqe) io.data) (admDataLen c.sqe) (s.layersOf v.image) true = some d → s.updateOk v d = true → d.len = 0 →
      ∃ u : State, u.silt = s.silt ∧ u.allocs = s.allocs ∧ u.mem = s.mem ∧
        Sys2Proof.Machine.exec (.varUpdate r io) s = .next ((u.commitUpdate r (fld c.sqe 32 4) c v d none).commit r)) ∧
    (∀ v, s.takes r 0x44 c → s.variantOfFn c.fn (fld c.sqe 32 4) = some v → v.changer = none → v.sealCmds = [] →
      (s.begun r).variantUsed (fld c.sqe 32 4) (fun _ => true) = false → Answers (Sys2Proof.Machine.exec (.varDrop r io) s) fun t =>
        t.ended r .success ∧ t.silt.variants = tdel s.silt.variants (fld c.sqe 32 4)) ∧
    (∀ v, s.takes r 0x44 c → s.variantOfFn c.fn (fld c.sqe 32 4) = some v → v.changer = none →
      (s.begun r).variantUsed (fld c.sqe 32 4) (fun _ => true) = true → bit (fld c.sqe 36 1) 0 = false →
      Answers (Sys2Proof.Machine.exec (.varDrop r io) s) fun t => t.ended r .busy ∧ t.silt = s.silt) ∧
    (∀ v, s.waitingCmd r 0x44 = some c → tget? s.silt.variants (fld c.sqe 32 4) = some v → v.changer = some r → v.sealCmds = [] →
      s.variantUsed (fld c.sqe 32 4) (fun _ => true) = false → Answers (Sys2Proof.Machine.exec (.variantWaitEnd r io) s) fun t =>
        t.ended r .success ∧ t.silt.variants = tdel (tmod s.silt.variants (fld c.sqe 32 4) fun x => { x with changer := none }) (fld c.sqe 32 4)) ∧
    (∀ id v, tget? s.silt.variants id = some v → v.sealCmds = [r] → v.changer = none → s.tarnRuns = true →
      s.variantUsed id (·.opcode == 0x81) = false → tget? s.cmds r = some c → c.decided = none → Answers (Sys2Proof.Machine.exec (.sealTakesEffect id) s) fun t =>
        t.ended r .success ∧ tget? t.silt.variants id = some { v with
          sealed := true, digest := s.variantDigest v, digestRev := v.rev, sealCmds := [] })

/-- VAR_UNSEAL fails while a pool holds the variant. While a pool of the variant named exists, VAR_UNSEAL of that variant, where it is
not torn, ends BUSY and changes no variant and no pool. (04_commands_and_graphs.md, Equal-treatment pools) -/
def Obligations.UnsealBusyUnderPool : Prop :=
  ∀ (s : State) (r : Nat) (c : Cmd) (io : HostIo) (v : Variant), s.takes r 0x42 c → s.variantOfFn c.fn (fld c.sqe 32 4) = some v → v.torn = false →
    (∃ k p, (k, p) ∈ s.pools ∧ p.variant = fld c.sqe 32 4) →
    Answers (Sys2Proof.Machine.exec (.varUnseal r io) s) fun t => t.ended r .busy ∧ t.silt = s.silt ∧ t.pools = s.pools ∧ t.mem = s.mem

/-- GRAPH_STORE, GRAPH_PATCH and GRAPH_FREE. A graph stored, patched or freed changes the graphs of its function as given; a patch of
another version than the current fails VERSION_CONFLICT and a free of no graph INVALID_HANDLE, and neither changes a graph.
(04_commands_and_graphs.md, Stored graphs) -/
def Obligations.GraphCommands : Prop :=
  ∀ (s : State) (r : Nat) (c : Cmd) (io : HostIo),
    (∀ b nodes ix g, s.takes r 0x48 c → fld c.sqe 32 1 ≤ 1 → admDataAddr c.sqe ≠ 0 → io.read = .ok → io.write = .ok →
      b = padTo (admDataLen c.sqe) io.data → imageHeadOk b (fld c.sqe 32 1) = true → s.capPresent (fld b 12 4) = true → s.imageNodes b = some nodes →
      ix = freeIndex ((s.graphs.filter (·.fn == c.fn)).map (·.index)) ((s.graphs.filter (·.fn == c.fn)).map (·.index)).length 1 → ix ≤ 16383 →
      g = newGraph c.fn (fld c.sqe 32 1) ix (fld b 12 4) nodes → storeUsed (g :: s.graphs) ≤ s.storeBytes →
      Answers (Sys2Proof.Machine.exec (.graphStore r io) s) fun t => t.ended r .success ∧ t.graphs = s.graphs ++ [g] ∧
        t.cmdHas r fun x => x.result = padTo 64 (leBytes 4 g.handle ++ leBytes 2 1)) ∧
    (∀ b g p nodes, s.takes r 0x49 c → s.graphOf c.fn (fld c.sqe 32 4) = some g → fld c.sqe 36 2 = g.current → g.live < 4 →
      admDataAddr c.sqe ≠ 0 → io.read = .ok → io.write = .ok → b = padTo (admDataLen c.sqe) io.data → imageHeadOk b 2 = true → fld b 12 4 = g.cap →
      s.imageNodes b = some p → patchNodes g.nodes p = some nodes →
      storeUsed (s.graphs.map fun x => if x.fn = g.fn ∧ x.index = g.index then
        { g with versions := tset g.versions (freshVersion (tkeys g.versions) g.versions.length g.current) nodes } else x) ≤ s.storeBytes →
      ∃ u : State, u.graphs = s.graphs ∧ Answers (Sys2Proof.Machine.exec (.graphPatch r io) s) fun t => t.ended r .success ∧
        t.graphs = (u.addVersion g (freshVersion (tkeys g.versions) g.versions.length g.current) nodes).graphs) ∧
    (∀ g, s.takes r 0x49 c → s.graphOf c.fn (fld c.sqe 32 4) = some g → fld c.sqe 36 2 ≠ g.current →
      Answers (Sys2Proof.Machine.exec (.graphPatch r io) s) fun t => t.ended r .versionConflict ∧ t.graphs = s.graphs) ∧
    (∀ g, s.takes r 0x4A c → s.graphOf c.fn (fld c.sqe 32 4) = some g →
      ∃ u : State, u.graphs = (s.graphs.map fun x => if x.fn = g.fn ∧ x.index = g.index then { x with retired := true } else x) ∧
        Answers (Sys2Proof.Machine.exec (.graphFree r io) s) fun t => t.ended r .success ∧ t.graphs = u.pruneGraphs.graphs) ∧
    (s.takes r 0x4A c → s.graphOf c.fn (fld c.sqe 32 4) = none →
      Answers (Sys2Proof.Machine.exec (.graphFree r io) s) fun t => t.ended r .invalidHandle ∧ t.graphs = s.graphs)

/-- RCPT_READ, CKPT_REQUEST, CHECKPOINT_SIGNED and PERSIST_WRITE_DONE. Receipts are answered from the ring; a checkpoint is queued once
for a function and signed in order; each persist write takes the oldest buffered receipt into the ring at its tail, where its 256
bytes stand in memory. (12_receipts.md, Reading receipts; 12_receipts.md, Checkpoints; 12_receipts.md, The persist region) -/
def Obligations.LedgerCommands : Prop :=
  ∀ (s : State) (r : Nat) (c : Cmd) (io : HostIo),
    (∀ f l, s.takes r 0x50 c → namedFn c (fld c.sqe 44 2) = some f → admDataAddr c.sqe ≠ 0 → 1 ≤ fld c.sqe 40 4 → fld c.sqe 40 4 ≤ 65536 →
      fld c.sqe 40 4 * 256 ≤ admDataLen c.sqe → io.write = .ok →
      l = ((s.heldReceipts f).filter fun x => decide (fld c.sqe 32 8 ≤ x.1)).take (fld c.sqe 40 4) →
      Answers (Sys2Proof.Machine.exec (.rcptRead r io) s) fun t => t.ended r .success ∧ t.ledg = s.ledg ∧
        t.cmdHas r fun x => x.result = padTo 64 (leBytes 4 l.length ++ zeros 4 ++ leBytes 8 (s.head f).seq)) ∧
    (∀ f, s.takes r 0x51 c → namedFn c (fld c.sqe 32 2) = some f → admDataAddr c.sqe ≠ 0 → 256 ≤ admDataLen c.sqe →
      (s.ledg.queue.any fun x => x.fn == f && bit x.flags 0) = false → Answers (Sys2Proof.Machine.exec (.ckptRequest r io) s) fun t =>
        t.ledg.queue = s.ledg.queue ++ [s.ckptNow f 1 (some r)] ∧ t.cmdHas r fun x => x.journal = .handedOver) ∧
    (∀ f, s.takes r 0x51 c → namedFn c (fld c.sqe 32 2) = some f → admDataAddr c.sqe ≠ 0 → 256 ≤ admDataLen c.sqe →
      (s.ledg.queue.any fun x => x.fn == f && bit x.flags 0) = true → Answers (Sys2Proof.Machine.exec (.ckptRequest r io) s) fun t =>
        t.ended r .busy ∧ t.ledg = s.ledg) ∧
    (∀ k rest m, s.ledg.queue = k :: rest → s.tarnRuns = true → s.pwr.cut = false → k.cmd = some r → tget? s.cmds r = some m → m.decided = none → io.write = .ok →
      Answers (Sys2Proof.Machine.exec (.checkpointSigned io) s) fun t => t.ended r .success ∧ t.ledg.queue = rest ∧ (t.head k.fn).ckpt = k.seq ∧
        t.cmdHas r fun x => x.result = padTo 64 (leBytes 8 k.seq)) ∧
    (∀ x rest, s.ledg.buffer = x :: rest → s.stagesRun = true → s.engDown 0x0E00 = false → Memory.wf s.mem = true → x.fn < 4096 →
      Answers (Sys2Proof.Machine.exec .persistWriteDone s) fun t => t.ledg.buffer = rest ∧
        memRead t.mem (s.persistAt (ringAt s.ledg.persist.tail)) 256 = x.bytes ∧ t.ledg.persist.tail = (s.ledg.persist.tail + 1) % max 1 s.ledg.capacity)

/-- POOL_CREATE, POOL_JOIN, POOL_LEAVE and POOL_DESTROY. Each makes, joins, leaves or removes the pool named where variant, image and
context allow it, and otherwise ends with the status given and changes no pool or context. INVALID_CONTEXT for a context outside the
pool is the model's choice (log entry 151). (04_commands_and_graphs.md, Equal-treatment pools; 12_receipts.md, Equal treatment in a
pool) -/
def Obligations.PoolCommands : Prop :=
  ∀ (s : State) (r : Nat) (c : Cmd) (io : HostIo),
    (∀ v p, s.takes r 0x58 c → arithFieldsOk (fld c.sqe 36 4) = true → arithFormatsOk (fld c.sqe 36 4) = true → fld c.sqe 44 1 ≤ 2 →
      s.variantOfFn c.fn (fld c.sqe 32 4) = some v → v.torn = false → v.sealed = true → (s.image v.image).current ≠ 0 → tfree s.pools 1 ≤ 1023 →
      io.write = .ok → p = ({ fn := c.fn, variant := fld c.sqe 32 4, image := v.image, imageVer := (s.image v.image).current, arith := fld c.sqe 36 4, quantumUs := fld c.sqe 40 4, cls := fld c.sqe 44 1 } : Pool) →
      Answers (Sys2Proof.Machine.exec (.poolCreate r io) s) fun t => t.ended r .success ∧ t.pools = tset s.pools (tfree s.pools 1) p ∧
        t.cmdHas r fun x => x.result = padTo 64 (leBytes 2 (tfree s.pools 1) ++ leBytes 2 (s.image v.image).current)) ∧
    (∀ v, s.takes r 0x58 c → arithFieldsOk (fld c.sqe 36 4) = true → arithFormatsOk (fld c.sqe 36 4) = true → fld c.sqe 44 1 ≤ 2 →
      s.variantOfFn c.fn (fld c.sqe 32 4) = some v → v.torn = false → v.sealed = false → (s.image v.image).current ≠ 0 →
      Answers (Sys2Proof.Machine.exec (.poolCreate r io) s) fun t => t.ended r .variantNotSealed ∧ t.pools = s.pools) ∧
    (∀ y z, s.takes r 0x59 c → s.poolOf c.fn (fld c.sqe 32 2) = some y → s.ctxOf c.fn (fld c.sqe 34 2) = some z →
      (z.image ≠ y.image ∨ (s.begun r).formatClash (fld c.sqe 32 2) z = true → Answers (Sys2Proof.Machine.exec (.poolJoin r io) s) fun t => t.ended r .poolConfigMismatch ∧ t.ctxs = s.ctxs) ∧
      (z.image = y.image → (s.begun r).formatClash (fld c.sqe 32 2) z = false → z.pool = 0 → (s.begun r).ctxBusy (fld c.sqe 34 2) = false → Answers (Sys2Proof.Machine.exec (.poolJoin r io) s) fun t =>
        t.ended r .success ∧ tget? t.ctxs (fld c.sqe 34 2) = some { z with pool := fld c.sqe 32 2 })) ∧
    (∀ y z, s.takes r 0x5A c → s.poolOf c.fn (fld c.sqe 32 2) = some y → s.ctxOf c.fn (fld c.sqe 34 2) = some z →
      (z.pool ≠ fld c.sqe 32 2 → Answers (Sys2Proof.Machine.exec (.poolLeave r io) s) fun t => t.ended r .invalidContext ∧ t.ctxs = s.ctxs) ∧
      (z.pool = fld c.sqe 32 2 → (s.begun r).ctxBusy (fld c.sqe 34 2) = false → Answers (Sys2Proof.Machine.exec (.poolLeave r io) s) fun t =>
        t.ended r .success ∧ tget? t.ctxs (fld c.sqe 34 2) = some { z with pool := 0 })) ∧
    (∀ y, s.takes r 0x5B c → s.poolOf c.fn (fld c.sqe 32 2) = some y →
      ((tany s.ctxs fun _ z => z.pool == fld c.sqe 32 2) = true → Answers (Sys2Proof.Machine.exec (.poolDestroy r io) s) fun t =>
        t.ended r .busy ∧ t.pools = s.pools) ∧
      ((tany s.ctxs fun _ z => z.pool == fld c.sqe 32 2) = false → Answers (Sys2Proof.Machine.exec (.poolDestroy r io) s) fun t =>
        t.ended r .success ∧ t.pools = tdel s.pools (fld c.sqe 32 2)))

/-- The whole next state of the pool commands and of SNOW_HOST_ADD. Where the variant is sealed and its image present, POOL_CREATE
answers the state with the lowest free pool made and its result written; POOL_JOIN of a context of the same image in no pool,
POOL_LEAVE of a member and POOL_DESTROY of a pool with no member answer the state with that change alone and the command committed;
SNOW_HOST_ADD of a free chunk answers the state with its 8 pages free and the pass at the boundary. (04_commands_and_graphs.md,
Equal-treatment pools; 10_sequences.md, Registers; 10_sequences.md, Boundaries and the provisioning pass) -/
def Obligations.PoolCommandsComplete : Prop :=
  ∀ (s : State) (r : Nat) (c : Cmd) (io : HostIo),
    (∀ v id ver b, s.takes r 0x58 c → arithFieldsOk (fld c.sqe 36 4) = true → arithFormatsOk (fld c.sqe 36 4) = true → fld c.sqe 44 1 ≤ 2 →
      s.variantOfFn c.fn (fld c.sqe 32 4) = some v → v.torn = false → v.sealed = true → ver = (s.image v.image).current → ver ≠ 0 →
      id = tfree s.pools 1 → id ≤ 1023 → io.write = .ok → b = leBytes 2 id ++ leBytes 2 ver →
      Sys2Proof.Machine.exec (.poolCreate r io) s =
        .next (((({ (s.begun r).writeResult c b with pools := tset s.pools id { fn := c.fn, variant := fld c.sqe 32 4, image := v.image, imageVer := ver, arith := fld c.sqe 36 4, quantumUs := fld c.sqe 40 4, cls := fld c.sqe 44 1 } } : State).modCmd r fun x =>
            { x with result := padTo 64 b }).commit r))) ∧
    (∀ y z, s.takes r 0x59 c → s.poolOf c.fn (fld c.sqe 32 2) = some y → s.ctxOf c.fn (fld c.sqe 34 2) = some z → z.image = y.image →
      (s.begun r).formatClash (fld c.sqe 32 2) z = false → z.pool = 0 → (s.begun r).ctxBusy (fld c.sqe 34 2) = false →
      Sys2Proof.Machine.exec (.poolJoin r io) s = .next (((s.begun r).modCtx (fld c.sqe 34 2) fun k => { k with pool := fld c.sqe 32 2 }).commit r)) ∧
    (∀ y z, s.takes r 0x5A c → s.poolOf c.fn (fld c.sqe 32 2) = some y → s.ctxOf c.fn (fld c.sqe 34 2) = some z → z.pool = fld c.sqe 32 2 →
      (s.begun r).ctxBusy (fld c.sqe 34 2) = false →
      Sys2Proof.Machine.exec (.poolLeave r io) s = .next (((s.begun r).modCtx (fld c.sqe 34 2) fun k => { k with pool := 0 }).commit r)) ∧
    (∀ y, s.takes r 0x5B c → s.poolOf c.fn (fld c.sqe 32 2) = some y → (tany s.ctxs fun _ z => z.pool == fld c.sqe 32 2) = false →
      Sys2Proof.Machine.exec (.poolDestroy r io) s =
        .next ((({ s.begun r with pools := tdel s.pools (fld c.sqe 32 2) } : State).pruneImages).commit r)) ∧
    (∀ v k u, s.reachable = true → s.noHalf 0 → v % 2 ^ 64 % frameBytes = 0 → s.chooseChunks 1 [] = some [k] →
      s.takeChunks { prot := 0, key := kvKey } [(k, v % 2 ^ 64)] = some u →
      Sys2Proof.Machine.exec (.snowHostAdd v) s = .next ({ u with snow := { (List.range 8).foldl (fun (w : Snow) i => w.put { tier := 2, page := 8 * k + i }) u.snow with
        hostTotal := ((List.range 8).foldl (fun (w : Snow) i => w.put { tier := 2, page := 8 * k + i }) u.snow).hostTotal + 8 } } : State).passBoundary)

/-- Work of an I/O queue taken up. INFER_STEP, TRAIN_STEP, GRAPH_LAUNCH and KERNEL_LAUNCH become running with the tiles of their graph;
COPY moves the bytes of its source to its destination or ends RIGHTS_VIOLATION; SEQ_CREATE, SEQ_RELEASE and SEQ_TRUNCATE of a
sequence wait for the next provisioning pass, and SEQ_TRUNCATE of none ends at once. (04_commands_and_graphs.md, I/O opcodes;
09_scheduling.md, Issuing work; 10_sequences.md, Sequences and their page tables; 10_sequences.md, Boundaries and the provisioning
pass) -/
def Obligations.WorkCommands : Prop :=
  ∀ (s : State) (r : Nat) (c : Cmd),
    (∀ i opc, (i = .inferStep r ∧ opc = 0x80) ∨ (i = .trainStep r ∧ opc = 0x81) ∨ (i = .graphLaunch r ∧ opc = 0x82) ∨ (i = .kernelLaunch r ∧ opc = 0x83) →
      s.ioCmd r opc = some c → AnswersSettled (Sys2Proof.Machine.exec i s) fun t =>
        t.cmdHas r (fun x => x.stage = .running ∧ x.tiles = tilesFor (s.nodesOf c) (s.clustersOf c.ctx)) ∧ t.serac = s.serac ∧ t.mem = s.mem) ∧
    (∀ x ecc l, s.ioCmd r 0x84 = some c → tget? s.ctxs c.ctx = some x → (s.crevAny fun v => v.unsettled && v.stuck.contains r) = false →
      l = ([⟨5, ioBufAddr c.sqe 5, fld c.sqe 40 8, 1⟩, ⟨6, ioBufAddr c.sqe 6, fld c.sqe 40 8, 2⟩] : List VaSpan) →
      (∀ va, (s.checkSpans c x 0x0700 l).1 = .rights va →
        Answers (Sys2Proof.Machine.exec (.copy r ecc) s) fun t => ∃ u : State, u.mem = s.mem ∧ t = (u.fail r .rightsViolation).settle) ∧
      (∀ k u y, k = s.checkSpans c x 0x0700 l → k.1 = .ok → u = s.modCmd r (fun z => { z with descs := k.2.descs }) →
        u.lackReads r c (s.epochOf 0x0700) (k.2.pieces 5 (ioBufAddr c.sqe 5) (fld c.sqe 40 8)) = [] →
        y = (u.modCmd r fun z => { z with stage := .running, start := some (z.start.getD s.now) }).readPieces r c (s.epochOf 0x0700)
          (k.2.pieces 5 (ioBufAddr c.sqe 5) (fld c.sqe 40 8)) →
        ∀ c1, tget? y.2.cmds r = some c1 → c1.decided = none → Sys2Proof.Machine.exec (.copy r .clean) s =
          .next ((((y.2.writePieces r c1 (s.epochOf 0x0700) (k.2.pieces 6 (ioBufAddr c.sqe 6) (fld c.sqe 40 8)) y.1).remotePump r).workMoved r).settle))) ∧
    (∀ x, s.ioCmd r 0x88 = some c → tget? s.ctxs c.ctx = some x → (s.crevAny fun v => v.unsettled && v.stuck.contains r) = false →
      (s.checkSpans c x 0x0700 [⟨7, ioBufAddr c.sqe 7, 8, 2⟩]).1 = .ok → AnswersSettled (Sys2Proof.Machine.exec (.seqCreate r) s) fun t =>
        t.snow.creates = s.snow.creates ++ [r] ∧ t.snow.passDue = true ∧ t.cmdHas r fun y => y.stage = .running) ∧
    (s.ioCmd r 0x89 = some c → Answers (Sys2Proof.Machine.exec (.seqRelease r) s) fun t =>
      t.snow = { s.snow with passDue := true } ∧ t.cmdHas r fun y => y.stage = .running) ∧
    (s.ioCmd r 0x8A = some c → tget? s.snow.seqs (fld c.sqe 24 4) = none → Answers (Sys2Proof.Machine.exec (.seqTruncate r) s) fun t =>
      t.ended r .success ∧ t.snow = s.snow) ∧
    (∀ q, s.ioCmd r 0x8A = some c → tget? s.snow.seqs (fld c.sqe 24 4) = some q → Answers (Sys2Proof.Machine.exec (.seqTruncate r) s) fun t =>
      tget? t.snow.seqs (fld c.sqe 24 4) = some { q with pendingKeep := some (fld c.sqe 28 4), truncators := q.truncators ++ [r] } ∧ t.snow.passDue = true)

/-- Turns, switches and residency. A turn is granted, cut at its quantum, cut at its minimum where Realtime waits, and forced at the
cleave bound; a context is swapped in, evicted or aged where the rules make it due. No timed event leaves the timebase before its
deadline (log entry 5). (09_scheduling.md, Turns; 09_scheduling.md, Switching the occupant; 09_scheduling.md, Residency) -/
def Obligations.TurnCommands : Prop :=
  ∀ (s : State) (u : Nat), s.stagesRun = true → s.unitOk u = true →
    (∀ p, (s.unit u).turn = none → (s.unit u).restore = none → (s.unit u).framePos ≠ 0 → s.pick u = some p →
      Sys2Proof.Machine.exec (.turnGrant u) s = .next (s.grantTurn u p).settle ∧
        (p.who = none → ((s.grantTurn u p).unit u).turn = some
          { no := s.ledg.turnCount + 1, ctx := none, start := s.now, quantumNs := s.serac.rtUs * 1000, reserved := p.reserved, pool := false })) ∧
    (∀ t, (s.unit u).turn = some t → t.ctx = none ∨ (s.unit u).holder = t.ctx →
      Sys2Proof.Machine.exec (.quantumExpiry u) s = .next ((s.advanceTo (t.start + t.quantumNs)).cutTurn u).settle ∧
        t.start + t.quantumNs ≤ (s.advanceTo (t.start + t.quantumNs)).now) ∧
    (∀ t x, (s.unit u).turn = some t → t.ctx = some x → t.pool = false → (s.unit u).holder = some x → s.ctxClass x ≠ 0 → s.slotsOfClass u 0 ≠ [] → (s.unit u).rtNew = true →
      Sys2Proof.Machine.exec (.minTurnExpiry u) s = .next ((s.advanceTo (t.start + 1000 * s.serac.minTurnUs)).cutTurn u).settle) ∧
    (∀ p, (s.unit u).preempt = some p → p.mode = 0 → p.reached = none → (s.unit u).hasCredit 0 = true →
      Answers (Sys2Proof.Machine.exec (.cleaveBoundExpiry u) s) fun t => (t.unit u).preempt = some { p with mode := 1 } ∧
        p.sentAt + p.bound ≤ t.now ∧ t.ports.tile = s.ports.tile ++ [{ port := u, cls := 0, typ := 2, index := 0, tag := 0, ctx := p.ctx, payload := preemptBytes 1 }]) ∧
    (∀ x, s.swapDue x = true → AnswersSettled (Sys2Proof.Machine.exec (.swapIn x) s) fun t =>
      t.serac.swapIns = satAdd s.serac.swapIns 1 0xFFFFFFFF ∧
        ∀ c, tget? s.ctxs x = some c → ∃ d, tget? t.ctxs x = some d ∧ d.resident = true ∧ d.residentSince = s.now) ∧
    (∀ x, s.evictDue u = some x → AnswersSettled (Sys2Proof.Machine.exec (.eviction u) s) fun t =>
      t.serac.evictions = satAdd s.serac.evictions 1 0xFFFFFFFF) ∧
    (∀ x c t0, tget? s.ctxs x = some c → c.waitSince = some t0 → c.aged = false → Answers (Sys2Proof.Machine.exec (.ageExpiry x) s) fun t =>
      tget? t.ctxs x = some { c with aged := true } ∧ t0 + 1000 * s.serac.ageUs ≤ t.now)

/-- Packets of a tile port's up direction. DONE gathers its data and ends the tile with the last packet; CLEAVE_REACHED, SAVE_DATA and
SAVE_END take a switch on; TILE_ERROR fails the command of the tile or resets the context by its severity. (02_edges.md, Tile ports;
09_scheduling.md, Issuing work; 09_scheduling.md, Switching the occupant; 13_reliability.md, Detectors) -/
def Obligations.TilePackets : Prop :=
  ∀ (s : State) (u : Nat) (p : TilePkt), s.stagesRun = true → s.unitOk u = true → packetSound p →
    (∀ w c, p.typ = 0x11 → (s.unit u).works.find? (·.tag == p.tag) = some w → tget? s.cmds w.cmd = some c →
      (fld (w.got ++ p.payload) 0 4 = w.bytes → (w.got ++ p.payload).length < 16 + fld (w.got ++ p.payload) 0 4 →
        Answers (Sys2Proof.Machine.exec (.tileDone u p) s) fun t =>
          (t.unit u).works = (s.unit u).works.map fun x => if x.tag = p.tag then { x with got := w.got ++ p.payload } else x) ∧
      (fld (w.got ++ p.payload) 0 4 = w.bytes → 16 + fld (w.got ++ p.payload) 0 4 ≤ (w.got ++ p.payload).length →
        Sys2Proof.Machine.exec (.tileDone u p) s = .next ((s.tookUp u 0 p).finishWork u w c (w.got ++ p.payload)))) ∧
    (∀ q, p.typ = 0x12 → s.cleaveOk u p.ctx (fld p.payload 6 2) (fld p.payload 4 2) (fld p.payload 8 8) = true →
      (s.unit u).preempt = some q → q.ctx = p.ctx → q.mode ≠ 2 → q.reached = none →
      Answers (Sys2Proof.Machine.exec (.cleaveReached u p) s) fun t =>
        (t.unit u).preempt = some { q with reached := some (fld p.payload 4 2, fld p.payload 8 8) }) ∧
    (∀ q, p.typ = 0x11 → (s.unit u).preempt = some q → q.mode ≠ 2 → q.ctx = p.ctx → p.index = q.seq →
      fld p.payload 8 4 = (p.payload.drop 16).length → q.bytes + (p.payload.drop 16).length ≤ s.saveLimit u q →
      Answers (Sys2Proof.Machine.exec (.saveData u p) s) fun t =>
        (t.unit u).preempt = some { q with seq := q.seq + 1, bytes := q.bytes + (p.payload.drop 16).length }) ∧
    (∀ q, p.typ = 0x12 → (s.unit u).preempt = some q → q.ctx = p.ctx → q.mode ≠ 2 → fld p.payload 0 1 ≠ 2 →
      q.endOk (s.fullSave u) p.index p.payload = true →
      Sys2Proof.Machine.exec (.saveEnd u p) s = .next ((((s.tookUp u 3 p).saveDone u q p.payload).switchOn u).settle)) ∧
    (p.typ = 0x13 → fld p.payload 3 1 = 1 → Sys2Proof.Machine.exec (.tileError u p) s =
      .next (((s.tookUp u 0 p).contextReset p.ctx 4 (fld p.payload 4 4) none none).settle)) ∧
    (∀ w, p.typ = 0x13 → fld p.payload 3 1 = 0 → (s.unit u).works.find? (·.tag == p.tag) = some w → Sys2Proof.Machine.exec (.tileError u p) s =
      .next (((((s.tookUp u 0 p).updUnit u fun y => { y with works := y.works.filter (·.tag != p.tag) }).failCmd w.cmd .tileError).workMoved w.cmd)))

/-- Issue, streams, walks and credits. A provisioning pass, an ISSUE, a Crevasse record that waits, run-ahead, a table walk, restored
data, a credit and a weight block each have the effect given where their port, engine and credit allow it; a tile whose span lacks a
page or a right faults in place of its issue, and a block found corrupt is counted and repaired in place of its sending. A full
translation cache gives up its oldest entry (log entry 147). (10_sequences.md, Boundaries and the provisioning pass;
09_scheduling.md, Issuing work; 06_translation.md, Faults and the Crevasse queue; 06_translation.md, Run-ahead; 06_translation.md,
Translation at submission; 02_edges.md, Tile ports; 07_base_weights.md, The weight stream) -/
def Obligations.PortEvents : Prop :=
  ∀ (s : State) (u : Nat), s.stagesRun = true →
    (∀ l, s.snow.passDue = true → s.engDown 0x0A00 = false →
      l = (s.pass.cmds.filter fun e => e.2.opcode == 0x88 && e.2.stage == .running && e.2.decided.isNone && !e.2.result.isEmpty) →
      Sys2Proof.Machine.exec .provisioningPass s = .next (l.foldl (fun t e => t.writeSeqId e.1 e.2) s.pass).settle) ∧
    (∀ k r c t x n w d, s.mayIssue u = some k → s.ctxParked k = false → s.nextTile k u = some (r, c, t) → tget? s.ctxs k = some x →
      tileAt (s.nodesOf c) t = some (n, w) → w.writesTable c = false → s.checkSpans c x (seracEngine u) (w.vaSpans c) = d →
      (∀ va, d.1 = .missing va → Sys2Proof.Machine.exec (.issue u) s =
        .next ((s.modCmd r fun z => { z with descs := d.2.descs }).tileFault r c x.leaves (2 ^ u) (spanAccess (w.vaSpans c)) va
          (spanRanges (w.vaSpans c)) false).settle) ∧
      (∀ va, d.1 = .rights va → Sys2Proof.Machine.exec (.issue u) s =
        .next (((s.modCmd r fun z => { z with descs := d.2.descs }).rightsFault c (2 ^ u) (spanAccess (w.vaSpans c)) va
          (spanRanges (w.vaSpans c)) (lackRanges ((w.vaSpans c).flatMap d.2.parts))).fail r .rightsViolation).settle) ∧
      (∀ v ins y c1, d.1 = .ok → v = (s.modCmd r fun z => { z with descs := d.2.descs }) →
        ins = ((w.spans.filter fun z => bit z.access 0).flatMap fun z => v.spanPieces d.2 z) →
        v.lackReads r d.2 (v.epochOf (seracEngine u)) ins = [] → (v.unit u).hasCredit 0 = true →
        y = (v.modCmd r fun z => { z with descs := v.kvRefresh z w }).readPieces r d.2 (v.epochOf (seracEngine u)) ins →
        tget? y.2.cmds r = some c1 → c1.decided = none → Sys2Proof.Machine.exec (.issue u) s =
          .next (y.2.sendIssue u r c1 t n ((w.spans.filter fun z => bit z.access 1).flatMap fun z => v.spanPieces d.2 z) y.1).settle)) ∧
    (∀ r t, s.crevReady = r :: t → Answers (Sys2Proof.Machine.exec .crevasseWaitingPost s) fun v =>
      v.esk.crevWaiting = s.esk.crevWaiting.erase r ∧ v.esk.crevTail = (s.esk.crevTail + 1) % 1024 ∧
      ∃ y, tget? v.esk.crev s.esk.crevTail = some y ∧ y.seq = (s.esk.crevSeq + 1) % 65536 ∧ y.ctx = r.ctx ∧ y.union = r.union ∧ y.time = s.now) ∧
    (s.unitOk u = true → s.engDown 0x0800 = false →
      Sys2Proof.Machine.exec (.runAhead u) s = .next ((s.aheadTiles u).foldl (fun t e => t.aheadOne u e.1 e.2) s)) ∧
    (∀ k w x l lv, tget? s.esk.walks k = some w → s.engDown (0x0600 + k) = false → tget? s.ctxs w.ctx = some x → x.badAt w.va 1 = false → s.walkStale w x = false →
      leafAt x.leaves w.va = some l → Answers (Sys2Proof.Machine.exec (.tableWalkDone k { place := lv }) s) fun t =>
        t.esk.walks = tdel s.esk.walks k ∧ ∃ old, old.length ≤ 65535 ∧
          t.esk.cache = old ++ [{ ctx := w.ctx, leaf := (runAt x.leaves l).1, run := (runAt x.leaves l).2 }]) ∧
    (∀ k w x lv n, tget? s.esk.walks k = some w → s.engDown (0x0600 + k) = false → tget? s.ctxs w.ctx = some x → w.cmd = none →
      n = tableSpan (min lv (walkDepth x.leaves w.va)) →
      Answers (Sys2Proof.Machine.exec (.tableWalkDone k { ecc := .uncorrectable, place := lv }) s) fun t =>
        tget? t.ctxs w.ctx = some { x with badTables := x.badTables ++ [(w.va / n * n, n)] } ∧ t.esk.cache = s.esk.cache) ∧
    (∀ r, s.unitOk u = true → (s.unit u).restore = some r →
      Sys2Proof.Machine.exec (.restoreData u) s = .next (State.sendRestore u (r.left.length + 1) s).settle) ∧
    (∀ cls n, cls < 4 → s.present u = true → (s.eng (seracEngine u)).fenced = false → n ≠ 0 →
      ((s.unit u).turn = none → (s.unit u).rstAt = none → (s.unit u).itemsAhead = 0 → Answers (Sys2Proof.Machine.exec (.creditReturn u true cls n) s) fun t =>
        (t.unit u).due = setAt (s.unit u).due cls ((s.unit u).due.getD cls 0 - n) ∧
        (t.unit u).down = setAt (s.unit u).down cls
          (min ((s.unit u).down.getD cls 0 + (n - (s.unit u).due.getD cls 0)) ((s.unit u).downMax.getD cls 0))) ∧
      (s.unitOk u = true → (s.unit u).up.getD cls 0 + n ≤ upMax.getD cls 0 → Answers (Sys2Proof.Machine.exec (.creditReturn u false cls n) s) fun t =>
        (t.unit u).up = setAt (s.unit u).up cls ((s.unit u).up.getD cls 0 + n) ∧ t.ports.credits = s.ports.credits ++ [(u, cls, n)])) ∧
    (∀ j w i more k, (s.unit u).nextStream = some (j, w) → w.items = i :: more → w.ahead = 0 →
      s.repairMet u w = none → s.corruptMet u w k = none → s.unitOk u = true → s.meltServes u = true → s.engDown 0x0900 = false →
      s.stageRoom u (i.payload w.pass w.imageVer).length = true →
      ((s.unit u).hasCredit 1 = true → (s.unit u).itemsAhead = 0 → (∀ l x y, i ≠ .layerEnd l x y) →
        Answers (Sys2Proof.Machine.exec (.wblock { port := u, corrupt := k }) s) fun t =>
          (t.unit u).streams = (if more.isEmpty then (s.unit u).streams.eraseIdx j else (s.unit u).streams.set j { w with items := more, begun := true }) ∧
          t.ports.tile = s.ports.tile ++ [w.packet u i]) ∧
      ((s.unit u).hasCredit 1 = false → Answers (Sys2Proof.Machine.exec (.wblock { port := u, corrupt := k }) s) fun t =>
          (t.unit u).streams = (s.unit u).streams.set j { w with ahead := 1 } ∧ t.ports.tile = s.ports.tile)) ∧
    (∀ j w i k e, (s.unit u).nextStream = some (j, w) → w.items[w.ahead]? = some i →
      s.repairMet u w = none → s.corruptMet u w (some k) = some e → s.unitOk u = true → s.meltServes u = true → s.engDown 0x0900 = false →
      s.stageRoom u (i.payload w.pass w.imageVer).length = true → Sys2Proof.Machine.exec (.wblock { port := u, corrupt := some k }) s =
        .next (({ s with firn := { s.firn with codeErr := satAdd s.firn.codeErr 1 0xFFFFFFFF } } : State).needRepair w.image w.imageVer e.1 e.2))

/-- The tap exchange and the training update. A tap gathers its bytes and is taken with the last; a slice fetched joins the cache; a
null or a ready tap is answered where the port has credit; an update reads its optimizer block, begins, and ends at its commit where
its context is not being reset. (08_adapters.md, The tap exchange; 08_adapters.md, Segmented batching; 08_adapters.md, Training) -/
def Obligations.TapsAndTraining : Prop :=
  ∀ (s : State) (u : Nat) (p : TilePkt), s.stagesRun = true → s.unitOk u = true →
    (packetSound p → p.typ = 0x11 → tget? s.silt.partials u = none → (s.silt.taps.any fun y => y.port == u && y.tag == p.index) = false →
      (32 ≤ p.payload.length → p.payload.length < 32 + fld p.payload 24 4 → Answers (Sys2Proof.Machine.exec (.tapIn u p) s) fun t =>
        tget? t.silt.partials u = some (p.index, p.payload) ∧ t.silt.taps = s.silt.taps) ∧
      (32 + fld p.payload 24 4 ≤ p.payload.length → ∃ v : State, v.silt = { s.silt with partials := tdel s.silt.partials u } ∧
        Sys2Proof.Machine.exec (.tapIn u p) s = .next (v.takeTap u (tapOf u p p.payload) p.payload).settle)) ∧
    (∀ e x rest g, (s.siltEng e).fetches = x :: rest → s.siltOk e = true → s.sliceBad x = false →
      Answers (Sys2Proof.Machine.exec (.sliceFetchDone e { place := g }) s) fun t => (t.siltEng e).fetches = rest ∧
        ∃ need, (t.siltEng e).slices = evictSlices (need ++ [x]) ((s.siltEng e).slices.length + 1) ((s.siltEng e).slices ++ [x])) ∧
    (∀ tag t, s.silt.taps.find? (fun t => t.port == u && t.tag == tag) = some t → t.null = true → (s.unit u).hasCredit 2 = true →
      Sys2Proof.Machine.exec (.tapAnswer u tag) s = .next (((s.dropTap t).answerNull t).workMoved t.cmd)) ∧
    (∀ tag t c e, s.silt.taps.find? (fun t => t.port == u && t.tag == tag) = some t → t.null = false → tget? s.cmds t.cmd = some c →
      s.tapReady t c = true → s.tapEngine t c = some e → (s.unit u).hasCredit 2 = true →
      ∃ v : State, v = { (((t.packets 1 (s.tapAdd t c)).foldl State.sendTile (s.dropTap t)).keepInters t c).accumulateTap t c with free := s.free + tapDraws } ∧
        Sys2Proof.Machine.exec (.tapAnswer u tag) s =
          .next (((v.updSilt e fun g => { g with taps := (g.taps + 1) % 2 ^ 64 }).progress (siltEngine e)).workMoved t.cmd).settle) ∧
    (∀ r c x d v y c1, tget? s.cmds r = some c → c.opcode = 0x81 → c.stage = .running → c.live = true → c.updating = false → c.waitProv = false →
      s.workDone r c = true → tget? s.ctxs c.ctx = some x → (s.crevAny fun v => v.unsettled && v.stuck.contains r) = false →
      s.checkSpans c x 0x0700 [⟨3, ioBufAddr c.sqe 3, 32, 1⟩] = d → d.1 = .ok → v = (s.modCmd r fun z => { z with descs := d.2.descs }) →
      v.lackReads r c (s.epochOf 0x0700) (d.2.pieces 3 (ioBufAddr c.sqe 3) 32) = [] →
      y = v.readPieces r c (s.epochOf 0x0700) (d.2.pieces 3 (ioBufAddr c.sqe 3) 32) →
      tget? y.2.cmds r = some c1 → c1.decided = none →
      Sys2Proof.Machine.exec (.trainUpdate r) s = .next (y.2.beginUpdate r c1 y.1).settle) ∧
    (∀ r c, tget? s.cmds r = some c → c.updating = true → c.decided = none →
      (∀ x, tget? s.ctxs c.ctx = some x → x.resetting = false) → AnswersSettled (Sys2Proof.Machine.exec (.trainUpdateCommit r) s) fun t =>
      t.ended r .success ∧ t.cmdHas r (fun x => x.updating = false) ∧
      t.silt.variants = tmap s.silt.variants fun k v => if c.variants.any (·.id == k) then v.commitStep else v)

/-- Requests, answers and walks of memory. A write request stores its bytes at the address it names and nowhere else; a denied one is
counted and logged; a read answered good leaves memory alone; the re-key walk, the Varve write-back, the hot window and the VX1 move
have the effect given. A request that crosses a granule of 512 bytes is served part by part (log entry 146). (06_translation.md, The
frame key table; 06_translation.md, Tiers, hot pages and migration; 06_translation.md, VX1 compatibility placement;
11_protection.md, Glaze; 11_protection.md, Varve) -/
def Obligations.MemoryPorts : Prop :=
  (∀ (s : State) (q : MemReq) (b : Blob), s.stagesRun = true → reqFormed q = true → reqParts q = [q] → s.requestWaits q = false → q.write = some b →
    s.portEnd q = .pass → s.verifyFirst q = [] → (if q.hot && q.ctx != 0 then s.hotCount q.tier q.offset q.epoch else s).pageBad q.tier q.offset = false →
    Memory.wf s.mem = true → Answers (Sys2Proof.Machine.exec (.memoryRequest q) s) fun t => memRead t.mem (devAddr q.tier q.offset) b.length = b ∧
      SameOutside s t (devAddr q.tier q.offset) b.length ∧ t.allocs = s.allocs ∧ t.queues = s.queues) ∧
  (∀ (s : State) (q : MemReq), s.stagesRun = true → reqFormed q = true → (reqParts q).any s.requestWaits = false →
    Sys2Proof.Machine.exec (.memoryRequest q) s = .next ((reqParts q).foldl State.serveRequest s) ∧
    (reqParts q = [q] →
      (s.portEnd q = .pass → q.write = none → Sys2Proof.Machine.exec (.memoryRequest q) s = .next (s.readRequest q)) ∧
      (s.portEnd q = .denied → s.tierHas q.tier q.offset = true → Answers (Sys2Proof.Machine.exec (.memoryRequest q) s) fun t =>
        t.esk.fktCount = satAdd s.esk.fktCount 1 0xFFFFFFFF ∧ t.esk.fktLog.valid = true ∧ t.mem = s.mem) ∧
      (s.portEnd q = .stale → q.write = none → Sys2Proof.Machine.exec (.memoryRequest q) s = .next s))) ∧
  (∀ (s : State) (port tag : Nat) (q : MemReq), s.stagesRun = true → tget? s.glz.reads (port * 1024 + tag) = some q → s.glazedPage q = none →
    (q.cmd = none → Answers (Sys2Proof.Machine.exec (.memoryReadResponse port tag .clean .good) s) fun t =>
      t.glz.reads = tdel s.glz.reads (port * 1024 + tag) ∧ t.mem = s.mem)) ∧
  (∀ (s : State) (key k p : Nat) (rest : List (Nat × Nat)), s.stagesRun = true → (s.key key).walk = some ((k, p) :: rest) → rest ≠ [] →
    s.glazeHeld k p = false → (s.glz.writes.any fun w => s.glazedPage w.req == some (k, p)) = false →
    Answers (Sys2Proof.Machine.exec (.rekeyWalk key) s) fun t => (t.key key).walk = some rest) ∧
  (∀ (s : State) (level pos : Nat), s.stagesRun = true → s.varve.isDirty level pos = true → s.varve.lastWrite.find? (·.1 == (level, pos)) = none →
    Answers (Sys2Proof.Machine.exec (.varveNodeWriteback level pos) s) fun t =>
      t.varve.lastWrite = ((level, pos), s.now) :: s.varve.lastWrite.filter (·.1 != (level, pos)) ∧ t.mem = s.mem) ∧
  (∀ (s : State), s.stagesRun = true → Answers (Sys2Proof.Machine.exec .hotWindowEnd s) fun t =>
    t.esk.hot = [] ∧ t.esk.hotListed = [] ∧ t.esk.windowStart = t.now ∧ t.esk.windowMs = s.esk.windowNext ∧ s.windowEnd ≤ t.now) ∧
  (∀ (s u : State) (f frame dest : Nat), s.vx1Due f frame = true → s.freeFrames 0 ≠ 0 → s.frameFree 0 dest = true → s.moveFrame (1, frame) (0, dest) = some u →
    AnswersSettled (Sys2Proof.Machine.exec (.vx1FrameMove f frame dest) s) fun t =>
      t = u.updFn f fun x => { x with vx1Frames := x.vx1Frames ++ [dest], vx1LastMove := some s.now })

/-- Interrupt vectors, drain windows and invalidation answers. Unmasking a function or a vector releases what is pending; a drain window
that expires resets the context of the command that holds the engine; an invalidation ends with the answer of its last engine.
(03_queues.md, Interrupts; 02_edges.md, Host port; 03_queues.md, Command timeout; 06_translation.md, Range invalidation) -/
def Obligations.VectorsAndWindows : Prop :=
  (∀ (s : State) (fn : Nat), fn < 4096 → s.configurable = true → Sys2Proof.Machine.exec (.msixMaskClear fn none) s =
    .next ((s.updFn fn fun x => { x with msixMask := false }).releaseVectors fn)) ∧
  (∀ (s : State) (fn v : Nat), fn < 4096 → v < (if fn = 0 then 256 else 8) → s.reachable = true → s.noHalf fn →
    Answers (Sys2Proof.Machine.exec (.msixMaskClear fn (some v)) s) fun t => ∃ u : State, t = u.releaseVectors fn ∧
      (tget (u.fn fn).vectors {} v).masked = false ∧ (tget (u.fn fn).vectors {} v).pending = (tget (s.fn fn).vectors {} v).pending ∧
      ∀ n, n ≠ v → tget (u.fn fn).vectors {} n = tget (s.fn fn).vectors {} n) ∧
  (∀ (s : State) (r w : Nat) (c : Cmd) (st : Status), tget? s.cmds r = some c → c.decided = some st → c.window = some w → c.admin = false →
    c.updating = false → c.unfinished = true → s.holdsEngine r = true → s.stagesRun = true → w ≤ (s.advanceTo w).now ∧
      (((s.advanceTo w).fn c.fn).phase ≠ .resetting → Sys2Proof.Machine.exec (.drainWindowExpiry r) s =
        .next ((s.advanceTo w).contextReset c.ctx 1 0 (some (r, if st == .timeout then .timeoutKilled else st)) none).settle) ∧
      (((s.advanceTo w).fn c.fn).phase = .resetting → ∃ u : State, u = (s.advanceTo w).contextReset c.ctx 0 0 none none ∧
        Sys2Proof.Machine.exec (.drainWindowExpiry r) s = .next ((u.cmdsOfCtx c.ctx).foldl State.discard u).settle)) ∧
  (∀ (s : State) (inv engine : Nat) (i : Inval), s.stagesRun = true → invalEngines.contains engine = true →
    s.esk.invals.find? (·.id == inv) = some i → i.acked.contains engine = false → (s.eng engine).rst = none →
    (engine / 256 = 1 → s.tileInRange (engine % 256) i = false) →
    (invalEngines.all (engine :: i.acked).contains = true → Sys2Proof.Machine.exec (.invalidationAck inv engine) s =
      .next ((s.ackEffect engine i).invalDone { i with acked := engine :: i.acked })) ∧
    (invalEngines.all (engine :: i.acked).contains = false → Answers (Sys2Proof.Machine.exec (.invalidationAck inv engine) s) fun t =>
      t.esk.invals = s.esk.invals.map (fun x => if x.id = inv then { i with acked := engine :: i.acked } else x) ∧ t.mem = s.mem))

/-- Entering Freeze and Permafrost. When a PWR_STATE to Freeze or Permafrost has been answered, the block enters that state with the
supply selection and retention of the state, keeps the state to return to, and changes no topology or pool; memory changes by the
receipts and the header of the persist region alone. (15_power_and_supply.md, The four states) -/
def Obligations.LowPowerEntry : Prop :=
  ∀ (s : State), (s.pwr.target = .freeze ∨ s.pwr.target = .permafrost) → s.stagesRun = true →
    (s.cmds.any fun e => e.2.opcode == 0x1D && e.2.admin) = false → (tany s.queues fun _ q => q.admin && q.fn == 0 && !q.burst.isEmpty) = false →
    Answers (Sys2Proof.Machine.exec .powerStateEntry s) fun t => t.pwr.st = s.pwr.target ∧ t.pwr.target = .active ∧ t.pwr.ret = s.pwr.st ∧
      t.pins.retEn = (s.pwr.target == .permafrost) ∧ t.pins.vddSel = (if s.pwr.target = .permafrost then 2 else 1) ∧ t.mem = (s.persistAll.markHeader true).mem ∧ t.topo = s.topo ∧ t.pools = s.pools

/-- Repair of image data. A repair that waits for a tag asks again, and else one starts among at most 8 and asks its peers; the next
source is asked when an answer is overdue; the canonical copy gives the unit or poisons the version; a read-back ends the repair, or
begins the move of the unit to another frame, which ends once the other units of the frame that fail to read are repaired, or
poisons the version. (07_base_weights.md, Uncorrectable errors in image data) -/
def Obligations.RepairEvents : Prop :=
  (∀ (s : State) (p q : Repair), s.firnRuns = true → s.firn.repairs.find? Repair.waitsTag = none → s.firn.repairs.countP (·.started) < 8 → (s.firn.repairs.find? fun p => !p.started) = some p →
    q = { p with started := true, epoch := s.epochOf 0x0900, peerRec := s.peerRec p.image, peers := (maskBits 64 (match s.peerRec p.image with | some b => fld b 8 8 | none => 0)).filter (· != s.nodeId) } →
    Sys2Proof.Machine.exec .repairStart s = .next ((s.modRepair p.id fun y => { y with started := true, peers := q.peers, epoch := q.epoch, peerRec := q.peerRec }).askNext q)) ∧
  (∀ (s : State) (p : Repair), s.firnRuns = true → s.firn.repairs.find? Repair.waitsTag = some p →
    Sys2Proof.Machine.exec .repairStart s = .next (s.askNext p)) ∧
  (∀ (s : State) (id : Nat) (p : Repair) (a : Nat × Nat), s.firnRuns = true → s.firn.repairs.find? (·.id == id) = some p → p.asked = some a →
    a.2 ≤ (s.advanceTo a.2).now ∧ Sys2Proof.Machine.exec (.peerAnswerTimeout id) s =
      .next (((s.advanceTo a.2).modRepair p.id fun y => { y with asked := none }).askNext { p with asked := none })) ∧
  (∀ (s : State) (id : Nat) (p : Repair) (m d : Blob) (b : Blob), s.firnRuns = true → s.firn.repairs.find? (·.id == id) = some p → p.canonical = true →
    (∀ resp, resp ≠ .ok → Sys2Proof.Machine.exec (.canonicalReadDone id resp m d) s = .next (s.poison p.image p.ver)) ∧
    (s.fromCanonical p (padTo (p.peerRec.elim 0 fun b => fld b 24 4) m) d = some b →
      Answers (Sys2Proof.Machine.exec (.canonicalReadDone id .ok m d) s) fun t => t.firn.fromHost = satAdd s.firn.fromHost 1 0xFFFF ∧
        t.firn.fromPeer = s.firn.fromPeer ∧ t.firn.repairs = (s.modRepair p.id fun y => { y with asked := none, peers := [], canonical := false, got := some b }).firn.repairs)) ∧
  (∀ (s : State) (id : Nat) (p : Repair) (ecc : Ecc) (frame : Option Nat) (bad : List (Nat × Nat)), s.firnRuns = true → s.firn.repairs.find? (·.id == id) = some p → p.got.isSome = true →
    p.moving = none →
    ((ecc = .clean ∨ ecc = .corrected) → Sys2Proof.Machine.exec (.repairReadback id { ecc := ecc, bad := bad } frame) s =
        .next (s.endRepair id).endMoves.settle ∧
      ((∀ q ∈ s.firn.repairs, q.moving = none) → AnswersSettled (Sys2Proof.Machine.exec (.repairReadback id { ecc := ecc, bad := bad } frame) s) fun t =>
        t.firn.repairs = s.firn.repairs.filter (fun p => p.id != id) ∧ t.serac.units = tmap s.serac.units fun _ u => { u with
          streams := u.streams.map fun w => if w.stall = some id then { w with stall := none } else w })) ∧
    ((ecc = .uncorrectable ∨ ecc = .poisoned) → (s.repairFrame p).any s.movesFrame = false →
      (s.beginMove p frame bad = none → Sys2Proof.Machine.exec (.repairReadback id { ecc := ecc, bad := bad } frame) s = .next (s.poison p.image p.ver)) ∧
      (∀ u, s.beginMove p frame bad = some u → Sys2Proof.Machine.exec (.repairReadback id { ecc := ecc, bad := bad } frame) s =
        .next u.endMoves.settle)))

/-- Detectors and what an engine reset opens. A rail fault, a sentinel and a stalled sample each reset the engine under their cause, the
sample at its period of 200 µs and the heartbeat at its period of 100 µs; the watchdog restarts Tarn; an engine reset that is no
third within 10 s opens a record at the tail of the ring and is due 200 µs later. (13_reliability.md, Detectors; 13_reliability.md,
Reset domains; 13_reliability.md, Reset records; 13_reliability.md, Escalation and fencing) -/
def Obligations.FailureDetection : Prop :=
  ∀ (s : State),
    (∀ e, s.detects = true → s.engineExists e = true → Sys2Proof.Machine.exec (.railFault e) s = .next ((s.setErr 0).engineReset e 9 none 0 0xFFFF).settle) ∧
    (∀ e, s.stagesRun = true → s.engineExists e = true → Sys2Proof.Machine.exec (.stallSentinelExpiry e) s = .next ((s.setErr 1).engineReset e 10 none 0 0xFFFF).settle) ∧
    (∀ u, s.tarnRuns = true → s.tarn.phase ≠ 6 → u = s.advanceTo (s.loess.sampledAt + 200000) → (sampledEngines.any u.stalled) = false →
      Sys2Proof.Machine.exec .progressSample s = .next ({ u.pulse 1 with loess := { u.loess with sampledAt := u.now } } : State).settle) ∧
    (∀ e u v, s.tarnRuns = true → s.tarn.phase ≠ 6 → u = s.advanceTo (s.loess.sampledAt + 200000) → sampledEngines.filter u.stalled = [e] →
      v = { u.pulse 1 with loess := { u.loess with sampledAt := u.now } } → v.stalled e = true →
      Sys2Proof.Machine.exec .progressSample s = .next ((v.setErr 2).engineReset e 8 (v.stallGuilty e) 0 0xFFFF).settle) ∧
    (s.tarnRuns = true → s.loess.hbStopped = false → Answers (Sys2Proof.Machine.exec .heartbeat s) fun t => t.loess.hbLast = t.now ∧
      s.loess.hbLast + 100000 ≤ t.now ∧ t.loess.hbHeldAt = t.pwr.heldNs ∧ (t.ticSrc 0).pending = true ∧ t.mem = s.mem) ∧
    (s.tarnRuns = true → s.loess.oos = false → s.loess.hbLast + 300000 + (s.pwr.heldNs - s.loess.hbHeldAt) ≤ s.now →
      Sys2Proof.Machine.exec .heartbeatWatchdogExpiry s = .next (s.tarnRestart 13 0xFFFF).settle) ∧
    (∀ e, s.loess.oos = false → s.loess.halted = false → s.engineExists e = true → (s.eng e).fenced = false → e / 256 ≠ 0x0B → e / 256 < 0x0C →
      (s.eng e).rst = none → (inDomain e && s.loess.domain.isSome) = false → (s.recentResets e).length < 2 → ∀ cause, ∃ u : State,
        s.engineReset e cause none 0 0xFFFF = u.engineBegin e ∧ (u.eng e).history = s.recentResets e ++ [s.now] ∧
        ∃ x, (u.eng e).rst = some x ∧ x.start = s.now ∧ x.deadline = s.now + 200000 ∧ x.heldAt = s.pwr.heldNs ∧ x.slot = s.loess.tail ∧
          ∃ y, tget? u.loess.records s.loess.tail = some y ∧ y.cause = cause ∧ y.engine = e ∧ y.startTime = s.now ∧ y.seq = (s.loess.seq + 1) % 65536)

/-- Resets that complete or are overdue. An engine, the compute domain and Tarn each come back when their reset completes by its
deadline, to which the time held since its start does not count; a reset that is overdue escalates: an engine to its larger domain,
a context to the engines it waits for, the compute domain and Tarn to out of service. (13_reliability.md, Reset domains;
13_reliability.md, Escalation and fencing; 13_reliability.md, Tarn restart; 15_power_and_supply.md, Supply disturbances) -/
def Obligations.ResetDeadlines : Prop :=
  ∀ (s : State), s.loess.oos = false →
    (∀ x, s.dueAt x = x.deadline + (s.pwr.heldNs - x.heldAt)) ∧ (∀ c, s.ctxDueAt c = c.resetStart + 100000 + (s.pwr.heldNs - c.resetHeld)) ∧
    (∀ e x, (s.eng e).rst = some x → s.detects = true →
      (s.now ≤ s.dueAt x → (e / 256 = 1 → (s.unit (e % 256)).credited.length = 4) → ∃ u v : State,
        Sys2Proof.Machine.exec (.engineResetComplete e) s = .next ((v.adoptAll e).settle).replayOnward ∧
        (e ≠ 0x0700 → e / 256 ≠ 4 → e / 256 ≠ 5 → e / 256 ≠ 6 → v = (u.recover x.slot x.blamed x.lost).closeIfOpen x.slot 0) ∧
        (e = 0x0700 → v = ((u.recover x.slot x.blamed x.lost).closeIfOpen x.slot 0).queues.foldl (fun t q => t.rewriteBurst q.2)
          ((u.recover x.slot x.blamed x.lost).closeIfOpen x.slot 0)) ∧
        (u.eng e).rst = none ∧ (u.eng e).count = (s.eng e).count + 1 ∧ (u.eng e).stamp = s.now ∧ (u.eng e).history = (s.eng e).history) ∧
      s.dueAt x ≤ (s.advanceTo (s.dueAt x)).now ∧
      (s.timeHeld = false → Sys2Proof.Machine.exec (.engineResetDeadline e) s = .next ((s.advanceTo (s.dueAt x)).engineOverdue e).settle)) ∧
    (∀ k c t, tget? s.ctxs k = some c → c.resetting = true → s.detects = true → s.timeHeld = false → t = s.advanceTo (s.ctxDueAt c) →
      s.ctxDueAt c ≤ t.now ∧
      ((c.resetWait.filter fun u => !t.engDown (seracEngine u) && t.loess.domain.isNone) = [] →
        Sys2Proof.Machine.exec (.contextResetDeadline k) s = .next t.settle) ∧
      (∀ u, (c.resetWait.filter fun u => !t.engDown (seracEngine u) && t.loess.domain.isNone) = [u] → ∀ n, c.resetRecord = some n →
        Sys2Proof.Machine.exec (.contextResetDeadline k) s = .next ((t.closeRecord n 1 false).engineReset (seracEngine u) 11 (some k) 0 n).settle)) ∧
    (∀ x, s.loess.domain = some x → s.detects = true →
      (s.now ≤ s.dueAt x → Sys2Proof.Machine.exec .computeDomainResetComplete s = .next s.domainDone) ∧
      s.dueAt x ≤ (s.advanceTo (s.dueAt x)).now ∧
      (s.timeHeld = false → Sys2Proof.Machine.exec .computeDomainResetDeadline s =
        .next (((s.advanceTo (s.dueAt x)).closeRecord x.slot 1 false).outOfService 1 0).settle)) ∧
    (∀ x, s.loess.restart = some x → s.stagesRun = true →
      (s.now ≤ s.dueAt x → Sys2Proof.Machine.exec .tarnRestartComplete s = .next (s.restartDone x).settle) ∧
      s.dueAt x ≤ (s.advanceTo (s.dueAt x)).now ∧
      ∃ u : State, u.loess.restart = none ∧ (s.loess.restartForPatch = true → u.loess.records = (s.advanceTo (s.dueAt x)).loess.records) ∧
        Sys2Proof.Machine.exec .tarnRestartDeadline s = .next (u.outOfService 6 0x0B00).settle)

/-- A block reset clears fences, histories, the window and the records. Asserting a cold or a warm reset leaves no engine record (so no
fence and no fence history), no compute-domain window and no reset record. (R553) -/
def Obligations.BlockResetClearsFences : Prop :=
  ∀ (s : State) (ns : Nat), 5 ≤ ns →
    (Answers (Sys2Proof.Machine.exec (.coldResetAssert ns) s) fun t =>
      t.loess.engines = [] ∧ t.loess.domainTimes = [] ∧ t.loess.records = [] ∧ t.loess.head = 0 ∧ t.loess.tail = 0) ∧
    (Answers (Sys2Proof.Machine.exec (.warmResetAssert ns) s) fun t =>
      t.loess.engines = [] ∧ t.loess.domainTimes = [] ∧ t.loess.records = [] ∧ t.loess.head = 0 ∧ t.loess.tail = 0)

/-- Requests and answers of other nodes. A remote read, write or peer request is answered with its data or the status of its check; an
answer that is expected ends the access of its command; one that no request waits for is counted as stale and changes no memory.
(14_links.md, Routing and remote requests; 14_links.md, Messages; 06_translation.md, Remote addresses) -/
def Obligations.RemoteMessages : Prop :=
  ∀ (s : State) (link : Nat) (m : FloeMsg), s.linkUpNow link = true → m.dst = s.nodeId →
    (∀ ecc, msgOk m 0x01 = true → ∃ q n, q = s.remoteReq m n ∧ n = leVal m.body ∧
      (s.remoteStatus q ecc = .success → Sys2Proof.Machine.exec (.readReq link m ecc) s = .next ((s.portRead q n).2.answerMsg m 0x11 0 (s.portRead q n).1)) ∧
      (s.remoteStatus q ecc = .frameKeyDenied → Sys2Proof.Machine.exec (.readReq link m ecc) s = .next ((s.fktDeny q).answerMsg m 0x11 0x4004 [])) ∧
      (s.remoteStatus q ecc = .memoryUncorrectable → Sys2Proof.Machine.exec (.readReq link m ecc) s = .next (s.answerMsg m 0x11 0x4005 [])) ∧
      (s.remoteStatus q ecc = .integrityUnverifiable → Sys2Proof.Machine.exec (.readReq link m ecc) s = .next (s.answerMsg m 0x11 0x6002 []))) ∧
    (∀ ecc, msgOk m 0x02 = true → ∃ q, q = s.remoteReq m m.body.length ∧
      (s.remoteStatus q ecc = .success → Sys2Proof.Machine.exec (.writeReq link m ecc) s = .next ((s.portWrite q m.body).answerMsg m 0x12 0 [])) ∧
      (s.remoteStatus q ecc = .frameKeyDenied → Sys2Proof.Machine.exec (.writeReq link m ecc) s = .next ((s.fktDeny q).answerMsg m 0x12 0x4004 [])) ∧
      (s.remoteStatus q ecc = .memoryUncorrectable → Sys2Proof.Machine.exec (.writeReq link m ecc) s = .next (s.answerMsg m 0x12 0x4005 [])) ∧
      (s.remoteStatus q ecc = .integrityUnverifiable → Sys2Proof.Machine.exec (.writeReq link m ecc) s = .next (s.answerMsg m 0x12 0x6002 []))) ∧
    (msgOk m 0x03 = true → ∃ b, b = s.heldUnit (m.body.take 48) (fld m.body 48 4) (fld m.body 52 4) (fld m.body 56 1) ∧
      Sys2Proof.Machine.exec (.peerReq link m) s = .next (s.answerMsg m 0x13 (if b.isSome then 0 else 0x7001) (b.getD []))) ∧
    (∀ x, tget? s.floe.remotes m.tag = some x → x.hold = false → x.q.node = m.src →
      (msgOk m 0x11 = true → x.q.write = none → m.status = 0 → ∀ r, x.q.cmd = some r → ∃ u : State,
        Sys2Proof.Machine.exec (.readResp link m) s = .next (u.remoteMoved x.q) ∧ u.floe = { s.floe with remotes := tdel s.floe.remotes m.tag } ∧
        ∀ c, tget? s.cmds r = some c → u.cmdHas r fun y =>
          y.remoteData = c.remoteData ++ [(dpaOf x.q.key x.q.node x.q.tier x.q.offset, padTo x.q.len m.body)]) ∧
      (msgOk m 0x12 = true → x.q.write.isSome = true → m.status = 0 →
        Sys2Proof.Machine.exec (.writeAck link m) s = .next (({ s with floe := { s.floe with remotes := tdel s.floe.remotes m.tag } } : State).remoteMoved x.q)) ∧
      (msgOk m 0x12 = true → x.q.write.isSome = true → m.status ≠ 0 → Sys2Proof.Machine.exec (.writeAck link m) s =
        .next ((({ s with floe := { s.floe with remotes := tdel s.floe.remotes m.tag } } : State).endWork x.q (remoteEnd m.status)).remoteMoved x.q)) ∧
      (msgOk m 0x11 = true → x.q.write = none → m.status ≠ 0 → Sys2Proof.Machine.exec (.readResp link m) s =
        .next ((({ s with floe := { s.floe with remotes := tdel s.floe.remotes m.tag } } : State).endWork x.q (remoteEnd m.status)).remoteMoved x.q))) ∧
    (tget? s.floe.remotes m.tag = none →
      (msgOk m 0x11 = true → Answers (Sys2Proof.Machine.exec (.readResp link m) s) fun t => t.floe = { s.floe with stale := satAdd s.floe.stale 1 0xFFFF } ∧ t.mem = s.mem) ∧
      (msgOk m 0x12 = true → Answers (Sys2Proof.Machine.exec (.writeAck link m) s) fun t => t.floe = { s.floe with stale := satAdd s.floe.stale 1 0xFFFF } ∧ t.mem = s.mem)) ∧
    (∀ p, s.firn.repairs.find? (fun p => p.tag == m.tag && p.asked.any fun a => a.1 == m.src) = some p → msgOk m 0x13 = true →
      (m.status = 0 → Sys2Proof.Machine.exec (.peerResp link m) s = .next (s.gotUnit p m.body false).pumpRemotes) ∧
      (m.status ≠ 0 → Sys2Proof.Machine.exec (.peerResp link m) s =
        .next (((s.modRepair p.id fun y => { y with asked := none }).askNext { p with asked := none }).pumpRemotes)))

/-- Frames and the states of a link. A frame with a bad check is counted and, where it is a data frame, asks for a resend; acks, resend
requests and data in order act on the link; a link comes up after a HELLO that fits, stays in Hello with its ring released after one
that does not, loses its ring after its training time, and trains anew when its signal is lost. (14_links.md, Frames; 14_links.md,
Link states and the bypass) -/
def Obligations.LinkEvents : Prop :=
  ∀ (s : State) (n : Nat),
    (s.linkUpNow n = true →
      (∀ f : Blob, (f.length ≠ 256 ∨ crc64 ((padTo 256 f).take 248) ≠ fld (padTo 256 f) 248 8) → ∃ u : State,
        (fld (padTo 256 f) 0 1 = 1 → Sys2Proof.Machine.exec (.frameReceive n f) s = .next (u.nakOnce n)) ∧
        (fld (padTo 256 f) 0 1 ≠ 1 → Sys2Proof.Machine.exec (.frameReceive n f) s = .next u) ∧ (u.link n).crc = satAdd (s.link n).crc 1 0xFFFFFFFF ∧
        (u.link n).rxSeq = (s.link n).rxSeq ∧ (u.link n).rx = (s.link n).rx ∧ u.mem = s.mem) ∧
      (∀ (f : Blob) u, f.length = 256 → crc64 (f.take 248) = fld f 248 8 → u = (s.updLink n fun l => l.takeHead s.now f).progress (floeEngine n) →
        (fld f 0 1 = 0 → Sys2Proof.Machine.exec (.frameReceive n f) s = .next (u.pump n)) ∧
        (fld f 0 1 = 2 → Sys2Proof.Machine.exec (.frameReceive n f) s = .next ((u.resend n).pump n)) ∧
        (fld f 0 1 = 1 → fld f 1 1 % 4 ≠ 3 → fld f 2 2 = (u.link n).rxSeq → Sys2Proof.Machine.exec (.frameReceive n f) s =
          .next (((u.takeData n f).pump n).ackFrame n u.ports.frames.length)) ∧
        (fld f 0 1 = 1 → (fld f 1 1 % 4 = 3 ∨ fld f 2 2 ≠ (u.link n).rxSeq) →
          Sys2Proof.Machine.exec (.frameReceive n f) s = .next ((u.nakOnce n).pump n))) ∧
      ((s.link n).retry ≠ [] → (s.link n).ackTime + 10000 ≤ (s.advanceTo ((s.link n).ackTime + 10000)).now ∧
        Sys2Proof.Machine.exec (.ackTimeout n) s = .next ((s.advanceTo ((s.link n).ackTime + 10000)).resend n)) ∧
      (Sys2Proof.Machine.exec (.linkSignalLost n) s = .next (s.retrain n 1 true))) ∧
    (s.floeRuns n = true → (s.link n).st = .training →
      (Answers (Sys2Proof.Machine.exec (.lanesReady n) s) fun t => ∃ (u : State) (m : FloeMsg), t = u.linkMoved (n / 2) ∧ (u.link n).st = .hello ∧
        u.ports.floe = s.ports.floe ++ [(n, m)] ∧ m.typ = 0x21 ∧ m.src = s.nodeId ∧ m.body.take 2 = leBytes 1 s.nodeId ++ leBytes 1 n) ∧
      (∀ d, (s.link n).trainDeadline = some d → d ≤ (s.advanceTo d).now ∧
        Sys2Proof.Machine.exec (.trainTimeout n) s = .next ((s.advanceTo d).releaseRing (n / 2) 3 true))) ∧
    (s.floeRuns n = true → (s.link n).st = .hello → (s.ring (n / 2)).st ≠ 1 → (s.ring (n / 2)).st ≠ 5 →
      (∃ u : State, Sys2Proof.Machine.exec (.linkSignalLost n) s = .next (u.linkMoved (n / 2)) ∧ (u.link n).st = .training ∧ u.mem = s.mem) ∧
      (∀ m, msgOk m 0x21 = true → fld m.body 1 1 = n / 2 * 2 + (1 - n % 2) → fld m.body 0 1 % 64 ≠ s.nodeId →
        Answers (Sys2Proof.Machine.exec (.hello n m) s) fun t => ∃ u : State, (u.link n).st = .up ∧ (u.link n).farNode = fld m.body 0 1 % 64 ∧
          (u.link n).farLink = fld m.body 1 1 % 64 ∧ (u.link n).txSeq = 0 ∧ (u.link n).rxSeq = 0 ∧
          (u.link n).credit = [24, 24, 28, 28, 12, 12] ∧ (u.link n).upSince = s.now ∧
          t = if u.bothUp (n / 2) then (u.pulse 43).startCensus (n / 2) else (u.pulse 43).linkMoved (n / 2)) ∧
      (∀ m, msgOk m 0x21 = true → (fld m.body 1 1 ≠ n / 2 * 2 + (1 - n % 2) ∨ fld m.body 0 1 % 64 = s.nodeId) → ∃ u v : State,
        Sys2Proof.Machine.exec (.hello n m) s = .next v ∧ (v.link n).st = .hello ∧
        v = (u.releaseRing (n / 2) 4 true).updLink n (fun l => { l with st := .hello }) ∧
        (u.link n).mismatches = satAdd (s.link n).mismatches 1 0xFF ∧ (u.link n).farNode = fld m.body 0 1 % 64))

/-- Census, joins and requests that time out. The census is sent again while unanswered, adopted by its origin and by the members it
lists once, and discarded at 64 hops; a join begins one at a time and ends at its time limit; a remote request is sent once more the
other way, is held while a ring is still coming, ends at once where its generation is stale, and else ends unreachable.
(14_links.md, Rings and their order; 14_links.md, Routing and remote requests; 14_links.md, Link states and the bypass) -/
def Obligations.RingEvents : Prop :=
  ∀ (s : State) (k : Nat), s.stagesRun = true →
    (∀ t, (s.ring k).censusSent = some t → (s.link (2 * k + 1)).st = .up → t + 1000000 ≤ (s.advanceTo (t + 1000000)).now ∧
      Sys2Proof.Machine.exec (.censusResendTimer k) s = .next ((s.advanceTo (t + 1000000)).startCensus k)) ∧
    (∀ t, (s.ring k).joinDeadline = some t → (s.ring k).st = 2 → t ≤ (s.advanceTo t).now ∧
      Sys2Proof.Machine.exec (.joinTimeout k) s = .next ((s.advanceTo t).releaseRing k 5 true)) ∧
    (∀ rest, s.floe.ctl = (k, true) :: rest → s.loess.oos = false → s.joinBusy = false →
      ∃ u : State, u = { s with floe := { s.floe with ctl := rest } } ∧
      (s.ringJoinable k = true → (s.ring k).st ≠ 3 → (s.ring k).st ≠ 4 →
        Sys2Proof.Machine.exec (.ringJoin k) s = .next (State.runReleases rest.length (u.beginJoin k)) ∧
        ((u.beginJoin k).ring k).st = 2 ∧ ((u.beginJoin k).ring k).joinDeadline = some (s.now + s.floe.joinMs * 1000000)) ∧
      (s.ringJoinable k = false → Sys2Proof.Machine.exec (.ringJoin k) s = .next (State.runReleases rest.length u))) ∧
    (∀ rest, s.floe.joins = k :: rest → s.floe.ctl.head? ≠ some (k, true) → s.loess.oos = false → s.joinBusy = false →
      s.ringJoinable k = true → (s.ring k).st ≠ 3 → (s.ring k).st ≠ 4 →
      Sys2Proof.Machine.exec (.ringJoin k) s = .next (({ s with floe := { s.floe with joins := rest } } : State).beginJoin k)) ∧
    (∀ (m : FloeMsg) link, link = 2 * k → s.linkUpNow link = true → msgOk m 0x22 = true → fld m.body 2 1 ≤ 64 →
      ∃ nodes, nodes = ((m.body.drop 4).take (fld m.body 2 1)).map BitVec.toNat ∧
      (bit (fld m.body 1 1) 0 = false → fld m.body 0 1 = s.nodeId → distinct nodes = true → Sys2Proof.Machine.exec (.census link m) s =
        .next ((s.toLink (2 * k + 1) 0 (censusMsg k s.nodeId true nodes)).adoptCensus k nodes)) ∧
      (bit (fld m.body 1 1) 0 = false → fld m.body 0 1 = s.nodeId → distinct nodes = false → Sys2Proof.Machine.exec (.census link m) s = .next s) ∧
      (bit (fld m.body 1 1) 0 = false → fld m.body 0 1 ≠ s.nodeId → fld m.body 2 1 < 64 → (s.link (2 * k + 1)).st = .up → m.hops < 63 →
        Sys2Proof.Machine.exec (.census link m) s =
        .next (s.toLink (2 * k + 1) (s.forwardVc link m.src) { censusMsg k (fld m.body 0 1) false (nodes ++ [s.nodeId]) with src := m.src, hops := m.hops + 1 })) ∧
      (bit (fld m.body 1 1) 0 = true → fld m.body 0 1 = s.nodeId → Sys2Proof.Machine.exec (.census link m) s = .next s) ∧
      (bit (fld m.body 1 1) 0 = true → fld m.body 0 1 ≠ s.nodeId → nodes.count s.nodeId = 1 → ((s.adoptCensus k nodes).link (2 * k + 1)).st = .up → m.hops < 63 →
        Sys2Proof.Machine.exec (.census link m) s = .next ((s.adoptCensus k nodes).toLink (2 * k + 1) ((s.adoptCensus k nodes).forwardVc link m.src)
          { censusMsg k (fld m.body 0 1) true nodes with src := m.src, hops := m.hops + 1 })) ∧
      (63 ≤ m.hops → bit (fld m.body 1 1) 0 = false → fld m.body 0 1 ≠ s.nodeId → Sys2Proof.Machine.exec (.census link m) s = .next s.floeDiscard)) ∧
    (∀ tag x t, tget? s.floe.remotes tag = some x → t = s.advanceTo x.deadline → x.deadline ≤ t.now ∧
      (x.hold = true → Sys2Proof.Machine.exec (.ringHoldExpiry tag) s = .next ((t.unreachable tag x.q).remoteMoved x.q)) ∧
      (x.hold = false → t.staleGen x.q = false → x.resent = true → Sys2Proof.Machine.exec (.e2eTimerExpiry tag) s = .next ((t.unreachable tag x.q).remoteMoved x.q)) ∧
      (x.hold = false → t.staleGen x.q = true → Sys2Proof.Machine.exec (.e2eTimerExpiry tag) s =
        .next ((({ t with floe := { t.floe with remotes := tdel t.floe.remotes tag } } : State).staleRemote x.q).remoteMoved x.q)) ∧
      (x.hold = false → t.staleGen x.q = false → x.resent = false → t.route x.q.node (some (!x.downstream)) = none →
        Sys2Proof.Machine.exec (.e2eTimerExpiry tag) s = .next (
          if (t.route x.q.node none).isNone && t.ringsComing then
            t.setRemote tag { x with hold := true, again := true, deadline := t.now + t.floe.holdMs * 1000000 }
          else (t.unreachable tag x.q).remoteMoved x.q)) ∧
      (∀ r, x.hold = false → t.staleGen x.q = false → x.resent = false → t.route x.q.node (some (!x.downstream)) = some r →
        Sys2Proof.Machine.exec (.e2eTimerExpiry tag) s = .next (({ t with floe := { t.floe with resent := satAdd t.floe.resent 1 0xFFFF } } : State).sendRemote tag
          { x with ring := r.1, downstream := r.2, resent := true, deadline := t.now + t.floe.e2eUs * 1000 })))

/-- The DOE mailbox, SPDM and measurements. An object is held for Tarn, answered at once where it is a discovery, and refused while one
is held; an abort empties the mailbox; an SPDM message and GET_MEASUREMENTS are answered as the connection allows. Codes and field
places are the standards' (log entry 21); signatures and random bytes are free values (log entry 3). (02_edges.md, Host port;
11_protection.md, Attestation; 11_protection.md, Tenant records over SPDM) -/
def Obligations.MailboxCommands : Prop :=
  ∀ (s : State) (fn : Nat), fn < 4096 →
    (s.configurable = true → s.loess.halted = false →
      (∀ d : Blob, 0 < d.length → d.length ≤ 65536 → (s.box fn).inObj = none →
        (isDiscovery d = false → Answers (Sys2Proof.Machine.exec (.doeObject fn d) s) fun t =>
          t.box fn = { s.box fn with inObj := some d, outObj := none } ∧ (t.ticSrc 33).pending = true) ∧
        (isDiscovery d = true → Answers (Sys2Proof.Machine.exec (.doeObject fn d) s) fun t =>
          t.box fn = { s.box fn with inObj := none, outObj := some (discoveryAnswer d), busy := false } ∧
          t.ports.host = s.ports.host ++ [.doe fn (discoveryAnswer d)])) ∧
      (∀ d : Blob, 0 < d.length → d.length ≤ 65536 → (s.box fn).inObj.isSome = true → Answers (Sys2Proof.Machine.exec (.doeObject fn d) s) fun t =>
        t.box fn = { s.box fn with busy := true } ∧ t.mem = s.mem) ∧
      (Answers (Sys2Proof.Machine.exec (.doeAbort fn) s) fun t =>
        t.box fn = { s.box fn with inObj := none, outObj := none, busy := false } ∧ (t.ticSrc 34).pending = true)) ∧
    (s.doeHeld fn = true →
      (∀ m, Sys2Proof.Machine.exec (.spdmMessage fn m) s = .next ((s.pulse 35).spdmAnswer fn m)) ∧
      (Answers (Sys2Proof.Machine.exec (.spdmMessage fn (.getVersion 0x10)) s) fun t => (t.box fn).conn = 1 ∧ (t.box fn).inObj = none) ∧
      (∀ code, Answers (Sys2Proof.Machine.exec (.spdmMessage fn (.other code)) s) fun t =>
        t.box fn = { s.box fn with inObj := none, outObj := some (spdmError 0x07 code), busy := false }) ∧
      (∀ i signed, (s.box fn).conn < 3 → Answers (Sys2Proof.Machine.exec (.getMeasurements fn i signed) s) fun t =>
        t.box fn = { s.box fn with inObj := none, outObj := some (spdmError 0x04 0), busy := false }) ∧
      (∀ i b l, 3 ≤ (s.box fn).conn → i ≠ 0 → i ≠ 0xFF → s.measurement fn i = some b → l = leBytes 1 1 ++ leBytes 3 b.length ++ b →
        Answers (Sys2Proof.Machine.exec (.getMeasurements fn i false) s) fun t =>
        t.box fn = { s.box fn with inObj := none, outObj := some (spdm 0x60 0 0 l), busy := false }) ∧
      (∀ i b, 3 ≤ (s.box fn).conn → i ≠ 0 → i ≠ 0xFF → s.measurement fn i = some b → Answers (Sys2Proof.Machine.exec (.getMeasurements fn i true) s) fun t =>
        t.free = s.free + 1 ∧ ∃ m, (t.box fn).outObj = some (m ++ padTo 96 (Config.sign m)) ∧
          m = spdm 0x60 0 0 (leBytes 1 1 ++ leBytes 3 b.length ++ b ++ leBytes 32 (s.draw % 2 ^ 256))))

/-- Tenant and migration records. KEY_PUT, KEY_INFO, KEY_CLEAR, MIG_PUT and MIG_CLEAR set, show or clear the record and answer result 0
where session, length, owner and binder allow it; otherwise they answer the result of the failed check and change no record. The
answer within a session is a protected record of that session. (11_protection.md, Tenant records over SPDM) -/
def Obligations.TenantRecords : Prop :=
  ∀ (s : State) (fn : Nat) (ses : Option Nat) (p : Blob), s.doeHeld fn = true →
    ∃ a : Nat → Blob → Mailbox, (a = fun r b => { s.box fn with inObj := none, outObj := some (match ses.bind fun n => s.session fn n with
        | some x => x.record (ses.getD 0) (vendorMessage r b) | none => vendorMessage r b), busy := false }) ∧
    (∀ who, s.vendorGate fn ses p 34 true = .ok who → s.keyGate fn (fld p 0 2) who = none → Answers (Sys2Proof.Machine.exec (.keyPut fn ses p) s) fun t =>
      t.key (fld p 0 2) = { s.key (fld p 0 2) with tenant := some { root := fld p 2 32, binder := who } } ∧
      t.box fn = a 0 (leBytes 1 (b2n (s.key (fld p 0 2)).tenant.isNone)) ∧ t.mem = s.mem) ∧
    (∀ who, s.vendorGate fn ses p 2 true = .ok who → s.keyGate fn (fld p 0 2) who = none → Answers (Sys2Proof.Machine.exec (.keyClear fn ses p) s) fun t =>
      t.key (fld p 0 2) = { s.key (fld p 0 2) with tenant := none } ∧ t.box fn = a 0 [] ∧ t.mem = s.mem) ∧
    (∀ who x, s.vendorGate fn ses p 2 false = .ok who → s.keyMine fn (fld p 0 2) = true → (s.key (fld p 0 2)).tenant = some x →
      Answers (Sys2Proof.Machine.exec (.keyInfo fn ses p) s) fun t => t.key (fld p 0 2) = s.key (fld p 0 2) ∧ t.box fn = a 0 (leBytes 1 1 ++ padTo 48 x.binder)) ∧
    (∀ who, s.vendorGate fn ses p 2 false = .ok who → s.keyMine fn (fld p 0 2) = true → (s.key (fld p 0 2)).tenant = none →
      Answers (Sys2Proof.Machine.exec (.keyInfo fn ses p) s) fun t => t.key (fld p 0 2) = s.key (fld p 0 2) ∧ t.box fn = a 0 (leBytes 1 0 ++ zeros 48)) ∧
    (∀ who, s.vendorGate fn ses p 32 true = .ok who → s.migBound fn who = false → Answers (Sys2Proof.Machine.exec (.migPut fn ses p) s) fun t =>
      t.kao.migs = tset s.kao.migs fn { key := leVal p, binder := who } ∧ t.box fn = a 0 []) ∧
    (∀ who, s.vendorGate fn ses p 0 true = .ok who → s.migBound fn who = false → Answers (Sys2Proof.Machine.exec (.migClear fn ses p) s) fun t =>
      t.kao.migs = tdel s.kao.migs fn ∧ t.box fn = a 0 []) ∧
    (∀ e, s.vendorGate fn ses p 34 true = .error e → Answers (Sys2Proof.Machine.exec (.keyPut fn ses p) s) fun t => t.kao.slots = s.kao.slots ∧ t.box fn = a e []) ∧
    (∀ e, s.vendorGate fn ses p 2 true = .error e → Answers (Sys2Proof.Machine.exec (.keyClear fn ses p) s) fun t => t.kao.slots = s.kao.slots ∧ t.box fn = a e []) ∧
    (∀ e, s.vendorGate fn ses p 2 false = .error e → Answers (Sys2Proof.Machine.exec (.keyInfo fn ses p) s) fun t => t.kao.slots = s.kao.slots ∧ t.box fn = a e []) ∧
    (∀ e, s.vendorGate fn ses p 32 true = .error e → Answers (Sys2Proof.Machine.exec (.migPut fn ses p) s) fun t => t.kao.migs = s.kao.migs ∧ t.box fn = a e []) ∧
    (∀ e, s.vendorGate fn ses p 0 true = .error e → Answers (Sys2Proof.Machine.exec (.migClear fn ses p) s) fun t => t.kao.migs = s.kao.migs ∧ t.box fn = a e []) ∧
    (∀ who e, s.vendorGate fn ses p 34 true = .ok who → s.keyGate fn (fld p 0 2) who = some e → Answers (Sys2Proof.Machine.exec (.keyPut fn ses p) s) fun t =>
      t.kao.slots = s.kao.slots ∧ t.box fn = a e []) ∧
    (∀ who e, s.vendorGate fn ses p 2 true = .ok who → s.keyGate fn (fld p 0 2) who = some e → Answers (Sys2Proof.Machine.exec (.keyClear fn ses p) s) fun t =>
      t.kao.slots = s.kao.slots ∧ t.box fn = a e [])

/-- Hold-up and waking. A fall of VX_HOLDUP_N cuts the block off and begins the flush, which ends in Freeze in hold-up with the receipts
and the header in the persist region; a rise of 10 ms ends the hold-up by a wake; a wake drives the supply selection up and holds
until the supply answers. (15_power_and_supply.md, Hold-up; 15_power_and_supply.md, Waking) -/
def Obligations.HoldupAndWake : Prop :=
  (∀ (s : State) (ns : Nat), 5 ≤ ns → s.pins.holdupN = true → s.held = none → s.loess.halted = false → s.ledg.flushing = false →
    (s.resident = false → s.pwr.st ≠ .waking → s.pwr.target = .active → Answers (Sys2Proof.Machine.exec (.holdupFall ns) s) fun t =>
      t.pins.holdupN = false ∧ t.pins.holdupSeen = true ∧ t.pwr.cut = true ∧ t.ledg.flushing = true ∧ t.ledg.flushStart = s.now ∧ t.mem = s.mem ∧ t.cmds = s.cmds) ∧
    (s.resident = true → s.pwr.holdup = false → Answers (Sys2Proof.Machine.exec (.holdupFall ns) s) fun t =>
      t.pins.holdupN = false ∧ t.pins.holdupSeen = true ∧ t.pwr.holdup = true ∧ t.pwr.holdups = satAdd s.pwr.holdups 1 0xFFFF ∧ t.ledg = s.ledg)) ∧
  (∀ (s : State) (ns : Nat), 5 ≤ ns → s.pins.holdupN = false → Sys2Proof.Machine.exec (.holdupRise ns) s =
    .next { s with pins := { s.pins with holdupN := true }, pwr := { s.pwr with holdupHigh := some s.now } }) ∧
  (∀ (s : State) (t0 : Nat), s.pwr.holdupHigh = some t0 → s.pwr.holdup = true → s.resident = true → s.pins.holdupN = true → s.held = none →
    Answers (Sys2Proof.Machine.exec .holdupEnd s) fun t => t0 + 10000000 ≤ t.now ∧ t.pwr.st = .waking ∧ t.pwr.holdup = false ∧ t.pwr.holdupHigh = none ∧
      t.pins.vddSel = 0 ∧ t.pins.retEn = false ∧ t.pins.pwrGood = false) ∧
  (∀ (s : State), s.ledg.flushing = true → s.awake = true → s.loess.halted = false → s.pwr.brownout = false →
    Answers (Sys2Proof.Machine.exec .ledgerFlushDone s) fun t => t.pwr.st = .freeze ∧ t.pwr.target = .active ∧ t.pwr.ret = s.pwr.st ∧ t.pwr.holdup = true ∧
      t.pwr.goodHold = false ∧ t.pins.vddSel = 1 ∧ t.pins.retEn = false ∧ (s.ledgerLost = true → t.mem = s.mem) ∧
      (s.ledgerLost = false → t.mem = (s.persistAll.markHeader true).mem)) ∧
  (∀ (s : State), s.resident = true → s.pwr.holdup = false →
    (∀ src, src ≠ .timer → Answers (Sys2Proof.Machine.exec (.wake src) s) fun t => t.pwr.st = .waking ∧ t.pwr.target = s.pwr.st ∧ t.pwr.wakeLatch = some src ∧
      t.pwr.wakeAt = 0 ∧ t.pins.vddSel = 0 ∧ t.pins.retEn = false ∧ t.pins.pwrGood = false ∧ t.now = s.now ∧ t.cmds = s.cmds) ∧
    (s.pwr.wakeAt ≠ 0 → Answers (Sys2Proof.Machine.exec (.wake .timer) s) fun t => s.pwr.wakeAt ≤ t.now ∧ t.pwr.st = .waking ∧ t.pwr.wakeLatch = some .timer ∧ t.pwr.wakeAt = 0))

/-- Supply pins, brownout, droop, brake and pacing. Each edge of a supply pin that lasts 5 ns, each brownout, droop, brake and pacing
event leaves the flags, counters and holds given. The power estimator's pace is a free value held in 1 to 16 (log entry 3).
(15_power_and_supply.md, Supply disturbances; 15_power_and_supply.md, Power limit and pacing; 02_edges.md, Supply, reset, timebase
and management signals) -/
def Obligations.SupplyPins : Prop :=
  (∀ (s : State) (ns : Nat), 5 ≤ ns → s.pins.pwrGood = false → s.held = none →
    (s.pwr.st = .waking → ∃ u : State, u = { s with pins := { s.pins with pwrGood := true } } ∧
      Sys2Proof.Machine.exec (.pwrGoodRise ns) s = .next u.endWake.deliverAll) ∧
    (s.pwr.st ≠ .waking → s.pwr.goodHold = true → s.pwr.brownout = false → ∃ u : State, u.pwr = { s.pwr with goodHold := false } ∧ u.pins.pwrGood = true ∧
      Sys2Proof.Machine.exec (.pwrGoodRise ns) s = .next u.deliverAll) ∧
    (s.pwr.st ≠ .waking → s.pwr.goodHold = false → Sys2Proof.Machine.exec (.pwrGoodRise ns) s = .next { s with pins := { s.pins with pwrGood := true } })) ∧
  (∀ (s : State) (ns : Nat), 5 ≤ ns → s.pins.pwrGood = true →
    ((s.awake = false ∨ s.loess.halted = true) →
      Sys2Proof.Machine.exec (.pwrGoodFall ns) s = .next { s with pins := { s.pins with pwrGood := false, byp := 0 } }) ∧
    (s.awake = true → s.loess.halted = false → s.pins.holdupN = true → s.pwr.brownout = false → s.pwr.goodHold = false →
      Answers (Sys2Proof.Machine.exec (.pwrGoodFall ns) s) fun t => t.pwr.goodHold = true ∧ t.mem = s.mem ∧ t.queues = s.queues)) ∧
  (∀ (s : State) (mv : Nat), s.awake = true → 580 ≤ mv → mv < 600 → s.pwr.brownout = false → s.pwr.goodHold = false →
    Answers (Sys2Proof.Machine.exec (.brownoutHoldEnter mv) s) fun t => t.pwr = { s.pwr with brownout := true, brownouts := satAdd s.pwr.brownouts 1 0xFFFF } ∧
      t.mem = s.mem ∧ t.cmds = s.cmds ∧ t.queues = s.queues ∧ t.fns = s.fns) ∧
  (∀ (s : State) (mv : Nat), s.pwr.brownout = true → 610 < mv → s.held = none → ∃ u : State, u.pwr.brownout = false ∧ s.now + 1000 ≤ u.now ∧
    (s.pwr.goodHold = true → Sys2Proof.Machine.exec (.brownoutHoldExit mv) s = .next u) ∧
    (s.pwr.goodHold = false → Sys2Proof.Machine.exec (.brownoutHoldExit mv) s = .next u.deliverAll)) ∧
  (∀ (s : State) (ns : Nat), 5 ≤ ns →
    (s.pins.droopN = true → s.held = none → Answers (Sys2Proof.Machine.exec (.droopFall ns) s) fun t =>
      t.pins.droopN = false ∧ t.pins.droopSeen = true ∧ t.pwr = { s.pwr with droopPace := true, droopHigh := none, droops := satAdd s.pwr.droops 1 0xFFFF } ∧
      (t.ticSrc 57).pending = true) ∧
    (s.pins.droopN = false → Sys2Proof.Machine.exec (.droopRise ns) s =
      .next { s with pins := { s.pins with droopN := true }, pwr := { s.pwr with droopHigh := some s.now } }) ∧
    (∀ low, s.pins.pwrbrakeN = low → s.held = none → Answers (Sys2Proof.Machine.exec (.pwrbrakeChange low ns) s) fun t =>
      t.pins.pwrbrakeN = !low ∧ t.pwr = { s.pwr with brake := low } ∧ (t.ticSrc 58).pending = true)) ∧
  (∀ (s : State) (t0 : Nat), s.pwr.droopHigh = some t0 → s.pins.droopN = true → s.pwr.droopPace = true →
    Answers (Sys2Proof.Machine.exec .droopPaceEnd s) fun t => t0 + 10000 ≤ t.now ∧ t.pwr.droopPace = false ∧ t.pwr.droopHigh = none) ∧
  (∀ (s : State) (mw : Nat), s.stagesRun = true → Answers (Sys2Proof.Machine.exec (.paceUpdate mw) s) fun t =>
    t.pwr.estimates = (mw :: s.pwr.estimates).take 100 ∧ 1 ≤ t.pwr.limitPace ∧ t.pwr.limitPace ≤ 16 ∧ s.now < t.now) ∧
  (∀ (s : State) (e : Nat), s.pwr.st = .chill → s.stagesRun = true → s.engineExists e = true → s.workPending e = false → s.pwr.relaxed.contains e = false →
    Answers (Sys2Proof.Machine.exec (.assistRelax e) s) fun t => t.pwr.relaxed = s.pwr.relaxed ++ [e] ∧ s.now + 1000 ≤ t.now)

/-- Resets of the block and the self-test. A cold reset or a voltage monitor empties the block, but for board memory outside Glaze (log
entry 185), and holds it; its release begins at timebase 0 in the self-test; a warm reset keeps the timebase and a halt; the self-
test ends in ready, in failure, or at its limit out of service. (02_edges.md, Supply, reset, timebase and management signals;
15_power_and_supply.md, Supply disturbances; 16_tarn.md, Start-up) -/
def Obligations.ResetPins : Prop :=
  (∀ (s : State) (ns : Nat), 5 ≤ ns → Answers (Sys2Proof.Machine.exec (.coldResetAssert ns) s) fun t =>
    t.held = some true ∧ t.pins.coldRstN = false ∧ t.mem = s.boardKept ∧ t.cmds = [] ∧ t.queues = [] ∧ t.fns = [] ∧ t.ctxs = [] ∧ t.loess = {} ∧ t.kao = {} ∧
      t.ledg = {} ∧ t.now = s.now) ∧
  (∀ (s : State) (ns : Nat), 5 ≤ ns → s.pins.coldRstN = false → s.pwr.monitorReset = none →
    (s.pins.rstN = true → s.held = some true → Answers (Sys2Proof.Machine.exec (.coldResetRelease ns) s) fun t =>
      t.held = none ∧ t.now = 0 ∧ t.tarn.released = 0 ∧ t.tarn.phase = 0 ∧ t.pins.coldRstN = true ∧ t.cmds = [] ∧ t.mem = s.boardKept) ∧
    (s.pins.rstN = false → s.held = some true → Answers (Sys2Proof.Machine.exec (.coldResetRelease ns) s) fun t =>
      t.held = some false ∧ t.now = 0 ∧ t.pins.coldRstN = true)) ∧
  (∀ (s : State) (ns : Nat), 5 ≤ ns → s.coldCause = false → s.held = none → Answers (Sys2Proof.Machine.exec (.warmResetAssert ns) s) fun t =>
    t.held = some false ∧ t.pins.rstN = false ∧ t.now = s.now ∧ t.mem = s.boardKept ∧ t.cmds = [] ∧ t.queues = [] ∧ t.fns = [] ∧
      t.loess.halted = s.loess.halted ∧ (s.loess.halted = false → t.loess = {})) ∧
  (∀ (s : State) (ns : Nat), 5 ≤ ns → s.coldCause = false → s.pins.rstN = false → s.held = some false → Answers (Sys2Proof.Machine.exec (.warmResetRelease ns) s) fun t =>
    t.held = none ∧ t.pins.rstN = true ∧ t.now = s.now ∧ t.tarn.released = s.now ∧ t.tarn.phase = 0 ∧ t.loess.halted = s.loess.halted) ∧
  (∀ (s : State) (rail : Rail) (mv l : Nat), s.resetLevel rail = some l → mv < l → s.pwr.monitorReset = none →
    Answers (Sys2Proof.Machine.exec (.voltageMonitorReset rail mv) s) fun t => t.held = some true ∧ t.pwr.monitorReset = some (rail, l) ∧ t.mem = s.boardKept ∧ t.cmds = []) ∧
  (∀ (s : State) (rail : Rail) (mv l : Nat), s.pwr.monitorReset = some (rail, l) → l + 20 < mv → s.pins.coldRstN = true → s.pins.rstN = true → s.held = some true →
    Answers (Sys2Proof.Machine.exec (.voltageMonitorRelease rail mv) s) fun t => t.held = none ∧ t.pwr.monitorReset = none ∧ t.now = 0 ∧ t.tarn.phase = 0) ∧
  (∀ (s : State), s.held = none → s.tarn.phase = 0 → s.loess.oos = false →
    (∃ u : State, u.tarn = { s.tarn with challenge := s.draw % 2 ^ 64, phase := 1 } ∧ u.free = s.free + 1 ∧
      Sys2Proof.Machine.exec (.selftestDone 0) s = .next u.tarnStart) ∧
    (∀ code, code ≠ 0 → code ≤ 6 → ∃ u : State, u.tarn = { s.tarn with phase := 6, selftest := code } ∧
      Sys2Proof.Machine.exec (.selftestDone code) s = .next (u.outOfService 6 0x0B00).tarnStart) ∧
    (s.tarn.released + 10000000 ≤ (s.advanceTo (s.tarn.released + 10000000)).now ∧
      Sys2Proof.Machine.exec .selftestLimitExpiry s = .next ((s.advanceTo (s.tarn.released + 10000000)).outOfService 6 0x0B00)))

/-- Interrupts and faults of Tarn's core. The source offered is taken, its pc and active bit saved; an EOI clears the active bit; mret
returns to the pc saved; an access outside the core's space stops the heartbeat. (16_tarn.md, The interrupt controller; 16_tarn.md,
The core and its address space) -/
def Obligations.CoreInterrupts : Prop :=
  ∀ (s : State), s.coreRuns = true →
    (∀ n, s.ticBest = some n → s.tarn.stack.length < 16 → Answers (Sys2Proof.Machine.exec .interruptEntry s) fun t =>
      t.tarn.stack = (n, s.tarn.pc) :: s.tarn.stack ∧ t.tarn.pc = 4 * (s.ticSrc n).vector ∧
      t.ticSrc n = { s.ticSrc n with active := true, pending := false, again := false } ∧ t.mem = s.mem ∧ t.loess = s.loess) ∧
    (s.ticBest = none → Sys2Proof.Machine.exec .interruptEntry s = .next s) ∧
    (∀ n, n < 256 → (s.ticSrc n).active = true → Answers (Sys2Proof.Machine.exec (.eoi n) s) fun t =>
      t.ticSrc n = { s.ticSrc n with active := false } ∧ t.tarn.stack = s.tarn.stack ∧ t.mem = s.mem) ∧
    (∀ n p rest, s.tarn.stack = (n, p) :: rest → (s.ticSrc n).again = false → Answers (Sys2Proof.Machine.exec .mret s) fun t =>
      t.tarn = { s.tarn with stack := rest, pc := p } ∧ t.mem = s.mem) ∧
    (∀ a k, coreFaults a k = true → Answers (Sys2Proof.Machine.exec (.accessFault a k) s) fun t => t.loess = { s.loess with hbStopped := true } ∧ t.tarn = s.tarn) ∧
    (∀ a k, coreFaults a k = false → Sys2Proof.Machine.exec (.accessFault a k) s = .next s)

/-- Characters of the monitor's line. A printable character joins the line and is echoed; backspace takes one off; Ctrl-C and a framing
error empty it; a line end runs it once. (16_tarn.md, The serial monitor) -/
def Obligations.MonitorLine : Prop :=
  ∀ (s : State), s.coreRuns = true →
    (∀ c : Byte, 32 ≤ c.toNat → c.toNat ≤ 126 → Answers (Sys2Proof.Machine.exec (.uartCharacter c) s) fun t =>
      t.tarn.line = s.tarn.line ++ [c.toNat] ∧ t.tarn.lastCr = false ∧ t.ports.uart = s.ports.uart ++ [c.toNat] ∧ t.mem = s.mem) ∧
    (∀ c : Byte, (c.toNat = 8 ∨ c.toNat = 127) → s.tarn.line ≠ [] → Answers (Sys2Proof.Machine.exec (.uartCharacter c) s) fun t =>
      t.tarn.line = s.tarn.line.dropLast ∧ t.ports.uart = s.ports.uart ++ [8, 32, 8]) ∧
    (Answers (Sys2Proof.Machine.exec (.uartCharacter 3) s) fun t => t.tarn.line = [] ∧ t.ports = s.ports) ∧
    (∀ u : State, u.tarn = { (s.pulse 64).tarn with line := [], lastCr := true } → u = { s with tarn := u.tarn } →
      Sys2Proof.Machine.exec (.uartCharacter 13) s = .next (u.monLine s.tarn.line)) ∧
    (s.tarn.lastCr = true → Answers (Sys2Proof.Machine.exec (.uartCharacter 10) s) fun t => t.tarn.line = s.tarn.line ∧ t.tarn.lastCr = false ∧ t.ports = s.ports) ∧
    (Answers (Sys2Proof.Machine.exec .uartFramingError s) fun t => t.tarn.line = [] ∧ t.ports = s.ports ∧ t.mem = s.mem)

/-- Commands of the monitor. A command runs while the core runs: HELP, VER and HB always, the others only unlocked; a locked or out-of-
range command answers its error and reads and writes no register. The layout of the lines is log entry 23. (16_tarn.md, The serial
monitor) -/
def Obligations.MonitorCommands : Prop :=
  ∀ (s : State), s.coreRuns = true →
    ∃ ok : List (List Nat) → State → State, (ok = fun l u => (u.sendUart ((l ++ [asc "ok"]).flatMap textLine ++ asc "> ")).pulse 65) ∧
    (s.tarn.unlocked = false → ∃ t : State, t = (s.sendUart ([asc "err locked"].flatMap textLine ++ asc "> ")).pulse 65 ∧ t.mem = s.mem ∧
      (∀ o v n, Sys2Proof.Machine.exec (.monSt) s = .next t ∧ Sys2Proof.Machine.exec (.monRd o n) s = .next t ∧
        Sys2Proof.Machine.exec (.monRq o n) s = .next t ∧ Sys2Proof.Machine.exec (.monWr o v) s = .next t ∧ Sys2Proof.Machine.exec (.monWq o v) s = .next t ∧
        Sys2Proof.Machine.exec (.monFn n) s = .next t ∧ Sys2Proof.Machine.exec (.monRec n) s = .next t ∧ Sys2Proof.Machine.exec .monRing s = .next t ∧
        Sys2Proof.Machine.exec .monPwr s = .next t ∧ Sys2Proof.Machine.exec .monSeal s = .next t ∧ Sys2Proof.Machine.exec (.monBaud n) s = .next t ∧
        Sys2Proof.Machine.exec .monLock s = .next t)) ∧
    Sys2Proof.Machine.exec .monHelp s = .next (ok [monNames s.tarn.unlocked] s) ∧
    Sys2Proof.Machine.exec .monVer s = .next s.monVersion ∧
    Sys2Proof.Machine.exec .monHb s = .next s.monHeartbeat ∧
    (s.tarn.unlocked = true →
      (∀ o n, 1 ≤ n → n ≤ 64 → o + 4 * n ≤ 0x4000000 → Sys2Proof.Machine.exec (.monRd o n) s = .next (ok (s.monRead o 4 n).1 (s.monRead o 4 n).2)) ∧
      (∀ o n, 1 ≤ n → n ≤ 64 → o + 8 * n ≤ 0x4000000 → Sys2Proof.Machine.exec (.monRq o n) s = .next (ok (s.monRead o 8 n).1 (s.monRead o 8 n).2)) ∧
      (∀ o v, o < 0x4000000 → v < 2 ^ 32 → Sys2Proof.Machine.exec (.monWr o v) s = .next (ok [] (s.busWrite .tarn (0x50000000 + o) 4 v))) ∧
      (∀ o v, o < 0x4000000 → v < 2 ^ 64 → Sys2Proof.Machine.exec (.monWq o v) s = .next (ok [] (s.busWrite .tarn (0x50000000 + o) 8 v))) ∧
      (∃ r, r = s.monLines [[(0x1400000, 8)], [(0x18, 4)], [(0x200, 4)], [(0x204, 4)], [(0x300, 8)]] ∧ Sys2Proof.Machine.exec .monSt s = .next (ok r.1 r.2)) ∧
      (∀ f, f < 4096 → ∃ r, r = s.monLines [[(shadowAt f, 4), (shadowAt f + 4, 4), (shadowAt f + 0x20, 4), (shadowAt f + 0x44, 4)]] ∧
        Sys2Proof.Machine.exec (.monFn f) s = .next (ok r.1 r.2)) ∧
      (∀ n, 1 ≤ n → n ≤ 16 → ∃ r, r = s.monLines ((s.newestRecords n).map fun k => wordsAt (0x10000 + 64 * k) 8) ∧
        Sys2Proof.Machine.exec (.monRec n) s = .next (ok r.1 r.2)) ∧
      Sys2Proof.Machine.exec .monRing s = .next (ok (s.monRings (List.range 18)).1 (s.monRings (List.range 18)).2) ∧
      (∃ r, r = s.monLines [[(0x300, 8)], [(0x308, 4)], [(0x320, 8)]] ∧ Sys2Proof.Machine.exec .monPwr s = .next (ok r.1 r.2)) ∧
      (∃ r, r = s.monLines ((List.range 8).map fun i => wordsAt (0x100 + 32 * i) 4) ∧ Sys2Proof.Machine.exec .monSeal s = .next (ok r.1 r.2)) ∧
      (∀ i r, baudRates[i]? = some r → Answers (Sys2Proof.Machine.exec (.monBaud r) s) fun t => t.tarn.baud = i ∧ t.ports = (ok [] s).ports ∧ t.mem = s.mem) ∧
      (Answers (Sys2Proof.Machine.exec .monLock s) fun t => t.tarn.unlocked = false ∧ t.ports = (ok [] s).ports ∧ t.mem = s.mem) ∧
      (∀ o, 0x4000000 ≤ o → ∃ t : State, t = (s.sendUart ([asc "err range"].flatMap textLine ++ asc "> ")).pulse 65 ∧
        ∀ n v, Sys2Proof.Machine.exec (.monRd o n) s = .next t ∧ Sys2Proof.Machine.exec (.monRq o n) s = .next t ∧
          Sys2Proof.Machine.exec (.monWr o v) s = .next t ∧ Sys2Proof.Machine.exec (.monWq o v) s = .next t))

/-- Configuration requests and boundary scan. A configuration request reads or writes the function's MSI-X control and power state, or
is answered with a retry during the self-test, after its failure and in hold-up; boundary scan drives the pins given. Other
registers read a free value (log entry 3). (02_edges.md, Host port; 02_edges.md, Boundary scan) -/
def Obligations.ConfigurationAndScan : Prop :=
  (∀ (s : State) (fn : Nat), fn < 4096 → s.configurable = true →
    (∀ e m, Sys2Proof.Machine.exec (.configurationRequest fn (.writeMsix e m)) s =
      .next ((s.updFn fn fun x => { x with msixEnable := e, msixMask := m }).releaseVectors fn)) ∧
    (Answers (Sys2Proof.Machine.exec (.configurationRequest fn .readMsix) s) fun t => t.ports.host = s.ports.host ++ [.cfgData (s.msixControl fn)] ∧ t.mem = s.mem) ∧
    (∀ d, Answers (Sys2Proof.Machine.exec (.configurationRequest fn (.writePm d)) s) fun t => t.fn fn = { s.fn fn with d3 := d } ∧ t.mem = s.mem) ∧
    (Answers (Sys2Proof.Machine.exec (.configurationRequest fn .readPm) s) fun t => t.ports.host = s.ports.host ++ [.cfgData (if (s.fn fn).d3 then 3 else 0)]) ∧
    (∀ o, Answers (Sys2Proof.Machine.exec (.configurationRequest fn (.readOther o)) s) fun t =>
      t.free = s.free + 1 ∧ ∃ v, t.ports.host = s.ports.host ++ [.cfgData v] ∧ v < 2 ^ 32)) ∧
  (∀ (s : State) (fn : Nat) (a : CfgAccess), fn < 4096 → s.held = none →
    ((s.tarn.phase = 0 ∨ s.tarn.phase = 6 ∨ s.pwr.holdup = true) →
      Answers (Sys2Proof.Machine.exec (.configurationRequest fn a) s) fun t => t.ports.host = s.ports.host ++ [.cfgRetry] ∧ t.fns = s.fns ∧ t.mem = s.mem)) ∧
  (∀ (s : State) (cells : Option (BitVec 18)), Sys2Proof.Machine.exec (.boundaryScanTestMode cells) s = .next { s with pins := { s.pins with scan := cells } })

/-- A step runs the command at the front of the queue. A step with a command at the front of the queue is that command's effect on the
state with the queue's rest. (95_what_each_step_holds.md) -/
def Obligations.StepRunsFront : Prop :=
  ∀ (s : State) (c : Instr), (∀ rest, s.pending = c :: rest → Sys2Proof.Machine.step s = Sys2Proof.Machine.exec c { s with pending := rest }) ∧
    Sys2Proof.Machine.step (s.offer c) = Sys2Proof.Machine.exec c s

/-- A step with no command waiting. With an empty queue one period of the 100 MHz reference clock passes: the timebase moves on by 10
ns, and no object, queue, port or pin changes but for the tile ports whose reset line has been low for 1 µs, which come out of
reset. That a tick stands there is the model's choice (log entry 1). (01_organisation_and_timing.md, The timebase) -/
def Obligations.IdleStep : Prop :=
  ∀ (s : State), s.pending = [] → Answers (Sys2Proof.Machine.step s) fun t => t.now = s.now + 10 ∧ t.pending = [] ∧ t.mem = s.mem ∧ t.cmds = s.cmds ∧
    t.queues = s.queues ∧ t.fns = s.fns ∧ t.ctxs = s.ctxs ∧ t.objects = s.objects ∧ t.loess = s.loess ∧
    t.ports = { s.ports with credits := s.ports.credits ++ (s.risingPorts (s.now + 10)).flatMap upGrants } ∧
    t.pins = { s.pins with tpRstN := (s.risingPorts (s.now + 10)).foldl (fun m p => m ||| (1#32 <<< p)) s.pins.tpRstN }

/-- Every command answers a next state. Every command, in every state, answers a next state whose queue is the queue it was given. That
an event whose condition does not hold has no effect is the model's choice (log entry 27). (95_what_each_step_holds.md) -/
def Obligations.EveryCommandCompletes : Prop :=
  ∀ (c : Instr) (s : State), Answers (Sys2Proof.Machine.exec c s) fun t => t.pending = s.pending

/-- The queue runs first in, first out, and never stops. After n steps, for every n up to the number of commands waiting, the block is
in a next state and exactly the first n commands have left the queue, in order. The queue is the model's (log entry 27).
(95_what_each_step_holds.md) -/
def Obligations.QueueRunsInOrder : Prop :=
  ∀ (n : Nat) (s : State), n ≤ s.pending.length → Answers (Sys2Proof.core.run n s) fun t => t.pending = s.pending.drop n

/-- Memory after reset stands in canonical form. The memory of the reset state satisfies the invariant of every step. The canonical form
is the model's (log entry 4). (01_organisation_and_timing.md, Power, area and memory) -/
def Obligations.ResetMemoryCanonical : Prop := Sys2Proof.Machine.State.reset.Inv

/-- Every step keeps memory in canonical form. For every state with memory in canonical form, any step that answers a next state answers
one with memory in canonical form. The canonical form is the model's (log entry 4). (01_organisation_and_timing.md, Power, area and
memory) -/
def Obligations.StepKeepsMemoryCanonical : Prop :=
  ∀ (s t : State), s.Inv → Sys2Proof.Machine.step s = .next t → t.Inv

/-- Commands that leave device memory alone. Each of the commands named by keepsMemory answers a next state in which every byte of
device memory reads as before. (06_translation.md, Device physical addresses; 95_what_each_step_holds.md) -/
def Obligations.MemoryFrame : Prop :=
  ∀ (c : Instr) (s : State), keepsMemory c = true → Answers (Sys2Proof.Machine.exec c s) fun t => ∀ a, memGet t.mem a = memGet s.mem a
end

