-- ==== Sys2Proof/Laws/Memory.lean ====
section
/-! SUPPORT. The memory: reading what was written, leaving the rest alone, and keeping the canonical form
(addresses strictly rising, no entry equal to what an unlisted address reads as). -/

namespace Sys2Proof.Machine

open Sys2Proof

/-- The canonical form as a property of the list. -/
theorem wf_iff (m : List Host.Cell) : Memory.wf m = true ↔ m.Pairwise (fun x y => x.1 < y.1) ∧ ∀ c ∈ m, c.2 ≠ memDefault := by
  induction m with
  | nil => simp [Memory.wf]
  | cons c m ih =>
    obtain ⟨k, v⟩ := c
    cases m with
    | nil => simp [Memory.wf]
    | cons d m =>
      obtain ⟨k', v'⟩ := d
      simp only [Memory.wf, Bool.and_eq_true, bne_iff_ne, decide_eq_true_eq, ih, List.pairwise_cons, List.mem_cons]
      constructor
      · rintro ⟨⟨hv, hk⟩, ⟨hp, hq⟩, hr⟩
        refine ⟨⟨?_, hp, hq⟩, ?_⟩
        · rintro x (rfl | hx)
          · exact hk
          · exact Nat.lt_trans hk (hp x hx)
        · rintro x (rfl | hx)
          · exact hv
          · exact hr x hx
      · rintro ⟨⟨h1, hp, hq⟩, hr⟩
        exact ⟨⟨hr (k, v) (Or.inl rfl), h1 (k', v') (Or.inl rfl)⟩, ⟨hp, hq⟩, fun x hx => hr x (Or.inr hx)⟩

/-- Removing entries keeps the form. -/
theorem filter_wf {m : List Host.Cell} (p : Host.Cell → Bool) (w : Memory.wf m = true) : Memory.wf (m.filter p) = true := by
  rw [wf_iff] at *
  exact ⟨w.1.filter _, fun c hc => w.2 c ((List.mem_filter.mp hc).1)⟩

/-- The addresses of a memory after a byte is written: the old ones and perhaps the new one. -/
theorem mem_memPut {m : List Host.Cell} {a : Nat} {b : Byte} {c : Host.Cell} (h : c ∈ memPut m a b) :
    c ∈ m ∨ c = (a, b) ∧ b ≠ memDefault := by
  induction m with
  | nil =>
    simp only [memPut] at h
    split at h <;> simp_all
  | cons d m ih =>
    obtain ⟨k, v⟩ := d
    simp only [memPut] at h
    repeat' split at h
    all_goals grind

/-- Writing a byte keeps the form. -/
theorem memPut_wf {m : List Host.Cell} (a : Nat) (b : Byte) (w : Memory.wf m = true) : Memory.wf (memPut m a b) = true := by
  rw [wf_iff] at *
  refine ⟨?_, ?_⟩
  · induction m with
    | nil => simp only [memPut]; split <;> simp
    | cons d m ih =>
      obtain ⟨k, v⟩ := d
      obtain ⟨hp, hd⟩ := w
      rw [List.pairwise_cons] at hp
      have w' : List.Pairwise (fun x y : Host.Cell => x.1 < y.1) m ∧ ∀ c ∈ m, c.2 ≠ memDefault :=
        ⟨hp.2, fun c hc => hd c (List.mem_cons_of_mem _ hc)⟩
      simp only [memPut]
      by_cases h1 : a < k
      · rw [if_pos h1]
        split
        · exact List.pairwise_cons.mpr hp
        · refine List.pairwise_cons.mpr ⟨?_, List.pairwise_cons.mpr hp⟩
          intro c hc
          rcases List.mem_cons.mp hc with rfl | hc
          · exact h1
          · exact Nat.lt_trans h1 (hp.1 c hc)
      · rw [if_neg h1]
        by_cases h2 : a = k
        · rw [if_pos h2]
          split
          · exact hp.2
          · exact List.pairwise_cons.mpr ⟨by subst h2; exact hp.1, hp.2⟩
        · rw [if_neg h2]
          refine List.pairwise_cons.mpr ⟨?_, ih w'⟩
          intro c hc
          rcases mem_memPut hc with hc | ⟨rfl, -⟩
          · exact hp.1 c hc
          · show k < a
            omega
  · intro c hc
    rcases mem_memPut hc with hc | ⟨rfl, hb⟩
    · exact w.2 c hc
    · exact hb

/-- An address below every entry reads as an unlisted one. -/
theorem memGet_below {m : List Host.Cell} {a : Nat} (h : ∀ c ∈ m, a < c.1) : memGet m a = memDefault := by
  cases m with
  | nil => rfl
  | cons d m =>
    have := h d (List.mem_cons_self ..)
    simp only [memGet]
    rw [if_neg (by omega), if_pos this]

/-- A byte written reads back. -/
theorem memGet_memPut_self {m : List Host.Cell} (a : Nat) (b : Byte) (w : Memory.wf m = true) : memGet (memPut m a b) a = b := by
  rw [wf_iff] at w
  induction m with
  | nil => simp only [memPut]; split <;> simp_all [memGet]
  | cons d m ih =>
    obtain ⟨k, v⟩ := d
    obtain ⟨hp, hd⟩ := w
    rw [List.pairwise_cons] at hp
    simp only [memPut]
    by_cases h1 : a < k
    · rw [if_pos h1]
      split
      · rename_i hb; simp only [memGet]; rw [if_neg (by omega), if_pos h1, hb]
      · simp [memGet]
    · rw [if_neg h1]
      by_cases h2 : a = k
      · subst h2
        rw [if_pos rfl]
        split
        · rename_i hb; rw [hb]; exact memGet_below hp.1
        · simp [memGet]
      · rw [if_neg h2]
        simp only [memGet]
        rw [if_neg (fun e => h2 e.symm), if_neg h1]
        exact ih ⟨hp.2, fun c hc => hd c (List.mem_cons_of_mem _ hc)⟩

/-- Writing a byte leaves every other byte alone. -/
theorem memGet_memPut_other {m : List Host.Cell} {a x : Nat} (b : Byte) (w : Memory.wf m = true) (hx : x ≠ a) :
    memGet (memPut m a b) x = memGet m x := by
  rw [wf_iff] at w
  induction m with
  | nil =>
    simp only [memPut]
    split
    · rfl
    · simp only [memGet]
      rw [if_neg (fun e => hx e.symm)]
      split <;> rfl
  | cons d m ih =>
    obtain ⟨k, v⟩ := d
    obtain ⟨hp, hd⟩ := w
    rw [List.pairwise_cons] at hp
    have w' : List.Pairwise (fun x y : Host.Cell => x.1 < y.1) m ∧ ∀ c ∈ m, c.2 ≠ memDefault :=
      ⟨hp.2, fun c hc => hd c (List.mem_cons_of_mem _ hc)⟩
    simp only [memPut]
    by_cases h1 : a < k
    · rw [if_pos h1]
      split
      · rfl
      · rw [memGet]
        rw [if_neg (fun e => hx e.symm)]
        split
        · rename_i h; simp only [memGet]; rw [if_neg (by omega), if_pos (by omega)]
        · rfl
    · rw [if_neg h1]
      by_cases h2 : a = k
      · subst h2
        rw [if_pos rfl]
        split
        · simp only [memGet]
          rw [if_neg (fun e => hx e.symm)]
          split
          · rename_i h; exact memGet_below fun c hc => Nat.lt_trans h (hp.1 c hc)
          · rfl
        · simp only [memGet]
          simp only [if_neg (fun e : a = x => hx e.symm)]
      · rw [if_neg h2]
        simp only [memGet]
        split
        · rfl
        · split
          · rfl
          · exact ih w'

/-- Writing a byte string keeps the form. -/
theorem memWrite_wf {m : List Host.Cell} (a : Nat) (l : Blob) (w : Memory.wf m = true) : Memory.wf (memWrite m a l) = true := by
  induction l generalizing m a with
  | nil => exact w
  | cons b t ih => exact ih _ (memPut_wf _ _ w)

/-- Writing a byte string leaves every byte outside it alone. -/
theorem memGet_memWrite_out {m : List Host.Cell} (a : Nat) (l : Blob) {x : Nat} (w : Memory.wf m = true)
    (hx : x < a ∨ a + l.length ≤ x) : memGet (memWrite m a l) x = memGet m x := by
  induction l generalizing m a with
  | nil => rfl
  | cons b t ih =>
    have hl : (b :: t).length = t.length + 1 := rfl
    rw [memWrite, ih _ (memPut_wf _ _ w) (by omega), memGet_memPut_other _ w (by omega)]

/-- A byte string written reads back. -/
theorem memRead_memWrite {m : List Host.Cell} (a : Nat) (l : Blob) (w : Memory.wf m = true) :
    memRead (memWrite m a l) a l.length = l := by
  induction l generalizing m a with
  | nil => rfl
  | cons b t ih =>
    have e : memGet (memWrite (memPut m a b) (a + 1) t) a = b := by
      rw [memGet_memWrite_out _ _ (memPut_wf _ _ w) (by omega), memGet_memPut_self _ _ w]
    simp only [memWrite, List.length_cons, memRead, e, ih _ (memPut_wf _ _ w)]

/-- Writing a byte string leaves a byte string outside it alone. -/
theorem memRead_memWrite_out {m : List Host.Cell} (a : Nat) (l : Blob) {x n : Nat} (w : Memory.wf m = true)
    (hx : x + n ≤ a ∨ a + l.length ≤ x) : memRead (memWrite m a l) x n = memRead m x n := by
  induction n generalizing x with
  | zero => rfl
  | succ n ih => simp only [memRead]; rw [memGet_memWrite_out _ _ w (by omega), ih (by omega)]

/-- A fold over memories each of whose steps keeps the form keeps it. -/
theorem foldMem_wf {β : Type} (f : List Host.Cell → β → List Host.Cell) (l : List β) (m : List Host.Cell)
    (h : ∀ x e, Memory.wf x = true → Memory.wf (f x e) = true) (w : Memory.wf m = true) : Memory.wf (l.foldl f m) = true := by
  induction l generalizing m with
  | nil => exact w
  | cons e t ih => exact ih _ (h _ _ w)

/-- Zeroing a range keeps the form. -/
theorem memClear_wf {m : List Host.Cell} (a n : Nat) (w : Memory.wf m = true) : Memory.wf (memClear m a n) = true := filter_wf _ w

/-- Copying a range keeps the form. -/
theorem memCopy_wf {m : List Host.Cell} (src dst n : Nat) (w : Memory.wf m = true) : Memory.wf (memCopy m src dst n) = true :=
  foldMem_wf _ _ _ (fun _ _ h => memPut_wf _ _ h) (memClear_wf _ _ w)

/-- Writing through an allocation's frames keeps the form. -/
theorem allocWrite_wf {m : List Host.Cell} (a : Alloc) (f off : Nat) (b : Blob) (w : Memory.wf m = true) :
    Memory.wf (allocWrite m a f off b) = true := by
  induction f generalizing m off b with
  | zero => exact w
  | succ f ih =>
    simp only [allocWrite]
    repeat' split
    all_goals first | exact w | exact ih _ _ (memWrite_wf _ _ w) | exact ih _ _ w

/-- Writing into an allocation keeps the form. -/
theorem Alloc.write_wf {m : List Host.Cell} (a : Alloc) (off : Nat) (b : Blob) (w : Memory.wf m = true) :
    Memory.wf (a.write m off b) = true := allocWrite_wf _ _ _ _ w

/-- The memory after reset is in canonical form. -/
theorem reset_wf : Memory.wf State.reset.mem = true := rfl

end Sys2Proof.Machine
end

