-- ==== Sys2Proof/Laws/Canonical.lean ====
section
/-! SUPPORT. The memory under every operation and every command: an operation that writes nothing leaves it alone, and every other
one keeps its canonical form. The lemma of a command also says that the command answers a next state. -/

namespace Sys2Proof.Machine

open Sys2Proof

/-- A fold each of whose steps leaves the memory alone leaves it alone. -/

@[simp] theorem foldl_mem {β : Type} (f : State → β → State) (l : List β) (s : State) (h : ∀ t x, (f t x).mem = t.mem) :
    (l.foldl f s).mem = s.mem := by induction l generalizing s with | nil => rfl | cons a l ih => simp [ih, h]

/-- A fold each of whose steps keeps the memory's form keeps it. -/

theorem foldl_wf {β : Type} (f : State → β → State) (l : List β) (s : State) (h : ∀ t x, Memory.wf t.mem = true → Memory.wf (f t x).mem = true) (okm : Memory.wf s.mem = true) : Memory.wf (l.foldl f s).mem = true := by
  induction l generalizing s with
  | nil => exact okm
  | cons a l ih => exact ih _ (h _ _ okm)

@[simp] theorem State.updFn_mem (s : State) (f : Nat) (g : Fn → Fn) : (State.updFn s f g).mem = s.mem := by
  rfl

@[simp] theorem State.modQ_mem (s : State) (q : Nat) (g : Queue → Queue) : (State.modQ s q g).mem = s.mem := by
  rfl

@[simp] theorem State.modCmd_mem (s : State) (r : Nat) (g : Cmd → Cmd) : (State.modCmd s r g).mem = s.mem := by
  rfl

@[simp] theorem State.modCtx_mem (s : State) (c : Nat) (g : Ctx → Ctx) : (State.modCtx s c g).mem = s.mem := by
  rfl

@[simp] theorem State.updUnit_mem (s : State) (u : Nat) (g : SUnit → SUnit) : (State.updUnit s u g).mem = s.mem := by
  rfl

@[simp] theorem State.updEng_mem (s : State) (e : Nat) (g : Eng → Eng) : (State.updEng s e g).mem = s.mem := by
  rfl

@[simp] theorem State.progress_mem (s : State) (e : Nat) : (State.progress s e).mem = s.mem := by
  rfl

@[simp] theorem State.updSrc_mem (s : State) (n : Nat) (g : TicSrc → TicSrc) : (State.updSrc s n g).mem = s.mem := by
  rfl

@[simp] theorem State.pulse_mem (s : State) (n : Nat) : (State.pulse s n).mem = s.mem := by
  simp only [State.pulse]; repeat' split
  all_goals simp

@[simp] theorem State.drawn_mem (s : State) : (State.drawn s).mem = s.mem := by
  rfl

@[simp] theorem State.elapse_mem (s : State) (dt : Nat) : (State.elapse s dt).mem = s.mem := by
  rfl

@[simp] theorem State.releasePorts_mem (s : State) (t : Nat) : (State.releasePorts s t).mem = s.mem := by
  simp only [State.releasePorts]; repeat' split
  all_goals simp

@[simp] theorem State.advanceTo_mem (s : State) (t : Nat) : (State.advanceTo s t).mem = s.mem := by
  unfold State.advanceTo; split <;> simp

@[simp] theorem State.pushHost_mem (s : State) (x : HostTx) : (State.pushHost s x).mem = s.mem := by
  rfl

@[simp] theorem State.pushHosts_mem (s : State) (l : List HostTx) : (State.pushHosts s l).mem = s.mem := by
  rfl

@[simp] theorem State.logPage_mem (s : State) (f page : Nat) : (State.logPage s f page).mem = s.mem := by
  simp only [State.logPage]; repeat' split
  all_goals simp

@[simp] theorem State.hostWrite_mem (s : State) (f addr : Nat) (data : Blob) : (State.hostWrite s f addr data).mem = s.mem := by
  unfold State.hostWrite; split <;> simp

@[simp] theorem State.hostRead_mem (s : State) (f addr len : Nat) : (State.hostRead s f addr len).mem = s.mem := by
  rfl

@[simp] theorem State.raiseVector_mem (s : State) (f v : Nat) : (State.raiseVector s f v).mem = s.mem := by
  simp only [State.raiseVector]; repeat' split
  all_goals simp

@[simp] theorem State.signalCq_mem (s : State) (q : Nat) : (State.signalCq s q).mem = s.mem := by
  unfold State.signalCq; split <;> simp

@[simp] theorem State.postEvent_mem (s : State) (f : Nat) (e : Event) (param : Nat) : (State.postEvent s f e param).mem = s.mem := by
  rfl

@[simp] theorem State.moraine_mem (s : State) (f n : Nat) : (State.moraine s f n).mem = s.mem := by
  rfl

@[simp] theorem State.releaseRefused_mem (s : State) (r : Nat) : (State.releaseRefused s r).mem = s.mem := by
  unfold State.releaseRefused; split <;> simp

@[simp] theorem State.endCmd_mem (s : State) (r : Nat) (st : Status) : (State.endCmd s r st).mem = s.mem := by
  simp [State.endCmd]

@[simp] theorem State.report_mem (s : State) (r : Nat) (st : Status) : (State.report s r st).mem = s.mem := by
  rfl

@[simp] theorem State.dropStreams_mem (s : State) (r : Nat) : (State.dropStreams s r).mem = s.mem := by
  rfl

@[simp] theorem State.crevMap_mem (s : State) (p : Crev → Bool) (f : Crev → Crev) : (State.crevMap s p f).mem = s.mem := by
  rfl

@[simp] theorem State.crevLeave_mem (s : State) (r : Nat) : (State.crevLeave s r).mem = s.mem := by
  rfl

@[simp] theorem State.failCmd_mem (s : State) (r : Nat) (st : Status) : (State.failCmd s r st).mem = s.mem := by
  unfold State.failCmd; split <;> simp

@[simp] theorem State.failAll_mem (s : State) (l : List Nat) (st : Status) : (State.failAll s l st).mem = s.mem := by
  simp [State.failAll]

@[simp] theorem State.sendTile_mem (s : State) (p : DownPkt) : (State.sendTile s p).mem = s.mem := by
  rfl

@[simp] theorem State.sendFloe_mem (s : State) (link : Nat) (m : FloeMsg) : (State.sendFloe s link m).mem = s.mem := by
  rfl

@[simp] theorem State.sendUart_mem (s : State) (l : List Nat) : (State.sendUart s l).mem = s.mem := by
  rfl

@[simp] theorem State.beginWake_mem (s : State) : (State.beginWake s).mem = s.mem := by
  rfl

@[simp] theorem State.startWake_mem (s : State) (src : WakeSrc) : (State.startWake s src).mem = s.mem := by
  unfold State.startWake; split <;> simp

@[simp] theorem State.delay_mem (s : State) (c : Instr) : (State.delay s c).mem = s.mem := by
  rfl

@[simp] theorem State.countUnmapped_mem (s : State) (n : Nat) : (State.countUnmapped s n).mem = s.mem := by
  rfl

@[simp] theorem State.updHalves_mem (s : State) (f : Nat) (g : Halves → Halves) : (State.updHalves s f g).mem = s.mem := by
  rfl

@[simp] theorem State.dropHeld_mem (s : State) (f : Nat) : (State.dropHeld s f).mem = s.mem := by
  unfold State.dropHeld; split <;> simp

@[simp] theorem State.config_mem (s : State) (c : Instr) (f : State → State) (hf : ∀ t , (f t ).mem = t.mem) : (State.config s c f).mem = s.mem := by
  simp only [State.config]; repeat' split
  all_goals simp [hf]

@[simp] theorem State.config_wf (s : State) (c : Instr) (f : State → State) (hf : ∀ t , Memory.wf t.mem = true → Memory.wf (f t ).mem = true) (okm : Memory.wf s.mem = true) : Memory.wf (State.config s c f).mem = true := by
  simp only [State.config]; repeat' split
  all_goals simp [okm, hf]

@[simp] theorem State.abortRead_mem (s : State) (f : Nat) : (State.abortRead s f).mem = s.mem := by
  rfl

@[simp] theorem State.access_mem (s : State) (c : Instr) (read : Bool) (f : State → State) (hf : ∀ t , (f t ).mem = t.mem) : (State.access s c read f).mem = s.mem := by
  simp only [State.access]; repeat' split
  all_goals simp [hf]

@[simp] theorem State.access_wf (s : State) (c : Instr) (read : Bool) (f : State → State) (hf : ∀ t , Memory.wf t.mem = true → Memory.wf (f t ).mem = true) (okm : Memory.wf s.mem = true) : Memory.wf (State.access s c read f).mem = true := by
  simp only [State.access]; repeat' split
  all_goals simp [okm, hf]

@[simp] theorem State.setFkt_mem (s : State) (tier frame : Nat) (e : Fkt) : (State.setFkt s tier frame e).mem = s.mem := by
  unfold State.setFkt; split <;> simp

@[simp] theorem State.clearFkt_mem (s : State) (tier frame : Nat) : (State.clearFkt s tier frame).mem = s.mem := by
  unfold State.clearFkt; split <;> simp

@[simp] theorem State.updKey_mem (s : State) (k : Nat) (f : KeySlot → KeySlot) : (State.updKey s k f).mem = s.mem := by
  rfl

@[simp] theorem State.fillKey_mem (s : State) (k : Nat) (owner : Option Nat) : (State.fillKey s k owner).mem = s.mem := by
  rfl

@[simp] theorem State.dropKey_mem (s : State) (k : Nat) : (State.dropKey s k).mem = s.mem := by
  rfl

@[simp] theorem State.modSlot_mem (s : State) (k : Nat) (f : VSlot → VSlot) : (State.modSlot s k f).mem = s.mem := by
  rfl

theorem State.newBlock_mem {s s' : State} {t : Nat} (h : s.newBlock t = some s') : s'.mem = s.mem := by
  simp only [State.newBlock] at h
  by_cases hn : s.varve.blocksIn t % 29 ≠ 0
  · rw [if_pos hn] at h; cases h; rfl
  · rw [if_neg hn] at h; obtain ⟨f, _, rfl⟩ := Option.map_eq_some_iff.mp h; simp

@[simp] theorem State.useSlot_mem (s : State) (k tier frame key : Nat) : (State.useSlot s k tier frame key).mem = s.mem := by
  rfl

theorem State.protect_mem {s s' : State} {tier frame key : Nat} (h : s.protect tier frame key = some s') : s'.mem = s.mem := by
  simp only [State.protect] at h
  split at h
  · cases h; simp
  · split at h
    · cases h
    · obtain ⟨t, ht, rfl⟩ := Option.map_eq_some_iff.mp h; simp [State.newBlock_mem ht]

theorem State.protectAll_wf {tier key : Nat} {l : List Nat} {s s' : State} (h : State.protectAll tier key l s = some s') (w : Memory.wf s.mem = true) : Memory.wf s'.mem = true := by
  induction l generalizing s with
  | nil => cases h; exact w
  | cons f t ih =>
    simp only [State.protectAll] at h
    split at h
    · cases h
    · rename_i s2 h2
      refine ih h ?_
      dsimp only
      exact memClear_wf _ _ (by rw [State.protect_mem h2]; exact w)

theorem State.takeFrames_wf {s s' : State} {tier : Nat} {e : Fkt} {l : List Nat} (h : s.takeFrames tier e l = some s') (w : Memory.wf s.mem = true) : Memory.wf s'.mem = true := by
  simp only [State.takeFrames] at h
  split at h
  · exact State.protectAll_wf h (by simp [w])
  · cases h; simp [w]

@[simp] theorem State.forgetFrame_wf (s : State) (tier frame : Nat) (okm : Memory.wf s.mem = true) : Memory.wf (State.forgetFrame s tier frame).mem = true := memClear_wf _ _ okm

@[simp] theorem State.releaseFrame_wf (s : State) (tier frame : Nat) (okm : Memory.wf s.mem = true) : Memory.wf (State.releaseFrame s tier frame).mem = true := by
  simp only [State.releaseFrame]; repeat' split
  all_goals simp [okm]

@[simp] theorem State.setPage_mem (s : State) (k p : Nat) (c : PageCtr) : (State.setPage s k p c).mem = s.mem := by
  simp only [State.setPage]; repeat' split
  all_goals simp

@[simp] theorem State.leaveWalk_mem (s : State) (key k p : Nat) : (State.leaveWalk s key k p).mem = s.mem := by
  rfl

@[simp] theorem State.chunkFetch_mem (s : State) (tier off : Nat) : (State.chunkFetch s tier off).mem = s.mem := by
  unfold State.chunkFetch; split <;> simp

@[simp] theorem State.chunkStore_mem (s : State) (tier off : Nat) : (State.chunkStore s tier off).mem = s.mem := by
  unfold State.chunkStore; split <;> simp

@[simp] theorem State.recrypt_mem (s : State) (k p : Nat) (c : PageCtr) : (State.recrypt s k p c).mem = s.mem := by
  simp only [State.recrypt]; repeat' split
  all_goals simp

@[simp] theorem State.endWalk_mem (s : State) (key : Nat) : (State.endWalk s key).mem = s.mem := by
  simp only [State.endWalk]; repeat' split
  all_goals try simp
  all_goals (apply foldl_mem; intro t x; try dsimp only)
  all_goals repeat' split
  all_goals first | (simp; done) | (apply foldl_mem; intro t x; (try dsimp only); (repeat' split) <;> simp)

@[simp] theorem State.startRekey_mem (s : State) (key : Nat) : (State.startRekey s key).mem = s.mem := by
  rfl

@[simp] theorem State.rekeyPage_mem (s : State) (key k p : Nat) (c : PageCtr) : (State.rekeyPage s key k p c).mem = s.mem := by
  simp only [State.rekeyPage]; repeat' split
  all_goals simp

@[simp] theorem State.reencrypt_mem (s : State) (k p : Nat) (v : VSlot) : (State.reencrypt s k p v).mem = s.mem := by
  simp only [State.reencrypt]; repeat' split
  all_goals simp

@[simp] theorem State.bumpMinor_mem (s : State) (k p g : Nat) : (State.bumpMinor s k p g).mem = s.mem := by
  unfold State.bumpMinor; split <;> simp

@[simp] theorem State.glazeWrite_mem (s : State) (tier off len : Nat) : (State.glazeWrite s tier off len).mem = s.mem := by
  simp only [State.glazeWrite]; repeat' split
  all_goals simp

@[simp] theorem State.writeNode_mem (s : State) (level pos : Nat) : (State.writeNode s level pos).mem = s.mem := by
  unfold State.writeNode; split <;> simp

@[simp] theorem State.halt_mem (s : State) (r : Seal) : (State.halt s r).mem = s.mem := by
  unfold State.halt; split <;> simp

@[simp] theorem State.append_mem (s : State) (f : Nat) (r : Receipt) : (State.append s f r).mem = s.mem := by
  simp only [State.append]; repeat' split
  all_goals simp

@[simp] theorem State.persistPut_wf (s : State) (o : Nat) (b : Blob) (okm : Memory.wf s.mem = true) : Memory.wf (State.persistPut s o b).mem = true := memWrite_wf _ _ okm

@[simp] theorem State.putHeader_wf (s : State) (clean : Bool) (okm : Memory.wf s.mem = true) : Memory.wf (State.putHeader s clean).mem = true := State.persistPut_wf _ _ _ okm

@[simp] theorem State.persistOne_wf (s : State) (x : Receipt) (okm : Memory.wf s.mem = true) : Memory.wf (State.persistOne s x).mem = true := by
  unfold State.persistOne
  dsimp only
  apply State.putHeader_wf
  dsimp only
  simp [okm]

@[simp] theorem State.restartDue_mem (s : State) (f : Nat) : (State.restartDue s f).mem = s.mem := by
  unfold State.restartDue; split <;> simp

@[simp] theorem State.persistAll_wf (s : State) (okm : Memory.wf s.mem = true) : Memory.wf (State.persistAll s).mem = true := by
  unfold State.persistAll; repeat' first | (simp_all; done) | (intro _) | split | (apply foldl_wf) | dsimp only

@[simp] theorem State.regionWrite_wf (s : State) (off : Nat) (b : Blob) (w : Memory.wf s.mem = true) : Memory.wf (s.regionWrite off b).mem = true := by
  refine foldl_wf _ _ _ ?_ w
  intro t g h
  exact memWrite_wf _ _ (by simp [h])

@[simp] theorem State.regionPut_wf (s : State) (off : Nat) (b : Blob) (okm : Memory.wf s.mem = true) : Memory.wf (State.regionPut s off b).mem = true := by
  unfold State.regionPut; repeat' first | (simp_all; done) | (intro _) | split | (apply foldl_wf) | dsimp only

@[simp] theorem State.placeTables_mem (s : State) (x : Nat) (ls : List Leaf) : (State.placeTables s x ls).mem = s.mem := by
  rfl

@[simp] theorem State.putTables_wf (s : State) (x : Nat) (ls : List Leaf) (okm : Memory.wf s.mem = true) : Memory.wf (State.putTables s x ls).mem = true := by
  unfold State.putTables; repeat' first | (simp_all; done) | (intro _) | split | (apply foldl_wf) | dsimp only

@[simp] theorem State.crevWrite_mem (s : State) (r : Crev) : (State.crevWrite s r).mem = s.mem := by
  rfl

@[simp] theorem State.crevPost_mem (s : State) (r0 : Crev) : (State.crevPost s r0).mem = s.mem := by
  simp only [State.crevPost]; repeat' split
  all_goals simp

@[simp] theorem State.crevPostWaiting_mem (s : State) : (State.crevPostWaiting s).mem = s.mem := by
  unfold State.crevPostWaiting; split <;> simp

@[simp] theorem State.tileFault_mem (s : State) (r : Nat) (c : Cmd) (ls : List Leaf) (engines access missingVa : Nat) (ranges : List (Nat × Nat)) (early : Bool) : (State.tileFault s r c ls engines access missingVa ranges early).mem = s.mem := by
  simp only [State.tileFault]; repeat' split
  all_goals simp

@[simp] theorem State.rightsFault_mem (s : State) (c : Cmd) (engines access : Nat) (va : Nat) (ranges lack : List (Nat × Nat)) : (State.rightsFault s c engines access va ranges lack).mem = s.mem := by
  simp [State.rightsFault]

@[simp] theorem State.crevResolve_mem (s : State) (c lo hi : Nat) : (State.crevResolve s c lo hi).mem = s.mem := by
  unfold State.crevResolve; split <;> simp

@[simp] theorem State.crevWithdrawCtx_mem (s : State) (c : Nat) : (State.crevWithdrawCtx s c).mem = s.mem := by
  rfl

@[simp] theorem State.invalidate_mem (s : State) (c lo hi : Nat) (cmd : Option Nat) (change : Option Change) : (State.invalidate s c lo hi cmd change).mem = s.mem := by
  rfl

@[simp] theorem State.fktDeny_mem (s : State) (q : MemReq) : (State.fktDeny s q).mem = s.mem := by
  simp only [State.fktDeny]; repeat' split
  all_goals simp

@[simp] theorem State.hotCount_mem (s : State) (tier offset : Nat) (epoch : Option Nat) : (State.hotCount s tier offset epoch).mem = s.mem := by
  simp only [State.hotCount]; repeat' split
  all_goals simp

@[simp] theorem State.refuseBad_mem (s : State) (q : MemReq) : (State.refuseBad s q).mem = s.mem := by
  unfold State.refuseBad; split <;> simp

@[simp] theorem State.chunkWrite_mem (s : State) (q : MemReq) (data : Blob) : (State.chunkWrite s q data).mem = s.mem := by
  simp only [State.chunkWrite]; repeat' split
  all_goals simp

@[simp] theorem State.putGranule_wf (s : State) (q : MemReq) (data : Blob) (w : Memory.wf s.mem = true) : Memory.wf (s.putGranule q data).mem = true := by
  simp only [State.putGranule]
  repeat' split
  all_goals try simp [w]
  all_goals exact memWrite_wf _ _ (by simp [w])

@[simp] theorem State.portWrite_wf (s : State) (q : MemReq) (data : Blob) (okm : Memory.wf s.mem = true) : Memory.wf (State.portWrite s q data).mem = true := by
  unfold State.portWrite; repeat' first | (simp_all; done) | (intro _) | split | (apply foldl_wf) | dsimp only

@[simp] theorem State.chunkRead_mem (s : State) (q : MemReq) : (State.chunkRead s q).mem = s.mem := by
  simp only [State.chunkRead]; repeat' split
  all_goals simp

@[simp] theorem State.getGranule_mem (s : State) (q : MemReq) : (s.getGranule q).2.mem = s.mem := by
  simp only [State.getGranule]; repeat' split
  all_goals simp

/-- A fold over a pair of bytes and state. -/

theorem foldPair_mem {β : Type} (f : Blob × State → β → Blob × State) (l : List β) (x : Blob × State) (h : ∀ y a, (f y a).2.mem = y.2.mem) :
    (l.foldl f x).2.mem = x.2.mem := by induction l generalizing x with | nil => rfl | cons a l ih => simp [ih, h]

@[simp] theorem State.portRead_mem (s : State) (q : MemReq) (n : Nat) : (s.portRead q n).2.mem = s.mem := by
  simp only [State.portRead]; rw [foldPair_mem]; intro y a; (try dsimp only); split <;> simp

@[simp] theorem State.readVa_mem (s : State) (r : Nat) (c : Cmd) (ls : List Leaf) (va len : Nat) : (s.readVa r c ls va len).2.mem = s.mem := by
  simp only [State.readVa]; rw [foldPair_mem]; intro y a; (try dsimp only); repeat' split
  all_goals simp

@[simp] theorem putFrames_wf (a : Alloc) (q : MemReq) (f off : Nat) (b : Blob) (s : State) (w : Memory.wf s.mem = true) : Memory.wf (putFrames a q f off b s).mem = true := by
  induction f generalizing off b s with
  | zero => exact w
  | succ f ih =>
    simp only [putFrames]
    split
    · exact w
    · exact ih _ _ _ (by simp [w])

@[simp] theorem getFrames_mem (a : Alloc) (q : MemReq) (f off n : Nat) (s : State) : (getFrames a q f off n s).2.mem = s.mem := by
  induction f generalizing off n s with
  | zero => rfl
  | succ f ih => simp only [getFrames]; split <;> simp [ih]

@[simp] theorem State.allocPut_wf (s : State) (a : Alloc) (q : MemReq) (off : Nat) (b : Blob) (w : Memory.wf s.mem = true) : Memory.wf (s.allocPut a q off b).mem = true :=
  putFrames_wf _ _ _ _ _ _ w

@[simp] theorem State.allocGet_mem (s : State) (a : Alloc) (q : MemReq) (off n : Nat) : (s.allocGet a q off n).2.mem = s.mem := by
  simp [State.allocGet]

@[simp] theorem State.pageWritten_wf (s : State) (p : Page) (mem : List Host.Cell) (okm : Memory.wf mem = true) : Memory.wf (State.pageWritten s p mem).mem = true := by
  unfold State.pageWritten
  rw [foldl_mem _ _ _ (by intro t o; simp)]
  exact okm

@[simp] theorem State.zeroPage_wf (s : State) (p : Page) (okm : Memory.wf s.mem = true) : Memory.wf (State.zeroPage s p).mem = true := State.pageWritten_wf _ _ _ (memClear_wf _ _ okm)

@[simp] theorem State.copyPage_wf (s : State) (m : Move) (okm : Memory.wf s.mem = true) : Memory.wf (State.copyPage s m).mem = true := by
  unfold State.copyPage
  refine State.pageWritten_wf _ _ _ (memCopy_wf _ _ _ ?_)
  rw [foldl_mem _ _ _ (by intro t o; split <;> simp)]
  exact okm

@[simp] theorem State.doMoves_wf (s : State) (mv : List Move) (fresh : List Page) (okm : Memory.wf s.mem = true) : Memory.wf (State.doMoves s mv fresh).mem = true := by
  unfold State.doMoves; repeat' first | (simp_all; done) | (intro _) | split | (apply foldl_wf) | dsimp only

@[simp] theorem State.syncSeq_wf (s : State) (i : Nat) (q : Sequence) (okm : Memory.wf s.mem = true) : Memory.wf (State.syncSeq s i q).mem = true := by
  unfold State.syncSeq; repeat' first | (simp_all; done) | (intro _) | split | (apply foldl_wf) | dsimp only

@[simp] theorem State.syncSeqs_wf (s : State) (okm : Memory.wf s.mem = true) : Memory.wf (State.syncSeqs s).mem = true := by
  unfold State.syncSeqs; repeat' first | (simp_all; done) | (intro _) | split | (apply foldl_wf) | dsimp only

theorem State.reserve_wf {s s' : State} {r seq n : Nat} {own : Option Nat} (h : s.reserve r seq n own = some s') (w : Memory.wf s.mem = true) : Memory.wf s'.mem = true := by
  simp only [State.reserve] at h
  split at h
  · cases h
  · cases h; exact State.doMoves_wf _ _ _ w

@[simp] theorem State.fitBlocks_mem (s : State) (i : Nat) : (State.fitBlocks s i).mem = s.mem := by
  unfold State.fitBlocks; split <;> simp

@[simp] theorem State.unreserve_mem (s : State) (r : Nat) : (State.unreserve s r).mem = s.mem := by
  unfold State.unreserve; split <;> simp

@[simp] theorem State.freeSeqPages_mem (s : State) (i keep : Nat) : (State.freeSeqPages s i keep).mem = s.mem := by
  unfold State.freeSeqPages; split <;> simp

@[simp] theorem State.releaseSeq_wf (s : State) (i : Nat) (okm : Memory.wf s.mem = true) : Memory.wf (State.releaseSeq s i).mem = true := by
  simp [State.releaseSeq, okm]

@[simp] theorem State.passBoundary_mem (s : State) : (State.passBoundary s).mem = s.mem := by
  unfold State.passBoundary; split <;> simp

@[simp] theorem State.takeTokens_mem (s : State) (c : Cmd) (take : Bool) : (State.takeTokens s c take).mem = s.mem := by
  rfl

@[simp] theorem State.loosen_wf (s : State) (i : Nat) (okm : Memory.wf s.mem = true) : Memory.wf (State.loosen s i).mem = true := by
  unfold State.loosen
  split
  · exact okm
  · dsimp only
    refine foldl_wf _ _ _ (fun t e h => ?_) okm
    split
    · exact memWrite_wf _ _ h
    · exact h

@[simp] theorem State.snowEnd_wf (s : State) (r : Nat) (ok : Bool) (okm : Memory.wf s.mem = true) : Memory.wf (State.snowEnd s r ok).mem = true := by
  unfold State.snowEnd
  split
  · exact okm
  · split
    · exact okm
    · dsimp only
      apply State.syncSeqs_wf
      repeat' split
      all_goals first
        | (simp [okm]; done)
        | (simp only [State.modCtx_mem, State.passBoundary_mem]; exact foldl_wf _ _ _ (fun t e h => State.loosen_wf _ _ h) (by simp [okm]))

@[simp] theorem State.commitTokens_wf (s : State) (r : Nat) (c : Cmd) (okm : Memory.wf s.mem = true) : Memory.wf (State.commitTokens s r c).mem = true := by
  unfold State.commitTokens; split <;> simp [okm]

/-- A fold over passes each of whose steps keeps the memory's form keeps it. -/

theorem foldPass_wf {β : Type} (f : Pass → β → Pass) (l : List β) (p : Pass) (h : ∀ q a, Memory.wf q.s.mem = true → Memory.wf (f q a).s.mem = true) (w : Memory.wf p.s.mem = true) :
    Memory.wf (l.foldl f p).s.mem = true := by
  induction l generalizing p with
  | nil => exact w
  | cons a l ih => exact ih _ (h _ _ w)

@[simp] theorem Pass.grow_wf (p : Pass) (e : Nat × Cmd) (w : Memory.wf p.s.mem = true) : Memory.wf (p.grow e).s.mem = true := by
  simp only [Pass.grow]; repeat' split
  · exact w
  · simp [w]
  · refine foldPass_wf _ _ _ ?_ w
    intro q i hq; (try dsimp only); split
    · exact hq
    · split
      · rename_i h; exact State.reserve_wf h hq
      · exact hq

@[simp] theorem State.startStep_mem (s : State) (r : Nat) (c : Cmd) : (State.startStep s r c).mem = s.mem := by
  rfl

@[simp] theorem State.createSeq_wf (s : State) (r : Nat) (c : Cmd) (okm : Memory.wf s.mem = true) : Memory.wf (State.createSeq s r c).mem = true := by
  simp only [State.createSeq]; repeat' split
  all_goals simp [okm]

theorem Pass.join_wf (p : Pass) (e : Nat × Cmd) (w : Memory.wf p.s.mem = true) : Memory.wf (p.join e).s.mem = true := by
  have h1 : ∀ (l : List Nat) (p : Pass), Memory.wf p.s.mem = true → Memory.wf (l.foldl (fun (q : Pass) i =>
      if q.cut.isSome then q
      else match q.s.reserve e.1 i (q.s.lacks e.1 e.2 i) none with
        | some s1 => { q with s := s1 }
        | none => { q with cut := some e.1 }) p).s.mem = true := by
    intro l p w
    refine foldPass_wf _ _ _ ?_ w
    intro q i hq
    split
    · exact hq
    · split
      · rename_i h; exact State.reserve_wf h hq
      · exact hq
  unfold Pass.join
  dsimp only
  repeat' split
  all_goals first | exact w | exact h1 _ _ w | (simp [w]; done) | exact State.startStep_wf _ _ _ (h1 _ _ w)

@[simp] theorem joinPhase_wf (l : List (Nat × Cmd)) (p : Pass) (w : Memory.wf p.s.mem = true) : Memory.wf (joinPhase l p).s.mem = true := by
  induction l generalizing p with
  | nil => exact w
  | cons e t ih =>
    simp only [joinPhase]
    repeat' split
    all_goals first | exact w | exact Pass.join_wf _ _ w | exact ih _ (Pass.join_wf _ _ w)

@[simp] theorem Pass.over_wf (p : Pass) (l : List (Nat × Cmd)) (w : Memory.wf p.s.mem = true) : Memory.wf (p.over l).s.mem = true :=
  joinPhase_wf _ _ (foldPass_wf _ _ _ (fun q a h => Pass.grow_wf q a h) w)

@[simp] theorem State.applyLeaves_wf (s : State) (okm : Memory.wf s.mem = true) : Memory.wf (State.applyLeaves s).mem = true := by
  have told : ∀ (l : List Nat) (now : Nat) (u : State), Memory.wf u.mem = true →
      Memory.wf (l.foldl (fun v k => (v.modCmd k fun x => { x with start := some now }).report k .success) u).mem = true :=
    fun l now u h => foldl_wf _ _ _ (fun v k hv => by simp [hv]) h
  unfold State.applyLeaves
  refine foldl_wf _ _ _ (fun t e ht => ?_) okm
  dsimp only
  split
  · exact ht
  · split
    · exact told _ _ _ (by simp [ht])
    · split
      · exact ht
      · refine told _ _ _ ?_
        split
        · simp [ht]
        · exact ht

@[simp] theorem State.passOver_wf (s : State) (l : List (Nat × Cmd)) (cut : Option Nat) (w : Memory.wf s.mem = true) : Memory.wf (s.passOver l cut).s.mem = true := by
  have h : ∀ m : List (Nat × Cmd), Memory.wf (({ s := s } : Pass).over m).s.mem = true := fun m => Pass.over_wf _ _ w
  unfold State.passOver
  dsimp only
  split
  · exact h _
  · split
    · exact h _
    · exact Pass.over_wf _ _ (h _)

/-- Taking back the reservations of the steps after a cut keeps the memory's form. -/

theorem cut_wf (l : List (Nat × Cmd)) (s : State) (w : Memory.wf s.mem = true) : Memory.wf (l.foldl (fun t e => t.unreserve e.1) s).mem = true :=
  foldl_wf _ _ _ (fun t e h => by simp [h]) w

@[simp] theorem State.pass_wf (s : State) (w : Memory.wf s.mem = true) : Memory.wf s.pass.mem = true := by
  unfold State.pass
  apply State.syncSeqs_wf
  dsimp only
  split
  · exact State.passOver_wf _ _ _ (by simp [w])
  · exact cut_wf _ _ (State.passOver_wf _ _ _ (by simp [w]))

@[simp] theorem writeAdapter_wf (a : Alloc) (q : MemReq) (l : List Placed) (b : Blob) (s : State) (w : Memory.wf s.mem = true) : Memory.wf (writeAdapter a q l b s).mem = true := by
  induction l generalizing b s with
  | nil => exact w
  | cons p t ih => exact ih _ _ (State.allocPut_wf _ _ _ _ _ w)

@[simp] theorem State.zeroTraining_wf (s : State) (a : Alloc) (q : MemReq) (lay : List Placed × Nat × Nat) (n : Nat) (g : Bool) (w : Memory.wf s.mem = true) :
    Memory.wf (s.zeroTraining a q lay n g).mem = true :=
  State.allocPut_wf _ _ _ _ _ (foldl_wf _ _ _ (fun t p h => State.allocPut_wf _ _ _ _ _ h) w)

@[simp] theorem State.zeroGradients_wf (s : State) (r : Nat) (c : Cmd) (w : Memory.wf s.mem = true) : Memory.wf (s.zeroGradients r c).mem = true := by
  refine foldl_wf _ _ _ ?_ w
  intro x e h
  repeat' split
  all_goals first | exact h | exact State.zeroTraining_wf _ _ _ _ _ _ h

@[simp] theorem State.updSilt_mem (s : State) (n : Nat) (g : SiltEng → SiltEng) : (State.updSilt s n g).mem = s.mem := by
  rfl

@[simp] theorem State.readSlice_mem (s : State) (e r : Nat) (c : Cmd) (x : Slice) : (s.readSlice e r c x).mem = s.mem := by
  unfold State.readSlice
  repeat' split
  all_goals first | rfl | exact foldl_mem _ _ _ (by simp)

@[simp] theorem State.fetchSlice_mem (s : State) (e r : Nat) (c : Cmd) (x : Slice) : (State.fetchSlice s e r c x).mem = s.mem := by
  simp only [State.fetchSlice]; repeat' split
  all_goals simp

@[simp] theorem State.needSlice_mem (s : State) (e r : Nat) (c : Cmd) (x : Slice) : (State.needSlice s e r c x).mem = s.mem := by
  simp only [State.needSlice]; repeat' split
  all_goals simp

@[simp] theorem State.segmentSlices_mem (s : State) (e r : Nat) (c : Cmd) (xs : List Slice) : (State.segmentSlices s e r c xs).mem = s.mem := by
  simp [State.segmentSlices]

@[simp] theorem State.assign_mem (s : State) (t : Tap) (c : Cmd) : (State.assign s t c).mem = s.mem := by
  simp only [State.assign]; repeat' split
  all_goals simp

@[simp] theorem State.queueTap_mem (s : State) (t : Tap) (c : Cmd) : (State.queueTap s t c).mem = s.mem := by
  simp [State.queueTap]

@[simp] theorem State.refetch_mem (s : State) (t : Tap) (c : Cmd) : (State.refetch s t c).mem = s.mem := by
  simp [State.refetch]

@[simp] theorem State.computeParts_mem (s : State) (n : Nat) (xs : List Slice) : (State.computeParts s n xs).mem = s.mem := by
  rfl

@[simp] theorem State.cacheSlice_mem (s : State) (n : Nat) (x : Slice) : (State.cacheSlice s n x).mem = s.mem := by
  rfl

@[simp] theorem State.keepInters_wf (s : State) (t : Tap) (c : Cmd) (okm : Memory.wf s.mem = true) : Memory.wf (State.keepInters s t c).mem = true := by
  unfold State.keepInters; repeat' first | (simp_all; done) | (intro _) | split | (apply foldl_wf) | dsimp only

@[simp] theorem State.siltClear_mem (s : State) (n : Nat) : (State.siltClear s n).mem = s.mem := by
  simp only [State.siltClear]; repeat' split
  all_goals try simp
  all_goals (apply foldl_mem; intro t x; try dsimp only)
  all_goals repeat' split
  all_goals first | (simp; done) | (apply foldl_mem; intro t x; (try dsimp only); (repeat' split) <;> simp)

@[simp] theorem State.answerNull_mem (s : State) (t : Tap) : (State.answerNull s t).mem = s.mem := by
  unfold State.answerNull; split <;> simp

@[simp] theorem State.addArray_wf (s : State) (a : Alloc) (q : MemReq) (off first : Nat) (vals : List Nat) (okm : Memory.wf s.mem = true) : Memory.wf (State.addArray s a q off first vals).mem = true := by
  unfold State.addArray; split <;> simp [okm]

@[simp] theorem State.saveRows_wf (s : State) (t : Tap) (c : Cmd) (rows : List Nat) (id k : Nat) (v : Variant) (a : Alloc) (okm : Memory.wf s.mem = true) : Memory.wf (State.saveRows s t c rows id k v a).mem = true := by
  unfold State.saveRows; repeat' first | (simp_all; done) | (intro _) | split | (apply foldl_wf) | dsimp only

@[simp] theorem State.savedRows_mem (s : State) (t : Tap) (c : Cmd) (rows : List Nat) (id k : Nat) (v : Variant) (a : Alloc) :
    (s.savedRows t c rows id k v a).2.mem = s.mem := by
  have go : ∀ (l : List Nat) (y : List (List Fp) × State), (l.foldl (fun y i =>
      let x := y.2.allocGet a { a.req y.2.nodeId t.cmd c with epoch := some t.epoch } (v.savePlace c id k (t.first + i) + actBytes t.fmt t.ansFirst)
        (actBytes t.fmt t.ansCount)
      (y.1 ++ [readActs t.fmt t.ansCount x.1], x.2)) y).2.mem = y.2.mem := by
    intro l
    induction l with
    | nil => intro y; rfl
    | cons i l ih => intro y; simp [ih]
  exact go _ _

@[simp] theorem State.accumulateFor_wf (s : State) (t : Tap) (c : Cmd) (x : Arith) (id : Nat) (w : Memory.wf s.mem = true) : Memory.wf (s.accumulateFor t c x id).mem = true := by
  have hs : ∀ (rows : List Nat) (k : Nat) (v : Variant) (a : Alloc), Memory.wf (s.savedRows t c rows id k v a).2.mem = true := by
    intro rows k v a; rw [State.savedRows_mem]; exact w
  unfold State.accumulateFor
  repeat' split
  all_goals first
    | exact w
    | (dsimp only
       first
       | (apply State.saveRows_wf; refine foldl_wf _ _ _ ?_ (by first | exact w | exact hs _ _ _ _))
       | refine foldl_wf _ _ _ ?_ (by first | exact w | exact hs _ _ _ _)
       intro u z h
       split <;> simp [h])

@[simp] theorem State.accumulateTap_wf (s : State) (t : Tap) (c : Cmd) (okm : Memory.wf s.mem = true) : Memory.wf (State.accumulateTap s t c).mem = true := by
  unfold State.accumulateTap; repeat' first | (simp_all; done) | (intro _) | split | (apply foldl_wf) | dsimp only

@[simp] theorem State.updateComp_wf (s : State) (q : MemReq) (v : Variant) (a : Alloc) (o : Opt) (stoch : Bool) (t base k : Nat) (cmp : Comp) (w : Memory.wf s.mem = true) :
    Memory.wf (s.updateComp q v a o stoch t base k cmp).mem = true := by
  unfold State.updateComp
  split
  · exact State.allocPut_wf _ _ _ _ _ (State.allocPut_wf _ _ _ _ _ (State.allocPut_wf _ _ _ _ _ (State.allocPut_wf _ _ _ _ _ (by simp [w]))))
  · exact w

@[simp] theorem State.gradBad_mem (s : State) (q : MemReq) (v : Variant) (a : Alloc) : (s.gradBad q v a).2.mem = s.mem := by
  have h : ∀ (l : List Placed) (x : Bool × State), (l.foldl (fun (x : Bool × State) p =>
      let b := x.2.allocGet a q p.off (roundUp 512 (4 * p.elems))
      (x.1 || (List.range p.elems).any fun i => f32Bad (fld b.1 (4 * i) 4), b.2)) x).2.mem = x.2.mem := by
    intro l
    induction l with
    | nil => intro x; rfl
    | cons p l ih => intro x; rw [List.foldl_cons, ih]; simp
  exact h _ _

@[simp] theorem State.updateVariant_wf (s : State) (r : Nat) (c : Cmd) (o : Opt) (stoch : Bool) (id : Nat) (w : Memory.wf s.mem = true) :
    Memory.wf (s.updateVariant r c o stoch id).mem = true := by
  unfold State.updateVariant
  split
  · exact w
  · split
    · exact w
    · dsimp only
      split
      · exact State.zeroTraining_wf _ _ _ _ _ _ (by simp [w])
      · split
        · exact w
        · refine foldl_wf _ _ _ ?_ w
          intro x e h
          exact foldl_wf _ _ _ (fun _ _ h => State.updateComp_wf _ _ _ _ _ _ _ _ _ _ h) h

@[simp] theorem State.tear_mem (s : State) (c : Cmd) : (State.tear s c).mem = s.mem := by
  rfl

@[simp] theorem State.withdrawFns_mem (s : State) (r : Nat) : (State.withdrawFns s r).mem = s.mem := by
  rfl

@[simp] theorem State.withdrawUnits_mem (s : State) (r : Nat) : (State.withdrawUnits s r).mem = s.mem := by
  rfl

@[simp] theorem State.freeIdx_mem (s : State) (l : List Nat) : (State.freeIdx s l).mem = s.mem := by
  rfl

@[simp] theorem State.modImage_mem (s : State) (i : Nat) (g : Image → Image) : (State.modImage s i g).mem = s.mem := by
  rfl

@[simp] theorem State.absentImage_mem (s : State) (i : Nat) : (State.absentImage s i).mem = s.mem := by
  simp only [State.absentImage]; repeat' split
  all_goals simp

@[simp] theorem State.dropLoadVersion_mem (s : State) (l : Load) : (State.dropLoadVersion s l).mem = s.mem := by
  simp only [State.dropLoadVersion]; repeat' split
  all_goals simp

@[simp] theorem State.undrain_mem (s : State) (i : Nat) : (State.undrain s i).mem = s.mem := by
  unfold State.undrain; split <;> simp

@[simp] theorem State.withdrawLoad_mem (s : State) (r : Nat) : (State.withdrawLoad s r).mem = s.mem := by
  simp only [State.withdrawLoad]; repeat' split
  all_goals simp

@[simp] theorem State.withdraw_mem (s : State) (r : Nat) : (State.withdraw s r).mem = s.mem := by
  simp [State.withdraw]

@[simp] theorem State.pruneGraphs_mem (s : State) : (State.pruneGraphs s).mem = s.mem := by
  rfl

@[simp] theorem State.pruneImages_mem (s : State) : (State.pruneImages s).mem = s.mem := by
  simp only [State.pruneImages]; repeat' split
  all_goals simp

@[simp] theorem State.prune_mem (s : State) : (State.prune s).mem = s.mem := by
  simp [State.prune]

@[simp] theorem State.releaseSaves_mem (s : State) (r c : Nat) (ok : Bool) : (State.releaseSaves s r c ok).mem = s.mem := by
  simp only [State.releaseSaves]; repeat' split
  all_goals simp

@[simp] theorem State.finish_wf (s : State) (r : Nat) (st : Status) (okm : Memory.wf s.mem = true) : Memory.wf (State.finish s r st).mem = true := by
  simp only [State.finish]; repeat' split
  all_goals simp [okm]

@[simp] theorem State.discard_wf (s : State) (r : Nat) (okm : Memory.wf s.mem = true) : Memory.wf (State.discard s r).mem = true := by
  unfold State.discard; split <;> simp [okm]

@[simp] theorem State.drainIfIdle_wf (s : State) (r : Nat) (okm : Memory.wf s.mem = true) : Memory.wf (State.drainIfIdle s r).mem = true := by
  simp only [State.drainIfIdle]; repeat' split
  all_goals simp [okm]

@[simp] theorem State.fail_wf (s : State) (r : Nat) (st : Status) (okm : Memory.wf s.mem = true) : Memory.wf (State.fail s r st).mem = true := by
  simp [State.fail, okm]

@[simp] theorem State.failList_wf (s : State) (l : List Nat) (st : Status) (okm : Memory.wf s.mem = true) : Memory.wf (State.failList s l st).mem = true := by
  unfold State.failList; repeat' first | (simp_all; done) | (intro _) | split | (apply foldl_wf) | dsimp only

@[simp] theorem State.kill_wf (s : State) (r : Nat) (st : Status) (okm : Memory.wf s.mem = true) : Memory.wf (State.kill s r st).mem = true := by
  simp only [State.kill]; repeat' split
  all_goals simp [okm]

@[simp] theorem State.updLink_mem (s : State) (n : Nat) (g : Link → Link) : (State.updLink s n g).mem = s.mem := by
  rfl

@[simp] theorem State.updRing_mem (s : State) (k : Nat) (g : Ring → Ring) : (State.updRing s k g).mem = s.mem := by
  rfl

@[simp] theorem State.drivePhys_mem (s : State) (k : Nat) (release : Bool) : (State.drivePhys s k release).mem = s.mem := by
  rfl

@[simp] theorem State.driveBypass_mem (s : State) (k : Nat) (high : Bool) : (State.driveBypass s k high).mem = s.mem := by
  rfl

@[simp] theorem State.linkDown_mem (s : State) (n reason : Nat) : (State.linkDown s n reason).mem = s.mem := by
  simp [State.linkDown]

@[simp] theorem State.cutPassing_mem (s : State) (n : Nat) : (State.cutPassing s n).mem = s.mem := by
  rfl

@[simp] theorem State.dropLink_mem (s : State) (n reason : Nat) (joining : Bool) : (State.dropLink s n reason joining).mem = s.mem := by
  simp only [State.dropLink]; repeat' split
  all_goals simp

@[simp] theorem State.releaseRing_mem (s : State) (k reason : Nat) (failed : Bool) : (State.releaseRing s k reason failed).mem = s.mem := by
  simp [State.releaseRing]

@[simp] theorem State.beginJoin_mem (s : State) (k : Nat) : (State.beginJoin s k).mem = s.mem := by
  rfl

@[simp] theorem State.runReleases_mem (f : Nat) (s : State) : (State.runReleases f s).mem = s.mem := by
  induction f generalizing s with
  | zero => rfl
  | succ f ih => simp only [State.runReleases]; split <;> simp [ih]

@[simp] theorem State.ringCtl_mem (s : State) (k : Nat) (join : Bool) : (State.ringCtl s k join).mem = s.mem := by
  simp [State.ringCtl]

@[simp] theorem State.wantJoin_mem (s : State) (k : Nat) : (State.wantJoin s k).mem = s.mem := by
  unfold State.wantJoin; split <;> simp

@[simp] theorem State.sendFrame_mem (s : State) (n typ stream seq first : Nat) (payload : Blob) : (State.sendFrame s n typ stream seq first payload).mem = s.mem := by
  rfl

@[simp] theorem State.creditPassed_mem (s : State) (before : List TxItem) (after : List TxItem) : (State.creditPassed s before after).mem = s.mem := by
  simp only [State.creditPassed]; repeat' split
  all_goals try simp
  all_goals (apply foldl_mem; intro t x; try dsimp only)
  all_goals repeat' split
  all_goals first | (simp; done) | (apply foldl_mem; intro t x; (try dsimp only); (repeat' split) <;> simp)

@[simp] theorem State.sendData_mem (s : State) (n stream : Nat) : (State.sendData s n stream).mem = s.mem := by
  simp [State.sendData]

@[simp] theorem State.pumpFrames_mem (n f : Nat) (s : State) : (State.pumpFrames n f s).mem = s.mem := by
  induction f generalizing s with
  | zero => rfl
  | succ f ih => simp only [State.pumpFrames]; split <;> simp [ih]

@[simp] theorem State.pump_mem (s : State) (n : Nat) : (State.pump s n).mem = s.mem := by
  unfold State.pump; split <;> simp

@[simp] theorem State.toLink_mem (s : State) (n vc : Nat) (m : FloeMsg) : (State.toLink s n vc m).mem = s.mem := by
  simp [State.toLink]

@[simp] theorem State.startCensus_mem (s : State) (k : Nat) : (State.startCensus s k).mem = s.mem := by
  simp [State.startCensus]

@[simp] theorem State.linkMoved_mem (s : State) (k : Nat) : (State.linkMoved s k).mem = s.mem := by
  simp only [State.linkMoved]; repeat' split
  all_goals simp

@[simp] theorem State.loseLink_mem (s : State) (n reason : Nat) : (State.loseLink s n reason).mem = s.mem := by
  unfold State.loseLink; split <;> simp

@[simp] theorem State.trainLink_mem (s : State) (n : Nat) : (State.trainLink s n).mem = s.mem := by
  unfold State.trainLink; split <;> simp

@[simp] theorem State.retrain_mem (s : State) (n reason : Nat) (counted : Bool) : (State.retrain s n reason counted).mem = s.mem := by
  simp only [State.retrain]; repeat' split
  all_goals simp

@[simp] theorem State.resend_mem (s : State) (n : Nat) : (State.resend s n).mem = s.mem := by
  simp only [State.resend]; repeat' split
  all_goals simp

@[simp] theorem State.sendOn_mem (s : State) (r : Nat × Bool) (m : FloeMsg) : (State.sendOn s r m).mem = s.mem := by
  simp [State.sendOn]

@[simp] theorem State.floeDiscard_mem (s : State) : (State.floeDiscard s).mem = s.mem := by
  rfl

@[simp] theorem State.forward_mem (s : State) (link : Nat) (m : FloeMsg) : (State.forward s link m).mem = s.mem := by
  simp only [State.forward]; repeat' split
  all_goals simp

@[simp] theorem State.floeProtocol_mem (s : State) (n : Nat) : (State.floeProtocol s n).mem = s.mem := by
  rfl

@[simp] theorem State.answerMsg_mem (s : State) (m : FloeMsg) (typ status : Nat) (body : Blob) : (State.answerMsg s m typ status body).mem = s.mem := by
  unfold State.answerMsg; split <;> simp

@[simp] theorem State.endWork_wf (s : State) (q : MemReq) (st : Status) (okm : Memory.wf s.mem = true) : Memory.wf (State.endWork s q st).mem = true := by
  simp only [State.endWork]; repeat' split
  all_goals simp [okm]

@[simp] theorem State.unreachable_wf (s : State) (tag : Nat) (q : MemReq) (okm : Memory.wf s.mem = true) : Memory.wf (State.unreachable s tag q).mem = true := by
  simp [State.unreachable, okm]

@[simp] theorem State.setRemote_mem (s : State) (tag : Nat) (x : Remote) : (State.setRemote s tag x).mem = s.mem := by
  rfl

@[simp] theorem State.sendRemote_mem (s : State) (tag : Nat) (x : Remote) : (State.sendRemote s tag x).mem = s.mem := by
  simp [State.sendRemote]

@[simp] theorem State.staleRemote_mem (s : State) (q : MemReq) : (State.staleRemote s q).mem = s.mem := by
  unfold State.staleRemote; split <;> simp

@[simp] theorem State.remoteIssue_wf (s : State) (q : MemReq) (okm : Memory.wf s.mem = true) : Memory.wf (State.remoteIssue s q).mem = true := by
  simp only [State.remoteIssue]; repeat' split
  all_goals simp [okm]

@[simp] theorem State.releaseHeld_mem (s : State) : (State.releaseHeld s).mem = s.mem := by
  simp only [State.releaseHeld]; repeat' split
  all_goals try simp
  all_goals (apply foldl_mem; intro t x; try dsimp only)
  all_goals repeat' split
  all_goals first | (simp; done) | (apply foldl_mem; intro t x; (try dsimp only); (repeat' split) <;> simp)

@[simp] theorem State.adoptCensus_mem (s : State) (k : Nat) (nodes : List Nat) : (State.adoptCensus s k nodes).mem = s.mem := by
  simp [State.adoptCensus]

@[simp] theorem State.linkUp_mem (s : State) (n farNode farLink : Nat) : (State.linkUp s n farNode farLink).mem = s.mem := by
  simp only [State.linkUp]; repeat' split
  all_goals simp

@[simp] theorem State.countFor_mem (s : State) (u x : Nat) (f : Cmd → Cmd) : (State.countFor s u x f).mem = s.mem := by
  rfl

@[simp] theorem State.sendPreempt_mem (s : State) (u x mode : Nat) : (State.sendPreempt s u x mode).mem = s.mem := by
  unfold State.sendPreempt; split <;> simp

@[simp] theorem State.stopStreams_mem (s : State) (u x : Nat) : (State.stopStreams s u x).mem = s.mem := by
  rfl

@[simp] theorem State.startStream_mem (s : State) (u r : Nat) (c : Cmd) (pass layer : Nat) (again : Bool) : (State.startStream s u r c pass layer again).mem = s.mem := by
  simp only [State.startStream]; repeat' split
  all_goals simp

@[simp] theorem State.marginLog_mem (s : State) (m : MarginEnt) : (State.marginLog s m).mem = s.mem := by
  simp only [State.marginLog]; repeat' split
  all_goals simp

@[simp] theorem State.layerDone_mem (s : State) (u : Nat) (w : Stream) (layer : Nat) : (State.layerDone s u w layer).mem = s.mem := by
  unfold State.layerDone; split <;> simp

@[simp] theorem State.sendItem_mem (s : State) (u k : Nat) (w : Stream) : (State.sendItem s u k w).mem = s.mem := by
  simp only [State.sendItem]; repeat' split
  all_goals simp

@[simp] theorem State.sendAhead_mem (u n : Nat) (s : State) : (State.sendAhead u n s).mem = s.mem := by
  induction n generalizing s with
  | zero => rfl
  | succ n ih => simp only [State.sendAhead]; (repeat' split) <;> simp [ih]

@[simp] theorem State.modSave_mem (s : State) (x u : Nat) (f : SaveArea → SaveArea) : (State.modSave s x u f).mem = s.mem := by
  rfl

@[simp] theorem State.nowHolds_mem (s : State) (u x : Nat) : (State.nowHolds s u x).mem = s.mem := by
  rfl

@[simp] theorem State.resume_mem (s : State) (u x mode pass layer : Nat) : (State.resume s u x mode pass layer).mem = s.mem := by
  simp only [State.resume]; repeat' split
  all_goals simp

@[simp] theorem State.bringIn_mem (s : State) (u x : Nat) : (State.bringIn s u x).mem = s.mem := by
  simp only [State.bringIn]; repeat' split
  all_goals simp

@[simp] theorem State.switchOut_mem (s : State) (u x : Nat) : (State.switchOut s u x).mem = s.mem := by
  simp only [State.switchOut]; repeat' split
  all_goals simp

@[simp] theorem State.switchOn_mem (s : State) (u : Nat) : (State.switchOn s u).mem = s.mem := by
  simp only [State.switchOn]; repeat' split
  all_goals simp

@[simp] theorem State.grantTurn_mem (s : State) (u : Nat) (p : Pick) : (State.grantTurn s u p).mem = s.mem := by
  unfold State.grantTurn; split <;> simp

@[simp] theorem State.endTurn_mem (s : State) (u : Nat) : (State.endTurn s u).mem = s.mem := by
  rfl

@[simp] theorem State.cutTurn_mem (s : State) (u : Nat) : (State.cutTurn s u).mem = s.mem := by
  simp only [State.cutTurn]; repeat' split
  all_goals simp

@[simp] theorem State.noteRealtime_mem (s : State) (u : Nat) : (State.noteRealtime s u).mem = s.mem := by
  rfl

@[simp] theorem State.settleUnit_mem (s : State) (u : Nat) : (State.settleUnit s u).mem = s.mem := by
  simp only [State.settleUnit]; repeat' split
  all_goals simp

@[simp] theorem State.settle_mem (s : State) : (State.settle s).mem = s.mem := by
  simp [State.settle]

@[simp] theorem State.writeSlotStates_wf (s : State) (x : Nat) (okm : Memory.wf s.mem = true) : Memory.wf (State.writeSlotStates s x).mem = true := by
  unfold State.writeSlotStates; repeat' first | (simp_all; done) | (intro _) | split | (apply foldl_wf) | dsimp only

@[simp] theorem State.swapInCtx_mem (s : State) (x : Nat) : (State.swapInCtx s x).mem = s.mem := by
  simp [State.swapInCtx]

@[simp] theorem State.freeSlots_mem (s : State) (x : Nat) : (State.freeSlots s x).mem = s.mem := by
  rfl

@[simp] theorem State.evictCtx_wf (s : State) (x : Nat) (okm : Memory.wf s.mem = true) : Memory.wf (State.evictCtx s x).mem = true := by
  simp [State.evictCtx, okm]

@[simp] theorem State.unverifiable_mem (s : State) (level pos : Nat) (owner : Option Nat) : (State.unverifiable s level pos owner).mem = s.mem := by
  simp only [State.unverifiable]; repeat' split
  all_goals simp

@[simp] theorem State.runAdmin_mem (s : State) (r opc : Nat) (f : State → Cmd → State) (hf : ∀ t x0, (f t x0).mem = t.mem) : (State.runAdmin s r opc f).mem = s.mem := by
  simp only [State.runAdmin]; repeat' split
  all_goals simp [hf]

@[simp] theorem State.runAdmin_wf (s : State) (r opc : Nat) (f : State → Cmd → State) (hf : ∀ t x0, Memory.wf t.mem = true → Memory.wf (f t x0).mem = true) (okm : Memory.wf s.mem = true) : Memory.wf (State.runAdmin s r opc f).mem = true := by
  simp only [State.runAdmin]; repeat' split
  all_goals simp [okm, hf]

@[simp] theorem State.commit_mem (s : State) (r : Nat) : (State.commit s r).mem = s.mem := by
  rfl

@[simp] theorem State.handOver_mem (s : State) (r : Nat) : (State.handOver s r).mem = s.mem := by
  rfl

@[simp] theorem State.park_mem (s : State) (r : Nat) : (State.park s r).mem = s.mem := by
  rfl

@[simp] theorem State.withData_mem (s : State) (r : Nat) (c : Cmd) (io : HostIo) (n : Nat) (f : State → Blob → State) (hf : ∀ t x0, (f t x0).mem = t.mem) : (State.withData s r c io n f).mem = s.mem := by
  simp only [State.withData]; repeat' split
  all_goals simp [hf]

@[simp] theorem State.withData_wf (s : State) (r : Nat) (c : Cmd) (io : HostIo) (n : Nat) (f : State → Blob → State) (hf : ∀ t x0, Memory.wf t.mem = true → Memory.wf (f t x0).mem = true) (okm : Memory.wf s.mem = true) : Memory.wf (State.withData s r c io n f).mem = true := by
  simp only [State.withData]; repeat' split
  all_goals simp [okm, hf]

@[simp] theorem State.writeResult_mem (s : State) (c : Cmd) (b : Blob) : (State.writeResult s c b).mem = s.mem := by
  simp [State.writeResult]

@[simp] theorem State.answer_mem (s : State) (r : Nat) (c : Cmd) (io : HostIo) (b : Blob) (eff : State → State) (heff : ∀ t , (eff t ).mem = t.mem) : (State.answer s r c io b eff).mem = s.mem := by
  unfold State.answer; split <;> simp [heff]

@[simp] theorem State.answer_wf (s : State) (r : Nat) (c : Cmd) (io : HostIo) (b : Blob) (eff : State → State) (heff : ∀ t , Memory.wf t.mem = true → Memory.wf (eff t ).mem = true) (okm : Memory.wf s.mem = true) : Memory.wf (State.answer s r c io b eff).mem = true := by
  unfold State.answer; split <;> simp [okm, heff]

@[simp] theorem State.failWith_mem (s : State) (r : Nat) (c : Cmd) (io : HostIo) (b : Blob) (st : Status) : (State.failWith s r c io b st).mem = s.mem := by
  simp [State.failWith]

@[simp] theorem State.adoptLink_mem (s : State) (n : Nat) (data : Blob) : (State.adoptLink s n data).mem = s.mem := by
  simp only [State.adoptLink]; repeat' split
  all_goals simp

@[simp] theorem State.adoptEffect_mem (s : State) (e : Nat) (i : CfgItem) : (State.adoptEffect s e i).mem = s.mem := by
  simp only [State.adoptEffect]; repeat' split
  all_goals simp

@[simp] theorem State.completeEffect_mem (s : State) (x : Staged) : (State.completeEffect s x).mem = s.mem := by
  unfold State.completeEffect; split <;> simp

@[simp] theorem State.answerStaged_mem (s : State) (x : Staged) : (State.answerStaged s x).mem = s.mem := by
  unfold State.answerStaged; split <;> simp

@[simp] theorem State.completeEpochs_mem (f : Nat) (s : State) : (State.completeEpochs f s).mem = s.mem := by
  induction f generalizing s with
  | zero => rfl
  | succ f ih => simp only [State.completeEpochs]; repeat' split
                 all_goals simp [ih]

@[simp] theorem State.completeDue_mem (s : State) : (State.completeDue s).mem = s.mem := by
  simp [State.completeDue]

@[simp] theorem State.adoptOne_mem (s : State) (e : Nat) (force : Bool) : (State.adoptOne s e force).mem = s.mem := by
  simp only [State.adoptOne]; repeat' split
  all_goals simp

@[simp] theorem State.adoptAll_mem (s : State) (e : Nat) : (State.adoptAll s e).mem = s.mem := by
  simp [State.adoptAll]

@[simp] theorem State.stage_mem (s : State) (i : CfgItem) (cmd : Option Nat) : (State.stage s i cmd).mem = s.mem := by
  simp [State.stage]

@[simp] theorem State.stageFor_mem (s : State) (r : Nat) (c : Cmd) (i : CfgItem) (io : HostIo) (eff : State → State) (heff : ∀ t , (eff t ).mem = t.mem) : (State.stageFor s r c i io eff).mem = s.mem := by
  unfold State.stageFor; split <;> simp [heff]

@[simp] theorem State.stageFor_wf (s : State) (r : Nat) (c : Cmd) (i : CfgItem) (io : HostIo) (eff : State → State) (heff : ∀ t , Memory.wf t.mem = true → Memory.wf (eff t ).mem = true) (okm : Memory.wf s.mem = true) : Memory.wf (State.stageFor s r c i io eff).mem = true := by
  unfold State.stageFor; split <;> simp [okm, heff]

@[simp] theorem State.setErr_mem (s : State) (b : Nat) : (State.setErr s b).mem = s.mem := by
  rfl

@[simp] theorem State.openRecord_mem (s : State) (r : RstRec) : (s.openRecord r).2.mem = s.mem := by
  simp only [State.openRecord]; split <;> simp

@[simp] theorem State.modRecord_mem (s : State) (slot : Nat) (f : RstRec → RstRec) : (State.modRecord s slot f).mem = s.mem := by
  rfl

@[simp] theorem State.closeRecord_mem (s : State) (slot outcome : Nat) (fenced : Bool) : (State.closeRecord s slot outcome fenced).mem = s.mem := by
  simp only [State.closeRecord]; repeat' split
  all_goals simp

@[simp] theorem State.killCtx_wf (s : State) (x : Nat) (st : Status) (okm : Memory.wf s.mem = true) : Memory.wf (State.killCtx s x st).mem = true := by
  unfold State.killCtx; repeat' first | (simp_all; done) | (intro _) | split | (apply foldl_wf) | dsimp only

@[simp] theorem State.oosCmd_wf (s : State) (tarn : Bool) (r : Nat) (okm : Memory.wf s.mem = true) : Memory.wf (State.oosCmd s tarn r).mem = true := by
  simp only [State.oosCmd]; repeat' split
  all_goals simp [okm]

@[simp] theorem State.holdDomain_mem (s : State) : (State.holdDomain s).mem = s.mem := by
  rfl

@[simp] theorem State.closeIfOpen_mem (s : State) (slot outcome : Nat) : (State.closeIfOpen s slot outcome).mem = s.mem := by
  unfold State.closeIfOpen; split <;> simp

@[simp] theorem State.outOfService_wf (s : State) (cause engine : Nat) (okm : Memory.wf s.mem = true) : Memory.wf (State.outOfService s cause engine).mem = true := by
  unfold State.outOfService; repeat' first | (simp_all; done) | (intro _) | split | (apply foldl_wf) | dsimp only

@[simp] theorem State.nullTaps_mem (s : State) (x : Nat) : (State.nullTaps s x).mem = s.mem := by
  simp [State.nullTaps]

@[simp] theorem State.abandon_mem (s : State) (x u : Nat) : (State.abandon s x u).mem = s.mem := by
  rfl

@[simp] theorem State.ctxResetDone_mem (s : State) (x : Nat) : (State.ctxResetDone s x).mem = s.mem := by
  simp only [State.ctxResetDone]; repeat' split
  all_goals simp

@[simp] theorem State.ctxResetSettle_mem (s : State) (x : Nat) : (State.ctxResetSettle s x).mem = s.mem := by
  simp only [State.ctxResetSettle]; repeat' split
  all_goals simp

@[simp] theorem State.ctxResetAnswered_mem (s : State) (x u : Nat) : (State.ctxResetAnswered s x u).mem = s.mem := by
  simp only [State.ctxResetAnswered]; repeat' split
  all_goals simp

@[simp] theorem State.freeDescs_mem (s : State) (x : Nat) : (State.freeDescs s x).mem = s.mem := by
  rfl

@[simp] theorem State.contextReset_wf (s : State) (x cause detail : Nat) (victim : Option (Nat × Status)) (cmd : Option Nat) (okm : Memory.wf s.mem = true) : Memory.wf (State.contextReset s x cause detail victim cmd).mem = true := by
  simp only [State.contextReset]; repeat' split
  all_goals simp [okm]

@[simp] theorem State.rewind_mem (s : State) (x p : Nat) : (State.rewind s x p).mem = s.mem := by
  unfold State.rewind; split <;> simp

@[simp] theorem State.blame_wf (s : State) (slot x : Nat) (okm : Memory.wf s.mem = true) : Memory.wf (State.blame s slot x).mem = true := by
  simp [State.blame, okm]

@[simp] theorem State.sendBack_wf (s : State) (slot x : Nat) (okm : Memory.wf s.mem = true) : Memory.wf (State.sendBack s slot x).mem = true := by
  simp [State.sendBack, okm]

@[simp] theorem State.recoverCtx_wf (s : State) (slot : Nat) (guilty : List Nat) (x : Nat) (ps : List Nat) (okm : Memory.wf s.mem = true) : Memory.wf (State.recoverCtx s slot guilty x ps).mem = true := by
  unfold State.recoverCtx; repeat' first | (simp_all; done) | (intro _) | split | (apply foldl_wf) | dsimp only

@[simp] theorem State.countLost_mem (s : State) (slot n : Nat) : (State.countLost s slot n).mem = s.mem := by
  rfl

@[simp] theorem State.recover_wf (s : State) (slot : Nat) (guilty : List Nat) (lost : List (Nat × Nat)) (okm : Memory.wf s.mem = true) : Memory.wf (State.recover s slot guilty lost).mem = true := by
  unfold State.recover; repeat' first | (simp_all; done) | (intro _) | split | (apply foldl_wf) | dsimp only

@[simp] theorem State.seracDown_mem (s : State) (p : Nat) (hold : Bool) : (State.seracDown s p hold).mem = s.mem := by
  rfl

@[simp] theorem State.preemptOccupant_mem (s : State) (all : Bool) (u : Nat) : (State.preemptOccupant s all u).mem = s.mem := by
  simp only [State.preemptOccupant]; repeat' split
  all_goals simp

@[simp] theorem State.siltCut_wf (s : State) (n slot : Nat) (guilty : Option Nat) (okm : Memory.wf s.mem = true) : Memory.wf (State.siltCut s n slot guilty).mem = true := by
  unfold State.siltCut
  dsimp only
  refine foldl_wf _ _ _ (fun t e h => ?_) okm
  have hc : ∀ (y : State) (f : RstRec → RstRec), Memory.wf y.mem = true → Memory.wf (if e.2.decided.isSome then y else y.modRecord slot f).mem = true := by
    intro y f hy; split
    · exact hy
    · simp [hy]
  split
  · exact h
  · split
    · split
      · exact h
      · exact State.drainIfIdle_wf _ _ (hc _ _ (by simp [h]))
    · split
      · exact hc _ _ (by simp [h])
      · exact h

@[simp] theorem State.rewriteBurst_mem (s : State) (q : Queue) : (State.rewriteBurst s q).mem = s.mem := by
  unfold State.rewriteBurst; split <;> simp

@[simp] theorem State.placeWalk_mem (s : State) (w : Walk) : (State.placeWalk s w).mem = s.mem := by
  unfold State.placeWalk; split <;> simp

@[simp] theorem State.nextWalk_mem (s : State) : (State.nextWalk s).mem = s.mem := by
  unfold State.nextWalk; split <;> simp

@[simp] theorem State.handWalk_mem (s : State) (n : Nat) : (State.handWalk s n).mem = s.mem := by
  unfold State.handWalk; split <;> simp

@[simp] theorem State.againWalk_mem (s : State) (p : Nat → Bool) : (State.againWalk s p).mem = s.mem := by
  rfl

@[simp] theorem State.engineBegin_wf (s : State) (e : Nat) (okm : Memory.wf s.mem = true) : Memory.wf (State.engineBegin s e).mem = true := by
  unfold State.engineBegin
  dsimp only
  by_cases h : e / 256 = 1
  · rw [if_pos h]; simp [okm]
  rw [if_neg h]; clear h
  by_cases h : e / 256 = 2
  · rw [if_pos h, State.siltClear_mem]; split <;> simp [okm]
  rw [if_neg h]; clear h
  by_cases h : e / 256 = 3
  · rw [if_pos h]; exact foldl_wf _ _ _ (fun t x h => by simp [h]) okm
  rw [if_neg h]; clear h
  by_cases h : e / 256 = 5
  · rw [if_pos h]; split <;> simp [okm]
  rw [if_neg h]; clear h
  by_cases h : e / 256 = 6
  · rw [if_pos h]; simp [okm]
  rw [if_neg h]; clear h
  by_cases h : e / 256 = 7
  · rw [if_pos h]; exact okm
  rw [if_neg h]; clear h
  by_cases h : e / 256 = 8
  · rw [if_pos h]; simp [okm]
  rw [if_neg h]; clear h
  by_cases h : e / 256 = 9
  · rw [if_pos h]; dsimp only; rw [State.freeIdx_mem]; exact foldl_wf _ _ _ (fun t x h => by simp [h]) okm
  rw [if_neg h]; exact okm

@[simp] theorem State.loseCluster_wf (s : State) (p slot : Nat) (guilty : List Nat) (okm : Memory.wf s.mem = true) : Memory.wf (State.loseCluster s p slot guilty).mem = true := by
  unfold State.loseCluster; repeat' first | (simp_all; done) | (intro _) | split | (apply foldl_wf) | dsimp only

@[simp] theorem State.markFenced_mem (s : State) (e : Nat) : (State.markFenced s e).mem = s.mem := by
  simp [State.markFenced]

@[simp] theorem State.fenceSerac_wf (s : State) (p slot : Nat) (guilty : List Nat) (okm : Memory.wf s.mem = true) : Memory.wf (State.fenceSerac s p slot guilty).mem = true := by
  simp only [State.fenceSerac]; repeat' split
  all_goals simp [okm]

@[simp] theorem State.rtReplace_mem (s : State) (n : Nat) : (State.rtReplace s n).mem = s.mem := by
  simp only [State.rtReplace]; repeat' split
  all_goals simp

@[simp] theorem State.fence_wf (s : State) (e slot : Nat) (guilty : Option Nat) (w : Memory.wf s.mem = true) : Memory.wf (s.fence e slot guilty).mem = true := by
  have h5 : ∀ t : State, Memory.wf t.mem = true → Memory.wf (match guilty with | some g => if e / 256 = 1 || t.loess.oos then t else t.blame slot g | none => t).completeDue.mem = true := by
    intro t ht
    rw [State.completeDue_mem]
    split
    · split <;> simp [ht]
    · exact ht
  unfold State.fence
  dsimp only
  apply h5
  clear h5
  have h3 : ∀ (l : List Nat) (b : Bool) (t : State), Memory.wf t.mem = true → Memory.wf (l.foldl (State.preemptOccupant · b ·) t).mem = true := fun l b t => foldl_wf _ _ _ (fun t x h => by simp [h])
  have h4 : ∀ (l : List Nat) (t : State), Memory.wf t.mem = true → Memory.wf (l.foldl (fun u p => if u.present p && !(u.eng (seracEngine p)).fenced then u.fenceSerac p slot guilty.toList
      else u) t).mem = true := fun l t => foldl_wf _ _ _ (by intro t p ht; split <;> simp [ht])
  repeat' split
  all_goals first | (simp [w]; done) | (apply h4; apply h3; simp [w]; done) | (apply h3; simp [w]; done) | skip

@[simp] theorem State.tarnRestart_wf (s : State) (cause esc : Nat) (okm : Memory.wf s.mem = true) : Memory.wf (State.tarnRestart s cause esc).mem = true := by
  simp only [State.tarnRestart]; repeat' split
  all_goals simp [okm]

@[simp] theorem State.joinReset_mem (s : State) (e : Nat) : (State.joinReset s e).mem = s.mem := by
  unfold State.joinReset; split <;> simp

@[simp] theorem State.engineReset_wf (s : State) (e cause : Nat) (guilty : Option Nat) (detail esc : Nat) (okm : Memory.wf s.mem = true) : Memory.wf (State.engineReset s e cause guilty detail esc).mem = true := by
  simp only [State.engineReset]; repeat' split
  all_goals simp [okm]

@[simp] theorem State.retrainAfter_mem (s : State) (n : Nat) : (State.retrainAfter s n).mem = s.mem := by
  unfold State.retrainAfter; split <;> simp

@[simp] theorem State.readAgain_mem (s : State) (n : Nat) : (State.readAgain s n).mem = s.mem := by
  simp only [State.readAgain]; repeat' split
  all_goals try simp
  all_goals (apply foldl_mem; intro t x; try dsimp only)
  all_goals repeat' split
  all_goals first | (simp; done) | (apply foldl_mem; intro t x; (try dsimp only); (repeat' split) <;> simp)

@[simp] theorem State.engineDone_wf (s : State) (e : Nat) (okm : Memory.wf s.mem = true) : Memory.wf (State.engineDone s e).mem = true := by
  simp only [State.engineDone]; repeat' split
  all_goals simp [okm]

@[simp] theorem State.domainBegin_mem (s : State) : s.domainBegin.mem = s.mem := by
  simp only [State.domainBegin]
  rw [foldl_mem]
  · (try dsimp only)
    rw [foldl_mem]
    · (try dsimp only)
      rw [foldl_mem]
      · rw [foldl_mem]; intro t e; (try dsimp only); split <;> simp
      · intro t p; split <;> simp
    · intro t e; split <;> simp
  · intro t e; simp

@[simp] theorem State.domainReset_wf (s : State) (cause : Nat) (guilty : Option Nat) (engine esc : Nat) (lost : List (Nat × Nat)) (okm : Memory.wf s.mem = true) : Memory.wf (State.domainReset s cause guilty engine esc lost).mem = true := by
  simp only [State.domainReset]; repeat' split
  all_goals simp [okm]

@[simp] theorem State.domainDone_wf (s : State) (w : Memory.wf s.mem = true) : Memory.wf s.domainDone.mem = true := by
  have h0 : ∀ (x : Rst) (l : List Nat) (t : State), Memory.wf t.mem = true → Memory.wf (l.foldl (fun t p => t.fenceSerac p x.slot x.blamed) t).mem = true :=
    fun x l t => foldl_wf _ _ _ (fun t p h => by simp [h])
  have h1 : ∀ (l : List (Nat × Nat)) (t : State), (l.foldl (fun t e => t.ctxResetAnswered e.1 e.2) t).mem = t.mem :=
    fun l t => foldl_mem _ _ _ (by simp)
  unfold State.domainDone
  split
  · exact w
  · dsimp only
    rw [State.settle_mem]
    refine foldl_wf _ _ _ (fun t e h => by rw [State.adoptAll_mem]; exact h) ?_
    rw [State.closeRecord_mem]
    apply State.recover_wf
    rw [h1, State.countLost_mem]
    exact h0 _ _ _ w

@[simp] theorem State.engineOverdue_wf (s : State) (e : Nat) (okm : Memory.wf s.mem = true) : Memory.wf (State.engineOverdue s e).mem = true := by
  simp only [State.engineOverdue]; repeat' split
  all_goals simp [okm]

@[simp] theorem State.portError_wf (s : State) (u cause : Nat) (okm : Memory.wf s.mem = true) : Memory.wf (State.portError s u cause).mem = true := by
  simp [State.portError, okm]

@[simp] theorem State.interruptCq_mem (s : State) (i : Nat) : (State.interruptCq s i).mem = s.mem := by
  simp only [State.interruptCq]; repeat' split
  all_goals simp

@[simp] theorem State.emitCqe_mem (s : State) (i : Nat) (e : Cqe) : (State.emitCqe s i e).mem = s.mem := by
  simp only [State.emitCqe]; repeat' split
  all_goals simp

@[simp] theorem State.checkPark_mem (s : State) (f : Nat) : (State.checkPark s f).mem = s.mem := by
  simp only [State.checkPark]; repeat' split
  all_goals simp

@[simp] theorem State.parkCqe_mem (s : State) (i : Nat) (e : Cqe) : (State.parkCqe s i e).mem = s.mem := by
  simp only [State.parkCqe]; repeat' split
  all_goals simp

@[simp] theorem State.checkParks_mem (s : State) : (State.checkParks s).mem = s.mem := by
  simp [State.checkParks]

@[simp] theorem State.unpark_mem (s : State) (f : Nat) (l : List Parked) : (State.unpark s f l).mem = s.mem := by
  simp [State.unpark]

@[simp] theorem State.produceCqe_mem (s : State) (i : Nat) (e : Cqe) : (State.produceCqe s i e).mem = s.mem := by
  simp only [State.produceCqe]; repeat' split
  all_goals simp

@[simp] theorem State.breakCq_mem (s : State) (i : Nat) : (State.breakCq s i).mem = s.mem := by
  simp only [State.breakCq]; repeat' split
  all_goals simp

theorem State.replayTake_mem {s t : State} {i : Nat} {q : Queue} {e : Cqe} (h : s.replayTake i q = some (e, t)) : t.mem = s.mem := by
  unfold State.replayTake at h
  repeat' split at h
  all_goals first | (cases h; simp; done) | cases h

@[simp] theorem State.tookCqe_mem (s : State) (i : Nat) : (State.tookCqe s i).mem = s.mem := by
  rfl

@[simp] theorem State.replayPump_mem (f : Nat) (s : State) : (State.replayPump f s).mem = s.mem := by
  induction f generalizing s with
  | zero => rfl
  | succ f ih =>
    simp only [State.replayPump]
    repeat' split
    all_goals first | rfl | (rename_i h; rw [ih]; simp [State.replayTake_mem h])

@[simp] theorem State.replayOnward_mem (s : State) : s.replayOnward.mem = s.mem := by
  unfold State.replayOnward; split <;> simp

@[simp] theorem State.replayEnd_mem (s : State) (i : Nat) : (State.replayEnd s i).mem = s.mem := by
  simp only [State.replayEnd]; repeat' split
  all_goals simp

@[simp] theorem State.replayStep_mem (s : State) (i : Nat) : (State.replayStep s i).mem = s.mem := by
  simp only [State.replayStep]; repeat' split
  all_goals simp

@[simp] theorem State.replayFail_mem (s : State) (i : Nat) : (State.replayFail s i).mem = s.mem := by
  simp only [State.replayFail]; repeat' split
  all_goals simp

@[simp] theorem State.discardParked_mem (s : State) (f : Nat) : (State.discardParked s f).mem = s.mem := by
  simp only [State.discardParked]; repeat' split
  all_goals try simp
  all_goals (apply foldl_mem; intro t x; try dsimp only)
  all_goals repeat' split
  all_goals first | (simp; done) | (apply foldl_mem; intro t x; (try dsimp only); (repeat' split) <;> simp)

@[simp] theorem State.refuseDoorbell_mem (s : State) (i : Nat) (q : Queue) : (State.refuseDoorbell s i q).mem = s.mem := by
  rfl

@[simp] theorem State.rejectDoorbell_mem (s : State) : (State.rejectDoorbell s).mem = s.mem := by
  rfl

@[simp] theorem State.ringTail_mem (s : State) (i : Nat) (q : Queue) (v : Nat) : (State.ringTail s i q v).mem = s.mem := by
  unfold State.ringTail; split <;> simp

@[simp] theorem State.ringHead_mem (s : State) (i : Nat) (q : Queue) (v : Nat) : (State.ringHead s i q v).mem = s.mem := by
  simp only [State.ringHead]; repeat' split
  all_goals simp

@[simp] theorem State.ringMask_mem (s : State) (i : Nat) (q : Queue) (v : Nat) : (State.ringMask s i q v).mem = s.mem := by
  unfold State.ringMask; split <;> simp

@[simp] theorem State.writeEvent_mem (s : State) (f : Nat) : (State.writeEvent s f).mem = s.mem := by
  simp only [State.writeEvent]; repeat' split
  all_goals simp

@[simp] theorem State.refuseEntry_mem (s : State) (c : Cmd) (st : Status) : (State.refuseEntry s c st).mem = s.mem := by
  rfl

@[simp] theorem State.markLeaving_mem (s : State) (r : Nat) (c : Cmd) : (State.markLeaving s r c).mem = s.mem := by
  unfold State.markLeaving; split <;> simp

@[simp] theorem State.countHeld_mem (s : State) (r : Nat) (c : Cmd) : (State.countHeld s r c).mem = s.mem := by
  rfl

@[simp] theorem State.noteAdmitted_mem (s : State) (c : Cmd) : (State.noteAdmitted s c).mem = s.mem := by
  rfl

@[simp] theorem State.acceptIo_wf (s : State) (c : Cmd) (x : Ctx) (l : List BatchEnt) (nodes : List Node) (gv : Nat) (okm : Memory.wf s.mem = true) : Memory.wf (State.acceptIo s c x l nodes gv).mem = true := by
  simp only [State.acceptIo]; repeat' split
  all_goals simp [okm]

theorem State.batchPath_mem {s t : State} {c : Cmd} {x : Ctx} {va len : Nat} {ecc : Ecc} {chk : PathCheck} {st : Option Status}
    (h : s.batchPath c x va len ecc chk = some (st, t)) : t.mem = s.mem := by
  unfold State.batchPath at h
  repeat' split at h
  all_goals first | (cases h; simp; done) | cases h

@[simp] theorem State.readBatch_mem (s : State) (c : Cmd) (x : Ctx) (ecc : Ecc) (chk : PathCheck) (away : Blob) :
    (s.readBatch c x ecc chk away).2.mem = s.mem := by
  simp only [State.readBatch]; repeat' split
  all_goals first | rfl | (rename_i h; exact State.batchPath_mem h) | simp

@[simp] theorem State.admitIo_wf (s : State) (q : Queue) (c : Cmd) (x : Ctx) (ecc : Ecc) (chk : PathCheck) (away : Blob) (w : Memory.wf s.mem = true) :
    Memory.wf (s.admitIo q c x ecc chk away).mem = true := by
  unfold State.admitIo
  split
  · simp [w]
  · have e := State.readBatch_mem s c x ecc chk away
    split
    · rename_i h; rw [h] at e; dsimp only at e; simp [e, w]
    · rename_i h; rw [h] at e; dsimp only at e; simp [e, w]
    · rename_i h; rw [h] at e
      dsimp only at e ⊢
      generalize (if opIsStep c.opcode = true then _ else _ : Option Status) = st
      repeat' split
      all_goals simp [e, w]

@[simp] theorem State.takeEntry_mem (s : State) (i : Nat) (q : Queue) (e : Fetched) (rest : List Fetched) : (State.takeEntry s i q e rest).mem = s.mem := by
  rfl

@[simp] theorem State.admitOne_wf (s : State) (i : Nat) (ecc : Ecc) (chk : PathCheck) (away : Blob) (w : Memory.wf s.mem = true) : Memory.wf (s.admitOne i ecc chk away).mem = true := by
  simp only [State.admitOne]; repeat' split
  all_goals simp [w]

@[simp] theorem State.grantFetch_mem (s : State) (i : Nat) (slot : Nat) : (State.grantFetch s i slot).mem = s.mem := by
  unfold State.grantFetch; split <;> simp

theorem execIdentify_mem (r : Nat) (io : HostIo) (s : State) : ∃ t, execIdentify r io s = .next t ∧ t.mem = s.mem := by
  refine ⟨_, rfl, ?_⟩
  simp

theorem execQpCreate_mem (r : Nat) (_io : HostIo) (s : State) : ∃ t, execQpCreate r _io s = .next t ∧ t.mem = s.mem := by
  refine ⟨_, rfl, ?_⟩
  repeat' first | (simp; done) | (intro _) | split | apply State.runAdmin_mem | dsimp only

theorem execQpDelete_mem (r : Nat) (_io : HostIo) (s : State) : ∃ t, execQpDelete r _io s = .next t ∧ t.mem = s.mem := by
  refine ⟨_, rfl, ?_⟩
  repeat' first | (simp; done) | (intro _) | split | apply State.runAdmin_mem | dsimp only

theorem execCqResume_mem (r : Nat) (io : HostIo) (s : State) : ∃ t, execCqResume r io s = .next t ∧ t.mem = s.mem := by
  refine ⟨_, rfl, ?_⟩
  repeat' first | (simp; done) | (intro _) | split | apply State.runAdmin_mem | dsimp only

@[simp] theorem State.remoteSend_wf (s : State) (r : Nat) (q : MemReq) (okm : Memory.wf s.mem = true) : Memory.wf (State.remoteSend s r q).mem = true := by
  simp only [State.remoteSend]; repeat' split
  all_goals simp [okm]

@[simp] theorem State.remotePump_wf (s : State) (r : Nat) (okm : Memory.wf s.mem = true) : Memory.wf (State.remotePump s r).mem = true := by
  unfold State.remotePump; repeat' first | (simp_all; done) | (intro _) | split | (apply foldl_wf) | dsimp only

@[simp] theorem State.askRemote_wf (s : State) (r : Nat) (l : List MemReq) (okm : Memory.wf s.mem = true) : Memory.wf (s.askRemote r l).mem = true := by
  unfold State.askRemote
  apply State.remotePump_wf
  refine foldl_wf _ _ _ ?_ okm
  intro t q h
  repeat' split
  all_goals simp [h]

@[simp] theorem State.readPieces_mem (s : State) (r : Nat) (c : Cmd) (e : Nat) (l : List Piece) : (s.readPieces r c e l).2.mem = s.mem := by
  simp only [State.readPieces]; rw [foldPair_mem]; intro y a; (try dsimp only); repeat' split
  all_goals simp

@[simp] theorem State.writePieces_wf (s : State) (r : Nat) (c : Cmd) (e : Nat) (l : List Piece) (b : Blob) (w : Memory.wf s.mem = true) : Memory.wf (s.writePieces r c e l b).mem = true := by
  induction l generalizing s b with
  | nil => exact w
  | cons p t ih =>
    simp only [State.writePieces]
    apply ih
    repeat' split
    all_goals simp [w]

@[simp] theorem State.sendIssue_wf (s : State) (u r : Nat) (c : Cmd) (t : TileRef) (n : Node) (out : List Piece) (data : Blob) (okm : Memory.wf s.mem = true) : Memory.wf (State.sendIssue s u r c t n out data).mem = true := by
  unfold State.sendIssue; split <;> simp [okm]

theorem State.withSpans_wf (s : State) (r : Nat) (c : Cmd) (x : Ctx) (n engine : Nat) (l : List VaSpan) (f : State → Cmd → State)
    (hf : ∀ t c, t.mem = s.mem → Memory.wf (f t c).mem = true) (w : Memory.wf s.mem = true) : Memory.wf (s.withSpans r c x n engine l f).mem = true := by
  simp only [State.withSpans]; repeat' split
  all_goals first | (simp [w]; done) | exact hf _ _ (by simp)

@[simp] theorem State.issueTile_wf (s : State) (u r : Nat) (c : Cmd) (t : TileRef) (n : Node) (w : Tile) (okm : Memory.wf s.mem = true) : Memory.wf (State.issueTile s u r c t n w).mem = true := by
  simp only [State.issueTile]; repeat' split
  all_goals simp [okm]

@[simp] theorem State.issueNext_wf (s : State) (u : Nat) (okm : Memory.wf s.mem = true) : Memory.wf (State.issueNext s u).mem = true := by
  unfold State.issueNext; repeat' first | (simp_all; done) | (intro _) | split | (apply State.withSpans_wf) | dsimp only

@[simp] theorem State.settleDone_mem (s : State) (r : Nat) : (State.settleDone s r).mem = s.mem := by
  simp only [State.settleDone]; repeat' split
  all_goals simp

@[simp] theorem State.workMoved_wf (s : State) (r : Nat) (okm : Memory.wf s.mem = true) : Memory.wf (State.workMoved s r).mem = true := by
  simp [State.workMoved, okm]

@[simp] theorem State.takeUp_wf (s : State) (u cls typ : Nat) (p : TilePkt) (f : State → State) (hf : ∀ t , Memory.wf t.mem = true → Memory.wf (f t ).mem = true) (okm : Memory.wf s.mem = true) : Memory.wf (State.takeUp s u cls typ p f).mem = true := by
  simp only [State.takeUp]; repeat' split
  all_goals simp [okm, hf]

theorem execIssue_wf (u : Nat) (s : State) (okm : Memory.wf s.mem = true) : ∃ t, execIssue u s = .next t ∧ Memory.wf t.mem = true := by
  refine ⟨_, rfl, ?_⟩
  simp [okm]

@[simp] theorem State.finishWork_wf (s : State) (u : Nat) (w : Work) (c : Cmd) (b : Blob) (okm : Memory.wf s.mem = true) : Memory.wf (s.finishWork u w c b).mem = true := by
  unfold State.finishWork
  dsimp only
  apply State.workMoved_wf
  split
  · apply State.remotePump_wf; simp [okm]
  · simp [okm]

theorem execTileDone_wf (u : Nat) (p : TilePkt) (s : State) (okm : Memory.wf s.mem = true) : ∃ t, execTileDone u p s = .next t ∧ Memory.wf t.mem = true := by
  refine ⟨_, rfl, ?_⟩
  repeat' first | (simp_all; done) | (intro _) | split | (apply State.takeUp_wf) | dsimp only

theorem execTileError_wf (u : Nat) (p : TilePkt) (s : State) (okm : Memory.wf s.mem = true) : ∃ t, execTileError u p s = .next t ∧ Memory.wf t.mem = true := by
  refine ⟨_, rfl, ?_⟩
  repeat' first | (simp_all; done) | (intro _) | split | (apply State.takeUp_wf) | dsimp only

@[simp] theorem State.returnUp_mem (s : State) (u cls count : Nat) : (State.returnUp s u cls count).mem = s.mem := by
  simp only [State.returnUp]; repeat' split
  all_goals simp

theorem execCreditReturn_mem (u : Nat) (down : Bool) (cls count : Nat) (s : State) : ∃ t, execCreditReturn u down cls count s = .next t ∧ t.mem = s.mem := by
  refine ⟨_, rfl, ?_⟩
  repeat' first | (simp; done) | (intro _) | split | dsimp only

@[simp] theorem State.startWalk_mem (s : State) (r : Nat) (c : Cmd) (va : Nat) : (State.startWalk s r c va).mem = s.mem := by
  simp only [State.startWalk]; repeat' split
  all_goals simp

@[simp] theorem State.aheadOne_wf (s : State) (u r : Nat) (w : Tile) (okm : Memory.wf s.mem = true) : Memory.wf (State.aheadOne s u r w).mem = true := by
  unfold State.aheadOne
  dsimp only
  repeat' split
  all_goals first | exact okm | (simp [okm]; done) | skip
  · rw [State.tileFault_mem, foldl_mem _ _ _ (by intro t g; split <;> simp)]; simp [okm]
  · rw [foldl_mem _ _ _ (by intro t g; split <;> simp)]; simp [okm]

theorem execRunAhead_wf (u : Nat) (s : State) (okm : Memory.wf s.mem = true) : ∃ t, execRunAhead u s = .next t ∧ Memory.wf t.mem = true := by
  refine ⟨_, rfl, ?_⟩
  repeat' first | (simp_all; done) | (intro _) | split | (apply foldl_wf) | dsimp only

@[simp] theorem State.cacheRun_wf (s : State) (x : Nat) (l : Leaf) (n : Nat) (okm : Memory.wf s.mem = true) : Memory.wf (State.cacheRun s x l n).mem = true := by
  exact okm

theorem execTableWalkDone_wf (walker : Nat) (rd : EccAt) (s : State) (okm : Memory.wf s.mem = true) : ∃ t, execTableWalkDone walker rd s = .next t ∧ Memory.wf t.mem = true := by
  refine ⟨_, rfl, ?_⟩
  repeat' first | (simp_all; done) | (intro _) | split | dsimp only

theorem execCrevasseWaitingPost_mem (s : State) : ∃ t, execCrevasseWaitingPost s = .next t ∧ t.mem = s.mem := by
  refine ⟨_, rfl, ?_⟩
  split <;> simp

@[simp] theorem State.setCrev_mem (s : State) (slot : Nat) (r : Crev) : (State.setCrev s slot r).mem = s.mem := by
  rfl

@[simp] theorem State.crevRetry_mem (s : State) (slot : Nat) : (State.crevRetry s slot).mem = s.mem := by
  simp only [State.crevRetry]; repeat' split
  all_goals simp

theorem execCrevRetry_mem (slot : Nat) (s : State) : ∃ t, execCrevRetry slot s = .next t ∧ t.mem = s.mem := by
  refine ⟨_, rfl, ?_⟩
  simp

@[simp] theorem State.crevAbort_wf (s : State) (slot : Nat) (okm : Memory.wf s.mem = true) : Memory.wf (State.crevAbort s slot).mem = true := by
  unfold State.crevAbort; split <;> simp [okm]

theorem execCrevAbort_wf (slot : Nat) (s : State) (okm : Memory.wf s.mem = true) : ∃ t, execCrevAbort slot s = .next t ∧ Memory.wf t.mem = true := by
  refine ⟨_, rfl, ?_⟩
  repeat' first | (simp_all; done) | (intro _) | split | (apply State.access_wf) | dsimp only

@[simp] theorem State.crevHeadWrite_mem (s : State) (value : Nat) : (State.crevHeadWrite s value).mem = s.mem := by
  simp only [State.crevHeadWrite]; repeat' split
  all_goals simp

theorem execCrevHeadWrite_mem (value : Nat) (s : State) : ∃ t, execCrevHeadWrite value s = .next t ∧ t.mem = s.mem := by
  refine ⟨_, rfl, ?_⟩
  simp

@[simp] theorem State.takeUpTiles_mem (s : State) (r opc : Nat) : (State.takeUpTiles s r opc).mem = s.mem := by
  unfold State.takeUpTiles; split <;> simp

theorem execInferStep_mem (r : Nat) (s : State) : ∃ t, execInferStep r s = .next t ∧ t.mem = s.mem := by
  refine ⟨_, rfl, ?_⟩
  simp

theorem execTrainStep_mem (r : Nat) (s : State) : ∃ t, execTrainStep r s = .next t ∧ t.mem = s.mem := by
  refine ⟨_, rfl, ?_⟩
  simp

theorem execGraphLaunch_mem (r : Nat) (s : State) : ∃ t, execGraphLaunch r s = .next t ∧ t.mem = s.mem := by
  refine ⟨_, rfl, ?_⟩
  simp

theorem execKernelLaunch_mem (r : Nat) (s : State) : ∃ t, execKernelLaunch r s = .next t ∧ t.mem = s.mem := by
  refine ⟨_, rfl, ?_⟩
  simp

@[simp] theorem State.cirqueSpans_wf (s : State) (r : Nat) (c : Cmd) (l : List VaSpan) (f : State → Cmd → State)
    (hf : ∀ t x0, Memory.wf t.mem = true → Memory.wf (f t x0).mem = true) (w : Memory.wf s.mem = true) : Memory.wf (s.cirqueSpans r c l f).mem = true := by
  simp only [State.cirqueSpans]; repeat' split
  all_goals first | exact w | exact State.withSpans_wf _ _ _ _ _ _ _ _ (fun t c h => hf t c (by rw [h]; exact w)) w

theorem execCopy_wf (r : Nat) (ecc : Ecc) (s : State) (w : Memory.wf s.mem = true) : ∃ t, execCopy r ecc s = .next t ∧ Memory.wf t.mem = true := by
  refine ⟨_, rfl, ?_⟩
  split
  · exact w
  · rw [State.settle_mem]
    refine State.cirqueSpans_wf _ _ _ _ _ ?_ w
    intro t x ht
    dsimp only
    split
    · simp [ht]
    · split
      · simp [ht]
      · split
        · split
          · simp [ht]
          · apply State.workMoved_wf; apply State.remotePump_wf; simp [ht]
        · simp [ht]

@[simp] theorem State.writeSeqId_wf (s : State) (r : Nat) (c : Cmd) (w : Memory.wf s.mem = true) : Memory.wf (s.writeSeqId r c).mem = true := by
  have h : Memory.wf (s.cirqueSpans r c [⟨7, ioBufAddr c.sqe 7, 8, 2⟩] fun u c0 =>
      (((u.modCmd r fun z => { z with result := [] }).writePieces r { c with result := [] } (s.epochOf 0x0700) (c0.pieces 7 (ioBufAddr c.sqe 7) 8)
        c.result).remotePump r).workMoved r).mem = true := by
    refine State.cirqueSpans_wf _ _ _ _ _ ?_ w
    intro t x ht
    apply State.workMoved_wf; apply State.remotePump_wf; simp [ht]
  unfold State.writeSeqId
  dsimp only
  split
  · split
    · exact State.releaseSeq_wf _ _ h
    · exact h
  · exact h

theorem execSeqCreate_wf (r : Nat) (s : State) (w : Memory.wf s.mem = true) : ∃ t, execSeqCreate r s = .next t ∧ Memory.wf t.mem = true := by
  refine ⟨_, rfl, ?_⟩
  split
  · rw [State.settle_mem]
    refine State.cirqueSpans_wf _ _ _ _ _ ?_ w
    intro t x ht
    simp [ht]
  · repeat' split
    all_goals simp [w]

theorem execSeqRelease_mem (r : Nat) (s : State) : ∃ t, execSeqRelease r s = .next t ∧ t.mem = s.mem := by
  refine ⟨_, rfl, ?_⟩
  split <;> simp

theorem execSeqTruncate_wf (r : Nat) (s : State) (okm : Memory.wf s.mem = true) : ∃ t, execSeqTruncate r s = .next t ∧ Memory.wf t.mem = true := by
  refine ⟨_, rfl, ?_⟩
  repeat' first | (simp_all; done) | (intro _) | split | dsimp only

theorem execProvisioningPass_wf (s : State) (w : Memory.wf s.mem = true) : ∃ t, execProvisioningPass s = .next t ∧ Memory.wf t.mem = true := by
  refine ⟨_, rfl, ?_⟩
  split
  · exact w
  · dsimp only
    rw [State.settle_mem]
    exact foldl_wf _ _ _ (fun t e h => State.writeSeqId_wf _ _ _ h) (by simp [w])

@[simp] theorem State.takeTap_wf (s : State) (u : Nat) (t : Tap) (b : Blob) (okm : Memory.wf s.mem = true) : Memory.wf (State.takeTap s u t b).mem = true := by
  simp only [State.takeTap]; repeat' split
  all_goals simp [okm]

theorem execTapIn_wf (u : Nat) (p : TilePkt) (s : State) (okm : Memory.wf s.mem = true) : ∃ t, execTapIn u p s = .next t ∧ Memory.wf t.mem = true := by
  refine ⟨_, rfl, ?_⟩
  repeat' first | (simp_all; done) | (intro _) | split | (apply State.takeUp_wf) | dsimp only

@[simp] theorem State.sliceFails_mem (s : State) (x : Slice) (g : Option Nat) : (State.sliceFails s x g).mem = s.mem := by
  unfold State.sliceFails; split <;> simp

theorem execSliceFetchDone_mem (engine : Nat) (rd : EccAt) (s : State) : ∃ t, execSliceFetchDone engine rd s = .next t ∧ t.mem = s.mem := by
  refine ⟨_, rfl, ?_⟩
  repeat' first | (simp; done) | (intro _) | split | dsimp only

@[simp] theorem State.dropTap_mem (s : State) (t : Tap) : (State.dropTap s t).mem = s.mem := by
  rfl

theorem execTapAnswer_wf (u tag : Nat) (s : State) (w : Memory.wf s.mem = true) : ∃ t, execTapAnswer u tag s = .next t ∧ Memory.wf t.mem = true := by
  refine ⟨_, rfl, ?_⟩
  split
  · exact w
  · rename_i t _
    have h : ∀ (l : List DownPkt) (x : State), (l.foldl State.sendTile x).mem = x.mem := fun l x => foldl_mem _ _ _ (by simp)
    split
    · exact w
    · split
      · split
        · simp [w]
        · exact w
      · split
        · exact w
        · split
          · simp [w]
          · exact w
          · dsimp only
            split
            · exact w
            · rw [State.settle_mem]
              apply State.workMoved_wf
              rw [State.progress_mem, State.updSilt_mem]
              exact State.accumulateTap_wf _ _ _ (by simp [h, w])

@[simp] theorem State.beginUpdate_wf (s : State) (r : Nat) (c : Cmd) (b : Blob) (w : Memory.wf s.mem = true) : Memory.wf (s.beginUpdate r c b).mem = true := by
  unfold State.beginUpdate
  split
  · simp [w]
  · dsimp only
    rw [State.modCmd_mem]
    exact foldl_wf _ _ _ (fun t v h => State.updateVariant_wf _ _ _ _ _ _ h) w

theorem execTrainUpdate_wf (r : Nat) (s : State) (w : Memory.wf s.mem = true) : ∃ t, execTrainUpdate r s = .next t ∧ Memory.wf t.mem = true := by
  refine ⟨_, rfl, ?_⟩
  split
  · exact w
  · split
    · exact w
    · rw [State.settle_mem]
      refine State.cirqueSpans_wf _ _ _ _ _ ?_ w
      intro t x ht
      dsimp only
      repeat' split
      all_goals simp [ht]

theorem execTrainUpdateCommit_wf (r : Nat) (s : State) (okm : Memory.wf s.mem = true) : ∃ t, execTrainUpdateCommit r s = .next t ∧ Memory.wf t.mem = true := by
  refine ⟨_, rfl, ?_⟩
  repeat' first | (simp_all; done) | (intro _) | split | dsimp only

@[simp] theorem State.destroyCtx_wf (s : State) (x : Nat) (okm : Memory.wf s.mem = true) : Memory.wf (State.destroyCtx s x).mem = true := by
  have h : Memory.wf ((((tfind s.snow.seqs fun _ q => q.ctx == x).foldl State.releaseSeq s).crevWithdrawCtx x).freeSlots x).mem = true := by
    rw [State.freeSlots_mem, State.crevWithdrawCtx_mem]
    exact foldl_wf _ _ _ (fun t e h => by simp [h]) okm
  unfold State.destroyCtx
  dsimp only
  rw [State.settle_mem, State.passBoundary_mem]
  dsimp only
  generalize (((tfind s.snow.seqs fun _ q => q.ctx == x).foldl State.releaseSeq s).crevWithdrawCtx x).freeSlots x = t at h ⊢
  split
  · split
    · rw [State.commit_mem]; exact h
    · exact h
  · exact h

theorem State.takeChunks_wf {s s' : State} {e : Fkt} {l : List (Nat × Nat)} (h : s.takeChunks e l = some s') (w : Memory.wf s.mem = true) : Memory.wf s'.mem = true := by
  induction l generalizing s with
  | nil => cases h; exact w
  | cons a t ih =>
    simp only [State.takeChunks] at h
    split at h
    · rename_i h1; exact ih h (State.takeFrames_wf h1 w)
    · cases h

@[simp] theorem State.freeAlloc_wf (s : State) (a : Nat) (okm : Memory.wf s.mem = true) : Memory.wf (State.freeAlloc s a).mem = true := by
  unfold State.freeAlloc; repeat' first | (simp_all; done) | (intro _) | split | (apply foldl_wf) | dsimp only

@[simp] theorem State.writeTables_wf (s : State) (r x : Nat) (ls : List Leaf) (lo hi : Nat) (isMap : Bool) (okm : Memory.wf s.mem = true) : Memory.wf (State.writeTables s r x ls lo hi isMap).mem = true := by
  simp [State.writeTables, okm]

@[simp] theorem State.applyChange_mem (s : State) (x : Nat) (z : Change) : (State.applyChange s x z).mem = s.mem := by
  unfold State.applyChange; split <;> simp

@[simp] theorem State.ackEffect_mem (s0 : State) (e : Nat) (i : Inval) : (State.ackEffect s0 e i).mem = s0.mem := by
  simp only [State.ackEffect]; repeat' split
  all_goals simp

@[simp] theorem State.invalDone_mem (s : State) (i : Inval) : (State.invalDone s i).mem = s.mem := by
  simp only [State.invalDone]; repeat' split
  all_goals simp

@[simp] theorem State.addVersion_mem (s : State) (g : Graph) (v : Nat) (nodes : List Node) : (State.addVersion s g v nodes).mem = s.mem := by
  rfl

@[simp] theorem State.stopFetch_mem (s : State) (f : Nat) : (State.stopFetch s f).mem = s.mem := by
  rfl

@[simp] theorem State.abandonCmd_wf (s : State) (r : Nat) (okm : Memory.wf s.mem = true) : Memory.wf (State.abandonCmd s r).mem = true := by
  simp only [State.abandonCmd]; repeat' split
  all_goals simp [okm]

@[simp] theorem State.beginReset_wf (s : State) (f : Nat) (okm : Memory.wf s.mem = true) : Memory.wf (State.beginReset s f).mem = true := by
  unfold State.beginReset; repeat' first | (simp_all; done) | (intro _) | split | (apply foldl_wf) | dsimp only

@[simp] theorem State.dropVariant_mem (s : State) (v : Nat) : (State.dropVariant s v).mem = s.mem := by
  rfl

@[simp] theorem State.dropObjects_wf (s : State) (f : Nat) (okm : Memory.wf s.mem = true) : Memory.wf (State.dropObjects s f).mem = true := by
  unfold State.dropObjects
  dsimp only
  rw [State.prune_mem]
  refine foldl_wf _ _ _ (fun t e h => by simp [h]) ?_
  refine foldl_wf _ _ _ (fun t e h => by simp [h]) ?_
  refine foldl_wf _ _ _ (fun t e h => by simp [h]) ?_
  exact okm

@[simp] theorem State.unmapFn_wf (s : State) (f : Nat) (okm : Memory.wf s.mem = true) : Memory.wf (State.unmapFn s f).mem = true := by
  simp [State.unmapFn, okm]

@[simp] theorem State.teardown_wf (s : State) (f : Nat) (okm : Memory.wf s.mem = true) : Memory.wf (State.teardown s f).mem = true := by
  unfold State.teardown
  dsimp only
  refine foldl_wf _ _ _ (fun t e h => by simp [h]) ?_
  simp [okm]

@[simp] theorem State.answerGen_mem (s : State) (f : Nat) (io : HostIo) (l : List Nat) : (State.answerGen s f io l).mem = s.mem := by
  simp only [State.answerGen]; repeat' split
  all_goals try simp
  all_goals (apply foldl_mem; intro t x; try dsimp only)
  all_goals repeat' split
  all_goals first | (simp; done) | (apply foldl_mem; intro t x; (try dsimp only); (repeat' split) <;> simp)

@[simp] theorem State.runQuiesce_mem (s : State) (f r : Nat) : (State.runQuiesce s f r).mem = s.mem := by
  unfold State.runQuiesce; split <;> simp

@[simp] theorem State.runReset_wf (s : State) (f r : Nat) (io : HostIo) (okm : Memory.wf s.mem = true) : Memory.wf (State.runReset s f r io).mem = true := by
  simp only [State.runReset]; repeat' split
  all_goals simp [okm]

@[simp] theorem State.runWaiting_wf (s : State) (f r : Nat) (io : HostIo) (okm : Memory.wf s.mem = true) : Memory.wf (State.runWaiting s f r io).mem = true := by
  simp only [State.runWaiting]; repeat' split
  all_goals simp [okm]

@[simp] theorem State.runAfterwards_wf (f : Nat) (io : HostIo) (n : Nat) (s : State) (w : Memory.wf s.mem = true) : Memory.wf (State.runAfterwards f io n s).mem = true := by
  induction n generalizing s with
  | zero => exact w
  | succ n ih =>
    simp only [State.runAfterwards]
    repeat' split
    all_goals first | (simp [w]; done) | (apply ih; simp [w]; done)

@[simp] theorem State.afterTransition_wf (s : State) (f : Nat) (io : HostIo) (okm : Memory.wf s.mem = true) : Memory.wf (State.afterTransition s f io).mem = true := by
  simp [State.afterTransition, okm]

@[simp] theorem State.enableWaiting_mem (s : State) (f : Nat) : (State.enableWaiting s f).mem = s.mem := by
  simp only [State.enableWaiting]; repeat' split
  all_goals simp

theorem State.takeOne_wf {s s' : State} {e : Fkt} {tier addr k : Nat} {ask : Option Nat} (h : s.takeOne e tier addr ask = some (k, s')) (w : Memory.wf s.mem = true) :
    Memory.wf s'.mem = true := by
  unfold State.takeOne at h
  split at h
  · split at h
    · obtain ⟨t, ht, h2⟩ := Option.map_eq_some_iff.mp h; cases h2; exact State.takeChunks_wf ht w
    · cases h
  · obtain ⟨a, _, h1⟩ := Option.bind_eq_some_iff.mp h
    obtain ⟨t, ht, h2⟩ := Option.map_eq_some_iff.mp h1; cases h2; exact State.takeFrames_wf ht w

theorem State.takeAll_wf {vx1 : Bool} {e : Fkt} {l : List (Nat × Nat)} {addrs ask : List Nat} {s : State} {x : List (Nat × Nat) × List Nat × State}
    (h : State.takeAll vx1 e l addrs ask s = some x) (w : Memory.wf s.mem = true) : Memory.wf x.2.2.mem = true := by
  induction l generalizing addrs ask s x with
  | nil => cases h; exact w
  | cons a t ih =>
    simp only [State.takeAll] at h
    split at h
    · cases h
    · rename_i k s1 h1; obtain ⟨y, hy, rfl⟩ := Option.map_eq_some_iff.mp h; exact (ih hy (State.takeOne_wf h1 w) :)

@[simp] theorem State.putPart_wf (s : State) (q : MemReq) (n : Nat) (cells : List Host.Cell) (w : Memory.wf s.mem = true) : Memory.wf (s.putPart q n cells).mem = true := by
  refine foldl_wf _ _ _ ?_ w
  intro t g h
  (try dsimp only)
  split <;> simp [h]

theorem State.putAlloc_wf {s : State} {vx1 : Bool} {a : FnAlloc} {ask : List Nat} {x : List (Nat × Nat) × List Nat × State}
    (h : s.putAlloc vx1 a ask = some x) (w : Memory.wf s.mem = true) : Memory.wf x.2.2.mem = true := by
  unfold State.putAlloc at h
  obtain ⟨y, hy, h2⟩ := Option.map_eq_some_iff.mp h
  subst h2
  exact foldl_wf _ _ _ (fun _ _ h => State.putPart_wf _ _ _ _ h) (State.takeAll_wf hy w)

theorem State.putAllocs_wf {vx1 : Bool} {l : List FnAlloc} {ask : List Nat} {s : State} {x : List ((Nat × Nat) × Nat × Nat) × State}
    (h : State.putAllocs vx1 l ask s = some x) (w : Memory.wf s.mem = true) : Memory.wf x.2.mem = true := by
  induction l generalizing ask s x with
  | nil => cases h; exact w
  | cons a t ih =>
    simp only [State.putAllocs] at h
    split at h
    · cases h
    · rename_i h1; obtain ⟨y, hy, rfl⟩ := Option.map_eq_some_iff.mp h; exact (ih hy (State.putAlloc_wf h1 w) :)

theorem State.putSeq_wf {s s' : State} {q : FnSeq} (h : s.putSeq q = some s') (w : Memory.wf s.mem = true) : Memory.wf s'.mem = true := by
  simp only [State.putSeq] at h
  split at h
  · cases h
  · cases h; exact foldl_wf _ _ _ (fun _ _ h => State.putPart_wf _ _ _ _ h) (State.doMoves_wf _ _ _ w)

theorem State.putSeqs_wf {s s' : State} {l : List FnSeq} (h : s.putSeqs l = some s') (w : Memory.wf s.mem = true) : Memory.wf s'.mem = true := by
  have go : ∀ (l : List FnSeq) (o : Option State) (t : State), l.foldl (fun o q => o.bind fun t => t.putSeq q) o = some t →
      ∃ u, o = some u ∧ (Memory.wf u.mem = true → Memory.wf t.mem = true) := by
    intro l
    induction l with
    | nil => intro o t h; exact ⟨t, h, id⟩
    | cons q l ih =>
      intro o t h
      obtain ⟨u, hu, e⟩ := ih _ _ h
      obtain ⟨v, hv, e2⟩ := Option.bind_eq_some_iff.mp hu
      exact ⟨v, hv, fun x => e (State.putSeq_wf e2 x)⟩
  obtain ⟨x, hx, rfl⟩ := Option.map_eq_some_iff.mp h
  obtain ⟨u, hu, e⟩ := go _ _ _ hx
  cases hu
  exact State.syncSeqs_wf _ (e w)

@[simp] theorem State.putQueue_mem (s : State) (f : Nat) (e : Nat × Queue) : (State.putQueue s f e).mem = s.mem := by
  simp [State.putQueue]

theorem State.install_wf {s s' : State} {f : Nat} {z : FnImage} {seq : Nat} {ask : List Nat} (h : s.install f z seq ask = some s') (w : Memory.wf s.mem = true) :
    Memory.wf s'.mem = true := by
  simp only [State.install] at h
  split at h
  · cases h
  · obtain ⟨x, hx, h1⟩ := Option.bind_eq_some_iff.mp h
    split at h1
    · cases h1
    · obtain ⟨y, hy, rfl⟩ := Option.map_eq_some_iff.mp h1
      have hk : ∀ (l : List Nat) (g : State → Nat → State) (t : State), (∀ t k, (g t k).mem = t.mem) → (l.foldl g t).mem = t.mem :=
        fun l g t h => foldl_mem _ _ _ h
      have e1 := State.putAllocs_wf hx (by rw [hk _ _ _ (by intro t k; simp)]; exact w)
      have e2 := State.putSeqs_wf hy e1
      have hq : ∀ (l : List (Nat × Queue)) (t : State), (l.foldl (fun t e => t.putQueue f e) t).mem = t.mem := fun l t => foldl_mem _ _ _ (by simp)
      rw [State.settle_mem]
      rw [State.updFn_mem]
      apply State.persistPut_wf
      rw [hq]
      refine foldl_wf _ _ _ (fun t e ht => by simp [ht]) ?_
      exact e2

@[simp] theorem State.claimAll_wf (s : State) (l : List (Nat × Nat × Nat × Fkt)) (w : Memory.wf s.mem = true) : Memory.wf (s.claimAll l).mem = true := by
  unfold State.claimAll
  refine foldl_wf _ _ _ ?_ w
  intro t e ht
  cases h : t.takeFrames e.1 e.2.2.2 ((List.range e.2.2.1).map (e.2.1 + ·)) with
  | none => exact ht
  | some u => exact State.takeFrames_wf h ht

@[simp] theorem State.setRegions_mem (s : State) (z : Regions) : (State.setRegions s z).mem = s.mem := by
  rfl

@[simp] theorem State.placeRegions_wf (s : State) (okm : Memory.wf s.mem = true) : Memory.wf (State.placeRegions s).mem = true := by
  simp [State.placeRegions, okm]

@[simp] theorem State.recoverPersist_wf (s : State) (h : Blob) (okm : Memory.wf s.mem = true) : Memory.wf (State.recoverPersist s h).mem = true := by
  simp [State.recoverPersist, okm]

@[simp] theorem State.formatPersist_wf (s : State) (okm : Memory.wf s.mem = true) : Memory.wf (State.formatPersist s).mem = true := by
  unfold State.formatPersist
  rw [State.drawn_mem]
  exact State.putHeader_wf _ _ (memClear_wf _ _ okm)

@[simp] theorem State.openPersist_wf (s : State) (okm : Memory.wf s.mem = true) : Memory.wf (State.openPersist s).mem = true := by
  simp only [State.openPersist]; repeat' split
  all_goals simp [okm]

@[simp] theorem State.openPorts_mem (s : State) : (State.openPorts s).mem = s.mem := by
  simp [State.openPorts]

@[simp] theorem State.joinRings_mem (s : State) : (State.joinRings s).mem = s.mem := by
  simp [State.joinRings]

@[simp] theorem State.startKeys_mem (s : State) : s.startKeys.mem = s.mem := by
  unfold State.startKeys; apply foldl_mem; intro t k; simp

@[simp] theorem State.markCommitted_mem (s : State) : s.markCommitted.mem = s.mem := by simp [State.markCommitted]

@[simp] theorem State.commitTopo_wf (s : State) (okm : Memory.wf s.mem = true) : Memory.wf (State.commitTopo s).mem = true := by
  simp [State.commitTopo, okm]

@[simp] theorem State.modLoad_mem (s : State) (f : Load → Load) : (State.modLoad s f).mem = s.mem := by
  unfold State.modLoad; split <;> simp

@[simp] theorem State.popLoad_mem (s : State) : (State.popLoad s).mem = s.mem := by
  rfl

@[simp] theorem State.refuseLoad_mem (s : State) (l : Load) (st : Status) : (State.refuseLoad s l st).mem = s.mem := by
  simp only [State.refuseLoad]; repeat' split
  all_goals simp

@[simp] theorem State.drainFor_mem (s : State) (l : Load) : (State.drainFor s l).mem = s.mem := by
  unfold State.drainFor; split <;> simp

@[simp] theorem State.freeCurrent_mem (s : State) (i : Nat) : (State.freeCurrent s i).mem = s.mem := by
  simp [State.freeCurrent]

@[simp] theorem State.turnNow_mem (s : State) : (State.turnNow s).mem = s.mem := by
  simp only [State.turnNow]; repeat' split
  all_goals simp

theorem State.claimVer_mem {s s' : State} {v : ImgVer} {asked l : List Nat} (h : s.claimVer v asked = (some s', l)) : s'.mem = s.mem := by
  simp only [State.claimVer] at h
  split at h
  · cases h; simp
  · cases h

@[simp] theorem State.issueShards_mem (n : Nat) (s : State) : (State.issueShards n s).mem = s.mem := by
  induction n generalizing s with
  | zero => rfl
  | succ n ih => simp only [State.issueShards]; repeat' split
                 all_goals simp [ih]

@[simp] theorem State.beginLoad_mem (s : State) (l : Load) (v : ImgVer) (n : Nat) (current : Bool) (asked : List Nat) :
    (s.beginLoad l v n current asked).mem = s.mem := by
  simp only [State.beginLoad]
  split
  · simp
  · rename_i s3 h
    have e : s3.mem = s.mem := by
      split at h
      · injection h with h; subst h; split <;> simp
      · rw [State.claimVer_mem (l := _) (Prod.ext h rfl)]; split <;> simp
    simp [e]

@[simp] theorem State.modShard_mem (s : State) (i : Nat) (f : Shard → Shard) : (State.modShard s i f).mem = s.mem := by
  simp [State.modShard]

@[simp] theorem State.stageLoad_mem (s : State) (l : Load) (i fail : Nat) (st : Status) : (State.stageLoad s l i fail st).mem = s.mem := by
  rfl

@[simp] theorem State.spoilLoad_mem (s : State) (l : Load) (shard : Nat) : (State.spoilLoad s l shard).mem = s.mem := by
  simp [State.spoilLoad]

@[simp] theorem State.takeShard_mem (s : State) (i : Nat) (x : Shard) (data : Blob) : (State.takeShard s i x data).mem = s.mem := by
  simp only [State.takeShard]; repeat' split
  all_goals simp

@[simp] theorem State.activate_mem (s : State) (l : Load) : (State.activate s l).mem = s.mem := by
  simp [State.activate]

@[simp] theorem State.stallStreams_mem (s : State) : (State.stallStreams s).mem = s.mem := by
  rfl

@[simp] theorem State.needRepair_mem (s : State) (img ver t u : Nat) : (State.needRepair s img ver t u).mem = s.mem := by
  unfold State.needRepair; split <;> simp

@[simp] theorem State.modRepair_mem (s : State) (id : Nat) (f : Repair → Repair) : (State.modRepair s id f).mem = s.mem := by
  rfl

@[simp] theorem State.endRepair_mem (s : State) (id : Nat) : (State.endRepair s id).mem = s.mem := by
  simp [State.endRepair]

@[simp] theorem State.poison_wf (s : State) (img ver : Nat) (okm : Memory.wf s.mem = true) : Memory.wf (State.poison s img ver).mem = true := by
  simp [State.poison, okm]

@[simp] theorem State.askNext_wf (s : State) (p : Repair) (okm : Memory.wf s.mem = true) : Memory.wf (State.askNext s p).mem = true := by
  simp only [State.askNext]; repeat' split
  all_goals simp [okm]

@[simp] theorem State.gotUnit_mem (s : State) (p : Repair) (b : Blob) (host : Bool) : (State.gotUnit s p b host).mem = s.mem := by
  rfl

@[simp] theorem State.readCanonical_mem (s : State) (p : Repair) (manifest data : Blob) : (State.readCanonical s p manifest data).mem = s.mem := by
  unfold State.readCanonical; split <;> simp

theorem State.beginMove_mem {s s' : State} {p : Repair} {k : Option Nat} {l : List (Nat × Nat)} (h : s.beginMove p k l = some s') : s'.mem = s.mem := by
  obtain ⟨f, _, hf⟩ := Option.bind_eq_some_iff.mp h
  split at hf
  · cases hf
    rw [State.modRepair_mem, foldl_mem _ _ _ (by intro t e; simp)]
    simp
  · cases hf

@[simp] theorem State.endMove_mem (s : State) (p : Repair) (m : Nat × Nat × Nat) : (State.endMove s p m).mem = s.mem := by
  simp [State.endMove]

@[simp] theorem State.endMoves_mem (s : State) : (State.endMoves s).mem = s.mem := by
  simp only [State.endMoves]; repeat' split
  all_goals try simp
  all_goals (apply foldl_mem; intro t x; try dsimp only)
  all_goals repeat' split
  all_goals first | (simp; done) | (apply foldl_mem; intro t x; (try dsimp only); (repeat' split) <;> simp)

@[simp] theorem State.queueLoad_mem (s : State) (l : Load) : (State.queueLoad s l).mem = s.mem := by
  simp [State.queueLoad]

@[simp] theorem State.withManifest_mem (s : State) (r : Nat) (c : Cmd) (io : HostIo) (f : State → ImgVer → State)
    (hf : ∀ t v, (f t v).mem = t.mem) : (s.withManifest r c io f).mem = s.mem := by
  unfold State.withManifest
  apply State.withData_mem
  intro t b
  split
  · simp
  · split
    · simp
    · exact hf _ _

@[simp] theorem State.withManifest_wf (s : State) (r : Nat) (c : Cmd) (io : HostIo) (f : State → ImgVer → State) (hf : ∀ t x0, Memory.wf t.mem = true → Memory.wf (f t x0).mem = true) (okm : Memory.wf s.mem = true) : Memory.wf (State.withManifest s r c io f).mem = true := by
  unfold State.withManifest; repeat' first | (simp_all; done) | (intro _) | split | (apply State.withData_wf) | dsimp only

theorem execImgLoad_mem (r : Nat) (io : HostIo) (s : State) : ∃ t, execImgLoad r io s = .next t ∧ t.mem = s.mem := by
  refine ⟨_, rfl, ?_⟩
  repeat' first | (simp; done) | (intro _) | split | apply State.runAdmin_mem | apply State.withManifest_mem | dsimp only

theorem execImgResumeLoad_mem (r : Nat) (_io : HostIo) (s : State) : ∃ t, execImgResumeLoad r _io s = .next t ∧ t.mem = s.mem := by
  refine ⟨_, rfl, ?_⟩
  repeat' first | (simp; done) | (intro _) | split | apply State.runAdmin_mem | dsimp only

theorem execImgReplace_mem (r : Nat) (io : HostIo) (s : State) : ∃ t, execImgReplace r io s = .next t ∧ t.mem = s.mem := by
  refine ⟨_, rfl, ?_⟩
  repeat' first | (simp; done) | (intro _) | split | apply State.runAdmin_mem | apply State.withManifest_mem | dsimp only

theorem execImgDrop_mem (r : Nat) (_io : HostIo) (s : State) : ∃ t, execImgDrop r _io s = .next t ∧ t.mem = s.mem := by
  refine ⟨_, rfl, ?_⟩
  repeat' first | (simp; done) | (intro _) | split | apply State.runAdmin_mem | dsimp only

theorem execImgLoadBegin_mem (frames : List Nat) (s : State) : ∃ t, execImgLoadBegin frames s = .next t ∧ t.mem = s.mem := by
  refine ⟨_, rfl, ?_⟩
  repeat' first | (simp; done) | (intro _) | split | dsimp only

theorem execShardReadDone_mem (shard : Nat) (resp : HostResp) (data : Blob) (s : State) : ∃ t, execShardReadDone shard resp data s = .next t ∧ t.mem = s.mem := by
  refine ⟨_, rfl, ?_⟩
  repeat' first | (simp; done) | (intro _) | split | dsimp only

theorem execShardRetryTimer_mem (shard : Nat) (s : State) : ∃ t, execShardRetryTimer shard s = .next t ∧ t.mem = s.mem := by
  refine ⟨_, rfl, ?_⟩
  repeat' first | (simp; done) | (intro _) | split | dsimp only

theorem execShardTimeout_mem (shard : Nat) (s : State) : ∃ t, execShardTimeout shard s = .next t ∧ t.mem = s.mem := by
  refine ⟨_, rfl, ?_⟩
  repeat' first | (simp; done) | (intro _) | split | dsimp only

theorem execBodyDigestDone_mem (io : HostIo) (s : State) : ∃ t, execBodyDigestDone io s = .next t ∧ t.mem = s.mem := by
  refine ⟨_, rfl, ?_⟩
  repeat' first | (simp; done) | (intro _) | split | dsimp only

theorem execRepairStart_wf (s : State) (okm : Memory.wf s.mem = true) : ∃ t, execRepairStart s = .next t ∧ Memory.wf t.mem = true := by
  refine ⟨_, rfl, ?_⟩
  repeat' first | (simp_all; done) | (intro _) | split | dsimp only

theorem execPeerAnswerTimeout_wf (repair : Nat) (s : State) (okm : Memory.wf s.mem = true) : ∃ t, execPeerAnswerTimeout repair s = .next t ∧ Memory.wf t.mem = true := by
  refine ⟨_, rfl, ?_⟩
  repeat' first | (simp_all; done) | (intro _) | split | dsimp only

theorem execCanonicalReadDone_wf (repair : Nat) (resp : HostResp) (manifest data : Blob) (s : State) (okm : Memory.wf s.mem = true) : ∃ t, execCanonicalReadDone repair resp manifest data s = .next t ∧ Memory.wf t.mem = true := by
  refine ⟨_, rfl, ?_⟩
  repeat' first | (simp_all; done) | (intro _) | split | dsimp only

theorem execRepairReadback_wf (repair : Nat) (rd : Readback) (frame : Option Nat) (s : State) (w : Memory.wf s.mem = true) :
    ∃ t, execRepairReadback repair rd frame s = .next t ∧ Memory.wf t.mem = true := by
  refine ⟨_, rfl, ?_⟩
  split
  · exact w
  · split
    · exact w
    · split
      · simp [w]
      · split
        · rename_i h; simp [State.beginMove_mem h, w]
        · simp [w]

@[simp] theorem State.portRequest_mem (s : State) (q : MemReq) (port : Nat) : (State.portRequest s q port).mem = s.mem := by
  simp only [State.portRequest]; repeat' split
  all_goals simp

@[simp] theorem State.readRequest_mem (s : State) (q : MemReq) : (State.readRequest s q).mem = s.mem := by
  simp only [State.readRequest]; repeat' split
  all_goals simp

@[simp] theorem State.writeRequest_wf (s : State) (q : MemReq) (b : Blob) (okm : Memory.wf s.mem = true) : Memory.wf (State.writeRequest s q b).mem = true := by
  have h : ∀ (p : Nat) (l : List Nat) (y : State × List Nat), (l.foldl (fun (y : State × List Nat) a =>
      let t := y.1.portRequest { q with offset := a, len := 512 } p
      (t, y.2 ++ [p * 1024 + y.1.portTag p])) y).1.mem = y.1.mem := by
    intro p l
    induction l with
    | nil => intro y; rfl
    | cons a l ih => intro y; rw [List.foldl_cons, ih]; simp
  unfold State.writeRequest
  split
  · simp [okm]
  · show Memory.wf (State.mem _) = true
    dsimp only
    rw [h]; exact okm

@[simp] theorem State.serveRequest_wf (s : State) (q : MemReq) (okm : Memory.wf s.mem = true) : Memory.wf (State.serveRequest s q).mem = true := by
  simp only [State.serveRequest]; repeat' split
  all_goals simp [okm]

theorem execMemoryRequest_wf (q : MemReq) (s : State) (okm : Memory.wf s.mem = true) : ∃ t, execMemoryRequest q s = .next t ∧ Memory.wf t.mem = true := by
  refine ⟨_, rfl, ?_⟩
  repeat' first | (simp_all; done) | (intro _) | split | (apply foldl_wf) | dsimp only

@[simp] theorem State.dataBad_wf (s : State) (q : MemReq) (okm : Memory.wf s.mem = true) : Memory.wf (State.dataBad s q).mem = true := by
  simp only [State.dataBad]; repeat' split
  all_goals simp [okm]

@[simp] theorem State.dataGood_wf (s : State) (q : MemReq) (okm : Memory.wf s.mem = true) : Memory.wf (State.dataGood s q).mem = true := by
  unfold State.dataGood; split <;> simp [okm]

@[simp] theorem State.glazeAnswer_wf (s : State) (q : MemReq) (ecc : Ecc) (chk : PathCheck) (k p : Nat) (okm : Memory.wf s.mem = true) : Memory.wf (State.glazeAnswer s q ecc chk k p).mem = true := by
  simp only [State.glazeAnswer]; repeat' split
  all_goals simp [okm]

@[simp] theorem State.writeAnswered_wf (s : State) (x : Nat) (good : Bool) (okm : Memory.wf s.mem = true) : Memory.wf (State.writeAnswered s x good).mem = true := by
  simp only [State.writeAnswered]; repeat' split
  all_goals simp [okm]

theorem execMemoryReadResponse_wf (port tag : Nat) (ecc : Ecc) (chk : PathCheck) (s : State) (okm : Memory.wf s.mem = true) : ∃ t, execMemoryReadResponse port tag ecc chk s = .next t ∧ Memory.wf t.mem = true := by
  refine ⟨_, rfl, ?_⟩
  repeat' first | (simp_all; done) | (intro _) | split | dsimp only

theorem execRekeyWalk_mem (key : Nat) (s : State) : ∃ t, execRekeyWalk key s = .next t ∧ t.mem = s.mem := by
  refine ⟨_, rfl, ?_⟩
  repeat' first | (simp; done) | (intro _) | split | dsimp only

theorem execVarveNodeWriteback_mem (level pos : Nat) (s : State) : ∃ t, execVarveNodeWriteback level pos s = .next t ∧ t.mem = s.mem := by
  refine ⟨_, rfl, ?_⟩
  repeat' first | (simp; done) | (intro _) | split | dsimp only

@[simp] theorem State.newWindow_mem (s : State) : (State.newWindow s).mem = s.mem := by
  rfl

theorem execHotWindowEnd_mem (s : State) : ∃ t, execHotWindowEnd s = .next t ∧ t.mem = s.mem := by
  refine ⟨_, rfl, ?_⟩
  split <;> simp

@[simp] theorem State.movedWorks_mem (s : State) (f dst : Nat × Nat) : (State.movedWorks s f dst).mem = s.mem := by
  rfl

theorem State.moveBytes_wf {s s' : State} {e : Fkt} {a b : Nat × Nat} (h : s.moveBytes e a b = some s') (w : Memory.wf s.mem = true) : Memory.wf s'.mem = true := by
  obtain ⟨t, ht, rfl⟩ := Option.map_eq_some_iff.mp h
  apply State.releaseFrame_wf
  refine foldl_wf _ _ _ (fun u o h => by simp [h]) ?_
  exact memCopy_wf _ _ _ (State.takeFrames_wf ht w)

theorem State.moveFrame_wf {s s' : State} {a b : Nat × Nat} (h : s.moveFrame a b = some s') (w : Memory.wf s.mem = true) : Memory.wf s'.mem = true := by
  unfold State.moveFrame at h
  split at h
  · cases h
  · rename_i s0 h0
    obtain ⟨e, _, he⟩ := Option.bind_eq_some_iff.mp h0
    cases h
    dsimp only
    refine foldl_wf _ _ _ (fun t x h => by simp [h]) ?_
    refine foldl_wf _ _ _ (fun t x h => by simp [h]) ?_
    dsimp only
    rw [State.movedWorks_mem]
    exact State.moveBytes_wf he w

theorem State.vx1Room_wf {s t : State} {fn dest : Nat} (h : s.vx1Room fn dest = some t) (w : Memory.wf s.mem = true) : Memory.wf t.mem = true := by
  unfold State.vx1Room at h
  repeat' split at h
  all_goals first | (cases h; exact w) | skip
  obtain ⟨u, hu, rfl⟩ := Option.map_eq_some_iff.mp h
  rw [State.updFn_mem]; exact State.moveFrame_wf hu w

theorem State.vx1Move_wf {s t : State} {fn frame dest : Nat} (h : s.vx1Move fn frame dest = some t) (w : Memory.wf s.mem = true) : Memory.wf t.mem = true := by
  obtain ⟨u, hu, h2⟩ := Option.bind_eq_some_iff.mp h
  split at h2
  · obtain ⟨v, hv, rfl⟩ := Option.map_eq_some_iff.mp h2
    rw [State.updFn_mem]; exact State.moveFrame_wf hv (State.vx1Room_wf hu w)
  · cases h2

theorem execVx1FrameMove_wf (fn frame dest : Nat) (s : State) (okm : Memory.wf s.mem = true) : ∃ t, execVx1FrameMove fn frame dest s = .next t ∧ Memory.wf t.mem = true := by
  refine ⟨_, rfl, ?_⟩
  split
  · split
    · exact okm
    · rename_i h; rw [State.settle_mem]; exact State.vx1Move_wf h okm
  · exact okm

@[simp] theorem State.nakOnce_mem (s : State) (n : Nat) : (State.nakOnce s n).mem = s.mem := by
  unfold State.nakOnce; split <;> simp

@[simp] theorem State.passOn_mem (s : State) (n stream : Nat) (d : Blob) (r : Nat) : (State.passOn s n stream d r).mem = s.mem := by
  rfl

@[simp] theorem State.beginPass_mem (s : State) (n stream : Nat) (b : Blob) : (State.beginPass s n stream b).mem = s.mem := by
  unfold State.beginPass; split <;> simp

@[simp] theorem State.takeMsgs_mem (n stream f : Nat) (b : Blob) (s : State) : (State.takeMsgs n stream f b s).mem = s.mem := by
  induction f generalizing b s with
  | zero => simp [State.takeMsgs]
  | succ f ih => simp only [State.takeMsgs]; repeat' split
                 all_goals simp [ih]

@[simp] theorem State.holdFrame_mem (s : State) (n i had : Nat) (fresh : Bool) : (State.holdFrame s n i had fresh).mem = s.mem := by
  simp only [State.holdFrame]; repeat' split
  all_goals simp

@[simp] theorem State.takeData_mem (s : State) (n : Nat) (f : Blob) : (State.takeData s n f).mem = s.mem := by
  simp [State.takeData]

@[simp] theorem State.ackFrame_mem (s : State) (n before : Nat) : (State.ackFrame s n before).mem = s.mem := by
  unfold State.ackFrame; split <;> simp

theorem execFrameReceive_mem (link : Nat) (frame : Blob) (s : State) : ∃ t, execFrameReceive link frame s = .next t ∧ t.mem = s.mem := by
  refine ⟨_, rfl, ?_⟩
  repeat' first | (simp; done) | (intro _) | split | dsimp only

theorem execAckTimeout_mem (link : Nat) (s : State) : ∃ t, execAckTimeout link s = .next t ∧ t.mem = s.mem := by
  refine ⟨_, rfl, ?_⟩
  split <;> simp

@[simp] theorem State.arrived_mem (s : State) (link : Nat) (m : FloeMsg) (typ : Nat) (f : State → State) (hf : ∀ t , (f t ).mem = t.mem) : (State.arrived s link m typ f).mem = s.mem := by
  simp only [State.arrived]; repeat' split
  all_goals simp [hf]

@[simp] theorem State.arrived_wf (s : State) (link : Nat) (m : FloeMsg) (typ : Nat) (f : State → State) (hf : ∀ t , Memory.wf t.mem = true → Memory.wf (f t ).mem = true) (okm : Memory.wf s.mem = true) : Memory.wf (State.arrived s link m typ f).mem = true := by
  simp only [State.arrived]; repeat' split
  all_goals simp [okm, hf]

theorem execReadReq_mem (link : Nat) (m : FloeMsg) (ecc : Ecc) (s : State) : ∃ t, execReadReq link m ecc s = .next t ∧ t.mem = s.mem := by
  refine ⟨_, rfl, ?_⟩
  repeat' first | (simp; done) | (intro _) | split | apply State.arrived_mem | dsimp only

theorem execWriteReq_wf (link : Nat) (m : FloeMsg) (ecc : Ecc) (s : State) (okm : Memory.wf s.mem = true) : ∃ t, execWriteReq link m ecc s = .next t ∧ Memory.wf t.mem = true := by
  refine ⟨_, rfl, ?_⟩
  repeat' first | (simp_all; done) | (intro _) | split | (apply State.arrived_wf) | dsimp only

theorem execPeerReq_mem (link : Nat) (m : FloeMsg) (s : State) : ∃ t, execPeerReq link m s = .next t ∧ t.mem = s.mem := by
  refine ⟨_, rfl, ?_⟩
  repeat' first | (simp; done) | (intro _) | split | apply State.arrived_mem | dsimp only

@[simp] theorem State.pumpRemotes_wf (s : State) (okm : Memory.wf s.mem = true) : Memory.wf (State.pumpRemotes s).mem = true := by
  unfold State.pumpRemotes; repeat' first | (simp_all; done) | (intro _) | split | (apply foldl_wf) | dsimp only

@[simp] theorem State.remoteMoved_wf (s : State) (q : MemReq) (okm : Memory.wf s.mem = true) : Memory.wf (s.remoteMoved q).mem = true := by
  unfold State.remoteMoved
  split
  · apply State.pumpRemotes_wf; apply State.workMoved_wf; simp [okm]
  · simp [okm]

@[simp] theorem State.floeStale_mem (s : State) : (State.floeStale s).mem = s.mem := by
  rfl

@[simp] theorem State.remoteAnswer_wf (s : State) (m : FloeMsg) (write : Bool) (okm : Memory.wf s.mem = true) : Memory.wf (State.remoteAnswer s m write).mem = true := by
  simp only [State.remoteAnswer]; repeat' split
  all_goals simp [okm]

theorem execReadResp_wf (link : Nat) (m : FloeMsg) (s : State) (okm : Memory.wf s.mem = true) : ∃ t, execReadResp link m s = .next t ∧ Memory.wf t.mem = true := by
  refine ⟨_, rfl, ?_⟩
  repeat' first | (simp_all; done) | (intro _) | split | (apply State.arrived_wf) | dsimp only

theorem execWriteAck_wf (link : Nat) (m : FloeMsg) (s : State) (okm : Memory.wf s.mem = true) : ∃ t, execWriteAck link m s = .next t ∧ Memory.wf t.mem = true := by
  refine ⟨_, rfl, ?_⟩
  repeat' first | (simp_all; done) | (intro _) | split | (apply State.arrived_wf) | dsimp only

theorem execPeerResp_wf (link : Nat) (m : FloeMsg) (s : State) (okm : Memory.wf s.mem = true) : ∃ t, execPeerResp link m s = .next t ∧ Memory.wf t.mem = true := by
  refine ⟨_, rfl, ?_⟩
  repeat' first | (simp_all; done) | (intro _) | split | (apply State.arrived_wf) | dsimp only

theorem execHello_mem (link : Nat) (m : FloeMsg) (s : State) : ∃ t, execHello link m s = .next t ∧ t.mem = s.mem := by
  refine ⟨_, rfl, ?_⟩
  repeat' first | (simp; done) | (intro _) | split | dsimp only

theorem execLanesReady_mem (link : Nat) (s : State) : ∃ t, execLanesReady link s = .next t ∧ t.mem = s.mem := by
  refine ⟨_, rfl, ?_⟩
  repeat' first | (simp; done) | (intro _) | split | dsimp only

theorem execLinkSignalLost_mem (link : Nat) (s : State) : ∃ t, execLinkSignalLost link s = .next t ∧ t.mem = s.mem := by
  refine ⟨_, rfl, ?_⟩
  repeat' first | (simp; done) | (intro _) | split | dsimp only

theorem execTrainTimeout_mem (link : Nat) (s : State) : ∃ t, execTrainTimeout link s = .next t ∧ t.mem = s.mem := by
  refine ⟨_, rfl, ?_⟩
  repeat' first | (simp; done) | (intro _) | split | dsimp only

@[simp] theorem State.ringWrite_mem (s : State) (k action : Nat) : (State.ringWrite s k action).mem = s.mem := by
  simp only [State.ringWrite]; repeat' split
  all_goals simp

theorem execRingJoinRequest_mem (ring : Nat) (s : State) : ∃ t, execRingJoinRequest ring s = .next t ∧ t.mem = s.mem := by
  refine ⟨_, rfl, ?_⟩
  simp

theorem execRingReleaseRequest_mem (ring : Nat) (s : State) : ∃ t, execRingReleaseRequest ring s = .next t ∧ t.mem = s.mem := by
  refine ⟨_, rfl, ?_⟩
  simp

theorem execRingJoin_mem (ring : Nat) (s : State) : ∃ t, execRingJoin ring s = .next t ∧ t.mem = s.mem := by
  refine ⟨_, rfl, ?_⟩
  repeat' first | (simp; done) | (intro _) | split | dsimp only

theorem execJoinTimeout_mem (ring : Nat) (s : State) : ∃ t, execJoinTimeout ring s = .next t ∧ t.mem = s.mem := by
  refine ⟨_, rfl, ?_⟩
  repeat' first | (simp; done) | (intro _) | split | dsimp only

theorem execCensus_mem (link : Nat) (m : FloeMsg) (s : State) : ∃ t, execCensus link m s = .next t ∧ t.mem = s.mem := by
  refine ⟨_, rfl, ?_⟩
  repeat' first | (simp; done) | (intro _) | split | dsimp only

theorem execCensusResendTimer_mem (ring : Nat) (s : State) : ∃ t, execCensusResendTimer ring s = .next t ∧ t.mem = s.mem := by
  refine ⟨_, rfl, ?_⟩
  repeat' first | (simp; done) | (intro _) | split | dsimp only

theorem execE2eTimerExpiry_wf (tag : Nat) (s : State) (okm : Memory.wf s.mem = true) : ∃ t, execE2eTimerExpiry tag s = .next t ∧ Memory.wf t.mem = true := by
  refine ⟨_, rfl, ?_⟩
  repeat' first | (simp_all; done) | (intro _) | split | dsimp only

theorem execRingHoldExpiry_wf (tag : Nat) (s : State) (okm : Memory.wf s.mem = true) : ∃ t, execRingHoldExpiry tag s = .next t ∧ Memory.wf t.mem = true := by
  refine ⟨_, rfl, ?_⟩
  repeat' first | (simp_all; done) | (intro _) | split | dsimp only

@[simp] theorem State.updBox_mem (s : State) (f : Nat) (g : Mailbox → Mailbox) : (State.updBox s f g).mem = s.mem := by
  rfl

@[simp] theorem State.doeAnswer_mem (s : State) (f : Nat) (b : Blob) : (State.doeAnswer s f b).mem = s.mem := by
  rfl

theorem execDoeObject_mem (fn : Nat) (data : Blob) (s : State) : ∃ t, execDoeObject fn data s = .next t ∧ t.mem = s.mem := by
  refine ⟨_, rfl, ?_⟩
  repeat' first | (simp; done) | (intro _) | split | apply State.config_mem | dsimp only

theorem execDoeAbort_mem (fn : Nat) (s : State) : ∃ t, execDoeAbort fn s = .next t ∧ t.mem = s.mem := by
  refine ⟨_, rfl, ?_⟩
  repeat' first | (simp; done) | (intro _) | split | apply State.config_mem | dsimp only

@[simp] theorem State.signedAnswer_mem (s : State) (f code p1 p2 : Nat) (body : Blob) : (State.signedAnswer s f code p1 p2 body).mem = s.mem := by
  rfl

@[simp] theorem State.modSession_mem (s : State) (n : Nat) (g : Session → Session) : (State.modSession s n g).mem = s.mem := by
  rfl

@[simp] theorem State.endSession_mem (s : State) (n : Nat) : (State.endSession s n).mem = s.mem := by
  rfl

@[simp] theorem State.endSessions_mem (s : State) (f : Nat) : (State.endSessions s f).mem = s.mem := by
  rfl

@[simp] theorem State.secured_mem (s : State) (f n : Nat) (m : Blob) : (State.secured s f n m).mem = s.mem := by
  unfold State.secured; split <;> simp

@[simp] theorem State.newSecret_mem (s : State) (n : Nat) : (State.newSecret s n).mem = s.mem := by
  rfl

@[simp] theorem State.keyExchange_mem (s : State) (f req : Nat) : (State.keyExchange s f req).mem = s.mem := by
  unfold State.keyExchange; split <;> simp

@[simp] theorem State.established_mem (s : State) (f n : Nat) (who : Option Blob) : (State.established s f n who).mem = s.mem := by
  simp [State.established]

@[simp] theorem State.finishSession_mem (s : State) (f n : Nat) (auth : Option Blob) : (State.finishSession s f n auth).mem = s.mem := by
  simp only [State.finishSession]; repeat' split
  all_goals simp

@[simp] theorem State.keyUpdate_mem (s : State) (f n op tag : Nat) : (State.keyUpdate s f n op tag).mem = s.mem := by
  simp only [State.keyUpdate]; repeat' split
  all_goals simp

@[simp] theorem State.agreed_mem (s : State) (f : Nat) (g : State → State) (hg : ∀ t , (g t ).mem = t.mem) : (State.agreed s f g).mem = s.mem := by
  unfold State.agreed; split <;> simp [hg]

@[simp] theorem State.agreed_wf (s : State) (f : Nat) (g : State → State) (hg : ∀ t , Memory.wf t.mem = true → Memory.wf (g t ).mem = true) (okm : Memory.wf s.mem = true) : Memory.wf (State.agreed s f g).mem = true := by
  unfold State.agreed; split <;> simp [okm, hg]

@[simp] theorem State.inSession_mem (s : State) (f n : Nat) (g : State → State) (hg : ∀ t , (g t ).mem = t.mem) : (State.inSession s f n g).mem = s.mem := by
  unfold State.inSession; split <;> simp [hg]

@[simp] theorem State.inSession_wf (s : State) (f n : Nat) (g : State → State) (hg : ∀ t , Memory.wf t.mem = true → Memory.wf (g t ).mem = true) (okm : Memory.wf s.mem = true) : Memory.wf (State.inSession s f n g).mem = true := by
  unfold State.inSession; split <;> simp [okm, hg]

@[simp] theorem State.onSlot0_mem (s : State) (f slot : Nat) (g : State → State) (hg : ∀ t , (g t ).mem = t.mem) : (State.onSlot0 s f slot g).mem = s.mem := by
  unfold State.onSlot0; split <;> simp [hg]

@[simp] theorem State.onSlot0_wf (s : State) (f slot : Nat) (g : State → State) (hg : ∀ t , Memory.wf t.mem = true → Memory.wf (g t ).mem = true) (okm : Memory.wf s.mem = true) : Memory.wf (State.onSlot0 s f slot g).mem = true := by
  simp only [State.onSlot0]; repeat' split
  all_goals simp_all

@[simp] theorem State.spdmAnswer_mem (s : State) (f : Nat) (m : SpdmMsg) : (s.spdmAnswer f m).mem = s.mem := by
  cases m <;> simp only [State.spdmAnswer] <;> repeat' split
  all_goals simp

@[simp] theorem State.spdmAnswer_wf (s : State) (f : Nat) (m : SpdmMsg) (w : Memory.wf s.mem = true) : Memory.wf (s.spdmAnswer f m).mem = true := by
  cases m <;> simp only [State.spdmAnswer] <;> repeat' split
  all_goals simp [w]

theorem execSpdmMessage_mem (fn : Nat) (msg : SpdmMsg) (s : State) : ∃ t, execSpdmMessage fn msg s = .next t ∧ t.mem = s.mem := by
  refine ⟨_, rfl, ?_⟩
  split <;> simp

theorem execGetMeasurements_mem (fn index : Nat) (signed : Bool) (s : State) : ∃ t, execGetMeasurements fn index signed s = .next t ∧ t.mem = s.mem := by
  refine ⟨_, rfl, ?_⟩
  split
  · rfl
  · rw [State.agreed_mem]
    · simp
    · intro t
      split
      · simp
      · dsimp only
        split <;> simp

@[simp] theorem State.vendorAnswer_mem (s : State) (f : Nat) (ses : Option Nat) (result : Nat) (body : Blob) : (State.vendorAnswer s f ses result body).mem = s.mem := by
  unfold State.vendorAnswer; split <;> simp

theorem execKeyPut_mem (fn : Nat) (session : Option Nat) (payload : Blob) (s : State) : ∃ t, execKeyPut fn session payload s = .next t ∧ t.mem = s.mem := by
  refine ⟨_, rfl, ?_⟩
  repeat' first | (simp; done) | (intro _) | split | dsimp only

theorem execKeyInfo_mem (fn : Nat) (session : Option Nat) (payload : Blob) (s : State) : ∃ t, execKeyInfo fn session payload s = .next t ∧ t.mem = s.mem := by
  refine ⟨_, rfl, ?_⟩
  repeat' first | (simp; done) | (intro _) | split | dsimp only

theorem execKeyClear_mem (fn : Nat) (session : Option Nat) (payload : Blob) (s : State) : ∃ t, execKeyClear fn session payload s = .next t ∧ t.mem = s.mem := by
  refine ⟨_, rfl, ?_⟩
  repeat' first | (simp; done) | (intro _) | split | dsimp only

theorem execMigPut_mem (fn : Nat) (session : Option Nat) (payload : Blob) (s : State) : ∃ t, execMigPut fn session payload s = .next t ∧ t.mem = s.mem := by
  refine ⟨_, rfl, ?_⟩
  repeat' first | (simp; done) | (intro _) | split | dsimp only

theorem execMigClear_mem (fn : Nat) (session : Option Nat) (payload : Blob) (s : State) : ∃ t, execMigClear fn session payload s = .next t ∧ t.mem = s.mem := by
  refine ⟨_, rfl, ?_⟩
  repeat' first | (simp; done) | (intro _) | split | dsimp only

theorem execTopoWrite_mem (r : Nat) (io : HostIo) (s : State) : ∃ t, execTopoWrite r io s = .next t ∧ t.mem = s.mem := by
  refine ⟨_, rfl, ?_⟩
  repeat' first | (simp; done) | (intro _) | split | apply State.runAdmin_mem | apply State.withData_mem | apply State.answer_mem | apply State.stageFor_mem | dsimp only

theorem execTopoCommit_wf (r : Nat) (io : HostIo) (s : State) (okm : Memory.wf s.mem = true) : ∃ t, execTopoCommit r io s = .next t ∧ Memory.wf t.mem = true := by
  refine ⟨_, rfl, ?_⟩
  repeat' first | (simp_all; done) | (intro _) | split | (apply State.runAdmin_wf) | (apply State.answer_wf) | dsimp only

theorem execConfigSet_mem (r : Nat) (io : HostIo) (s : State) : ∃ t, execConfigSet r io s = .next t ∧ t.mem = s.mem := by
  refine ⟨_, rfl, ?_⟩
  repeat' first | (simp; done) | (intro _) | split | apply State.runAdmin_mem | apply State.stageFor_mem | dsimp only

theorem execConfigAdopt_mem (engine : Nat) (_io : HostIo) (s : State) : ∃ t, execConfigAdopt engine _io s = .next t ∧ t.mem = s.mem := by
  refine ⟨_, rfl, ?_⟩
  split <;> simp

theorem execPwrState_mem (r : Nat) (_io : HostIo) (s : State) : ∃ t, execPwrState r _io s = .next t ∧ t.mem = s.mem := by
  refine ⟨_, rfl, ?_⟩
  repeat' first | (simp; done) | (intro _) | split | apply State.runAdmin_mem | dsimp only

@[simp] theorem State.markHeader_wf (s : State) (clean : Bool) (okm : Memory.wf s.mem = true) : Memory.wf (State.markHeader s clean).mem = true := by
  unfold State.markHeader; split <;> simp [okm]

@[simp] theorem State.powerDown_mem (s : State) (k : PwrSt) : (State.powerDown s k).mem = s.mem := by
  rfl

theorem execPowerStateEntry_wf (s : State) (okm : Memory.wf s.mem = true) : ∃ t, execPowerStateEntry s = .next t ∧ Memory.wf t.mem = true := by
  refine ⟨_, rfl, ?_⟩
  repeat' first | (simp_all; done) | (intro _) | split | (apply foldl_wf) | dsimp only

theorem execPwrLimit_mem (r : Nat) (_io : HostIo) (s : State) : ∃ t, execPwrLimit r _io s = .next t ∧ t.mem = s.mem := by
  refine ⟨_, rfl, ?_⟩
  repeat' first | (simp; done) | (intro _) | split | apply State.runAdmin_mem | dsimp only

@[simp] theorem State.restartForPatch_mem (s : State) : (State.restartForPatch s).mem = s.mem := by
  rfl

@[simp] theorem State.loadPatch_mem (s : State) (r : Nat) (c : Cmd) (io : HostIo) (image : Blob) (svn : Nat) : (State.loadPatch s r c io image svn).mem = s.mem := by
  simp only [State.loadPatch]; repeat' split
  all_goals simp

theorem execPatchLoad_mem (r : Nat) (io : HostIo) (s : State) : ∃ t, execPatchLoad r io s = .next t ∧ t.mem = s.mem := by
  refine ⟨_, rfl, ?_⟩
  repeat' first | (simp; done) | (intro _) | split | apply State.runAdmin_mem | apply State.withData_mem | dsimp only

@[simp] theorem State.newChallenge_mem (s : State) : (State.newChallenge s).mem = s.mem := by
  rfl

theorem execMonUnlock_mem (r : Nat) (_io : HostIo) (s : State) : ∃ t, execMonUnlock r _io s = .next t ∧ t.mem = s.mem := by
  refine ⟨_, rfl, ?_⟩
  repeat' first | (simp; done) | (intro _) | split | apply State.runAdmin_mem | dsimp only

@[simp] theorem State.banner_mem (s : State) : (State.banner s).mem = s.mem := by
  rfl

@[simp] theorem State.tarnStart_mem (s : State) : (State.tarnStart s).mem = s.mem := by
  rfl

theorem execRailFault_wf (engine : Nat) (s : State) (okm : Memory.wf s.mem = true) : ∃ t, execRailFault engine s = .next t ∧ Memory.wf t.mem = true := by
  refine ⟨_, rfl, ?_⟩
  split <;> simp [okm]

theorem execStallSentinelExpiry_wf (engine : Nat) (s : State) (okm : Memory.wf s.mem = true) : ∃ t, execStallSentinelExpiry engine s = .next t ∧ Memory.wf t.mem = true := by
  refine ⟨_, rfl, ?_⟩
  split <;> simp [okm]

@[simp] theorem State.sample_wf (s : State) (okm : Memory.wf s.mem = true) : Memory.wf (State.sample s).mem = true := by
  unfold State.sample; repeat' first | (simp_all; done) | (intro _) | split | (apply foldl_wf) | dsimp only

theorem execProgressSample_wf (s : State) (w : Memory.wf s.mem = true) : ∃ t, execProgressSample s = .next t ∧ Memory.wf t.mem = true := by
  refine ⟨_, rfl, ?_⟩
  split
  · exact w
  · rw [State.settle_mem]
    refine foldl_wf _ _ _ ?_ (by simp [w])
    intro t e ht
    split <;> simp [ht]

theorem execHeartbeat_mem (s : State) : ∃ t, execHeartbeat s = .next t ∧ t.mem = s.mem := by
  refine ⟨_, rfl, ?_⟩
  split <;> simp

theorem execHeartbeatWatchdogExpiry_wf (s : State) (okm : Memory.wf s.mem = true) : ∃ t, execHeartbeatWatchdogExpiry s = .next t ∧ Memory.wf t.mem = true := by
  refine ⟨_, rfl, ?_⟩
  split <;> simp [okm]

theorem execEngineResetComplete_wf (engine : Nat) (s : State) (okm : Memory.wf s.mem = true) : ∃ t, execEngineResetComplete engine s = .next t ∧ Memory.wf t.mem = true := by
  refine ⟨_, rfl, ?_⟩
  repeat' first | (simp_all; done) | (intro _) | split | dsimp only

theorem execContextResetDeadline_wf (ctx : Nat) (s : State) (okm : Memory.wf s.mem = true) : ∃ t, execContextResetDeadline ctx s = .next t ∧ Memory.wf t.mem = true := by
  refine ⟨_, rfl, ?_⟩
  repeat' first | (simp_all; done) | (intro _) | split | (apply foldl_wf) | dsimp only

theorem execEngineResetDeadline_wf (engine : Nat) (s : State) (okm : Memory.wf s.mem = true) : ∃ t, execEngineResetDeadline engine s = .next t ∧ Memory.wf t.mem = true := by
  refine ⟨_, rfl, ?_⟩
  repeat' first | (simp_all; done) | (intro _) | split | dsimp only

theorem execComputeDomainResetComplete_wf (s : State) (okm : Memory.wf s.mem = true) : ∃ t, execComputeDomainResetComplete s = .next t ∧ Memory.wf t.mem = true := by
  refine ⟨_, rfl, ?_⟩
  repeat' first | (simp_all; done) | (intro _) | split | dsimp only

theorem execComputeDomainResetDeadline_wf (s : State) (okm : Memory.wf s.mem = true) : ∃ t, execComputeDomainResetDeadline s = .next t ∧ Memory.wf t.mem = true := by
  refine ⟨_, rfl, ?_⟩
  repeat' first | (simp_all; done) | (intro _) | split | dsimp only

@[simp] theorem State.afterRestart_wf (s : State) (r : Nat) (okm : Memory.wf s.mem = true) : Memory.wf (State.afterRestart s r).mem = true := by
  simp only [State.afterRestart]; repeat' split
  all_goals simp [okm]

@[simp] theorem State.restartDone_wf (s : State) (x : Rst) (w : Memory.wf s.mem = true) : Memory.wf (s.restartDone x).mem = true := by
  have h : ∀ (l : List Nat) (t : State), Memory.wf t.mem = true → Memory.wf (l.foldl State.afterRestart t).mem = true := fun l t => foldl_wf _ _ _ (fun t e h => by simp [h])
  unfold State.restartDone
  dsimp only
  rw [State.adoptAll_mem]
  split
  · exact h _ _ (by simp [w])
  · rw [State.closeIfOpen_mem]
    exact h _ _ (by simp [w])

theorem execTarnRestartComplete_wf (s : State) (okm : Memory.wf s.mem = true) : ∃ t, execTarnRestartComplete s = .next t ∧ Memory.wf t.mem = true := by
  refine ⟨_, rfl, ?_⟩
  repeat' first | (simp_all; done) | (intro _) | split | dsimp only

theorem execTarnRestartDeadline_wf (s : State) (okm : Memory.wf s.mem = true) : ∃ t, execTarnRestartDeadline s = .next t ∧ Memory.wf t.mem = true := by
  refine ⟨_, rfl, ?_⟩
  repeat' first | (simp_all; done) | (intro _) | split | dsimp only

@[simp] theorem State.engineRequest_wf (s : State) (engine : Nat) (okm : Memory.wf s.mem = true) : Memory.wf (State.engineRequest s engine).mem = true := by
  unfold State.engineRequest; split <;> simp [okm]

theorem execEngineResetRequest_wf (engine : Nat) (s : State) (okm : Memory.wf s.mem = true) : ∃ t, execEngineResetRequest engine s = .next t ∧ Memory.wf t.mem = true := by
  refine ⟨_, rfl, ?_⟩
  repeat' first | (simp_all; done) | (intro _) | split | (apply State.access_wf) | dsimp only

@[simp] theorem State.domainRequest_wf (s : State) (okm : Memory.wf s.mem = true) : Memory.wf (State.domainRequest s).mem = true := by
  unfold State.domainRequest; split <;> simp [okm]

theorem execComputeDomainResetRequest_wf (s : State) (okm : Memory.wf s.mem = true) : ∃ t, execComputeDomainResetRequest s = .next t ∧ Memory.wf t.mem = true := by
  refine ⟨_, rfl, ?_⟩
  repeat' first | (simp_all; done) | (intro _) | split | (apply State.access_wf) | dsimp only

@[simp] theorem State.resetHead_mem (s : State) (value : Nat) : (State.resetHead s value).mem = s.mem := by
  simp only [State.resetHead]; repeat' split
  all_goals simp

theorem execResetHeadWrite_mem (value : Nat) (s : State) : ∃ t, execResetHeadWrite value s = .next t ∧ t.mem = s.mem := by
  refine ⟨_, rfl, ?_⟩
  simp

theorem execSqFetch_mem (q : Nat) (s : State) : ∃ t, execSqFetch q s = .next t ∧ t.mem = s.mem := by
  refine ⟨_, rfl, ?_⟩
  repeat' first | (simp; done) | (intro _) | split | dsimp only

theorem execSqFetchDone_mem (q : Nat) (entries : List Blob) (resp : HostResp) (s : State) : ∃ t, execSqFetchDone q entries resp s = .next t ∧ t.mem = s.mem := by
  refine ⟨_, rfl, ?_⟩
  repeat' first | (simp; done) | (intro _) | split | dsimp only

theorem execAdmitEntry_wf (q : Nat) (rd : BatchRead) (away : Blob) (s : State) (okm : Memory.wf s.mem = true) : ∃ t, execAdmitEntry q rd away s = .next t ∧ Memory.wf t.mem = true := by
  refine ⟨_, rfl, ?_⟩
  simp [okm]

theorem execDispatch_mem (r : Nat) (s : State) : ∃ t, execDispatch r s = .next t ∧ t.mem = s.mem := by
  refine ⟨_, rfl, ?_⟩
  repeat' first | (simp; done) | (intro _) | split | (simp only [State.settle_mem]) | dsimp only

theorem execCommandComplete_wf (r : Nat) (s : State) (okm : Memory.wf s.mem = true) : ∃ t, execCommandComplete r s = .next t ∧ Memory.wf t.mem = true := by
  refine ⟨_, rfl, ?_⟩
  repeat' first | (simp_all; done) | (intro _) | split | dsimp only

theorem execReceiptAppend_wf (r : Nat) (s : State) (okm : Memory.wf s.mem = true) : ∃ t, execReceiptAppend r s = .next t ∧ Memory.wf t.mem = true := by
  refine ⟨_, rfl, ?_⟩
  repeat' first | (simp_all; done) | (intro _) | split | dsimp only

@[simp] theorem State.completeOut_mem (s : State) (r : Nat) (c : Cmd) : (State.completeOut s r c).mem = s.mem := by
  simp [State.completeOut]

theorem execCqeWrite_wf (r : Nat) (s : State) (okm : Memory.wf s.mem = true) : ∃ t, execCqeWrite r s = .next t ∧ Memory.wf t.mem = true := by
  refine ⟨_, rfl, ?_⟩
  repeat' first | (simp_all; done) | (intro _) | split | dsimp only

theorem execCqConfirmReadDone_mem (q : Nat) (resp : HostResp) (s : State) : ∃ t, execCqConfirmReadDone q resp s = .next t ∧ t.mem = s.mem := by
  refine ⟨_, rfl, ?_⟩
  repeat' first | (simp; done) | (intro _) | split | dsimp only

theorem execEventEntryWrite_mem (fn : Nat) (s : State) : ∃ t, execEventEntryWrite fn s = .next t ∧ t.mem = s.mem := by
  refine ⟨_, rfl, ?_⟩
  simp

theorem execIntTimeExpiry_mem (q : Nat) (s : State) : ∃ t, execIntTimeExpiry q s = .next t ∧ t.mem = s.mem := by
  refine ⟨_, rfl, ?_⟩
  repeat' first | (simp; done) | (intro _) | split | dsimp only

theorem execCommandDeadlineExpiry_wf (r : Nat) (s : State) (okm : Memory.wf s.mem = true) : ∃ t, execCommandDeadlineExpiry r s = .next t ∧ Memory.wf t.mem = true := by
  refine ⟨_, rfl, ?_⟩
  repeat' first | (simp_all; done) | (intro _) | split | dsimp only

theorem execDrainComplete_wf (r : Nat) (s : State) (okm : Memory.wf s.mem = true) : ∃ t, execDrainComplete r s = .next t ∧ Memory.wf t.mem = true := by
  refine ⟨_, rfl, ?_⟩
  repeat' first | (simp_all; done) | (intro _) | split | dsimp only

theorem execDrainWindowExpiry_wf (r : Nat) (s : State) (okm : Memory.wf s.mem = true) : ∃ t, execDrainWindowExpiry r s = .next t ∧ Memory.wf t.mem = true := by
  refine ⟨_, rfl, ?_⟩
  repeat' first | (simp_all; done) | (intro _) | split | (apply foldl_wf) | dsimp only

theorem execPersistWriteDone_wf (s : State) (okm : Memory.wf s.mem = true) : ∃ t, execPersistWriteDone s = .next t ∧ Memory.wf t.mem = true := by
  refine ⟨_, rfl, ?_⟩
  repeat' first | (simp_all; done) | (intro _) | split | dsimp only

@[simp] theorem State.holdupBegin_mem (s : State) : (State.holdupBegin s).mem = s.mem := by
  rfl

@[simp] theorem State.holdupState_mem (s : State) : (State.holdupState s).mem = s.mem := by
  rfl

theorem execHoldupFall_mem (ns : Nat) (s : State) : ∃ t, execHoldupFall ns s = .next t ∧ t.mem = s.mem := by
  refine ⟨_, rfl, ?_⟩
  repeat' first | (simp; done) | (intro _) | split | dsimp only

@[simp] theorem State.leaveRings_mem (s : State) : (State.leaveRings s).mem = s.mem := by
  simp [State.leaveRings]

theorem execLedgerFlushDone_wf (s : State) (okm : Memory.wf s.mem = true) : ∃ t, execLedgerFlushDone s = .next t ∧ Memory.wf t.mem = true := by
  refine ⟨_, rfl, ?_⟩
  repeat' first | (simp_all; done) | (intro _) | split | dsimp only

theorem execHoldupRise_mem (ns : Nat) (s : State) : ∃ t, execHoldupRise ns s = .next t ∧ t.mem = s.mem := by
  refine ⟨_, rfl, ?_⟩
  split <;> simp

theorem execHoldupEnd_mem (s : State) : ∃ t, execHoldupEnd s = .next t ∧ t.mem = s.mem := by
  refine ⟨_, rfl, ?_⟩
  repeat' first | (simp; done) | (intro _) | split | dsimp only

theorem execWake_mem (src : WakeSrc) (s : State) : ∃ t, execWake src s = .next t ∧ t.mem = s.mem := by
  refine ⟨_, rfl, ?_⟩
  repeat' first | (simp; done) | (intro _) | split | dsimp only

@[simp] theorem State.endWake_wf (s : State) (okm : Memory.wf s.mem = true) : Memory.wf (State.endWake s).mem = true := by
  simp only [State.endWake]; repeat' split
  all_goals simp [okm]

@[simp] theorem State.holdBegins_mem (s : State) : (State.holdBegins s).mem = s.mem := by
  unfold State.holdBegins; split <;> simp

theorem execPwrGoodFall_mem (ns : Nat) (s : State) : ∃ t, execPwrGoodFall ns s = .next t ∧ t.mem = s.mem := by
  refine ⟨_, rfl, ?_⟩
  repeat' first | (simp; done) | (intro _) | split | apply foldl_mem | dsimp only

theorem execBrownoutHoldEnter_mem (mv : Nat) (s : State) : ∃ t, execBrownoutHoldEnter mv s = .next t ∧ t.mem = s.mem := by
  refine ⟨_, rfl, ?_⟩
  split <;> simp

@[simp] theorem State.atReset_wf (s : State) (cold : Bool) (w : Memory.wf s.mem = true) : Memory.wf (s.atReset cold).mem = true := filter_wf _ w

@[simp] theorem State.relevel_wf (s : State) (okm : Memory.wf s.mem = true) : Memory.wf (State.relevel s).mem = true := by
  simp only [State.relevel]; repeat' split
  all_goals simp [okm]

theorem execColdResetAssert_wf (ns : Nat) (s : State) (okm : Memory.wf s.mem = true) : ∃ t, execColdResetAssert ns s = .next t ∧ Memory.wf t.mem = true := by
  refine ⟨_, rfl, ?_⟩
  split <;> simp [okm]

theorem execColdResetRelease_wf (ns : Nat) (s : State) (okm : Memory.wf s.mem = true) : ∃ t, execColdResetRelease ns s = .next t ∧ Memory.wf t.mem = true := by
  refine ⟨_, rfl, ?_⟩
  split <;> simp [okm]

theorem execWarmResetAssert_wf (ns : Nat) (s : State) (okm : Memory.wf s.mem = true) : ∃ t, execWarmResetAssert ns s = .next t ∧ Memory.wf t.mem = true := by
  refine ⟨_, rfl, ?_⟩
  split <;> simp [okm]

theorem execWarmResetRelease_wf (ns : Nat) (s : State) (okm : Memory.wf s.mem = true) : ∃ t, execWarmResetRelease ns s = .next t ∧ Memory.wf t.mem = true := by
  refine ⟨_, rfl, ?_⟩
  split <;> simp [okm]

theorem execVoltageMonitorReset_wf (rail : Rail) (mv : Nat) (s : State) (okm : Memory.wf s.mem = true) : ∃ t, execVoltageMonitorReset rail mv s = .next t ∧ Memory.wf t.mem = true := by
  refine ⟨_, rfl, ?_⟩
  repeat' first | (simp_all; done) | (intro _) | split | dsimp only

theorem execVoltageMonitorRelease_wf (rail : Rail) (mv : Nat) (s : State) (okm : Memory.wf s.mem = true) : ∃ t, execVoltageMonitorRelease rail mv s = .next t ∧ Memory.wf t.mem = true := by
  refine ⟨_, rfl, ?_⟩
  repeat' first | (simp_all; done) | (intro _) | split | dsimp only

@[simp] theorem State.warmReset_wf (s : State) (okm : Memory.wf s.mem = true) : Memory.wf (State.warmReset s).mem = true := by
  simp [State.warmReset, okm]

theorem execSelftestDone_wf (code : Nat) (s : State) (okm : Memory.wf s.mem = true) : ∃ t, execSelftestDone code s = .next t ∧ Memory.wf t.mem = true := by
  refine ⟨_, rfl, ?_⟩
  repeat' first | (simp_all; done) | (intro _) | split | dsimp only

theorem execSelftestLimitExpiry_wf (s : State) (okm : Memory.wf s.mem = true) : ∃ t, execSelftestLimitExpiry s = .next t ∧ Memory.wf t.mem = true := by
  refine ⟨_, rfl, ?_⟩
  split <;> simp [okm]

theorem execDroopFall_mem (ns : Nat) (s : State) : ∃ t, execDroopFall ns s = .next t ∧ t.mem = s.mem := by
  refine ⟨_, rfl, ?_⟩
  repeat' first | (simp; done) | (intro _) | split | dsimp only

theorem execDroopRise_mem (ns : Nat) (s : State) : ∃ t, execDroopRise ns s = .next t ∧ t.mem = s.mem := by
  refine ⟨_, rfl, ?_⟩
  split <;> simp

theorem execDroopPaceEnd_mem (s : State) : ∃ t, execDroopPaceEnd s = .next t ∧ t.mem = s.mem := by
  refine ⟨_, rfl, ?_⟩
  repeat' first | (simp; done) | (intro _) | split | dsimp only

theorem execPwrbrakeChange_mem (low : Bool) (ns : Nat) (s : State) : ∃ t, execPwrbrakeChange low ns s = .next t ∧ t.mem = s.mem := by
  refine ⟨_, rfl, ?_⟩
  repeat' first | (simp; done) | (intro _) | split | dsimp only

theorem execPaceUpdate_mem (mw : Nat) (s : State) : ∃ t, execPaceUpdate mw s = .next t ∧ t.mem = s.mem := by
  refine ⟨_, rfl, ?_⟩
  split <;> simp

theorem execAssistRelax_mem (engine : Nat) (s : State) : ∃ t, execAssistRelax engine s = .next t ∧ t.mem = s.mem := by
  refine ⟨_, rfl, ?_⟩
  split <;> simp

@[simp] theorem State.ticTake_mem (s : State) (n : Nat) : (State.ticTake s n).mem = s.mem := by
  rfl

theorem execInterruptEntry_mem (s : State) : ∃ t, execInterruptEntry s = .next t ∧ t.mem = s.mem := by
  refine ⟨_, rfl, ?_⟩
  repeat' first | (simp; done) | (intro _) | split | dsimp only

@[simp] theorem State.ticEoi_mem (s : State) (n : Nat) : (State.ticEoi s n).mem = s.mem := by
  unfold State.ticEoi; split <;> simp

theorem execEoi_mem (src : Nat) (s : State) : ∃ t, execEoi src s = .next t ∧ t.mem = s.mem := by
  refine ⟨_, rfl, ?_⟩
  split <;> simp

theorem execMret_mem (s : State) : ∃ t, execMret s = .next t ∧ t.mem = s.mem := by
  refine ⟨_, rfl, ?_⟩
  repeat' first | (simp; done) | (intro _) | split | dsimp only

theorem execAccessFault_mem (addr : Nat) (kind : CoreAccess) (s : State) : ∃ t, execAccessFault addr kind s = .next t ∧ t.mem = s.mem := by
  refine ⟨_, rfl, ?_⟩
  split <;> simp

theorem execPf0FunctionLevelReset_wf (s : State) (okm : Memory.wf s.mem = true) : ∃ t, execPf0FunctionLevelReset s = .next t ∧ Memory.wf t.mem = true := by
  refine ⟨_, rfl, ?_⟩
  repeat' first | (simp_all; done) | (intro _) | split | (apply State.config_wf) | dsimp only

@[simp] theorem State.releaseVectors_mem (s : State) (f : Nat) : (State.releaseVectors s f).mem = s.mem := by
  unfold State.releaseVectors; split <;> simp

@[simp] theorem State.configAccess_mem (s : State) (f : Nat) (a : CfgAccess) : (s.configAccess f a).mem = s.mem := by
  cases a <;> simp [State.configAccess]

theorem execConfigurationRequest_mem (fn : Nat) (a : CfgAccess) (s : State) : ∃ t, execConfigurationRequest fn a s = .next t ∧ t.mem = s.mem := by
  refine ⟨_, rfl, ?_⟩
  split <;> simp

theorem execBoundaryScanTestMode_mem (cells : Option (BitVec 18)) (s : State) : ∃ t, execBoundaryScanTestMode cells s = .next t ∧ t.mem = s.mem := by
  refine ⟨_, rfl, ?_⟩
  simp

theorem execFnEnable_mem (r : Nat) (io : HostIo) (s : State) : ∃ t, execFnEnable r io s = .next t ∧ t.mem = s.mem := by
  refine ⟨_, rfl, ?_⟩
  repeat' first | (simp; done) | (intro _) | split | apply State.runAdmin_mem | apply State.answer_mem | dsimp only

@[simp] theorem State.enableNow_mem (s : State) (f r : Nat) (io : HostIo) (others : List Nat) : (State.enableNow s f r io others).mem = s.mem := by
  simp only [State.enableNow]; repeat' split
  all_goals simp

theorem execEnableTakesEffect_wf (fn : Nat) (io : HostIo) (s : State) (okm : Memory.wf s.mem = true) : ∃ t, execEnableTakesEffect fn io s = .next t ∧ Memory.wf t.mem = true := by
  refine ⟨_, rfl, ?_⟩
  repeat' first | (simp_all; done) | (intro _) | split | (apply foldl_wf) | dsimp only

theorem execFnQuiesce_mem (r : Nat) (_io : HostIo) (s : State) : ∃ t, execFnQuiesce r _io s = .next t ∧ t.mem = s.mem := by
  refine ⟨_, rfl, ?_⟩
  repeat' first | (simp; done) | (intro _) | split | apply State.runAdmin_mem | dsimp only

theorem execQuiesceComplete_mem (fn : Nat) (s : State) : ∃ t, execQuiesceComplete fn s = .next t ∧ t.mem = s.mem := by
  refine ⟨_, rfl, ?_⟩
  repeat' first | (simp; done) | (intro _) | split | apply foldl_mem | dsimp only

theorem execFnReset_wf (r : Nat) (io : HostIo) (s : State) (okm : Memory.wf s.mem = true) : ∃ t, execFnReset r io s = .next t ∧ Memory.wf t.mem = true := by
  refine ⟨_, rfl, ?_⟩
  repeat' first | (simp_all; done) | (intro _) | split | (apply State.runAdmin_wf) | dsimp only

theorem execVfFunctionLevelReset_wf (fn : Nat) (s : State) (okm : Memory.wf s.mem = true) : ∃ t, execVfFunctionLevelReset fn s = .next t ∧ Memory.wf t.mem = true := by
  refine ⟨_, rfl, ?_⟩
  repeat' first | (simp_all; done) | (intro _) | split | (apply State.config_wf) | dsimp only

theorem execFunctionResetEnd_wf (fn : Nat) (io : HostIo) (s : State) (w : Memory.wf s.mem = true) : ∃ t, execFunctionResetEnd fn io s = .next t ∧ Memory.wf t.mem = true := by
  have h1 : ∀ (l : List Nat) (t : State), Memory.wf t.mem = true → Memory.wf (l.foldl State.discard t).mem = true := fun l t => foldl_wf _ _ _ (fun t e h => by simp [h])
  have h2 : ∀ (l : List Nat) (t : State), (l.foldl State.commit t).mem = t.mem := fun l t => foldl_mem _ _ _ (by simp)
  refine ⟨_, rfl, ?_⟩
  dsimp only
  split
  · exact w
  · split
    · rw [State.settle_mem]
      apply State.unmapFn_wf
      rw [State.discardParked_mem]
      exact h1 _ _ w
    · split
      · rw [State.settle_mem]
        apply State.afterTransition_wf
        rw [State.answerGen_mem, h2, State.answerGen_mem, State.updFn_mem]
        apply State.teardown_wf
        rw [State.discardParked_mem]
        exact h1 _ _ w
      · rw [State.settle_mem, State.enableWaiting_mem]
        apply State.afterTransition_wf
        rw [h2, State.answerGen_mem, State.updFn_mem]
        apply State.teardown_wf
        rw [State.discardParked_mem]
        exact h1 _ _ w

theorem execFnExport_mem (r : Nat) (io : HostIo) (s : State) : ∃ t, execFnExport r io s = .next t ∧ t.mem = s.mem := by
  refine ⟨_, rfl, ?_⟩
  repeat' first | (simp; done) | (intro _) | split | apply foldl_mem | apply State.runAdmin_mem | apply State.withData_mem | apply State.answer_mem | dsimp only

theorem execFnImport_wf (r : Nat) (io : HostIo) (frames : List Nat) (s : State) (w : Memory.wf s.mem = true) : ∃ t, execFnImport r io frames s = .next t ∧ Memory.wf t.mem = true := by
  have hr : ∀ (g : Nat) (l : List Nat) (t : State), (l.foldl (fun w a => w.hostRead g a frameBytes) t).mem = t.mem :=
    fun g l t => foldl_mem _ _ _ (by simp)
  refine ⟨_, rfl, ?_⟩
  refine State.runAdmin_wf _ _ _ _ ?_ w
  intro t c ht
  dsimp only
  split
  · simp [ht]
  · refine State.withData_wf _ _ _ _ _ _ ?_ ht
    intro u l hu
    split
    · simp [hu]
    · try dsimp only
      repeat' split
      all_goals try (simp [hr, hu]; done)
      refine State.answer_wf _ _ _ _ _ _ ?_ (by simp [hr, hu])
      intro y hy
      cases h : y.install _ _ _ _ with
      | none => exact hy
      | some v => exact State.install_wf h hy

theorem execWplogCtl_mem (r : Nat) (_io : HostIo) (s : State) : ∃ t, execWplogCtl r _io s = .next t ∧ t.mem = s.mem := by
  refine ⟨_, rfl, ?_⟩
  repeat' first | (simp; done) | (intro _) | split | apply State.runAdmin_mem | dsimp only

@[simp] theorem State.wplogFlush_mem (s : State) (fn value : Nat) : (State.wplogFlush s fn value).mem = s.mem := by
  unfold State.wplogFlush; split <;> simp

theorem execWplogFlush_mem (fn value : Nat) (s : State) : ∃ t, execWplogFlush fn value s = .next t ∧ t.mem = s.mem := by
  refine ⟨_, rfl, ?_⟩
  simp

theorem execWplogFlushDone_mem (fn : Nat) (s : State) : ∃ t, execWplogFlushDone fn s = .next t ∧ t.mem = s.mem := by
  refine ⟨_, rfl, ?_⟩
  repeat' first | (simp; done) | (intro _) | split | apply foldl_mem | dsimp only

@[simp] theorem State.moraineClear_mem (s : State) (fn value : Nat) : (State.moraineClear s fn value).mem = s.mem := by
  unfold State.moraineClear; split <;> simp

theorem execMoraineClear_mem (fn value : Nat) (s : State) : ∃ t, execMoraineClear fn value s = .next t ∧ t.mem = s.mem := by
  refine ⟨_, rfl, ?_⟩
  simp

@[simp] theorem State.rtReserveWrite_mem (s : State) (v : Nat) : (State.rtReserveWrite s v).mem = s.mem := by
  simp [State.rtReserveWrite]

@[simp] theorem State.adminResumeWrite_mem (s : State) (v : Nat) : (State.adminResumeWrite s v).mem = s.mem := by
  simp only [State.adminResumeWrite]; repeat' split
  all_goals simp

@[simp] theorem State.qcfgWrite_mem (s : State) (f v : Nat) : (State.qcfgWrite s f v).mem = s.mem := by
  unfold State.qcfgWrite; split <;> simp

@[simp] theorem State.hostAddWrite_wf (s : State) (v : Nat) (w : Memory.wf s.mem = true) : Memory.wf (s.hostAddWrite v).mem = true := by
  simp only [State.hostAddWrite]
  split
  · exact w
  · split
    · split
      · rename_i h; have e := State.takeChunks_wf h w; simpa using e
      · exact w
    · exact w

@[simp] theorem State.imageCfgWrite_mem (s : State) (n v : Nat) : (State.imageCfgWrite s n v).mem = s.mem := by
  unfold State.imageCfgWrite; split <;> simp

@[simp] theorem State.quotaWrite_mem (s : State) (f v : Nat) : (State.quotaWrite s f v).mem = s.mem := by
  simp only [State.quotaWrite]; repeat' split
  all_goals simp

@[simp] theorem State.adminCtlWrite_mem (s : State) (v : Nat) : (State.adminCtlWrite s v).mem = s.mem := by
  simp only [State.adminCtlWrite]; repeat' split
  all_goals simp

@[simp] theorem State.resetReqWrite_wf (s : State) (v : Nat) (okm : Memory.wf s.mem = true) : Memory.wf (State.resetReqWrite s v).mem = true := by
  simp only [State.resetReqWrite]; repeat' split
  all_goals simp [okm]

@[simp] theorem State.crevCtlWrite_wf (s : State) (v : Nat) (okm : Memory.wf s.mem = true) : Memory.wf (State.crevCtlWrite s v).mem = true := by
  simp only [State.crevCtlWrite]; repeat' split
  all_goals simp [okm]

@[simp] theorem State.doorWrite_mem (s : State) (d : Door) (k v : Nat) : (State.doorWrite s d k v).mem = s.mem := by
  simp only [State.doorWrite]; repeat' split
  all_goals simp

@[simp] theorem State.vxWrite_wf (s : State) (r : Reg) (v : Nat) (okm : Memory.wf s.mem = true) : Memory.wf (State.vxWrite s r v).mem = true := by
  unfold State.vxWrite; split <;> simp [okm]

@[simp] theorem State.coreWrite_wf (s : State) (r : Reg) (v : Nat) (okm : Memory.wf s.mem = true) : Memory.wf (State.coreWrite s r v).mem = true := by
  unfold State.coreWrite; split <;> simp [okm]

@[simp] theorem State.dataWrite_wf (s : State) (r : Reg) (v : Nat) (okm : Memory.wf s.mem = true) : Memory.wf (State.dataWrite s r v).mem = true := by
  simp only [State.dataWrite]; repeat' split
  all_goals simp [okm]

@[simp] theorem State.restWrite_mem (s : State) (r : Reg) (v : Nat) : (State.restWrite s r v).mem = s.mem := by
  simp only [State.restWrite]; repeat' split
  all_goals simp

@[simp] theorem State.fnWrite_mem (s : State) (r : Reg) (v : Nat) : (State.fnWrite s r v).mem = s.mem := by
  unfold State.fnWrite; split <;> simp

@[simp] theorem State.regWrite_wf (s : State) (r : Reg) (v : Nat) (okm : Memory.wf s.mem = true) : Memory.wf (State.regWrite s r v).mem = true := by
  unfold State.regWrite; split <;> simp [okm]

@[simp] theorem State.msixWrite_mem (s : State) (f o w v : Nat) : (State.msixWrite s f o w v).mem = s.mem := by
  simp [State.msixWrite]

@[simp] theorem State.readHalf_mem (s : State) (sp : Space) (off : Nat) (r : Reg) (o : Nat) : (s.readHalf sp off r o).2.mem = s.mem := by
  simp only [State.readHalf]; repeat' split
  all_goals simp

@[simp] theorem State.busRead_mem (s : State) (sp : Space) (off w : Nat) : (s.busRead sp off w).2.mem = s.mem := by
  simp only [State.busRead]; repeat' split
  all_goals simp

@[simp] theorem State.writeHigh_wf (s : State) (sp : Space) (off : Nat) (r : Reg) (v : Nat) (okm : Memory.wf s.mem = true) : Memory.wf (State.writeHigh s sp off r v).mem = true := by
  simp only [State.writeHigh]; repeat' split
  all_goals simp [okm]

@[simp] theorem State.writeLow_mem (s : State) (sp : Space) (off v : Nat) : (State.writeLow s sp off v).mem = s.mem := by
  simp [State.writeLow]

@[simp] theorem State.busWrite_wf (s : State) (sp : Space) (off w value : Nat) (okm : Memory.wf s.mem = true) : Memory.wf (State.busWrite s sp off w value).mem = true := by
  simp only [State.busWrite]; repeat' split
  all_goals simp [okm]

@[simp] theorem State.writeVia_wf (s : State) (c : Instr) (sp : Space) (off w v : Nat) (okm : Memory.wf s.mem = true) : Memory.wf (State.writeVia s c sp off w v).mem = true := by
  simp only [State.writeVia]; repeat' split
  all_goals simp_all

@[simp] theorem State.readVia_mem (s : State) (c : Instr) (sp : Space) (off w : Nat) : (State.readVia s c sp off w).mem = s.mem := by
  simp only [State.readVia]; repeat' split
  all_goals simp

theorem execRegisterWrite_wf (sp : Space) (off width value : Nat) (s : State) (okm : Memory.wf s.mem = true) : ∃ t, execRegisterWrite sp off width value s = .next t ∧ Memory.wf t.mem = true := by
  refine ⟨_, rfl, ?_⟩
  simp [okm]

theorem execUnmappedAccess_wf (sp : Space) (off width : Nat) (value : Option Nat) (s : State) (okm : Memory.wf s.mem = true) : ∃ t, execUnmappedAccess sp off width value s = .next t ∧ Memory.wf t.mem = true := by
  refine ⟨_, rfl, ?_⟩
  split <;> simp [okm]

theorem execSplitLowRead_mem (sp : Space) (off : Nat) (s : State) : ∃ t, execSplitLowRead sp off s = .next t ∧ t.mem = s.mem := by
  refine ⟨_, rfl, ?_⟩
  simp

theorem execSplitLowWrite_wf (sp : Space) (off value : Nat) (s : State) (okm : Memory.wf s.mem = true) : ∃ t, execSplitLowWrite sp off value s = .next t ∧ Memory.wf t.mem = true := by
  refine ⟨_, rfl, ?_⟩
  simp [okm]

theorem execSplitHighWrite_wf (sp : Space) (off value : Nat) (s : State) (okm : Memory.wf s.mem = true) : ∃ t, execSplitHighWrite sp off value s = .next t ∧ Memory.wf t.mem = true := by
  refine ⟨_, rfl, ?_⟩
  simp [okm]

@[simp] theorem State.doorVia_wf (s : State) (c : Instr) (d : Door) (k v : Nat) (okm : Memory.wf s.mem = true) : Memory.wf (State.doorVia s c d k v).mem = true := by
  simp only [State.doorVia]; repeat' split
  all_goals simp_all

theorem execSqTail_wf (d : Door) (value : Nat) (s : State) (okm : Memory.wf s.mem = true) : ∃ t, execSqTail d value s = .next t ∧ Memory.wf t.mem = true := by
  refine ⟨_, rfl, ?_⟩
  simp [okm]

theorem execCqHead_wf (d : Door) (value : Nat) (s : State) (okm : Memory.wf s.mem = true) : ∃ t, execCqHead d value s = .next t ∧ Memory.wf t.mem = true := by
  refine ⟨_, rfl, ?_⟩
  simp [okm]

theorem execCqIntMask_wf (d : Door) (value : Nat) (s : State) (okm : Memory.wf s.mem = true) : ∃ t, execCqIntMask d value s = .next t ∧ Memory.wf t.mem = true := by
  refine ⟨_, rfl, ?_⟩
  simp [okm]

theorem execMsixMaskClear_wf (fn : Nat) (vector : Option Nat) (s : State) (okm : Memory.wf s.mem = true) : ∃ t, execMsixMaskClear fn vector s = .next t ∧ Memory.wf t.mem = true := by
  refine ⟨_, rfl, ?_⟩
  repeat' first | (simp_all; done) | (intro _) | split | (apply State.config_wf) | (apply State.access_wf) | dsimp only

theorem execCirqRtReserve_wf (value : Nat) (s : State) (okm : Memory.wf s.mem = true) : ∃ t, execCirqRtReserve value s = .next t ∧ Memory.wf t.mem = true := by
  refine ⟨_, rfl, ?_⟩
  repeat' first | (simp_all; done) | (intro _) | split | (apply State.access_wf) | dsimp only

theorem execCirqFnQcfg_wf (fn value : Nat) (s : State) (okm : Memory.wf s.mem = true) : ∃ t, execCirqFnQcfg fn value s = .next t ∧ Memory.wf t.mem = true := by
  refine ⟨_, rfl, ?_⟩
  repeat' first | (simp_all; done) | (intro _) | split | (apply State.access_wf) | dsimp only

theorem execCirqAdminResume_wf (value : Nat) (s : State) (okm : Memory.wf s.mem = true) : ∃ t, execCirqAdminResume value s = .next t ∧ Memory.wf t.mem = true := by
  refine ⟨_, rfl, ?_⟩
  repeat' first | (simp_all; done) | (intro _) | split | (apply State.access_wf) | dsimp only

theorem execSnowHostAdd_wf (value : Nat) (s : State) (okm : Memory.wf s.mem = true) : ∃ t, execSnowHostAdd value s = .next t ∧ Memory.wf t.mem = true := by
  refine ⟨_, rfl, ?_⟩
  repeat' first | (simp_all; done) | (intro _) | split | (apply State.access_wf) | dsimp only

theorem execSnowImageCfg_wf (image value : Nat) (s : State) (okm : Memory.wf s.mem = true) : ∃ t, execSnowImageCfg image value s = .next t ∧ Memory.wf t.mem = true := by
  refine ⟨_, rfl, ?_⟩
  repeat' first | (simp_all; done) | (intro _) | split | (apply State.access_wf) | dsimp only

theorem execSnowFnQuota_wf (fn value : Nat) (s : State) (okm : Memory.wf s.mem = true) : ∃ t, execSnowFnQuota fn value s = .next t ∧ Memory.wf t.mem = true := by
  refine ⟨_, rfl, ?_⟩
  repeat' first | (simp_all; done) | (intro _) | split | (apply State.access_wf) | dsimp only

theorem execAdminQueueEnable_wf (value : Nat) (s : State) (okm : Memory.wf s.mem = true) : ∃ t, execAdminQueueEnable value s = .next t ∧ Memory.wf t.mem = true := by
  refine ⟨_, rfl, ?_⟩
  repeat' first | (simp_all; done) | (intro _) | split | (apply State.access_wf) | dsimp only

@[simp] theorem State.monAnswer_mem (s : State) (lines : List (List Nat)) (e : Option MonErr) : (State.monAnswer s lines e).mem = s.mem := by
  simp [State.monAnswer]

@[simp] theorem State.monRefuse_mem (s : State) (e : MonErr) : (State.monRefuse s e).mem = s.mem := by
  simp [State.monRefuse]

@[simp] theorem State.view_mem (s : State) (off w : Nat) : (s.view off w).2.mem = s.mem := by simp [State.view]

@[simp] theorem State.monRead_mem (s : State) (off w n : Nat) : (s.monRead off w n).2.mem = s.mem := by
  induction n generalizing s off with
  | zero => rfl
  | succ n ih => simp [State.monRead, ih]

@[simp] theorem State.monList_mem (s : State) (l : List (Nat × Nat)) : (s.monList l).2.mem = s.mem := by
  induction l generalizing s with
  | nil => rfl
  | cons a t ih => simp [State.monList, ih]

@[simp] theorem State.monLines_mem (s : State) (l : List (List (Nat × Nat))) : (s.monLines l).2.mem = s.mem := by
  induction l generalizing s with
  | nil => rfl
  | cons a t ih => simp [State.monLines, ih]

@[simp] theorem answerWith_mem (x : List (List Nat) × State) : (answerWith x).mem = x.2.mem := by
  simp [answerWith]

@[simp] theorem State.monVersion_mem (s : State) : (State.monVersion s).mem = s.mem := by
  simp [State.monVersion]

@[simp] theorem State.monHeartbeat_mem (s : State) : (State.monHeartbeat s).mem = s.mem := by
  simp [State.monHeartbeat]

@[simp] theorem State.monRings_mem (s : State) (l : List Nat) : (s.monRings l).2.mem = s.mem := by
  induction l generalizing s with
  | nil => rfl
  | cons a t ih => simp [State.monRings, ih]

@[simp] theorem State.monDo_wf (s : State) (c : MonCmd) (okm : Memory.wf s.mem = true) : Memory.wf (State.monDo s c).mem = true := by
  unfold State.monDo; split <;> simp [okm]

@[simp] theorem State.monitor_wf (s : State) (c : MonCmd) (okm : Memory.wf s.mem = true) : Memory.wf (State.monitor s c).mem = true := by
  simp only [State.monitor]; repeat' split
  all_goals simp [okm]

@[simp] theorem State.monRow_wf (s : State) (c : MonCmd) (okm : Memory.wf s.mem = true) : Memory.wf (State.monRow s c).mem = true := by
  unfold State.monRow; split <;> simp [okm]

theorem execMonHelp_wf (s : State) (okm : Memory.wf s.mem = true) : ∃ t, execMonHelp s = .next t ∧ Memory.wf t.mem = true := by
  refine ⟨_, rfl, ?_⟩
  simp [okm]

theorem execMonVer_wf (s : State) (okm : Memory.wf s.mem = true) : ∃ t, execMonVer s = .next t ∧ Memory.wf t.mem = true := by
  refine ⟨_, rfl, ?_⟩
  simp [okm]

theorem execMonHb_wf (s : State) (okm : Memory.wf s.mem = true) : ∃ t, execMonHb s = .next t ∧ Memory.wf t.mem = true := by
  refine ⟨_, rfl, ?_⟩
  simp [okm]

theorem execMonSt_wf (s : State) (okm : Memory.wf s.mem = true) : ∃ t, execMonSt s = .next t ∧ Memory.wf t.mem = true := by
  refine ⟨_, rfl, ?_⟩
  simp [okm]

theorem execMonRd_wf (off count : Nat) (s : State) (okm : Memory.wf s.mem = true) : ∃ t, execMonRd off count s = .next t ∧ Memory.wf t.mem = true := by
  refine ⟨_, rfl, ?_⟩
  simp [okm]

theorem execMonRq_wf (off count : Nat) (s : State) (okm : Memory.wf s.mem = true) : ∃ t, execMonRq off count s = .next t ∧ Memory.wf t.mem = true := by
  refine ⟨_, rfl, ?_⟩
  simp [okm]

theorem execMonWr_wf (off value : Nat) (s : State) (okm : Memory.wf s.mem = true) : ∃ t, execMonWr off value s = .next t ∧ Memory.wf t.mem = true := by
  refine ⟨_, rfl, ?_⟩
  simp [okm]

theorem execMonWq_wf (off value : Nat) (s : State) (okm : Memory.wf s.mem = true) : ∃ t, execMonWq off value s = .next t ∧ Memory.wf t.mem = true := by
  refine ⟨_, rfl, ?_⟩
  simp [okm]

theorem execMonFn_wf (fn : Nat) (s : State) (okm : Memory.wf s.mem = true) : ∃ t, execMonFn fn s = .next t ∧ Memory.wf t.mem = true := by
  refine ⟨_, rfl, ?_⟩
  simp [okm]

theorem execMonRec_wf (count : Nat) (s : State) (okm : Memory.wf s.mem = true) : ∃ t, execMonRec count s = .next t ∧ Memory.wf t.mem = true := by
  refine ⟨_, rfl, ?_⟩
  simp [okm]

theorem execMonRing_wf (s : State) (okm : Memory.wf s.mem = true) : ∃ t, execMonRing s = .next t ∧ Memory.wf t.mem = true := by
  refine ⟨_, rfl, ?_⟩
  simp [okm]

theorem execMonPwr_wf (s : State) (okm : Memory.wf s.mem = true) : ∃ t, execMonPwr s = .next t ∧ Memory.wf t.mem = true := by
  refine ⟨_, rfl, ?_⟩
  simp [okm]

theorem execMonSeal_wf (s : State) (okm : Memory.wf s.mem = true) : ∃ t, execMonSeal s = .next t ∧ Memory.wf t.mem = true := by
  refine ⟨_, rfl, ?_⟩
  simp [okm]

theorem execMonBaud_wf (rate : Nat) (s : State) (okm : Memory.wf s.mem = true) : ∃ t, execMonBaud rate s = .next t ∧ Memory.wf t.mem = true := by
  refine ⟨_, rfl, ?_⟩
  simp [okm]

theorem execMonLock_wf (s : State) (okm : Memory.wf s.mem = true) : ∃ t, execMonLock s = .next t ∧ Memory.wf t.mem = true := by
  refine ⟨_, rfl, ?_⟩
  simp [okm]

@[simp] theorem State.monLine_wf (s : State) (l : List Nat) (okm : Memory.wf s.mem = true) : Memory.wf (State.monLine s l).mem = true := by
  simp only [State.monLine]; repeat' split
  all_goals simp [okm]

@[simp] theorem State.setLine_mem (s : State) (l : List Nat) (cr : Bool) : (State.setLine s l cr).mem = s.mem := by
  rfl

@[simp] theorem State.monChar_wf (s : State) (c : Nat) (okm : Memory.wf s.mem = true) : Memory.wf (State.monChar s c).mem = true := by
  simp only [State.monChar]; repeat' split
  all_goals simp [okm]

theorem execUartCharacter_wf (c : Byte) (s : State) (okm : Memory.wf s.mem = true) : ∃ t, execUartCharacter c s = .next t ∧ Memory.wf t.mem = true := by
  refine ⟨_, rfl, ?_⟩
  repeat' first | (simp_all; done) | (intro _) | split | dsimp only

theorem execUartFramingError_mem (s : State) : ∃ t, execUartFramingError s = .next t ∧ t.mem = s.mem := by
  refine ⟨_, rfl, ?_⟩
  repeat' first | (simp; done) | (intro _) | split | dsimp only

theorem outState_wf {o : Out} {s : State} (h : ∃ t, o = .next t ∧ Memory.wf t.mem = true) : Memory.wf (outState o s).mem = true := by
  obtain ⟨t, rfl, h⟩ := h; exact h

theorem wfOf {o : Out} {s : State} (h : ∃ t, o = .next t ∧ t.mem = s.mem) (okm : Memory.wf s.mem = true) : ∃ t, o = .next t ∧ Memory.wf t.mem = true := by
  obtain ⟨t, ht, h⟩ := h; exact ⟨t, ht, by rw [h]; exact okm⟩

@[simp] theorem deliver_wf (c : Instr) (s : State) (okm : Memory.wf s.mem = true) : Memory.wf (deliver c s).mem = true := by
  unfold deliver
  split
  · exact outState_wf (execRegisterWrite_wf _ _ _ _ s okm)
  · exact outState_wf (execUnmappedAccess_wf _ _ _ _ s okm)
  · exact outState_wf (wfOf (execSplitLowRead_mem _ _ s) okm)
  · exact outState_wf (execSplitLowWrite_wf _ _ _ s okm)
  · exact outState_wf (execSplitHighWrite_wf _ _ _ s okm)
  · exact outState_wf (execSqTail_wf _ _ s okm)
  · exact outState_wf (execCqHead_wf _ _ s okm)
  · exact outState_wf (execCqIntMask_wf _ _ s okm)
  · exact outState_wf (execMsixMaskClear_wf _ _ s okm)
  · exact outState_wf (execCirqRtReserve_wf _ s okm)
  · exact outState_wf (execCirqFnQcfg_wf _ _ s okm)
  · exact outState_wf (execCirqAdminResume_wf _ s okm)
  · exact outState_wf (wfOf (execMoraineClear_mem _ _ s) okm)
  · exact outState_wf (wfOf (execWplogFlush_mem _ _ s) okm)
  · exact outState_wf (wfOf (execCrevRetry_mem _ s) okm)
  · exact outState_wf (execCrevAbort_wf _ s okm)
  · exact outState_wf (wfOf (execCrevHeadWrite_mem _ s) okm)
  · exact outState_wf (execSnowHostAdd_wf _ s okm)
  · exact outState_wf (execSnowImageCfg_wf _ _ s okm)
  · exact outState_wf (execSnowFnQuota_wf _ _ s okm)
  · exact outState_wf (wfOf (execRingJoinRequest_mem _ s) okm)
  · exact outState_wf (wfOf (execRingReleaseRequest_mem _ s) okm)
  · exact outState_wf (execAdminQueueEnable_wf _ s okm)
  · exact outState_wf (execEngineResetRequest_wf _ s okm)
  · exact outState_wf (execComputeDomainResetRequest_wf s okm)
  · exact outState_wf (wfOf (execResetHeadWrite_mem _ s) okm)
  · exact outState_wf (wfOf (execDoeObject_mem _ _ s) okm)
  · exact outState_wf (wfOf (execDoeAbort_mem _ s) okm)
  · exact outState_wf (execVfFunctionLevelReset_wf _ s okm)
  · exact outState_wf (execPf0FunctionLevelReset_wf s okm)
  · exact outState_wf (wfOf (execConfigurationRequest_mem _ _ s) okm)
  · exact okm

@[simp] theorem State.deliverAll_wf (s : State) (okm : Memory.wf s.mem = true) : Memory.wf (State.deliverAll s).mem = true := by
  unfold State.deliverAll; repeat' first | (simp_all; done) | (intro _) | split | (apply foldl_wf) | dsimp only

theorem execPwrGoodRise_wf (ns : Nat) (s : State) (okm : Memory.wf s.mem = true) : ∃ t, execPwrGoodRise ns s = .next t ∧ Memory.wf t.mem = true := by
  refine ⟨_, rfl, ?_⟩
  repeat' first | (simp_all; done) | (intro _) | split | dsimp only

theorem execBrownoutHoldExit_wf (mv : Nat) (s : State) (okm : Memory.wf s.mem = true) : ∃ t, execBrownoutHoldExit mv s = .next t ∧ Memory.wf t.mem = true := by
  refine ⟨_, rfl, ?_⟩
  repeat' first | (simp_all; done) | (intro _) | split | dsimp only

theorem execKeyAssign_mem (r : Nat) (_io : HostIo) (s : State) : ∃ t, execKeyAssign r _io s = .next t ∧ t.mem = s.mem := by
  refine ⟨_, rfl, ?_⟩
  repeat' first | (simp; done) | (intro _) | split | apply foldl_mem | apply State.runAdmin_mem | dsimp only

theorem execKeyRelease_mem (r : Nat) (_io : HostIo) (s : State) : ∃ t, execKeyRelease r _io s = .next t ∧ t.mem = s.mem := by
  refine ⟨_, rfl, ?_⟩
  repeat' first | (simp; done) | (intro _) | split | apply foldl_mem | apply State.runAdmin_mem | dsimp only

theorem execCtxCreate_mem (r : Nat) (io : HostIo) (s : State) : ∃ t, execCtxCreate r io s = .next t ∧ t.mem = s.mem := by
  refine ⟨_, rfl, ?_⟩
  repeat' first | (simp; done) | (intro _) | split | apply State.runAdmin_mem | apply State.answer_mem | dsimp only

theorem execCtxDestroy_wf (r : Nat) (_io : HostIo) (s : State) (okm : Memory.wf s.mem = true) : ∃ t, execCtxDestroy r _io s = .next t ∧ Memory.wf t.mem = true := by
  refine ⟨_, rfl, ?_⟩
  repeat' first | (simp_all; done) | (intro _) | split | (apply State.runAdmin_wf) | dsimp only

theorem execCtxReset_wf (r : Nat) (_io : HostIo) (s : State) (okm : Memory.wf s.mem = true) : ∃ t, execCtxReset r _io s = .next t ∧ Memory.wf t.mem = true := by
  refine ⟨_, rfl, ?_⟩
  repeat' first | (simp_all; done) | (intro _) | split | (apply State.runAdmin_wf) | dsimp only

theorem State.takePlaced_wf {s s' : State} {e : Fkt} {l : List (Nat × List Nat)} (h : s.takePlaced e l = some s') (w : Memory.wf s.mem = true) : Memory.wf s'.mem = true := by
  have go : ∀ (l : List (Nat × List Nat)) (o : Option State) (t : State),
      l.foldl (fun o p => o.bind fun t => t.takeFrames p.1 e p.2) o = some t → ∃ u, o = some u ∧ (Memory.wf u.mem = true → Memory.wf t.mem = true) := by
    intro l
    induction l with
    | nil => intro o t h; exact ⟨t, h, id⟩
    | cons p l ih =>
      intro o t h
      obtain ⟨u, hu, e1⟩ := ih _ _ h
      obtain ⟨v, hv, e2⟩ := Option.bind_eq_some_iff.mp hu
      exact ⟨v, hv, fun x => e1 (State.takeFrames_wf e2 x)⟩
  obtain ⟨u, hu, e⟩ := go _ _ _ h
  cases hu
  exact e w

theorem State.placeAlloc_wf {s : State} {vx1 : Bool} {tier n : Nat} {asked : List Nat} {e : Fkt} {x : List (Nat × List Nat) × State}
    (h : s.placeAlloc vx1 tier n asked e = some x) (w : Memory.wf s.mem = true) : Memory.wf x.2.mem = true := by
  unfold State.placeAlloc at h
  split at h
  · obtain ⟨i, _, hi⟩ := List.exists_of_findSome?_eq_some h
    dsimp only at hi
    split at hi
    · obtain ⟨t, ht, rfl⟩ := Option.map_eq_some_iff.mp hi; exact State.takePlaced_wf ht w
    · cases hi
  · obtain ⟨l, _, hl⟩ := Option.bind_eq_some_iff.mp h
    obtain ⟨t, ht, rfl⟩ := Option.map_eq_some_iff.mp hl; exact State.takePlaced_wf ht w

theorem State.giveAlloc_mem (s t : State) (r : Nat) (c : Cmd) (io : HostIo) (fr : List (Nat × Nat)) (h : t.mem = s.mem) :
    (s.giveAlloc t r c io fr).mem = s.mem := by
  unfold State.giveAlloc State.answer
  dsimp only
  split
  · rw [State.commit_mem, State.modCmd_mem, State.updFn_mem]
    exact h
  · simp

theorem State.giveAlloc_wf (s t : State) (r : Nat) (c : Cmd) (io : HostIo) (fr : List (Nat × Nat)) (w : Memory.wf s.mem = true) (h : Memory.wf t.mem = true) :
    Memory.wf (s.giveAlloc t r c io fr).mem = true := by
  unfold State.giveAlloc State.answer
  dsimp only
  split
  · rw [State.commit_mem, State.modCmd_mem, State.updFn_mem]
    exact h
  · simp [w]

@[simp] theorem State.allocDevice_wf (s : State) (r : Nat) (c : Cmd) (io : HostIo) (asked : List Nat) (w : Memory.wf s.mem = true) :
    Memory.wf (s.allocDevice r c io asked).mem = true := by
  simp only [State.allocDevice]
  split
  · simp [w]
  · rename_i h
    exact State.giveAlloc_wf _ _ _ _ _ _ w (State.placeAlloc_wf h w)

@[simp] theorem State.allocHost_wf (s : State) (r : Nat) (c : Cmd) (io : HostIo) (asked : List Nat) (w : Memory.wf s.mem = true) :
    Memory.wf (s.allocHost r c io asked).mem = true := by
  unfold State.allocHost
  refine State.withData_wf _ _ _ _ _ _ ?_ w
  intro t b ht
  dsimp only
  repeat' split
  · simp [ht]
  · simp [ht]
  · simp [ht]
  · rename_i h
    exact State.giveAlloc_wf _ _ _ _ _ _ ht (State.takeChunks_wf h ht)

theorem execMemAlloc_wf (r : Nat) (io : HostIo) (frames : List Nat) (s : State) (okm : Memory.wf s.mem = true) : ∃ t, execMemAlloc r io frames s = .next t ∧ Memory.wf t.mem = true := by
  refine ⟨_, rfl, ?_⟩
  repeat' first | (simp_all; done) | (intro _) | split | (apply State.runAdmin_wf) | dsimp only

theorem execMemFree_wf (r : Nat) (_io : HostIo) (s : State) (okm : Memory.wf s.mem = true) : ∃ t, execMemFree r _io s = .next t ∧ Memory.wf t.mem = true := by
  refine ⟨_, rfl, ?_⟩
  repeat' first | (simp_all; done) | (intro _) | split | (apply State.runAdmin_wf) | dsimp only

theorem execMapRange_wf (r : Nat) (_io : HostIo) (s : State) (okm : Memory.wf s.mem = true) : ∃ t, execMapRange r _io s = .next t ∧ Memory.wf t.mem = true := by
  refine ⟨_, rfl, ?_⟩
  repeat' first | (simp_all; done) | (intro _) | split | (apply State.runAdmin_wf) | dsimp only

theorem execUnmapRange_wf (r : Nat) (_io : HostIo) (s : State) (okm : Memory.wf s.mem = true) : ∃ t, execUnmapRange r _io s = .next t ∧ Memory.wf t.mem = true := by
  refine ⟨_, rfl, ?_⟩
  repeat' first | (simp_all; done) | (intro _) | split | (apply State.runAdmin_wf) | dsimp only

theorem execMemShare_mem (r : Nat) (io : HostIo) (s : State) : ∃ t, execMemShare r io s = .next t ∧ t.mem = s.mem := by
  refine ⟨_, rfl, ?_⟩
  repeat' first | (simp; done) | (intro _) | split | apply State.runAdmin_mem | apply State.answer_mem | dsimp only

theorem execMapRemote_wf (r : Nat) (io : HostIo) (s : State) (okm : Memory.wf s.mem = true) : ∃ t, execMapRemote r io s = .next t ∧ Memory.wf t.mem = true := by
  refine ⟨_, rfl, ?_⟩
  repeat' first | (simp_all; done) | (intro _) | split | (apply State.runAdmin_wf) | (apply State.withData_wf) | dsimp only

theorem execInvalidationAck_mem (inv engine : Nat) (s : State) : ∃ t, execInvalidationAck inv engine s = .next t ∧ t.mem = s.mem := by
  refine ⟨_, rfl, ?_⟩
  repeat' first | (simp; done) | (intro _) | split | dsimp only

@[simp] theorem State.scramble_wf (s : State) (a : Alloc) (w : Memory.wf s.mem = true) : Memory.wf (s.scramble a).mem = true := Alloc.write_wf _ _ _ w

@[simp] theorem State.loadAdapter_wf (s : State) (r : Nat) (c : Cmd) (a : Alloc) (v : Variant) (clear : Blob) (w : Memory.wf s.mem = true) :
    Memory.wf (s.loadAdapter r c a v clear).mem = true := State.zeroTraining_wf _ _ _ _ _ _ (writeAdapter_wf _ _ _ _ _ w)

@[simp] theorem State.register_wf (s : State) (r : Nat) (c : Cmd) (io : HostIo) (d : VarDesc) (a : Alloc) (key img : Nat) (clear : Blob) (w : Memory.wf s.mem = true) :
    Memory.wf (s.register r c io d a key img clear).mem = true := by
  unfold State.register
  dsimp only
  repeat' split
  · simp [w]
  · refine State.answer_wf _ _ _ _ _ _ ?_ ?_
    · intro t ht; exact ht
    · simp [w]
  · refine State.answer_wf _ _ _ _ _ _ ?_ ?_
    · intro t ht; exact ht
    · simp [w]

@[simp] theorem State.unwrapAndRegister_wf (s : State) (r : Nat) (c : Cmd) (io : HostIo) (d : VarDesc) (a : Alloc) (b : Blob) (okm : Memory.wf s.mem = true) : Memory.wf (State.unwrapAndRegister s r c io d a b).mem = true := by
  simp only [State.unwrapAndRegister]; repeat' split
  all_goals simp [okm]

@[simp] theorem State.dropSlices_mem (s : State) (v : Nat) : (State.dropSlices s v).mem = s.mem := by
  rfl

@[simp] theorem State.commitUpdate_wf (s : State) (r id : Nat) (c : Cmd) (v : Variant) (d : VarDesc) (clear : Option Blob) (w : Memory.wf s.mem = true) :
    Memory.wf (s.commitUpdate r id c v d clear).mem = true := by
  unfold State.commitUpdate
  split
  · exact w
  · rw [State.dropSlices_mem]
    cases clear <;> dsimp only <;> split
    · exact State.zeroTraining_wf _ _ _ _ _ _ w
    · exact w
    · exact State.zeroTraining_wf _ _ _ _ _ _ (writeAdapter_wf _ _ _ _ _ w)
    · exact writeAdapter_wf _ _ _ _ _ w

@[simp] theorem State.unchange_mem (s : State) (id : Nat) : (State.unchange s id).mem = s.mem := by
  rfl

@[simp] theorem State.runUpdate_wf (s : State) (r id : Nat) (c : Cmd) (io : HostIo) (v : Variant) (w : Memory.wf s.mem = true) : Memory.wf (s.runUpdate r id c io v).mem = true := by
  unfold State.runUpdate
  refine State.withData_wf _ _ _ _ _ _ ?_ w
  intro t b ht
  split
  · simp [ht]
  · dsimp only
    repeat' split
    all_goals simp [ht]

@[simp] theorem State.runDrop_mem (s : State) (r id : Nat) (v : Variant) : (State.runDrop s r id v).mem = s.mem := by
  simp [State.runDrop]

@[simp] theorem State.changeOrWait_mem (s : State) (r id : Nat) (c : Cmd) (run : State → State) (hrun : ∀ t , (run t ).mem = t.mem) : (State.changeOrWait s r id c run).mem = s.mem := by
  simp only [State.changeOrWait]; repeat' split
  all_goals simp [hrun]

@[simp] theorem State.changeOrWait_wf (s : State) (r id : Nat) (c : Cmd) (run : State → State) (hrun : ∀ t , Memory.wf t.mem = true → Memory.wf (run t ).mem = true) (okm : Memory.wf s.mem = true) : Memory.wf (State.changeOrWait s r id c run).mem = true := by
  simp only [State.changeOrWait]; repeat' split
  all_goals simp [okm, hrun]

theorem execGraphStore_mem (r : Nat) (io : HostIo) (s : State) : ∃ t, execGraphStore r io s = .next t ∧ t.mem = s.mem := by
  refine ⟨_, rfl, ?_⟩
  repeat' first | (simp; done) | (intro _) | split | apply State.runAdmin_mem | apply State.withData_mem | apply State.answer_mem | dsimp only

theorem execGraphPatch_mem (r : Nat) (io : HostIo) (s : State) : ∃ t, execGraphPatch r io s = .next t ∧ t.mem = s.mem := by
  refine ⟨_, rfl, ?_⟩
  repeat' first | (simp; done) | (intro _) | split | apply State.runAdmin_mem | apply State.withData_mem | apply State.answer_mem | dsimp only

theorem execGraphFree_mem (r : Nat) (_io : HostIo) (s : State) : ∃ t, execGraphFree r _io s = .next t ∧ t.mem = s.mem := by
  refine ⟨_, rfl, ?_⟩
  repeat' first | (simp; done) | (intro _) | split | apply State.runAdmin_mem | dsimp only

theorem execRcptRead_mem (r : Nat) (io : HostIo) (s : State) : ∃ t, execRcptRead r io s = .next t ∧ t.mem = s.mem := by
  refine ⟨_, rfl, ?_⟩
  repeat' first | (simp; done) | (intro _) | split | apply State.runAdmin_mem | apply State.answer_mem | dsimp only

theorem execCkptRequest_mem (r : Nat) (_io : HostIo) (s : State) : ∃ t, execCkptRequest r _io s = .next t ∧ t.mem = s.mem := by
  refine ⟨_, rfl, ?_⟩
  repeat' first | (simp; done) | (intro _) | split | apply State.runAdmin_mem | dsimp only

@[simp] theorem State.storeCkpt_wf (s : State) (c : Ckpt) (okm : Memory.wf s.mem = true) : Memory.wf (State.storeCkpt s c).mem = true := by
  simp only [State.storeCkpt]; repeat' split
  all_goals simp [okm]

theorem execCheckpointSigned_wf (io : HostIo) (s : State) (okm : Memory.wf s.mem = true) : ∃ t, execCheckpointSigned io s = .next t ∧ Memory.wf t.mem = true := by
  refine ⟨_, rfl, ?_⟩
  repeat' first | (simp_all; done) | (intro _) | split | (apply State.answer_wf) | dsimp only

theorem execPoolCreate_mem (r : Nat) (io : HostIo) (s : State) : ∃ t, execPoolCreate r io s = .next t ∧ t.mem = s.mem := by
  refine ⟨_, rfl, ?_⟩
  repeat' first | (simp; done) | (intro _) | split | apply State.runAdmin_mem | apply State.answer_mem | dsimp only

theorem execPoolJoin_mem (r : Nat) (_io : HostIo) (s : State) : ∃ t, execPoolJoin r _io s = .next t ∧ t.mem = s.mem := by
  refine ⟨_, rfl, ?_⟩
  repeat' first | (simp; done) | (intro _) | split | apply State.runAdmin_mem | dsimp only

theorem execPoolLeave_mem (r : Nat) (_io : HostIo) (s : State) : ∃ t, execPoolLeave r _io s = .next t ∧ t.mem = s.mem := by
  refine ⟨_, rfl, ?_⟩
  repeat' first | (simp; done) | (intro _) | split | apply State.runAdmin_mem | dsimp only

theorem execPoolDestroy_mem (r : Nat) (_io : HostIo) (s : State) : ∃ t, execPoolDestroy r _io s = .next t ∧ t.mem = s.mem := by
  refine ⟨_, rfl, ?_⟩
  repeat' first | (simp; done) | (intro _) | split | apply State.runAdmin_mem | dsimp only

theorem execTurnGrant_mem (u : Nat) (s : State) : ∃ t, execTurnGrant u s = .next t ∧ t.mem = s.mem := by
  refine ⟨_, rfl, ?_⟩
  repeat' first | (simp; done) | (intro _) | split | (simp only [State.settle_mem]) | dsimp only

theorem execQuantumExpiry_mem (u : Nat) (s : State) : ∃ t, execQuantumExpiry u s = .next t ∧ t.mem = s.mem := by
  refine ⟨_, rfl, ?_⟩
  repeat' first | (simp; done) | (intro _) | split | (simp only [State.settle_mem]) | dsimp only

theorem execMinTurnExpiry_mem (u : Nat) (s : State) : ∃ t, execMinTurnExpiry u s = .next t ∧ t.mem = s.mem := by
  refine ⟨_, rfl, ?_⟩
  repeat' first | (simp; done) | (intro _) | split | (simp only [State.settle_mem]) | dsimp only

theorem execCleaveBoundExpiry_mem (u : Nat) (s : State) : ∃ t, execCleaveBoundExpiry u s = .next t ∧ t.mem = s.mem := by
  refine ⟨_, rfl, ?_⟩
  repeat' first | (simp; done) | (intro _) | split | dsimp only

theorem execCleaveReached_wf (u : Nat) (p : TilePkt) (s : State) (okm : Memory.wf s.mem = true) : ∃ t, execCleaveReached u p s = .next t ∧ Memory.wf t.mem = true := by
  refine ⟨_, rfl, ?_⟩
  repeat' first | (simp_all; done) | (intro _) | split | (apply State.takeUp_wf) | dsimp only

theorem execSaveData_wf (u : Nat) (p : TilePkt) (s : State) (okm : Memory.wf s.mem = true) : ∃ t, execSaveData u p s = .next t ∧ Memory.wf t.mem = true := by
  refine ⟨_, rfl, ?_⟩
  repeat' first | (simp_all; done) | (intro _) | split | (apply State.takeUp_wf) | dsimp only

@[simp] theorem State.saveDone_wf (s : State) (u : Nat) (q : Preempt) (b : Blob) (okm : Memory.wf s.mem = true) : Memory.wf (State.saveDone s u q b).mem = true := by
  unfold State.saveDone; repeat' first | (simp_all; done) | (intro _) | split | (apply foldl_wf) | dsimp only

theorem execSaveEnd_wf (u : Nat) (p : TilePkt) (s : State) (okm : Memory.wf s.mem = true) : ∃ t, execSaveEnd u p s = .next t ∧ Memory.wf t.mem = true := by
  refine ⟨_, rfl, ?_⟩
  repeat' first | (simp_all; done) | (intro _) | split | (apply State.takeUp_wf) | dsimp only

@[simp] theorem State.sendRestore_wf (u f : Nat) (s : State) (w : Memory.wf s.mem = true) : Memory.wf (State.sendRestore u f s).mem = true := by
  induction f generalizing s with
  | zero => exact w
  | succ f ih => simp only [State.sendRestore]; repeat' split
                 all_goals first | (simp [w]; done) | (apply ih; simp [w]; done)

theorem execRestoreData_wf (u : Nat) (s : State) (okm : Memory.wf s.mem = true) : ∃ t, execRestoreData u s = .next t ∧ Memory.wf t.mem = true := by
  refine ⟨_, rfl, ?_⟩
  repeat' first | (simp_all; done) | (intro _) | split | dsimp only

theorem execSwapIn_mem (ctx : Nat) (s : State) : ∃ t, execSwapIn ctx s = .next t ∧ t.mem = s.mem := by
  refine ⟨_, rfl, ?_⟩
  split <;> simp

theorem execEviction_wf (u : Nat) (s : State) (okm : Memory.wf s.mem = true) : ∃ t, execEviction u s = .next t ∧ Memory.wf t.mem = true := by
  refine ⟨_, rfl, ?_⟩
  repeat' first | (simp_all; done) | (intro _) | split | dsimp only

theorem execAgeExpiry_mem (ctx : Nat) (s : State) : ∃ t, execAgeExpiry ctx s = .next t ∧ t.mem = s.mem := by
  refine ⟨_, rfl, ?_⟩
  repeat' first | (simp; done) | (intro _) | split | dsimp only

theorem execWblock_wf (o : BlockSend) (s : State) (okm : Memory.wf s.mem = true) : ∃ t, execWblock o s = .next t ∧ Memory.wf t.mem = true := by
  refine ⟨_, rfl, ?_⟩
  repeat' first | (simp_all; done) | (intro _) | split | dsimp only

theorem execVarRegister_wf (r : Nat) (io : HostIo) (ecc : Ecc) (s : State) (w : Memory.wf s.mem = true) : ∃ t, execVarRegister r io ecc s = .next t ∧ Memory.wf t.mem = true := by
  refine ⟨_, rfl, ?_⟩
  split
  · exact w
  · split
    · simp [w]
    · refine State.runAdmin_wf _ _ _ _ ?_ w
      intro t c ht
      split
      · simp [ht]
      · refine State.withData_wf _ _ _ _ _ _ ?_ ht
        intro u b hu
        split
        · simp [hu]
        · split
          · split
            · simp [hu]
            · split
              · simp [hu]
              · split
                · simp [hu]
                · dsimp only
                  split
                  · split
                    · simp [hu]
                    · simp [hu]
                  · simp [hu]
          · simp [hu]
          · simp [hu]

theorem execVarSeal_mem (r : Nat) (_io : HostIo) (s : State) : ∃ t, execVarSeal r _io s = .next t ∧ t.mem = s.mem := by
  refine ⟨_, rfl, ?_⟩
  repeat' first | (simp; done) | (intro _) | split | apply State.runAdmin_mem | dsimp only

theorem execSealTakesEffect_mem (variant : Nat) (s : State) : ∃ t, execSealTakesEffect variant s = .next t ∧ t.mem = s.mem := by
  refine ⟨_, rfl, ?_⟩
  repeat' first | (simp; done) | (intro _) | split | apply foldl_mem | dsimp only

theorem execVarUnseal_mem (r : Nat) (io : HostIo) (s : State) : ∃ t, execVarUnseal r io s = .next t ∧ t.mem = s.mem := by
  refine ⟨_, rfl, ?_⟩
  repeat' first | (simp; done) | (intro _) | split | apply State.runAdmin_mem | apply State.withData_mem | dsimp only

theorem execVarUpdate_wf (r : Nat) (io : HostIo) (s : State) (okm : Memory.wf s.mem = true) : ∃ t, execVarUpdate r io s = .next t ∧ Memory.wf t.mem = true := by
  refine ⟨_, rfl, ?_⟩
  repeat' first | (simp_all; done) | (intro _) | split | (apply State.runAdmin_wf) | (apply State.changeOrWait_wf) | dsimp only

theorem execVarDrop_mem (r : Nat) (_io : HostIo) (s : State) : ∃ t, execVarDrop r _io s = .next t ∧ t.mem = s.mem := by
  refine ⟨_, rfl, ?_⟩
  repeat' first | (simp; done) | (intro _) | split | apply State.runAdmin_mem | apply State.changeOrWait_mem | dsimp only

theorem execVariantWaitEnd_wf (r : Nat) (io : HostIo) (s : State) (okm : Memory.wf s.mem = true) : ∃ t, execVariantWaitEnd r io s = .next t ∧ Memory.wf t.mem = true := by
  refine ⟨_, rfl, ?_⟩
  repeat' first | (simp_all; done) | (intro _) | split | dsimp only

@[simp] theorem State.withFetchWord_mem (s : State) (nbits w : Nat) : (State.withFetchWord s nbits w).mem = s.mem := by
  rfl

end Sys2Proof.Machine
end

