-- ==== Sys2Proof/Laws/Queue.lean ====
section
/-! SUPPORT. No command changes the queue of waiting commands: one lemma per operation and per command. The lemma of a
command also says that the command answers a next state. -/

namespace Sys2Proof.Machine

open Sys2Proof

@[simp] theorem foldl_pending {β : Type} (f : State → β → State) (l : List β) (s : State) (h : ∀ t x, (f t x).pending = t.pending) :
  (l.foldl f s).pending = s.pending := by induction l generalizing s with | nil => rfl | cons a l ih => simp [ih, h]

@[simp] theorem State.updFn_pending (s : State) (f : Nat) (g : Fn → Fn) : (State.updFn s f g).pending = s.pending := by
  rfl

@[simp] theorem State.modQ_pending (s : State) (q : Nat) (g : Queue → Queue) : (State.modQ s q g).pending = s.pending := by
  rfl

@[simp] theorem State.modCmd_pending (s : State) (r : Nat) (g : Cmd → Cmd) : (State.modCmd s r g).pending = s.pending := by
  rfl

@[simp] theorem State.modCtx_pending (s : State) (c : Nat) (g : Ctx → Ctx) : (State.modCtx s c g).pending = s.pending := by
  rfl

@[simp] theorem State.updUnit_pending (s : State) (u : Nat) (g : SUnit → SUnit) : (State.updUnit s u g).pending = s.pending := by
  rfl

@[simp] theorem State.updEng_pending (s : State) (e : Nat) (g : Eng → Eng) : (State.updEng s e g).pending = s.pending := by
  rfl

@[simp] theorem State.progress_pending (s : State) (e : Nat) : (State.progress s e).pending = s.pending := by
  rfl

@[simp] theorem State.updSrc_pending (s : State) (n : Nat) (g : TicSrc → TicSrc) : (State.updSrc s n g).pending = s.pending := by
  rfl

@[simp] theorem State.pulse_pending (s : State) (n : Nat) : (State.pulse s n).pending = s.pending := by
  simp only [State.pulse]; repeat' split
  all_goals simp

@[simp] theorem State.drawn_pending (s : State) : (State.drawn s).pending = s.pending := by
  rfl

@[simp] theorem State.elapse_pending (s : State) (dt : Nat) : (State.elapse s dt).pending = s.pending := by
  rfl

@[simp] theorem State.releasePorts_pending (s : State) (t : Nat) : (State.releasePorts s t).pending = s.pending := by
  simp only [State.releasePorts]; repeat' split
  all_goals simp

@[simp] theorem State.advanceTo_pending (s : State) (t : Nat) : (State.advanceTo s t).pending = s.pending := by
  unfold State.advanceTo; split <;> simp

@[simp] theorem State.pushHost_pending (s : State) (x : HostTx) : (State.pushHost s x).pending = s.pending := by
  rfl

@[simp] theorem State.pushHosts_pending (s : State) (l : List HostTx) : (State.pushHosts s l).pending = s.pending := by
  rfl

@[simp] theorem State.logPage_pending (s : State) (f page : Nat) : (State.logPage s f page).pending = s.pending := by
  simp only [State.logPage]; repeat' split
  all_goals simp

@[simp] theorem State.hostWrite_pending (s : State) (f addr : Nat) (data : Blob) : (State.hostWrite s f addr data).pending = s.pending := by
  unfold State.hostWrite; split <;> simp

@[simp] theorem State.hostRead_pending (s : State) (f addr len : Nat) : (State.hostRead s f addr len).pending = s.pending := by
  rfl

@[simp] theorem State.raiseVector_pending (s : State) (f v : Nat) : (State.raiseVector s f v).pending = s.pending := by
  simp only [State.raiseVector]; repeat' split
  all_goals simp

@[simp] theorem State.signalCq_pending (s : State) (q : Nat) : (State.signalCq s q).pending = s.pending := by
  unfold State.signalCq; split <;> simp

@[simp] theorem State.postEvent_pending (s : State) (f : Nat) (e : Event) (param : Nat) : (State.postEvent s f e param).pending = s.pending := by
  rfl

@[simp] theorem State.moraine_pending (s : State) (f n : Nat) : (State.moraine s f n).pending = s.pending := by
  rfl

@[simp] theorem State.releaseRefused_pending (s : State) (r : Nat) : (State.releaseRefused s r).pending = s.pending := by
  unfold State.releaseRefused; split <;> simp

@[simp] theorem State.endCmd_pending (s : State) (r : Nat) (st : Status) : (State.endCmd s r st).pending = s.pending := by
  simp [State.endCmd]

@[simp] theorem State.report_pending (s : State) (r : Nat) (st : Status) : (State.report s r st).pending = s.pending := by
  rfl

@[simp] theorem State.dropStreams_pending (s : State) (r : Nat) : (State.dropStreams s r).pending = s.pending := by
  rfl

@[simp] theorem State.crevMap_pending (s : State) (p : Crev → Bool) (f : Crev → Crev) : (State.crevMap s p f).pending = s.pending := by
  rfl

@[simp] theorem State.crevLeave_pending (s : State) (r : Nat) : (State.crevLeave s r).pending = s.pending := by
  rfl

@[simp] theorem State.failCmd_pending (s : State) (r : Nat) (st : Status) : (State.failCmd s r st).pending = s.pending := by
  unfold State.failCmd; split <;> simp

@[simp] theorem State.failAll_pending (s : State) (l : List Nat) (st : Status) : (State.failAll s l st).pending = s.pending := by
  simp [State.failAll]

@[simp] theorem State.sendTile_pending (s : State) (p : DownPkt) : (State.sendTile s p).pending = s.pending := by
  rfl

@[simp] theorem State.sendFloe_pending (s : State) (link : Nat) (m : FloeMsg) : (State.sendFloe s link m).pending = s.pending := by
  rfl

@[simp] theorem State.sendUart_pending (s : State) (l : List Nat) : (State.sendUart s l).pending = s.pending := by
  rfl

@[simp] theorem State.beginWake_pending (s : State) : (State.beginWake s).pending = s.pending := by
  rfl

@[simp] theorem State.startWake_pending (s : State) (src : WakeSrc) : (State.startWake s src).pending = s.pending := by
  unfold State.startWake; split <;> simp

@[simp] theorem State.delay_pending (s : State) (c : Instr) : (State.delay s c).pending = s.pending := by
  rfl

@[simp] theorem State.countUnmapped_pending (s : State) (n : Nat) : (State.countUnmapped s n).pending = s.pending := by
  rfl

@[simp] theorem State.updHalves_pending (s : State) (f : Nat) (g : Halves → Halves) : (State.updHalves s f g).pending = s.pending := by
  rfl

@[simp] theorem State.dropHeld_pending (s : State) (f : Nat) : (State.dropHeld s f).pending = s.pending := by
  unfold State.dropHeld; split <;> simp

@[simp] theorem State.config_pending (s : State) (c : Instr) (f : State → State) (hf : ∀ t , (f t ).pending = t.pending) : (State.config s c f).pending = s.pending := by
  simp only [State.config]; repeat' split
  all_goals simp [hf]

@[simp] theorem State.abortRead_pending (s : State) (f : Nat) : (State.abortRead s f).pending = s.pending := by
  rfl

@[simp] theorem State.access_pending (s : State) (c : Instr) (read : Bool) (f : State → State) (hf : ∀ t , (f t ).pending = t.pending) : (State.access s c read f).pending = s.pending := by
  simp only [State.access]; repeat' split
  all_goals simp [hf]

@[simp] theorem State.setFkt_pending (s : State) (tier frame : Nat) (e : Fkt) : (State.setFkt s tier frame e).pending = s.pending := by
  unfold State.setFkt; split <;> simp

@[simp] theorem State.clearFkt_pending (s : State) (tier frame : Nat) : (State.clearFkt s tier frame).pending = s.pending := by
  unfold State.clearFkt; split <;> simp

@[simp] theorem State.updKey_pending (s : State) (k : Nat) (f : KeySlot → KeySlot) : (State.updKey s k f).pending = s.pending := by
  rfl

@[simp] theorem State.fillKey_pending (s : State) (k : Nat) (owner : Option Nat) : (State.fillKey s k owner).pending = s.pending := by
  rfl

@[simp] theorem State.dropKey_pending (s : State) (k : Nat) : (State.dropKey s k).pending = s.pending := by
  rfl

@[simp] theorem State.modSlot_pending (s : State) (k : Nat) (f : VSlot → VSlot) : (State.modSlot s k f).pending = s.pending := by
  rfl

theorem State.newBlock_pending {s s' : State} {t : Nat} (h : s.newBlock t = some s') : s'.pending = s.pending := by
  simp only [State.newBlock] at h
  by_cases hn : s.varve.blocksIn t % 29 ≠ 0
  · rw [if_pos hn] at h; cases h; rfl
  · rw [if_neg hn] at h; obtain ⟨f, _, rfl⟩ := Option.map_eq_some_iff.mp h; simp

@[simp] theorem State.useSlot_pending (s : State) (k tier frame key : Nat) : (State.useSlot s k tier frame key).pending = s.pending := by
  rfl

theorem State.protect_pending {s s' : State} {tier frame key : Nat} (h : s.protect tier frame key = some s') : s'.pending = s.pending := by
  simp only [State.protect] at h
  split at h
  · cases h; simp
  · split at h
    · cases h
    · obtain ⟨t, ht, rfl⟩ := Option.map_eq_some_iff.mp h; simp [State.newBlock_pending ht]

theorem State.protectAll_pending {tier key : Nat} {l : List Nat} {s s' : State} (h : State.protectAll tier key l s = some s') : s'.pending = s.pending := by
  induction l generalizing s with
  | nil => cases h; rfl
  | cons f t ih =>
    simp only [State.protectAll] at h
    split at h
    · cases h
    · rename_i s2 h2; rw [ih h]; simp [State.protect_pending h2]

theorem State.takeFrames_pending {s s' : State} {tier : Nat} {e : Fkt} {l : List Nat} (h : s.takeFrames tier e l = some s') : s'.pending = s.pending := by
  simp only [State.takeFrames] at h
  split at h
  · rw [State.protectAll_pending h]; simp
  · cases h; simp

@[simp] theorem State.forgetFrame_pending (s : State) (tier frame : Nat) : (State.forgetFrame s tier frame).pending = s.pending := by
  rfl

@[simp] theorem State.releaseFrame_pending (s : State) (tier frame : Nat) : (State.releaseFrame s tier frame).pending = s.pending := by
  simp only [State.releaseFrame]; repeat' split
  all_goals simp

@[simp] theorem State.setPage_pending (s : State) (k p : Nat) (c : PageCtr) : (State.setPage s k p c).pending = s.pending := by
  simp only [State.setPage]; repeat' split
  all_goals simp

@[simp] theorem State.leaveWalk_pending (s : State) (key k p : Nat) : (State.leaveWalk s key k p).pending = s.pending := by
  rfl

@[simp] theorem State.chunkFetch_pending (s : State) (tier off : Nat) : (State.chunkFetch s tier off).pending = s.pending := by
  unfold State.chunkFetch; split <;> simp

@[simp] theorem State.chunkStore_pending (s : State) (tier off : Nat) : (State.chunkStore s tier off).pending = s.pending := by
  unfold State.chunkStore; split <;> simp

@[simp] theorem State.recrypt_pending (s : State) (k p : Nat) (c : PageCtr) : (State.recrypt s k p c).pending = s.pending := by
  simp only [State.recrypt]; repeat' split
  all_goals simp

@[simp] theorem State.endWalk_pending (s : State) (key : Nat) : (State.endWalk s key).pending = s.pending := by
  simp only [State.endWalk]; repeat' split
  all_goals try simp
  all_goals (apply foldl_pending; intro t x; try dsimp only)
  all_goals repeat' split
  all_goals first | (simp; done) | (apply foldl_pending; intro t x; (try dsimp only); (repeat' split) <;> simp)

@[simp] theorem State.startRekey_pending (s : State) (key : Nat) : (State.startRekey s key).pending = s.pending := by
  rfl

@[simp] theorem State.rekeyPage_pending (s : State) (key k p : Nat) (c : PageCtr) : (State.rekeyPage s key k p c).pending = s.pending := by
  simp only [State.rekeyPage]; repeat' split
  all_goals simp

@[simp] theorem State.reencrypt_pending (s : State) (k p : Nat) (v : VSlot) : (State.reencrypt s k p v).pending = s.pending := by
  simp only [State.reencrypt]; repeat' split
  all_goals simp

@[simp] theorem State.bumpMinor_pending (s : State) (k p g : Nat) : (State.bumpMinor s k p g).pending = s.pending := by
  unfold State.bumpMinor; split <;> simp

@[simp] theorem State.glazeWrite_pending (s : State) (tier off len : Nat) : (State.glazeWrite s tier off len).pending = s.pending := by
  simp only [State.glazeWrite]; repeat' split
  all_goals simp

@[simp] theorem State.writeNode_pending (s : State) (level pos : Nat) : (State.writeNode s level pos).pending = s.pending := by
  unfold State.writeNode; split <;> simp

@[simp] theorem State.halt_pending (s : State) (r : Seal) : (State.halt s r).pending = s.pending := by
  unfold State.halt; split <;> simp

@[simp] theorem State.append_pending (s : State) (f : Nat) (r : Receipt) : (State.append s f r).pending = s.pending := by
  simp only [State.append]; repeat' split
  all_goals simp

@[simp] theorem State.persistPut_pending (s : State) (o : Nat) (b : Blob) : (State.persistPut s o b).pending = s.pending := by
  rfl

@[simp] theorem State.putHeader_pending (s : State) (clean : Bool) : (State.putHeader s clean).pending = s.pending := by
  rfl

@[simp] theorem State.persistOne_pending (s : State) (x : Receipt) : (State.persistOne s x).pending = s.pending := by
  unfold State.persistOne
  dsimp only
  rw [State.putHeader_pending]
  simp

@[simp] theorem State.restartDue_pending (s : State) (f : Nat) : (State.restartDue s f).pending = s.pending := by
  unfold State.restartDue; split <;> simp

@[simp] theorem State.persistAll_pending (s : State) : (State.persistAll s).pending = s.pending := by
  simp [State.persistAll]

@[simp] theorem State.regionWrite_pending (s : State) (off : Nat) (b : Blob) : (State.regionWrite s off b).pending = s.pending := by
  simp [State.regionWrite]

@[simp] theorem State.regionPut_pending (s : State) (off : Nat) (b : Blob) : (State.regionPut s off b).pending = s.pending := by
  simp only [State.regionPut]; repeat' split
  all_goals try simp
  all_goals (apply foldl_pending; intro t x; try dsimp only)
  all_goals repeat' split
  all_goals first | (simp; done) | (apply foldl_pending; intro t x; (try dsimp only); (repeat' split) <;> simp)

@[simp] theorem State.placeTables_pending (s : State) (x : Nat) (ls : List Leaf) : (State.placeTables s x ls).pending = s.pending := by
  rfl

@[simp] theorem State.putTables_pending (s : State) (x : Nat) (ls : List Leaf) : (State.putTables s x ls).pending = s.pending := by
  simp [State.putTables]

@[simp] theorem State.crevWrite_pending (s : State) (r : Crev) : (State.crevWrite s r).pending = s.pending := by
  rfl

@[simp] theorem State.crevPost_pending (s : State) (r0 : Crev) : (State.crevPost s r0).pending = s.pending := by
  simp only [State.crevPost]; repeat' split
  all_goals simp

@[simp] theorem State.crevPostWaiting_pending (s : State) : (State.crevPostWaiting s).pending = s.pending := by
  unfold State.crevPostWaiting; split <;> simp

@[simp] theorem State.tileFault_pending (s : State) (r : Nat) (c : Cmd) (ls : List Leaf) (engines access missingVa : Nat) (ranges : List (Nat × Nat)) (early : Bool) : (State.tileFault s r c ls engines access missingVa ranges early).pending = s.pending := by
  simp only [State.tileFault]; repeat' split
  all_goals simp

@[simp] theorem State.rightsFault_pending (s : State) (c : Cmd) (engines access : Nat) (va : Nat) (ranges lack : List (Nat × Nat)) : (State.rightsFault s c engines access va ranges lack).pending = s.pending := by
  simp [State.rightsFault]

@[simp] theorem State.crevResolve_pending (s : State) (c lo hi : Nat) : (State.crevResolve s c lo hi).pending = s.pending := by
  unfold State.crevResolve; split <;> simp

@[simp] theorem State.crevWithdrawCtx_pending (s : State) (c : Nat) : (State.crevWithdrawCtx s c).pending = s.pending := by
  rfl

@[simp] theorem State.invalidate_pending (s : State) (c lo hi : Nat) (cmd : Option Nat) (change : Option Change) : (State.invalidate s c lo hi cmd change).pending = s.pending := by
  rfl

@[simp] theorem State.fktDeny_pending (s : State) (q : MemReq) : (State.fktDeny s q).pending = s.pending := by
  simp only [State.fktDeny]; repeat' split
  all_goals simp

@[simp] theorem State.hotCount_pending (s : State) (tier offset : Nat) (epoch : Option Nat) : (State.hotCount s tier offset epoch).pending = s.pending := by
  simp only [State.hotCount]; repeat' split
  all_goals simp

@[simp] theorem State.refuseBad_pending (s : State) (q : MemReq) : (State.refuseBad s q).pending = s.pending := by
  unfold State.refuseBad; split <;> simp

@[simp] theorem State.chunkWrite_pending (s : State) (q : MemReq) (data : Blob) : (State.chunkWrite s q data).pending = s.pending := by
  simp only [State.chunkWrite]; repeat' split
  all_goals simp

@[simp] theorem State.putGranule_pending (s : State) (q : MemReq) (data : Blob) : (State.putGranule s q data).pending = s.pending := by
  simp only [State.putGranule]; repeat' split
  all_goals simp

@[simp] theorem State.portWrite_pending (s : State) (q : MemReq) (data : Blob) : (State.portWrite s q data).pending = s.pending := by
  simp only [State.portWrite]; repeat' split
  all_goals try simp
  all_goals (apply foldl_pending; intro t x; try dsimp only)
  all_goals repeat' split
  all_goals first | (simp; done) | (apply foldl_pending; intro t x; (try dsimp only); (repeat' split) <;> simp)

@[simp] theorem State.chunkRead_pending (s : State) (q : MemReq) : (State.chunkRead s q).pending = s.pending := by
  simp only [State.chunkRead]; repeat' split
  all_goals simp

@[simp] theorem State.getGranule_pending (s : State) (q : MemReq) : (s.getGranule q).2.pending = s.pending := by
  simp only [State.getGranule]; repeat' split
  all_goals simp

/-- A fold over a pair of bytes and state. -/

theorem foldPair_pending {β : Type} (f : Blob × State → β → Blob × State) (l : List β) (x : Blob × State) (h : ∀ y a, (f y a).2.pending = y.2.pending) :
    (l.foldl f x).2.pending = x.2.pending := by induction l generalizing x with | nil => rfl | cons a l ih => simp [ih, h]

@[simp] theorem State.portRead_pending (s : State) (q : MemReq) (n : Nat) : (s.portRead q n).2.pending = s.pending := by
  simp only [State.portRead]; rw [foldPair_pending]; intro y a; (try dsimp only); split <;> simp

@[simp] theorem State.readVa_pending (s : State) (r : Nat) (c : Cmd) (ls : List Leaf) (va len : Nat) : (s.readVa r c ls va len).2.pending = s.pending := by
  simp only [State.readVa]; rw [foldPair_pending]; intro y a; (try dsimp only); repeat' split
  all_goals simp

@[simp] theorem putFrames_pending (a : Alloc) (q : MemReq) (f off : Nat) (b : Blob) (s : State) : (putFrames a q f off b s).pending = s.pending := by
  induction f generalizing off b s with
  | zero => rfl
  | succ f ih => simp only [putFrames]; split <;> simp [ih]

@[simp] theorem getFrames_pending (a : Alloc) (q : MemReq) (f off n : Nat) (s : State) : (getFrames a q f off n s).2.pending = s.pending := by
  induction f generalizing off n s with
  | zero => rfl
  | succ f ih => simp only [getFrames]; split <;> simp [ih]

@[simp] theorem State.allocPut_pending (s : State) (a : Alloc) (q : MemReq) (off : Nat) (b : Blob) : (State.allocPut s a q off b).pending = s.pending := by
  simp [State.allocPut]

@[simp] theorem State.allocGet_pending (s : State) (a : Alloc) (q : MemReq) (off n : Nat) : (s.allocGet a q off n).2.pending = s.pending := by
  simp [State.allocGet]

@[simp] theorem State.pageWritten_pending (s : State) (p : Page) (mem : List Host.Cell) : (State.pageWritten s p mem).pending = s.pending := by
  unfold State.pageWritten
  rw [foldl_pending]
  intro t o; simp

@[simp] theorem State.zeroPage_pending (s : State) (p : Page) : (State.zeroPage s p).pending = s.pending := State.pageWritten_pending _ _ _

@[simp] theorem State.copyPage_pending (s : State) (m : Move) : (State.copyPage s m).pending = s.pending := by
  unfold State.copyPage
  rw [State.pageWritten_pending, foldl_pending]
  intro t o; split <;> simp

@[simp] theorem State.doMoves_pending (s : State) (mv : List Move) (fresh : List Page) : (State.doMoves s mv fresh).pending = s.pending := by
  simp [State.doMoves]

@[simp] theorem State.syncSeq_pending (s : State) (i : Nat) (q : Sequence) : (State.syncSeq s i q).pending = s.pending := by
  simp [State.syncSeq]

@[simp] theorem State.syncSeqs_pending (s : State) : (State.syncSeqs s).pending = s.pending := by
  simp [State.syncSeqs]

theorem State.reserve_pending {s s' : State} {r seq n : Nat} {own : Option Nat} (h : s.reserve r seq n own = some s') : s'.pending = s.pending := by
  simp only [State.reserve] at h
  split at h
  · cases h
  · cases h; simp

@[simp] theorem State.fitBlocks_pending (s : State) (i : Nat) : (State.fitBlocks s i).pending = s.pending := by
  unfold State.fitBlocks; split <;> simp

@[simp] theorem State.unreserve_pending (s : State) (r : Nat) : (State.unreserve s r).pending = s.pending := by
  unfold State.unreserve; split <;> simp

@[simp] theorem State.freeSeqPages_pending (s : State) (i keep : Nat) : (State.freeSeqPages s i keep).pending = s.pending := by
  unfold State.freeSeqPages; split <;> simp

@[simp] theorem State.releaseSeq_pending (s : State) (i : Nat) : (State.releaseSeq s i).pending = s.pending := by
  simp [State.releaseSeq]

@[simp] theorem State.passBoundary_pending (s : State) : (State.passBoundary s).pending = s.pending := by
  unfold State.passBoundary; split <;> simp

@[simp] theorem State.takeTokens_pending (s : State) (c : Cmd) (take : Bool) : (State.takeTokens s c take).pending = s.pending := by
  rfl

@[simp] theorem State.loosen_pending (s : State) (i : Nat) : (State.loosen s i).pending = s.pending := by
  simp only [State.loosen]; repeat' split
  all_goals try simp
  all_goals (apply foldl_pending; intro t x; try dsimp only)
  all_goals repeat' split
  all_goals first | (simp; done) | (apply foldl_pending; intro t x; (try dsimp only); (repeat' split) <;> simp)

@[simp] theorem State.snowEnd_pending (s : State) (r : Nat) (ok : Bool) : (State.snowEnd s r ok).pending = s.pending := by
  simp only [State.snowEnd]; repeat' split
  all_goals simp

@[simp] theorem State.commitTokens_pending (s : State) (r : Nat) (c : Cmd) : (State.commitTokens s r c).pending = s.pending := by
  unfold State.commitTokens; split <;> simp

theorem foldPass_pending {β : Type} (f : Pass → β → Pass) (l : List β) (p : Pass) (h : ∀ q a, (f q a).s.pending = q.s.pending) :
    (l.foldl f p).s.pending = p.s.pending := by induction l generalizing p with | nil => rfl | cons a l ih => simp [ih, h]

@[simp] theorem Pass.grow_pending (p : Pass) (e : Nat × Cmd) : (p.grow e).s.pending = p.s.pending := by
  simp only [Pass.grow]; repeat' split
  · rfl
  · simp
  · rw [foldPass_pending]; intro q i; (try dsimp only); split
    · rfl
    · split
      · rename_i h; exact State.reserve_pending h
      · rfl

@[simp] theorem foldGrow_pending (l : List (Nat × Cmd)) (p : Pass) : (l.foldl Pass.grow p).s.pending = p.s.pending := foldPass_pending _ _ _ Pass.grow_pending

@[simp] theorem State.startStep_pending (s : State) (r : Nat) (c : Cmd) : (State.startStep s r c).pending = s.pending := by
  rfl

@[simp] theorem State.createSeq_pending (s : State) (r : Nat) (c : Cmd) : (State.createSeq s r c).pending = s.pending := by
  simp only [State.createSeq]; repeat' split
  all_goals simp

theorem Pass.join_pending (p : Pass) (e : Nat × Cmd) : (p.join e).s.pending = p.s.pending := by
  have h1 : ∀ (l : List Nat) (p : Pass), (l.foldl (fun (q : Pass) i =>
      if q.cut.isSome then q
      else match q.s.reserve e.1 i (q.s.lacks e.1 e.2 i) none with
        | some s1 => { q with s := s1 }
        | none => { q with cut := some e.1 }) p).s.pending = p.s.pending := by
    intro l p
    apply foldPass_pending
    intro q i
    split
    · rfl
    · split
      · rename_i h; exact State.reserve_pending h
      · rfl
  unfold Pass.join
  dsimp only
  repeat' split
  all_goals first | rfl | exact h1 _ _ | (simp; done) | (simp; exact h1 _ _)

@[simp] theorem joinPhase_pending (l : List (Nat × Cmd)) (p : Pass) : (joinPhase l p).s.pending = p.s.pending := by
  induction l generalizing p with
  | nil => rfl
  | cons e t ih => simp only [joinPhase]; repeat' split
                   all_goals simp [ih, Pass.join_pending]

@[simp] theorem Pass.over_pending (p : Pass) (l : List (Nat × Cmd)) : (p.over l).s.pending = p.s.pending := by
  unfold Pass.over; simp

@[simp] theorem State.applyLeaves_pending (s : State) : (State.applyLeaves s).pending = s.pending := by
  simp only [State.applyLeaves]; repeat' split
  all_goals try simp
  all_goals (apply foldl_pending; intro t x; try dsimp only)
  all_goals repeat' split
  all_goals first | (simp; done) | (apply foldl_pending; intro t x; (try dsimp only); (repeat' split) <;> simp)

@[simp] theorem State.passOver_pending (s : State) (l : List (Nat × Cmd)) (cut : Option Nat) : (s.passOver l cut).s.pending = s.pending := by
  have h : ∀ m : List (Nat × Cmd), (({ s := s } : Pass).over m).s.pending = s.pending := fun m => Pass.over_pending _ _
  unfold State.passOver
  dsimp only
  split
  · exact h _
  · split
    · exact h _
    · exact (Pass.over_pending _ _).trans (h _)

@[simp] theorem State.pass_pending (s : State) : s.pass.pending = s.pending := by
  have h : ∀ (l : List (Nat × Cmd)) (t : State), (l.foldl (fun (t : State) (e : Nat × Cmd) => t.unreserve e.1) t).pending = t.pending :=
    fun l t => foldl_pending _ _ _ (by simp)
  unfold State.pass
  rw [State.syncSeqs_pending]
  dsimp only
  split <;> simp [h]

@[simp] theorem writeAdapter_pending (a : Alloc) (q : MemReq) (l : List Placed) (b : Blob) (s : State) : (writeAdapter a q l b s).pending = s.pending := by
  induction l generalizing b s with
  | nil => rfl
  | cons p t ih => simp only [writeAdapter]; rw [ih]; simp

@[simp] theorem State.zeroTraining_pending (s : State) (a : Alloc) (q : MemReq) (lay : List Placed × Nat × Nat) (saveBytes : Nat) (grads : Bool) : (State.zeroTraining s a q lay saveBytes grads).pending = s.pending := by
  simp [State.zeroTraining]

@[simp] theorem State.zeroGradients_pending (s : State) (r : Nat) (c : Cmd) : (State.zeroGradients s r c).pending = s.pending := by
  simp only [State.zeroGradients]; repeat' split
  all_goals try simp
  all_goals (apply foldl_pending; intro t x; try dsimp only)
  all_goals repeat' split
  all_goals first | (simp; done) | (apply foldl_pending; intro t x; (try dsimp only); (repeat' split) <;> simp)

@[simp] theorem State.updSilt_pending (s : State) (n : Nat) (g : SiltEng → SiltEng) : (State.updSilt s n g).pending = s.pending := by
  rfl

@[simp] theorem State.readSlice_pending (s : State) (e r : Nat) (c : Cmd) (x : Slice) : (s.readSlice e r c x).pending = s.pending := by
  unfold State.readSlice
  repeat' split
  all_goals first | rfl | exact foldl_pending _ _ _ (by simp)

@[simp] theorem State.fetchSlice_pending (s : State) (e r : Nat) (c : Cmd) (x : Slice) : (State.fetchSlice s e r c x).pending = s.pending := by
  simp only [State.fetchSlice]; repeat' split
  all_goals simp

@[simp] theorem State.needSlice_pending (s : State) (e r : Nat) (c : Cmd) (x : Slice) : (State.needSlice s e r c x).pending = s.pending := by
  simp only [State.needSlice]; repeat' split
  all_goals simp

@[simp] theorem State.segmentSlices_pending (s : State) (e r : Nat) (c : Cmd) (xs : List Slice) : (State.segmentSlices s e r c xs).pending = s.pending := by
  simp [State.segmentSlices]

@[simp] theorem State.assign_pending (s : State) (t : Tap) (c : Cmd) : (State.assign s t c).pending = s.pending := by
  simp only [State.assign]; repeat' split
  all_goals simp

@[simp] theorem State.queueTap_pending (s : State) (t : Tap) (c : Cmd) : (State.queueTap s t c).pending = s.pending := by
  simp [State.queueTap]

@[simp] theorem State.refetch_pending (s : State) (t : Tap) (c : Cmd) : (State.refetch s t c).pending = s.pending := by
  simp [State.refetch]

@[simp] theorem State.computeParts_pending (s : State) (n : Nat) (xs : List Slice) : (State.computeParts s n xs).pending = s.pending := by
  rfl

@[simp] theorem State.cacheSlice_pending (s : State) (n : Nat) (x : Slice) : (State.cacheSlice s n x).pending = s.pending := by
  rfl

@[simp] theorem State.keepInters_pending (s : State) (t : Tap) (c : Cmd) : (State.keepInters s t c).pending = s.pending := by
  simp only [State.keepInters]; repeat' split
  all_goals try simp
  all_goals (apply foldl_pending; intro t x; try dsimp only)
  all_goals repeat' split
  all_goals first | (simp; done) | (apply foldl_pending; intro t x; (try dsimp only); (repeat' split) <;> simp)

@[simp] theorem State.siltClear_pending (s : State) (n : Nat) : (State.siltClear s n).pending = s.pending := by
  simp only [State.siltClear]; repeat' split
  all_goals try simp
  all_goals (apply foldl_pending; intro t x; try dsimp only)
  all_goals repeat' split
  all_goals first | (simp; done) | (apply foldl_pending; intro t x; (try dsimp only); (repeat' split) <;> simp)

@[simp] theorem State.answerNull_pending (s : State) (t : Tap) : (State.answerNull s t).pending = s.pending := by
  unfold State.answerNull; split <;> simp

@[simp] theorem State.addArray_pending (s : State) (a : Alloc) (q : MemReq) (off first : Nat) (vals : List Nat) : (State.addArray s a q off first vals).pending = s.pending := by
  unfold State.addArray; split <;> simp

@[simp] theorem State.saveRows_pending (s : State) (t : Tap) (c : Cmd) (rows : List Nat) (id k : Nat) (v : Variant) (a : Alloc) : (State.saveRows s t c rows id k v a).pending = s.pending := by
  simp [State.saveRows]

@[simp] theorem State.savedRows_pending (s : State) (t : Tap) (c : Cmd) (rows : List Nat) (id k : Nat) (v : Variant) (a : Alloc) :
    (s.savedRows t c rows id k v a).2.pending = s.pending := by
  have go : ∀ (l : List Nat) (y : List (List Fp) × State), (l.foldl (fun y i =>
      let x := y.2.allocGet a { a.req y.2.nodeId t.cmd c with epoch := some t.epoch } (v.savePlace c id k (t.first + i) + actBytes t.fmt t.ansFirst)
        (actBytes t.fmt t.ansCount)
      (y.1 ++ [readActs t.fmt t.ansCount x.1], x.2)) y).2.pending = y.2.pending := by
    intro l
    induction l with
    | nil => intro y; rfl
    | cons i l ih => intro y; simp [ih]
  exact go _ _

@[simp] theorem State.accumulateFor_pending (s : State) (t : Tap) (c : Cmd) (x : Arith) (id : Nat) : (s.accumulateFor t c x id).pending = s.pending := by
  have h3 : ∀ (l : List Comp) (u : State) (g : State → Comp → State) (_ : ∀ u c, (g u c).pending = u.pending), (l.foldl g u).pending = u.pending :=
    fun l u g h => foldl_pending g l u h
  unfold State.accumulateFor
  repeat' split
  all_goals first
    | rfl
    | (dsimp only
       simp only [State.saveRows_pending]
       rw [foldl_pending]
       · simp
       · intro u z; split <;> simp)
    | (dsimp only
       rw [foldl_pending]
       · simp
       · intro u z; split <;> simp)
    | (dsimp only
       rw [foldl_pending]
       intro u z; split <;> simp)
    | (dsimp only
       simp only [State.saveRows_pending]
       rw [foldl_pending]
       intro u z; split <;> simp)

@[simp] theorem State.accumulateTap_pending (s : State) (t : Tap) (c : Cmd) : (State.accumulateTap s t c).pending = s.pending := by
  unfold State.accumulateTap; split <;> simp

@[simp] theorem State.updateComp_pending (s : State) (q : MemReq) (v : Variant) (a : Alloc) (o : Opt) (stoch : Bool) (t base k : Nat) (cmp : Comp) : (State.updateComp s q v a o stoch t base k cmp).pending = s.pending := by
  unfold State.updateComp; split <;> simp

@[simp] theorem State.gradBad_pending (s : State) (q : MemReq) (v : Variant) (a : Alloc) : (s.gradBad q v a).2.pending = s.pending := by
  have h : ∀ (l : List Placed) (x : Bool × State), (l.foldl (fun (x : Bool × State) p =>
      let b := x.2.allocGet a q p.off (roundUp 512 (4 * p.elems))
      (x.1 || (List.range p.elems).any fun i => f32Bad (fld b.1 (4 * i) 4), b.2)) x).2.pending = x.2.pending := by
    intro l
    induction l with
    | nil => intro x; rfl
    | cons p l ih => intro x; rw [List.foldl_cons, ih]; simp
  exact h _ _

@[simp] theorem State.updateVariant_pending (s : State) (r : Nat) (c : Cmd) (o : Opt) (stoch : Bool) (id : Nat) :
    (s.updateVariant r c o stoch id).pending = s.pending := by
  have h : ∀ (g : Nat) (q : MemReq) (v : Variant) (a : Alloc) (t : Nat) (l : List (VarEntry × Nat)) (u : State),
      (l.foldl (fun u e => e.1.trained.foldl (fun w cmp => w.updateComp q v a o stoch t g e.2 cmp) u) u).pending = u.pending := by
    intro g q v a t l u
    rw [foldl_pending]; intro u e; rw [foldl_pending]; intro u e; simp
  simp only [State.updateVariant]
  repeat' split
  all_goals first | rfl | (simp; done) | exact h _ _ _ _ _ _ _

@[simp] theorem State.tear_pending (s : State) (c : Cmd) : (State.tear s c).pending = s.pending := by
  rfl

@[simp] theorem State.withdrawFns_pending (s : State) (r : Nat) : (State.withdrawFns s r).pending = s.pending := by
  rfl

@[simp] theorem State.withdrawUnits_pending (s : State) (r : Nat) : (State.withdrawUnits s r).pending = s.pending := by
  rfl

@[simp] theorem State.freeIdx_pending (s : State) (l : List Nat) : (State.freeIdx s l).pending = s.pending := by
  rfl

@[simp] theorem State.modImage_pending (s : State) (i : Nat) (g : Image → Image) : (State.modImage s i g).pending = s.pending := by
  rfl

@[simp] theorem State.absentImage_pending (s : State) (i : Nat) : (State.absentImage s i).pending = s.pending := by
  simp only [State.absentImage]; repeat' split
  all_goals simp

@[simp] theorem State.dropLoadVersion_pending (s : State) (l : Load) : (State.dropLoadVersion s l).pending = s.pending := by
  simp only [State.dropLoadVersion]; repeat' split
  all_goals simp

@[simp] theorem State.undrain_pending (s : State) (i : Nat) : (State.undrain s i).pending = s.pending := by
  unfold State.undrain; split <;> simp

@[simp] theorem State.withdrawLoad_pending (s : State) (r : Nat) : (State.withdrawLoad s r).pending = s.pending := by
  simp only [State.withdrawLoad]; repeat' split
  all_goals simp

@[simp] theorem State.withdraw_pending (s : State) (r : Nat) : (State.withdraw s r).pending = s.pending := by
  simp [State.withdraw]

@[simp] theorem State.pruneGraphs_pending (s : State) : (State.pruneGraphs s).pending = s.pending := by
  rfl

@[simp] theorem State.pruneImages_pending (s : State) : (State.pruneImages s).pending = s.pending := by
  simp only [State.pruneImages]; repeat' split
  all_goals simp

@[simp] theorem State.prune_pending (s : State) : (State.prune s).pending = s.pending := by
  simp [State.prune]

@[simp] theorem State.releaseSaves_pending (s : State) (r c : Nat) (ok : Bool) : (State.releaseSaves s r c ok).pending = s.pending := by
  simp only [State.releaseSaves]; repeat' split
  all_goals simp

@[simp] theorem State.finish_pending (s : State) (r : Nat) (st : Status) : (State.finish s r st).pending = s.pending := by
  simp only [State.finish]; repeat' split
  all_goals simp

@[simp] theorem State.discard_pending (s : State) (r : Nat) : (State.discard s r).pending = s.pending := by
  unfold State.discard; split <;> simp

@[simp] theorem State.drainIfIdle_pending (s : State) (r : Nat) : (State.drainIfIdle s r).pending = s.pending := by
  simp only [State.drainIfIdle]; repeat' split
  all_goals simp

@[simp] theorem State.fail_pending (s : State) (r : Nat) (st : Status) : (State.fail s r st).pending = s.pending := by
  simp [State.fail]

@[simp] theorem State.failList_pending (s : State) (l : List Nat) (st : Status) : (State.failList s l st).pending = s.pending := by
  simp [State.failList]

@[simp] theorem State.kill_pending (s : State) (r : Nat) (st : Status) : (State.kill s r st).pending = s.pending := by
  simp only [State.kill]; repeat' split
  all_goals simp

@[simp] theorem State.updLink_pending (s : State) (n : Nat) (g : Link → Link) : (State.updLink s n g).pending = s.pending := by
  rfl

@[simp] theorem State.updRing_pending (s : State) (k : Nat) (g : Ring → Ring) : (State.updRing s k g).pending = s.pending := by
  rfl

@[simp] theorem State.drivePhys_pending (s : State) (k : Nat) (release : Bool) : (State.drivePhys s k release).pending = s.pending := by
  rfl

@[simp] theorem State.driveBypass_pending (s : State) (k : Nat) (high : Bool) : (State.driveBypass s k high).pending = s.pending := by
  rfl

@[simp] theorem State.linkDown_pending (s : State) (n reason : Nat) : (State.linkDown s n reason).pending = s.pending := by
  simp [State.linkDown]

@[simp] theorem State.cutPassing_pending (s : State) (n : Nat) : (State.cutPassing s n).pending = s.pending := by
  rfl

@[simp] theorem State.dropLink_pending (s : State) (n reason : Nat) (joining : Bool) : (State.dropLink s n reason joining).pending = s.pending := by
  simp only [State.dropLink]; repeat' split
  all_goals simp

@[simp] theorem State.releaseRing_pending (s : State) (k reason : Nat) (failed : Bool) : (State.releaseRing s k reason failed).pending = s.pending := by
  simp [State.releaseRing]

@[simp] theorem State.beginJoin_pending (s : State) (k : Nat) : (State.beginJoin s k).pending = s.pending := by
  rfl

@[simp] theorem State.runReleases_pending (f : Nat) (s : State) : (State.runReleases f s).pending = s.pending := by
  induction f generalizing s with
  | zero => rfl
  | succ f ih => simp only [State.runReleases]; split <;> simp [ih]

@[simp] theorem State.ringCtl_pending (s : State) (k : Nat) (join : Bool) : (State.ringCtl s k join).pending = s.pending := by
  simp [State.ringCtl]

@[simp] theorem State.wantJoin_pending (s : State) (k : Nat) : (State.wantJoin s k).pending = s.pending := by
  unfold State.wantJoin; split <;> simp

@[simp] theorem State.sendFrame_pending (s : State) (n typ stream seq first : Nat) (payload : Blob) : (State.sendFrame s n typ stream seq first payload).pending = s.pending := by
  rfl

@[simp] theorem State.creditPassed_pending (s : State) (before : List TxItem) (after : List TxItem) : (State.creditPassed s before after).pending = s.pending := by
  simp only [State.creditPassed]; repeat' split
  all_goals try simp
  all_goals (apply foldl_pending; intro t x; try dsimp only)
  all_goals repeat' split
  all_goals first | (simp; done) | (apply foldl_pending; intro t x; (try dsimp only); (repeat' split) <;> simp)

@[simp] theorem State.sendData_pending (s : State) (n stream : Nat) : (State.sendData s n stream).pending = s.pending := by
  simp [State.sendData]

@[simp] theorem State.pumpFrames_pending (n f : Nat) (s : State) : (State.pumpFrames n f s).pending = s.pending := by
  induction f generalizing s with
  | zero => rfl
  | succ f ih => simp only [State.pumpFrames]; split <;> simp [ih]

@[simp] theorem State.pump_pending (s : State) (n : Nat) : (State.pump s n).pending = s.pending := by
  unfold State.pump; split <;> simp

@[simp] theorem State.toLink_pending (s : State) (n vc : Nat) (m : FloeMsg) : (State.toLink s n vc m).pending = s.pending := by
  simp [State.toLink]

@[simp] theorem State.startCensus_pending (s : State) (k : Nat) : (State.startCensus s k).pending = s.pending := by
  simp [State.startCensus]

@[simp] theorem State.linkMoved_pending (s : State) (k : Nat) : (State.linkMoved s k).pending = s.pending := by
  simp only [State.linkMoved]; repeat' split
  all_goals simp

@[simp] theorem State.loseLink_pending (s : State) (n reason : Nat) : (State.loseLink s n reason).pending = s.pending := by
  unfold State.loseLink; split <;> simp

@[simp] theorem State.trainLink_pending (s : State) (n : Nat) : (State.trainLink s n).pending = s.pending := by
  unfold State.trainLink; split <;> simp

@[simp] theorem State.retrain_pending (s : State) (n reason : Nat) (counted : Bool) : (State.retrain s n reason counted).pending = s.pending := by
  simp only [State.retrain]; repeat' split
  all_goals simp

@[simp] theorem State.resend_pending (s : State) (n : Nat) : (State.resend s n).pending = s.pending := by
  simp only [State.resend]; repeat' split
  all_goals simp

@[simp] theorem State.sendOn_pending (s : State) (r : Nat × Bool) (m : FloeMsg) : (State.sendOn s r m).pending = s.pending := by
  simp [State.sendOn]

@[simp] theorem State.floeDiscard_pending (s : State) : (State.floeDiscard s).pending = s.pending := by
  rfl

@[simp] theorem State.forward_pending (s : State) (link : Nat) (m : FloeMsg) : (State.forward s link m).pending = s.pending := by
  simp only [State.forward]; repeat' split
  all_goals simp

@[simp] theorem State.floeProtocol_pending (s : State) (n : Nat) : (State.floeProtocol s n).pending = s.pending := by
  rfl

@[simp] theorem State.answerMsg_pending (s : State) (m : FloeMsg) (typ status : Nat) (body : Blob) : (State.answerMsg s m typ status body).pending = s.pending := by
  unfold State.answerMsg; split <;> simp

@[simp] theorem State.endWork_pending (s : State) (q : MemReq) (st : Status) : (State.endWork s q st).pending = s.pending := by
  simp only [State.endWork]; repeat' split
  all_goals simp

@[simp] theorem State.unreachable_pending (s : State) (tag : Nat) (q : MemReq) : (State.unreachable s tag q).pending = s.pending := by
  simp [State.unreachable]

@[simp] theorem State.setRemote_pending (s : State) (tag : Nat) (x : Remote) : (State.setRemote s tag x).pending = s.pending := by
  rfl

@[simp] theorem State.sendRemote_pending (s : State) (tag : Nat) (x : Remote) : (State.sendRemote s tag x).pending = s.pending := by
  simp [State.sendRemote]

@[simp] theorem State.staleRemote_pending (s : State) (q : MemReq) : (State.staleRemote s q).pending = s.pending := by
  unfold State.staleRemote; split <;> simp

@[simp] theorem State.remoteIssue_pending (s : State) (q : MemReq) : (State.remoteIssue s q).pending = s.pending := by
  simp only [State.remoteIssue]; repeat' split
  all_goals simp

@[simp] theorem State.releaseHeld_pending (s : State) : (State.releaseHeld s).pending = s.pending := by
  simp only [State.releaseHeld]; repeat' split
  all_goals try simp
  all_goals (apply foldl_pending; intro t x; try dsimp only)
  all_goals repeat' split
  all_goals first | (simp; done) | (apply foldl_pending; intro t x; (try dsimp only); (repeat' split) <;> simp)

@[simp] theorem State.adoptCensus_pending (s : State) (k : Nat) (nodes : List Nat) : (State.adoptCensus s k nodes).pending = s.pending := by
  simp [State.adoptCensus]

@[simp] theorem State.linkUp_pending (s : State) (n farNode farLink : Nat) : (State.linkUp s n farNode farLink).pending = s.pending := by
  simp only [State.linkUp]; repeat' split
  all_goals simp

@[simp] theorem State.countFor_pending (s : State) (u x : Nat) (f : Cmd → Cmd) : (State.countFor s u x f).pending = s.pending := by
  rfl

@[simp] theorem State.sendPreempt_pending (s : State) (u x mode : Nat) : (State.sendPreempt s u x mode).pending = s.pending := by
  unfold State.sendPreempt; split <;> simp

@[simp] theorem State.stopStreams_pending (s : State) (u x : Nat) : (State.stopStreams s u x).pending = s.pending := by
  rfl

@[simp] theorem State.startStream_pending (s : State) (u r : Nat) (c : Cmd) (pass layer : Nat) (again : Bool) : (State.startStream s u r c pass layer again).pending = s.pending := by
  simp only [State.startStream]; repeat' split
  all_goals simp

@[simp] theorem State.marginLog_pending (s : State) (m : MarginEnt) : (State.marginLog s m).pending = s.pending := by
  simp only [State.marginLog]; repeat' split
  all_goals simp

@[simp] theorem State.layerDone_pending (s : State) (u : Nat) (w : Stream) (layer : Nat) : (State.layerDone s u w layer).pending = s.pending := by
  unfold State.layerDone; split <;> simp

@[simp] theorem State.sendItem_pending (s : State) (u k : Nat) (w : Stream) : (State.sendItem s u k w).pending = s.pending := by
  simp only [State.sendItem]; repeat' split
  all_goals simp

@[simp] theorem State.sendAhead_pending (u n : Nat) (s : State) : (State.sendAhead u n s).pending = s.pending := by
  induction n generalizing s with
  | zero => rfl
  | succ n ih => simp only [State.sendAhead]; (repeat' split) <;> simp [ih]

@[simp] theorem State.modSave_pending (s : State) (x u : Nat) (f : SaveArea → SaveArea) : (State.modSave s x u f).pending = s.pending := by
  rfl

@[simp] theorem State.nowHolds_pending (s : State) (u x : Nat) : (State.nowHolds s u x).pending = s.pending := by
  rfl

@[simp] theorem State.resume_pending (s : State) (u x mode pass layer : Nat) : (State.resume s u x mode pass layer).pending = s.pending := by
  simp only [State.resume]; repeat' split
  all_goals simp

@[simp] theorem State.bringIn_pending (s : State) (u x : Nat) : (State.bringIn s u x).pending = s.pending := by
  simp only [State.bringIn]; repeat' split
  all_goals simp

@[simp] theorem State.switchOut_pending (s : State) (u x : Nat) : (State.switchOut s u x).pending = s.pending := by
  simp only [State.switchOut]; repeat' split
  all_goals simp

@[simp] theorem State.switchOn_pending (s : State) (u : Nat) : (State.switchOn s u).pending = s.pending := by
  simp only [State.switchOn]; repeat' split
  all_goals simp

@[simp] theorem State.grantTurn_pending (s : State) (u : Nat) (p : Pick) : (State.grantTurn s u p).pending = s.pending := by
  unfold State.grantTurn; split <;> simp

@[simp] theorem State.endTurn_pending (s : State) (u : Nat) : (State.endTurn s u).pending = s.pending := by
  rfl

@[simp] theorem State.cutTurn_pending (s : State) (u : Nat) : (State.cutTurn s u).pending = s.pending := by
  simp only [State.cutTurn]; repeat' split
  all_goals simp

@[simp] theorem State.noteRealtime_pending (s : State) (u : Nat) : (State.noteRealtime s u).pending = s.pending := by
  rfl

@[simp] theorem State.settleUnit_pending (s : State) (u : Nat) : (State.settleUnit s u).pending = s.pending := by
  simp only [State.settleUnit]; repeat' split
  all_goals simp

@[simp] theorem State.settle_pending (s : State) : (State.settle s).pending = s.pending := by
  simp [State.settle]

@[simp] theorem State.writeSlotStates_pending (s : State) (x : Nat) : (State.writeSlotStates s x).pending = s.pending := by
  unfold State.writeSlotStates; split <;> simp

@[simp] theorem State.swapInCtx_pending (s : State) (x : Nat) : (State.swapInCtx s x).pending = s.pending := by
  simp [State.swapInCtx]

@[simp] theorem State.freeSlots_pending (s : State) (x : Nat) : (State.freeSlots s x).pending = s.pending := by
  rfl

@[simp] theorem State.evictCtx_pending (s : State) (x : Nat) : (State.evictCtx s x).pending = s.pending := by
  simp [State.evictCtx]

@[simp] theorem State.unverifiable_pending (s : State) (level pos : Nat) (owner : Option Nat) : (State.unverifiable s level pos owner).pending = s.pending := by
  simp only [State.unverifiable]; repeat' split
  all_goals simp

@[simp] theorem State.runAdmin_pending (s : State) (r opc : Nat) (f : State → Cmd → State) (hf : ∀ t x0, (f t x0).pending = t.pending) : (State.runAdmin s r opc f).pending = s.pending := by
  simp only [State.runAdmin]; repeat' split
  all_goals simp [hf]

@[simp] theorem State.commit_pending (s : State) (r : Nat) : (State.commit s r).pending = s.pending := by
  rfl

@[simp] theorem State.handOver_pending (s : State) (r : Nat) : (State.handOver s r).pending = s.pending := by
  rfl

@[simp] theorem State.park_pending (s : State) (r : Nat) : (State.park s r).pending = s.pending := by
  rfl

@[simp] theorem State.withData_pending (s : State) (r : Nat) (c : Cmd) (io : HostIo) (n : Nat) (f : State → Blob → State) (hf : ∀ t x0, (f t x0).pending = t.pending) : (State.withData s r c io n f).pending = s.pending := by
  simp only [State.withData]; repeat' split
  all_goals simp [hf]

@[simp] theorem State.writeResult_pending (s : State) (c : Cmd) (b : Blob) : (State.writeResult s c b).pending = s.pending := by
  simp [State.writeResult]

@[simp] theorem State.answer_pending (s : State) (r : Nat) (c : Cmd) (io : HostIo) (b : Blob) (eff : State → State) (heff : ∀ t , (eff t ).pending = t.pending) : (State.answer s r c io b eff).pending = s.pending := by
  unfold State.answer; split <;> simp [heff]

@[simp] theorem State.failWith_pending (s : State) (r : Nat) (c : Cmd) (io : HostIo) (b : Blob) (st : Status) : (State.failWith s r c io b st).pending = s.pending := by
  simp [State.failWith]

@[simp] theorem State.adoptLink_pending (s : State) (n : Nat) (data : Blob) : (State.adoptLink s n data).pending = s.pending := by
  simp only [State.adoptLink]; repeat' split
  all_goals simp

@[simp] theorem State.adoptEffect_pending (s : State) (e : Nat) (i : CfgItem) : (State.adoptEffect s e i).pending = s.pending := by
  simp only [State.adoptEffect]; repeat' split
  all_goals simp

@[simp] theorem State.completeEffect_pending (s : State) (x : Staged) : (State.completeEffect s x).pending = s.pending := by
  unfold State.completeEffect; split <;> simp

@[simp] theorem State.answerStaged_pending (s : State) (x : Staged) : (State.answerStaged s x).pending = s.pending := by
  unfold State.answerStaged; split <;> simp

@[simp] theorem State.completeEpochs_pending (f : Nat) (s : State) : (State.completeEpochs f s).pending = s.pending := by
  induction f generalizing s with
  | zero => rfl
  | succ f ih => simp only [State.completeEpochs]; repeat' split
                 all_goals simp [ih]

@[simp] theorem State.completeDue_pending (s : State) : (State.completeDue s).pending = s.pending := by
  simp [State.completeDue]

@[simp] theorem State.adoptOne_pending (s : State) (e : Nat) (force : Bool) : (State.adoptOne s e force).pending = s.pending := by
  simp only [State.adoptOne]; repeat' split
  all_goals simp

@[simp] theorem State.adoptAll_pending (s : State) (e : Nat) : (State.adoptAll s e).pending = s.pending := by
  simp [State.adoptAll]

@[simp] theorem State.stage_pending (s : State) (i : CfgItem) (cmd : Option Nat) : (State.stage s i cmd).pending = s.pending := by
  simp [State.stage]

@[simp] theorem State.stageFor_pending (s : State) (r : Nat) (c : Cmd) (i : CfgItem) (io : HostIo) (eff : State → State) (heff : ∀ t , (eff t ).pending = t.pending) : (State.stageFor s r c i io eff).pending = s.pending := by
  unfold State.stageFor; split <;> simp [heff]

@[simp] theorem State.setErr_pending (s : State) (b : Nat) : (State.setErr s b).pending = s.pending := by
  rfl

@[simp] theorem State.openRecord_pending (s : State) (r : RstRec) : (s.openRecord r).2.pending = s.pending := by
  simp only [State.openRecord]; split <;> simp

@[simp] theorem State.modRecord_pending (s : State) (slot : Nat) (f : RstRec → RstRec) : (State.modRecord s slot f).pending = s.pending := by
  rfl

@[simp] theorem State.closeRecord_pending (s : State) (slot outcome : Nat) (fenced : Bool) : (State.closeRecord s slot outcome fenced).pending = s.pending := by
  simp only [State.closeRecord]; repeat' split
  all_goals simp

@[simp] theorem State.killCtx_pending (s : State) (x : Nat) (st : Status) : (State.killCtx s x st).pending = s.pending := by
  simp only [State.killCtx]; repeat' split
  all_goals try simp
  all_goals (apply foldl_pending; intro t x; try dsimp only)
  all_goals repeat' split
  all_goals first | (simp; done) | (apply foldl_pending; intro t x; (try dsimp only); (repeat' split) <;> simp)

@[simp] theorem State.oosCmd_pending (s : State) (tarn : Bool) (r : Nat) : (State.oosCmd s tarn r).pending = s.pending := by
  simp only [State.oosCmd]; repeat' split
  all_goals simp

@[simp] theorem State.holdDomain_pending (s : State) : (State.holdDomain s).pending = s.pending := by
  rfl

@[simp] theorem State.closeIfOpen_pending (s : State) (slot outcome : Nat) : (State.closeIfOpen s slot outcome).pending = s.pending := by
  unfold State.closeIfOpen; split <;> simp

@[simp] theorem State.outOfService_pending (s : State) (cause engine : Nat) : (State.outOfService s cause engine).pending = s.pending := by
  have h : ∀ (l : List (Nat × Cmd)) (t : State), (l.foldl (fun t e => if e.2.updating then t.tear e.2 else t) t).pending = t.pending :=
    fun l t => foldl_pending _ _ _ (by intro t e; split <;> simp)
  have h2 : ∀ (l : List Nat) (t : State), (l.foldl (fun t n => t.closeIfOpen n 3) t).pending = t.pending := fun l t => foldl_pending _ _ _ (by simp)
  have h3 : ∀ (l : List Nat) (b : Bool) (t : State), (l.foldl (State.oosCmd · b ·) t).pending = t.pending := fun l b t => foldl_pending _ _ _ (by simp)
  simp only [State.outOfService]
  repeat' split
  all_goals simp [h, h2, h3]

@[simp] theorem State.nullTaps_pending (s : State) (x : Nat) : (State.nullTaps s x).pending = s.pending := by
  simp [State.nullTaps]

@[simp] theorem State.abandon_pending (s : State) (x u : Nat) : (State.abandon s x u).pending = s.pending := by
  rfl

@[simp] theorem State.ctxResetDone_pending (s : State) (x : Nat) : (State.ctxResetDone s x).pending = s.pending := by
  simp only [State.ctxResetDone]; repeat' split
  all_goals simp

@[simp] theorem State.ctxResetSettle_pending (s : State) (x : Nat) : (State.ctxResetSettle s x).pending = s.pending := by
  simp only [State.ctxResetSettle]; repeat' split
  all_goals simp

@[simp] theorem State.ctxResetAnswered_pending (s : State) (x u : Nat) : (State.ctxResetAnswered s x u).pending = s.pending := by
  simp only [State.ctxResetAnswered]; repeat' split
  all_goals simp

@[simp] theorem State.freeDescs_pending (s : State) (x : Nat) : (State.freeDescs s x).pending = s.pending := by
  rfl

@[simp] theorem State.contextReset_pending (s : State) (x cause detail : Nat) (victim : Option (Nat × Status)) (cmd : Option Nat) : (State.contextReset s x cause detail victim cmd).pending = s.pending := by
  simp only [State.contextReset]; repeat' split
  all_goals simp

@[simp] theorem State.rewind_pending (s : State) (x p : Nat) : (State.rewind s x p).pending = s.pending := by
  unfold State.rewind; split <;> simp

@[simp] theorem State.blame_pending (s : State) (slot x : Nat) : (State.blame s slot x).pending = s.pending := by
  simp [State.blame]

@[simp] theorem State.sendBack_pending (s : State) (slot x : Nat) : (State.sendBack s slot x).pending = s.pending := by
  simp [State.sendBack]

@[simp] theorem State.recoverCtx_pending (s : State) (slot : Nat) (guilty : List Nat) (x : Nat) (ps : List Nat) : (State.recoverCtx s slot guilty x ps).pending = s.pending := by
  simp only [State.recoverCtx]; repeat' split
  all_goals simp

@[simp] theorem State.countLost_pending (s : State) (slot n : Nat) : (State.countLost s slot n).pending = s.pending := by
  rfl

@[simp] theorem State.recover_pending (s : State) (slot : Nat) (guilty : List Nat) (lost : List (Nat × Nat)) : (State.recover s slot guilty lost).pending = s.pending := by
  simp [State.recover]

@[simp] theorem State.seracDown_pending (s : State) (p : Nat) (hold : Bool) : (State.seracDown s p hold).pending = s.pending := by
  rfl

@[simp] theorem State.preemptOccupant_pending (s : State) (all : Bool) (u : Nat) : (State.preemptOccupant s all u).pending = s.pending := by
  simp only [State.preemptOccupant]; repeat' split
  all_goals simp

@[simp] theorem State.siltCut_pending (s : State) (n slot : Nat) (guilty : Option Nat) : (State.siltCut s n slot guilty).pending = s.pending := by
  simp only [State.siltCut]; repeat' split
  all_goals try simp
  all_goals (apply foldl_pending; intro t x; try dsimp only)
  all_goals repeat' split
  all_goals first | (simp; done) | (apply foldl_pending; intro t x; (try dsimp only); (repeat' split) <;> simp)

@[simp] theorem State.rewriteBurst_pending (s : State) (q : Queue) : (State.rewriteBurst s q).pending = s.pending := by
  unfold State.rewriteBurst; split <;> simp

@[simp] theorem State.placeWalk_pending (s : State) (w : Walk) : (State.placeWalk s w).pending = s.pending := by
  unfold State.placeWalk; split <;> simp

@[simp] theorem State.nextWalk_pending (s : State) : (State.nextWalk s).pending = s.pending := by
  unfold State.nextWalk; split <;> simp

@[simp] theorem State.handWalk_pending (s : State) (n : Nat) : (State.handWalk s n).pending = s.pending := by
  unfold State.handWalk; split <;> simp

@[simp] theorem State.againWalk_pending (s : State) (p : Nat → Bool) : (State.againWalk s p).pending = s.pending := by
  rfl

@[simp] theorem State.engineBegin_pending (s : State) (e : Nat) : (State.engineBegin s e).pending = s.pending := by
  unfold State.engineBegin
  dsimp only
  by_cases h : e / 256 = 1
  · rw [if_pos h]; simp
  rw [if_neg h]; clear h
  by_cases h : e / 256 = 2
  · rw [if_pos h, State.siltClear_pending]; split <;> simp
  rw [if_neg h]; clear h
  by_cases h : e / 256 = 3
  · rw [if_pos h]; exact foldl_pending _ _ _ (by simp)
  rw [if_neg h]; clear h
  by_cases h : e / 256 = 5
  · rw [if_pos h]; split <;> simp
  rw [if_neg h]; clear h
  by_cases h : e / 256 = 6
  · rw [if_pos h]; simp
  rw [if_neg h]; clear h
  by_cases h : e / 256 = 7
  · rw [if_pos h]
  rw [if_neg h]; clear h
  by_cases h : e / 256 = 8
  · rw [if_pos h]; simp
  rw [if_neg h]; clear h
  by_cases h : e / 256 = 9
  · rw [if_pos h]; dsimp only; rw [State.freeIdx_pending]; exact foldl_pending _ _ _ (by simp)
  rw [if_neg h]

@[simp] theorem State.loseCluster_pending (s : State) (p slot : Nat) (guilty : List Nat) : (State.loseCluster s p slot guilty).pending = s.pending := by
  simp only [State.loseCluster]; repeat' split
  all_goals try simp
  all_goals (apply foldl_pending; intro t x; try dsimp only)
  all_goals repeat' split
  all_goals first | (simp; done) | (apply foldl_pending; intro t x; (try dsimp only); (repeat' split) <;> simp)

@[simp] theorem State.markFenced_pending (s : State) (e : Nat) : (State.markFenced s e).pending = s.pending := by
  simp [State.markFenced]

@[simp] theorem State.fenceSerac_pending (s : State) (p slot : Nat) (guilty : List Nat) : (State.fenceSerac s p slot guilty).pending = s.pending := by
  simp only [State.fenceSerac]; repeat' split
  all_goals simp

@[simp] theorem State.rtReplace_pending (s : State) (n : Nat) : (State.rtReplace s n).pending = s.pending := by
  simp only [State.rtReplace]; repeat' split
  all_goals simp

@[simp] theorem State.fence_pending (s : State) (e slot : Nat) (guilty : Option Nat) : (s.fence e slot guilty).pending = s.pending := by
  have h3 : ∀ (l : List Nat) (b : Bool) (t : State), (l.foldl (State.preemptOccupant · b ·) t).pending = t.pending := fun l b t => foldl_pending _ _ _ (by simp)
  have h4 : ∀ (l : List Nat) (t : State), (l.foldl (fun u p => if u.present p && !(u.eng (seracEngine p)).fenced then u.fenceSerac p slot guilty.toList
      else u) t).pending = t.pending := fun l t => foldl_pending _ _ _ (by intro t p; split <;> simp)
  simp only [State.fence, State.completeDue_pending]
  repeat' split
  all_goals simp only [h3, h4, State.fenceSerac_pending, State.outOfService_pending, State.rtReplace_pending, State.siltClear_pending, State.siltCut_pending, State.markFenced_pending,
    State.updLink_pending, State.releaseRing_pending, State.blame_pending, State.handWalk_pending]

@[simp] theorem State.tarnRestart_pending (s : State) (cause esc : Nat) : (State.tarnRestart s cause esc).pending = s.pending := by
  simp only [State.tarnRestart]; repeat' split
  all_goals simp

@[simp] theorem State.joinReset_pending (s : State) (e : Nat) : (State.joinReset s e).pending = s.pending := by
  unfold State.joinReset; split <;> simp

@[simp] theorem State.engineReset_pending (s : State) (e cause : Nat) (guilty : Option Nat) (detail esc : Nat) : (State.engineReset s e cause guilty detail esc).pending = s.pending := by
  simp only [State.engineReset]; repeat' split
  all_goals simp

@[simp] theorem State.retrainAfter_pending (s : State) (n : Nat) : (State.retrainAfter s n).pending = s.pending := by
  unfold State.retrainAfter; split <;> simp

@[simp] theorem State.readAgain_pending (s : State) (n : Nat) : (State.readAgain s n).pending = s.pending := by
  simp only [State.readAgain]; repeat' split
  all_goals try simp
  all_goals (apply foldl_pending; intro t x; try dsimp only)
  all_goals repeat' split
  all_goals first | (simp; done) | (apply foldl_pending; intro t x; (try dsimp only); (repeat' split) <;> simp)

@[simp] theorem State.engineDone_pending (s : State) (e : Nat) : (State.engineDone s e).pending = s.pending := by
  simp only [State.engineDone]; repeat' split
  all_goals simp

@[simp] theorem State.domainBegin_pending (s : State) : s.domainBegin.pending = s.pending := by
  simp only [State.domainBegin]
  rw [foldl_pending]
  · (try dsimp only)
    rw [foldl_pending]
    · (try dsimp only)
      rw [foldl_pending]
      · rw [foldl_pending]; intro t e; (try dsimp only); split <;> simp
      · intro t p; split <;> simp
    · intro t e; split <;> simp
  · intro t e; simp

@[simp] theorem State.domainReset_pending (s : State) (cause : Nat) (guilty : Option Nat) (engine esc : Nat) (lost : List (Nat × Nat)) : (State.domainReset s cause guilty engine esc lost).pending = s.pending := by
  simp only [State.domainReset]; repeat' split
  all_goals simp

@[simp] theorem State.domainDone_pending (s : State) : (State.domainDone s).pending = s.pending := by
  unfold State.domainDone; split <;> simp

@[simp] theorem State.engineOverdue_pending (s : State) (e : Nat) : (State.engineOverdue s e).pending = s.pending := by
  simp only [State.engineOverdue]; repeat' split
  all_goals simp

@[simp] theorem State.portError_pending (s : State) (u cause : Nat) : (State.portError s u cause).pending = s.pending := by
  simp [State.portError]

@[simp] theorem State.interruptCq_pending (s : State) (i : Nat) : (State.interruptCq s i).pending = s.pending := by
  simp only [State.interruptCq]; repeat' split
  all_goals simp

@[simp] theorem State.emitCqe_pending (s : State) (i : Nat) (e : Cqe) : (State.emitCqe s i e).pending = s.pending := by
  simp only [State.emitCqe]; repeat' split
  all_goals simp

@[simp] theorem State.checkPark_pending (s : State) (f : Nat) : (State.checkPark s f).pending = s.pending := by
  simp only [State.checkPark]; repeat' split
  all_goals simp

@[simp] theorem State.parkCqe_pending (s : State) (i : Nat) (e : Cqe) : (State.parkCqe s i e).pending = s.pending := by
  simp only [State.parkCqe]; repeat' split
  all_goals simp

@[simp] theorem State.checkParks_pending (s : State) : (State.checkParks s).pending = s.pending := by
  simp [State.checkParks]

@[simp] theorem State.unpark_pending (s : State) (f : Nat) (l : List Parked) : (State.unpark s f l).pending = s.pending := by
  simp [State.unpark]

@[simp] theorem State.produceCqe_pending (s : State) (i : Nat) (e : Cqe) : (State.produceCqe s i e).pending = s.pending := by
  simp only [State.produceCqe]; repeat' split
  all_goals simp

@[simp] theorem State.breakCq_pending (s : State) (i : Nat) : (State.breakCq s i).pending = s.pending := by
  simp only [State.breakCq]; repeat' split
  all_goals simp

theorem State.replayTake_pending {s t : State} {i : Nat} {q : Queue} {e : Cqe} (h : s.replayTake i q = some (e, t)) : t.pending = s.pending := by
  unfold State.replayTake at h
  repeat' split at h
  all_goals first | (cases h; simp; done) | cases h

@[simp] theorem State.tookCqe_pending (s : State) (i : Nat) : (State.tookCqe s i).pending = s.pending := by
  rfl

@[simp] theorem State.replayPump_pending (f : Nat) (s : State) : (State.replayPump f s).pending = s.pending := by
  induction f generalizing s with
  | zero => rfl
  | succ f ih =>
    simp only [State.replayPump]
    repeat' split
    all_goals first | rfl | (rename_i h; rw [ih]; simp [State.replayTake_pending h])

@[simp] theorem State.replayOnward_pending (s : State) : s.replayOnward.pending = s.pending := by
  unfold State.replayOnward; split <;> simp

@[simp] theorem State.replayEnd_pending (s : State) (i : Nat) : (State.replayEnd s i).pending = s.pending := by
  simp only [State.replayEnd]; repeat' split
  all_goals simp

@[simp] theorem State.replayStep_pending (s : State) (i : Nat) : (State.replayStep s i).pending = s.pending := by
  simp only [State.replayStep]; repeat' split
  all_goals simp

@[simp] theorem State.replayFail_pending (s : State) (i : Nat) : (State.replayFail s i).pending = s.pending := by
  simp only [State.replayFail]; repeat' split
  all_goals simp

@[simp] theorem State.discardParked_pending (s : State) (f : Nat) : (State.discardParked s f).pending = s.pending := by
  simp only [State.discardParked]; repeat' split
  all_goals try simp
  all_goals (apply foldl_pending; intro t x; try dsimp only)
  all_goals repeat' split
  all_goals first | (simp; done) | (apply foldl_pending; intro t x; (try dsimp only); (repeat' split) <;> simp)

@[simp] theorem State.refuseDoorbell_pending (s : State) (i : Nat) (q : Queue) : (State.refuseDoorbell s i q).pending = s.pending := by
  rfl

@[simp] theorem State.rejectDoorbell_pending (s : State) : (State.rejectDoorbell s).pending = s.pending := by
  rfl

@[simp] theorem State.ringTail_pending (s : State) (i : Nat) (q : Queue) (v : Nat) : (State.ringTail s i q v).pending = s.pending := by
  unfold State.ringTail; split <;> simp

@[simp] theorem State.ringHead_pending (s : State) (i : Nat) (q : Queue) (v : Nat) : (State.ringHead s i q v).pending = s.pending := by
  simp only [State.ringHead]; repeat' split
  all_goals simp

@[simp] theorem State.ringMask_pending (s : State) (i : Nat) (q : Queue) (v : Nat) : (State.ringMask s i q v).pending = s.pending := by
  unfold State.ringMask; split <;> simp

@[simp] theorem State.writeEvent_pending (s : State) (f : Nat) : (State.writeEvent s f).pending = s.pending := by
  simp only [State.writeEvent]; repeat' split
  all_goals simp

@[simp] theorem State.refuseEntry_pending (s : State) (c : Cmd) (st : Status) : (State.refuseEntry s c st).pending = s.pending := by
  rfl

@[simp] theorem State.markLeaving_pending (s : State) (r : Nat) (c : Cmd) : (State.markLeaving s r c).pending = s.pending := by
  unfold State.markLeaving; split <;> simp

@[simp] theorem State.countHeld_pending (s : State) (r : Nat) (c : Cmd) : (State.countHeld s r c).pending = s.pending := by
  rfl

@[simp] theorem State.noteAdmitted_pending (s : State) (c : Cmd) : (State.noteAdmitted s c).pending = s.pending := by
  rfl

@[simp] theorem State.acceptIo_pending (s : State) (c : Cmd) (x : Ctx) (l : List BatchEnt) (nodes : List Node) (gv : Nat) : (State.acceptIo s c x l nodes gv).pending = s.pending := by
  simp only [State.acceptIo]; repeat' split
  all_goals simp

theorem State.batchPath_pending {s t : State} {c : Cmd} {x : Ctx} {va len : Nat} {ecc : Ecc} {chk : PathCheck} {st : Option Status}
    (h : s.batchPath c x va len ecc chk = some (st, t)) : t.pending = s.pending := by
  unfold State.batchPath at h
  repeat' split at h
  all_goals first | (cases h; simp; done) | cases h

@[simp] theorem State.readBatch_pending (s : State) (c : Cmd) (x : Ctx) (ecc : Ecc) (chk : PathCheck) (away : Blob) :
    (s.readBatch c x ecc chk away).2.pending = s.pending := by
  simp only [State.readBatch]; repeat' split
  all_goals first | rfl | (rename_i h; exact State.batchPath_pending h) | simp

@[simp] theorem State.admitIo_pending (s : State) (q : Queue) (c : Cmd) (x : Ctx) (ecc : Ecc) (chk : PathCheck) (away : Blob) :
    (s.admitIo q c x ecc chk away).pending = s.pending := by
  unfold State.admitIo
  split
  · simp
  · have e := State.readBatch_pending s c x ecc chk away
    split
    · rename_i h; rw [h] at e; simpa using e
    · rename_i h; rw [h] at e; simpa using e
    · rename_i h; rw [h] at e
      dsimp only
      generalize (if opIsStep c.opcode = true then _ else _ : Option Status) = st
      repeat' split
      all_goals simpa using e

@[simp] theorem State.takeEntry_pending (s : State) (i : Nat) (q : Queue) (e : Fetched) (rest : List Fetched) : (State.takeEntry s i q e rest).pending = s.pending := by
  rfl

@[simp] theorem State.admitOne_pending (s : State) (i : Nat) (ecc : Ecc) (chk : PathCheck) (away : Blob) : (s.admitOne i ecc chk away).pending = s.pending := by
  simp only [State.admitOne]; repeat' split
  all_goals simp

@[simp] theorem State.grantFetch_pending (s : State) (i : Nat) (slot : Nat) : (State.grantFetch s i slot).pending = s.pending := by
  unfold State.grantFetch; split <;> simp

theorem execIdentify_pending (r : Nat) (io : HostIo) (s : State) : ∃ t, execIdentify r io s = .next t ∧ t.pending = s.pending := by
  refine ⟨_, rfl, ?_⟩
  simp

theorem execQpCreate_pending (r : Nat) (_io : HostIo) (s : State) : ∃ t, execQpCreate r _io s = .next t ∧ t.pending = s.pending := by
  refine ⟨_, rfl, ?_⟩
  repeat' first | (simp; done) | (intro _) | split | apply State.runAdmin_pending | dsimp only

theorem execQpDelete_pending (r : Nat) (_io : HostIo) (s : State) : ∃ t, execQpDelete r _io s = .next t ∧ t.pending = s.pending := by
  refine ⟨_, rfl, ?_⟩
  repeat' first | (simp; done) | (intro _) | split | apply State.runAdmin_pending | dsimp only

theorem execCqResume_pending (r : Nat) (io : HostIo) (s : State) : ∃ t, execCqResume r io s = .next t ∧ t.pending = s.pending := by
  refine ⟨_, rfl, ?_⟩
  repeat' first | (simp; done) | (intro _) | split | apply State.runAdmin_pending | dsimp only

@[simp] theorem State.remoteSend_pending (s : State) (r : Nat) (q : MemReq) : (State.remoteSend s r q).pending = s.pending := by
  simp only [State.remoteSend]; repeat' split
  all_goals simp

@[simp] theorem State.remotePump_pending (s : State) (r : Nat) : (State.remotePump s r).pending = s.pending := by
  unfold State.remotePump; split <;> simp

@[simp] theorem State.askRemote_pending (s : State) (r : Nat) (l : List MemReq) : (State.askRemote s r l).pending = s.pending := by
  simp only [State.askRemote]; repeat' split
  all_goals try simp
  all_goals (apply foldl_pending; intro t x; try dsimp only)
  all_goals repeat' split
  all_goals first | (simp; done) | (apply foldl_pending; intro t x; (try dsimp only); (repeat' split) <;> simp)

@[simp] theorem State.readPieces_pending (s : State) (r : Nat) (c : Cmd) (e : Nat) (l : List Piece) : (s.readPieces r c e l).2.pending = s.pending := by
  simp only [State.readPieces]; rw [foldPair_pending]; intro y a; (try dsimp only); repeat' split
  all_goals simp

@[simp] theorem State.writePieces_pending (s : State) (r : Nat) (c : Cmd) (e : Nat) (l : List Piece) (b : Blob) : (s.writePieces r c e l b).pending = s.pending := by
  induction l generalizing s b with
  | nil => rfl
  | cons p t ih => simp only [State.writePieces]; rw [ih]; repeat' split
                   all_goals simp

@[simp] theorem State.sendIssue_pending (s : State) (u r : Nat) (c : Cmd) (t : TileRef) (n : Node) (out : List Piece) (data : Blob) : (State.sendIssue s u r c t n out data).pending = s.pending := by
  unfold State.sendIssue; split <;> simp

theorem State.withSpans_pending (s : State) (r : Nat) (c : Cmd) (x : Ctx) (n engine : Nat) (l : List VaSpan) (f : State → Cmd → State)
    (hf : ∀ t c, t.pending = s.pending → (f t c).pending = s.pending) : (s.withSpans r c x n engine l f).pending = s.pending := by
  simp only [State.withSpans]; repeat' split
  all_goals first | (simp; done) | exact hf _ _ (by simp)

@[simp] theorem State.issueTile_pending (s : State) (u r : Nat) (c : Cmd) (t : TileRef) (n : Node) (w : Tile) : (State.issueTile s u r c t n w).pending = s.pending := by
  simp only [State.issueTile]; repeat' split
  all_goals simp

@[simp] theorem State.issueNext_pending (s : State) (u : Nat) : (s.issueNext u).pending = s.pending := by
  unfold State.issueNext
  split
  · rfl
  · split
    · split
      · rfl
      · split
        · simp
        · apply State.withSpans_pending
          intro t c ht
          split
          · rfl
          · simp [ht]
    · rfl

@[simp] theorem State.settleDone_pending (s : State) (r : Nat) : (State.settleDone s r).pending = s.pending := by
  simp only [State.settleDone]; repeat' split
  all_goals simp

@[simp] theorem State.workMoved_pending (s : State) (r : Nat) : (State.workMoved s r).pending = s.pending := by
  simp [State.workMoved]

@[simp] theorem State.takeUp_pending (s : State) (u cls typ : Nat) (p : TilePkt) (f : State → State) (hf : ∀ t , (f t ).pending = t.pending) : (State.takeUp s u cls typ p f).pending = s.pending := by
  simp only [State.takeUp]; repeat' split
  all_goals simp [hf]

theorem execIssue_pending (u : Nat) (s : State) : ∃ t, execIssue u s = .next t ∧ t.pending = s.pending := by
  refine ⟨_, rfl, ?_⟩
  simp

@[simp] theorem State.finishWork_pending (s : State) (u : Nat) (w : Work) (c : Cmd) (b : Blob) : (State.finishWork s u w c b).pending = s.pending := by
  unfold State.finishWork; split <;> simp

theorem execTileDone_pending (u : Nat) (p : TilePkt) (s : State) : ∃ t, execTileDone u p s = .next t ∧ t.pending = s.pending := by
  refine ⟨_, rfl, ?_⟩
  repeat' first | (simp; done) | (intro _) | split | apply State.takeUp_pending | dsimp only

theorem execTileError_pending (u : Nat) (p : TilePkt) (s : State) : ∃ t, execTileError u p s = .next t ∧ t.pending = s.pending := by
  refine ⟨_, rfl, ?_⟩
  repeat' first | (simp; done) | (intro _) | split | (simp only [State.settle_pending, State.workMoved_pending]) | apply State.takeUp_pending | dsimp only

@[simp] theorem State.returnUp_pending (s : State) (u cls count : Nat) : (State.returnUp s u cls count).pending = s.pending := by
  simp only [State.returnUp]; repeat' split
  all_goals simp

theorem execCreditReturn_pending (u : Nat) (down : Bool) (cls count : Nat) (s : State) : ∃ t, execCreditReturn u down cls count s = .next t ∧ t.pending = s.pending := by
  refine ⟨_, rfl, ?_⟩
  repeat' first | (simp; done) | (intro _) | split | dsimp only

@[simp] theorem State.startWalk_pending (s : State) (r : Nat) (c : Cmd) (va : Nat) : (State.startWalk s r c va).pending = s.pending := by
  simp only [State.startWalk]; repeat' split
  all_goals simp

@[simp] theorem State.aheadOne_pending (s : State) (u r : Nat) (w : Tile) : (State.aheadOne s u r w).pending = s.pending := by
  simp only [State.aheadOne]; repeat' split
  all_goals try simp
  all_goals (apply foldl_pending; intro t x; try dsimp only)
  all_goals repeat' split
  all_goals first | (simp; done) | (apply foldl_pending; intro t x; (try dsimp only); (repeat' split) <;> simp)

theorem execRunAhead_pending (u : Nat) (s : State) : ∃ t, execRunAhead u s = .next t ∧ t.pending = s.pending := by
  refine ⟨_, rfl, ?_⟩
  split <;> simp

@[simp] theorem State.cacheRun_pending (s : State) (x : Nat) (l : Leaf) (n : Nat) : (State.cacheRun s x l n).pending = s.pending := by
  rfl

theorem execTableWalkDone_pending (walker : Nat) (rd : EccAt) (s : State) : ∃ t, execTableWalkDone walker rd s = .next t ∧ t.pending = s.pending := by
  refine ⟨_, rfl, ?_⟩
  repeat' first | (simp; done) | (intro _) | split | (simp only [State.settle_pending]) | dsimp only

theorem execCrevasseWaitingPost_pending (s : State) : ∃ t, execCrevasseWaitingPost s = .next t ∧ t.pending = s.pending := by
  refine ⟨_, rfl, ?_⟩
  split <;> simp

@[simp] theorem State.setCrev_pending (s : State) (slot : Nat) (r : Crev) : (State.setCrev s slot r).pending = s.pending := by
  rfl

@[simp] theorem State.crevRetry_pending (s : State) (slot : Nat) : (State.crevRetry s slot).pending = s.pending := by
  simp only [State.crevRetry]; repeat' split
  all_goals simp

theorem execCrevRetry_pending (slot : Nat) (s : State) : ∃ t, execCrevRetry slot s = .next t ∧ t.pending = s.pending := by
  refine ⟨_, rfl, ?_⟩
  simp

@[simp] theorem State.crevAbort_pending (s : State) (slot : Nat) : (State.crevAbort s slot).pending = s.pending := by
  unfold State.crevAbort; split <;> simp

theorem execCrevAbort_pending (slot : Nat) (s : State) : ∃ t, execCrevAbort slot s = .next t ∧ t.pending = s.pending := by
  refine ⟨_, rfl, ?_⟩
  simp

@[simp] theorem State.crevHeadWrite_pending (s : State) (value : Nat) : (State.crevHeadWrite s value).pending = s.pending := by
  simp only [State.crevHeadWrite]; repeat' split
  all_goals simp

theorem execCrevHeadWrite_pending (value : Nat) (s : State) : ∃ t, execCrevHeadWrite value s = .next t ∧ t.pending = s.pending := by
  refine ⟨_, rfl, ?_⟩
  simp

@[simp] theorem State.takeUpTiles_pending (s : State) (r opc : Nat) : (State.takeUpTiles s r opc).pending = s.pending := by
  unfold State.takeUpTiles; split <;> simp

theorem execInferStep_pending (r : Nat) (s : State) : ∃ t, execInferStep r s = .next t ∧ t.pending = s.pending := by
  refine ⟨_, rfl, ?_⟩
  simp

theorem execTrainStep_pending (r : Nat) (s : State) : ∃ t, execTrainStep r s = .next t ∧ t.pending = s.pending := by
  refine ⟨_, rfl, ?_⟩
  simp

theorem execGraphLaunch_pending (r : Nat) (s : State) : ∃ t, execGraphLaunch r s = .next t ∧ t.pending = s.pending := by
  refine ⟨_, rfl, ?_⟩
  simp

theorem execKernelLaunch_pending (r : Nat) (s : State) : ∃ t, execKernelLaunch r s = .next t ∧ t.pending = s.pending := by
  refine ⟨_, rfl, ?_⟩
  simp

@[simp] theorem State.cirqueSpans_pending (s : State) (r : Nat) (c : Cmd) (l : List VaSpan) (f : State → Cmd → State) (hf : ∀ t x0, (f t x0).pending = t.pending) :
    (s.cirqueSpans r c l f).pending = s.pending := by
  simp only [State.cirqueSpans]; repeat' split
  all_goals first | rfl | exact State.withSpans_pending _ _ _ _ _ _ _ _ fun t c h => (hf t c).trans h

theorem execCopy_pending (r : Nat) (ecc : Ecc) (s : State) : ∃ t, execCopy r ecc s = .next t ∧ t.pending = s.pending := by
  refine ⟨_, rfl, ?_⟩
  repeat' first | (simp; done) | (intro _) | split | (simp only [State.settle_pending, State.workMoved_pending, State.drainIfIdle_pending]) | apply State.cirqueSpans_pending | dsimp only

@[simp] theorem State.writeSeqId_pending (s : State) (r : Nat) (c : Cmd) : (State.writeSeqId s r c).pending = s.pending := by
  simp only [State.writeSeqId]; repeat' split
  all_goals simp

theorem execSeqCreate_pending (r : Nat) (s : State) : ∃ t, execSeqCreate r s = .next t ∧ t.pending = s.pending := by
  refine ⟨_, rfl, ?_⟩
  repeat' first | (simp; done) | (intro _) | split | (simp only [State.settle_pending]) | apply State.cirqueSpans_pending | dsimp only

theorem execSeqRelease_pending (r : Nat) (s : State) : ∃ t, execSeqRelease r s = .next t ∧ t.pending = s.pending := by
  refine ⟨_, rfl, ?_⟩
  split <;> simp

theorem execSeqTruncate_pending (r : Nat) (s : State) : ∃ t, execSeqTruncate r s = .next t ∧ t.pending = s.pending := by
  refine ⟨_, rfl, ?_⟩
  repeat' first | (simp; done) | (intro _) | split | dsimp only

theorem execProvisioningPass_pending (s : State) : ∃ t, execProvisioningPass s = .next t ∧ t.pending = s.pending := by
  refine ⟨_, rfl, ?_⟩
  split <;> simp

@[simp] theorem State.takeTap_pending (s : State) (u : Nat) (t : Tap) (b : Blob) : (State.takeTap s u t b).pending = s.pending := by
  simp only [State.takeTap]; repeat' split
  all_goals simp

theorem execTapIn_pending (u : Nat) (p : TilePkt) (s : State) : ∃ t, execTapIn u p s = .next t ∧ t.pending = s.pending := by
  refine ⟨_, rfl, ?_⟩
  repeat' first | (simp; done) | (intro _) | split | (simp only [State.settle_pending]) | apply State.takeUp_pending | dsimp only

@[simp] theorem State.sliceFails_pending (s : State) (x : Slice) (g : Option Nat) : (State.sliceFails s x g).pending = s.pending := by
  unfold State.sliceFails; split <;> simp

theorem execSliceFetchDone_pending (engine : Nat) (rd : EccAt) (s : State) : ∃ t, execSliceFetchDone engine rd s = .next t ∧ t.pending = s.pending := by
  refine ⟨_, rfl, ?_⟩
  repeat' first | (simp; done) | (intro _) | split | dsimp only

@[simp] theorem State.dropTap_pending (s : State) (t : Tap) : (State.dropTap s t).pending = s.pending := by
  rfl

theorem execTapAnswer_pending (u tag : Nat) (s : State) : ∃ t, execTapAnswer u tag s = .next t ∧ t.pending = s.pending := by
  refine ⟨_, rfl, ?_⟩
  repeat' first | (simp; done) | (intro _) | split | apply foldl_pending | (simp only [State.settle_pending, State.workMoved_pending]) | dsimp only

@[simp] theorem State.beginUpdate_pending (s : State) (r : Nat) (c : Cmd) (b : Blob) : (State.beginUpdate s r c b).pending = s.pending := by
  unfold State.beginUpdate; split <;> simp

theorem execTrainUpdate_pending (r : Nat) (s : State) : ∃ t, execTrainUpdate r s = .next t ∧ t.pending = s.pending := by
  refine ⟨_, rfl, ?_⟩
  repeat' first | (simp; done) | (intro _) | split | (simp only [State.settle_pending, State.drainIfIdle_pending]) | apply State.cirqueSpans_pending | dsimp only

theorem execTrainUpdateCommit_pending (r : Nat) (s : State) : ∃ t, execTrainUpdateCommit r s = .next t ∧ t.pending = s.pending := by
  refine ⟨_, rfl, ?_⟩
  repeat' first | (simp; done) | (intro _) | split | (simp only [State.settle_pending, State.drainIfIdle_pending]) | dsimp only

@[simp] theorem State.destroyCtx_pending (s : State) (x : Nat) : (State.destroyCtx s x).pending = s.pending := by
  simp only [State.destroyCtx]; repeat' split
  all_goals simp

theorem State.takeChunks_pending {s s' : State} {e : Fkt} {l : List (Nat × Nat)} (h : s.takeChunks e l = some s') : s'.pending = s.pending := by
  induction l generalizing s with
  | nil => cases h; rfl
  | cons a t ih =>
    simp only [State.takeChunks] at h
    split at h
    · rename_i h1; rw [ih h, State.takeFrames_pending h1]
    · cases h

@[simp] theorem State.freeAlloc_pending (s : State) (a : Nat) : (State.freeAlloc s a).pending = s.pending := by
  unfold State.freeAlloc; split <;> simp

@[simp] theorem State.writeTables_pending (s : State) (r x : Nat) (ls : List Leaf) (lo hi : Nat) (isMap : Bool) : (State.writeTables s r x ls lo hi isMap).pending = s.pending := by
  simp [State.writeTables]

@[simp] theorem State.applyChange_pending (s : State) (x : Nat) (z : Change) : (State.applyChange s x z).pending = s.pending := by
  unfold State.applyChange; split <;> simp

@[simp] theorem State.ackEffect_pending (s0 : State) (e : Nat) (i : Inval) : (State.ackEffect s0 e i).pending = s0.pending := by
  simp only [State.ackEffect]; repeat' split
  all_goals simp

@[simp] theorem State.invalDone_pending (s : State) (i : Inval) : (State.invalDone s i).pending = s.pending := by
  simp only [State.invalDone]; repeat' split
  all_goals simp

@[simp] theorem State.addVersion_pending (s : State) (g : Graph) (v : Nat) (nodes : List Node) : (State.addVersion s g v nodes).pending = s.pending := by
  rfl

@[simp] theorem State.stopFetch_pending (s : State) (f : Nat) : (State.stopFetch s f).pending = s.pending := by
  rfl

@[simp] theorem State.abandonCmd_pending (s : State) (r : Nat) : (State.abandonCmd s r).pending = s.pending := by
  simp only [State.abandonCmd]; repeat' split
  all_goals simp

@[simp] theorem State.beginReset_pending (s : State) (f : Nat) : (State.beginReset s f).pending = s.pending := by
  simp [State.beginReset]

@[simp] theorem State.dropVariant_pending (s : State) (v : Nat) : (State.dropVariant s v).pending = s.pending := by
  rfl

@[simp] theorem State.dropObjects_pending (s : State) (f : Nat) : (State.dropObjects s f).pending = s.pending := by
  simp [State.dropObjects]

@[simp] theorem State.unmapFn_pending (s : State) (f : Nat) : (State.unmapFn s f).pending = s.pending := by
  simp [State.unmapFn]

@[simp] theorem State.teardown_pending (s : State) (f : Nat) : (State.teardown s f).pending = s.pending := by
  unfold State.teardown
  dsimp only
  rw [foldl_pending _ _ _ (by simp)]
  simp

@[simp] theorem State.answerGen_pending (s : State) (f : Nat) (io : HostIo) (l : List Nat) : (State.answerGen s f io l).pending = s.pending := by
  simp only [State.answerGen]; repeat' split
  all_goals try simp
  all_goals (apply foldl_pending; intro t x; try dsimp only)
  all_goals repeat' split
  all_goals first | (simp; done) | (apply foldl_pending; intro t x; (try dsimp only); (repeat' split) <;> simp)

@[simp] theorem State.runQuiesce_pending (s : State) (f r : Nat) : (State.runQuiesce s f r).pending = s.pending := by
  unfold State.runQuiesce; split <;> simp

@[simp] theorem State.runReset_pending (s : State) (f r : Nat) (io : HostIo) : (State.runReset s f r io).pending = s.pending := by
  simp only [State.runReset]; repeat' split
  all_goals simp

@[simp] theorem State.runWaiting_pending (s : State) (f r : Nat) (io : HostIo) : (State.runWaiting s f r io).pending = s.pending := by
  simp only [State.runWaiting]; repeat' split
  all_goals simp

@[simp] theorem State.runAfterwards_pending (f : Nat) (io : HostIo) (n : Nat) (s : State) : (State.runAfterwards f io n s).pending = s.pending := by
  induction n generalizing s with
  | zero => rfl
  | succ n ih => simp only [State.runAfterwards]; repeat' split
                 all_goals simp [ih]

@[simp] theorem State.afterTransition_pending (s : State) (f : Nat) (io : HostIo) : (State.afterTransition s f io).pending = s.pending := by
  simp [State.afterTransition]

@[simp] theorem State.enableWaiting_pending (s : State) (f : Nat) : (State.enableWaiting s f).pending = s.pending := by
  simp only [State.enableWaiting]; repeat' split
  all_goals simp

theorem State.takeOne_pending {s s' : State} {e : Fkt} {tier addr k : Nat} {ask : Option Nat} (h : s.takeOne e tier addr ask = some (k, s')) :
    s'.pending = s.pending := by
  unfold State.takeOne at h
  split at h
  · split at h
    · obtain ⟨t, ht, h2⟩ := Option.map_eq_some_iff.mp h; cases h2; exact State.takeChunks_pending ht
    · cases h
  · obtain ⟨a, _, h1⟩ := Option.bind_eq_some_iff.mp h
    obtain ⟨t, ht, h2⟩ := Option.map_eq_some_iff.mp h1; cases h2; exact State.takeFrames_pending ht

theorem State.takeAll_pending {vx1 : Bool} {e : Fkt} {l : List (Nat × Nat)} {addrs ask : List Nat} {s : State}
    {x : List (Nat × Nat) × List Nat × State} (h : State.takeAll vx1 e l addrs ask s = some x) : x.2.2.pending = s.pending := by
  induction l generalizing addrs ask s x with
  | nil => cases h; rfl
  | cons a t ih =>
    simp only [State.takeAll] at h
    split at h
    · cases h
    · rename_i k s1 h1; obtain ⟨y, hy, rfl⟩ := Option.map_eq_some_iff.mp h; simp only [ih hy]; exact State.takeOne_pending h1

@[simp] theorem State.putPart_pending (s : State) (q : MemReq) (n : Nat) (cells : List Host.Cell) : (State.putPart s q n cells).pending = s.pending := by
  simp only [State.putPart]; repeat' split
  all_goals try simp
  all_goals (apply foldl_pending; intro t x; try dsimp only)
  all_goals repeat' split
  all_goals first | (simp; done) | (apply foldl_pending; intro t x; (try dsimp only); (repeat' split) <;> simp)

theorem State.putAlloc_pending {s : State} {vx1 : Bool} {a : FnAlloc} {ask : List Nat} {x : List (Nat × Nat) × List Nat × State}
    (h : s.putAlloc vx1 a ask = some x) : x.2.2.pending = s.pending := by
  obtain ⟨y, hy, rfl⟩ := Option.map_eq_some_iff.mp h
  refine Eq.trans ?_ (State.takeAll_pending hy)
  exact foldl_pending _ _ _ (by simp)

theorem State.putAllocs_pending {vx1 : Bool} {l : List FnAlloc} {ask : List Nat} {s : State}
    {x : List ((Nat × Nat) × Nat × Nat) × State} (h : State.putAllocs vx1 l ask s = some x) : x.2.pending = s.pending := by
  induction l generalizing ask s x with
  | nil => cases h; rfl
  | cons a t ih =>
    simp only [State.putAllocs] at h
    split at h
    · cases h
    · rename_i h1; obtain ⟨y, hy, rfl⟩ := Option.map_eq_some_iff.mp h; simp only [ih hy]; exact State.putAlloc_pending h1

theorem State.putSeq_pending {s s' : State} {q : FnSeq} (h : s.putSeq q = some s') : s'.pending = s.pending := by
  simp only [State.putSeq] at h
  split at h
  · cases h
  · cases h; refine (foldl_pending _ _ _ (by simp)).trans ?_; simp

theorem State.putSeqs_pending {s s' : State} {l : List FnSeq} (h : s.putSeqs l = some s') : s'.pending = s.pending := by
  have go : ∀ (l : List FnSeq) (o : Option State) (t : State), l.foldl (fun o q => o.bind fun t => t.putSeq q) o = some t →
      ∃ u, o = some u ∧ t.pending = u.pending := by
    intro l
    induction l with
    | nil => intro o t h; exact ⟨t, h, rfl⟩
    | cons q l ih =>
      intro o t h
      obtain ⟨u, hu, e⟩ := ih _ _ h
      obtain ⟨v, hv, e2⟩ := Option.bind_eq_some_iff.mp hu
      exact ⟨v, hv, e.trans (State.putSeq_pending e2)⟩
  obtain ⟨x, hx, rfl⟩ := Option.map_eq_some_iff.mp h
  obtain ⟨u, hu, e⟩ := go _ _ _ hx
  cases hu
  rw [State.syncSeqs_pending]; exact e

@[simp] theorem State.putQueue_pending (s : State) (f : Nat) (e : Nat × Queue) : (State.putQueue s f e).pending = s.pending := by
  simp [State.putQueue]

theorem State.install_pending {s s' : State} {f : Nat} {z : FnImage} {seq : Nat} {ask : List Nat} (h : s.install f z seq ask = some s') :
    s'.pending = s.pending := by
  simp only [State.install] at h
  split at h
  · cases h
  · obtain ⟨x, hx, h1⟩ := Option.bind_eq_some_iff.mp h
    split at h1
    · cases h1
    · obtain ⟨y, hy, rfl⟩ := Option.map_eq_some_iff.mp h1
      have e1 := State.putAllocs_pending hx
      have e2 := State.putSeqs_pending hy
      have e3 : ∀ (g : State → Nat → State) (l : List Nat) (t : State), (∀ t k, (g t k).pending = t.pending) → (l.foldl g t).pending = t.pending := fun g l t hg => foldl_pending g l t hg
      simp only [State.settle_pending, State.updFn_pending, State.persistPut_pending]
      rw [foldl_pending _ _ _ (by intro t e; simp), foldl_pending _ _ _ (by intro t e; simp)]
      dsimp only
      rw [e2, e1, foldl_pending _ _ _ (by intro t k; simp)]

@[simp] theorem State.claimAll_pending (s : State) (l : List (Nat × Nat × Nat × Fkt)) : (s.claimAll l).pending = s.pending := by
  unfold State.claimAll
  apply foldl_pending
  intro t e
  cases h : t.takeFrames e.1 e.2.2.2 ((List.range e.2.2.1).map (e.2.1 + ·)) with
  | none => rfl
  | some u => exact State.takeFrames_pending h

@[simp] theorem State.setRegions_pending (s : State) (z : Regions) : (State.setRegions s z).pending = s.pending := by
  rfl

@[simp] theorem State.placeRegions_pending (s : State) : (State.placeRegions s).pending = s.pending := by
  simp [State.placeRegions]

@[simp] theorem State.recoverPersist_pending (s : State) (h : Blob) : (State.recoverPersist s h).pending = s.pending := by
  simp [State.recoverPersist]

@[simp] theorem State.formatPersist_pending (s : State) : (State.formatPersist s).pending = s.pending := by
  unfold State.formatPersist
  rw [State.drawn_pending, State.putHeader_pending]

@[simp] theorem State.openPersist_pending (s : State) : (State.openPersist s).pending = s.pending := by
  simp only [State.openPersist]; repeat' split
  all_goals simp

@[simp] theorem State.openPorts_pending (s : State) : (State.openPorts s).pending = s.pending := by
  simp [State.openPorts]

@[simp] theorem State.joinRings_pending (s : State) : (State.joinRings s).pending = s.pending := by
  simp [State.joinRings]

@[simp] theorem State.startKeys_pending (s : State) : s.startKeys.pending = s.pending := by
  unfold State.startKeys; apply foldl_pending; intro t k; simp

@[simp] theorem State.markCommitted_pending (s : State) : s.markCommitted.pending = s.pending := by simp [State.markCommitted]

@[simp] theorem State.commitTopo_pending (s : State) : (State.commitTopo s).pending = s.pending := by
  simp [State.commitTopo]

@[simp] theorem State.modLoad_pending (s : State) (f : Load → Load) : (State.modLoad s f).pending = s.pending := by
  unfold State.modLoad; split <;> simp

@[simp] theorem State.popLoad_pending (s : State) : (State.popLoad s).pending = s.pending := by
  rfl

@[simp] theorem State.refuseLoad_pending (s : State) (l : Load) (st : Status) : (State.refuseLoad s l st).pending = s.pending := by
  simp only [State.refuseLoad]; repeat' split
  all_goals simp

@[simp] theorem State.drainFor_pending (s : State) (l : Load) : (State.drainFor s l).pending = s.pending := by
  unfold State.drainFor; split <;> simp

@[simp] theorem State.freeCurrent_pending (s : State) (i : Nat) : (State.freeCurrent s i).pending = s.pending := by
  simp [State.freeCurrent]

@[simp] theorem State.turnNow_pending (s : State) : (State.turnNow s).pending = s.pending := by
  simp only [State.turnNow]; repeat' split
  all_goals simp

theorem State.claimVer_pending {s s' : State} {v : ImgVer} {asked l : List Nat} (h : s.claimVer v asked = (some s', l)) : s'.pending = s.pending := by
  simp only [State.claimVer] at h
  split at h
  · cases h; simp
  · cases h

@[simp] theorem State.issueShards_pending (n : Nat) (s : State) : (State.issueShards n s).pending = s.pending := by
  induction n generalizing s with
  | zero => rfl
  | succ n ih => simp only [State.issueShards]; repeat' split
                 all_goals simp [ih]

@[simp] theorem State.beginLoad_pending (s : State) (l : Load) (v : ImgVer) (n : Nat) (current : Bool) (asked : List Nat) :
    (s.beginLoad l v n current asked).pending = s.pending := by
  simp only [State.beginLoad]
  split
  · simp
  · rename_i s3 h
    have e : s3.pending = s.pending := by
      split at h
      · injection h with h; subst h; split <;> simp
      · rw [State.claimVer_pending (l := _) (Prod.ext h rfl)]; split <;> simp
    simp [e]

@[simp] theorem State.modShard_pending (s : State) (i : Nat) (f : Shard → Shard) : (State.modShard s i f).pending = s.pending := by
  simp [State.modShard]

@[simp] theorem State.stageLoad_pending (s : State) (l : Load) (i fail : Nat) (st : Status) : (State.stageLoad s l i fail st).pending = s.pending := by
  rfl

@[simp] theorem State.spoilLoad_pending (s : State) (l : Load) (shard : Nat) : (State.spoilLoad s l shard).pending = s.pending := by
  simp [State.spoilLoad]

@[simp] theorem State.takeShard_pending (s : State) (i : Nat) (x : Shard) (data : Blob) : (State.takeShard s i x data).pending = s.pending := by
  simp only [State.takeShard]; repeat' split
  all_goals simp

@[simp] theorem State.activate_pending (s : State) (l : Load) : (State.activate s l).pending = s.pending := by
  simp [State.activate]

@[simp] theorem State.stallStreams_pending (s : State) : (State.stallStreams s).pending = s.pending := by
  rfl

@[simp] theorem State.needRepair_pending (s : State) (img ver t u : Nat) : (State.needRepair s img ver t u).pending = s.pending := by
  unfold State.needRepair; split <;> simp

@[simp] theorem State.modRepair_pending (s : State) (id : Nat) (f : Repair → Repair) : (State.modRepair s id f).pending = s.pending := by
  rfl

@[simp] theorem State.endRepair_pending (s : State) (id : Nat) : (State.endRepair s id).pending = s.pending := by
  simp [State.endRepair]

@[simp] theorem State.poison_pending (s : State) (img ver : Nat) : (State.poison s img ver).pending = s.pending := by
  simp [State.poison]

@[simp] theorem State.askNext_pending (s : State) (p : Repair) : (State.askNext s p).pending = s.pending := by
  simp only [State.askNext]; repeat' split
  all_goals simp

@[simp] theorem State.gotUnit_pending (s : State) (p : Repair) (b : Blob) (host : Bool) : (State.gotUnit s p b host).pending = s.pending := by
  rfl

@[simp] theorem State.readCanonical_pending (s : State) (p : Repair) (manifest data : Blob) : (State.readCanonical s p manifest data).pending = s.pending := by
  unfold State.readCanonical; split <;> simp

theorem State.beginMove_pending {s s' : State} {p : Repair} {k : Option Nat} {l : List (Nat × Nat)} (h : s.beginMove p k l = some s') : s'.pending = s.pending := by
  obtain ⟨f, _, hf⟩ := Option.bind_eq_some_iff.mp h
  split at hf
  · cases hf
    rw [State.modRepair_pending, foldl_pending _ _ _ (by intro t e; simp)]
    simp
  · cases hf

@[simp] theorem State.endMove_pending (s : State) (p : Repair) (m : Nat × Nat × Nat) : (State.endMove s p m).pending = s.pending := by
  simp [State.endMove]

@[simp] theorem State.endMoves_pending (s : State) : (State.endMoves s).pending = s.pending := by
  simp only [State.endMoves]; repeat' split
  all_goals try simp
  all_goals (apply foldl_pending; intro t x; try dsimp only)
  all_goals repeat' split
  all_goals first | (simp; done) | (apply foldl_pending; intro t x; (try dsimp only); (repeat' split) <;> simp)

@[simp] theorem State.queueLoad_pending (s : State) (l : Load) : (State.queueLoad s l).pending = s.pending := by
  simp [State.queueLoad]

@[simp] theorem State.withManifest_pending (s : State) (r : Nat) (c : Cmd) (io : HostIo) (f : State → ImgVer → State)
    (hf : ∀ t v, (f t v).pending = t.pending) : (s.withManifest r c io f).pending = s.pending := by
  unfold State.withManifest
  apply State.withData_pending
  intro t b
  split
  · simp
  · split
    · simp
    · exact hf _ _

theorem execImgLoad_pending (r : Nat) (io : HostIo) (s : State) : ∃ t, execImgLoad r io s = .next t ∧ t.pending = s.pending := by
  refine ⟨_, rfl, ?_⟩
  repeat' first | (simp; done) | (intro _) | split | apply State.runAdmin_pending | apply State.withManifest_pending | dsimp only

theorem execImgResumeLoad_pending (r : Nat) (_io : HostIo) (s : State) : ∃ t, execImgResumeLoad r _io s = .next t ∧ t.pending = s.pending := by
  refine ⟨_, rfl, ?_⟩
  repeat' first | (simp; done) | (intro _) | split | apply State.runAdmin_pending | dsimp only

theorem execImgReplace_pending (r : Nat) (io : HostIo) (s : State) : ∃ t, execImgReplace r io s = .next t ∧ t.pending = s.pending := by
  refine ⟨_, rfl, ?_⟩
  repeat' first | (simp; done) | (intro _) | split | apply State.runAdmin_pending | apply State.withManifest_pending | dsimp only

theorem execImgDrop_pending (r : Nat) (_io : HostIo) (s : State) : ∃ t, execImgDrop r _io s = .next t ∧ t.pending = s.pending := by
  refine ⟨_, rfl, ?_⟩
  repeat' first | (simp; done) | (intro _) | split | apply State.runAdmin_pending | dsimp only

theorem execImgLoadBegin_pending (frames : List Nat) (s : State) : ∃ t, execImgLoadBegin frames s = .next t ∧ t.pending = s.pending := by
  refine ⟨_, rfl, ?_⟩
  repeat' first | (simp; done) | (intro _) | split | dsimp only

theorem execShardReadDone_pending (shard : Nat) (resp : HostResp) (data : Blob) (s : State) : ∃ t, execShardReadDone shard resp data s = .next t ∧ t.pending = s.pending := by
  refine ⟨_, rfl, ?_⟩
  repeat' first | (simp; done) | (intro _) | split | dsimp only

theorem execShardRetryTimer_pending (shard : Nat) (s : State) : ∃ t, execShardRetryTimer shard s = .next t ∧ t.pending = s.pending := by
  refine ⟨_, rfl, ?_⟩
  repeat' first | (simp; done) | (intro _) | split | dsimp only

theorem execShardTimeout_pending (shard : Nat) (s : State) : ∃ t, execShardTimeout shard s = .next t ∧ t.pending = s.pending := by
  refine ⟨_, rfl, ?_⟩
  repeat' first | (simp; done) | (intro _) | split | dsimp only

theorem execBodyDigestDone_pending (io : HostIo) (s : State) : ∃ t, execBodyDigestDone io s = .next t ∧ t.pending = s.pending := by
  refine ⟨_, rfl, ?_⟩
  repeat' first | (simp; done) | (intro _) | split | dsimp only

theorem execRepairStart_pending (s : State) : ∃ t, execRepairStart s = .next t ∧ t.pending = s.pending := by
  refine ⟨_, rfl, ?_⟩
  repeat' first | (simp; done) | (intro _) | split | dsimp only

theorem execPeerAnswerTimeout_pending (repair : Nat) (s : State) : ∃ t, execPeerAnswerTimeout repair s = .next t ∧ t.pending = s.pending := by
  refine ⟨_, rfl, ?_⟩
  repeat' first | (simp; done) | (intro _) | split | dsimp only

theorem execCanonicalReadDone_pending (repair : Nat) (resp : HostResp) (manifest data : Blob) (s : State) : ∃ t, execCanonicalReadDone repair resp manifest data s = .next t ∧ t.pending = s.pending := by
  refine ⟨_, rfl, ?_⟩
  repeat' first | (simp; done) | (intro _) | split | dsimp only

theorem execRepairReadback_pending (repair : Nat) (rd : Readback) (frame : Option Nat) (s : State) :
    ∃ t, execRepairReadback repair rd frame s = .next t ∧ t.pending = s.pending := by
  refine ⟨_, rfl, ?_⟩
  split
  · rfl
  · split
    · rfl
    · split
      · simp
      · split
        · rename_i h; simp [State.beginMove_pending h]
        · simp

@[simp] theorem State.portRequest_pending (s : State) (q : MemReq) (port : Nat) : (State.portRequest s q port).pending = s.pending := by
  simp only [State.portRequest]; repeat' split
  all_goals simp

@[simp] theorem State.readRequest_pending (s : State) (q : MemReq) : (State.readRequest s q).pending = s.pending := by
  simp only [State.readRequest]; repeat' split
  all_goals simp

@[simp] theorem State.writeRequest_pending (s : State) (q : MemReq) (b : Blob) : (State.writeRequest s q b).pending = s.pending := by
  have h : ∀ (p : Nat) (l : List Nat) (y : State × List Nat), (l.foldl (fun (y : State × List Nat) a =>
      let t := y.1.portRequest { q with offset := a, len := 512 } p
      (t, y.2 ++ [p * 1024 + y.1.portTag p])) y).1.pending = y.1.pending := by
    intro p l
    induction l with
    | nil => intro y; rfl
    | cons a l ih => intro y; rw [List.foldl_cons, ih]; simp
  unfold State.writeRequest
  split
  · simp
  · exact h _ _ _

@[simp] theorem State.serveRequest_pending (s : State) (q : MemReq) : (State.serveRequest s q).pending = s.pending := by
  simp only [State.serveRequest]; repeat' split
  all_goals simp

theorem execMemoryRequest_pending (q : MemReq) (s : State) : ∃ t, execMemoryRequest q s = .next t ∧ t.pending = s.pending := by
  refine ⟨_, rfl, ?_⟩
  split <;> simp

@[simp] theorem State.dataBad_pending (s : State) (q : MemReq) : (State.dataBad s q).pending = s.pending := by
  simp only [State.dataBad]; repeat' split
  all_goals simp

@[simp] theorem State.dataGood_pending (s : State) (q : MemReq) : (State.dataGood s q).pending = s.pending := by
  unfold State.dataGood; split <;> simp

@[simp] theorem State.glazeAnswer_pending (s : State) (q : MemReq) (ecc : Ecc) (chk : PathCheck) (k p : Nat) : (State.glazeAnswer s q ecc chk k p).pending = s.pending := by
  simp only [State.glazeAnswer]; repeat' split
  all_goals simp

@[simp] theorem State.writeAnswered_pending (s : State) (x : Nat) (good : Bool) : (State.writeAnswered s x good).pending = s.pending := by
  simp only [State.writeAnswered]; repeat' split
  all_goals simp

theorem execMemoryReadResponse_pending (port tag : Nat) (ecc : Ecc) (chk : PathCheck) (s : State) : ∃ t, execMemoryReadResponse port tag ecc chk s = .next t ∧ t.pending = s.pending := by
  refine ⟨_, rfl, ?_⟩
  repeat' first | (simp; done) | (intro _) | split | dsimp only

theorem execRekeyWalk_pending (key : Nat) (s : State) : ∃ t, execRekeyWalk key s = .next t ∧ t.pending = s.pending := by
  refine ⟨_, rfl, ?_⟩
  repeat' first | (simp; done) | (intro _) | split | dsimp only

theorem execVarveNodeWriteback_pending (level pos : Nat) (s : State) : ∃ t, execVarveNodeWriteback level pos s = .next t ∧ t.pending = s.pending := by
  refine ⟨_, rfl, ?_⟩
  repeat' first | (simp; done) | (intro _) | split | dsimp only

@[simp] theorem State.newWindow_pending (s : State) : (State.newWindow s).pending = s.pending := by
  rfl

theorem execHotWindowEnd_pending (s : State) : ∃ t, execHotWindowEnd s = .next t ∧ t.pending = s.pending := by
  refine ⟨_, rfl, ?_⟩
  split <;> simp

@[simp] theorem State.movedWorks_pending (s : State) (f dst : Nat × Nat) : (State.movedWorks s f dst).pending = s.pending := by
  rfl

theorem State.moveBytes_pending {s s' : State} {e : Fkt} {a b : Nat × Nat} (h : s.moveBytes e a b = some s') : s'.pending = s.pending := by
  obtain ⟨t, ht, rfl⟩ := Option.map_eq_some_iff.mp h
  rw [State.releaseFrame_pending, foldl_pending _ _ _ (by intro u o; simp)]
  exact (State.takeFrames_pending ht : t.pending = s.pending)

theorem State.moveFrame_pending {s s' : State} {a b : Nat × Nat} (h : s.moveFrame a b = some s') : s'.pending = s.pending := by
  unfold State.moveFrame at h
  split at h
  · cases h
  · rename_i s0 h0
    obtain ⟨e, _, he⟩ := Option.bind_eq_some_iff.mp h0
    cases h
    dsimp only
    rw [foldl_pending _ _ _ (by intro t w; simp), foldl_pending _ _ _ (by intro t w; simp)]
    dsimp only
    rw [State.movedWorks_pending]
    exact State.moveBytes_pending he

theorem State.vx1Room_pending {s t : State} {fn dest : Nat} (h : s.vx1Room fn dest = some t) : t.pending = s.pending := by
  unfold State.vx1Room at h
  repeat' split at h
  all_goals first | (cases h; rfl) | skip
  obtain ⟨w, hw, rfl⟩ := Option.map_eq_some_iff.mp h
  rw [State.updFn_pending]; exact State.moveFrame_pending hw

theorem State.vx1Move_pending {s t : State} {fn frame dest : Nat} (h : s.vx1Move fn frame dest = some t) : t.pending = s.pending := by
  obtain ⟨u, hu, h2⟩ := Option.bind_eq_some_iff.mp h
  split at h2
  · obtain ⟨w, hw, rfl⟩ := Option.map_eq_some_iff.mp h2
    rw [State.updFn_pending]; exact (State.moveFrame_pending hw).trans (State.vx1Room_pending hu)
  · cases h2

theorem execVx1FrameMove_pending (fn frame dest : Nat) (s : State) : ∃ t, execVx1FrameMove fn frame dest s = .next t ∧ t.pending = s.pending := by
  refine ⟨_, rfl, ?_⟩
  split
  · split
    · rfl
    · rename_i h; rw [State.settle_pending]; exact State.vx1Move_pending h
  · rfl

@[simp] theorem State.nakOnce_pending (s : State) (n : Nat) : (State.nakOnce s n).pending = s.pending := by
  unfold State.nakOnce; split <;> simp

@[simp] theorem State.passOn_pending (s : State) (n stream : Nat) (d : Blob) (r : Nat) : (State.passOn s n stream d r).pending = s.pending := by
  rfl

@[simp] theorem State.beginPass_pending (s : State) (n stream : Nat) (b : Blob) : (State.beginPass s n stream b).pending = s.pending := by
  unfold State.beginPass; split <;> simp

@[simp] theorem State.takeMsgs_pending (n stream f : Nat) (b : Blob) (s : State) : (State.takeMsgs n stream f b s).pending = s.pending := by
  induction f generalizing b s with
  | zero => simp [State.takeMsgs]
  | succ f ih => simp only [State.takeMsgs]; repeat' split
                 all_goals simp [ih]

@[simp] theorem State.holdFrame_pending (s : State) (n i had : Nat) (fresh : Bool) : (State.holdFrame s n i had fresh).pending = s.pending := by
  simp only [State.holdFrame]; repeat' split
  all_goals simp

@[simp] theorem State.takeData_pending (s : State) (n : Nat) (f : Blob) : (State.takeData s n f).pending = s.pending := by
  simp [State.takeData]

@[simp] theorem State.ackFrame_pending (s : State) (n before : Nat) : (State.ackFrame s n before).pending = s.pending := by
  unfold State.ackFrame; split <;> simp

theorem execFrameReceive_pending (link : Nat) (frame : Blob) (s : State) : ∃ t, execFrameReceive link frame s = .next t ∧ t.pending = s.pending := by
  refine ⟨_, rfl, ?_⟩
  repeat' first | (simp; done) | (intro _) | split | dsimp only

theorem execAckTimeout_pending (link : Nat) (s : State) : ∃ t, execAckTimeout link s = .next t ∧ t.pending = s.pending := by
  refine ⟨_, rfl, ?_⟩
  split <;> simp

@[simp] theorem State.arrived_pending (s : State) (link : Nat) (m : FloeMsg) (typ : Nat) (f : State → State) (hf : ∀ t , (f t ).pending = t.pending) : (State.arrived s link m typ f).pending = s.pending := by
  simp only [State.arrived]; repeat' split
  all_goals simp [hf]

theorem execReadReq_pending (link : Nat) (m : FloeMsg) (ecc : Ecc) (s : State) : ∃ t, execReadReq link m ecc s = .next t ∧ t.pending = s.pending := by
  refine ⟨_, rfl, ?_⟩
  repeat' first | (simp; done) | (intro _) | split | apply State.arrived_pending | dsimp only

theorem execWriteReq_pending (link : Nat) (m : FloeMsg) (ecc : Ecc) (s : State) : ∃ t, execWriteReq link m ecc s = .next t ∧ t.pending = s.pending := by
  refine ⟨_, rfl, ?_⟩
  repeat' first | (simp; done) | (intro _) | split | apply State.arrived_pending | dsimp only

theorem execPeerReq_pending (link : Nat) (m : FloeMsg) (s : State) : ∃ t, execPeerReq link m s = .next t ∧ t.pending = s.pending := by
  refine ⟨_, rfl, ?_⟩
  repeat' first | (simp; done) | (intro _) | split | apply State.arrived_pending | dsimp only

@[simp] theorem State.pumpRemotes_pending (s : State) : (State.pumpRemotes s).pending = s.pending := by
  simp [State.pumpRemotes]

@[simp] theorem State.remoteMoved_pending (s : State) (q : MemReq) : (State.remoteMoved s q).pending = s.pending := by
  unfold State.remoteMoved; split <;> simp

@[simp] theorem State.floeStale_pending (s : State) : (State.floeStale s).pending = s.pending := by
  rfl

@[simp] theorem State.remoteAnswer_pending (s : State) (m : FloeMsg) (write : Bool) : (State.remoteAnswer s m write).pending = s.pending := by
  simp only [State.remoteAnswer]; repeat' split
  all_goals simp

theorem execReadResp_pending (link : Nat) (m : FloeMsg) (s : State) : ∃ t, execReadResp link m s = .next t ∧ t.pending = s.pending := by
  refine ⟨_, rfl, ?_⟩
  simp

theorem execWriteAck_pending (link : Nat) (m : FloeMsg) (s : State) : ∃ t, execWriteAck link m s = .next t ∧ t.pending = s.pending := by
  refine ⟨_, rfl, ?_⟩
  simp

theorem execPeerResp_pending (link : Nat) (m : FloeMsg) (s : State) : ∃ t, execPeerResp link m s = .next t ∧ t.pending = s.pending := by
  refine ⟨_, rfl, ?_⟩
  repeat' first | (simp; done) | (intro _) | split | apply State.arrived_pending | dsimp only

theorem execHello_pending (link : Nat) (m : FloeMsg) (s : State) : ∃ t, execHello link m s = .next t ∧ t.pending = s.pending := by
  refine ⟨_, rfl, ?_⟩
  repeat' first | (simp; done) | (intro _) | split | dsimp only

theorem execLanesReady_pending (link : Nat) (s : State) : ∃ t, execLanesReady link s = .next t ∧ t.pending = s.pending := by
  refine ⟨_, rfl, ?_⟩
  repeat' first | (simp; done) | (intro _) | split | dsimp only

theorem execLinkSignalLost_pending (link : Nat) (s : State) : ∃ t, execLinkSignalLost link s = .next t ∧ t.pending = s.pending := by
  refine ⟨_, rfl, ?_⟩
  repeat' first | (simp; done) | (intro _) | split | dsimp only

theorem execTrainTimeout_pending (link : Nat) (s : State) : ∃ t, execTrainTimeout link s = .next t ∧ t.pending = s.pending := by
  refine ⟨_, rfl, ?_⟩
  repeat' first | (simp; done) | (intro _) | split | dsimp only

@[simp] theorem State.ringWrite_pending (s : State) (k action : Nat) : (State.ringWrite s k action).pending = s.pending := by
  simp only [State.ringWrite]; repeat' split
  all_goals simp

theorem execRingJoinRequest_pending (ring : Nat) (s : State) : ∃ t, execRingJoinRequest ring s = .next t ∧ t.pending = s.pending := by
  refine ⟨_, rfl, ?_⟩
  simp

theorem execRingReleaseRequest_pending (ring : Nat) (s : State) : ∃ t, execRingReleaseRequest ring s = .next t ∧ t.pending = s.pending := by
  refine ⟨_, rfl, ?_⟩
  simp

theorem execRingJoin_pending (ring : Nat) (s : State) : ∃ t, execRingJoin ring s = .next t ∧ t.pending = s.pending := by
  refine ⟨_, rfl, ?_⟩
  repeat' first | (simp; done) | (intro _) | split | dsimp only

theorem execJoinTimeout_pending (ring : Nat) (s : State) : ∃ t, execJoinTimeout ring s = .next t ∧ t.pending = s.pending := by
  refine ⟨_, rfl, ?_⟩
  repeat' first | (simp; done) | (intro _) | split | dsimp only

theorem execCensus_pending (link : Nat) (m : FloeMsg) (s : State) : ∃ t, execCensus link m s = .next t ∧ t.pending = s.pending := by
  refine ⟨_, rfl, ?_⟩
  repeat' first | (simp; done) | (intro _) | split | dsimp only

theorem execCensusResendTimer_pending (ring : Nat) (s : State) : ∃ t, execCensusResendTimer ring s = .next t ∧ t.pending = s.pending := by
  refine ⟨_, rfl, ?_⟩
  repeat' first | (simp; done) | (intro _) | split | dsimp only

theorem execE2eTimerExpiry_pending (tag : Nat) (s : State) : ∃ t, execE2eTimerExpiry tag s = .next t ∧ t.pending = s.pending := by
  refine ⟨_, rfl, ?_⟩
  repeat' first | (simp; done) | (intro _) | split | dsimp only

theorem execRingHoldExpiry_pending (tag : Nat) (s : State) : ∃ t, execRingHoldExpiry tag s = .next t ∧ t.pending = s.pending := by
  refine ⟨_, rfl, ?_⟩
  repeat' first | (simp; done) | (intro _) | split | dsimp only

@[simp] theorem State.updBox_pending (s : State) (f : Nat) (g : Mailbox → Mailbox) : (State.updBox s f g).pending = s.pending := by
  rfl

@[simp] theorem State.doeAnswer_pending (s : State) (f : Nat) (b : Blob) : (State.doeAnswer s f b).pending = s.pending := by
  rfl

theorem execDoeObject_pending (fn : Nat) (data : Blob) (s : State) : ∃ t, execDoeObject fn data s = .next t ∧ t.pending = s.pending := by
  refine ⟨_, rfl, ?_⟩
  repeat' first | (simp; done) | (intro _) | split | apply State.config_pending | dsimp only

theorem execDoeAbort_pending (fn : Nat) (s : State) : ∃ t, execDoeAbort fn s = .next t ∧ t.pending = s.pending := by
  refine ⟨_, rfl, ?_⟩
  repeat' first | (simp; done) | (intro _) | split | apply State.config_pending | dsimp only

@[simp] theorem State.signedAnswer_pending (s : State) (f code p1 p2 : Nat) (body : Blob) : (State.signedAnswer s f code p1 p2 body).pending = s.pending := by
  rfl

@[simp] theorem State.modSession_pending (s : State) (n : Nat) (g : Session → Session) : (State.modSession s n g).pending = s.pending := by
  rfl

@[simp] theorem State.endSession_pending (s : State) (n : Nat) : (State.endSession s n).pending = s.pending := by
  rfl

@[simp] theorem State.endSessions_pending (s : State) (f : Nat) : (State.endSessions s f).pending = s.pending := by
  rfl

@[simp] theorem State.secured_pending (s : State) (f n : Nat) (m : Blob) : (State.secured s f n m).pending = s.pending := by
  unfold State.secured; split <;> simp

@[simp] theorem State.newSecret_pending (s : State) (n : Nat) : (State.newSecret s n).pending = s.pending := by
  rfl

@[simp] theorem State.keyExchange_pending (s : State) (f req : Nat) : (State.keyExchange s f req).pending = s.pending := by
  unfold State.keyExchange; split <;> simp

@[simp] theorem State.established_pending (s : State) (f n : Nat) (who : Option Blob) : (State.established s f n who).pending = s.pending := by
  simp [State.established]

@[simp] theorem State.finishSession_pending (s : State) (f n : Nat) (auth : Option Blob) : (State.finishSession s f n auth).pending = s.pending := by
  simp only [State.finishSession]; repeat' split
  all_goals simp

@[simp] theorem State.keyUpdate_pending (s : State) (f n op tag : Nat) : (State.keyUpdate s f n op tag).pending = s.pending := by
  simp only [State.keyUpdate]; repeat' split
  all_goals simp

@[simp] theorem State.agreed_pending (s : State) (f : Nat) (g : State → State) (hg : ∀ t , (g t ).pending = t.pending) : (State.agreed s f g).pending = s.pending := by
  unfold State.agreed; split <;> simp [hg]

@[simp] theorem State.inSession_pending (s : State) (f n : Nat) (g : State → State) (hg : ∀ t , (g t ).pending = t.pending) : (State.inSession s f n g).pending = s.pending := by
  unfold State.inSession; split <;> simp [hg]

@[simp] theorem State.onSlot0_pending (s : State) (f slot : Nat) (g : State → State) (hg : ∀ t , (g t ).pending = t.pending) : (State.onSlot0 s f slot g).pending = s.pending := by
  unfold State.onSlot0; split <;> simp [hg]

@[simp] theorem State.spdmAnswer_pending (s : State) (f : Nat) (m : SpdmMsg) : (s.spdmAnswer f m).pending = s.pending := by
  cases m <;> simp only [State.spdmAnswer] <;> repeat' split
  all_goals simp

theorem execSpdmMessage_pending (fn : Nat) (msg : SpdmMsg) (s : State) : ∃ t, execSpdmMessage fn msg s = .next t ∧ t.pending = s.pending := by
  refine ⟨_, rfl, ?_⟩
  split <;> simp

theorem execGetMeasurements_pending (fn index : Nat) (signed : Bool) (s : State) : ∃ t, execGetMeasurements fn index signed s = .next t ∧ t.pending = s.pending := by
  refine ⟨_, rfl, ?_⟩
  split
  · rfl
  · rw [State.agreed_pending]
    · simp
    · intro t
      split
      · simp
      · dsimp only
        split <;> simp

@[simp] theorem State.vendorAnswer_pending (s : State) (f : Nat) (ses : Option Nat) (result : Nat) (body : Blob) : (State.vendorAnswer s f ses result body).pending = s.pending := by
  unfold State.vendorAnswer; split <;> simp

theorem execKeyPut_pending (fn : Nat) (session : Option Nat) (payload : Blob) (s : State) : ∃ t, execKeyPut fn session payload s = .next t ∧ t.pending = s.pending := by
  refine ⟨_, rfl, ?_⟩
  repeat' first | (simp; done) | (intro _) | split | dsimp only

theorem execKeyInfo_pending (fn : Nat) (session : Option Nat) (payload : Blob) (s : State) : ∃ t, execKeyInfo fn session payload s = .next t ∧ t.pending = s.pending := by
  refine ⟨_, rfl, ?_⟩
  repeat' first | (simp; done) | (intro _) | split | dsimp only

theorem execKeyClear_pending (fn : Nat) (session : Option Nat) (payload : Blob) (s : State) : ∃ t, execKeyClear fn session payload s = .next t ∧ t.pending = s.pending := by
  refine ⟨_, rfl, ?_⟩
  repeat' first | (simp; done) | (intro _) | split | dsimp only

theorem execMigPut_pending (fn : Nat) (session : Option Nat) (payload : Blob) (s : State) : ∃ t, execMigPut fn session payload s = .next t ∧ t.pending = s.pending := by
  refine ⟨_, rfl, ?_⟩
  repeat' first | (simp; done) | (intro _) | split | dsimp only

theorem execMigClear_pending (fn : Nat) (session : Option Nat) (payload : Blob) (s : State) : ∃ t, execMigClear fn session payload s = .next t ∧ t.pending = s.pending := by
  refine ⟨_, rfl, ?_⟩
  repeat' first | (simp; done) | (intro _) | split | dsimp only

theorem execTopoWrite_pending (r : Nat) (io : HostIo) (s : State) : ∃ t, execTopoWrite r io s = .next t ∧ t.pending = s.pending := by
  refine ⟨_, rfl, ?_⟩
  repeat' first | (simp; done) | (intro _) | split | apply State.runAdmin_pending | apply State.withData_pending | apply State.answer_pending | apply State.stageFor_pending | dsimp only

theorem execTopoCommit_pending (r : Nat) (io : HostIo) (s : State) : ∃ t, execTopoCommit r io s = .next t ∧ t.pending = s.pending := by
  refine ⟨_, rfl, ?_⟩
  repeat' first | (simp; done) | (intro _) | split | apply State.runAdmin_pending | apply State.answer_pending | dsimp only

theorem execConfigSet_pending (r : Nat) (io : HostIo) (s : State) : ∃ t, execConfigSet r io s = .next t ∧ t.pending = s.pending := by
  refine ⟨_, rfl, ?_⟩
  repeat' first | (simp; done) | (intro _) | split | apply State.runAdmin_pending | apply State.stageFor_pending | dsimp only

theorem execConfigAdopt_pending (engine : Nat) (_io : HostIo) (s : State) : ∃ t, execConfigAdopt engine _io s = .next t ∧ t.pending = s.pending := by
  refine ⟨_, rfl, ?_⟩
  split <;> simp

theorem execPwrState_pending (r : Nat) (_io : HostIo) (s : State) : ∃ t, execPwrState r _io s = .next t ∧ t.pending = s.pending := by
  refine ⟨_, rfl, ?_⟩
  repeat' first | (simp; done) | (intro _) | split | apply State.runAdmin_pending | dsimp only

@[simp] theorem State.markHeader_pending (s : State) (clean : Bool) : (State.markHeader s clean).pending = s.pending := by
  unfold State.markHeader; split <;> simp

@[simp] theorem State.powerDown_pending (s : State) (k : PwrSt) : (State.powerDown s k).pending = s.pending := by
  rfl

theorem execPowerStateEntry_pending (s : State) : ∃ t, execPowerStateEntry s = .next t ∧ t.pending = s.pending := by
  refine ⟨_, rfl, ?_⟩
  repeat' first | (simp; done) | (intro _) | split | apply foldl_pending | dsimp only

theorem execPwrLimit_pending (r : Nat) (_io : HostIo) (s : State) : ∃ t, execPwrLimit r _io s = .next t ∧ t.pending = s.pending := by
  refine ⟨_, rfl, ?_⟩
  repeat' first | (simp; done) | (intro _) | split | apply State.runAdmin_pending | dsimp only

@[simp] theorem State.restartForPatch_pending (s : State) : (State.restartForPatch s).pending = s.pending := by
  rfl

@[simp] theorem State.loadPatch_pending (s : State) (r : Nat) (c : Cmd) (io : HostIo) (image : Blob) (svn : Nat) : (State.loadPatch s r c io image svn).pending = s.pending := by
  simp only [State.loadPatch]; repeat' split
  all_goals simp

theorem execPatchLoad_pending (r : Nat) (io : HostIo) (s : State) : ∃ t, execPatchLoad r io s = .next t ∧ t.pending = s.pending := by
  refine ⟨_, rfl, ?_⟩
  repeat' first | (simp; done) | (intro _) | split | apply State.runAdmin_pending | apply State.withData_pending | dsimp only

@[simp] theorem State.newChallenge_pending (s : State) : (State.newChallenge s).pending = s.pending := by
  rfl

theorem execMonUnlock_pending (r : Nat) (_io : HostIo) (s : State) : ∃ t, execMonUnlock r _io s = .next t ∧ t.pending = s.pending := by
  refine ⟨_, rfl, ?_⟩
  repeat' first | (simp; done) | (intro _) | split | apply State.runAdmin_pending | dsimp only

@[simp] theorem State.banner_pending (s : State) : (State.banner s).pending = s.pending := by
  rfl

@[simp] theorem State.tarnStart_pending (s : State) : (State.tarnStart s).pending = s.pending := by
  rfl

theorem execRailFault_pending (engine : Nat) (s : State) : ∃ t, execRailFault engine s = .next t ∧ t.pending = s.pending := by
  refine ⟨_, rfl, ?_⟩
  split <;> simp

theorem execStallSentinelExpiry_pending (engine : Nat) (s : State) : ∃ t, execStallSentinelExpiry engine s = .next t ∧ t.pending = s.pending := by
  refine ⟨_, rfl, ?_⟩
  split <;> simp

@[simp] theorem State.sample_pending (s : State) : (State.sample s).pending = s.pending := by
  simp only [State.sample]; repeat' split
  all_goals try simp
  all_goals (apply foldl_pending; intro t x; try dsimp only)
  all_goals repeat' split
  all_goals first | (simp; done) | (apply foldl_pending; intro t x; (try dsimp only); (repeat' split) <;> simp)

theorem execProgressSample_pending (s : State) : ∃ t, execProgressSample s = .next t ∧ t.pending = s.pending := by
  refine ⟨_, rfl, ?_⟩
  split
  · rfl
  · simp

theorem execHeartbeat_pending (s : State) : ∃ t, execHeartbeat s = .next t ∧ t.pending = s.pending := by
  refine ⟨_, rfl, ?_⟩
  split <;> simp

theorem execHeartbeatWatchdogExpiry_pending (s : State) : ∃ t, execHeartbeatWatchdogExpiry s = .next t ∧ t.pending = s.pending := by
  refine ⟨_, rfl, ?_⟩
  split <;> simp

theorem execEngineResetComplete_pending (engine : Nat) (s : State) : ∃ t, execEngineResetComplete engine s = .next t ∧ t.pending = s.pending := by
  refine ⟨_, rfl, ?_⟩
  repeat' first | (simp; done) | (intro _) | split | dsimp only

theorem execContextResetDeadline_pending (ctx : Nat) (s : State) : ∃ t, execContextResetDeadline ctx s = .next t ∧ t.pending = s.pending := by
  refine ⟨_, rfl, ?_⟩
  repeat' first | (simp; done) | (intro _) | split | apply foldl_pending | (simp only [State.settle_pending]) | dsimp only

theorem execEngineResetDeadline_pending (engine : Nat) (s : State) : ∃ t, execEngineResetDeadline engine s = .next t ∧ t.pending = s.pending := by
  refine ⟨_, rfl, ?_⟩
  repeat' first | (simp; done) | (intro _) | split | (simp only [State.settle_pending]) | dsimp only

theorem execComputeDomainResetComplete_pending (s : State) : ∃ t, execComputeDomainResetComplete s = .next t ∧ t.pending = s.pending := by
  refine ⟨_, rfl, ?_⟩
  repeat' first | (simp; done) | (intro _) | split | dsimp only

theorem execComputeDomainResetDeadline_pending (s : State) : ∃ t, execComputeDomainResetDeadline s = .next t ∧ t.pending = s.pending := by
  refine ⟨_, rfl, ?_⟩
  repeat' first | (simp; done) | (intro _) | split | (simp only [State.settle_pending]) | dsimp only

@[simp] theorem State.afterRestart_pending (s : State) (r : Nat) : (State.afterRestart s r).pending = s.pending := by
  simp only [State.afterRestart]; repeat' split
  all_goals simp

@[simp] theorem State.restartDone_pending (s : State) (x : Rst) : (State.restartDone s x).pending = s.pending := by
  unfold State.restartDone; split <;> simp

theorem execTarnRestartComplete_pending (s : State) : ∃ t, execTarnRestartComplete s = .next t ∧ t.pending = s.pending := by
  refine ⟨_, rfl, ?_⟩
  repeat' first | (simp; done) | (intro _) | split | (simp only [State.settle_pending]) | dsimp only

theorem execTarnRestartDeadline_pending (s : State) : ∃ t, execTarnRestartDeadline s = .next t ∧ t.pending = s.pending := by
  refine ⟨_, rfl, ?_⟩
  repeat' first | (simp; done) | (intro _) | split | (simp only [State.settle_pending]) | dsimp only

@[simp] theorem State.engineRequest_pending (s : State) (engine : Nat) : (State.engineRequest s engine).pending = s.pending := by
  unfold State.engineRequest; split <;> simp

theorem execEngineResetRequest_pending (engine : Nat) (s : State) : ∃ t, execEngineResetRequest engine s = .next t ∧ t.pending = s.pending := by
  refine ⟨_, rfl, ?_⟩
  simp

@[simp] theorem State.domainRequest_pending (s : State) : (State.domainRequest s).pending = s.pending := by
  unfold State.domainRequest; split <;> simp

theorem execComputeDomainResetRequest_pending (s : State) : ∃ t, execComputeDomainResetRequest s = .next t ∧ t.pending = s.pending := by
  refine ⟨_, rfl, ?_⟩
  simp

@[simp] theorem State.resetHead_pending (s : State) (value : Nat) : (State.resetHead s value).pending = s.pending := by
  simp only [State.resetHead]; repeat' split
  all_goals simp

theorem execResetHeadWrite_pending (value : Nat) (s : State) : ∃ t, execResetHeadWrite value s = .next t ∧ t.pending = s.pending := by
  refine ⟨_, rfl, ?_⟩
  simp

theorem execSqFetch_pending (q : Nat) (s : State) : ∃ t, execSqFetch q s = .next t ∧ t.pending = s.pending := by
  refine ⟨_, rfl, ?_⟩
  repeat' first | (simp; done) | (intro _) | split | dsimp only

theorem execSqFetchDone_pending (q : Nat) (entries : List Blob) (resp : HostResp) (s : State) : ∃ t, execSqFetchDone q entries resp s = .next t ∧ t.pending = s.pending := by
  refine ⟨_, rfl, ?_⟩
  repeat' first | (simp; done) | (intro _) | split | dsimp only

theorem execAdmitEntry_pending (q : Nat) (rd : BatchRead) (away : Blob) (s : State) : ∃ t, execAdmitEntry q rd away s = .next t ∧ t.pending = s.pending := by
  refine ⟨_, rfl, ?_⟩
  simp

theorem execDispatch_pending (r : Nat) (s : State) : ∃ t, execDispatch r s = .next t ∧ t.pending = s.pending := by
  refine ⟨_, rfl, ?_⟩
  repeat' first | (simp; done) | (intro _) | split | (simp only [State.settle_pending]) | dsimp only

theorem execCommandComplete_pending (r : Nat) (s : State) : ∃ t, execCommandComplete r s = .next t ∧ t.pending = s.pending := by
  refine ⟨_, rfl, ?_⟩
  repeat' first | (simp; done) | (intro _) | split | (simp only [State.settle_pending]) | dsimp only

theorem execReceiptAppend_pending (r : Nat) (s : State) : ∃ t, execReceiptAppend r s = .next t ∧ t.pending = s.pending := by
  refine ⟨_, rfl, ?_⟩
  repeat' first | (simp; done) | (intro _) | split | dsimp only

@[simp] theorem State.completeOut_pending (s : State) (r : Nat) (c : Cmd) : (State.completeOut s r c).pending = s.pending := by
  simp [State.completeOut]

theorem execCqeWrite_pending (r : Nat) (s : State) : ∃ t, execCqeWrite r s = .next t ∧ t.pending = s.pending := by
  refine ⟨_, rfl, ?_⟩
  repeat' first | (simp; done) | (intro _) | split | dsimp only

theorem execCqConfirmReadDone_pending (q : Nat) (resp : HostResp) (s : State) : ∃ t, execCqConfirmReadDone q resp s = .next t ∧ t.pending = s.pending := by
  refine ⟨_, rfl, ?_⟩
  repeat' first | (simp; done) | (intro _) | split | dsimp only

theorem execEventEntryWrite_pending (fn : Nat) (s : State) : ∃ t, execEventEntryWrite fn s = .next t ∧ t.pending = s.pending := by
  refine ⟨_, rfl, ?_⟩
  simp

theorem execIntTimeExpiry_pending (q : Nat) (s : State) : ∃ t, execIntTimeExpiry q s = .next t ∧ t.pending = s.pending := by
  refine ⟨_, rfl, ?_⟩
  repeat' first | (simp; done) | (intro _) | split | dsimp only

theorem execCommandDeadlineExpiry_pending (r : Nat) (s : State) : ∃ t, execCommandDeadlineExpiry r s = .next t ∧ t.pending = s.pending := by
  refine ⟨_, rfl, ?_⟩
  repeat' first | (simp; done) | (intro _) | split | (simp only [State.settle_pending]) | dsimp only

theorem execDrainComplete_pending (r : Nat) (s : State) : ∃ t, execDrainComplete r s = .next t ∧ t.pending = s.pending := by
  refine ⟨_, rfl, ?_⟩
  repeat' first | (simp; done) | (intro _) | split | (simp only [State.settle_pending, State.drainIfIdle_pending]) | dsimp only

theorem execDrainWindowExpiry_pending (r : Nat) (s : State) : ∃ t, execDrainWindowExpiry r s = .next t ∧ t.pending = s.pending := by
  refine ⟨_, rfl, ?_⟩
  repeat' first | (simp; done) | (intro _) | split | apply foldl_pending | (simp only [State.settle_pending]) | dsimp only

theorem execPersistWriteDone_pending (s : State) : ∃ t, execPersistWriteDone s = .next t ∧ t.pending = s.pending := by
  refine ⟨_, rfl, ?_⟩
  repeat' first | (simp; done) | (intro _) | split | dsimp only

@[simp] theorem State.holdupBegin_pending (s : State) : (State.holdupBegin s).pending = s.pending := by
  rfl

@[simp] theorem State.holdupState_pending (s : State) : (State.holdupState s).pending = s.pending := by
  rfl

theorem execHoldupFall_pending (ns : Nat) (s : State) : ∃ t, execHoldupFall ns s = .next t ∧ t.pending = s.pending := by
  refine ⟨_, rfl, ?_⟩
  repeat' first | (simp; done) | (intro _) | split | dsimp only

@[simp] theorem State.leaveRings_pending (s : State) : (State.leaveRings s).pending = s.pending := by
  simp [State.leaveRings]

theorem execLedgerFlushDone_pending (s : State) : ∃ t, execLedgerFlushDone s = .next t ∧ t.pending = s.pending := by
  refine ⟨_, rfl, ?_⟩
  repeat' first | (simp; done) | (intro _) | split | dsimp only

theorem execHoldupRise_pending (ns : Nat) (s : State) : ∃ t, execHoldupRise ns s = .next t ∧ t.pending = s.pending := by
  refine ⟨_, rfl, ?_⟩
  split <;> simp

theorem execHoldupEnd_pending (s : State) : ∃ t, execHoldupEnd s = .next t ∧ t.pending = s.pending := by
  refine ⟨_, rfl, ?_⟩
  repeat' first | (simp; done) | (intro _) | split | dsimp only

theorem execWake_pending (src : WakeSrc) (s : State) : ∃ t, execWake src s = .next t ∧ t.pending = s.pending := by
  refine ⟨_, rfl, ?_⟩
  repeat' first | (simp; done) | (intro _) | split | dsimp only

@[simp] theorem State.endWake_pending (s : State) : (State.endWake s).pending = s.pending := by
  simp only [State.endWake]; repeat' split
  all_goals simp

@[simp] theorem State.holdBegins_pending (s : State) : (State.holdBegins s).pending = s.pending := by
  unfold State.holdBegins; split <;> simp

theorem execPwrGoodFall_pending (ns : Nat) (s : State) : ∃ t, execPwrGoodFall ns s = .next t ∧ t.pending = s.pending := by
  refine ⟨_, rfl, ?_⟩
  repeat' first | (simp; done) | (intro _) | split | apply foldl_pending | dsimp only

theorem execBrownoutHoldEnter_pending (mv : Nat) (s : State) : ∃ t, execBrownoutHoldEnter mv s = .next t ∧ t.pending = s.pending := by
  refine ⟨_, rfl, ?_⟩
  split <;> simp

@[simp] theorem State.atReset_pending (s : State) (cold : Bool) : (State.atReset s cold).pending = s.pending := by
  rfl

@[simp] theorem State.relevel_pending (s : State) : (State.relevel s).pending = s.pending := by
  simp only [State.relevel]; repeat' split
  all_goals simp

theorem execColdResetAssert_pending (ns : Nat) (s : State) : ∃ t, execColdResetAssert ns s = .next t ∧ t.pending = s.pending := by
  refine ⟨_, rfl, ?_⟩
  split <;> simp

theorem execColdResetRelease_pending (ns : Nat) (s : State) : ∃ t, execColdResetRelease ns s = .next t ∧ t.pending = s.pending := by
  refine ⟨_, rfl, ?_⟩
  split <;> simp

theorem execWarmResetAssert_pending (ns : Nat) (s : State) : ∃ t, execWarmResetAssert ns s = .next t ∧ t.pending = s.pending := by
  refine ⟨_, rfl, ?_⟩
  split <;> simp

theorem execWarmResetRelease_pending (ns : Nat) (s : State) : ∃ t, execWarmResetRelease ns s = .next t ∧ t.pending = s.pending := by
  refine ⟨_, rfl, ?_⟩
  split <;> simp

theorem execVoltageMonitorReset_pending (rail : Rail) (mv : Nat) (s : State) : ∃ t, execVoltageMonitorReset rail mv s = .next t ∧ t.pending = s.pending := by
  refine ⟨_, rfl, ?_⟩
  repeat' first | (simp; done) | (intro _) | split | dsimp only

theorem execVoltageMonitorRelease_pending (rail : Rail) (mv : Nat) (s : State) : ∃ t, execVoltageMonitorRelease rail mv s = .next t ∧ t.pending = s.pending := by
  refine ⟨_, rfl, ?_⟩
  repeat' first | (simp; done) | (intro _) | split | dsimp only

@[simp] theorem State.warmReset_pending (s : State) : (State.warmReset s).pending = s.pending := by
  rfl

theorem execSelftestDone_pending (code : Nat) (s : State) : ∃ t, execSelftestDone code s = .next t ∧ t.pending = s.pending := by
  refine ⟨_, rfl, ?_⟩
  repeat' first | (simp; done) | (intro _) | split | dsimp only

theorem execSelftestLimitExpiry_pending (s : State) : ∃ t, execSelftestLimitExpiry s = .next t ∧ t.pending = s.pending := by
  refine ⟨_, rfl, ?_⟩
  split <;> simp

theorem execDroopFall_pending (ns : Nat) (s : State) : ∃ t, execDroopFall ns s = .next t ∧ t.pending = s.pending := by
  refine ⟨_, rfl, ?_⟩
  repeat' first | (simp; done) | (intro _) | split | dsimp only

theorem execDroopRise_pending (ns : Nat) (s : State) : ∃ t, execDroopRise ns s = .next t ∧ t.pending = s.pending := by
  refine ⟨_, rfl, ?_⟩
  split <;> simp

theorem execDroopPaceEnd_pending (s : State) : ∃ t, execDroopPaceEnd s = .next t ∧ t.pending = s.pending := by
  refine ⟨_, rfl, ?_⟩
  repeat' first | (simp; done) | (intro _) | split | dsimp only

theorem execPwrbrakeChange_pending (low : Bool) (ns : Nat) (s : State) : ∃ t, execPwrbrakeChange low ns s = .next t ∧ t.pending = s.pending := by
  refine ⟨_, rfl, ?_⟩
  repeat' first | (simp; done) | (intro _) | split | dsimp only

theorem execPaceUpdate_pending (mw : Nat) (s : State) : ∃ t, execPaceUpdate mw s = .next t ∧ t.pending = s.pending := by
  refine ⟨_, rfl, ?_⟩
  split <;> simp

theorem execAssistRelax_pending (engine : Nat) (s : State) : ∃ t, execAssistRelax engine s = .next t ∧ t.pending = s.pending := by
  refine ⟨_, rfl, ?_⟩
  split <;> simp

@[simp] theorem State.ticTake_pending (s : State) (n : Nat) : (State.ticTake s n).pending = s.pending := by
  rfl

theorem execInterruptEntry_pending (s : State) : ∃ t, execInterruptEntry s = .next t ∧ t.pending = s.pending := by
  refine ⟨_, rfl, ?_⟩
  repeat' first | (simp; done) | (intro _) | split | dsimp only

@[simp] theorem State.ticEoi_pending (s : State) (n : Nat) : (State.ticEoi s n).pending = s.pending := by
  unfold State.ticEoi; split <;> simp

theorem execEoi_pending (src : Nat) (s : State) : ∃ t, execEoi src s = .next t ∧ t.pending = s.pending := by
  refine ⟨_, rfl, ?_⟩
  split <;> simp

theorem execMret_pending (s : State) : ∃ t, execMret s = .next t ∧ t.pending = s.pending := by
  refine ⟨_, rfl, ?_⟩
  repeat' first | (simp; done) | (intro _) | split | dsimp only

theorem execAccessFault_pending (addr : Nat) (kind : CoreAccess) (s : State) : ∃ t, execAccessFault addr kind s = .next t ∧ t.pending = s.pending := by
  refine ⟨_, rfl, ?_⟩
  split <;> simp

theorem execPf0FunctionLevelReset_pending (s : State) : ∃ t, execPf0FunctionLevelReset s = .next t ∧ t.pending = s.pending := by
  refine ⟨_, rfl, ?_⟩
  simp

@[simp] theorem State.releaseVectors_pending (s : State) (f : Nat) : (State.releaseVectors s f).pending = s.pending := by
  unfold State.releaseVectors; split <;> simp

@[simp] theorem State.configAccess_pending (s : State) (f : Nat) (a : CfgAccess) : (s.configAccess f a).pending = s.pending := by
  cases a <;> simp [State.configAccess]

theorem execConfigurationRequest_pending (fn : Nat) (a : CfgAccess) (s : State) : ∃ t, execConfigurationRequest fn a s = .next t ∧ t.pending = s.pending := by
  refine ⟨_, rfl, ?_⟩
  split <;> simp

theorem execBoundaryScanTestMode_pending (cells : Option (BitVec 18)) (s : State) : ∃ t, execBoundaryScanTestMode cells s = .next t ∧ t.pending = s.pending := by
  refine ⟨_, rfl, ?_⟩
  simp

theorem execFnEnable_pending (r : Nat) (io : HostIo) (s : State) : ∃ t, execFnEnable r io s = .next t ∧ t.pending = s.pending := by
  refine ⟨_, rfl, ?_⟩
  repeat' first | (simp; done) | (intro _) | split | apply State.runAdmin_pending | apply State.answer_pending | dsimp only

@[simp] theorem State.enableNow_pending (s : State) (f r : Nat) (io : HostIo) (others : List Nat) : (State.enableNow s f r io others).pending = s.pending := by
  simp only [State.enableNow]; repeat' split
  all_goals simp

theorem execEnableTakesEffect_pending (fn : Nat) (io : HostIo) (s : State) : ∃ t, execEnableTakesEffect fn io s = .next t ∧ t.pending = s.pending := by
  refine ⟨_, rfl, ?_⟩
  repeat' first | (simp; done) | (intro _) | split | apply foldl_pending | dsimp only

theorem execFnQuiesce_pending (r : Nat) (_io : HostIo) (s : State) : ∃ t, execFnQuiesce r _io s = .next t ∧ t.pending = s.pending := by
  refine ⟨_, rfl, ?_⟩
  repeat' first | (simp; done) | (intro _) | split | apply State.runAdmin_pending | dsimp only

theorem execQuiesceComplete_pending (fn : Nat) (s : State) : ∃ t, execQuiesceComplete fn s = .next t ∧ t.pending = s.pending := by
  refine ⟨_, rfl, ?_⟩
  repeat' first | (simp; done) | (intro _) | split | apply foldl_pending | dsimp only

theorem execFnReset_pending (r : Nat) (io : HostIo) (s : State) : ∃ t, execFnReset r io s = .next t ∧ t.pending = s.pending := by
  refine ⟨_, rfl, ?_⟩
  repeat' first | (simp; done) | (intro _) | split | apply State.runAdmin_pending | dsimp only

theorem execVfFunctionLevelReset_pending (fn : Nat) (s : State) : ∃ t, execVfFunctionLevelReset fn s = .next t ∧ t.pending = s.pending := by
  refine ⟨_, rfl, ?_⟩
  repeat' first | (simp; done) | (intro _) | split | apply State.config_pending | dsimp only

theorem execFunctionResetEnd_pending (fn : Nat) (io : HostIo) (s : State) : ∃ t, execFunctionResetEnd fn io s = .next t ∧ t.pending = s.pending := by
  refine ⟨_, rfl, ?_⟩
  repeat' first | (simp; done) | (intro _) | split | apply foldl_pending | (simp only [State.settle_pending]) | dsimp only

theorem execFnExport_pending (r : Nat) (io : HostIo) (s : State) : ∃ t, execFnExport r io s = .next t ∧ t.pending = s.pending := by
  refine ⟨_, rfl, ?_⟩
  repeat' first | (simp; done) | (intro _) | split | apply foldl_pending | apply State.runAdmin_pending | apply State.withData_pending | apply State.answer_pending | dsimp only

theorem execFnImport_pending (r : Nat) (io : HostIo) (frames : List Nat) (s : State) : ∃ t, execFnImport r io frames s = .next t ∧ t.pending = s.pending := by
  have hr : ∀ (g : Nat) (l : List Nat) (t : State), (l.foldl (fun w a => w.hostRead g a frameBytes) t).pending = t.pending :=
    fun g l t => foldl_pending _ _ _ (by simp)
  refine ⟨_, rfl, ?_⟩
  apply State.runAdmin_pending
  intro t c
  dsimp only
  split
  · simp
  · apply State.withData_pending
    intro u l
    split
    · simp
    · try dsimp only
      repeat' split
      all_goals try (simp [hr]; done)
      rw [State.answer_pending, hr]
      intro y
      cases h : y.install _ _ _ _ with
      | none => rfl
      | some w => exact State.install_pending h

theorem execWplogCtl_pending (r : Nat) (_io : HostIo) (s : State) : ∃ t, execWplogCtl r _io s = .next t ∧ t.pending = s.pending := by
  refine ⟨_, rfl, ?_⟩
  repeat' first | (simp; done) | (intro _) | split | apply State.runAdmin_pending | dsimp only

@[simp] theorem State.wplogFlush_pending (s : State) (fn value : Nat) : (State.wplogFlush s fn value).pending = s.pending := by
  unfold State.wplogFlush; split <;> simp

theorem execWplogFlush_pending (fn value : Nat) (s : State) : ∃ t, execWplogFlush fn value s = .next t ∧ t.pending = s.pending := by
  refine ⟨_, rfl, ?_⟩
  simp

theorem execWplogFlushDone_pending (fn : Nat) (s : State) : ∃ t, execWplogFlushDone fn s = .next t ∧ t.pending = s.pending := by
  refine ⟨_, rfl, ?_⟩
  repeat' first | (simp; done) | (intro _) | split | apply foldl_pending | dsimp only

@[simp] theorem State.moraineClear_pending (s : State) (fn value : Nat) : (State.moraineClear s fn value).pending = s.pending := by
  unfold State.moraineClear; split <;> simp

theorem execMoraineClear_pending (fn value : Nat) (s : State) : ∃ t, execMoraineClear fn value s = .next t ∧ t.pending = s.pending := by
  refine ⟨_, rfl, ?_⟩
  simp

@[simp] theorem State.rtReserveWrite_pending (s : State) (v : Nat) : (State.rtReserveWrite s v).pending = s.pending := by
  simp [State.rtReserveWrite]

@[simp] theorem State.adminResumeWrite_pending (s : State) (v : Nat) : (State.adminResumeWrite s v).pending = s.pending := by
  simp only [State.adminResumeWrite]; repeat' split
  all_goals simp

@[simp] theorem State.qcfgWrite_pending (s : State) (f v : Nat) : (State.qcfgWrite s f v).pending = s.pending := by
  unfold State.qcfgWrite; split <;> simp

@[simp] theorem State.hostAddWrite_pending (s : State) (v : Nat) : (s.hostAddWrite v).pending = s.pending := by
  simp only [State.hostAddWrite]
  split
  · rfl
  · split
    · split
      · rename_i h; simp [State.takeChunks_pending h]
      · rfl
    · rfl

@[simp] theorem State.imageCfgWrite_pending (s : State) (n v : Nat) : (State.imageCfgWrite s n v).pending = s.pending := by
  unfold State.imageCfgWrite; split <;> simp

@[simp] theorem State.quotaWrite_pending (s : State) (f v : Nat) : (State.quotaWrite s f v).pending = s.pending := by
  simp only [State.quotaWrite]; repeat' split
  all_goals simp

@[simp] theorem State.adminCtlWrite_pending (s : State) (v : Nat) : (State.adminCtlWrite s v).pending = s.pending := by
  simp only [State.adminCtlWrite]; repeat' split
  all_goals simp

@[simp] theorem State.resetReqWrite_pending (s : State) (v : Nat) : (State.resetReqWrite s v).pending = s.pending := by
  simp only [State.resetReqWrite]; repeat' split
  all_goals simp

@[simp] theorem State.crevCtlWrite_pending (s : State) (v : Nat) : (State.crevCtlWrite s v).pending = s.pending := by
  simp only [State.crevCtlWrite]; repeat' split
  all_goals simp

@[simp] theorem State.doorWrite_pending (s : State) (d : Door) (k v : Nat) : (State.doorWrite s d k v).pending = s.pending := by
  simp only [State.doorWrite]; repeat' split
  all_goals simp

@[simp] theorem State.vxWrite_pending (s : State) (r : Reg) (v : Nat) : (State.vxWrite s r v).pending = s.pending := by
  unfold State.vxWrite; split <;> simp

@[simp] theorem State.coreWrite_pending (s : State) (r : Reg) (v : Nat) : (State.coreWrite s r v).pending = s.pending := by
  unfold State.coreWrite; split <;> simp

@[simp] theorem State.dataWrite_pending (s : State) (r : Reg) (v : Nat) : (State.dataWrite s r v).pending = s.pending := by
  simp only [State.dataWrite]; repeat' split
  all_goals simp

@[simp] theorem State.restWrite_pending (s : State) (r : Reg) (v : Nat) : (State.restWrite s r v).pending = s.pending := by
  simp only [State.restWrite]; repeat' split
  all_goals simp

@[simp] theorem State.fnWrite_pending (s : State) (r : Reg) (v : Nat) : (State.fnWrite s r v).pending = s.pending := by
  unfold State.fnWrite; split <;> simp

@[simp] theorem State.regWrite_pending (s : State) (r : Reg) (v : Nat) : (State.regWrite s r v).pending = s.pending := by
  unfold State.regWrite; split <;> simp

@[simp] theorem State.msixWrite_pending (s : State) (f o w v : Nat) : (State.msixWrite s f o w v).pending = s.pending := by
  simp [State.msixWrite]

@[simp] theorem State.readHalf_pending (s : State) (sp : Space) (off : Nat) (r : Reg) (o : Nat) : (s.readHalf sp off r o).2.pending = s.pending := by
  simp only [State.readHalf]; repeat' split
  all_goals simp

@[simp] theorem State.busRead_pending (s : State) (sp : Space) (off w : Nat) : (s.busRead sp off w).2.pending = s.pending := by
  simp only [State.busRead]; repeat' split
  all_goals simp

@[simp] theorem State.writeHigh_pending (s : State) (sp : Space) (off : Nat) (r : Reg) (v : Nat) : (State.writeHigh s sp off r v).pending = s.pending := by
  simp only [State.writeHigh]; repeat' split
  all_goals simp

@[simp] theorem State.writeLow_pending (s : State) (sp : Space) (off v : Nat) : (State.writeLow s sp off v).pending = s.pending := by
  simp [State.writeLow]

@[simp] theorem State.busWrite_pending (s : State) (sp : Space) (off w value : Nat) : (State.busWrite s sp off w value).pending = s.pending := by
  simp only [State.busWrite]; repeat' split
  all_goals simp

@[simp] theorem State.writeVia_pending (s : State) (c : Instr) (sp : Space) (off w v : Nat) : (State.writeVia s c sp off w v).pending = s.pending := by
  simp only [State.writeVia]; repeat' split
  all_goals simp

@[simp] theorem State.readVia_pending (s : State) (c : Instr) (sp : Space) (off w : Nat) : (State.readVia s c sp off w).pending = s.pending := by
  simp only [State.readVia]; repeat' split
  all_goals simp

theorem execRegisterWrite_pending (sp : Space) (off width value : Nat) (s : State) : ∃ t, execRegisterWrite sp off width value s = .next t ∧ t.pending = s.pending := by
  refine ⟨_, rfl, ?_⟩
  simp

theorem execUnmappedAccess_pending (sp : Space) (off width : Nat) (value : Option Nat) (s : State) : ∃ t, execUnmappedAccess sp off width value s = .next t ∧ t.pending = s.pending := by
  refine ⟨_, rfl, ?_⟩
  split <;> simp

theorem execSplitLowRead_pending (sp : Space) (off : Nat) (s : State) : ∃ t, execSplitLowRead sp off s = .next t ∧ t.pending = s.pending := by
  refine ⟨_, rfl, ?_⟩
  simp

theorem execSplitLowWrite_pending (sp : Space) (off value : Nat) (s : State) : ∃ t, execSplitLowWrite sp off value s = .next t ∧ t.pending = s.pending := by
  refine ⟨_, rfl, ?_⟩
  simp

theorem execSplitHighWrite_pending (sp : Space) (off value : Nat) (s : State) : ∃ t, execSplitHighWrite sp off value s = .next t ∧ t.pending = s.pending := by
  refine ⟨_, rfl, ?_⟩
  simp

@[simp] theorem State.doorVia_pending (s : State) (c : Instr) (d : Door) (k v : Nat) : (State.doorVia s c d k v).pending = s.pending := by
  unfold State.doorVia; split <;> simp

theorem execSqTail_pending (d : Door) (value : Nat) (s : State) : ∃ t, execSqTail d value s = .next t ∧ t.pending = s.pending := by
  refine ⟨_, rfl, ?_⟩
  simp

theorem execCqHead_pending (d : Door) (value : Nat) (s : State) : ∃ t, execCqHead d value s = .next t ∧ t.pending = s.pending := by
  refine ⟨_, rfl, ?_⟩
  simp

theorem execCqIntMask_pending (d : Door) (value : Nat) (s : State) : ∃ t, execCqIntMask d value s = .next t ∧ t.pending = s.pending := by
  refine ⟨_, rfl, ?_⟩
  simp

theorem execMsixMaskClear_pending (fn : Nat) (vector : Option Nat) (s : State) : ∃ t, execMsixMaskClear fn vector s = .next t ∧ t.pending = s.pending := by
  refine ⟨_, rfl, ?_⟩
  repeat' first | (simp; done) | (intro _) | split | apply State.config_pending | apply State.access_pending | dsimp only

theorem execCirqRtReserve_pending (value : Nat) (s : State) : ∃ t, execCirqRtReserve value s = .next t ∧ t.pending = s.pending := by
  refine ⟨_, rfl, ?_⟩
  simp

theorem execCirqFnQcfg_pending (fn value : Nat) (s : State) : ∃ t, execCirqFnQcfg fn value s = .next t ∧ t.pending = s.pending := by
  refine ⟨_, rfl, ?_⟩
  split <;> simp

theorem execCirqAdminResume_pending (value : Nat) (s : State) : ∃ t, execCirqAdminResume value s = .next t ∧ t.pending = s.pending := by
  refine ⟨_, rfl, ?_⟩
  simp

theorem execSnowHostAdd_pending (value : Nat) (s : State) : ∃ t, execSnowHostAdd value s = .next t ∧ t.pending = s.pending := by
  refine ⟨_, rfl, ?_⟩
  simp

theorem execSnowImageCfg_pending (image value : Nat) (s : State) : ∃ t, execSnowImageCfg image value s = .next t ∧ t.pending = s.pending := by
  refine ⟨_, rfl, ?_⟩
  split <;> simp

theorem execSnowFnQuota_pending (fn value : Nat) (s : State) : ∃ t, execSnowFnQuota fn value s = .next t ∧ t.pending = s.pending := by
  refine ⟨_, rfl, ?_⟩
  split <;> simp

theorem execAdminQueueEnable_pending (value : Nat) (s : State) : ∃ t, execAdminQueueEnable value s = .next t ∧ t.pending = s.pending := by
  refine ⟨_, rfl, ?_⟩
  simp

@[simp] theorem State.monAnswer_pending (s : State) (lines : List (List Nat)) (e : Option MonErr) : (State.monAnswer s lines e).pending = s.pending := by
  simp [State.monAnswer]

@[simp] theorem State.monRefuse_pending (s : State) (e : MonErr) : (State.monRefuse s e).pending = s.pending := by
  simp [State.monRefuse]

@[simp] theorem State.view_pending (s : State) (off w : Nat) : (s.view off w).2.pending = s.pending := by simp [State.view]

@[simp] theorem State.monRead_pending (s : State) (off w n : Nat) : (s.monRead off w n).2.pending = s.pending := by
  induction n generalizing s off with
  | zero => rfl
  | succ n ih => simp [State.monRead, ih]

@[simp] theorem State.monList_pending (s : State) (l : List (Nat × Nat)) : (s.monList l).2.pending = s.pending := by
  induction l generalizing s with
  | nil => rfl
  | cons a t ih => simp [State.monList, ih]

@[simp] theorem State.monLines_pending (s : State) (l : List (List (Nat × Nat))) : (s.monLines l).2.pending = s.pending := by
  induction l generalizing s with
  | nil => rfl
  | cons a t ih => simp [State.monLines, ih]

@[simp] theorem answerWith_pending (x : List (List Nat) × State) : (answerWith x).pending = x.2.pending := by
  simp [answerWith]

@[simp] theorem State.monVersion_pending (s : State) : (State.monVersion s).pending = s.pending := by
  simp [State.monVersion]

@[simp] theorem State.monHeartbeat_pending (s : State) : (State.monHeartbeat s).pending = s.pending := by
  simp [State.monHeartbeat]

@[simp] theorem State.monRings_pending (s : State) (l : List Nat) : (s.monRings l).2.pending = s.pending := by
  induction l generalizing s with
  | nil => rfl
  | cons a t ih => simp [State.monRings, ih]

@[simp] theorem State.monDo_pending (s : State) (c : MonCmd) : (State.monDo s c).pending = s.pending := by
  unfold State.monDo; split <;> simp

@[simp] theorem State.monitor_pending (s : State) (c : MonCmd) : (State.monitor s c).pending = s.pending := by
  simp only [State.monitor]; repeat' split
  all_goals simp

@[simp] theorem State.monRow_pending (s : State) (c : MonCmd) : (State.monRow s c).pending = s.pending := by
  unfold State.monRow; split <;> simp

theorem execMonHelp_pending (s : State) : ∃ t, execMonHelp s = .next t ∧ t.pending = s.pending := by
  refine ⟨_, rfl, ?_⟩
  simp

theorem execMonVer_pending (s : State) : ∃ t, execMonVer s = .next t ∧ t.pending = s.pending := by
  refine ⟨_, rfl, ?_⟩
  simp

theorem execMonHb_pending (s : State) : ∃ t, execMonHb s = .next t ∧ t.pending = s.pending := by
  refine ⟨_, rfl, ?_⟩
  simp

theorem execMonSt_pending (s : State) : ∃ t, execMonSt s = .next t ∧ t.pending = s.pending := by
  refine ⟨_, rfl, ?_⟩
  simp

theorem execMonRd_pending (off count : Nat) (s : State) : ∃ t, execMonRd off count s = .next t ∧ t.pending = s.pending := by
  refine ⟨_, rfl, ?_⟩
  simp

theorem execMonRq_pending (off count : Nat) (s : State) : ∃ t, execMonRq off count s = .next t ∧ t.pending = s.pending := by
  refine ⟨_, rfl, ?_⟩
  simp

theorem execMonWr_pending (off value : Nat) (s : State) : ∃ t, execMonWr off value s = .next t ∧ t.pending = s.pending := by
  refine ⟨_, rfl, ?_⟩
  simp

theorem execMonWq_pending (off value : Nat) (s : State) : ∃ t, execMonWq off value s = .next t ∧ t.pending = s.pending := by
  refine ⟨_, rfl, ?_⟩
  simp

theorem execMonFn_pending (fn : Nat) (s : State) : ∃ t, execMonFn fn s = .next t ∧ t.pending = s.pending := by
  refine ⟨_, rfl, ?_⟩
  simp

theorem execMonRec_pending (count : Nat) (s : State) : ∃ t, execMonRec count s = .next t ∧ t.pending = s.pending := by
  refine ⟨_, rfl, ?_⟩
  simp

theorem execMonRing_pending (s : State) : ∃ t, execMonRing s = .next t ∧ t.pending = s.pending := by
  refine ⟨_, rfl, ?_⟩
  simp

theorem execMonPwr_pending (s : State) : ∃ t, execMonPwr s = .next t ∧ t.pending = s.pending := by
  refine ⟨_, rfl, ?_⟩
  simp

theorem execMonSeal_pending (s : State) : ∃ t, execMonSeal s = .next t ∧ t.pending = s.pending := by
  refine ⟨_, rfl, ?_⟩
  simp

theorem execMonBaud_pending (rate : Nat) (s : State) : ∃ t, execMonBaud rate s = .next t ∧ t.pending = s.pending := by
  refine ⟨_, rfl, ?_⟩
  simp

theorem execMonLock_pending (s : State) : ∃ t, execMonLock s = .next t ∧ t.pending = s.pending := by
  refine ⟨_, rfl, ?_⟩
  simp

@[simp] theorem State.monLine_pending (s : State) (l : List Nat) : (State.monLine s l).pending = s.pending := by
  simp only [State.monLine]; repeat' split
  all_goals simp

@[simp] theorem State.setLine_pending (s : State) (l : List Nat) (cr : Bool) : (State.setLine s l cr).pending = s.pending := by
  rfl

@[simp] theorem State.monChar_pending (s : State) (c : Nat) : (State.monChar s c).pending = s.pending := by
  simp only [State.monChar]; repeat' split
  all_goals simp

theorem execUartCharacter_pending (c : Byte) (s : State) : ∃ t, execUartCharacter c s = .next t ∧ t.pending = s.pending := by
  refine ⟨_, rfl, ?_⟩
  repeat' first | (simp; done) | (intro _) | split | dsimp only

theorem execUartFramingError_pending (s : State) : ∃ t, execUartFramingError s = .next t ∧ t.pending = s.pending := by
  refine ⟨_, rfl, ?_⟩
  repeat' first | (simp; done) | (intro _) | split | dsimp only

theorem outState_pending {o : Out} {s : State} (h : ∃ t, o = .next t ∧ t.pending = s.pending) : (outState o s).pending = s.pending := by
  obtain ⟨t, rfl, h⟩ := h; exact h

@[simp] theorem deliver_pending (c : Instr) (s : State) : (deliver c s).pending = s.pending := by
  unfold deliver
  split
  · exact outState_pending (execRegisterWrite_pending _ _ _ _ s)
  · exact outState_pending (execUnmappedAccess_pending _ _ _ _ s)
  · exact outState_pending (execSplitLowRead_pending _ _ s)
  · exact outState_pending (execSplitLowWrite_pending _ _ _ s)
  · exact outState_pending (execSplitHighWrite_pending _ _ _ s)
  · exact outState_pending (execSqTail_pending _ _ s)
  · exact outState_pending (execCqHead_pending _ _ s)
  · exact outState_pending (execCqIntMask_pending _ _ s)
  · exact outState_pending (execMsixMaskClear_pending _ _ s)
  · exact outState_pending (execCirqRtReserve_pending _ s)
  · exact outState_pending (execCirqFnQcfg_pending _ _ s)
  · exact outState_pending (execCirqAdminResume_pending _ s)
  · exact outState_pending (execMoraineClear_pending _ _ s)
  · exact outState_pending (execWplogFlush_pending _ _ s)
  · exact outState_pending (execCrevRetry_pending _ s)
  · exact outState_pending (execCrevAbort_pending _ s)
  · exact outState_pending (execCrevHeadWrite_pending _ s)
  · exact outState_pending (execSnowHostAdd_pending _ s)
  · exact outState_pending (execSnowImageCfg_pending _ _ s)
  · exact outState_pending (execSnowFnQuota_pending _ _ s)
  · exact outState_pending (execRingJoinRequest_pending _ s)
  · exact outState_pending (execRingReleaseRequest_pending _ s)
  · exact outState_pending (execAdminQueueEnable_pending _ s)
  · exact outState_pending (execEngineResetRequest_pending _ s)
  · exact outState_pending (execComputeDomainResetRequest_pending s)
  · exact outState_pending (execResetHeadWrite_pending _ s)
  · exact outState_pending (execDoeObject_pending _ _ s)
  · exact outState_pending (execDoeAbort_pending _ s)
  · exact outState_pending (execVfFunctionLevelReset_pending _ s)
  · exact outState_pending (execPf0FunctionLevelReset_pending s)
  · exact outState_pending (execConfigurationRequest_pending _ _ s)
  · rfl

@[simp] theorem State.deliverAll_pending (s : State) : (State.deliverAll s).pending = s.pending := by
  simp [State.deliverAll]

theorem execPwrGoodRise_pending (ns : Nat) (s : State) : ∃ t, execPwrGoodRise ns s = .next t ∧ t.pending = s.pending := by
  refine ⟨_, rfl, ?_⟩
  repeat' first | (simp; done) | (intro _) | split | dsimp only

theorem execBrownoutHoldExit_pending (mv : Nat) (s : State) : ∃ t, execBrownoutHoldExit mv s = .next t ∧ t.pending = s.pending := by
  refine ⟨_, rfl, ?_⟩
  repeat' first | (simp; done) | (intro _) | split | dsimp only

theorem execKeyAssign_pending (r : Nat) (_io : HostIo) (s : State) : ∃ t, execKeyAssign r _io s = .next t ∧ t.pending = s.pending := by
  refine ⟨_, rfl, ?_⟩
  repeat' first | (simp; done) | (intro _) | split | apply foldl_pending | apply State.runAdmin_pending | dsimp only

theorem execKeyRelease_pending (r : Nat) (_io : HostIo) (s : State) : ∃ t, execKeyRelease r _io s = .next t ∧ t.pending = s.pending := by
  refine ⟨_, rfl, ?_⟩
  repeat' first | (simp; done) | (intro _) | split | apply foldl_pending | apply State.runAdmin_pending | dsimp only

theorem execCtxCreate_pending (r : Nat) (io : HostIo) (s : State) : ∃ t, execCtxCreate r io s = .next t ∧ t.pending = s.pending := by
  refine ⟨_, rfl, ?_⟩
  repeat' first | (simp; done) | (intro _) | split | apply State.runAdmin_pending | apply State.answer_pending | dsimp only

theorem execCtxDestroy_pending (r : Nat) (_io : HostIo) (s : State) : ∃ t, execCtxDestroy r _io s = .next t ∧ t.pending = s.pending := by
  refine ⟨_, rfl, ?_⟩
  repeat' first | (simp; done) | (intro _) | split | apply State.runAdmin_pending | dsimp only

theorem execCtxReset_pending (r : Nat) (_io : HostIo) (s : State) : ∃ t, execCtxReset r _io s = .next t ∧ t.pending = s.pending := by
  refine ⟨_, rfl, ?_⟩
  repeat' first | (simp; done) | (intro _) | split | (simp only [State.settle_pending]) | apply State.runAdmin_pending | dsimp only

theorem State.takePlaced_pending {s s' : State} {e : Fkt} {l : List (Nat × List Nat)} (h : s.takePlaced e l = some s') : s'.pending = s.pending := by
  have go : ∀ (l : List (Nat × List Nat)) (o : Option State) (t : State),
      l.foldl (fun o p => o.bind fun t => t.takeFrames p.1 e p.2) o = some t → ∃ u, o = some u ∧ t.pending = u.pending := by
    intro l
    induction l with
    | nil => intro o t h; exact ⟨t, h, rfl⟩
    | cons p l ih =>
      intro o t h
      obtain ⟨u, hu, e1⟩ := ih _ _ h
      obtain ⟨v, hv, e2⟩ := Option.bind_eq_some_iff.mp hu
      exact ⟨v, hv, e1.trans (State.takeFrames_pending e2)⟩
  obtain ⟨u, hu, e⟩ := go _ _ _ h
  cases hu
  exact e

theorem State.placeAlloc_pending {s : State} {vx1 : Bool} {tier n : Nat} {asked : List Nat} {e : Fkt} {x : List (Nat × List Nat) × State}
    (h : s.placeAlloc vx1 tier n asked e = some x) : x.2.pending = s.pending := by
  unfold State.placeAlloc at h
  split at h
  · obtain ⟨i, _, hi⟩ := List.exists_of_findSome?_eq_some h
    dsimp only at hi
    split at hi
    · obtain ⟨t, ht, rfl⟩ := Option.map_eq_some_iff.mp hi; exact State.takePlaced_pending ht
    · cases hi
  · obtain ⟨l, _, hl⟩ := Option.bind_eq_some_iff.mp h
    obtain ⟨t, ht, rfl⟩ := Option.map_eq_some_iff.mp hl; exact State.takePlaced_pending ht

theorem State.giveAlloc_pending (s t : State) (r : Nat) (c : Cmd) (io : HostIo) (fr : List (Nat × Nat)) (h : t.pending = s.pending) :
    (s.giveAlloc t r c io fr).pending = s.pending := by
  unfold State.giveAlloc State.answer
  dsimp only
  split
  · rw [State.commit_pending, State.modCmd_pending, State.updFn_pending]
    exact h
  · simp

@[simp] theorem State.allocDevice_pending (s : State) (r : Nat) (c : Cmd) (io : HostIo) (asked : List Nat) :
    (s.allocDevice r c io asked).pending = s.pending := by
  simp only [State.allocDevice]
  split
  · simp
  · rename_i h; exact State.giveAlloc_pending _ _ _ _ _ _ (State.placeAlloc_pending h)

@[simp] theorem State.allocHost_pending (s : State) (r : Nat) (c : Cmd) (io : HostIo) (asked : List Nat) :
    (s.allocHost r c io asked).pending = s.pending := by
  unfold State.allocHost
  apply State.withData_pending
  intro t b
  dsimp only
  repeat' split
  · simp
  · simp
  · simp
  · rename_i h
    exact State.giveAlloc_pending _ _ _ _ _ _ (State.takeChunks_pending h)

theorem execMemAlloc_pending (r : Nat) (io : HostIo) (frames : List Nat) (s : State) : ∃ t, execMemAlloc r io frames s = .next t ∧ t.pending = s.pending := by
  refine ⟨_, rfl, ?_⟩
  repeat' first | (simp; done) | (intro _) | split | apply State.runAdmin_pending | dsimp only

theorem execMemFree_pending (r : Nat) (_io : HostIo) (s : State) : ∃ t, execMemFree r _io s = .next t ∧ t.pending = s.pending := by
  refine ⟨_, rfl, ?_⟩
  repeat' first | (simp; done) | (intro _) | split | apply State.runAdmin_pending | dsimp only

theorem execMapRange_pending (r : Nat) (_io : HostIo) (s : State) : ∃ t, execMapRange r _io s = .next t ∧ t.pending = s.pending := by
  refine ⟨_, rfl, ?_⟩
  repeat' first | (simp; done) | (intro _) | split | apply State.runAdmin_pending | dsimp only

theorem execUnmapRange_pending (r : Nat) (_io : HostIo) (s : State) : ∃ t, execUnmapRange r _io s = .next t ∧ t.pending = s.pending := by
  refine ⟨_, rfl, ?_⟩
  repeat' first | (simp; done) | (intro _) | split | apply State.runAdmin_pending | dsimp only

theorem execMemShare_pending (r : Nat) (io : HostIo) (s : State) : ∃ t, execMemShare r io s = .next t ∧ t.pending = s.pending := by
  refine ⟨_, rfl, ?_⟩
  repeat' first | (simp; done) | (intro _) | split | apply State.runAdmin_pending | apply State.answer_pending | dsimp only

theorem execMapRemote_pending (r : Nat) (io : HostIo) (s : State) : ∃ t, execMapRemote r io s = .next t ∧ t.pending = s.pending := by
  refine ⟨_, rfl, ?_⟩
  repeat' first | (simp; done) | (intro _) | split | apply State.runAdmin_pending | apply State.withData_pending | dsimp only

theorem execInvalidationAck_pending (inv engine : Nat) (s : State) : ∃ t, execInvalidationAck inv engine s = .next t ∧ t.pending = s.pending := by
  refine ⟨_, rfl, ?_⟩
  repeat' first | (simp; done) | (intro _) | split | dsimp only

@[simp] theorem State.scramble_pending (s : State) (a : Alloc) : (State.scramble s a).pending = s.pending := by
  rfl

@[simp] theorem State.loadAdapter_pending (s : State) (r : Nat) (c : Cmd) (a : Alloc) (v : Variant) (clear : Blob) : (State.loadAdapter s r c a v clear).pending = s.pending := by
  simp [State.loadAdapter]

@[simp] theorem State.register_pending (s : State) (r : Nat) (c : Cmd) (io : HostIo) (d : VarDesc) (a : Alloc) (key img : Nat) (clear : Blob) :
  (s.register r c io d a key img clear).pending = s.pending := by
  unfold State.register
  dsimp only
  repeat' split
  · simp
  · rw [State.answer_pending] <;> simp
  · rw [State.answer_pending]
    · simp
    · intro t; rfl

@[simp] theorem State.unwrapAndRegister_pending (s : State) (r : Nat) (c : Cmd) (io : HostIo) (d : VarDesc) (a : Alloc) (b : Blob) : (State.unwrapAndRegister s r c io d a b).pending = s.pending := by
  simp only [State.unwrapAndRegister]; repeat' split
  all_goals simp

@[simp] theorem State.dropSlices_pending (s : State) (v : Nat) : (State.dropSlices s v).pending = s.pending := by
  rfl

@[simp] theorem State.commitUpdate_pending (s : State) (r id : Nat) (c : Cmd) (v : Variant) (d : VarDesc) (clear : Option Blob) : (State.commitUpdate s r id c v d clear).pending = s.pending := by
  simp only [State.commitUpdate]; repeat' split
  all_goals simp

@[simp] theorem State.unchange_pending (s : State) (id : Nat) : (State.unchange s id).pending = s.pending := by
  rfl

@[simp] theorem State.runUpdate_pending (s : State) (r id : Nat) (c : Cmd) (io : HostIo) (v : Variant)  : (s.runUpdate r id c io v).pending = s.pending := by
  unfold State.runUpdate
  apply State.withData_pending
  intro t b
  split
  · simp
  · dsimp only
    repeat' split
    all_goals simp

@[simp] theorem State.runDrop_pending (s : State) (r id : Nat) (v : Variant) : (State.runDrop s r id v).pending = s.pending := by
  simp [State.runDrop]

@[simp] theorem State.changeOrWait_pending (s : State) (r id : Nat) (c : Cmd) (run : State → State) (hrun : ∀ t , (run t ).pending = t.pending) : (State.changeOrWait s r id c run).pending = s.pending := by
  simp only [State.changeOrWait]; repeat' split
  all_goals simp [hrun]

theorem execGraphStore_pending (r : Nat) (io : HostIo) (s : State) : ∃ t, execGraphStore r io s = .next t ∧ t.pending = s.pending := by
  refine ⟨_, rfl, ?_⟩
  repeat' first | (simp; done) | (intro _) | split | apply State.runAdmin_pending | apply State.withData_pending | apply State.answer_pending | dsimp only

theorem execGraphPatch_pending (r : Nat) (io : HostIo) (s : State) : ∃ t, execGraphPatch r io s = .next t ∧ t.pending = s.pending := by
  refine ⟨_, rfl, ?_⟩
  repeat' first | (simp; done) | (intro _) | split | apply State.runAdmin_pending | apply State.withData_pending | apply State.answer_pending | dsimp only

theorem execGraphFree_pending (r : Nat) (_io : HostIo) (s : State) : ∃ t, execGraphFree r _io s = .next t ∧ t.pending = s.pending := by
  refine ⟨_, rfl, ?_⟩
  repeat' first | (simp; done) | (intro _) | split | apply State.runAdmin_pending | dsimp only

theorem execRcptRead_pending (r : Nat) (io : HostIo) (s : State) : ∃ t, execRcptRead r io s = .next t ∧ t.pending = s.pending := by
  refine ⟨_, rfl, ?_⟩
  repeat' first | (simp; done) | (intro _) | split | apply State.runAdmin_pending | apply State.answer_pending | dsimp only

theorem execCkptRequest_pending (r : Nat) (_io : HostIo) (s : State) : ∃ t, execCkptRequest r _io s = .next t ∧ t.pending = s.pending := by
  refine ⟨_, rfl, ?_⟩
  repeat' first | (simp; done) | (intro _) | split | apply State.runAdmin_pending | dsimp only

@[simp] theorem State.storeCkpt_pending (s : State) (c : Ckpt) : (State.storeCkpt s c).pending = s.pending := by
  simp only [State.storeCkpt]; repeat' split
  all_goals simp

theorem execCheckpointSigned_pending (io : HostIo) (s : State) : ∃ t, execCheckpointSigned io s = .next t ∧ t.pending = s.pending := by
  refine ⟨_, rfl, ?_⟩
  repeat' first | (simp; done) | (intro _) | split | apply State.answer_pending | dsimp only

theorem execPoolCreate_pending (r : Nat) (io : HostIo) (s : State) : ∃ t, execPoolCreate r io s = .next t ∧ t.pending = s.pending := by
  refine ⟨_, rfl, ?_⟩
  repeat' first | (simp; done) | (intro _) | split | apply State.runAdmin_pending | apply State.answer_pending | dsimp only

theorem execPoolJoin_pending (r : Nat) (_io : HostIo) (s : State) : ∃ t, execPoolJoin r _io s = .next t ∧ t.pending = s.pending := by
  refine ⟨_, rfl, ?_⟩
  repeat' first | (simp; done) | (intro _) | split | apply State.runAdmin_pending | dsimp only

theorem execPoolLeave_pending (r : Nat) (_io : HostIo) (s : State) : ∃ t, execPoolLeave r _io s = .next t ∧ t.pending = s.pending := by
  refine ⟨_, rfl, ?_⟩
  repeat' first | (simp; done) | (intro _) | split | apply State.runAdmin_pending | dsimp only

theorem execPoolDestroy_pending (r : Nat) (_io : HostIo) (s : State) : ∃ t, execPoolDestroy r _io s = .next t ∧ t.pending = s.pending := by
  refine ⟨_, rfl, ?_⟩
  repeat' first | (simp; done) | (intro _) | split | apply State.runAdmin_pending | dsimp only

theorem execTurnGrant_pending (u : Nat) (s : State) : ∃ t, execTurnGrant u s = .next t ∧ t.pending = s.pending := by
  refine ⟨_, rfl, ?_⟩
  repeat' first | (simp; done) | (intro _) | split | (simp only [State.settle_pending]) | dsimp only

theorem execQuantumExpiry_pending (u : Nat) (s : State) : ∃ t, execQuantumExpiry u s = .next t ∧ t.pending = s.pending := by
  refine ⟨_, rfl, ?_⟩
  repeat' first | (simp; done) | (intro _) | split | (simp only [State.settle_pending]) | dsimp only

theorem execMinTurnExpiry_pending (u : Nat) (s : State) : ∃ t, execMinTurnExpiry u s = .next t ∧ t.pending = s.pending := by
  refine ⟨_, rfl, ?_⟩
  repeat' first | (simp; done) | (intro _) | split | (simp only [State.settle_pending]) | dsimp only

theorem execCleaveBoundExpiry_pending (u : Nat) (s : State) : ∃ t, execCleaveBoundExpiry u s = .next t ∧ t.pending = s.pending := by
  refine ⟨_, rfl, ?_⟩
  repeat' first | (simp; done) | (intro _) | split | dsimp only

theorem execCleaveReached_pending (u : Nat) (p : TilePkt) (s : State) : ∃ t, execCleaveReached u p s = .next t ∧ t.pending = s.pending := by
  refine ⟨_, rfl, ?_⟩
  repeat' first | (simp; done) | (intro _) | split | (simp only [State.settle_pending]) | apply State.takeUp_pending | dsimp only

theorem execSaveData_pending (u : Nat) (p : TilePkt) (s : State) : ∃ t, execSaveData u p s = .next t ∧ t.pending = s.pending := by
  refine ⟨_, rfl, ?_⟩
  repeat' first | (simp; done) | (intro _) | split | (simp only [State.settle_pending]) | apply State.takeUp_pending | dsimp only

@[simp] theorem State.saveDone_pending (s : State) (u : Nat) (q : Preempt) (b : Blob) : (State.saveDone s u q b).pending = s.pending := by
  simp [State.saveDone]

theorem execSaveEnd_pending (u : Nat) (p : TilePkt) (s : State) : ∃ t, execSaveEnd u p s = .next t ∧ t.pending = s.pending := by
  refine ⟨_, rfl, ?_⟩
  repeat' first | (simp; done) | (intro _) | split | (simp only [State.settle_pending]) | apply State.takeUp_pending | dsimp only

@[simp] theorem State.sendRestore_pending (u f : Nat) (s : State) : (State.sendRestore u f s).pending = s.pending := by
  induction f generalizing s with
  | zero => rfl
  | succ f ih => simp only [State.sendRestore]; repeat' split
                 all_goals simp [ih]

theorem execRestoreData_pending (u : Nat) (s : State) : ∃ t, execRestoreData u s = .next t ∧ t.pending = s.pending := by
  refine ⟨_, rfl, ?_⟩
  repeat' first | (simp; done) | (intro _) | split | (simp only [State.settle_pending]) | dsimp only

theorem execSwapIn_pending (ctx : Nat) (s : State) : ∃ t, execSwapIn ctx s = .next t ∧ t.pending = s.pending := by
  refine ⟨_, rfl, ?_⟩
  split <;> simp

theorem execEviction_pending (u : Nat) (s : State) : ∃ t, execEviction u s = .next t ∧ t.pending = s.pending := by
  refine ⟨_, rfl, ?_⟩
  repeat' first | (simp; done) | (intro _) | split | dsimp only

theorem execAgeExpiry_pending (ctx : Nat) (s : State) : ∃ t, execAgeExpiry ctx s = .next t ∧ t.pending = s.pending := by
  refine ⟨_, rfl, ?_⟩
  repeat' first | (simp; done) | (intro _) | split | dsimp only

theorem execWblock_pending (o : BlockSend) (s : State) : ∃ t, execWblock o s = .next t ∧ t.pending = s.pending := by
  refine ⟨_, rfl, ?_⟩
  repeat' first | (simp; done) | (intro _) | split | dsimp only

theorem execVarRegister_pending (r : Nat) (io : HostIo) (ecc : Ecc) (s : State) : ∃ t, execVarRegister r io ecc s = .next t ∧ t.pending = s.pending := by
  refine ⟨_, rfl, ?_⟩
  repeat' first | (simp; done) | (intro _) | split | (simp only [State.drainIfIdle_pending]) | apply State.runAdmin_pending | apply State.withData_pending | dsimp only

theorem execVarSeal_pending (r : Nat) (_io : HostIo) (s : State) : ∃ t, execVarSeal r _io s = .next t ∧ t.pending = s.pending := by
  refine ⟨_, rfl, ?_⟩
  repeat' first | (simp; done) | (intro _) | split | apply State.runAdmin_pending | dsimp only

theorem execSealTakesEffect_pending (variant : Nat) (s : State) : ∃ t, execSealTakesEffect variant s = .next t ∧ t.pending = s.pending := by
  refine ⟨_, rfl, ?_⟩
  repeat' first | (simp; done) | (intro _) | split | apply foldl_pending | dsimp only

theorem execVarUnseal_pending (r : Nat) (io : HostIo) (s : State) : ∃ t, execVarUnseal r io s = .next t ∧ t.pending = s.pending := by
  refine ⟨_, rfl, ?_⟩
  repeat' first | (simp; done) | (intro _) | split | apply State.runAdmin_pending | apply State.withData_pending | dsimp only

theorem execVarUpdate_pending (r : Nat) (io : HostIo) (s : State) : ∃ t, execVarUpdate r io s = .next t ∧ t.pending = s.pending := by
  refine ⟨_, rfl, ?_⟩
  repeat' first | (simp; done) | (intro _) | split | apply State.runAdmin_pending | apply State.changeOrWait_pending | dsimp only

theorem execVarDrop_pending (r : Nat) (_io : HostIo) (s : State) : ∃ t, execVarDrop r _io s = .next t ∧ t.pending = s.pending := by
  refine ⟨_, rfl, ?_⟩
  repeat' first | (simp; done) | (intro _) | split | apply State.runAdmin_pending | apply State.changeOrWait_pending | dsimp only

theorem execVariantWaitEnd_pending (r : Nat) (io : HostIo) (s : State) : ∃ t, execVariantWaitEnd r io s = .next t ∧ t.pending = s.pending := by
  refine ⟨_, rfl, ?_⟩
  repeat' first | (simp; done) | (intro _) | split | dsimp only

end Sys2Proof.Machine
end

