-- ==== Sys2Proof/Laws/Tables.lean ====
section
/-! SUPPORT. What reading a table gives after each of its operations. -/

namespace Sys2Proof.Machine

open Sys2Proof

/-- A table entry just set reads back. -/
@[simp] theorem tget?_tset {α : Type} (t : Tbl α) (n : Nat) (x : α) : tget? (tset t n x) n = some x := by
  induction t with
  | nil => simp [tset, tget?]
  | cons e t ih =>
    obtain ⟨k, v⟩ := e
    simp only [tset]
    split
    · simp [tget?]
    · split
      · simp [tget?]
      · simp only [tget?]
        rw [if_neg (by omega)]; exact ih

/-- Setting an entry leaves the others. -/
theorem tget?_tset_ne {α : Type} (t : Tbl α) {n m : Nat} (x : α) (h : m ≠ n) : tget? (tset t n x) m = tget? t m := by
  induction t with
  | nil => simp [tset, tget?, h.symm]
  | cons e t ih =>
    obtain ⟨k, v⟩ := e
    simp only [tset]
    split
    · simp [tget?, h.symm]
    · split
      · subst_vars; simp [tget?, h.symm]
      · simp only [tget?]; split
        · rfl
        · exact ih

/-- Modifying an entry. -/
@[simp] theorem tget?_tmod {α : Type} (t : Tbl α) (n : Nat) (f : α → α) : tget? (tmod t n f) n = (tget? t n).map f := by
  induction t with
  | nil => rfl
  | cons e t ih =>
    obtain ⟨k, v⟩ := e
    simp only [tmod]
    split
    · rename_i h; simp [tget?, h]
    · rename_i h; simp [tget?, h, ih]

/-- Modifying an entry leaves the others. -/
theorem tget?_tmod_ne {α : Type} (t : Tbl α) {n m : Nat} (f : α → α) (h : m ≠ n) : tget? (tmod t n f) m = tget? t m := by
  induction t with
  | nil => rfl
  | cons e t ih =>
    obtain ⟨k, v⟩ := e
    simp only [tmod]
    split
    · subst_vars; simp [tget?, h.symm]
    · simp only [tget?]; split
      · rfl
      · exact ih

/-- An entry of a table mapped. -/
@[simp] theorem tget?_tmap {α : Type} (t : Tbl α) (f : Nat → α → α) (n : Nat) : tget? (tmap t f) n = (tget? t n).map (f n) := by
  induction t with
  | nil => rfl
  | cons e t ih =>
    obtain ⟨k, v⟩ := e
    simp only [tmap, List.map_cons, tget?] at ih ⊢
    split
    · rename_i h; simp [h]
    · exact ih

@[simp] theorem tget_tupd {α : Type} (t : Tbl α) (d : α) (n : Nat) (f : α → α) : tget (tupd t d n f) d n = f (tget t d n) := by
  simp [tupd, tget]

end Sys2Proof.Machine
end

