-- ==== Sys2Proof/Laws/State.lean ====
section
/-! SUPPORT. What each plain update of the state leaves as it was, field by field, and the field it writes. The queue of commands
and memory have files of their own. -/

namespace Sys2Proof.Machine

open Sys2Proof

@[simp] theorem State.modQ_queues (s : State) (q : Nat) (g : Queue → Queue) : (s.modQ q g).queues = tmod s.queues q g := rfl
@[simp] theorem State.modCmd_cmds (s : State) (r : Nat) (g : Cmd → Cmd) : (s.modCmd r g).cmds = tmod s.cmds r g := rfl
@[simp] theorem State.modCtx_ctxs (s : State) (c : Nat) (g : Ctx → Ctx) : (s.modCtx c g).ctxs = tmod s.ctxs c g := rfl
@[simp] theorem State.fn_updFn (s : State) (f : Nat) (g : Fn → Fn) : (s.updFn f g).fn f = g (s.fn f) := by
  simp [State.fn, State.updFn]
@[simp] theorem State.unit_updUnit (s : State) (u : Nat) (g : SUnit → SUnit) : (s.updUnit u g).unit u = g (s.unit u) := by
  simp [State.unit, State.updUnit]
@[simp] theorem State.eng_updEng (s : State) (e : Nat) (g : Eng → Eng) : (s.updEng e g).eng e = g (s.eng e) := by
  simp [State.eng, State.updEng]
@[simp] theorem State.halves_updHalves (s : State) (f : Nat) (g : Halves → Halves) : (s.updHalves f g).halves f = g (s.halves f) := by
  simp [State.halves, State.updHalves]


theorem State.logPage_eq (s : State) (f p : Nat) : s.logPage f p = { s with ports := (s.logPage f p).ports, fns := (s.logPage f p).fns } := by
  unfold State.logPage; dsimp only; repeat' split
  all_goals rfl

theorem State.logPages_eq (f : Nat) (l : List Nat) (s : State) : l.foldl (fun t p => t.logPage f p) s =
    { s with ports := (l.foldl (fun t p => t.logPage f p) s).ports, fns := (l.foldl (fun t p => t.logPage f p) s).fns } := by
  induction l generalizing s with
  | nil => rfl
  | cons p l ih => rw [List.foldl_cons, ih, State.logPage_eq]

/-- A host write touches the host's port and the write logs alone. -/
theorem State.hostWrite_eq (s : State) (f a : Nat) (b : Blob) :
    s.hostWrite f a b = { s with ports := (s.hostWrite f a b).ports, fns := (s.hostWrite f a b).fns } := by
  unfold State.hostWrite; dsimp only; split
  · rw [State.logPages_eq]; rfl
  · rfl

/-- Writing a result touches the host's port and the write logs alone. -/
theorem State.writeResult_eq (s : State) (c : Cmd) (b : Blob) :
    s.writeResult c b = { s with ports := (s.writeResult c b).ports, fns := (s.writeResult c b).fns } := by
  unfold State.writeResult
  show State.hostRead _ _ _ _ = _
  rw [State.hostWrite_eq]; rfl

@[simp] theorem State.modQ_now (s : State) (q : Nat) (g : Queue → Queue) : (State.modQ s q g).now = s.now := by rfl
@[simp] theorem State.modQ_held (s : State) (q : Nat) (g : Queue → Queue) : (State.modQ s q g).held = s.held := by rfl
@[simp] theorem State.modQ_free (s : State) (q : Nat) (g : Queue → Queue) : (State.modQ s q g).free = s.free := by rfl
@[simp] theorem State.modQ_pins (s : State) (q : Nat) (g : Queue → Queue) : (State.modQ s q g).pins = s.pins := by rfl
@[simp] theorem State.modQ_pwr (s : State) (q : Nat) (g : Queue → Queue) : (State.modQ s q g).pwr = s.pwr := by rfl
@[simp] theorem State.modQ_ports (s : State) (q : Nat) (g : Queue → Queue) : (State.modQ s q g).ports = s.ports := by rfl
@[simp] theorem State.modQ_fns (s : State) (q : Nat) (g : Queue → Queue) : (State.modQ s q g).fns = s.fns := by rfl
@[simp] theorem State.modQ_cmds (s : State) (q : Nat) (g : Queue → Queue) : (State.modQ s q g).cmds = s.cmds := by rfl
@[simp] theorem State.modQ_cirq (s : State) (q : Nat) (g : Queue → Queue) : (State.modQ s q g).cirq = s.cirq := by rfl
@[simp] theorem State.modQ_cfg (s : State) (q : Nat) (g : Queue → Queue) : (State.modQ s q g).cfg = s.cfg := by rfl
@[simp] theorem State.modQ_topo (s : State) (q : Nat) (g : Queue → Queue) : (State.modQ s q g).topo = s.topo := by rfl
@[simp] theorem State.modQ_ctxs (s : State) (q : Nat) (g : Queue → Queue) : (State.modQ s q g).ctxs = s.ctxs := by rfl
@[simp] theorem State.modQ_serac (s : State) (q : Nat) (g : Queue → Queue) : (State.modQ s q g).serac = s.serac := by rfl
@[simp] theorem State.modQ_esk (s : State) (q : Nat) (g : Queue → Queue) : (State.modQ s q g).esk = s.esk := by rfl
@[simp] theorem State.modQ_allocs (s : State) (q : Nat) (g : Queue → Queue) : (State.modQ s q g).allocs = s.allocs := by rfl
@[simp] theorem State.modQ_graphs (s : State) (q : Nat) (g : Queue → Queue) : (State.modQ s q g).graphs = s.graphs := by rfl
@[simp] theorem State.modQ_pools (s : State) (q : Nat) (g : Queue → Queue) : (State.modQ s q g).pools = s.pools := by rfl
@[simp] theorem State.modQ_firn (s : State) (q : Nat) (g : Queue → Queue) : (State.modQ s q g).firn = s.firn := by rfl
@[simp] theorem State.modQ_silt (s : State) (q : Nat) (g : Queue → Queue) : (State.modQ s q g).silt = s.silt := by rfl
@[simp] theorem State.modQ_snow (s : State) (q : Nat) (g : Queue → Queue) : (State.modQ s q g).snow = s.snow := by rfl
@[simp] theorem State.modQ_kao (s : State) (q : Nat) (g : Queue → Queue) : (State.modQ s q g).kao = s.kao := by rfl
@[simp] theorem State.modQ_glz (s : State) (q : Nat) (g : Queue → Queue) : (State.modQ s q g).glz = s.glz := by rfl
@[simp] theorem State.modQ_varve (s : State) (q : Nat) (g : Queue → Queue) : (State.modQ s q g).varve = s.varve := by rfl
@[simp] theorem State.modQ_ledg (s : State) (q : Nat) (g : Queue → Queue) : (State.modQ s q g).ledg = s.ledg := by rfl
@[simp] theorem State.modQ_loess (s : State) (q : Nat) (g : Queue → Queue) : (State.modQ s q g).loess = s.loess := by rfl
@[simp] theorem State.modQ_floe (s : State) (q : Nat) (g : Queue → Queue) : (State.modQ s q g).floe = s.floe := by rfl
@[simp] theorem State.modQ_tarn (s : State) (q : Nat) (g : Queue → Queue) : (State.modQ s q g).tarn = s.tarn := by rfl
@[simp] theorem State.modCmd_now (s : State) (r : Nat) (g : Cmd → Cmd) : (State.modCmd s r g).now = s.now := by rfl
@[simp] theorem State.modCmd_held (s : State) (r : Nat) (g : Cmd → Cmd) : (State.modCmd s r g).held = s.held := by rfl
@[simp] theorem State.modCmd_free (s : State) (r : Nat) (g : Cmd → Cmd) : (State.modCmd s r g).free = s.free := by rfl
@[simp] theorem State.modCmd_pins (s : State) (r : Nat) (g : Cmd → Cmd) : (State.modCmd s r g).pins = s.pins := by rfl
@[simp] theorem State.modCmd_pwr (s : State) (r : Nat) (g : Cmd → Cmd) : (State.modCmd s r g).pwr = s.pwr := by rfl
@[simp] theorem State.modCmd_ports (s : State) (r : Nat) (g : Cmd → Cmd) : (State.modCmd s r g).ports = s.ports := by rfl
@[simp] theorem State.modCmd_fns (s : State) (r : Nat) (g : Cmd → Cmd) : (State.modCmd s r g).fns = s.fns := by rfl
@[simp] theorem State.modCmd_queues (s : State) (r : Nat) (g : Cmd → Cmd) : (State.modCmd s r g).queues = s.queues := by rfl
@[simp] theorem State.modCmd_cirq (s : State) (r : Nat) (g : Cmd → Cmd) : (State.modCmd s r g).cirq = s.cirq := by rfl
@[simp] theorem State.modCmd_cfg (s : State) (r : Nat) (g : Cmd → Cmd) : (State.modCmd s r g).cfg = s.cfg := by rfl
@[simp] theorem State.modCmd_topo (s : State) (r : Nat) (g : Cmd → Cmd) : (State.modCmd s r g).topo = s.topo := by rfl
@[simp] theorem State.modCmd_ctxs (s : State) (r : Nat) (g : Cmd → Cmd) : (State.modCmd s r g).ctxs = s.ctxs := by rfl
@[simp] theorem State.modCmd_serac (s : State) (r : Nat) (g : Cmd → Cmd) : (State.modCmd s r g).serac = s.serac := by rfl
@[simp] theorem State.modCmd_esk (s : State) (r : Nat) (g : Cmd → Cmd) : (State.modCmd s r g).esk = s.esk := by rfl
@[simp] theorem State.modCmd_allocs (s : State) (r : Nat) (g : Cmd → Cmd) : (State.modCmd s r g).allocs = s.allocs := by rfl
@[simp] theorem State.modCmd_graphs (s : State) (r : Nat) (g : Cmd → Cmd) : (State.modCmd s r g).graphs = s.graphs := by rfl
@[simp] theorem State.modCmd_pools (s : State) (r : Nat) (g : Cmd → Cmd) : (State.modCmd s r g).pools = s.pools := by rfl
@[simp] theorem State.modCmd_firn (s : State) (r : Nat) (g : Cmd → Cmd) : (State.modCmd s r g).firn = s.firn := by rfl
@[simp] theorem State.modCmd_silt (s : State) (r : Nat) (g : Cmd → Cmd) : (State.modCmd s r g).silt = s.silt := by rfl
@[simp] theorem State.modCmd_snow (s : State) (r : Nat) (g : Cmd → Cmd) : (State.modCmd s r g).snow = s.snow := by rfl
@[simp] theorem State.modCmd_kao (s : State) (r : Nat) (g : Cmd → Cmd) : (State.modCmd s r g).kao = s.kao := by rfl
@[simp] theorem State.modCmd_glz (s : State) (r : Nat) (g : Cmd → Cmd) : (State.modCmd s r g).glz = s.glz := by rfl
@[simp] theorem State.modCmd_varve (s : State) (r : Nat) (g : Cmd → Cmd) : (State.modCmd s r g).varve = s.varve := by rfl
@[simp] theorem State.modCmd_ledg (s : State) (r : Nat) (g : Cmd → Cmd) : (State.modCmd s r g).ledg = s.ledg := by rfl
@[simp] theorem State.modCmd_loess (s : State) (r : Nat) (g : Cmd → Cmd) : (State.modCmd s r g).loess = s.loess := by rfl
@[simp] theorem State.modCmd_floe (s : State) (r : Nat) (g : Cmd → Cmd) : (State.modCmd s r g).floe = s.floe := by rfl
@[simp] theorem State.modCmd_tarn (s : State) (r : Nat) (g : Cmd → Cmd) : (State.modCmd s r g).tarn = s.tarn := by rfl
@[simp] theorem State.modCtx_now (s : State) (c : Nat) (g : Ctx → Ctx) : (State.modCtx s c g).now = s.now := by rfl
@[simp] theorem State.modCtx_held (s : State) (c : Nat) (g : Ctx → Ctx) : (State.modCtx s c g).held = s.held := by rfl
@[simp] theorem State.modCtx_free (s : State) (c : Nat) (g : Ctx → Ctx) : (State.modCtx s c g).free = s.free := by rfl
@[simp] theorem State.modCtx_pins (s : State) (c : Nat) (g : Ctx → Ctx) : (State.modCtx s c g).pins = s.pins := by rfl
@[simp] theorem State.modCtx_pwr (s : State) (c : Nat) (g : Ctx → Ctx) : (State.modCtx s c g).pwr = s.pwr := by rfl
@[simp] theorem State.modCtx_ports (s : State) (c : Nat) (g : Ctx → Ctx) : (State.modCtx s c g).ports = s.ports := by rfl
@[simp] theorem State.modCtx_fns (s : State) (c : Nat) (g : Ctx → Ctx) : (State.modCtx s c g).fns = s.fns := by rfl
@[simp] theorem State.modCtx_queues (s : State) (c : Nat) (g : Ctx → Ctx) : (State.modCtx s c g).queues = s.queues := by rfl
@[simp] theorem State.modCtx_cmds (s : State) (c : Nat) (g : Ctx → Ctx) : (State.modCtx s c g).cmds = s.cmds := by rfl
@[simp] theorem State.modCtx_cirq (s : State) (c : Nat) (g : Ctx → Ctx) : (State.modCtx s c g).cirq = s.cirq := by rfl
@[simp] theorem State.modCtx_cfg (s : State) (c : Nat) (g : Ctx → Ctx) : (State.modCtx s c g).cfg = s.cfg := by rfl
@[simp] theorem State.modCtx_topo (s : State) (c : Nat) (g : Ctx → Ctx) : (State.modCtx s c g).topo = s.topo := by rfl
@[simp] theorem State.modCtx_serac (s : State) (c : Nat) (g : Ctx → Ctx) : (State.modCtx s c g).serac = s.serac := by rfl
@[simp] theorem State.modCtx_esk (s : State) (c : Nat) (g : Ctx → Ctx) : (State.modCtx s c g).esk = s.esk := by rfl
@[simp] theorem State.modCtx_allocs (s : State) (c : Nat) (g : Ctx → Ctx) : (State.modCtx s c g).allocs = s.allocs := by rfl
@[simp] theorem State.modCtx_graphs (s : State) (c : Nat) (g : Ctx → Ctx) : (State.modCtx s c g).graphs = s.graphs := by rfl
@[simp] theorem State.modCtx_pools (s : State) (c : Nat) (g : Ctx → Ctx) : (State.modCtx s c g).pools = s.pools := by rfl
@[simp] theorem State.modCtx_firn (s : State) (c : Nat) (g : Ctx → Ctx) : (State.modCtx s c g).firn = s.firn := by rfl
@[simp] theorem State.modCtx_silt (s : State) (c : Nat) (g : Ctx → Ctx) : (State.modCtx s c g).silt = s.silt := by rfl
@[simp] theorem State.modCtx_snow (s : State) (c : Nat) (g : Ctx → Ctx) : (State.modCtx s c g).snow = s.snow := by rfl
@[simp] theorem State.modCtx_kao (s : State) (c : Nat) (g : Ctx → Ctx) : (State.modCtx s c g).kao = s.kao := by rfl
@[simp] theorem State.modCtx_glz (s : State) (c : Nat) (g : Ctx → Ctx) : (State.modCtx s c g).glz = s.glz := by rfl
@[simp] theorem State.modCtx_varve (s : State) (c : Nat) (g : Ctx → Ctx) : (State.modCtx s c g).varve = s.varve := by rfl
@[simp] theorem State.modCtx_ledg (s : State) (c : Nat) (g : Ctx → Ctx) : (State.modCtx s c g).ledg = s.ledg := by rfl
@[simp] theorem State.modCtx_loess (s : State) (c : Nat) (g : Ctx → Ctx) : (State.modCtx s c g).loess = s.loess := by rfl
@[simp] theorem State.modCtx_floe (s : State) (c : Nat) (g : Ctx → Ctx) : (State.modCtx s c g).floe = s.floe := by rfl
@[simp] theorem State.modCtx_tarn (s : State) (c : Nat) (g : Ctx → Ctx) : (State.modCtx s c g).tarn = s.tarn := by rfl
@[simp] theorem State.updFn_now (s : State) (f : Nat) (g : Fn → Fn) : (State.updFn s f g).now = s.now := by rfl
@[simp] theorem State.updFn_held (s : State) (f : Nat) (g : Fn → Fn) : (State.updFn s f g).held = s.held := by rfl
@[simp] theorem State.updFn_free (s : State) (f : Nat) (g : Fn → Fn) : (State.updFn s f g).free = s.free := by rfl
@[simp] theorem State.updFn_pins (s : State) (f : Nat) (g : Fn → Fn) : (State.updFn s f g).pins = s.pins := by rfl
@[simp] theorem State.updFn_pwr (s : State) (f : Nat) (g : Fn → Fn) : (State.updFn s f g).pwr = s.pwr := by rfl
@[simp] theorem State.updFn_ports (s : State) (f : Nat) (g : Fn → Fn) : (State.updFn s f g).ports = s.ports := by rfl
@[simp] theorem State.updFn_queues (s : State) (f : Nat) (g : Fn → Fn) : (State.updFn s f g).queues = s.queues := by rfl
@[simp] theorem State.updFn_cmds (s : State) (f : Nat) (g : Fn → Fn) : (State.updFn s f g).cmds = s.cmds := by rfl
@[simp] theorem State.updFn_cirq (s : State) (f : Nat) (g : Fn → Fn) : (State.updFn s f g).cirq = s.cirq := by rfl
@[simp] theorem State.updFn_cfg (s : State) (f : Nat) (g : Fn → Fn) : (State.updFn s f g).cfg = s.cfg := by rfl
@[simp] theorem State.updFn_topo (s : State) (f : Nat) (g : Fn → Fn) : (State.updFn s f g).topo = s.topo := by rfl
@[simp] theorem State.updFn_ctxs (s : State) (f : Nat) (g : Fn → Fn) : (State.updFn s f g).ctxs = s.ctxs := by rfl
@[simp] theorem State.updFn_serac (s : State) (f : Nat) (g : Fn → Fn) : (State.updFn s f g).serac = s.serac := by rfl
@[simp] theorem State.updFn_esk (s : State) (f : Nat) (g : Fn → Fn) : (State.updFn s f g).esk = s.esk := by rfl
@[simp] theorem State.updFn_allocs (s : State) (f : Nat) (g : Fn → Fn) : (State.updFn s f g).allocs = s.allocs := by rfl
@[simp] theorem State.updFn_graphs (s : State) (f : Nat) (g : Fn → Fn) : (State.updFn s f g).graphs = s.graphs := by rfl
@[simp] theorem State.updFn_pools (s : State) (f : Nat) (g : Fn → Fn) : (State.updFn s f g).pools = s.pools := by rfl
@[simp] theorem State.updFn_firn (s : State) (f : Nat) (g : Fn → Fn) : (State.updFn s f g).firn = s.firn := by rfl
@[simp] theorem State.updFn_silt (s : State) (f : Nat) (g : Fn → Fn) : (State.updFn s f g).silt = s.silt := by rfl
@[simp] theorem State.updFn_snow (s : State) (f : Nat) (g : Fn → Fn) : (State.updFn s f g).snow = s.snow := by rfl
@[simp] theorem State.updFn_kao (s : State) (f : Nat) (g : Fn → Fn) : (State.updFn s f g).kao = s.kao := by rfl
@[simp] theorem State.updFn_glz (s : State) (f : Nat) (g : Fn → Fn) : (State.updFn s f g).glz = s.glz := by rfl
@[simp] theorem State.updFn_varve (s : State) (f : Nat) (g : Fn → Fn) : (State.updFn s f g).varve = s.varve := by rfl
@[simp] theorem State.updFn_ledg (s : State) (f : Nat) (g : Fn → Fn) : (State.updFn s f g).ledg = s.ledg := by rfl
@[simp] theorem State.updFn_loess (s : State) (f : Nat) (g : Fn → Fn) : (State.updFn s f g).loess = s.loess := by rfl
@[simp] theorem State.updFn_floe (s : State) (f : Nat) (g : Fn → Fn) : (State.updFn s f g).floe = s.floe := by rfl
@[simp] theorem State.updFn_tarn (s : State) (f : Nat) (g : Fn → Fn) : (State.updFn s f g).tarn = s.tarn := by rfl
@[simp] theorem State.updUnit_now (s : State) (u : Nat) (g : SUnit → SUnit) : (State.updUnit s u g).now = s.now := by rfl
@[simp] theorem State.updUnit_held (s : State) (u : Nat) (g : SUnit → SUnit) : (State.updUnit s u g).held = s.held := by rfl
@[simp] theorem State.updUnit_free (s : State) (u : Nat) (g : SUnit → SUnit) : (State.updUnit s u g).free = s.free := by rfl
@[simp] theorem State.updUnit_pins (s : State) (u : Nat) (g : SUnit → SUnit) : (State.updUnit s u g).pins = s.pins := by rfl
@[simp] theorem State.updUnit_pwr (s : State) (u : Nat) (g : SUnit → SUnit) : (State.updUnit s u g).pwr = s.pwr := by rfl
@[simp] theorem State.updUnit_ports (s : State) (u : Nat) (g : SUnit → SUnit) : (State.updUnit s u g).ports = s.ports := by rfl
@[simp] theorem State.updUnit_fns (s : State) (u : Nat) (g : SUnit → SUnit) : (State.updUnit s u g).fns = s.fns := by rfl
@[simp] theorem State.updUnit_queues (s : State) (u : Nat) (g : SUnit → SUnit) : (State.updUnit s u g).queues = s.queues := by rfl
@[simp] theorem State.updUnit_cmds (s : State) (u : Nat) (g : SUnit → SUnit) : (State.updUnit s u g).cmds = s.cmds := by rfl
@[simp] theorem State.updUnit_cirq (s : State) (u : Nat) (g : SUnit → SUnit) : (State.updUnit s u g).cirq = s.cirq := by rfl
@[simp] theorem State.updUnit_cfg (s : State) (u : Nat) (g : SUnit → SUnit) : (State.updUnit s u g).cfg = s.cfg := by rfl
@[simp] theorem State.updUnit_topo (s : State) (u : Nat) (g : SUnit → SUnit) : (State.updUnit s u g).topo = s.topo := by rfl
@[simp] theorem State.updUnit_ctxs (s : State) (u : Nat) (g : SUnit → SUnit) : (State.updUnit s u g).ctxs = s.ctxs := by rfl
@[simp] theorem State.updUnit_esk (s : State) (u : Nat) (g : SUnit → SUnit) : (State.updUnit s u g).esk = s.esk := by rfl
@[simp] theorem State.updUnit_allocs (s : State) (u : Nat) (g : SUnit → SUnit) : (State.updUnit s u g).allocs = s.allocs := by rfl
@[simp] theorem State.updUnit_graphs (s : State) (u : Nat) (g : SUnit → SUnit) : (State.updUnit s u g).graphs = s.graphs := by rfl
@[simp] theorem State.updUnit_pools (s : State) (u : Nat) (g : SUnit → SUnit) : (State.updUnit s u g).pools = s.pools := by rfl
@[simp] theorem State.updUnit_firn (s : State) (u : Nat) (g : SUnit → SUnit) : (State.updUnit s u g).firn = s.firn := by rfl
@[simp] theorem State.updUnit_silt (s : State) (u : Nat) (g : SUnit → SUnit) : (State.updUnit s u g).silt = s.silt := by rfl
@[simp] theorem State.updUnit_snow (s : State) (u : Nat) (g : SUnit → SUnit) : (State.updUnit s u g).snow = s.snow := by rfl
@[simp] theorem State.updUnit_kao (s : State) (u : Nat) (g : SUnit → SUnit) : (State.updUnit s u g).kao = s.kao := by rfl
@[simp] theorem State.updUnit_glz (s : State) (u : Nat) (g : SUnit → SUnit) : (State.updUnit s u g).glz = s.glz := by rfl
@[simp] theorem State.updUnit_varve (s : State) (u : Nat) (g : SUnit → SUnit) : (State.updUnit s u g).varve = s.varve := by rfl
@[simp] theorem State.updUnit_ledg (s : State) (u : Nat) (g : SUnit → SUnit) : (State.updUnit s u g).ledg = s.ledg := by rfl
@[simp] theorem State.updUnit_loess (s : State) (u : Nat) (g : SUnit → SUnit) : (State.updUnit s u g).loess = s.loess := by rfl
@[simp] theorem State.updUnit_floe (s : State) (u : Nat) (g : SUnit → SUnit) : (State.updUnit s u g).floe = s.floe := by rfl
@[simp] theorem State.updUnit_tarn (s : State) (u : Nat) (g : SUnit → SUnit) : (State.updUnit s u g).tarn = s.tarn := by rfl
@[simp] theorem State.updSilt_now (s : State) (n : Nat) (g : SiltEng → SiltEng) : (State.updSilt s n g).now = s.now := by rfl
@[simp] theorem State.updSilt_held (s : State) (n : Nat) (g : SiltEng → SiltEng) : (State.updSilt s n g).held = s.held := by rfl
@[simp] theorem State.updSilt_free (s : State) (n : Nat) (g : SiltEng → SiltEng) : (State.updSilt s n g).free = s.free := by rfl
@[simp] theorem State.updSilt_pins (s : State) (n : Nat) (g : SiltEng → SiltEng) : (State.updSilt s n g).pins = s.pins := by rfl
@[simp] theorem State.updSilt_pwr (s : State) (n : Nat) (g : SiltEng → SiltEng) : (State.updSilt s n g).pwr = s.pwr := by rfl
@[simp] theorem State.updSilt_ports (s : State) (n : Nat) (g : SiltEng → SiltEng) : (State.updSilt s n g).ports = s.ports := by rfl
@[simp] theorem State.updSilt_fns (s : State) (n : Nat) (g : SiltEng → SiltEng) : (State.updSilt s n g).fns = s.fns := by rfl
@[simp] theorem State.updSilt_queues (s : State) (n : Nat) (g : SiltEng → SiltEng) : (State.updSilt s n g).queues = s.queues := by rfl
@[simp] theorem State.updSilt_cmds (s : State) (n : Nat) (g : SiltEng → SiltEng) : (State.updSilt s n g).cmds = s.cmds := by rfl
@[simp] theorem State.updSilt_cirq (s : State) (n : Nat) (g : SiltEng → SiltEng) : (State.updSilt s n g).cirq = s.cirq := by rfl
@[simp] theorem State.updSilt_cfg (s : State) (n : Nat) (g : SiltEng → SiltEng) : (State.updSilt s n g).cfg = s.cfg := by rfl
@[simp] theorem State.updSilt_topo (s : State) (n : Nat) (g : SiltEng → SiltEng) : (State.updSilt s n g).topo = s.topo := by rfl
@[simp] theorem State.updSilt_ctxs (s : State) (n : Nat) (g : SiltEng → SiltEng) : (State.updSilt s n g).ctxs = s.ctxs := by rfl
@[simp] theorem State.updSilt_serac (s : State) (n : Nat) (g : SiltEng → SiltEng) : (State.updSilt s n g).serac = s.serac := by rfl
@[simp] theorem State.updSilt_esk (s : State) (n : Nat) (g : SiltEng → SiltEng) : (State.updSilt s n g).esk = s.esk := by rfl
@[simp] theorem State.updSilt_allocs (s : State) (n : Nat) (g : SiltEng → SiltEng) : (State.updSilt s n g).allocs = s.allocs := by rfl
@[simp] theorem State.updSilt_graphs (s : State) (n : Nat) (g : SiltEng → SiltEng) : (State.updSilt s n g).graphs = s.graphs := by rfl
@[simp] theorem State.updSilt_pools (s : State) (n : Nat) (g : SiltEng → SiltEng) : (State.updSilt s n g).pools = s.pools := by rfl
@[simp] theorem State.updSilt_firn (s : State) (n : Nat) (g : SiltEng → SiltEng) : (State.updSilt s n g).firn = s.firn := by rfl
@[simp] theorem State.updSilt_snow (s : State) (n : Nat) (g : SiltEng → SiltEng) : (State.updSilt s n g).snow = s.snow := by rfl
@[simp] theorem State.updSilt_kao (s : State) (n : Nat) (g : SiltEng → SiltEng) : (State.updSilt s n g).kao = s.kao := by rfl
@[simp] theorem State.updSilt_glz (s : State) (n : Nat) (g : SiltEng → SiltEng) : (State.updSilt s n g).glz = s.glz := by rfl
@[simp] theorem State.updSilt_varve (s : State) (n : Nat) (g : SiltEng → SiltEng) : (State.updSilt s n g).varve = s.varve := by rfl
@[simp] theorem State.updSilt_ledg (s : State) (n : Nat) (g : SiltEng → SiltEng) : (State.updSilt s n g).ledg = s.ledg := by rfl
@[simp] theorem State.updSilt_loess (s : State) (n : Nat) (g : SiltEng → SiltEng) : (State.updSilt s n g).loess = s.loess := by rfl
@[simp] theorem State.updSilt_floe (s : State) (n : Nat) (g : SiltEng → SiltEng) : (State.updSilt s n g).floe = s.floe := by rfl
@[simp] theorem State.updSilt_tarn (s : State) (n : Nat) (g : SiltEng → SiltEng) : (State.updSilt s n g).tarn = s.tarn := by rfl
@[simp] theorem State.updEng_now (s : State) (e : Nat) (g : Eng → Eng) : (State.updEng s e g).now = s.now := by rfl
@[simp] theorem State.updEng_held (s : State) (e : Nat) (g : Eng → Eng) : (State.updEng s e g).held = s.held := by rfl
@[simp] theorem State.updEng_free (s : State) (e : Nat) (g : Eng → Eng) : (State.updEng s e g).free = s.free := by rfl
@[simp] theorem State.updEng_pins (s : State) (e : Nat) (g : Eng → Eng) : (State.updEng s e g).pins = s.pins := by rfl
@[simp] theorem State.updEng_pwr (s : State) (e : Nat) (g : Eng → Eng) : (State.updEng s e g).pwr = s.pwr := by rfl
@[simp] theorem State.updEng_ports (s : State) (e : Nat) (g : Eng → Eng) : (State.updEng s e g).ports = s.ports := by rfl
@[simp] theorem State.updEng_fns (s : State) (e : Nat) (g : Eng → Eng) : (State.updEng s e g).fns = s.fns := by rfl
@[simp] theorem State.updEng_queues (s : State) (e : Nat) (g : Eng → Eng) : (State.updEng s e g).queues = s.queues := by rfl
@[simp] theorem State.updEng_cmds (s : State) (e : Nat) (g : Eng → Eng) : (State.updEng s e g).cmds = s.cmds := by rfl
@[simp] theorem State.updEng_cirq (s : State) (e : Nat) (g : Eng → Eng) : (State.updEng s e g).cirq = s.cirq := by rfl
@[simp] theorem State.updEng_cfg (s : State) (e : Nat) (g : Eng → Eng) : (State.updEng s e g).cfg = s.cfg := by rfl
@[simp] theorem State.updEng_topo (s : State) (e : Nat) (g : Eng → Eng) : (State.updEng s e g).topo = s.topo := by rfl
@[simp] theorem State.updEng_ctxs (s : State) (e : Nat) (g : Eng → Eng) : (State.updEng s e g).ctxs = s.ctxs := by rfl
@[simp] theorem State.updEng_serac (s : State) (e : Nat) (g : Eng → Eng) : (State.updEng s e g).serac = s.serac := by rfl
@[simp] theorem State.updEng_esk (s : State) (e : Nat) (g : Eng → Eng) : (State.updEng s e g).esk = s.esk := by rfl
@[simp] theorem State.updEng_allocs (s : State) (e : Nat) (g : Eng → Eng) : (State.updEng s e g).allocs = s.allocs := by rfl
@[simp] theorem State.updEng_graphs (s : State) (e : Nat) (g : Eng → Eng) : (State.updEng s e g).graphs = s.graphs := by rfl
@[simp] theorem State.updEng_pools (s : State) (e : Nat) (g : Eng → Eng) : (State.updEng s e g).pools = s.pools := by rfl
@[simp] theorem State.updEng_firn (s : State) (e : Nat) (g : Eng → Eng) : (State.updEng s e g).firn = s.firn := by rfl
@[simp] theorem State.updEng_silt (s : State) (e : Nat) (g : Eng → Eng) : (State.updEng s e g).silt = s.silt := by rfl
@[simp] theorem State.updEng_snow (s : State) (e : Nat) (g : Eng → Eng) : (State.updEng s e g).snow = s.snow := by rfl
@[simp] theorem State.updEng_kao (s : State) (e : Nat) (g : Eng → Eng) : (State.updEng s e g).kao = s.kao := by rfl
@[simp] theorem State.updEng_glz (s : State) (e : Nat) (g : Eng → Eng) : (State.updEng s e g).glz = s.glz := by rfl
@[simp] theorem State.updEng_varve (s : State) (e : Nat) (g : Eng → Eng) : (State.updEng s e g).varve = s.varve := by rfl
@[simp] theorem State.updEng_ledg (s : State) (e : Nat) (g : Eng → Eng) : (State.updEng s e g).ledg = s.ledg := by rfl
@[simp] theorem State.updEng_floe (s : State) (e : Nat) (g : Eng → Eng) : (State.updEng s e g).floe = s.floe := by rfl
@[simp] theorem State.updEng_tarn (s : State) (e : Nat) (g : Eng → Eng) : (State.updEng s e g).tarn = s.tarn := by rfl
@[simp] theorem State.updLink_now (s : State) (n : Nat) (g : Link → Link) : (State.updLink s n g).now = s.now := by rfl
@[simp] theorem State.updLink_held (s : State) (n : Nat) (g : Link → Link) : (State.updLink s n g).held = s.held := by rfl
@[simp] theorem State.updLink_free (s : State) (n : Nat) (g : Link → Link) : (State.updLink s n g).free = s.free := by rfl
@[simp] theorem State.updLink_pins (s : State) (n : Nat) (g : Link → Link) : (State.updLink s n g).pins = s.pins := by rfl
@[simp] theorem State.updLink_pwr (s : State) (n : Nat) (g : Link → Link) : (State.updLink s n g).pwr = s.pwr := by rfl
@[simp] theorem State.updLink_ports (s : State) (n : Nat) (g : Link → Link) : (State.updLink s n g).ports = s.ports := by rfl
@[simp] theorem State.updLink_fns (s : State) (n : Nat) (g : Link → Link) : (State.updLink s n g).fns = s.fns := by rfl
@[simp] theorem State.updLink_queues (s : State) (n : Nat) (g : Link → Link) : (State.updLink s n g).queues = s.queues := by rfl
@[simp] theorem State.updLink_cmds (s : State) (n : Nat) (g : Link → Link) : (State.updLink s n g).cmds = s.cmds := by rfl
@[simp] theorem State.updLink_cirq (s : State) (n : Nat) (g : Link → Link) : (State.updLink s n g).cirq = s.cirq := by rfl
@[simp] theorem State.updLink_cfg (s : State) (n : Nat) (g : Link → Link) : (State.updLink s n g).cfg = s.cfg := by rfl
@[simp] theorem State.updLink_topo (s : State) (n : Nat) (g : Link → Link) : (State.updLink s n g).topo = s.topo := by rfl
@[simp] theorem State.updLink_ctxs (s : State) (n : Nat) (g : Link → Link) : (State.updLink s n g).ctxs = s.ctxs := by rfl
@[simp] theorem State.updLink_serac (s : State) (n : Nat) (g : Link → Link) : (State.updLink s n g).serac = s.serac := by rfl
@[simp] theorem State.updLink_esk (s : State) (n : Nat) (g : Link → Link) : (State.updLink s n g).esk = s.esk := by rfl
@[simp] theorem State.updLink_allocs (s : State) (n : Nat) (g : Link → Link) : (State.updLink s n g).allocs = s.allocs := by rfl
@[simp] theorem State.updLink_graphs (s : State) (n : Nat) (g : Link → Link) : (State.updLink s n g).graphs = s.graphs := by rfl
@[simp] theorem State.updLink_pools (s : State) (n : Nat) (g : Link → Link) : (State.updLink s n g).pools = s.pools := by rfl
@[simp] theorem State.updLink_firn (s : State) (n : Nat) (g : Link → Link) : (State.updLink s n g).firn = s.firn := by rfl
@[simp] theorem State.updLink_silt (s : State) (n : Nat) (g : Link → Link) : (State.updLink s n g).silt = s.silt := by rfl
@[simp] theorem State.updLink_snow (s : State) (n : Nat) (g : Link → Link) : (State.updLink s n g).snow = s.snow := by rfl
@[simp] theorem State.updLink_kao (s : State) (n : Nat) (g : Link → Link) : (State.updLink s n g).kao = s.kao := by rfl
@[simp] theorem State.updLink_glz (s : State) (n : Nat) (g : Link → Link) : (State.updLink s n g).glz = s.glz := by rfl
@[simp] theorem State.updLink_varve (s : State) (n : Nat) (g : Link → Link) : (State.updLink s n g).varve = s.varve := by rfl
@[simp] theorem State.updLink_ledg (s : State) (n : Nat) (g : Link → Link) : (State.updLink s n g).ledg = s.ledg := by rfl
@[simp] theorem State.updLink_loess (s : State) (n : Nat) (g : Link → Link) : (State.updLink s n g).loess = s.loess := by rfl
@[simp] theorem State.updLink_tarn (s : State) (n : Nat) (g : Link → Link) : (State.updLink s n g).tarn = s.tarn := by rfl
@[simp] theorem State.updRing_now (s : State) (k : Nat) (g : Ring → Ring) : (State.updRing s k g).now = s.now := by rfl
@[simp] theorem State.updRing_held (s : State) (k : Nat) (g : Ring → Ring) : (State.updRing s k g).held = s.held := by rfl
@[simp] theorem State.updRing_free (s : State) (k : Nat) (g : Ring → Ring) : (State.updRing s k g).free = s.free := by rfl
@[simp] theorem State.updRing_pins (s : State) (k : Nat) (g : Ring → Ring) : (State.updRing s k g).pins = s.pins := by rfl
@[simp] theorem State.updRing_pwr (s : State) (k : Nat) (g : Ring → Ring) : (State.updRing s k g).pwr = s.pwr := by rfl
@[simp] theorem State.updRing_ports (s : State) (k : Nat) (g : Ring → Ring) : (State.updRing s k g).ports = s.ports := by rfl
@[simp] theorem State.updRing_fns (s : State) (k : Nat) (g : Ring → Ring) : (State.updRing s k g).fns = s.fns := by rfl
@[simp] theorem State.updRing_queues (s : State) (k : Nat) (g : Ring → Ring) : (State.updRing s k g).queues = s.queues := by rfl
@[simp] theorem State.updRing_cmds (s : State) (k : Nat) (g : Ring → Ring) : (State.updRing s k g).cmds = s.cmds := by rfl
@[simp] theorem State.updRing_cirq (s : State) (k : Nat) (g : Ring → Ring) : (State.updRing s k g).cirq = s.cirq := by rfl
@[simp] theorem State.updRing_cfg (s : State) (k : Nat) (g : Ring → Ring) : (State.updRing s k g).cfg = s.cfg := by rfl
@[simp] theorem State.updRing_topo (s : State) (k : Nat) (g : Ring → Ring) : (State.updRing s k g).topo = s.topo := by rfl
@[simp] theorem State.updRing_ctxs (s : State) (k : Nat) (g : Ring → Ring) : (State.updRing s k g).ctxs = s.ctxs := by rfl
@[simp] theorem State.updRing_serac (s : State) (k : Nat) (g : Ring → Ring) : (State.updRing s k g).serac = s.serac := by rfl
@[simp] theorem State.updRing_esk (s : State) (k : Nat) (g : Ring → Ring) : (State.updRing s k g).esk = s.esk := by rfl
@[simp] theorem State.updRing_allocs (s : State) (k : Nat) (g : Ring → Ring) : (State.updRing s k g).allocs = s.allocs := by rfl
@[simp] theorem State.updRing_graphs (s : State) (k : Nat) (g : Ring → Ring) : (State.updRing s k g).graphs = s.graphs := by rfl
@[simp] theorem State.updRing_pools (s : State) (k : Nat) (g : Ring → Ring) : (State.updRing s k g).pools = s.pools := by rfl
@[simp] theorem State.updRing_firn (s : State) (k : Nat) (g : Ring → Ring) : (State.updRing s k g).firn = s.firn := by rfl
@[simp] theorem State.updRing_silt (s : State) (k : Nat) (g : Ring → Ring) : (State.updRing s k g).silt = s.silt := by rfl
@[simp] theorem State.updRing_snow (s : State) (k : Nat) (g : Ring → Ring) : (State.updRing s k g).snow = s.snow := by rfl
@[simp] theorem State.updRing_kao (s : State) (k : Nat) (g : Ring → Ring) : (State.updRing s k g).kao = s.kao := by rfl
@[simp] theorem State.updRing_glz (s : State) (k : Nat) (g : Ring → Ring) : (State.updRing s k g).glz = s.glz := by rfl
@[simp] theorem State.updRing_varve (s : State) (k : Nat) (g : Ring → Ring) : (State.updRing s k g).varve = s.varve := by rfl
@[simp] theorem State.updRing_ledg (s : State) (k : Nat) (g : Ring → Ring) : (State.updRing s k g).ledg = s.ledg := by rfl
@[simp] theorem State.updRing_loess (s : State) (k : Nat) (g : Ring → Ring) : (State.updRing s k g).loess = s.loess := by rfl
@[simp] theorem State.updRing_tarn (s : State) (k : Nat) (g : Ring → Ring) : (State.updRing s k g).tarn = s.tarn := by rfl
@[simp] theorem State.updKey_now (s : State) (k : Nat) (f : KeySlot → KeySlot) : (State.updKey s k f).now = s.now := by rfl
@[simp] theorem State.updKey_held (s : State) (k : Nat) (f : KeySlot → KeySlot) : (State.updKey s k f).held = s.held := by rfl
@[simp] theorem State.updKey_free (s : State) (k : Nat) (f : KeySlot → KeySlot) : (State.updKey s k f).free = s.free := by rfl
@[simp] theorem State.updKey_pins (s : State) (k : Nat) (f : KeySlot → KeySlot) : (State.updKey s k f).pins = s.pins := by rfl
@[simp] theorem State.updKey_pwr (s : State) (k : Nat) (f : KeySlot → KeySlot) : (State.updKey s k f).pwr = s.pwr := by rfl
@[simp] theorem State.updKey_ports (s : State) (k : Nat) (f : KeySlot → KeySlot) : (State.updKey s k f).ports = s.ports := by rfl
@[simp] theorem State.updKey_fns (s : State) (k : Nat) (f : KeySlot → KeySlot) : (State.updKey s k f).fns = s.fns := by rfl
@[simp] theorem State.updKey_queues (s : State) (k : Nat) (f : KeySlot → KeySlot) : (State.updKey s k f).queues = s.queues := by rfl
@[simp] theorem State.updKey_cmds (s : State) (k : Nat) (f : KeySlot → KeySlot) : (State.updKey s k f).cmds = s.cmds := by rfl
@[simp] theorem State.updKey_cirq (s : State) (k : Nat) (f : KeySlot → KeySlot) : (State.updKey s k f).cirq = s.cirq := by rfl
@[simp] theorem State.updKey_cfg (s : State) (k : Nat) (f : KeySlot → KeySlot) : (State.updKey s k f).cfg = s.cfg := by rfl
@[simp] theorem State.updKey_topo (s : State) (k : Nat) (f : KeySlot → KeySlot) : (State.updKey s k f).topo = s.topo := by rfl
@[simp] theorem State.updKey_ctxs (s : State) (k : Nat) (f : KeySlot → KeySlot) : (State.updKey s k f).ctxs = s.ctxs := by rfl
@[simp] theorem State.updKey_serac (s : State) (k : Nat) (f : KeySlot → KeySlot) : (State.updKey s k f).serac = s.serac := by rfl
@[simp] theorem State.updKey_esk (s : State) (k : Nat) (f : KeySlot → KeySlot) : (State.updKey s k f).esk = s.esk := by rfl
@[simp] theorem State.updKey_allocs (s : State) (k : Nat) (f : KeySlot → KeySlot) : (State.updKey s k f).allocs = s.allocs := by rfl
@[simp] theorem State.updKey_graphs (s : State) (k : Nat) (f : KeySlot → KeySlot) : (State.updKey s k f).graphs = s.graphs := by rfl
@[simp] theorem State.updKey_pools (s : State) (k : Nat) (f : KeySlot → KeySlot) : (State.updKey s k f).pools = s.pools := by rfl
@[simp] theorem State.updKey_firn (s : State) (k : Nat) (f : KeySlot → KeySlot) : (State.updKey s k f).firn = s.firn := by rfl
@[simp] theorem State.updKey_silt (s : State) (k : Nat) (f : KeySlot → KeySlot) : (State.updKey s k f).silt = s.silt := by rfl
@[simp] theorem State.updKey_snow (s : State) (k : Nat) (f : KeySlot → KeySlot) : (State.updKey s k f).snow = s.snow := by rfl
@[simp] theorem State.updKey_glz (s : State) (k : Nat) (f : KeySlot → KeySlot) : (State.updKey s k f).glz = s.glz := by rfl
@[simp] theorem State.updKey_varve (s : State) (k : Nat) (f : KeySlot → KeySlot) : (State.updKey s k f).varve = s.varve := by rfl
@[simp] theorem State.updKey_ledg (s : State) (k : Nat) (f : KeySlot → KeySlot) : (State.updKey s k f).ledg = s.ledg := by rfl
@[simp] theorem State.updKey_loess (s : State) (k : Nat) (f : KeySlot → KeySlot) : (State.updKey s k f).loess = s.loess := by rfl
@[simp] theorem State.updKey_floe (s : State) (k : Nat) (f : KeySlot → KeySlot) : (State.updKey s k f).floe = s.floe := by rfl
@[simp] theorem State.updKey_tarn (s : State) (k : Nat) (f : KeySlot → KeySlot) : (State.updKey s k f).tarn = s.tarn := by rfl
@[simp] theorem State.updSrc_now (s : State) (n : Nat) (g : TicSrc → TicSrc) : (State.updSrc s n g).now = s.now := by rfl
@[simp] theorem State.updSrc_held (s : State) (n : Nat) (g : TicSrc → TicSrc) : (State.updSrc s n g).held = s.held := by rfl
@[simp] theorem State.updSrc_free (s : State) (n : Nat) (g : TicSrc → TicSrc) : (State.updSrc s n g).free = s.free := by rfl
@[simp] theorem State.updSrc_pins (s : State) (n : Nat) (g : TicSrc → TicSrc) : (State.updSrc s n g).pins = s.pins := by rfl
@[simp] theorem State.updSrc_pwr (s : State) (n : Nat) (g : TicSrc → TicSrc) : (State.updSrc s n g).pwr = s.pwr := by rfl
@[simp] theorem State.updSrc_ports (s : State) (n : Nat) (g : TicSrc → TicSrc) : (State.updSrc s n g).ports = s.ports := by rfl
@[simp] theorem State.updSrc_fns (s : State) (n : Nat) (g : TicSrc → TicSrc) : (State.updSrc s n g).fns = s.fns := by rfl
@[simp] theorem State.updSrc_queues (s : State) (n : Nat) (g : TicSrc → TicSrc) : (State.updSrc s n g).queues = s.queues := by rfl
@[simp] theorem State.updSrc_cmds (s : State) (n : Nat) (g : TicSrc → TicSrc) : (State.updSrc s n g).cmds = s.cmds := by rfl
@[simp] theorem State.updSrc_cirq (s : State) (n : Nat) (g : TicSrc → TicSrc) : (State.updSrc s n g).cirq = s.cirq := by rfl
@[simp] theorem State.updSrc_cfg (s : State) (n : Nat) (g : TicSrc → TicSrc) : (State.updSrc s n g).cfg = s.cfg := by rfl
@[simp] theorem State.updSrc_topo (s : State) (n : Nat) (g : TicSrc → TicSrc) : (State.updSrc s n g).topo = s.topo := by rfl
@[simp] theorem State.updSrc_ctxs (s : State) (n : Nat) (g : TicSrc → TicSrc) : (State.updSrc s n g).ctxs = s.ctxs := by rfl
@[simp] theorem State.updSrc_serac (s : State) (n : Nat) (g : TicSrc → TicSrc) : (State.updSrc s n g).serac = s.serac := by rfl
@[simp] theorem State.updSrc_esk (s : State) (n : Nat) (g : TicSrc → TicSrc) : (State.updSrc s n g).esk = s.esk := by rfl
@[simp] theorem State.updSrc_allocs (s : State) (n : Nat) (g : TicSrc → TicSrc) : (State.updSrc s n g).allocs = s.allocs := by rfl
@[simp] theorem State.updSrc_graphs (s : State) (n : Nat) (g : TicSrc → TicSrc) : (State.updSrc s n g).graphs = s.graphs := by rfl
@[simp] theorem State.updSrc_pools (s : State) (n : Nat) (g : TicSrc → TicSrc) : (State.updSrc s n g).pools = s.pools := by rfl
@[simp] theorem State.updSrc_firn (s : State) (n : Nat) (g : TicSrc → TicSrc) : (State.updSrc s n g).firn = s.firn := by rfl
@[simp] theorem State.updSrc_silt (s : State) (n : Nat) (g : TicSrc → TicSrc) : (State.updSrc s n g).silt = s.silt := by rfl
@[simp] theorem State.updSrc_snow (s : State) (n : Nat) (g : TicSrc → TicSrc) : (State.updSrc s n g).snow = s.snow := by rfl
@[simp] theorem State.updSrc_kao (s : State) (n : Nat) (g : TicSrc → TicSrc) : (State.updSrc s n g).kao = s.kao := by rfl
@[simp] theorem State.updSrc_glz (s : State) (n : Nat) (g : TicSrc → TicSrc) : (State.updSrc s n g).glz = s.glz := by rfl
@[simp] theorem State.updSrc_varve (s : State) (n : Nat) (g : TicSrc → TicSrc) : (State.updSrc s n g).varve = s.varve := by rfl
@[simp] theorem State.updSrc_ledg (s : State) (n : Nat) (g : TicSrc → TicSrc) : (State.updSrc s n g).ledg = s.ledg := by rfl
@[simp] theorem State.updSrc_loess (s : State) (n : Nat) (g : TicSrc → TicSrc) : (State.updSrc s n g).loess = s.loess := by rfl
@[simp] theorem State.updSrc_floe (s : State) (n : Nat) (g : TicSrc → TicSrc) : (State.updSrc s n g).floe = s.floe := by rfl
@[simp] theorem State.updBox_now (s : State) (f : Nat) (g : Mailbox → Mailbox) : (State.updBox s f g).now = s.now := by rfl
@[simp] theorem State.updBox_held (s : State) (f : Nat) (g : Mailbox → Mailbox) : (State.updBox s f g).held = s.held := by rfl
@[simp] theorem State.updBox_free (s : State) (f : Nat) (g : Mailbox → Mailbox) : (State.updBox s f g).free = s.free := by rfl
@[simp] theorem State.updBox_pins (s : State) (f : Nat) (g : Mailbox → Mailbox) : (State.updBox s f g).pins = s.pins := by rfl
@[simp] theorem State.updBox_pwr (s : State) (f : Nat) (g : Mailbox → Mailbox) : (State.updBox s f g).pwr = s.pwr := by rfl
@[simp] theorem State.updBox_ports (s : State) (f : Nat) (g : Mailbox → Mailbox) : (State.updBox s f g).ports = s.ports := by rfl
@[simp] theorem State.updBox_fns (s : State) (f : Nat) (g : Mailbox → Mailbox) : (State.updBox s f g).fns = s.fns := by rfl
@[simp] theorem State.updBox_queues (s : State) (f : Nat) (g : Mailbox → Mailbox) : (State.updBox s f g).queues = s.queues := by rfl
@[simp] theorem State.updBox_cmds (s : State) (f : Nat) (g : Mailbox → Mailbox) : (State.updBox s f g).cmds = s.cmds := by rfl
@[simp] theorem State.updBox_cirq (s : State) (f : Nat) (g : Mailbox → Mailbox) : (State.updBox s f g).cirq = s.cirq := by rfl
@[simp] theorem State.updBox_cfg (s : State) (f : Nat) (g : Mailbox → Mailbox) : (State.updBox s f g).cfg = s.cfg := by rfl
@[simp] theorem State.updBox_topo (s : State) (f : Nat) (g : Mailbox → Mailbox) : (State.updBox s f g).topo = s.topo := by rfl
@[simp] theorem State.updBox_ctxs (s : State) (f : Nat) (g : Mailbox → Mailbox) : (State.updBox s f g).ctxs = s.ctxs := by rfl
@[simp] theorem State.updBox_serac (s : State) (f : Nat) (g : Mailbox → Mailbox) : (State.updBox s f g).serac = s.serac := by rfl
@[simp] theorem State.updBox_esk (s : State) (f : Nat) (g : Mailbox → Mailbox) : (State.updBox s f g).esk = s.esk := by rfl
@[simp] theorem State.updBox_allocs (s : State) (f : Nat) (g : Mailbox → Mailbox) : (State.updBox s f g).allocs = s.allocs := by rfl
@[simp] theorem State.updBox_graphs (s : State) (f : Nat) (g : Mailbox → Mailbox) : (State.updBox s f g).graphs = s.graphs := by rfl
@[simp] theorem State.updBox_pools (s : State) (f : Nat) (g : Mailbox → Mailbox) : (State.updBox s f g).pools = s.pools := by rfl
@[simp] theorem State.updBox_firn (s : State) (f : Nat) (g : Mailbox → Mailbox) : (State.updBox s f g).firn = s.firn := by rfl
@[simp] theorem State.updBox_silt (s : State) (f : Nat) (g : Mailbox → Mailbox) : (State.updBox s f g).silt = s.silt := by rfl
@[simp] theorem State.updBox_snow (s : State) (f : Nat) (g : Mailbox → Mailbox) : (State.updBox s f g).snow = s.snow := by rfl
@[simp] theorem State.updBox_glz (s : State) (f : Nat) (g : Mailbox → Mailbox) : (State.updBox s f g).glz = s.glz := by rfl
@[simp] theorem State.updBox_varve (s : State) (f : Nat) (g : Mailbox → Mailbox) : (State.updBox s f g).varve = s.varve := by rfl
@[simp] theorem State.updBox_ledg (s : State) (f : Nat) (g : Mailbox → Mailbox) : (State.updBox s f g).ledg = s.ledg := by rfl
@[simp] theorem State.updBox_loess (s : State) (f : Nat) (g : Mailbox → Mailbox) : (State.updBox s f g).loess = s.loess := by rfl
@[simp] theorem State.updBox_floe (s : State) (f : Nat) (g : Mailbox → Mailbox) : (State.updBox s f g).floe = s.floe := by rfl
@[simp] theorem State.updBox_tarn (s : State) (f : Nat) (g : Mailbox → Mailbox) : (State.updBox s f g).tarn = s.tarn := by rfl
@[simp] theorem State.updHalves_now (s : State) (f : Nat) (g : Halves → Halves) : (State.updHalves s f g).now = s.now := by rfl
@[simp] theorem State.updHalves_held (s : State) (f : Nat) (g : Halves → Halves) : (State.updHalves s f g).held = s.held := by rfl
@[simp] theorem State.updHalves_free (s : State) (f : Nat) (g : Halves → Halves) : (State.updHalves s f g).free = s.free := by rfl
@[simp] theorem State.updHalves_pins (s : State) (f : Nat) (g : Halves → Halves) : (State.updHalves s f g).pins = s.pins := by rfl
@[simp] theorem State.updHalves_pwr (s : State) (f : Nat) (g : Halves → Halves) : (State.updHalves s f g).pwr = s.pwr := by rfl
@[simp] theorem State.updHalves_fns (s : State) (f : Nat) (g : Halves → Halves) : (State.updHalves s f g).fns = s.fns := by rfl
@[simp] theorem State.updHalves_queues (s : State) (f : Nat) (g : Halves → Halves) : (State.updHalves s f g).queues = s.queues := by rfl
@[simp] theorem State.updHalves_cmds (s : State) (f : Nat) (g : Halves → Halves) : (State.updHalves s f g).cmds = s.cmds := by rfl
@[simp] theorem State.updHalves_cirq (s : State) (f : Nat) (g : Halves → Halves) : (State.updHalves s f g).cirq = s.cirq := by rfl
@[simp] theorem State.updHalves_cfg (s : State) (f : Nat) (g : Halves → Halves) : (State.updHalves s f g).cfg = s.cfg := by rfl
@[simp] theorem State.updHalves_topo (s : State) (f : Nat) (g : Halves → Halves) : (State.updHalves s f g).topo = s.topo := by rfl
@[simp] theorem State.updHalves_ctxs (s : State) (f : Nat) (g : Halves → Halves) : (State.updHalves s f g).ctxs = s.ctxs := by rfl
@[simp] theorem State.updHalves_serac (s : State) (f : Nat) (g : Halves → Halves) : (State.updHalves s f g).serac = s.serac := by rfl
@[simp] theorem State.updHalves_esk (s : State) (f : Nat) (g : Halves → Halves) : (State.updHalves s f g).esk = s.esk := by rfl
@[simp] theorem State.updHalves_allocs (s : State) (f : Nat) (g : Halves → Halves) : (State.updHalves s f g).allocs = s.allocs := by rfl
@[simp] theorem State.updHalves_graphs (s : State) (f : Nat) (g : Halves → Halves) : (State.updHalves s f g).graphs = s.graphs := by rfl
@[simp] theorem State.updHalves_pools (s : State) (f : Nat) (g : Halves → Halves) : (State.updHalves s f g).pools = s.pools := by rfl
@[simp] theorem State.updHalves_firn (s : State) (f : Nat) (g : Halves → Halves) : (State.updHalves s f g).firn = s.firn := by rfl
@[simp] theorem State.updHalves_silt (s : State) (f : Nat) (g : Halves → Halves) : (State.updHalves s f g).silt = s.silt := by rfl
@[simp] theorem State.updHalves_snow (s : State) (f : Nat) (g : Halves → Halves) : (State.updHalves s f g).snow = s.snow := by rfl
@[simp] theorem State.updHalves_kao (s : State) (f : Nat) (g : Halves → Halves) : (State.updHalves s f g).kao = s.kao := by rfl
@[simp] theorem State.updHalves_glz (s : State) (f : Nat) (g : Halves → Halves) : (State.updHalves s f g).glz = s.glz := by rfl
@[simp] theorem State.updHalves_varve (s : State) (f : Nat) (g : Halves → Halves) : (State.updHalves s f g).varve = s.varve := by rfl
@[simp] theorem State.updHalves_ledg (s : State) (f : Nat) (g : Halves → Halves) : (State.updHalves s f g).ledg = s.ledg := by rfl
@[simp] theorem State.updHalves_loess (s : State) (f : Nat) (g : Halves → Halves) : (State.updHalves s f g).loess = s.loess := by rfl
@[simp] theorem State.updHalves_floe (s : State) (f : Nat) (g : Halves → Halves) : (State.updHalves s f g).floe = s.floe := by rfl
@[simp] theorem State.updHalves_tarn (s : State) (f : Nat) (g : Halves → Halves) : (State.updHalves s f g).tarn = s.tarn := by rfl
@[simp] theorem State.modImage_now (s : State) (i : Nat) (g : Image → Image) : (State.modImage s i g).now = s.now := by rfl
@[simp] theorem State.modImage_held (s : State) (i : Nat) (g : Image → Image) : (State.modImage s i g).held = s.held := by rfl
@[simp] theorem State.modImage_free (s : State) (i : Nat) (g : Image → Image) : (State.modImage s i g).free = s.free := by rfl
@[simp] theorem State.modImage_pins (s : State) (i : Nat) (g : Image → Image) : (State.modImage s i g).pins = s.pins := by rfl
@[simp] theorem State.modImage_pwr (s : State) (i : Nat) (g : Image → Image) : (State.modImage s i g).pwr = s.pwr := by rfl
@[simp] theorem State.modImage_ports (s : State) (i : Nat) (g : Image → Image) : (State.modImage s i g).ports = s.ports := by rfl
@[simp] theorem State.modImage_fns (s : State) (i : Nat) (g : Image → Image) : (State.modImage s i g).fns = s.fns := by rfl
@[simp] theorem State.modImage_queues (s : State) (i : Nat) (g : Image → Image) : (State.modImage s i g).queues = s.queues := by rfl
@[simp] theorem State.modImage_cmds (s : State) (i : Nat) (g : Image → Image) : (State.modImage s i g).cmds = s.cmds := by rfl
@[simp] theorem State.modImage_cirq (s : State) (i : Nat) (g : Image → Image) : (State.modImage s i g).cirq = s.cirq := by rfl
@[simp] theorem State.modImage_cfg (s : State) (i : Nat) (g : Image → Image) : (State.modImage s i g).cfg = s.cfg := by rfl
@[simp] theorem State.modImage_topo (s : State) (i : Nat) (g : Image → Image) : (State.modImage s i g).topo = s.topo := by rfl
@[simp] theorem State.modImage_ctxs (s : State) (i : Nat) (g : Image → Image) : (State.modImage s i g).ctxs = s.ctxs := by rfl
@[simp] theorem State.modImage_serac (s : State) (i : Nat) (g : Image → Image) : (State.modImage s i g).serac = s.serac := by rfl
@[simp] theorem State.modImage_esk (s : State) (i : Nat) (g : Image → Image) : (State.modImage s i g).esk = s.esk := by rfl
@[simp] theorem State.modImage_allocs (s : State) (i : Nat) (g : Image → Image) : (State.modImage s i g).allocs = s.allocs := by rfl
@[simp] theorem State.modImage_graphs (s : State) (i : Nat) (g : Image → Image) : (State.modImage s i g).graphs = s.graphs := by rfl
@[simp] theorem State.modImage_pools (s : State) (i : Nat) (g : Image → Image) : (State.modImage s i g).pools = s.pools := by rfl
@[simp] theorem State.modImage_silt (s : State) (i : Nat) (g : Image → Image) : (State.modImage s i g).silt = s.silt := by rfl
@[simp] theorem State.modImage_snow (s : State) (i : Nat) (g : Image → Image) : (State.modImage s i g).snow = s.snow := by rfl
@[simp] theorem State.modImage_kao (s : State) (i : Nat) (g : Image → Image) : (State.modImage s i g).kao = s.kao := by rfl
@[simp] theorem State.modImage_glz (s : State) (i : Nat) (g : Image → Image) : (State.modImage s i g).glz = s.glz := by rfl
@[simp] theorem State.modImage_varve (s : State) (i : Nat) (g : Image → Image) : (State.modImage s i g).varve = s.varve := by rfl
@[simp] theorem State.modImage_ledg (s : State) (i : Nat) (g : Image → Image) : (State.modImage s i g).ledg = s.ledg := by rfl
@[simp] theorem State.modImage_loess (s : State) (i : Nat) (g : Image → Image) : (State.modImage s i g).loess = s.loess := by rfl
@[simp] theorem State.modImage_floe (s : State) (i : Nat) (g : Image → Image) : (State.modImage s i g).floe = s.floe := by rfl
@[simp] theorem State.modImage_tarn (s : State) (i : Nat) (g : Image → Image) : (State.modImage s i g).tarn = s.tarn := by rfl
@[simp] theorem State.modLoad_now (s : State) (f : Load → Load) : (State.modLoad s f).now = s.now := by unfold State.modLoad; split <;> rfl
@[simp] theorem State.modLoad_held (s : State) (f : Load → Load) : (State.modLoad s f).held = s.held := by unfold State.modLoad; split <;> rfl
@[simp] theorem State.modLoad_free (s : State) (f : Load → Load) : (State.modLoad s f).free = s.free := by unfold State.modLoad; split <;> rfl
@[simp] theorem State.modLoad_pins (s : State) (f : Load → Load) : (State.modLoad s f).pins = s.pins := by unfold State.modLoad; split <;> rfl
@[simp] theorem State.modLoad_pwr (s : State) (f : Load → Load) : (State.modLoad s f).pwr = s.pwr := by unfold State.modLoad; split <;> rfl
@[simp] theorem State.modLoad_ports (s : State) (f : Load → Load) : (State.modLoad s f).ports = s.ports := by unfold State.modLoad; split <;> rfl
@[simp] theorem State.modLoad_fns (s : State) (f : Load → Load) : (State.modLoad s f).fns = s.fns := by unfold State.modLoad; split <;> rfl
@[simp] theorem State.modLoad_queues (s : State) (f : Load → Load) : (State.modLoad s f).queues = s.queues := by unfold State.modLoad; split <;> rfl
@[simp] theorem State.modLoad_cmds (s : State) (f : Load → Load) : (State.modLoad s f).cmds = s.cmds := by unfold State.modLoad; split <;> rfl
@[simp] theorem State.modLoad_cirq (s : State) (f : Load → Load) : (State.modLoad s f).cirq = s.cirq := by unfold State.modLoad; split <;> rfl
@[simp] theorem State.modLoad_cfg (s : State) (f : Load → Load) : (State.modLoad s f).cfg = s.cfg := by unfold State.modLoad; split <;> rfl
@[simp] theorem State.modLoad_topo (s : State) (f : Load → Load) : (State.modLoad s f).topo = s.topo := by unfold State.modLoad; split <;> rfl
@[simp] theorem State.modLoad_ctxs (s : State) (f : Load → Load) : (State.modLoad s f).ctxs = s.ctxs := by unfold State.modLoad; split <;> rfl
@[simp] theorem State.modLoad_serac (s : State) (f : Load → Load) : (State.modLoad s f).serac = s.serac := by unfold State.modLoad; split <;> rfl
@[simp] theorem State.modLoad_esk (s : State) (f : Load → Load) : (State.modLoad s f).esk = s.esk := by unfold State.modLoad; split <;> rfl
@[simp] theorem State.modLoad_allocs (s : State) (f : Load → Load) : (State.modLoad s f).allocs = s.allocs := by unfold State.modLoad; split <;> rfl
@[simp] theorem State.modLoad_graphs (s : State) (f : Load → Load) : (State.modLoad s f).graphs = s.graphs := by unfold State.modLoad; split <;> rfl
@[simp] theorem State.modLoad_pools (s : State) (f : Load → Load) : (State.modLoad s f).pools = s.pools := by unfold State.modLoad; split <;> rfl
@[simp] theorem State.modLoad_silt (s : State) (f : Load → Load) : (State.modLoad s f).silt = s.silt := by unfold State.modLoad; split <;> rfl
@[simp] theorem State.modLoad_snow (s : State) (f : Load → Load) : (State.modLoad s f).snow = s.snow := by unfold State.modLoad; split <;> rfl
@[simp] theorem State.modLoad_kao (s : State) (f : Load → Load) : (State.modLoad s f).kao = s.kao := by unfold State.modLoad; split <;> rfl
@[simp] theorem State.modLoad_glz (s : State) (f : Load → Load) : (State.modLoad s f).glz = s.glz := by unfold State.modLoad; split <;> rfl
@[simp] theorem State.modLoad_varve (s : State) (f : Load → Load) : (State.modLoad s f).varve = s.varve := by unfold State.modLoad; split <;> rfl
@[simp] theorem State.modLoad_ledg (s : State) (f : Load → Load) : (State.modLoad s f).ledg = s.ledg := by unfold State.modLoad; split <;> rfl
@[simp] theorem State.modLoad_loess (s : State) (f : Load → Load) : (State.modLoad s f).loess = s.loess := by unfold State.modLoad; split <;> rfl
@[simp] theorem State.modLoad_floe (s : State) (f : Load → Load) : (State.modLoad s f).floe = s.floe := by unfold State.modLoad; split <;> rfl
@[simp] theorem State.modLoad_tarn (s : State) (f : Load → Load) : (State.modLoad s f).tarn = s.tarn := by unfold State.modLoad; split <;> rfl
@[simp] theorem State.modRecord_now (s : State) (slot : Nat) (f : RstRec → RstRec) : (State.modRecord s slot f).now = s.now := by rfl
@[simp] theorem State.modRecord_held (s : State) (slot : Nat) (f : RstRec → RstRec) : (State.modRecord s slot f).held = s.held := by rfl
@[simp] theorem State.modRecord_free (s : State) (slot : Nat) (f : RstRec → RstRec) : (State.modRecord s slot f).free = s.free := by rfl
@[simp] theorem State.modRecord_pins (s : State) (slot : Nat) (f : RstRec → RstRec) : (State.modRecord s slot f).pins = s.pins := by rfl
@[simp] theorem State.modRecord_pwr (s : State) (slot : Nat) (f : RstRec → RstRec) : (State.modRecord s slot f).pwr = s.pwr := by rfl
@[simp] theorem State.modRecord_ports (s : State) (slot : Nat) (f : RstRec → RstRec) : (State.modRecord s slot f).ports = s.ports := by rfl
@[simp] theorem State.modRecord_fns (s : State) (slot : Nat) (f : RstRec → RstRec) : (State.modRecord s slot f).fns = s.fns := by rfl
@[simp] theorem State.modRecord_queues (s : State) (slot : Nat) (f : RstRec → RstRec) : (State.modRecord s slot f).queues = s.queues := by rfl
@[simp] theorem State.modRecord_cmds (s : State) (slot : Nat) (f : RstRec → RstRec) : (State.modRecord s slot f).cmds = s.cmds := by rfl
@[simp] theorem State.modRecord_cirq (s : State) (slot : Nat) (f : RstRec → RstRec) : (State.modRecord s slot f).cirq = s.cirq := by rfl
@[simp] theorem State.modRecord_cfg (s : State) (slot : Nat) (f : RstRec → RstRec) : (State.modRecord s slot f).cfg = s.cfg := by rfl
@[simp] theorem State.modRecord_topo (s : State) (slot : Nat) (f : RstRec → RstRec) : (State.modRecord s slot f).topo = s.topo := by rfl
@[simp] theorem State.modRecord_ctxs (s : State) (slot : Nat) (f : RstRec → RstRec) : (State.modRecord s slot f).ctxs = s.ctxs := by rfl
@[simp] theorem State.modRecord_serac (s : State) (slot : Nat) (f : RstRec → RstRec) : (State.modRecord s slot f).serac = s.serac := by rfl
@[simp] theorem State.modRecord_esk (s : State) (slot : Nat) (f : RstRec → RstRec) : (State.modRecord s slot f).esk = s.esk := by rfl
@[simp] theorem State.modRecord_allocs (s : State) (slot : Nat) (f : RstRec → RstRec) : (State.modRecord s slot f).allocs = s.allocs := by rfl
@[simp] theorem State.modRecord_graphs (s : State) (slot : Nat) (f : RstRec → RstRec) : (State.modRecord s slot f).graphs = s.graphs := by rfl
@[simp] theorem State.modRecord_pools (s : State) (slot : Nat) (f : RstRec → RstRec) : (State.modRecord s slot f).pools = s.pools := by rfl
@[simp] theorem State.modRecord_firn (s : State) (slot : Nat) (f : RstRec → RstRec) : (State.modRecord s slot f).firn = s.firn := by rfl
@[simp] theorem State.modRecord_silt (s : State) (slot : Nat) (f : RstRec → RstRec) : (State.modRecord s slot f).silt = s.silt := by rfl
@[simp] theorem State.modRecord_snow (s : State) (slot : Nat) (f : RstRec → RstRec) : (State.modRecord s slot f).snow = s.snow := by rfl
@[simp] theorem State.modRecord_kao (s : State) (slot : Nat) (f : RstRec → RstRec) : (State.modRecord s slot f).kao = s.kao := by rfl
@[simp] theorem State.modRecord_glz (s : State) (slot : Nat) (f : RstRec → RstRec) : (State.modRecord s slot f).glz = s.glz := by rfl
@[simp] theorem State.modRecord_varve (s : State) (slot : Nat) (f : RstRec → RstRec) : (State.modRecord s slot f).varve = s.varve := by rfl
@[simp] theorem State.modRecord_ledg (s : State) (slot : Nat) (f : RstRec → RstRec) : (State.modRecord s slot f).ledg = s.ledg := by rfl
@[simp] theorem State.modRecord_floe (s : State) (slot : Nat) (f : RstRec → RstRec) : (State.modRecord s slot f).floe = s.floe := by rfl
@[simp] theorem State.modRecord_tarn (s : State) (slot : Nat) (f : RstRec → RstRec) : (State.modRecord s slot f).tarn = s.tarn := by rfl
@[simp] theorem State.pushHost_now (s : State) (x : HostTx) : (State.pushHost s x).now = s.now := by rfl
@[simp] theorem State.pushHost_held (s : State) (x : HostTx) : (State.pushHost s x).held = s.held := by rfl
@[simp] theorem State.pushHost_free (s : State) (x : HostTx) : (State.pushHost s x).free = s.free := by rfl
@[simp] theorem State.pushHost_pins (s : State) (x : HostTx) : (State.pushHost s x).pins = s.pins := by rfl
@[simp] theorem State.pushHost_pwr (s : State) (x : HostTx) : (State.pushHost s x).pwr = s.pwr := by rfl
@[simp] theorem State.pushHost_fns (s : State) (x : HostTx) : (State.pushHost s x).fns = s.fns := by rfl
@[simp] theorem State.pushHost_queues (s : State) (x : HostTx) : (State.pushHost s x).queues = s.queues := by rfl
@[simp] theorem State.pushHost_cmds (s : State) (x : HostTx) : (State.pushHost s x).cmds = s.cmds := by rfl
@[simp] theorem State.pushHost_cirq (s : State) (x : HostTx) : (State.pushHost s x).cirq = s.cirq := by rfl
@[simp] theorem State.pushHost_cfg (s : State) (x : HostTx) : (State.pushHost s x).cfg = s.cfg := by rfl
@[simp] theorem State.pushHost_topo (s : State) (x : HostTx) : (State.pushHost s x).topo = s.topo := by rfl
@[simp] theorem State.pushHost_ctxs (s : State) (x : HostTx) : (State.pushHost s x).ctxs = s.ctxs := by rfl
@[simp] theorem State.pushHost_serac (s : State) (x : HostTx) : (State.pushHost s x).serac = s.serac := by rfl
@[simp] theorem State.pushHost_esk (s : State) (x : HostTx) : (State.pushHost s x).esk = s.esk := by rfl
@[simp] theorem State.pushHost_allocs (s : State) (x : HostTx) : (State.pushHost s x).allocs = s.allocs := by rfl
@[simp] theorem State.pushHost_graphs (s : State) (x : HostTx) : (State.pushHost s x).graphs = s.graphs := by rfl
@[simp] theorem State.pushHost_pools (s : State) (x : HostTx) : (State.pushHost s x).pools = s.pools := by rfl
@[simp] theorem State.pushHost_firn (s : State) (x : HostTx) : (State.pushHost s x).firn = s.firn := by rfl
@[simp] theorem State.pushHost_silt (s : State) (x : HostTx) : (State.pushHost s x).silt = s.silt := by rfl
@[simp] theorem State.pushHost_snow (s : State) (x : HostTx) : (State.pushHost s x).snow = s.snow := by rfl
@[simp] theorem State.pushHost_kao (s : State) (x : HostTx) : (State.pushHost s x).kao = s.kao := by rfl
@[simp] theorem State.pushHost_glz (s : State) (x : HostTx) : (State.pushHost s x).glz = s.glz := by rfl
@[simp] theorem State.pushHost_varve (s : State) (x : HostTx) : (State.pushHost s x).varve = s.varve := by rfl
@[simp] theorem State.pushHost_ledg (s : State) (x : HostTx) : (State.pushHost s x).ledg = s.ledg := by rfl
@[simp] theorem State.pushHost_loess (s : State) (x : HostTx) : (State.pushHost s x).loess = s.loess := by rfl
@[simp] theorem State.pushHost_floe (s : State) (x : HostTx) : (State.pushHost s x).floe = s.floe := by rfl
@[simp] theorem State.pushHost_tarn (s : State) (x : HostTx) : (State.pushHost s x).tarn = s.tarn := by rfl
@[simp] theorem State.pushHosts_now (s : State) (l : List HostTx) : (State.pushHosts s l).now = s.now := by rfl
@[simp] theorem State.pushHosts_held (s : State) (l : List HostTx) : (State.pushHosts s l).held = s.held := by rfl
@[simp] theorem State.pushHosts_free (s : State) (l : List HostTx) : (State.pushHosts s l).free = s.free := by rfl
@[simp] theorem State.pushHosts_pins (s : State) (l : List HostTx) : (State.pushHosts s l).pins = s.pins := by rfl
@[simp] theorem State.pushHosts_pwr (s : State) (l : List HostTx) : (State.pushHosts s l).pwr = s.pwr := by rfl
@[simp] theorem State.pushHosts_fns (s : State) (l : List HostTx) : (State.pushHosts s l).fns = s.fns := by rfl
@[simp] theorem State.pushHosts_queues (s : State) (l : List HostTx) : (State.pushHosts s l).queues = s.queues := by rfl
@[simp] theorem State.pushHosts_cmds (s : State) (l : List HostTx) : (State.pushHosts s l).cmds = s.cmds := by rfl
@[simp] theorem State.pushHosts_cirq (s : State) (l : List HostTx) : (State.pushHosts s l).cirq = s.cirq := by rfl
@[simp] theorem State.pushHosts_cfg (s : State) (l : List HostTx) : (State.pushHosts s l).cfg = s.cfg := by rfl
@[simp] theorem State.pushHosts_topo (s : State) (l : List HostTx) : (State.pushHosts s l).topo = s.topo := by rfl
@[simp] theorem State.pushHosts_ctxs (s : State) (l : List HostTx) : (State.pushHosts s l).ctxs = s.ctxs := by rfl
@[simp] theorem State.pushHosts_serac (s : State) (l : List HostTx) : (State.pushHosts s l).serac = s.serac := by rfl
@[simp] theorem State.pushHosts_esk (s : State) (l : List HostTx) : (State.pushHosts s l).esk = s.esk := by rfl
@[simp] theorem State.pushHosts_allocs (s : State) (l : List HostTx) : (State.pushHosts s l).allocs = s.allocs := by rfl
@[simp] theorem State.pushHosts_graphs (s : State) (l : List HostTx) : (State.pushHosts s l).graphs = s.graphs := by rfl
@[simp] theorem State.pushHosts_pools (s : State) (l : List HostTx) : (State.pushHosts s l).pools = s.pools := by rfl
@[simp] theorem State.pushHosts_firn (s : State) (l : List HostTx) : (State.pushHosts s l).firn = s.firn := by rfl
@[simp] theorem State.pushHosts_silt (s : State) (l : List HostTx) : (State.pushHosts s l).silt = s.silt := by rfl
@[simp] theorem State.pushHosts_snow (s : State) (l : List HostTx) : (State.pushHosts s l).snow = s.snow := by rfl
@[simp] theorem State.pushHosts_kao (s : State) (l : List HostTx) : (State.pushHosts s l).kao = s.kao := by rfl
@[simp] theorem State.pushHosts_glz (s : State) (l : List HostTx) : (State.pushHosts s l).glz = s.glz := by rfl
@[simp] theorem State.pushHosts_varve (s : State) (l : List HostTx) : (State.pushHosts s l).varve = s.varve := by rfl
@[simp] theorem State.pushHosts_ledg (s : State) (l : List HostTx) : (State.pushHosts s l).ledg = s.ledg := by rfl
@[simp] theorem State.pushHosts_loess (s : State) (l : List HostTx) : (State.pushHosts s l).loess = s.loess := by rfl
@[simp] theorem State.pushHosts_floe (s : State) (l : List HostTx) : (State.pushHosts s l).floe = s.floe := by rfl
@[simp] theorem State.pushHosts_tarn (s : State) (l : List HostTx) : (State.pushHosts s l).tarn = s.tarn := by rfl
@[simp] theorem State.hostRead_now (s : State) (f addr len : Nat) : (State.hostRead s f addr len).now = s.now := by rfl
@[simp] theorem State.hostRead_held (s : State) (f addr len : Nat) : (State.hostRead s f addr len).held = s.held := by rfl
@[simp] theorem State.hostRead_free (s : State) (f addr len : Nat) : (State.hostRead s f addr len).free = s.free := by rfl
@[simp] theorem State.hostRead_pins (s : State) (f addr len : Nat) : (State.hostRead s f addr len).pins = s.pins := by rfl
@[simp] theorem State.hostRead_pwr (s : State) (f addr len : Nat) : (State.hostRead s f addr len).pwr = s.pwr := by rfl
@[simp] theorem State.hostRead_fns (s : State) (f addr len : Nat) : (State.hostRead s f addr len).fns = s.fns := by rfl
@[simp] theorem State.hostRead_queues (s : State) (f addr len : Nat) : (State.hostRead s f addr len).queues = s.queues := by rfl
@[simp] theorem State.hostRead_cmds (s : State) (f addr len : Nat) : (State.hostRead s f addr len).cmds = s.cmds := by rfl
@[simp] theorem State.hostRead_cirq (s : State) (f addr len : Nat) : (State.hostRead s f addr len).cirq = s.cirq := by rfl
@[simp] theorem State.hostRead_cfg (s : State) (f addr len : Nat) : (State.hostRead s f addr len).cfg = s.cfg := by rfl
@[simp] theorem State.hostRead_topo (s : State) (f addr len : Nat) : (State.hostRead s f addr len).topo = s.topo := by rfl
@[simp] theorem State.hostRead_ctxs (s : State) (f addr len : Nat) : (State.hostRead s f addr len).ctxs = s.ctxs := by rfl
@[simp] theorem State.hostRead_serac (s : State) (f addr len : Nat) : (State.hostRead s f addr len).serac = s.serac := by rfl
@[simp] theorem State.hostRead_esk (s : State) (f addr len : Nat) : (State.hostRead s f addr len).esk = s.esk := by rfl
@[simp] theorem State.hostRead_allocs (s : State) (f addr len : Nat) : (State.hostRead s f addr len).allocs = s.allocs := by rfl
@[simp] theorem State.hostRead_graphs (s : State) (f addr len : Nat) : (State.hostRead s f addr len).graphs = s.graphs := by rfl
@[simp] theorem State.hostRead_pools (s : State) (f addr len : Nat) : (State.hostRead s f addr len).pools = s.pools := by rfl
@[simp] theorem State.hostRead_firn (s : State) (f addr len : Nat) : (State.hostRead s f addr len).firn = s.firn := by rfl
@[simp] theorem State.hostRead_silt (s : State) (f addr len : Nat) : (State.hostRead s f addr len).silt = s.silt := by rfl
@[simp] theorem State.hostRead_snow (s : State) (f addr len : Nat) : (State.hostRead s f addr len).snow = s.snow := by rfl
@[simp] theorem State.hostRead_kao (s : State) (f addr len : Nat) : (State.hostRead s f addr len).kao = s.kao := by rfl
@[simp] theorem State.hostRead_glz (s : State) (f addr len : Nat) : (State.hostRead s f addr len).glz = s.glz := by rfl
@[simp] theorem State.hostRead_varve (s : State) (f addr len : Nat) : (State.hostRead s f addr len).varve = s.varve := by rfl
@[simp] theorem State.hostRead_ledg (s : State) (f addr len : Nat) : (State.hostRead s f addr len).ledg = s.ledg := by rfl
@[simp] theorem State.hostRead_loess (s : State) (f addr len : Nat) : (State.hostRead s f addr len).loess = s.loess := by rfl
@[simp] theorem State.hostRead_floe (s : State) (f addr len : Nat) : (State.hostRead s f addr len).floe = s.floe := by rfl
@[simp] theorem State.hostRead_tarn (s : State) (f addr len : Nat) : (State.hostRead s f addr len).tarn = s.tarn := by rfl
@[simp] theorem State.report_now (s : State) (r : Nat) (st : Status) : (State.report s r st).now = s.now := by rfl
@[simp] theorem State.report_held (s : State) (r : Nat) (st : Status) : (State.report s r st).held = s.held := by rfl
@[simp] theorem State.report_free (s : State) (r : Nat) (st : Status) : (State.report s r st).free = s.free := by rfl
@[simp] theorem State.report_pins (s : State) (r : Nat) (st : Status) : (State.report s r st).pins = s.pins := by rfl
@[simp] theorem State.report_pwr (s : State) (r : Nat) (st : Status) : (State.report s r st).pwr = s.pwr := by rfl
@[simp] theorem State.report_ports (s : State) (r : Nat) (st : Status) : (State.report s r st).ports = s.ports := by rfl
@[simp] theorem State.report_fns (s : State) (r : Nat) (st : Status) : (State.report s r st).fns = s.fns := by rfl
@[simp] theorem State.report_queues (s : State) (r : Nat) (st : Status) : (State.report s r st).queues = s.queues := by rfl
@[simp] theorem State.report_cirq (s : State) (r : Nat) (st : Status) : (State.report s r st).cirq = s.cirq := by rfl
@[simp] theorem State.report_cfg (s : State) (r : Nat) (st : Status) : (State.report s r st).cfg = s.cfg := by rfl
@[simp] theorem State.report_topo (s : State) (r : Nat) (st : Status) : (State.report s r st).topo = s.topo := by rfl
@[simp] theorem State.report_ctxs (s : State) (r : Nat) (st : Status) : (State.report s r st).ctxs = s.ctxs := by rfl
@[simp] theorem State.report_serac (s : State) (r : Nat) (st : Status) : (State.report s r st).serac = s.serac := by rfl
@[simp] theorem State.report_esk (s : State) (r : Nat) (st : Status) : (State.report s r st).esk = s.esk := by rfl
@[simp] theorem State.report_allocs (s : State) (r : Nat) (st : Status) : (State.report s r st).allocs = s.allocs := by rfl
@[simp] theorem State.report_graphs (s : State) (r : Nat) (st : Status) : (State.report s r st).graphs = s.graphs := by rfl
@[simp] theorem State.report_pools (s : State) (r : Nat) (st : Status) : (State.report s r st).pools = s.pools := by rfl
@[simp] theorem State.report_firn (s : State) (r : Nat) (st : Status) : (State.report s r st).firn = s.firn := by rfl
@[simp] theorem State.report_silt (s : State) (r : Nat) (st : Status) : (State.report s r st).silt = s.silt := by rfl
@[simp] theorem State.report_snow (s : State) (r : Nat) (st : Status) : (State.report s r st).snow = s.snow := by rfl
@[simp] theorem State.report_kao (s : State) (r : Nat) (st : Status) : (State.report s r st).kao = s.kao := by rfl
@[simp] theorem State.report_glz (s : State) (r : Nat) (st : Status) : (State.report s r st).glz = s.glz := by rfl
@[simp] theorem State.report_varve (s : State) (r : Nat) (st : Status) : (State.report s r st).varve = s.varve := by rfl
@[simp] theorem State.report_ledg (s : State) (r : Nat) (st : Status) : (State.report s r st).ledg = s.ledg := by rfl
@[simp] theorem State.report_loess (s : State) (r : Nat) (st : Status) : (State.report s r st).loess = s.loess := by rfl
@[simp] theorem State.report_floe (s : State) (r : Nat) (st : Status) : (State.report s r st).floe = s.floe := by rfl
@[simp] theorem State.report_tarn (s : State) (r : Nat) (st : Status) : (State.report s r st).tarn = s.tarn := by rfl
@[simp] theorem State.park_now (s : State) (r : Nat) : (State.park s r).now = s.now := by rfl
@[simp] theorem State.park_held (s : State) (r : Nat) : (State.park s r).held = s.held := by rfl
@[simp] theorem State.park_free (s : State) (r : Nat) : (State.park s r).free = s.free := by rfl
@[simp] theorem State.park_pins (s : State) (r : Nat) : (State.park s r).pins = s.pins := by rfl
@[simp] theorem State.park_pwr (s : State) (r : Nat) : (State.park s r).pwr = s.pwr := by rfl
@[simp] theorem State.park_ports (s : State) (r : Nat) : (State.park s r).ports = s.ports := by rfl
@[simp] theorem State.park_fns (s : State) (r : Nat) : (State.park s r).fns = s.fns := by rfl
@[simp] theorem State.park_queues (s : State) (r : Nat) : (State.park s r).queues = s.queues := by rfl
@[simp] theorem State.park_cirq (s : State) (r : Nat) : (State.park s r).cirq = s.cirq := by rfl
@[simp] theorem State.park_cfg (s : State) (r : Nat) : (State.park s r).cfg = s.cfg := by rfl
@[simp] theorem State.park_topo (s : State) (r : Nat) : (State.park s r).topo = s.topo := by rfl
@[simp] theorem State.park_ctxs (s : State) (r : Nat) : (State.park s r).ctxs = s.ctxs := by rfl
@[simp] theorem State.park_serac (s : State) (r : Nat) : (State.park s r).serac = s.serac := by rfl
@[simp] theorem State.park_esk (s : State) (r : Nat) : (State.park s r).esk = s.esk := by rfl
@[simp] theorem State.park_allocs (s : State) (r : Nat) : (State.park s r).allocs = s.allocs := by rfl
@[simp] theorem State.park_graphs (s : State) (r : Nat) : (State.park s r).graphs = s.graphs := by rfl
@[simp] theorem State.park_pools (s : State) (r : Nat) : (State.park s r).pools = s.pools := by rfl
@[simp] theorem State.park_firn (s : State) (r : Nat) : (State.park s r).firn = s.firn := by rfl
@[simp] theorem State.park_silt (s : State) (r : Nat) : (State.park s r).silt = s.silt := by rfl
@[simp] theorem State.park_snow (s : State) (r : Nat) : (State.park s r).snow = s.snow := by rfl
@[simp] theorem State.park_kao (s : State) (r : Nat) : (State.park s r).kao = s.kao := by rfl
@[simp] theorem State.park_glz (s : State) (r : Nat) : (State.park s r).glz = s.glz := by rfl
@[simp] theorem State.park_varve (s : State) (r : Nat) : (State.park s r).varve = s.varve := by rfl
@[simp] theorem State.park_ledg (s : State) (r : Nat) : (State.park s r).ledg = s.ledg := by rfl
@[simp] theorem State.park_loess (s : State) (r : Nat) : (State.park s r).loess = s.loess := by rfl
@[simp] theorem State.park_floe (s : State) (r : Nat) : (State.park s r).floe = s.floe := by rfl
@[simp] theorem State.park_tarn (s : State) (r : Nat) : (State.park s r).tarn = s.tarn := by rfl
@[simp] theorem State.handOver_now (s : State) (r : Nat) : (State.handOver s r).now = s.now := by rfl
@[simp] theorem State.handOver_held (s : State) (r : Nat) : (State.handOver s r).held = s.held := by rfl
@[simp] theorem State.handOver_free (s : State) (r : Nat) : (State.handOver s r).free = s.free := by rfl
@[simp] theorem State.handOver_pins (s : State) (r : Nat) : (State.handOver s r).pins = s.pins := by rfl
@[simp] theorem State.handOver_pwr (s : State) (r : Nat) : (State.handOver s r).pwr = s.pwr := by rfl
@[simp] theorem State.handOver_ports (s : State) (r : Nat) : (State.handOver s r).ports = s.ports := by rfl
@[simp] theorem State.handOver_fns (s : State) (r : Nat) : (State.handOver s r).fns = s.fns := by rfl
@[simp] theorem State.handOver_queues (s : State) (r : Nat) : (State.handOver s r).queues = s.queues := by rfl
@[simp] theorem State.handOver_cirq (s : State) (r : Nat) : (State.handOver s r).cirq = s.cirq := by rfl
@[simp] theorem State.handOver_cfg (s : State) (r : Nat) : (State.handOver s r).cfg = s.cfg := by rfl
@[simp] theorem State.handOver_topo (s : State) (r : Nat) : (State.handOver s r).topo = s.topo := by rfl
@[simp] theorem State.handOver_ctxs (s : State) (r : Nat) : (State.handOver s r).ctxs = s.ctxs := by rfl
@[simp] theorem State.handOver_serac (s : State) (r : Nat) : (State.handOver s r).serac = s.serac := by rfl
@[simp] theorem State.handOver_esk (s : State) (r : Nat) : (State.handOver s r).esk = s.esk := by rfl
@[simp] theorem State.handOver_allocs (s : State) (r : Nat) : (State.handOver s r).allocs = s.allocs := by rfl
@[simp] theorem State.handOver_graphs (s : State) (r : Nat) : (State.handOver s r).graphs = s.graphs := by rfl
@[simp] theorem State.handOver_pools (s : State) (r : Nat) : (State.handOver s r).pools = s.pools := by rfl
@[simp] theorem State.handOver_firn (s : State) (r : Nat) : (State.handOver s r).firn = s.firn := by rfl
@[simp] theorem State.handOver_silt (s : State) (r : Nat) : (State.handOver s r).silt = s.silt := by rfl
@[simp] theorem State.handOver_snow (s : State) (r : Nat) : (State.handOver s r).snow = s.snow := by rfl
@[simp] theorem State.handOver_kao (s : State) (r : Nat) : (State.handOver s r).kao = s.kao := by rfl
@[simp] theorem State.handOver_glz (s : State) (r : Nat) : (State.handOver s r).glz = s.glz := by rfl
@[simp] theorem State.handOver_varve (s : State) (r : Nat) : (State.handOver s r).varve = s.varve := by rfl
@[simp] theorem State.handOver_ledg (s : State) (r : Nat) : (State.handOver s r).ledg = s.ledg := by rfl
@[simp] theorem State.handOver_loess (s : State) (r : Nat) : (State.handOver s r).loess = s.loess := by rfl
@[simp] theorem State.handOver_floe (s : State) (r : Nat) : (State.handOver s r).floe = s.floe := by rfl
@[simp] theorem State.handOver_tarn (s : State) (r : Nat) : (State.handOver s r).tarn = s.tarn := by rfl
@[simp] theorem State.commit_now (s : State) (r : Nat) : (State.commit s r).now = s.now := by rfl
@[simp] theorem State.commit_held (s : State) (r : Nat) : (State.commit s r).held = s.held := by rfl
@[simp] theorem State.commit_free (s : State) (r : Nat) : (State.commit s r).free = s.free := by rfl
@[simp] theorem State.commit_pins (s : State) (r : Nat) : (State.commit s r).pins = s.pins := by rfl
@[simp] theorem State.commit_pwr (s : State) (r : Nat) : (State.commit s r).pwr = s.pwr := by rfl
@[simp] theorem State.commit_ports (s : State) (r : Nat) : (State.commit s r).ports = s.ports := by rfl
@[simp] theorem State.commit_fns (s : State) (r : Nat) : (State.commit s r).fns = s.fns := by rfl
@[simp] theorem State.commit_queues (s : State) (r : Nat) : (State.commit s r).queues = s.queues := by rfl
@[simp] theorem State.commit_cirq (s : State) (r : Nat) : (State.commit s r).cirq = s.cirq := by rfl
@[simp] theorem State.commit_cfg (s : State) (r : Nat) : (State.commit s r).cfg = s.cfg := by rfl
@[simp] theorem State.commit_topo (s : State) (r : Nat) : (State.commit s r).topo = s.topo := by rfl
@[simp] theorem State.commit_ctxs (s : State) (r : Nat) : (State.commit s r).ctxs = s.ctxs := by rfl
@[simp] theorem State.commit_serac (s : State) (r : Nat) : (State.commit s r).serac = s.serac := by rfl
@[simp] theorem State.commit_esk (s : State) (r : Nat) : (State.commit s r).esk = s.esk := by rfl
@[simp] theorem State.commit_allocs (s : State) (r : Nat) : (State.commit s r).allocs = s.allocs := by rfl
@[simp] theorem State.commit_graphs (s : State) (r : Nat) : (State.commit s r).graphs = s.graphs := by rfl
@[simp] theorem State.commit_pools (s : State) (r : Nat) : (State.commit s r).pools = s.pools := by rfl
@[simp] theorem State.commit_firn (s : State) (r : Nat) : (State.commit s r).firn = s.firn := by rfl
@[simp] theorem State.commit_silt (s : State) (r : Nat) : (State.commit s r).silt = s.silt := by rfl
@[simp] theorem State.commit_snow (s : State) (r : Nat) : (State.commit s r).snow = s.snow := by rfl
@[simp] theorem State.commit_kao (s : State) (r : Nat) : (State.commit s r).kao = s.kao := by rfl
@[simp] theorem State.commit_glz (s : State) (r : Nat) : (State.commit s r).glz = s.glz := by rfl
@[simp] theorem State.commit_varve (s : State) (r : Nat) : (State.commit s r).varve = s.varve := by rfl
@[simp] theorem State.commit_ledg (s : State) (r : Nat) : (State.commit s r).ledg = s.ledg := by rfl
@[simp] theorem State.commit_loess (s : State) (r : Nat) : (State.commit s r).loess = s.loess := by rfl
@[simp] theorem State.commit_floe (s : State) (r : Nat) : (State.commit s r).floe = s.floe := by rfl
@[simp] theorem State.commit_tarn (s : State) (r : Nat) : (State.commit s r).tarn = s.tarn := by rfl
@[simp] theorem State.begun_now (s : State) (r : Nat) : (State.begun s r).now = s.now := by rfl
@[simp] theorem State.begun_held (s : State) (r : Nat) : (State.begun s r).held = s.held := by rfl
@[simp] theorem State.begun_free (s : State) (r : Nat) : (State.begun s r).free = s.free := by rfl
@[simp] theorem State.begun_pins (s : State) (r : Nat) : (State.begun s r).pins = s.pins := by rfl
@[simp] theorem State.begun_pwr (s : State) (r : Nat) : (State.begun s r).pwr = s.pwr := by rfl
@[simp] theorem State.begun_ports (s : State) (r : Nat) : (State.begun s r).ports = s.ports := by rfl
@[simp] theorem State.begun_fns (s : State) (r : Nat) : (State.begun s r).fns = s.fns := by rfl
@[simp] theorem State.begun_queues (s : State) (r : Nat) : (State.begun s r).queues = s.queues := by rfl
@[simp] theorem State.begun_cirq (s : State) (r : Nat) : (State.begun s r).cirq = s.cirq := by rfl
@[simp] theorem State.begun_cfg (s : State) (r : Nat) : (State.begun s r).cfg = s.cfg := by rfl
@[simp] theorem State.begun_topo (s : State) (r : Nat) : (State.begun s r).topo = s.topo := by rfl
@[simp] theorem State.begun_ctxs (s : State) (r : Nat) : (State.begun s r).ctxs = s.ctxs := by rfl
@[simp] theorem State.begun_serac (s : State) (r : Nat) : (State.begun s r).serac = s.serac := by rfl
@[simp] theorem State.begun_esk (s : State) (r : Nat) : (State.begun s r).esk = s.esk := by rfl
@[simp] theorem State.begun_allocs (s : State) (r : Nat) : (State.begun s r).allocs = s.allocs := by rfl
@[simp] theorem State.begun_graphs (s : State) (r : Nat) : (State.begun s r).graphs = s.graphs := by rfl
@[simp] theorem State.begun_pools (s : State) (r : Nat) : (State.begun s r).pools = s.pools := by rfl
@[simp] theorem State.begun_firn (s : State) (r : Nat) : (State.begun s r).firn = s.firn := by rfl
@[simp] theorem State.begun_silt (s : State) (r : Nat) : (State.begun s r).silt = s.silt := by rfl
@[simp] theorem State.begun_snow (s : State) (r : Nat) : (State.begun s r).snow = s.snow := by rfl
@[simp] theorem State.begun_kao (s : State) (r : Nat) : (State.begun s r).kao = s.kao := by rfl
@[simp] theorem State.begun_glz (s : State) (r : Nat) : (State.begun s r).glz = s.glz := by rfl
@[simp] theorem State.begun_varve (s : State) (r : Nat) : (State.begun s r).varve = s.varve := by rfl
@[simp] theorem State.begun_ledg (s : State) (r : Nat) : (State.begun s r).ledg = s.ledg := by rfl
@[simp] theorem State.begun_loess (s : State) (r : Nat) : (State.begun s r).loess = s.loess := by rfl
@[simp] theorem State.begun_floe (s : State) (r : Nat) : (State.begun s r).floe = s.floe := by rfl
@[simp] theorem State.begun_tarn (s : State) (r : Nat) : (State.begun s r).tarn = s.tarn := by rfl
@[simp] theorem State.drawn_now (s : State) : (State.drawn s).now = s.now := by rfl
@[simp] theorem State.drawn_held (s : State) : (State.drawn s).held = s.held := by rfl
@[simp] theorem State.drawn_pins (s : State) : (State.drawn s).pins = s.pins := by rfl
@[simp] theorem State.drawn_pwr (s : State) : (State.drawn s).pwr = s.pwr := by rfl
@[simp] theorem State.drawn_ports (s : State) : (State.drawn s).ports = s.ports := by rfl
@[simp] theorem State.drawn_fns (s : State) : (State.drawn s).fns = s.fns := by rfl
@[simp] theorem State.drawn_queues (s : State) : (State.drawn s).queues = s.queues := by rfl
@[simp] theorem State.drawn_cmds (s : State) : (State.drawn s).cmds = s.cmds := by rfl
@[simp] theorem State.drawn_cirq (s : State) : (State.drawn s).cirq = s.cirq := by rfl
@[simp] theorem State.drawn_cfg (s : State) : (State.drawn s).cfg = s.cfg := by rfl
@[simp] theorem State.drawn_topo (s : State) : (State.drawn s).topo = s.topo := by rfl
@[simp] theorem State.drawn_ctxs (s : State) : (State.drawn s).ctxs = s.ctxs := by rfl
@[simp] theorem State.drawn_serac (s : State) : (State.drawn s).serac = s.serac := by rfl
@[simp] theorem State.drawn_esk (s : State) : (State.drawn s).esk = s.esk := by rfl
@[simp] theorem State.drawn_allocs (s : State) : (State.drawn s).allocs = s.allocs := by rfl
@[simp] theorem State.drawn_graphs (s : State) : (State.drawn s).graphs = s.graphs := by rfl
@[simp] theorem State.drawn_pools (s : State) : (State.drawn s).pools = s.pools := by rfl
@[simp] theorem State.drawn_firn (s : State) : (State.drawn s).firn = s.firn := by rfl
@[simp] theorem State.drawn_silt (s : State) : (State.drawn s).silt = s.silt := by rfl
@[simp] theorem State.drawn_snow (s : State) : (State.drawn s).snow = s.snow := by rfl
@[simp] theorem State.drawn_kao (s : State) : (State.drawn s).kao = s.kao := by rfl
@[simp] theorem State.drawn_glz (s : State) : (State.drawn s).glz = s.glz := by rfl
@[simp] theorem State.drawn_varve (s : State) : (State.drawn s).varve = s.varve := by rfl
@[simp] theorem State.drawn_ledg (s : State) : (State.drawn s).ledg = s.ledg := by rfl
@[simp] theorem State.drawn_loess (s : State) : (State.drawn s).loess = s.loess := by rfl
@[simp] theorem State.drawn_floe (s : State) : (State.drawn s).floe = s.floe := by rfl
@[simp] theorem State.drawn_tarn (s : State) : (State.drawn s).tarn = s.tarn := by rfl
@[simp] theorem State.setErr_now (s : State) (b : Nat) : (State.setErr s b).now = s.now := by rfl
@[simp] theorem State.setErr_held (s : State) (b : Nat) : (State.setErr s b).held = s.held := by rfl
@[simp] theorem State.setErr_free (s : State) (b : Nat) : (State.setErr s b).free = s.free := by rfl
@[simp] theorem State.setErr_pins (s : State) (b : Nat) : (State.setErr s b).pins = s.pins := by rfl
@[simp] theorem State.setErr_pwr (s : State) (b : Nat) : (State.setErr s b).pwr = s.pwr := by rfl
@[simp] theorem State.setErr_ports (s : State) (b : Nat) : (State.setErr s b).ports = s.ports := by rfl
@[simp] theorem State.setErr_fns (s : State) (b : Nat) : (State.setErr s b).fns = s.fns := by rfl
@[simp] theorem State.setErr_queues (s : State) (b : Nat) : (State.setErr s b).queues = s.queues := by rfl
@[simp] theorem State.setErr_cmds (s : State) (b : Nat) : (State.setErr s b).cmds = s.cmds := by rfl
@[simp] theorem State.setErr_cirq (s : State) (b : Nat) : (State.setErr s b).cirq = s.cirq := by rfl
@[simp] theorem State.setErr_cfg (s : State) (b : Nat) : (State.setErr s b).cfg = s.cfg := by rfl
@[simp] theorem State.setErr_topo (s : State) (b : Nat) : (State.setErr s b).topo = s.topo := by rfl
@[simp] theorem State.setErr_ctxs (s : State) (b : Nat) : (State.setErr s b).ctxs = s.ctxs := by rfl
@[simp] theorem State.setErr_serac (s : State) (b : Nat) : (State.setErr s b).serac = s.serac := by rfl
@[simp] theorem State.setErr_esk (s : State) (b : Nat) : (State.setErr s b).esk = s.esk := by rfl
@[simp] theorem State.setErr_allocs (s : State) (b : Nat) : (State.setErr s b).allocs = s.allocs := by rfl
@[simp] theorem State.setErr_graphs (s : State) (b : Nat) : (State.setErr s b).graphs = s.graphs := by rfl
@[simp] theorem State.setErr_pools (s : State) (b : Nat) : (State.setErr s b).pools = s.pools := by rfl
@[simp] theorem State.setErr_firn (s : State) (b : Nat) : (State.setErr s b).firn = s.firn := by rfl
@[simp] theorem State.setErr_silt (s : State) (b : Nat) : (State.setErr s b).silt = s.silt := by rfl
@[simp] theorem State.setErr_snow (s : State) (b : Nat) : (State.setErr s b).snow = s.snow := by rfl
@[simp] theorem State.setErr_kao (s : State) (b : Nat) : (State.setErr s b).kao = s.kao := by rfl
@[simp] theorem State.setErr_glz (s : State) (b : Nat) : (State.setErr s b).glz = s.glz := by rfl
@[simp] theorem State.setErr_varve (s : State) (b : Nat) : (State.setErr s b).varve = s.varve := by rfl
@[simp] theorem State.setErr_ledg (s : State) (b : Nat) : (State.setErr s b).ledg = s.ledg := by rfl
@[simp] theorem State.setErr_floe (s : State) (b : Nat) : (State.setErr s b).floe = s.floe := by rfl
@[simp] theorem State.setErr_tarn (s : State) (b : Nat) : (State.setErr s b).tarn = s.tarn := by rfl
@[simp] theorem State.progress_now (s : State) (e : Nat) : (State.progress s e).now = s.now := by rfl
@[simp] theorem State.progress_held (s : State) (e : Nat) : (State.progress s e).held = s.held := by rfl
@[simp] theorem State.progress_free (s : State) (e : Nat) : (State.progress s e).free = s.free := by rfl
@[simp] theorem State.progress_pins (s : State) (e : Nat) : (State.progress s e).pins = s.pins := by rfl
@[simp] theorem State.progress_ports (s : State) (e : Nat) : (State.progress s e).ports = s.ports := by rfl
@[simp] theorem State.progress_fns (s : State) (e : Nat) : (State.progress s e).fns = s.fns := by rfl
@[simp] theorem State.progress_queues (s : State) (e : Nat) : (State.progress s e).queues = s.queues := by rfl
@[simp] theorem State.progress_cmds (s : State) (e : Nat) : (State.progress s e).cmds = s.cmds := by rfl
@[simp] theorem State.progress_cirq (s : State) (e : Nat) : (State.progress s e).cirq = s.cirq := by rfl
@[simp] theorem State.progress_cfg (s : State) (e : Nat) : (State.progress s e).cfg = s.cfg := by rfl
@[simp] theorem State.progress_topo (s : State) (e : Nat) : (State.progress s e).topo = s.topo := by rfl
@[simp] theorem State.progress_ctxs (s : State) (e : Nat) : (State.progress s e).ctxs = s.ctxs := by rfl
@[simp] theorem State.progress_serac (s : State) (e : Nat) : (State.progress s e).serac = s.serac := by rfl
@[simp] theorem State.progress_esk (s : State) (e : Nat) : (State.progress s e).esk = s.esk := by rfl
@[simp] theorem State.progress_allocs (s : State) (e : Nat) : (State.progress s e).allocs = s.allocs := by rfl
@[simp] theorem State.progress_graphs (s : State) (e : Nat) : (State.progress s e).graphs = s.graphs := by rfl
@[simp] theorem State.progress_pools (s : State) (e : Nat) : (State.progress s e).pools = s.pools := by rfl
@[simp] theorem State.progress_firn (s : State) (e : Nat) : (State.progress s e).firn = s.firn := by rfl
@[simp] theorem State.progress_silt (s : State) (e : Nat) : (State.progress s e).silt = s.silt := by rfl
@[simp] theorem State.progress_snow (s : State) (e : Nat) : (State.progress s e).snow = s.snow := by rfl
@[simp] theorem State.progress_kao (s : State) (e : Nat) : (State.progress s e).kao = s.kao := by rfl
@[simp] theorem State.progress_glz (s : State) (e : Nat) : (State.progress s e).glz = s.glz := by rfl
@[simp] theorem State.progress_varve (s : State) (e : Nat) : (State.progress s e).varve = s.varve := by rfl
@[simp] theorem State.progress_ledg (s : State) (e : Nat) : (State.progress s e).ledg = s.ledg := by rfl
@[simp] theorem State.progress_floe (s : State) (e : Nat) : (State.progress s e).floe = s.floe := by rfl
@[simp] theorem State.progress_tarn (s : State) (e : Nat) : (State.progress s e).tarn = s.tarn := by rfl
@[simp] theorem State.pulse_now (s : State) (n : Nat) : (State.pulse s n).now = s.now := by unfold State.pulse; dsimp only; (repeat' split) <;> rfl
@[simp] theorem State.pulse_held (s : State) (n : Nat) : (State.pulse s n).held = s.held := by unfold State.pulse; dsimp only; (repeat' split) <;> rfl
@[simp] theorem State.pulse_free (s : State) (n : Nat) : (State.pulse s n).free = s.free := by unfold State.pulse; dsimp only; (repeat' split) <;> rfl
@[simp] theorem State.pulse_pins (s : State) (n : Nat) : (State.pulse s n).pins = s.pins := by unfold State.pulse; dsimp only; (repeat' split) <;> rfl
@[simp] theorem State.pulse_pwr (s : State) (n : Nat) : (State.pulse s n).pwr = s.pwr := by unfold State.pulse; dsimp only; (repeat' split) <;> rfl
@[simp] theorem State.pulse_ports (s : State) (n : Nat) : (State.pulse s n).ports = s.ports := by unfold State.pulse; dsimp only; (repeat' split) <;> rfl
@[simp] theorem State.pulse_fns (s : State) (n : Nat) : (State.pulse s n).fns = s.fns := by unfold State.pulse; dsimp only; (repeat' split) <;> rfl
@[simp] theorem State.pulse_queues (s : State) (n : Nat) : (State.pulse s n).queues = s.queues := by unfold State.pulse; dsimp only; (repeat' split) <;> rfl
@[simp] theorem State.pulse_cmds (s : State) (n : Nat) : (State.pulse s n).cmds = s.cmds := by unfold State.pulse; dsimp only; (repeat' split) <;> rfl
@[simp] theorem State.pulse_cirq (s : State) (n : Nat) : (State.pulse s n).cirq = s.cirq := by unfold State.pulse; dsimp only; (repeat' split) <;> rfl
@[simp] theorem State.pulse_cfg (s : State) (n : Nat) : (State.pulse s n).cfg = s.cfg := by unfold State.pulse; dsimp only; (repeat' split) <;> rfl
@[simp] theorem State.pulse_topo (s : State) (n : Nat) : (State.pulse s n).topo = s.topo := by unfold State.pulse; dsimp only; (repeat' split) <;> rfl
@[simp] theorem State.pulse_ctxs (s : State) (n : Nat) : (State.pulse s n).ctxs = s.ctxs := by unfold State.pulse; dsimp only; (repeat' split) <;> rfl
@[simp] theorem State.pulse_serac (s : State) (n : Nat) : (State.pulse s n).serac = s.serac := by unfold State.pulse; dsimp only; (repeat' split) <;> rfl
@[simp] theorem State.pulse_esk (s : State) (n : Nat) : (State.pulse s n).esk = s.esk := by unfold State.pulse; dsimp only; (repeat' split) <;> rfl
@[simp] theorem State.pulse_allocs (s : State) (n : Nat) : (State.pulse s n).allocs = s.allocs := by unfold State.pulse; dsimp only; (repeat' split) <;> rfl
@[simp] theorem State.pulse_graphs (s : State) (n : Nat) : (State.pulse s n).graphs = s.graphs := by unfold State.pulse; dsimp only; (repeat' split) <;> rfl
@[simp] theorem State.pulse_pools (s : State) (n : Nat) : (State.pulse s n).pools = s.pools := by unfold State.pulse; dsimp only; (repeat' split) <;> rfl
@[simp] theorem State.pulse_firn (s : State) (n : Nat) : (State.pulse s n).firn = s.firn := by unfold State.pulse; dsimp only; (repeat' split) <;> rfl
@[simp] theorem State.pulse_silt (s : State) (n : Nat) : (State.pulse s n).silt = s.silt := by unfold State.pulse; dsimp only; (repeat' split) <;> rfl
@[simp] theorem State.pulse_snow (s : State) (n : Nat) : (State.pulse s n).snow = s.snow := by unfold State.pulse; dsimp only; (repeat' split) <;> rfl
@[simp] theorem State.pulse_kao (s : State) (n : Nat) : (State.pulse s n).kao = s.kao := by unfold State.pulse; dsimp only; (repeat' split) <;> rfl
@[simp] theorem State.pulse_glz (s : State) (n : Nat) : (State.pulse s n).glz = s.glz := by unfold State.pulse; dsimp only; (repeat' split) <;> rfl
@[simp] theorem State.pulse_varve (s : State) (n : Nat) : (State.pulse s n).varve = s.varve := by unfold State.pulse; dsimp only; (repeat' split) <;> rfl
@[simp] theorem State.pulse_ledg (s : State) (n : Nat) : (State.pulse s n).ledg = s.ledg := by unfold State.pulse; dsimp only; (repeat' split) <;> rfl
@[simp] theorem State.pulse_loess (s : State) (n : Nat) : (State.pulse s n).loess = s.loess := by unfold State.pulse; dsimp only; (repeat' split) <;> rfl
@[simp] theorem State.pulse_floe (s : State) (n : Nat) : (State.pulse s n).floe = s.floe := by unfold State.pulse; dsimp only; (repeat' split) <;> rfl
@[simp] theorem State.postEvent_now (s : State) (f : Nat) (e : Event) (param : Nat) : (State.postEvent s f e param).now = s.now := by rfl
@[simp] theorem State.postEvent_held (s : State) (f : Nat) (e : Event) (param : Nat) : (State.postEvent s f e param).held = s.held := by rfl
@[simp] theorem State.postEvent_free (s : State) (f : Nat) (e : Event) (param : Nat) : (State.postEvent s f e param).free = s.free := by rfl
@[simp] theorem State.postEvent_pins (s : State) (f : Nat) (e : Event) (param : Nat) : (State.postEvent s f e param).pins = s.pins := by rfl
@[simp] theorem State.postEvent_pwr (s : State) (f : Nat) (e : Event) (param : Nat) : (State.postEvent s f e param).pwr = s.pwr := by rfl
@[simp] theorem State.postEvent_ports (s : State) (f : Nat) (e : Event) (param : Nat) : (State.postEvent s f e param).ports = s.ports := by rfl
@[simp] theorem State.postEvent_queues (s : State) (f : Nat) (e : Event) (param : Nat) : (State.postEvent s f e param).queues = s.queues := by rfl
@[simp] theorem State.postEvent_cmds (s : State) (f : Nat) (e : Event) (param : Nat) : (State.postEvent s f e param).cmds = s.cmds := by rfl
@[simp] theorem State.postEvent_cirq (s : State) (f : Nat) (e : Event) (param : Nat) : (State.postEvent s f e param).cirq = s.cirq := by rfl
@[simp] theorem State.postEvent_cfg (s : State) (f : Nat) (e : Event) (param : Nat) : (State.postEvent s f e param).cfg = s.cfg := by rfl
@[simp] theorem State.postEvent_topo (s : State) (f : Nat) (e : Event) (param : Nat) : (State.postEvent s f e param).topo = s.topo := by rfl
@[simp] theorem State.postEvent_ctxs (s : State) (f : Nat) (e : Event) (param : Nat) : (State.postEvent s f e param).ctxs = s.ctxs := by rfl
@[simp] theorem State.postEvent_serac (s : State) (f : Nat) (e : Event) (param : Nat) : (State.postEvent s f e param).serac = s.serac := by rfl
@[simp] theorem State.postEvent_esk (s : State) (f : Nat) (e : Event) (param : Nat) : (State.postEvent s f e param).esk = s.esk := by rfl
@[simp] theorem State.postEvent_allocs (s : State) (f : Nat) (e : Event) (param : Nat) : (State.postEvent s f e param).allocs = s.allocs := by rfl
@[simp] theorem State.postEvent_graphs (s : State) (f : Nat) (e : Event) (param : Nat) : (State.postEvent s f e param).graphs = s.graphs := by rfl
@[simp] theorem State.postEvent_pools (s : State) (f : Nat) (e : Event) (param : Nat) : (State.postEvent s f e param).pools = s.pools := by rfl
@[simp] theorem State.postEvent_firn (s : State) (f : Nat) (e : Event) (param : Nat) : (State.postEvent s f e param).firn = s.firn := by rfl
@[simp] theorem State.postEvent_silt (s : State) (f : Nat) (e : Event) (param : Nat) : (State.postEvent s f e param).silt = s.silt := by rfl
@[simp] theorem State.postEvent_snow (s : State) (f : Nat) (e : Event) (param : Nat) : (State.postEvent s f e param).snow = s.snow := by rfl
@[simp] theorem State.postEvent_kao (s : State) (f : Nat) (e : Event) (param : Nat) : (State.postEvent s f e param).kao = s.kao := by rfl
@[simp] theorem State.postEvent_glz (s : State) (f : Nat) (e : Event) (param : Nat) : (State.postEvent s f e param).glz = s.glz := by rfl
@[simp] theorem State.postEvent_varve (s : State) (f : Nat) (e : Event) (param : Nat) : (State.postEvent s f e param).varve = s.varve := by rfl
@[simp] theorem State.postEvent_ledg (s : State) (f : Nat) (e : Event) (param : Nat) : (State.postEvent s f e param).ledg = s.ledg := by rfl
@[simp] theorem State.postEvent_loess (s : State) (f : Nat) (e : Event) (param : Nat) : (State.postEvent s f e param).loess = s.loess := by rfl
@[simp] theorem State.postEvent_floe (s : State) (f : Nat) (e : Event) (param : Nat) : (State.postEvent s f e param).floe = s.floe := by rfl
@[simp] theorem State.postEvent_tarn (s : State) (f : Nat) (e : Event) (param : Nat) : (State.postEvent s f e param).tarn = s.tarn := by rfl
@[simp] theorem State.passBoundary_now (s : State) : (State.passBoundary s).now = s.now := by unfold State.passBoundary; split <;> rfl
@[simp] theorem State.passBoundary_held (s : State) : (State.passBoundary s).held = s.held := by unfold State.passBoundary; split <;> rfl
@[simp] theorem State.passBoundary_free (s : State) : (State.passBoundary s).free = s.free := by unfold State.passBoundary; split <;> rfl
@[simp] theorem State.passBoundary_pins (s : State) : (State.passBoundary s).pins = s.pins := by unfold State.passBoundary; split <;> rfl
@[simp] theorem State.passBoundary_ports (s : State) : (State.passBoundary s).ports = s.ports := by unfold State.passBoundary; split <;> rfl
@[simp] theorem State.passBoundary_fns (s : State) : (State.passBoundary s).fns = s.fns := by unfold State.passBoundary; split <;> rfl
@[simp] theorem State.passBoundary_queues (s : State) : (State.passBoundary s).queues = s.queues := by unfold State.passBoundary; split <;> rfl
@[simp] theorem State.passBoundary_cmds (s : State) : (State.passBoundary s).cmds = s.cmds := by unfold State.passBoundary; split <;> rfl
@[simp] theorem State.passBoundary_cirq (s : State) : (State.passBoundary s).cirq = s.cirq := by unfold State.passBoundary; split <;> rfl
@[simp] theorem State.passBoundary_cfg (s : State) : (State.passBoundary s).cfg = s.cfg := by unfold State.passBoundary; split <;> rfl
@[simp] theorem State.passBoundary_topo (s : State) : (State.passBoundary s).topo = s.topo := by unfold State.passBoundary; split <;> rfl
@[simp] theorem State.passBoundary_ctxs (s : State) : (State.passBoundary s).ctxs = s.ctxs := by unfold State.passBoundary; split <;> rfl
@[simp] theorem State.passBoundary_serac (s : State) : (State.passBoundary s).serac = s.serac := by unfold State.passBoundary; split <;> rfl
@[simp] theorem State.passBoundary_esk (s : State) : (State.passBoundary s).esk = s.esk := by unfold State.passBoundary; split <;> rfl
@[simp] theorem State.passBoundary_allocs (s : State) : (State.passBoundary s).allocs = s.allocs := by unfold State.passBoundary; split <;> rfl
@[simp] theorem State.passBoundary_graphs (s : State) : (State.passBoundary s).graphs = s.graphs := by unfold State.passBoundary; split <;> rfl
@[simp] theorem State.passBoundary_pools (s : State) : (State.passBoundary s).pools = s.pools := by unfold State.passBoundary; split <;> rfl
@[simp] theorem State.passBoundary_firn (s : State) : (State.passBoundary s).firn = s.firn := by unfold State.passBoundary; split <;> rfl
@[simp] theorem State.passBoundary_silt (s : State) : (State.passBoundary s).silt = s.silt := by unfold State.passBoundary; split <;> rfl
@[simp] theorem State.passBoundary_kao (s : State) : (State.passBoundary s).kao = s.kao := by unfold State.passBoundary; split <;> rfl
@[simp] theorem State.passBoundary_glz (s : State) : (State.passBoundary s).glz = s.glz := by unfold State.passBoundary; split <;> rfl
@[simp] theorem State.passBoundary_varve (s : State) : (State.passBoundary s).varve = s.varve := by unfold State.passBoundary; split <;> rfl
@[simp] theorem State.passBoundary_ledg (s : State) : (State.passBoundary s).ledg = s.ledg := by unfold State.passBoundary; split <;> rfl
@[simp] theorem State.passBoundary_floe (s : State) : (State.passBoundary s).floe = s.floe := by unfold State.passBoundary; split <;> rfl
@[simp] theorem State.passBoundary_tarn (s : State) : (State.passBoundary s).tarn = s.tarn := by unfold State.passBoundary; split <;> rfl
@[simp] theorem State.elapse_held (s : State) (dt : Nat) : (State.elapse s dt).held = s.held := by rfl
@[simp] theorem State.elapse_free (s : State) (dt : Nat) : (State.elapse s dt).free = s.free := by rfl
@[simp] theorem State.elapse_pins (s : State) (dt : Nat) : (State.elapse s dt).pins = s.pins := by rfl
@[simp] theorem State.elapse_ports (s : State) (dt : Nat) : (State.elapse s dt).ports = s.ports := by rfl
@[simp] theorem State.elapse_fns (s : State) (dt : Nat) : (State.elapse s dt).fns = s.fns := by rfl
@[simp] theorem State.elapse_queues (s : State) (dt : Nat) : (State.elapse s dt).queues = s.queues := by rfl
@[simp] theorem State.elapse_cmds (s : State) (dt : Nat) : (State.elapse s dt).cmds = s.cmds := by rfl
@[simp] theorem State.elapse_cirq (s : State) (dt : Nat) : (State.elapse s dt).cirq = s.cirq := by rfl
@[simp] theorem State.elapse_cfg (s : State) (dt : Nat) : (State.elapse s dt).cfg = s.cfg := by rfl
@[simp] theorem State.elapse_topo (s : State) (dt : Nat) : (State.elapse s dt).topo = s.topo := by rfl
@[simp] theorem State.elapse_ctxs (s : State) (dt : Nat) : (State.elapse s dt).ctxs = s.ctxs := by rfl
@[simp] theorem State.elapse_esk (s : State) (dt : Nat) : (State.elapse s dt).esk = s.esk := by rfl
@[simp] theorem State.elapse_allocs (s : State) (dt : Nat) : (State.elapse s dt).allocs = s.allocs := by rfl
@[simp] theorem State.elapse_graphs (s : State) (dt : Nat) : (State.elapse s dt).graphs = s.graphs := by rfl
@[simp] theorem State.elapse_pools (s : State) (dt : Nat) : (State.elapse s dt).pools = s.pools := by rfl
@[simp] theorem State.elapse_firn (s : State) (dt : Nat) : (State.elapse s dt).firn = s.firn := by rfl
@[simp] theorem State.elapse_snow (s : State) (dt : Nat) : (State.elapse s dt).snow = s.snow := by rfl
@[simp] theorem State.elapse_kao (s : State) (dt : Nat) : (State.elapse s dt).kao = s.kao := by rfl
@[simp] theorem State.elapse_glz (s : State) (dt : Nat) : (State.elapse s dt).glz = s.glz := by rfl
@[simp] theorem State.elapse_varve (s : State) (dt : Nat) : (State.elapse s dt).varve = s.varve := by rfl
@[simp] theorem State.elapse_ledg (s : State) (dt : Nat) : (State.elapse s dt).ledg = s.ledg := by rfl
@[simp] theorem State.elapse_loess (s : State) (dt : Nat) : (State.elapse s dt).loess = s.loess := by rfl
@[simp] theorem State.elapse_floe (s : State) (dt : Nat) : (State.elapse s dt).floe = s.floe := by rfl
@[simp] theorem State.elapse_tarn (s : State) (dt : Nat) : (State.elapse s dt).tarn = s.tarn := by rfl
@[simp] theorem State.releasePorts_held (s : State) (t : Nat) : (State.releasePorts s t).held = s.held := by unfold State.releasePorts; dsimp only; split <;> rfl
@[simp] theorem State.releasePorts_free (s : State) (t : Nat) : (State.releasePorts s t).free = s.free := by unfold State.releasePorts; dsimp only; split <;> rfl
@[simp] theorem State.releasePorts_pwr (s : State) (t : Nat) : (State.releasePorts s t).pwr = s.pwr := by unfold State.releasePorts; dsimp only; split <;> rfl
@[simp] theorem State.releasePorts_fns (s : State) (t : Nat) : (State.releasePorts s t).fns = s.fns := by unfold State.releasePorts; dsimp only; split <;> rfl
@[simp] theorem State.releasePorts_queues (s : State) (t : Nat) : (State.releasePorts s t).queues = s.queues := by unfold State.releasePorts; dsimp only; split <;> rfl
@[simp] theorem State.releasePorts_cmds (s : State) (t : Nat) : (State.releasePorts s t).cmds = s.cmds := by unfold State.releasePorts; dsimp only; split <;> rfl
@[simp] theorem State.releasePorts_cirq (s : State) (t : Nat) : (State.releasePorts s t).cirq = s.cirq := by unfold State.releasePorts; dsimp only; split <;> rfl
@[simp] theorem State.releasePorts_cfg (s : State) (t : Nat) : (State.releasePorts s t).cfg = s.cfg := by unfold State.releasePorts; dsimp only; split <;> rfl
@[simp] theorem State.releasePorts_topo (s : State) (t : Nat) : (State.releasePorts s t).topo = s.topo := by unfold State.releasePorts; dsimp only; split <;> rfl
@[simp] theorem State.releasePorts_ctxs (s : State) (t : Nat) : (State.releasePorts s t).ctxs = s.ctxs := by unfold State.releasePorts; dsimp only; split <;> rfl
@[simp] theorem State.releasePorts_esk (s : State) (t : Nat) : (State.releasePorts s t).esk = s.esk := by unfold State.releasePorts; dsimp only; split <;> rfl
@[simp] theorem State.releasePorts_allocs (s : State) (t : Nat) : (State.releasePorts s t).allocs = s.allocs := by unfold State.releasePorts; dsimp only; split <;> rfl
@[simp] theorem State.releasePorts_graphs (s : State) (t : Nat) : (State.releasePorts s t).graphs = s.graphs := by unfold State.releasePorts; dsimp only; split <;> rfl
@[simp] theorem State.releasePorts_pools (s : State) (t : Nat) : (State.releasePorts s t).pools = s.pools := by unfold State.releasePorts; dsimp only; split <;> rfl
@[simp] theorem State.releasePorts_firn (s : State) (t : Nat) : (State.releasePorts s t).firn = s.firn := by unfold State.releasePorts; dsimp only; split <;> rfl
@[simp] theorem State.releasePorts_silt (s : State) (t : Nat) : (State.releasePorts s t).silt = s.silt := by unfold State.releasePorts; dsimp only; split <;> rfl
@[simp] theorem State.releasePorts_snow (s : State) (t : Nat) : (State.releasePorts s t).snow = s.snow := by unfold State.releasePorts; dsimp only; split <;> rfl
@[simp] theorem State.releasePorts_kao (s : State) (t : Nat) : (State.releasePorts s t).kao = s.kao := by unfold State.releasePorts; dsimp only; split <;> rfl
@[simp] theorem State.releasePorts_glz (s : State) (t : Nat) : (State.releasePorts s t).glz = s.glz := by unfold State.releasePorts; dsimp only; split <;> rfl
@[simp] theorem State.releasePorts_varve (s : State) (t : Nat) : (State.releasePorts s t).varve = s.varve := by unfold State.releasePorts; dsimp only; split <;> rfl
@[simp] theorem State.releasePorts_ledg (s : State) (t : Nat) : (State.releasePorts s t).ledg = s.ledg := by unfold State.releasePorts; dsimp only; split <;> rfl
@[simp] theorem State.releasePorts_loess (s : State) (t : Nat) : (State.releasePorts s t).loess = s.loess := by unfold State.releasePorts; dsimp only; split <;> rfl
@[simp] theorem State.releasePorts_floe (s : State) (t : Nat) : (State.releasePorts s t).floe = s.floe := by unfold State.releasePorts; dsimp only; split <;> rfl
@[simp] theorem State.releasePorts_tarn (s : State) (t : Nat) : (State.releasePorts s t).tarn = s.tarn := by unfold State.releasePorts; dsimp only; split <;> rfl
@[simp] theorem State.releasePorts_now (s : State) (t : Nat) : (State.releasePorts s t).now = s.now := by unfold State.releasePorts; dsimp only; split <;> rfl
@[simp] theorem State.advanceTo_held (s : State) (t : Nat) : (State.advanceTo s t).held = s.held := by unfold State.advanceTo; split <;> simp
@[simp] theorem State.advanceTo_free (s : State) (t : Nat) : (State.advanceTo s t).free = s.free := by unfold State.advanceTo; split <;> simp
@[simp] theorem State.advanceTo_fns (s : State) (t : Nat) : (State.advanceTo s t).fns = s.fns := by unfold State.advanceTo; split <;> simp
@[simp] theorem State.advanceTo_queues (s : State) (t : Nat) : (State.advanceTo s t).queues = s.queues := by unfold State.advanceTo; split <;> simp
@[simp] theorem State.advanceTo_cmds (s : State) (t : Nat) : (State.advanceTo s t).cmds = s.cmds := by unfold State.advanceTo; split <;> simp
@[simp] theorem State.advanceTo_cirq (s : State) (t : Nat) : (State.advanceTo s t).cirq = s.cirq := by unfold State.advanceTo; split <;> simp
@[simp] theorem State.advanceTo_cfg (s : State) (t : Nat) : (State.advanceTo s t).cfg = s.cfg := by unfold State.advanceTo; split <;> simp
@[simp] theorem State.advanceTo_topo (s : State) (t : Nat) : (State.advanceTo s t).topo = s.topo := by unfold State.advanceTo; split <;> simp
@[simp] theorem State.advanceTo_ctxs (s : State) (t : Nat) : (State.advanceTo s t).ctxs = s.ctxs := by unfold State.advanceTo; split <;> simp
@[simp] theorem State.advanceTo_esk (s : State) (t : Nat) : (State.advanceTo s t).esk = s.esk := by unfold State.advanceTo; split <;> simp
@[simp] theorem State.advanceTo_allocs (s : State) (t : Nat) : (State.advanceTo s t).allocs = s.allocs := by unfold State.advanceTo; split <;> simp
@[simp] theorem State.advanceTo_graphs (s : State) (t : Nat) : (State.advanceTo s t).graphs = s.graphs := by unfold State.advanceTo; split <;> simp
@[simp] theorem State.advanceTo_pools (s : State) (t : Nat) : (State.advanceTo s t).pools = s.pools := by unfold State.advanceTo; split <;> simp
@[simp] theorem State.advanceTo_firn (s : State) (t : Nat) : (State.advanceTo s t).firn = s.firn := by unfold State.advanceTo; split <;> simp
@[simp] theorem State.advanceTo_snow (s : State) (t : Nat) : (State.advanceTo s t).snow = s.snow := by unfold State.advanceTo; split <;> simp
@[simp] theorem State.advanceTo_kao (s : State) (t : Nat) : (State.advanceTo s t).kao = s.kao := by unfold State.advanceTo; split <;> simp
@[simp] theorem State.advanceTo_glz (s : State) (t : Nat) : (State.advanceTo s t).glz = s.glz := by unfold State.advanceTo; split <;> simp
@[simp] theorem State.advanceTo_varve (s : State) (t : Nat) : (State.advanceTo s t).varve = s.varve := by unfold State.advanceTo; split <;> simp
@[simp] theorem State.advanceTo_ledg (s : State) (t : Nat) : (State.advanceTo s t).ledg = s.ledg := by unfold State.advanceTo; split <;> simp
@[simp] theorem State.advanceTo_loess (s : State) (t : Nat) : (State.advanceTo s t).loess = s.loess := by unfold State.advanceTo; split <;> simp
@[simp] theorem State.advanceTo_floe (s : State) (t : Nat) : (State.advanceTo s t).floe = s.floe := by unfold State.advanceTo; split <;> simp
@[simp] theorem State.advanceTo_tarn (s : State) (t : Nat) : (State.advanceTo s t).tarn = s.tarn := by unfold State.advanceTo; split <;> simp
@[simp] theorem State.sendTile_now (s : State) (p : DownPkt) : (State.sendTile s p).now = s.now := by rfl
@[simp] theorem State.sendTile_held (s : State) (p : DownPkt) : (State.sendTile s p).held = s.held := by rfl
@[simp] theorem State.sendTile_free (s : State) (p : DownPkt) : (State.sendTile s p).free = s.free := by rfl
@[simp] theorem State.sendTile_pins (s : State) (p : DownPkt) : (State.sendTile s p).pins = s.pins := by rfl
@[simp] theorem State.sendTile_pwr (s : State) (p : DownPkt) : (State.sendTile s p).pwr = s.pwr := by rfl
@[simp] theorem State.sendTile_fns (s : State) (p : DownPkt) : (State.sendTile s p).fns = s.fns := by rfl
@[simp] theorem State.sendTile_queues (s : State) (p : DownPkt) : (State.sendTile s p).queues = s.queues := by rfl
@[simp] theorem State.sendTile_cmds (s : State) (p : DownPkt) : (State.sendTile s p).cmds = s.cmds := by rfl
@[simp] theorem State.sendTile_cirq (s : State) (p : DownPkt) : (State.sendTile s p).cirq = s.cirq := by rfl
@[simp] theorem State.sendTile_cfg (s : State) (p : DownPkt) : (State.sendTile s p).cfg = s.cfg := by rfl
@[simp] theorem State.sendTile_topo (s : State) (p : DownPkt) : (State.sendTile s p).topo = s.topo := by rfl
@[simp] theorem State.sendTile_ctxs (s : State) (p : DownPkt) : (State.sendTile s p).ctxs = s.ctxs := by rfl
@[simp] theorem State.sendTile_esk (s : State) (p : DownPkt) : (State.sendTile s p).esk = s.esk := by rfl
@[simp] theorem State.sendTile_allocs (s : State) (p : DownPkt) : (State.sendTile s p).allocs = s.allocs := by rfl
@[simp] theorem State.sendTile_graphs (s : State) (p : DownPkt) : (State.sendTile s p).graphs = s.graphs := by rfl
@[simp] theorem State.sendTile_pools (s : State) (p : DownPkt) : (State.sendTile s p).pools = s.pools := by rfl
@[simp] theorem State.sendTile_firn (s : State) (p : DownPkt) : (State.sendTile s p).firn = s.firn := by rfl
@[simp] theorem State.sendTile_silt (s : State) (p : DownPkt) : (State.sendTile s p).silt = s.silt := by rfl
@[simp] theorem State.sendTile_snow (s : State) (p : DownPkt) : (State.sendTile s p).snow = s.snow := by rfl
@[simp] theorem State.sendTile_kao (s : State) (p : DownPkt) : (State.sendTile s p).kao = s.kao := by rfl
@[simp] theorem State.sendTile_glz (s : State) (p : DownPkt) : (State.sendTile s p).glz = s.glz := by rfl
@[simp] theorem State.sendTile_varve (s : State) (p : DownPkt) : (State.sendTile s p).varve = s.varve := by rfl
@[simp] theorem State.sendTile_ledg (s : State) (p : DownPkt) : (State.sendTile s p).ledg = s.ledg := by rfl
@[simp] theorem State.sendTile_loess (s : State) (p : DownPkt) : (State.sendTile s p).loess = s.loess := by rfl
@[simp] theorem State.sendTile_floe (s : State) (p : DownPkt) : (State.sendTile s p).floe = s.floe := by rfl
@[simp] theorem State.sendTile_tarn (s : State) (p : DownPkt) : (State.sendTile s p).tarn = s.tarn := by rfl
@[simp] theorem State.countUnmapped_now (s : State) (n : Nat) : (State.countUnmapped s n).now = s.now := by rfl
@[simp] theorem State.countUnmapped_held (s : State) (n : Nat) : (State.countUnmapped s n).held = s.held := by rfl
@[simp] theorem State.countUnmapped_free (s : State) (n : Nat) : (State.countUnmapped s n).free = s.free := by rfl
@[simp] theorem State.countUnmapped_pins (s : State) (n : Nat) : (State.countUnmapped s n).pins = s.pins := by rfl
@[simp] theorem State.countUnmapped_pwr (s : State) (n : Nat) : (State.countUnmapped s n).pwr = s.pwr := by rfl
@[simp] theorem State.countUnmapped_fns (s : State) (n : Nat) : (State.countUnmapped s n).fns = s.fns := by rfl
@[simp] theorem State.countUnmapped_queues (s : State) (n : Nat) : (State.countUnmapped s n).queues = s.queues := by rfl
@[simp] theorem State.countUnmapped_cmds (s : State) (n : Nat) : (State.countUnmapped s n).cmds = s.cmds := by rfl
@[simp] theorem State.countUnmapped_cirq (s : State) (n : Nat) : (State.countUnmapped s n).cirq = s.cirq := by rfl
@[simp] theorem State.countUnmapped_cfg (s : State) (n : Nat) : (State.countUnmapped s n).cfg = s.cfg := by rfl
@[simp] theorem State.countUnmapped_topo (s : State) (n : Nat) : (State.countUnmapped s n).topo = s.topo := by rfl
@[simp] theorem State.countUnmapped_ctxs (s : State) (n : Nat) : (State.countUnmapped s n).ctxs = s.ctxs := by rfl
@[simp] theorem State.countUnmapped_serac (s : State) (n : Nat) : (State.countUnmapped s n).serac = s.serac := by rfl
@[simp] theorem State.countUnmapped_esk (s : State) (n : Nat) : (State.countUnmapped s n).esk = s.esk := by rfl
@[simp] theorem State.countUnmapped_allocs (s : State) (n : Nat) : (State.countUnmapped s n).allocs = s.allocs := by rfl
@[simp] theorem State.countUnmapped_graphs (s : State) (n : Nat) : (State.countUnmapped s n).graphs = s.graphs := by rfl
@[simp] theorem State.countUnmapped_pools (s : State) (n : Nat) : (State.countUnmapped s n).pools = s.pools := by rfl
@[simp] theorem State.countUnmapped_firn (s : State) (n : Nat) : (State.countUnmapped s n).firn = s.firn := by rfl
@[simp] theorem State.countUnmapped_silt (s : State) (n : Nat) : (State.countUnmapped s n).silt = s.silt := by rfl
@[simp] theorem State.countUnmapped_snow (s : State) (n : Nat) : (State.countUnmapped s n).snow = s.snow := by rfl
@[simp] theorem State.countUnmapped_kao (s : State) (n : Nat) : (State.countUnmapped s n).kao = s.kao := by rfl
@[simp] theorem State.countUnmapped_glz (s : State) (n : Nat) : (State.countUnmapped s n).glz = s.glz := by rfl
@[simp] theorem State.countUnmapped_varve (s : State) (n : Nat) : (State.countUnmapped s n).varve = s.varve := by rfl
@[simp] theorem State.countUnmapped_ledg (s : State) (n : Nat) : (State.countUnmapped s n).ledg = s.ledg := by rfl
@[simp] theorem State.countUnmapped_loess (s : State) (n : Nat) : (State.countUnmapped s n).loess = s.loess := by rfl
@[simp] theorem State.countUnmapped_floe (s : State) (n : Nat) : (State.countUnmapped s n).floe = s.floe := by rfl
@[simp] theorem State.countUnmapped_tarn (s : State) (n : Nat) : (State.countUnmapped s n).tarn = s.tarn := by rfl
@[simp] theorem State.dropHeld_now (s : State) (f : Nat) : (State.dropHeld s f).now = s.now := by unfold State.dropHeld; split <;> rfl
@[simp] theorem State.dropHeld_held (s : State) (f : Nat) : (State.dropHeld s f).held = s.held := by unfold State.dropHeld; split <;> rfl
@[simp] theorem State.dropHeld_free (s : State) (f : Nat) : (State.dropHeld s f).free = s.free := by unfold State.dropHeld; split <;> rfl
@[simp] theorem State.dropHeld_pins (s : State) (f : Nat) : (State.dropHeld s f).pins = s.pins := by unfold State.dropHeld; split <;> rfl
@[simp] theorem State.dropHeld_pwr (s : State) (f : Nat) : (State.dropHeld s f).pwr = s.pwr := by unfold State.dropHeld; split <;> rfl
@[simp] theorem State.dropHeld_fns (s : State) (f : Nat) : (State.dropHeld s f).fns = s.fns := by unfold State.dropHeld; split <;> rfl
@[simp] theorem State.dropHeld_queues (s : State) (f : Nat) : (State.dropHeld s f).queues = s.queues := by unfold State.dropHeld; split <;> rfl
@[simp] theorem State.dropHeld_cmds (s : State) (f : Nat) : (State.dropHeld s f).cmds = s.cmds := by unfold State.dropHeld; split <;> rfl
@[simp] theorem State.dropHeld_cirq (s : State) (f : Nat) : (State.dropHeld s f).cirq = s.cirq := by unfold State.dropHeld; split <;> rfl
@[simp] theorem State.dropHeld_cfg (s : State) (f : Nat) : (State.dropHeld s f).cfg = s.cfg := by unfold State.dropHeld; split <;> rfl
@[simp] theorem State.dropHeld_topo (s : State) (f : Nat) : (State.dropHeld s f).topo = s.topo := by unfold State.dropHeld; split <;> rfl
@[simp] theorem State.dropHeld_ctxs (s : State) (f : Nat) : (State.dropHeld s f).ctxs = s.ctxs := by unfold State.dropHeld; split <;> rfl
@[simp] theorem State.dropHeld_serac (s : State) (f : Nat) : (State.dropHeld s f).serac = s.serac := by unfold State.dropHeld; split <;> rfl
@[simp] theorem State.dropHeld_esk (s : State) (f : Nat) : (State.dropHeld s f).esk = s.esk := by unfold State.dropHeld; split <;> rfl
@[simp] theorem State.dropHeld_allocs (s : State) (f : Nat) : (State.dropHeld s f).allocs = s.allocs := by unfold State.dropHeld; split <;> rfl
@[simp] theorem State.dropHeld_graphs (s : State) (f : Nat) : (State.dropHeld s f).graphs = s.graphs := by unfold State.dropHeld; split <;> rfl
@[simp] theorem State.dropHeld_pools (s : State) (f : Nat) : (State.dropHeld s f).pools = s.pools := by unfold State.dropHeld; split <;> rfl
@[simp] theorem State.dropHeld_firn (s : State) (f : Nat) : (State.dropHeld s f).firn = s.firn := by unfold State.dropHeld; split <;> rfl
@[simp] theorem State.dropHeld_silt (s : State) (f : Nat) : (State.dropHeld s f).silt = s.silt := by unfold State.dropHeld; split <;> rfl
@[simp] theorem State.dropHeld_snow (s : State) (f : Nat) : (State.dropHeld s f).snow = s.snow := by unfold State.dropHeld; split <;> rfl
@[simp] theorem State.dropHeld_kao (s : State) (f : Nat) : (State.dropHeld s f).kao = s.kao := by unfold State.dropHeld; split <;> rfl
@[simp] theorem State.dropHeld_glz (s : State) (f : Nat) : (State.dropHeld s f).glz = s.glz := by unfold State.dropHeld; split <;> rfl
@[simp] theorem State.dropHeld_varve (s : State) (f : Nat) : (State.dropHeld s f).varve = s.varve := by unfold State.dropHeld; split <;> rfl
@[simp] theorem State.dropHeld_ledg (s : State) (f : Nat) : (State.dropHeld s f).ledg = s.ledg := by unfold State.dropHeld; split <;> rfl
@[simp] theorem State.dropHeld_loess (s : State) (f : Nat) : (State.dropHeld s f).loess = s.loess := by unfold State.dropHeld; split <;> rfl
@[simp] theorem State.dropHeld_floe (s : State) (f : Nat) : (State.dropHeld s f).floe = s.floe := by unfold State.dropHeld; split <;> rfl
@[simp] theorem State.dropHeld_tarn (s : State) (f : Nat) : (State.dropHeld s f).tarn = s.tarn := by unfold State.dropHeld; split <;> rfl
@[simp] theorem State.delay_now (s : State) (c : Instr) : (State.delay s c).now = s.now := by rfl
@[simp] theorem State.delay_held (s : State) (c : Instr) : (State.delay s c).held = s.held := by rfl
@[simp] theorem State.delay_free (s : State) (c : Instr) : (State.delay s c).free = s.free := by rfl
@[simp] theorem State.delay_pins (s : State) (c : Instr) : (State.delay s c).pins = s.pins := by rfl
@[simp] theorem State.delay_ports (s : State) (c : Instr) : (State.delay s c).ports = s.ports := by rfl
@[simp] theorem State.delay_fns (s : State) (c : Instr) : (State.delay s c).fns = s.fns := by rfl
@[simp] theorem State.delay_queues (s : State) (c : Instr) : (State.delay s c).queues = s.queues := by rfl
@[simp] theorem State.delay_cmds (s : State) (c : Instr) : (State.delay s c).cmds = s.cmds := by rfl
@[simp] theorem State.delay_cirq (s : State) (c : Instr) : (State.delay s c).cirq = s.cirq := by rfl
@[simp] theorem State.delay_cfg (s : State) (c : Instr) : (State.delay s c).cfg = s.cfg := by rfl
@[simp] theorem State.delay_topo (s : State) (c : Instr) : (State.delay s c).topo = s.topo := by rfl
@[simp] theorem State.delay_ctxs (s : State) (c : Instr) : (State.delay s c).ctxs = s.ctxs := by rfl
@[simp] theorem State.delay_serac (s : State) (c : Instr) : (State.delay s c).serac = s.serac := by rfl
@[simp] theorem State.delay_esk (s : State) (c : Instr) : (State.delay s c).esk = s.esk := by rfl
@[simp] theorem State.delay_allocs (s : State) (c : Instr) : (State.delay s c).allocs = s.allocs := by rfl
@[simp] theorem State.delay_graphs (s : State) (c : Instr) : (State.delay s c).graphs = s.graphs := by rfl
@[simp] theorem State.delay_pools (s : State) (c : Instr) : (State.delay s c).pools = s.pools := by rfl
@[simp] theorem State.delay_firn (s : State) (c : Instr) : (State.delay s c).firn = s.firn := by rfl
@[simp] theorem State.delay_silt (s : State) (c : Instr) : (State.delay s c).silt = s.silt := by rfl
@[simp] theorem State.delay_snow (s : State) (c : Instr) : (State.delay s c).snow = s.snow := by rfl
@[simp] theorem State.delay_kao (s : State) (c : Instr) : (State.delay s c).kao = s.kao := by rfl
@[simp] theorem State.delay_glz (s : State) (c : Instr) : (State.delay s c).glz = s.glz := by rfl
@[simp] theorem State.delay_varve (s : State) (c : Instr) : (State.delay s c).varve = s.varve := by rfl
@[simp] theorem State.delay_ledg (s : State) (c : Instr) : (State.delay s c).ledg = s.ledg := by rfl
@[simp] theorem State.delay_loess (s : State) (c : Instr) : (State.delay s c).loess = s.loess := by rfl
@[simp] theorem State.delay_floe (s : State) (c : Instr) : (State.delay s c).floe = s.floe := by rfl
@[simp] theorem State.delay_tarn (s : State) (c : Instr) : (State.delay s c).tarn = s.tarn := by rfl
@[simp] theorem State.writeResult_now (s : State) (c : Cmd) (b : Blob) : (State.writeResult s c b).now = s.now := by rw [State.writeResult_eq]
@[simp] theorem State.writeResult_held (s : State) (c : Cmd) (b : Blob) : (State.writeResult s c b).held = s.held := by rw [State.writeResult_eq]
@[simp] theorem State.writeResult_free (s : State) (c : Cmd) (b : Blob) : (State.writeResult s c b).free = s.free := by rw [State.writeResult_eq]
@[simp] theorem State.writeResult_pins (s : State) (c : Cmd) (b : Blob) : (State.writeResult s c b).pins = s.pins := by rw [State.writeResult_eq]
@[simp] theorem State.writeResult_pwr (s : State) (c : Cmd) (b : Blob) : (State.writeResult s c b).pwr = s.pwr := by rw [State.writeResult_eq]
@[simp] theorem State.writeResult_queues (s : State) (c : Cmd) (b : Blob) : (State.writeResult s c b).queues = s.queues := by rw [State.writeResult_eq]
@[simp] theorem State.writeResult_cmds (s : State) (c : Cmd) (b : Blob) : (State.writeResult s c b).cmds = s.cmds := by rw [State.writeResult_eq]
@[simp] theorem State.writeResult_cirq (s : State) (c : Cmd) (b : Blob) : (State.writeResult s c b).cirq = s.cirq := by rw [State.writeResult_eq]
@[simp] theorem State.writeResult_cfg (s : State) (c : Cmd) (b : Blob) : (State.writeResult s c b).cfg = s.cfg := by rw [State.writeResult_eq]
@[simp] theorem State.writeResult_topo (s : State) (c : Cmd) (b : Blob) : (State.writeResult s c b).topo = s.topo := by rw [State.writeResult_eq]
@[simp] theorem State.writeResult_ctxs (s : State) (c : Cmd) (b : Blob) : (State.writeResult s c b).ctxs = s.ctxs := by rw [State.writeResult_eq]
@[simp] theorem State.writeResult_serac (s : State) (c : Cmd) (b : Blob) : (State.writeResult s c b).serac = s.serac := by rw [State.writeResult_eq]
@[simp] theorem State.writeResult_esk (s : State) (c : Cmd) (b : Blob) : (State.writeResult s c b).esk = s.esk := by rw [State.writeResult_eq]
@[simp] theorem State.writeResult_allocs (s : State) (c : Cmd) (b : Blob) : (State.writeResult s c b).allocs = s.allocs := by rw [State.writeResult_eq]
@[simp] theorem State.writeResult_graphs (s : State) (c : Cmd) (b : Blob) : (State.writeResult s c b).graphs = s.graphs := by rw [State.writeResult_eq]
@[simp] theorem State.writeResult_pools (s : State) (c : Cmd) (b : Blob) : (State.writeResult s c b).pools = s.pools := by rw [State.writeResult_eq]
@[simp] theorem State.writeResult_firn (s : State) (c : Cmd) (b : Blob) : (State.writeResult s c b).firn = s.firn := by rw [State.writeResult_eq]
@[simp] theorem State.writeResult_silt (s : State) (c : Cmd) (b : Blob) : (State.writeResult s c b).silt = s.silt := by rw [State.writeResult_eq]
@[simp] theorem State.writeResult_snow (s : State) (c : Cmd) (b : Blob) : (State.writeResult s c b).snow = s.snow := by rw [State.writeResult_eq]
@[simp] theorem State.writeResult_kao (s : State) (c : Cmd) (b : Blob) : (State.writeResult s c b).kao = s.kao := by rw [State.writeResult_eq]
@[simp] theorem State.writeResult_glz (s : State) (c : Cmd) (b : Blob) : (State.writeResult s c b).glz = s.glz := by rw [State.writeResult_eq]
@[simp] theorem State.writeResult_varve (s : State) (c : Cmd) (b : Blob) : (State.writeResult s c b).varve = s.varve := by rw [State.writeResult_eq]
@[simp] theorem State.writeResult_ledg (s : State) (c : Cmd) (b : Blob) : (State.writeResult s c b).ledg = s.ledg := by rw [State.writeResult_eq]
@[simp] theorem State.writeResult_loess (s : State) (c : Cmd) (b : Blob) : (State.writeResult s c b).loess = s.loess := by rw [State.writeResult_eq]
@[simp] theorem State.writeResult_floe (s : State) (c : Cmd) (b : Blob) : (State.writeResult s c b).floe = s.floe := by rw [State.writeResult_eq]
@[simp] theorem State.writeResult_tarn (s : State) (c : Cmd) (b : Blob) : (State.writeResult s c b).tarn = s.tarn := by rw [State.writeResult_eq]
@[simp] theorem State.hostWrite_now (s : State) (f addr : Nat) (data : Blob) : (State.hostWrite s f addr data).now = s.now := by rw [State.hostWrite_eq]
@[simp] theorem State.hostWrite_held (s : State) (f addr : Nat) (data : Blob) : (State.hostWrite s f addr data).held = s.held := by rw [State.hostWrite_eq]
@[simp] theorem State.hostWrite_free (s : State) (f addr : Nat) (data : Blob) : (State.hostWrite s f addr data).free = s.free := by rw [State.hostWrite_eq]
@[simp] theorem State.hostWrite_pins (s : State) (f addr : Nat) (data : Blob) : (State.hostWrite s f addr data).pins = s.pins := by rw [State.hostWrite_eq]
@[simp] theorem State.hostWrite_pwr (s : State) (f addr : Nat) (data : Blob) : (State.hostWrite s f addr data).pwr = s.pwr := by rw [State.hostWrite_eq]
@[simp] theorem State.hostWrite_queues (s : State) (f addr : Nat) (data : Blob) : (State.hostWrite s f addr data).queues = s.queues := by rw [State.hostWrite_eq]
@[simp] theorem State.hostWrite_cmds (s : State) (f addr : Nat) (data : Blob) : (State.hostWrite s f addr data).cmds = s.cmds := by rw [State.hostWrite_eq]
@[simp] theorem State.hostWrite_cirq (s : State) (f addr : Nat) (data : Blob) : (State.hostWrite s f addr data).cirq = s.cirq := by rw [State.hostWrite_eq]
@[simp] theorem State.hostWrite_cfg (s : State) (f addr : Nat) (data : Blob) : (State.hostWrite s f addr data).cfg = s.cfg := by rw [State.hostWrite_eq]
@[simp] theorem State.hostWrite_topo (s : State) (f addr : Nat) (data : Blob) : (State.hostWrite s f addr data).topo = s.topo := by rw [State.hostWrite_eq]
@[simp] theorem State.hostWrite_ctxs (s : State) (f addr : Nat) (data : Blob) : (State.hostWrite s f addr data).ctxs = s.ctxs := by rw [State.hostWrite_eq]
@[simp] theorem State.hostWrite_serac (s : State) (f addr : Nat) (data : Blob) : (State.hostWrite s f addr data).serac = s.serac := by rw [State.hostWrite_eq]
@[simp] theorem State.hostWrite_esk (s : State) (f addr : Nat) (data : Blob) : (State.hostWrite s f addr data).esk = s.esk := by rw [State.hostWrite_eq]
@[simp] theorem State.hostWrite_allocs (s : State) (f addr : Nat) (data : Blob) : (State.hostWrite s f addr data).allocs = s.allocs := by rw [State.hostWrite_eq]
@[simp] theorem State.hostWrite_graphs (s : State) (f addr : Nat) (data : Blob) : (State.hostWrite s f addr data).graphs = s.graphs := by rw [State.hostWrite_eq]
@[simp] theorem State.hostWrite_pools (s : State) (f addr : Nat) (data : Blob) : (State.hostWrite s f addr data).pools = s.pools := by rw [State.hostWrite_eq]
@[simp] theorem State.hostWrite_firn (s : State) (f addr : Nat) (data : Blob) : (State.hostWrite s f addr data).firn = s.firn := by rw [State.hostWrite_eq]
@[simp] theorem State.hostWrite_silt (s : State) (f addr : Nat) (data : Blob) : (State.hostWrite s f addr data).silt = s.silt := by rw [State.hostWrite_eq]
@[simp] theorem State.hostWrite_snow (s : State) (f addr : Nat) (data : Blob) : (State.hostWrite s f addr data).snow = s.snow := by rw [State.hostWrite_eq]
@[simp] theorem State.hostWrite_kao (s : State) (f addr : Nat) (data : Blob) : (State.hostWrite s f addr data).kao = s.kao := by rw [State.hostWrite_eq]
@[simp] theorem State.hostWrite_glz (s : State) (f addr : Nat) (data : Blob) : (State.hostWrite s f addr data).glz = s.glz := by rw [State.hostWrite_eq]
@[simp] theorem State.hostWrite_varve (s : State) (f addr : Nat) (data : Blob) : (State.hostWrite s f addr data).varve = s.varve := by rw [State.hostWrite_eq]
@[simp] theorem State.hostWrite_ledg (s : State) (f addr : Nat) (data : Blob) : (State.hostWrite s f addr data).ledg = s.ledg := by rw [State.hostWrite_eq]
@[simp] theorem State.hostWrite_loess (s : State) (f addr : Nat) (data : Blob) : (State.hostWrite s f addr data).loess = s.loess := by rw [State.hostWrite_eq]
@[simp] theorem State.hostWrite_floe (s : State) (f addr : Nat) (data : Blob) : (State.hostWrite s f addr data).floe = s.floe := by rw [State.hostWrite_eq]
@[simp] theorem State.hostWrite_tarn (s : State) (f addr : Nat) (data : Blob) : (State.hostWrite s f addr data).tarn = s.tarn := by rw [State.hostWrite_eq]
@[simp] theorem State.raiseVector_now (s : State) (f v : Nat) : (State.raiseVector s f v).now = s.now := by unfold State.raiseVector; dsimp only; (repeat' split) <;> rfl
@[simp] theorem State.raiseVector_held (s : State) (f v : Nat) : (State.raiseVector s f v).held = s.held := by unfold State.raiseVector; dsimp only; (repeat' split) <;> rfl
@[simp] theorem State.raiseVector_free (s : State) (f v : Nat) : (State.raiseVector s f v).free = s.free := by unfold State.raiseVector; dsimp only; (repeat' split) <;> rfl
@[simp] theorem State.raiseVector_pins (s : State) (f v : Nat) : (State.raiseVector s f v).pins = s.pins := by unfold State.raiseVector; dsimp only; (repeat' split) <;> rfl
@[simp] theorem State.raiseVector_pwr (s : State) (f v : Nat) : (State.raiseVector s f v).pwr = s.pwr := by unfold State.raiseVector; dsimp only; (repeat' split) <;> rfl
@[simp] theorem State.raiseVector_queues (s : State) (f v : Nat) : (State.raiseVector s f v).queues = s.queues := by unfold State.raiseVector; dsimp only; (repeat' split) <;> rfl
@[simp] theorem State.raiseVector_cmds (s : State) (f v : Nat) : (State.raiseVector s f v).cmds = s.cmds := by unfold State.raiseVector; dsimp only; (repeat' split) <;> rfl
@[simp] theorem State.raiseVector_cirq (s : State) (f v : Nat) : (State.raiseVector s f v).cirq = s.cirq := by unfold State.raiseVector; dsimp only; (repeat' split) <;> rfl
@[simp] theorem State.raiseVector_cfg (s : State) (f v : Nat) : (State.raiseVector s f v).cfg = s.cfg := by unfold State.raiseVector; dsimp only; (repeat' split) <;> rfl
@[simp] theorem State.raiseVector_topo (s : State) (f v : Nat) : (State.raiseVector s f v).topo = s.topo := by unfold State.raiseVector; dsimp only; (repeat' split) <;> rfl
@[simp] theorem State.raiseVector_ctxs (s : State) (f v : Nat) : (State.raiseVector s f v).ctxs = s.ctxs := by unfold State.raiseVector; dsimp only; (repeat' split) <;> rfl
@[simp] theorem State.raiseVector_serac (s : State) (f v : Nat) : (State.raiseVector s f v).serac = s.serac := by unfold State.raiseVector; dsimp only; (repeat' split) <;> rfl
@[simp] theorem State.raiseVector_esk (s : State) (f v : Nat) : (State.raiseVector s f v).esk = s.esk := by unfold State.raiseVector; dsimp only; (repeat' split) <;> rfl
@[simp] theorem State.raiseVector_allocs (s : State) (f v : Nat) : (State.raiseVector s f v).allocs = s.allocs := by unfold State.raiseVector; dsimp only; (repeat' split) <;> rfl
@[simp] theorem State.raiseVector_graphs (s : State) (f v : Nat) : (State.raiseVector s f v).graphs = s.graphs := by unfold State.raiseVector; dsimp only; (repeat' split) <;> rfl
@[simp] theorem State.raiseVector_pools (s : State) (f v : Nat) : (State.raiseVector s f v).pools = s.pools := by unfold State.raiseVector; dsimp only; (repeat' split) <;> rfl
@[simp] theorem State.raiseVector_firn (s : State) (f v : Nat) : (State.raiseVector s f v).firn = s.firn := by unfold State.raiseVector; dsimp only; (repeat' split) <;> rfl
@[simp] theorem State.raiseVector_silt (s : State) (f v : Nat) : (State.raiseVector s f v).silt = s.silt := by unfold State.raiseVector; dsimp only; (repeat' split) <;> rfl
@[simp] theorem State.raiseVector_snow (s : State) (f v : Nat) : (State.raiseVector s f v).snow = s.snow := by unfold State.raiseVector; dsimp only; (repeat' split) <;> rfl
@[simp] theorem State.raiseVector_kao (s : State) (f v : Nat) : (State.raiseVector s f v).kao = s.kao := by unfold State.raiseVector; dsimp only; (repeat' split) <;> rfl
@[simp] theorem State.raiseVector_glz (s : State) (f v : Nat) : (State.raiseVector s f v).glz = s.glz := by unfold State.raiseVector; dsimp only; (repeat' split) <;> rfl
@[simp] theorem State.raiseVector_varve (s : State) (f v : Nat) : (State.raiseVector s f v).varve = s.varve := by unfold State.raiseVector; dsimp only; (repeat' split) <;> rfl
@[simp] theorem State.raiseVector_ledg (s : State) (f v : Nat) : (State.raiseVector s f v).ledg = s.ledg := by unfold State.raiseVector; dsimp only; (repeat' split) <;> rfl
@[simp] theorem State.raiseVector_loess (s : State) (f v : Nat) : (State.raiseVector s f v).loess = s.loess := by unfold State.raiseVector; dsimp only; (repeat' split) <;> rfl
@[simp] theorem State.raiseVector_floe (s : State) (f v : Nat) : (State.raiseVector s f v).floe = s.floe := by unfold State.raiseVector; dsimp only; (repeat' split) <;> rfl
@[simp] theorem State.raiseVector_tarn (s : State) (f v : Nat) : (State.raiseVector s f v).tarn = s.tarn := by unfold State.raiseVector; dsimp only; (repeat' split) <;> rfl

end Sys2Proof.Machine
end

