-- ==== Sys2Proof/Laws/Frames.lean ====
section
/-! SUPPORT. The operations that leave a part of the state as it was: command records, queues, the timebase, the allocations. -/

namespace Sys2Proof.Machine

open Sys2Proof

/-! ### `cmds` -/

@[simp] theorem foldl_cmds {β : Type} (f : State → β → State) (l : List β) (s : State) (h : ∀ t x, (f t x).cmds = t.cmds) :
    (l.foldl f s).cmds = s.cmds := by induction l generalizing s with | nil => rfl | cons a l ih => simp [ih, h]

@[simp] theorem State.logPage_cmds (s : State) (f page : Nat) : (State.logPage s f page).cmds = s.cmds := by
  simp only [State.logPage]; repeat' split
  all_goals simp

@[simp] theorem State.signalCq_cmds (s : State) (q : Nat) : (State.signalCq s q).cmds = s.cmds := by
  unfold State.signalCq; split <;> simp

@[simp] theorem State.moraine_cmds (s : State) (f n : Nat) : (State.moraine s f n).cmds = s.cmds := by
  rfl

@[simp] theorem State.dropStreams_cmds (s : State) (r : Nat) : (State.dropStreams s r).cmds = s.cmds := by
  rfl

@[simp] theorem State.crevMap_cmds (s : State) (p : Crev → Bool) (f : Crev → Crev) : (State.crevMap s p f).cmds = s.cmds := by
  rfl

@[simp] theorem State.crevLeave_cmds (s : State) (r : Nat) : (State.crevLeave s r).cmds = s.cmds := by
  rfl

@[simp] theorem State.sendFloe_cmds (s : State) (link : Nat) (m : FloeMsg) : (State.sendFloe s link m).cmds = s.cmds := by
  rfl

@[simp] theorem State.sendUart_cmds (s : State) (l : List Nat) : (State.sendUart s l).cmds = s.cmds := by
  rfl

@[simp] theorem State.beginWake_cmds (s : State) : (State.beginWake s).cmds = s.cmds := by
  rfl

@[simp] theorem State.startWake_cmds (s : State) (src : WakeSrc) : (State.startWake s src).cmds = s.cmds := by
  unfold State.startWake; split <;> simp

@[simp] theorem State.config_cmds (s : State) (c : Instr) (f : State → State) (hf : ∀ t , (f t ).cmds = t.cmds) : (State.config s c f).cmds = s.cmds := by
  simp only [State.config]; repeat' split
  all_goals simp [hf]

@[simp] theorem State.abortRead_cmds (s : State) (f : Nat) : (State.abortRead s f).cmds = s.cmds := by
  rfl

@[simp] theorem State.access_cmds (s : State) (c : Instr) (read : Bool) (f : State → State) (hf : ∀ t , (f t ).cmds = t.cmds) : (State.access s c read f).cmds = s.cmds := by
  simp only [State.access]; repeat' split
  all_goals simp [hf]

@[simp] theorem State.setFkt_cmds (s : State) (tier frame : Nat) (e : Fkt) : (State.setFkt s tier frame e).cmds = s.cmds := by
  unfold State.setFkt; split <;> simp

@[simp] theorem State.clearFkt_cmds (s : State) (tier frame : Nat) : (State.clearFkt s tier frame).cmds = s.cmds := by
  unfold State.clearFkt; split <;> simp

@[simp] theorem State.fillKey_cmds (s : State) (k : Nat) (owner : Option Nat) : (State.fillKey s k owner).cmds = s.cmds := by
  rfl

@[simp] theorem State.dropKey_cmds (s : State) (k : Nat) : (State.dropKey s k).cmds = s.cmds := by
  rfl

@[simp] theorem State.modSlot_cmds (s : State) (k : Nat) (f : VSlot → VSlot) : (State.modSlot s k f).cmds = s.cmds := by
  rfl

theorem State.newBlock_cmds {s s' : State} {t : Nat} (h : s.newBlock t = some s') : s'.cmds = s.cmds := by
  simp only [State.newBlock] at h
  by_cases hn : s.varve.blocksIn t % 29 ≠ 0
  · rw [if_pos hn] at h; cases h; rfl
  · rw [if_neg hn] at h; obtain ⟨f, _, rfl⟩ := Option.map_eq_some_iff.mp h; simp

@[simp] theorem State.useSlot_cmds (s : State) (k tier frame key : Nat) : (State.useSlot s k tier frame key).cmds = s.cmds := by
  rfl

theorem State.protect_cmds {s s' : State} {tier frame key : Nat} (h : s.protect tier frame key = some s') : s'.cmds = s.cmds := by
  simp only [State.protect] at h
  split at h
  · cases h; simp
  · split at h
    · cases h
    · obtain ⟨t, ht, rfl⟩ := Option.map_eq_some_iff.mp h; simp [State.newBlock_cmds ht]

theorem State.protectAll_cmds {tier key : Nat} {l : List Nat} {s s' : State} (h : State.protectAll tier key l s = some s') : s'.cmds = s.cmds := by
  induction l generalizing s with
  | nil => cases h; rfl
  | cons f t ih =>
    simp only [State.protectAll] at h
    split at h
    · cases h
    · rename_i s2 h2; rw [ih h]; simp [State.protect_cmds h2]

theorem State.takeFrames_cmds {s s' : State} {tier : Nat} {e : Fkt} {l : List Nat} (h : s.takeFrames tier e l = some s') : s'.cmds = s.cmds := by
  simp only [State.takeFrames] at h
  split at h
  · rw [State.protectAll_cmds h]; simp
  · cases h; simp

@[simp] theorem State.forgetFrame_cmds (s : State) (tier frame : Nat) : (State.forgetFrame s tier frame).cmds = s.cmds := by
  rfl

@[simp] theorem State.releaseFrame_cmds (s : State) (tier frame : Nat) : (State.releaseFrame s tier frame).cmds = s.cmds := by
  simp only [State.releaseFrame]; repeat' split
  all_goals simp

@[simp] theorem State.setPage_cmds (s : State) (k p : Nat) (c : PageCtr) : (State.setPage s k p c).cmds = s.cmds := by
  simp only [State.setPage]; repeat' split
  all_goals simp

@[simp] theorem State.leaveWalk_cmds (s : State) (key k p : Nat) : (State.leaveWalk s key k p).cmds = s.cmds := by
  rfl

@[simp] theorem State.chunkFetch_cmds (s : State) (tier off : Nat) : (State.chunkFetch s tier off).cmds = s.cmds := by
  unfold State.chunkFetch; split <;> simp

@[simp] theorem State.chunkStore_cmds (s : State) (tier off : Nat) : (State.chunkStore s tier off).cmds = s.cmds := by
  unfold State.chunkStore; split <;> simp

@[simp] theorem State.recrypt_cmds (s : State) (k p : Nat) (c : PageCtr) : (State.recrypt s k p c).cmds = s.cmds := by
  simp only [State.recrypt]; repeat' split
  all_goals simp

@[simp] theorem State.endWalk_cmds (s : State) (key : Nat) : (State.endWalk s key).cmds = s.cmds := by
  simp only [State.endWalk]; repeat' split
  all_goals try simp
  all_goals (apply foldl_cmds; intro t x; try dsimp only)
  all_goals repeat' split
  all_goals first | (simp; done) | (apply foldl_cmds; intro t x; (try dsimp only); (repeat' split) <;> simp)

@[simp] theorem State.startRekey_cmds (s : State) (key : Nat) : (State.startRekey s key).cmds = s.cmds := by
  rfl

@[simp] theorem State.rekeyPage_cmds (s : State) (key k p : Nat) (c : PageCtr) : (State.rekeyPage s key k p c).cmds = s.cmds := by
  simp only [State.rekeyPage]; repeat' split
  all_goals simp

@[simp] theorem State.reencrypt_cmds (s : State) (k p : Nat) (v : VSlot) : (State.reencrypt s k p v).cmds = s.cmds := by
  simp only [State.reencrypt]; repeat' split
  all_goals simp

@[simp] theorem State.bumpMinor_cmds (s : State) (k p g : Nat) : (State.bumpMinor s k p g).cmds = s.cmds := by
  unfold State.bumpMinor; split <;> simp

@[simp] theorem State.glazeWrite_cmds (s : State) (tier off len : Nat) : (State.glazeWrite s tier off len).cmds = s.cmds := by
  simp only [State.glazeWrite]; repeat' split
  all_goals simp

@[simp] theorem State.writeNode_cmds (s : State) (level pos : Nat) : (State.writeNode s level pos).cmds = s.cmds := by
  unfold State.writeNode; split <;> simp

@[simp] theorem State.halt_cmds (s : State) (r : Seal) : (State.halt s r).cmds = s.cmds := by
  unfold State.halt; split <;> simp

@[simp] theorem State.append_cmds (s : State) (f : Nat) (r : Receipt) : (State.append s f r).cmds = s.cmds := by
  simp only [State.append]; repeat' split
  all_goals simp

@[simp] theorem State.persistPut_cmds (s : State) (o : Nat) (b : Blob) : (State.persistPut s o b).cmds = s.cmds := by
  rfl

@[simp] theorem State.putHeader_cmds (s : State) (clean : Bool) : (State.putHeader s clean).cmds = s.cmds := by
  rfl

@[simp] theorem State.persistOne_cmds (s : State) (x : Receipt) : (State.persistOne s x).cmds = s.cmds := by
  unfold State.persistOne
  dsimp only
  rw [State.putHeader_cmds]
  simp

@[simp] theorem State.restartDue_cmds (s : State) (f : Nat) : (State.restartDue s f).cmds = s.cmds := by
  unfold State.restartDue; split <;> simp

@[simp] theorem State.persistAll_cmds (s : State) : (State.persistAll s).cmds = s.cmds := by
  simp [State.persistAll]

@[simp] theorem State.regionWrite_cmds (s : State) (off : Nat) (b : Blob) : (State.regionWrite s off b).cmds = s.cmds := by
  simp [State.regionWrite]

@[simp] theorem State.regionPut_cmds (s : State) (off : Nat) (b : Blob) : (State.regionPut s off b).cmds = s.cmds := by
  simp only [State.regionPut]; repeat' split
  all_goals try simp
  all_goals (apply foldl_cmds; intro t x; try dsimp only)
  all_goals repeat' split
  all_goals first | (simp; done) | (apply foldl_cmds; intro t x; (try dsimp only); (repeat' split) <;> simp)

@[simp] theorem State.placeTables_cmds (s : State) (x : Nat) (ls : List Leaf) : (State.placeTables s x ls).cmds = s.cmds := by
  rfl

@[simp] theorem State.putTables_cmds (s : State) (x : Nat) (ls : List Leaf) : (State.putTables s x ls).cmds = s.cmds := by
  simp [State.putTables]

@[simp] theorem State.crevWrite_cmds (s : State) (r : Crev) : (State.crevWrite s r).cmds = s.cmds := by
  rfl

@[simp] theorem State.crevPost_cmds (s : State) (r0 : Crev) : (State.crevPost s r0).cmds = s.cmds := by
  simp only [State.crevPost]; repeat' split
  all_goals simp

@[simp] theorem State.crevPostWaiting_cmds (s : State) : (State.crevPostWaiting s).cmds = s.cmds := by
  unfold State.crevPostWaiting; split <;> simp

@[simp] theorem State.rightsFault_cmds (s : State) (c : Cmd) (engines access : Nat) (va : Nat) (ranges lack : List (Nat × Nat)) : (State.rightsFault s c engines access va ranges lack).cmds = s.cmds := by
  simp [State.rightsFault]

@[simp] theorem State.crevResolve_cmds (s : State) (c lo hi : Nat) : (State.crevResolve s c lo hi).cmds = s.cmds := by
  unfold State.crevResolve; split <;> simp

@[simp] theorem State.crevWithdrawCtx_cmds (s : State) (c : Nat) : (State.crevWithdrawCtx s c).cmds = s.cmds := by
  rfl

@[simp] theorem State.invalidate_cmds (s : State) (c lo hi : Nat) (cmd : Option Nat) (change : Option Change) : (State.invalidate s c lo hi cmd change).cmds = s.cmds := by
  rfl

@[simp] theorem State.hotCount_cmds (s : State) (tier offset : Nat) (epoch : Option Nat) : (State.hotCount s tier offset epoch).cmds = s.cmds := by
  simp only [State.hotCount]; repeat' split
  all_goals simp

@[simp] theorem State.chunkWrite_cmds (s : State) (q : MemReq) (data : Blob) : (State.chunkWrite s q data).cmds = s.cmds := by
  simp only [State.chunkWrite]; repeat' split
  all_goals simp

@[simp] theorem State.chunkRead_cmds (s : State) (q : MemReq) : (State.chunkRead s q).cmds = s.cmds := by
  simp only [State.chunkRead]; repeat' split
  all_goals simp

@[simp] theorem State.pageWritten_cmds (s : State) (p : Page) (mem : List Host.Cell) : (State.pageWritten s p mem).cmds = s.cmds := by
  unfold State.pageWritten
  rw [foldl_cmds]
  intro t o; simp

@[simp] theorem State.zeroPage_cmds (s : State) (p : Page) : (State.zeroPage s p).cmds = s.cmds := State.pageWritten_cmds _ _ _

@[simp] theorem State.copyPage_cmds (s : State) (m : Move) : (State.copyPage s m).cmds = s.cmds := by
  unfold State.copyPage
  rw [State.pageWritten_cmds, foldl_cmds]
  intro t o; split <;> simp

@[simp] theorem State.doMoves_cmds (s : State) (mv : List Move) (fresh : List Page) : (State.doMoves s mv fresh).cmds = s.cmds := by
  simp [State.doMoves]

@[simp] theorem State.syncSeq_cmds (s : State) (i : Nat) (q : Sequence) : (State.syncSeq s i q).cmds = s.cmds := by
  simp [State.syncSeq]

@[simp] theorem State.syncSeqs_cmds (s : State) : (State.syncSeqs s).cmds = s.cmds := by
  simp [State.syncSeqs]

@[simp] theorem State.fitBlocks_cmds (s : State) (i : Nat) : (State.fitBlocks s i).cmds = s.cmds := by
  unfold State.fitBlocks; split <;> simp

@[simp] theorem State.freeSeqPages_cmds (s : State) (i keep : Nat) : (State.freeSeqPages s i keep).cmds = s.cmds := by
  unfold State.freeSeqPages; split <;> simp

@[simp] theorem State.releaseSeq_cmds (s : State) (i : Nat) : (State.releaseSeq s i).cmds = s.cmds := by
  simp [State.releaseSeq]

@[simp] theorem State.takeTokens_cmds (s : State) (c : Cmd) (take : Bool) : (State.takeTokens s c take).cmds = s.cmds := by
  rfl

@[simp] theorem State.loosen_cmds (s : State) (i : Nat) : (State.loosen s i).cmds = s.cmds := by
  simp only [State.loosen]; repeat' split
  all_goals try simp
  all_goals (apply foldl_cmds; intro t x; try dsimp only)
  all_goals repeat' split
  all_goals first | (simp; done) | (apply foldl_cmds; intro t x; (try dsimp only); (repeat' split) <;> simp)

@[simp] theorem State.assign_cmds (s : State) (t : Tap) (c : Cmd) : (State.assign s t c).cmds = s.cmds := by
  simp only [State.assign]; repeat' split
  all_goals simp

@[simp] theorem State.answerNull_cmds (s : State) (t : Tap) : (State.answerNull s t).cmds = s.cmds := by
  unfold State.answerNull; split <;> simp

@[simp] theorem State.tear_cmds (s : State) (c : Cmd) : (State.tear s c).cmds = s.cmds := by
  rfl

@[simp] theorem State.withdrawFns_cmds (s : State) (r : Nat) : (State.withdrawFns s r).cmds = s.cmds := by
  rfl

@[simp] theorem State.withdrawUnits_cmds (s : State) (r : Nat) : (State.withdrawUnits s r).cmds = s.cmds := by
  rfl

@[simp] theorem State.freeIdx_cmds (s : State) (l : List Nat) : (State.freeIdx s l).cmds = s.cmds := by
  rfl

@[simp] theorem State.absentImage_cmds (s : State) (i : Nat) : (State.absentImage s i).cmds = s.cmds := by
  simp only [State.absentImage]; repeat' split
  all_goals simp

@[simp] theorem State.dropLoadVersion_cmds (s : State) (l : Load) : (State.dropLoadVersion s l).cmds = s.cmds := by
  simp only [State.dropLoadVersion]; repeat' split
  all_goals simp

@[simp] theorem State.undrain_cmds (s : State) (i : Nat) : (State.undrain s i).cmds = s.cmds := by
  unfold State.undrain; split <;> simp

@[simp] theorem State.withdrawLoad_cmds (s : State) (r : Nat) : (State.withdrawLoad s r).cmds = s.cmds := by
  simp only [State.withdrawLoad]; repeat' split
  all_goals simp

@[simp] theorem State.withdraw_cmds (s : State) (r : Nat) : (State.withdraw s r).cmds = s.cmds := by
  simp [State.withdraw]

@[simp] theorem State.pruneGraphs_cmds (s : State) : (State.pruneGraphs s).cmds = s.cmds := by
  rfl

@[simp] theorem State.pruneImages_cmds (s : State) : (State.pruneImages s).cmds = s.cmds := by
  simp only [State.pruneImages]; repeat' split
  all_goals simp

@[simp] theorem State.prune_cmds (s : State) : (State.prune s).cmds = s.cmds := by
  simp [State.prune]

@[simp] theorem State.releaseSaves_cmds (s : State) (r c : Nat) (ok : Bool) : (State.releaseSaves s r c ok).cmds = s.cmds := by
  simp only [State.releaseSaves]; repeat' split
  all_goals simp

@[simp] theorem State.drivePhys_cmds (s : State) (k : Nat) (release : Bool) : (State.drivePhys s k release).cmds = s.cmds := by
  rfl

@[simp] theorem State.driveBypass_cmds (s : State) (k : Nat) (high : Bool) : (State.driveBypass s k high).cmds = s.cmds := by
  rfl

@[simp] theorem State.linkDown_cmds (s : State) (n reason : Nat) : (State.linkDown s n reason).cmds = s.cmds := by
  simp [State.linkDown]

@[simp] theorem State.cutPassing_cmds (s : State) (n : Nat) : (State.cutPassing s n).cmds = s.cmds := by
  rfl

@[simp] theorem State.dropLink_cmds (s : State) (n reason : Nat) (joining : Bool) : (State.dropLink s n reason joining).cmds = s.cmds := by
  simp only [State.dropLink]; repeat' split
  all_goals simp

@[simp] theorem State.releaseRing_cmds (s : State) (k reason : Nat) (failed : Bool) : (State.releaseRing s k reason failed).cmds = s.cmds := by
  simp [State.releaseRing]

@[simp] theorem State.beginJoin_cmds (s : State) (k : Nat) : (State.beginJoin s k).cmds = s.cmds := by
  rfl

@[simp] theorem State.runReleases_cmds (f : Nat) (s : State) : (State.runReleases f s).cmds = s.cmds := by
  induction f generalizing s with
  | zero => rfl
  | succ f ih => simp only [State.runReleases]; split <;> simp [ih]

@[simp] theorem State.ringCtl_cmds (s : State) (k : Nat) (join : Bool) : (State.ringCtl s k join).cmds = s.cmds := by
  simp [State.ringCtl]

@[simp] theorem State.wantJoin_cmds (s : State) (k : Nat) : (State.wantJoin s k).cmds = s.cmds := by
  unfold State.wantJoin; split <;> simp

@[simp] theorem State.sendFrame_cmds (s : State) (n typ stream seq first : Nat) (payload : Blob) : (State.sendFrame s n typ stream seq first payload).cmds = s.cmds := by
  rfl

@[simp] theorem State.creditPassed_cmds (s : State) (before : List TxItem) (after : List TxItem) : (State.creditPassed s before after).cmds = s.cmds := by
  simp only [State.creditPassed]; repeat' split
  all_goals try simp
  all_goals (apply foldl_cmds; intro t x; try dsimp only)
  all_goals repeat' split
  all_goals first | (simp; done) | (apply foldl_cmds; intro t x; (try dsimp only); (repeat' split) <;> simp)

@[simp] theorem State.sendData_cmds (s : State) (n stream : Nat) : (State.sendData s n stream).cmds = s.cmds := by
  simp [State.sendData]

@[simp] theorem State.pumpFrames_cmds (n f : Nat) (s : State) : (State.pumpFrames n f s).cmds = s.cmds := by
  induction f generalizing s with
  | zero => rfl
  | succ f ih => simp only [State.pumpFrames]; split <;> simp [ih]

@[simp] theorem State.pump_cmds (s : State) (n : Nat) : (State.pump s n).cmds = s.cmds := by
  unfold State.pump; split <;> simp

@[simp] theorem State.toLink_cmds (s : State) (n vc : Nat) (m : FloeMsg) : (State.toLink s n vc m).cmds = s.cmds := by
  simp [State.toLink]

@[simp] theorem State.startCensus_cmds (s : State) (k : Nat) : (State.startCensus s k).cmds = s.cmds := by
  simp [State.startCensus]

@[simp] theorem State.linkMoved_cmds (s : State) (k : Nat) : (State.linkMoved s k).cmds = s.cmds := by
  simp only [State.linkMoved]; repeat' split
  all_goals simp

@[simp] theorem State.loseLink_cmds (s : State) (n reason : Nat) : (State.loseLink s n reason).cmds = s.cmds := by
  unfold State.loseLink; split <;> simp

@[simp] theorem State.retrain_cmds (s : State) (n reason : Nat) (counted : Bool) : (State.retrain s n reason counted).cmds = s.cmds := by
  simp only [State.retrain]; repeat' split
  all_goals simp

@[simp] theorem State.resend_cmds (s : State) (n : Nat) : (State.resend s n).cmds = s.cmds := by
  simp only [State.resend]; repeat' split
  all_goals simp

@[simp] theorem State.sendOn_cmds (s : State) (r : Nat × Bool) (m : FloeMsg) : (State.sendOn s r m).cmds = s.cmds := by
  simp [State.sendOn]

@[simp] theorem State.floeDiscard_cmds (s : State) : (State.floeDiscard s).cmds = s.cmds := by
  rfl

@[simp] theorem State.forward_cmds (s : State) (link : Nat) (m : FloeMsg) : (State.forward s link m).cmds = s.cmds := by
  simp only [State.forward]; repeat' split
  all_goals simp

@[simp] theorem State.floeProtocol_cmds (s : State) (n : Nat) : (State.floeProtocol s n).cmds = s.cmds := by
  rfl

@[simp] theorem State.answerMsg_cmds (s : State) (m : FloeMsg) (typ status : Nat) (body : Blob) : (State.answerMsg s m typ status body).cmds = s.cmds := by
  unfold State.answerMsg; split <;> simp

@[simp] theorem State.setRemote_cmds (s : State) (tag : Nat) (x : Remote) : (State.setRemote s tag x).cmds = s.cmds := by
  rfl

@[simp] theorem State.sendRemote_cmds (s : State) (tag : Nat) (x : Remote) : (State.sendRemote s tag x).cmds = s.cmds := by
  simp [State.sendRemote]

@[simp] theorem State.linkUp_cmds (s : State) (n farNode farLink : Nat) : (State.linkUp s n farNode farLink).cmds = s.cmds := by
  simp only [State.linkUp]; repeat' split
  all_goals simp

@[simp] theorem State.marginLog_cmds (s : State) (m : MarginEnt) : (State.marginLog s m).cmds = s.cmds := by
  simp only [State.marginLog]; repeat' split
  all_goals simp

@[simp] theorem State.modSave_cmds (s : State) (x u : Nat) (f : SaveArea → SaveArea) : (State.modSave s x u f).cmds = s.cmds := by
  rfl

@[simp] theorem State.nowHolds_cmds (s : State) (u x : Nat) : (State.nowHolds s u x).cmds = s.cmds := by
  rfl

@[simp] theorem State.endTurn_cmds (s : State) (u : Nat) : (State.endTurn s u).cmds = s.cmds := by
  rfl

@[simp] theorem State.swapInCtx_cmds (s : State) (x : Nat) : (State.swapInCtx s x).cmds = s.cmds := by
  simp [State.swapInCtx]

@[simp] theorem State.freeSlots_cmds (s : State) (x : Nat) : (State.freeSlots s x).cmds = s.cmds := by
  rfl

@[simp] theorem State.adoptLink_cmds (s : State) (n : Nat) (data : Blob) : (State.adoptLink s n data).cmds = s.cmds := by
  simp only [State.adoptLink]; repeat' split
  all_goals simp

@[simp] theorem State.adoptEffect_cmds (s : State) (e : Nat) (i : CfgItem) : (State.adoptEffect s e i).cmds = s.cmds := by
  simp only [State.adoptEffect]; repeat' split
  all_goals simp

@[simp] theorem State.completeEffect_cmds (s : State) (x : Staged) : (State.completeEffect s x).cmds = s.cmds := by
  unfold State.completeEffect; split <;> simp

@[simp] theorem State.adoptOne_cmds (s : State) (e : Nat) (force : Bool) : (State.adoptOne s e force).cmds = s.cmds := by
  simp only [State.adoptOne]; repeat' split
  all_goals simp

@[simp] theorem State.openRecord_cmds (s : State) (r : RstRec) : (s.openRecord r).2.cmds = s.cmds := by
  simp only [State.openRecord]; split <;> simp

@[simp] theorem State.closeRecord_cmds (s : State) (slot outcome : Nat) (fenced : Bool) : (State.closeRecord s slot outcome fenced).cmds = s.cmds := by
  simp only [State.closeRecord]; repeat' split
  all_goals simp

@[simp] theorem State.holdDomain_cmds (s : State) : (State.holdDomain s).cmds = s.cmds := by
  rfl

@[simp] theorem State.nullTaps_cmds (s : State) (x : Nat) : (State.nullTaps s x).cmds = s.cmds := by
  simp [State.nullTaps]

@[simp] theorem State.countLost_cmds (s : State) (slot n : Nat) : (State.countLost s slot n).cmds = s.cmds := by
  rfl

@[simp] theorem State.markFenced_cmds (s : State) (e : Nat) : (State.markFenced s e).cmds = s.cmds := by
  simp [State.markFenced]

@[simp] theorem State.rtReplace_cmds (s : State) (n : Nat) : (State.rtReplace s n).cmds = s.cmds := by
  simp only [State.rtReplace]; repeat' split
  all_goals simp

@[simp] theorem State.interruptCq_cmds (s : State) (i : Nat) : (State.interruptCq s i).cmds = s.cmds := by
  simp only [State.interruptCq]; repeat' split
  all_goals simp

@[simp] theorem State.emitCqe_cmds (s : State) (i : Nat) (e : Cqe) : (State.emitCqe s i e).cmds = s.cmds := by
  simp only [State.emitCqe]; repeat' split
  all_goals simp

@[simp] theorem State.checkPark_cmds (s : State) (f : Nat) : (State.checkPark s f).cmds = s.cmds := by
  simp only [State.checkPark]; repeat' split
  all_goals simp

@[simp] theorem State.parkCqe_cmds (s : State) (i : Nat) (e : Cqe) : (State.parkCqe s i e).cmds = s.cmds := by
  simp only [State.parkCqe]; repeat' split
  all_goals simp

@[simp] theorem State.checkParks_cmds (s : State) : (State.checkParks s).cmds = s.cmds := by
  simp [State.checkParks]

@[simp] theorem State.unpark_cmds (s : State) (f : Nat) (l : List Parked) : (State.unpark s f l).cmds = s.cmds := by
  simp [State.unpark]

@[simp] theorem State.produceCqe_cmds (s : State) (i : Nat) (e : Cqe) : (State.produceCqe s i e).cmds = s.cmds := by
  simp only [State.produceCqe]; repeat' split
  all_goals simp

@[simp] theorem State.breakCq_cmds (s : State) (i : Nat) : (State.breakCq s i).cmds = s.cmds := by
  simp only [State.breakCq]; repeat' split
  all_goals simp

theorem State.replayTake_cmds {s t : State} {i : Nat} {q : Queue} {e : Cqe} (h : s.replayTake i q = some (e, t)) : t.cmds = s.cmds := by
  unfold State.replayTake at h
  repeat' split at h
  all_goals first | (cases h; simp; done) | cases h

@[simp] theorem State.tookCqe_cmds (s : State) (i : Nat) : (State.tookCqe s i).cmds = s.cmds := by
  rfl

@[simp] theorem State.replayPump_cmds (f : Nat) (s : State) : (State.replayPump f s).cmds = s.cmds := by
  induction f generalizing s with
  | zero => rfl
  | succ f ih =>
    simp only [State.replayPump]
    repeat' split
    all_goals first | rfl | (rename_i h; rw [ih]; simp [State.replayTake_cmds h])

@[simp] theorem State.replayOnward_cmds (s : State) : s.replayOnward.cmds = s.cmds := by
  unfold State.replayOnward; split <;> simp

@[simp] theorem State.discardParked_cmds (s : State) (f : Nat) : (State.discardParked s f).cmds = s.cmds := by
  simp only [State.discardParked]; repeat' split
  all_goals try simp
  all_goals (apply foldl_cmds; intro t x; try dsimp only)
  all_goals repeat' split
  all_goals first | (simp; done) | (apply foldl_cmds; intro t x; (try dsimp only); (repeat' split) <;> simp)

@[simp] theorem State.refuseDoorbell_cmds (s : State) (i : Nat) (q : Queue) : (State.refuseDoorbell s i q).cmds = s.cmds := by
  rfl

@[simp] theorem State.rejectDoorbell_cmds (s : State) : (State.rejectDoorbell s).cmds = s.cmds := by
  rfl

@[simp] theorem State.ringTail_cmds (s : State) (i : Nat) (q : Queue) (v : Nat) : (State.ringTail s i q v).cmds = s.cmds := by
  unfold State.ringTail; split <;> simp

@[simp] theorem State.ringMask_cmds (s : State) (i : Nat) (q : Queue) (v : Nat) : (State.ringMask s i q v).cmds = s.cmds := by
  unfold State.ringMask; split <;> simp

@[simp] theorem State.writeEvent_cmds (s : State) (f : Nat) : (State.writeEvent s f).cmds = s.cmds := by
  simp only [State.writeEvent]; repeat' split
  all_goals simp

@[simp] theorem State.markLeaving_cmds (s : State) (r : Nat) (c : Cmd) : (State.markLeaving s r c).cmds = s.cmds := by
  unfold State.markLeaving; split <;> simp

@[simp] theorem State.takeEntry_cmds (s : State) (i : Nat) (q : Queue) (e : Fetched) (rest : List Fetched) : (State.takeEntry s i q e rest).cmds = s.cmds := by
  rfl

@[simp] theorem State.grantFetch_cmds (s : State) (i : Nat) (slot : Nat) : (State.grantFetch s i slot).cmds = s.cmds := by
  unfold State.grantFetch; split <;> simp

@[simp] theorem State.startWalk_cmds (s : State) (r : Nat) (c : Cmd) (va : Nat) : (State.startWalk s r c va).cmds = s.cmds := by
  simp only [State.startWalk]; repeat' split
  all_goals simp

@[simp] theorem State.setCrev_cmds (s : State) (slot : Nat) (r : Crev) : (State.setCrev s slot r).cmds = s.cmds := by
  rfl

@[simp] theorem State.crevHeadWrite_cmds (s : State) (value : Nat) : (State.crevHeadWrite s value).cmds = s.cmds := by
  simp only [State.crevHeadWrite]; repeat' split
  all_goals simp

@[simp] theorem State.dropTap_cmds (s : State) (t : Tap) : (State.dropTap s t).cmds = s.cmds := by
  rfl

theorem State.takeChunks_cmds {s s' : State} {e : Fkt} {l : List (Nat × Nat)} (h : s.takeChunks e l = some s') : s'.cmds = s.cmds := by
  induction l generalizing s with
  | nil => cases h; rfl
  | cons a t ih =>
    simp only [State.takeChunks] at h
    split at h
    · rename_i h1; rw [ih h, State.takeFrames_cmds h1]
    · cases h

@[simp] theorem State.freeAlloc_cmds (s : State) (a : Nat) : (State.freeAlloc s a).cmds = s.cmds := by
  unfold State.freeAlloc; split <;> simp

@[simp] theorem State.addVersion_cmds (s : State) (g : Graph) (v : Nat) (nodes : List Node) : (State.addVersion s g v nodes).cmds = s.cmds := by
  rfl

@[simp] theorem State.stopFetch_cmds (s : State) (f : Nat) : (State.stopFetch s f).cmds = s.cmds := by
  rfl

@[simp] theorem State.dropVariant_cmds (s : State) (v : Nat) : (State.dropVariant s v).cmds = s.cmds := by
  rfl

@[simp] theorem State.putQueue_cmds (s : State) (f : Nat) (e : Nat × Queue) : (State.putQueue s f e).cmds = s.cmds := by
  simp [State.putQueue]

@[simp] theorem State.claimAll_cmds (s : State) (l : List (Nat × Nat × Nat × Fkt)) : (s.claimAll l).cmds = s.cmds := by
  unfold State.claimAll
  apply foldl_cmds
  intro t e
  cases h : t.takeFrames e.1 e.2.2.2 ((List.range e.2.2.1).map (e.2.1 + ·)) with
  | none => rfl
  | some u => exact State.takeFrames_cmds h

@[simp] theorem State.setRegions_cmds (s : State) (z : Regions) : (State.setRegions s z).cmds = s.cmds := by
  rfl

@[simp] theorem State.placeRegions_cmds (s : State) : (State.placeRegions s).cmds = s.cmds := by
  simp [State.placeRegions]

@[simp] theorem State.recoverPersist_cmds (s : State) (h : Blob) : (State.recoverPersist s h).cmds = s.cmds := by
  simp [State.recoverPersist]

@[simp] theorem State.formatPersist_cmds (s : State) : (State.formatPersist s).cmds = s.cmds := by
  unfold State.formatPersist
  rw [State.drawn_cmds, State.putHeader_cmds]

@[simp] theorem State.openPersist_cmds (s : State) : (State.openPersist s).cmds = s.cmds := by
  simp only [State.openPersist]; repeat' split
  all_goals simp

@[simp] theorem State.openPorts_cmds (s : State) : (State.openPorts s).cmds = s.cmds := by
  simp [State.openPorts]

@[simp] theorem State.joinRings_cmds (s : State) : (State.joinRings s).cmds = s.cmds := by
  simp [State.joinRings]

@[simp] theorem State.startKeys_cmds (s : State) : s.startKeys.cmds = s.cmds := by
  unfold State.startKeys; apply foldl_cmds; intro t k; simp

@[simp] theorem State.markCommitted_cmds (s : State) : s.markCommitted.cmds = s.cmds := by simp [State.markCommitted]

@[simp] theorem State.commitTopo_cmds (s : State) : (State.commitTopo s).cmds = s.cmds := by
  simp [State.commitTopo]

@[simp] theorem State.popLoad_cmds (s : State) : (State.popLoad s).cmds = s.cmds := by
  rfl

@[simp] theorem State.drainFor_cmds (s : State) (l : Load) : (State.drainFor s l).cmds = s.cmds := by
  unfold State.drainFor; split <;> simp

theorem State.claimVer_cmds {s s' : State} {v : ImgVer} {asked l : List Nat} (h : s.claimVer v asked = (some s', l)) : s'.cmds = s.cmds := by
  simp only [State.claimVer] at h
  split at h
  · cases h; simp
  · cases h

@[simp] theorem State.issueShards_cmds (n : Nat) (s : State) : (State.issueShards n s).cmds = s.cmds := by
  induction n generalizing s with
  | zero => rfl
  | succ n ih => simp only [State.issueShards]; repeat' split
                 all_goals simp [ih]

@[simp] theorem State.modShard_cmds (s : State) (i : Nat) (f : Shard → Shard) : (State.modShard s i f).cmds = s.cmds := by
  simp [State.modShard]

@[simp] theorem State.activate_cmds (s : State) (l : Load) : (State.activate s l).cmds = s.cmds := by
  simp [State.activate]

@[simp] theorem State.stallStreams_cmds (s : State) : (State.stallStreams s).cmds = s.cmds := by
  rfl

@[simp] theorem State.needRepair_cmds (s : State) (img ver t u : Nat) : (State.needRepair s img ver t u).cmds = s.cmds := by
  unfold State.needRepair; split <;> simp

@[simp] theorem State.modRepair_cmds (s : State) (id : Nat) (f : Repair → Repair) : (State.modRepair s id f).cmds = s.cmds := by
  rfl

@[simp] theorem State.endRepair_cmds (s : State) (id : Nat) : (State.endRepair s id).cmds = s.cmds := by
  simp [State.endRepair]

@[simp] theorem State.gotUnit_cmds (s : State) (p : Repair) (b : Blob) (host : Bool) : (State.gotUnit s p b host).cmds = s.cmds := by
  rfl

@[simp] theorem State.portRequest_cmds (s : State) (q : MemReq) (port : Nat) : (State.portRequest s q port).cmds = s.cmds := by
  simp only [State.portRequest]; repeat' split
  all_goals simp

@[simp] theorem State.newWindow_cmds (s : State) : (State.newWindow s).cmds = s.cmds := by
  rfl

@[simp] theorem State.movedWorks_cmds (s : State) (f dst : Nat × Nat) : (State.movedWorks s f dst).cmds = s.cmds := by
  rfl

theorem State.moveBytes_cmds {s s' : State} {e : Fkt} {a b : Nat × Nat} (h : s.moveBytes e a b = some s') : s'.cmds = s.cmds := by
  obtain ⟨t, ht, rfl⟩ := Option.map_eq_some_iff.mp h
  rw [State.releaseFrame_cmds, foldl_cmds _ _ _ (by intro u o; simp)]
  exact (State.takeFrames_cmds ht : t.cmds = s.cmds)

theorem State.moveFrame_cmds {s s' : State} {a b : Nat × Nat} (h : s.moveFrame a b = some s') : s'.cmds = s.cmds := by
  unfold State.moveFrame at h
  split at h
  · cases h
  · rename_i s0 h0
    obtain ⟨e, _, he⟩ := Option.bind_eq_some_iff.mp h0
    cases h
    dsimp only
    rw [foldl_cmds _ _ _ (by intro t w; simp), foldl_cmds _ _ _ (by intro t w; simp)]
    dsimp only
    rw [State.movedWorks_cmds]
    exact State.moveBytes_cmds he

@[simp] theorem State.nakOnce_cmds (s : State) (n : Nat) : (State.nakOnce s n).cmds = s.cmds := by
  unfold State.nakOnce; split <;> simp

@[simp] theorem State.passOn_cmds (s : State) (n stream : Nat) (d : Blob) (r : Nat) : (State.passOn s n stream d r).cmds = s.cmds := by
  rfl

@[simp] theorem State.beginPass_cmds (s : State) (n stream : Nat) (b : Blob) : (State.beginPass s n stream b).cmds = s.cmds := by
  unfold State.beginPass; split <;> simp

@[simp] theorem State.takeMsgs_cmds (n stream f : Nat) (b : Blob) (s : State) : (State.takeMsgs n stream f b s).cmds = s.cmds := by
  induction f generalizing b s with
  | zero => simp [State.takeMsgs]
  | succ f ih => simp only [State.takeMsgs]; repeat' split
                 all_goals simp [ih]

@[simp] theorem State.holdFrame_cmds (s : State) (n i had : Nat) (fresh : Bool) : (State.holdFrame s n i had fresh).cmds = s.cmds := by
  simp only [State.holdFrame]; repeat' split
  all_goals simp

@[simp] theorem State.takeData_cmds (s : State) (n : Nat) (f : Blob) : (State.takeData s n f).cmds = s.cmds := by
  simp [State.takeData]

@[simp] theorem State.ackFrame_cmds (s : State) (n before : Nat) : (State.ackFrame s n before).cmds = s.cmds := by
  unfold State.ackFrame; split <;> simp

@[simp] theorem State.arrived_cmds (s : State) (link : Nat) (m : FloeMsg) (typ : Nat) (f : State → State) (hf : ∀ t , (f t ).cmds = t.cmds) : (State.arrived s link m typ f).cmds = s.cmds := by
  simp only [State.arrived]; repeat' split
  all_goals simp [hf]

@[simp] theorem State.floeStale_cmds (s : State) : (State.floeStale s).cmds = s.cmds := by
  rfl

@[simp] theorem State.ringWrite_cmds (s : State) (k action : Nat) : (State.ringWrite s k action).cmds = s.cmds := by
  simp only [State.ringWrite]; repeat' split
  all_goals simp

@[simp] theorem State.doeAnswer_cmds (s : State) (f : Nat) (b : Blob) : (State.doeAnswer s f b).cmds = s.cmds := by
  rfl

@[simp] theorem State.signedAnswer_cmds (s : State) (f code p1 p2 : Nat) (body : Blob) : (State.signedAnswer s f code p1 p2 body).cmds = s.cmds := by
  rfl

@[simp] theorem State.modSession_cmds (s : State) (n : Nat) (g : Session → Session) : (State.modSession s n g).cmds = s.cmds := by
  rfl

@[simp] theorem State.endSession_cmds (s : State) (n : Nat) : (State.endSession s n).cmds = s.cmds := by
  rfl

@[simp] theorem State.endSessions_cmds (s : State) (f : Nat) : (State.endSessions s f).cmds = s.cmds := by
  rfl

@[simp] theorem State.secured_cmds (s : State) (f n : Nat) (m : Blob) : (State.secured s f n m).cmds = s.cmds := by
  unfold State.secured; split <;> simp

@[simp] theorem State.newSecret_cmds (s : State) (n : Nat) : (State.newSecret s n).cmds = s.cmds := by
  rfl

@[simp] theorem State.keyExchange_cmds (s : State) (f req : Nat) : (State.keyExchange s f req).cmds = s.cmds := by
  unfold State.keyExchange; split <;> simp

@[simp] theorem State.established_cmds (s : State) (f n : Nat) (who : Option Blob) : (State.established s f n who).cmds = s.cmds := by
  simp [State.established]

@[simp] theorem State.finishSession_cmds (s : State) (f n : Nat) (auth : Option Blob) : (State.finishSession s f n auth).cmds = s.cmds := by
  simp only [State.finishSession]; repeat' split
  all_goals simp

@[simp] theorem State.agreed_cmds (s : State) (f : Nat) (g : State → State) (hg : ∀ t , (g t ).cmds = t.cmds) : (State.agreed s f g).cmds = s.cmds := by
  unfold State.agreed; split <;> simp [hg]

@[simp] theorem State.inSession_cmds (s : State) (f n : Nat) (g : State → State) (hg : ∀ t , (g t ).cmds = t.cmds) : (State.inSession s f n g).cmds = s.cmds := by
  unfold State.inSession; split <;> simp [hg]

@[simp] theorem State.onSlot0_cmds (s : State) (f slot : Nat) (g : State → State) (hg : ∀ t , (g t ).cmds = t.cmds) : (State.onSlot0 s f slot g).cmds = s.cmds := by
  unfold State.onSlot0; split <;> simp [hg]

@[simp] theorem State.vendorAnswer_cmds (s : State) (f : Nat) (ses : Option Nat) (result : Nat) (body : Blob) : (State.vendorAnswer s f ses result body).cmds = s.cmds := by
  unfold State.vendorAnswer; split <;> simp

@[simp] theorem State.powerDown_cmds (s : State) (k : PwrSt) : (State.powerDown s k).cmds = s.cmds := by
  rfl

@[simp] theorem State.restartForPatch_cmds (s : State) : (State.restartForPatch s).cmds = s.cmds := by
  rfl

@[simp] theorem State.newChallenge_cmds (s : State) : (State.newChallenge s).cmds = s.cmds := by
  rfl

@[simp] theorem State.banner_cmds (s : State) : (State.banner s).cmds = s.cmds := by
  rfl

@[simp] theorem State.tarnStart_cmds (s : State) : (State.tarnStart s).cmds = s.cmds := by
  rfl

@[simp] theorem State.resetHead_cmds (s : State) (value : Nat) : (State.resetHead s value).cmds = s.cmds := by
  simp only [State.resetHead]; repeat' split
  all_goals simp

@[simp] theorem State.holdupBegin_cmds (s : State) : (State.holdupBegin s).cmds = s.cmds := by
  rfl

@[simp] theorem State.holdupState_cmds (s : State) : (State.holdupState s).cmds = s.cmds := by
  rfl

@[simp] theorem State.leaveRings_cmds (s : State) : (State.leaveRings s).cmds = s.cmds := by
  simp [State.leaveRings]

@[simp] theorem State.holdBegins_cmds (s : State) : (State.holdBegins s).cmds = s.cmds := by
  unfold State.holdBegins; split <;> simp

@[simp] theorem State.ticTake_cmds (s : State) (n : Nat) : (State.ticTake s n).cmds = s.cmds := by
  rfl

@[simp] theorem State.ticEoi_cmds (s : State) (n : Nat) : (State.ticEoi s n).cmds = s.cmds := by
  unfold State.ticEoi; split <;> simp

@[simp] theorem State.releaseVectors_cmds (s : State) (f : Nat) : (State.releaseVectors s f).cmds = s.cmds := by
  unfold State.releaseVectors; split <;> simp

@[simp] theorem State.wplogFlush_cmds (s : State) (fn value : Nat) : (State.wplogFlush s fn value).cmds = s.cmds := by
  unfold State.wplogFlush; split <;> simp

@[simp] theorem State.moraineClear_cmds (s : State) (fn value : Nat) : (State.moraineClear s fn value).cmds = s.cmds := by
  unfold State.moraineClear; split <;> simp

@[simp] theorem State.adminResumeWrite_cmds (s : State) (v : Nat) : (State.adminResumeWrite s v).cmds = s.cmds := by
  simp only [State.adminResumeWrite]; repeat' split
  all_goals simp

@[simp] theorem State.qcfgWrite_cmds (s : State) (f v : Nat) : (State.qcfgWrite s f v).cmds = s.cmds := by
  unfold State.qcfgWrite; split <;> simp

@[simp] theorem State.hostAddWrite_cmds (s : State) (v : Nat) : (s.hostAddWrite v).cmds = s.cmds := by
  simp only [State.hostAddWrite]
  split
  · rfl
  · split
    · split
      · rename_i h; simp [State.takeChunks_cmds h]
      · rfl
    · rfl

@[simp] theorem State.imageCfgWrite_cmds (s : State) (n v : Nat) : (State.imageCfgWrite s n v).cmds = s.cmds := by
  unfold State.imageCfgWrite; split <;> simp

@[simp] theorem State.quotaWrite_cmds (s : State) (f v : Nat) : (State.quotaWrite s f v).cmds = s.cmds := by
  simp only [State.quotaWrite]; repeat' split
  all_goals simp

@[simp] theorem State.adminCtlWrite_cmds (s : State) (v : Nat) : (State.adminCtlWrite s v).cmds = s.cmds := by
  simp only [State.adminCtlWrite]; repeat' split
  all_goals simp

@[simp] theorem State.dataWrite_cmds (s : State) (r : Reg) (v : Nat) : (State.dataWrite s r v).cmds = s.cmds := by
  simp only [State.dataWrite]; repeat' split
  all_goals simp

@[simp] theorem State.restWrite_cmds (s : State) (r : Reg) (v : Nat) : (State.restWrite s r v).cmds = s.cmds := by
  simp only [State.restWrite]; repeat' split
  all_goals simp

@[simp] theorem State.msixWrite_cmds (s : State) (f o w v : Nat) : (State.msixWrite s f o w v).cmds = s.cmds := by
  simp [State.msixWrite]

@[simp] theorem State.readHalf_cmds (s : State) (sp : Space) (off : Nat) (r : Reg) (o : Nat) : (s.readHalf sp off r o).2.cmds = s.cmds := by
  simp only [State.readHalf]; repeat' split
  all_goals simp

@[simp] theorem State.busRead_cmds (s : State) (sp : Space) (off w : Nat) : (s.busRead sp off w).2.cmds = s.cmds := by
  simp only [State.busRead]; repeat' split
  all_goals simp

@[simp] theorem State.writeLow_cmds (s : State) (sp : Space) (off v : Nat) : (State.writeLow s sp off v).cmds = s.cmds := by
  simp [State.writeLow]

@[simp] theorem State.readVia_cmds (s : State) (c : Instr) (sp : Space) (off w : Nat) : (State.readVia s c sp off w).cmds = s.cmds := by
  simp only [State.readVia]; repeat' split
  all_goals simp

@[simp] theorem State.monAnswer_cmds (s : State) (lines : List (List Nat)) (e : Option MonErr) : (State.monAnswer s lines e).cmds = s.cmds := by
  simp [State.monAnswer]

@[simp] theorem State.monRefuse_cmds (s : State) (e : MonErr) : (State.monRefuse s e).cmds = s.cmds := by
  simp [State.monRefuse]

@[simp] theorem State.view_cmds (s : State) (off w : Nat) : (s.view off w).2.cmds = s.cmds := by simp [State.view]

@[simp] theorem State.monRead_cmds (s : State) (off w n : Nat) : (s.monRead off w n).2.cmds = s.cmds := by
  induction n generalizing s off with
  | zero => rfl
  | succ n ih => simp [State.monRead, ih]

@[simp] theorem State.monList_cmds (s : State) (l : List (Nat × Nat)) : (s.monList l).2.cmds = s.cmds := by
  induction l generalizing s with
  | nil => rfl
  | cons a t ih => simp [State.monList, ih]

@[simp] theorem State.monLines_cmds (s : State) (l : List (List (Nat × Nat))) : (s.monLines l).2.cmds = s.cmds := by
  induction l generalizing s with
  | nil => rfl
  | cons a t ih => simp [State.monLines, ih]

@[simp] theorem State.monVersion_cmds (s : State) : (State.monVersion s).cmds = s.cmds := by
  simp [State.monVersion]

@[simp] theorem State.monHeartbeat_cmds (s : State) : (State.monHeartbeat s).cmds = s.cmds := by
  simp [State.monHeartbeat]

@[simp] theorem State.monRings_cmds (s : State) (l : List Nat) : (s.monRings l).2.cmds = s.cmds := by
  induction l generalizing s with
  | nil => rfl
  | cons a t ih => simp [State.monRings, ih]

@[simp] theorem State.setLine_cmds (s : State) (l : List Nat) (cr : Bool) : (State.setLine s l cr).cmds = s.cmds := by
  rfl

@[simp] theorem State.scramble_cmds (s : State) (a : Alloc) : (State.scramble s a).cmds = s.cmds := by
  rfl

@[simp] theorem State.dropSlices_cmds (s : State) (v : Nat) : (State.dropSlices s v).cmds = s.cmds := by
  rfl

@[simp] theorem State.unchange_cmds (s : State) (id : Nat) : (State.unchange s id).cmds = s.cmds := by
  rfl

@[simp] theorem State.storeCkpt_cmds (s : State) (c : Ckpt) : (State.storeCkpt s c).cmds = s.cmds := by
  simp only [State.storeCkpt]; repeat' split
  all_goals simp

@[simp] theorem State.offer_cmds (s : State) (c : Instr) : (State.offer s c).cmds = s.cmds := by
  rfl

@[simp] theorem State.withFetchWord_cmds (s : State) (nbits w : Nat) : (State.withFetchWord s nbits w).cmds = s.cmds := by
  rfl

/-! ### `queues` -/

@[simp] theorem foldl_queues {β : Type} (f : State → β → State) (l : List β) (s : State) (h : ∀ t x, (f t x).queues = t.queues) :
    (l.foldl f s).queues = s.queues := by induction l generalizing s with | nil => rfl | cons a l ih => simp [ih, h]

@[simp] theorem State.logPage_queues (s : State) (f page : Nat) : (State.logPage s f page).queues = s.queues := by
  simp only [State.logPage]; repeat' split
  all_goals simp

@[simp] theorem State.moraine_queues (s : State) (f n : Nat) : (State.moraine s f n).queues = s.queues := by
  rfl

@[simp] theorem State.releaseRefused_queues (s : State) (r : Nat) : (State.releaseRefused s r).queues = s.queues := by
  unfold State.releaseRefused; split <;> simp

@[simp] theorem State.endCmd_queues (s : State) (r : Nat) (st : Status) : (State.endCmd s r st).queues = s.queues := by
  simp [State.endCmd]

@[simp] theorem State.dropStreams_queues (s : State) (r : Nat) : (State.dropStreams s r).queues = s.queues := by
  rfl

@[simp] theorem State.crevMap_queues (s : State) (p : Crev → Bool) (f : Crev → Crev) : (State.crevMap s p f).queues = s.queues := by
  rfl

@[simp] theorem State.crevLeave_queues (s : State) (r : Nat) : (State.crevLeave s r).queues = s.queues := by
  rfl

@[simp] theorem State.failCmd_queues (s : State) (r : Nat) (st : Status) : (State.failCmd s r st).queues = s.queues := by
  unfold State.failCmd; split <;> simp

@[simp] theorem State.failAll_queues (s : State) (l : List Nat) (st : Status) : (State.failAll s l st).queues = s.queues := by
  simp [State.failAll]

@[simp] theorem State.sendFloe_queues (s : State) (link : Nat) (m : FloeMsg) : (State.sendFloe s link m).queues = s.queues := by
  rfl

@[simp] theorem State.sendUart_queues (s : State) (l : List Nat) : (State.sendUart s l).queues = s.queues := by
  rfl

@[simp] theorem State.beginWake_queues (s : State) : (State.beginWake s).queues = s.queues := by
  rfl

@[simp] theorem State.startWake_queues (s : State) (src : WakeSrc) : (State.startWake s src).queues = s.queues := by
  unfold State.startWake; split <;> simp

@[simp] theorem State.config_queues (s : State) (c : Instr) (f : State → State) (hf : ∀ t , (f t ).queues = t.queues) : (State.config s c f).queues = s.queues := by
  simp only [State.config]; repeat' split
  all_goals simp [hf]

@[simp] theorem State.abortRead_queues (s : State) (f : Nat) : (State.abortRead s f).queues = s.queues := by
  rfl

@[simp] theorem State.access_queues (s : State) (c : Instr) (read : Bool) (f : State → State) (hf : ∀ t , (f t ).queues = t.queues) : (State.access s c read f).queues = s.queues := by
  simp only [State.access]; repeat' split
  all_goals simp [hf]

@[simp] theorem State.setFkt_queues (s : State) (tier frame : Nat) (e : Fkt) : (State.setFkt s tier frame e).queues = s.queues := by
  unfold State.setFkt; split <;> simp

@[simp] theorem State.clearFkt_queues (s : State) (tier frame : Nat) : (State.clearFkt s tier frame).queues = s.queues := by
  unfold State.clearFkt; split <;> simp

@[simp] theorem State.fillKey_queues (s : State) (k : Nat) (owner : Option Nat) : (State.fillKey s k owner).queues = s.queues := by
  rfl

@[simp] theorem State.dropKey_queues (s : State) (k : Nat) : (State.dropKey s k).queues = s.queues := by
  rfl

@[simp] theorem State.modSlot_queues (s : State) (k : Nat) (f : VSlot → VSlot) : (State.modSlot s k f).queues = s.queues := by
  rfl

theorem State.newBlock_queues {s s' : State} {t : Nat} (h : s.newBlock t = some s') : s'.queues = s.queues := by
  simp only [State.newBlock] at h
  by_cases hn : s.varve.blocksIn t % 29 ≠ 0
  · rw [if_pos hn] at h; cases h; rfl
  · rw [if_neg hn] at h; obtain ⟨f, _, rfl⟩ := Option.map_eq_some_iff.mp h; simp

@[simp] theorem State.useSlot_queues (s : State) (k tier frame key : Nat) : (State.useSlot s k tier frame key).queues = s.queues := by
  rfl

theorem State.protect_queues {s s' : State} {tier frame key : Nat} (h : s.protect tier frame key = some s') : s'.queues = s.queues := by
  simp only [State.protect] at h
  split at h
  · cases h; simp
  · split at h
    · cases h
    · obtain ⟨t, ht, rfl⟩ := Option.map_eq_some_iff.mp h; simp [State.newBlock_queues ht]

theorem State.protectAll_queues {tier key : Nat} {l : List Nat} {s s' : State} (h : State.protectAll tier key l s = some s') : s'.queues = s.queues := by
  induction l generalizing s with
  | nil => cases h; rfl
  | cons f t ih =>
    simp only [State.protectAll] at h
    split at h
    · cases h
    · rename_i s2 h2; rw [ih h]; simp [State.protect_queues h2]

theorem State.takeFrames_queues {s s' : State} {tier : Nat} {e : Fkt} {l : List Nat} (h : s.takeFrames tier e l = some s') : s'.queues = s.queues := by
  simp only [State.takeFrames] at h
  split at h
  · rw [State.protectAll_queues h]; simp
  · cases h; simp

@[simp] theorem State.forgetFrame_queues (s : State) (tier frame : Nat) : (State.forgetFrame s tier frame).queues = s.queues := by
  rfl

@[simp] theorem State.releaseFrame_queues (s : State) (tier frame : Nat) : (State.releaseFrame s tier frame).queues = s.queues := by
  simp only [State.releaseFrame]; repeat' split
  all_goals simp

@[simp] theorem State.setPage_queues (s : State) (k p : Nat) (c : PageCtr) : (State.setPage s k p c).queues = s.queues := by
  simp only [State.setPage]; repeat' split
  all_goals simp

@[simp] theorem State.leaveWalk_queues (s : State) (key k p : Nat) : (State.leaveWalk s key k p).queues = s.queues := by
  rfl

@[simp] theorem State.chunkFetch_queues (s : State) (tier off : Nat) : (State.chunkFetch s tier off).queues = s.queues := by
  unfold State.chunkFetch; split <;> simp

@[simp] theorem State.chunkStore_queues (s : State) (tier off : Nat) : (State.chunkStore s tier off).queues = s.queues := by
  unfold State.chunkStore; split <;> simp

@[simp] theorem State.recrypt_queues (s : State) (k p : Nat) (c : PageCtr) : (State.recrypt s k p c).queues = s.queues := by
  simp only [State.recrypt]; repeat' split
  all_goals simp

@[simp] theorem State.endWalk_queues (s : State) (key : Nat) : (State.endWalk s key).queues = s.queues := by
  simp only [State.endWalk]; repeat' split
  all_goals try simp
  all_goals (apply foldl_queues; intro t x; try dsimp only)
  all_goals repeat' split
  all_goals first | (simp; done) | (apply foldl_queues; intro t x; (try dsimp only); (repeat' split) <;> simp)

@[simp] theorem State.startRekey_queues (s : State) (key : Nat) : (State.startRekey s key).queues = s.queues := by
  rfl

@[simp] theorem State.rekeyPage_queues (s : State) (key k p : Nat) (c : PageCtr) : (State.rekeyPage s key k p c).queues = s.queues := by
  simp only [State.rekeyPage]; repeat' split
  all_goals simp

@[simp] theorem State.reencrypt_queues (s : State) (k p : Nat) (v : VSlot) : (State.reencrypt s k p v).queues = s.queues := by
  simp only [State.reencrypt]; repeat' split
  all_goals simp

@[simp] theorem State.bumpMinor_queues (s : State) (k p g : Nat) : (State.bumpMinor s k p g).queues = s.queues := by
  unfold State.bumpMinor; split <;> simp

@[simp] theorem State.glazeWrite_queues (s : State) (tier off len : Nat) : (State.glazeWrite s tier off len).queues = s.queues := by
  simp only [State.glazeWrite]; repeat' split
  all_goals simp

@[simp] theorem State.writeNode_queues (s : State) (level pos : Nat) : (State.writeNode s level pos).queues = s.queues := by
  unfold State.writeNode; split <;> simp

@[simp] theorem State.halt_queues (s : State) (r : Seal) : (State.halt s r).queues = s.queues := by
  unfold State.halt; split <;> simp

@[simp] theorem State.append_queues (s : State) (f : Nat) (r : Receipt) : (State.append s f r).queues = s.queues := by
  simp only [State.append]; repeat' split
  all_goals simp

@[simp] theorem State.persistPut_queues (s : State) (o : Nat) (b : Blob) : (State.persistPut s o b).queues = s.queues := by
  rfl

@[simp] theorem State.putHeader_queues (s : State) (clean : Bool) : (State.putHeader s clean).queues = s.queues := by
  rfl

@[simp] theorem State.persistOne_queues (s : State) (x : Receipt) : (State.persistOne s x).queues = s.queues := by
  unfold State.persistOne
  dsimp only
  rw [State.putHeader_queues]
  simp

@[simp] theorem State.restartDue_queues (s : State) (f : Nat) : (State.restartDue s f).queues = s.queues := by
  unfold State.restartDue; split <;> simp

@[simp] theorem State.persistAll_queues (s : State) : (State.persistAll s).queues = s.queues := by
  simp [State.persistAll]

@[simp] theorem State.regionWrite_queues (s : State) (off : Nat) (b : Blob) : (State.regionWrite s off b).queues = s.queues := by
  simp [State.regionWrite]

@[simp] theorem State.regionPut_queues (s : State) (off : Nat) (b : Blob) : (State.regionPut s off b).queues = s.queues := by
  simp only [State.regionPut]; repeat' split
  all_goals try simp
  all_goals (apply foldl_queues; intro t x; try dsimp only)
  all_goals repeat' split
  all_goals first | (simp; done) | (apply foldl_queues; intro t x; (try dsimp only); (repeat' split) <;> simp)

@[simp] theorem State.placeTables_queues (s : State) (x : Nat) (ls : List Leaf) : (State.placeTables s x ls).queues = s.queues := by
  rfl

@[simp] theorem State.putTables_queues (s : State) (x : Nat) (ls : List Leaf) : (State.putTables s x ls).queues = s.queues := by
  simp [State.putTables]

@[simp] theorem State.crevWrite_queues (s : State) (r : Crev) : (State.crevWrite s r).queues = s.queues := by
  rfl

@[simp] theorem State.crevPost_queues (s : State) (r0 : Crev) : (State.crevPost s r0).queues = s.queues := by
  simp only [State.crevPost]; repeat' split
  all_goals simp

@[simp] theorem State.crevPostWaiting_queues (s : State) : (State.crevPostWaiting s).queues = s.queues := by
  unfold State.crevPostWaiting; split <;> simp

@[simp] theorem State.tileFault_queues (s : State) (r : Nat) (c : Cmd) (ls : List Leaf) (engines access missingVa : Nat) (ranges : List (Nat × Nat)) (early : Bool) : (State.tileFault s r c ls engines access missingVa ranges early).queues = s.queues := by
  simp only [State.tileFault]; repeat' split
  all_goals simp

@[simp] theorem State.rightsFault_queues (s : State) (c : Cmd) (engines access : Nat) (va : Nat) (ranges lack : List (Nat × Nat)) : (State.rightsFault s c engines access va ranges lack).queues = s.queues := by
  simp [State.rightsFault]

@[simp] theorem State.crevResolve_queues (s : State) (c lo hi : Nat) : (State.crevResolve s c lo hi).queues = s.queues := by
  unfold State.crevResolve; split <;> simp

@[simp] theorem State.crevWithdrawCtx_queues (s : State) (c : Nat) : (State.crevWithdrawCtx s c).queues = s.queues := by
  rfl

@[simp] theorem State.invalidate_queues (s : State) (c lo hi : Nat) (cmd : Option Nat) (change : Option Change) : (State.invalidate s c lo hi cmd change).queues = s.queues := by
  rfl

@[simp] theorem State.fktDeny_queues (s : State) (q : MemReq) : (State.fktDeny s q).queues = s.queues := by
  simp only [State.fktDeny]; repeat' split
  all_goals simp

@[simp] theorem State.hotCount_queues (s : State) (tier offset : Nat) (epoch : Option Nat) : (State.hotCount s tier offset epoch).queues = s.queues := by
  simp only [State.hotCount]; repeat' split
  all_goals simp

@[simp] theorem State.refuseBad_queues (s : State) (q : MemReq) : (State.refuseBad s q).queues = s.queues := by
  unfold State.refuseBad; split <;> simp

@[simp] theorem State.chunkWrite_queues (s : State) (q : MemReq) (data : Blob) : (State.chunkWrite s q data).queues = s.queues := by
  simp only [State.chunkWrite]; repeat' split
  all_goals simp

@[simp] theorem State.putGranule_queues (s : State) (q : MemReq) (data : Blob) : (State.putGranule s q data).queues = s.queues := by
  simp only [State.putGranule]; repeat' split
  all_goals simp

@[simp] theorem State.portWrite_queues (s : State) (q : MemReq) (data : Blob) : (State.portWrite s q data).queues = s.queues := by
  simp only [State.portWrite]; repeat' split
  all_goals try simp
  all_goals (apply foldl_queues; intro t x; try dsimp only)
  all_goals repeat' split
  all_goals first | (simp; done) | (apply foldl_queues; intro t x; (try dsimp only); (repeat' split) <;> simp)

@[simp] theorem State.chunkRead_queues (s : State) (q : MemReq) : (State.chunkRead s q).queues = s.queues := by
  simp only [State.chunkRead]; repeat' split
  all_goals simp

@[simp] theorem State.getGranule_queues (s : State) (q : MemReq) : (s.getGranule q).2.queues = s.queues := by
  simp only [State.getGranule]; repeat' split
  all_goals simp

/-- A fold over a pair of bytes and state. -/
theorem foldPair_queues {β : Type} (f : Blob × State → β → Blob × State) (l : List β) (x : Blob × State) (h : ∀ y a, (f y a).2.queues = y.2.queues) :
    (l.foldl f x).2.queues = x.2.queues := by induction l generalizing x with | nil => rfl | cons a l ih => simp [ih, h]

@[simp] theorem State.portRead_queues (s : State) (q : MemReq) (n : Nat) : (s.portRead q n).2.queues = s.queues := by
  simp only [State.portRead]; rw [foldPair_queues]; intro y a; (try dsimp only); split <;> simp

@[simp] theorem State.readVa_queues (s : State) (r : Nat) (c : Cmd) (ls : List Leaf) (va len : Nat) : (s.readVa r c ls va len).2.queues = s.queues := by
  simp only [State.readVa]; rw [foldPair_queues]; intro y a; (try dsimp only); repeat' split
  all_goals simp

@[simp] theorem putFrames_queues (a : Alloc) (q : MemReq) (f off : Nat) (b : Blob) (s : State) : (putFrames a q f off b s).queues = s.queues := by
  induction f generalizing off b s with
  | zero => rfl
  | succ f ih => simp only [putFrames]; split <;> simp [ih]

@[simp] theorem getFrames_queues (a : Alloc) (q : MemReq) (f off n : Nat) (s : State) : (getFrames a q f off n s).2.queues = s.queues := by
  induction f generalizing off n s with
  | zero => rfl
  | succ f ih => simp only [getFrames]; split <;> simp [ih]

@[simp] theorem State.allocPut_queues (s : State) (a : Alloc) (q : MemReq) (off : Nat) (b : Blob) : (State.allocPut s a q off b).queues = s.queues := by
  simp [State.allocPut]

@[simp] theorem State.allocGet_queues (s : State) (a : Alloc) (q : MemReq) (off n : Nat) : (s.allocGet a q off n).2.queues = s.queues := by
  simp [State.allocGet]

@[simp] theorem State.pageWritten_queues (s : State) (p : Page) (mem : List Host.Cell) : (State.pageWritten s p mem).queues = s.queues := by
  unfold State.pageWritten
  rw [foldl_queues]
  intro t o; simp

@[simp] theorem State.zeroPage_queues (s : State) (p : Page) : (State.zeroPage s p).queues = s.queues := State.pageWritten_queues _ _ _

@[simp] theorem State.copyPage_queues (s : State) (m : Move) : (State.copyPage s m).queues = s.queues := by
  unfold State.copyPage
  rw [State.pageWritten_queues, foldl_queues]
  intro t o; split <;> simp

@[simp] theorem State.doMoves_queues (s : State) (mv : List Move) (fresh : List Page) : (State.doMoves s mv fresh).queues = s.queues := by
  simp [State.doMoves]

@[simp] theorem State.syncSeq_queues (s : State) (i : Nat) (q : Sequence) : (State.syncSeq s i q).queues = s.queues := by
  simp [State.syncSeq]

@[simp] theorem State.syncSeqs_queues (s : State) : (State.syncSeqs s).queues = s.queues := by
  simp [State.syncSeqs]

theorem State.reserve_queues {s s' : State} {r seq n : Nat} {own : Option Nat} (h : s.reserve r seq n own = some s') : s'.queues = s.queues := by
  simp only [State.reserve] at h
  split at h
  · cases h
  · cases h; simp

@[simp] theorem State.fitBlocks_queues (s : State) (i : Nat) : (State.fitBlocks s i).queues = s.queues := by
  unfold State.fitBlocks; split <;> simp

@[simp] theorem State.unreserve_queues (s : State) (r : Nat) : (State.unreserve s r).queues = s.queues := by
  unfold State.unreserve; split <;> simp

@[simp] theorem State.freeSeqPages_queues (s : State) (i keep : Nat) : (State.freeSeqPages s i keep).queues = s.queues := by
  unfold State.freeSeqPages; split <;> simp

@[simp] theorem State.releaseSeq_queues (s : State) (i : Nat) : (State.releaseSeq s i).queues = s.queues := by
  simp [State.releaseSeq]

@[simp] theorem State.takeTokens_queues (s : State) (c : Cmd) (take : Bool) : (State.takeTokens s c take).queues = s.queues := by
  rfl

@[simp] theorem State.loosen_queues (s : State) (i : Nat) : (State.loosen s i).queues = s.queues := by
  simp only [State.loosen]; repeat' split
  all_goals try simp
  all_goals (apply foldl_queues; intro t x; try dsimp only)
  all_goals repeat' split
  all_goals first | (simp; done) | (apply foldl_queues; intro t x; (try dsimp only); (repeat' split) <;> simp)

@[simp] theorem State.snowEnd_queues (s : State) (r : Nat) (ok : Bool) : (State.snowEnd s r ok).queues = s.queues := by
  simp only [State.snowEnd]; repeat' split
  all_goals simp

theorem foldPass_queues {β : Type} (f : Pass → β → Pass) (l : List β) (p : Pass) (h : ∀ q a, (f q a).s.queues = q.s.queues) :
    (l.foldl f p).s.queues = p.s.queues := by induction l generalizing p with | nil => rfl | cons a l ih => simp [ih, h]

@[simp] theorem Pass.grow_queues (p : Pass) (e : Nat × Cmd) : (p.grow e).s.queues = p.s.queues := by
  simp only [Pass.grow]; repeat' split
  · rfl
  · simp
  · rw [foldPass_queues]; intro q i; (try dsimp only); split
    · rfl
    · split
      · rename_i h; exact State.reserve_queues h
      · rfl

@[simp] theorem foldGrow_queues (l : List (Nat × Cmd)) (p : Pass) : (l.foldl Pass.grow p).s.queues = p.s.queues := foldPass_queues _ _ _ Pass.grow_queues

@[simp] theorem State.startStep_queues (s : State) (r : Nat) (c : Cmd) : (State.startStep s r c).queues = s.queues := by
  rfl

@[simp] theorem State.createSeq_queues (s : State) (r : Nat) (c : Cmd) : (State.createSeq s r c).queues = s.queues := by
  simp only [State.createSeq]; repeat' split
  all_goals simp

theorem Pass.join_queues (p : Pass) (e : Nat × Cmd) : (p.join e).s.queues = p.s.queues := by
  have h1 : ∀ (l : List Nat) (p : Pass), (l.foldl (fun (q : Pass) i =>
      if q.cut.isSome then q
      else match q.s.reserve e.1 i (q.s.lacks e.1 e.2 i) none with
        | some s1 => { q with s := s1 }
        | none => { q with cut := some e.1 }) p).s.queues = p.s.queues := by
    intro l p
    apply foldPass_queues
    intro q i
    split
    · rfl
    · split
      · rename_i h; exact State.reserve_queues h
      · rfl
  unfold Pass.join
  dsimp only
  repeat' split
  all_goals first | rfl | exact h1 _ _ | (simp; done) | (simp; exact h1 _ _)

@[simp] theorem joinPhase_queues (l : List (Nat × Cmd)) (p : Pass) : (joinPhase l p).s.queues = p.s.queues := by
  induction l generalizing p with
  | nil => rfl
  | cons e t ih => simp only [joinPhase]; repeat' split
                   all_goals simp [ih, Pass.join_queues]

@[simp] theorem Pass.over_queues (p : Pass) (l : List (Nat × Cmd)) : (p.over l).s.queues = p.s.queues := by
  unfold Pass.over; simp

@[simp] theorem State.applyLeaves_queues (s : State) : (State.applyLeaves s).queues = s.queues := by
  simp only [State.applyLeaves]; repeat' split
  all_goals try simp
  all_goals (apply foldl_queues; intro t x; try dsimp only)
  all_goals repeat' split
  all_goals first | (simp; done) | (apply foldl_queues; intro t x; (try dsimp only); (repeat' split) <;> simp)

@[simp] theorem State.passOver_queues (s : State) (l : List (Nat × Cmd)) (cut : Option Nat) : (s.passOver l cut).s.queues = s.queues := by
  have h : ∀ m : List (Nat × Cmd), (({ s := s } : Pass).over m).s.queues = s.queues := fun m => Pass.over_queues _ _
  unfold State.passOver
  dsimp only
  split
  · exact h _
  · split
    · exact h _
    · exact (Pass.over_queues _ _).trans (h _)

@[simp] theorem State.pass_queues (s : State) : s.pass.queues = s.queues := by
  have h : ∀ (l : List (Nat × Cmd)) (t : State), (l.foldl (fun (t : State) (e : Nat × Cmd) => t.unreserve e.1) t).queues = t.queues :=
    fun l t => foldl_queues _ _ _ (by simp)
  unfold State.pass
  rw [State.syncSeqs_queues]
  dsimp only
  split <;> simp [h]

@[simp] theorem writeAdapter_queues (a : Alloc) (q : MemReq) (l : List Placed) (b : Blob) (s : State) : (writeAdapter a q l b s).queues = s.queues := by
  induction l generalizing b s with
  | nil => rfl
  | cons p t ih => simp only [writeAdapter]; rw [ih]; simp

@[simp] theorem State.zeroTraining_queues (s : State) (a : Alloc) (q : MemReq) (lay : List Placed × Nat × Nat) (saveBytes : Nat) (grads : Bool) : (State.zeroTraining s a q lay saveBytes grads).queues = s.queues := by
  simp [State.zeroTraining]

@[simp] theorem State.zeroGradients_queues (s : State) (r : Nat) (c : Cmd) : (State.zeroGradients s r c).queues = s.queues := by
  simp only [State.zeroGradients]; repeat' split
  all_goals try simp
  all_goals (apply foldl_queues; intro t x; try dsimp only)
  all_goals repeat' split
  all_goals first | (simp; done) | (apply foldl_queues; intro t x; (try dsimp only); (repeat' split) <;> simp)

@[simp] theorem State.readSlice_queues (s : State) (e r : Nat) (c : Cmd) (x : Slice) : (s.readSlice e r c x).queues = s.queues := by
  unfold State.readSlice
  repeat' split
  all_goals first | rfl | exact foldl_queues _ _ _ (by simp)

@[simp] theorem State.fetchSlice_queues (s : State) (e r : Nat) (c : Cmd) (x : Slice) : (State.fetchSlice s e r c x).queues = s.queues := by
  simp only [State.fetchSlice]; repeat' split
  all_goals simp

@[simp] theorem State.needSlice_queues (s : State) (e r : Nat) (c : Cmd) (x : Slice) : (State.needSlice s e r c x).queues = s.queues := by
  simp only [State.needSlice]; repeat' split
  all_goals simp

@[simp] theorem State.segmentSlices_queues (s : State) (e r : Nat) (c : Cmd) (xs : List Slice) : (State.segmentSlices s e r c xs).queues = s.queues := by
  simp [State.segmentSlices]

@[simp] theorem State.assign_queues (s : State) (t : Tap) (c : Cmd) : (State.assign s t c).queues = s.queues := by
  simp only [State.assign]; repeat' split
  all_goals simp

@[simp] theorem State.queueTap_queues (s : State) (t : Tap) (c : Cmd) : (State.queueTap s t c).queues = s.queues := by
  simp [State.queueTap]

@[simp] theorem State.refetch_queues (s : State) (t : Tap) (c : Cmd) : (State.refetch s t c).queues = s.queues := by
  simp [State.refetch]

@[simp] theorem State.siltClear_queues (s : State) (n : Nat) : (State.siltClear s n).queues = s.queues := by
  simp only [State.siltClear]; repeat' split
  all_goals try simp
  all_goals (apply foldl_queues; intro t x; try dsimp only)
  all_goals repeat' split
  all_goals first | (simp; done) | (apply foldl_queues; intro t x; (try dsimp only); (repeat' split) <;> simp)

@[simp] theorem State.answerNull_queues (s : State) (t : Tap) : (State.answerNull s t).queues = s.queues := by
  unfold State.answerNull; split <;> simp

@[simp] theorem State.addArray_queues (s : State) (a : Alloc) (q : MemReq) (off first : Nat) (vals : List Nat) : (State.addArray s a q off first vals).queues = s.queues := by
  unfold State.addArray; split <;> simp

@[simp] theorem State.saveRows_queues (s : State) (t : Tap) (c : Cmd) (rows : List Nat) (id k : Nat) (v : Variant) (a : Alloc) : (State.saveRows s t c rows id k v a).queues = s.queues := by
  simp [State.saveRows]

@[simp] theorem State.savedRows_queues (s : State) (t : Tap) (c : Cmd) (rows : List Nat) (id k : Nat) (v : Variant) (a : Alloc) :
    (s.savedRows t c rows id k v a).2.queues = s.queues := by
  have go : ∀ (l : List Nat) (y : List (List Fp) × State), (l.foldl (fun y i =>
      let x := y.2.allocGet a { a.req y.2.nodeId t.cmd c with epoch := some t.epoch } (v.savePlace c id k (t.first + i) + actBytes t.fmt t.ansFirst)
        (actBytes t.fmt t.ansCount)
      (y.1 ++ [readActs t.fmt t.ansCount x.1], x.2)) y).2.queues = y.2.queues := by
    intro l
    induction l with
    | nil => intro y; rfl
    | cons i l ih => intro y; simp [ih]
  exact go _ _

@[simp] theorem State.accumulateFor_queues (s : State) (t : Tap) (c : Cmd) (x : Arith) (id : Nat) : (s.accumulateFor t c x id).queues = s.queues := by
  have h3 : ∀ (l : List Comp) (u : State) (g : State → Comp → State) (_ : ∀ u c, (g u c).queues = u.queues), (l.foldl g u).queues = u.queues :=
    fun l u g h => foldl_queues g l u h
  unfold State.accumulateFor
  repeat' split
  all_goals first
    | rfl
    | (dsimp only
       simp only [State.saveRows_queues]
       rw [foldl_queues]
       · simp
       · intro u z; split <;> simp)
    | (dsimp only
       rw [foldl_queues]
       · simp
       · intro u z; split <;> simp)
    | (dsimp only
       rw [foldl_queues]
       intro u z; split <;> simp)
    | (dsimp only
       simp only [State.saveRows_queues]
       rw [foldl_queues]
       intro u z; split <;> simp)

@[simp] theorem State.accumulateTap_queues (s : State) (t : Tap) (c : Cmd) : (State.accumulateTap s t c).queues = s.queues := by
  unfold State.accumulateTap; split <;> simp

@[simp] theorem State.updateComp_queues (s : State) (q : MemReq) (v : Variant) (a : Alloc) (o : Opt) (stoch : Bool) (t base k : Nat) (cmp : Comp) : (State.updateComp s q v a o stoch t base k cmp).queues = s.queues := by
  unfold State.updateComp; split <;> simp

@[simp] theorem State.gradBad_queues (s : State) (q : MemReq) (v : Variant) (a : Alloc) : (s.gradBad q v a).2.queues = s.queues := by
  have h : ∀ (l : List Placed) (x : Bool × State), (l.foldl (fun (x : Bool × State) p =>
      let b := x.2.allocGet a q p.off (roundUp 512 (4 * p.elems))
      (x.1 || (List.range p.elems).any fun i => f32Bad (fld b.1 (4 * i) 4), b.2)) x).2.queues = x.2.queues := by
    intro l
    induction l with
    | nil => intro x; rfl
    | cons p l ih => intro x; rw [List.foldl_cons, ih]; simp
  exact h _ _

@[simp] theorem State.updateVariant_queues (s : State) (r : Nat) (c : Cmd) (o : Opt) (stoch : Bool) (id : Nat) :
    (s.updateVariant r c o stoch id).queues = s.queues := by
  have h : ∀ (g : Nat) (q : MemReq) (v : Variant) (a : Alloc) (t : Nat) (l : List (VarEntry × Nat)) (u : State),
      (l.foldl (fun u e => e.1.trained.foldl (fun w cmp => w.updateComp q v a o stoch t g e.2 cmp) u) u).queues = u.queues := by
    intro g q v a t l u
    rw [foldl_queues]; intro u e; rw [foldl_queues]; intro u e; simp
  simp only [State.updateVariant]
  repeat' split
  all_goals first | rfl | (simp; done) | exact h _ _ _ _ _ _ _

@[simp] theorem State.tear_queues (s : State) (c : Cmd) : (State.tear s c).queues = s.queues := by
  rfl

@[simp] theorem State.withdrawUnits_queues (s : State) (r : Nat) : (State.withdrawUnits s r).queues = s.queues := by
  rfl

@[simp] theorem State.freeIdx_queues (s : State) (l : List Nat) : (State.freeIdx s l).queues = s.queues := by
  rfl

@[simp] theorem State.absentImage_queues (s : State) (i : Nat) : (State.absentImage s i).queues = s.queues := by
  simp only [State.absentImage]; repeat' split
  all_goals simp

@[simp] theorem State.dropLoadVersion_queues (s : State) (l : Load) : (State.dropLoadVersion s l).queues = s.queues := by
  simp only [State.dropLoadVersion]; repeat' split
  all_goals simp

@[simp] theorem State.undrain_queues (s : State) (i : Nat) : (State.undrain s i).queues = s.queues := by
  unfold State.undrain; split <;> simp

@[simp] theorem State.withdrawLoad_queues (s : State) (r : Nat) : (State.withdrawLoad s r).queues = s.queues := by
  simp only [State.withdrawLoad]; repeat' split
  all_goals simp

@[simp] theorem State.pruneGraphs_queues (s : State) : (State.pruneGraphs s).queues = s.queues := by
  rfl

@[simp] theorem State.pruneImages_queues (s : State) : (State.pruneImages s).queues = s.queues := by
  simp only [State.pruneImages]; repeat' split
  all_goals simp

@[simp] theorem State.prune_queues (s : State) : (State.prune s).queues = s.queues := by
  simp [State.prune]

@[simp] theorem State.releaseSaves_queues (s : State) (r c : Nat) (ok : Bool) : (State.releaseSaves s r c ok).queues = s.queues := by
  simp only [State.releaseSaves]; repeat' split
  all_goals simp

@[simp] theorem State.drivePhys_queues (s : State) (k : Nat) (release : Bool) : (State.drivePhys s k release).queues = s.queues := by
  rfl

@[simp] theorem State.driveBypass_queues (s : State) (k : Nat) (high : Bool) : (State.driveBypass s k high).queues = s.queues := by
  rfl

@[simp] theorem State.linkDown_queues (s : State) (n reason : Nat) : (State.linkDown s n reason).queues = s.queues := by
  simp [State.linkDown]

@[simp] theorem State.cutPassing_queues (s : State) (n : Nat) : (State.cutPassing s n).queues = s.queues := by
  rfl

@[simp] theorem State.dropLink_queues (s : State) (n reason : Nat) (joining : Bool) : (State.dropLink s n reason joining).queues = s.queues := by
  simp only [State.dropLink]; repeat' split
  all_goals simp

@[simp] theorem State.releaseRing_queues (s : State) (k reason : Nat) (failed : Bool) : (State.releaseRing s k reason failed).queues = s.queues := by
  simp [State.releaseRing]

@[simp] theorem State.beginJoin_queues (s : State) (k : Nat) : (State.beginJoin s k).queues = s.queues := by
  rfl

@[simp] theorem State.runReleases_queues (f : Nat) (s : State) : (State.runReleases f s).queues = s.queues := by
  induction f generalizing s with
  | zero => rfl
  | succ f ih => simp only [State.runReleases]; split <;> simp [ih]

@[simp] theorem State.ringCtl_queues (s : State) (k : Nat) (join : Bool) : (State.ringCtl s k join).queues = s.queues := by
  simp [State.ringCtl]

@[simp] theorem State.wantJoin_queues (s : State) (k : Nat) : (State.wantJoin s k).queues = s.queues := by
  unfold State.wantJoin; split <;> simp

@[simp] theorem State.sendFrame_queues (s : State) (n typ stream seq first : Nat) (payload : Blob) : (State.sendFrame s n typ stream seq first payload).queues = s.queues := by
  rfl

@[simp] theorem State.creditPassed_queues (s : State) (before : List TxItem) (after : List TxItem) : (State.creditPassed s before after).queues = s.queues := by
  simp only [State.creditPassed]; repeat' split
  all_goals try simp
  all_goals (apply foldl_queues; intro t x; try dsimp only)
  all_goals repeat' split
  all_goals first | (simp; done) | (apply foldl_queues; intro t x; (try dsimp only); (repeat' split) <;> simp)

@[simp] theorem State.sendData_queues (s : State) (n stream : Nat) : (State.sendData s n stream).queues = s.queues := by
  simp [State.sendData]

@[simp] theorem State.pumpFrames_queues (n f : Nat) (s : State) : (State.pumpFrames n f s).queues = s.queues := by
  induction f generalizing s with
  | zero => rfl
  | succ f ih => simp only [State.pumpFrames]; split <;> simp [ih]

@[simp] theorem State.pump_queues (s : State) (n : Nat) : (State.pump s n).queues = s.queues := by
  unfold State.pump; split <;> simp

@[simp] theorem State.toLink_queues (s : State) (n vc : Nat) (m : FloeMsg) : (State.toLink s n vc m).queues = s.queues := by
  simp [State.toLink]

@[simp] theorem State.startCensus_queues (s : State) (k : Nat) : (State.startCensus s k).queues = s.queues := by
  simp [State.startCensus]

@[simp] theorem State.linkMoved_queues (s : State) (k : Nat) : (State.linkMoved s k).queues = s.queues := by
  simp only [State.linkMoved]; repeat' split
  all_goals simp

@[simp] theorem State.loseLink_queues (s : State) (n reason : Nat) : (State.loseLink s n reason).queues = s.queues := by
  unfold State.loseLink; split <;> simp

@[simp] theorem State.retrain_queues (s : State) (n reason : Nat) (counted : Bool) : (State.retrain s n reason counted).queues = s.queues := by
  simp only [State.retrain]; repeat' split
  all_goals simp

@[simp] theorem State.resend_queues (s : State) (n : Nat) : (State.resend s n).queues = s.queues := by
  simp only [State.resend]; repeat' split
  all_goals simp

@[simp] theorem State.sendOn_queues (s : State) (r : Nat × Bool) (m : FloeMsg) : (State.sendOn s r m).queues = s.queues := by
  simp [State.sendOn]

@[simp] theorem State.floeDiscard_queues (s : State) : (State.floeDiscard s).queues = s.queues := by
  rfl

@[simp] theorem State.forward_queues (s : State) (link : Nat) (m : FloeMsg) : (State.forward s link m).queues = s.queues := by
  simp only [State.forward]; repeat' split
  all_goals simp

@[simp] theorem State.floeProtocol_queues (s : State) (n : Nat) : (State.floeProtocol s n).queues = s.queues := by
  rfl

@[simp] theorem State.answerMsg_queues (s : State) (m : FloeMsg) (typ status : Nat) (body : Blob) : (State.answerMsg s m typ status body).queues = s.queues := by
  unfold State.answerMsg; split <;> simp

@[simp] theorem State.setRemote_queues (s : State) (tag : Nat) (x : Remote) : (State.setRemote s tag x).queues = s.queues := by
  rfl

@[simp] theorem State.sendRemote_queues (s : State) (tag : Nat) (x : Remote) : (State.sendRemote s tag x).queues = s.queues := by
  simp [State.sendRemote]

@[simp] theorem State.staleRemote_queues (s : State) (q : MemReq) : (State.staleRemote s q).queues = s.queues := by
  unfold State.staleRemote; split <;> simp

@[simp] theorem State.releaseHeld_queues (s : State) : (State.releaseHeld s).queues = s.queues := by
  simp only [State.releaseHeld]; repeat' split
  all_goals try simp
  all_goals (apply foldl_queues; intro t x; try dsimp only)
  all_goals repeat' split
  all_goals first | (simp; done) | (apply foldl_queues; intro t x; (try dsimp only); (repeat' split) <;> simp)

@[simp] theorem State.adoptCensus_queues (s : State) (k : Nat) (nodes : List Nat) : (State.adoptCensus s k nodes).queues = s.queues := by
  simp [State.adoptCensus]

@[simp] theorem State.linkUp_queues (s : State) (n farNode farLink : Nat) : (State.linkUp s n farNode farLink).queues = s.queues := by
  simp only [State.linkUp]; repeat' split
  all_goals simp

@[simp] theorem State.countFor_queues (s : State) (u x : Nat) (f : Cmd → Cmd) : (State.countFor s u x f).queues = s.queues := by
  rfl

@[simp] theorem State.sendPreempt_queues (s : State) (u x mode : Nat) : (State.sendPreempt s u x mode).queues = s.queues := by
  unfold State.sendPreempt; split <;> simp

@[simp] theorem State.stopStreams_queues (s : State) (u x : Nat) : (State.stopStreams s u x).queues = s.queues := by
  rfl

@[simp] theorem State.startStream_queues (s : State) (u r : Nat) (c : Cmd) (pass layer : Nat) (again : Bool) : (State.startStream s u r c pass layer again).queues = s.queues := by
  simp only [State.startStream]; repeat' split
  all_goals simp

@[simp] theorem State.marginLog_queues (s : State) (m : MarginEnt) : (State.marginLog s m).queues = s.queues := by
  simp only [State.marginLog]; repeat' split
  all_goals simp

@[simp] theorem State.layerDone_queues (s : State) (u : Nat) (w : Stream) (layer : Nat) : (State.layerDone s u w layer).queues = s.queues := by
  unfold State.layerDone; split <;> simp

@[simp] theorem State.modSave_queues (s : State) (x u : Nat) (f : SaveArea → SaveArea) : (State.modSave s x u f).queues = s.queues := by
  rfl

@[simp] theorem State.nowHolds_queues (s : State) (u x : Nat) : (State.nowHolds s u x).queues = s.queues := by
  rfl

@[simp] theorem State.resume_queues (s : State) (u x mode pass layer : Nat) : (State.resume s u x mode pass layer).queues = s.queues := by
  simp only [State.resume]; repeat' split
  all_goals simp

@[simp] theorem State.bringIn_queues (s : State) (u x : Nat) : (State.bringIn s u x).queues = s.queues := by
  simp only [State.bringIn]; repeat' split
  all_goals simp

@[simp] theorem State.switchOut_queues (s : State) (u x : Nat) : (State.switchOut s u x).queues = s.queues := by
  simp only [State.switchOut]; repeat' split
  all_goals simp

@[simp] theorem State.switchOn_queues (s : State) (u : Nat) : (State.switchOn s u).queues = s.queues := by
  simp only [State.switchOn]; repeat' split
  all_goals simp

@[simp] theorem State.grantTurn_queues (s : State) (u : Nat) (p : Pick) : (State.grantTurn s u p).queues = s.queues := by
  unfold State.grantTurn; split <;> simp

@[simp] theorem State.endTurn_queues (s : State) (u : Nat) : (State.endTurn s u).queues = s.queues := by
  rfl

@[simp] theorem State.cutTurn_queues (s : State) (u : Nat) : (State.cutTurn s u).queues = s.queues := by
  simp only [State.cutTurn]; repeat' split
  all_goals simp

@[simp] theorem State.noteRealtime_queues (s : State) (u : Nat) : (State.noteRealtime s u).queues = s.queues := by
  rfl

@[simp] theorem State.settleUnit_queues (s : State) (u : Nat) : (State.settleUnit s u).queues = s.queues := by
  simp only [State.settleUnit]; repeat' split
  all_goals simp

@[simp] theorem State.settle_queues (s : State) : (State.settle s).queues = s.queues := by
  simp [State.settle]

@[simp] theorem State.writeSlotStates_queues (s : State) (x : Nat) : (State.writeSlotStates s x).queues = s.queues := by
  unfold State.writeSlotStates; split <;> simp

@[simp] theorem State.swapInCtx_queues (s : State) (x : Nat) : (State.swapInCtx s x).queues = s.queues := by
  simp [State.swapInCtx]

@[simp] theorem State.freeSlots_queues (s : State) (x : Nat) : (State.freeSlots s x).queues = s.queues := by
  rfl

@[simp] theorem State.evictCtx_queues (s : State) (x : Nat) : (State.evictCtx s x).queues = s.queues := by
  simp [State.evictCtx]

@[simp] theorem State.unverifiable_queues (s : State) (level pos : Nat) (owner : Option Nat) : (State.unverifiable s level pos owner).queues = s.queues := by
  simp only [State.unverifiable]; repeat' split
  all_goals simp

@[simp] theorem State.runAdmin_queues (s : State) (r opc : Nat) (f : State → Cmd → State) (hf : ∀ t x0, (f t x0).queues = t.queues) : (State.runAdmin s r opc f).queues = s.queues := by
  simp only [State.runAdmin]; repeat' split
  all_goals simp [hf]

@[simp] theorem State.withData_queues (s : State) (r : Nat) (c : Cmd) (io : HostIo) (n : Nat) (f : State → Blob → State) (hf : ∀ t x0, (f t x0).queues = t.queues) : (State.withData s r c io n f).queues = s.queues := by
  simp only [State.withData]; repeat' split
  all_goals simp [hf]

@[simp] theorem State.answer_queues (s : State) (r : Nat) (c : Cmd) (io : HostIo) (b : Blob) (eff : State → State) (heff : ∀ t , (eff t ).queues = t.queues) : (State.answer s r c io b eff).queues = s.queues := by
  unfold State.answer; split <;> simp [heff]

@[simp] theorem State.failWith_queues (s : State) (r : Nat) (c : Cmd) (io : HostIo) (b : Blob) (st : Status) : (State.failWith s r c io b st).queues = s.queues := by
  simp [State.failWith]

@[simp] theorem State.adoptLink_queues (s : State) (n : Nat) (data : Blob) : (State.adoptLink s n data).queues = s.queues := by
  simp only [State.adoptLink]; repeat' split
  all_goals simp

@[simp] theorem State.adoptEffect_queues (s : State) (e : Nat) (i : CfgItem) : (State.adoptEffect s e i).queues = s.queues := by
  simp only [State.adoptEffect]; repeat' split
  all_goals simp

@[simp] theorem State.completeEffect_queues (s : State) (x : Staged) : (State.completeEffect s x).queues = s.queues := by
  unfold State.completeEffect; split <;> simp

@[simp] theorem State.answerStaged_queues (s : State) (x : Staged) : (State.answerStaged s x).queues = s.queues := by
  unfold State.answerStaged; split <;> simp

@[simp] theorem State.completeEpochs_queues (f : Nat) (s : State) : (State.completeEpochs f s).queues = s.queues := by
  induction f generalizing s with
  | zero => rfl
  | succ f ih => simp only [State.completeEpochs]; repeat' split
                 all_goals simp [ih]

@[simp] theorem State.completeDue_queues (s : State) : (State.completeDue s).queues = s.queues := by
  simp [State.completeDue]

@[simp] theorem State.adoptOne_queues (s : State) (e : Nat) (force : Bool) : (State.adoptOne s e force).queues = s.queues := by
  simp only [State.adoptOne]; repeat' split
  all_goals simp

@[simp] theorem State.adoptAll_queues (s : State) (e : Nat) : (State.adoptAll s e).queues = s.queues := by
  simp [State.adoptAll]

@[simp] theorem State.stage_queues (s : State) (i : CfgItem) (cmd : Option Nat) : (State.stage s i cmd).queues = s.queues := by
  simp [State.stage]

@[simp] theorem State.openRecord_queues (s : State) (r : RstRec) : (s.openRecord r).2.queues = s.queues := by
  simp only [State.openRecord]; split <;> simp

@[simp] theorem State.closeRecord_queues (s : State) (slot outcome : Nat) (fenced : Bool) : (State.closeRecord s slot outcome fenced).queues = s.queues := by
  simp only [State.closeRecord]; repeat' split
  all_goals simp

@[simp] theorem State.holdDomain_queues (s : State) : (State.holdDomain s).queues = s.queues := by
  rfl

@[simp] theorem State.nullTaps_queues (s : State) (x : Nat) : (State.nullTaps s x).queues = s.queues := by
  simp [State.nullTaps]

@[simp] theorem State.abandon_queues (s : State) (x u : Nat) : (State.abandon s x u).queues = s.queues := by
  rfl

@[simp] theorem State.ctxResetDone_queues (s : State) (x : Nat) : (State.ctxResetDone s x).queues = s.queues := by
  simp only [State.ctxResetDone]; repeat' split
  all_goals simp

@[simp] theorem State.ctxResetSettle_queues (s : State) (x : Nat) : (State.ctxResetSettle s x).queues = s.queues := by
  simp only [State.ctxResetSettle]; repeat' split
  all_goals simp

@[simp] theorem State.ctxResetAnswered_queues (s : State) (x u : Nat) : (State.ctxResetAnswered s x u).queues = s.queues := by
  simp only [State.ctxResetAnswered]; repeat' split
  all_goals simp

@[simp] theorem State.rewind_queues (s : State) (x p : Nat) : (State.rewind s x p).queues = s.queues := by
  unfold State.rewind; split <;> simp

@[simp] theorem State.countLost_queues (s : State) (slot n : Nat) : (State.countLost s slot n).queues = s.queues := by
  rfl

@[simp] theorem State.seracDown_queues (s : State) (p : Nat) (hold : Bool) : (State.seracDown s p hold).queues = s.queues := by
  rfl

@[simp] theorem State.markFenced_queues (s : State) (e : Nat) : (State.markFenced s e).queues = s.queues := by
  simp [State.markFenced]

@[simp] theorem State.rtReplace_queues (s : State) (n : Nat) : (State.rtReplace s n).queues = s.queues := by
  simp only [State.rtReplace]; repeat' split
  all_goals simp

@[simp] theorem State.domainBegin_queues (s : State) : s.domainBegin.queues = s.queues := by
  simp only [State.domainBegin]
  rw [foldl_queues]
  · (try dsimp only)
    rw [foldl_queues]
    · (try dsimp only)
      rw [foldl_queues]
      · rw [foldl_queues]; intro t e; (try dsimp only); split <;> simp
      · intro t p; split <;> simp
    · intro t e; split <;> simp
  · intro t e; simp

@[simp] theorem State.checkPark_queues (s : State) (f : Nat) : (State.checkPark s f).queues = s.queues := by
  simp only [State.checkPark]; repeat' split
  all_goals simp

@[simp] theorem State.checkParks_queues (s : State) : (State.checkParks s).queues = s.queues := by
  simp [State.checkParks]

@[simp] theorem State.unpark_queues (s : State) (f : Nat) (l : List Parked) : (State.unpark s f l).queues = s.queues := by
  simp [State.unpark]

@[simp] theorem State.rejectDoorbell_queues (s : State) : (State.rejectDoorbell s).queues = s.queues := by
  rfl

@[simp] theorem State.refuseEntry_queues (s : State) (c : Cmd) (st : Status) : (State.refuseEntry s c st).queues = s.queues := by
  rfl

@[simp] theorem State.markLeaving_queues (s : State) (r : Nat) (c : Cmd) : (State.markLeaving s r c).queues = s.queues := by
  unfold State.markLeaving; split <;> simp

theorem State.batchPath_queues {s t : State} {c : Cmd} {x : Ctx} {va len : Nat} {ecc : Ecc} {chk : PathCheck} {st : Option Status}
    (h : s.batchPath c x va len ecc chk = some (st, t)) : t.queues = s.queues := by
  unfold State.batchPath at h
  repeat' split at h
  all_goals first | (cases h; simp; done) | cases h

@[simp] theorem State.readBatch_queues (s : State) (c : Cmd) (x : Ctx) (ecc : Ecc) (chk : PathCheck) (away : Blob) :
    (s.readBatch c x ecc chk away).2.queues = s.queues := by
  simp only [State.readBatch]; repeat' split
  all_goals first | rfl | (rename_i h; exact State.batchPath_queues h) | simp

@[simp] theorem State.readPieces_queues (s : State) (r : Nat) (c : Cmd) (e : Nat) (l : List Piece) : (s.readPieces r c e l).2.queues = s.queues := by
  simp only [State.readPieces]; rw [foldPair_queues]; intro y a; (try dsimp only); repeat' split
  all_goals simp

@[simp] theorem State.writePieces_queues (s : State) (r : Nat) (c : Cmd) (e : Nat) (l : List Piece) (b : Blob) : (s.writePieces r c e l b).queues = s.queues := by
  induction l generalizing s b with
  | nil => rfl
  | cons p t ih => simp only [State.writePieces]; rw [ih]; repeat' split
                   all_goals simp

@[simp] theorem State.sendIssue_queues (s : State) (u r : Nat) (c : Cmd) (t : TileRef) (n : Node) (out : List Piece) (data : Blob) : (State.sendIssue s u r c t n out data).queues = s.queues := by
  unfold State.sendIssue; split <;> simp

@[simp] theorem State.settleDone_queues (s : State) (r : Nat) : (State.settleDone s r).queues = s.queues := by
  simp only [State.settleDone]; repeat' split
  all_goals simp

@[simp] theorem State.startWalk_queues (s : State) (r : Nat) (c : Cmd) (va : Nat) : (State.startWalk s r c va).queues = s.queues := by
  simp only [State.startWalk]; repeat' split
  all_goals simp

@[simp] theorem State.setCrev_queues (s : State) (slot : Nat) (r : Crev) : (State.setCrev s slot r).queues = s.queues := by
  rfl

@[simp] theorem State.crevRetry_queues (s : State) (slot : Nat) : (State.crevRetry s slot).queues = s.queues := by
  simp only [State.crevRetry]; repeat' split
  all_goals simp

@[simp] theorem State.crevHeadWrite_queues (s : State) (value : Nat) : (State.crevHeadWrite s value).queues = s.queues := by
  simp only [State.crevHeadWrite]; repeat' split
  all_goals simp

@[simp] theorem State.takeUpTiles_queues (s : State) (r opc : Nat) : (State.takeUpTiles s r opc).queues = s.queues := by
  unfold State.takeUpTiles; split <;> simp

@[simp] theorem State.sliceFails_queues (s : State) (x : Slice) (g : Option Nat) : (State.sliceFails s x g).queues = s.queues := by
  unfold State.sliceFails; split <;> simp

@[simp] theorem State.dropTap_queues (s : State) (t : Tap) : (State.dropTap s t).queues = s.queues := by
  rfl

@[simp] theorem State.destroyCtx_queues (s : State) (x : Nat) : (State.destroyCtx s x).queues = s.queues := by
  simp only [State.destroyCtx]; repeat' split
  all_goals simp

theorem State.takeChunks_queues {s s' : State} {e : Fkt} {l : List (Nat × Nat)} (h : s.takeChunks e l = some s') : s'.queues = s.queues := by
  induction l generalizing s with
  | nil => cases h; rfl
  | cons a t ih =>
    simp only [State.takeChunks] at h
    split at h
    · rename_i h1; rw [ih h, State.takeFrames_queues h1]
    · cases h

@[simp] theorem State.freeAlloc_queues (s : State) (a : Nat) : (State.freeAlloc s a).queues = s.queues := by
  unfold State.freeAlloc; split <;> simp

@[simp] theorem State.writeTables_queues (s : State) (r x : Nat) (ls : List Leaf) (lo hi : Nat) (isMap : Bool) : (State.writeTables s r x ls lo hi isMap).queues = s.queues := by
  simp [State.writeTables]

@[simp] theorem State.applyChange_queues (s : State) (x : Nat) (z : Change) : (State.applyChange s x z).queues = s.queues := by
  unfold State.applyChange; split <;> simp

@[simp] theorem State.ackEffect_queues (s0 : State) (e : Nat) (i : Inval) : (State.ackEffect s0 e i).queues = s0.queues := by
  simp only [State.ackEffect]; repeat' split
  all_goals simp

@[simp] theorem State.invalDone_queues (s : State) (i : Inval) : (State.invalDone s i).queues = s.queues := by
  simp only [State.invalDone]; repeat' split
  all_goals simp

@[simp] theorem State.addVersion_queues (s : State) (g : Graph) (v : Nat) (nodes : List Node) : (State.addVersion s g v nodes).queues = s.queues := by
  rfl

@[simp] theorem State.dropVariant_queues (s : State) (v : Nat) : (State.dropVariant s v).queues = s.queues := by
  rfl

@[simp] theorem State.answerGen_queues (s : State) (f : Nat) (io : HostIo) (l : List Nat) : (State.answerGen s f io l).queues = s.queues := by
  simp only [State.answerGen]; repeat' split
  all_goals try simp
  all_goals (apply foldl_queues; intro t x; try dsimp only)
  all_goals repeat' split
  all_goals first | (simp; done) | (apply foldl_queues; intro t x; (try dsimp only); (repeat' split) <;> simp)

@[simp] theorem State.enableWaiting_queues (s : State) (f : Nat) : (State.enableWaiting s f).queues = s.queues := by
  simp only [State.enableWaiting]; repeat' split
  all_goals simp

@[simp] theorem State.claimAll_queues (s : State) (l : List (Nat × Nat × Nat × Fkt)) : (s.claimAll l).queues = s.queues := by
  unfold State.claimAll
  apply foldl_queues
  intro t e
  cases h : t.takeFrames e.1 e.2.2.2 ((List.range e.2.2.1).map (e.2.1 + ·)) with
  | none => rfl
  | some u => exact State.takeFrames_queues h

@[simp] theorem State.setRegions_queues (s : State) (z : Regions) : (State.setRegions s z).queues = s.queues := by
  rfl

@[simp] theorem State.placeRegions_queues (s : State) : (State.placeRegions s).queues = s.queues := by
  simp [State.placeRegions]

@[simp] theorem State.recoverPersist_queues (s : State) (h : Blob) : (State.recoverPersist s h).queues = s.queues := by
  simp [State.recoverPersist]

@[simp] theorem State.formatPersist_queues (s : State) : (State.formatPersist s).queues = s.queues := by
  unfold State.formatPersist
  rw [State.drawn_queues, State.putHeader_queues]

@[simp] theorem State.openPersist_queues (s : State) : (State.openPersist s).queues = s.queues := by
  simp only [State.openPersist]; repeat' split
  all_goals simp

@[simp] theorem State.openPorts_queues (s : State) : (State.openPorts s).queues = s.queues := by
  simp [State.openPorts]

@[simp] theorem State.joinRings_queues (s : State) : (State.joinRings s).queues = s.queues := by
  simp [State.joinRings]

@[simp] theorem State.startKeys_queues (s : State) : s.startKeys.queues = s.queues := by
  unfold State.startKeys; apply foldl_queues; intro t k; simp

@[simp] theorem State.markCommitted_queues (s : State) : s.markCommitted.queues = s.queues := by simp [State.markCommitted]

@[simp] theorem State.commitTopo_queues (s : State) : (State.commitTopo s).queues = s.queues := by
  simp [State.commitTopo]

@[simp] theorem State.popLoad_queues (s : State) : (State.popLoad s).queues = s.queues := by
  rfl

@[simp] theorem State.refuseLoad_queues (s : State) (l : Load) (st : Status) : (State.refuseLoad s l st).queues = s.queues := by
  simp only [State.refuseLoad]; repeat' split
  all_goals simp

@[simp] theorem State.drainFor_queues (s : State) (l : Load) : (State.drainFor s l).queues = s.queues := by
  unfold State.drainFor; split <;> simp

@[simp] theorem State.freeCurrent_queues (s : State) (i : Nat) : (State.freeCurrent s i).queues = s.queues := by
  simp [State.freeCurrent]

@[simp] theorem State.turnNow_queues (s : State) : (State.turnNow s).queues = s.queues := by
  simp only [State.turnNow]; repeat' split
  all_goals simp

theorem State.claimVer_queues {s s' : State} {v : ImgVer} {asked l : List Nat} (h : s.claimVer v asked = (some s', l)) : s'.queues = s.queues := by
  simp only [State.claimVer] at h
  split at h
  · cases h; simp
  · cases h

@[simp] theorem State.issueShards_queues (n : Nat) (s : State) : (State.issueShards n s).queues = s.queues := by
  induction n generalizing s with
  | zero => rfl
  | succ n ih => simp only [State.issueShards]; repeat' split
                 all_goals simp [ih]

@[simp] theorem State.beginLoad_queues (s : State) (l : Load) (v : ImgVer) (n : Nat) (current : Bool) (asked : List Nat) :
    (s.beginLoad l v n current asked).queues = s.queues := by
  simp only [State.beginLoad]
  split
  · simp
  · rename_i s3 h
    have e : s3.queues = s.queues := by
      split at h
      · injection h with h; subst h; split <;> simp
      · rw [State.claimVer_queues (l := _) (Prod.ext h rfl)]; split <;> simp
    simp [e]

@[simp] theorem State.modShard_queues (s : State) (i : Nat) (f : Shard → Shard) : (State.modShard s i f).queues = s.queues := by
  simp [State.modShard]

@[simp] theorem State.stageLoad_queues (s : State) (l : Load) (i fail : Nat) (st : Status) : (State.stageLoad s l i fail st).queues = s.queues := by
  rfl

@[simp] theorem State.spoilLoad_queues (s : State) (l : Load) (shard : Nat) : (State.spoilLoad s l shard).queues = s.queues := by
  simp [State.spoilLoad]

@[simp] theorem State.takeShard_queues (s : State) (i : Nat) (x : Shard) (data : Blob) : (State.takeShard s i x data).queues = s.queues := by
  simp only [State.takeShard]; repeat' split
  all_goals simp

@[simp] theorem State.activate_queues (s : State) (l : Load) : (State.activate s l).queues = s.queues := by
  simp [State.activate]

@[simp] theorem State.stallStreams_queues (s : State) : (State.stallStreams s).queues = s.queues := by
  rfl

@[simp] theorem State.needRepair_queues (s : State) (img ver t u : Nat) : (State.needRepair s img ver t u).queues = s.queues := by
  unfold State.needRepair; split <;> simp

@[simp] theorem State.modRepair_queues (s : State) (id : Nat) (f : Repair → Repair) : (State.modRepair s id f).queues = s.queues := by
  rfl

@[simp] theorem State.endRepair_queues (s : State) (id : Nat) : (State.endRepair s id).queues = s.queues := by
  simp [State.endRepair]

@[simp] theorem State.gotUnit_queues (s : State) (p : Repair) (b : Blob) (host : Bool) : (State.gotUnit s p b host).queues = s.queues := by
  rfl

@[simp] theorem State.queueLoad_queues (s : State) (l : Load) : (State.queueLoad s l).queues = s.queues := by
  simp [State.queueLoad]

@[simp] theorem State.withManifest_queues (s : State) (r : Nat) (c : Cmd) (io : HostIo) (f : State → ImgVer → State)
    (hf : ∀ t v, (f t v).queues = t.queues) : (s.withManifest r c io f).queues = s.queues := by
  unfold State.withManifest
  apply State.withData_queues
  intro t b
  split
  · simp
  · split
    · simp
    · exact hf _ _

@[simp] theorem State.portRequest_queues (s : State) (q : MemReq) (port : Nat) : (State.portRequest s q port).queues = s.queues := by
  simp only [State.portRequest]; repeat' split
  all_goals simp

@[simp] theorem State.readRequest_queues (s : State) (q : MemReq) : (State.readRequest s q).queues = s.queues := by
  simp only [State.readRequest]; repeat' split
  all_goals simp

@[simp] theorem State.newWindow_queues (s : State) : (State.newWindow s).queues = s.queues := by
  rfl

@[simp] theorem State.movedWorks_queues (s : State) (f dst : Nat × Nat) : (State.movedWorks s f dst).queues = s.queues := by
  rfl

theorem State.moveBytes_queues {s s' : State} {e : Fkt} {a b : Nat × Nat} (h : s.moveBytes e a b = some s') : s'.queues = s.queues := by
  obtain ⟨t, ht, rfl⟩ := Option.map_eq_some_iff.mp h
  rw [State.releaseFrame_queues, foldl_queues _ _ _ (by intro u o; simp)]
  exact (State.takeFrames_queues ht : t.queues = s.queues)

theorem State.moveFrame_queues {s s' : State} {a b : Nat × Nat} (h : s.moveFrame a b = some s') : s'.queues = s.queues := by
  unfold State.moveFrame at h
  split at h
  · cases h
  · rename_i s0 h0
    obtain ⟨e, _, he⟩ := Option.bind_eq_some_iff.mp h0
    cases h
    dsimp only
    rw [foldl_queues _ _ _ (by intro t w; simp), foldl_queues _ _ _ (by intro t w; simp)]
    dsimp only
    rw [State.movedWorks_queues]
    exact State.moveBytes_queues he

@[simp] theorem State.nakOnce_queues (s : State) (n : Nat) : (State.nakOnce s n).queues = s.queues := by
  unfold State.nakOnce; split <;> simp

@[simp] theorem State.passOn_queues (s : State) (n stream : Nat) (d : Blob) (r : Nat) : (State.passOn s n stream d r).queues = s.queues := by
  rfl

@[simp] theorem State.beginPass_queues (s : State) (n stream : Nat) (b : Blob) : (State.beginPass s n stream b).queues = s.queues := by
  unfold State.beginPass; split <;> simp

@[simp] theorem State.takeMsgs_queues (n stream f : Nat) (b : Blob) (s : State) : (State.takeMsgs n stream f b s).queues = s.queues := by
  induction f generalizing b s with
  | zero => simp [State.takeMsgs]
  | succ f ih => simp only [State.takeMsgs]; repeat' split
                 all_goals simp [ih]

@[simp] theorem State.holdFrame_queues (s : State) (n i had : Nat) (fresh : Bool) : (State.holdFrame s n i had fresh).queues = s.queues := by
  simp only [State.holdFrame]; repeat' split
  all_goals simp

@[simp] theorem State.takeData_queues (s : State) (n : Nat) (f : Blob) : (State.takeData s n f).queues = s.queues := by
  simp [State.takeData]

@[simp] theorem State.ackFrame_queues (s : State) (n before : Nat) : (State.ackFrame s n before).queues = s.queues := by
  unfold State.ackFrame; split <;> simp

@[simp] theorem State.arrived_queues (s : State) (link : Nat) (m : FloeMsg) (typ : Nat) (f : State → State) (hf : ∀ t , (f t ).queues = t.queues) : (State.arrived s link m typ f).queues = s.queues := by
  simp only [State.arrived]; repeat' split
  all_goals simp [hf]

@[simp] theorem State.floeStale_queues (s : State) : (State.floeStale s).queues = s.queues := by
  rfl

@[simp] theorem State.ringWrite_queues (s : State) (k action : Nat) : (State.ringWrite s k action).queues = s.queues := by
  simp only [State.ringWrite]; repeat' split
  all_goals simp

@[simp] theorem State.doeAnswer_queues (s : State) (f : Nat) (b : Blob) : (State.doeAnswer s f b).queues = s.queues := by
  rfl

@[simp] theorem State.signedAnswer_queues (s : State) (f code p1 p2 : Nat) (body : Blob) : (State.signedAnswer s f code p1 p2 body).queues = s.queues := by
  rfl

@[simp] theorem State.modSession_queues (s : State) (n : Nat) (g : Session → Session) : (State.modSession s n g).queues = s.queues := by
  rfl

@[simp] theorem State.endSession_queues (s : State) (n : Nat) : (State.endSession s n).queues = s.queues := by
  rfl

@[simp] theorem State.endSessions_queues (s : State) (f : Nat) : (State.endSessions s f).queues = s.queues := by
  rfl

@[simp] theorem State.secured_queues (s : State) (f n : Nat) (m : Blob) : (State.secured s f n m).queues = s.queues := by
  unfold State.secured; split <;> simp

@[simp] theorem State.newSecret_queues (s : State) (n : Nat) : (State.newSecret s n).queues = s.queues := by
  rfl

@[simp] theorem State.keyExchange_queues (s : State) (f req : Nat) : (State.keyExchange s f req).queues = s.queues := by
  unfold State.keyExchange; split <;> simp

@[simp] theorem State.established_queues (s : State) (f n : Nat) (who : Option Blob) : (State.established s f n who).queues = s.queues := by
  simp [State.established]

@[simp] theorem State.finishSession_queues (s : State) (f n : Nat) (auth : Option Blob) : (State.finishSession s f n auth).queues = s.queues := by
  simp only [State.finishSession]; repeat' split
  all_goals simp

@[simp] theorem State.agreed_queues (s : State) (f : Nat) (g : State → State) (hg : ∀ t , (g t ).queues = t.queues) : (State.agreed s f g).queues = s.queues := by
  unfold State.agreed; split <;> simp [hg]

@[simp] theorem State.inSession_queues (s : State) (f n : Nat) (g : State → State) (hg : ∀ t , (g t ).queues = t.queues) : (State.inSession s f n g).queues = s.queues := by
  unfold State.inSession; split <;> simp [hg]

@[simp] theorem State.onSlot0_queues (s : State) (f slot : Nat) (g : State → State) (hg : ∀ t , (g t ).queues = t.queues) : (State.onSlot0 s f slot g).queues = s.queues := by
  unfold State.onSlot0; split <;> simp [hg]

@[simp] theorem State.vendorAnswer_queues (s : State) (f : Nat) (ses : Option Nat) (result : Nat) (body : Blob) : (State.vendorAnswer s f ses result body).queues = s.queues := by
  unfold State.vendorAnswer; split <;> simp

@[simp] theorem State.powerDown_queues (s : State) (k : PwrSt) : (State.powerDown s k).queues = s.queues := by
  rfl

@[simp] theorem State.restartForPatch_queues (s : State) : (State.restartForPatch s).queues = s.queues := by
  rfl

@[simp] theorem State.loadPatch_queues (s : State) (r : Nat) (c : Cmd) (io : HostIo) (image : Blob) (svn : Nat) : (State.loadPatch s r c io image svn).queues = s.queues := by
  simp only [State.loadPatch]; repeat' split
  all_goals simp

@[simp] theorem State.newChallenge_queues (s : State) : (State.newChallenge s).queues = s.queues := by
  rfl

@[simp] theorem State.banner_queues (s : State) : (State.banner s).queues = s.queues := by
  rfl

@[simp] theorem State.tarnStart_queues (s : State) : (State.tarnStart s).queues = s.queues := by
  rfl

@[simp] theorem State.resetHead_queues (s : State) (value : Nat) : (State.resetHead s value).queues = s.queues := by
  simp only [State.resetHead]; repeat' split
  all_goals simp

@[simp] theorem State.holdupBegin_queues (s : State) : (State.holdupBegin s).queues = s.queues := by
  rfl

@[simp] theorem State.holdupState_queues (s : State) : (State.holdupState s).queues = s.queues := by
  rfl

@[simp] theorem State.leaveRings_queues (s : State) : (State.leaveRings s).queues = s.queues := by
  simp [State.leaveRings]

@[simp] theorem State.holdBegins_queues (s : State) : (State.holdBegins s).queues = s.queues := by
  unfold State.holdBegins; split <;> simp

@[simp] theorem State.ticTake_queues (s : State) (n : Nat) : (State.ticTake s n).queues = s.queues := by
  rfl

@[simp] theorem State.ticEoi_queues (s : State) (n : Nat) : (State.ticEoi s n).queues = s.queues := by
  unfold State.ticEoi; split <;> simp

@[simp] theorem State.releaseVectors_queues (s : State) (f : Nat) : (State.releaseVectors s f).queues = s.queues := by
  unfold State.releaseVectors; split <;> simp

@[simp] theorem State.wplogFlush_queues (s : State) (fn value : Nat) : (State.wplogFlush s fn value).queues = s.queues := by
  unfold State.wplogFlush; split <;> simp

@[simp] theorem State.moraineClear_queues (s : State) (fn value : Nat) : (State.moraineClear s fn value).queues = s.queues := by
  unfold State.moraineClear; split <;> simp

@[simp] theorem State.rtReserveWrite_queues (s : State) (v : Nat) : (State.rtReserveWrite s v).queues = s.queues := by
  simp [State.rtReserveWrite]

@[simp] theorem State.qcfgWrite_queues (s : State) (f v : Nat) : (State.qcfgWrite s f v).queues = s.queues := by
  unfold State.qcfgWrite; split <;> simp

@[simp] theorem State.hostAddWrite_queues (s : State) (v : Nat) : (s.hostAddWrite v).queues = s.queues := by
  simp only [State.hostAddWrite]
  split
  · rfl
  · split
    · split
      · rename_i h; simp [State.takeChunks_queues h]
      · rfl
    · rfl

@[simp] theorem State.imageCfgWrite_queues (s : State) (n v : Nat) : (State.imageCfgWrite s n v).queues = s.queues := by
  unfold State.imageCfgWrite; split <;> simp

@[simp] theorem State.quotaWrite_queues (s : State) (f v : Nat) : (State.quotaWrite s f v).queues = s.queues := by
  simp only [State.quotaWrite]; repeat' split
  all_goals simp

@[simp] theorem State.dataWrite_queues (s : State) (r : Reg) (v : Nat) : (State.dataWrite s r v).queues = s.queues := by
  simp only [State.dataWrite]; repeat' split
  all_goals simp

@[simp] theorem State.msixWrite_queues (s : State) (f o w v : Nat) : (State.msixWrite s f o w v).queues = s.queues := by
  simp [State.msixWrite]

@[simp] theorem State.readHalf_queues (s : State) (sp : Space) (off : Nat) (r : Reg) (o : Nat) : (s.readHalf sp off r o).2.queues = s.queues := by
  simp only [State.readHalf]; repeat' split
  all_goals simp

@[simp] theorem State.busRead_queues (s : State) (sp : Space) (off w : Nat) : (s.busRead sp off w).2.queues = s.queues := by
  simp only [State.busRead]; repeat' split
  all_goals simp

@[simp] theorem State.writeLow_queues (s : State) (sp : Space) (off v : Nat) : (State.writeLow s sp off v).queues = s.queues := by
  simp [State.writeLow]

@[simp] theorem State.readVia_queues (s : State) (c : Instr) (sp : Space) (off w : Nat) : (State.readVia s c sp off w).queues = s.queues := by
  simp only [State.readVia]; repeat' split
  all_goals simp

@[simp] theorem State.monAnswer_queues (s : State) (lines : List (List Nat)) (e : Option MonErr) : (State.monAnswer s lines e).queues = s.queues := by
  simp [State.monAnswer]

@[simp] theorem State.monRefuse_queues (s : State) (e : MonErr) : (State.monRefuse s e).queues = s.queues := by
  simp [State.monRefuse]

@[simp] theorem State.view_queues (s : State) (off w : Nat) : (s.view off w).2.queues = s.queues := by simp [State.view]

@[simp] theorem State.monRead_queues (s : State) (off w n : Nat) : (s.monRead off w n).2.queues = s.queues := by
  induction n generalizing s off with
  | zero => rfl
  | succ n ih => simp [State.monRead, ih]

@[simp] theorem State.monList_queues (s : State) (l : List (Nat × Nat)) : (s.monList l).2.queues = s.queues := by
  induction l generalizing s with
  | nil => rfl
  | cons a t ih => simp [State.monList, ih]

@[simp] theorem State.monLines_queues (s : State) (l : List (List (Nat × Nat))) : (s.monLines l).2.queues = s.queues := by
  induction l generalizing s with
  | nil => rfl
  | cons a t ih => simp [State.monLines, ih]

@[simp] theorem State.monVersion_queues (s : State) : (State.monVersion s).queues = s.queues := by
  simp [State.monVersion]

@[simp] theorem State.monHeartbeat_queues (s : State) : (State.monHeartbeat s).queues = s.queues := by
  simp [State.monHeartbeat]

@[simp] theorem State.monRings_queues (s : State) (l : List Nat) : (s.monRings l).2.queues = s.queues := by
  induction l generalizing s with
  | nil => rfl
  | cons a t ih => simp [State.monRings, ih]

@[simp] theorem State.setLine_queues (s : State) (l : List Nat) (cr : Bool) : (State.setLine s l cr).queues = s.queues := by
  rfl

theorem State.takePlaced_queues {s s' : State} {e : Fkt} {l : List (Nat × List Nat)} (h : s.takePlaced e l = some s') : s'.queues = s.queues := by
  have go : ∀ (l : List (Nat × List Nat)) (o : Option State) (t : State),
      l.foldl (fun o p => o.bind fun t => t.takeFrames p.1 e p.2) o = some t → ∃ u, o = some u ∧ t.queues = u.queues := by
    intro l
    induction l with
    | nil => intro o t h; exact ⟨t, h, rfl⟩
    | cons p l ih =>
      intro o t h
      obtain ⟨u, hu, e1⟩ := ih _ _ h
      obtain ⟨v, hv, e2⟩ := Option.bind_eq_some_iff.mp hu
      exact ⟨v, hv, e1.trans (State.takeFrames_queues e2)⟩
  obtain ⟨u, hu, e⟩ := go _ _ _ h
  cases hu
  exact e

theorem State.placeAlloc_queues {s : State} {vx1 : Bool} {tier n : Nat} {asked : List Nat} {e : Fkt} {x : List (Nat × List Nat) × State}
    (h : s.placeAlloc vx1 tier n asked e = some x) : x.2.queues = s.queues := by
  unfold State.placeAlloc at h
  split at h
  · obtain ⟨i, _, hi⟩ := List.exists_of_findSome?_eq_some h
    dsimp only at hi
    split at hi
    · obtain ⟨t, ht, rfl⟩ := Option.map_eq_some_iff.mp hi; exact State.takePlaced_queues ht
    · cases hi
  · obtain ⟨l, _, hl⟩ := Option.bind_eq_some_iff.mp h
    obtain ⟨t, ht, rfl⟩ := Option.map_eq_some_iff.mp hl; exact State.takePlaced_queues ht

theorem State.giveAlloc_queues (s t : State) (r : Nat) (c : Cmd) (io : HostIo) (fr : List (Nat × Nat)) (h : t.queues = s.queues) :
    (s.giveAlloc t r c io fr).queues = s.queues := by
  unfold State.giveAlloc State.answer
  dsimp only
  split
  · rw [State.commit_queues, State.modCmd_queues, State.updFn_queues]
    exact h
  · simp

@[simp] theorem State.allocDevice_queues (s : State) (r : Nat) (c : Cmd) (io : HostIo) (asked : List Nat) :
    (s.allocDevice r c io asked).queues = s.queues := by
  simp only [State.allocDevice]
  split
  · simp
  · rename_i h; exact State.giveAlloc_queues _ _ _ _ _ _ (State.placeAlloc_queues h)

@[simp] theorem State.allocHost_queues (s : State) (r : Nat) (c : Cmd) (io : HostIo) (asked : List Nat) :
    (s.allocHost r c io asked).queues = s.queues := by
  unfold State.allocHost
  apply State.withData_queues
  intro t b
  dsimp only
  repeat' split
  · simp
  · simp
  · simp
  · rename_i h
    exact State.giveAlloc_queues _ _ _ _ _ _ (State.takeChunks_queues h)

@[simp] theorem State.scramble_queues (s : State) (a : Alloc) : (State.scramble s a).queues = s.queues := by
  rfl

@[simp] theorem State.loadAdapter_queues (s : State) (r : Nat) (c : Cmd) (a : Alloc) (v : Variant) (clear : Blob) : (State.loadAdapter s r c a v clear).queues = s.queues := by
  simp [State.loadAdapter]

@[simp] theorem State.register_queues (s : State) (r : Nat) (c : Cmd) (io : HostIo) (d : VarDesc) (a : Alloc) (key img : Nat) (clear : Blob) :
  (s.register r c io d a key img clear).queues = s.queues := by
  unfold State.register
  dsimp only
  repeat' split
  · simp
  · rw [State.answer_queues] <;> simp
  · rw [State.answer_queues]
    · simp
    · intro t; rfl

@[simp] theorem State.unwrapAndRegister_queues (s : State) (r : Nat) (c : Cmd) (io : HostIo) (d : VarDesc) (a : Alloc) (b : Blob) : (State.unwrapAndRegister s r c io d a b).queues = s.queues := by
  simp only [State.unwrapAndRegister]; repeat' split
  all_goals simp

@[simp] theorem State.dropSlices_queues (s : State) (v : Nat) : (State.dropSlices s v).queues = s.queues := by
  rfl

@[simp] theorem State.commitUpdate_queues (s : State) (r id : Nat) (c : Cmd) (v : Variant) (d : VarDesc) (clear : Option Blob) : (State.commitUpdate s r id c v d clear).queues = s.queues := by
  simp only [State.commitUpdate]; repeat' split
  all_goals simp

@[simp] theorem State.unchange_queues (s : State) (id : Nat) : (State.unchange s id).queues = s.queues := by
  rfl

@[simp] theorem State.runUpdate_queues (s : State) (r id : Nat) (c : Cmd) (io : HostIo) (v : Variant)  : (s.runUpdate r id c io v).queues = s.queues := by
  unfold State.runUpdate
  apply State.withData_queues
  intro t b
  split
  · simp
  · dsimp only
    repeat' split
    all_goals simp

@[simp] theorem State.runDrop_queues (s : State) (r id : Nat) (v : Variant) : (State.runDrop s r id v).queues = s.queues := by
  simp [State.runDrop]

@[simp] theorem State.changeOrWait_queues (s : State) (r id : Nat) (c : Cmd) (run : State → State) (hrun : ∀ t , (run t ).queues = t.queues) : (State.changeOrWait s r id c run).queues = s.queues := by
  simp only [State.changeOrWait]; repeat' split
  all_goals simp [hrun]

@[simp] theorem State.storeCkpt_queues (s : State) (c : Ckpt) : (State.storeCkpt s c).queues = s.queues := by
  simp only [State.storeCkpt]; repeat' split
  all_goals simp

@[simp] theorem State.offer_queues (s : State) (c : Instr) : (State.offer s c).queues = s.queues := by
  rfl

@[simp] theorem State.withFetchWord_queues (s : State) (nbits w : Nat) : (State.withFetchWord s nbits w).queues = s.queues := by
  rfl

/-! ### `now` -/

@[simp] theorem foldl_now {β : Type} (f : State → β → State) (l : List β) (s : State) (h : ∀ t x, (f t x).now = t.now) :
    (l.foldl f s).now = s.now := by induction l generalizing s with | nil => rfl | cons a l ih => simp [ih, h]

@[simp] theorem State.logPage_now (s : State) (f page : Nat) : (State.logPage s f page).now = s.now := by
  simp only [State.logPage]; repeat' split
  all_goals simp

@[simp] theorem State.signalCq_now (s : State) (q : Nat) : (State.signalCq s q).now = s.now := by
  unfold State.signalCq; split <;> simp

@[simp] theorem State.moraine_now (s : State) (f n : Nat) : (State.moraine s f n).now = s.now := by
  rfl

@[simp] theorem State.releaseRefused_now (s : State) (r : Nat) : (State.releaseRefused s r).now = s.now := by
  unfold State.releaseRefused; split <;> simp

@[simp] theorem State.endCmd_now (s : State) (r : Nat) (st : Status) : (State.endCmd s r st).now = s.now := by
  simp [State.endCmd]

@[simp] theorem State.dropStreams_now (s : State) (r : Nat) : (State.dropStreams s r).now = s.now := by
  rfl

@[simp] theorem State.crevMap_now (s : State) (p : Crev → Bool) (f : Crev → Crev) : (State.crevMap s p f).now = s.now := by
  rfl

@[simp] theorem State.crevLeave_now (s : State) (r : Nat) : (State.crevLeave s r).now = s.now := by
  rfl

@[simp] theorem State.failCmd_now (s : State) (r : Nat) (st : Status) : (State.failCmd s r st).now = s.now := by
  unfold State.failCmd; split <;> simp

@[simp] theorem State.setFkt_now (s : State) (tier frame : Nat) (e : Fkt) : (State.setFkt s tier frame e).now = s.now := by
  unfold State.setFkt; split <;> simp

@[simp] theorem State.clearFkt_now (s : State) (tier frame : Nat) : (State.clearFkt s tier frame).now = s.now := by
  unfold State.clearFkt; split <;> simp

@[simp] theorem State.modSlot_now (s : State) (k : Nat) (f : VSlot → VSlot) : (State.modSlot s k f).now = s.now := by
  rfl

theorem State.newBlock_now {s s' : State} {t : Nat} (h : s.newBlock t = some s') : s'.now = s.now := by
  simp only [State.newBlock] at h
  by_cases hn : s.varve.blocksIn t % 29 ≠ 0
  · rw [if_pos hn] at h; cases h; rfl
  · rw [if_neg hn] at h; obtain ⟨f, _, rfl⟩ := Option.map_eq_some_iff.mp h; simp

@[simp] theorem State.useSlot_now (s : State) (k tier frame key : Nat) : (State.useSlot s k tier frame key).now = s.now := by
  rfl

theorem State.protect_now {s s' : State} {tier frame key : Nat} (h : s.protect tier frame key = some s') : s'.now = s.now := by
  simp only [State.protect] at h
  split at h
  · cases h; simp
  · split at h
    · cases h
    · obtain ⟨t, ht, rfl⟩ := Option.map_eq_some_iff.mp h; simp [State.newBlock_now ht]

theorem State.protectAll_now {tier key : Nat} {l : List Nat} {s s' : State} (h : State.protectAll tier key l s = some s') : s'.now = s.now := by
  induction l generalizing s with
  | nil => cases h; rfl
  | cons f t ih =>
    simp only [State.protectAll] at h
    split at h
    · cases h
    · rename_i s2 h2; rw [ih h]; simp [State.protect_now h2]

theorem State.takeFrames_now {s s' : State} {tier : Nat} {e : Fkt} {l : List Nat} (h : s.takeFrames tier e l = some s') : s'.now = s.now := by
  simp only [State.takeFrames] at h
  split at h
  · rw [State.protectAll_now h]; simp
  · cases h; simp

@[simp] theorem State.forgetFrame_now (s : State) (tier frame : Nat) : (State.forgetFrame s tier frame).now = s.now := by
  rfl

@[simp] theorem State.releaseFrame_now (s : State) (tier frame : Nat) : (State.releaseFrame s tier frame).now = s.now := by
  simp only [State.releaseFrame]; repeat' split
  all_goals simp

@[simp] theorem State.setPage_now (s : State) (k p : Nat) (c : PageCtr) : (State.setPage s k p c).now = s.now := by
  simp only [State.setPage]; repeat' split
  all_goals simp

@[simp] theorem State.leaveWalk_now (s : State) (key k p : Nat) : (State.leaveWalk s key k p).now = s.now := by
  rfl

@[simp] theorem State.chunkFetch_now (s : State) (tier off : Nat) : (State.chunkFetch s tier off).now = s.now := by
  unfold State.chunkFetch; split <;> simp

@[simp] theorem State.chunkStore_now (s : State) (tier off : Nat) : (State.chunkStore s tier off).now = s.now := by
  unfold State.chunkStore; split <;> simp

@[simp] theorem State.recrypt_now (s : State) (k p : Nat) (c : PageCtr) : (State.recrypt s k p c).now = s.now := by
  simp only [State.recrypt]; repeat' split
  all_goals simp

@[simp] theorem State.endWalk_now (s : State) (key : Nat) : (State.endWalk s key).now = s.now := by
  simp only [State.endWalk]; repeat' split
  all_goals try simp
  all_goals (apply foldl_now; intro t x; try dsimp only)
  all_goals repeat' split
  all_goals first | (simp; done) | (apply foldl_now; intro t x; (try dsimp only); (repeat' split) <;> simp)

@[simp] theorem State.startRekey_now (s : State) (key : Nat) : (State.startRekey s key).now = s.now := by
  rfl

@[simp] theorem State.rekeyPage_now (s : State) (key k p : Nat) (c : PageCtr) : (State.rekeyPage s key k p c).now = s.now := by
  simp only [State.rekeyPage]; repeat' split
  all_goals simp

@[simp] theorem State.reencrypt_now (s : State) (k p : Nat) (v : VSlot) : (State.reencrypt s k p v).now = s.now := by
  simp only [State.reencrypt]; repeat' split
  all_goals simp

@[simp] theorem State.bumpMinor_now (s : State) (k p g : Nat) : (State.bumpMinor s k p g).now = s.now := by
  unfold State.bumpMinor; split <;> simp

@[simp] theorem State.glazeWrite_now (s : State) (tier off len : Nat) : (State.glazeWrite s tier off len).now = s.now := by
  simp only [State.glazeWrite]; repeat' split
  all_goals simp

@[simp] theorem State.regionWrite_now (s : State) (off : Nat) (b : Blob) : (State.regionWrite s off b).now = s.now := by
  simp [State.regionWrite]

@[simp] theorem State.regionPut_now (s : State) (off : Nat) (b : Blob) : (State.regionPut s off b).now = s.now := by
  simp only [State.regionPut]; repeat' split
  all_goals try simp
  all_goals (apply foldl_now; intro t x; try dsimp only)
  all_goals repeat' split
  all_goals first | (simp; done) | (apply foldl_now; intro t x; (try dsimp only); (repeat' split) <;> simp)

@[simp] theorem State.placeTables_now (s : State) (x : Nat) (ls : List Leaf) : (State.placeTables s x ls).now = s.now := by
  rfl

@[simp] theorem State.putTables_now (s : State) (x : Nat) (ls : List Leaf) : (State.putTables s x ls).now = s.now := by
  simp [State.putTables]

@[simp] theorem State.invalidate_now (s : State) (c lo hi : Nat) (cmd : Option Nat) (change : Option Change) : (State.invalidate s c lo hi cmd change).now = s.now := by
  rfl

@[simp] theorem State.fktDeny_now (s : State) (q : MemReq) : (State.fktDeny s q).now = s.now := by
  simp only [State.fktDeny]; repeat' split
  all_goals simp

@[simp] theorem State.hotCount_now (s : State) (tier offset : Nat) (epoch : Option Nat) : (State.hotCount s tier offset epoch).now = s.now := by
  simp only [State.hotCount]; repeat' split
  all_goals simp

@[simp] theorem State.refuseBad_now (s : State) (q : MemReq) : (State.refuseBad s q).now = s.now := by
  unfold State.refuseBad; split <;> simp

@[simp] theorem State.chunkWrite_now (s : State) (q : MemReq) (data : Blob) : (State.chunkWrite s q data).now = s.now := by
  simp only [State.chunkWrite]; repeat' split
  all_goals simp

@[simp] theorem State.putGranule_now (s : State) (q : MemReq) (data : Blob) : (State.putGranule s q data).now = s.now := by
  simp only [State.putGranule]; repeat' split
  all_goals simp

@[simp] theorem State.portWrite_now (s : State) (q : MemReq) (data : Blob) : (State.portWrite s q data).now = s.now := by
  simp only [State.portWrite]; repeat' split
  all_goals try simp
  all_goals (apply foldl_now; intro t x; try dsimp only)
  all_goals repeat' split
  all_goals first | (simp; done) | (apply foldl_now; intro t x; (try dsimp only); (repeat' split) <;> simp)

@[simp] theorem putFrames_now (a : Alloc) (q : MemReq) (f off : Nat) (b : Blob) (s : State) : (putFrames a q f off b s).now = s.now := by
  induction f generalizing off b s with
  | zero => rfl
  | succ f ih => simp only [putFrames]; split <;> simp [ih]

@[simp] theorem State.allocPut_now (s : State) (a : Alloc) (q : MemReq) (off : Nat) (b : Blob) : (State.allocPut s a q off b).now = s.now := by
  simp [State.allocPut]

@[simp] theorem State.pageWritten_now (s : State) (p : Page) (mem : List Host.Cell) : (State.pageWritten s p mem).now = s.now := by
  unfold State.pageWritten
  rw [foldl_now]
  intro t o; simp

@[simp] theorem State.zeroPage_now (s : State) (p : Page) : (State.zeroPage s p).now = s.now := State.pageWritten_now _ _ _

@[simp] theorem State.copyPage_now (s : State) (m : Move) : (State.copyPage s m).now = s.now := by
  unfold State.copyPage
  rw [State.pageWritten_now, foldl_now]
  intro t o; split <;> simp

@[simp] theorem State.doMoves_now (s : State) (mv : List Move) (fresh : List Page) : (State.doMoves s mv fresh).now = s.now := by
  simp [State.doMoves]

@[simp] theorem State.syncSeq_now (s : State) (i : Nat) (q : Sequence) : (State.syncSeq s i q).now = s.now := by
  simp [State.syncSeq]

@[simp] theorem State.syncSeqs_now (s : State) : (State.syncSeqs s).now = s.now := by
  simp [State.syncSeqs]

@[simp] theorem State.fitBlocks_now (s : State) (i : Nat) : (State.fitBlocks s i).now = s.now := by
  unfold State.fitBlocks; split <;> simp

@[simp] theorem State.unreserve_now (s : State) (r : Nat) : (State.unreserve s r).now = s.now := by
  unfold State.unreserve; split <;> simp

@[simp] theorem State.freeSeqPages_now (s : State) (i keep : Nat) : (State.freeSeqPages s i keep).now = s.now := by
  unfold State.freeSeqPages; split <;> simp

@[simp] theorem State.releaseSeq_now (s : State) (i : Nat) : (State.releaseSeq s i).now = s.now := by
  simp [State.releaseSeq]

@[simp] theorem State.loosen_now (s : State) (i : Nat) : (State.loosen s i).now = s.now := by
  simp only [State.loosen]; repeat' split
  all_goals try simp
  all_goals (apply foldl_now; intro t x; try dsimp only)
  all_goals repeat' split
  all_goals first | (simp; done) | (apply foldl_now; intro t x; (try dsimp only); (repeat' split) <;> simp)

@[simp] theorem State.createSeq_now (s : State) (r : Nat) (c : Cmd) : (State.createSeq s r c).now = s.now := by
  simp only [State.createSeq]; repeat' split
  all_goals simp

@[simp] theorem State.zeroTraining_now (s : State) (a : Alloc) (q : MemReq) (lay : List Placed × Nat × Nat) (saveBytes : Nat) (grads : Bool) : (State.zeroTraining s a q lay saveBytes grads).now = s.now := by
  simp [State.zeroTraining]

@[simp] theorem State.zeroGradients_now (s : State) (r : Nat) (c : Cmd) : (State.zeroGradients s r c).now = s.now := by
  simp only [State.zeroGradients]; repeat' split
  all_goals try simp
  all_goals (apply foldl_now; intro t x; try dsimp only)
  all_goals repeat' split
  all_goals first | (simp; done) | (apply foldl_now; intro t x; (try dsimp only); (repeat' split) <;> simp)

@[simp] theorem State.withdrawFns_now (s : State) (r : Nat) : (State.withdrawFns s r).now = s.now := by
  rfl

@[simp] theorem State.withdrawUnits_now (s : State) (r : Nat) : (State.withdrawUnits s r).now = s.now := by
  rfl

@[simp] theorem State.freeIdx_now (s : State) (l : List Nat) : (State.freeIdx s l).now = s.now := by
  rfl

@[simp] theorem State.absentImage_now (s : State) (i : Nat) : (State.absentImage s i).now = s.now := by
  simp only [State.absentImage]; repeat' split
  all_goals simp

@[simp] theorem State.dropLoadVersion_now (s : State) (l : Load) : (State.dropLoadVersion s l).now = s.now := by
  simp only [State.dropLoadVersion]; repeat' split
  all_goals simp

@[simp] theorem State.undrain_now (s : State) (i : Nat) : (State.undrain s i).now = s.now := by
  unfold State.undrain; split <;> simp

@[simp] theorem State.withdrawLoad_now (s : State) (r : Nat) : (State.withdrawLoad s r).now = s.now := by
  simp only [State.withdrawLoad]; repeat' split
  all_goals simp

@[simp] theorem State.withdraw_now (s : State) (r : Nat) : (State.withdraw s r).now = s.now := by
  simp [State.withdraw]

@[simp] theorem State.pruneGraphs_now (s : State) : (State.pruneGraphs s).now = s.now := by
  rfl

@[simp] theorem State.pruneImages_now (s : State) : (State.pruneImages s).now = s.now := by
  simp only [State.pruneImages]; repeat' split
  all_goals simp

@[simp] theorem State.prune_now (s : State) : (State.prune s).now = s.now := by
  simp [State.prune]

@[simp] theorem State.releaseSaves_now (s : State) (r c : Nat) (ok : Bool) : (State.releaseSaves s r c ok).now = s.now := by
  simp only [State.releaseSaves]; repeat' split
  all_goals simp

@[simp] theorem State.countFor_now (s : State) (u x : Nat) (f : Cmd → Cmd) : (State.countFor s u x f).now = s.now := by
  rfl

@[simp] theorem State.sendPreempt_now (s : State) (u x mode : Nat) : (State.sendPreempt s u x mode).now = s.now := by
  unfold State.sendPreempt; split <;> simp

@[simp] theorem State.stopStreams_now (s : State) (u x : Nat) : (State.stopStreams s u x).now = s.now := by
  rfl

@[simp] theorem State.startStream_now (s : State) (u r : Nat) (c : Cmd) (pass layer : Nat) (again : Bool) : (State.startStream s u r c pass layer again).now = s.now := by
  simp only [State.startStream]; repeat' split
  all_goals simp

@[simp] theorem State.nowHolds_now (s : State) (u x : Nat) : (State.nowHolds s u x).now = s.now := by
  rfl

@[simp] theorem State.resume_now (s : State) (u x mode pass layer : Nat) : (State.resume s u x mode pass layer).now = s.now := by
  simp only [State.resume]; repeat' split
  all_goals simp

@[simp] theorem State.bringIn_now (s : State) (u x : Nat) : (State.bringIn s u x).now = s.now := by
  simp only [State.bringIn]; repeat' split
  all_goals simp

@[simp] theorem State.switchOut_now (s : State) (u x : Nat) : (State.switchOut s u x).now = s.now := by
  simp only [State.switchOut]; repeat' split
  all_goals simp

@[simp] theorem State.switchOn_now (s : State) (u : Nat) : (State.switchOn s u).now = s.now := by
  simp only [State.switchOn]; repeat' split
  all_goals simp

@[simp] theorem State.endTurn_now (s : State) (u : Nat) : (State.endTurn s u).now = s.now := by
  rfl

@[simp] theorem State.noteRealtime_now (s : State) (u : Nat) : (State.noteRealtime s u).now = s.now := by
  rfl

@[simp] theorem State.settleUnit_now (s : State) (u : Nat) : (State.settleUnit s u).now = s.now := by
  simp only [State.settleUnit]; repeat' split
  all_goals simp

@[simp] theorem State.settle_now (s : State) : (State.settle s).now = s.now := by
  simp [State.settle]

@[simp] theorem State.interruptCq_now (s : State) (i : Nat) : (State.interruptCq s i).now = s.now := by
  simp only [State.interruptCq]; repeat' split
  all_goals simp

theorem State.takeChunks_now {s s' : State} {e : Fkt} {l : List (Nat × Nat)} (h : s.takeChunks e l = some s') : s'.now = s.now := by
  induction l generalizing s with
  | nil => cases h; rfl
  | cons a t ih =>
    simp only [State.takeChunks] at h
    split at h
    · rename_i h1; rw [ih h, State.takeFrames_now h1]
    · cases h

@[simp] theorem State.movedWorks_now (s : State) (f dst : Nat × Nat) : (State.movedWorks s f dst).now = s.now := by
  rfl

theorem State.moveBytes_now {s s' : State} {e : Fkt} {a b : Nat × Nat} (h : s.moveBytes e a b = some s') : s'.now = s.now := by
  obtain ⟨t, ht, rfl⟩ := Option.map_eq_some_iff.mp h
  rw [State.releaseFrame_now, foldl_now _ _ _ (by intro u o; simp)]
  exact (State.takeFrames_now ht : t.now = s.now)

theorem State.moveFrame_now {s s' : State} {a b : Nat × Nat} (h : s.moveFrame a b = some s') : s'.now = s.now := by
  unfold State.moveFrame at h
  split at h
  · cases h
  · rename_i s0 h0
    obtain ⟨e, _, he⟩ := Option.bind_eq_some_iff.mp h0
    cases h
    dsimp only
    rw [foldl_now _ _ _ (by intro t w; simp), foldl_now _ _ _ (by intro t w; simp)]
    dsimp only
    rw [State.movedWorks_now]
    exact State.moveBytes_now he

@[simp] theorem State.hostAddWrite_now (s : State) (v : Nat) : (s.hostAddWrite v).now = s.now := by
  simp only [State.hostAddWrite]
  split
  · rfl
  · split
    · split
      · rename_i h; simp [State.takeChunks_now h]
      · rfl
    · rfl

/-! ### `allocs` -/

@[simp] theorem foldl_allocs {β : Type} (f : State → β → State) (l : List β) (s : State) (h : ∀ t x, (f t x).allocs = t.allocs) :
    (l.foldl f s).allocs = s.allocs := by induction l generalizing s with | nil => rfl | cons a l ih => simp [ih, h]

@[simp] theorem State.logPage_allocs (s : State) (f page : Nat) : (State.logPage s f page).allocs = s.allocs := by
  simp only [State.logPage]; repeat' split
  all_goals simp

@[simp] theorem State.signalCq_allocs (s : State) (q : Nat) : (State.signalCq s q).allocs = s.allocs := by
  unfold State.signalCq; split <;> simp

@[simp] theorem State.moraine_allocs (s : State) (f n : Nat) : (State.moraine s f n).allocs = s.allocs := by
  rfl

@[simp] theorem State.releaseRefused_allocs (s : State) (r : Nat) : (State.releaseRefused s r).allocs = s.allocs := by
  unfold State.releaseRefused; split <;> simp

@[simp] theorem State.endCmd_allocs (s : State) (r : Nat) (st : Status) : (State.endCmd s r st).allocs = s.allocs := by
  simp [State.endCmd]

@[simp] theorem State.dropStreams_allocs (s : State) (r : Nat) : (State.dropStreams s r).allocs = s.allocs := by
  rfl

@[simp] theorem State.crevMap_allocs (s : State) (p : Crev → Bool) (f : Crev → Crev) : (State.crevMap s p f).allocs = s.allocs := by
  rfl

@[simp] theorem State.crevLeave_allocs (s : State) (r : Nat) : (State.crevLeave s r).allocs = s.allocs := by
  rfl

@[simp] theorem State.failCmd_allocs (s : State) (r : Nat) (st : Status) : (State.failCmd s r st).allocs = s.allocs := by
  unfold State.failCmd; split <;> simp

@[simp] theorem State.failAll_allocs (s : State) (l : List Nat) (st : Status) : (State.failAll s l st).allocs = s.allocs := by
  simp [State.failAll]

@[simp] theorem State.sendFloe_allocs (s : State) (link : Nat) (m : FloeMsg) : (State.sendFloe s link m).allocs = s.allocs := by
  rfl

@[simp] theorem State.sendUart_allocs (s : State) (l : List Nat) : (State.sendUart s l).allocs = s.allocs := by
  rfl

@[simp] theorem State.beginWake_allocs (s : State) : (State.beginWake s).allocs = s.allocs := by
  rfl

@[simp] theorem State.startWake_allocs (s : State) (src : WakeSrc) : (State.startWake s src).allocs = s.allocs := by
  unfold State.startWake; split <;> simp

@[simp] theorem State.config_allocs (s : State) (c : Instr) (f : State → State) (hf : ∀ t , (f t ).allocs = t.allocs) : (State.config s c f).allocs = s.allocs := by
  simp only [State.config]; repeat' split
  all_goals simp [hf]

@[simp] theorem State.abortRead_allocs (s : State) (f : Nat) : (State.abortRead s f).allocs = s.allocs := by
  rfl

@[simp] theorem State.access_allocs (s : State) (c : Instr) (read : Bool) (f : State → State) (hf : ∀ t , (f t ).allocs = t.allocs) : (State.access s c read f).allocs = s.allocs := by
  simp only [State.access]; repeat' split
  all_goals simp [hf]

@[simp] theorem State.setFkt_allocs (s : State) (tier frame : Nat) (e : Fkt) : (State.setFkt s tier frame e).allocs = s.allocs := by
  unfold State.setFkt; split <;> simp

@[simp] theorem State.clearFkt_allocs (s : State) (tier frame : Nat) : (State.clearFkt s tier frame).allocs = s.allocs := by
  unfold State.clearFkt; split <;> simp

@[simp] theorem State.fillKey_allocs (s : State) (k : Nat) (owner : Option Nat) : (State.fillKey s k owner).allocs = s.allocs := by
  rfl

@[simp] theorem State.dropKey_allocs (s : State) (k : Nat) : (State.dropKey s k).allocs = s.allocs := by
  rfl

@[simp] theorem State.modSlot_allocs (s : State) (k : Nat) (f : VSlot → VSlot) : (State.modSlot s k f).allocs = s.allocs := by
  rfl

theorem State.newBlock_allocs {s s' : State} {t : Nat} (h : s.newBlock t = some s') : s'.allocs = s.allocs := by
  simp only [State.newBlock] at h
  by_cases hn : s.varve.blocksIn t % 29 ≠ 0
  · rw [if_pos hn] at h; cases h; rfl
  · rw [if_neg hn] at h; obtain ⟨f, _, rfl⟩ := Option.map_eq_some_iff.mp h; simp

@[simp] theorem State.useSlot_allocs (s : State) (k tier frame key : Nat) : (State.useSlot s k tier frame key).allocs = s.allocs := by
  rfl

theorem State.protect_allocs {s s' : State} {tier frame key : Nat} (h : s.protect tier frame key = some s') : s'.allocs = s.allocs := by
  simp only [State.protect] at h
  split at h
  · cases h; simp
  · split at h
    · cases h
    · obtain ⟨t, ht, rfl⟩ := Option.map_eq_some_iff.mp h; simp [State.newBlock_allocs ht]

theorem State.protectAll_allocs {tier key : Nat} {l : List Nat} {s s' : State} (h : State.protectAll tier key l s = some s') : s'.allocs = s.allocs := by
  induction l generalizing s with
  | nil => cases h; rfl
  | cons f t ih =>
    simp only [State.protectAll] at h
    split at h
    · cases h
    · rename_i s2 h2; rw [ih h]; simp [State.protect_allocs h2]

theorem State.takeFrames_allocs {s s' : State} {tier : Nat} {e : Fkt} {l : List Nat} (h : s.takeFrames tier e l = some s') : s'.allocs = s.allocs := by
  simp only [State.takeFrames] at h
  split at h
  · rw [State.protectAll_allocs h]; simp
  · cases h; simp

@[simp] theorem State.forgetFrame_allocs (s : State) (tier frame : Nat) : (State.forgetFrame s tier frame).allocs = s.allocs := by
  rfl

@[simp] theorem State.releaseFrame_allocs (s : State) (tier frame : Nat) : (State.releaseFrame s tier frame).allocs = s.allocs := by
  simp only [State.releaseFrame]; repeat' split
  all_goals simp

@[simp] theorem State.setPage_allocs (s : State) (k p : Nat) (c : PageCtr) : (State.setPage s k p c).allocs = s.allocs := by
  simp only [State.setPage]; repeat' split
  all_goals simp

@[simp] theorem State.leaveWalk_allocs (s : State) (key k p : Nat) : (State.leaveWalk s key k p).allocs = s.allocs := by
  rfl

@[simp] theorem State.chunkFetch_allocs (s : State) (tier off : Nat) : (State.chunkFetch s tier off).allocs = s.allocs := by
  unfold State.chunkFetch; split <;> simp

@[simp] theorem State.chunkStore_allocs (s : State) (tier off : Nat) : (State.chunkStore s tier off).allocs = s.allocs := by
  unfold State.chunkStore; split <;> simp

@[simp] theorem State.recrypt_allocs (s : State) (k p : Nat) (c : PageCtr) : (State.recrypt s k p c).allocs = s.allocs := by
  simp only [State.recrypt]; repeat' split
  all_goals simp

@[simp] theorem State.endWalk_allocs (s : State) (key : Nat) : (State.endWalk s key).allocs = s.allocs := by
  simp only [State.endWalk]; repeat' split
  all_goals try simp
  all_goals (apply foldl_allocs; intro t x; try dsimp only)
  all_goals repeat' split
  all_goals first | (simp; done) | (apply foldl_allocs; intro t x; (try dsimp only); (repeat' split) <;> simp)

@[simp] theorem State.startRekey_allocs (s : State) (key : Nat) : (State.startRekey s key).allocs = s.allocs := by
  rfl

@[simp] theorem State.rekeyPage_allocs (s : State) (key k p : Nat) (c : PageCtr) : (State.rekeyPage s key k p c).allocs = s.allocs := by
  simp only [State.rekeyPage]; repeat' split
  all_goals simp

@[simp] theorem State.reencrypt_allocs (s : State) (k p : Nat) (v : VSlot) : (State.reencrypt s k p v).allocs = s.allocs := by
  simp only [State.reencrypt]; repeat' split
  all_goals simp

@[simp] theorem State.bumpMinor_allocs (s : State) (k p g : Nat) : (State.bumpMinor s k p g).allocs = s.allocs := by
  unfold State.bumpMinor; split <;> simp

@[simp] theorem State.glazeWrite_allocs (s : State) (tier off len : Nat) : (State.glazeWrite s tier off len).allocs = s.allocs := by
  simp only [State.glazeWrite]; repeat' split
  all_goals simp

@[simp] theorem State.writeNode_allocs (s : State) (level pos : Nat) : (State.writeNode s level pos).allocs = s.allocs := by
  unfold State.writeNode; split <;> simp

@[simp] theorem State.halt_allocs (s : State) (r : Seal) : (State.halt s r).allocs = s.allocs := by
  unfold State.halt; split <;> simp

@[simp] theorem State.append_allocs (s : State) (f : Nat) (r : Receipt) : (State.append s f r).allocs = s.allocs := by
  simp only [State.append]; repeat' split
  all_goals simp

@[simp] theorem State.persistPut_allocs (s : State) (o : Nat) (b : Blob) : (State.persistPut s o b).allocs = s.allocs := by
  rfl

@[simp] theorem State.putHeader_allocs (s : State) (clean : Bool) : (State.putHeader s clean).allocs = s.allocs := by
  rfl

@[simp] theorem State.persistOne_allocs (s : State) (x : Receipt) : (State.persistOne s x).allocs = s.allocs := by
  unfold State.persistOne
  dsimp only
  rw [State.putHeader_allocs]
  simp

@[simp] theorem State.restartDue_allocs (s : State) (f : Nat) : (State.restartDue s f).allocs = s.allocs := by
  unfold State.restartDue; split <;> simp

@[simp] theorem State.persistAll_allocs (s : State) : (State.persistAll s).allocs = s.allocs := by
  simp [State.persistAll]

@[simp] theorem State.regionWrite_allocs (s : State) (off : Nat) (b : Blob) : (State.regionWrite s off b).allocs = s.allocs := by
  simp [State.regionWrite]

@[simp] theorem State.regionPut_allocs (s : State) (off : Nat) (b : Blob) : (State.regionPut s off b).allocs = s.allocs := by
  simp only [State.regionPut]; repeat' split
  all_goals try simp
  all_goals (apply foldl_allocs; intro t x; try dsimp only)
  all_goals repeat' split
  all_goals first | (simp; done) | (apply foldl_allocs; intro t x; (try dsimp only); (repeat' split) <;> simp)

@[simp] theorem State.placeTables_allocs (s : State) (x : Nat) (ls : List Leaf) : (State.placeTables s x ls).allocs = s.allocs := by
  rfl

@[simp] theorem State.putTables_allocs (s : State) (x : Nat) (ls : List Leaf) : (State.putTables s x ls).allocs = s.allocs := by
  simp [State.putTables]

@[simp] theorem State.crevWrite_allocs (s : State) (r : Crev) : (State.crevWrite s r).allocs = s.allocs := by
  rfl

@[simp] theorem State.crevPost_allocs (s : State) (r0 : Crev) : (State.crevPost s r0).allocs = s.allocs := by
  simp only [State.crevPost]; repeat' split
  all_goals simp

@[simp] theorem State.crevPostWaiting_allocs (s : State) : (State.crevPostWaiting s).allocs = s.allocs := by
  unfold State.crevPostWaiting; split <;> simp

@[simp] theorem State.tileFault_allocs (s : State) (r : Nat) (c : Cmd) (ls : List Leaf) (engines access missingVa : Nat) (ranges : List (Nat × Nat)) (early : Bool) : (State.tileFault s r c ls engines access missingVa ranges early).allocs = s.allocs := by
  simp only [State.tileFault]; repeat' split
  all_goals simp

@[simp] theorem State.rightsFault_allocs (s : State) (c : Cmd) (engines access : Nat) (va : Nat) (ranges lack : List (Nat × Nat)) : (State.rightsFault s c engines access va ranges lack).allocs = s.allocs := by
  simp [State.rightsFault]

@[simp] theorem State.crevResolve_allocs (s : State) (c lo hi : Nat) : (State.crevResolve s c lo hi).allocs = s.allocs := by
  unfold State.crevResolve; split <;> simp

@[simp] theorem State.crevWithdrawCtx_allocs (s : State) (c : Nat) : (State.crevWithdrawCtx s c).allocs = s.allocs := by
  rfl

@[simp] theorem State.invalidate_allocs (s : State) (c lo hi : Nat) (cmd : Option Nat) (change : Option Change) : (State.invalidate s c lo hi cmd change).allocs = s.allocs := by
  rfl

@[simp] theorem State.fktDeny_allocs (s : State) (q : MemReq) : (State.fktDeny s q).allocs = s.allocs := by
  simp only [State.fktDeny]; repeat' split
  all_goals simp

@[simp] theorem State.hotCount_allocs (s : State) (tier offset : Nat) (epoch : Option Nat) : (State.hotCount s tier offset epoch).allocs = s.allocs := by
  simp only [State.hotCount]; repeat' split
  all_goals simp

@[simp] theorem State.refuseBad_allocs (s : State) (q : MemReq) : (State.refuseBad s q).allocs = s.allocs := by
  unfold State.refuseBad; split <;> simp

@[simp] theorem State.chunkWrite_allocs (s : State) (q : MemReq) (data : Blob) : (State.chunkWrite s q data).allocs = s.allocs := by
  simp only [State.chunkWrite]; repeat' split
  all_goals simp

@[simp] theorem State.putGranule_allocs (s : State) (q : MemReq) (data : Blob) : (State.putGranule s q data).allocs = s.allocs := by
  simp only [State.putGranule]; repeat' split
  all_goals simp

@[simp] theorem State.portWrite_allocs (s : State) (q : MemReq) (data : Blob) : (State.portWrite s q data).allocs = s.allocs := by
  simp only [State.portWrite]; repeat' split
  all_goals try simp
  all_goals (apply foldl_allocs; intro t x; try dsimp only)
  all_goals repeat' split
  all_goals first | (simp; done) | (apply foldl_allocs; intro t x; (try dsimp only); (repeat' split) <;> simp)

@[simp] theorem State.chunkRead_allocs (s : State) (q : MemReq) : (State.chunkRead s q).allocs = s.allocs := by
  simp only [State.chunkRead]; repeat' split
  all_goals simp

@[simp] theorem State.getGranule_allocs (s : State) (q : MemReq) : (s.getGranule q).2.allocs = s.allocs := by
  simp only [State.getGranule]; repeat' split
  all_goals simp

/-- A fold over a pair of bytes and state. -/
theorem foldPair_allocs {β : Type} (f : Blob × State → β → Blob × State) (l : List β) (x : Blob × State) (h : ∀ y a, (f y a).2.allocs = y.2.allocs) :
    (l.foldl f x).2.allocs = x.2.allocs := by induction l generalizing x with | nil => rfl | cons a l ih => simp [ih, h]

@[simp] theorem State.portRead_allocs (s : State) (q : MemReq) (n : Nat) : (s.portRead q n).2.allocs = s.allocs := by
  simp only [State.portRead]; rw [foldPair_allocs]; intro y a; (try dsimp only); split <;> simp

@[simp] theorem State.readVa_allocs (s : State) (r : Nat) (c : Cmd) (ls : List Leaf) (va len : Nat) : (s.readVa r c ls va len).2.allocs = s.allocs := by
  simp only [State.readVa]; rw [foldPair_allocs]; intro y a; (try dsimp only); repeat' split
  all_goals simp

@[simp] theorem putFrames_allocs (a : Alloc) (q : MemReq) (f off : Nat) (b : Blob) (s : State) : (putFrames a q f off b s).allocs = s.allocs := by
  induction f generalizing off b s with
  | zero => rfl
  | succ f ih => simp only [putFrames]; split <;> simp [ih]

@[simp] theorem getFrames_allocs (a : Alloc) (q : MemReq) (f off n : Nat) (s : State) : (getFrames a q f off n s).2.allocs = s.allocs := by
  induction f generalizing off n s with
  | zero => rfl
  | succ f ih => simp only [getFrames]; split <;> simp [ih]

@[simp] theorem State.allocPut_allocs (s : State) (a : Alloc) (q : MemReq) (off : Nat) (b : Blob) : (State.allocPut s a q off b).allocs = s.allocs := by
  simp [State.allocPut]

@[simp] theorem State.allocGet_allocs (s : State) (a : Alloc) (q : MemReq) (off n : Nat) : (s.allocGet a q off n).2.allocs = s.allocs := by
  simp [State.allocGet]

@[simp] theorem State.pageWritten_allocs (s : State) (p : Page) (mem : List Host.Cell) : (State.pageWritten s p mem).allocs = s.allocs := by
  unfold State.pageWritten
  rw [foldl_allocs]
  intro t o; simp

@[simp] theorem State.zeroPage_allocs (s : State) (p : Page) : (State.zeroPage s p).allocs = s.allocs := State.pageWritten_allocs _ _ _

@[simp] theorem State.copyPage_allocs (s : State) (m : Move) : (State.copyPage s m).allocs = s.allocs := by
  unfold State.copyPage
  rw [State.pageWritten_allocs, foldl_allocs]
  intro t o; split <;> simp

@[simp] theorem State.doMoves_allocs (s : State) (mv : List Move) (fresh : List Page) : (State.doMoves s mv fresh).allocs = s.allocs := by
  simp [State.doMoves]

@[simp] theorem State.syncSeq_allocs (s : State) (i : Nat) (q : Sequence) : (State.syncSeq s i q).allocs = s.allocs := by
  simp [State.syncSeq]

@[simp] theorem State.syncSeqs_allocs (s : State) : (State.syncSeqs s).allocs = s.allocs := by
  simp [State.syncSeqs]

theorem State.reserve_allocs {s s' : State} {r seq n : Nat} {own : Option Nat} (h : s.reserve r seq n own = some s') : s'.allocs = s.allocs := by
  simp only [State.reserve] at h
  split at h
  · cases h
  · cases h; simp

@[simp] theorem State.fitBlocks_allocs (s : State) (i : Nat) : (State.fitBlocks s i).allocs = s.allocs := by
  unfold State.fitBlocks; split <;> simp

@[simp] theorem State.unreserve_allocs (s : State) (r : Nat) : (State.unreserve s r).allocs = s.allocs := by
  unfold State.unreserve; split <;> simp

@[simp] theorem State.freeSeqPages_allocs (s : State) (i keep : Nat) : (State.freeSeqPages s i keep).allocs = s.allocs := by
  unfold State.freeSeqPages; split <;> simp

@[simp] theorem State.releaseSeq_allocs (s : State) (i : Nat) : (State.releaseSeq s i).allocs = s.allocs := by
  simp [State.releaseSeq]

@[simp] theorem State.takeTokens_allocs (s : State) (c : Cmd) (take : Bool) : (State.takeTokens s c take).allocs = s.allocs := by
  rfl

@[simp] theorem State.loosen_allocs (s : State) (i : Nat) : (State.loosen s i).allocs = s.allocs := by
  simp only [State.loosen]; repeat' split
  all_goals try simp
  all_goals (apply foldl_allocs; intro t x; try dsimp only)
  all_goals repeat' split
  all_goals first | (simp; done) | (apply foldl_allocs; intro t x; (try dsimp only); (repeat' split) <;> simp)

@[simp] theorem State.snowEnd_allocs (s : State) (r : Nat) (ok : Bool) : (State.snowEnd s r ok).allocs = s.allocs := by
  simp only [State.snowEnd]; repeat' split
  all_goals simp

theorem foldPass_allocs {β : Type} (f : Pass → β → Pass) (l : List β) (p : Pass) (h : ∀ q a, (f q a).s.allocs = q.s.allocs) :
    (l.foldl f p).s.allocs = p.s.allocs := by induction l generalizing p with | nil => rfl | cons a l ih => simp [ih, h]

@[simp] theorem Pass.grow_allocs (p : Pass) (e : Nat × Cmd) : (p.grow e).s.allocs = p.s.allocs := by
  simp only [Pass.grow]; repeat' split
  · rfl
  · simp
  · rw [foldPass_allocs]; intro q i; (try dsimp only); split
    · rfl
    · split
      · rename_i h; exact State.reserve_allocs h
      · rfl

@[simp] theorem foldGrow_allocs (l : List (Nat × Cmd)) (p : Pass) : (l.foldl Pass.grow p).s.allocs = p.s.allocs := foldPass_allocs _ _ _ Pass.grow_allocs

@[simp] theorem State.startStep_allocs (s : State) (r : Nat) (c : Cmd) : (State.startStep s r c).allocs = s.allocs := by
  rfl

@[simp] theorem State.createSeq_allocs (s : State) (r : Nat) (c : Cmd) : (State.createSeq s r c).allocs = s.allocs := by
  simp only [State.createSeq]; repeat' split
  all_goals simp

theorem Pass.join_allocs (p : Pass) (e : Nat × Cmd) : (p.join e).s.allocs = p.s.allocs := by
  have h1 : ∀ (l : List Nat) (p : Pass), (l.foldl (fun (q : Pass) i =>
      if q.cut.isSome then q
      else match q.s.reserve e.1 i (q.s.lacks e.1 e.2 i) none with
        | some s1 => { q with s := s1 }
        | none => { q with cut := some e.1 }) p).s.allocs = p.s.allocs := by
    intro l p
    apply foldPass_allocs
    intro q i
    split
    · rfl
    · split
      · rename_i h; exact State.reserve_allocs h
      · rfl
  unfold Pass.join
  dsimp only
  repeat' split
  all_goals first | rfl | exact h1 _ _ | (simp; done) | (simp; exact h1 _ _)

@[simp] theorem joinPhase_allocs (l : List (Nat × Cmd)) (p : Pass) : (joinPhase l p).s.allocs = p.s.allocs := by
  induction l generalizing p with
  | nil => rfl
  | cons e t ih => simp only [joinPhase]; repeat' split
                   all_goals simp [ih, Pass.join_allocs]

@[simp] theorem Pass.over_allocs (p : Pass) (l : List (Nat × Cmd)) : (p.over l).s.allocs = p.s.allocs := by
  unfold Pass.over; simp

@[simp] theorem State.applyLeaves_allocs (s : State) : (State.applyLeaves s).allocs = s.allocs := by
  simp only [State.applyLeaves]; repeat' split
  all_goals try simp
  all_goals (apply foldl_allocs; intro t x; try dsimp only)
  all_goals repeat' split
  all_goals first | (simp; done) | (apply foldl_allocs; intro t x; (try dsimp only); (repeat' split) <;> simp)

@[simp] theorem State.passOver_allocs (s : State) (l : List (Nat × Cmd)) (cut : Option Nat) : (s.passOver l cut).s.allocs = s.allocs := by
  have h : ∀ m : List (Nat × Cmd), (({ s := s } : Pass).over m).s.allocs = s.allocs := fun m => Pass.over_allocs _ _
  unfold State.passOver
  dsimp only
  split
  · exact h _
  · split
    · exact h _
    · exact (Pass.over_allocs _ _).trans (h _)

@[simp] theorem State.pass_allocs (s : State) : s.pass.allocs = s.allocs := by
  have h : ∀ (l : List (Nat × Cmd)) (t : State), (l.foldl (fun (t : State) (e : Nat × Cmd) => t.unreserve e.1) t).allocs = t.allocs :=
    fun l t => foldl_allocs _ _ _ (by simp)
  unfold State.pass
  rw [State.syncSeqs_allocs]
  dsimp only
  split <;> simp [h]

@[simp] theorem writeAdapter_allocs (a : Alloc) (q : MemReq) (l : List Placed) (b : Blob) (s : State) : (writeAdapter a q l b s).allocs = s.allocs := by
  induction l generalizing b s with
  | nil => rfl
  | cons p t ih => simp only [writeAdapter]; rw [ih]; simp

@[simp] theorem State.zeroTraining_allocs (s : State) (a : Alloc) (q : MemReq) (lay : List Placed × Nat × Nat) (saveBytes : Nat) (grads : Bool) : (State.zeroTraining s a q lay saveBytes grads).allocs = s.allocs := by
  simp [State.zeroTraining]

@[simp] theorem State.zeroGradients_allocs (s : State) (r : Nat) (c : Cmd) : (State.zeroGradients s r c).allocs = s.allocs := by
  simp only [State.zeroGradients]; repeat' split
  all_goals try simp
  all_goals (apply foldl_allocs; intro t x; try dsimp only)
  all_goals repeat' split
  all_goals first | (simp; done) | (apply foldl_allocs; intro t x; (try dsimp only); (repeat' split) <;> simp)

@[simp] theorem State.readSlice_allocs (s : State) (e r : Nat) (c : Cmd) (x : Slice) : (s.readSlice e r c x).allocs = s.allocs := by
  unfold State.readSlice
  repeat' split
  all_goals first | rfl | exact foldl_allocs _ _ _ (by simp)

@[simp] theorem State.fetchSlice_allocs (s : State) (e r : Nat) (c : Cmd) (x : Slice) : (State.fetchSlice s e r c x).allocs = s.allocs := by
  simp only [State.fetchSlice]; repeat' split
  all_goals simp

@[simp] theorem State.needSlice_allocs (s : State) (e r : Nat) (c : Cmd) (x : Slice) : (State.needSlice s e r c x).allocs = s.allocs := by
  simp only [State.needSlice]; repeat' split
  all_goals simp

@[simp] theorem State.segmentSlices_allocs (s : State) (e r : Nat) (c : Cmd) (xs : List Slice) : (State.segmentSlices s e r c xs).allocs = s.allocs := by
  simp [State.segmentSlices]

@[simp] theorem State.assign_allocs (s : State) (t : Tap) (c : Cmd) : (State.assign s t c).allocs = s.allocs := by
  simp only [State.assign]; repeat' split
  all_goals simp

@[simp] theorem State.queueTap_allocs (s : State) (t : Tap) (c : Cmd) : (State.queueTap s t c).allocs = s.allocs := by
  simp [State.queueTap]

@[simp] theorem State.refetch_allocs (s : State) (t : Tap) (c : Cmd) : (State.refetch s t c).allocs = s.allocs := by
  simp [State.refetch]

@[simp] theorem State.siltClear_allocs (s : State) (n : Nat) : (State.siltClear s n).allocs = s.allocs := by
  simp only [State.siltClear]; repeat' split
  all_goals try simp
  all_goals (apply foldl_allocs; intro t x; try dsimp only)
  all_goals repeat' split
  all_goals first | (simp; done) | (apply foldl_allocs; intro t x; (try dsimp only); (repeat' split) <;> simp)

@[simp] theorem State.answerNull_allocs (s : State) (t : Tap) : (State.answerNull s t).allocs = s.allocs := by
  unfold State.answerNull; split <;> simp

@[simp] theorem State.addArray_allocs (s : State) (a : Alloc) (q : MemReq) (off first : Nat) (vals : List Nat) : (State.addArray s a q off first vals).allocs = s.allocs := by
  unfold State.addArray; split <;> simp

@[simp] theorem State.saveRows_allocs (s : State) (t : Tap) (c : Cmd) (rows : List Nat) (id k : Nat) (v : Variant) (a : Alloc) : (State.saveRows s t c rows id k v a).allocs = s.allocs := by
  simp [State.saveRows]

@[simp] theorem State.savedRows_allocs (s : State) (t : Tap) (c : Cmd) (rows : List Nat) (id k : Nat) (v : Variant) (a : Alloc) :
    (s.savedRows t c rows id k v a).2.allocs = s.allocs := by
  have go : ∀ (l : List Nat) (y : List (List Fp) × State), (l.foldl (fun y i =>
      let x := y.2.allocGet a { a.req y.2.nodeId t.cmd c with epoch := some t.epoch } (v.savePlace c id k (t.first + i) + actBytes t.fmt t.ansFirst)
        (actBytes t.fmt t.ansCount)
      (y.1 ++ [readActs t.fmt t.ansCount x.1], x.2)) y).2.allocs = y.2.allocs := by
    intro l
    induction l with
    | nil => intro y; rfl
    | cons i l ih => intro y; simp [ih]
  exact go _ _

@[simp] theorem State.accumulateFor_allocs (s : State) (t : Tap) (c : Cmd) (x : Arith) (id : Nat) : (s.accumulateFor t c x id).allocs = s.allocs := by
  have h3 : ∀ (l : List Comp) (u : State) (g : State → Comp → State) (_ : ∀ u c, (g u c).allocs = u.allocs), (l.foldl g u).allocs = u.allocs :=
    fun l u g h => foldl_allocs g l u h
  unfold State.accumulateFor
  repeat' split
  all_goals first
    | rfl
    | (dsimp only
       simp only [State.saveRows_allocs]
       rw [foldl_allocs]
       · simp
       · intro u z; split <;> simp)
    | (dsimp only
       rw [foldl_allocs]
       · simp
       · intro u z; split <;> simp)
    | (dsimp only
       rw [foldl_allocs]
       intro u z; split <;> simp)
    | (dsimp only
       simp only [State.saveRows_allocs]
       rw [foldl_allocs]
       intro u z; split <;> simp)

@[simp] theorem State.accumulateTap_allocs (s : State) (t : Tap) (c : Cmd) : (State.accumulateTap s t c).allocs = s.allocs := by
  unfold State.accumulateTap; split <;> simp

@[simp] theorem State.updateComp_allocs (s : State) (q : MemReq) (v : Variant) (a : Alloc) (o : Opt) (stoch : Bool) (t base k : Nat) (cmp : Comp) : (State.updateComp s q v a o stoch t base k cmp).allocs = s.allocs := by
  unfold State.updateComp; split <;> simp

@[simp] theorem State.gradBad_allocs (s : State) (q : MemReq) (v : Variant) (a : Alloc) : (s.gradBad q v a).2.allocs = s.allocs := by
  have h : ∀ (l : List Placed) (x : Bool × State), (l.foldl (fun (x : Bool × State) p =>
      let b := x.2.allocGet a q p.off (roundUp 512 (4 * p.elems))
      (x.1 || (List.range p.elems).any fun i => f32Bad (fld b.1 (4 * i) 4), b.2)) x).2.allocs = x.2.allocs := by
    intro l
    induction l with
    | nil => intro x; rfl
    | cons p l ih => intro x; rw [List.foldl_cons, ih]; simp
  exact h _ _

@[simp] theorem State.updateVariant_allocs (s : State) (r : Nat) (c : Cmd) (o : Opt) (stoch : Bool) (id : Nat) :
    (s.updateVariant r c o stoch id).allocs = s.allocs := by
  have h : ∀ (g : Nat) (q : MemReq) (v : Variant) (a : Alloc) (t : Nat) (l : List (VarEntry × Nat)) (u : State),
      (l.foldl (fun u e => e.1.trained.foldl (fun w cmp => w.updateComp q v a o stoch t g e.2 cmp) u) u).allocs = u.allocs := by
    intro g q v a t l u
    rw [foldl_allocs]; intro u e; rw [foldl_allocs]; intro u e; simp
  simp only [State.updateVariant]
  repeat' split
  all_goals first | rfl | (simp; done) | exact h _ _ _ _ _ _ _

@[simp] theorem State.tear_allocs (s : State) (c : Cmd) : (State.tear s c).allocs = s.allocs := by
  rfl

@[simp] theorem State.withdrawFns_allocs (s : State) (r : Nat) : (State.withdrawFns s r).allocs = s.allocs := by
  rfl

@[simp] theorem State.withdrawUnits_allocs (s : State) (r : Nat) : (State.withdrawUnits s r).allocs = s.allocs := by
  rfl

@[simp] theorem State.freeIdx_allocs (s : State) (l : List Nat) : (State.freeIdx s l).allocs = s.allocs := by
  rfl

@[simp] theorem State.absentImage_allocs (s : State) (i : Nat) : (State.absentImage s i).allocs = s.allocs := by
  simp only [State.absentImage]; repeat' split
  all_goals simp

@[simp] theorem State.dropLoadVersion_allocs (s : State) (l : Load) : (State.dropLoadVersion s l).allocs = s.allocs := by
  simp only [State.dropLoadVersion]; repeat' split
  all_goals simp

@[simp] theorem State.undrain_allocs (s : State) (i : Nat) : (State.undrain s i).allocs = s.allocs := by
  unfold State.undrain; split <;> simp

@[simp] theorem State.withdrawLoad_allocs (s : State) (r : Nat) : (State.withdrawLoad s r).allocs = s.allocs := by
  simp only [State.withdrawLoad]; repeat' split
  all_goals simp

@[simp] theorem State.withdraw_allocs (s : State) (r : Nat) : (State.withdraw s r).allocs = s.allocs := by
  simp [State.withdraw]

@[simp] theorem State.pruneGraphs_allocs (s : State) : (State.pruneGraphs s).allocs = s.allocs := by
  rfl

@[simp] theorem State.pruneImages_allocs (s : State) : (State.pruneImages s).allocs = s.allocs := by
  simp only [State.pruneImages]; repeat' split
  all_goals simp

@[simp] theorem State.prune_allocs (s : State) : (State.prune s).allocs = s.allocs := by
  simp [State.prune]

@[simp] theorem State.releaseSaves_allocs (s : State) (r c : Nat) (ok : Bool) : (State.releaseSaves s r c ok).allocs = s.allocs := by
  simp only [State.releaseSaves]; repeat' split
  all_goals simp

@[simp] theorem State.finish_allocs (s : State) (r : Nat) (st : Status) : (State.finish s r st).allocs = s.allocs := by
  simp only [State.finish]; repeat' split
  all_goals simp

@[simp] theorem State.discard_allocs (s : State) (r : Nat) : (State.discard s r).allocs = s.allocs := by
  unfold State.discard; split <;> simp

@[simp] theorem State.drainIfIdle_allocs (s : State) (r : Nat) : (State.drainIfIdle s r).allocs = s.allocs := by
  simp only [State.drainIfIdle]; repeat' split
  all_goals simp

@[simp] theorem State.fail_allocs (s : State) (r : Nat) (st : Status) : (State.fail s r st).allocs = s.allocs := by
  simp [State.fail]

@[simp] theorem State.failList_allocs (s : State) (l : List Nat) (st : Status) : (State.failList s l st).allocs = s.allocs := by
  simp [State.failList]

@[simp] theorem State.kill_allocs (s : State) (r : Nat) (st : Status) : (State.kill s r st).allocs = s.allocs := by
  simp only [State.kill]; repeat' split
  all_goals simp

@[simp] theorem State.drivePhys_allocs (s : State) (k : Nat) (release : Bool) : (State.drivePhys s k release).allocs = s.allocs := by
  rfl

@[simp] theorem State.driveBypass_allocs (s : State) (k : Nat) (high : Bool) : (State.driveBypass s k high).allocs = s.allocs := by
  rfl

@[simp] theorem State.linkDown_allocs (s : State) (n reason : Nat) : (State.linkDown s n reason).allocs = s.allocs := by
  simp [State.linkDown]

@[simp] theorem State.cutPassing_allocs (s : State) (n : Nat) : (State.cutPassing s n).allocs = s.allocs := by
  rfl

@[simp] theorem State.dropLink_allocs (s : State) (n reason : Nat) (joining : Bool) : (State.dropLink s n reason joining).allocs = s.allocs := by
  simp only [State.dropLink]; repeat' split
  all_goals simp

@[simp] theorem State.releaseRing_allocs (s : State) (k reason : Nat) (failed : Bool) : (State.releaseRing s k reason failed).allocs = s.allocs := by
  simp [State.releaseRing]

@[simp] theorem State.beginJoin_allocs (s : State) (k : Nat) : (State.beginJoin s k).allocs = s.allocs := by
  rfl

@[simp] theorem State.runReleases_allocs (f : Nat) (s : State) : (State.runReleases f s).allocs = s.allocs := by
  induction f generalizing s with
  | zero => rfl
  | succ f ih => simp only [State.runReleases]; split <;> simp [ih]

@[simp] theorem State.ringCtl_allocs (s : State) (k : Nat) (join : Bool) : (State.ringCtl s k join).allocs = s.allocs := by
  simp [State.ringCtl]

@[simp] theorem State.wantJoin_allocs (s : State) (k : Nat) : (State.wantJoin s k).allocs = s.allocs := by
  unfold State.wantJoin; split <;> simp

@[simp] theorem State.sendFrame_allocs (s : State) (n typ stream seq first : Nat) (payload : Blob) : (State.sendFrame s n typ stream seq first payload).allocs = s.allocs := by
  rfl

@[simp] theorem State.creditPassed_allocs (s : State) (before : List TxItem) (after : List TxItem) : (State.creditPassed s before after).allocs = s.allocs := by
  simp only [State.creditPassed]; repeat' split
  all_goals try simp
  all_goals (apply foldl_allocs; intro t x; try dsimp only)
  all_goals repeat' split
  all_goals first | (simp; done) | (apply foldl_allocs; intro t x; (try dsimp only); (repeat' split) <;> simp)

@[simp] theorem State.sendData_allocs (s : State) (n stream : Nat) : (State.sendData s n stream).allocs = s.allocs := by
  simp [State.sendData]

@[simp] theorem State.pumpFrames_allocs (n f : Nat) (s : State) : (State.pumpFrames n f s).allocs = s.allocs := by
  induction f generalizing s with
  | zero => rfl
  | succ f ih => simp only [State.pumpFrames]; split <;> simp [ih]

@[simp] theorem State.pump_allocs (s : State) (n : Nat) : (State.pump s n).allocs = s.allocs := by
  unfold State.pump; split <;> simp

@[simp] theorem State.toLink_allocs (s : State) (n vc : Nat) (m : FloeMsg) : (State.toLink s n vc m).allocs = s.allocs := by
  simp [State.toLink]

@[simp] theorem State.startCensus_allocs (s : State) (k : Nat) : (State.startCensus s k).allocs = s.allocs := by
  simp [State.startCensus]

@[simp] theorem State.linkMoved_allocs (s : State) (k : Nat) : (State.linkMoved s k).allocs = s.allocs := by
  simp only [State.linkMoved]; repeat' split
  all_goals simp

@[simp] theorem State.loseLink_allocs (s : State) (n reason : Nat) : (State.loseLink s n reason).allocs = s.allocs := by
  unfold State.loseLink; split <;> simp

@[simp] theorem State.trainLink_allocs (s : State) (n : Nat) : (State.trainLink s n).allocs = s.allocs := by
  unfold State.trainLink; split <;> simp

@[simp] theorem State.retrain_allocs (s : State) (n reason : Nat) (counted : Bool) : (State.retrain s n reason counted).allocs = s.allocs := by
  simp only [State.retrain]; repeat' split
  all_goals simp

@[simp] theorem State.resend_allocs (s : State) (n : Nat) : (State.resend s n).allocs = s.allocs := by
  simp only [State.resend]; repeat' split
  all_goals simp

@[simp] theorem State.sendOn_allocs (s : State) (r : Nat × Bool) (m : FloeMsg) : (State.sendOn s r m).allocs = s.allocs := by
  simp [State.sendOn]

@[simp] theorem State.floeDiscard_allocs (s : State) : (State.floeDiscard s).allocs = s.allocs := by
  rfl

@[simp] theorem State.forward_allocs (s : State) (link : Nat) (m : FloeMsg) : (State.forward s link m).allocs = s.allocs := by
  simp only [State.forward]; repeat' split
  all_goals simp

@[simp] theorem State.floeProtocol_allocs (s : State) (n : Nat) : (State.floeProtocol s n).allocs = s.allocs := by
  rfl

@[simp] theorem State.answerMsg_allocs (s : State) (m : FloeMsg) (typ status : Nat) (body : Blob) : (State.answerMsg s m typ status body).allocs = s.allocs := by
  unfold State.answerMsg; split <;> simp

@[simp] theorem State.endWork_allocs (s : State) (q : MemReq) (st : Status) : (State.endWork s q st).allocs = s.allocs := by
  simp only [State.endWork]; repeat' split
  all_goals simp

@[simp] theorem State.unreachable_allocs (s : State) (tag : Nat) (q : MemReq) : (State.unreachable s tag q).allocs = s.allocs := by
  simp [State.unreachable]

@[simp] theorem State.setRemote_allocs (s : State) (tag : Nat) (x : Remote) : (State.setRemote s tag x).allocs = s.allocs := by
  rfl

@[simp] theorem State.sendRemote_allocs (s : State) (tag : Nat) (x : Remote) : (State.sendRemote s tag x).allocs = s.allocs := by
  simp [State.sendRemote]

@[simp] theorem State.staleRemote_allocs (s : State) (q : MemReq) : (State.staleRemote s q).allocs = s.allocs := by
  unfold State.staleRemote; split <;> simp

@[simp] theorem State.remoteIssue_allocs (s : State) (q : MemReq) : (State.remoteIssue s q).allocs = s.allocs := by
  simp only [State.remoteIssue]; repeat' split
  all_goals simp

@[simp] theorem State.releaseHeld_allocs (s : State) : (State.releaseHeld s).allocs = s.allocs := by
  simp only [State.releaseHeld]; repeat' split
  all_goals try simp
  all_goals (apply foldl_allocs; intro t x; try dsimp only)
  all_goals repeat' split
  all_goals first | (simp; done) | (apply foldl_allocs; intro t x; (try dsimp only); (repeat' split) <;> simp)

@[simp] theorem State.adoptCensus_allocs (s : State) (k : Nat) (nodes : List Nat) : (State.adoptCensus s k nodes).allocs = s.allocs := by
  simp [State.adoptCensus]

@[simp] theorem State.linkUp_allocs (s : State) (n farNode farLink : Nat) : (State.linkUp s n farNode farLink).allocs = s.allocs := by
  simp only [State.linkUp]; repeat' split
  all_goals simp

@[simp] theorem State.countFor_allocs (s : State) (u x : Nat) (f : Cmd → Cmd) : (State.countFor s u x f).allocs = s.allocs := by
  rfl

@[simp] theorem State.sendPreempt_allocs (s : State) (u x mode : Nat) : (State.sendPreempt s u x mode).allocs = s.allocs := by
  unfold State.sendPreempt; split <;> simp

@[simp] theorem State.stopStreams_allocs (s : State) (u x : Nat) : (State.stopStreams s u x).allocs = s.allocs := by
  rfl

@[simp] theorem State.startStream_allocs (s : State) (u r : Nat) (c : Cmd) (pass layer : Nat) (again : Bool) : (State.startStream s u r c pass layer again).allocs = s.allocs := by
  simp only [State.startStream]; repeat' split
  all_goals simp

@[simp] theorem State.marginLog_allocs (s : State) (m : MarginEnt) : (State.marginLog s m).allocs = s.allocs := by
  simp only [State.marginLog]; repeat' split
  all_goals simp

@[simp] theorem State.layerDone_allocs (s : State) (u : Nat) (w : Stream) (layer : Nat) : (State.layerDone s u w layer).allocs = s.allocs := by
  unfold State.layerDone; split <;> simp

@[simp] theorem State.modSave_allocs (s : State) (x u : Nat) (f : SaveArea → SaveArea) : (State.modSave s x u f).allocs = s.allocs := by
  rfl

@[simp] theorem State.nowHolds_allocs (s : State) (u x : Nat) : (State.nowHolds s u x).allocs = s.allocs := by
  rfl

@[simp] theorem State.resume_allocs (s : State) (u x mode pass layer : Nat) : (State.resume s u x mode pass layer).allocs = s.allocs := by
  simp only [State.resume]; repeat' split
  all_goals simp

@[simp] theorem State.bringIn_allocs (s : State) (u x : Nat) : (State.bringIn s u x).allocs = s.allocs := by
  simp only [State.bringIn]; repeat' split
  all_goals simp

@[simp] theorem State.switchOut_allocs (s : State) (u x : Nat) : (State.switchOut s u x).allocs = s.allocs := by
  simp only [State.switchOut]; repeat' split
  all_goals simp

@[simp] theorem State.switchOn_allocs (s : State) (u : Nat) : (State.switchOn s u).allocs = s.allocs := by
  simp only [State.switchOn]; repeat' split
  all_goals simp

@[simp] theorem State.grantTurn_allocs (s : State) (u : Nat) (p : Pick) : (State.grantTurn s u p).allocs = s.allocs := by
  unfold State.grantTurn; split <;> simp

@[simp] theorem State.endTurn_allocs (s : State) (u : Nat) : (State.endTurn s u).allocs = s.allocs := by
  rfl

@[simp] theorem State.cutTurn_allocs (s : State) (u : Nat) : (State.cutTurn s u).allocs = s.allocs := by
  simp only [State.cutTurn]; repeat' split
  all_goals simp

@[simp] theorem State.noteRealtime_allocs (s : State) (u : Nat) : (State.noteRealtime s u).allocs = s.allocs := by
  rfl

@[simp] theorem State.settleUnit_allocs (s : State) (u : Nat) : (State.settleUnit s u).allocs = s.allocs := by
  simp only [State.settleUnit]; repeat' split
  all_goals simp

@[simp] theorem State.settle_allocs (s : State) : (State.settle s).allocs = s.allocs := by
  simp [State.settle]

@[simp] theorem State.writeSlotStates_allocs (s : State) (x : Nat) : (State.writeSlotStates s x).allocs = s.allocs := by
  unfold State.writeSlotStates; split <;> simp

@[simp] theorem State.swapInCtx_allocs (s : State) (x : Nat) : (State.swapInCtx s x).allocs = s.allocs := by
  simp [State.swapInCtx]

@[simp] theorem State.freeSlots_allocs (s : State) (x : Nat) : (State.freeSlots s x).allocs = s.allocs := by
  rfl

@[simp] theorem State.evictCtx_allocs (s : State) (x : Nat) : (State.evictCtx s x).allocs = s.allocs := by
  simp [State.evictCtx]

@[simp] theorem State.unverifiable_allocs (s : State) (level pos : Nat) (owner : Option Nat) : (State.unverifiable s level pos owner).allocs = s.allocs := by
  simp only [State.unverifiable]; repeat' split
  all_goals simp

@[simp] theorem State.runAdmin_allocs (s : State) (r opc : Nat) (f : State → Cmd → State) (hf : ∀ t x0, (f t x0).allocs = t.allocs) : (State.runAdmin s r opc f).allocs = s.allocs := by
  simp only [State.runAdmin]; repeat' split
  all_goals simp [hf]

@[simp] theorem State.withData_allocs (s : State) (r : Nat) (c : Cmd) (io : HostIo) (n : Nat) (f : State → Blob → State) (hf : ∀ t x0, (f t x0).allocs = t.allocs) : (State.withData s r c io n f).allocs = s.allocs := by
  simp only [State.withData]; repeat' split
  all_goals simp [hf]

@[simp] theorem State.answer_allocs (s : State) (r : Nat) (c : Cmd) (io : HostIo) (b : Blob) (eff : State → State) (heff : ∀ t , (eff t ).allocs = t.allocs) : (State.answer s r c io b eff).allocs = s.allocs := by
  unfold State.answer; split <;> simp [heff]

@[simp] theorem State.failWith_allocs (s : State) (r : Nat) (c : Cmd) (io : HostIo) (b : Blob) (st : Status) : (State.failWith s r c io b st).allocs = s.allocs := by
  simp [State.failWith]

@[simp] theorem State.adoptLink_allocs (s : State) (n : Nat) (data : Blob) : (State.adoptLink s n data).allocs = s.allocs := by
  simp only [State.adoptLink]; repeat' split
  all_goals simp

@[simp] theorem State.adoptEffect_allocs (s : State) (e : Nat) (i : CfgItem) : (State.adoptEffect s e i).allocs = s.allocs := by
  simp only [State.adoptEffect]; repeat' split
  all_goals simp

@[simp] theorem State.completeEffect_allocs (s : State) (x : Staged) : (State.completeEffect s x).allocs = s.allocs := by
  unfold State.completeEffect; split <;> simp

@[simp] theorem State.answerStaged_allocs (s : State) (x : Staged) : (State.answerStaged s x).allocs = s.allocs := by
  unfold State.answerStaged; split <;> simp

@[simp] theorem State.completeEpochs_allocs (f : Nat) (s : State) : (State.completeEpochs f s).allocs = s.allocs := by
  induction f generalizing s with
  | zero => rfl
  | succ f ih => simp only [State.completeEpochs]; repeat' split
                 all_goals simp [ih]

@[simp] theorem State.completeDue_allocs (s : State) : (State.completeDue s).allocs = s.allocs := by
  simp [State.completeDue]

@[simp] theorem State.adoptOne_allocs (s : State) (e : Nat) (force : Bool) : (State.adoptOne s e force).allocs = s.allocs := by
  simp only [State.adoptOne]; repeat' split
  all_goals simp

@[simp] theorem State.adoptAll_allocs (s : State) (e : Nat) : (State.adoptAll s e).allocs = s.allocs := by
  simp [State.adoptAll]

@[simp] theorem State.stage_allocs (s : State) (i : CfgItem) (cmd : Option Nat) : (State.stage s i cmd).allocs = s.allocs := by
  simp [State.stage]

@[simp] theorem State.openRecord_allocs (s : State) (r : RstRec) : (s.openRecord r).2.allocs = s.allocs := by
  simp only [State.openRecord]; split <;> simp

@[simp] theorem State.closeRecord_allocs (s : State) (slot outcome : Nat) (fenced : Bool) : (State.closeRecord s slot outcome fenced).allocs = s.allocs := by
  simp only [State.closeRecord]; repeat' split
  all_goals simp

@[simp] theorem State.killCtx_allocs (s : State) (x : Nat) (st : Status) : (State.killCtx s x st).allocs = s.allocs := by
  simp only [State.killCtx]; repeat' split
  all_goals try simp
  all_goals (apply foldl_allocs; intro t x; try dsimp only)
  all_goals repeat' split
  all_goals first | (simp; done) | (apply foldl_allocs; intro t x; (try dsimp only); (repeat' split) <;> simp)

@[simp] theorem State.oosCmd_allocs (s : State) (tarn : Bool) (r : Nat) : (State.oosCmd s tarn r).allocs = s.allocs := by
  simp only [State.oosCmd]; repeat' split
  all_goals simp

@[simp] theorem State.holdDomain_allocs (s : State) : (State.holdDomain s).allocs = s.allocs := by
  rfl

@[simp] theorem State.closeIfOpen_allocs (s : State) (slot outcome : Nat) : (State.closeIfOpen s slot outcome).allocs = s.allocs := by
  unfold State.closeIfOpen; split <;> simp

@[simp] theorem State.outOfService_allocs (s : State) (cause engine : Nat) : (State.outOfService s cause engine).allocs = s.allocs := by
  have h : ∀ (l : List (Nat × Cmd)) (t : State), (l.foldl (fun t e => if e.2.updating then t.tear e.2 else t) t).allocs = t.allocs :=
    fun l t => foldl_allocs _ _ _ (by intro t e; split <;> simp)
  have h2 : ∀ (l : List Nat) (t : State), (l.foldl (fun t n => t.closeIfOpen n 3) t).allocs = t.allocs := fun l t => foldl_allocs _ _ _ (by simp)
  have h3 : ∀ (l : List Nat) (b : Bool) (t : State), (l.foldl (State.oosCmd · b ·) t).allocs = t.allocs := fun l b t => foldl_allocs _ _ _ (by simp)
  simp only [State.outOfService]
  repeat' split
  all_goals simp [h, h2, h3]

@[simp] theorem State.nullTaps_allocs (s : State) (x : Nat) : (State.nullTaps s x).allocs = s.allocs := by
  simp [State.nullTaps]

@[simp] theorem State.abandon_allocs (s : State) (x u : Nat) : (State.abandon s x u).allocs = s.allocs := by
  rfl

@[simp] theorem State.ctxResetDone_allocs (s : State) (x : Nat) : (State.ctxResetDone s x).allocs = s.allocs := by
  simp only [State.ctxResetDone]; repeat' split
  all_goals simp

@[simp] theorem State.ctxResetSettle_allocs (s : State) (x : Nat) : (State.ctxResetSettle s x).allocs = s.allocs := by
  simp only [State.ctxResetSettle]; repeat' split
  all_goals simp

@[simp] theorem State.ctxResetAnswered_allocs (s : State) (x u : Nat) : (State.ctxResetAnswered s x u).allocs = s.allocs := by
  simp only [State.ctxResetAnswered]; repeat' split
  all_goals simp

@[simp] theorem State.freeDescs_allocs (s : State) (x : Nat) : (State.freeDescs s x).allocs = s.allocs := by
  rfl

@[simp] theorem State.contextReset_allocs (s : State) (x cause detail : Nat) (victim : Option (Nat × Status)) (cmd : Option Nat) : (State.contextReset s x cause detail victim cmd).allocs = s.allocs := by
  simp only [State.contextReset]; repeat' split
  all_goals simp

@[simp] theorem State.rewind_allocs (s : State) (x p : Nat) : (State.rewind s x p).allocs = s.allocs := by
  unfold State.rewind; split <;> simp

@[simp] theorem State.blame_allocs (s : State) (slot x : Nat) : (State.blame s slot x).allocs = s.allocs := by
  simp [State.blame]

@[simp] theorem State.sendBack_allocs (s : State) (slot x : Nat) : (State.sendBack s slot x).allocs = s.allocs := by
  simp [State.sendBack]

@[simp] theorem State.recoverCtx_allocs (s : State) (slot : Nat) (guilty : List Nat) (x : Nat) (ps : List Nat) : (State.recoverCtx s slot guilty x ps).allocs = s.allocs := by
  simp only [State.recoverCtx]; repeat' split
  all_goals simp

@[simp] theorem State.countLost_allocs (s : State) (slot n : Nat) : (State.countLost s slot n).allocs = s.allocs := by
  rfl

@[simp] theorem State.recover_allocs (s : State) (slot : Nat) (guilty : List Nat) (lost : List (Nat × Nat)) : (State.recover s slot guilty lost).allocs = s.allocs := by
  simp [State.recover]

@[simp] theorem State.seracDown_allocs (s : State) (p : Nat) (hold : Bool) : (State.seracDown s p hold).allocs = s.allocs := by
  rfl

@[simp] theorem State.preemptOccupant_allocs (s : State) (all : Bool) (u : Nat) : (State.preemptOccupant s all u).allocs = s.allocs := by
  simp only [State.preemptOccupant]; repeat' split
  all_goals simp

@[simp] theorem State.siltCut_allocs (s : State) (n slot : Nat) (guilty : Option Nat) : (State.siltCut s n slot guilty).allocs = s.allocs := by
  simp only [State.siltCut]; repeat' split
  all_goals try simp
  all_goals (apply foldl_allocs; intro t x; try dsimp only)
  all_goals repeat' split
  all_goals first | (simp; done) | (apply foldl_allocs; intro t x; (try dsimp only); (repeat' split) <;> simp)

@[simp] theorem State.rewriteBurst_allocs (s : State) (q : Queue) : (State.rewriteBurst s q).allocs = s.allocs := by
  unfold State.rewriteBurst; split <;> simp

@[simp] theorem State.placeWalk_allocs (s : State) (w : Walk) : (State.placeWalk s w).allocs = s.allocs := by
  unfold State.placeWalk; split <;> simp

@[simp] theorem State.nextWalk_allocs (s : State) : (State.nextWalk s).allocs = s.allocs := by
  unfold State.nextWalk; split <;> simp

@[simp] theorem State.handWalk_allocs (s : State) (n : Nat) : (State.handWalk s n).allocs = s.allocs := by
  unfold State.handWalk; split <;> simp

@[simp] theorem State.againWalk_allocs (s : State) (p : Nat → Bool) : (State.againWalk s p).allocs = s.allocs := by
  rfl

@[simp] theorem State.engineBegin_allocs (s : State) (e : Nat) : (State.engineBegin s e).allocs = s.allocs := by
  unfold State.engineBegin
  dsimp only
  by_cases h : e / 256 = 1
  · rw [if_pos h]; simp
  rw [if_neg h]; clear h
  by_cases h : e / 256 = 2
  · rw [if_pos h, State.siltClear_allocs]; split <;> simp
  rw [if_neg h]; clear h
  by_cases h : e / 256 = 3
  · rw [if_pos h]; exact foldl_allocs _ _ _ (by simp)
  rw [if_neg h]; clear h
  by_cases h : e / 256 = 5
  · rw [if_pos h]; split <;> simp
  rw [if_neg h]; clear h
  by_cases h : e / 256 = 6
  · rw [if_pos h]; simp
  rw [if_neg h]; clear h
  by_cases h : e / 256 = 7
  · rw [if_pos h]
  rw [if_neg h]; clear h
  by_cases h : e / 256 = 8
  · rw [if_pos h]; simp
  rw [if_neg h]; clear h
  by_cases h : e / 256 = 9
  · rw [if_pos h]; dsimp only; rw [State.freeIdx_allocs]; exact foldl_allocs _ _ _ (by simp)
  rw [if_neg h]

@[simp] theorem State.loseCluster_allocs (s : State) (p slot : Nat) (guilty : List Nat) : (State.loseCluster s p slot guilty).allocs = s.allocs := by
  simp only [State.loseCluster]; repeat' split
  all_goals try simp
  all_goals (apply foldl_allocs; intro t x; try dsimp only)
  all_goals repeat' split
  all_goals first | (simp; done) | (apply foldl_allocs; intro t x; (try dsimp only); (repeat' split) <;> simp)

@[simp] theorem State.markFenced_allocs (s : State) (e : Nat) : (State.markFenced s e).allocs = s.allocs := by
  simp [State.markFenced]

@[simp] theorem State.fenceSerac_allocs (s : State) (p slot : Nat) (guilty : List Nat) : (State.fenceSerac s p slot guilty).allocs = s.allocs := by
  simp only [State.fenceSerac]; repeat' split
  all_goals simp

@[simp] theorem State.rtReplace_allocs (s : State) (n : Nat) : (State.rtReplace s n).allocs = s.allocs := by
  simp only [State.rtReplace]; repeat' split
  all_goals simp

@[simp] theorem State.fence_allocs (s : State) (e slot : Nat) (guilty : Option Nat) : (s.fence e slot guilty).allocs = s.allocs := by
  have h3 : ∀ (l : List Nat) (b : Bool) (t : State), (l.foldl (State.preemptOccupant · b ·) t).allocs = t.allocs := fun l b t => foldl_allocs _ _ _ (by simp)
  have h4 : ∀ (l : List Nat) (t : State), (l.foldl (fun u p => if u.present p && !(u.eng (seracEngine p)).fenced then u.fenceSerac p slot guilty.toList
      else u) t).allocs = t.allocs := fun l t => foldl_allocs _ _ _ (by intro t p; split <;> simp)
  simp only [State.fence, State.completeDue_allocs]
  repeat' split
  all_goals simp only [h3, h4, State.fenceSerac_allocs, State.outOfService_allocs, State.rtReplace_allocs, State.siltClear_allocs, State.siltCut_allocs, State.markFenced_allocs,
    State.updLink_allocs, State.releaseRing_allocs, State.blame_allocs, State.handWalk_allocs]

@[simp] theorem State.tarnRestart_allocs (s : State) (cause esc : Nat) : (State.tarnRestart s cause esc).allocs = s.allocs := by
  simp only [State.tarnRestart]; repeat' split
  all_goals simp

@[simp] theorem State.joinReset_allocs (s : State) (e : Nat) : (State.joinReset s e).allocs = s.allocs := by
  unfold State.joinReset; split <;> simp

@[simp] theorem State.engineReset_allocs (s : State) (e cause : Nat) (guilty : Option Nat) (detail esc : Nat) : (State.engineReset s e cause guilty detail esc).allocs = s.allocs := by
  simp only [State.engineReset]; repeat' split
  all_goals simp

@[simp] theorem State.retrainAfter_allocs (s : State) (n : Nat) : (State.retrainAfter s n).allocs = s.allocs := by
  unfold State.retrainAfter; split <;> simp

@[simp] theorem State.readAgain_allocs (s : State) (n : Nat) : (State.readAgain s n).allocs = s.allocs := by
  simp only [State.readAgain]; repeat' split
  all_goals try simp
  all_goals (apply foldl_allocs; intro t x; try dsimp only)
  all_goals repeat' split
  all_goals first | (simp; done) | (apply foldl_allocs; intro t x; (try dsimp only); (repeat' split) <;> simp)

@[simp] theorem State.engineDone_allocs (s : State) (e : Nat) : (State.engineDone s e).allocs = s.allocs := by
  simp only [State.engineDone]; repeat' split
  all_goals simp

@[simp] theorem State.domainBegin_allocs (s : State) : s.domainBegin.allocs = s.allocs := by
  simp only [State.domainBegin]
  rw [foldl_allocs]
  · (try dsimp only)
    rw [foldl_allocs]
    · (try dsimp only)
      rw [foldl_allocs]
      · rw [foldl_allocs]; intro t e; (try dsimp only); split <;> simp
      · intro t p; split <;> simp
    · intro t e; split <;> simp
  · intro t e; simp

@[simp] theorem State.domainReset_allocs (s : State) (cause : Nat) (guilty : Option Nat) (engine esc : Nat) (lost : List (Nat × Nat)) : (State.domainReset s cause guilty engine esc lost).allocs = s.allocs := by
  simp only [State.domainReset]; repeat' split
  all_goals simp

@[simp] theorem State.domainDone_allocs (s : State) : (State.domainDone s).allocs = s.allocs := by
  unfold State.domainDone; split <;> simp

@[simp] theorem State.engineOverdue_allocs (s : State) (e : Nat) : (State.engineOverdue s e).allocs = s.allocs := by
  simp only [State.engineOverdue]; repeat' split
  all_goals simp

@[simp] theorem State.portError_allocs (s : State) (u cause : Nat) : (State.portError s u cause).allocs = s.allocs := by
  simp [State.portError]

@[simp] theorem State.interruptCq_allocs (s : State) (i : Nat) : (State.interruptCq s i).allocs = s.allocs := by
  simp only [State.interruptCq]; repeat' split
  all_goals simp

@[simp] theorem State.emitCqe_allocs (s : State) (i : Nat) (e : Cqe) : (State.emitCqe s i e).allocs = s.allocs := by
  simp only [State.emitCqe]; repeat' split
  all_goals simp

@[simp] theorem State.checkPark_allocs (s : State) (f : Nat) : (State.checkPark s f).allocs = s.allocs := by
  simp only [State.checkPark]; repeat' split
  all_goals simp

@[simp] theorem State.parkCqe_allocs (s : State) (i : Nat) (e : Cqe) : (State.parkCqe s i e).allocs = s.allocs := by
  simp only [State.parkCqe]; repeat' split
  all_goals simp

@[simp] theorem State.checkParks_allocs (s : State) : (State.checkParks s).allocs = s.allocs := by
  simp [State.checkParks]

@[simp] theorem State.unpark_allocs (s : State) (f : Nat) (l : List Parked) : (State.unpark s f l).allocs = s.allocs := by
  simp [State.unpark]

@[simp] theorem State.produceCqe_allocs (s : State) (i : Nat) (e : Cqe) : (State.produceCqe s i e).allocs = s.allocs := by
  simp only [State.produceCqe]; repeat' split
  all_goals simp

@[simp] theorem State.breakCq_allocs (s : State) (i : Nat) : (State.breakCq s i).allocs = s.allocs := by
  simp only [State.breakCq]; repeat' split
  all_goals simp

theorem State.replayTake_allocs {s t : State} {i : Nat} {q : Queue} {e : Cqe} (h : s.replayTake i q = some (e, t)) : t.allocs = s.allocs := by
  unfold State.replayTake at h
  repeat' split at h
  all_goals first | (cases h; simp; done) | cases h

@[simp] theorem State.tookCqe_allocs (s : State) (i : Nat) : (State.tookCqe s i).allocs = s.allocs := by
  rfl

@[simp] theorem State.replayPump_allocs (f : Nat) (s : State) : (State.replayPump f s).allocs = s.allocs := by
  induction f generalizing s with
  | zero => rfl
  | succ f ih =>
    simp only [State.replayPump]
    repeat' split
    all_goals first | rfl | (rename_i h; rw [ih]; simp [State.replayTake_allocs h])

@[simp] theorem State.replayOnward_allocs (s : State) : s.replayOnward.allocs = s.allocs := by
  unfold State.replayOnward; split <;> simp

@[simp] theorem State.replayEnd_allocs (s : State) (i : Nat) : (State.replayEnd s i).allocs = s.allocs := by
  simp only [State.replayEnd]; repeat' split
  all_goals simp

@[simp] theorem State.replayStep_allocs (s : State) (i : Nat) : (State.replayStep s i).allocs = s.allocs := by
  simp only [State.replayStep]; repeat' split
  all_goals simp

@[simp] theorem State.replayFail_allocs (s : State) (i : Nat) : (State.replayFail s i).allocs = s.allocs := by
  simp only [State.replayFail]; repeat' split
  all_goals simp

@[simp] theorem State.discardParked_allocs (s : State) (f : Nat) : (State.discardParked s f).allocs = s.allocs := by
  simp only [State.discardParked]; repeat' split
  all_goals try simp
  all_goals (apply foldl_allocs; intro t x; try dsimp only)
  all_goals repeat' split
  all_goals first | (simp; done) | (apply foldl_allocs; intro t x; (try dsimp only); (repeat' split) <;> simp)

@[simp] theorem State.refuseDoorbell_allocs (s : State) (i : Nat) (q : Queue) : (State.refuseDoorbell s i q).allocs = s.allocs := by
  rfl

@[simp] theorem State.rejectDoorbell_allocs (s : State) : (State.rejectDoorbell s).allocs = s.allocs := by
  rfl

@[simp] theorem State.ringTail_allocs (s : State) (i : Nat) (q : Queue) (v : Nat) : (State.ringTail s i q v).allocs = s.allocs := by
  unfold State.ringTail; split <;> simp

@[simp] theorem State.ringHead_allocs (s : State) (i : Nat) (q : Queue) (v : Nat) : (State.ringHead s i q v).allocs = s.allocs := by
  simp only [State.ringHead]; repeat' split
  all_goals simp

@[simp] theorem State.ringMask_allocs (s : State) (i : Nat) (q : Queue) (v : Nat) : (State.ringMask s i q v).allocs = s.allocs := by
  unfold State.ringMask; split <;> simp

@[simp] theorem State.writeEvent_allocs (s : State) (f : Nat) : (State.writeEvent s f).allocs = s.allocs := by
  simp only [State.writeEvent]; repeat' split
  all_goals simp

@[simp] theorem State.refuseEntry_allocs (s : State) (c : Cmd) (st : Status) : (State.refuseEntry s c st).allocs = s.allocs := by
  rfl

@[simp] theorem State.markLeaving_allocs (s : State) (r : Nat) (c : Cmd) : (State.markLeaving s r c).allocs = s.allocs := by
  unfold State.markLeaving; split <;> simp

@[simp] theorem State.countHeld_allocs (s : State) (r : Nat) (c : Cmd) : (State.countHeld s r c).allocs = s.allocs := by
  rfl

@[simp] theorem State.noteAdmitted_allocs (s : State) (c : Cmd) : (State.noteAdmitted s c).allocs = s.allocs := by
  rfl

@[simp] theorem State.acceptIo_allocs (s : State) (c : Cmd) (x : Ctx) (l : List BatchEnt) (nodes : List Node) (gv : Nat) : (State.acceptIo s c x l nodes gv).allocs = s.allocs := by
  simp only [State.acceptIo]; repeat' split
  all_goals simp

theorem State.batchPath_allocs {s t : State} {c : Cmd} {x : Ctx} {va len : Nat} {ecc : Ecc} {chk : PathCheck} {st : Option Status}
    (h : s.batchPath c x va len ecc chk = some (st, t)) : t.allocs = s.allocs := by
  unfold State.batchPath at h
  repeat' split at h
  all_goals first | (cases h; simp; done) | cases h

@[simp] theorem State.readBatch_allocs (s : State) (c : Cmd) (x : Ctx) (ecc : Ecc) (chk : PathCheck) (away : Blob) :
    (s.readBatch c x ecc chk away).2.allocs = s.allocs := by
  simp only [State.readBatch]; repeat' split
  all_goals first | rfl | (rename_i h; exact State.batchPath_allocs h) | simp

@[simp] theorem State.admitIo_allocs (s : State) (q : Queue) (c : Cmd) (x : Ctx) (ecc : Ecc) (chk : PathCheck) (away : Blob) :
    (s.admitIo q c x ecc chk away).allocs = s.allocs := by
  unfold State.admitIo
  split
  · simp
  · have e := State.readBatch_allocs s c x ecc chk away
    split
    · rename_i h; rw [h] at e; simpa using e
    · rename_i h; rw [h] at e; simpa using e
    · rename_i h; rw [h] at e
      dsimp only
      generalize (if opIsStep c.opcode = true then _ else _ : Option Status) = st
      repeat' split
      all_goals simpa using e

@[simp] theorem State.takeEntry_allocs (s : State) (i : Nat) (q : Queue) (e : Fetched) (rest : List Fetched) : (State.takeEntry s i q e rest).allocs = s.allocs := by
  rfl

@[simp] theorem State.admitOne_allocs (s : State) (i : Nat) (ecc : Ecc) (chk : PathCheck) (away : Blob) : (s.admitOne i ecc chk away).allocs = s.allocs := by
  simp only [State.admitOne]; repeat' split
  all_goals simp

@[simp] theorem State.grantFetch_allocs (s : State) (i : Nat) (slot : Nat) : (State.grantFetch s i slot).allocs = s.allocs := by
  unfold State.grantFetch; split <;> simp

@[simp] theorem State.remoteSend_allocs (s : State) (r : Nat) (q : MemReq) : (State.remoteSend s r q).allocs = s.allocs := by
  simp only [State.remoteSend]; repeat' split
  all_goals simp

@[simp] theorem State.remotePump_allocs (s : State) (r : Nat) : (State.remotePump s r).allocs = s.allocs := by
  unfold State.remotePump; split <;> simp

@[simp] theorem State.askRemote_allocs (s : State) (r : Nat) (l : List MemReq) : (State.askRemote s r l).allocs = s.allocs := by
  simp only [State.askRemote]; repeat' split
  all_goals try simp
  all_goals (apply foldl_allocs; intro t x; try dsimp only)
  all_goals repeat' split
  all_goals first | (simp; done) | (apply foldl_allocs; intro t x; (try dsimp only); (repeat' split) <;> simp)

@[simp] theorem State.readPieces_allocs (s : State) (r : Nat) (c : Cmd) (e : Nat) (l : List Piece) : (s.readPieces r c e l).2.allocs = s.allocs := by
  simp only [State.readPieces]; rw [foldPair_allocs]; intro y a; (try dsimp only); repeat' split
  all_goals simp

@[simp] theorem State.writePieces_allocs (s : State) (r : Nat) (c : Cmd) (e : Nat) (l : List Piece) (b : Blob) : (s.writePieces r c e l b).allocs = s.allocs := by
  induction l generalizing s b with
  | nil => rfl
  | cons p t ih => simp only [State.writePieces]; rw [ih]; repeat' split
                   all_goals simp

@[simp] theorem State.sendIssue_allocs (s : State) (u r : Nat) (c : Cmd) (t : TileRef) (n : Node) (out : List Piece) (data : Blob) : (State.sendIssue s u r c t n out data).allocs = s.allocs := by
  unfold State.sendIssue; split <;> simp

theorem State.withSpans_allocs (s : State) (r : Nat) (c : Cmd) (x : Ctx) (n engine : Nat) (l : List VaSpan) (f : State → Cmd → State)
    (hf : ∀ t c, t.allocs = s.allocs → (f t c).allocs = s.allocs) : (s.withSpans r c x n engine l f).allocs = s.allocs := by
  simp only [State.withSpans]; repeat' split
  all_goals first | (simp; done) | exact hf _ _ (by simp)

@[simp] theorem State.issueTile_allocs (s : State) (u r : Nat) (c : Cmd) (t : TileRef) (n : Node) (w : Tile) : (State.issueTile s u r c t n w).allocs = s.allocs := by
  simp only [State.issueTile]; repeat' split
  all_goals simp

@[simp] theorem State.issueNext_allocs (s : State) (u : Nat) : (s.issueNext u).allocs = s.allocs := by
  unfold State.issueNext
  split
  · rfl
  · split
    · split
      · rfl
      · split
        · simp
        · apply State.withSpans_allocs
          intro t c ht
          split
          · rfl
          · simp [ht]
    · rfl

@[simp] theorem State.settleDone_allocs (s : State) (r : Nat) : (State.settleDone s r).allocs = s.allocs := by
  simp only [State.settleDone]; repeat' split
  all_goals simp

@[simp] theorem State.workMoved_allocs (s : State) (r : Nat) : (State.workMoved s r).allocs = s.allocs := by
  simp [State.workMoved]

@[simp] theorem State.takeUp_allocs (s : State) (u cls typ : Nat) (p : TilePkt) (f : State → State) (hf : ∀ t , (f t ).allocs = t.allocs) : (State.takeUp s u cls typ p f).allocs = s.allocs := by
  simp only [State.takeUp]; repeat' split
  all_goals simp [hf]

@[simp] theorem State.finishWork_allocs (s : State) (u : Nat) (w : Work) (c : Cmd) (b : Blob) : (State.finishWork s u w c b).allocs = s.allocs := by
  unfold State.finishWork; split <;> simp

@[simp] theorem State.startWalk_allocs (s : State) (r : Nat) (c : Cmd) (va : Nat) : (State.startWalk s r c va).allocs = s.allocs := by
  simp only [State.startWalk]; repeat' split
  all_goals simp

@[simp] theorem State.aheadOne_allocs (s : State) (u r : Nat) (w : Tile) : (State.aheadOne s u r w).allocs = s.allocs := by
  simp only [State.aheadOne]; repeat' split
  all_goals try simp
  all_goals (apply foldl_allocs; intro t x; try dsimp only)
  all_goals repeat' split
  all_goals first | (simp; done) | (apply foldl_allocs; intro t x; (try dsimp only); (repeat' split) <;> simp)

@[simp] theorem State.setCrev_allocs (s : State) (slot : Nat) (r : Crev) : (State.setCrev s slot r).allocs = s.allocs := by
  rfl

@[simp] theorem State.crevRetry_allocs (s : State) (slot : Nat) : (State.crevRetry s slot).allocs = s.allocs := by
  simp only [State.crevRetry]; repeat' split
  all_goals simp

@[simp] theorem State.crevAbort_allocs (s : State) (slot : Nat) : (State.crevAbort s slot).allocs = s.allocs := by
  unfold State.crevAbort; split <;> simp

@[simp] theorem State.crevHeadWrite_allocs (s : State) (value : Nat) : (State.crevHeadWrite s value).allocs = s.allocs := by
  simp only [State.crevHeadWrite]; repeat' split
  all_goals simp

@[simp] theorem State.takeUpTiles_allocs (s : State) (r opc : Nat) : (State.takeUpTiles s r opc).allocs = s.allocs := by
  unfold State.takeUpTiles; split <;> simp

@[simp] theorem State.cirqueSpans_allocs (s : State) (r : Nat) (c : Cmd) (l : List VaSpan) (f : State → Cmd → State) (hf : ∀ t x0, (f t x0).allocs = t.allocs) :
    (s.cirqueSpans r c l f).allocs = s.allocs := by
  simp only [State.cirqueSpans]; repeat' split
  all_goals first | rfl | exact State.withSpans_allocs _ _ _ _ _ _ _ _ fun t c h => (hf t c).trans h

@[simp] theorem State.writeSeqId_allocs (s : State) (r : Nat) (c : Cmd) : (State.writeSeqId s r c).allocs = s.allocs := by
  simp only [State.writeSeqId]; repeat' split
  all_goals simp

@[simp] theorem State.takeTap_allocs (s : State) (u : Nat) (t : Tap) (b : Blob) : (State.takeTap s u t b).allocs = s.allocs := by
  simp only [State.takeTap]; repeat' split
  all_goals simp

@[simp] theorem State.sliceFails_allocs (s : State) (x : Slice) (g : Option Nat) : (State.sliceFails s x g).allocs = s.allocs := by
  unfold State.sliceFails; split <;> simp

@[simp] theorem State.dropTap_allocs (s : State) (t : Tap) : (State.dropTap s t).allocs = s.allocs := by
  rfl

@[simp] theorem State.beginUpdate_allocs (s : State) (r : Nat) (c : Cmd) (b : Blob) : (State.beginUpdate s r c b).allocs = s.allocs := by
  unfold State.beginUpdate; split <;> simp

@[simp] theorem State.destroyCtx_allocs (s : State) (x : Nat) : (State.destroyCtx s x).allocs = s.allocs := by
  simp only [State.destroyCtx]; repeat' split
  all_goals simp

theorem State.takeChunks_allocs {s s' : State} {e : Fkt} {l : List (Nat × Nat)} (h : s.takeChunks e l = some s') : s'.allocs = s.allocs := by
  induction l generalizing s with
  | nil => cases h; rfl
  | cons a t ih =>
    simp only [State.takeChunks] at h
    split at h
    · rename_i h1; rw [ih h, State.takeFrames_allocs h1]
    · cases h

@[simp] theorem State.writeTables_allocs (s : State) (r x : Nat) (ls : List Leaf) (lo hi : Nat) (isMap : Bool) : (State.writeTables s r x ls lo hi isMap).allocs = s.allocs := by
  simp [State.writeTables]

@[simp] theorem State.applyChange_allocs (s : State) (x : Nat) (z : Change) : (State.applyChange s x z).allocs = s.allocs := by
  unfold State.applyChange; split <;> simp

@[simp] theorem State.ackEffect_allocs (s0 : State) (e : Nat) (i : Inval) : (State.ackEffect s0 e i).allocs = s0.allocs := by
  simp only [State.ackEffect]; repeat' split
  all_goals simp

@[simp] theorem State.invalDone_allocs (s : State) (i : Inval) : (State.invalDone s i).allocs = s.allocs := by
  simp only [State.invalDone]; repeat' split
  all_goals simp

@[simp] theorem State.addVersion_allocs (s : State) (g : Graph) (v : Nat) (nodes : List Node) : (State.addVersion s g v nodes).allocs = s.allocs := by
  rfl

@[simp] theorem State.stopFetch_allocs (s : State) (f : Nat) : (State.stopFetch s f).allocs = s.allocs := by
  rfl

@[simp] theorem State.abandonCmd_allocs (s : State) (r : Nat) : (State.abandonCmd s r).allocs = s.allocs := by
  simp only [State.abandonCmd]; repeat' split
  all_goals simp

@[simp] theorem State.beginReset_allocs (s : State) (f : Nat) : (State.beginReset s f).allocs = s.allocs := by
  simp [State.beginReset]

@[simp] theorem State.dropVariant_allocs (s : State) (v : Nat) : (State.dropVariant s v).allocs = s.allocs := by
  rfl

@[simp] theorem State.answerGen_allocs (s : State) (f : Nat) (io : HostIo) (l : List Nat) : (State.answerGen s f io l).allocs = s.allocs := by
  simp only [State.answerGen]; repeat' split
  all_goals try simp
  all_goals (apply foldl_allocs; intro t x; try dsimp only)
  all_goals repeat' split
  all_goals first | (simp; done) | (apply foldl_allocs; intro t x; (try dsimp only); (repeat' split) <;> simp)

@[simp] theorem State.runQuiesce_allocs (s : State) (f r : Nat) : (State.runQuiesce s f r).allocs = s.allocs := by
  unfold State.runQuiesce; split <;> simp

@[simp] theorem State.runReset_allocs (s : State) (f r : Nat) (io : HostIo) : (State.runReset s f r io).allocs = s.allocs := by
  simp only [State.runReset]; repeat' split
  all_goals simp

@[simp] theorem State.runWaiting_allocs (s : State) (f r : Nat) (io : HostIo) : (State.runWaiting s f r io).allocs = s.allocs := by
  simp only [State.runWaiting]; repeat' split
  all_goals simp

@[simp] theorem State.runAfterwards_allocs (f : Nat) (io : HostIo) (n : Nat) (s : State) : (State.runAfterwards f io n s).allocs = s.allocs := by
  induction n generalizing s with
  | zero => rfl
  | succ n ih => simp only [State.runAfterwards]; repeat' split
                 all_goals simp [ih]

@[simp] theorem State.afterTransition_allocs (s : State) (f : Nat) (io : HostIo) : (State.afterTransition s f io).allocs = s.allocs := by
  simp [State.afterTransition]

@[simp] theorem State.enableWaiting_allocs (s : State) (f : Nat) : (State.enableWaiting s f).allocs = s.allocs := by
  simp only [State.enableWaiting]; repeat' split
  all_goals simp

@[simp] theorem State.putQueue_allocs (s : State) (f : Nat) (e : Nat × Queue) : (State.putQueue s f e).allocs = s.allocs := by
  simp [State.putQueue]

@[simp] theorem State.claimAll_allocs (s : State) (l : List (Nat × Nat × Nat × Fkt)) : (s.claimAll l).allocs = s.allocs := by
  unfold State.claimAll
  apply foldl_allocs
  intro t e
  cases h : t.takeFrames e.1 e.2.2.2 ((List.range e.2.2.1).map (e.2.1 + ·)) with
  | none => rfl
  | some u => exact State.takeFrames_allocs h

@[simp] theorem State.setRegions_allocs (s : State) (z : Regions) : (State.setRegions s z).allocs = s.allocs := by
  rfl

@[simp] theorem State.placeRegions_allocs (s : State) : (State.placeRegions s).allocs = s.allocs := by
  simp [State.placeRegions]

@[simp] theorem State.recoverPersist_allocs (s : State) (h : Blob) : (State.recoverPersist s h).allocs = s.allocs := by
  simp [State.recoverPersist]

@[simp] theorem State.formatPersist_allocs (s : State) : (State.formatPersist s).allocs = s.allocs := by
  unfold State.formatPersist
  rw [State.drawn_allocs, State.putHeader_allocs]

@[simp] theorem State.openPersist_allocs (s : State) : (State.openPersist s).allocs = s.allocs := by
  simp only [State.openPersist]; repeat' split
  all_goals simp

@[simp] theorem State.openPorts_allocs (s : State) : (State.openPorts s).allocs = s.allocs := by
  simp [State.openPorts]

@[simp] theorem State.joinRings_allocs (s : State) : (State.joinRings s).allocs = s.allocs := by
  simp [State.joinRings]

@[simp] theorem State.startKeys_allocs (s : State) : s.startKeys.allocs = s.allocs := by
  unfold State.startKeys; apply foldl_allocs; intro t k; simp

@[simp] theorem State.markCommitted_allocs (s : State) : s.markCommitted.allocs = s.allocs := by simp [State.markCommitted]

@[simp] theorem State.commitTopo_allocs (s : State) : (State.commitTopo s).allocs = s.allocs := by
  simp [State.commitTopo]

@[simp] theorem State.popLoad_allocs (s : State) : (State.popLoad s).allocs = s.allocs := by
  rfl

@[simp] theorem State.refuseLoad_allocs (s : State) (l : Load) (st : Status) : (State.refuseLoad s l st).allocs = s.allocs := by
  simp only [State.refuseLoad]; repeat' split
  all_goals simp

@[simp] theorem State.drainFor_allocs (s : State) (l : Load) : (State.drainFor s l).allocs = s.allocs := by
  unfold State.drainFor; split <;> simp

@[simp] theorem State.freeCurrent_allocs (s : State) (i : Nat) : (State.freeCurrent s i).allocs = s.allocs := by
  simp [State.freeCurrent]

@[simp] theorem State.turnNow_allocs (s : State) : (State.turnNow s).allocs = s.allocs := by
  simp only [State.turnNow]; repeat' split
  all_goals simp

theorem State.claimVer_allocs {s s' : State} {v : ImgVer} {asked l : List Nat} (h : s.claimVer v asked = (some s', l)) : s'.allocs = s.allocs := by
  simp only [State.claimVer] at h
  split at h
  · cases h; simp
  · cases h

@[simp] theorem State.issueShards_allocs (n : Nat) (s : State) : (State.issueShards n s).allocs = s.allocs := by
  induction n generalizing s with
  | zero => rfl
  | succ n ih => simp only [State.issueShards]; repeat' split
                 all_goals simp [ih]

@[simp] theorem State.beginLoad_allocs (s : State) (l : Load) (v : ImgVer) (n : Nat) (current : Bool) (asked : List Nat) :
    (s.beginLoad l v n current asked).allocs = s.allocs := by
  simp only [State.beginLoad]
  split
  · simp
  · rename_i s3 h
    have e : s3.allocs = s.allocs := by
      split at h
      · injection h with h; subst h; split <;> simp
      · rw [State.claimVer_allocs (l := _) (Prod.ext h rfl)]; split <;> simp
    simp [e]

@[simp] theorem State.modShard_allocs (s : State) (i : Nat) (f : Shard → Shard) : (State.modShard s i f).allocs = s.allocs := by
  simp [State.modShard]

@[simp] theorem State.stageLoad_allocs (s : State) (l : Load) (i fail : Nat) (st : Status) : (State.stageLoad s l i fail st).allocs = s.allocs := by
  rfl

@[simp] theorem State.spoilLoad_allocs (s : State) (l : Load) (shard : Nat) : (State.spoilLoad s l shard).allocs = s.allocs := by
  simp [State.spoilLoad]

@[simp] theorem State.takeShard_allocs (s : State) (i : Nat) (x : Shard) (data : Blob) : (State.takeShard s i x data).allocs = s.allocs := by
  simp only [State.takeShard]; repeat' split
  all_goals simp

@[simp] theorem State.activate_allocs (s : State) (l : Load) : (State.activate s l).allocs = s.allocs := by
  simp [State.activate]

@[simp] theorem State.stallStreams_allocs (s : State) : (State.stallStreams s).allocs = s.allocs := by
  rfl

@[simp] theorem State.needRepair_allocs (s : State) (img ver t u : Nat) : (State.needRepair s img ver t u).allocs = s.allocs := by
  unfold State.needRepair; split <;> simp

@[simp] theorem State.modRepair_allocs (s : State) (id : Nat) (f : Repair → Repair) : (State.modRepair s id f).allocs = s.allocs := by
  rfl

@[simp] theorem State.endRepair_allocs (s : State) (id : Nat) : (State.endRepair s id).allocs = s.allocs := by
  simp [State.endRepair]

@[simp] theorem State.poison_allocs (s : State) (img ver : Nat) : (State.poison s img ver).allocs = s.allocs := by
  simp [State.poison]

@[simp] theorem State.askNext_allocs (s : State) (p : Repair) : (State.askNext s p).allocs = s.allocs := by
  simp only [State.askNext]; repeat' split
  all_goals simp

@[simp] theorem State.gotUnit_allocs (s : State) (p : Repair) (b : Blob) (host : Bool) : (State.gotUnit s p b host).allocs = s.allocs := by
  rfl

@[simp] theorem State.queueLoad_allocs (s : State) (l : Load) : (State.queueLoad s l).allocs = s.allocs := by
  simp [State.queueLoad]

@[simp] theorem State.withManifest_allocs (s : State) (r : Nat) (c : Cmd) (io : HostIo) (f : State → ImgVer → State)
    (hf : ∀ t v, (f t v).allocs = t.allocs) : (s.withManifest r c io f).allocs = s.allocs := by
  unfold State.withManifest
  apply State.withData_allocs
  intro t b
  split
  · simp
  · split
    · simp
    · exact hf _ _

@[simp] theorem State.portRequest_allocs (s : State) (q : MemReq) (port : Nat) : (State.portRequest s q port).allocs = s.allocs := by
  simp only [State.portRequest]; repeat' split
  all_goals simp

@[simp] theorem State.readRequest_allocs (s : State) (q : MemReq) : (State.readRequest s q).allocs = s.allocs := by
  simp only [State.readRequest]; repeat' split
  all_goals simp

@[simp] theorem State.dataBad_allocs (s : State) (q : MemReq) : (State.dataBad s q).allocs = s.allocs := by
  simp only [State.dataBad]; repeat' split
  all_goals simp

@[simp] theorem State.dataGood_allocs (s : State) (q : MemReq) : (State.dataGood s q).allocs = s.allocs := by
  unfold State.dataGood; split <;> simp

@[simp] theorem State.glazeAnswer_allocs (s : State) (q : MemReq) (ecc : Ecc) (chk : PathCheck) (k p : Nat) : (State.glazeAnswer s q ecc chk k p).allocs = s.allocs := by
  simp only [State.glazeAnswer]; repeat' split
  all_goals simp

@[simp] theorem State.newWindow_allocs (s : State) : (State.newWindow s).allocs = s.allocs := by
  rfl

@[simp] theorem State.nakOnce_allocs (s : State) (n : Nat) : (State.nakOnce s n).allocs = s.allocs := by
  unfold State.nakOnce; split <;> simp

@[simp] theorem State.passOn_allocs (s : State) (n stream : Nat) (d : Blob) (r : Nat) : (State.passOn s n stream d r).allocs = s.allocs := by
  rfl

@[simp] theorem State.beginPass_allocs (s : State) (n stream : Nat) (b : Blob) : (State.beginPass s n stream b).allocs = s.allocs := by
  unfold State.beginPass; split <;> simp

@[simp] theorem State.takeMsgs_allocs (n stream f : Nat) (b : Blob) (s : State) : (State.takeMsgs n stream f b s).allocs = s.allocs := by
  induction f generalizing b s with
  | zero => simp [State.takeMsgs]
  | succ f ih => simp only [State.takeMsgs]; repeat' split
                 all_goals simp [ih]

@[simp] theorem State.holdFrame_allocs (s : State) (n i had : Nat) (fresh : Bool) : (State.holdFrame s n i had fresh).allocs = s.allocs := by
  simp only [State.holdFrame]; repeat' split
  all_goals simp

@[simp] theorem State.takeData_allocs (s : State) (n : Nat) (f : Blob) : (State.takeData s n f).allocs = s.allocs := by
  simp [State.takeData]

@[simp] theorem State.ackFrame_allocs (s : State) (n before : Nat) : (State.ackFrame s n before).allocs = s.allocs := by
  unfold State.ackFrame; split <;> simp

@[simp] theorem State.arrived_allocs (s : State) (link : Nat) (m : FloeMsg) (typ : Nat) (f : State → State) (hf : ∀ t , (f t ).allocs = t.allocs) : (State.arrived s link m typ f).allocs = s.allocs := by
  simp only [State.arrived]; repeat' split
  all_goals simp [hf]

@[simp] theorem State.pumpRemotes_allocs (s : State) : (State.pumpRemotes s).allocs = s.allocs := by
  simp [State.pumpRemotes]

@[simp] theorem State.remoteMoved_allocs (s : State) (q : MemReq) : (State.remoteMoved s q).allocs = s.allocs := by
  unfold State.remoteMoved; split <;> simp

@[simp] theorem State.floeStale_allocs (s : State) : (State.floeStale s).allocs = s.allocs := by
  rfl

@[simp] theorem State.remoteAnswer_allocs (s : State) (m : FloeMsg) (write : Bool) : (State.remoteAnswer s m write).allocs = s.allocs := by
  simp only [State.remoteAnswer]; repeat' split
  all_goals simp

@[simp] theorem State.ringWrite_allocs (s : State) (k action : Nat) : (State.ringWrite s k action).allocs = s.allocs := by
  simp only [State.ringWrite]; repeat' split
  all_goals simp

@[simp] theorem State.doeAnswer_allocs (s : State) (f : Nat) (b : Blob) : (State.doeAnswer s f b).allocs = s.allocs := by
  rfl

@[simp] theorem State.signedAnswer_allocs (s : State) (f code p1 p2 : Nat) (body : Blob) : (State.signedAnswer s f code p1 p2 body).allocs = s.allocs := by
  rfl

@[simp] theorem State.modSession_allocs (s : State) (n : Nat) (g : Session → Session) : (State.modSession s n g).allocs = s.allocs := by
  rfl

@[simp] theorem State.endSession_allocs (s : State) (n : Nat) : (State.endSession s n).allocs = s.allocs := by
  rfl

@[simp] theorem State.endSessions_allocs (s : State) (f : Nat) : (State.endSessions s f).allocs = s.allocs := by
  rfl

@[simp] theorem State.secured_allocs (s : State) (f n : Nat) (m : Blob) : (State.secured s f n m).allocs = s.allocs := by
  unfold State.secured; split <;> simp

@[simp] theorem State.newSecret_allocs (s : State) (n : Nat) : (State.newSecret s n).allocs = s.allocs := by
  rfl

@[simp] theorem State.keyExchange_allocs (s : State) (f req : Nat) : (State.keyExchange s f req).allocs = s.allocs := by
  unfold State.keyExchange; split <;> simp

@[simp] theorem State.established_allocs (s : State) (f n : Nat) (who : Option Blob) : (State.established s f n who).allocs = s.allocs := by
  simp [State.established]

@[simp] theorem State.finishSession_allocs (s : State) (f n : Nat) (auth : Option Blob) : (State.finishSession s f n auth).allocs = s.allocs := by
  simp only [State.finishSession]; repeat' split
  all_goals simp

@[simp] theorem State.agreed_allocs (s : State) (f : Nat) (g : State → State) (hg : ∀ t , (g t ).allocs = t.allocs) : (State.agreed s f g).allocs = s.allocs := by
  unfold State.agreed; split <;> simp [hg]

@[simp] theorem State.inSession_allocs (s : State) (f n : Nat) (g : State → State) (hg : ∀ t , (g t ).allocs = t.allocs) : (State.inSession s f n g).allocs = s.allocs := by
  unfold State.inSession; split <;> simp [hg]

@[simp] theorem State.onSlot0_allocs (s : State) (f slot : Nat) (g : State → State) (hg : ∀ t , (g t ).allocs = t.allocs) : (State.onSlot0 s f slot g).allocs = s.allocs := by
  unfold State.onSlot0; split <;> simp [hg]

@[simp] theorem State.vendorAnswer_allocs (s : State) (f : Nat) (ses : Option Nat) (result : Nat) (body : Blob) : (State.vendorAnswer s f ses result body).allocs = s.allocs := by
  unfold State.vendorAnswer; split <;> simp

@[simp] theorem State.markHeader_allocs (s : State) (clean : Bool) : (State.markHeader s clean).allocs = s.allocs := by
  unfold State.markHeader; split <;> simp

@[simp] theorem State.powerDown_allocs (s : State) (k : PwrSt) : (State.powerDown s k).allocs = s.allocs := by
  rfl

@[simp] theorem State.restartForPatch_allocs (s : State) : (State.restartForPatch s).allocs = s.allocs := by
  rfl

@[simp] theorem State.loadPatch_allocs (s : State) (r : Nat) (c : Cmd) (io : HostIo) (image : Blob) (svn : Nat) : (State.loadPatch s r c io image svn).allocs = s.allocs := by
  simp only [State.loadPatch]; repeat' split
  all_goals simp

@[simp] theorem State.newChallenge_allocs (s : State) : (State.newChallenge s).allocs = s.allocs := by
  rfl

@[simp] theorem State.banner_allocs (s : State) : (State.banner s).allocs = s.allocs := by
  rfl

@[simp] theorem State.tarnStart_allocs (s : State) : (State.tarnStart s).allocs = s.allocs := by
  rfl

@[simp] theorem State.afterRestart_allocs (s : State) (r : Nat) : (State.afterRestart s r).allocs = s.allocs := by
  simp only [State.afterRestart]; repeat' split
  all_goals simp

@[simp] theorem State.restartDone_allocs (s : State) (x : Rst) : (State.restartDone s x).allocs = s.allocs := by
  unfold State.restartDone; split <;> simp

@[simp] theorem State.engineRequest_allocs (s : State) (engine : Nat) : (State.engineRequest s engine).allocs = s.allocs := by
  unfold State.engineRequest; split <;> simp

@[simp] theorem State.domainRequest_allocs (s : State) : (State.domainRequest s).allocs = s.allocs := by
  unfold State.domainRequest; split <;> simp

@[simp] theorem State.resetHead_allocs (s : State) (value : Nat) : (State.resetHead s value).allocs = s.allocs := by
  simp only [State.resetHead]; repeat' split
  all_goals simp

@[simp] theorem State.completeOut_allocs (s : State) (r : Nat) (c : Cmd) : (State.completeOut s r c).allocs = s.allocs := by
  simp [State.completeOut]

@[simp] theorem State.holdupBegin_allocs (s : State) : (State.holdupBegin s).allocs = s.allocs := by
  rfl

@[simp] theorem State.holdupState_allocs (s : State) : (State.holdupState s).allocs = s.allocs := by
  rfl

@[simp] theorem State.leaveRings_allocs (s : State) : (State.leaveRings s).allocs = s.allocs := by
  simp [State.leaveRings]

@[simp] theorem State.endWake_allocs (s : State) : (State.endWake s).allocs = s.allocs := by
  simp only [State.endWake]; repeat' split
  all_goals simp

@[simp] theorem State.holdBegins_allocs (s : State) : (State.holdBegins s).allocs = s.allocs := by
  unfold State.holdBegins; split <;> simp

@[simp] theorem State.ticTake_allocs (s : State) (n : Nat) : (State.ticTake s n).allocs = s.allocs := by
  rfl

@[simp] theorem State.ticEoi_allocs (s : State) (n : Nat) : (State.ticEoi s n).allocs = s.allocs := by
  unfold State.ticEoi; split <;> simp

@[simp] theorem State.releaseVectors_allocs (s : State) (f : Nat) : (State.releaseVectors s f).allocs = s.allocs := by
  unfold State.releaseVectors; split <;> simp

@[simp] theorem State.enableNow_allocs (s : State) (f r : Nat) (io : HostIo) (others : List Nat) : (State.enableNow s f r io others).allocs = s.allocs := by
  simp only [State.enableNow]; repeat' split
  all_goals simp

@[simp] theorem State.wplogFlush_allocs (s : State) (fn value : Nat) : (State.wplogFlush s fn value).allocs = s.allocs := by
  unfold State.wplogFlush; split <;> simp

@[simp] theorem State.moraineClear_allocs (s : State) (fn value : Nat) : (State.moraineClear s fn value).allocs = s.allocs := by
  unfold State.moraineClear; split <;> simp

@[simp] theorem State.rtReserveWrite_allocs (s : State) (v : Nat) : (State.rtReserveWrite s v).allocs = s.allocs := by
  simp [State.rtReserveWrite]

@[simp] theorem State.adminResumeWrite_allocs (s : State) (v : Nat) : (State.adminResumeWrite s v).allocs = s.allocs := by
  simp only [State.adminResumeWrite]; repeat' split
  all_goals simp

@[simp] theorem State.qcfgWrite_allocs (s : State) (f v : Nat) : (State.qcfgWrite s f v).allocs = s.allocs := by
  unfold State.qcfgWrite; split <;> simp

@[simp] theorem State.hostAddWrite_allocs (s : State) (v : Nat) : (s.hostAddWrite v).allocs = s.allocs := by
  simp only [State.hostAddWrite]
  split
  · rfl
  · split
    · split
      · rename_i h; simp [State.takeChunks_allocs h]
      · rfl
    · rfl

@[simp] theorem State.imageCfgWrite_allocs (s : State) (n v : Nat) : (State.imageCfgWrite s n v).allocs = s.allocs := by
  unfold State.imageCfgWrite; split <;> simp

@[simp] theorem State.quotaWrite_allocs (s : State) (f v : Nat) : (State.quotaWrite s f v).allocs = s.allocs := by
  simp only [State.quotaWrite]; repeat' split
  all_goals simp

@[simp] theorem State.adminCtlWrite_allocs (s : State) (v : Nat) : (State.adminCtlWrite s v).allocs = s.allocs := by
  simp only [State.adminCtlWrite]; repeat' split
  all_goals simp

@[simp] theorem State.resetReqWrite_allocs (s : State) (v : Nat) : (State.resetReqWrite s v).allocs = s.allocs := by
  simp only [State.resetReqWrite]; repeat' split
  all_goals simp

@[simp] theorem State.crevCtlWrite_allocs (s : State) (v : Nat) : (State.crevCtlWrite s v).allocs = s.allocs := by
  simp only [State.crevCtlWrite]; repeat' split
  all_goals simp

@[simp] theorem State.doorWrite_allocs (s : State) (d : Door) (k v : Nat) : (State.doorWrite s d k v).allocs = s.allocs := by
  simp only [State.doorWrite]; repeat' split
  all_goals simp

@[simp] theorem State.vxWrite_allocs (s : State) (r : Reg) (v : Nat) : (State.vxWrite s r v).allocs = s.allocs := by
  unfold State.vxWrite; split <;> simp

@[simp] theorem State.coreWrite_allocs (s : State) (r : Reg) (v : Nat) : (State.coreWrite s r v).allocs = s.allocs := by
  unfold State.coreWrite; split <;> simp

@[simp] theorem State.dataWrite_allocs (s : State) (r : Reg) (v : Nat) : (State.dataWrite s r v).allocs = s.allocs := by
  simp only [State.dataWrite]; repeat' split
  all_goals simp

@[simp] theorem State.restWrite_allocs (s : State) (r : Reg) (v : Nat) : (State.restWrite s r v).allocs = s.allocs := by
  simp only [State.restWrite]; repeat' split
  all_goals simp

@[simp] theorem State.fnWrite_allocs (s : State) (r : Reg) (v : Nat) : (State.fnWrite s r v).allocs = s.allocs := by
  unfold State.fnWrite; split <;> simp

@[simp] theorem State.regWrite_allocs (s : State) (r : Reg) (v : Nat) : (State.regWrite s r v).allocs = s.allocs := by
  unfold State.regWrite; split <;> simp

@[simp] theorem State.msixWrite_allocs (s : State) (f o w v : Nat) : (State.msixWrite s f o w v).allocs = s.allocs := by
  simp [State.msixWrite]

@[simp] theorem State.readHalf_allocs (s : State) (sp : Space) (off : Nat) (r : Reg) (o : Nat) : (s.readHalf sp off r o).2.allocs = s.allocs := by
  simp only [State.readHalf]; repeat' split
  all_goals simp

@[simp] theorem State.busRead_allocs (s : State) (sp : Space) (off w : Nat) : (s.busRead sp off w).2.allocs = s.allocs := by
  simp only [State.busRead]; repeat' split
  all_goals simp

@[simp] theorem State.writeHigh_allocs (s : State) (sp : Space) (off : Nat) (r : Reg) (v : Nat) : (State.writeHigh s sp off r v).allocs = s.allocs := by
  simp only [State.writeHigh]; repeat' split
  all_goals simp

@[simp] theorem State.writeLow_allocs (s : State) (sp : Space) (off v : Nat) : (State.writeLow s sp off v).allocs = s.allocs := by
  simp [State.writeLow]

@[simp] theorem State.busWrite_allocs (s : State) (sp : Space) (off w value : Nat) : (State.busWrite s sp off w value).allocs = s.allocs := by
  simp only [State.busWrite]; repeat' split
  all_goals simp

@[simp] theorem State.writeVia_allocs (s : State) (c : Instr) (sp : Space) (off w v : Nat) : (State.writeVia s c sp off w v).allocs = s.allocs := by
  simp only [State.writeVia]; repeat' split
  all_goals simp

@[simp] theorem State.readVia_allocs (s : State) (c : Instr) (sp : Space) (off w : Nat) : (State.readVia s c sp off w).allocs = s.allocs := by
  simp only [State.readVia]; repeat' split
  all_goals simp

@[simp] theorem State.doorVia_allocs (s : State) (c : Instr) (d : Door) (k v : Nat) : (State.doorVia s c d k v).allocs = s.allocs := by
  unfold State.doorVia; split <;> simp

@[simp] theorem State.monAnswer_allocs (s : State) (lines : List (List Nat)) (e : Option MonErr) : (State.monAnswer s lines e).allocs = s.allocs := by
  simp [State.monAnswer]

@[simp] theorem State.monRefuse_allocs (s : State) (e : MonErr) : (State.monRefuse s e).allocs = s.allocs := by
  simp [State.monRefuse]

@[simp] theorem State.view_allocs (s : State) (off w : Nat) : (s.view off w).2.allocs = s.allocs := by simp [State.view]

@[simp] theorem State.monRead_allocs (s : State) (off w n : Nat) : (s.monRead off w n).2.allocs = s.allocs := by
  induction n generalizing s off with
  | zero => rfl
  | succ n ih => simp [State.monRead, ih]

@[simp] theorem State.monList_allocs (s : State) (l : List (Nat × Nat)) : (s.monList l).2.allocs = s.allocs := by
  induction l generalizing s with
  | nil => rfl
  | cons a t ih => simp [State.monList, ih]

@[simp] theorem State.monLines_allocs (s : State) (l : List (List (Nat × Nat))) : (s.monLines l).2.allocs = s.allocs := by
  induction l generalizing s with
  | nil => rfl
  | cons a t ih => simp [State.monLines, ih]

@[simp] theorem answerWith_allocs (x : List (List Nat) × State) : (answerWith x).allocs = x.2.allocs := by
  simp [answerWith]

@[simp] theorem State.monVersion_allocs (s : State) : (State.monVersion s).allocs = s.allocs := by
  simp [State.monVersion]

@[simp] theorem State.monHeartbeat_allocs (s : State) : (State.monHeartbeat s).allocs = s.allocs := by
  simp [State.monHeartbeat]

@[simp] theorem State.monRings_allocs (s : State) (l : List Nat) : (s.monRings l).2.allocs = s.allocs := by
  induction l generalizing s with
  | nil => rfl
  | cons a t ih => simp [State.monRings, ih]

@[simp] theorem State.monDo_allocs (s : State) (c : MonCmd) : (State.monDo s c).allocs = s.allocs := by
  unfold State.monDo; split <;> simp

@[simp] theorem State.monitor_allocs (s : State) (c : MonCmd) : (State.monitor s c).allocs = s.allocs := by
  simp only [State.monitor]; repeat' split
  all_goals simp

@[simp] theorem State.monRow_allocs (s : State) (c : MonCmd) : (State.monRow s c).allocs = s.allocs := by
  unfold State.monRow; split <;> simp

@[simp] theorem State.monLine_allocs (s : State) (l : List Nat) : (State.monLine s l).allocs = s.allocs := by
  simp only [State.monLine]; repeat' split
  all_goals simp

@[simp] theorem State.setLine_allocs (s : State) (l : List Nat) (cr : Bool) : (State.setLine s l cr).allocs = s.allocs := by
  rfl

@[simp] theorem State.monChar_allocs (s : State) (c : Nat) : (State.monChar s c).allocs = s.allocs := by
  simp only [State.monChar]; repeat' split
  all_goals simp

@[simp] theorem State.scramble_allocs (s : State) (a : Alloc) : (State.scramble s a).allocs = s.allocs := by
  rfl

@[simp] theorem State.loadAdapter_allocs (s : State) (r : Nat) (c : Cmd) (a : Alloc) (v : Variant) (clear : Blob) : (State.loadAdapter s r c a v clear).allocs = s.allocs := by
  simp [State.loadAdapter]

@[simp] theorem State.register_allocs (s : State) (r : Nat) (c : Cmd) (io : HostIo) (d : VarDesc) (a : Alloc) (key img : Nat) (clear : Blob) :
  (s.register r c io d a key img clear).allocs = s.allocs := by
  unfold State.register
  dsimp only
  repeat' split
  · simp
  · rw [State.answer_allocs] <;> simp
  · rw [State.answer_allocs]
    · simp
    · intro t; rfl

@[simp] theorem State.unwrapAndRegister_allocs (s : State) (r : Nat) (c : Cmd) (io : HostIo) (d : VarDesc) (a : Alloc) (b : Blob) : (State.unwrapAndRegister s r c io d a b).allocs = s.allocs := by
  simp only [State.unwrapAndRegister]; repeat' split
  all_goals simp

@[simp] theorem State.dropSlices_allocs (s : State) (v : Nat) : (State.dropSlices s v).allocs = s.allocs := by
  rfl

@[simp] theorem State.commitUpdate_allocs (s : State) (r id : Nat) (c : Cmd) (v : Variant) (d : VarDesc) (clear : Option Blob) : (State.commitUpdate s r id c v d clear).allocs = s.allocs := by
  simp only [State.commitUpdate]; repeat' split
  all_goals simp

@[simp] theorem State.unchange_allocs (s : State) (id : Nat) : (State.unchange s id).allocs = s.allocs := by
  rfl

@[simp] theorem State.runUpdate_allocs (s : State) (r id : Nat) (c : Cmd) (io : HostIo) (v : Variant)  : (s.runUpdate r id c io v).allocs = s.allocs := by
  unfold State.runUpdate
  apply State.withData_allocs
  intro t b
  split
  · simp
  · dsimp only
    repeat' split
    all_goals simp

@[simp] theorem State.runDrop_allocs (s : State) (r id : Nat) (v : Variant) : (State.runDrop s r id v).allocs = s.allocs := by
  simp [State.runDrop]

@[simp] theorem State.changeOrWait_allocs (s : State) (r id : Nat) (c : Cmd) (run : State → State) (hrun : ∀ t , (run t ).allocs = t.allocs) : (State.changeOrWait s r id c run).allocs = s.allocs := by
  simp only [State.changeOrWait]; repeat' split
  all_goals simp [hrun]

@[simp] theorem State.storeCkpt_allocs (s : State) (c : Ckpt) : (State.storeCkpt s c).allocs = s.allocs := by
  simp only [State.storeCkpt]; repeat' split
  all_goals simp

@[simp] theorem State.saveDone_allocs (s : State) (u : Nat) (q : Preempt) (b : Blob) : (State.saveDone s u q b).allocs = s.allocs := by
  simp [State.saveDone]

@[simp] theorem State.offer_allocs (s : State) (c : Instr) : (State.offer s c).allocs = s.allocs := by
  rfl

@[simp] theorem State.withFetchWord_allocs (s : State) (nbits w : Nat) : (State.withFetchWord s nbits w).allocs = s.allocs := by
  rfl

/-! ### `topo` -/

@[simp] theorem foldl_topo {β : Type} (f : State → β → State) (l : List β) (s : State) (h : ∀ t x, (f t x).topo = t.topo) :
    (l.foldl f s).topo = s.topo := by induction l generalizing s with | nil => rfl | cons a l ih => simp [ih, h]

@[simp] theorem State.logPage_topo (s : State) (f page : Nat) : (State.logPage s f page).topo = s.topo := by
  simp only [State.logPage]; repeat' split
  all_goals simp

@[simp] theorem State.signalCq_topo (s : State) (q : Nat) : (State.signalCq s q).topo = s.topo := by
  unfold State.signalCq; split <;> simp

@[simp] theorem State.moraine_topo (s : State) (f n : Nat) : (State.moraine s f n).topo = s.topo := by
  rfl

@[simp] theorem State.releaseRefused_topo (s : State) (r : Nat) : (State.releaseRefused s r).topo = s.topo := by
  unfold State.releaseRefused; split <;> simp

@[simp] theorem State.endCmd_topo (s : State) (r : Nat) (st : Status) : (State.endCmd s r st).topo = s.topo := by
  simp [State.endCmd]

@[simp] theorem State.dropStreams_topo (s : State) (r : Nat) : (State.dropStreams s r).topo = s.topo := by
  rfl

@[simp] theorem State.crevMap_topo (s : State) (p : Crev → Bool) (f : Crev → Crev) : (State.crevMap s p f).topo = s.topo := by
  rfl

@[simp] theorem State.crevLeave_topo (s : State) (r : Nat) : (State.crevLeave s r).topo = s.topo := by
  rfl

@[simp] theorem State.failCmd_topo (s : State) (r : Nat) (st : Status) : (State.failCmd s r st).topo = s.topo := by
  unfold State.failCmd; split <;> simp

@[simp] theorem State.failAll_topo (s : State) (l : List Nat) (st : Status) : (State.failAll s l st).topo = s.topo := by
  simp [State.failAll]

@[simp] theorem State.sendFloe_topo (s : State) (link : Nat) (m : FloeMsg) : (State.sendFloe s link m).topo = s.topo := by
  rfl

@[simp] theorem State.sendUart_topo (s : State) (l : List Nat) : (State.sendUart s l).topo = s.topo := by
  rfl

@[simp] theorem State.beginWake_topo (s : State) : (State.beginWake s).topo = s.topo := by
  rfl

@[simp] theorem State.startWake_topo (s : State) (src : WakeSrc) : (State.startWake s src).topo = s.topo := by
  unfold State.startWake; split <;> simp

@[simp] theorem State.config_topo (s : State) (c : Instr) (f : State → State) (hf : ∀ t , (f t ).topo = t.topo) : (State.config s c f).topo = s.topo := by
  simp only [State.config]; repeat' split
  all_goals simp [hf]

@[simp] theorem State.abortRead_topo (s : State) (f : Nat) : (State.abortRead s f).topo = s.topo := by
  rfl

@[simp] theorem State.access_topo (s : State) (c : Instr) (read : Bool) (f : State → State) (hf : ∀ t , (f t ).topo = t.topo) : (State.access s c read f).topo = s.topo := by
  simp only [State.access]; repeat' split
  all_goals simp [hf]

@[simp] theorem State.setFkt_topo (s : State) (tier frame : Nat) (e : Fkt) : (State.setFkt s tier frame e).topo = s.topo := by
  unfold State.setFkt; split <;> simp

@[simp] theorem State.clearFkt_topo (s : State) (tier frame : Nat) : (State.clearFkt s tier frame).topo = s.topo := by
  unfold State.clearFkt; split <;> simp

@[simp] theorem State.fillKey_topo (s : State) (k : Nat) (owner : Option Nat) : (State.fillKey s k owner).topo = s.topo := by
  rfl

@[simp] theorem State.dropKey_topo (s : State) (k : Nat) : (State.dropKey s k).topo = s.topo := by
  rfl

@[simp] theorem State.modSlot_topo (s : State) (k : Nat) (f : VSlot → VSlot) : (State.modSlot s k f).topo = s.topo := by
  rfl

theorem State.newBlock_topo {s s' : State} {t : Nat} (h : s.newBlock t = some s') : s'.topo = s.topo := by
  simp only [State.newBlock] at h
  by_cases hn : s.varve.blocksIn t % 29 ≠ 0
  · rw [if_pos hn] at h; cases h; rfl
  · rw [if_neg hn] at h; obtain ⟨f, _, rfl⟩ := Option.map_eq_some_iff.mp h; simp

@[simp] theorem State.useSlot_topo (s : State) (k tier frame key : Nat) : (State.useSlot s k tier frame key).topo = s.topo := by
  rfl

theorem State.protect_topo {s s' : State} {tier frame key : Nat} (h : s.protect tier frame key = some s') : s'.topo = s.topo := by
  simp only [State.protect] at h
  split at h
  · cases h; simp
  · split at h
    · cases h
    · obtain ⟨t, ht, rfl⟩ := Option.map_eq_some_iff.mp h; simp [State.newBlock_topo ht]

theorem State.protectAll_topo {tier key : Nat} {l : List Nat} {s s' : State} (h : State.protectAll tier key l s = some s') : s'.topo = s.topo := by
  induction l generalizing s with
  | nil => cases h; rfl
  | cons f t ih =>
    simp only [State.protectAll] at h
    split at h
    · cases h
    · rename_i s2 h2; rw [ih h]; simp [State.protect_topo h2]

theorem State.takeFrames_topo {s s' : State} {tier : Nat} {e : Fkt} {l : List Nat} (h : s.takeFrames tier e l = some s') : s'.topo = s.topo := by
  simp only [State.takeFrames] at h
  split at h
  · rw [State.protectAll_topo h]; simp
  · cases h; simp

@[simp] theorem State.forgetFrame_topo (s : State) (tier frame : Nat) : (State.forgetFrame s tier frame).topo = s.topo := by
  rfl

@[simp] theorem State.releaseFrame_topo (s : State) (tier frame : Nat) : (State.releaseFrame s tier frame).topo = s.topo := by
  simp only [State.releaseFrame]; repeat' split
  all_goals simp

@[simp] theorem State.setPage_topo (s : State) (k p : Nat) (c : PageCtr) : (State.setPage s k p c).topo = s.topo := by
  simp only [State.setPage]; repeat' split
  all_goals simp

@[simp] theorem State.leaveWalk_topo (s : State) (key k p : Nat) : (State.leaveWalk s key k p).topo = s.topo := by
  rfl

@[simp] theorem State.chunkFetch_topo (s : State) (tier off : Nat) : (State.chunkFetch s tier off).topo = s.topo := by
  unfold State.chunkFetch; split <;> simp

@[simp] theorem State.chunkStore_topo (s : State) (tier off : Nat) : (State.chunkStore s tier off).topo = s.topo := by
  unfold State.chunkStore; split <;> simp

@[simp] theorem State.recrypt_topo (s : State) (k p : Nat) (c : PageCtr) : (State.recrypt s k p c).topo = s.topo := by
  simp only [State.recrypt]; repeat' split
  all_goals simp

@[simp] theorem State.endWalk_topo (s : State) (key : Nat) : (State.endWalk s key).topo = s.topo := by
  simp only [State.endWalk]; repeat' split
  all_goals try simp
  all_goals (apply foldl_topo; intro t x; try dsimp only)
  all_goals repeat' split
  all_goals first | (simp; done) | (apply foldl_topo; intro t x; (try dsimp only); (repeat' split) <;> simp)

@[simp] theorem State.startRekey_topo (s : State) (key : Nat) : (State.startRekey s key).topo = s.topo := by
  rfl

@[simp] theorem State.rekeyPage_topo (s : State) (key k p : Nat) (c : PageCtr) : (State.rekeyPage s key k p c).topo = s.topo := by
  simp only [State.rekeyPage]; repeat' split
  all_goals simp

@[simp] theorem State.reencrypt_topo (s : State) (k p : Nat) (v : VSlot) : (State.reencrypt s k p v).topo = s.topo := by
  simp only [State.reencrypt]; repeat' split
  all_goals simp

@[simp] theorem State.bumpMinor_topo (s : State) (k p g : Nat) : (State.bumpMinor s k p g).topo = s.topo := by
  unfold State.bumpMinor; split <;> simp

@[simp] theorem State.glazeWrite_topo (s : State) (tier off len : Nat) : (State.glazeWrite s tier off len).topo = s.topo := by
  simp only [State.glazeWrite]; repeat' split
  all_goals simp

@[simp] theorem State.writeNode_topo (s : State) (level pos : Nat) : (State.writeNode s level pos).topo = s.topo := by
  unfold State.writeNode; split <;> simp

@[simp] theorem State.halt_topo (s : State) (r : Seal) : (State.halt s r).topo = s.topo := by
  unfold State.halt; split <;> simp

@[simp] theorem State.append_topo (s : State) (f : Nat) (r : Receipt) : (State.append s f r).topo = s.topo := by
  simp only [State.append]; repeat' split
  all_goals simp

@[simp] theorem State.persistPut_topo (s : State) (o : Nat) (b : Blob) : (State.persistPut s o b).topo = s.topo := by
  rfl

@[simp] theorem State.putHeader_topo (s : State) (clean : Bool) : (State.putHeader s clean).topo = s.topo := by
  rfl

@[simp] theorem State.persistOne_topo (s : State) (x : Receipt) : (State.persistOne s x).topo = s.topo := by
  unfold State.persistOne
  dsimp only
  rw [State.putHeader_topo]
  simp

@[simp] theorem State.restartDue_topo (s : State) (f : Nat) : (State.restartDue s f).topo = s.topo := by
  unfold State.restartDue; split <;> simp

@[simp] theorem State.persistAll_topo (s : State) : (State.persistAll s).topo = s.topo := by
  simp [State.persistAll]

@[simp] theorem State.regionWrite_topo (s : State) (off : Nat) (b : Blob) : (State.regionWrite s off b).topo = s.topo := by
  simp [State.regionWrite]

@[simp] theorem State.regionPut_topo (s : State) (off : Nat) (b : Blob) : (State.regionPut s off b).topo = s.topo := by
  simp only [State.regionPut]; repeat' split
  all_goals try simp
  all_goals (apply foldl_topo; intro t x; try dsimp only)
  all_goals repeat' split
  all_goals first | (simp; done) | (apply foldl_topo; intro t x; (try dsimp only); (repeat' split) <;> simp)

@[simp] theorem State.placeTables_topo (s : State) (x : Nat) (ls : List Leaf) : (State.placeTables s x ls).topo = s.topo := by
  rfl

@[simp] theorem State.putTables_topo (s : State) (x : Nat) (ls : List Leaf) : (State.putTables s x ls).topo = s.topo := by
  simp [State.putTables]

@[simp] theorem State.crevWrite_topo (s : State) (r : Crev) : (State.crevWrite s r).topo = s.topo := by
  rfl

@[simp] theorem State.crevPost_topo (s : State) (r0 : Crev) : (State.crevPost s r0).topo = s.topo := by
  simp only [State.crevPost]; repeat' split
  all_goals simp

@[simp] theorem State.crevPostWaiting_topo (s : State) : (State.crevPostWaiting s).topo = s.topo := by
  unfold State.crevPostWaiting; split <;> simp

@[simp] theorem State.tileFault_topo (s : State) (r : Nat) (c : Cmd) (ls : List Leaf) (engines access missingVa : Nat) (ranges : List (Nat × Nat)) (early : Bool) : (State.tileFault s r c ls engines access missingVa ranges early).topo = s.topo := by
  simp only [State.tileFault]; repeat' split
  all_goals simp

@[simp] theorem State.rightsFault_topo (s : State) (c : Cmd) (engines access : Nat) (va : Nat) (ranges lack : List (Nat × Nat)) : (State.rightsFault s c engines access va ranges lack).topo = s.topo := by
  simp [State.rightsFault]

@[simp] theorem State.crevResolve_topo (s : State) (c lo hi : Nat) : (State.crevResolve s c lo hi).topo = s.topo := by
  unfold State.crevResolve; split <;> simp

@[simp] theorem State.crevWithdrawCtx_topo (s : State) (c : Nat) : (State.crevWithdrawCtx s c).topo = s.topo := by
  rfl

@[simp] theorem State.invalidate_topo (s : State) (c lo hi : Nat) (cmd : Option Nat) (change : Option Change) : (State.invalidate s c lo hi cmd change).topo = s.topo := by
  rfl

@[simp] theorem State.fktDeny_topo (s : State) (q : MemReq) : (State.fktDeny s q).topo = s.topo := by
  simp only [State.fktDeny]; repeat' split
  all_goals simp

@[simp] theorem State.hotCount_topo (s : State) (tier offset : Nat) (epoch : Option Nat) : (State.hotCount s tier offset epoch).topo = s.topo := by
  simp only [State.hotCount]; repeat' split
  all_goals simp

@[simp] theorem State.refuseBad_topo (s : State) (q : MemReq) : (State.refuseBad s q).topo = s.topo := by
  unfold State.refuseBad; split <;> simp

@[simp] theorem State.chunkWrite_topo (s : State) (q : MemReq) (data : Blob) : (State.chunkWrite s q data).topo = s.topo := by
  simp only [State.chunkWrite]; repeat' split
  all_goals simp

@[simp] theorem State.putGranule_topo (s : State) (q : MemReq) (data : Blob) : (State.putGranule s q data).topo = s.topo := by
  simp only [State.putGranule]; repeat' split
  all_goals simp

@[simp] theorem State.portWrite_topo (s : State) (q : MemReq) (data : Blob) : (State.portWrite s q data).topo = s.topo := by
  simp only [State.portWrite]; repeat' split
  all_goals try simp
  all_goals (apply foldl_topo; intro t x; try dsimp only)
  all_goals repeat' split
  all_goals first | (simp; done) | (apply foldl_topo; intro t x; (try dsimp only); (repeat' split) <;> simp)

@[simp] theorem State.chunkRead_topo (s : State) (q : MemReq) : (State.chunkRead s q).topo = s.topo := by
  simp only [State.chunkRead]; repeat' split
  all_goals simp

@[simp] theorem State.getGranule_topo (s : State) (q : MemReq) : (s.getGranule q).2.topo = s.topo := by
  simp only [State.getGranule]; repeat' split
  all_goals simp

/-- A fold over a pair of bytes and state. -/
theorem foldPair_topo {β : Type} (f : Blob × State → β → Blob × State) (l : List β) (x : Blob × State) (h : ∀ y a, (f y a).2.topo = y.2.topo) :
    (l.foldl f x).2.topo = x.2.topo := by induction l generalizing x with | nil => rfl | cons a l ih => simp [ih, h]

@[simp] theorem State.portRead_topo (s : State) (q : MemReq) (n : Nat) : (s.portRead q n).2.topo = s.topo := by
  simp only [State.portRead]; rw [foldPair_topo]; intro y a; (try dsimp only); split <;> simp

@[simp] theorem State.readVa_topo (s : State) (r : Nat) (c : Cmd) (ls : List Leaf) (va len : Nat) : (s.readVa r c ls va len).2.topo = s.topo := by
  simp only [State.readVa]; rw [foldPair_topo]; intro y a; (try dsimp only); repeat' split
  all_goals simp

@[simp] theorem putFrames_topo (a : Alloc) (q : MemReq) (f off : Nat) (b : Blob) (s : State) : (putFrames a q f off b s).topo = s.topo := by
  induction f generalizing off b s with
  | zero => rfl
  | succ f ih => simp only [putFrames]; split <;> simp [ih]

@[simp] theorem getFrames_topo (a : Alloc) (q : MemReq) (f off n : Nat) (s : State) : (getFrames a q f off n s).2.topo = s.topo := by
  induction f generalizing off n s with
  | zero => rfl
  | succ f ih => simp only [getFrames]; split <;> simp [ih]

@[simp] theorem State.allocPut_topo (s : State) (a : Alloc) (q : MemReq) (off : Nat) (b : Blob) : (State.allocPut s a q off b).topo = s.topo := by
  simp [State.allocPut]

@[simp] theorem State.allocGet_topo (s : State) (a : Alloc) (q : MemReq) (off n : Nat) : (s.allocGet a q off n).2.topo = s.topo := by
  simp [State.allocGet]

@[simp] theorem State.pageWritten_topo (s : State) (p : Page) (mem : List Host.Cell) : (State.pageWritten s p mem).topo = s.topo := by
  unfold State.pageWritten
  rw [foldl_topo]
  intro t o; simp

@[simp] theorem State.zeroPage_topo (s : State) (p : Page) : (State.zeroPage s p).topo = s.topo := State.pageWritten_topo _ _ _

@[simp] theorem State.copyPage_topo (s : State) (m : Move) : (State.copyPage s m).topo = s.topo := by
  unfold State.copyPage
  rw [State.pageWritten_topo, foldl_topo]
  intro t o; split <;> simp

@[simp] theorem State.doMoves_topo (s : State) (mv : List Move) (fresh : List Page) : (State.doMoves s mv fresh).topo = s.topo := by
  simp [State.doMoves]

@[simp] theorem State.syncSeq_topo (s : State) (i : Nat) (q : Sequence) : (State.syncSeq s i q).topo = s.topo := by
  simp [State.syncSeq]

@[simp] theorem State.syncSeqs_topo (s : State) : (State.syncSeqs s).topo = s.topo := by
  simp [State.syncSeqs]

theorem State.reserve_topo {s s' : State} {r seq n : Nat} {own : Option Nat} (h : s.reserve r seq n own = some s') : s'.topo = s.topo := by
  simp only [State.reserve] at h
  split at h
  · cases h
  · cases h; simp

@[simp] theorem State.fitBlocks_topo (s : State) (i : Nat) : (State.fitBlocks s i).topo = s.topo := by
  unfold State.fitBlocks; split <;> simp

@[simp] theorem State.unreserve_topo (s : State) (r : Nat) : (State.unreserve s r).topo = s.topo := by
  unfold State.unreserve; split <;> simp

@[simp] theorem State.freeSeqPages_topo (s : State) (i keep : Nat) : (State.freeSeqPages s i keep).topo = s.topo := by
  unfold State.freeSeqPages; split <;> simp

@[simp] theorem State.releaseSeq_topo (s : State) (i : Nat) : (State.releaseSeq s i).topo = s.topo := by
  simp [State.releaseSeq]

@[simp] theorem State.takeTokens_topo (s : State) (c : Cmd) (take : Bool) : (State.takeTokens s c take).topo = s.topo := by
  rfl

@[simp] theorem State.loosen_topo (s : State) (i : Nat) : (State.loosen s i).topo = s.topo := by
  simp only [State.loosen]; repeat' split
  all_goals try simp
  all_goals (apply foldl_topo; intro t x; try dsimp only)
  all_goals repeat' split
  all_goals first | (simp; done) | (apply foldl_topo; intro t x; (try dsimp only); (repeat' split) <;> simp)

@[simp] theorem State.snowEnd_topo (s : State) (r : Nat) (ok : Bool) : (State.snowEnd s r ok).topo = s.topo := by
  simp only [State.snowEnd]; repeat' split
  all_goals simp

theorem foldPass_topo {β : Type} (f : Pass → β → Pass) (l : List β) (p : Pass) (h : ∀ q a, (f q a).s.topo = q.s.topo) :
    (l.foldl f p).s.topo = p.s.topo := by induction l generalizing p with | nil => rfl | cons a l ih => simp [ih, h]

@[simp] theorem Pass.grow_topo (p : Pass) (e : Nat × Cmd) : (p.grow e).s.topo = p.s.topo := by
  simp only [Pass.grow]; repeat' split
  · rfl
  · simp
  · rw [foldPass_topo]; intro q i; (try dsimp only); split
    · rfl
    · split
      · rename_i h; exact State.reserve_topo h
      · rfl

@[simp] theorem foldGrow_topo (l : List (Nat × Cmd)) (p : Pass) : (l.foldl Pass.grow p).s.topo = p.s.topo := foldPass_topo _ _ _ Pass.grow_topo

@[simp] theorem State.startStep_topo (s : State) (r : Nat) (c : Cmd) : (State.startStep s r c).topo = s.topo := by
  rfl

@[simp] theorem State.createSeq_topo (s : State) (r : Nat) (c : Cmd) : (State.createSeq s r c).topo = s.topo := by
  simp only [State.createSeq]; repeat' split
  all_goals simp

theorem Pass.join_topo (p : Pass) (e : Nat × Cmd) : (p.join e).s.topo = p.s.topo := by
  have h1 : ∀ (l : List Nat) (p : Pass), (l.foldl (fun (q : Pass) i =>
      if q.cut.isSome then q
      else match q.s.reserve e.1 i (q.s.lacks e.1 e.2 i) none with
        | some s1 => { q with s := s1 }
        | none => { q with cut := some e.1 }) p).s.topo = p.s.topo := by
    intro l p
    apply foldPass_topo
    intro q i
    split
    · rfl
    · split
      · rename_i h; exact State.reserve_topo h
      · rfl
  unfold Pass.join
  dsimp only
  repeat' split
  all_goals first | rfl | exact h1 _ _ | (simp; done) | (simp; exact h1 _ _)

@[simp] theorem joinPhase_topo (l : List (Nat × Cmd)) (p : Pass) : (joinPhase l p).s.topo = p.s.topo := by
  induction l generalizing p with
  | nil => rfl
  | cons e t ih => simp only [joinPhase]; repeat' split
                   all_goals simp [ih, Pass.join_topo]

@[simp] theorem Pass.over_topo (p : Pass) (l : List (Nat × Cmd)) : (p.over l).s.topo = p.s.topo := by
  unfold Pass.over; simp

@[simp] theorem State.applyLeaves_topo (s : State) : (State.applyLeaves s).topo = s.topo := by
  simp only [State.applyLeaves]; repeat' split
  all_goals try simp
  all_goals (apply foldl_topo; intro t x; try dsimp only)
  all_goals repeat' split
  all_goals first | (simp; done) | (apply foldl_topo; intro t x; (try dsimp only); (repeat' split) <;> simp)

@[simp] theorem State.passOver_topo (s : State) (l : List (Nat × Cmd)) (cut : Option Nat) : (s.passOver l cut).s.topo = s.topo := by
  have h : ∀ m : List (Nat × Cmd), (({ s := s } : Pass).over m).s.topo = s.topo := fun m => Pass.over_topo _ _
  unfold State.passOver
  dsimp only
  split
  · exact h _
  · split
    · exact h _
    · exact (Pass.over_topo _ _).trans (h _)

@[simp] theorem State.pass_topo (s : State) : s.pass.topo = s.topo := by
  have h : ∀ (l : List (Nat × Cmd)) (t : State), (l.foldl (fun (t : State) (e : Nat × Cmd) => t.unreserve e.1) t).topo = t.topo :=
    fun l t => foldl_topo _ _ _ (by simp)
  unfold State.pass
  rw [State.syncSeqs_topo]
  dsimp only
  split <;> simp [h]

@[simp] theorem writeAdapter_topo (a : Alloc) (q : MemReq) (l : List Placed) (b : Blob) (s : State) : (writeAdapter a q l b s).topo = s.topo := by
  induction l generalizing b s with
  | nil => rfl
  | cons p t ih => simp only [writeAdapter]; rw [ih]; simp

@[simp] theorem State.zeroTraining_topo (s : State) (a : Alloc) (q : MemReq) (lay : List Placed × Nat × Nat) (saveBytes : Nat) (grads : Bool) : (State.zeroTraining s a q lay saveBytes grads).topo = s.topo := by
  simp [State.zeroTraining]

@[simp] theorem State.zeroGradients_topo (s : State) (r : Nat) (c : Cmd) : (State.zeroGradients s r c).topo = s.topo := by
  simp only [State.zeroGradients]; repeat' split
  all_goals try simp
  all_goals (apply foldl_topo; intro t x; try dsimp only)
  all_goals repeat' split
  all_goals first | (simp; done) | (apply foldl_topo; intro t x; (try dsimp only); (repeat' split) <;> simp)

@[simp] theorem State.readSlice_topo (s : State) (e r : Nat) (c : Cmd) (x : Slice) : (s.readSlice e r c x).topo = s.topo := by
  unfold State.readSlice
  repeat' split
  all_goals first | rfl | exact foldl_topo _ _ _ (by simp)

@[simp] theorem State.fetchSlice_topo (s : State) (e r : Nat) (c : Cmd) (x : Slice) : (State.fetchSlice s e r c x).topo = s.topo := by
  simp only [State.fetchSlice]; repeat' split
  all_goals simp

@[simp] theorem State.needSlice_topo (s : State) (e r : Nat) (c : Cmd) (x : Slice) : (State.needSlice s e r c x).topo = s.topo := by
  simp only [State.needSlice]; repeat' split
  all_goals simp

@[simp] theorem State.segmentSlices_topo (s : State) (e r : Nat) (c : Cmd) (xs : List Slice) : (State.segmentSlices s e r c xs).topo = s.topo := by
  simp [State.segmentSlices]

@[simp] theorem State.assign_topo (s : State) (t : Tap) (c : Cmd) : (State.assign s t c).topo = s.topo := by
  simp only [State.assign]; repeat' split
  all_goals simp

@[simp] theorem State.queueTap_topo (s : State) (t : Tap) (c : Cmd) : (State.queueTap s t c).topo = s.topo := by
  simp [State.queueTap]

@[simp] theorem State.refetch_topo (s : State) (t : Tap) (c : Cmd) : (State.refetch s t c).topo = s.topo := by
  simp [State.refetch]

@[simp] theorem State.siltClear_topo (s : State) (n : Nat) : (State.siltClear s n).topo = s.topo := by
  simp only [State.siltClear]; repeat' split
  all_goals try simp
  all_goals (apply foldl_topo; intro t x; try dsimp only)
  all_goals repeat' split
  all_goals first | (simp; done) | (apply foldl_topo; intro t x; (try dsimp only); (repeat' split) <;> simp)

@[simp] theorem State.answerNull_topo (s : State) (t : Tap) : (State.answerNull s t).topo = s.topo := by
  unfold State.answerNull; split <;> simp

@[simp] theorem State.addArray_topo (s : State) (a : Alloc) (q : MemReq) (off first : Nat) (vals : List Nat) : (State.addArray s a q off first vals).topo = s.topo := by
  unfold State.addArray; split <;> simp

@[simp] theorem State.saveRows_topo (s : State) (t : Tap) (c : Cmd) (rows : List Nat) (id k : Nat) (v : Variant) (a : Alloc) : (State.saveRows s t c rows id k v a).topo = s.topo := by
  simp [State.saveRows]

@[simp] theorem State.savedRows_topo (s : State) (t : Tap) (c : Cmd) (rows : List Nat) (id k : Nat) (v : Variant) (a : Alloc) :
    (s.savedRows t c rows id k v a).2.topo = s.topo := by
  have go : ∀ (l : List Nat) (y : List (List Fp) × State), (l.foldl (fun y i =>
      let x := y.2.allocGet a { a.req y.2.nodeId t.cmd c with epoch := some t.epoch } (v.savePlace c id k (t.first + i) + actBytes t.fmt t.ansFirst)
        (actBytes t.fmt t.ansCount)
      (y.1 ++ [readActs t.fmt t.ansCount x.1], x.2)) y).2.topo = y.2.topo := by
    intro l
    induction l with
    | nil => intro y; rfl
    | cons i l ih => intro y; simp [ih]
  exact go _ _

@[simp] theorem State.accumulateFor_topo (s : State) (t : Tap) (c : Cmd) (x : Arith) (id : Nat) : (s.accumulateFor t c x id).topo = s.topo := by
  have h3 : ∀ (l : List Comp) (u : State) (g : State → Comp → State) (_ : ∀ u c, (g u c).topo = u.topo), (l.foldl g u).topo = u.topo :=
    fun l u g h => foldl_topo g l u h
  unfold State.accumulateFor
  repeat' split
  all_goals first
    | rfl
    | (dsimp only
       simp only [State.saveRows_topo]
       rw [foldl_topo]
       · simp
       · intro u z; split <;> simp)
    | (dsimp only
       rw [foldl_topo]
       · simp
       · intro u z; split <;> simp)
    | (dsimp only
       rw [foldl_topo]
       intro u z; split <;> simp)
    | (dsimp only
       simp only [State.saveRows_topo]
       rw [foldl_topo]
       intro u z; split <;> simp)

@[simp] theorem State.accumulateTap_topo (s : State) (t : Tap) (c : Cmd) : (State.accumulateTap s t c).topo = s.topo := by
  unfold State.accumulateTap; split <;> simp

@[simp] theorem State.updateComp_topo (s : State) (q : MemReq) (v : Variant) (a : Alloc) (o : Opt) (stoch : Bool) (t base k : Nat) (cmp : Comp) : (State.updateComp s q v a o stoch t base k cmp).topo = s.topo := by
  unfold State.updateComp; split <;> simp

@[simp] theorem State.gradBad_topo (s : State) (q : MemReq) (v : Variant) (a : Alloc) : (s.gradBad q v a).2.topo = s.topo := by
  have h : ∀ (l : List Placed) (x : Bool × State), (l.foldl (fun (x : Bool × State) p =>
      let b := x.2.allocGet a q p.off (roundUp 512 (4 * p.elems))
      (x.1 || (List.range p.elems).any fun i => f32Bad (fld b.1 (4 * i) 4), b.2)) x).2.topo = x.2.topo := by
    intro l
    induction l with
    | nil => intro x; rfl
    | cons p l ih => intro x; rw [List.foldl_cons, ih]; simp
  exact h _ _

@[simp] theorem State.updateVariant_topo (s : State) (r : Nat) (c : Cmd) (o : Opt) (stoch : Bool) (id : Nat) :
    (s.updateVariant r c o stoch id).topo = s.topo := by
  have h : ∀ (g : Nat) (q : MemReq) (v : Variant) (a : Alloc) (t : Nat) (l : List (VarEntry × Nat)) (u : State),
      (l.foldl (fun u e => e.1.trained.foldl (fun w cmp => w.updateComp q v a o stoch t g e.2 cmp) u) u).topo = u.topo := by
    intro g q v a t l u
    rw [foldl_topo]; intro u e; rw [foldl_topo]; intro u e; simp
  simp only [State.updateVariant]
  repeat' split
  all_goals first | rfl | (simp; done) | exact h _ _ _ _ _ _ _

@[simp] theorem State.tear_topo (s : State) (c : Cmd) : (State.tear s c).topo = s.topo := by
  rfl

@[simp] theorem State.withdrawFns_topo (s : State) (r : Nat) : (State.withdrawFns s r).topo = s.topo := by
  rfl

@[simp] theorem State.withdrawUnits_topo (s : State) (r : Nat) : (State.withdrawUnits s r).topo = s.topo := by
  rfl

@[simp] theorem State.freeIdx_topo (s : State) (l : List Nat) : (State.freeIdx s l).topo = s.topo := by
  rfl

@[simp] theorem State.absentImage_topo (s : State) (i : Nat) : (State.absentImage s i).topo = s.topo := by
  simp only [State.absentImage]; repeat' split
  all_goals simp

@[simp] theorem State.dropLoadVersion_topo (s : State) (l : Load) : (State.dropLoadVersion s l).topo = s.topo := by
  simp only [State.dropLoadVersion]; repeat' split
  all_goals simp

@[simp] theorem State.undrain_topo (s : State) (i : Nat) : (State.undrain s i).topo = s.topo := by
  unfold State.undrain; split <;> simp

@[simp] theorem State.withdrawLoad_topo (s : State) (r : Nat) : (State.withdrawLoad s r).topo = s.topo := by
  simp only [State.withdrawLoad]; repeat' split
  all_goals simp

@[simp] theorem State.withdraw_topo (s : State) (r : Nat) : (State.withdraw s r).topo = s.topo := by
  simp [State.withdraw]

@[simp] theorem State.pruneGraphs_topo (s : State) : (State.pruneGraphs s).topo = s.topo := by
  rfl

@[simp] theorem State.pruneImages_topo (s : State) : (State.pruneImages s).topo = s.topo := by
  simp only [State.pruneImages]; repeat' split
  all_goals simp

@[simp] theorem State.prune_topo (s : State) : (State.prune s).topo = s.topo := by
  simp [State.prune]

@[simp] theorem State.releaseSaves_topo (s : State) (r c : Nat) (ok : Bool) : (State.releaseSaves s r c ok).topo = s.topo := by
  simp only [State.releaseSaves]; repeat' split
  all_goals simp

@[simp] theorem State.finish_topo (s : State) (r : Nat) (st : Status) : (State.finish s r st).topo = s.topo := by
  simp only [State.finish]; repeat' split
  all_goals simp

@[simp] theorem State.discard_topo (s : State) (r : Nat) : (State.discard s r).topo = s.topo := by
  unfold State.discard; split <;> simp

@[simp] theorem State.drainIfIdle_topo (s : State) (r : Nat) : (State.drainIfIdle s r).topo = s.topo := by
  simp only [State.drainIfIdle]; repeat' split
  all_goals simp

@[simp] theorem State.fail_topo (s : State) (r : Nat) (st : Status) : (State.fail s r st).topo = s.topo := by
  simp [State.fail]

@[simp] theorem State.failList_topo (s : State) (l : List Nat) (st : Status) : (State.failList s l st).topo = s.topo := by
  simp [State.failList]

@[simp] theorem State.kill_topo (s : State) (r : Nat) (st : Status) : (State.kill s r st).topo = s.topo := by
  simp only [State.kill]; repeat' split
  all_goals simp

@[simp] theorem State.drivePhys_topo (s : State) (k : Nat) (release : Bool) : (State.drivePhys s k release).topo = s.topo := by
  rfl

@[simp] theorem State.driveBypass_topo (s : State) (k : Nat) (high : Bool) : (State.driveBypass s k high).topo = s.topo := by
  rfl

@[simp] theorem State.linkDown_topo (s : State) (n reason : Nat) : (State.linkDown s n reason).topo = s.topo := by
  simp [State.linkDown]

@[simp] theorem State.cutPassing_topo (s : State) (n : Nat) : (State.cutPassing s n).topo = s.topo := by
  rfl

@[simp] theorem State.dropLink_topo (s : State) (n reason : Nat) (joining : Bool) : (State.dropLink s n reason joining).topo = s.topo := by
  simp only [State.dropLink]; repeat' split
  all_goals simp

@[simp] theorem State.releaseRing_topo (s : State) (k reason : Nat) (failed : Bool) : (State.releaseRing s k reason failed).topo = s.topo := by
  simp [State.releaseRing]

@[simp] theorem State.beginJoin_topo (s : State) (k : Nat) : (State.beginJoin s k).topo = s.topo := by
  rfl

@[simp] theorem State.runReleases_topo (f : Nat) (s : State) : (State.runReleases f s).topo = s.topo := by
  induction f generalizing s with
  | zero => rfl
  | succ f ih => simp only [State.runReleases]; split <;> simp [ih]

@[simp] theorem State.ringCtl_topo (s : State) (k : Nat) (join : Bool) : (State.ringCtl s k join).topo = s.topo := by
  simp [State.ringCtl]

@[simp] theorem State.wantJoin_topo (s : State) (k : Nat) : (State.wantJoin s k).topo = s.topo := by
  unfold State.wantJoin; split <;> simp

@[simp] theorem State.sendFrame_topo (s : State) (n typ stream seq first : Nat) (payload : Blob) : (State.sendFrame s n typ stream seq first payload).topo = s.topo := by
  rfl

@[simp] theorem State.creditPassed_topo (s : State) (before : List TxItem) (after : List TxItem) : (State.creditPassed s before after).topo = s.topo := by
  simp only [State.creditPassed]; repeat' split
  all_goals try simp
  all_goals (apply foldl_topo; intro t x; try dsimp only)
  all_goals repeat' split
  all_goals first | (simp; done) | (apply foldl_topo; intro t x; (try dsimp only); (repeat' split) <;> simp)

@[simp] theorem State.sendData_topo (s : State) (n stream : Nat) : (State.sendData s n stream).topo = s.topo := by
  simp [State.sendData]

@[simp] theorem State.pumpFrames_topo (n f : Nat) (s : State) : (State.pumpFrames n f s).topo = s.topo := by
  induction f generalizing s with
  | zero => rfl
  | succ f ih => simp only [State.pumpFrames]; split <;> simp [ih]

@[simp] theorem State.pump_topo (s : State) (n : Nat) : (State.pump s n).topo = s.topo := by
  unfold State.pump; split <;> simp

@[simp] theorem State.toLink_topo (s : State) (n vc : Nat) (m : FloeMsg) : (State.toLink s n vc m).topo = s.topo := by
  simp [State.toLink]

@[simp] theorem State.startCensus_topo (s : State) (k : Nat) : (State.startCensus s k).topo = s.topo := by
  simp [State.startCensus]

@[simp] theorem State.linkMoved_topo (s : State) (k : Nat) : (State.linkMoved s k).topo = s.topo := by
  simp only [State.linkMoved]; repeat' split
  all_goals simp

@[simp] theorem State.loseLink_topo (s : State) (n reason : Nat) : (State.loseLink s n reason).topo = s.topo := by
  unfold State.loseLink; split <;> simp

@[simp] theorem State.retrain_topo (s : State) (n reason : Nat) (counted : Bool) : (State.retrain s n reason counted).topo = s.topo := by
  simp only [State.retrain]; repeat' split
  all_goals simp

@[simp] theorem State.resend_topo (s : State) (n : Nat) : (State.resend s n).topo = s.topo := by
  simp only [State.resend]; repeat' split
  all_goals simp

@[simp] theorem State.sendOn_topo (s : State) (r : Nat × Bool) (m : FloeMsg) : (State.sendOn s r m).topo = s.topo := by
  simp [State.sendOn]

@[simp] theorem State.floeDiscard_topo (s : State) : (State.floeDiscard s).topo = s.topo := by
  rfl

@[simp] theorem State.forward_topo (s : State) (link : Nat) (m : FloeMsg) : (State.forward s link m).topo = s.topo := by
  simp only [State.forward]; repeat' split
  all_goals simp

@[simp] theorem State.floeProtocol_topo (s : State) (n : Nat) : (State.floeProtocol s n).topo = s.topo := by
  rfl

@[simp] theorem State.answerMsg_topo (s : State) (m : FloeMsg) (typ status : Nat) (body : Blob) : (State.answerMsg s m typ status body).topo = s.topo := by
  unfold State.answerMsg; split <;> simp

@[simp] theorem State.endWork_topo (s : State) (q : MemReq) (st : Status) : (State.endWork s q st).topo = s.topo := by
  simp only [State.endWork]; repeat' split
  all_goals simp

@[simp] theorem State.unreachable_topo (s : State) (tag : Nat) (q : MemReq) : (State.unreachable s tag q).topo = s.topo := by
  simp [State.unreachable]

@[simp] theorem State.setRemote_topo (s : State) (tag : Nat) (x : Remote) : (State.setRemote s tag x).topo = s.topo := by
  rfl

@[simp] theorem State.sendRemote_topo (s : State) (tag : Nat) (x : Remote) : (State.sendRemote s tag x).topo = s.topo := by
  simp [State.sendRemote]

@[simp] theorem State.staleRemote_topo (s : State) (q : MemReq) : (State.staleRemote s q).topo = s.topo := by
  unfold State.staleRemote; split <;> simp

@[simp] theorem State.remoteIssue_topo (s : State) (q : MemReq) : (State.remoteIssue s q).topo = s.topo := by
  simp only [State.remoteIssue]; repeat' split
  all_goals simp

@[simp] theorem State.releaseHeld_topo (s : State) : (State.releaseHeld s).topo = s.topo := by
  simp only [State.releaseHeld]; repeat' split
  all_goals try simp
  all_goals (apply foldl_topo; intro t x; try dsimp only)
  all_goals repeat' split
  all_goals first | (simp; done) | (apply foldl_topo; intro t x; (try dsimp only); (repeat' split) <;> simp)

@[simp] theorem State.adoptCensus_topo (s : State) (k : Nat) (nodes : List Nat) : (State.adoptCensus s k nodes).topo = s.topo := by
  simp [State.adoptCensus]

@[simp] theorem State.linkUp_topo (s : State) (n farNode farLink : Nat) : (State.linkUp s n farNode farLink).topo = s.topo := by
  simp only [State.linkUp]; repeat' split
  all_goals simp

@[simp] theorem State.countFor_topo (s : State) (u x : Nat) (f : Cmd → Cmd) : (State.countFor s u x f).topo = s.topo := by
  rfl

@[simp] theorem State.sendPreempt_topo (s : State) (u x mode : Nat) : (State.sendPreempt s u x mode).topo = s.topo := by
  unfold State.sendPreempt; split <;> simp

@[simp] theorem State.stopStreams_topo (s : State) (u x : Nat) : (State.stopStreams s u x).topo = s.topo := by
  rfl

@[simp] theorem State.startStream_topo (s : State) (u r : Nat) (c : Cmd) (pass layer : Nat) (again : Bool) : (State.startStream s u r c pass layer again).topo = s.topo := by
  simp only [State.startStream]; repeat' split
  all_goals simp

@[simp] theorem State.marginLog_topo (s : State) (m : MarginEnt) : (State.marginLog s m).topo = s.topo := by
  simp only [State.marginLog]; repeat' split
  all_goals simp

@[simp] theorem State.layerDone_topo (s : State) (u : Nat) (w : Stream) (layer : Nat) : (State.layerDone s u w layer).topo = s.topo := by
  unfold State.layerDone; split <;> simp

@[simp] theorem State.modSave_topo (s : State) (x u : Nat) (f : SaveArea → SaveArea) : (State.modSave s x u f).topo = s.topo := by
  rfl

@[simp] theorem State.nowHolds_topo (s : State) (u x : Nat) : (State.nowHolds s u x).topo = s.topo := by
  rfl

@[simp] theorem State.resume_topo (s : State) (u x mode pass layer : Nat) : (State.resume s u x mode pass layer).topo = s.topo := by
  simp only [State.resume]; repeat' split
  all_goals simp

@[simp] theorem State.bringIn_topo (s : State) (u x : Nat) : (State.bringIn s u x).topo = s.topo := by
  simp only [State.bringIn]; repeat' split
  all_goals simp

@[simp] theorem State.switchOut_topo (s : State) (u x : Nat) : (State.switchOut s u x).topo = s.topo := by
  simp only [State.switchOut]; repeat' split
  all_goals simp

@[simp] theorem State.switchOn_topo (s : State) (u : Nat) : (State.switchOn s u).topo = s.topo := by
  simp only [State.switchOn]; repeat' split
  all_goals simp

@[simp] theorem State.grantTurn_topo (s : State) (u : Nat) (p : Pick) : (State.grantTurn s u p).topo = s.topo := by
  unfold State.grantTurn; split <;> simp

@[simp] theorem State.endTurn_topo (s : State) (u : Nat) : (State.endTurn s u).topo = s.topo := by
  rfl

@[simp] theorem State.cutTurn_topo (s : State) (u : Nat) : (State.cutTurn s u).topo = s.topo := by
  simp only [State.cutTurn]; repeat' split
  all_goals simp

@[simp] theorem State.noteRealtime_topo (s : State) (u : Nat) : (State.noteRealtime s u).topo = s.topo := by
  rfl

@[simp] theorem State.settleUnit_topo (s : State) (u : Nat) : (State.settleUnit s u).topo = s.topo := by
  simp only [State.settleUnit]; repeat' split
  all_goals simp

@[simp] theorem State.settle_topo (s : State) : (State.settle s).topo = s.topo := by
  simp [State.settle]

@[simp] theorem State.writeSlotStates_topo (s : State) (x : Nat) : (State.writeSlotStates s x).topo = s.topo := by
  unfold State.writeSlotStates; split <;> simp

@[simp] theorem State.swapInCtx_topo (s : State) (x : Nat) : (State.swapInCtx s x).topo = s.topo := by
  simp [State.swapInCtx]

@[simp] theorem State.freeSlots_topo (s : State) (x : Nat) : (State.freeSlots s x).topo = s.topo := by
  rfl

@[simp] theorem State.evictCtx_topo (s : State) (x : Nat) : (State.evictCtx s x).topo = s.topo := by
  simp [State.evictCtx]

@[simp] theorem State.unverifiable_topo (s : State) (level pos : Nat) (owner : Option Nat) : (State.unverifiable s level pos owner).topo = s.topo := by
  simp only [State.unverifiable]; repeat' split
  all_goals simp

@[simp] theorem State.runAdmin_topo (s : State) (r opc : Nat) (f : State → Cmd → State) (hf : ∀ t x0, (f t x0).topo = t.topo) : (State.runAdmin s r opc f).topo = s.topo := by
  simp only [State.runAdmin]; repeat' split
  all_goals simp [hf]

@[simp] theorem State.withData_topo (s : State) (r : Nat) (c : Cmd) (io : HostIo) (n : Nat) (f : State → Blob → State) (hf : ∀ t x0, (f t x0).topo = t.topo) : (State.withData s r c io n f).topo = s.topo := by
  simp only [State.withData]; repeat' split
  all_goals simp [hf]

@[simp] theorem State.answer_topo (s : State) (r : Nat) (c : Cmd) (io : HostIo) (b : Blob) (eff : State → State) (heff : ∀ t , (eff t ).topo = t.topo) : (State.answer s r c io b eff).topo = s.topo := by
  unfold State.answer; split <;> simp [heff]

@[simp] theorem State.failWith_topo (s : State) (r : Nat) (c : Cmd) (io : HostIo) (b : Blob) (st : Status) : (State.failWith s r c io b st).topo = s.topo := by
  simp [State.failWith]

@[simp] theorem State.completeEffect_topo (s : State) (x : Staged) : (State.completeEffect s x).topo = s.topo := by
  unfold State.completeEffect; split <;> simp

@[simp] theorem State.answerStaged_topo (s : State) (x : Staged) : (State.answerStaged s x).topo = s.topo := by
  unfold State.answerStaged; split <;> simp

@[simp] theorem State.completeEpochs_topo (f : Nat) (s : State) : (State.completeEpochs f s).topo = s.topo := by
  induction f generalizing s with
  | zero => rfl
  | succ f ih => simp only [State.completeEpochs]; repeat' split
                 all_goals simp [ih]

@[simp] theorem State.completeDue_topo (s : State) : (State.completeDue s).topo = s.topo := by
  simp [State.completeDue]

@[simp] theorem State.stage_topo (s : State) (i : CfgItem) (cmd : Option Nat) : (State.stage s i cmd).topo = s.topo := by
  simp [State.stage]

@[simp] theorem State.openRecord_topo (s : State) (r : RstRec) : (s.openRecord r).2.topo = s.topo := by
  simp only [State.openRecord]; split <;> simp

@[simp] theorem State.closeRecord_topo (s : State) (slot outcome : Nat) (fenced : Bool) : (State.closeRecord s slot outcome fenced).topo = s.topo := by
  simp only [State.closeRecord]; repeat' split
  all_goals simp

@[simp] theorem State.killCtx_topo (s : State) (x : Nat) (st : Status) : (State.killCtx s x st).topo = s.topo := by
  simp only [State.killCtx]; repeat' split
  all_goals try simp
  all_goals (apply foldl_topo; intro t x; try dsimp only)
  all_goals repeat' split
  all_goals first | (simp; done) | (apply foldl_topo; intro t x; (try dsimp only); (repeat' split) <;> simp)

@[simp] theorem State.oosCmd_topo (s : State) (tarn : Bool) (r : Nat) : (State.oosCmd s tarn r).topo = s.topo := by
  simp only [State.oosCmd]; repeat' split
  all_goals simp

@[simp] theorem State.holdDomain_topo (s : State) : (State.holdDomain s).topo = s.topo := by
  rfl

@[simp] theorem State.closeIfOpen_topo (s : State) (slot outcome : Nat) : (State.closeIfOpen s slot outcome).topo = s.topo := by
  unfold State.closeIfOpen; split <;> simp

@[simp] theorem State.outOfService_topo (s : State) (cause engine : Nat) : (State.outOfService s cause engine).topo = s.topo := by
  have h : ∀ (l : List (Nat × Cmd)) (t : State), (l.foldl (fun t e => if e.2.updating then t.tear e.2 else t) t).topo = t.topo :=
    fun l t => foldl_topo _ _ _ (by intro t e; split <;> simp)
  have h2 : ∀ (l : List Nat) (t : State), (l.foldl (fun t n => t.closeIfOpen n 3) t).topo = t.topo := fun l t => foldl_topo _ _ _ (by simp)
  have h3 : ∀ (l : List Nat) (b : Bool) (t : State), (l.foldl (State.oosCmd · b ·) t).topo = t.topo := fun l b t => foldl_topo _ _ _ (by simp)
  simp only [State.outOfService]
  repeat' split
  all_goals simp [h, h2, h3]

@[simp] theorem State.nullTaps_topo (s : State) (x : Nat) : (State.nullTaps s x).topo = s.topo := by
  simp [State.nullTaps]

@[simp] theorem State.abandon_topo (s : State) (x u : Nat) : (State.abandon s x u).topo = s.topo := by
  rfl

@[simp] theorem State.ctxResetDone_topo (s : State) (x : Nat) : (State.ctxResetDone s x).topo = s.topo := by
  simp only [State.ctxResetDone]; repeat' split
  all_goals simp

@[simp] theorem State.ctxResetSettle_topo (s : State) (x : Nat) : (State.ctxResetSettle s x).topo = s.topo := by
  simp only [State.ctxResetSettle]; repeat' split
  all_goals simp

@[simp] theorem State.ctxResetAnswered_topo (s : State) (x u : Nat) : (State.ctxResetAnswered s x u).topo = s.topo := by
  simp only [State.ctxResetAnswered]; repeat' split
  all_goals simp

@[simp] theorem State.freeDescs_topo (s : State) (x : Nat) : (State.freeDescs s x).topo = s.topo := by
  rfl

@[simp] theorem State.contextReset_topo (s : State) (x cause detail : Nat) (victim : Option (Nat × Status)) (cmd : Option Nat) : (State.contextReset s x cause detail victim cmd).topo = s.topo := by
  simp only [State.contextReset]; repeat' split
  all_goals simp

@[simp] theorem State.rewind_topo (s : State) (x p : Nat) : (State.rewind s x p).topo = s.topo := by
  unfold State.rewind; split <;> simp

@[simp] theorem State.blame_topo (s : State) (slot x : Nat) : (State.blame s slot x).topo = s.topo := by
  simp [State.blame]

@[simp] theorem State.sendBack_topo (s : State) (slot x : Nat) : (State.sendBack s slot x).topo = s.topo := by
  simp [State.sendBack]

@[simp] theorem State.recoverCtx_topo (s : State) (slot : Nat) (guilty : List Nat) (x : Nat) (ps : List Nat) : (State.recoverCtx s slot guilty x ps).topo = s.topo := by
  simp only [State.recoverCtx]; repeat' split
  all_goals simp

@[simp] theorem State.countLost_topo (s : State) (slot n : Nat) : (State.countLost s slot n).topo = s.topo := by
  rfl

@[simp] theorem State.recover_topo (s : State) (slot : Nat) (guilty : List Nat) (lost : List (Nat × Nat)) : (State.recover s slot guilty lost).topo = s.topo := by
  simp [State.recover]

@[simp] theorem State.seracDown_topo (s : State) (p : Nat) (hold : Bool) : (State.seracDown s p hold).topo = s.topo := by
  rfl

@[simp] theorem State.preemptOccupant_topo (s : State) (all : Bool) (u : Nat) : (State.preemptOccupant s all u).topo = s.topo := by
  simp only [State.preemptOccupant]; repeat' split
  all_goals simp

@[simp] theorem State.siltCut_topo (s : State) (n slot : Nat) (guilty : Option Nat) : (State.siltCut s n slot guilty).topo = s.topo := by
  simp only [State.siltCut]; repeat' split
  all_goals try simp
  all_goals (apply foldl_topo; intro t x; try dsimp only)
  all_goals repeat' split
  all_goals first | (simp; done) | (apply foldl_topo; intro t x; (try dsimp only); (repeat' split) <;> simp)

@[simp] theorem State.placeWalk_topo (s : State) (w : Walk) : (State.placeWalk s w).topo = s.topo := by
  unfold State.placeWalk; split <;> simp

@[simp] theorem State.handWalk_topo (s : State) (n : Nat) : (State.handWalk s n).topo = s.topo := by
  unfold State.handWalk; split <;> simp

@[simp] theorem State.againWalk_topo (s : State) (p : Nat → Bool) : (State.againWalk s p).topo = s.topo := by
  rfl

@[simp] theorem State.engineBegin_topo (s : State) (e : Nat) : (State.engineBegin s e).topo = s.topo := by
  unfold State.engineBegin
  dsimp only
  by_cases h : e / 256 = 1
  · rw [if_pos h]; simp
  rw [if_neg h]; clear h
  by_cases h : e / 256 = 2
  · rw [if_pos h, State.siltClear_topo]; split <;> simp
  rw [if_neg h]; clear h
  by_cases h : e / 256 = 3
  · rw [if_pos h]; exact foldl_topo _ _ _ (by simp)
  rw [if_neg h]; clear h
  by_cases h : e / 256 = 5
  · rw [if_pos h]; split <;> simp
  rw [if_neg h]; clear h
  by_cases h : e / 256 = 6
  · rw [if_pos h]; simp
  rw [if_neg h]; clear h
  by_cases h : e / 256 = 7
  · rw [if_pos h]
  rw [if_neg h]; clear h
  by_cases h : e / 256 = 8
  · rw [if_pos h]; simp
  rw [if_neg h]; clear h
  by_cases h : e / 256 = 9
  · rw [if_pos h]; dsimp only; rw [State.freeIdx_topo]; exact foldl_topo _ _ _ (by simp)
  rw [if_neg h]

@[simp] theorem State.loseCluster_topo (s : State) (p slot : Nat) (guilty : List Nat) : (State.loseCluster s p slot guilty).topo = s.topo := by
  simp only [State.loseCluster]; repeat' split
  all_goals try simp
  all_goals (apply foldl_topo; intro t x; try dsimp only)
  all_goals repeat' split
  all_goals first | (simp; done) | (apply foldl_topo; intro t x; (try dsimp only); (repeat' split) <;> simp)

@[simp] theorem State.markFenced_topo (s : State) (e : Nat) : (State.markFenced s e).topo = s.topo := by
  simp [State.markFenced]

@[simp] theorem State.fenceSerac_topo (s : State) (p slot : Nat) (guilty : List Nat) : (State.fenceSerac s p slot guilty).topo = s.topo := by
  simp only [State.fenceSerac]; repeat' split
  all_goals simp

@[simp] theorem State.rtReplace_topo (s : State) (n : Nat) : (State.rtReplace s n).topo = s.topo := by
  simp only [State.rtReplace]; repeat' split
  all_goals simp

@[simp] theorem State.fence_topo (s : State) (e slot : Nat) (guilty : Option Nat) : (s.fence e slot guilty).topo = s.topo := by
  have h3 : ∀ (l : List Nat) (b : Bool) (t : State), (l.foldl (State.preemptOccupant · b ·) t).topo = t.topo := fun l b t => foldl_topo _ _ _ (by simp)
  have h4 : ∀ (l : List Nat) (t : State), (l.foldl (fun u p => if u.present p && !(u.eng (seracEngine p)).fenced then u.fenceSerac p slot guilty.toList
      else u) t).topo = t.topo := fun l t => foldl_topo _ _ _ (by intro t p; split <;> simp)
  simp only [State.fence, State.completeDue_topo]
  repeat' split
  all_goals simp only [h3, h4, State.fenceSerac_topo, State.outOfService_topo, State.rtReplace_topo, State.siltClear_topo, State.siltCut_topo, State.markFenced_topo,
    State.updLink_topo, State.releaseRing_topo, State.blame_topo, State.handWalk_topo]

@[simp] theorem State.tarnRestart_topo (s : State) (cause esc : Nat) : (State.tarnRestart s cause esc).topo = s.topo := by
  simp only [State.tarnRestart]; repeat' split
  all_goals simp

@[simp] theorem State.joinReset_topo (s : State) (e : Nat) : (State.joinReset s e).topo = s.topo := by
  unfold State.joinReset; split <;> simp

@[simp] theorem State.engineReset_topo (s : State) (e cause : Nat) (guilty : Option Nat) (detail esc : Nat) : (State.engineReset s e cause guilty detail esc).topo = s.topo := by
  simp only [State.engineReset]; repeat' split
  all_goals simp

@[simp] theorem State.domainBegin_topo (s : State) : s.domainBegin.topo = s.topo := by
  simp only [State.domainBegin]
  rw [foldl_topo]
  · (try dsimp only)
    rw [foldl_topo]
    · (try dsimp only)
      rw [foldl_topo]
      · rw [foldl_topo]; intro t e; (try dsimp only); split <;> simp
      · intro t p; split <;> simp
    · intro t e; split <;> simp
  · intro t e; simp

@[simp] theorem State.domainReset_topo (s : State) (cause : Nat) (guilty : Option Nat) (engine esc : Nat) (lost : List (Nat × Nat)) : (State.domainReset s cause guilty engine esc lost).topo = s.topo := by
  simp only [State.domainReset]; repeat' split
  all_goals simp

@[simp] theorem State.engineOverdue_topo (s : State) (e : Nat) : (State.engineOverdue s e).topo = s.topo := by
  simp only [State.engineOverdue]; repeat' split
  all_goals simp

@[simp] theorem State.portError_topo (s : State) (u cause : Nat) : (State.portError s u cause).topo = s.topo := by
  simp [State.portError]

@[simp] theorem State.interruptCq_topo (s : State) (i : Nat) : (State.interruptCq s i).topo = s.topo := by
  simp only [State.interruptCq]; repeat' split
  all_goals simp

@[simp] theorem State.emitCqe_topo (s : State) (i : Nat) (e : Cqe) : (State.emitCqe s i e).topo = s.topo := by
  simp only [State.emitCqe]; repeat' split
  all_goals simp

@[simp] theorem State.checkPark_topo (s : State) (f : Nat) : (State.checkPark s f).topo = s.topo := by
  simp only [State.checkPark]; repeat' split
  all_goals simp

@[simp] theorem State.parkCqe_topo (s : State) (i : Nat) (e : Cqe) : (State.parkCqe s i e).topo = s.topo := by
  simp only [State.parkCqe]; repeat' split
  all_goals simp

@[simp] theorem State.checkParks_topo (s : State) : (State.checkParks s).topo = s.topo := by
  simp [State.checkParks]

@[simp] theorem State.unpark_topo (s : State) (f : Nat) (l : List Parked) : (State.unpark s f l).topo = s.topo := by
  simp [State.unpark]

@[simp] theorem State.produceCqe_topo (s : State) (i : Nat) (e : Cqe) : (State.produceCqe s i e).topo = s.topo := by
  simp only [State.produceCqe]; repeat' split
  all_goals simp

@[simp] theorem State.breakCq_topo (s : State) (i : Nat) : (State.breakCq s i).topo = s.topo := by
  simp only [State.breakCq]; repeat' split
  all_goals simp

theorem State.replayTake_topo {s t : State} {i : Nat} {q : Queue} {e : Cqe} (h : s.replayTake i q = some (e, t)) : t.topo = s.topo := by
  unfold State.replayTake at h
  repeat' split at h
  all_goals first | (cases h; simp; done) | cases h

@[simp] theorem State.tookCqe_topo (s : State) (i : Nat) : (State.tookCqe s i).topo = s.topo := by
  rfl

@[simp] theorem State.replayPump_topo (f : Nat) (s : State) : (State.replayPump f s).topo = s.topo := by
  induction f generalizing s with
  | zero => rfl
  | succ f ih =>
    simp only [State.replayPump]
    repeat' split
    all_goals first | rfl | (rename_i h; rw [ih]; simp [State.replayTake_topo h])

@[simp] theorem State.replayOnward_topo (s : State) : s.replayOnward.topo = s.topo := by
  unfold State.replayOnward; split <;> simp

@[simp] theorem State.replayEnd_topo (s : State) (i : Nat) : (State.replayEnd s i).topo = s.topo := by
  simp only [State.replayEnd]; repeat' split
  all_goals simp

@[simp] theorem State.replayStep_topo (s : State) (i : Nat) : (State.replayStep s i).topo = s.topo := by
  simp only [State.replayStep]; repeat' split
  all_goals simp

@[simp] theorem State.replayFail_topo (s : State) (i : Nat) : (State.replayFail s i).topo = s.topo := by
  simp only [State.replayFail]; repeat' split
  all_goals simp

@[simp] theorem State.discardParked_topo (s : State) (f : Nat) : (State.discardParked s f).topo = s.topo := by
  simp only [State.discardParked]; repeat' split
  all_goals try simp
  all_goals (apply foldl_topo; intro t x; try dsimp only)
  all_goals repeat' split
  all_goals first | (simp; done) | (apply foldl_topo; intro t x; (try dsimp only); (repeat' split) <;> simp)

@[simp] theorem State.refuseDoorbell_topo (s : State) (i : Nat) (q : Queue) : (State.refuseDoorbell s i q).topo = s.topo := by
  rfl

@[simp] theorem State.rejectDoorbell_topo (s : State) : (State.rejectDoorbell s).topo = s.topo := by
  rfl

@[simp] theorem State.ringTail_topo (s : State) (i : Nat) (q : Queue) (v : Nat) : (State.ringTail s i q v).topo = s.topo := by
  unfold State.ringTail; split <;> simp

@[simp] theorem State.ringHead_topo (s : State) (i : Nat) (q : Queue) (v : Nat) : (State.ringHead s i q v).topo = s.topo := by
  simp only [State.ringHead]; repeat' split
  all_goals simp

@[simp] theorem State.ringMask_topo (s : State) (i : Nat) (q : Queue) (v : Nat) : (State.ringMask s i q v).topo = s.topo := by
  unfold State.ringMask; split <;> simp

@[simp] theorem State.writeEvent_topo (s : State) (f : Nat) : (State.writeEvent s f).topo = s.topo := by
  simp only [State.writeEvent]; repeat' split
  all_goals simp

@[simp] theorem State.refuseEntry_topo (s : State) (c : Cmd) (st : Status) : (State.refuseEntry s c st).topo = s.topo := by
  rfl

@[simp] theorem State.markLeaving_topo (s : State) (r : Nat) (c : Cmd) : (State.markLeaving s r c).topo = s.topo := by
  unfold State.markLeaving; split <;> simp

@[simp] theorem State.countHeld_topo (s : State) (r : Nat) (c : Cmd) : (State.countHeld s r c).topo = s.topo := by
  rfl

@[simp] theorem State.noteAdmitted_topo (s : State) (c : Cmd) : (State.noteAdmitted s c).topo = s.topo := by
  rfl

@[simp] theorem State.acceptIo_topo (s : State) (c : Cmd) (x : Ctx) (l : List BatchEnt) (nodes : List Node) (gv : Nat) : (State.acceptIo s c x l nodes gv).topo = s.topo := by
  simp only [State.acceptIo]; repeat' split
  all_goals simp

theorem State.batchPath_topo {s t : State} {c : Cmd} {x : Ctx} {va len : Nat} {ecc : Ecc} {chk : PathCheck} {st : Option Status}
    (h : s.batchPath c x va len ecc chk = some (st, t)) : t.topo = s.topo := by
  unfold State.batchPath at h
  repeat' split at h
  all_goals first | (cases h; simp; done) | cases h

@[simp] theorem State.readBatch_topo (s : State) (c : Cmd) (x : Ctx) (ecc : Ecc) (chk : PathCheck) (away : Blob) :
    (s.readBatch c x ecc chk away).2.topo = s.topo := by
  simp only [State.readBatch]; repeat' split
  all_goals first | rfl | (rename_i h; exact State.batchPath_topo h) | simp

@[simp] theorem State.admitIo_topo (s : State) (q : Queue) (c : Cmd) (x : Ctx) (ecc : Ecc) (chk : PathCheck) (away : Blob) :
    (s.admitIo q c x ecc chk away).topo = s.topo := by
  unfold State.admitIo
  split
  · simp
  · have e := State.readBatch_topo s c x ecc chk away
    split
    · rename_i h; rw [h] at e; simpa using e
    · rename_i h; rw [h] at e; simpa using e
    · rename_i h; rw [h] at e
      dsimp only
      generalize (if opIsStep c.opcode = true then _ else _ : Option Status) = st
      repeat' split
      all_goals simpa using e

@[simp] theorem State.takeEntry_topo (s : State) (i : Nat) (q : Queue) (e : Fetched) (rest : List Fetched) : (State.takeEntry s i q e rest).topo = s.topo := by
  rfl

@[simp] theorem State.admitOne_topo (s : State) (i : Nat) (ecc : Ecc) (chk : PathCheck) (away : Blob) : (s.admitOne i ecc chk away).topo = s.topo := by
  simp only [State.admitOne]; repeat' split
  all_goals simp

@[simp] theorem State.grantFetch_topo (s : State) (i : Nat) (slot : Nat) : (State.grantFetch s i slot).topo = s.topo := by
  unfold State.grantFetch; split <;> simp

@[simp] theorem State.remoteSend_topo (s : State) (r : Nat) (q : MemReq) : (State.remoteSend s r q).topo = s.topo := by
  simp only [State.remoteSend]; repeat' split
  all_goals simp

@[simp] theorem State.remotePump_topo (s : State) (r : Nat) : (State.remotePump s r).topo = s.topo := by
  unfold State.remotePump; split <;> simp

@[simp] theorem State.askRemote_topo (s : State) (r : Nat) (l : List MemReq) : (State.askRemote s r l).topo = s.topo := by
  simp only [State.askRemote]; repeat' split
  all_goals try simp
  all_goals (apply foldl_topo; intro t x; try dsimp only)
  all_goals repeat' split
  all_goals first | (simp; done) | (apply foldl_topo; intro t x; (try dsimp only); (repeat' split) <;> simp)

@[simp] theorem State.readPieces_topo (s : State) (r : Nat) (c : Cmd) (e : Nat) (l : List Piece) : (s.readPieces r c e l).2.topo = s.topo := by
  simp only [State.readPieces]; rw [foldPair_topo]; intro y a; (try dsimp only); repeat' split
  all_goals simp

@[simp] theorem State.writePieces_topo (s : State) (r : Nat) (c : Cmd) (e : Nat) (l : List Piece) (b : Blob) : (s.writePieces r c e l b).topo = s.topo := by
  induction l generalizing s b with
  | nil => rfl
  | cons p t ih => simp only [State.writePieces]; rw [ih]; repeat' split
                   all_goals simp

@[simp] theorem State.sendIssue_topo (s : State) (u r : Nat) (c : Cmd) (t : TileRef) (n : Node) (out : List Piece) (data : Blob) : (State.sendIssue s u r c t n out data).topo = s.topo := by
  unfold State.sendIssue; split <;> simp

theorem State.withSpans_topo (s : State) (r : Nat) (c : Cmd) (x : Ctx) (n engine : Nat) (l : List VaSpan) (f : State → Cmd → State)
    (hf : ∀ t c, t.topo = s.topo → (f t c).topo = s.topo) : (s.withSpans r c x n engine l f).topo = s.topo := by
  simp only [State.withSpans]; repeat' split
  all_goals first | (simp; done) | exact hf _ _ (by simp)

@[simp] theorem State.issueTile_topo (s : State) (u r : Nat) (c : Cmd) (t : TileRef) (n : Node) (w : Tile) : (State.issueTile s u r c t n w).topo = s.topo := by
  simp only [State.issueTile]; repeat' split
  all_goals simp

@[simp] theorem State.issueNext_topo (s : State) (u : Nat) : (s.issueNext u).topo = s.topo := by
  unfold State.issueNext
  split
  · rfl
  · split
    · split
      · rfl
      · split
        · simp
        · apply State.withSpans_topo
          intro t c ht
          split
          · rfl
          · simp [ht]
    · rfl

@[simp] theorem State.settleDone_topo (s : State) (r : Nat) : (State.settleDone s r).topo = s.topo := by
  simp only [State.settleDone]; repeat' split
  all_goals simp

@[simp] theorem State.workMoved_topo (s : State) (r : Nat) : (State.workMoved s r).topo = s.topo := by
  simp [State.workMoved]

@[simp] theorem State.takeUp_topo (s : State) (u cls typ : Nat) (p : TilePkt) (f : State → State) (hf : ∀ t , (f t ).topo = t.topo) : (State.takeUp s u cls typ p f).topo = s.topo := by
  simp only [State.takeUp]; repeat' split
  all_goals simp [hf]

@[simp] theorem State.finishWork_topo (s : State) (u : Nat) (w : Work) (c : Cmd) (b : Blob) : (State.finishWork s u w c b).topo = s.topo := by
  unfold State.finishWork; split <;> simp

@[simp] theorem State.startWalk_topo (s : State) (r : Nat) (c : Cmd) (va : Nat) : (State.startWalk s r c va).topo = s.topo := by
  simp only [State.startWalk]; repeat' split
  all_goals simp

@[simp] theorem State.aheadOne_topo (s : State) (u r : Nat) (w : Tile) : (State.aheadOne s u r w).topo = s.topo := by
  simp only [State.aheadOne]; repeat' split
  all_goals try simp
  all_goals (apply foldl_topo; intro t x; try dsimp only)
  all_goals repeat' split
  all_goals first | (simp; done) | (apply foldl_topo; intro t x; (try dsimp only); (repeat' split) <;> simp)

@[simp] theorem State.setCrev_topo (s : State) (slot : Nat) (r : Crev) : (State.setCrev s slot r).topo = s.topo := by
  rfl

@[simp] theorem State.crevRetry_topo (s : State) (slot : Nat) : (State.crevRetry s slot).topo = s.topo := by
  simp only [State.crevRetry]; repeat' split
  all_goals simp

@[simp] theorem State.crevAbort_topo (s : State) (slot : Nat) : (State.crevAbort s slot).topo = s.topo := by
  unfold State.crevAbort; split <;> simp

@[simp] theorem State.crevHeadWrite_topo (s : State) (value : Nat) : (State.crevHeadWrite s value).topo = s.topo := by
  simp only [State.crevHeadWrite]; repeat' split
  all_goals simp

@[simp] theorem State.takeUpTiles_topo (s : State) (r opc : Nat) : (State.takeUpTiles s r opc).topo = s.topo := by
  unfold State.takeUpTiles; split <;> simp

@[simp] theorem State.cirqueSpans_topo (s : State) (r : Nat) (c : Cmd) (l : List VaSpan) (f : State → Cmd → State) (hf : ∀ t x0, (f t x0).topo = t.topo) :
    (s.cirqueSpans r c l f).topo = s.topo := by
  simp only [State.cirqueSpans]; repeat' split
  all_goals first | rfl | exact State.withSpans_topo _ _ _ _ _ _ _ _ fun t c h => (hf t c).trans h

@[simp] theorem State.writeSeqId_topo (s : State) (r : Nat) (c : Cmd) : (State.writeSeqId s r c).topo = s.topo := by
  simp only [State.writeSeqId]; repeat' split
  all_goals simp

@[simp] theorem State.takeTap_topo (s : State) (u : Nat) (t : Tap) (b : Blob) : (State.takeTap s u t b).topo = s.topo := by
  simp only [State.takeTap]; repeat' split
  all_goals simp

@[simp] theorem State.sliceFails_topo (s : State) (x : Slice) (g : Option Nat) : (State.sliceFails s x g).topo = s.topo := by
  unfold State.sliceFails; split <;> simp

@[simp] theorem State.dropTap_topo (s : State) (t : Tap) : (State.dropTap s t).topo = s.topo := by
  rfl

@[simp] theorem State.beginUpdate_topo (s : State) (r : Nat) (c : Cmd) (b : Blob) : (State.beginUpdate s r c b).topo = s.topo := by
  unfold State.beginUpdate; split <;> simp

@[simp] theorem State.destroyCtx_topo (s : State) (x : Nat) : (State.destroyCtx s x).topo = s.topo := by
  simp only [State.destroyCtx]; repeat' split
  all_goals simp

theorem State.takeChunks_topo {s s' : State} {e : Fkt} {l : List (Nat × Nat)} (h : s.takeChunks e l = some s') : s'.topo = s.topo := by
  induction l generalizing s with
  | nil => cases h; rfl
  | cons a t ih =>
    simp only [State.takeChunks] at h
    split at h
    · rename_i h1; rw [ih h, State.takeFrames_topo h1]
    · cases h

@[simp] theorem State.freeAlloc_topo (s : State) (a : Nat) : (State.freeAlloc s a).topo = s.topo := by
  unfold State.freeAlloc; split <;> simp

@[simp] theorem State.writeTables_topo (s : State) (r x : Nat) (ls : List Leaf) (lo hi : Nat) (isMap : Bool) : (State.writeTables s r x ls lo hi isMap).topo = s.topo := by
  simp [State.writeTables]

@[simp] theorem State.applyChange_topo (s : State) (x : Nat) (z : Change) : (State.applyChange s x z).topo = s.topo := by
  unfold State.applyChange; split <;> simp

@[simp] theorem State.ackEffect_topo (s0 : State) (e : Nat) (i : Inval) : (State.ackEffect s0 e i).topo = s0.topo := by
  simp only [State.ackEffect]; repeat' split
  all_goals simp

@[simp] theorem State.invalDone_topo (s : State) (i : Inval) : (State.invalDone s i).topo = s.topo := by
  simp only [State.invalDone]; repeat' split
  all_goals simp

@[simp] theorem State.addVersion_topo (s : State) (g : Graph) (v : Nat) (nodes : List Node) : (State.addVersion s g v nodes).topo = s.topo := by
  rfl

@[simp] theorem State.stopFetch_topo (s : State) (f : Nat) : (State.stopFetch s f).topo = s.topo := by
  rfl

@[simp] theorem State.abandonCmd_topo (s : State) (r : Nat) : (State.abandonCmd s r).topo = s.topo := by
  simp only [State.abandonCmd]; repeat' split
  all_goals simp

@[simp] theorem State.beginReset_topo (s : State) (f : Nat) : (State.beginReset s f).topo = s.topo := by
  simp [State.beginReset]

@[simp] theorem State.dropVariant_topo (s : State) (v : Nat) : (State.dropVariant s v).topo = s.topo := by
  rfl

@[simp] theorem State.dropObjects_topo (s : State) (f : Nat) : (State.dropObjects s f).topo = s.topo := by
  simp [State.dropObjects]

@[simp] theorem State.teardown_topo (s : State) (f : Nat) : (State.teardown s f).topo = s.topo := by
  unfold State.teardown
  dsimp only
  rw [foldl_topo _ _ _ (by simp)]
  simp

@[simp] theorem State.answerGen_topo (s : State) (f : Nat) (io : HostIo) (l : List Nat) : (State.answerGen s f io l).topo = s.topo := by
  simp only [State.answerGen]; repeat' split
  all_goals try simp
  all_goals (apply foldl_topo; intro t x; try dsimp only)
  all_goals repeat' split
  all_goals first | (simp; done) | (apply foldl_topo; intro t x; (try dsimp only); (repeat' split) <;> simp)

@[simp] theorem State.runQuiesce_topo (s : State) (f r : Nat) : (State.runQuiesce s f r).topo = s.topo := by
  unfold State.runQuiesce; split <;> simp

@[simp] theorem State.runReset_topo (s : State) (f r : Nat) (io : HostIo) : (State.runReset s f r io).topo = s.topo := by
  simp only [State.runReset]; repeat' split
  all_goals simp

@[simp] theorem State.runWaiting_topo (s : State) (f r : Nat) (io : HostIo) : (State.runWaiting s f r io).topo = s.topo := by
  simp only [State.runWaiting]; repeat' split
  all_goals simp

@[simp] theorem State.runAfterwards_topo (f : Nat) (io : HostIo) (n : Nat) (s : State) : (State.runAfterwards f io n s).topo = s.topo := by
  induction n generalizing s with
  | zero => rfl
  | succ n ih => simp only [State.runAfterwards]; repeat' split
                 all_goals simp [ih]

@[simp] theorem State.afterTransition_topo (s : State) (f : Nat) (io : HostIo) : (State.afterTransition s f io).topo = s.topo := by
  simp [State.afterTransition]

@[simp] theorem State.enableWaiting_topo (s : State) (f : Nat) : (State.enableWaiting s f).topo = s.topo := by
  simp only [State.enableWaiting]; repeat' split
  all_goals simp

@[simp] theorem State.putQueue_topo (s : State) (f : Nat) (e : Nat × Queue) : (State.putQueue s f e).topo = s.topo := by
  simp [State.putQueue]

@[simp] theorem State.claimAll_topo (s : State) (l : List (Nat × Nat × Nat × Fkt)) : (s.claimAll l).topo = s.topo := by
  unfold State.claimAll
  apply foldl_topo
  intro t e
  cases h : t.takeFrames e.1 e.2.2.2 ((List.range e.2.2.1).map (e.2.1 + ·)) with
  | none => rfl
  | some u => exact State.takeFrames_topo h

@[simp] theorem State.setRegions_topo (s : State) (z : Regions) : (State.setRegions s z).topo = s.topo := by
  rfl

@[simp] theorem State.placeRegions_topo (s : State) : (State.placeRegions s).topo = s.topo := by
  simp [State.placeRegions]

@[simp] theorem State.recoverPersist_topo (s : State) (h : Blob) : (State.recoverPersist s h).topo = s.topo := by
  simp [State.recoverPersist]

@[simp] theorem State.formatPersist_topo (s : State) : (State.formatPersist s).topo = s.topo := by
  unfold State.formatPersist
  rw [State.drawn_topo, State.putHeader_topo]

@[simp] theorem State.openPersist_topo (s : State) : (State.openPersist s).topo = s.topo := by
  simp only [State.openPersist]; repeat' split
  all_goals simp

@[simp] theorem State.openPorts_topo (s : State) : (State.openPorts s).topo = s.topo := by
  simp [State.openPorts]

@[simp] theorem State.joinRings_topo (s : State) : (State.joinRings s).topo = s.topo := by
  simp [State.joinRings]

@[simp] theorem State.startKeys_topo (s : State) : s.startKeys.topo = s.topo := by
  unfold State.startKeys; apply foldl_topo; intro t k; simp

@[simp] theorem State.popLoad_topo (s : State) : (State.popLoad s).topo = s.topo := by
  rfl

@[simp] theorem State.refuseLoad_topo (s : State) (l : Load) (st : Status) : (State.refuseLoad s l st).topo = s.topo := by
  simp only [State.refuseLoad]; repeat' split
  all_goals simp

@[simp] theorem State.drainFor_topo (s : State) (l : Load) : (State.drainFor s l).topo = s.topo := by
  unfold State.drainFor; split <;> simp

@[simp] theorem State.freeCurrent_topo (s : State) (i : Nat) : (State.freeCurrent s i).topo = s.topo := by
  simp [State.freeCurrent]

@[simp] theorem State.turnNow_topo (s : State) : (State.turnNow s).topo = s.topo := by
  simp only [State.turnNow]; repeat' split
  all_goals simp

theorem State.claimVer_topo {s s' : State} {v : ImgVer} {asked l : List Nat} (h : s.claimVer v asked = (some s', l)) : s'.topo = s.topo := by
  simp only [State.claimVer] at h
  split at h
  · cases h; simp
  · cases h

@[simp] theorem State.issueShards_topo (n : Nat) (s : State) : (State.issueShards n s).topo = s.topo := by
  induction n generalizing s with
  | zero => rfl
  | succ n ih => simp only [State.issueShards]; repeat' split
                 all_goals simp [ih]

@[simp] theorem State.beginLoad_topo (s : State) (l : Load) (v : ImgVer) (n : Nat) (current : Bool) (asked : List Nat) :
    (s.beginLoad l v n current asked).topo = s.topo := by
  simp only [State.beginLoad]
  split
  · simp
  · rename_i s3 h
    have e : s3.topo = s.topo := by
      split at h
      · injection h with h; subst h; split <;> simp
      · rw [State.claimVer_topo (l := _) (Prod.ext h rfl)]; split <;> simp
    simp [e]

@[simp] theorem State.modShard_topo (s : State) (i : Nat) (f : Shard → Shard) : (State.modShard s i f).topo = s.topo := by
  simp [State.modShard]

@[simp] theorem State.stageLoad_topo (s : State) (l : Load) (i fail : Nat) (st : Status) : (State.stageLoad s l i fail st).topo = s.topo := by
  rfl

@[simp] theorem State.spoilLoad_topo (s : State) (l : Load) (shard : Nat) : (State.spoilLoad s l shard).topo = s.topo := by
  simp [State.spoilLoad]

@[simp] theorem State.takeShard_topo (s : State) (i : Nat) (x : Shard) (data : Blob) : (State.takeShard s i x data).topo = s.topo := by
  simp only [State.takeShard]; repeat' split
  all_goals simp

@[simp] theorem State.activate_topo (s : State) (l : Load) : (State.activate s l).topo = s.topo := by
  simp [State.activate]

@[simp] theorem State.stallStreams_topo (s : State) : (State.stallStreams s).topo = s.topo := by
  rfl

@[simp] theorem State.needRepair_topo (s : State) (img ver t u : Nat) : (State.needRepair s img ver t u).topo = s.topo := by
  unfold State.needRepair; split <;> simp

@[simp] theorem State.modRepair_topo (s : State) (id : Nat) (f : Repair → Repair) : (State.modRepair s id f).topo = s.topo := by
  rfl

@[simp] theorem State.endRepair_topo (s : State) (id : Nat) : (State.endRepair s id).topo = s.topo := by
  simp [State.endRepair]

@[simp] theorem State.poison_topo (s : State) (img ver : Nat) : (State.poison s img ver).topo = s.topo := by
  simp [State.poison]

@[simp] theorem State.askNext_topo (s : State) (p : Repair) : (State.askNext s p).topo = s.topo := by
  simp only [State.askNext]; repeat' split
  all_goals simp

@[simp] theorem State.gotUnit_topo (s : State) (p : Repair) (b : Blob) (host : Bool) : (State.gotUnit s p b host).topo = s.topo := by
  rfl

@[simp] theorem State.queueLoad_topo (s : State) (l : Load) : (State.queueLoad s l).topo = s.topo := by
  simp [State.queueLoad]

@[simp] theorem State.withManifest_topo (s : State) (r : Nat) (c : Cmd) (io : HostIo) (f : State → ImgVer → State)
    (hf : ∀ t v, (f t v).topo = t.topo) : (s.withManifest r c io f).topo = s.topo := by
  unfold State.withManifest
  apply State.withData_topo
  intro t b
  split
  · simp
  · split
    · simp
    · exact hf _ _

@[simp] theorem State.portRequest_topo (s : State) (q : MemReq) (port : Nat) : (State.portRequest s q port).topo = s.topo := by
  simp only [State.portRequest]; repeat' split
  all_goals simp

@[simp] theorem State.readRequest_topo (s : State) (q : MemReq) : (State.readRequest s q).topo = s.topo := by
  simp only [State.readRequest]; repeat' split
  all_goals simp

@[simp] theorem State.dataBad_topo (s : State) (q : MemReq) : (State.dataBad s q).topo = s.topo := by
  simp only [State.dataBad]; repeat' split
  all_goals simp

@[simp] theorem State.dataGood_topo (s : State) (q : MemReq) : (State.dataGood s q).topo = s.topo := by
  unfold State.dataGood; split <;> simp

@[simp] theorem State.glazeAnswer_topo (s : State) (q : MemReq) (ecc : Ecc) (chk : PathCheck) (k p : Nat) : (State.glazeAnswer s q ecc chk k p).topo = s.topo := by
  simp only [State.glazeAnswer]; repeat' split
  all_goals simp

@[simp] theorem State.newWindow_topo (s : State) : (State.newWindow s).topo = s.topo := by
  rfl

@[simp] theorem State.movedWorks_topo (s : State) (f dst : Nat × Nat) : (State.movedWorks s f dst).topo = s.topo := by
  rfl

theorem State.moveBytes_topo {s s' : State} {e : Fkt} {a b : Nat × Nat} (h : s.moveBytes e a b = some s') : s'.topo = s.topo := by
  obtain ⟨t, ht, rfl⟩ := Option.map_eq_some_iff.mp h
  rw [State.releaseFrame_topo, foldl_topo _ _ _ (by intro u o; simp)]
  exact (State.takeFrames_topo ht : t.topo = s.topo)

theorem State.moveFrame_topo {s s' : State} {a b : Nat × Nat} (h : s.moveFrame a b = some s') : s'.topo = s.topo := by
  unfold State.moveFrame at h
  split at h
  · cases h
  · rename_i s0 h0
    obtain ⟨e, _, he⟩ := Option.bind_eq_some_iff.mp h0
    cases h
    dsimp only
    rw [foldl_topo _ _ _ (by intro t w; simp), foldl_topo _ _ _ (by intro t w; simp)]
    dsimp only
    rw [State.movedWorks_topo]
    exact State.moveBytes_topo he

@[simp] theorem State.nakOnce_topo (s : State) (n : Nat) : (State.nakOnce s n).topo = s.topo := by
  unfold State.nakOnce; split <;> simp

@[simp] theorem State.passOn_topo (s : State) (n stream : Nat) (d : Blob) (r : Nat) : (State.passOn s n stream d r).topo = s.topo := by
  rfl

@[simp] theorem State.beginPass_topo (s : State) (n stream : Nat) (b : Blob) : (State.beginPass s n stream b).topo = s.topo := by
  unfold State.beginPass; split <;> simp

@[simp] theorem State.takeMsgs_topo (n stream f : Nat) (b : Blob) (s : State) : (State.takeMsgs n stream f b s).topo = s.topo := by
  induction f generalizing b s with
  | zero => simp [State.takeMsgs]
  | succ f ih => simp only [State.takeMsgs]; repeat' split
                 all_goals simp [ih]

@[simp] theorem State.holdFrame_topo (s : State) (n i had : Nat) (fresh : Bool) : (State.holdFrame s n i had fresh).topo = s.topo := by
  simp only [State.holdFrame]; repeat' split
  all_goals simp

@[simp] theorem State.takeData_topo (s : State) (n : Nat) (f : Blob) : (State.takeData s n f).topo = s.topo := by
  simp [State.takeData]

@[simp] theorem State.ackFrame_topo (s : State) (n before : Nat) : (State.ackFrame s n before).topo = s.topo := by
  unfold State.ackFrame; split <;> simp

@[simp] theorem State.arrived_topo (s : State) (link : Nat) (m : FloeMsg) (typ : Nat) (f : State → State) (hf : ∀ t , (f t ).topo = t.topo) : (State.arrived s link m typ f).topo = s.topo := by
  simp only [State.arrived]; repeat' split
  all_goals simp [hf]

@[simp] theorem State.pumpRemotes_topo (s : State) : (State.pumpRemotes s).topo = s.topo := by
  simp [State.pumpRemotes]

@[simp] theorem State.remoteMoved_topo (s : State) (q : MemReq) : (State.remoteMoved s q).topo = s.topo := by
  unfold State.remoteMoved; split <;> simp

@[simp] theorem State.floeStale_topo (s : State) : (State.floeStale s).topo = s.topo := by
  rfl

@[simp] theorem State.remoteAnswer_topo (s : State) (m : FloeMsg) (write : Bool) : (State.remoteAnswer s m write).topo = s.topo := by
  simp only [State.remoteAnswer]; repeat' split
  all_goals simp

@[simp] theorem State.ringWrite_topo (s : State) (k action : Nat) : (State.ringWrite s k action).topo = s.topo := by
  simp only [State.ringWrite]; repeat' split
  all_goals simp

@[simp] theorem State.doeAnswer_topo (s : State) (f : Nat) (b : Blob) : (State.doeAnswer s f b).topo = s.topo := by
  rfl

@[simp] theorem State.signedAnswer_topo (s : State) (f code p1 p2 : Nat) (body : Blob) : (State.signedAnswer s f code p1 p2 body).topo = s.topo := by
  rfl

@[simp] theorem State.modSession_topo (s : State) (n : Nat) (g : Session → Session) : (State.modSession s n g).topo = s.topo := by
  rfl

@[simp] theorem State.endSession_topo (s : State) (n : Nat) : (State.endSession s n).topo = s.topo := by
  rfl

@[simp] theorem State.endSessions_topo (s : State) (f : Nat) : (State.endSessions s f).topo = s.topo := by
  rfl

@[simp] theorem State.secured_topo (s : State) (f n : Nat) (m : Blob) : (State.secured s f n m).topo = s.topo := by
  unfold State.secured; split <;> simp

@[simp] theorem State.newSecret_topo (s : State) (n : Nat) : (State.newSecret s n).topo = s.topo := by
  rfl

@[simp] theorem State.keyExchange_topo (s : State) (f req : Nat) : (State.keyExchange s f req).topo = s.topo := by
  unfold State.keyExchange; split <;> simp

@[simp] theorem State.established_topo (s : State) (f n : Nat) (who : Option Blob) : (State.established s f n who).topo = s.topo := by
  simp [State.established]

@[simp] theorem State.finishSession_topo (s : State) (f n : Nat) (auth : Option Blob) : (State.finishSession s f n auth).topo = s.topo := by
  simp only [State.finishSession]; repeat' split
  all_goals simp

@[simp] theorem State.agreed_topo (s : State) (f : Nat) (g : State → State) (hg : ∀ t , (g t ).topo = t.topo) : (State.agreed s f g).topo = s.topo := by
  unfold State.agreed; split <;> simp [hg]

@[simp] theorem State.inSession_topo (s : State) (f n : Nat) (g : State → State) (hg : ∀ t , (g t ).topo = t.topo) : (State.inSession s f n g).topo = s.topo := by
  unfold State.inSession; split <;> simp [hg]

@[simp] theorem State.onSlot0_topo (s : State) (f slot : Nat) (g : State → State) (hg : ∀ t , (g t ).topo = t.topo) : (State.onSlot0 s f slot g).topo = s.topo := by
  unfold State.onSlot0; split <;> simp [hg]

@[simp] theorem State.vendorAnswer_topo (s : State) (f : Nat) (ses : Option Nat) (result : Nat) (body : Blob) : (State.vendorAnswer s f ses result body).topo = s.topo := by
  unfold State.vendorAnswer; split <;> simp

@[simp] theorem State.markHeader_topo (s : State) (clean : Bool) : (State.markHeader s clean).topo = s.topo := by
  unfold State.markHeader; split <;> simp

@[simp] theorem State.powerDown_topo (s : State) (k : PwrSt) : (State.powerDown s k).topo = s.topo := by
  rfl

@[simp] theorem State.restartForPatch_topo (s : State) : (State.restartForPatch s).topo = s.topo := by
  rfl

@[simp] theorem State.loadPatch_topo (s : State) (r : Nat) (c : Cmd) (io : HostIo) (image : Blob) (svn : Nat) : (State.loadPatch s r c io image svn).topo = s.topo := by
  simp only [State.loadPatch]; repeat' split
  all_goals simp

@[simp] theorem State.newChallenge_topo (s : State) : (State.newChallenge s).topo = s.topo := by
  rfl

@[simp] theorem State.banner_topo (s : State) : (State.banner s).topo = s.topo := by
  rfl

@[simp] theorem State.tarnStart_topo (s : State) : (State.tarnStart s).topo = s.topo := by
  rfl

@[simp] theorem State.afterRestart_topo (s : State) (r : Nat) : (State.afterRestart s r).topo = s.topo := by
  simp only [State.afterRestart]; repeat' split
  all_goals simp

@[simp] theorem State.engineRequest_topo (s : State) (engine : Nat) : (State.engineRequest s engine).topo = s.topo := by
  unfold State.engineRequest; split <;> simp

@[simp] theorem State.domainRequest_topo (s : State) : (State.domainRequest s).topo = s.topo := by
  unfold State.domainRequest; split <;> simp

@[simp] theorem State.resetHead_topo (s : State) (value : Nat) : (State.resetHead s value).topo = s.topo := by
  simp only [State.resetHead]; repeat' split
  all_goals simp

@[simp] theorem State.completeOut_topo (s : State) (r : Nat) (c : Cmd) : (State.completeOut s r c).topo = s.topo := by
  simp [State.completeOut]

@[simp] theorem State.holdupBegin_topo (s : State) : (State.holdupBegin s).topo = s.topo := by
  rfl

@[simp] theorem State.holdupState_topo (s : State) : (State.holdupState s).topo = s.topo := by
  rfl

@[simp] theorem State.leaveRings_topo (s : State) : (State.leaveRings s).topo = s.topo := by
  simp [State.leaveRings]

@[simp] theorem State.endWake_topo (s : State) : (State.endWake s).topo = s.topo := by
  simp only [State.endWake]; repeat' split
  all_goals simp

@[simp] theorem State.holdBegins_topo (s : State) : (State.holdBegins s).topo = s.topo := by
  unfold State.holdBegins; split <;> simp

@[simp] theorem State.ticTake_topo (s : State) (n : Nat) : (State.ticTake s n).topo = s.topo := by
  rfl

@[simp] theorem State.ticEoi_topo (s : State) (n : Nat) : (State.ticEoi s n).topo = s.topo := by
  unfold State.ticEoi; split <;> simp

@[simp] theorem State.releaseVectors_topo (s : State) (f : Nat) : (State.releaseVectors s f).topo = s.topo := by
  unfold State.releaseVectors; split <;> simp

@[simp] theorem State.enableNow_topo (s : State) (f r : Nat) (io : HostIo) (others : List Nat) : (State.enableNow s f r io others).topo = s.topo := by
  simp only [State.enableNow]; repeat' split
  all_goals simp

@[simp] theorem State.wplogFlush_topo (s : State) (fn value : Nat) : (State.wplogFlush s fn value).topo = s.topo := by
  unfold State.wplogFlush; split <;> simp

@[simp] theorem State.moraineClear_topo (s : State) (fn value : Nat) : (State.moraineClear s fn value).topo = s.topo := by
  unfold State.moraineClear; split <;> simp

@[simp] theorem State.rtReserveWrite_topo (s : State) (v : Nat) : (State.rtReserveWrite s v).topo = s.topo := by
  simp [State.rtReserveWrite]

@[simp] theorem State.adminResumeWrite_topo (s : State) (v : Nat) : (State.adminResumeWrite s v).topo = s.topo := by
  simp only [State.adminResumeWrite]; repeat' split
  all_goals simp

@[simp] theorem State.qcfgWrite_topo (s : State) (f v : Nat) : (State.qcfgWrite s f v).topo = s.topo := by
  unfold State.qcfgWrite; split <;> simp

@[simp] theorem State.hostAddWrite_topo (s : State) (v : Nat) : (s.hostAddWrite v).topo = s.topo := by
  simp only [State.hostAddWrite]
  split
  · rfl
  · split
    · split
      · rename_i h; simp [State.takeChunks_topo h]
      · rfl
    · rfl

@[simp] theorem State.imageCfgWrite_topo (s : State) (n v : Nat) : (State.imageCfgWrite s n v).topo = s.topo := by
  unfold State.imageCfgWrite; split <;> simp

@[simp] theorem State.quotaWrite_topo (s : State) (f v : Nat) : (State.quotaWrite s f v).topo = s.topo := by
  simp only [State.quotaWrite]; repeat' split
  all_goals simp

@[simp] theorem State.adminCtlWrite_topo (s : State) (v : Nat) : (State.adminCtlWrite s v).topo = s.topo := by
  simp only [State.adminCtlWrite]; repeat' split
  all_goals simp

@[simp] theorem State.resetReqWrite_topo (s : State) (v : Nat) : (State.resetReqWrite s v).topo = s.topo := by
  simp only [State.resetReqWrite]; repeat' split
  all_goals simp

@[simp] theorem State.crevCtlWrite_topo (s : State) (v : Nat) : (State.crevCtlWrite s v).topo = s.topo := by
  simp only [State.crevCtlWrite]; repeat' split
  all_goals simp

@[simp] theorem State.doorWrite_topo (s : State) (d : Door) (k v : Nat) : (State.doorWrite s d k v).topo = s.topo := by
  simp only [State.doorWrite]; repeat' split
  all_goals simp

@[simp] theorem State.vxWrite_topo (s : State) (r : Reg) (v : Nat) : (State.vxWrite s r v).topo = s.topo := by
  unfold State.vxWrite; split <;> simp

@[simp] theorem State.coreWrite_topo (s : State) (r : Reg) (v : Nat) : (State.coreWrite s r v).topo = s.topo := by
  unfold State.coreWrite; split <;> simp

@[simp] theorem State.dataWrite_topo (s : State) (r : Reg) (v : Nat) : (State.dataWrite s r v).topo = s.topo := by
  simp only [State.dataWrite]; repeat' split
  all_goals simp

@[simp] theorem State.restWrite_topo (s : State) (r : Reg) (v : Nat) : (State.restWrite s r v).topo = s.topo := by
  simp only [State.restWrite]; repeat' split
  all_goals simp

@[simp] theorem State.fnWrite_topo (s : State) (r : Reg) (v : Nat) : (State.fnWrite s r v).topo = s.topo := by
  unfold State.fnWrite; split <;> simp

@[simp] theorem State.regWrite_topo (s : State) (r : Reg) (v : Nat) : (State.regWrite s r v).topo = s.topo := by
  unfold State.regWrite; split <;> simp

@[simp] theorem State.msixWrite_topo (s : State) (f o w v : Nat) : (State.msixWrite s f o w v).topo = s.topo := by
  simp [State.msixWrite]

@[simp] theorem State.readHalf_topo (s : State) (sp : Space) (off : Nat) (r : Reg) (o : Nat) : (s.readHalf sp off r o).2.topo = s.topo := by
  simp only [State.readHalf]; repeat' split
  all_goals simp

@[simp] theorem State.busRead_topo (s : State) (sp : Space) (off w : Nat) : (s.busRead sp off w).2.topo = s.topo := by
  simp only [State.busRead]; repeat' split
  all_goals simp

@[simp] theorem State.writeHigh_topo (s : State) (sp : Space) (off : Nat) (r : Reg) (v : Nat) : (State.writeHigh s sp off r v).topo = s.topo := by
  simp only [State.writeHigh]; repeat' split
  all_goals simp

@[simp] theorem State.writeLow_topo (s : State) (sp : Space) (off v : Nat) : (State.writeLow s sp off v).topo = s.topo := by
  simp [State.writeLow]

@[simp] theorem State.busWrite_topo (s : State) (sp : Space) (off w value : Nat) : (State.busWrite s sp off w value).topo = s.topo := by
  simp only [State.busWrite]; repeat' split
  all_goals simp

@[simp] theorem State.writeVia_topo (s : State) (c : Instr) (sp : Space) (off w v : Nat) : (State.writeVia s c sp off w v).topo = s.topo := by
  simp only [State.writeVia]; repeat' split
  all_goals simp

@[simp] theorem State.readVia_topo (s : State) (c : Instr) (sp : Space) (off w : Nat) : (State.readVia s c sp off w).topo = s.topo := by
  simp only [State.readVia]; repeat' split
  all_goals simp

@[simp] theorem State.doorVia_topo (s : State) (c : Instr) (d : Door) (k v : Nat) : (State.doorVia s c d k v).topo = s.topo := by
  unfold State.doorVia; split <;> simp

@[simp] theorem State.monAnswer_topo (s : State) (lines : List (List Nat)) (e : Option MonErr) : (State.monAnswer s lines e).topo = s.topo := by
  simp [State.monAnswer]

@[simp] theorem State.monRefuse_topo (s : State) (e : MonErr) : (State.monRefuse s e).topo = s.topo := by
  simp [State.monRefuse]

@[simp] theorem State.view_topo (s : State) (off w : Nat) : (s.view off w).2.topo = s.topo := by simp [State.view]

@[simp] theorem State.monRead_topo (s : State) (off w n : Nat) : (s.monRead off w n).2.topo = s.topo := by
  induction n generalizing s off with
  | zero => rfl
  | succ n ih => simp [State.monRead, ih]

@[simp] theorem State.monList_topo (s : State) (l : List (Nat × Nat)) : (s.monList l).2.topo = s.topo := by
  induction l generalizing s with
  | nil => rfl
  | cons a t ih => simp [State.monList, ih]

@[simp] theorem State.monLines_topo (s : State) (l : List (List (Nat × Nat))) : (s.monLines l).2.topo = s.topo := by
  induction l generalizing s with
  | nil => rfl
  | cons a t ih => simp [State.monLines, ih]

@[simp] theorem answerWith_topo (x : List (List Nat) × State) : (answerWith x).topo = x.2.topo := by
  simp [answerWith]

@[simp] theorem State.monVersion_topo (s : State) : (State.monVersion s).topo = s.topo := by
  simp [State.monVersion]

@[simp] theorem State.monHeartbeat_topo (s : State) : (State.monHeartbeat s).topo = s.topo := by
  simp [State.monHeartbeat]

@[simp] theorem State.monRings_topo (s : State) (l : List Nat) : (s.monRings l).2.topo = s.topo := by
  induction l generalizing s with
  | nil => rfl
  | cons a t ih => simp [State.monRings, ih]

@[simp] theorem State.monDo_topo (s : State) (c : MonCmd) : (State.monDo s c).topo = s.topo := by
  unfold State.monDo; split <;> simp

@[simp] theorem State.monitor_topo (s : State) (c : MonCmd) : (State.monitor s c).topo = s.topo := by
  simp only [State.monitor]; repeat' split
  all_goals simp

@[simp] theorem State.monRow_topo (s : State) (c : MonCmd) : (State.monRow s c).topo = s.topo := by
  unfold State.monRow; split <;> simp

@[simp] theorem State.monLine_topo (s : State) (l : List Nat) : (State.monLine s l).topo = s.topo := by
  simp only [State.monLine]; repeat' split
  all_goals simp

@[simp] theorem State.setLine_topo (s : State) (l : List Nat) (cr : Bool) : (State.setLine s l cr).topo = s.topo := by
  rfl

@[simp] theorem State.monChar_topo (s : State) (c : Nat) : (State.monChar s c).topo = s.topo := by
  simp only [State.monChar]; repeat' split
  all_goals simp

theorem State.takePlaced_topo {s s' : State} {e : Fkt} {l : List (Nat × List Nat)} (h : s.takePlaced e l = some s') : s'.topo = s.topo := by
  have go : ∀ (l : List (Nat × List Nat)) (o : Option State) (t : State),
      l.foldl (fun o p => o.bind fun t => t.takeFrames p.1 e p.2) o = some t → ∃ u, o = some u ∧ t.topo = u.topo := by
    intro l
    induction l with
    | nil => intro o t h; exact ⟨t, h, rfl⟩
    | cons p l ih =>
      intro o t h
      obtain ⟨u, hu, e1⟩ := ih _ _ h
      obtain ⟨v, hv, e2⟩ := Option.bind_eq_some_iff.mp hu
      exact ⟨v, hv, e1.trans (State.takeFrames_topo e2)⟩
  obtain ⟨u, hu, e⟩ := go _ _ _ h
  cases hu
  exact e

theorem State.placeAlloc_topo {s : State} {vx1 : Bool} {tier n : Nat} {asked : List Nat} {e : Fkt} {x : List (Nat × List Nat) × State}
    (h : s.placeAlloc vx1 tier n asked e = some x) : x.2.topo = s.topo := by
  unfold State.placeAlloc at h
  split at h
  · obtain ⟨i, _, hi⟩ := List.exists_of_findSome?_eq_some h
    dsimp only at hi
    split at hi
    · obtain ⟨t, ht, rfl⟩ := Option.map_eq_some_iff.mp hi; exact State.takePlaced_topo ht
    · cases hi
  · obtain ⟨l, _, hl⟩ := Option.bind_eq_some_iff.mp h
    obtain ⟨t, ht, rfl⟩ := Option.map_eq_some_iff.mp hl; exact State.takePlaced_topo ht

theorem State.giveAlloc_topo (s t : State) (r : Nat) (c : Cmd) (io : HostIo) (fr : List (Nat × Nat)) (h : t.topo = s.topo) :
    (s.giveAlloc t r c io fr).topo = s.topo := by
  unfold State.giveAlloc State.answer
  dsimp only
  split
  · rw [State.commit_topo, State.modCmd_topo, State.updFn_topo]
    exact h
  · simp

@[simp] theorem State.allocDevice_topo (s : State) (r : Nat) (c : Cmd) (io : HostIo) (asked : List Nat) :
    (s.allocDevice r c io asked).topo = s.topo := by
  simp only [State.allocDevice]
  split
  · simp
  · rename_i h; exact State.giveAlloc_topo _ _ _ _ _ _ (State.placeAlloc_topo h)

@[simp] theorem State.allocHost_topo (s : State) (r : Nat) (c : Cmd) (io : HostIo) (asked : List Nat) :
    (s.allocHost r c io asked).topo = s.topo := by
  unfold State.allocHost
  apply State.withData_topo
  intro t b
  dsimp only
  repeat' split
  · simp
  · simp
  · simp
  · rename_i h
    exact State.giveAlloc_topo _ _ _ _ _ _ (State.takeChunks_topo h)

@[simp] theorem State.scramble_topo (s : State) (a : Alloc) : (State.scramble s a).topo = s.topo := by
  rfl

@[simp] theorem State.loadAdapter_topo (s : State) (r : Nat) (c : Cmd) (a : Alloc) (v : Variant) (clear : Blob) : (State.loadAdapter s r c a v clear).topo = s.topo := by
  simp [State.loadAdapter]

@[simp] theorem State.register_topo (s : State) (r : Nat) (c : Cmd) (io : HostIo) (d : VarDesc) (a : Alloc) (key img : Nat) (clear : Blob) :
  (s.register r c io d a key img clear).topo = s.topo := by
  unfold State.register
  dsimp only
  repeat' split
  · simp
  · rw [State.answer_topo] <;> simp
  · rw [State.answer_topo]
    · simp
    · intro t; rfl

@[simp] theorem State.unwrapAndRegister_topo (s : State) (r : Nat) (c : Cmd) (io : HostIo) (d : VarDesc) (a : Alloc) (b : Blob) : (State.unwrapAndRegister s r c io d a b).topo = s.topo := by
  simp only [State.unwrapAndRegister]; repeat' split
  all_goals simp

@[simp] theorem State.dropSlices_topo (s : State) (v : Nat) : (State.dropSlices s v).topo = s.topo := by
  rfl

@[simp] theorem State.commitUpdate_topo (s : State) (r id : Nat) (c : Cmd) (v : Variant) (d : VarDesc) (clear : Option Blob) : (State.commitUpdate s r id c v d clear).topo = s.topo := by
  simp only [State.commitUpdate]; repeat' split
  all_goals simp

@[simp] theorem State.unchange_topo (s : State) (id : Nat) : (State.unchange s id).topo = s.topo := by
  rfl

@[simp] theorem State.runUpdate_topo (s : State) (r id : Nat) (c : Cmd) (io : HostIo) (v : Variant)  : (s.runUpdate r id c io v).topo = s.topo := by
  unfold State.runUpdate
  apply State.withData_topo
  intro t b
  split
  · simp
  · dsimp only
    repeat' split
    all_goals simp

@[simp] theorem State.runDrop_topo (s : State) (r id : Nat) (v : Variant) : (State.runDrop s r id v).topo = s.topo := by
  simp [State.runDrop]

@[simp] theorem State.changeOrWait_topo (s : State) (r id : Nat) (c : Cmd) (run : State → State) (hrun : ∀ t , (run t ).topo = t.topo) : (State.changeOrWait s r id c run).topo = s.topo := by
  simp only [State.changeOrWait]; repeat' split
  all_goals simp [hrun]

@[simp] theorem State.storeCkpt_topo (s : State) (c : Ckpt) : (State.storeCkpt s c).topo = s.topo := by
  simp only [State.storeCkpt]; repeat' split
  all_goals simp

@[simp] theorem State.saveDone_topo (s : State) (u : Nat) (q : Preempt) (b : Blob) : (State.saveDone s u q b).topo = s.topo := by
  simp [State.saveDone]

@[simp] theorem State.offer_topo (s : State) (c : Instr) : (State.offer s c).topo = s.topo := by
  rfl

@[simp] theorem State.withFetchWord_topo (s : State) (nbits w : Nat) : (State.withFetchWord s nbits w).topo = s.topo := by
  rfl

/-! ### `pools` -/

@[simp] theorem foldl_pools {β : Type} (f : State → β → State) (l : List β) (s : State) (h : ∀ t x, (f t x).pools = t.pools) :
    (l.foldl f s).pools = s.pools := by induction l generalizing s with | nil => rfl | cons a l ih => simp [ih, h]

@[simp] theorem State.logPage_pools (s : State) (f page : Nat) : (State.logPage s f page).pools = s.pools := by
  simp only [State.logPage]; repeat' split
  all_goals simp

@[simp] theorem State.signalCq_pools (s : State) (q : Nat) : (State.signalCq s q).pools = s.pools := by
  unfold State.signalCq; split <;> simp

@[simp] theorem State.moraine_pools (s : State) (f n : Nat) : (State.moraine s f n).pools = s.pools := by
  rfl

@[simp] theorem State.releaseRefused_pools (s : State) (r : Nat) : (State.releaseRefused s r).pools = s.pools := by
  unfold State.releaseRefused; split <;> simp

@[simp] theorem State.endCmd_pools (s : State) (r : Nat) (st : Status) : (State.endCmd s r st).pools = s.pools := by
  simp [State.endCmd]

@[simp] theorem State.dropStreams_pools (s : State) (r : Nat) : (State.dropStreams s r).pools = s.pools := by
  rfl

@[simp] theorem State.crevMap_pools (s : State) (p : Crev → Bool) (f : Crev → Crev) : (State.crevMap s p f).pools = s.pools := by
  rfl

@[simp] theorem State.crevLeave_pools (s : State) (r : Nat) : (State.crevLeave s r).pools = s.pools := by
  rfl

@[simp] theorem State.failCmd_pools (s : State) (r : Nat) (st : Status) : (State.failCmd s r st).pools = s.pools := by
  unfold State.failCmd; split <;> simp

@[simp] theorem State.failAll_pools (s : State) (l : List Nat) (st : Status) : (State.failAll s l st).pools = s.pools := by
  simp [State.failAll]

@[simp] theorem State.sendFloe_pools (s : State) (link : Nat) (m : FloeMsg) : (State.sendFloe s link m).pools = s.pools := by
  rfl

@[simp] theorem State.sendUart_pools (s : State) (l : List Nat) : (State.sendUart s l).pools = s.pools := by
  rfl

@[simp] theorem State.beginWake_pools (s : State) : (State.beginWake s).pools = s.pools := by
  rfl

@[simp] theorem State.startWake_pools (s : State) (src : WakeSrc) : (State.startWake s src).pools = s.pools := by
  unfold State.startWake; split <;> simp

@[simp] theorem State.config_pools (s : State) (c : Instr) (f : State → State) (hf : ∀ t , (f t ).pools = t.pools) : (State.config s c f).pools = s.pools := by
  simp only [State.config]; repeat' split
  all_goals simp [hf]

@[simp] theorem State.abortRead_pools (s : State) (f : Nat) : (State.abortRead s f).pools = s.pools := by
  rfl

@[simp] theorem State.access_pools (s : State) (c : Instr) (read : Bool) (f : State → State) (hf : ∀ t , (f t ).pools = t.pools) : (State.access s c read f).pools = s.pools := by
  simp only [State.access]; repeat' split
  all_goals simp [hf]

@[simp] theorem State.setFkt_pools (s : State) (tier frame : Nat) (e : Fkt) : (State.setFkt s tier frame e).pools = s.pools := by
  unfold State.setFkt; split <;> simp

@[simp] theorem State.clearFkt_pools (s : State) (tier frame : Nat) : (State.clearFkt s tier frame).pools = s.pools := by
  unfold State.clearFkt; split <;> simp

@[simp] theorem State.fillKey_pools (s : State) (k : Nat) (owner : Option Nat) : (State.fillKey s k owner).pools = s.pools := by
  rfl

@[simp] theorem State.dropKey_pools (s : State) (k : Nat) : (State.dropKey s k).pools = s.pools := by
  rfl

@[simp] theorem State.modSlot_pools (s : State) (k : Nat) (f : VSlot → VSlot) : (State.modSlot s k f).pools = s.pools := by
  rfl

theorem State.newBlock_pools {s s' : State} {t : Nat} (h : s.newBlock t = some s') : s'.pools = s.pools := by
  simp only [State.newBlock] at h
  by_cases hn : s.varve.blocksIn t % 29 ≠ 0
  · rw [if_pos hn] at h; cases h; rfl
  · rw [if_neg hn] at h; obtain ⟨f, _, rfl⟩ := Option.map_eq_some_iff.mp h; simp

@[simp] theorem State.useSlot_pools (s : State) (k tier frame key : Nat) : (State.useSlot s k tier frame key).pools = s.pools := by
  rfl

theorem State.protect_pools {s s' : State} {tier frame key : Nat} (h : s.protect tier frame key = some s') : s'.pools = s.pools := by
  simp only [State.protect] at h
  split at h
  · cases h; simp
  · split at h
    · cases h
    · obtain ⟨t, ht, rfl⟩ := Option.map_eq_some_iff.mp h; simp [State.newBlock_pools ht]

theorem State.protectAll_pools {tier key : Nat} {l : List Nat} {s s' : State} (h : State.protectAll tier key l s = some s') : s'.pools = s.pools := by
  induction l generalizing s with
  | nil => cases h; rfl
  | cons f t ih =>
    simp only [State.protectAll] at h
    split at h
    · cases h
    · rename_i s2 h2; rw [ih h]; simp [State.protect_pools h2]

theorem State.takeFrames_pools {s s' : State} {tier : Nat} {e : Fkt} {l : List Nat} (h : s.takeFrames tier e l = some s') : s'.pools = s.pools := by
  simp only [State.takeFrames] at h
  split at h
  · rw [State.protectAll_pools h]; simp
  · cases h; simp

@[simp] theorem State.forgetFrame_pools (s : State) (tier frame : Nat) : (State.forgetFrame s tier frame).pools = s.pools := by
  rfl

@[simp] theorem State.releaseFrame_pools (s : State) (tier frame : Nat) : (State.releaseFrame s tier frame).pools = s.pools := by
  simp only [State.releaseFrame]; repeat' split
  all_goals simp

@[simp] theorem State.setPage_pools (s : State) (k p : Nat) (c : PageCtr) : (State.setPage s k p c).pools = s.pools := by
  simp only [State.setPage]; repeat' split
  all_goals simp

@[simp] theorem State.leaveWalk_pools (s : State) (key k p : Nat) : (State.leaveWalk s key k p).pools = s.pools := by
  rfl

@[simp] theorem State.chunkFetch_pools (s : State) (tier off : Nat) : (State.chunkFetch s tier off).pools = s.pools := by
  unfold State.chunkFetch; split <;> simp

@[simp] theorem State.chunkStore_pools (s : State) (tier off : Nat) : (State.chunkStore s tier off).pools = s.pools := by
  unfold State.chunkStore; split <;> simp

@[simp] theorem State.recrypt_pools (s : State) (k p : Nat) (c : PageCtr) : (State.recrypt s k p c).pools = s.pools := by
  simp only [State.recrypt]; repeat' split
  all_goals simp

@[simp] theorem State.endWalk_pools (s : State) (key : Nat) : (State.endWalk s key).pools = s.pools := by
  simp only [State.endWalk]; repeat' split
  all_goals try simp
  all_goals (apply foldl_pools; intro t x; try dsimp only)
  all_goals repeat' split
  all_goals first | (simp; done) | (apply foldl_pools; intro t x; (try dsimp only); (repeat' split) <;> simp)

@[simp] theorem State.startRekey_pools (s : State) (key : Nat) : (State.startRekey s key).pools = s.pools := by
  rfl

@[simp] theorem State.rekeyPage_pools (s : State) (key k p : Nat) (c : PageCtr) : (State.rekeyPage s key k p c).pools = s.pools := by
  simp only [State.rekeyPage]; repeat' split
  all_goals simp

@[simp] theorem State.reencrypt_pools (s : State) (k p : Nat) (v : VSlot) : (State.reencrypt s k p v).pools = s.pools := by
  simp only [State.reencrypt]; repeat' split
  all_goals simp

@[simp] theorem State.bumpMinor_pools (s : State) (k p g : Nat) : (State.bumpMinor s k p g).pools = s.pools := by
  unfold State.bumpMinor; split <;> simp

@[simp] theorem State.glazeWrite_pools (s : State) (tier off len : Nat) : (State.glazeWrite s tier off len).pools = s.pools := by
  simp only [State.glazeWrite]; repeat' split
  all_goals simp

@[simp] theorem State.writeNode_pools (s : State) (level pos : Nat) : (State.writeNode s level pos).pools = s.pools := by
  unfold State.writeNode; split <;> simp

@[simp] theorem State.halt_pools (s : State) (r : Seal) : (State.halt s r).pools = s.pools := by
  unfold State.halt; split <;> simp

@[simp] theorem State.append_pools (s : State) (f : Nat) (r : Receipt) : (State.append s f r).pools = s.pools := by
  simp only [State.append]; repeat' split
  all_goals simp

@[simp] theorem State.persistPut_pools (s : State) (o : Nat) (b : Blob) : (State.persistPut s o b).pools = s.pools := by
  rfl

@[simp] theorem State.putHeader_pools (s : State) (clean : Bool) : (State.putHeader s clean).pools = s.pools := by
  rfl

@[simp] theorem State.persistOne_pools (s : State) (x : Receipt) : (State.persistOne s x).pools = s.pools := by
  unfold State.persistOne
  dsimp only
  rw [State.putHeader_pools]
  simp

@[simp] theorem State.restartDue_pools (s : State) (f : Nat) : (State.restartDue s f).pools = s.pools := by
  unfold State.restartDue; split <;> simp

@[simp] theorem State.persistAll_pools (s : State) : (State.persistAll s).pools = s.pools := by
  simp [State.persistAll]

@[simp] theorem State.regionWrite_pools (s : State) (off : Nat) (b : Blob) : (State.regionWrite s off b).pools = s.pools := by
  simp [State.regionWrite]

@[simp] theorem State.regionPut_pools (s : State) (off : Nat) (b : Blob) : (State.regionPut s off b).pools = s.pools := by
  simp only [State.regionPut]; repeat' split
  all_goals try simp
  all_goals (apply foldl_pools; intro t x; try dsimp only)
  all_goals repeat' split
  all_goals first | (simp; done) | (apply foldl_pools; intro t x; (try dsimp only); (repeat' split) <;> simp)

@[simp] theorem State.placeTables_pools (s : State) (x : Nat) (ls : List Leaf) : (State.placeTables s x ls).pools = s.pools := by
  rfl

@[simp] theorem State.putTables_pools (s : State) (x : Nat) (ls : List Leaf) : (State.putTables s x ls).pools = s.pools := by
  simp [State.putTables]

@[simp] theorem State.crevWrite_pools (s : State) (r : Crev) : (State.crevWrite s r).pools = s.pools := by
  rfl

@[simp] theorem State.crevPost_pools (s : State) (r0 : Crev) : (State.crevPost s r0).pools = s.pools := by
  simp only [State.crevPost]; repeat' split
  all_goals simp

@[simp] theorem State.crevPostWaiting_pools (s : State) : (State.crevPostWaiting s).pools = s.pools := by
  unfold State.crevPostWaiting; split <;> simp

@[simp] theorem State.tileFault_pools (s : State) (r : Nat) (c : Cmd) (ls : List Leaf) (engines access missingVa : Nat) (ranges : List (Nat × Nat)) (early : Bool) : (State.tileFault s r c ls engines access missingVa ranges early).pools = s.pools := by
  simp only [State.tileFault]; repeat' split
  all_goals simp

@[simp] theorem State.rightsFault_pools (s : State) (c : Cmd) (engines access : Nat) (va : Nat) (ranges lack : List (Nat × Nat)) : (State.rightsFault s c engines access va ranges lack).pools = s.pools := by
  simp [State.rightsFault]

@[simp] theorem State.crevResolve_pools (s : State) (c lo hi : Nat) : (State.crevResolve s c lo hi).pools = s.pools := by
  unfold State.crevResolve; split <;> simp

@[simp] theorem State.crevWithdrawCtx_pools (s : State) (c : Nat) : (State.crevWithdrawCtx s c).pools = s.pools := by
  rfl

@[simp] theorem State.invalidate_pools (s : State) (c lo hi : Nat) (cmd : Option Nat) (change : Option Change) : (State.invalidate s c lo hi cmd change).pools = s.pools := by
  rfl

@[simp] theorem State.fktDeny_pools (s : State) (q : MemReq) : (State.fktDeny s q).pools = s.pools := by
  simp only [State.fktDeny]; repeat' split
  all_goals simp

@[simp] theorem State.hotCount_pools (s : State) (tier offset : Nat) (epoch : Option Nat) : (State.hotCount s tier offset epoch).pools = s.pools := by
  simp only [State.hotCount]; repeat' split
  all_goals simp

@[simp] theorem State.refuseBad_pools (s : State) (q : MemReq) : (State.refuseBad s q).pools = s.pools := by
  unfold State.refuseBad; split <;> simp

@[simp] theorem State.chunkWrite_pools (s : State) (q : MemReq) (data : Blob) : (State.chunkWrite s q data).pools = s.pools := by
  simp only [State.chunkWrite]; repeat' split
  all_goals simp

@[simp] theorem State.putGranule_pools (s : State) (q : MemReq) (data : Blob) : (State.putGranule s q data).pools = s.pools := by
  simp only [State.putGranule]; repeat' split
  all_goals simp

@[simp] theorem State.portWrite_pools (s : State) (q : MemReq) (data : Blob) : (State.portWrite s q data).pools = s.pools := by
  simp only [State.portWrite]; repeat' split
  all_goals try simp
  all_goals (apply foldl_pools; intro t x; try dsimp only)
  all_goals repeat' split
  all_goals first | (simp; done) | (apply foldl_pools; intro t x; (try dsimp only); (repeat' split) <;> simp)

@[simp] theorem State.chunkRead_pools (s : State) (q : MemReq) : (State.chunkRead s q).pools = s.pools := by
  simp only [State.chunkRead]; repeat' split
  all_goals simp

@[simp] theorem State.getGranule_pools (s : State) (q : MemReq) : (s.getGranule q).2.pools = s.pools := by
  simp only [State.getGranule]; repeat' split
  all_goals simp

/-- A fold over a pair of bytes and state. -/
theorem foldPair_pools {β : Type} (f : Blob × State → β → Blob × State) (l : List β) (x : Blob × State) (h : ∀ y a, (f y a).2.pools = y.2.pools) :
    (l.foldl f x).2.pools = x.2.pools := by induction l generalizing x with | nil => rfl | cons a l ih => simp [ih, h]

@[simp] theorem State.portRead_pools (s : State) (q : MemReq) (n : Nat) : (s.portRead q n).2.pools = s.pools := by
  simp only [State.portRead]; rw [foldPair_pools]; intro y a; (try dsimp only); split <;> simp

@[simp] theorem State.readVa_pools (s : State) (r : Nat) (c : Cmd) (ls : List Leaf) (va len : Nat) : (s.readVa r c ls va len).2.pools = s.pools := by
  simp only [State.readVa]; rw [foldPair_pools]; intro y a; (try dsimp only); repeat' split
  all_goals simp

@[simp] theorem putFrames_pools (a : Alloc) (q : MemReq) (f off : Nat) (b : Blob) (s : State) : (putFrames a q f off b s).pools = s.pools := by
  induction f generalizing off b s with
  | zero => rfl
  | succ f ih => simp only [putFrames]; split <;> simp [ih]

@[simp] theorem getFrames_pools (a : Alloc) (q : MemReq) (f off n : Nat) (s : State) : (getFrames a q f off n s).2.pools = s.pools := by
  induction f generalizing off n s with
  | zero => rfl
  | succ f ih => simp only [getFrames]; split <;> simp [ih]

@[simp] theorem State.allocPut_pools (s : State) (a : Alloc) (q : MemReq) (off : Nat) (b : Blob) : (State.allocPut s a q off b).pools = s.pools := by
  simp [State.allocPut]

@[simp] theorem State.allocGet_pools (s : State) (a : Alloc) (q : MemReq) (off n : Nat) : (s.allocGet a q off n).2.pools = s.pools := by
  simp [State.allocGet]

@[simp] theorem State.pageWritten_pools (s : State) (p : Page) (mem : List Host.Cell) : (State.pageWritten s p mem).pools = s.pools := by
  unfold State.pageWritten
  rw [foldl_pools]
  intro t o; simp

@[simp] theorem State.zeroPage_pools (s : State) (p : Page) : (State.zeroPage s p).pools = s.pools := State.pageWritten_pools _ _ _

@[simp] theorem State.copyPage_pools (s : State) (m : Move) : (State.copyPage s m).pools = s.pools := by
  unfold State.copyPage
  rw [State.pageWritten_pools, foldl_pools]
  intro t o; split <;> simp

@[simp] theorem State.doMoves_pools (s : State) (mv : List Move) (fresh : List Page) : (State.doMoves s mv fresh).pools = s.pools := by
  simp [State.doMoves]

@[simp] theorem State.syncSeq_pools (s : State) (i : Nat) (q : Sequence) : (State.syncSeq s i q).pools = s.pools := by
  simp [State.syncSeq]

@[simp] theorem State.syncSeqs_pools (s : State) : (State.syncSeqs s).pools = s.pools := by
  simp [State.syncSeqs]

theorem State.reserve_pools {s s' : State} {r seq n : Nat} {own : Option Nat} (h : s.reserve r seq n own = some s') : s'.pools = s.pools := by
  simp only [State.reserve] at h
  split at h
  · cases h
  · cases h; simp

@[simp] theorem State.fitBlocks_pools (s : State) (i : Nat) : (State.fitBlocks s i).pools = s.pools := by
  unfold State.fitBlocks; split <;> simp

@[simp] theorem State.unreserve_pools (s : State) (r : Nat) : (State.unreserve s r).pools = s.pools := by
  unfold State.unreserve; split <;> simp

@[simp] theorem State.freeSeqPages_pools (s : State) (i keep : Nat) : (State.freeSeqPages s i keep).pools = s.pools := by
  unfold State.freeSeqPages; split <;> simp

@[simp] theorem State.releaseSeq_pools (s : State) (i : Nat) : (State.releaseSeq s i).pools = s.pools := by
  simp [State.releaseSeq]

@[simp] theorem State.takeTokens_pools (s : State) (c : Cmd) (take : Bool) : (State.takeTokens s c take).pools = s.pools := by
  rfl

@[simp] theorem State.loosen_pools (s : State) (i : Nat) : (State.loosen s i).pools = s.pools := by
  simp only [State.loosen]; repeat' split
  all_goals try simp
  all_goals (apply foldl_pools; intro t x; try dsimp only)
  all_goals repeat' split
  all_goals first | (simp; done) | (apply foldl_pools; intro t x; (try dsimp only); (repeat' split) <;> simp)

@[simp] theorem State.snowEnd_pools (s : State) (r : Nat) (ok : Bool) : (State.snowEnd s r ok).pools = s.pools := by
  simp only [State.snowEnd]; repeat' split
  all_goals simp

theorem foldPass_pools {β : Type} (f : Pass → β → Pass) (l : List β) (p : Pass) (h : ∀ q a, (f q a).s.pools = q.s.pools) :
    (l.foldl f p).s.pools = p.s.pools := by induction l generalizing p with | nil => rfl | cons a l ih => simp [ih, h]

@[simp] theorem Pass.grow_pools (p : Pass) (e : Nat × Cmd) : (p.grow e).s.pools = p.s.pools := by
  simp only [Pass.grow]; repeat' split
  · rfl
  · simp
  · rw [foldPass_pools]; intro q i; (try dsimp only); split
    · rfl
    · split
      · rename_i h; exact State.reserve_pools h
      · rfl

@[simp] theorem foldGrow_pools (l : List (Nat × Cmd)) (p : Pass) : (l.foldl Pass.grow p).s.pools = p.s.pools := foldPass_pools _ _ _ Pass.grow_pools

@[simp] theorem State.startStep_pools (s : State) (r : Nat) (c : Cmd) : (State.startStep s r c).pools = s.pools := by
  rfl

@[simp] theorem State.createSeq_pools (s : State) (r : Nat) (c : Cmd) : (State.createSeq s r c).pools = s.pools := by
  simp only [State.createSeq]; repeat' split
  all_goals simp

theorem Pass.join_pools (p : Pass) (e : Nat × Cmd) : (p.join e).s.pools = p.s.pools := by
  have h1 : ∀ (l : List Nat) (p : Pass), (l.foldl (fun (q : Pass) i =>
      if q.cut.isSome then q
      else match q.s.reserve e.1 i (q.s.lacks e.1 e.2 i) none with
        | some s1 => { q with s := s1 }
        | none => { q with cut := some e.1 }) p).s.pools = p.s.pools := by
    intro l p
    apply foldPass_pools
    intro q i
    split
    · rfl
    · split
      · rename_i h; exact State.reserve_pools h
      · rfl
  unfold Pass.join
  dsimp only
  repeat' split
  all_goals first | rfl | exact h1 _ _ | (simp; done) | (simp; exact h1 _ _)

@[simp] theorem joinPhase_pools (l : List (Nat × Cmd)) (p : Pass) : (joinPhase l p).s.pools = p.s.pools := by
  induction l generalizing p with
  | nil => rfl
  | cons e t ih => simp only [joinPhase]; repeat' split
                   all_goals simp [ih, Pass.join_pools]

@[simp] theorem Pass.over_pools (p : Pass) (l : List (Nat × Cmd)) : (p.over l).s.pools = p.s.pools := by
  unfold Pass.over; simp

@[simp] theorem State.applyLeaves_pools (s : State) : (State.applyLeaves s).pools = s.pools := by
  simp only [State.applyLeaves]; repeat' split
  all_goals try simp
  all_goals (apply foldl_pools; intro t x; try dsimp only)
  all_goals repeat' split
  all_goals first | (simp; done) | (apply foldl_pools; intro t x; (try dsimp only); (repeat' split) <;> simp)

@[simp] theorem State.passOver_pools (s : State) (l : List (Nat × Cmd)) (cut : Option Nat) : (s.passOver l cut).s.pools = s.pools := by
  have h : ∀ m : List (Nat × Cmd), (({ s := s } : Pass).over m).s.pools = s.pools := fun m => Pass.over_pools _ _
  unfold State.passOver
  dsimp only
  split
  · exact h _
  · split
    · exact h _
    · exact (Pass.over_pools _ _).trans (h _)

@[simp] theorem State.pass_pools (s : State) : s.pass.pools = s.pools := by
  have h : ∀ (l : List (Nat × Cmd)) (t : State), (l.foldl (fun (t : State) (e : Nat × Cmd) => t.unreserve e.1) t).pools = t.pools :=
    fun l t => foldl_pools _ _ _ (by simp)
  unfold State.pass
  rw [State.syncSeqs_pools]
  dsimp only
  split <;> simp [h]

@[simp] theorem writeAdapter_pools (a : Alloc) (q : MemReq) (l : List Placed) (b : Blob) (s : State) : (writeAdapter a q l b s).pools = s.pools := by
  induction l generalizing b s with
  | nil => rfl
  | cons p t ih => simp only [writeAdapter]; rw [ih]; simp

@[simp] theorem State.zeroTraining_pools (s : State) (a : Alloc) (q : MemReq) (lay : List Placed × Nat × Nat) (saveBytes : Nat) (grads : Bool) : (State.zeroTraining s a q lay saveBytes grads).pools = s.pools := by
  simp [State.zeroTraining]

@[simp] theorem State.zeroGradients_pools (s : State) (r : Nat) (c : Cmd) : (State.zeroGradients s r c).pools = s.pools := by
  simp only [State.zeroGradients]; repeat' split
  all_goals try simp
  all_goals (apply foldl_pools; intro t x; try dsimp only)
  all_goals repeat' split
  all_goals first | (simp; done) | (apply foldl_pools; intro t x; (try dsimp only); (repeat' split) <;> simp)

@[simp] theorem State.readSlice_pools (s : State) (e r : Nat) (c : Cmd) (x : Slice) : (s.readSlice e r c x).pools = s.pools := by
  unfold State.readSlice
  repeat' split
  all_goals first | rfl | exact foldl_pools _ _ _ (by simp)

@[simp] theorem State.fetchSlice_pools (s : State) (e r : Nat) (c : Cmd) (x : Slice) : (State.fetchSlice s e r c x).pools = s.pools := by
  simp only [State.fetchSlice]; repeat' split
  all_goals simp

@[simp] theorem State.needSlice_pools (s : State) (e r : Nat) (c : Cmd) (x : Slice) : (State.needSlice s e r c x).pools = s.pools := by
  simp only [State.needSlice]; repeat' split
  all_goals simp

@[simp] theorem State.segmentSlices_pools (s : State) (e r : Nat) (c : Cmd) (xs : List Slice) : (State.segmentSlices s e r c xs).pools = s.pools := by
  simp [State.segmentSlices]

@[simp] theorem State.assign_pools (s : State) (t : Tap) (c : Cmd) : (State.assign s t c).pools = s.pools := by
  simp only [State.assign]; repeat' split
  all_goals simp

@[simp] theorem State.queueTap_pools (s : State) (t : Tap) (c : Cmd) : (State.queueTap s t c).pools = s.pools := by
  simp [State.queueTap]

@[simp] theorem State.refetch_pools (s : State) (t : Tap) (c : Cmd) : (State.refetch s t c).pools = s.pools := by
  simp [State.refetch]

@[simp] theorem State.siltClear_pools (s : State) (n : Nat) : (State.siltClear s n).pools = s.pools := by
  simp only [State.siltClear]; repeat' split
  all_goals try simp
  all_goals (apply foldl_pools; intro t x; try dsimp only)
  all_goals repeat' split
  all_goals first | (simp; done) | (apply foldl_pools; intro t x; (try dsimp only); (repeat' split) <;> simp)

@[simp] theorem State.answerNull_pools (s : State) (t : Tap) : (State.answerNull s t).pools = s.pools := by
  unfold State.answerNull; split <;> simp

@[simp] theorem State.addArray_pools (s : State) (a : Alloc) (q : MemReq) (off first : Nat) (vals : List Nat) : (State.addArray s a q off first vals).pools = s.pools := by
  unfold State.addArray; split <;> simp

@[simp] theorem State.saveRows_pools (s : State) (t : Tap) (c : Cmd) (rows : List Nat) (id k : Nat) (v : Variant) (a : Alloc) : (State.saveRows s t c rows id k v a).pools = s.pools := by
  simp [State.saveRows]

@[simp] theorem State.savedRows_pools (s : State) (t : Tap) (c : Cmd) (rows : List Nat) (id k : Nat) (v : Variant) (a : Alloc) :
    (s.savedRows t c rows id k v a).2.pools = s.pools := by
  have go : ∀ (l : List Nat) (y : List (List Fp) × State), (l.foldl (fun y i =>
      let x := y.2.allocGet a { a.req y.2.nodeId t.cmd c with epoch := some t.epoch } (v.savePlace c id k (t.first + i) + actBytes t.fmt t.ansFirst)
        (actBytes t.fmt t.ansCount)
      (y.1 ++ [readActs t.fmt t.ansCount x.1], x.2)) y).2.pools = y.2.pools := by
    intro l
    induction l with
    | nil => intro y; rfl
    | cons i l ih => intro y; simp [ih]
  exact go _ _

@[simp] theorem State.accumulateFor_pools (s : State) (t : Tap) (c : Cmd) (x : Arith) (id : Nat) : (s.accumulateFor t c x id).pools = s.pools := by
  have h3 : ∀ (l : List Comp) (u : State) (g : State → Comp → State) (_ : ∀ u c, (g u c).pools = u.pools), (l.foldl g u).pools = u.pools :=
    fun l u g h => foldl_pools g l u h
  unfold State.accumulateFor
  repeat' split
  all_goals first
    | rfl
    | (dsimp only
       simp only [State.saveRows_pools]
       rw [foldl_pools]
       · simp
       · intro u z; split <;> simp)
    | (dsimp only
       rw [foldl_pools]
       · simp
       · intro u z; split <;> simp)
    | (dsimp only
       rw [foldl_pools]
       intro u z; split <;> simp)
    | (dsimp only
       simp only [State.saveRows_pools]
       rw [foldl_pools]
       intro u z; split <;> simp)

@[simp] theorem State.accumulateTap_pools (s : State) (t : Tap) (c : Cmd) : (State.accumulateTap s t c).pools = s.pools := by
  unfold State.accumulateTap; split <;> simp

@[simp] theorem State.updateComp_pools (s : State) (q : MemReq) (v : Variant) (a : Alloc) (o : Opt) (stoch : Bool) (t base k : Nat) (cmp : Comp) : (State.updateComp s q v a o stoch t base k cmp).pools = s.pools := by
  unfold State.updateComp; split <;> simp

@[simp] theorem State.gradBad_pools (s : State) (q : MemReq) (v : Variant) (a : Alloc) : (s.gradBad q v a).2.pools = s.pools := by
  have h : ∀ (l : List Placed) (x : Bool × State), (l.foldl (fun (x : Bool × State) p =>
      let b := x.2.allocGet a q p.off (roundUp 512 (4 * p.elems))
      (x.1 || (List.range p.elems).any fun i => f32Bad (fld b.1 (4 * i) 4), b.2)) x).2.pools = x.2.pools := by
    intro l
    induction l with
    | nil => intro x; rfl
    | cons p l ih => intro x; rw [List.foldl_cons, ih]; simp
  exact h _ _

@[simp] theorem State.updateVariant_pools (s : State) (r : Nat) (c : Cmd) (o : Opt) (stoch : Bool) (id : Nat) :
    (s.updateVariant r c o stoch id).pools = s.pools := by
  have h : ∀ (g : Nat) (q : MemReq) (v : Variant) (a : Alloc) (t : Nat) (l : List (VarEntry × Nat)) (u : State),
      (l.foldl (fun u e => e.1.trained.foldl (fun w cmp => w.updateComp q v a o stoch t g e.2 cmp) u) u).pools = u.pools := by
    intro g q v a t l u
    rw [foldl_pools]; intro u e; rw [foldl_pools]; intro u e; simp
  simp only [State.updateVariant]
  repeat' split
  all_goals first | rfl | (simp; done) | exact h _ _ _ _ _ _ _

@[simp] theorem State.tear_pools (s : State) (c : Cmd) : (State.tear s c).pools = s.pools := by
  rfl

@[simp] theorem State.withdrawFns_pools (s : State) (r : Nat) : (State.withdrawFns s r).pools = s.pools := by
  rfl

@[simp] theorem State.withdrawUnits_pools (s : State) (r : Nat) : (State.withdrawUnits s r).pools = s.pools := by
  rfl

@[simp] theorem State.freeIdx_pools (s : State) (l : List Nat) : (State.freeIdx s l).pools = s.pools := by
  rfl

@[simp] theorem State.absentImage_pools (s : State) (i : Nat) : (State.absentImage s i).pools = s.pools := by
  simp only [State.absentImage]; repeat' split
  all_goals simp

@[simp] theorem State.dropLoadVersion_pools (s : State) (l : Load) : (State.dropLoadVersion s l).pools = s.pools := by
  simp only [State.dropLoadVersion]; repeat' split
  all_goals simp

@[simp] theorem State.undrain_pools (s : State) (i : Nat) : (State.undrain s i).pools = s.pools := by
  unfold State.undrain; split <;> simp

@[simp] theorem State.withdrawLoad_pools (s : State) (r : Nat) : (State.withdrawLoad s r).pools = s.pools := by
  simp only [State.withdrawLoad]; repeat' split
  all_goals simp

@[simp] theorem State.withdraw_pools (s : State) (r : Nat) : (State.withdraw s r).pools = s.pools := by
  simp [State.withdraw]

@[simp] theorem State.pruneGraphs_pools (s : State) : (State.pruneGraphs s).pools = s.pools := by
  rfl

@[simp] theorem State.pruneImages_pools (s : State) : (State.pruneImages s).pools = s.pools := by
  simp only [State.pruneImages]; repeat' split
  all_goals simp

@[simp] theorem State.prune_pools (s : State) : (State.prune s).pools = s.pools := by
  simp [State.prune]

@[simp] theorem State.releaseSaves_pools (s : State) (r c : Nat) (ok : Bool) : (State.releaseSaves s r c ok).pools = s.pools := by
  simp only [State.releaseSaves]; repeat' split
  all_goals simp

@[simp] theorem State.finish_pools (s : State) (r : Nat) (st : Status) : (State.finish s r st).pools = s.pools := by
  simp only [State.finish]; repeat' split
  all_goals simp

@[simp] theorem State.discard_pools (s : State) (r : Nat) : (State.discard s r).pools = s.pools := by
  unfold State.discard; split <;> simp

@[simp] theorem State.drainIfIdle_pools (s : State) (r : Nat) : (State.drainIfIdle s r).pools = s.pools := by
  simp only [State.drainIfIdle]; repeat' split
  all_goals simp

@[simp] theorem State.fail_pools (s : State) (r : Nat) (st : Status) : (State.fail s r st).pools = s.pools := by
  simp [State.fail]

@[simp] theorem State.failList_pools (s : State) (l : List Nat) (st : Status) : (State.failList s l st).pools = s.pools := by
  simp [State.failList]

@[simp] theorem State.kill_pools (s : State) (r : Nat) (st : Status) : (State.kill s r st).pools = s.pools := by
  simp only [State.kill]; repeat' split
  all_goals simp

@[simp] theorem State.drivePhys_pools (s : State) (k : Nat) (release : Bool) : (State.drivePhys s k release).pools = s.pools := by
  rfl

@[simp] theorem State.driveBypass_pools (s : State) (k : Nat) (high : Bool) : (State.driveBypass s k high).pools = s.pools := by
  rfl

@[simp] theorem State.linkDown_pools (s : State) (n reason : Nat) : (State.linkDown s n reason).pools = s.pools := by
  simp [State.linkDown]

@[simp] theorem State.cutPassing_pools (s : State) (n : Nat) : (State.cutPassing s n).pools = s.pools := by
  rfl

@[simp] theorem State.dropLink_pools (s : State) (n reason : Nat) (joining : Bool) : (State.dropLink s n reason joining).pools = s.pools := by
  simp only [State.dropLink]; repeat' split
  all_goals simp

@[simp] theorem State.releaseRing_pools (s : State) (k reason : Nat) (failed : Bool) : (State.releaseRing s k reason failed).pools = s.pools := by
  simp [State.releaseRing]

@[simp] theorem State.beginJoin_pools (s : State) (k : Nat) : (State.beginJoin s k).pools = s.pools := by
  rfl

@[simp] theorem State.runReleases_pools (f : Nat) (s : State) : (State.runReleases f s).pools = s.pools := by
  induction f generalizing s with
  | zero => rfl
  | succ f ih => simp only [State.runReleases]; split <;> simp [ih]

@[simp] theorem State.ringCtl_pools (s : State) (k : Nat) (join : Bool) : (State.ringCtl s k join).pools = s.pools := by
  simp [State.ringCtl]

@[simp] theorem State.wantJoin_pools (s : State) (k : Nat) : (State.wantJoin s k).pools = s.pools := by
  unfold State.wantJoin; split <;> simp

@[simp] theorem State.sendFrame_pools (s : State) (n typ stream seq first : Nat) (payload : Blob) : (State.sendFrame s n typ stream seq first payload).pools = s.pools := by
  rfl

@[simp] theorem State.creditPassed_pools (s : State) (before : List TxItem) (after : List TxItem) : (State.creditPassed s before after).pools = s.pools := by
  simp only [State.creditPassed]; repeat' split
  all_goals try simp
  all_goals (apply foldl_pools; intro t x; try dsimp only)
  all_goals repeat' split
  all_goals first | (simp; done) | (apply foldl_pools; intro t x; (try dsimp only); (repeat' split) <;> simp)

@[simp] theorem State.sendData_pools (s : State) (n stream : Nat) : (State.sendData s n stream).pools = s.pools := by
  simp [State.sendData]

@[simp] theorem State.pumpFrames_pools (n f : Nat) (s : State) : (State.pumpFrames n f s).pools = s.pools := by
  induction f generalizing s with
  | zero => rfl
  | succ f ih => simp only [State.pumpFrames]; split <;> simp [ih]

@[simp] theorem State.pump_pools (s : State) (n : Nat) : (State.pump s n).pools = s.pools := by
  unfold State.pump; split <;> simp

@[simp] theorem State.toLink_pools (s : State) (n vc : Nat) (m : FloeMsg) : (State.toLink s n vc m).pools = s.pools := by
  simp [State.toLink]

@[simp] theorem State.startCensus_pools (s : State) (k : Nat) : (State.startCensus s k).pools = s.pools := by
  simp [State.startCensus]

@[simp] theorem State.linkMoved_pools (s : State) (k : Nat) : (State.linkMoved s k).pools = s.pools := by
  simp only [State.linkMoved]; repeat' split
  all_goals simp

@[simp] theorem State.loseLink_pools (s : State) (n reason : Nat) : (State.loseLink s n reason).pools = s.pools := by
  unfold State.loseLink; split <;> simp

@[simp] theorem State.trainLink_pools (s : State) (n : Nat) : (State.trainLink s n).pools = s.pools := by
  unfold State.trainLink; split <;> simp

@[simp] theorem State.retrain_pools (s : State) (n reason : Nat) (counted : Bool) : (State.retrain s n reason counted).pools = s.pools := by
  simp only [State.retrain]; repeat' split
  all_goals simp

@[simp] theorem State.resend_pools (s : State) (n : Nat) : (State.resend s n).pools = s.pools := by
  simp only [State.resend]; repeat' split
  all_goals simp

@[simp] theorem State.sendOn_pools (s : State) (r : Nat × Bool) (m : FloeMsg) : (State.sendOn s r m).pools = s.pools := by
  simp [State.sendOn]

@[simp] theorem State.floeDiscard_pools (s : State) : (State.floeDiscard s).pools = s.pools := by
  rfl

@[simp] theorem State.forward_pools (s : State) (link : Nat) (m : FloeMsg) : (State.forward s link m).pools = s.pools := by
  simp only [State.forward]; repeat' split
  all_goals simp

@[simp] theorem State.floeProtocol_pools (s : State) (n : Nat) : (State.floeProtocol s n).pools = s.pools := by
  rfl

@[simp] theorem State.answerMsg_pools (s : State) (m : FloeMsg) (typ status : Nat) (body : Blob) : (State.answerMsg s m typ status body).pools = s.pools := by
  unfold State.answerMsg; split <;> simp

@[simp] theorem State.endWork_pools (s : State) (q : MemReq) (st : Status) : (State.endWork s q st).pools = s.pools := by
  simp only [State.endWork]; repeat' split
  all_goals simp

@[simp] theorem State.unreachable_pools (s : State) (tag : Nat) (q : MemReq) : (State.unreachable s tag q).pools = s.pools := by
  simp [State.unreachable]

@[simp] theorem State.setRemote_pools (s : State) (tag : Nat) (x : Remote) : (State.setRemote s tag x).pools = s.pools := by
  rfl

@[simp] theorem State.sendRemote_pools (s : State) (tag : Nat) (x : Remote) : (State.sendRemote s tag x).pools = s.pools := by
  simp [State.sendRemote]

@[simp] theorem State.staleRemote_pools (s : State) (q : MemReq) : (State.staleRemote s q).pools = s.pools := by
  unfold State.staleRemote; split <;> simp

@[simp] theorem State.remoteIssue_pools (s : State) (q : MemReq) : (State.remoteIssue s q).pools = s.pools := by
  simp only [State.remoteIssue]; repeat' split
  all_goals simp

@[simp] theorem State.releaseHeld_pools (s : State) : (State.releaseHeld s).pools = s.pools := by
  simp only [State.releaseHeld]; repeat' split
  all_goals try simp
  all_goals (apply foldl_pools; intro t x; try dsimp only)
  all_goals repeat' split
  all_goals first | (simp; done) | (apply foldl_pools; intro t x; (try dsimp only); (repeat' split) <;> simp)

@[simp] theorem State.adoptCensus_pools (s : State) (k : Nat) (nodes : List Nat) : (State.adoptCensus s k nodes).pools = s.pools := by
  simp [State.adoptCensus]

@[simp] theorem State.linkUp_pools (s : State) (n farNode farLink : Nat) : (State.linkUp s n farNode farLink).pools = s.pools := by
  simp only [State.linkUp]; repeat' split
  all_goals simp

@[simp] theorem State.countFor_pools (s : State) (u x : Nat) (f : Cmd → Cmd) : (State.countFor s u x f).pools = s.pools := by
  rfl

@[simp] theorem State.sendPreempt_pools (s : State) (u x mode : Nat) : (State.sendPreempt s u x mode).pools = s.pools := by
  unfold State.sendPreempt; split <;> simp

@[simp] theorem State.stopStreams_pools (s : State) (u x : Nat) : (State.stopStreams s u x).pools = s.pools := by
  rfl

@[simp] theorem State.startStream_pools (s : State) (u r : Nat) (c : Cmd) (pass layer : Nat) (again : Bool) : (State.startStream s u r c pass layer again).pools = s.pools := by
  simp only [State.startStream]; repeat' split
  all_goals simp

@[simp] theorem State.marginLog_pools (s : State) (m : MarginEnt) : (State.marginLog s m).pools = s.pools := by
  simp only [State.marginLog]; repeat' split
  all_goals simp

@[simp] theorem State.layerDone_pools (s : State) (u : Nat) (w : Stream) (layer : Nat) : (State.layerDone s u w layer).pools = s.pools := by
  unfold State.layerDone; split <;> simp

@[simp] theorem State.modSave_pools (s : State) (x u : Nat) (f : SaveArea → SaveArea) : (State.modSave s x u f).pools = s.pools := by
  rfl

@[simp] theorem State.nowHolds_pools (s : State) (u x : Nat) : (State.nowHolds s u x).pools = s.pools := by
  rfl

@[simp] theorem State.resume_pools (s : State) (u x mode pass layer : Nat) : (State.resume s u x mode pass layer).pools = s.pools := by
  simp only [State.resume]; repeat' split
  all_goals simp

@[simp] theorem State.bringIn_pools (s : State) (u x : Nat) : (State.bringIn s u x).pools = s.pools := by
  simp only [State.bringIn]; repeat' split
  all_goals simp

@[simp] theorem State.switchOut_pools (s : State) (u x : Nat) : (State.switchOut s u x).pools = s.pools := by
  simp only [State.switchOut]; repeat' split
  all_goals simp

@[simp] theorem State.switchOn_pools (s : State) (u : Nat) : (State.switchOn s u).pools = s.pools := by
  simp only [State.switchOn]; repeat' split
  all_goals simp

@[simp] theorem State.grantTurn_pools (s : State) (u : Nat) (p : Pick) : (State.grantTurn s u p).pools = s.pools := by
  unfold State.grantTurn; split <;> simp

@[simp] theorem State.endTurn_pools (s : State) (u : Nat) : (State.endTurn s u).pools = s.pools := by
  rfl

@[simp] theorem State.cutTurn_pools (s : State) (u : Nat) : (State.cutTurn s u).pools = s.pools := by
  simp only [State.cutTurn]; repeat' split
  all_goals simp

@[simp] theorem State.noteRealtime_pools (s : State) (u : Nat) : (State.noteRealtime s u).pools = s.pools := by
  rfl

@[simp] theorem State.settleUnit_pools (s : State) (u : Nat) : (State.settleUnit s u).pools = s.pools := by
  simp only [State.settleUnit]; repeat' split
  all_goals simp

@[simp] theorem State.settle_pools (s : State) : (State.settle s).pools = s.pools := by
  simp [State.settle]

@[simp] theorem State.writeSlotStates_pools (s : State) (x : Nat) : (State.writeSlotStates s x).pools = s.pools := by
  unfold State.writeSlotStates; split <;> simp

@[simp] theorem State.swapInCtx_pools (s : State) (x : Nat) : (State.swapInCtx s x).pools = s.pools := by
  simp [State.swapInCtx]

@[simp] theorem State.freeSlots_pools (s : State) (x : Nat) : (State.freeSlots s x).pools = s.pools := by
  rfl

@[simp] theorem State.evictCtx_pools (s : State) (x : Nat) : (State.evictCtx s x).pools = s.pools := by
  simp [State.evictCtx]

@[simp] theorem State.unverifiable_pools (s : State) (level pos : Nat) (owner : Option Nat) : (State.unverifiable s level pos owner).pools = s.pools := by
  simp only [State.unverifiable]; repeat' split
  all_goals simp

@[simp] theorem State.runAdmin_pools (s : State) (r opc : Nat) (f : State → Cmd → State) (hf : ∀ t x0, (f t x0).pools = t.pools) : (State.runAdmin s r opc f).pools = s.pools := by
  simp only [State.runAdmin]; repeat' split
  all_goals simp [hf]

@[simp] theorem State.withData_pools (s : State) (r : Nat) (c : Cmd) (io : HostIo) (n : Nat) (f : State → Blob → State) (hf : ∀ t x0, (f t x0).pools = t.pools) : (State.withData s r c io n f).pools = s.pools := by
  simp only [State.withData]; repeat' split
  all_goals simp [hf]

@[simp] theorem State.answer_pools (s : State) (r : Nat) (c : Cmd) (io : HostIo) (b : Blob) (eff : State → State) (heff : ∀ t , (eff t ).pools = t.pools) : (State.answer s r c io b eff).pools = s.pools := by
  unfold State.answer; split <;> simp [heff]

@[simp] theorem State.failWith_pools (s : State) (r : Nat) (c : Cmd) (io : HostIo) (b : Blob) (st : Status) : (State.failWith s r c io b st).pools = s.pools := by
  simp [State.failWith]

@[simp] theorem State.adoptLink_pools (s : State) (n : Nat) (data : Blob) : (State.adoptLink s n data).pools = s.pools := by
  simp only [State.adoptLink]; repeat' split
  all_goals simp

@[simp] theorem State.adoptEffect_pools (s : State) (e : Nat) (i : CfgItem) : (State.adoptEffect s e i).pools = s.pools := by
  simp only [State.adoptEffect]; repeat' split
  all_goals simp

@[simp] theorem State.completeEffect_pools (s : State) (x : Staged) : (State.completeEffect s x).pools = s.pools := by
  unfold State.completeEffect; split <;> simp

@[simp] theorem State.answerStaged_pools (s : State) (x : Staged) : (State.answerStaged s x).pools = s.pools := by
  unfold State.answerStaged; split <;> simp

@[simp] theorem State.completeEpochs_pools (f : Nat) (s : State) : (State.completeEpochs f s).pools = s.pools := by
  induction f generalizing s with
  | zero => rfl
  | succ f ih => simp only [State.completeEpochs]; repeat' split
                 all_goals simp [ih]

@[simp] theorem State.completeDue_pools (s : State) : (State.completeDue s).pools = s.pools := by
  simp [State.completeDue]

@[simp] theorem State.adoptOne_pools (s : State) (e : Nat) (force : Bool) : (State.adoptOne s e force).pools = s.pools := by
  simp only [State.adoptOne]; repeat' split
  all_goals simp

@[simp] theorem State.adoptAll_pools (s : State) (e : Nat) : (State.adoptAll s e).pools = s.pools := by
  simp [State.adoptAll]

@[simp] theorem State.stage_pools (s : State) (i : CfgItem) (cmd : Option Nat) : (State.stage s i cmd).pools = s.pools := by
  simp [State.stage]

@[simp] theorem State.openRecord_pools (s : State) (r : RstRec) : (s.openRecord r).2.pools = s.pools := by
  simp only [State.openRecord]; split <;> simp

@[simp] theorem State.closeRecord_pools (s : State) (slot outcome : Nat) (fenced : Bool) : (State.closeRecord s slot outcome fenced).pools = s.pools := by
  simp only [State.closeRecord]; repeat' split
  all_goals simp

@[simp] theorem State.killCtx_pools (s : State) (x : Nat) (st : Status) : (State.killCtx s x st).pools = s.pools := by
  simp only [State.killCtx]; repeat' split
  all_goals try simp
  all_goals (apply foldl_pools; intro t x; try dsimp only)
  all_goals repeat' split
  all_goals first | (simp; done) | (apply foldl_pools; intro t x; (try dsimp only); (repeat' split) <;> simp)

@[simp] theorem State.oosCmd_pools (s : State) (tarn : Bool) (r : Nat) : (State.oosCmd s tarn r).pools = s.pools := by
  simp only [State.oosCmd]; repeat' split
  all_goals simp

@[simp] theorem State.holdDomain_pools (s : State) : (State.holdDomain s).pools = s.pools := by
  rfl

@[simp] theorem State.closeIfOpen_pools (s : State) (slot outcome : Nat) : (State.closeIfOpen s slot outcome).pools = s.pools := by
  unfold State.closeIfOpen; split <;> simp

@[simp] theorem State.outOfService_pools (s : State) (cause engine : Nat) : (State.outOfService s cause engine).pools = s.pools := by
  have h : ∀ (l : List (Nat × Cmd)) (t : State), (l.foldl (fun t e => if e.2.updating then t.tear e.2 else t) t).pools = t.pools :=
    fun l t => foldl_pools _ _ _ (by intro t e; split <;> simp)
  have h2 : ∀ (l : List Nat) (t : State), (l.foldl (fun t n => t.closeIfOpen n 3) t).pools = t.pools := fun l t => foldl_pools _ _ _ (by simp)
  have h3 : ∀ (l : List Nat) (b : Bool) (t : State), (l.foldl (State.oosCmd · b ·) t).pools = t.pools := fun l b t => foldl_pools _ _ _ (by simp)
  simp only [State.outOfService]
  repeat' split
  all_goals simp [h, h2, h3]

@[simp] theorem State.nullTaps_pools (s : State) (x : Nat) : (State.nullTaps s x).pools = s.pools := by
  simp [State.nullTaps]

@[simp] theorem State.abandon_pools (s : State) (x u : Nat) : (State.abandon s x u).pools = s.pools := by
  rfl

@[simp] theorem State.ctxResetDone_pools (s : State) (x : Nat) : (State.ctxResetDone s x).pools = s.pools := by
  simp only [State.ctxResetDone]; repeat' split
  all_goals simp

@[simp] theorem State.ctxResetSettle_pools (s : State) (x : Nat) : (State.ctxResetSettle s x).pools = s.pools := by
  simp only [State.ctxResetSettle]; repeat' split
  all_goals simp

@[simp] theorem State.ctxResetAnswered_pools (s : State) (x u : Nat) : (State.ctxResetAnswered s x u).pools = s.pools := by
  simp only [State.ctxResetAnswered]; repeat' split
  all_goals simp

@[simp] theorem State.freeDescs_pools (s : State) (x : Nat) : (State.freeDescs s x).pools = s.pools := by
  rfl

@[simp] theorem State.contextReset_pools (s : State) (x cause detail : Nat) (victim : Option (Nat × Status)) (cmd : Option Nat) : (State.contextReset s x cause detail victim cmd).pools = s.pools := by
  simp only [State.contextReset]; repeat' split
  all_goals simp

@[simp] theorem State.rewind_pools (s : State) (x p : Nat) : (State.rewind s x p).pools = s.pools := by
  unfold State.rewind; split <;> simp

@[simp] theorem State.blame_pools (s : State) (slot x : Nat) : (State.blame s slot x).pools = s.pools := by
  simp [State.blame]

@[simp] theorem State.sendBack_pools (s : State) (slot x : Nat) : (State.sendBack s slot x).pools = s.pools := by
  simp [State.sendBack]

@[simp] theorem State.recoverCtx_pools (s : State) (slot : Nat) (guilty : List Nat) (x : Nat) (ps : List Nat) : (State.recoverCtx s slot guilty x ps).pools = s.pools := by
  simp only [State.recoverCtx]; repeat' split
  all_goals simp

@[simp] theorem State.countLost_pools (s : State) (slot n : Nat) : (State.countLost s slot n).pools = s.pools := by
  rfl

@[simp] theorem State.recover_pools (s : State) (slot : Nat) (guilty : List Nat) (lost : List (Nat × Nat)) : (State.recover s slot guilty lost).pools = s.pools := by
  simp [State.recover]

@[simp] theorem State.seracDown_pools (s : State) (p : Nat) (hold : Bool) : (State.seracDown s p hold).pools = s.pools := by
  rfl

@[simp] theorem State.preemptOccupant_pools (s : State) (all : Bool) (u : Nat) : (State.preemptOccupant s all u).pools = s.pools := by
  simp only [State.preemptOccupant]; repeat' split
  all_goals simp

@[simp] theorem State.siltCut_pools (s : State) (n slot : Nat) (guilty : Option Nat) : (State.siltCut s n slot guilty).pools = s.pools := by
  simp only [State.siltCut]; repeat' split
  all_goals try simp
  all_goals (apply foldl_pools; intro t x; try dsimp only)
  all_goals repeat' split
  all_goals first | (simp; done) | (apply foldl_pools; intro t x; (try dsimp only); (repeat' split) <;> simp)

@[simp] theorem State.rewriteBurst_pools (s : State) (q : Queue) : (State.rewriteBurst s q).pools = s.pools := by
  unfold State.rewriteBurst; split <;> simp

@[simp] theorem State.placeWalk_pools (s : State) (w : Walk) : (State.placeWalk s w).pools = s.pools := by
  unfold State.placeWalk; split <;> simp

@[simp] theorem State.nextWalk_pools (s : State) : (State.nextWalk s).pools = s.pools := by
  unfold State.nextWalk; split <;> simp

@[simp] theorem State.handWalk_pools (s : State) (n : Nat) : (State.handWalk s n).pools = s.pools := by
  unfold State.handWalk; split <;> simp

@[simp] theorem State.againWalk_pools (s : State) (p : Nat → Bool) : (State.againWalk s p).pools = s.pools := by
  rfl

@[simp] theorem State.engineBegin_pools (s : State) (e : Nat) : (State.engineBegin s e).pools = s.pools := by
  unfold State.engineBegin
  dsimp only
  by_cases h : e / 256 = 1
  · rw [if_pos h]; simp
  rw [if_neg h]; clear h
  by_cases h : e / 256 = 2
  · rw [if_pos h, State.siltClear_pools]; split <;> simp
  rw [if_neg h]; clear h
  by_cases h : e / 256 = 3
  · rw [if_pos h]; exact foldl_pools _ _ _ (by simp)
  rw [if_neg h]; clear h
  by_cases h : e / 256 = 5
  · rw [if_pos h]; split <;> simp
  rw [if_neg h]; clear h
  by_cases h : e / 256 = 6
  · rw [if_pos h]; simp
  rw [if_neg h]; clear h
  by_cases h : e / 256 = 7
  · rw [if_pos h]
  rw [if_neg h]; clear h
  by_cases h : e / 256 = 8
  · rw [if_pos h]; simp
  rw [if_neg h]; clear h
  by_cases h : e / 256 = 9
  · rw [if_pos h]; dsimp only; rw [State.freeIdx_pools]; exact foldl_pools _ _ _ (by simp)
  rw [if_neg h]

@[simp] theorem State.loseCluster_pools (s : State) (p slot : Nat) (guilty : List Nat) : (State.loseCluster s p slot guilty).pools = s.pools := by
  simp only [State.loseCluster]; repeat' split
  all_goals try simp
  all_goals (apply foldl_pools; intro t x; try dsimp only)
  all_goals repeat' split
  all_goals first | (simp; done) | (apply foldl_pools; intro t x; (try dsimp only); (repeat' split) <;> simp)

@[simp] theorem State.markFenced_pools (s : State) (e : Nat) : (State.markFenced s e).pools = s.pools := by
  simp [State.markFenced]

@[simp] theorem State.fenceSerac_pools (s : State) (p slot : Nat) (guilty : List Nat) : (State.fenceSerac s p slot guilty).pools = s.pools := by
  simp only [State.fenceSerac]; repeat' split
  all_goals simp

@[simp] theorem State.rtReplace_pools (s : State) (n : Nat) : (State.rtReplace s n).pools = s.pools := by
  simp only [State.rtReplace]; repeat' split
  all_goals simp

@[simp] theorem State.fence_pools (s : State) (e slot : Nat) (guilty : Option Nat) : (s.fence e slot guilty).pools = s.pools := by
  have h3 : ∀ (l : List Nat) (b : Bool) (t : State), (l.foldl (State.preemptOccupant · b ·) t).pools = t.pools := fun l b t => foldl_pools _ _ _ (by simp)
  have h4 : ∀ (l : List Nat) (t : State), (l.foldl (fun u p => if u.present p && !(u.eng (seracEngine p)).fenced then u.fenceSerac p slot guilty.toList
      else u) t).pools = t.pools := fun l t => foldl_pools _ _ _ (by intro t p; split <;> simp)
  simp only [State.fence, State.completeDue_pools]
  repeat' split
  all_goals simp only [h3, h4, State.fenceSerac_pools, State.outOfService_pools, State.rtReplace_pools, State.siltClear_pools, State.siltCut_pools, State.markFenced_pools,
    State.updLink_pools, State.releaseRing_pools, State.blame_pools, State.handWalk_pools]

@[simp] theorem State.tarnRestart_pools (s : State) (cause esc : Nat) : (State.tarnRestart s cause esc).pools = s.pools := by
  simp only [State.tarnRestart]; repeat' split
  all_goals simp

@[simp] theorem State.joinReset_pools (s : State) (e : Nat) : (State.joinReset s e).pools = s.pools := by
  unfold State.joinReset; split <;> simp

@[simp] theorem State.engineReset_pools (s : State) (e cause : Nat) (guilty : Option Nat) (detail esc : Nat) : (State.engineReset s e cause guilty detail esc).pools = s.pools := by
  simp only [State.engineReset]; repeat' split
  all_goals simp

@[simp] theorem State.retrainAfter_pools (s : State) (n : Nat) : (State.retrainAfter s n).pools = s.pools := by
  unfold State.retrainAfter; split <;> simp

@[simp] theorem State.readAgain_pools (s : State) (n : Nat) : (State.readAgain s n).pools = s.pools := by
  simp only [State.readAgain]; repeat' split
  all_goals try simp
  all_goals (apply foldl_pools; intro t x; try dsimp only)
  all_goals repeat' split
  all_goals first | (simp; done) | (apply foldl_pools; intro t x; (try dsimp only); (repeat' split) <;> simp)

@[simp] theorem State.engineDone_pools (s : State) (e : Nat) : (State.engineDone s e).pools = s.pools := by
  simp only [State.engineDone]; repeat' split
  all_goals simp

@[simp] theorem State.domainBegin_pools (s : State) : s.domainBegin.pools = s.pools := by
  simp only [State.domainBegin]
  rw [foldl_pools]
  · (try dsimp only)
    rw [foldl_pools]
    · (try dsimp only)
      rw [foldl_pools]
      · rw [foldl_pools]; intro t e; (try dsimp only); split <;> simp
      · intro t p; split <;> simp
    · intro t e; split <;> simp
  · intro t e; simp

@[simp] theorem State.domainReset_pools (s : State) (cause : Nat) (guilty : Option Nat) (engine esc : Nat) (lost : List (Nat × Nat)) : (State.domainReset s cause guilty engine esc lost).pools = s.pools := by
  simp only [State.domainReset]; repeat' split
  all_goals simp

@[simp] theorem State.domainDone_pools (s : State) : (State.domainDone s).pools = s.pools := by
  unfold State.domainDone; split <;> simp

@[simp] theorem State.engineOverdue_pools (s : State) (e : Nat) : (State.engineOverdue s e).pools = s.pools := by
  simp only [State.engineOverdue]; repeat' split
  all_goals simp

@[simp] theorem State.portError_pools (s : State) (u cause : Nat) : (State.portError s u cause).pools = s.pools := by
  simp [State.portError]

@[simp] theorem State.interruptCq_pools (s : State) (i : Nat) : (State.interruptCq s i).pools = s.pools := by
  simp only [State.interruptCq]; repeat' split
  all_goals simp

@[simp] theorem State.emitCqe_pools (s : State) (i : Nat) (e : Cqe) : (State.emitCqe s i e).pools = s.pools := by
  simp only [State.emitCqe]; repeat' split
  all_goals simp

@[simp] theorem State.checkPark_pools (s : State) (f : Nat) : (State.checkPark s f).pools = s.pools := by
  simp only [State.checkPark]; repeat' split
  all_goals simp

@[simp] theorem State.parkCqe_pools (s : State) (i : Nat) (e : Cqe) : (State.parkCqe s i e).pools = s.pools := by
  simp only [State.parkCqe]; repeat' split
  all_goals simp

@[simp] theorem State.checkParks_pools (s : State) : (State.checkParks s).pools = s.pools := by
  simp [State.checkParks]

@[simp] theorem State.unpark_pools (s : State) (f : Nat) (l : List Parked) : (State.unpark s f l).pools = s.pools := by
  simp [State.unpark]

@[simp] theorem State.produceCqe_pools (s : State) (i : Nat) (e : Cqe) : (State.produceCqe s i e).pools = s.pools := by
  simp only [State.produceCqe]; repeat' split
  all_goals simp

@[simp] theorem State.breakCq_pools (s : State) (i : Nat) : (State.breakCq s i).pools = s.pools := by
  simp only [State.breakCq]; repeat' split
  all_goals simp

theorem State.replayTake_pools {s t : State} {i : Nat} {q : Queue} {e : Cqe} (h : s.replayTake i q = some (e, t)) : t.pools = s.pools := by
  unfold State.replayTake at h
  repeat' split at h
  all_goals first | (cases h; simp; done) | cases h

@[simp] theorem State.tookCqe_pools (s : State) (i : Nat) : (State.tookCqe s i).pools = s.pools := by
  rfl

@[simp] theorem State.replayPump_pools (f : Nat) (s : State) : (State.replayPump f s).pools = s.pools := by
  induction f generalizing s with
  | zero => rfl
  | succ f ih =>
    simp only [State.replayPump]
    repeat' split
    all_goals first | rfl | (rename_i h; rw [ih]; simp [State.replayTake_pools h])

@[simp] theorem State.replayOnward_pools (s : State) : s.replayOnward.pools = s.pools := by
  unfold State.replayOnward; split <;> simp

@[simp] theorem State.replayEnd_pools (s : State) (i : Nat) : (State.replayEnd s i).pools = s.pools := by
  simp only [State.replayEnd]; repeat' split
  all_goals simp

@[simp] theorem State.replayStep_pools (s : State) (i : Nat) : (State.replayStep s i).pools = s.pools := by
  simp only [State.replayStep]; repeat' split
  all_goals simp

@[simp] theorem State.replayFail_pools (s : State) (i : Nat) : (State.replayFail s i).pools = s.pools := by
  simp only [State.replayFail]; repeat' split
  all_goals simp

@[simp] theorem State.discardParked_pools (s : State) (f : Nat) : (State.discardParked s f).pools = s.pools := by
  simp only [State.discardParked]; repeat' split
  all_goals try simp
  all_goals (apply foldl_pools; intro t x; try dsimp only)
  all_goals repeat' split
  all_goals first | (simp; done) | (apply foldl_pools; intro t x; (try dsimp only); (repeat' split) <;> simp)

@[simp] theorem State.refuseDoorbell_pools (s : State) (i : Nat) (q : Queue) : (State.refuseDoorbell s i q).pools = s.pools := by
  rfl

@[simp] theorem State.rejectDoorbell_pools (s : State) : (State.rejectDoorbell s).pools = s.pools := by
  rfl

@[simp] theorem State.ringTail_pools (s : State) (i : Nat) (q : Queue) (v : Nat) : (State.ringTail s i q v).pools = s.pools := by
  unfold State.ringTail; split <;> simp

@[simp] theorem State.ringHead_pools (s : State) (i : Nat) (q : Queue) (v : Nat) : (State.ringHead s i q v).pools = s.pools := by
  simp only [State.ringHead]; repeat' split
  all_goals simp

@[simp] theorem State.ringMask_pools (s : State) (i : Nat) (q : Queue) (v : Nat) : (State.ringMask s i q v).pools = s.pools := by
  unfold State.ringMask; split <;> simp

@[simp] theorem State.writeEvent_pools (s : State) (f : Nat) : (State.writeEvent s f).pools = s.pools := by
  simp only [State.writeEvent]; repeat' split
  all_goals simp

@[simp] theorem State.refuseEntry_pools (s : State) (c : Cmd) (st : Status) : (State.refuseEntry s c st).pools = s.pools := by
  rfl

@[simp] theorem State.markLeaving_pools (s : State) (r : Nat) (c : Cmd) : (State.markLeaving s r c).pools = s.pools := by
  unfold State.markLeaving; split <;> simp

@[simp] theorem State.countHeld_pools (s : State) (r : Nat) (c : Cmd) : (State.countHeld s r c).pools = s.pools := by
  rfl

@[simp] theorem State.noteAdmitted_pools (s : State) (c : Cmd) : (State.noteAdmitted s c).pools = s.pools := by
  rfl

@[simp] theorem State.acceptIo_pools (s : State) (c : Cmd) (x : Ctx) (l : List BatchEnt) (nodes : List Node) (gv : Nat) : (State.acceptIo s c x l nodes gv).pools = s.pools := by
  simp only [State.acceptIo]; repeat' split
  all_goals simp

theorem State.batchPath_pools {s t : State} {c : Cmd} {x : Ctx} {va len : Nat} {ecc : Ecc} {chk : PathCheck} {st : Option Status}
    (h : s.batchPath c x va len ecc chk = some (st, t)) : t.pools = s.pools := by
  unfold State.batchPath at h
  repeat' split at h
  all_goals first | (cases h; simp; done) | cases h

@[simp] theorem State.readBatch_pools (s : State) (c : Cmd) (x : Ctx) (ecc : Ecc) (chk : PathCheck) (away : Blob) :
    (s.readBatch c x ecc chk away).2.pools = s.pools := by
  simp only [State.readBatch]; repeat' split
  all_goals first | rfl | (rename_i h; exact State.batchPath_pools h) | simp

@[simp] theorem State.admitIo_pools (s : State) (q : Queue) (c : Cmd) (x : Ctx) (ecc : Ecc) (chk : PathCheck) (away : Blob) :
    (s.admitIo q c x ecc chk away).pools = s.pools := by
  unfold State.admitIo
  split
  · simp
  · have e := State.readBatch_pools s c x ecc chk away
    split
    · rename_i h; rw [h] at e; simpa using e
    · rename_i h; rw [h] at e; simpa using e
    · rename_i h; rw [h] at e
      dsimp only
      generalize (if opIsStep c.opcode = true then _ else _ : Option Status) = st
      repeat' split
      all_goals simpa using e

@[simp] theorem State.takeEntry_pools (s : State) (i : Nat) (q : Queue) (e : Fetched) (rest : List Fetched) : (State.takeEntry s i q e rest).pools = s.pools := by
  rfl

@[simp] theorem State.admitOne_pools (s : State) (i : Nat) (ecc : Ecc) (chk : PathCheck) (away : Blob) : (s.admitOne i ecc chk away).pools = s.pools := by
  simp only [State.admitOne]; repeat' split
  all_goals simp

@[simp] theorem State.grantFetch_pools (s : State) (i : Nat) (slot : Nat) : (State.grantFetch s i slot).pools = s.pools := by
  unfold State.grantFetch; split <;> simp

@[simp] theorem State.remoteSend_pools (s : State) (r : Nat) (q : MemReq) : (State.remoteSend s r q).pools = s.pools := by
  simp only [State.remoteSend]; repeat' split
  all_goals simp

@[simp] theorem State.remotePump_pools (s : State) (r : Nat) : (State.remotePump s r).pools = s.pools := by
  unfold State.remotePump; split <;> simp

@[simp] theorem State.askRemote_pools (s : State) (r : Nat) (l : List MemReq) : (State.askRemote s r l).pools = s.pools := by
  simp only [State.askRemote]; repeat' split
  all_goals try simp
  all_goals (apply foldl_pools; intro t x; try dsimp only)
  all_goals repeat' split
  all_goals first | (simp; done) | (apply foldl_pools; intro t x; (try dsimp only); (repeat' split) <;> simp)

@[simp] theorem State.readPieces_pools (s : State) (r : Nat) (c : Cmd) (e : Nat) (l : List Piece) : (s.readPieces r c e l).2.pools = s.pools := by
  simp only [State.readPieces]; rw [foldPair_pools]; intro y a; (try dsimp only); repeat' split
  all_goals simp

@[simp] theorem State.writePieces_pools (s : State) (r : Nat) (c : Cmd) (e : Nat) (l : List Piece) (b : Blob) : (s.writePieces r c e l b).pools = s.pools := by
  induction l generalizing s b with
  | nil => rfl
  | cons p t ih => simp only [State.writePieces]; rw [ih]; repeat' split
                   all_goals simp

@[simp] theorem State.sendIssue_pools (s : State) (u r : Nat) (c : Cmd) (t : TileRef) (n : Node) (out : List Piece) (data : Blob) : (State.sendIssue s u r c t n out data).pools = s.pools := by
  unfold State.sendIssue; split <;> simp

theorem State.withSpans_pools (s : State) (r : Nat) (c : Cmd) (x : Ctx) (n engine : Nat) (l : List VaSpan) (f : State → Cmd → State)
    (hf : ∀ t c, t.pools = s.pools → (f t c).pools = s.pools) : (s.withSpans r c x n engine l f).pools = s.pools := by
  simp only [State.withSpans]; repeat' split
  all_goals first | (simp; done) | exact hf _ _ (by simp)

@[simp] theorem State.issueTile_pools (s : State) (u r : Nat) (c : Cmd) (t : TileRef) (n : Node) (w : Tile) : (State.issueTile s u r c t n w).pools = s.pools := by
  simp only [State.issueTile]; repeat' split
  all_goals simp

@[simp] theorem State.issueNext_pools (s : State) (u : Nat) : (s.issueNext u).pools = s.pools := by
  unfold State.issueNext
  split
  · rfl
  · split
    · split
      · rfl
      · split
        · simp
        · apply State.withSpans_pools
          intro t c ht
          split
          · rfl
          · simp [ht]
    · rfl

@[simp] theorem State.settleDone_pools (s : State) (r : Nat) : (State.settleDone s r).pools = s.pools := by
  simp only [State.settleDone]; repeat' split
  all_goals simp

@[simp] theorem State.workMoved_pools (s : State) (r : Nat) : (State.workMoved s r).pools = s.pools := by
  simp [State.workMoved]

@[simp] theorem State.takeUp_pools (s : State) (u cls typ : Nat) (p : TilePkt) (f : State → State) (hf : ∀ t , (f t ).pools = t.pools) : (State.takeUp s u cls typ p f).pools = s.pools := by
  simp only [State.takeUp]; repeat' split
  all_goals simp [hf]

@[simp] theorem State.finishWork_pools (s : State) (u : Nat) (w : Work) (c : Cmd) (b : Blob) : (State.finishWork s u w c b).pools = s.pools := by
  unfold State.finishWork; split <;> simp

@[simp] theorem State.startWalk_pools (s : State) (r : Nat) (c : Cmd) (va : Nat) : (State.startWalk s r c va).pools = s.pools := by
  simp only [State.startWalk]; repeat' split
  all_goals simp

@[simp] theorem State.aheadOne_pools (s : State) (u r : Nat) (w : Tile) : (State.aheadOne s u r w).pools = s.pools := by
  simp only [State.aheadOne]; repeat' split
  all_goals try simp
  all_goals (apply foldl_pools; intro t x; try dsimp only)
  all_goals repeat' split
  all_goals first | (simp; done) | (apply foldl_pools; intro t x; (try dsimp only); (repeat' split) <;> simp)

@[simp] theorem State.setCrev_pools (s : State) (slot : Nat) (r : Crev) : (State.setCrev s slot r).pools = s.pools := by
  rfl

@[simp] theorem State.crevRetry_pools (s : State) (slot : Nat) : (State.crevRetry s slot).pools = s.pools := by
  simp only [State.crevRetry]; repeat' split
  all_goals simp

@[simp] theorem State.crevAbort_pools (s : State) (slot : Nat) : (State.crevAbort s slot).pools = s.pools := by
  unfold State.crevAbort; split <;> simp

@[simp] theorem State.crevHeadWrite_pools (s : State) (value : Nat) : (State.crevHeadWrite s value).pools = s.pools := by
  simp only [State.crevHeadWrite]; repeat' split
  all_goals simp

@[simp] theorem State.takeUpTiles_pools (s : State) (r opc : Nat) : (State.takeUpTiles s r opc).pools = s.pools := by
  unfold State.takeUpTiles; split <;> simp

@[simp] theorem State.cirqueSpans_pools (s : State) (r : Nat) (c : Cmd) (l : List VaSpan) (f : State → Cmd → State) (hf : ∀ t x0, (f t x0).pools = t.pools) :
    (s.cirqueSpans r c l f).pools = s.pools := by
  simp only [State.cirqueSpans]; repeat' split
  all_goals first | rfl | exact State.withSpans_pools _ _ _ _ _ _ _ _ fun t c h => (hf t c).trans h

@[simp] theorem State.writeSeqId_pools (s : State) (r : Nat) (c : Cmd) : (State.writeSeqId s r c).pools = s.pools := by
  simp only [State.writeSeqId]; repeat' split
  all_goals simp

@[simp] theorem State.takeTap_pools (s : State) (u : Nat) (t : Tap) (b : Blob) : (State.takeTap s u t b).pools = s.pools := by
  simp only [State.takeTap]; repeat' split
  all_goals simp

@[simp] theorem State.sliceFails_pools (s : State) (x : Slice) (g : Option Nat) : (State.sliceFails s x g).pools = s.pools := by
  unfold State.sliceFails; split <;> simp

@[simp] theorem State.dropTap_pools (s : State) (t : Tap) : (State.dropTap s t).pools = s.pools := by
  rfl

@[simp] theorem State.beginUpdate_pools (s : State) (r : Nat) (c : Cmd) (b : Blob) : (State.beginUpdate s r c b).pools = s.pools := by
  unfold State.beginUpdate; split <;> simp

@[simp] theorem State.destroyCtx_pools (s : State) (x : Nat) : (State.destroyCtx s x).pools = s.pools := by
  simp only [State.destroyCtx]; repeat' split
  all_goals simp

theorem State.takeChunks_pools {s s' : State} {e : Fkt} {l : List (Nat × Nat)} (h : s.takeChunks e l = some s') : s'.pools = s.pools := by
  induction l generalizing s with
  | nil => cases h; rfl
  | cons a t ih =>
    simp only [State.takeChunks] at h
    split at h
    · rename_i h1; rw [ih h, State.takeFrames_pools h1]
    · cases h

@[simp] theorem State.freeAlloc_pools (s : State) (a : Nat) : (State.freeAlloc s a).pools = s.pools := by
  unfold State.freeAlloc; split <;> simp

@[simp] theorem State.writeTables_pools (s : State) (r x : Nat) (ls : List Leaf) (lo hi : Nat) (isMap : Bool) : (State.writeTables s r x ls lo hi isMap).pools = s.pools := by
  simp [State.writeTables]

@[simp] theorem State.applyChange_pools (s : State) (x : Nat) (z : Change) : (State.applyChange s x z).pools = s.pools := by
  unfold State.applyChange; split <;> simp

@[simp] theorem State.ackEffect_pools (s0 : State) (e : Nat) (i : Inval) : (State.ackEffect s0 e i).pools = s0.pools := by
  simp only [State.ackEffect]; repeat' split
  all_goals simp

@[simp] theorem State.invalDone_pools (s : State) (i : Inval) : (State.invalDone s i).pools = s.pools := by
  simp only [State.invalDone]; repeat' split
  all_goals simp

@[simp] theorem State.addVersion_pools (s : State) (g : Graph) (v : Nat) (nodes : List Node) : (State.addVersion s g v nodes).pools = s.pools := by
  rfl

@[simp] theorem State.stopFetch_pools (s : State) (f : Nat) : (State.stopFetch s f).pools = s.pools := by
  rfl

@[simp] theorem State.abandonCmd_pools (s : State) (r : Nat) : (State.abandonCmd s r).pools = s.pools := by
  simp only [State.abandonCmd]; repeat' split
  all_goals simp

@[simp] theorem State.beginReset_pools (s : State) (f : Nat) : (State.beginReset s f).pools = s.pools := by
  simp [State.beginReset]

@[simp] theorem State.dropVariant_pools (s : State) (v : Nat) : (State.dropVariant s v).pools = s.pools := by
  rfl

@[simp] theorem State.answerGen_pools (s : State) (f : Nat) (io : HostIo) (l : List Nat) : (State.answerGen s f io l).pools = s.pools := by
  simp only [State.answerGen]; repeat' split
  all_goals try simp
  all_goals (apply foldl_pools; intro t x; try dsimp only)
  all_goals repeat' split
  all_goals first | (simp; done) | (apply foldl_pools; intro t x; (try dsimp only); (repeat' split) <;> simp)

@[simp] theorem State.runQuiesce_pools (s : State) (f r : Nat) : (State.runQuiesce s f r).pools = s.pools := by
  unfold State.runQuiesce; split <;> simp

@[simp] theorem State.runReset_pools (s : State) (f r : Nat) (io : HostIo) : (State.runReset s f r io).pools = s.pools := by
  simp only [State.runReset]; repeat' split
  all_goals simp

@[simp] theorem State.runWaiting_pools (s : State) (f r : Nat) (io : HostIo) : (State.runWaiting s f r io).pools = s.pools := by
  simp only [State.runWaiting]; repeat' split
  all_goals simp

@[simp] theorem State.runAfterwards_pools (f : Nat) (io : HostIo) (n : Nat) (s : State) : (State.runAfterwards f io n s).pools = s.pools := by
  induction n generalizing s with
  | zero => rfl
  | succ n ih => simp only [State.runAfterwards]; repeat' split
                 all_goals simp [ih]

@[simp] theorem State.afterTransition_pools (s : State) (f : Nat) (io : HostIo) : (State.afterTransition s f io).pools = s.pools := by
  simp [State.afterTransition]

@[simp] theorem State.enableWaiting_pools (s : State) (f : Nat) : (State.enableWaiting s f).pools = s.pools := by
  simp only [State.enableWaiting]; repeat' split
  all_goals simp

@[simp] theorem State.putQueue_pools (s : State) (f : Nat) (e : Nat × Queue) : (State.putQueue s f e).pools = s.pools := by
  simp [State.putQueue]

@[simp] theorem State.claimAll_pools (s : State) (l : List (Nat × Nat × Nat × Fkt)) : (s.claimAll l).pools = s.pools := by
  unfold State.claimAll
  apply foldl_pools
  intro t e
  cases h : t.takeFrames e.1 e.2.2.2 ((List.range e.2.2.1).map (e.2.1 + ·)) with
  | none => rfl
  | some u => exact State.takeFrames_pools h

@[simp] theorem State.setRegions_pools (s : State) (z : Regions) : (State.setRegions s z).pools = s.pools := by
  rfl

@[simp] theorem State.placeRegions_pools (s : State) : (State.placeRegions s).pools = s.pools := by
  simp [State.placeRegions]

@[simp] theorem State.recoverPersist_pools (s : State) (h : Blob) : (State.recoverPersist s h).pools = s.pools := by
  simp [State.recoverPersist]

@[simp] theorem State.formatPersist_pools (s : State) : (State.formatPersist s).pools = s.pools := by
  unfold State.formatPersist
  rw [State.drawn_pools, State.putHeader_pools]

@[simp] theorem State.openPersist_pools (s : State) : (State.openPersist s).pools = s.pools := by
  simp only [State.openPersist]; repeat' split
  all_goals simp

@[simp] theorem State.openPorts_pools (s : State) : (State.openPorts s).pools = s.pools := by
  simp [State.openPorts]

@[simp] theorem State.joinRings_pools (s : State) : (State.joinRings s).pools = s.pools := by
  simp [State.joinRings]

@[simp] theorem State.startKeys_pools (s : State) : s.startKeys.pools = s.pools := by
  unfold State.startKeys; apply foldl_pools; intro t k; simp

@[simp] theorem State.markCommitted_pools (s : State) : s.markCommitted.pools = s.pools := by simp [State.markCommitted]

@[simp] theorem State.commitTopo_pools (s : State) : (State.commitTopo s).pools = s.pools := by
  simp [State.commitTopo]

@[simp] theorem State.popLoad_pools (s : State) : (State.popLoad s).pools = s.pools := by
  rfl

@[simp] theorem State.refuseLoad_pools (s : State) (l : Load) (st : Status) : (State.refuseLoad s l st).pools = s.pools := by
  simp only [State.refuseLoad]; repeat' split
  all_goals simp

@[simp] theorem State.drainFor_pools (s : State) (l : Load) : (State.drainFor s l).pools = s.pools := by
  unfold State.drainFor; split <;> simp

@[simp] theorem State.freeCurrent_pools (s : State) (i : Nat) : (State.freeCurrent s i).pools = s.pools := by
  simp [State.freeCurrent]

@[simp] theorem State.turnNow_pools (s : State) : (State.turnNow s).pools = s.pools := by
  simp only [State.turnNow]; repeat' split
  all_goals simp

theorem State.claimVer_pools {s s' : State} {v : ImgVer} {asked l : List Nat} (h : s.claimVer v asked = (some s', l)) : s'.pools = s.pools := by
  simp only [State.claimVer] at h
  split at h
  · cases h; simp
  · cases h

@[simp] theorem State.issueShards_pools (n : Nat) (s : State) : (State.issueShards n s).pools = s.pools := by
  induction n generalizing s with
  | zero => rfl
  | succ n ih => simp only [State.issueShards]; repeat' split
                 all_goals simp [ih]

@[simp] theorem State.beginLoad_pools (s : State) (l : Load) (v : ImgVer) (n : Nat) (current : Bool) (asked : List Nat) :
    (s.beginLoad l v n current asked).pools = s.pools := by
  simp only [State.beginLoad]
  split
  · simp
  · rename_i s3 h
    have e : s3.pools = s.pools := by
      split at h
      · injection h with h; subst h; split <;> simp
      · rw [State.claimVer_pools (l := _) (Prod.ext h rfl)]; split <;> simp
    simp [e]

@[simp] theorem State.modShard_pools (s : State) (i : Nat) (f : Shard → Shard) : (State.modShard s i f).pools = s.pools := by
  simp [State.modShard]

@[simp] theorem State.stageLoad_pools (s : State) (l : Load) (i fail : Nat) (st : Status) : (State.stageLoad s l i fail st).pools = s.pools := by
  rfl

@[simp] theorem State.spoilLoad_pools (s : State) (l : Load) (shard : Nat) : (State.spoilLoad s l shard).pools = s.pools := by
  simp [State.spoilLoad]

@[simp] theorem State.takeShard_pools (s : State) (i : Nat) (x : Shard) (data : Blob) : (State.takeShard s i x data).pools = s.pools := by
  simp only [State.takeShard]; repeat' split
  all_goals simp

@[simp] theorem State.activate_pools (s : State) (l : Load) : (State.activate s l).pools = s.pools := by
  simp [State.activate]

@[simp] theorem State.stallStreams_pools (s : State) : (State.stallStreams s).pools = s.pools := by
  rfl

@[simp] theorem State.needRepair_pools (s : State) (img ver t u : Nat) : (State.needRepair s img ver t u).pools = s.pools := by
  unfold State.needRepair; split <;> simp

@[simp] theorem State.modRepair_pools (s : State) (id : Nat) (f : Repair → Repair) : (State.modRepair s id f).pools = s.pools := by
  rfl

@[simp] theorem State.endRepair_pools (s : State) (id : Nat) : (State.endRepair s id).pools = s.pools := by
  simp [State.endRepair]

@[simp] theorem State.poison_pools (s : State) (img ver : Nat) : (State.poison s img ver).pools = s.pools := by
  simp [State.poison]

@[simp] theorem State.askNext_pools (s : State) (p : Repair) : (State.askNext s p).pools = s.pools := by
  simp only [State.askNext]; repeat' split
  all_goals simp

@[simp] theorem State.gotUnit_pools (s : State) (p : Repair) (b : Blob) (host : Bool) : (State.gotUnit s p b host).pools = s.pools := by
  rfl

@[simp] theorem State.queueLoad_pools (s : State) (l : Load) : (State.queueLoad s l).pools = s.pools := by
  simp [State.queueLoad]

@[simp] theorem State.withManifest_pools (s : State) (r : Nat) (c : Cmd) (io : HostIo) (f : State → ImgVer → State)
    (hf : ∀ t v, (f t v).pools = t.pools) : (s.withManifest r c io f).pools = s.pools := by
  unfold State.withManifest
  apply State.withData_pools
  intro t b
  split
  · simp
  · split
    · simp
    · exact hf _ _

@[simp] theorem State.portRequest_pools (s : State) (q : MemReq) (port : Nat) : (State.portRequest s q port).pools = s.pools := by
  simp only [State.portRequest]; repeat' split
  all_goals simp

@[simp] theorem State.readRequest_pools (s : State) (q : MemReq) : (State.readRequest s q).pools = s.pools := by
  simp only [State.readRequest]; repeat' split
  all_goals simp

@[simp] theorem State.dataBad_pools (s : State) (q : MemReq) : (State.dataBad s q).pools = s.pools := by
  simp only [State.dataBad]; repeat' split
  all_goals simp

@[simp] theorem State.dataGood_pools (s : State) (q : MemReq) : (State.dataGood s q).pools = s.pools := by
  unfold State.dataGood; split <;> simp

@[simp] theorem State.glazeAnswer_pools (s : State) (q : MemReq) (ecc : Ecc) (chk : PathCheck) (k p : Nat) : (State.glazeAnswer s q ecc chk k p).pools = s.pools := by
  simp only [State.glazeAnswer]; repeat' split
  all_goals simp

@[simp] theorem State.newWindow_pools (s : State) : (State.newWindow s).pools = s.pools := by
  rfl

@[simp] theorem State.movedWorks_pools (s : State) (f dst : Nat × Nat) : (State.movedWorks s f dst).pools = s.pools := by
  rfl

theorem State.moveBytes_pools {s s' : State} {e : Fkt} {a b : Nat × Nat} (h : s.moveBytes e a b = some s') : s'.pools = s.pools := by
  obtain ⟨t, ht, rfl⟩ := Option.map_eq_some_iff.mp h
  rw [State.releaseFrame_pools, foldl_pools _ _ _ (by intro u o; simp)]
  exact (State.takeFrames_pools ht : t.pools = s.pools)

theorem State.moveFrame_pools {s s' : State} {a b : Nat × Nat} (h : s.moveFrame a b = some s') : s'.pools = s.pools := by
  unfold State.moveFrame at h
  split at h
  · cases h
  · rename_i s0 h0
    obtain ⟨e, _, he⟩ := Option.bind_eq_some_iff.mp h0
    cases h
    dsimp only
    rw [foldl_pools _ _ _ (by intro t w; simp), foldl_pools _ _ _ (by intro t w; simp)]
    dsimp only
    rw [State.movedWorks_pools]
    exact State.moveBytes_pools he

@[simp] theorem State.nakOnce_pools (s : State) (n : Nat) : (State.nakOnce s n).pools = s.pools := by
  unfold State.nakOnce; split <;> simp

@[simp] theorem State.passOn_pools (s : State) (n stream : Nat) (d : Blob) (r : Nat) : (State.passOn s n stream d r).pools = s.pools := by
  rfl

@[simp] theorem State.beginPass_pools (s : State) (n stream : Nat) (b : Blob) : (State.beginPass s n stream b).pools = s.pools := by
  unfold State.beginPass; split <;> simp

@[simp] theorem State.takeMsgs_pools (n stream f : Nat) (b : Blob) (s : State) : (State.takeMsgs n stream f b s).pools = s.pools := by
  induction f generalizing b s with
  | zero => simp [State.takeMsgs]
  | succ f ih => simp only [State.takeMsgs]; repeat' split
                 all_goals simp [ih]

@[simp] theorem State.holdFrame_pools (s : State) (n i had : Nat) (fresh : Bool) : (State.holdFrame s n i had fresh).pools = s.pools := by
  simp only [State.holdFrame]; repeat' split
  all_goals simp

@[simp] theorem State.takeData_pools (s : State) (n : Nat) (f : Blob) : (State.takeData s n f).pools = s.pools := by
  simp [State.takeData]

@[simp] theorem State.ackFrame_pools (s : State) (n before : Nat) : (State.ackFrame s n before).pools = s.pools := by
  unfold State.ackFrame; split <;> simp

@[simp] theorem State.arrived_pools (s : State) (link : Nat) (m : FloeMsg) (typ : Nat) (f : State → State) (hf : ∀ t , (f t ).pools = t.pools) : (State.arrived s link m typ f).pools = s.pools := by
  simp only [State.arrived]; repeat' split
  all_goals simp [hf]

@[simp] theorem State.pumpRemotes_pools (s : State) : (State.pumpRemotes s).pools = s.pools := by
  simp [State.pumpRemotes]

@[simp] theorem State.remoteMoved_pools (s : State) (q : MemReq) : (State.remoteMoved s q).pools = s.pools := by
  unfold State.remoteMoved; split <;> simp

@[simp] theorem State.floeStale_pools (s : State) : (State.floeStale s).pools = s.pools := by
  rfl

@[simp] theorem State.remoteAnswer_pools (s : State) (m : FloeMsg) (write : Bool) : (State.remoteAnswer s m write).pools = s.pools := by
  simp only [State.remoteAnswer]; repeat' split
  all_goals simp

@[simp] theorem State.ringWrite_pools (s : State) (k action : Nat) : (State.ringWrite s k action).pools = s.pools := by
  simp only [State.ringWrite]; repeat' split
  all_goals simp

@[simp] theorem State.doeAnswer_pools (s : State) (f : Nat) (b : Blob) : (State.doeAnswer s f b).pools = s.pools := by
  rfl

@[simp] theorem State.signedAnswer_pools (s : State) (f code p1 p2 : Nat) (body : Blob) : (State.signedAnswer s f code p1 p2 body).pools = s.pools := by
  rfl

@[simp] theorem State.modSession_pools (s : State) (n : Nat) (g : Session → Session) : (State.modSession s n g).pools = s.pools := by
  rfl

@[simp] theorem State.endSession_pools (s : State) (n : Nat) : (State.endSession s n).pools = s.pools := by
  rfl

@[simp] theorem State.endSessions_pools (s : State) (f : Nat) : (State.endSessions s f).pools = s.pools := by
  rfl

@[simp] theorem State.secured_pools (s : State) (f n : Nat) (m : Blob) : (State.secured s f n m).pools = s.pools := by
  unfold State.secured; split <;> simp

@[simp] theorem State.newSecret_pools (s : State) (n : Nat) : (State.newSecret s n).pools = s.pools := by
  rfl

@[simp] theorem State.keyExchange_pools (s : State) (f req : Nat) : (State.keyExchange s f req).pools = s.pools := by
  unfold State.keyExchange; split <;> simp

@[simp] theorem State.established_pools (s : State) (f n : Nat) (who : Option Blob) : (State.established s f n who).pools = s.pools := by
  simp [State.established]

@[simp] theorem State.finishSession_pools (s : State) (f n : Nat) (auth : Option Blob) : (State.finishSession s f n auth).pools = s.pools := by
  simp only [State.finishSession]; repeat' split
  all_goals simp

@[simp] theorem State.agreed_pools (s : State) (f : Nat) (g : State → State) (hg : ∀ t , (g t ).pools = t.pools) : (State.agreed s f g).pools = s.pools := by
  unfold State.agreed; split <;> simp [hg]

@[simp] theorem State.inSession_pools (s : State) (f n : Nat) (g : State → State) (hg : ∀ t , (g t ).pools = t.pools) : (State.inSession s f n g).pools = s.pools := by
  unfold State.inSession; split <;> simp [hg]

@[simp] theorem State.onSlot0_pools (s : State) (f slot : Nat) (g : State → State) (hg : ∀ t , (g t ).pools = t.pools) : (State.onSlot0 s f slot g).pools = s.pools := by
  unfold State.onSlot0; split <;> simp [hg]

@[simp] theorem State.vendorAnswer_pools (s : State) (f : Nat) (ses : Option Nat) (result : Nat) (body : Blob) : (State.vendorAnswer s f ses result body).pools = s.pools := by
  unfold State.vendorAnswer; split <;> simp

@[simp] theorem State.markHeader_pools (s : State) (clean : Bool) : (State.markHeader s clean).pools = s.pools := by
  unfold State.markHeader; split <;> simp

@[simp] theorem State.powerDown_pools (s : State) (k : PwrSt) : (State.powerDown s k).pools = s.pools := by
  rfl

@[simp] theorem State.restartForPatch_pools (s : State) : (State.restartForPatch s).pools = s.pools := by
  rfl

@[simp] theorem State.loadPatch_pools (s : State) (r : Nat) (c : Cmd) (io : HostIo) (image : Blob) (svn : Nat) : (State.loadPatch s r c io image svn).pools = s.pools := by
  simp only [State.loadPatch]; repeat' split
  all_goals simp

@[simp] theorem State.newChallenge_pools (s : State) : (State.newChallenge s).pools = s.pools := by
  rfl

@[simp] theorem State.banner_pools (s : State) : (State.banner s).pools = s.pools := by
  rfl

@[simp] theorem State.tarnStart_pools (s : State) : (State.tarnStart s).pools = s.pools := by
  rfl

@[simp] theorem State.afterRestart_pools (s : State) (r : Nat) : (State.afterRestart s r).pools = s.pools := by
  simp only [State.afterRestart]; repeat' split
  all_goals simp

@[simp] theorem State.restartDone_pools (s : State) (x : Rst) : (State.restartDone s x).pools = s.pools := by
  unfold State.restartDone; split <;> simp

@[simp] theorem State.engineRequest_pools (s : State) (engine : Nat) : (State.engineRequest s engine).pools = s.pools := by
  unfold State.engineRequest; split <;> simp

@[simp] theorem State.domainRequest_pools (s : State) : (State.domainRequest s).pools = s.pools := by
  unfold State.domainRequest; split <;> simp

@[simp] theorem State.resetHead_pools (s : State) (value : Nat) : (State.resetHead s value).pools = s.pools := by
  simp only [State.resetHead]; repeat' split
  all_goals simp

@[simp] theorem State.completeOut_pools (s : State) (r : Nat) (c : Cmd) : (State.completeOut s r c).pools = s.pools := by
  simp [State.completeOut]

@[simp] theorem State.holdupBegin_pools (s : State) : (State.holdupBegin s).pools = s.pools := by
  rfl

@[simp] theorem State.holdupState_pools (s : State) : (State.holdupState s).pools = s.pools := by
  rfl

@[simp] theorem State.leaveRings_pools (s : State) : (State.leaveRings s).pools = s.pools := by
  simp [State.leaveRings]

@[simp] theorem State.endWake_pools (s : State) : (State.endWake s).pools = s.pools := by
  simp only [State.endWake]; repeat' split
  all_goals simp

@[simp] theorem State.holdBegins_pools (s : State) : (State.holdBegins s).pools = s.pools := by
  unfold State.holdBegins; split <;> simp

@[simp] theorem State.ticTake_pools (s : State) (n : Nat) : (State.ticTake s n).pools = s.pools := by
  rfl

@[simp] theorem State.ticEoi_pools (s : State) (n : Nat) : (State.ticEoi s n).pools = s.pools := by
  unfold State.ticEoi; split <;> simp

@[simp] theorem State.releaseVectors_pools (s : State) (f : Nat) : (State.releaseVectors s f).pools = s.pools := by
  unfold State.releaseVectors; split <;> simp

@[simp] theorem State.enableNow_pools (s : State) (f r : Nat) (io : HostIo) (others : List Nat) : (State.enableNow s f r io others).pools = s.pools := by
  simp only [State.enableNow]; repeat' split
  all_goals simp

@[simp] theorem State.wplogFlush_pools (s : State) (fn value : Nat) : (State.wplogFlush s fn value).pools = s.pools := by
  unfold State.wplogFlush; split <;> simp

@[simp] theorem State.moraineClear_pools (s : State) (fn value : Nat) : (State.moraineClear s fn value).pools = s.pools := by
  unfold State.moraineClear; split <;> simp

@[simp] theorem State.rtReserveWrite_pools (s : State) (v : Nat) : (State.rtReserveWrite s v).pools = s.pools := by
  simp [State.rtReserveWrite]

@[simp] theorem State.adminResumeWrite_pools (s : State) (v : Nat) : (State.adminResumeWrite s v).pools = s.pools := by
  simp only [State.adminResumeWrite]; repeat' split
  all_goals simp

@[simp] theorem State.qcfgWrite_pools (s : State) (f v : Nat) : (State.qcfgWrite s f v).pools = s.pools := by
  unfold State.qcfgWrite; split <;> simp

@[simp] theorem State.hostAddWrite_pools (s : State) (v : Nat) : (s.hostAddWrite v).pools = s.pools := by
  simp only [State.hostAddWrite]
  split
  · rfl
  · split
    · split
      · rename_i h; simp [State.takeChunks_pools h]
      · rfl
    · rfl

@[simp] theorem State.imageCfgWrite_pools (s : State) (n v : Nat) : (State.imageCfgWrite s n v).pools = s.pools := by
  unfold State.imageCfgWrite; split <;> simp

@[simp] theorem State.quotaWrite_pools (s : State) (f v : Nat) : (State.quotaWrite s f v).pools = s.pools := by
  simp only [State.quotaWrite]; repeat' split
  all_goals simp

@[simp] theorem State.adminCtlWrite_pools (s : State) (v : Nat) : (State.adminCtlWrite s v).pools = s.pools := by
  simp only [State.adminCtlWrite]; repeat' split
  all_goals simp

@[simp] theorem State.resetReqWrite_pools (s : State) (v : Nat) : (State.resetReqWrite s v).pools = s.pools := by
  simp only [State.resetReqWrite]; repeat' split
  all_goals simp

@[simp] theorem State.crevCtlWrite_pools (s : State) (v : Nat) : (State.crevCtlWrite s v).pools = s.pools := by
  simp only [State.crevCtlWrite]; repeat' split
  all_goals simp

@[simp] theorem State.doorWrite_pools (s : State) (d : Door) (k v : Nat) : (State.doorWrite s d k v).pools = s.pools := by
  simp only [State.doorWrite]; repeat' split
  all_goals simp

@[simp] theorem State.vxWrite_pools (s : State) (r : Reg) (v : Nat) : (State.vxWrite s r v).pools = s.pools := by
  unfold State.vxWrite; split <;> simp

@[simp] theorem State.coreWrite_pools (s : State) (r : Reg) (v : Nat) : (State.coreWrite s r v).pools = s.pools := by
  unfold State.coreWrite; split <;> simp

@[simp] theorem State.dataWrite_pools (s : State) (r : Reg) (v : Nat) : (State.dataWrite s r v).pools = s.pools := by
  simp only [State.dataWrite]; repeat' split
  all_goals simp

@[simp] theorem State.restWrite_pools (s : State) (r : Reg) (v : Nat) : (State.restWrite s r v).pools = s.pools := by
  simp only [State.restWrite]; repeat' split
  all_goals simp

@[simp] theorem State.fnWrite_pools (s : State) (r : Reg) (v : Nat) : (State.fnWrite s r v).pools = s.pools := by
  unfold State.fnWrite; split <;> simp

@[simp] theorem State.regWrite_pools (s : State) (r : Reg) (v : Nat) : (State.regWrite s r v).pools = s.pools := by
  unfold State.regWrite; split <;> simp

@[simp] theorem State.msixWrite_pools (s : State) (f o w v : Nat) : (State.msixWrite s f o w v).pools = s.pools := by
  simp [State.msixWrite]

@[simp] theorem State.readHalf_pools (s : State) (sp : Space) (off : Nat) (r : Reg) (o : Nat) : (s.readHalf sp off r o).2.pools = s.pools := by
  simp only [State.readHalf]; repeat' split
  all_goals simp

@[simp] theorem State.busRead_pools (s : State) (sp : Space) (off w : Nat) : (s.busRead sp off w).2.pools = s.pools := by
  simp only [State.busRead]; repeat' split
  all_goals simp

@[simp] theorem State.writeHigh_pools (s : State) (sp : Space) (off : Nat) (r : Reg) (v : Nat) : (State.writeHigh s sp off r v).pools = s.pools := by
  simp only [State.writeHigh]; repeat' split
  all_goals simp

@[simp] theorem State.writeLow_pools (s : State) (sp : Space) (off v : Nat) : (State.writeLow s sp off v).pools = s.pools := by
  simp [State.writeLow]

@[simp] theorem State.busWrite_pools (s : State) (sp : Space) (off w value : Nat) : (State.busWrite s sp off w value).pools = s.pools := by
  simp only [State.busWrite]; repeat' split
  all_goals simp

@[simp] theorem State.writeVia_pools (s : State) (c : Instr) (sp : Space) (off w v : Nat) : (State.writeVia s c sp off w v).pools = s.pools := by
  simp only [State.writeVia]; repeat' split
  all_goals simp

@[simp] theorem State.readVia_pools (s : State) (c : Instr) (sp : Space) (off w : Nat) : (State.readVia s c sp off w).pools = s.pools := by
  simp only [State.readVia]; repeat' split
  all_goals simp

@[simp] theorem State.doorVia_pools (s : State) (c : Instr) (d : Door) (k v : Nat) : (State.doorVia s c d k v).pools = s.pools := by
  unfold State.doorVia; split <;> simp

@[simp] theorem State.monAnswer_pools (s : State) (lines : List (List Nat)) (e : Option MonErr) : (State.monAnswer s lines e).pools = s.pools := by
  simp [State.monAnswer]

@[simp] theorem State.monRefuse_pools (s : State) (e : MonErr) : (State.monRefuse s e).pools = s.pools := by
  simp [State.monRefuse]

@[simp] theorem State.view_pools (s : State) (off w : Nat) : (s.view off w).2.pools = s.pools := by simp [State.view]

@[simp] theorem State.monRead_pools (s : State) (off w n : Nat) : (s.monRead off w n).2.pools = s.pools := by
  induction n generalizing s off with
  | zero => rfl
  | succ n ih => simp [State.monRead, ih]

@[simp] theorem State.monList_pools (s : State) (l : List (Nat × Nat)) : (s.monList l).2.pools = s.pools := by
  induction l generalizing s with
  | nil => rfl
  | cons a t ih => simp [State.monList, ih]

@[simp] theorem State.monLines_pools (s : State) (l : List (List (Nat × Nat))) : (s.monLines l).2.pools = s.pools := by
  induction l generalizing s with
  | nil => rfl
  | cons a t ih => simp [State.monLines, ih]

@[simp] theorem answerWith_pools (x : List (List Nat) × State) : (answerWith x).pools = x.2.pools := by
  simp [answerWith]

@[simp] theorem State.monVersion_pools (s : State) : (State.monVersion s).pools = s.pools := by
  simp [State.monVersion]

@[simp] theorem State.monHeartbeat_pools (s : State) : (State.monHeartbeat s).pools = s.pools := by
  simp [State.monHeartbeat]

@[simp] theorem State.monRings_pools (s : State) (l : List Nat) : (s.monRings l).2.pools = s.pools := by
  induction l generalizing s with
  | nil => rfl
  | cons a t ih => simp [State.monRings, ih]

@[simp] theorem State.monDo_pools (s : State) (c : MonCmd) : (State.monDo s c).pools = s.pools := by
  unfold State.monDo; split <;> simp

@[simp] theorem State.monitor_pools (s : State) (c : MonCmd) : (State.monitor s c).pools = s.pools := by
  simp only [State.monitor]; repeat' split
  all_goals simp

@[simp] theorem State.monRow_pools (s : State) (c : MonCmd) : (State.monRow s c).pools = s.pools := by
  unfold State.monRow; split <;> simp

@[simp] theorem State.monLine_pools (s : State) (l : List Nat) : (State.monLine s l).pools = s.pools := by
  simp only [State.monLine]; repeat' split
  all_goals simp

@[simp] theorem State.setLine_pools (s : State) (l : List Nat) (cr : Bool) : (State.setLine s l cr).pools = s.pools := by
  rfl

@[simp] theorem State.monChar_pools (s : State) (c : Nat) : (State.monChar s c).pools = s.pools := by
  simp only [State.monChar]; repeat' split
  all_goals simp

theorem State.takePlaced_pools {s s' : State} {e : Fkt} {l : List (Nat × List Nat)} (h : s.takePlaced e l = some s') : s'.pools = s.pools := by
  have go : ∀ (l : List (Nat × List Nat)) (o : Option State) (t : State),
      l.foldl (fun o p => o.bind fun t => t.takeFrames p.1 e p.2) o = some t → ∃ u, o = some u ∧ t.pools = u.pools := by
    intro l
    induction l with
    | nil => intro o t h; exact ⟨t, h, rfl⟩
    | cons p l ih =>
      intro o t h
      obtain ⟨u, hu, e1⟩ := ih _ _ h
      obtain ⟨v, hv, e2⟩ := Option.bind_eq_some_iff.mp hu
      exact ⟨v, hv, e1.trans (State.takeFrames_pools e2)⟩
  obtain ⟨u, hu, e⟩ := go _ _ _ h
  cases hu
  exact e

theorem State.placeAlloc_pools {s : State} {vx1 : Bool} {tier n : Nat} {asked : List Nat} {e : Fkt} {x : List (Nat × List Nat) × State}
    (h : s.placeAlloc vx1 tier n asked e = some x) : x.2.pools = s.pools := by
  unfold State.placeAlloc at h
  split at h
  · obtain ⟨i, _, hi⟩ := List.exists_of_findSome?_eq_some h
    dsimp only at hi
    split at hi
    · obtain ⟨t, ht, rfl⟩ := Option.map_eq_some_iff.mp hi; exact State.takePlaced_pools ht
    · cases hi
  · obtain ⟨l, _, hl⟩ := Option.bind_eq_some_iff.mp h
    obtain ⟨t, ht, rfl⟩ := Option.map_eq_some_iff.mp hl; exact State.takePlaced_pools ht

theorem State.giveAlloc_pools (s t : State) (r : Nat) (c : Cmd) (io : HostIo) (fr : List (Nat × Nat)) (h : t.pools = s.pools) :
    (s.giveAlloc t r c io fr).pools = s.pools := by
  unfold State.giveAlloc State.answer
  dsimp only
  split
  · rw [State.commit_pools, State.modCmd_pools, State.updFn_pools]
    exact h
  · simp

@[simp] theorem State.allocDevice_pools (s : State) (r : Nat) (c : Cmd) (io : HostIo) (asked : List Nat) :
    (s.allocDevice r c io asked).pools = s.pools := by
  simp only [State.allocDevice]
  split
  · simp
  · rename_i h; exact State.giveAlloc_pools _ _ _ _ _ _ (State.placeAlloc_pools h)

@[simp] theorem State.allocHost_pools (s : State) (r : Nat) (c : Cmd) (io : HostIo) (asked : List Nat) :
    (s.allocHost r c io asked).pools = s.pools := by
  unfold State.allocHost
  apply State.withData_pools
  intro t b
  dsimp only
  repeat' split
  · simp
  · simp
  · simp
  · rename_i h
    exact State.giveAlloc_pools _ _ _ _ _ _ (State.takeChunks_pools h)

@[simp] theorem State.scramble_pools (s : State) (a : Alloc) : (State.scramble s a).pools = s.pools := by
  rfl

@[simp] theorem State.loadAdapter_pools (s : State) (r : Nat) (c : Cmd) (a : Alloc) (v : Variant) (clear : Blob) : (State.loadAdapter s r c a v clear).pools = s.pools := by
  simp [State.loadAdapter]

@[simp] theorem State.register_pools (s : State) (r : Nat) (c : Cmd) (io : HostIo) (d : VarDesc) (a : Alloc) (key img : Nat) (clear : Blob) :
  (s.register r c io d a key img clear).pools = s.pools := by
  unfold State.register
  dsimp only
  repeat' split
  · simp
  · rw [State.answer_pools] <;> simp
  · rw [State.answer_pools]
    · simp
    · intro t; rfl

@[simp] theorem State.unwrapAndRegister_pools (s : State) (r : Nat) (c : Cmd) (io : HostIo) (d : VarDesc) (a : Alloc) (b : Blob) : (State.unwrapAndRegister s r c io d a b).pools = s.pools := by
  simp only [State.unwrapAndRegister]; repeat' split
  all_goals simp

@[simp] theorem State.dropSlices_pools (s : State) (v : Nat) : (State.dropSlices s v).pools = s.pools := by
  rfl

@[simp] theorem State.commitUpdate_pools (s : State) (r id : Nat) (c : Cmd) (v : Variant) (d : VarDesc) (clear : Option Blob) : (State.commitUpdate s r id c v d clear).pools = s.pools := by
  simp only [State.commitUpdate]; repeat' split
  all_goals simp

@[simp] theorem State.unchange_pools (s : State) (id : Nat) : (State.unchange s id).pools = s.pools := by
  rfl

@[simp] theorem State.runUpdate_pools (s : State) (r id : Nat) (c : Cmd) (io : HostIo) (v : Variant)  : (s.runUpdate r id c io v).pools = s.pools := by
  unfold State.runUpdate
  apply State.withData_pools
  intro t b
  split
  · simp
  · dsimp only
    repeat' split
    all_goals simp

@[simp] theorem State.runDrop_pools (s : State) (r id : Nat) (v : Variant) : (State.runDrop s r id v).pools = s.pools := by
  simp [State.runDrop]

@[simp] theorem State.changeOrWait_pools (s : State) (r id : Nat) (c : Cmd) (run : State → State) (hrun : ∀ t , (run t ).pools = t.pools) : (State.changeOrWait s r id c run).pools = s.pools := by
  simp only [State.changeOrWait]; repeat' split
  all_goals simp [hrun]

@[simp] theorem State.storeCkpt_pools (s : State) (c : Ckpt) : (State.storeCkpt s c).pools = s.pools := by
  simp only [State.storeCkpt]; repeat' split
  all_goals simp

@[simp] theorem State.saveDone_pools (s : State) (u : Nat) (q : Preempt) (b : Blob) : (State.saveDone s u q b).pools = s.pools := by
  simp [State.saveDone]

@[simp] theorem State.offer_pools (s : State) (c : Instr) : (State.offer s c).pools = s.pools := by
  rfl

@[simp] theorem State.withFetchWord_pools (s : State) (nbits w : Nat) : (State.withFetchWord s nbits w).pools = s.pools := by
  rfl

/-! ### `snow` -/

@[simp] theorem foldl_snow {β : Type} (f : State → β → State) (l : List β) (s : State) (h : ∀ t x, (f t x).snow = t.snow) :
    (l.foldl f s).snow = s.snow := by induction l generalizing s with | nil => rfl | cons a l ih => simp [ih, h]

@[simp] theorem State.logPage_snow (s : State) (f page : Nat) : (State.logPage s f page).snow = s.snow := by
  simp only [State.logPage]; repeat' split
  all_goals simp

@[simp] theorem State.setFkt_snow (s : State) (tier frame : Nat) (e : Fkt) : (State.setFkt s tier frame e).snow = s.snow := by
  unfold State.setFkt; split <;> simp

@[simp] theorem State.modSlot_snow (s : State) (k : Nat) (f : VSlot → VSlot) : (State.modSlot s k f).snow = s.snow := by
  rfl

theorem State.newBlock_snow {s s' : State} {t : Nat} (h : s.newBlock t = some s') : s'.snow = s.snow := by
  simp only [State.newBlock] at h
  by_cases hn : s.varve.blocksIn t % 29 ≠ 0
  · rw [if_pos hn] at h; cases h; rfl
  · rw [if_neg hn] at h; obtain ⟨f, _, rfl⟩ := Option.map_eq_some_iff.mp h; simp

@[simp] theorem State.useSlot_snow (s : State) (k tier frame key : Nat) : (State.useSlot s k tier frame key).snow = s.snow := by
  rfl

theorem State.protect_snow {s s' : State} {tier frame key : Nat} (h : s.protect tier frame key = some s') : s'.snow = s.snow := by
  simp only [State.protect] at h
  split at h
  · cases h; simp
  · split at h
    · cases h
    · obtain ⟨t, ht, rfl⟩ := Option.map_eq_some_iff.mp h; simp [State.newBlock_snow ht]

theorem State.protectAll_snow {tier key : Nat} {l : List Nat} {s s' : State} (h : State.protectAll tier key l s = some s') : s'.snow = s.snow := by
  induction l generalizing s with
  | nil => cases h; rfl
  | cons f t ih =>
    simp only [State.protectAll] at h
    split at h
    · cases h
    · rename_i s2 h2; rw [ih h]; simp [State.protect_snow h2]

theorem State.takeFrames_snow {s s' : State} {tier : Nat} {e : Fkt} {l : List Nat} (h : s.takeFrames tier e l = some s') : s'.snow = s.snow := by
  simp only [State.takeFrames] at h
  split at h
  · rw [State.protectAll_snow h]; simp
  · cases h; simp

@[simp] theorem State.setPage_snow (s : State) (k p : Nat) (c : PageCtr) : (State.setPage s k p c).snow = s.snow := by
  simp only [State.setPage]; repeat' split
  all_goals simp

@[simp] theorem State.leaveWalk_snow (s : State) (key k p : Nat) : (State.leaveWalk s key k p).snow = s.snow := by
  rfl

@[simp] theorem State.chunkFetch_snow (s : State) (tier off : Nat) : (State.chunkFetch s tier off).snow = s.snow := by
  unfold State.chunkFetch; split <;> simp

@[simp] theorem State.chunkStore_snow (s : State) (tier off : Nat) : (State.chunkStore s tier off).snow = s.snow := by
  unfold State.chunkStore; split <;> simp

@[simp] theorem State.recrypt_snow (s : State) (k p : Nat) (c : PageCtr) : (State.recrypt s k p c).snow = s.snow := by
  simp only [State.recrypt]; repeat' split
  all_goals simp

@[simp] theorem State.endWalk_snow (s : State) (key : Nat) : (State.endWalk s key).snow = s.snow := by
  simp only [State.endWalk]; repeat' split
  all_goals try simp
  all_goals (apply foldl_snow; intro t x; try dsimp only)
  all_goals repeat' split
  all_goals first | (simp; done) | (apply foldl_snow; intro t x; (try dsimp only); (repeat' split) <;> simp)

@[simp] theorem State.startRekey_snow (s : State) (key : Nat) : (State.startRekey s key).snow = s.snow := by
  rfl

@[simp] theorem State.rekeyPage_snow (s : State) (key k p : Nat) (c : PageCtr) : (State.rekeyPage s key k p c).snow = s.snow := by
  simp only [State.rekeyPage]; repeat' split
  all_goals simp

@[simp] theorem State.reencrypt_snow (s : State) (k p : Nat) (v : VSlot) : (State.reencrypt s k p v).snow = s.snow := by
  simp only [State.reencrypt]; repeat' split
  all_goals simp

@[simp] theorem State.bumpMinor_snow (s : State) (k p g : Nat) : (State.bumpMinor s k p g).snow = s.snow := by
  unfold State.bumpMinor; split <;> simp

@[simp] theorem State.glazeWrite_snow (s : State) (tier off len : Nat) : (State.glazeWrite s tier off len).snow = s.snow := by
  simp only [State.glazeWrite]; repeat' split
  all_goals simp

@[simp] theorem State.regionWrite_snow (s : State) (off : Nat) (b : Blob) : (State.regionWrite s off b).snow = s.snow := by
  simp [State.regionWrite]

@[simp] theorem State.regionPut_snow (s : State) (off : Nat) (b : Blob) : (State.regionPut s off b).snow = s.snow := by
  simp only [State.regionPut]; repeat' split
  all_goals try simp
  all_goals (apply foldl_snow; intro t x; try dsimp only)
  all_goals repeat' split
  all_goals first | (simp; done) | (apply foldl_snow; intro t x; (try dsimp only); (repeat' split) <;> simp)

@[simp] theorem State.syncSeq_snow (s : State) (i : Nat) (q : Sequence) : (State.syncSeq s i q).snow = s.snow := by
  simp [State.syncSeq]

@[simp] theorem State.syncSeqs_snow (s : State) : (State.syncSeqs s).snow = s.snow := by
  simp [State.syncSeqs]

theorem State.takeChunks_snow {s s' : State} {e : Fkt} {l : List (Nat × Nat)} (h : s.takeChunks e l = some s') : s'.snow = s.snow := by
  induction l generalizing s with
  | nil => cases h; rfl
  | cons a t ih =>
    simp only [State.takeChunks] at h
    split at h
    · rename_i h1; rw [ih h, State.takeFrames_snow h1]
    · cases h

/-! ### `ctxs` -/

@[simp] theorem foldl_ctxs {β : Type} (f : State → β → State) (l : List β) (s : State) (h : ∀ t x, (f t x).ctxs = t.ctxs) :
    (l.foldl f s).ctxs = s.ctxs := by induction l generalizing s with | nil => rfl | cons a l ih => simp [ih, h]

@[simp] theorem State.logPage_ctxs (s : State) (f page : Nat) : (State.logPage s f page).ctxs = s.ctxs := by
  simp only [State.logPage]; repeat' split
  all_goals simp

@[simp] theorem State.dropStreams_ctxs (s : State) (r : Nat) : (State.dropStreams s r).ctxs = s.ctxs := by
  rfl

@[simp] theorem State.crevMap_ctxs (s : State) (p : Crev → Bool) (f : Crev → Crev) : (State.crevMap s p f).ctxs = s.ctxs := by
  rfl

@[simp] theorem State.crevLeave_ctxs (s : State) (r : Nat) : (State.crevLeave s r).ctxs = s.ctxs := by
  rfl

@[simp] theorem State.failCmd_ctxs (s : State) (r : Nat) (st : Status) : (State.failCmd s r st).ctxs = s.ctxs := by
  unfold State.failCmd; split <;> simp

@[simp] theorem State.setFkt_ctxs (s : State) (tier frame : Nat) (e : Fkt) : (State.setFkt s tier frame e).ctxs = s.ctxs := by
  unfold State.setFkt; split <;> simp

@[simp] theorem State.clearFkt_ctxs (s : State) (tier frame : Nat) : (State.clearFkt s tier frame).ctxs = s.ctxs := by
  unfold State.clearFkt; split <;> simp

@[simp] theorem State.modSlot_ctxs (s : State) (k : Nat) (f : VSlot → VSlot) : (State.modSlot s k f).ctxs = s.ctxs := by
  rfl

@[simp] theorem State.setPage_ctxs (s : State) (k p : Nat) (c : PageCtr) : (State.setPage s k p c).ctxs = s.ctxs := by
  simp only [State.setPage]; repeat' split
  all_goals simp

@[simp] theorem State.leaveWalk_ctxs (s : State) (key k p : Nat) : (State.leaveWalk s key k p).ctxs = s.ctxs := by
  rfl

@[simp] theorem State.chunkFetch_ctxs (s : State) (tier off : Nat) : (State.chunkFetch s tier off).ctxs = s.ctxs := by
  unfold State.chunkFetch; split <;> simp

@[simp] theorem State.chunkStore_ctxs (s : State) (tier off : Nat) : (State.chunkStore s tier off).ctxs = s.ctxs := by
  unfold State.chunkStore; split <;> simp

@[simp] theorem State.recrypt_ctxs (s : State) (k p : Nat) (c : PageCtr) : (State.recrypt s k p c).ctxs = s.ctxs := by
  simp only [State.recrypt]; repeat' split
  all_goals simp

@[simp] theorem State.endWalk_ctxs (s : State) (key : Nat) : (State.endWalk s key).ctxs = s.ctxs := by
  simp only [State.endWalk]; repeat' split
  all_goals try simp
  all_goals (apply foldl_ctxs; intro t x; try dsimp only)
  all_goals repeat' split
  all_goals first | (simp; done) | (apply foldl_ctxs; intro t x; (try dsimp only); (repeat' split) <;> simp)

@[simp] theorem State.startRekey_ctxs (s : State) (key : Nat) : (State.startRekey s key).ctxs = s.ctxs := by
  rfl

@[simp] theorem State.rekeyPage_ctxs (s : State) (key k p : Nat) (c : PageCtr) : (State.rekeyPage s key k p c).ctxs = s.ctxs := by
  simp only [State.rekeyPage]; repeat' split
  all_goals simp

@[simp] theorem State.reencrypt_ctxs (s : State) (k p : Nat) (v : VSlot) : (State.reencrypt s k p v).ctxs = s.ctxs := by
  simp only [State.reencrypt]; repeat' split
  all_goals simp

@[simp] theorem State.bumpMinor_ctxs (s : State) (k p g : Nat) : (State.bumpMinor s k p g).ctxs = s.ctxs := by
  unfold State.bumpMinor; split <;> simp

@[simp] theorem State.glazeWrite_ctxs (s : State) (tier off len : Nat) : (State.glazeWrite s tier off len).ctxs = s.ctxs := by
  simp only [State.glazeWrite]; repeat' split
  all_goals simp

@[simp] theorem State.regionWrite_ctxs (s : State) (off : Nat) (b : Blob) : (State.regionWrite s off b).ctxs = s.ctxs := by
  simp [State.regionWrite]

@[simp] theorem State.regionPut_ctxs (s : State) (off : Nat) (b : Blob) : (State.regionPut s off b).ctxs = s.ctxs := by
  simp only [State.regionPut]; repeat' split
  all_goals try simp
  all_goals (apply foldl_ctxs; intro t x; try dsimp only)
  all_goals repeat' split
  all_goals first | (simp; done) | (apply foldl_ctxs; intro t x; (try dsimp only); (repeat' split) <;> simp)

@[simp] theorem State.placeTables_ctxs (s : State) (x : Nat) (ls : List Leaf) : (State.placeTables s x ls).ctxs = s.ctxs := by
  rfl

@[simp] theorem State.putTables_ctxs (s : State) (x : Nat) (ls : List Leaf) : (State.putTables s x ls).ctxs = s.ctxs := by
  simp [State.putTables]

@[simp] theorem State.crevResolve_ctxs (s : State) (c lo hi : Nat) : (State.crevResolve s c lo hi).ctxs = s.ctxs := by
  unfold State.crevResolve; split <;> simp

@[simp] theorem State.syncSeq_ctxs (s : State) (i : Nat) (q : Sequence) : (State.syncSeq s i q).ctxs = s.ctxs := by
  simp [State.syncSeq]

@[simp] theorem State.syncSeqs_ctxs (s : State) : (State.syncSeqs s).ctxs = s.ctxs := by
  simp [State.syncSeqs]

@[simp] theorem State.ackEffect_ctxs (s0 : State) (e : Nat) (i : Inval) : (State.ackEffect s0 e i).ctxs = s0.ctxs := by
  simp only [State.ackEffect]; repeat' split
  all_goals simp

/-! ### `serac` -/

@[simp] theorem foldl_serac {β : Type} (f : State → β → State) (l : List β) (s : State) (h : ∀ t x, (f t x).serac = t.serac) :
    (l.foldl f s).serac = s.serac := by induction l generalizing s with | nil => rfl | cons a l ih => simp [ih, h]

@[simp] theorem State.logPage_serac (s : State) (f page : Nat) : (State.logPage s f page).serac = s.serac := by
  simp only [State.logPage]; repeat' split
  all_goals simp

@[simp] theorem State.modSlot_serac (s : State) (k : Nat) (f : VSlot → VSlot) : (State.modSlot s k f).serac = s.serac := by
  rfl

@[simp] theorem State.setPage_serac (s : State) (k p : Nat) (c : PageCtr) : (State.setPage s k p c).serac = s.serac := by
  simp only [State.setPage]; repeat' split
  all_goals simp

@[simp] theorem State.leaveWalk_serac (s : State) (key k p : Nat) : (State.leaveWalk s key k p).serac = s.serac := by
  rfl

@[simp] theorem State.chunkFetch_serac (s : State) (tier off : Nat) : (State.chunkFetch s tier off).serac = s.serac := by
  unfold State.chunkFetch; split <;> simp

@[simp] theorem State.chunkStore_serac (s : State) (tier off : Nat) : (State.chunkStore s tier off).serac = s.serac := by
  unfold State.chunkStore; split <;> simp

@[simp] theorem State.recrypt_serac (s : State) (k p : Nat) (c : PageCtr) : (State.recrypt s k p c).serac = s.serac := by
  simp only [State.recrypt]; repeat' split
  all_goals simp

@[simp] theorem State.endWalk_serac (s : State) (key : Nat) : (State.endWalk s key).serac = s.serac := by
  simp only [State.endWalk]; repeat' split
  all_goals try simp
  all_goals (apply foldl_serac; intro t x; try dsimp only)
  all_goals repeat' split
  all_goals first | (simp; done) | (apply foldl_serac; intro t x; (try dsimp only); (repeat' split) <;> simp)

@[simp] theorem State.startRekey_serac (s : State) (key : Nat) : (State.startRekey s key).serac = s.serac := by
  rfl

@[simp] theorem State.rekeyPage_serac (s : State) (key k p : Nat) (c : PageCtr) : (State.rekeyPage s key k p c).serac = s.serac := by
  simp only [State.rekeyPage]; repeat' split
  all_goals simp

@[simp] theorem State.reencrypt_serac (s : State) (k p : Nat) (v : VSlot) : (State.reencrypt s k p v).serac = s.serac := by
  simp only [State.reencrypt]; repeat' split
  all_goals simp

@[simp] theorem State.bumpMinor_serac (s : State) (k p g : Nat) : (State.bumpMinor s k p g).serac = s.serac := by
  unfold State.bumpMinor; split <;> simp

@[simp] theorem State.glazeWrite_serac (s : State) (tier off len : Nat) : (State.glazeWrite s tier off len).serac = s.serac := by
  simp only [State.glazeWrite]; repeat' split
  all_goals simp

@[simp] theorem State.regionWrite_serac (s : State) (off : Nat) (b : Blob) : (State.regionWrite s off b).serac = s.serac := by
  simp [State.regionWrite]

@[simp] theorem State.regionPut_serac (s : State) (off : Nat) (b : Blob) : (State.regionPut s off b).serac = s.serac := by
  simp only [State.regionPut]; repeat' split
  all_goals try simp
  all_goals (apply foldl_serac; intro t x; try dsimp only)
  all_goals repeat' split
  all_goals first | (simp; done) | (apply foldl_serac; intro t x; (try dsimp only); (repeat' split) <;> simp)

@[simp] theorem State.syncSeq_serac (s : State) (i : Nat) (q : Sequence) : (State.syncSeq s i q).serac = s.serac := by
  simp [State.syncSeq]

@[simp] theorem State.syncSeqs_serac (s : State) : (State.syncSeqs s).serac = s.serac := by
  simp [State.syncSeqs]

@[simp] theorem State.writeSlotStates_serac (s : State) (x : Nat) : (State.writeSlotStates s x).serac = s.serac := by
  unfold State.writeSlotStates; split <;> simp

/-! ### `silt` -/

@[simp] theorem foldl_silt {β : Type} (f : State → β → State) (l : List β) (s : State) (h : ∀ t x, (f t x).silt = t.silt) :
    (l.foldl f s).silt = s.silt := by induction l generalizing s with | nil => rfl | cons a l ih => simp [ih, h]

@[simp] theorem State.logPage_silt (s : State) (f page : Nat) : (State.logPage s f page).silt = s.silt := by
  simp only [State.logPage]; repeat' split
  all_goals simp

@[simp] theorem State.modSlot_silt (s : State) (k : Nat) (f : VSlot → VSlot) : (State.modSlot s k f).silt = s.silt := by
  rfl

@[simp] theorem State.setPage_silt (s : State) (k p : Nat) (c : PageCtr) : (State.setPage s k p c).silt = s.silt := by
  simp only [State.setPage]; repeat' split
  all_goals simp

@[simp] theorem State.leaveWalk_silt (s : State) (key k p : Nat) : (State.leaveWalk s key k p).silt = s.silt := by
  rfl

@[simp] theorem State.chunkFetch_silt (s : State) (tier off : Nat) : (State.chunkFetch s tier off).silt = s.silt := by
  unfold State.chunkFetch; split <;> simp

@[simp] theorem State.chunkStore_silt (s : State) (tier off : Nat) : (State.chunkStore s tier off).silt = s.silt := by
  unfold State.chunkStore; split <;> simp

@[simp] theorem State.recrypt_silt (s : State) (k p : Nat) (c : PageCtr) : (State.recrypt s k p c).silt = s.silt := by
  simp only [State.recrypt]; repeat' split
  all_goals simp

@[simp] theorem State.endWalk_silt (s : State) (key : Nat) : (State.endWalk s key).silt = s.silt := by
  simp only [State.endWalk]; repeat' split
  all_goals try simp
  all_goals (apply foldl_silt; intro t x; try dsimp only)
  all_goals repeat' split
  all_goals first | (simp; done) | (apply foldl_silt; intro t x; (try dsimp only); (repeat' split) <;> simp)

@[simp] theorem State.startRekey_silt (s : State) (key : Nat) : (State.startRekey s key).silt = s.silt := by
  rfl

@[simp] theorem State.rekeyPage_silt (s : State) (key k p : Nat) (c : PageCtr) : (State.rekeyPage s key k p c).silt = s.silt := by
  simp only [State.rekeyPage]; repeat' split
  all_goals simp

@[simp] theorem State.reencrypt_silt (s : State) (k p : Nat) (v : VSlot) : (State.reencrypt s k p v).silt = s.silt := by
  simp only [State.reencrypt]; repeat' split
  all_goals simp

@[simp] theorem State.bumpMinor_silt (s : State) (k p g : Nat) : (State.bumpMinor s k p g).silt = s.silt := by
  unfold State.bumpMinor; split <;> simp

@[simp] theorem State.glazeWrite_silt (s : State) (tier off len : Nat) : (State.glazeWrite s tier off len).silt = s.silt := by
  simp only [State.glazeWrite]; repeat' split
  all_goals simp

@[simp] theorem State.regionWrite_silt (s : State) (off : Nat) (b : Blob) : (State.regionWrite s off b).silt = s.silt := by
  simp [State.regionWrite]

@[simp] theorem State.regionPut_silt (s : State) (off : Nat) (b : Blob) : (State.regionPut s off b).silt = s.silt := by
  simp only [State.regionPut]; repeat' split
  all_goals try simp
  all_goals (apply foldl_silt; intro t x; try dsimp only)
  all_goals repeat' split
  all_goals first | (simp; done) | (apply foldl_silt; intro t x; (try dsimp only); (repeat' split) <;> simp)

@[simp] theorem State.syncSeq_silt (s : State) (i : Nat) (q : Sequence) : (State.syncSeq s i q).silt = s.silt := by
  simp [State.syncSeq]

@[simp] theorem State.syncSeqs_silt (s : State) : (State.syncSeqs s).silt = s.silt := by
  simp [State.syncSeqs]

@[simp] theorem State.writeSlotStates_silt (s : State) (x : Nat) : (State.writeSlotStates s x).silt = s.silt := by
  unfold State.writeSlotStates; split <;> simp

end Sys2Proof.Machine
end

