-- ==== Sys2Proof/Laws/Commands.lean ====
section
/-! SUPPORT. What becomes of a command: an access of the host that is carried out, an admin command that Tarn takes up, one that ends, answers,
completes. -/

namespace Sys2Proof.Machine

open Sys2Proof

/-- A host access that is carried out. -/
theorem State.access_reached {s : State} {c : Instr} {f : State → State} (b : Bool) (h : s.reachable = true) :
    s.access c b f = match accessor c with | some g => f (s.dropHeld g) | none => f s := by
  simp only [State.reachable, Bool.and_eq_true, Bool.not_eq_true', bne_iff_ne] at h
  obtain ⟨⟨⟨⟨⟨⟨h1, h2⟩, h3⟩, h4⟩, h5⟩, h6⟩, h7⟩ := h
  simp [State.access, h1, h2, h3, h4, h5, h6, h7]
  all_goals rfl

theorem State.access_own {s : State} {c : Instr} {f : State → State} (b : Bool) (h : s.reachable = true) (hc : accessor c = none) :
    s.access c b f = f s := by rw [State.access_reached b h, hc]

theorem State.reachable_halted {s : State} (h : s.reachable = true) : s.loess.halted = false := by
  simp only [State.reachable, Bool.and_eq_true, Bool.not_eq_true', bne_iff_ne] at h; exact h.2

theorem State.dropHeld_noHalf {s : State} {g : Nat} (h : s.noHalf g) : s.dropHeld g = s := by
  unfold State.noHalf at h; simp [State.dropHeld, h]

theorem State.access_zero {s : State} {c : Instr} {f : State → State} (b : Bool) (h : s.reachable = true) (hc : accessor c = some 0)
    (hn : s.noHalf 0) : s.access c b f = f s := by rw [State.access_reached b h, hc]; show f (s.dropHeld 0) = f s; rw [State.dropHeld_noHalf hn]

theorem State.busWrite_reg {s : State} {sp : Space} {off w v : Nat} {r : Reg} (h : s.reachable = true) (hb : inBar sp off = true)
    (ha : aligned off w = true) (hp : placeAt sp off = some (.reg r 0)) (hw : w = r.width) (hn : s.noHalf (requester sp)) :
    s.busWrite sp off w v = s.regWrite r (v % 2 ^ (8 * w)) := by
  subst hw
  simp [State.busWrite, hb, ha, hp, State.dropHeld_noHalf hn, State.reachable_halted h]

/-- A command that Tarn may run has no status decided. -/
theorem State.takes_decided {s : State} {r opc : Nat} {c : Cmd} (h : s.takes r opc c) : c.decided = none := by
  have h1 := h.1
  unfold State.adminCmd at h1
  split at h1
  · split at h1
    · rename_i h2; cases h1; simp at h2; exact h2.1.1.2
    · cases h1
  · cases h1

/-- A command at a record that is reported, with no status decided for it, ends with the status. -/
theorem State.report_ended {s : State} {r : Nat} {c : Cmd} (st : Status) (h : tget? s.cmds r = some c)
    (hd : c.decided = none := by (try dsimp only); first | assumption | exact State.takes_decided (by assumption)) : (s.report r st).ended r st := by
  refine ⟨{ c with stage := .ended, status := c.decided.getD st, parked := false }, ?_, rfl, by simp [hd]⟩
  rw [State.report, State.modCmd_cmds, tget?_tmod, h]; rfl

theorem State.commit_ended {s : State} {r : Nat} {c : Cmd} (h : tget? s.cmds r = some c)
    (hd : c.decided = none := by (try dsimp only); first | assumption | exact State.takes_decided (by assumption)) :
    (s.commit r).ended r .success := by
  unfold State.commit
  exact State.report_ended .success (c := { c with journal := .committed }) (by rw [State.modCmd_cmds, tget?_tmod, h]; rfl) hd

theorem State.answer_ended {s : State} {r : Nat} {c0 c : Cmd} {io : HostIo} {b : Blob} {eff : State → State} (hio : io.write = .ok)
    (h : tget? s.cmds r = some c0) (he : ∀ t, (eff t).cmds = t.cmds)
    (hd : c0.decided = none := by (try dsimp only); first | assumption | exact State.takes_decided (by assumption)) :
    (s.answer r c io b eff).ended r .success := by
  unfold State.answer
  simp only [hio, if_true]
  refine State.commit_ended (c := { c0 with result := padTo 64 b }) ?_ hd
  rw [State.modCmd_cmds, tget?_tmod, he, State.writeResult_cmds, h]; rfl

/-- A command that Tarn takes up runs its effect. -/
theorem State.runAdmin_takes {s : State} {r opc : Nat} {c : Cmd} {f : State → Cmd → State} (h : s.takes r opc c) :
    s.runAdmin r opc f = f (s.begun r) c := by
  unfold State.runAdmin State.begun
  simp [h.1, h.2]

theorem State.takes_cmd {s : State} {r opc : Nat} {c : Cmd} (h : s.takes r opc c) : tget? s.cmds r = some c := by
  have h1 := h.1
  unfold State.adminCmd at h1
  split at h1
  · split at h1
    · rename_i h2 _; cases h1; exact h2
    · cases h1
  · cases h1

theorem State.takes_runs {s : State} {r opc : Nat} {c : Cmd} (h : s.takes r opc c) : s.tarnRuns = true := by
  have h1 := h.1
  unfold State.adminCmd at h1
  split at h1
  · split at h1
    · rename_i h2; simp at h2; exact h2.2
    · cases h1
  · cases h1

/-- The command that is running stands where it was taken up. -/
theorem State.running_cmd {s : State} {r opc : Nat} {c : Cmd} (h : s.takes r opc c) :
    tget? (s.modCmd r fun x => { x with stage := .running, start := some s.now }).cmds r = some { c with stage := .running, start := some s.now } := by
  rw [State.modCmd_cmds, tget?_tmod, State.takes_cmd h]; rfl

/-- Releasing refused entries changes no stage and no status. -/
theorem State.releaseRefused_completed {s : State} {r k : Nat} {st : Status} (h : s.completed r st) : (s.releaseRefused k).completed r st := by
  obtain ⟨c, hc, h1, h2⟩ := h
  unfold State.releaseRefused
  split
  · exact ⟨c, hc, h1, h2⟩
  · refine ⟨_, by dsimp only; rw [tget?_tmap, hc]; rfl, ?_⟩
    dsimp only; split <;> exact ⟨h1, h2⟩

/-- Ending a command completes it. -/
theorem State.endCmd_completed {s : State} {r : Nat} {c : Cmd} (st : Status) (h : tget? s.cmds r = some c) : (s.endCmd r st).completed r st := by
  unfold State.endCmd
  refine State.releaseRefused_completed ⟨_, by dsimp only; rw [State.modCmd_cmds, tget?_tmod, h]; rfl, rfl, rfl⟩

/-- A record that holds a command. -/
def State.holdsCmd (s : State) (r : Nat) : Prop := ∃ c, tget? s.cmds r = some c

theorem State.holdsCmd_of {s t : State} {r : Nat} (h : s.holdsCmd r) (e : t.cmds = s.cmds) : t.holdsCmd r := by
  unfold State.holdsCmd; rw [e]; exact h

theorem foldl_holdsCmd {β : Type} {r : Nat} (f : State → β → State) (l : List β) (s : State) (hf : ∀ t x, t.holdsCmd r → (f t x).holdsCmd r)
    (h : s.holdsCmd r) : (l.foldl f s).holdsCmd r := by
  induction l generalizing s with
  | nil => exact h
  | cons a l ih => exact ih _ (hf _ _ h)

theorem State.modCmd_holds {s : State} {r k : Nat} {g : Cmd → Cmd} (h : s.holdsCmd r) : (s.modCmd k g).holdsCmd r := by
  obtain ⟨c, hc⟩ := h
  by_cases e : r = k
  · subst e; exact ⟨g c, by rw [State.modCmd_cmds, tget?_tmod, hc]; rfl⟩
  · exact ⟨c, by rw [State.modCmd_cmds, tget?_tmod_ne _ _ e, hc]⟩

theorem State.unreserve_holds {s : State} {r k : Nat} (h : s.holdsCmd r) : (s.unreserve k).holdsCmd r := by
  unfold State.unreserve
  split
  · exact h
  · exact foldl_holdsCmd _ _ _ (fun t _ ht => State.holdsCmd_of ht (by simp)) (State.modCmd_holds h)

/-- The end of a step keeps every command record. -/
theorem State.snowEnd_holds {s : State} {r k : Nat} {b : Bool} (h : s.holdsCmd r) : (s.snowEnd k b).holdsCmd r := by
  unfold State.snowEnd
  split
  · exact h
  · rename_i c _
    split
    · exact h
    · dsimp only
      have h1 : (if c.provisioned then s else s.unreserve k).holdsCmd r := by
        split
        · exact h
        · exact State.unreserve_holds h
      generalize (if c.provisioned then s else s.unreserve k) = s1 at h1 ⊢
      have h2 : (if c.tookTokens then s1 else s1.takeTokens c b).holdsCmd r := by
        split
        · exact h1
        · exact State.holdsCmd_of h1 (by simp)
      generalize (if c.tookTokens then s1 else s1.takeTokens c b) = s2 at h2 ⊢
      have h3 : (if c.provisioned && !c.tookTokens && !b then c.seqs.foldl State.loosen s2 else s2).holdsCmd r := by
        split
        · exact foldl_holdsCmd _ _ _ (fun t _ ht => State.holdsCmd_of ht (by simp)) h2
        · exact h2
      generalize (if c.provisioned && !c.tookTokens && !b then c.seqs.foldl State.loosen s2 else s2) = s3 at h3 ⊢
      refine State.holdsCmd_of h3 ?_
      rw [State.syncSeqs_cmds]
      repeat' split
      all_goals simp

theorem State.failCmd_holds {s : State} {r k : Nat} {st : Status} (h : s.holdsCmd r) : (s.failCmd k st).holdsCmd r := by
  unfold State.failCmd
  apply State.modCmd_holds
  split
  · exact State.holdsCmd_of h (by simp)
  · exact h

theorem State.putGranule_holds {s : State} {r : Nat} {q : MemReq} {b : Blob} (h : s.holdsCmd r) : (s.putGranule q b).holdsCmd r := by
  simp only [State.putGranule, State.refuseBad]
  repeat' split
  all_goals first | exact State.failCmd_holds (State.holdsCmd_of h (by simp)) | exact State.holdsCmd_of h (by simp)

theorem State.portWrite_holds {s : State} {r : Nat} {q : MemReq} {b : Blob} (h : s.holdsCmd r) : (s.portWrite q b).holdsCmd r := by
  refine foldl_holdsCmd _ _ _ ?_ h
  intro t g ht
  dsimp only
  split
  · exact State.putGranule_holds ht
  · exact State.holdsCmd_of ht (by simp)
  · simp only [State.fktDeny]
    repeat' split
    all_goals first | exact State.failCmd_holds (State.holdsCmd_of ht rfl) | exact State.holdsCmd_of ht rfl
  · exact ht

theorem putFrames_holds {r f off : Nat} {a : Alloc} {q : MemReq} {b : Blob} {s : State} (h : s.holdsCmd r) : (putFrames a q f off b s).holdsCmd r := by
  induction f generalizing off b s with
  | zero => exact h
  | succ f ih =>
    simp only [putFrames]
    split
    · exact h
    · exact ih (State.portWrite_holds h)

theorem State.zeroGradients_holds {s : State} {r k : Nat} {c : Cmd} (h : s.holdsCmd r) : (s.zeroGradients k c).holdsCmd r := by
  refine State.holdsCmd_of (foldl_holdsCmd _ _ _ ?_ h) rfl
  intro t x ht
  repeat' split
  all_goals first
    | exact ht
    | exact putFrames_holds (foldl_holdsCmd _ _ _ (fun _ _ hu => putFrames_holds hu) ht)

/-- A command that is finished is completed. -/
theorem State.finish_completed {s : State} {r : Nat} {c : Cmd} (st : Status) (h : tget? s.cmds r = some c) : (s.finish r st).completed r st := by
  have h1 : (((s.withdraw r).crevLeave r).snowEnd r (st == .success)).holdsCmd r := State.snowEnd_holds ⟨c, by simpa using h⟩
  have h3 : ∀ t : State, t.holdsCmd r → ((t.endCmd r st).prune).completed r st := by
    intro t ⟨c2, ht⟩
    obtain ⟨x, hx, hy⟩ := State.endCmd_completed st ht
    exact ⟨x, by simpa using hx, hy⟩
  have h4 : ∀ (t : State) (k n : Nat) (b : Bool), t.completed r st → (t.releaseSaves k n b).completed r st := by
    intro t k n b ⟨x, hx, hy⟩; exact ⟨x, by simpa using hx, hy⟩
  have h5 : State.holdsCmd (if (c.opcode = 0x81 && !c.refused) = true then (((s.withdraw r).crevLeave r).snowEnd r (st == .success)).zeroGradients r c
      else ((s.withdraw r).crevLeave r).snowEnd r (st == .success)) r := by
    split
    · exact State.zeroGradients_holds h1
    · exact h1
  unfold State.finish
  rw [h]
  dsimp only
  split
  · exact h3 _ h5
  · exact h4 _ _ _ _ (h3 _ h5)

theorem Answers.of_eq {o : Out} {t : State} {P : State → Prop} (h : o = .next t) (p : P t) : Answers o P := ⟨t, h, p⟩


theorem AnswersSettled.of_eq {o : Out} {u : State} {P : State → Prop} (h : o = .next u.settle) (p : P u) : AnswersSettled o P := ⟨u, h, p⟩

@[simp] theorem State.takeTokens_now (s : State) (c : Cmd) (take : Bool) : (s.takeTokens c take).now = s.now := rfl

@[simp] theorem State.snowEnd_now (s : State) (r : Nat) (ok : Bool) : (s.snowEnd r ok).now = s.now := by
  have hl : ∀ (l : List Nat) (t : State), (l.foldl State.loosen t).now = t.now := by
    intro l; induction l with
    | nil => intro t; rfl
    | cons a l ih => intro t; rw [List.foldl_cons, ih, State.loosen_now]
  unfold State.snowEnd
  split
  · rfl
  · split
    · rfl
    · dsimp only
      rw [State.syncSeqs_now]
      have h : ∀ t : State, t.now = s.now → (if ok = true then t.modCtx (‹Cmd›).ctx fun x => { x with lastSeqs := (‹Cmd›).seqs } else t).now = s.now := by
        intro t ht; split <;> exact ht
      refine h _ ?_
      rw [State.passBoundary_now]
      have h1 : ∀ (b : Bool) (t u : State), t.now = s.now → u.now = s.now → (if b = true then t else u).now = s.now := by
        intro b t u ht hu; split
        · exact ht
        · exact hu
      refine h1 _ _ _ ?_ ?_
      all_goals first | show State.now (ite _ _ _) = _ | skip
      all_goals refine h1 _ _ _ ?_ ?_
      all_goals (try rw [hl])
      all_goals refine h1 _ _ _ ?_ ?_
      all_goals (try rw [State.takeTokens_now])
      all_goals refine h1 _ _ _ ?_ ?_
      all_goals first | rfl | exact State.unreserve_now _ _

@[simp] theorem State.finish_now (s : State) (r : Nat) (st : Status) : (s.finish r st).now = s.now := by
  unfold State.finish
  split
  · rfl
  · dsimp only
    repeat' split
    all_goals simp

@[simp] theorem State.signalCq_cq (s : State) (i : Nat) (q : Queue) (h : tget? s.queues i = some q) :
    tget? (s.signalCq i).queues i = some { q with unsignalled := 0, unsigSince := none } := by
  unfold State.signalCq
  rw [h]
  dsimp only
  rw [State.raiseVector_queues, State.modQ_queues, tget?_tmod, h]; rfl
theorem State.interruptCq_cq {s : State} {i : Nat} {P : Queue → Prop} (hP : ∀ q, P q → P { q with unsignalled := 0, unsigSince := none })
    (h : s.queueHas i P) : (s.interruptCq i).queueHas i P := by
  obtain ⟨q, hq, hp⟩ := h
  unfold State.interruptCq
  rw [hq]
  dsimp only
  split
  · exact ⟨q, hq, hp⟩
  · exact ⟨_, State.signalCq_cq s i q hq, hP q hp⟩

@[simp] theorem State.signalCq_other (s : State) {i j : Nat} (h : j ≠ i) : tget? (s.signalCq i).queues j = tget? s.queues j := by
  unfold State.signalCq
  split
  · rw [State.raiseVector_queues, State.modQ_queues, tget?_tmod_ne _ _ h]
  · rfl

theorem State.emitCqe_other (s : State) {i j : Nat} (e : Cqe) (h : j ≠ i) : tget? (s.emitCqe i e).queues j = tget? s.queues j := by
  have hi : ∀ u : State, tget? (u.interruptCq i).queues j = tget? u.queues j := by
    intro u; unfold State.interruptCq; repeat' split
    all_goals simp [h]
  have hb : ∀ (u : State) (b : Bool), tget? (if b = true then u.interruptCq i else u).queues j = tget? u.queues j := by
    intro u b; split
    · exact hi u
    · rfl
  unfold State.emitCqe
  split
  · rfl
  · dsimp only; rw [hb, State.modQ_queues, tget?_tmod_ne _ _ h]; simp

theorem State.replayTake_other {s t : State} {i j : Nat} {q : Queue} {e : Cqe} (h : s.replayTake i q = some (e, t)) (hj : j ≠ i) :
    tget? t.queues j = tget? s.queues j := by
  unfold State.replayTake at h
  repeat' split at h
  · cases h; rw [State.unpark_queues, State.modQ_queues]; exact tget?_tmod_ne _ _ hj
  · cases h; rw [State.checkPark_queues, State.modQ_queues]; exact tget?_tmod_ne _ _ hj
  · cases h

/-- The replay of backlogs changes no queue but one whose replay runs. -/
theorem State.replayPump_other (n : Nat) (s : State) {j : Nat} {q : Queue} (h : tget? s.queues j = some q) (hr : q.replay = none) :
    tget? (State.replayPump n s).queues j = some q := by
  induction n generalizing s with
  | zero => exact h
  | succ n ih =>
    simp only [State.replayPump]
    split
    · exact h
    · rename_i i hi
      split
      · exact h
      · rename_i x hx
        split
        · exact h
        · rename_i hd
          have hij : j ≠ i := by
            rintro rfl
            rw [h] at hx; cases hx
            simp [State.replayDue, hr] at hd
          split
          · exact h
          · rename_i e t ht
            refine ih _ ?_
            rw [State.emitCqe_other _ _ hij]
            show tget? t.queues j = _
            rw [State.replayTake_other ht hij, h]

theorem State.replayOnward_other (s : State) {j : Nat} {q : Queue} (h : tget? s.queues j = some q) (hr : q.replay = none) :
    tget? s.replayOnward.queues j = some q := by
  unfold State.replayOnward
  split
  · exact h
  · exact State.replayPump_other _ s h hr

theorem State.replayOnward_has {s : State} {j : Nat} {P : Queue → Prop} (h : s.queueHas j fun q => q.replay = none ∧ P q) :
    s.replayOnward.queueHas j P := by
  obtain ⟨q, hq, hr, hp⟩ := h
  exact ⟨q, State.replayOnward_other s hq hr, hp⟩

/-- A host write of a register of BAR0. -/
theorem State.reg_exec {s : State} {c : Instr} {off w v : Nat} {r : Reg} (h : s.reachable = true) (hn : s.noHalf 0) (hc : accessor c = none)
    (hp : placeAt .bar0 off = some (.reg r 0)) (hb : inBar .bar0 off = true) (ha : aligned off w = true) (hw : w = r.width) :
    (s.access c false fun t => t.busWrite .bar0 off w v) = s.regWrite r (v % 2 ^ (8 * w)) := by
  rw [State.access_own false h hc]
  exact State.busWrite_reg h hb ha hp hw hn

theorem shadow_place {f o : Nat} (hf : f < 4096) (ho : o < 0x2000) : placeAt .bar0 (shadowAt f + o) = shadowPlace f o := by
  show bar0Place (0x2000000 + f * 0x2000 + o) = _
  unfold bar0Place
  have h1 : 0x2000000 + f * 0x2000 + o < 0x4000000 := by omega
  have h2 : (0x2000000 + f * 0x2000 + o - 0x2000000) / 0x2000 = f := by omega
  have h3 : (0x2000000 + f * 0x2000 + o) % 0x2000 = o := by omega
  rw [h2, h3]
  repeat rw [if_neg (by omega)]
  rw [if_pos h1]

theorem shadow_inBar {f o : Nat} (hf : f < 4096) (ho : o < 0x2000) : inBar .bar0 (shadowAt f + o) = true := by
  show decide (0x2000000 + f * 0x2000 + o < 0x4000000) = true
  simp only [decide_eq_true_eq]; omega

theorem takes_answer {s : State} {r opc : Nat} {c : Cmd} {f : State → Cmd → State} {P : State → Prop} (h : s.takes r opc c)
    (p : P (f (s.begun r) c)) : Answers (.next (s.runAdmin r opc f)) P := by
  rw [State.runAdmin_takes h]; exact ⟨_, rfl, p⟩

/-- The command that is taken up runs. -/
theorem State.begun_cmd {s : State} {r opc : Nat} {c : Cmd} (h : s.takes r opc c) :
    tget? (s.begun r).cmds r = some { c with stage := .running, start := some s.now } := State.running_cmd h

@[simp] theorem State.begun_fn (s : State) (r f : Nat) : (s.begun r).fn f = s.fn f := rfl

/-- Host accesses that succeed leave the effect and the answer. -/
theorem State.answer_ok (s : State) (r : Nat) (c : Cmd) (io : HostIo) (b : Blob) (eff : State → State) (h : io.write = .ok) :
    s.answer r c io b eff = ((eff (s.writeResult c b)).modCmd r fun x => { x with result := padTo 64 b }).commit r := by
  simp [State.answer, h]

theorem State.withData_ok (s : State) (r : Nat) (c : Cmd) (io : HostIo) (n : Nat) (f : State → Blob → State) (h : io.read = .ok)
    (ha : admDataAddr c.sqe ≠ 0) : s.withData r c io n f = f (s.hostRead c.fn (admDataAddr c.sqe) n) (padTo n io.data) := by
  simp [State.withData, h, ha]

@[simp] theorem State.fn_modCmd (s : State) (r f : Nat) (g : Cmd → Cmd) : (s.modCmd r g).fn f = s.fn f := rfl
@[simp] theorem State.fn_park (s : State) (r f : Nat) : (s.park r).fn f = s.fn f := rfl
@[simp] theorem State.fn_handOver (s : State) (r f : Nat) : (s.handOver r).fn f = s.fn f := rfl
@[simp] theorem State.fn_report (s : State) (r f : Nat) (st : Status) : (s.report r st).fn f = s.fn f := rfl
@[simp] theorem State.fn_commit (s : State) (r f : Nat) : (s.commit r).fn f = s.fn f := rfl
@[simp] theorem State.fn_hostRead (s : State) (g a n f : Nat) : (s.hostRead g a n).fn f = s.fn f := rfl
@[simp] theorem State.fn_pushHost (s : State) (x : HostTx) (f : Nat) : (s.pushHost x).fn f = s.fn f := rfl
@[simp] theorem State.fn_modQ (s : State) (i f : Nat) (g : Queue → Queue) : (s.modQ i g).fn f = s.fn f := rfl
@[simp] theorem State.fn_modCtx (s : State) (i f : Nat) (g : Ctx → Ctx) : (s.modCtx i g).fn f = s.fn f := rfl
@[simp] theorem State.fn_stopFetch (s : State) (k f : Nat) : (s.stopFetch k).fn f = s.fn f := rfl

/-- A configuration request that is carried out. -/
theorem State.config_ok {s : State} {c : Instr} {f : State → State} (h : s.configurable = true) : s.config c f = f s := by
  simp only [State.configurable, Bool.and_eq_true, Bool.not_eq_true', bne_iff_ne, Option.isNone_iff_eq_none] at h
  obtain ⟨⟨⟨⟨⟨⟨⟨h1, h2⟩, h3⟩, h4⟩, h5⟩, h6⟩, h7⟩, h8⟩ := h
  simp [State.config, h1, h2, h3, h4, h5, h6, h7, h8]
theorem State.cmdHas_report {s : State} {r : Nat} {c : Cmd} {P : Cmd → Prop} (st : Status) (h : tget? s.cmds r = some c)
    (p : P { c with stage := .ended, status := st, parked := false })
    (hd : c.decided = none := by (try dsimp only); first | assumption | exact State.takes_decided (by assumption)) : (s.report r st).cmdHas r P := by
  have e : c.decided.getD st = st := by simp [hd]
  refine ⟨_, by rw [State.report, State.modCmd_cmds, tget?_tmod, h]; rfl, ?_⟩
  dsimp only
  rw [e]; exact p

/-- The answer of a command stands in its record. -/
theorem State.answer_result {s : State} {r : Nat} {c0 c : Cmd} {io : HostIo} {b : Blob} {eff : State → State} (hio : io.write = .ok)
    (h : tget? s.cmds r = some c0) (he : ∀ t, (eff t).cmds = t.cmds)
    (hd : c0.decided = none := by (try dsimp only); first | assumption | exact State.takes_decided (by assumption)) :
    (s.answer r c io b eff).cmdHas r fun x => x.result = padTo 64 b := by
  rw [State.answer_ok _ _ _ _ _ _ hio]
  unfold State.commit
  refine State.cmdHas_report .success (c := { c0 with journal := .committed, result := padTo 64 b }) ?_ rfl hd
  simp [he, h]

/-- What of a function a change of its counts, log and queues leaves as it is. -/
def Fn.life (x : Fn) : FnPhase × Nat × Bool × Bool × List Nat × List Nat := (x.phase, x.generation, x.vx1, x.vx1Next, x.enablers, x.afterwards)

theorem fn_updFn_ne (s : State) {f k : Nat} (g : Fn → Fn) (h : k ≠ f) : (s.updFn f g).fn k = s.fn k := by
  unfold State.updFn State.fn tupd tget; dsimp only; rw [tget?_tset_ne _ _ h]

theorem updFn_life (s : State) (f k : Nat) {g : Fn → Fn} (h : ∀ x, (g x).life = x.life) : ((s.updFn f g).fn k).life = (s.fn k).life := by
  by_cases e : k = f
  · subst e; rw [State.fn_updFn, h]
  · rw [fn_updFn_ne _ _ e]

theorem foldl_life {β : Type} (op : State → β → State) (k : Nat) (h : ∀ t x, ((op t x).fn k).life = (t.fn k).life) (l : List β) (s : State) :
    ((l.foldl op s).fn k).life = (s.fn k).life := by
  induction l generalizing s with
  | nil => rfl
  | cons a l ih => rw [List.foldl_cons, ih, h]

theorem checkPark_life (s : State) (f k : Nat) : ((s.checkPark f).fn k).life = (s.fn k).life := by
  unfold State.checkPark; dsimp only; split
  · rfl
  · exact updFn_life _ _ _ (by intro _; rfl)

theorem unpark_life (s : State) (f k : Nat) (l : List Parked) : ((s.unpark f l).fn k).life = (s.fn k).life := by
  unfold State.unpark State.checkParks
  dsimp only
  rw [foldl_life _ _ fun t x => checkPark_life t x k, checkPark_life]
  exact updFn_life s f k (g := fun y => { y with parkG := y.parkG - l.countP (·.guaranteed), parkS := y.parkS - (l.length - l.countP (·.guaranteed)) }) fun _ => rfl

theorem discardParked_life (s : State) (f k : Nat) : ((s.discardParked f).fn k).life = (s.fn k).life := by
  refine foldl_life _ _ (fun t i => ?_) _ _
  split
  · rfl
  · unfold State.moraine
    rw [updFn_life _ _ _ (by intro _; rfl), unpark_life]; rfl

theorem logPage_life (s : State) (f k p : Nat) : ((s.logPage f p).fn k).life = (s.fn k).life := by
  unfold State.logPage
  dsimp only
  repeat' split
  · rfl
  · exact updFn_life _ _ _ (by intro _; rfl)
  · rw [updFn_life _ _ _ (by intro _; rfl)]; rfl

theorem hostWrite_life (s : State) (f a k : Nat) (b : Blob) : ((s.hostWrite f a b).fn k).life = (s.fn k).life := by
  unfold State.hostWrite
  dsimp only
  split
  · rw [foldl_life _ _ fun t p => logPage_life t f k p]; rfl
  · rfl

theorem writeResult_life (s : State) (c : Cmd) (b : Blob) (k : Nat) : ((s.writeResult c b).fn k).life = (s.fn k).life := by
  unfold State.writeResult; rw [State.fn_hostRead, hostWrite_life]

theorem answer_life (s : State) (r : Nat) (c : Cmd) (io : HostIo) (b : Blob) (k : Nat) : ((s.answer r c io b id).fn k).life = (s.fn k).life := by
  unfold State.answer
  dsimp only
  split
  · rw [State.fn_commit, State.fn_modCmd]; exact writeResult_life _ _ _ _
  · rw [State.fn_report]; exact writeResult_life _ _ _ _

theorem answerGen_life (s : State) (f : Nat) (io : HostIo) (l : List Nat) (k : Nat) : ((s.answerGen f io l).fn k).life = (s.fn k).life := by
  refine foldl_life _ _ (fun t r => ?_) _ _
  repeat' split
  · exact answer_life _ _ _ _ _ _
  · rw [State.fn_commit]
  · rfl

theorem append_fns (s : State) (f : Nat) (r : Receipt) : (s.append f r).fns = s.fns := by
  unfold State.append State.pulse
  dsimp only
  repeat' split
  all_goals rfl

theorem restartDue_life (s : State) (f k : Nat) : ((s.restartDue f).fn k).life = (s.fn k).life := by
  unfold State.restartDue
  split
  · rw [updFn_life _ _ _ (by intro _; rfl)]; unfold State.fn; rw [append_fns]
  · rfl

/-- The command at a record ended, with no status decided before. -/
def State.endedOpen (s : State) (r : Nat) (st : Status) (P : Cmd → Prop) : Prop :=
  ∃ c, tget? s.cmds r = some c ∧ c.stage = .ended ∧ c.status = st ∧ c.decided = none ∧ P c

theorem report_keeps {s : State} {r k : Nat} {st : Status} {P : Cmd → Prop}
    (hp : ∀ c, P c → P { c with stage := .ended, status := st, parked := false }) (h : s.endedOpen r st P) : (s.report k st).endedOpen r st P := by
  obtain ⟨c, hc, h1, h2, h3, h4⟩ := h
  unfold State.report
  by_cases e : r = k
  · subst e
    exact ⟨{ c with stage := .ended, status := c.decided.getD st, parked := false }, by rw [State.modCmd_cmds, tget?_tmod, hc]; rfl, rfl, by simp [h3], h3,
      by have := hp c h4; simpa [h3] using this⟩
  · exact ⟨c, by rw [State.modCmd_cmds, tget?_tmod_ne _ _ e, hc], h1, h2, h3, h4⟩

theorem modCmd_keeps {s : State} {r k : Nat} {st : Status} {P : Cmd → Prop} {g : Cmd → Cmd} (hg : ∀ c, c.stage = .ended → c.status = st → c.decided = none → P c →
    (g c).stage = .ended ∧ (g c).status = st ∧ (g c).decided = none ∧ P (g c)) (h : s.endedOpen r st P) : (s.modCmd k g).endedOpen r st P := by
  obtain ⟨c, hc, h1, h2, h3, h4⟩ := h
  by_cases e : r = k
  · subst e; exact ⟨g c, by rw [State.modCmd_cmds, tget?_tmod, hc]; rfl, hg c h1 h2 h3 h4⟩
  · exact ⟨c, by rw [State.modCmd_cmds, tget?_tmod_ne _ _ e, hc], h1, h2, h3, h4⟩

theorem commit_keeps {s : State} {r k : Nat} {P : Cmd → Prop} (hp : ∀ c, P c → P { c with stage := .ended, status := .success, parked := false })
    (hj : ∀ c, P c → P { c with journal := .committed }) (h : s.endedOpen r .success P) : (s.commit k).endedOpen r .success P :=
  report_keeps hp (modCmd_keeps (fun c a b d e => ⟨a, b, d, hj c e⟩) h)

theorem endedOpen_of {s t : State} {r : Nat} {st : Status} {P : Cmd → Prop} (e : t.cmds = s.cmds) (h : s.endedOpen r st P) : t.endedOpen r st P := by
  unfold State.endedOpen; rw [e]; exact h

theorem foldl_keeps {β : Type} {r : Nat} {st : Status} {P : Cmd → Prop} (op : State → β → State) (h : ∀ t x, t.endedOpen r st P → (op t x).endedOpen r st P)
    (l : List β) (s : State) (hs : s.endedOpen r st P) : (l.foldl op s).endedOpen r st P := by
  induction l generalizing s with
  | nil => exact hs
  | cons a l ih => exact ih _ (h _ _ hs)

/-- A command of the list that is live ends, and so stays. -/
theorem foldl_ends {r : Nat} {l : List Nat} {st : Status} (op : State → Nat → State) (P : Cmd → Prop) (hr : r ∈ l)
    (h0 : ∀ t k, k ≠ r → tget? (op t k).cmds r = tget? t.cmds r) (h1 : ∀ t c, tget? t.cmds r = some c → c.decided = none → (op t r).endedOpen r st P)
    (h2 : ∀ t x, t.endedOpen r st P → (op t x).endedOpen r st P) {s : State} {c : Cmd} (hc : tget? s.cmds r = some c) (hd : c.decided = none) :
    (l.foldl op s).endedOpen r st P := by
  induction l generalizing s with
  | nil => cases hr
  | cons a l ih =>
    rw [List.foldl_cons]
    by_cases e : a = r
    · subst e; exact foldl_keeps op h2 l _ (h1 _ _ hc hd)
    · have : r ∈ l := by
        rcases List.mem_cons.mp hr with h | h
        · exact absurd h.symm e
        · exact h
      exact ih this (by rw [h0 _ _ e]; exact hc)

theorem commit_ends {r : Nat} (t : State) (c : Cmd) (h : tget? t.cmds r = some c) (hd : c.decided = none) : (t.commit r).endedOpen r .success fun _ => True := by
  unfold State.commit State.report
  refine ⟨{ c with journal := .committed, stage := .ended, status := c.decided.getD .success, parked := false }, ?_, rfl, by simp [hd], hd, trivial⟩
  rw [State.modCmd_cmds, tget?_tmod, State.modCmd_cmds, tget?_tmod, h]; rfl

theorem commit_other {r k : Nat} (t : State) (h : k ≠ r) : tget? (t.commit k).cmds r = tget? t.cmds r := by
  unfold State.commit State.report
  rw [State.modCmd_cmds, tget?_tmod_ne _ _ h.symm, State.modCmd_cmds, tget?_tmod_ne _ _ h.symm]

theorem commits_end {r : Nat} {l : List Nat} {s : State} {c : Cmd} (hr : r ∈ l) (hc : tget? s.cmds r = some c) (hd : c.decided = none) :
    (l.foldl State.commit s).ended r .success := by
  obtain ⟨x, h1, h2, h3, -⟩ := foldl_ends State.commit (fun _ => True) hr (fun t _ h => commit_other t h) commit_ends
    (fun t _ h => commit_keeps (fun _ h => h) (fun _ h => h) h) hc hd
  exact ⟨x, h1, h2, h3⟩

theorem commits_fns (l : List Nat) (s : State) : (l.foldl State.commit s).fns = s.fns := by
  induction l generalizing s with
  | nil => rfl
  | cons a l ih => rw [List.foldl_cons, ih]; rfl

theorem answerGen_ends {r f : Nat} {io : HostIo} {s : State} {l : List Nat} {b : Blob} (hw : io.write = .ok)
    (h : s.endedOpen r .success fun c => c.result = b ∧ b ≠ []) : (s.answerGen f io l).endedOpen r .success fun c => c.result = b ∧ b ≠ [] := by
  refine foldl_keeps _ (fun t k ht => ?_) l s h
  by_cases e : k = r
  · subst e
    obtain ⟨c, hc, h1, h2, h3, h4, h5⟩ := ht
    rw [hc]; dsimp only
    rw [if_neg (by simp [h4, h5])]
    exact commit_keeps (fun _ h => h) (fun _ h => h) ⟨c, hc, h1, h2, h3, h4, h5⟩
  · split
    · split
      · unfold State.answer
        dsimp only
        rw [if_pos hw]
        refine commit_keeps (fun _ h => h) (fun _ h => h) ?_
        obtain ⟨c, hc, h4⟩ := ht
        exact ⟨c, by rw [State.modCmd_cmds, tget?_tmod_ne _ _ (Ne.symm e)]; simpa using hc, h4⟩
      · exact commit_keeps (fun _ h => h) (fun _ h => h) ht
    · exact ht

/-- The first enable ends the bare Serac units: nothing of a function or a command changes. -/
theorem bare_fns (s : State) : (if s.tarn.everEnabled then s else
    { (List.range 32).foldl (fun t u => t.updUnit u fun y => { y with bare := false }) s with tarn := { s.tarn with everEnabled := true } }).fns = s.fns := by
  have h : ∀ (l : List Nat) (t : State), (l.foldl (fun t u => t.updUnit u fun y => { y with bare := false }) t).fns = t.fns := by
    intro l; induction l with
    | nil => intro t; rfl
    | cons a l ih => intro t; rw [List.foldl_cons, ih]; rfl
  generalize List.range 32 = l
  split
  · rfl
  · exact h l s

theorem bare_cmds (s : State) : (if s.tarn.everEnabled then s else
    { (List.range 32).foldl (fun t u => t.updUnit u fun y => { y with bare := false }) s with tarn := { s.tarn with everEnabled := true } }).cmds = s.cmds := by
  have h : ∀ (l : List Nat) (t : State), (l.foldl (fun t u => t.updUnit u fun y => { y with bare := false }) t).cmds = t.cmds := by
    intro l; induction l with
    | nil => intro t; rfl
    | cons a l ih => intro t; rw [List.foldl_cons, ih]; rfl
  generalize List.range 32 = l
  split
  · rfl
  · exact h l s

/-- The enable of a function leaves it Enabled, one generation on, in the mode set for it, and waits for none. -/
theorem enableNow_life (s : State) (f r : Nat) (io : HostIo) (l : List Nat) :
    ((s.enableNow f r io l).fn f).life = (.enabled, nextGen (s.fn f).generation, (s.fn f).vx1Next, (s.fn f).vx1Next, [], (s.fn f).afterwards) := by
  unfold State.enableNow
  dsimp only
  rw [answerGen_life, State.fn_commit, State.fn_modCmd]
  unfold State.fn
  rw [bare_fns]
  show ((State.fn _ f)).life = _
  rw [restartDue_life, State.fn_updFn]
  have h := discardParked_life s f f
  simp only [Fn.life, Prod.mk.injEq] at h
  simp only [Fn.life, h]
  rfl

@[simp] theorem padTo_length (n : Nat) (b : Blob) : (padTo n b).length = n := by
  simp only [padTo, slice, List.length_append, List.length_replicate, List.length_take, List.length_drop]
  omega

@[simp] theorem leBytes_length (n v : Nat) : (leBytes n v).length = n := by
  induction n generalizing v with
  | zero => rfl
  | succ n ih => simp [leBytes, ih]

@[simp] theorem zeros_length (n : Nat) : (zeros n).length = n := by simp [zeros]

/-- The sizes of a receipt, of a head and of the header of the persist region. -/
@[simp] theorem Receipt.bytes_length (r : Receipt) : r.bytes.length = 256 := by
  unfold Receipt.bytes
  repeat rw [List.length_append]
  repeat rw [padTo_length]
  repeat rw [leBytes_length]
  rw [zeros_length]
@[simp] theorem Head.bytes_length (h : Head) : h.bytes.length = 64 := by simp [Head.bytes]
@[simp] theorem State.persistHeader_length (s : State) : s.persistHeader.length = 48 := by
  have h : ∀ a b c d e f : Nat, (leBytes 4 a ++ leBytes 1 b ++ zeros 3 ++ leBytes 8 c ++ leBytes 8 d ++ leBytes 16 e ++ leBytes 8 f).length = 48 := by
    intros; simp only [List.length_append, leBytes_length, zeros_length]
  exact h _ _ _ _ _ _

theorem padTo_ne (n : Nat) (b : Blob) : padTo (n + 1) b ≠ [] := by
  intro h
  have := congrArg List.length h
  simp at this

theorem enableNow_ends {s : State} {f r : Nat} {io : HostIo} {l : List Nat} {c : Cmd} (hw : io.write = .ok) (hc : tget? s.cmds r = some c)
    (hd : c.decided = none) : (s.enableNow f r io l).endedOpen r .success fun x =>
      x.result = padTo 64 (leBytes 2 (nextGen (s.fn f).generation)) ∧ padTo 64 (leBytes 2 (nextGen (s.fn f).generation)) ≠ [] := by
  have hl := discardParked_life s f f
  simp only [Fn.life, Prod.mk.injEq] at hl
  unfold State.enableNow
  dsimp only
  generalize hs1 : ((s.discardParked f).updFn f fun x => { x with generation := nextGen x.generation, vx1 := x.vx1Next, phase := .enabled, enablers := [] }) = s1
  have hg : (s1.fn f).generation = nextGen (s.fn f).generation := by rw [← hs1, State.fn_updFn]; simp only [hl]
  have hg2 := restartDue_life s1 f f
  simp only [Fn.life, Prod.mk.injEq] at hg2
  have hc1 : tget? (s1.restartDue f).cmds r = some c := by rw [← hs1]; simpa using hc
  generalize s1.restartDue f = s2 at hg2 hc1 ⊢
  generalize hs3 : (if s2.tarn.everEnabled then s2 else
    { (List.range 32).foldl (fun t u => t.updUnit u fun y => { y with bare := false }) s2 with tarn := { s2.tarn with everEnabled := true } }) = s3
  have hc3 : tget? s3.cmds r = some c := by rw [← hs3, bare_cmds, hc1]
  have hg3 : (s3.fn f).generation = nextGen (s.fn f).generation := by
    rw [← hg, ← hg2.2.1, ← hs3]; unfold State.fn; rw [bare_fns]
  refine answerGen_ends hw ?_
  rw [hg3]
  unfold State.commit State.report
  refine ⟨{ c with result := padTo 64 (leBytes 2 (nextGen (s.fn f).generation)), journal := .committed, stage := .ended, status := c.decided.getD .success, parked := false },
    ?_, rfl, by simp [hd], hd, rfl, padTo_ne 63 _⟩
  rw [State.modCmd_cmds, tget?_tmod, State.modCmd_cmds, tget?_tmod, State.modCmd_cmds, tget?_tmod, hc3]; rfl

theorem reports_end {r : Nat} {l : List Nat} {st : Status} {s : State} {c : Cmd} (hc : tget? s.cmds r = some c) (hd : c.decided = none) :
    ((r :: l).foldl (fun u k => u.report k st) s).endedOpen r st fun _ => True := by
  refine foldl_keeps _ (fun t k => report_keeps fun _ h => h) l _ ?_
  unfold State.report
  exact ⟨{ c with stage := .ended, status := c.decided.getD st, parked := false }, by rw [State.modCmd_cmds, tget?_tmod, hc]; rfl, rfl, by simp [hd], hd, trivial⟩

theorem afterTransition_none {s : State} {f : Nat} (io : HostIo) (h : (s.fn f).afterwards = []) : s.afterTransition f io = s := by
  unfold State.afterTransition; rw [h]; rfl

/-- A packet that the stages take up runs its effect. -/
theorem State.takeUp_ok {s : State} {u cls typ : Nat} {p : TilePkt} {f : State → State} (h1 : s.stagesRun = true) (h2 : s.unitOk u = true)
    (h3 : packetSound p) (h4 : (upTypes cls).contains typ = true) (h5 : p.typ = typ) : s.takeUp u cls typ p f = f (s.tookUp u cls p) := by
  unfold State.takeUp
  rw [h1, h2, h3 cls, h5, h4]; simp [State.tookUp]

theorem State.tookUp_unit (s : State) (u cls : Nat) (p : TilePkt) : (s.tookUp u cls p).unit u = (s.unit u).spendUp cls (beatsOf p.payload.length) := by
  unfold State.tookUp State.unit; rw [State.progress_serac]; exact State.unit_updUnit _ _ _

@[simp] theorem State.tookUp_works (s : State) (u cls : Nat) (p : TilePkt) : ((s.tookUp u cls p).unit u).works = (s.unit u).works := by
  rw [State.tookUp_unit]; rfl
@[simp] theorem State.tookUp_preempt (s : State) (u cls : Nat) (p : TilePkt) : ((s.tookUp u cls p).unit u).preempt = (s.unit u).preempt := by
  rw [State.tookUp_unit]; rfl
@[simp] theorem State.tookUp_cmds (s : State) (u cls : Nat) (p : TilePkt) : (s.tookUp u cls p).cmds = s.cmds := rfl
@[simp] theorem State.tookUp_ctxs (s : State) (u cls : Nat) (p : TilePkt) : (s.tookUp u cls p).ctxs = s.ctxs := rfl
@[simp] theorem State.tookUp_silt (s : State) (u cls : Nat) (p : TilePkt) : (s.tookUp u cls p).silt = s.silt := rfl
@[simp] theorem State.tookUp_mem (s : State) (u cls : Nat) (p : TilePkt) : (s.tookUp u cls p).mem = s.mem := rfl

theorem State.elapse_now (s : State) (d : Nat) : (s.elapse d).now = s.now + d := rfl

/-- What the passing of time leaves as it is, and how far it goes. -/
theorem State.advanceTo_le (s : State) (t : Nat) : t ≤ (s.advanceTo t).now := by
  unfold State.advanceTo
  split
  · rw [State.releasePorts_now, State.elapse_now]
    have : t ≤ roundUp 10 t := by unfold roundUp; omega
    omega
  · omega

theorem State.releasePorts_eq (s : State) (t : Nat) : s.releasePorts t = { s with
    ports := { s.ports with credits := (s.releasePorts t).ports.credits }, pins := (s.releasePorts t).pins, serac := (s.releasePorts t).serac } := by
  unfold State.releasePorts; dsimp only; split <;> rfl

theorem State.advanceTo_ports (s : State) (t : Nat) : (s.advanceTo t).ports = { s.ports with credits := (s.advanceTo t).ports.credits } := by
  unfold State.advanceTo; split
  · rw [State.releasePorts_eq]; rfl
  · rfl

theorem State.advanceTo_pwr (s : State) (t : Nat) : (s.advanceTo t).pwr =
    { s.pwr with heldNs := (s.advanceTo t).pwr.heldNs, pacedNs := (s.advanceTo t).pwr.pacedNs } := by
  unfold State.advanceTo; split
  · rw [State.releasePorts_eq]; rfl
  · rfl

theorem State.advanceTo_pins (s : State) (t : Nat) : (s.advanceTo t).pins = { s.pins with tpRstN := (s.advanceTo t).pins.tpRstN } := by
  unfold State.advanceTo; split
  · unfold State.releasePorts; dsimp only; split <;> rfl
  · rfl

theorem State.releasePorts_preempt (s : State) (t u : Nat) : ((s.releasePorts t).unit u).preempt = (s.unit u).preempt := by
  unfold State.releasePorts
  dsimp only
  split
  · rfl
  · unfold State.unit tget
    dsimp only
    rw [tget?_tmap]
    cases tget? s.serac.units u with
    | none => rfl
    | some x => dsimp only [Option.map]; split <;> rfl

theorem State.advanceTo_preempt (s : State) (t u : Nat) : ((s.advanceTo t).unit u).preempt = (s.unit u).preempt := by
  unfold State.advanceTo
  split
  · rw [State.releasePorts_preempt]
    unfold State.unit State.elapse tget
    dsimp only
    rw [tget?_tmap]
    cases tget? s.serac.units u with
    | none => rfl
    | some x => dsimp only [Option.map, Option.getD]; unfold SUnit.elapse; split <;> rfl
  · rfl

/-- A receipt written to the persist region stands in the ring where the tail was. -/
theorem State.persistOne_entry {s : State} {x : Receipt} (w : Memory.wf s.mem = true) (hf : x.fn < 4096) :
    memRead (s.persistOne x).mem (s.persistAt (ringAt s.ledg.persist.tail)) 256 = x.bytes := by
  have h1 := memRead_memWrite (s.persistAt (ringAt s.ledg.persist.tail)) x.bytes w
  rw [Receipt.bytes_length] at h1
  unfold State.persistOne State.putHeader State.persistPut
  dsimp only
  rw [memRead_memWrite_out _ _ (memWrite_wf _ _ (memWrite_wf _ _ w)), memRead_memWrite_out _ _ (memWrite_wf _ _ w), h1]
  · rw [Head.bytes_length]; right; simp only [State.persistAt, devAddr, ringAt, headAt]; omega
  · rw [State.persistHeader_length]; right; simp only [State.persistAt, devAddr, ringAt]; omega

theorem commits_fn (l : List Nat) (s : State) (f : Nat) : (l.foldl State.commit s).fn f = s.fn f := by
  unfold State.fn; rw [commits_fns]

theorem commits_queues (l : List Nat) (s : State) : (l.foldl State.commit s).queues = s.queues := by
  induction l generalizing s with
  | nil => rfl
  | cons a l ih => rw [List.foldl_cons, ih]; rfl

theorem hostWrite_queues (s : State) (f a : Nat) (b : Blob) : (s.hostWrite f a b).queues = s.queues := by rw [State.hostWrite_eq]

theorem answerGen_queues (s : State) (f : Nat) (io : HostIo) (l : List Nat) : (s.answerGen f io l).queues = s.queues := by
  unfold State.answerGen
  induction l generalizing s with
  | nil => rfl
  | cons a l ih =>
    rw [List.foldl_cons, ih]
    repeat' split
    · unfold State.answer State.writeResult
      dsimp only
      split <;> exact hostWrite_queues _ _ _ _
    · rfl
    · rfl

theorem tget?_tfilter_some {α : Type} {t : Tbl α} {p : Nat → α → Bool} {n : Nat} {x : α} (h : tget? (tfilter t p) n = some x) : p n x = true := by
  unfold tfilter at h
  induction t with
  | nil => cases h
  | cons e t ih =>
    obtain ⟨k, v⟩ := e
    rw [List.filter_cons] at h
    split at h
    · rename_i hp
      simp only [tget?] at h
      split at h
      · rename_i e; cases h; rw [← e]; exact hp
      · exact ih h
    · exact ih h

/-- After the teardown of a function only its admin queue is left to it, restarted. -/
theorem teardown_queue (s : State) (f : Nat) {i : Nat} {q : Queue} (h : tget? (s.teardown f).queues i = some q) (hf : q.fn = f) :
    q.admin = true ∧ q.sqHead = 0 ∧ q.sqTail = 0 ∧ q.cqHead = 0 ∧ q.cqTail = 0 ∧ q.phase = true := by
  unfold State.teardown at h
  dsimp only at h
  rw [tget?_tmap] at h
  obtain ⟨x, hx, h1⟩ := Option.map_eq_some_iff.mp h
  have hk := tget?_tfilter_some hx
  split at h1
  · rename_i e
    subst h1
    refine ⟨?_, rfl, rfl, rfl, rfl, rfl⟩
    show x.admin = true
    simpa [e] using hk
  · subst h1; exact absurd hf (by assumption)

end Sys2Proof.Machine
end

