-- ==== Sys2Proof/Laws/Effects.lean ====
section
/-! SUPPORT. What the operations that commands share leave in a state: doorbell and vector accesses, timed rows, tile packets, links,
rings, mailboxes, key slots, resets and interrupt sources. -/

namespace Sys2Proof.Machine

open Sys2Proof

theorem halves_upd (s : State) (f : Nat) (g : Halves → Halves) : (s.updHalves f g).halves f = g (s.halves f) := by
  simp [State.halves, State.updHalves, tupd, tget, tget?_tset]

theorem door_exec {s : State} {d : Door} {k v : Nat} {c : Instr} (hc : accessor c = none) (h : s.reachable = true) (hd : doorOk d = true) (hn : s.noHalf (requester (doorAt d).1)) (hk : k < 6) :
    s.doorVia c d k v = s.doorWrite d k (v % 2 ^ 32) := by
  unfold State.doorVia
  rw [if_pos hd, State.access_own false h hc]
  have hp : placeAt (doorAt d).1 ((doorAt d).2 + 4 * k) = some (.reg (.door d k) 0) := by
    have hw : ∀ o, o / 4 = k → o % 4 = 0 → o < 0x18 → doorPlace d o = some (.reg (.door d k) 0) := by
      intro o h1 h2 h3; unfold doorPlace; rw [if_pos h3, h1, h2]
    cases d with
    | own f l =>
      simp only [doorOk, Bool.and_eq_true, decide_eq_true_eq] at hd
      show vfPlace f (32 * l + 4 * k) = _
      unfold vfPlace
      rw [if_pos (by omega), show (32 * l + 4 * k) / 32 = l by omega, show (32 * l + 4 * k) % 32 = 4 * k by omega]
      exact hw _ (by omega) (by omega) (by omega)
    | pf0 q =>
      show doorPlace (.pf0 ((32 * q + 4 * k) / 32)) ((32 * q + 4 * k) % 32) = _
      rw [show (32 * q + 4 * k) / 32 = q by omega, show (32 * q + 4 * k) % 32 = 4 * k by omega]
      exact hw _ (by omega) (by omega) (by omega)
  have hb : inBar (doorAt d).1 ((doorAt d).2 + 4 * k) = true := by
    cases d with
    | own f l =>
      simp only [doorOk, Bool.and_eq_true, decide_eq_true_eq] at hd
      show (decide (0 < f) && decide (f < 4096) && decide (32 * l + 4 * k < 0x10000)) = true
      simp only [Bool.and_eq_true, decide_eq_true_eq]; omega
    | pf0 q =>
      simp only [doorOk, decide_eq_true_eq] at hd
      show decide (32 * q + 4 * k < 0x40000) = true
      simp only [decide_eq_true_eq]; omega
  have ha : aligned ((doorAt d).2 + 4 * k) 4 = true := by
    cases d with
    | own f l => show ((4 == 4 || 4 == 8) && (32 * l + 4 * k) % 4 == 0) = true; simp; omega
    | pf0 q => show ((4 == 4 || 4 == 8) && (32 * q + 4 * k) % 4 == 0) = true; simp; omega
  rw [State.busWrite_reg (w := 4) h hb ha hp (by rfl) hn]
  rfl

theorem door_pf0 {s : State} {d : Door} {i : Nat} {q : Queue} (h : s.doorQueue d = some (i, q)) :
    (match d, s.blockQueue d with | .pf0 _, some (_, q) => q.fn != 0 | _, _ => false) = false ∧ s.blockQueue d = some (i, q) := by
  cases d with
  | own f l =>
    simp only [State.doorQueue, State.blockQueue] at h ⊢
    refine ⟨trivial, ?_⟩
    split at h
    · cases h
    · rename_i h1
      rw [if_neg (by omega)]; exact h
  | pf0 k =>
    simp only [State.doorQueue, State.blockQueue] at h ⊢
    obtain ⟨x, hx, h2⟩ := Option.bind_eq_some_iff.mp h
    split at h2
    · rename_i h3; cases h2; simp [hx, h3]
    · cases h2

@[simp] theorem postEvent_queues (s : State) (f : Nat) (e : Event) (p : Nat) : (s.postEvent f e p).queues = s.queues := rfl

theorem raiseVector_queues (s : State) (f v : Nat) : (s.raiseVector f v).queues = s.queues := by
  unfold State.raiseVector; dsimp only; repeat' split
  all_goals rfl

theorem head_ledg {s t : State} {f : Nat} (h : t.ledg = s.ledg) : t.head f = s.head f := by simp [State.head, h]

theorem inval_eff (u : State) (c lo hi r : Nat) (z : Change) : (u.invalidate c lo hi (some r) (some z)).mapsWith r (lo, hi) z := by
  unfold State.mapsWith State.invalidate; dsimp only
  by_cases h : u.esk.invals.length < 8
  · simp only [if_pos h]
    exact ⟨_, List.mem_append_left _ (List.mem_append_right _ (List.mem_cons_self ..)), rfl, rfl, rfl, rfl⟩
  · simp only [if_neg h]
    exact ⟨_, List.mem_append_right _ (List.mem_append_right _ (List.mem_cons_self ..)), rfl, rfl, rfl, rfl⟩

theorem inval_epoch (u : State) (c lo hi : Nat) (k : Option Nat) (z : Option Change) {y : Ctx} (h : tget? u.ctxs c = some y) :
    tget? (u.invalidate c lo hi k z).ctxs c = some { y with epoch := y.epoch + 1 } := by
  unfold State.invalidate; dsimp only
  show tget? (tmod u.ctxs c _) c = _
  rw [tget?_tmod, h]; rfl

theorem writeTables_eff {s : State} {r x : Nat} {y : Ctx} (ls : List Leaf) (lo hi : Nat) (m : Bool) (h : tget? s.ctxs x = some y) :
    tget? (s.writeTables r x ls lo hi m).ctxs x = some { y with epoch := y.epoch + 1 } ∧
    (s.writeTables r x ls lo hi m).mapsWith r (brokenRange y.leaves lo hi) { leaves := ls, lo := lo, hi := hi, isMap := m } := by
  unfold State.writeTables
  rw [h]
  exact ⟨inval_epoch _ _ _ _ _ _ (by show tget? (s.putTables x ls).ctxs x = _; rw [State.putTables_ctxs, h]), inval_eff _ _ _ _ _ _⟩

theorem ctxOf_get {s : State} {f x : Nat} {y : Ctx} (h : s.ctxOf f x = some y) : tget? s.ctxs x = some y := by
  unfold State.ctxOf at h
  split at h
  · split at h
    · rename_i h1 _; cases h; exact h1
    · cases h
  · cases h

theorem exec_of_takes {s : State} {r opc : Nat} {c : Cmd} {f : State → Cmd → State} {o : Out} {t : State} (h : s.takes r opc c)
    (e : o = .next (s.runAdmin r opc f)) (k : f (s.begun r) c = t) : o = .next t := by rw [e, State.runAdmin_takes h, k]

theorem vof_get {s : State} {f x : Nat} {y : Variant} (h : s.variantOfFn f x = some y) : tget? s.silt.variants x = some y := by
  unfold State.variantOfFn at h
  split at h
  · split at h
    · rename_i h1 _; cases h; exact h1
    · cases h
  · cases h

theorem ioCmd_get {s : State} {r opc : Nat} {c : Cmd} (h : s.ioCmd r opc = some c) : tget? s.cmds r = some c := by
  unfold State.ioCmd at h
  split at h
  · split at h
    · rename_i h1 _; cases h; exact h1
    · cases h
  · cases h

theorem ioCmd_decided {s : State} {r opc : Nat} {c : Cmd} (h : s.ioCmd r opc = some c) : c.decided = none := by
  unfold State.ioCmd at h
  split at h
  · split at h
    · rename_i h1 h2; cases h; simp at h2; exact h2.1.2
    · cases h
  · cases h

theorem unit_get (s : State) (u : Nat) : s.unit u = tget s.serac.units {} u := rfl

theorem spend_preempt (x : SUnit) (c n : Nat) : (x.spend c n).preempt = x.preempt := rfl

theorem slotEv (s : State) (x : Nat) : ((s.writeSlotStates x).freeSlots x).serac.evictions = s.serac.evictions :=
  congrArg (·.evictions) (State.writeSlotStates_serac s x)

theorem putBytes_bit (v : Nat) : bit (putBytes v 12 4 0) 96 = false := by
  simp [putBytes, bit, at_]
  omega

theorem msix_pf {v : Nat} (h : v < 256) : inBar .bar0 (0x1500000 + 16 * v + 12) = true ∧ aligned (0x1500000 + 16 * v + 12) 4 = true ∧
    placeAt .bar0 (0x1500000 + 16 * v + 12) = some (.msix 0 (16 * v + 12)) := by
  have e : ∃ o, o = 0x1500000 + 16 * v + 12 ∧ o - 0x1500000 = 16 * v + 12 := ⟨_, rfl, by omega⟩
  obtain ⟨o, ho, hs⟩ := e
  rw [← ho]
  refine ⟨decide_eq_true (by omega), ?_, ?_⟩
  · simp [aligned]; omega
  · simp only [placeAt, bar0Place]
    simp (disch := omega) only [if_neg, if_pos, hs]

theorem msix_vf {f v : Nat} (h0 : 0 < f) (h1 : f < 4096) (h : v < 8) : inBar (.vf f) (0x8000 + 16 * v + 12) = true ∧ aligned (0x8000 + 16 * v + 12) 4 = true ∧
    placeAt (.vf f) (0x8000 + 16 * v + 12) = some (.msix f (16 * v + 12)) := by
  have e : ∃ o, o = 0x8000 + 16 * v + 12 ∧ o - 0x8000 = 16 * v + 12 := ⟨_, rfl, by omega⟩
  obtain ⟨o, ho, hs⟩ := e
  rw [← ho]
  refine ⟨?_, ?_, ?_⟩
  · simp [inBar]; omega
  · simp [aligned]; omega
  · simp only [placeAt, vfPlace]
    rw [if_neg (by omega), if_pos (by omega), hs]

theorem busWrite_msix {s : State} {sp : Space} {off v f o : Nat} (hh : s.loess.halted = false) (hn : s.noHalf (requester sp))
    (hb : inBar sp off = true) (ha : aligned off 4 = true) (hp : placeAt sp off = some (.msix f o)) :
    s.busWrite sp off 4 v = s.msixWrite f o 4 (v % 2 ^ 32) := by
  unfold State.busWrite
  rw [State.dropHeld_noHalf hn, hb, hh, ha, hp]; rfl

theorem msix_exec {s : State} {fn v : Nat} (h1 : fn < 4096) (h2 : v < (if fn = 0 then 256 else 8)) (h3 : s.reachable = true) (h4 : s.noHalf fn) :
    Sys2Proof.Machine.exec (.msixMaskClear fn (some v)) s = .next (s.msixWrite fn (16 * v + 12) 4 0) := by
  have hv : ¬ vectorsOf fn ≤ v := by unfold vectorsOf; omega
  have hh := State.reachable_halted h3
  unfold Sys2Proof.Machine.exec Sys2Proof.Machine.execMsixMaskClear
  dsimp only
  rw [if_neg (by omega), if_neg hv, State.access_own false h3 rfl]
  by_cases h0 : fn = 0
  · subst h0
    rw [if_pos rfl] at h2
    rw [if_pos rfl, if_pos rfl, busWrite_msix hh (show s.noHalf (requester .bar0) from h4) (msix_pf h2).1 (msix_pf h2).2.1 (msix_pf h2).2.2, Nat.zero_mod]
  · rw [if_neg h0] at h2
    rw [if_neg h0, if_neg h0, busWrite_msix hh (show s.noHalf (requester (.vf fn)) from h4) (msix_vf (by omega) h1 h2).1 (msix_vf (by omega) h1 h2).2.1 (msix_vf (by omega) h1 h2).2.2, Nat.zero_mod]

/-- The vector `v` of function `f` takes the word `x`. -/
def State.vecSet (s : State) (f v x : Nat) : State := s.updFn f fun y => { y with vectors := tupd y.vectors {} v fun m =>
    { m with addr := bits x 63 0, data := bits x 95 64, masked := bit x 96 } }

theorem vec_parts (s : State) (f v : Nat) : (∀ x, ((s.vecSet f v x).fn f).vectors = tupd (s.fn f).vectors {} v fun m =>
    { m with addr := bits x 63 0, data := bits x 95 64, masked := bit x 96 }) ∧
    s.msixWrite f (16 * v + 12) 4 0 = (s.vecSet f v (putBytes (tget (s.fn f).vectors {} v).word 12 4 0)).releaseVectors f := by
  constructor
  · intro x; unfold State.vecSet; rw [State.fn_updFn]
  · unfold State.msixWrite State.vecSet
    rw [show (16 * v + 12) / 16 = v by omega, show (16 * v + 12) % 16 = 12 by omega]

theorem vec_upd (t : Tbl MsixVec) (v : Nat) (f : MsixVec → MsixVec) : tget (tupd t {} v f) {} v = f (tget t {} v) := by
  unfold tupd tget; rw [tget?_tset]; rfl

theorem vec_upd_ne (t : Tbl MsixVec) (v n : Nat) (f : MsixVec → MsixVec) (h : n ≠ v) : tget (tupd t {} v f) {} n = tget t {} n := by
  unfold tupd tget; rw [tget?_tset_ne _ _ h]

theorem foldl_firn {α : Type} (f : State → α → State) (hf : ∀ t a, (f t a).firn = t.firn) (l : List α) (s : State) :
    (l.foldl f s).firn = s.firn := by
  induction l generalizing s with
  | nil => rfl
  | cons a l ih => rw [List.foldl_cons, ih, hf]

theorem ticSrc_pulse (s : State) (n : Nat) : ((s.pulse n).ticSrc n).pending = true := by
  unfold State.pulse
  dsimp only
  split
  · rename_i h
    simp only [Bool.and_eq_true] at h
    exact h.2
  · unfold State.updSrc State.ticSrc
    simp [tget]

theorem arrived_own {s : State} {link typ : Nat} {m : FloeMsg} {f : State → State} (h1 : s.linkUpNow link = true) (h2 : m.dst = s.nodeId)
    (h3 : msgOk m typ = true) : s.arrived link m typ f = f s := by
  unfold State.arrived
  rw [h1, h3, if_neg (by simp), if_neg (by simp), if_neg (by simp [h2])]

theorem link_updLink (s : State) (n : Nat) (g : Link → Link) : (s.updLink n g).link n = g (s.link n) := by
  unfold State.updLink State.link tupd tget; dsimp only; rw [tget?_tset]; rfl

theorem linkUpNow_parts {s : State} {n : Nat} (h : s.linkUpNow n = true) : s.floeRuns n = true ∧ (s.link n).st = .up := by
  simpa [State.linkUpNow] using h

theorem ring_updRing (s : State) (n : Nat) (g : Ring → Ring) : (s.updRing n g).ring n = g (s.ring n) := by
  unfold State.updRing State.ring tupd tget; dsimp only; rw [tget?_tset]; rfl

theorem pulse_eq (s : State) (n : Nat) : s.pulse n = { s with tarn := (s.pulse n).tarn } := by
  unfold State.pulse; dsimp only; split <;> rfl

theorem box_updBox (s : State) (f : Nat) (g : Mailbox → Mailbox) : (s.updBox f g).box f = g (s.box f) := by
  unfold State.updBox State.box tupd tget; dsimp only; rw [tget?_tset]; rfl

theorem box_doeAnswer (s : State) (f : Nat) (b : Blob) : (s.doeAnswer f b).box f = { s.box f with inObj := none, outObj := some b, busy := false } :=
  box_updBox s f _

theorem box_pulse (s : State) (n f : Nat) : (s.pulse n).box f = s.box f := by rw [pulse_eq]; rfl

theorem key_updKey (s : State) (k : Nat) (g : KeySlot → KeySlot) : (s.updKey k g).key k = g (s.key k) := by
  unfold State.updKey State.key; simp

theorem vendorAnswer_eq (t : State) (f : Nat) (ses : Option Nat) (r : Nat) (b : Blob) : t.vendorAnswer f ses r b = { t with
    fns := (t.vendorAnswer f ses r b).fns, ports := (t.vendorAnswer f ses r b).ports, tarn := (t.vendorAnswer f ses r b).tarn,
    kao := { t.kao with sessions := (t.vendorAnswer f ses r b).kao.sessions, boxes := (t.vendorAnswer f ses r b).kao.boxes } } := by
  unfold State.vendorAnswer State.secured
  split
  · split <;> rfl
  · rfl

theorem box_vendorAnswer (s t : State) (f : Nat) (ses : Option Nat) (r : Nat) (b : Blob) (h1 : t.box f = s.box f)
    (h2 : t.kao.sessions = s.kao.sessions) : (t.vendorAnswer f ses r b).box f =
      { s.box f with inObj := none, outObj := some (match ses.bind fun n => s.session f n with
        | some x => x.record (ses.getD 0) (vendorMessage r b) | none => vendorMessage r b), busy := false } := by
  have hs : ∀ n, t.session f n = s.session f n := by intro n; unfold State.session; rw [h2]
  unfold State.vendorAnswer
  cases ses with
  | none => dsimp only [Option.bind]; rw [box_doeAnswer, h1]
  | some n =>
    dsimp only [Option.bind]
    rw [hs]
    cases h : s.session f n with
    | none => dsimp only [Option.map]; rw [box_doeAnswer, h1]
    | some x =>
      dsimp only [Option.map]
      have hx : tget? s.kao.sessions n = some x := by
        unfold State.session at h
        cases h3 : tget? s.kao.sessions n with
        | none => rw [h3] at h; cases h
        | some y =>
          rw [h3] at h; dsimp only [Option.bind] at h
          split at h
          · exact h
          · cases h
      unfold State.secured
      rw [h2, hx]; dsimp only
      rw [box_doeAnswer]
      show { t.box f with inObj := none, outObj := some (x.record n (vendorMessage r b)), busy := false } = _
      rw [h1]; rfl

theorem nonempty {d : Blob} (h : 0 < d.length) : d.isEmpty = false := by
  cases d with
  | nil => simp at h
  | cons => rfl

theorem wake_parts (u : State) (d : Nat) (hn : d ≤ u.now):  (fun t : State => d ≤ t.now ∧ t.pwr.st = .waking ∧ t.pwr.holdup = false ∧ t.pwr.holdupHigh = none ∧
      t.pins.vddSel = 0 ∧ t.pins.retEn = false ∧ t.pins.pwrGood = false) ({ u with pwr := { u.pwr with holdupHigh := none } } : State).beginWake := by
      exact ⟨hn, rfl, rfl, rfl, rfl, rfl, rfl⟩

theorem adv_pwr (s : State) (t : Nat) : (s.advanceTo t).pwr.estimates = s.pwr.estimates ∧ (s.advanceTo t).pwr.relaxed = s.pwr.relaxed ∧
    (s.advanceTo t).pwr.goodHold = s.pwr.goodHold := by
  rw [State.advanceTo_pwr]; exact ⟨rfl, rfl, rfl⟩

theorem droop_parts (u : State) (d : Nat) (hn : d ≤ u.now) : (fun t : State => d ≤ t.now ∧ t.pwr.droopPace = false ∧ t.pwr.droopHigh = none)
    { u with pwr := { u.pwr with droopPace := false, droopHigh := none } } := ⟨hn, rfl, rfl⟩

theorem clamp_le (lo hi n : Nat) (h : lo ≤ hi) : lo ≤ clampTo lo hi n ∧ clampTo lo hi n ≤ hi := by
  unfold clampTo; omega

theorem relevel_warm {u : State} (h : u.coldCause = false) (hh : u.held ≠ some true) : u.relevel =
    if u.pins.rstN = false then { u.atReset false with held := some false }
    else if u.held.isSome = true then { u.atReset false with held := none, tarn := { (u.atReset false).tarn with released := u.now } } else u := by
  unfold State.relevel
  rw [h, if_neg (by simp), if_neg hh]
  dsimp only
  cases u.pins.rstN <;> rfl

theorem relevel_cold {u : State} (h : u.coldCause = false) (hh : u.held = some true) : u.relevel =
    if u.pins.rstN = false then { ({ u with now := 0 } : State).atReset false with held := some false }
    else { ({ u with now := 0 } : State).atReset false with held := none, tarn := { (({ u with now := 0 } : State).atReset false).tarn with released := 0 } } := by
  unfold State.relevel
  rw [h, if_neg (by simp), if_pos hh]
  dsimp only
  rw [hh]
  cases u.pins.rstN <;> rfl

theorem src_updSrc (s : State) (n : Nat) (g : TicSrc → TicSrc) : (s.updSrc n g).ticSrc n = g (s.ticSrc n) := by
  unfold State.updSrc State.ticSrc; simp [tget]

theorem pulse_line (s : State) (n : Nat) : (s.pulse n).tarn.line = s.tarn.line ∧ (s.pulse n).tarn.lastCr = s.tarn.lastCr ∧ (s.pulse n).ports = s.ports ∧ (s.pulse n).mem = s.mem := by
  unfold State.pulse; dsimp only; split <;> exact ⟨rfl, rfl, rfl, rfl⟩

theorem tfind_tmap {α : Type} (m : Tbl α) (g : Nat → α → α) (p : Nat → α → Bool) : tfind (tmap m g) p = tfind m fun k v => p k (g k v) := by
  unfold tfind tmap tkeys tfilter
  induction m with
  | nil => rfl
  | cons x l ih =>
    simp only [List.map_cons, List.filter_cons]
    by_cases h : p x.1 (g x.1 x.2) = true
    · rw [if_pos h, if_pos h, List.map_cons, List.map_cons, ih]
    · rw [if_neg h, if_neg h, ih]

theorem elapse_rising (s : State) (d t : Nat) : (s.elapse d).risingPorts t = s.risingPorts t := by
  unfold State.risingPorts State.elapse
  dsimp only
  rw [tfind_tmap]
  congr 1
  funext k u
  have : (u.elapse d).rstAt = u.rstAt := by unfold SUnit.elapse; split <;> rfl
  rw [this]

theorem tany_of {α : Type} {t : Tbl α} {p : Nat → α → Bool} {k : Nat} {e : α} (h : (k, e) ∈ t) (hp : p k e = true) : tany t p = true :=
  List.any_eq_true.2 ⟨(k, e), h, hp⟩

end Sys2Proof.Machine
end

