-- ==== Sys2Proof/WellFormed.lean ====
section
/-! DEFINITION. Which commands are well-formed: each operand lies in the range that its field of the spec has. A command outside these
ranges names nothing that the block or its ports can carry; what the block makes of it is no claim of the spec. -/

namespace Sys2Proof

/-- A function number: 0 for PF0, 1 to 4,095 for the VFs (R49). -/
def fnOk (f : Nat) : Bool := decide (f < 4096)

/-- A window: a VF's number where it names one (R54, R58). -/
def spaceOk : Space → Bool
  | .vf f => decide (0 < f) && fnOk f
  | _ => true

/-- An access of 1, 2, 4 or 8 bytes whose value fits it (R55). -/
def accessOk (width : Nat) (value : Option Nat) : Bool :=
  [1, 2, 4, 8].contains width && (match value with | some v => decide (v < 2 ^ (8 * width)) | none => true)

/-- The value of a 4-byte access. -/
def wordOk (v : Nat) : Bool := decide (v < 2 ^ 32)

/-- The value of an 8-byte access. -/
def longOk (v : Nat) : Bool := decide (v < 2 ^ 64)

/-- A doorbell block of R57 or R58. -/
def blockOk : Door → Bool
  | .own f l => decide (0 < f) && fnOk f && decide (l < 1024)
  | .pf0 q => decide (q < 8192)

/-- A queue ID (R57). -/
def queueOk (q : Nat) : Bool := decide (q < 8192)

/-- The number of a command record (R109). -/
def recordOk (r : Nat) : Bool := decide (r < 16384)

/-- A tile port, cluster or Serac unit (R62). -/
def unitOk (u : Nat) : Bool := decide (u < 32)

/-- A context ID of 16 bits (R65). -/
def ctxOk (x : Nat) : Bool := decide (x < 65536)

/-- An engine ID of 16 bits (R523). -/
def engineOk (e : Nat) : Bool := decide (e < 65536)

/-- A Floe link (R75). -/
def linkOk (l : Nat) : Bool := decide (l < 36)

/-- A Floe ring (R75). -/
def ringOk (k : Nat) : Bool := decide (k < 18)

/-- A tag of a Floe request (R563). -/
def floeTagOk (t : Nat) : Bool := decide (t < 4096)

/-- A key ID of 12 bits (R240). -/
def keyOk (g : Nat) : Bool := decide (g < 4096)

/-- A packet's fields fit its header (R65). -/
def packetOk (p : TilePkt) : Bool :=
  decide (p.typ < 64) && decide (p.index < 2 ^ 32) && decide (p.tag < 2 ^ 32) && ctxOk p.ctx && decide (p.payload.length ≤ 65520) && p.par.all fun l => l.length == (16 + p.payload.length + 255) / 256

/-- A return of credit for a packet class, 1 to 255 beats (R62, R63). -/
def creditOk (cls count : Nat) : Bool := decide (cls < 4) && decide (0 < count) && decide (count < 256)

/-- The host's side of a command: a data buffer of at most 2^32 - 1 bytes (R151). -/
def ioOk (io : HostIo) : Bool := decide (io.data.length < 2 ^ 32)

/-- A memory request as R71 and R240 lay it out. -/
def requestOk (q : MemReq) : Bool :=
  fnOk q.fn && ctxOk q.ctx && keyOk q.key && decide (q.prot < 3) && decide (q.node < 64) && decide (q.tier < 3) && decide (q.offset < 2 ^ 44) &&
    decide (64 ≤ q.len) && decide (q.len ≤ 512) && q.len % 64 == 0 && (match q.write with | some b => b.length == q.len | none => true)

/-- A message's fields fit its header (R563). -/
def messageOk (m : FloeMsg) : Bool :=
  decide (m.typ < 256) && ringOk m.ring && decide (m.src < 64) && decide (m.dst < 64) && decide (m.hops < 256) && floeTagOk m.tag &&
    fnOk m.fn && ctxOk m.ctx && decide (m.status < 65536) && longOk m.dpa && decide (m.body.length ≤ 4096)

/-- A level of the path that a read checks (R477). -/
def pathOk : PathCheck → Bool
  | .badMac l => decide (l < 4)
  | .nodeEcc l => decide (l < 4)
  | _ => true

/-- A place of a function's configuration space, of 4 KiB, and a 4-byte value (PCI Express, assumption 21). -/
def configOk : CfgAccess → Bool
  | .readOther off => decide (off < 4096)
  | .writeOther off v => decide (off < 4096) && wordOk v
  | .writeReg _ v => wordOk v
  | _ => true

/-- The well-formed commands. -/
def Instr.wf : Instr → Bool
  | .registerWrite sp off width value => spaceOk sp && decide (off < 2 ^ 26) && accessOk width (some value)
  | .unmappedAccess sp off width value => spaceOk sp && decide (off < 2 ^ 26) && accessOk width value
  | .splitLowRead sp off => spaceOk sp && decide (off < 2 ^ 26) && off % 8 == 0
  | .splitLowWrite sp off value => spaceOk sp && decide (off < 2 ^ 26) && off % 8 == 0 && wordOk value
  | .splitHighWrite sp off value => spaceOk sp && decide (off < 2 ^ 26) && off % 8 == 4 && wordOk value
  | .sqTail d value => blockOk d && wordOk value
  | .cqHead d value => blockOk d && wordOk value
  | .cqIntMask d value => blockOk d && wordOk value
  | .msixMaskClear fn vector => fnOk fn && (match vector with | some v => decide (v < if fn = 0 then 256 else 8) | none => true)
  | .cirqRtReserve value => wordOk value
  | .cirqFnQcfg fn value => fnOk fn && longOk value
  | .cirqAdminResume value => wordOk value
  | .moraineClear fn value => fnOk fn && wordOk value
  | .wplogFlush fn value => fnOk fn && wordOk value
  | .wplogFlushDone fn => fnOk fn
  | .crevRetry slot => decide (slot < 1024)
  | .crevAbort slot => decide (slot < 1024)
  | .crevHeadWrite value => wordOk value
  | .snowHostAdd value => longOk value
  | .snowImageCfg image value => decide (0 < image) && decide (image < 64) && wordOk value
  | .snowFnQuota fn value => fnOk fn && wordOk value
  | .ringJoinRequest ring => ringOk ring
  | .ringReleaseRequest ring => ringOk ring
  | .adminQueueEnable value => wordOk value
  | .engineResetRequest engine => engineOk engine
  | .computeDomainResetRequest => true
  | .resetHeadWrite value => wordOk value
  | .sqFetch q => queueOk q
  | .sqFetchDone q entries _ => queueOk q && decide (entries.length ≤ 8) && entries.all fun e => e.length == 64
  | .admitEntry q rd _ => queueOk q && pathOk rd.chk
  | .dispatch r => recordOk r
  | .commandComplete r => recordOk r
  | .receiptAppend r => recordOk r
  | .cqeWrite r => recordOk r
  | .cqConfirmReadDone q _ => queueOk q
  | .eventEntryWrite fn => fnOk fn
  | .intTimeExpiry q => queueOk q
  | .commandDeadlineExpiry r => recordOk r
  | .drainComplete r => recordOk r
  | .drainWindowExpiry r => recordOk r
  | .identify r io => recordOk r && ioOk io
  | .qpCreate r io => recordOk r && ioOk io
  | .qpDelete r io => recordOk r && ioOk io
  | .cqResume r io => recordOk r && ioOk io
  | .fnEnable r io => recordOk r && ioOk io
  | .enableTakesEffect fn io => fnOk fn && ioOk io
  | .fnQuiesce r io => recordOk r && ioOk io
  | .quiesceComplete fn => fnOk fn
  | .fnReset r io => recordOk r && ioOk io
  | .vfFunctionLevelReset fn => fnOk fn
  | .functionResetEnd fn io => fnOk fn && ioOk io
  | .pf0FunctionLevelReset => true
  | .fnExport r io => recordOk r && ioOk io
  | .fnImport r io _ => recordOk r && ioOk io
  | .wplogCtl r io => recordOk r && ioOk io
  | .topoWrite r io => recordOk r && ioOk io
  | .topoCommit r io => recordOk r && ioOk io
  | .configSet r io => recordOk r && ioOk io
  | .configAdopt engine io => engineOk engine && ioOk io
  | .pwrState r io => recordOk r && ioOk io
  | .powerStateEntry => true
  | .pwrLimit r io => recordOk r && ioOk io
  | .patchLoad r io => recordOk r && ioOk io
  | .monUnlock r io => recordOk r && ioOk io
  | .keyAssign r io => recordOk r && ioOk io
  | .keyRelease r io => recordOk r && ioOk io
  | .ctxCreate r io => recordOk r && ioOk io
  | .ctxDestroy r io => recordOk r && ioOk io
  | .ctxReset r io => recordOk r && ioOk io
  | .memAlloc r io _ => recordOk r && ioOk io
  | .memFree r io => recordOk r && ioOk io
  | .mapRange r io => recordOk r && ioOk io
  | .unmapRange r io => recordOk r && ioOk io
  | .memShare r io => recordOk r && ioOk io
  | .mapRemote r io => recordOk r && ioOk io
  | .invalidationAck _ engine => engineOk engine
  | .imgLoad r io => recordOk r && ioOk io
  | .imgResumeLoad r io => recordOk r && ioOk io
  | .imgReplace r io => recordOk r && ioOk io
  | .imgDrop r io => recordOk r && ioOk io
  | .imgLoadBegin _ => true
  | .shardReadDone shard _ _ => decide (shard < 65536)
  | .shardRetryTimer shard => decide (shard < 65536)
  | .shardTimeout shard => decide (shard < 65536)
  | .bodyDigestDone io => ioOk io
  | .varRegister r io _ => recordOk r && ioOk io
  | .varSeal r io => recordOk r && ioOk io
  | .sealTakesEffect variant => decide (0 < variant) && decide (variant ≤ 65536)
  | .varUnseal r io => recordOk r && ioOk io
  | .varUpdate r io => recordOk r && ioOk io
  | .varDrop r io => recordOk r && ioOk io
  | .variantWaitEnd r io => recordOk r && ioOk io
  | .graphStore r io => recordOk r && ioOk io
  | .graphPatch r io => recordOk r && ioOk io
  | .graphFree r io => recordOk r && ioOk io
  | .rcptRead r io => recordOk r && ioOk io
  | .ckptRequest r io => recordOk r && ioOk io
  | .checkpointSigned io => ioOk io
  | .poolCreate r io => recordOk r && ioOk io
  | .poolJoin r io => recordOk r && ioOk io
  | .poolLeave r io => recordOk r && ioOk io
  | .poolDestroy r io => recordOk r && ioOk io
  | .inferStep r => recordOk r
  | .trainStep r => recordOk r
  | .graphLaunch r => recordOk r
  | .kernelLaunch r => recordOk r
  | .copy r _ => recordOk r
  | .seqCreate r => recordOk r
  | .seqRelease r => recordOk r
  | .seqTruncate r => recordOk r
  | .provisioningPass => true
  | .turnGrant u => unitOk u
  | .quantumExpiry u => unitOk u
  | .minTurnExpiry u => unitOk u
  | .cleaveBoundExpiry u => unitOk u
  | .issue u => unitOk u
  | .crevasseWaitingPost => true
  | .runAhead u => unitOk u
  | .tableWalkDone walker rd => decide (walker < 16) && decide (rd.place < 4)
  | .tileDone u p => unitOk u && packetOk p
  | .cleaveReached u p => unitOk u && packetOk p
  | .saveData u p => unitOk u && packetOk p
  | .saveEnd u p => unitOk u && packetOk p
  | .restoreData u => unitOk u
  | .tileError u p => unitOk u && packetOk p
  | .creditReturn u _ cls count => unitOk u && creditOk cls count
  | .swapIn ctx => ctxOk ctx
  | .eviction u => unitOk u
  | .ageExpiry ctx => ctxOk ctx
  | .wblock b => unitOk b.port
  | .tapIn u p => unitOk u && packetOk p
  | .sliceFetchDone engine _ => decide (engine < 64)
  | .tapAnswer u tag => unitOk u && decide (tag < 256)
  | .trainUpdate r => recordOk r
  | .trainUpdateCommit r => recordOk r
  | .memoryRequest q => requestOk q
  | .memoryReadResponse port tag _ chk => decide (port < 21) && decide (tag < 1024) && pathOk chk
  | .rekeyWalk key => keyOk key
  | .varveNodeWriteback level _ => decide (level < 4)
  | .hotWindowEnd => true
  | .vx1FrameMove fn _ _ => fnOk fn
  | .repairStart => true
  | .peerAnswerTimeout _ => true
  | .canonicalReadDone _ _ _ _ => true
  | .repairReadback _ _ _ => true
  | .railFault engine => engineOk engine
  | .stallSentinelExpiry engine => engineOk engine
  | .progressSample => true
  | .heartbeat => true
  | .heartbeatWatchdogExpiry => true
  | .engineResetComplete engine => engineOk engine
  | .contextResetDeadline ctx => ctxOk ctx
  | .engineResetDeadline engine => engineOk engine
  | .computeDomainResetComplete => true
  | .computeDomainResetDeadline => true
  | .tarnRestartComplete => true
  | .tarnRestartDeadline => true
  | .frameReceive link _ => linkOk link
  | .ackTimeout link => linkOk link
  | .readReq link m _ => linkOk link && messageOk m
  | .writeReq link m _ => linkOk link && messageOk m
  | .peerReq link m => linkOk link && messageOk m
  | .readResp link m => linkOk link && messageOk m
  | .writeAck link m => linkOk link && messageOk m
  | .peerResp link m => linkOk link && messageOk m
  | .hello link m => linkOk link && messageOk m
  | .census link m => linkOk link && messageOk m
  | .censusResendTimer ring => ringOk ring
  | .e2eTimerExpiry tag => floeTagOk tag
  | .ringHoldExpiry tag => floeTagOk tag
  | .ringJoin ring => ringOk ring
  | .joinTimeout ring => ringOk ring
  | .lanesReady link => linkOk link
  | .linkSignalLost link => linkOk link
  | .trainTimeout link => linkOk link
  | .doeObject fn _ => fnOk fn
  | .doeAbort fn => fnOk fn
  | .spdmMessage fn _ => fnOk fn
  | .getMeasurements fn index _ => fnOk fn && decide (index < 256)
  | .keyPut fn _ _ => fnOk fn
  | .keyInfo fn _ _ => fnOk fn
  | .keyClear fn _ _ => fnOk fn
  | .migPut fn _ _ => fnOk fn
  | .migClear fn _ _ => fnOk fn
  | .persistWriteDone => true
  | .holdupFall _ => true
  | .ledgerFlushDone => true
  | .holdupRise _ => true
  | .holdupEnd => true
  | .wake _ => true
  | .pwrGoodRise _ => true
  | .pwrGoodFall _ => true
  | .brownoutHoldEnter _ => true
  | .brownoutHoldExit _ => true
  | .voltageMonitorReset _ _ => true
  | .voltageMonitorRelease _ _ => true
  | .droopFall _ => true
  | .droopRise _ => true
  | .droopPaceEnd => true
  | .pwrbrakeChange _ _ => true
  | .paceUpdate _ => true
  | .assistRelax engine => engineOk engine
  | .coldResetAssert _ => true
  | .coldResetRelease _ => true
  | .warmResetAssert _ => true
  | .warmResetRelease _ => true
  | .selftestDone code => decide (code < 256)
  | .selftestLimitExpiry => true
  | .interruptEntry => true
  | .eoi src => decide (src < 256)
  | .mret => true
  | .accessFault addr _ => wordOk addr
  | .uartCharacter _ => true
  | .uartFramingError => true
  | .monHelp => true
  | .monVer => true
  | .monHb => true
  | .monSt => true
  | .monRd off count => wordOk off && wordOk count
  | .monRq off count => wordOk off && wordOk count
  | .monWr off value => wordOk off && wordOk value
  | .monWq off value => wordOk off && longOk value
  | .monFn fn => fnOk fn
  | .monRec count => wordOk count
  | .monRing => true
  | .monPwr => true
  | .monSeal => true
  | .monBaud rate => wordOk rate
  | .monLock => true
  | .configurationRequest fn a => fnOk fn && configOk a
  | .boundaryScanTestMode _ => true

end Sys2Proof
end

