-- ==== Sys2Proof/Tests/Slice0.lean ====
section
/-! SUPPORT. Tests: small single steps, ill-formed commands, and for each statement with hypotheses a state that meets them. -/

namespace Sys2Proof.Tests

open Sys2Proof Sys2Proof.Machine

set_option Elab.async false

/-- Bytes of which some fields are given, each by its offset, its size and its value; the rest are 0. -/
def bytes (n : Nat) (l : List (Nat × Nat × Nat)) : Blob :=
  l.foldl (fun b e => b.take e.1 ++ leBytes e.2.1 e.2.2 ++ b.drop (e.1 + e.2.1)) (List.replicate n 0)

/-- The block after its self-test, with PF0 enabled. -/
def on : State := { tarn := { phase := 1 }, fns := [(0, { phase := .enabled })] }

/-- An admin command of PF0 that Tarn may take up, with some fields of its entry. -/
def admin (op : Nat) (l : List (Nat × Nat × Nat)) : Cmd :=
  { q := 0, fn := 0, gen := 0, sqe := bytes 64 ((0, 1, op) :: (24, 8, 64) :: l), opcode := op, admin := true, stage := .dispatched }

/-- An I/O command of function 1 that its engine may take up, with some fields of its entry. -/
def work (op : Nat) (l : List (Nat × Nat × Nat)) : Cmd :=
  { q := 1, fn := 1, gen := 0, sqe := bytes 64 ((0, 1, op) :: l), opcode := op, stage := .dispatched, ctx := 1 }

/-- A state with one command, at record 0. -/
def withCmd (s : State) (c : Cmd) : State := { s with cmds := [(0, c)] }

theorem takes_of {s : State} {r opc : Nat} {c : Cmd} (h : s.adminCmd r opc = some c ∧ admHeaderOk c.sqe = true) : s.takes r opc c := h

theorem noHalf_of {s : State} {f : Nat} (h : (s.halves f).held = none) : s.noHalf f := h

theorem ok_of {α ε : Type} {e : Except ε α} {x : α} (h : e.toOption = some x) : e = .ok x := by
  cases e <;> simp_all [Except.toOption]

/-- A packet whose parity is not given has the parity of its beats. -/
theorem sound_of {p : TilePkt} (h : p.par = none) : packetSound p := by
  intro cls; unfold parityOk; rw [h]; rfl

theorem some_of {α : Type} {o : Option α} (h : o.isSome = true) : o = some (o.get h) := Option.eq_some_of_isSome h

theorem some2_of {α β : Type} {o : Option (α × β)} (h : o.isSome = true) : o = some ((o.get h).1, (o.get h).2) :=
  Option.eq_some_of_isSome h

/-- The block with a committed topology of 64 MiB in each tier. -/
def onMem : State :=
  { on with topo := { committed := true, memory := some (bytes 64 [(8, 8, 0x4000000), (16, 8, 0x4000000), (40, 8, 0x200000)]) } }

/-- As many table pages as their pool holds. -/
@[irreducible] def manyTables : Tbl TablePage := List.replicate 524288 (0, { ctx := 1, level := 0, index := 0 })

/-- A context of PF0, an allocation of it, and table pages that fill their pool. -/
def fullTables : State :=
  { on with
    ctxs := [(1, { fn := 0, clusters := 1, image := 1 })], allocs := [(1, { fn := 0, size := 2097152, tier := 0, prot := 0, key := 16, frames := [(0, 0)] })]
    esk := { tables := manyTables } }

theorem fullTables_fit (c : Cmd) (x : Ctx) (ls : List Leaf) (h : tablePages x.leaves < tablePages ls) : (withCmd fullTables c).tablesFit x ls = false := by
  have e : (withCmd fullTables c).tablePagesUsed = 524288 := by
    show manyTables.length = _
    unfold manyTables; exact List.length_replicate
  unfold State.tablesFit tablePool
  rw [e]
  exact decide_eq_false (by omega)

/-- The block with cluster 0 present and 64 MiB in each tier. -/
def onTop : State :=
  { onMem with topo := { onMem.topo with clusters := some (bytes 2048 [(4, 1, 1)]) } }

/-- Images of which image 1 has a current version of one layer. -/
def images : Firn :=
  { images := [(1, { state := 3, current := 1, versions := [(1, { digest := [], pref := 0, layers := 1, bytes := 0 })] })] }

/-- Slot 16 is PF0's, with a tenant. -/
def keyed : Kaolin := { slots := [(16, { owner := some 0, tenant := some { root := 0, binder := [] } })] }

/-- A variant descriptor of one 32-element vector, in host memory where its contents have a length. -/
def varBytes (len : Nat) : Blob :=
  bytes 96 [(0, 4, 0x44565856), (4, 2, 1), (8, 4, if len = 0 then 0 else 4), (16, 2, 1), (20, 4, 1), (24, 8, 512), (32, 8, len),
    (64 + 16, 1, 2), (64 + 18, 2, 32), (64 + 20, 2, 32)]

/-- The variant that the descriptor makes. -/
def adapted : Variant :=
  { fn := 0, image := 1, key := 16, alloc := 1, trainable := false, saveBytes := 0, entries := [varEntry ((varBytes 0).drop 64)] }

/-- The header of a wrapped adapter of 64 bytes. -/
def wrapHead : Blob := bytes 128 [(0, 4, 0x41575856), (4, 4, 1), (16, 2, 16), (20, 8, 64)]

/-- A wrapped adapter of zeros. -/
def wrapped : Blob := wrapHead ++ gcmSeal ({ root := 0, binder := [] } : Tenant).wrapKey (zeros 12) wrapHead (zeros 64)

/-- The signed part of an unseal token, and the token. -/
def tokenHead : Blob := bytes 16 [(0, 4, 1), (8, 8, 1)]
def token : Blob := tokenHead ++ (hmac384 ({ root := 0, binder := [] } : Tenant).unsealKey tokenHead).take 32

/-- A graph image of one node with one tile. -/
def graphBytes (kind : Nat) : Blob :=
  bytes 136 [(0, 4, 0x47525856), (4, 2, 1), (6, 2, 1), (8, 4, kind), (16, 8, 136), (68, 4, 80), (72, 4, 56),
    (80, 4, 0x43535856), (100, 4, 1), (104, 4, 1), (108, 4, 56), (80 + 34, 2, 1), (80 + 42, 1, 1), (80 + 44, 4, 64)]

/-- The node of that image, with a span of 64 bytes of buffer 0 that is read. -/
def node : Node :=
  { id := 0, layer := 0, adapted := false, hasCleaves := false, pass := 0, tiles := [{ lane := 0, spans := [{ buffer := 0, access := 1, length := 64, offset := 0 }] }],
    wspans := [], cleaves := [], body := (graphBytes 0).drop 80 }

/-- A leaf of 4 KiB at address 0, with its rights. -/
def leaf (rd wr : Bool) : Leaf :=
  { va := 0, size := 0, node := 0, tier := 0, offset := 0, key := 16, prot := 1, rd := rd, wr := wr, atomic := false, alloc := 1 }

/-- A described span of a buffer at address 0. -/
def desc (buffer access len : Nat) (l : Leaf) : Desc := { buffer := buffer, access := access, va := 0, len := len, epoch := 0, slots := [.run l 0] }

/-- A context of function 1 with the leaf mapped. -/
def ctx1 (l : Leaf) : Ctx := { fn := 1, clusters := 1, image := 1, leaves := [l] }

/-- The tenant of slot 16. -/
def tenant : Tenant := { root := 0, binder := [] }

theorem gcm_open (key nonce aad clear : Blob) (h : (gcmTag (roundKeys key) nonce aad (gctr (roundKeys key) nonce clear)).length = 16) :
    gcmOpen key nonce aad (gcmSeal key nonce aad clear) = some (gctr (roundKeys key) nonce (gctr (roundKeys key) nonce clear)) := by
  unfold gcmOpen gcmSeal
  dsimp only
  rw [List.length_append, h, Nat.add_sub_cancel, List.take_left, List.drop_left, if_neg (by simp)]

/-- What the wrapped adapter opens to. -/
def unwrapped : Blob := gctr (roundKeys tenant.wrapKey) (zeros 12) (gctr (roundKeys tenant.wrapKey) (zeros 12) (zeros 64))

theorem unwrap_wrapped {s : State} {k i n : Nat} {b : Blob} (hs : (s.key k).tenant = some tenant) (hk : k = 16) (hn : n = 64) (hb : b = wrapped) :
    s.unwrap k i n b = .ok unwrapped := by
  subst hk; subst hn; subst hb
  have e1 : ¬ (wrapped.length < 144 ∨ fld wrapped 0 4 ≠ 0x41575856 ∨ fld wrapped 4 4 ≠ 1 ∨ fld wrapped 8 8 ≠ 0 ∨ fld wrapped 18 2 ≠ 0 ∨
      zeroAt wrapped 40 40 = false ∨ wrapped.length ≠ 144 + fld wrapped 20 8 ∨ fld wrapped 20 8 ≠ 64) := by decide +kernel
  have e2 : fld wrapped 16 2 = 16 ∧ slice wrapped 80 48 = zeros 48 := by decide +kernel
  have e3 : wrapped.take 128 = wrapHead := by decide +kernel
  have e4 : wrapped.drop 128 = gcmSeal tenant.wrapKey (zeros 12) wrapHead (zeros 64) := List.drop_left' (by decide +kernel)
  have e5 : slice wrapped 28 12 = zeros 12 := by decide +kernel
  unfold State.unwrap
  rw [hs]; dsimp only
  rw [if_neg e1, if_neg (by rw [e2.1, e2.2]; simp), e3, e4, e5, gcm_open _ _ _ _ (by decide +kernel)]
  rfl

theorem wrapped_drop {n m : Nat} (hn : n = 208) (hm : m = 96) : padTo n ((varBytes 208 ++ wrapped).drop m) = wrapped := by
  subst hn; subst hm
  rw [List.drop_left' (by decide +kernel)]
  unfold padTo slice
  dsimp only
  have h : wrapped.length = 208 := by decide +kernel
  rw [List.drop_zero, List.take_of_length_le (Nat.le_of_eq h), h]
  exact List.append_nil _

/-- A step of function 1 on the node's one tile, with its descriptors. -/
def stepCmd (d : List Desc) : Cmd :=
  { work 0x80 [(20, 4, 1)] with stage := .running, graphVer := 1, tiles := [(0, [{ node := 0, tile := 0 }])], descs := d }

/-- A turn of context 1 that begins at 0. -/
def turn : Turn := { ctx := some 1, start := 0, quantumNs := 1000, reserved := false }

/-- Unit 0 with its slots, what it holds, and credits. -/
def unit0 (t : Option Turn) (h : Option Nat) : SUnit := { slots := [(0, 1)], turn := t, holder := h, down := [16, 16, 16, 16], downMax := [16, 16, 16, 16] }

/-- The block with a unit 0. -/
def withUnit (s : State) (u : SUnit) : State := { s with serac := { units := [(0, u)] } }

/-- Context 1 holds unit 0 with a step to issue, its leaves and descriptors as given. -/
def issuing (ls : List Leaf) (d : List Desc) : State :=
  { withUnit onTop (unit0 (some turn) (some 1)) with
    ctxs := [(1, { ctx1 (leaf true true) with leaves := ls })], esk := { frames := [(0, { prot := 1, key := 16 })] }
    graphs := [{ fn := 1, kind := 0, index := 1, cap := 0, versions := [(1, [node])] }], cmds := [(0, stepCmd d)] }

/-- A topology whose cluster 0 is present and takes tiles of 16 by 16. -/
def laidTopo : Topo := { onMem.topo with clusters := some (bytes 2048 [(4, 1, 1), (16, 2, 16), (18, 2, 16)]) }

/-- A resident image of one tensor of 32 BF16 elements, and its canonical manifest of one shard of zeros. -/
def firnVer : ImgVer :=
  { digest := zeros 48, pref := 0, layers := 1, bytes := 4096, frames := [0]
    tensors := [{ layer := 0, index := 0, fmt := 8, backward := false, rows := 32, cols := 1, offset := 0, stored := 64, decoded := 64 }] }
def manifest : Blob :=
  bytes 256 [(0, 4, 0x4D495856), (4, 2, 1), (8, 4, 1), (12, 4, 1), (16, 4, 1), (24, 8, 4096), (32, 8, 256), (128 + 16, 4, 4096),
    (128 + 24, 48, 17983692789401202037293857377695845701067283279116068038003746873869636180983216204449434669701525087687070447232448),
    (208 + 6, 1, 8), (208 + 8, 4, 32), (208 + 12, 4, 1), (208 + 24, 8, 64), (208 + 32, 8, 64)]

/-- The block with that image and a repair of its one unit. -/
def repairing (p : Repair) : State :=
  { onMem with
    topo := { onMem.topo with peers := some (bytes 32 [(0, 4, 1), (24, 4, 256)]) }
    firn := { images := [(1, { state := 3, current := 1, versions := [(1, firnVer)] })], repairs := [p] } }

/-- A repair of tensor 0, unit 0. -/
def repair : Repair := { id := 1, image := 1, ver := 1, tensor := 0, unit := 0 }

/-- A frame with its check. -/
def frameOf (b : Blob) : Blob := b ++ leBytes 8 (crc64 b)

/-- A whole valid topology table: cluster 0 present, 16 GiB of HBM, 64 MiB of board memory, no links and no peers. -/
def wholeTopo : Topo :=
  { clusters := some (bytes 2048 [(4, 1, 1), (5, 1, 1), (7, 1, 1), (16, 2, 32), (18, 2, 16), (24, 1, 6), (32, 2, 16), (34, 2, 16), (36, 2, 16), (38, 2, 16)])
    memory := some (bytes 64 [(8, 8, 0x400000000), (16, 8, 0x4000000), (32, 4, 0x400000), (38, 1, 12), (39, 1, 12)])
    links := some (bytes 288 []), peers := some [] }

/-! Commands that `Instr.wf` refuses, one for each range it checks. -/

/-- R55, R54, R49: widths, values that do not fit, windows of no function, offsets past the window. -/
theorem test_wf_refuses_accesses :
    ([.registerWrite .bar0 0 3 0, .registerWrite .bar0 0 4 0x100000000, .registerWrite (.vf 0) 0 4 0, .registerWrite (.vf 4096) 0 4 0,
      .registerWrite .bar0 0x4000000 4 0, .unmappedAccess .bar0 0 16 none, .unmappedAccess .bar0 0x4000000 4 none, .splitLowRead .bar0 4,
      .splitLowWrite .bar0 4 0, .splitLowWrite .bar0 0 0x100000000, .splitHighWrite .bar0 0 0, .splitHighWrite .bar0 4 0x100000000] : List Instr).all
      (fun c => !c.wf) = true := by decide +kernel

/-- R57, R58, R49: doorbell blocks, queue IDs, function numbers, vectors and register values. -/
theorem test_wf_refuses_doorbells_and_numbers :
    ([.sqTail (.own 0 0) 0, .sqTail (.own 1 1024) 0, .cqHead (.pf0 8192) 0, .cqIntMask (.pf0 0) 0x100000000, .msixMaskClear 0 (some 256),
      .msixMaskClear 1 (some 8), .msixMaskClear 4096 none, .cirqRtReserve 0x100000000, .cirqFnQcfg 0 0x10000000000000000, .moraineClear 4096 0,
      .wplogFlushDone 4096, .crevRetry 1024, .crevAbort 1024, .snowHostAdd 0x10000000000000000, .snowImageCfg 0 0, .snowImageCfg 64 0] : List Instr).all
      (fun c => !c.wf) = true := by decide +kernel

/-- R75, R523, R109, R105, R151, R477: rings, engines, records, entries, buffers and the levels of a path. -/
theorem test_wf_refuses_events :
    ([.ringJoinRequest 18, .engineResetRequest 0x10000, .sqFetch 8192, .sqFetchDone 0 (List.replicate 9 (bytes 64 [])) .ok,
      .sqFetchDone 0 [[]] .ok, .admitEntry 0 { chk := .badMac 4 } [], .admitEntry 0 { chk := .nodeEcc 4 } [], .dispatch 16384,
      .shardReadDone 65536 .ok [], .sealTakesEffect 0, .sealTakesEffect 65537, .turnGrant 32, .tableWalkDone 16 {}, .tableWalkDone 0 { place := 4 },
      .tileDone 0 { typ := 64, ctx := 0 }, .tileDone 0 { typ := 0x10, ctx := 65536 }, .tileDone 0 { typ := 0x10, ctx := 0, index := 0x100000000 },
      .creditReturn 0 true 4 1, .creditReturn 0 true 0 0, .creditReturn 0 true 0 256] : List Instr).all (fun c => !c.wf) = true := by decide +kernel

/-- R71, R240, R563, R620: memory requests, ports, keys, Floe messages, sources and addresses of the core, configuration space. -/
theorem test_wf_refuses_requests :
    ([.memoryRequest { prot := 3 }, .memoryRequest { tier := 3 }, .memoryRequest { node := 64 }, .memoryRequest { len := 96 },
      .memoryRequest { len := 576 }, .memoryRequest { key := 4096 }, .memoryRequest { offset := 0x100000000000 },
      .memoryRequest { write := some [] }, .rekeyWalk 4096, .varveNodeWriteback 4 0, .swapIn 65536, .sliceFetchDone 64 {}, .tapAnswer 0 256,
      .frameReceive 36 [], .readResp 0 { typ := 256 }, .readResp 0 { typ := 0x11, tag := 4096 }, .readResp 0 { typ := 0x11, body := List.replicate 4097 0 },
      .selftestDone 256, .eoi 256, .accessFault 0x100000000 .read, .configurationRequest 0 (.readOther 4096),
      .configurationRequest 0 (.writeOther 0 0x100000000)] : List Instr).all (fun c => !c.wf) = true := by decide +kernel

/-! Functions that a standard fixes, against that standard's own example. -/

/-- FIPS 180-4: SHA-384 of "abc". -/
theorem test_sha384 : sha384 [0x61, 0x62, 0x63] = beOf 48 0xcb00753f45a35e8bb5a03d699ac65007272c32ab0eded1631a8b605a43ff5bed8086072ba1e7cc2358baeca134c825a7 := by
  decide +kernel

/-- The GCM specification, test case 14: a block of zeros under a key of zeros. -/
theorem test_gcm : gcmSeal (zeros 32) (zeros 12) [] (zeros 16) = beOf 16 0xcea7403d4d606b6e074ec5d3baf39d18 ++ beOf 16 0xd0d1c8a799996bf0265b98b5d48ab919 := by
  decide +kernel

/-- R557: the check of the nine digits for this polynomial (CRC-64/ECMA-182). -/
theorem test_crc64 : crc64 ((List.range 9).map fun i => BitVec.ofNat 8 (0x31 + i)) = 0x6c40df5f0b497347 := by decide +kernel

/-- R302: the check of the nine digits for CRC-32C. -/
theorem test_crc32c : crc32c ((List.range 9).map fun i => BitVec.ofNat 8 (0x31 + i)) = 0xE3069283 := by decide +kernel

/-! The spec's worked examples. -/

/-- 07_base_weights.md, the first byte of a coded block: the codes of 0.5 and of -1.0, and what byte 0xE4 holds after the scale. -/
theorem test_coded_block_byte :
    (prefixCodes ((List.range 16).map fun v => 0x0000032000000322 / 16 ^ v % 16)).find? (·.1 == 1) = some (1, 2, 1) ∧
      (prefixCodes ((List.range 16).map fun v => 0x0000032000000322 / 16 ^ v % 16)).find? (·.1 == 10) = some (10, 3, 7) ∧
      (decodeSyms (prefixCodes ((List.range 16).map fun v => 0x0000032000000322 / 16 ^ v % 16)) 3 ((bitList [0xE4]).drop 1)).map (·.1) = some [1, 0, 10] := by
  decide +kernel

/-- 02_edges.md: the status of VF 37 lies at 0x0204_A000 of BAR0. -/
theorem test_vf37_shadow : placeAt .bar0 0x0204A000 = shadowPlace 37 0 := by decide +kernel

/-! Single steps. -/

/-- The state after one step with the commands waiting. -/
def after (s : State) (l : List Instr) : Option State :=
  match Sys2Proof.Machine.step { s with pending := l } with | .next t => some t | _ => none

/-- First in, first out: the front command has run and the rest waits. -/
theorem test_step_takes_front : ((after State.reset [.selftestDone 0, .heartbeat]).map (·.pending)) = some [.heartbeat] := by decide +kernel

/-- R622: a self-test that passes takes the block to phase 1. -/
theorem test_selftest_passes : ((after State.reset [.selftestDone 0]).map (·.tarn.phase)) = some 1 := by decide +kernel

/-- R79: a low level shorter than 5 ns is not seen. -/
theorem test_short_pulse : ((after on [.warmResetAssert 4]).map (·.held)) = some none := by decide +kernel

/-- R596: PWR_LIMIT takes 30 to 150 W. -/
theorem test_power_limit : ((after (withCmd on (admin 0x1E [(32, 2, 150), (34, 2, 30)])) [.pwrLimit 0 {}]).map fun t => (t.pwr.limitW, t.pwr.emergencyW)) = some (150, 30) := by
  decide +kernel

/-- R628: a printable character is added to the line. -/
theorem test_uart : ((after on [.uartCharacter 0x41]).map (·.tarn.line)) = some [0x41] := by decide +kernel

/-! The hypotheses of each statement, met together, one state for each of its clauses. -/

/-- The hypotheses of RegisterWrites are met. -/
theorem test_hyps_registerWrites :
    (∃ (s : State) (sp : Space) (off : Nat) (w : Nat) (v : Nat) (r : Reg),
    s.reachable = true ∧ sp ≠ .tarn ∧ inBar sp off = true ∧ aligned off w = true ∧ placeAt sp off = some (.reg r 0) ∧ w = r.width ∧
      s.noHalf (requester sp)) :=
  ⟨on, .bar0, 0x200, 4, 5, .errStatus, by decide +kernel, by decide +kernel, by decide +kernel, by decide +kernel,
      by decide +kernel, by decide +kernel, noHalf_of (by decide +kernel)⟩

/-- The hypotheses of SplitAccess are met. -/
theorem test_hyps_splitAccess :
    (∃ (s : State) (sp : Space) (off : Nat) (r : Reg),
    s.reachable = true ∧ sp ≠ .tarn ∧ inBar sp off = true ∧ off % 4 = 0 ∧ placeAt sp off = some (.reg r 0) ∧ r.width = 8) ∧
    (∃ (s : State) (sp : Space) (off : Nat) (lo : Nat) (r : Reg),
    s.reachable = true ∧ sp ≠ .tarn ∧ inBar sp (off + 4) = true ∧ off % 4 = 0 ∧ placeAt sp (off + 4) = some (.reg r 4) ∧
      r.width = 8 ∧ (s.halves (requester sp)).held = some (sp, off, lo)) ∧
    (∃ (s : State) (sp : Space) (off : Nat) (r : Reg),
    s.reachable = true ∧ sp ≠ .tarn ∧ inBar sp off = true ∧ off % 4 = 0 ∧ placeAt sp off = some (.reg r 0) ∧ r.width = 8 ∧
      s.noHalf (requester sp)) :=
  ⟨⟨on, .bar0, 8, .timebase, by decide +kernel, by decide +kernel, by decide +kernel, by decide +kernel, by decide +kernel,
      by decide +kernel⟩,
   ⟨{ on with ports := { halves := [(0, { held := some (.bar0, 8, 7) })] } }, .bar0, 8, 7, .timebase, by decide +kernel,
      by decide +kernel, by decide +kernel, by decide +kernel, by decide +kernel, by decide +kernel, by decide +kernel⟩,
   ⟨on, .bar0, 8, .timebase, by decide +kernel, by decide +kernel, by decide +kernel, by decide +kernel, by decide +kernel,
      by decide +kernel, noHalf_of (by decide +kernel)⟩⟩

/-- The hypotheses of Doorbells are met. -/
theorem test_hyps_doorbells :
    (∃ (s : State) (d : Door) (v : Nat) (i : Nat) (q : Queue),
    s.reachable = true ∧ doorOk d = true ∧ s.noHalf (requester (doorAt d).1) ∧ s.doorQueue d = some (i, q) ∧
      tget? s.queues i = some q ∧ v % 65536 < q.depth) ∧
    (∃ (s : State) (d : Door) (v : Nat) (i : Nat) (q : Queue),
    s.reachable = true ∧ doorOk d = true ∧ s.noHalf (requester (doorAt d).1) ∧ s.doorQueue d = some (i, q) ∧
      tget? s.queues i = some q ∧ q.depth ≤ v % 65536) ∧
    (∃ (s : State) (d : Door) (v : Nat) (i : Nat) (q : Queue),
    s.reachable = true ∧ doorOk d = true ∧ s.noHalf (requester (doorAt d).1) ∧ s.doorQueue d = some (i, q) ∧
      tget? s.queues i = some q ∧ v % 65536 < q.depth ∧ (v % 65536 + q.depth - q.cqHead) % max 1 q.depth ≤ q.unread ∧
      q.replay = none) ∧
    (∃ (s : State) (d : Door) (v : Nat) (i : Nat) (q : Queue),
    s.reachable = true ∧ doorOk d = true ∧ s.noHalf (requester (doorAt d).1) ∧ s.doorQueue d = some (i, q) ∧
      tget? s.queues i = some q) :=
  ⟨⟨{ on with queues := [(0, { fn := 0, admin := true, depth := 4 })] }, .pf0 0, 3, 0, { fn := 0, admin := true, depth := 4 },
      by decide +kernel, by decide +kernel, noHalf_of (by decide +kernel), by decide +kernel, by decide +kernel, by decide +kernel⟩,
   ⟨{ on with queues := [(0, { fn := 0, admin := true, depth := 4 })] }, .pf0 0, 4, 0, { fn := 0, admin := true, depth := 4 },
      by decide +kernel, by decide +kernel, noHalf_of (by decide +kernel), by decide +kernel, by decide +kernel, by decide +kernel⟩,
   ⟨{ on with queues := [(0, { fn := 0, admin := true, depth := 4 })] }, .pf0 0, 0, 0, { fn := 0, admin := true, depth := 4 },
      by decide +kernel, by decide +kernel, noHalf_of (by decide +kernel), by decide +kernel, by decide +kernel, by decide +kernel,
      by decide +kernel, by decide +kernel⟩,
   ⟨{ on with queues := [(0, { fn := 0, admin := true, depth := 4 })] }, .pf0 0, 1, 0, { fn := 0, admin := true, depth := 4 },
      by decide +kernel, by decide +kernel, noHalf_of (by decide +kernel), by decide +kernel, by decide +kernel⟩⟩

/-- The hypotheses of QueueFetch are met. -/
theorem test_hyps_queueFetch :
    (∃ (s : State) (q : Nat) (slot : Nat) (x : Queue),
    s.fetchGrant = some (q, slot) ∧ tget? s.queues q = some x) ∧
    (∃ (s : State) (q : Nat) (x : Queue),
    tget? s.queues q = some x ∧ x.fetching ≠ 0 ∧ x.sqBroken = false ∧ x.cqBroken = false ∧ x.fetchDead = false ∧
      (s.fn x.fn).phase = .enabled) ∧
    (∃ (s : State) (q : Nat) (x : Queue) (resp : HostResp),
    tget? s.queues q = some x ∧ x.fetching ≠ 0 ∧ resp ≠ .ok) :=
  ⟨⟨{ on with queues := [(0, { fn := 0, admin := true, depth := 16, inflightMax := 64, sqTail := 1 })] }, 0, 1,
      { fn := 0, admin := true, depth := 16, inflightMax := 64, sqTail := 1 }, by decide +kernel, by decide +kernel⟩,
   ⟨{ on with queues := [(0, { fn := 0, admin := true, depth := 4, fetching := 1 })] }, 0,
      { fn := 0, admin := true, depth := 4, fetching := 1 }, by decide +kernel, by decide +kernel, by decide +kernel,
      by decide +kernel, by decide +kernel, by decide +kernel⟩,
   ⟨{ on with queues := [(0, { fn := 0, admin := true, depth := 4, fetching := 1 })] }, 0,
      { fn := 0, admin := true, depth := 4, fetching := 1 }, .ur, by decide +kernel, by decide +kernel, by decide +kernel⟩⟩

/-- The hypotheses of CommandPath are met. -/
theorem test_hyps_commandPath :
    (∃ (s : State) (i : Nat) (q : Queue) (e : Fetched) (l : List Fetched) (st : _),
    tget? s.queues i = some q ∧ q.fetched = e :: l ∧ s.cirqueRuns = true ∧ s.recordFree = true ∧ s.admitsOpen = true ∧
      (s.fn q.fn).phase = .enabled ∧ (s.takeEntry i q e l).checkEntry q e.sqe = some st) ∧
    (∃ (s : State) (i : Nat) (q : Queue) (e : Fetched) (l : List Fetched),
    tget? s.queues i = some q ∧ q.fetched = e :: l ∧ s.cirqueRuns = true ∧ s.recordFree = true ∧ s.admitsOpen = true ∧
      (s.fn q.fn).phase = .enabled ∧ (s.takeEntry i q e l).checkEntry q e.sqe = none ∧ q.admin = true) ∧
    (∃ (s : State) (r : Nat) (c : Cmd),
    tget? s.cmds r = some c ∧ s.cirqueRuns = true ∧ c.stage = .accepted ∧ c.decided = none ∧ s.orderOk c = true ∧
      ((c.admin = true → s.adminRunning < 64))) ∧
    (∃ (s : State) (r : Nat) (c : Cmd),
    tget? s.cmds r = some c ∧ s.cirqueRuns = true ∧ c.stage = .ended ∧ s.compGrant = some c.unit) ∧
    (∃ (s : State) (r : Nat) (c : Cmd),
    tget? s.cmds r = some c ∧ c.admin = false ∧ c.stage = .completed ∧ s.stagesRun = true ∧ s.pwr.cut = false ∧ s.stale c = false ∧
      c.order ≠ 0 ∧ s.restartOwed c.fn = false ∧ s.ledgerFull = false ∧ s.ledgerLost = false ∧
      s.firstDone c (fun x => !x.admin && x.fn == c.fn && x.stage == .completed) = true) ∧
    (∃ (s : State) (r : Nat) (c : Cmd) (q : Queue),
    tget? s.cmds r = some c ∧ tget? s.queues c.q = some q ∧ s.cirqueRuns = true ∧ s.pwr.cut = false ∧
      ((c.stage = .receipted ∨ c.stage = .completed ∧ c.admin = true)) ∧ s.stale c = false ∧
      s.firstDone c (fun x => x.q == c.q && !x.unfinished) = true ∧ q.cqBroken = false ∧ q.replay = none ∧ c.order ≠ 0 ∧
      s.cqeGrant = some c.q) :=
  ⟨⟨{ on with queues := [(0, { fn := 0, admin := true, depth := 4, fetched := [{ sqe := bytes 64 [(0, 1, 0x28)], headAfter := 1, capture := 0 }] })] },
      0, { fn := 0, admin := true, depth := 4, fetched := [{ sqe := bytes 64 [(0, 1, 0x28)], headAfter := 1, capture := 0 }] },
      { sqe := bytes 64 [(0, 1, 0x28)], headAfter := 1, capture := 0 }, [], .topologyNotCommitted, by decide +kernel,
      by decide +kernel, by decide +kernel, by decide +kernel, by decide +kernel, by decide +kernel, by decide +kernel⟩,
   ⟨{ on with queues := [(0, { fn := 0, admin := true, depth := 4, fetched := [{ sqe := bytes 64 [(0, 1, 0x00)], headAfter := 1, capture := 0 }] })] },
      0, { fn := 0, admin := true, depth := 4, fetched := [{ sqe := bytes 64 [(0, 1, 0x00)], headAfter := 1, capture := 0 }] },
      { sqe := bytes 64 [(0, 1, 0x00)], headAfter := 1, capture := 0 }, [], by decide +kernel, by decide +kernel, by decide +kernel,
      by decide +kernel, by decide +kernel, by decide +kernel, by decide +kernel, by decide +kernel⟩,
   ⟨withCmd on { q := 0, fn := 0, gen := 0, sqe := [], no := 1 }, 0, { q := 0, fn := 0, gen := 0, sqe := [], no := 1 },
      by decide +kernel, by decide +kernel, by decide +kernel, by decide +kernel, by decide +kernel, by decide +kernel⟩,
   ⟨withCmd on { q := 0, fn := 0, gen := 0, sqe := [], stage := .ended }, 0,
      { q := 0, fn := 0, gen := 0, sqe := [], stage := .ended }, by decide +kernel, by decide +kernel, by decide +kernel,
      by decide +kernel⟩,
   ⟨withCmd on { q := 0, fn := 0, gen := 0, sqe := [], stage := .completed, order := 1 }, 0,
      { q := 0, fn := 0, gen := 0, sqe := [], stage := .completed, order := 1 }, by decide +kernel, by decide +kernel,
      by decide +kernel, by decide +kernel, by decide +kernel, by decide +kernel, by decide +kernel, by decide +kernel,
      by decide +kernel, by decide +kernel, by decide +kernel⟩,
   ⟨withCmd ({ on with queues := [(0, { fn := 0, admin := true, depth := 4 })] }) { q := 0, fn := 0, gen := 0, sqe := [], stage := .receipted, order := 1 },
      0, { q := 0, fn := 0, gen := 0, sqe := [], stage := .receipted, order := 1 }, { fn := 0, admin := true, depth := 4 },
      by decide +kernel, by decide +kernel, by decide +kernel, by decide +kernel, by decide +kernel, by decide +kernel,
      by decide +kernel, by decide +kernel, by decide +kernel, by decide +kernel, by decide +kernel⟩⟩

/-- The hypotheses of QueueEvents are met. -/
theorem test_hyps_queueEvents :
    (∃ (s : State) (i : Nat) (q : Queue),
    tget? s.queues i = some q ∧ q.deadReads = 0 ∧ q.burst ≠ [] ∧ q.replay = none ∧ q.firstRead = none) ∧
    (∃ (s : State) (i : Nat) (q : Queue),
    tget? s.queues i = some q ∧ q.deadReads ≠ 0 ∧ q.firstRead = none) ∧
    (∃ (s : State) (i : Nat) (q : Queue) (t0 : _),
    tget? s.queues i = some q ∧ q.unsigSince = some t0 ∧ q.mask = false) ∧
    (∃ (s : State) (f : Nat) (i : Nat) (q : Queue) (e : PendEvent) (l : List PendEvent),
    s.queueAt? f 0 = some (i, q) ∧ tget? s.queues i = some q ∧ (s.fn f).events = e :: l ∧ q.replay = none ∧ s.eventDue i q = true ∧
      s.cqeGrant = some i ∧ s.cirqueRuns = true ∧ s.pwr.cut = false) ∧
    (∃ (s : State) (r : Nat) (c : Cmd),
    tget? s.cmds r = some c ∧ s.stagesRun = true ∧ c.live = true ∧ ((c.admin = true → s.tarnRuns = true))) ∧
    (∃ (s : State) (r : Nat) (c : Cmd),
    tget? s.cmds r = some c ∧ s.stagesRun = true ∧ c.stage = .ended ∧ c.decided = none ∧ c.status ≠ .success) ∧
    (∃ (s : State) (r : Nat) (c : Cmd),
    tget? s.cmds r = some c ∧ s.stagesRun = true ∧ c.stage = .ended ∧ c.decided = none ∧ c.status = .success) ∧
    (∃ (s : State) (r : Nat) (c : Cmd) (st : _),
    tget? s.cmds r = some c ∧ s.stagesRun = true ∧ c.decided = some st ∧ c.unfinished = true ∧
      ((c.admin = true → s.tarnRuns = true)) ∧ s.holdsEngine r = false ∧ c.updating = false ∧
      ((c.admin = true ∨ s.resetHolds c.ctx = false))) :=
  ⟨⟨{ on with queues := [(0, { fn := 0, admin := true, depth := 4, burst := [{}] })] }, 0,
      { fn := 0, admin := true, depth := 4, burst := [{}] }, by decide +kernel, by decide +kernel, by decide +kernel,
      by decide +kernel, by decide +kernel⟩,
   ⟨{ on with queues := [(0, { fn := 0, admin := true, depth := 4, deadReads := 1 })] }, 0,
      { fn := 0, admin := true, depth := 4, deadReads := 1 }, by decide +kernel, by decide +kernel, by decide +kernel⟩,
   ⟨{ on with queues := [(0, { fn := 0, admin := true, depth := 4, unsigSince := some 0 })] }, 0,
      { fn := 0, admin := true, depth := 4, unsigSince := some 0 }, _, by decide +kernel, some_of (by decide +kernel),
      by decide +kernel⟩,
   ⟨{ on with fns := [(0, { phase := .enabled, events := [{ code := .doorbellInvalid, param := 0, time := 0 }] })], queues := [(0, { fn := 0, admin := true, depth := 4 })] },
      0, 0, _, _, _, rfl, by decide +kernel, rfl, by decide +kernel, by decide +kernel, by decide +kernel, by decide +kernel,
      by decide +kernel⟩,
   ⟨withCmd on { q := 0, fn := 0, gen := 0, sqe := [] }, 0, { q := 0, fn := 0, gen := 0, sqe := [] }, by decide +kernel,
      by decide +kernel, by decide +kernel, by decide +kernel⟩,
   ⟨withCmd on { q := 0, fn := 0, gen := 0, sqe := [], stage := .ended, status := .timeout }, 0,
      { q := 0, fn := 0, gen := 0, sqe := [], stage := .ended, status := .timeout }, by decide +kernel, by decide +kernel,
      by decide +kernel, by decide +kernel, by decide +kernel⟩,
   ⟨withCmd on { q := 0, fn := 0, gen := 0, sqe := [], stage := .ended }, 0,
      { q := 0, fn := 0, gen := 0, sqe := [], stage := .ended }, by decide +kernel, by decide +kernel, by decide +kernel,
      by decide +kernel, by decide +kernel⟩,
   ⟨withCmd on { q := 0, fn := 0, gen := 0, sqe := [], decided := some .timeout }, 0,
      { q := 0, fn := 0, gen := 0, sqe := [], decided := some .timeout }, _, by decide +kernel, by decide +kernel,
      some_of (by decide +kernel), by decide +kernel, by decide +kernel, by decide +kernel, by decide +kernel, by decide +kernel⟩⟩

/-- The hypotheses of SharedRegisters are met. -/
theorem test_hyps_sharedRegisters :
    (∃ (s : State),
    s.reachable = true ∧ s.noHalf 0) ∧
    (∃ (s : State) (v : Nat) (i : _) (q : _),
    s.reachable = true ∧ s.noHalf 0 ∧ s.queueAt? 0 0 = some (i, q) ∧ tget? s.queues i = some q ∧ q.replay = none ∧
      (s.fn 0).phase = .enabled ∧ bit v 0 = true) ∧
    (∃ (s : State) (v : Nat),
    s.reachable = true ∧ s.noHalf 0 ∧ v % 2 ^ 64 % frameBytes ≠ 0) ∧
    (∃ (s : State) (v : Nat) (k : _) (u : _),
    s.reachable = true ∧ s.noHalf 0 ∧ v % 2 ^ 64 % frameBytes = 0 ∧ s.chooseChunks 1 [] = some [k] ∧
      s.takeChunks { prot := 0, key := kvKey } [(k, v % 2 ^ 64)] = some u) ∧
    (∃ (s : State) (v : Nat),
    s.reachable = true ∧ s.noHalf 0 ∧ s.tarn.enabled = false ∧ s.tarn.phase = 1 ∧ bit v 0 = true) ∧
    (∃ (s : State) (n : _),
    s.reachable = true ∧ s.noHalf 0 ∧ 0 < n ∧ n < 64 ∧ (tany s.snow.seqs fun _ q => q.image == n) = false) :=
  ⟨⟨on, by decide +kernel, noHalf_of (by decide +kernel)⟩,
   ⟨{ on with queues := [(0, { fn := 0, admin := true, depth := 4 })] }, 1, _, _, by decide +kernel, noHalf_of (by decide +kernel),
      some2_of (by decide +kernel), by decide +kernel, by decide +kernel, by decide +kernel, by decide +kernel⟩,
   ⟨on, 1, by decide +kernel, noHalf_of (by decide +kernel), by decide +kernel⟩,
   ⟨onMem, 2097152, 0, _, by decide +kernel, noHalf_of (by decide +kernel), by decide +kernel, by decide +kernel,
      some_of (by decide +kernel)⟩,
   ⟨on, 1, by decide +kernel, noHalf_of (by decide +kernel), by decide +kernel, by decide +kernel, by decide +kernel⟩,
   ⟨on, 63, by decide +kernel, noHalf_of (by decide +kernel), by decide +kernel, by decide +kernel, by decide +kernel⟩⟩

/-- The hypotheses of FunctionRegisters are met. -/
theorem test_hyps_functionRegisters :
    (∃ (s : State) (f : Nat),
    f < 4096 ∧ s.reachable = true ∧ s.noHalf 0 ∧ f ≠ 0 ∧ (s.fn f).phase = .disabled) ∧
    (∃ (s : State) (f : Nat),
    f < 4096 ∧ s.reachable = true ∧ s.noHalf 0 ∧ f ≠ 0 ∧ (s.fn f).phase ≠ .disabled) ∧
    (∃ (s : State) (f : Nat),
    f < 4096 ∧ s.reachable = true ∧ s.noHalf 0) :=
  ⟨⟨on, 4095, by decide +kernel, by decide +kernel, noHalf_of (by decide +kernel), by decide +kernel, by decide +kernel⟩,
   ⟨{ on with fns := [(1, { phase := .enabled })] }, 1, by decide +kernel, by decide +kernel, noHalf_of (by decide +kernel),
      by decide +kernel, by decide +kernel⟩,
   ⟨on, 0, by decide +kernel, by decide +kernel, noHalf_of (by decide +kernel)⟩⟩

/-- The hypotheses of ControlWrites are met. -/
theorem test_hyps_controlWrites :
    (∃ (s : State) (slot : _) (r : _) (x : _),
    s.reachable = true ∧ s.noHalf 0 ∧ s.crevOpenAt slot = some r ∧ tget? s.ctxs r.ctx = some x ∧
      wholeMapped x.leaves r.union = true) ∧
    (∃ (s : State) (slot : _) (r : _) (x : _),
    s.reachable = true ∧ s.noHalf 0 ∧ s.crevOpenAt slot = some r ∧ tget? s.ctxs r.ctx = some x ∧
      wholeMapped x.leaves r.union = false) ∧
    (∃ (s : State) (slot : _) (r : _),
    s.reachable = true ∧ s.noHalf 0 ∧ s.crevOpenAt slot = some r) ∧
    (∃ (s : State) (v : _) (n : _),
    s.reachable = true ∧ s.noHalf 0 ∧ n = (v % 1024 + 1024 - s.esk.crevHead) % 1024 ∧ s.esk.crevHead < 1024 ∧ n ≤ s.esk.crevHeld ∧
      ((∀ i ∈ s.esk.crevSlots.take n, ∀ r, tget? s.esk.crev i = some r → r.status ≠ 0))) ∧
    (∃ (s : State) (k : _),
    s.reachable = true ∧ s.noHalf 0 ∧ s.ringCtlOk k = true ∧ s.linkPresent (2 * k) && s.linkPresent (2 * k + 1) = true) ∧
    (∃ (s : State) (k : _),
    s.reachable = true ∧ s.noHalf 0 ∧ s.ringCtlOk k = true) ∧
    (∃ (s : State) (e : _),
    s.reachable = true ∧ s.noHalf 0 ∧ s.resetReqOk = true ∧ s.engineExists e = true ∧ e / 256 < 0x0C) ∧
    (∃ (s : State),
    s.reachable = true ∧ s.noHalf 0 ∧ s.resetReqOk = true ∧ s.loess.domain = none ∧
      (s.loess.domainTimes.filter fun t => decide (s.now < t + 60000000000)).length < 3) ∧
    (∃ (s : State) (v : _),
    s.reachable = true ∧ s.noHalf 0 ∧ (v % 256 + 256 - s.loess.head) % 256 ≤ (s.loess.tail + 256 - s.loess.head) % 256) ∧
    (∃ (s : State) (v : _),
    s.reachable = true ∧ s.noHalf 0 ∧ (s.loess.tail + 256 - s.loess.head) % 256 < (v % 256 + 256 - s.loess.head) % 256) :=
  ⟨⟨{ on with esk := { crevTail := 1, crev := [(0, { ctx := 1 })] }, ctxs := [(1, { fn := 1, clusters := 1, image := 1 })] }, 0,
      { ctx := 1 }, { fn := 1, clusters := 1, image := 1 }, by decide +kernel, noHalf_of (by decide +kernel), by decide +kernel,
      by decide +kernel, by decide +kernel⟩,
   ⟨{ on with esk := { crevTail := 1, crev := [(0, { ctx := 1, union := [(0, 1)] })] }, ctxs := [(1, { fn := 1, clusters := 1, image := 1 })] },
      0, { ctx := 1, union := [(0, 1)] }, { fn := 1, clusters := 1, image := 1 }, by decide +kernel, noHalf_of (by decide +kernel),
      by decide +kernel, by decide +kernel, by decide +kernel⟩,
   ⟨{ on with esk := { crevTail := 1, crev := [(0, { ctx := 1 })] }, ctxs := [(1, { fn := 1, clusters := 1, image := 1 })] }, 0,
      { ctx := 1 }, by decide +kernel, noHalf_of (by decide +kernel), by decide +kernel⟩,
   ⟨{ on with esk := { crevTail := 1, crev := [(0, { ctx := 1, status := 1 })] }, ctxs := [(1, { fn := 1, clusters := 1, image := 1 })] },
      1, 1, by decide +kernel, noHalf_of (by decide +kernel), by decide +kernel, by decide +kernel, by decide +kernel,
      fun i hi r hr => by simp [Esker.crevSlots, Esker.crevHeld] at hi; subst hi; simp [tget?] at hr; subst hr; decide⟩,
   ⟨{ on with topo := { links := some (bytes 16 [(0, 1, 1), (8, 1, 1)]) } }, 0, by decide +kernel, noHalf_of (by decide +kernel),
      by decide +kernel, by decide +kernel⟩,
   ⟨on, 17, by decide +kernel, noHalf_of (by decide +kernel), by decide +kernel⟩,
   ⟨on, 0x0200, by decide +kernel, noHalf_of (by decide +kernel), by decide +kernel, by decide +kernel, by decide +kernel⟩,
   ⟨on, by decide +kernel, noHalf_of (by decide +kernel), by decide +kernel, by decide +kernel, by decide +kernel⟩,
   ⟨on, 0, by decide +kernel, noHalf_of (by decide +kernel), by decide +kernel⟩,
   ⟨on, 1, by decide +kernel, noHalf_of (by decide +kernel), by decide +kernel⟩⟩

/-- The hypotheses of UnmappedAccesses are met. -/
theorem test_hyps_unmappedAccesses :
    (∃ (s : State) (sp : Space) (off : Nat) (w : Nat),
    s.reachable = true ∧ sp ≠ .tarn ∧ inBar sp off = true ∧ s.noHalf (requester sp) ∧
      ((aligned off w = false ∨ placeAt sp off = none))) ∧
    (∃ (s : State) (sp : Space) (off : Nat) (w : Nat),
    s.reachable = true ∧ sp ≠ .tarn ∧ inBar sp off = true ∧ s.noHalf (requester sp) ∧
      ((aligned off w = false ∨ placeAt sp off = none))) :=
  ⟨⟨on, .bar0, 1, 4, by decide +kernel, by decide +kernel, by decide +kernel, noHalf_of (by decide +kernel), by decide +kernel⟩,
   ⟨on, .bar2, 0x3FFFC, 4, by decide +kernel, by decide +kernel, by decide +kernel, noHalf_of (by decide +kernel),
      by decide +kernel⟩⟩

/-- The hypotheses of DoorbellRejected are met. -/
theorem test_hyps_doorbellRejected :
    (∃ (s : State) (d : Door),
    s.reachable = true ∧ doorOk d = true ∧ s.noHalf (requester (doorAt d).1) ∧ ((∀ i q, s.blockQueue d = some (i,
      q) → (s.fn q.fn).phase ≠ .enabled))) :=
  ⟨on, .pf0 1, by decide +kernel, by decide +kernel, noHalf_of (by decide +kernel), fun i q h => by simp [State.blockQueue, on,
      tget?] at h⟩

/-- The hypotheses of AdminQueueCommands are met. -/
theorem test_hyps_adminQueueCommands :
    (∃ (s : State) (r : Nat) (c : Cmd) (io : HostIo),
    s.takes r 0x00 c ∧ io.write = .ok) ∧
    (∃ (s : State) (r : Nat) (c : Cmd) (io : HostIo),
    s.takes r 0x00 c ∧ io.write ≠ .ok) ∧
    (∃ (s : State) (r : Nat) (c : Cmd) (io : HostIo) (f : _) (st : _),
    s.takes r 0x01 c ∧ namedFn c (fld c.sqe 62 2) = some f ∧ (s.begun r).checkQpCreate c f (fld c.sqe 52 2) = some st) ∧
    (∃ (s : State) (r : Nat) (c : Cmd) (io : HostIo) (f : _),
    s.takes r 0x01 c ∧ namedFn c (fld c.sqe 62 2) = some f ∧ (s.begun r).checkQpCreate c f (fld c.sqe 52 2) = none) ∧
    (∃ (s : State) (r : Nat) (c : Cmd) (io : HostIo) (i : _) (q : _),
    s.takes r 0x02 c ∧ s.namedQueue c true = .ok (i, q) ∧ (s.begun r).queueBusy i q = true) ∧
    (∃ (s : State) (r : Nat) (c : Cmd) (io : HostIo) (i : _) (q : _),
    s.takes r 0x02 c ∧ s.namedQueue c true = .ok (i, q) ∧ (s.begun r).queueBusy i q = false) ∧
    (∃ (s : State) (r : Nat) (c : Cmd) (io : HostIo) (i : _) (q : _),
    s.takes r 0x03 c ∧ s.namedQueue c false = .ok (i, q) ∧ (io.read ≠ .ok ∨ q.replay.isSome = true)) ∧
    (∃ (s : State) (r : Nat) (c : Cmd) (io : HostIo) (i : _) (q : _),
    s.takes r 0x03 c ∧ s.namedQueue c false = .ok (i, q) ∧ io.read = .ok ∧ q.replay = none) :=
  ⟨⟨withCmd on (admin 0x00 []), 0, (admin 0x00 []), {}, takes_of (by decide +kernel), by decide +kernel⟩,
   ⟨withCmd on (admin 0x00 []), 0, (admin 0x00 []), { write := .ur }, takes_of (by decide +kernel), by decide +kernel⟩,
   ⟨withCmd on (admin 0x01 [(62, 2, 1)]), 0, (admin 0x01 [(62, 2, 1)]), {}, 1, .invalidField, takes_of (by decide +kernel),
      by decide +kernel, by decide +kernel⟩,
   ⟨withCmd ({ on with fns := [(1, { phase := .enabled, qBase := 4, qCount := 2 })] }) (admin 0x01 [(32, 8, 4096), (40, 8, 8192),
      (48, 2, 16), (52, 2, 1), (56, 2, 4), (58, 2, 1), (62, 2, 1)]), 0, (admin 0x01 [(32, 8, 4096), (40, 8, 8192), (48, 2, 16), (52,
      2, 1), (56, 2, 4), (58, 2, 1), (62, 2, 1)]), {}, 1, takes_of (by decide +kernel), by decide +kernel, by decide +kernel⟩,
   ⟨withCmd ({ on with fns := [(0, { phase := .enabled }), (1, { phase := .enabled, qBase := 4, qCount := 2 })], queues := [(4, { fn := 1, admin := true }), (5, { fn := 1, fetching := 1 })] }) (admin 0x02 [(32,
      2, 1), (34, 2, 1)]), 0, (admin 0x02 [(32, 2, 1), (34, 2, 1)]), {}, 5, { fn := 1, fetching := 1 },
      takes_of (by decide +kernel), ok_of (by decide +kernel), by decide +kernel⟩,
   ⟨withCmd ({ on with fns := [(0, { phase := .enabled }), (1, { phase := .enabled, qBase := 4, qCount := 2 })], queues := [(4, { fn := 1, admin := true }), (5, { fn := 1 })] }) (admin 0x02 [(32,
      2, 1), (34, 2, 1)]), 0, (admin 0x02 [(32, 2, 1), (34, 2, 1)]), {}, 5, { fn := 1 }, takes_of (by decide +kernel),
      ok_of (by decide +kernel), by decide +kernel⟩,
   ⟨withCmd ({ on with fns := [(0, { phase := .enabled }), (1, { phase := .enabled, qBase := 4, qCount := 2 })], queues := [(4, { fn := 1, admin := true }), (5, { fn := 1, cqBroken := true })] }) (admin 0x03 [(32,
      2, 1), (34, 2, 1)]), 0, (admin 0x03 [(32, 2, 1), (34, 2, 1)]), { read := .ur }, 5, { fn := 1, cqBroken := true },
      takes_of (by decide +kernel), ok_of (by decide +kernel), by decide +kernel⟩,
   ⟨withCmd ({ on with fns := [(0, { phase := .enabled }), (1, { phase := .enabled, qBase := 4, qCount := 2 })], queues := [(4, { fn := 1, admin := true }), (5, { fn := 1, cqBroken := true })] }) (admin 0x03 [(32,
      2, 1), (34, 2, 1)]), 0, (admin 0x03 [(32, 2, 1), (34, 2, 1)]), {}, 5, { fn := 1, cqBroken := true },
      takes_of (by decide +kernel), ok_of (by decide +kernel), by decide +kernel, by decide +kernel⟩⟩

/-- The hypotheses of AdminFunctionCommands are met. -/
theorem test_hyps_adminFunctionCommands :
    (∃ (s : State) (r : Nat) (c : Cmd) (io : HostIo) (f : Nat),
    f = fld c.sqe 32 2 ∧ vfField f = true ∧ s.takes r 0x10 c ∧ (s.fn f).phase = .disabled ∧ (s.begun r).enableCheck f = none) ∧
    (∃ (s : State) (r : Nat) (c : Cmd) (io : HostIo) (f : Nat),
    f = fld c.sqe 32 2 ∧ vfField f = true ∧ s.takes r 0x10 c ∧ (s.fn f).phase = .enabled ∧ io.write = .ok) ∧
    (∃ (s : State) (r : Nat) (c : Cmd) (io : HostIo) (f : Nat),
    f = fld c.sqe 32 2 ∧ vfField f = true ∧ s.takes r 0x10 c ∧ (s.fn f).phase = .quiescing ∧ bit (fld c.sqe 34 1) 0 = false) ∧
    (∃ (s : State) (r : Nat) (c : Cmd) (io : HostIo) (f : Nat),
    f = fld c.sqe 32 2 ∧ vfField f = true ∧ s.takes r 0x11 c ∧ (s.fn f).phase = .enabled) ∧
    (∃ (s : State) (r : Nat) (c : Cmd) (io : HostIo) (f : Nat),
    f = fld c.sqe 32 2 ∧ vfField f = true ∧ s.takes r 0x11 c ∧ (s.fn f).phase = .disabled) ∧
    (∃ (s : State) (r : Nat) (c : Cmd) (io : HostIo) (f : Nat),
    f = fld c.sqe 32 2 ∧ vfField f = true ∧ s.takes r 0x12 c ∧
      ((s.fn f).phase = .enabled ∨ (s.fn f).phase = .disabled ∨ (s.fn f).phase = .quiescing) ∧ io.write = .ok) ∧
    (∃ (s : State) (r : Nat) (c : Cmd) (io : HostIo) (f : Nat),
    f = fld c.sqe 32 2 ∧ vfField f = true ∧ s.takes r 0x12 c ∧ (s.fn f).phase = .resetting) ∧
    (∃ (s : State) (r : Nat) (c : Cmd) (io : HostIo) (f : Nat),
    f = fld c.sqe 32 2 ∧ vfField f = true ∧ s.configurable = true ∧
      ((s.fn f).phase = .enabled ∨ (s.fn f).phase = .disabled ∨ (s.fn f).phase = .quiescing)) ∧
    (∃ (s : State) (r : Nat) (c : Cmd) (io : HostIo) (f : Nat),
    f = fld c.sqe 32 2 ∧ vfField f = true ∧ s.configurable = true) :=
  ⟨⟨withCmd ({ on with fns := [(0, { phase := .enabled }), (1, { qBase := 4, qCount := 2 })], queues := [(4, { fn := 1, admin := true })], topo := { committed := true } }) (admin 0x10 [(32,
      2, 1)]), 0, (admin 0x10 [(32, 2, 1)]), {}, 1, by decide +kernel, by decide +kernel, takes_of (by decide +kernel),
      by decide +kernel, by decide +kernel⟩,
   ⟨withCmd ({ on with fns := [(0, { phase := .enabled }), (1, { phase := .enabled })] }) (admin 0x10 [(32, 2, 1)]), 0,
      (admin 0x10 [(32, 2, 1)]), {}, 1, by decide +kernel, by decide +kernel, takes_of (by decide +kernel), by decide +kernel,
      by decide +kernel⟩,
   ⟨withCmd ({ on with fns := [(0, { phase := .enabled }), (1, { phase := .quiescing })] }) (admin 0x10 [(32, 2, 1)]), 0,
      (admin 0x10 [(32, 2, 1)]), {}, 1, by decide +kernel, by decide +kernel, takes_of (by decide +kernel), by decide +kernel,
      by decide +kernel⟩,
   ⟨withCmd ({ on with fns := [(0, { phase := .enabled }), (1, { phase := .enabled })] }) (admin 0x11 [(32, 2, 1)]), 0,
      (admin 0x11 [(32, 2, 1)]), {}, 1, by decide +kernel, by decide +kernel, takes_of (by decide +kernel), by decide +kernel⟩,
   ⟨withCmd ({ on with fns := [(0, { phase := .enabled }), (1, {  })] }) (admin 0x11 [(32, 2, 1)]), 0, (admin 0x11 [(32, 2, 1)]),
      {}, 1, by decide +kernel, by decide +kernel, takes_of (by decide +kernel), by decide +kernel⟩,
   ⟨withCmd ({ on with fns := [(0, { phase := .enabled }), (1, { phase := .enabled })] }) (admin 0x12 [(32, 2, 1)]), 0,
      (admin 0x12 [(32, 2, 1)]), {}, 1, by decide +kernel, by decide +kernel, takes_of (by decide +kernel), by decide +kernel,
      by decide +kernel⟩,
   ⟨withCmd ({ on with fns := [(0, { phase := .enabled }), (1, { phase := .resetting })] }) (admin 0x12 [(32, 2, 1)]), 0,
      (admin 0x12 [(32, 2, 1)]), {}, 1, by decide +kernel, by decide +kernel, takes_of (by decide +kernel), by decide +kernel⟩,
   ⟨withCmd ({ on with fns := [(0, { phase := .enabled }), (1, { phase := .enabled })] }) (admin 0x12 [(32, 2, 1)]), 0,
      (admin 0x12 [(32, 2, 1)]), {}, 1, by decide +kernel, by decide +kernel, by decide +kernel, by decide +kernel⟩,
   ⟨withCmd ({ on with fns := [(0, { phase := .enabled }), (1, { phase := .enabled })] }) (admin 0x12 [(32, 2, 1)]), 0,
      (admin 0x12 [(32, 2, 1)]), {}, 1, by decide +kernel, by decide +kernel, by decide +kernel⟩⟩

/-- The hypotheses of FunctionTransitions are met. -/
theorem test_hyps_functionTransitions :
    (∃ (s : State) (f : Nat) (io : HostIo) (r : _) (l : _) (c : _),
    (s.fn f).phase = .enabling ∧ s.tarnRuns = true ∧ s.restartWaits f = false ∧ (s.fn f).enablers = r :: l ∧
      tget? s.cmds r = some c ∧ c.decided = none ∧ (s.fn f).afterwards = [] ∧ io.write = .ok) ∧
    (∃ (s : State) (f : Nat) (io : HostIo) (r : _) (l : _) (c : _),
    (s.fn f).phase = .enabling ∧ s.tarnRuns = true ∧ s.restartWaits f = false ∧ (s.fn f).enablers = r :: l ∧
      tget? s.cmds r = some c ∧ c.decided = none ∧ (s.fn f).afterwards = [] ∧ io.write ≠ .ok) ∧
    (∃ (s : State) (f : Nat),
    (s.fn f).phase = .quiescing ∧ s.cmdsOf f = [] ∧ s.tarnRuns = true ∧ (s.fn f).enablers = []) ∧
    (∃ (s : State) (f : Nat),
    (s.fn f).phase = .resetting ∧ s.resetDrained f = true ∧ s.tarnRuns = true ∧
      (((s.cmdsOf f).foldl State.discard s).discardParked f).mappedCtxs f ≠ []) ∧
    (∃ (s : State) (f : Nat) (v : _),
    (s.fn f).phase = .resetting ∧ s.resetDrained f = true ∧ s.tarnRuns = true ∧
      v = (((s.cmdsOf f).foldl State.discard s).discardParked f) ∧ v.mappedCtxs f = [] ∧ ((v.teardown f).fn f).afterwards = [] ∧
      ((v.teardown f).fn f).enablers = []) ∧
    (∃ (s : State) (f : Nat),
    (s.fn f).wplog.flushing = true ∧ s.stagesRun = true ∧ (s.fn f).wplog.stopper = none) ∧
    (∃ (s : State) (f : Nat) (x : _),
    (s.fn f).wplog.flushing = true ∧ s.stagesRun = true ∧ (s.fn f).wplog.stopper = some x) :=
  ⟨⟨withCmd ({ on with fns := [(0, { phase := .enabled }), (1, { phase := .enabling, enablers := [0] })] }) { q := 0, fn := 0, gen := 0, sqe := [] },
      1, {}, 0, [], { q := 0, fn := 0, gen := 0, sqe := [] }, by decide +kernel, by decide +kernel, by decide +kernel,
      by decide +kernel, by decide +kernel, by decide +kernel, by decide +kernel, by decide +kernel⟩,
   ⟨withCmd ({ on with fns := [(0, { phase := .enabled }), (1, { phase := .enabling, enablers := [0] })] }) { q := 0, fn := 0, gen := 0, sqe := [] },
      1, { write := .ca }, 0, [], { q := 0, fn := 0, gen := 0, sqe := [] }, by decide +kernel, by decide +kernel, by decide +kernel,
      by decide +kernel, by decide +kernel, by decide +kernel, by decide +kernel, by decide +kernel⟩,
   ⟨withCmd ({ on with fns := [(0, { phase := .enabled }), (1, { phase := .quiescing, quiescers := [0] })] }) { q := 0, fn := 0, gen := 0, sqe := [] },
      1, by decide +kernel, by decide +kernel, by decide +kernel, by decide +kernel⟩,
   ⟨{ on with fns := [(0, { phase := .enabled }), (1, { phase := .resetting })], ctxs := [(1, { fn := 1, clusters := 1, image := 1, leaves := [{ va := 0, size := 0, node := 0, tier := 0, offset := 0, key := 16, prot := 0, rd := true, wr := true, atomic := false, alloc := 1 }] })] },
      1, by decide +kernel, by decide +kernel, by decide +kernel, by decide +kernel⟩,
   ⟨{ on with fns := [(0, { phase := .enabled }), (1, { phase := .resetting })] }, 1, _, by decide +kernel, by decide +kernel,
      by decide +kernel, rfl, by decide +kernel, by decide +kernel, by decide +kernel⟩,
   ⟨{ on with fns := [(0, { phase := .enabled }), (1, { wplog := { flushing := true } })] }, 1, by decide +kernel,
      by decide +kernel, by decide +kernel⟩,
   ⟨withCmd ({ on with fns := [(0, { phase := .enabled }), (1, { wplog := { flushing := true, stopper := some 0 } })] }) { admin 0x15 [(32, 2, 1)] with parked := true, stage := .running },
      1, _, by decide +kernel, by decide +kernel, some_of (by decide +kernel)⟩⟩

/-- The hypotheses of MigrationAndLogCommands are met. -/
theorem test_hyps_migrationAndLogCommands :
    (∃ (s : State) (r : Nat) (c : Cmd) (io : HostIo) (f : Nat) (m : _) (l : _),
    f = fld c.sqe 32 2 ∧ vfField f = true ∧ s.takes r 0x13 c ∧ tget? s.kao.migs f = some m ∧ (s.fn f).phase = .disabled ∧
      admDataAddr c.sqe ≠ 0 ∧ io.read = .ok ∧ io.write = .ok ∧ chunkList (padTo (admDataLen c.sqe) io.data) = some l) ∧
    (∃ (s : State) (r : Nat) (c : Cmd) (io : HostIo) (f : Nat),
    f = fld c.sqe 32 2 ∧ vfField f = true ∧ s.takes r 0x13 c ∧ tget? s.kao.migs f = none) ∧
    (∃ (s : State) (r : Nat) (c : Cmd) (io : HostIo) (f : Nat) (as : _) (v : _) (b : _),
    f = fld c.sqe 32 2 ∧ vfField f = true ∧ s.takes r 0x14 c ∧ admDataAddr c.sqe ≠ 0 ∧ io.read = .ok ∧
      chunkList (padTo (admDataLen c.sqe) io.data) = some as ∧
      v = as.foldl (fun w a => w.hostRead c.fn a frameBytes) ((s.begun r).hostRead c.fn (admDataAddr c.sqe) (admDataLen c.sqe)) ∧
      b = io.data.drop (admDataLen c.sqe) ∧ v.blobHeadOk b = true) ∧
    (∃ (s : State) (r : Nat) (c : Cmd) (io : HostIo) (f : Nat),
    f = fld c.sqe 32 2 ∧ vfField f = true ∧ s.takes r 0x15 c ∧ fld c.sqe 34 1 = 1 ∧ wplogEntriesOk (fld c.sqe 36 4) = true ∧
      admDataAddr c.sqe ≠ 0 ∧ admDataLen c.sqe = 8 * fld c.sqe 36 4 ∧ (s.fn f).wplog.active = false ∧
      tcount s.fns (fun _ x => x.wplog.active) < 64) ∧
    (∃ (s : State) (r : Nat) (c : Cmd) (io : HostIo) (f : Nat),
    f = fld c.sqe 32 2 ∧ vfField f = true ∧ s.takes r 0x15 c ∧ fld c.sqe 34 1 = 0 ∧ (s.fn f).wplog.active = true) :=
  ⟨⟨withCmd ({ on with fns := [(0, { phase := .enabled }), (1, {  })], kao := { migs := [(1, { key := 5 })] } }) (admin 0x13 [(32,
      2, 1), (12, 8, 4096), (20, 4, 8)]), 0, (admin 0x13 [(32, 2, 1), (12, 8, 4096), (20, 4, 8)]), {}, 1, { key := 5 }, [0],
      by decide +kernel, by decide +kernel, takes_of (by decide +kernel), by decide +kernel, by decide +kernel, by decide +kernel,
      by decide +kernel, by decide +kernel, by decide +kernel⟩,
   ⟨withCmd ({ on with fns := [(0, { phase := .enabled }), (1, {  })] }) (admin 0x13 [(32, 2, 1)]), 0, (admin 0x13 [(32, 2, 1)]),
      {}, 1, by decide +kernel, by decide +kernel, takes_of (by decide +kernel), by decide +kernel⟩,
   ⟨withCmd ({ on with fns := [(0, { phase := .enabled }), (1, {  })] }) (admin 0x14 [(32, 2, 1), (12, 8, 4096)]), 0,
      (admin 0x14 [(32, 2, 1), (12, 8, 4096)]),
      { data := bytes 64 [(0, 4, 0x42465856), (4, 4, 1), (8, 2, bits State.reset.versionWord 23 16), (10, 2, bits State.reset.versionWord 63 48)] },
      1, [], _, _, by decide +kernel, by decide +kernel, takes_of (by decide +kernel), by decide +kernel, by decide +kernel,
      by decide +kernel, rfl, rfl, by decide +kernel⟩,
   ⟨withCmd ({ on with fns := [(0, { phase := .enabled }), (1, {  })] }) (admin 0x15 [(32, 2, 1), (34, 1, 1), (36, 4, 1024), (12, 8,
      4096), (20, 4, 8192)]), 0, (admin 0x15 [(32, 2, 1), (34, 1, 1), (36, 4, 1024), (12, 8, 4096), (20, 4, 8192)]), {}, 1,
      by decide +kernel, by decide +kernel, takes_of (by decide +kernel), by decide +kernel, by decide +kernel, by decide +kernel,
      by decide +kernel, by decide +kernel, by decide +kernel⟩,
   ⟨withCmd ({ on with fns := [(0, { phase := .enabled }), (1, { wplog := { active := true } })] }) (admin 0x15 [(32, 2, 1)]), 0,
      (admin 0x15 [(32, 2, 1)]), {}, 1, by decide +kernel, by decide +kernel, takes_of (by decide +kernel), by decide +kernel,
      by decide +kernel⟩⟩

/-- The hypotheses of TopologyAndConfiguration are met. -/
theorem test_hyps_topologyAndConfiguration :
    (∃ (s : State) (r : Nat) (c : Cmd) (io : HostIo) (k : _),
    s.takes r 0x18 c ∧ k = fld c.sqe 32 1 ∧ 1 ≤ k ∧ k ≤ 4 ∧ s.topo.committed = false ∧ admDataAddr c.sqe ≠ 0 ∧ io.read = .ok ∧
      io.write = .ok ∧ sectionLenOk k (admDataLen c.sqe) = true) ∧
    (∃ (s : State) (r : Nat) (c : Cmd) (io : HostIo) (k : _),
    s.takes r 0x18 c ∧ k = fld c.sqe 32 1 ∧ 1 ≤ k ∧ k ≤ 2 ∧ s.topo.committed = true) ∧
    (∃ (s : State) (r : Nat) (c : Cmd) (io : HostIo),
    s.takes r 0x19 c ∧ s.topo.committed = true ∧ io.write = .ok) ∧
    (∃ (s : State) (r : Nat) (c : Cmd) (io : HostIo) (e : _),
    s.takes r 0x19 c ∧ s.topo.committed = false ∧ (s.begun r).topoFault = some e ∧ io.write = .ok) ∧
    (∃ (s : State) (r : Nat) (c : Cmd) (io : HostIo),
    s.takes r 0x19 c ∧ s.topo.committed = false ∧ (s.begun r).topoFault = none ∧ io.write = .ok) ∧
    (∃ (s : State) (r : Nat) (c : Cmd) (io : HostIo) (i : _) (b : _) (u : _),
    s.takes r 0x1C c ∧ configItem (fld c.sqe 32 2) (fld c.sqe 34 2) (fld c.sqe 40 8) = some i ∧ (s.begun r).configRefused i = none ∧
      b = ({ epoch := (s.cfg.epoch + 1) % 2 ^ 64, item := i } : Staged).result ∧ io.write = .ok ∧ u = (s.begun r).writeResult c b) ∧
    (∃ (s : State) (r : Nat) (c : Cmd) (io : HostIo) (i : _) (b : _),
    s.takes r 0x1C c ∧ configItem (fld c.sqe 32 2) (fld c.sqe 34 2) (fld c.sqe 40 8) = some i ∧ (s.begun r).configRefused i = none ∧
      b = ({ epoch := (s.cfg.epoch + 1) % 2 ^ 64, item := i } : Staged).result ∧ io.write ≠ .ok) ∧
    (∃ (s : State) (r : Nat) (c : Cmd) (io : HostIo),
    s.takes r 0x1C c ∧ configItem (fld c.sqe 32 2) (fld c.sqe 34 2) (fld c.sqe 40 8) = none) ∧
    (∃ (s : State) (r : Nat) (c : Cmd) (e : _) (x : _),
    s.stagesRun = true ∧ s.cfg.staged.find? (fun x => (s.concerned x.item).contains e && !x.adopted.contains e) = some x ∧
      s.safePoint e x.item = true) :=
  ⟨⟨withCmd on (admin 0x18 [(32, 1, 4), (12, 8, 4096)]), 0, (admin 0x18 [(32, 1, 4), (12, 8, 4096)]), {}, 4,
      takes_of (by decide +kernel), by decide +kernel, by decide +kernel, by decide +kernel, by decide +kernel, by decide +kernel,
      by decide +kernel, by decide +kernel, by decide +kernel⟩,
   ⟨withCmd ({ on with topo := { committed := true } }) (admin 0x18 [(32, 1, 2)]), 0, (admin 0x18 [(32, 1, 2)]), {}, 2,
      takes_of (by decide +kernel), by decide +kernel, by decide +kernel, by decide +kernel, by decide +kernel⟩,
   ⟨withCmd ({ on with topo := { committed := true } }) (admin 0x19 []), 0, (admin 0x19 []), {}, takes_of (by decide +kernel),
      by decide +kernel, by decide +kernel⟩,
   ⟨withCmd on (admin 0x19 []), 0, (admin 0x19 []), {}, (1, 0), takes_of (by decide +kernel), by decide +kernel, by decide +kernel,
      by decide +kernel⟩,
   ⟨withCmd ({ on with topo := wholeTopo }) (admin 0x19 []), 0, (admin 0x19 []), {}, takes_of (by decide +kernel),
      by decide +kernel, by decide +kernel, by decide +kernel⟩,
   ⟨withCmd on (admin 0x1C [(32, 2, 4), (40, 8, 200)]), 0, (admin 0x1C [(32, 2, 4), (40, 8, 200)]), {}, .stallLimit 200, _, _,
      takes_of (by decide +kernel), by decide +kernel, by decide +kernel, rfl, by decide +kernel, rfl⟩,
   ⟨withCmd on (admin 0x1C [(32, 2, 4), (40, 8, 200)]), 0, (admin 0x1C [(32, 2, 4), (40, 8, 200)]), { write := .ur },
      .stallLimit 200, _, takes_of (by decide +kernel), by decide +kernel, by decide +kernel, rfl, by decide +kernel⟩,
   ⟨withCmd on (admin 0x1C []), 0, (admin 0x1C []), {}, takes_of (by decide +kernel), by decide +kernel⟩,
   ⟨{ withCmd on (admin 0x1C []) with cfg := { staged := [{ epoch := 1, item := .stallLimit 200 }] } }, 0, (admin 0x1C []), 0x0B00,
      _, by decide +kernel, some_of (by decide +kernel), by decide +kernel⟩⟩

/-- The hypotheses of PowerPatchAndKeyCommands are met. -/
theorem test_hyps_powerPatchAndKeyCommands :
    (∃ (s : State) (r : Nat) (c : Cmd) (io : HostIo),
    s.takes r 0x1D c ∧ s.computeReset = false ∧ fld c.sqe 32 1 = 0) ∧
    (∃ (s : State) (r : Nat) (c : Cmd) (io : HostIo),
    s.takes r 0x1D c ∧ s.computeReset = false ∧ fld c.sqe 32 1 = 1) ∧
    (∃ (s : State) (r : Nat) (c : Cmd) (io : HostIo) (k : _),
    s.takes r 0x1D c ∧ s.computeReset = false ∧ k = fld c.sqe 32 1 ∧ (k = 2 ∨ k = 3) ∧ (s.begun r).powerBusy r = false) ∧
    (∃ (s : State) (r : Nat) (c : Cmd) (io : HostIo),
    s.takes r 0x1D c ∧ s.computeReset = true ∧ fld c.sqe 32 1 ≤ 3) ∧
    (∃ (s : State) (r : Nat) (c : Cmd) (io : HostIo),
    s.takes r 0x1E c ∧ 30 ≤ fld c.sqe 34 2 ∧ fld c.sqe 34 2 ≤ fld c.sqe 32 2 ∧ fld c.sqe 32 2 ≤ 150) ∧
    (∃ (s : State) (r : Nat) (c : Cmd) (io : HostIo),
    s.takes r 0x1E c ∧ 150 < fld c.sqe 32 2) ∧
    (∃ (s : State) (r : Nat) (c : Cmd) (io : HostIo),
    s.takes r 0x1F c ∧ s.tarn.patchCmd = none ∧ ((∀ e ∈ s.cmds, e.2.admin = true → e.1 ≠ r → e.2.stage ≠ .running ∧
      e.2.stage ≠ .dispatched)) ∧ admDataAddr c.sqe = 0 ∧ admDataLen c.sqe = 0 ∧ io.write = .ok) ∧
    (∃ (s : State) (r : Nat) (c : Cmd) (io : HostIo) (b : _),
    s.takes r 0x1F c ∧ s.tarn.patchCmd = none ∧ ((∀ e ∈ s.cmds, e.2.admin = true → e.1 ≠ r → e.2.stage ≠ .running ∧
      e.2.stage ≠ .dispatched)) ∧ admDataAddr c.sqe ≠ 0 ∧ admDataLen c.sqe ≤ 131072 ∧ io.read = .ok ∧ io.write = .ok ∧
      b = padTo (admDataLen c.sqe) io.data) ∧
    (∃ (s : State) (r : Nat) (c : Cmd) (io : HostIo),
    s.takes r 0x20 c ∧ bit (fld c.sqe 48 1) 0 = true ∧ zeroAt c.sqe 32 16 = true) ∧
    (∃ (s : State) (r : Nat) (c : Cmd) (io : HostIo),
    s.takes r 0x20 c ∧ bit (fld c.sqe 48 1) 0 = false ∧ s.tarn.lockout = false) ∧
    (∃ (s : State) (r : Nat) (c : Cmd) (io : HostIo),
    s.takes r 0x20 c ∧ bit (fld c.sqe 48 1) 0 = false ∧ s.tarn.lockout = true) ∧
    (∃ (s : State) (r : Nat) (c : Cmd) (io : HostIo) (k : _),
    s.takes r 0x22 c ∧ keyRange c.sqe = some [k] ∧ tget? s.kao.slots k = none) ∧
    (∃ (s : State) (r : Nat) (c : Cmd) (io : HostIo) (k : _),
    s.takes r 0x23 c ∧ keyRange c.sqe = some [k] ∧ s.ownsKey (fld c.sqe 32 2) k = true ∧ s.keyUsed k = false) ∧
    (∃ (s : State) (r : Nat) (c : Cmd) (io : HostIo) (k : _),
    s.takes r 0x23 c ∧ keyRange c.sqe = some [k] ∧ s.ownsKey (fld c.sqe 32 2) k = true ∧ s.keyUsed k = true) :=
  ⟨⟨withCmd on (admin 0x1D []), 0, (admin 0x1D []), {}, takes_of (by decide +kernel), by decide +kernel, by decide +kernel⟩,
   ⟨withCmd on (admin 0x1D [(32, 1, 1)]), 0, (admin 0x1D [(32, 1, 1)]), {}, takes_of (by decide +kernel), by decide +kernel,
      by decide +kernel⟩,
   ⟨withCmd on (admin 0x1D [(32, 1, 3)]), 0, (admin 0x1D [(32, 1, 3)]), {}, _, takes_of (by decide +kernel), by decide +kernel, rfl,
      by decide +kernel, by decide +kernel⟩,
   ⟨withCmd ({ on with loess := { domain := some { start := 0, deadline := 1, slot := 0 } } }) (admin 0x1D [(32, 1, 3)]), 0,
      (admin 0x1D [(32, 1, 3)]), {}, takes_of (by decide +kernel), by decide +kernel, by decide +kernel⟩,
   ⟨withCmd on (admin 0x1E [(32, 2, 150), (34, 2, 150)]), 0, (admin 0x1E [(32, 2, 150), (34, 2, 150)]), {},
      takes_of (by decide +kernel), by decide +kernel, by decide +kernel, by decide +kernel⟩,
   ⟨withCmd on (admin 0x1E [(32, 2, 151)]), 0, (admin 0x1E [(32, 2, 151)]), {}, takes_of (by decide +kernel), by decide +kernel⟩,
   ⟨withCmd on (admin 0x1F []), 0, (admin 0x1F []), {}, takes_of (by decide +kernel), by decide +kernel, by decide +kernel,
      by decide +kernel, by decide +kernel, by decide +kernel⟩,
   ⟨withCmd on (admin 0x1F [(12, 8, 4096), (20, 4, 256)]), 0, (admin 0x1F [(12, 8, 4096), (20, 4, 256)]), {}, _,
      takes_of (by decide +kernel), by decide +kernel, by decide +kernel, by decide +kernel, by decide +kernel, by decide +kernel,
      by decide +kernel, rfl⟩,
   ⟨withCmd on (admin 0x20 [(48, 1, 1)]), 0, (admin 0x20 [(48, 1, 1)]), {}, takes_of (by decide +kernel), by decide +kernel,
      by decide +kernel⟩,
   ⟨withCmd on (admin 0x20 []), 0, (admin 0x20 []), {}, takes_of (by decide +kernel), by decide +kernel, by decide +kernel⟩,
   ⟨withCmd ({ on with tarn := { phase := 1, lockout := true } }) (admin 0x20 []), 0, (admin 0x20 []), {},
      takes_of (by decide +kernel), by decide +kernel, by decide +kernel⟩,
   ⟨withCmd on (admin 0x22 [(32, 2, 1), (34, 2, 16), (36, 2, 1)]), 0, (admin 0x22 [(32, 2, 1), (34, 2, 16), (36, 2, 1)]), {}, 16,
      takes_of (by decide +kernel), by decide +kernel, by decide +kernel⟩,
   ⟨withCmd ({ on with kao := { slots := [(16, { owner := some 1 })] } }) (admin 0x23 [(32, 2, 1), (34, 2, 16), (36, 2, 1)]), 0,
      (admin 0x23 [(32, 2, 1), (34, 2, 16), (36, 2, 1)]), {}, 16, takes_of (by decide +kernel), by decide +kernel,
      by decide +kernel, by decide +kernel⟩,
   ⟨withCmd ({ on with kao := { slots := [(16, { owner := some 1 })] }, allocs := [(1, { fn := 1, size := 2097152, tier := 0, prot := 0, key := 16 })] }) (admin 0x23 [(32,
      2, 1), (34, 2, 16), (36, 2, 1)]), 0, (admin 0x23 [(32, 2, 1), (34, 2, 16), (36, 2, 1)]), {}, 16, takes_of (by decide +kernel),
      by decide +kernel, by decide +kernel, by decide +kernel⟩⟩

/-- The hypotheses of PowerStateBusyDuringReset are met. -/
theorem test_hyps_powerStateBusyDuringReset :
    (∃ (s : State) (r : Nat) (c : Cmd) (io : HostIo),
    s.takes r 0x1D c ∧ fld c.sqe 32 1 ≤ 3 ∧ ((s.loess.domain.isSome = true ∨ ∃ k e, (k, e) ∈ s.loess.engines ∧
      e.rst.isSome = true))) :=
  ⟨withCmd ({ on with loess := { domain := some { start := 0, deadline := 1, slot := 0 } } }) (admin 0x1D [(32, 1, 3)]), 0,
      (admin 0x1D [(32, 1, 3)]), {}, takes_of (by decide +kernel), by decide +kernel, .inl rfl⟩

/-- The hypotheses of ContextAndMemoryCommands are met. -/
theorem test_hyps_contextAndMemoryCommands :
    (∃ (s : State) (r : Nat) (c : Cmd) (io : HostIo) (x : _) (id : _),
    s.takes r 0x28 c ∧ io.write = .ok ∧ id = tfree s.ctxs 1 ∧
      x = ({ fn := c.fn, clusters := fld c.sqe 32 4, image := fld c.sqe 36 4, prio := fld c.sqe 40 1 } : Ctx) ∧ x.prio ≤ 15 ∧
      1 ≤ x.image ∧ x.image ≤ 63 ∧ s.imageReady x.image = true ∧ x.clusters ≠ 0 ∧ (∀ u ∈ x.clusterList,
      bit (s.fn c.fn).clusters u = true ∧ (s.eng (seracEngine u)).fenced = false) ∧ id ≤ 65535 ∧
      s.slotStates + x.clusterList.length ≤ 262144) ∧
    (∃ (s : State) (r : Nat) (c : Cmd) (io : HostIo) (y : _),
    s.takes r 0x29 c ∧ s.invalWaits c.fn (fld c.sqe 32 2) = false ∧ s.ctxOf c.fn (fld c.sqe 32 2) = some y ∧ y.pool ≠ 0) ∧
    (∃ (s : State) (r : Nat) (c : Cmd) (io : HostIo) (y : _),
    s.takes r 0x29 c ∧ s.invalWaits c.fn (fld c.sqe 32 2) = false ∧ s.ctxOf c.fn (fld c.sqe 32 2) = some y ∧ y.pool = 0 ∧
      (s.begun r).ctxBusy (fld c.sqe 32 2) = false) ∧
    (∃ (s : State) (r : Nat) (c : Cmd) (io : HostIo) (y : _),
    s.takes r 0x2A c ∧ s.ctxOf c.fn (fld c.sqe 32 2) = some y) ∧
    (∃ (s : State) (r : Nat) (c : Cmd) (io : HostIo),
    s.takes r 0x2A c ∧ s.ctxOf c.fn (fld c.sqe 32 2) = none) ∧
    (∃ (s : State) (r : Nat) (c : Cmd) (io : HostIo) (l : _) (u : _) (frames : _),
    s.takes r 0x30 c ∧ allocParamsOk c.sqe (s.fn c.fn).vx1 = true ∧ fld c.sqe 41 1 = 0 ∧ s.ownsKey c.fn (fld c.sqe 42 2) = true ∧
      fld c.sqe 40 1 ≠ 2 ∧ io.write = .ok ∧
      (s.begun r).placeAlloc (s.fn c.fn).vx1 (fld c.sqe 40 1) (fld c.sqe 32 8 / frameBytes) frames { prot := fld c.sqe 41 1, key := fld c.sqe 42 2, fn := c.fn, alloc := tfree s.allocs 1 } = some (l,
      u)) ∧
    (∃ (s : State) (r : Nat) (c : Cmd) (io : HostIo) (frames : _),
    s.takes r 0x30 c ∧ allocParamsOk c.sqe (s.fn c.fn).vx1 = true ∧ fld c.sqe 41 1 = 0 ∧ s.ownsKey c.fn (fld c.sqe 42 2) = true ∧
      fld c.sqe 40 1 ≠ 2 ∧
      (s.begun r).placeAlloc (s.fn c.fn).vx1 (fld c.sqe 40 1) (fld c.sqe 32 8 / frameBytes) frames { prot := fld c.sqe 41 1, key := fld c.sqe 42 2, fn := c.fn, alloc := tfree s.allocs 1 } = none) ∧
    (∃ (s : State) (r : Nat) (c : Cmd) (io : HostIo) (a : _),
    s.takes r 0x31 c ∧ s.allocOf c.fn (fld c.sqe 32 4) = some a ∧
      (s.allocMapped (fld c.sqe 32 4) || s.allocOfVariant (fld c.sqe 32 4)) = false) ∧
    (∃ (s : State) (r : Nat) (c : Cmd) (io : HostIo) (a : _),
    s.takes r 0x31 c ∧ s.allocOf c.fn (fld c.sqe 32 4) = some a ∧
      (s.allocMapped (fld c.sqe 32 4) || s.allocOfVariant (fld c.sqe 32 4)) = true) ∧
    (∃ (s : State) (r : Nat) (c : Cmd) (io : HostIo) (a : _),
    s.takes r 0x34 c ∧ s.allocOf c.fn (fld c.sqe 32 4) = some a ∧ 8 * a.frames.length ≤ admDataLen c.sqe ∧ admDataAddr c.sqe ≠ 0 ∧
      a.tier ≠ 2 ∧ a.prot = 0 ∧ (s.fn c.fn).vx1 = false ∧ s.allocOfVariant (fld c.sqe 32 4) = false ∧ io.write = .ok) :=
  ⟨⟨withCmd ({ on with fns := [(0, { phase := .enabled, clusters := 1 })], firn := { images := [(1, { state := 3, current := 1 })] } }) (admin 0x28 [(32,
      4, 1), (36, 4, 1)]), 0, (admin 0x28 [(32, 4, 1), (36, 4, 1)]), {}, _, _, takes_of (by decide +kernel), by decide +kernel, rfl,
      rfl, by decide +kernel, by decide +kernel, by decide +kernel, by decide +kernel, by decide +kernel, by decide +kernel,
      by decide +kernel, by decide +kernel⟩,
   ⟨withCmd ({ on with ctxs := [(1, { fn := 0, clusters := 1, image := 1, pool := 1 })] }) (admin 0x29 [(32, 2, 1)]), 0,
      (admin 0x29 [(32, 2, 1)]), {}, _, takes_of (by decide +kernel), by decide +kernel, some_of (by decide +kernel),
      by decide +kernel⟩,
   ⟨withCmd ({ on with ctxs := [(1, { fn := 0, clusters := 1, image := 1 })] }) (admin 0x29 [(32, 2, 1)]), 0, (admin 0x29 [(32, 2,
      1)]), {}, _, takes_of (by decide +kernel), by decide +kernel, some_of (by decide +kernel), by decide +kernel,
      by decide +kernel⟩,
   ⟨withCmd ({ on with ctxs := [(1, { fn := 0, clusters := 1, image := 1 })] }) (admin 0x2A [(32, 2, 1)]), 0, (admin 0x2A [(32, 2,
      1)]), {}, _, takes_of (by decide +kernel), some_of (by decide +kernel)⟩,
   ⟨withCmd on (admin 0x2A [(32, 2, 1)]), 0, (admin 0x2A [(32, 2, 1)]), {}, takes_of (by decide +kernel), by decide +kernel⟩,
   ⟨withCmd ({ onMem with kao := { slots := [(16, { owner := some 0 })] } }) (admin 0x30 [(32, 8, 2097152), (42, 2, 16)]), 0,
      (admin 0x30 [(32, 8, 2097152), (42, 2, 16)]), {}, _, _, [], takes_of (by decide +kernel), by decide +kernel,
      by decide +kernel, by decide +kernel, by decide +kernel, by decide +kernel, some2_of (by decide +kernel)⟩,
   ⟨withCmd ({ on with kao := { slots := [(16, { owner := some 0 })] } }) (admin 0x30 [(32, 8, 2097152), (42, 2, 16)]), 0,
      (admin 0x30 [(32, 8, 2097152), (42, 2, 16)]), {}, [], takes_of (by decide +kernel), by decide +kernel, by decide +kernel,
      by decide +kernel, by decide +kernel, by decide +kernel⟩,
   ⟨withCmd ({ on with allocs := [(1, { fn := 0, size := 2097152, tier := 0, prot := 0, key := 16, frames := [(0, 0)] })] }) (admin 0x31 [(32,
      4, 1)]), 0, (admin 0x31 [(32, 4, 1)]), {}, _, takes_of (by decide +kernel), some_of (by decide +kernel), by decide +kernel⟩,
   ⟨withCmd ({ on with allocs := [(1, { fn := 0, size := 2097152, tier := 0, prot := 0, key := 16, frames := [(0, 0)] })], ctxs := [(1, { fn := 1, clusters := 1, image := 1, leaves := [{ va := 0, size := 0, node := 0, tier := 0, offset := 0, key := 16, prot := 0, rd := true, wr := true, atomic := false, alloc := 1 }] })] }) (admin 0x31 [(32,
      4, 1)]), 0, (admin 0x31 [(32, 4, 1)]), {}, _, takes_of (by decide +kernel), some_of (by decide +kernel), by decide +kernel⟩,
   ⟨withCmd ({ on with allocs := [(1, { fn := 0, size := 2097152, tier := 0, prot := 0, key := 16, frames := [(0, 0)] })] }) (admin 0x34 [(32,
      4, 1), (12, 8, 4096), (20, 4, 8)]), 0, (admin 0x34 [(32, 4, 1), (12, 8, 4096), (20, 4, 8)]), {}, _,
      takes_of (by decide +kernel), some_of (by decide +kernel), by decide +kernel, by decide +kernel, by decide +kernel,
      by decide +kernel, by decide +kernel, by decide +kernel, by decide +kernel⟩⟩

/-- The hypotheses of TranslationCommands are met. -/
theorem test_hyps_translationCommands :
    (∃ (s : State) (x : Ctx) (i : Inval) (z : Change) (e : Nat),
    s.esk.invals.find? (·.id == i.id) = some i ∧ tget? s.ctxs i.ctx = some x ∧ i.change = some z ∧ s.stagesRun = true ∧
      invalEngines.contains e = true ∧ i.acked.contains e = false ∧ (s.eng e).rst = none ∧
      (e / 256 == 1 && s.tileInRange (e % 256) i) = false ∧ invalEngines.all (e :: i.acked).contains = true) ∧
    (∃ (s : State) (r : Nat) (c : Cmd) (io : HostIo) (x : Ctx) (a : _) (ls : _),
    s.invalWaits c.fn (fld c.sqe 32 2) = false ∧ s.ctxOf c.fn (fld c.sqe 32 2) = some x ∧ x.epoch < topEpoch ∧ s.takes r 0x32 c ∧
      fld c.sqe 35 1 ≤ 2 ∧ rangeOk (fld c.sqe 40 8) (fld c.sqe 56 8) (pageBytes (fld c.sqe 35 1)) = true ∧
      fld c.sqe 48 8 % pageBytes (fld c.sqe 35 1) = 0 ∧ s.allocOf c.fn (fld c.sqe 36 4) = some a ∧
      fld c.sqe 48 8 + fld c.sqe 56 8 ≤ a.size ∧ s.allocOfVariant (fld c.sqe 36 4) = false ∧
      ls = mapLeaves x.leaves (a.leaves (fld c.sqe 36 4) s.nodeId (fld c.sqe 34 1) (fld c.sqe 35 1) (fld c.sqe 40 8) (fld c.sqe 48 8) (fld c.sqe 56 8)) (fld c.sqe 40 8) (fld c.sqe 40 8 + fld c.sqe 56 8) ∧
      s.tablesFit x ls = true) ∧
    (∃ (s : State) (r : Nat) (c : Cmd) (io : HostIo) (x : Ctx) (a : _) (ls : _),
    s.invalWaits c.fn (fld c.sqe 32 2) = false ∧ s.ctxOf c.fn (fld c.sqe 32 2) = some x ∧ x.epoch < topEpoch ∧ s.takes r 0x32 c ∧
      fld c.sqe 35 1 ≤ 2 ∧ rangeOk (fld c.sqe 40 8) (fld c.sqe 56 8) (pageBytes (fld c.sqe 35 1)) = true ∧
      fld c.sqe 48 8 % pageBytes (fld c.sqe 35 1) = 0 ∧ s.allocOf c.fn (fld c.sqe 36 4) = some a ∧
      fld c.sqe 48 8 + fld c.sqe 56 8 ≤ a.size ∧ s.allocOfVariant (fld c.sqe 36 4) = false ∧
      ls = mapLeaves x.leaves (a.leaves (fld c.sqe 36 4) s.nodeId (fld c.sqe 34 1) (fld c.sqe 35 1) (fld c.sqe 40 8) (fld c.sqe 48 8) (fld c.sqe 56 8)) (fld c.sqe 40 8) (fld c.sqe 40 8 + fld c.sqe 56 8) ∧
      s.tablesFit x ls = false) ∧
    (∃ (s : State) (r : Nat) (c : Cmd) (io : HostIo) (x : Ctx),
    s.invalWaits c.fn (fld c.sqe 32 2) = false ∧ s.ctxOf c.fn (fld c.sqe 32 2) = some x ∧ x.epoch < topEpoch ∧ s.takes r 0x33 c ∧
      rangeOk (fld c.sqe 40 8) (fld c.sqe 48 8) 4096 = true) ∧
    (∃ (s : State) (r : Nat) (c : Cmd) (io : HostIo) (x : Ctx) (n : _) (l : _) (ls : _),
    s.invalWaits c.fn (fld c.sqe 32 2) = false ∧ s.ctxOf c.fn (fld c.sqe 32 2) = some x ∧ x.epoch < topEpoch ∧ s.takes r 0x35 c ∧
      n = admDataLen c.sqe / 8 ∧ admDataLen c.sqe % 8 = 0 ∧ rangeOk (fld c.sqe 40 8) (n * frameBytes) frameBytes = true ∧
      fld c.sqe 34 1 ≤ 3 ∧ admDataAddr c.sqe ≠ 0 ∧ io.read = .ok ∧ l = (chunks 8 n (padTo (8 * n) io.data)).map leVal ∧
      s.checkRemoteList c.fn l = none ∧
      ls = mapLeaves x.leaves (l.zipIdx.map fun e => { va := fld c.sqe 40 8 + e.2 * frameBytes, size := 1, node := dpaNode e.1, tier := dpaTier e.1, offset := dpaOffset e.1, key := dpaKey e.1, prot := 0, rd := bit (fld c.sqe 34 1) 0, wr := bit (fld c.sqe 34 1) 1, atomic := false, alloc := 0 : Leaf }) (fld c.sqe 40 8) (fld c.sqe 40 8 + n * frameBytes) ∧
      s.tablesFit x ls = true) :=
  ⟨⟨{ on with ctxs := [(1, { fn := 0, clusters := 1, image := 1 })], esk := { invals := [{ id := 0, ctx := 1, lo := 0, hi := 4096, epoch := 1, acked := 0x0700 :: (List.range 32).map (0x0100 + ·), change := some { leaves := [], lo := 0, hi := 4096, isMap := false } }] } },
      { fn := 0, clusters := 1, image := 1 },
      { id := 0, ctx := 1, lo := 0, hi := 4096, epoch := 1, acked := 0x0700 :: (List.range 32).map (0x0100 + ·), change := some { leaves := [], lo := 0, hi := 4096, isMap := false } },
      { leaves := [], lo := 0, hi := 4096, isMap := false }, 0x0800, by decide +kernel, by decide +kernel, by decide +kernel,
      by decide +kernel, by decide +kernel, by decide +kernel, by decide +kernel, by decide +kernel, by decide +kernel⟩,
   ⟨withCmd ({ on with ctxs := [(1, { fn := 0, clusters := 1, image := 1 })], allocs := [(1, { fn := 0, size := 2097152, tier := 0, prot := 0, key := 16, frames := [(0, 0)] })] }) (admin 0x32 [(32,
      2, 1), (34, 1, 3), (36, 4, 1), (56, 8, 4096)]), 0, (admin 0x32 [(32, 2, 1), (34, 1, 3), (36, 4, 1), (56, 8, 4096)]), {}, _, _,
      _, by decide +kernel, some_of (by decide +kernel), by decide +kernel, takes_of (by decide +kernel), by decide +kernel,
      by decide +kernel, by decide +kernel, some_of (by decide +kernel), by decide +kernel, by decide +kernel, rfl,
      by decide +kernel⟩,
   ⟨withCmd fullTables (admin 0x32 [(32, 2, 1), (34, 1, 3), (36, 4, 1), (56, 8, 4096)]), 0, (admin 0x32 [(32, 2, 1), (34, 1, 3),
      (36, 4, 1), (56, 8, 4096)]), {}, _, _, _, by decide +kernel, some_of (by decide +kernel), by decide +kernel,
      takes_of (by decide +kernel), by decide +kernel, by decide +kernel, by decide +kernel, some_of (by decide +kernel),
      by decide +kernel, by decide +kernel, rfl, fullTables_fit _ _ _ (by decide +kernel)⟩,
   ⟨withCmd ({ on with ctxs := [(1, { fn := 0, clusters := 1, image := 1 })] }) (admin 0x33 [(32, 2, 1), (48, 8, 4096)]), 0,
      (admin 0x33 [(32, 2, 1), (48, 8, 4096)]), {}, _, by decide +kernel, some_of (by decide +kernel), by decide +kernel,
      takes_of (by decide +kernel), by decide +kernel⟩,
   ⟨withCmd ({ on with ctxs := [(1, { fn := 0, clusters := 1, image := 1 })], kao := { slots := [(16, { owner := some 0 })] } }) (admin 0x35 [(32,
      2, 1), (34, 1, 3), (12, 8, 4096), (20, 4, 8)]), 0, (admin 0x35 [(32, 2, 1), (34, 1, 3), (12, 8, 4096), (20, 4, 8)]),
      { data := leBytes 8 (16 * 2 ^ 52 + 2 ^ 46) }, _, _, _, _, by decide +kernel, some_of (by decide +kernel), by decide +kernel,
      takes_of (by decide +kernel), rfl, by decide +kernel, by decide +kernel, by decide +kernel, by decide +kernel,
      by decide +kernel, rfl, by decide +kernel, rfl, by decide +kernel⟩⟩

/-- The hypotheses of ImageCommands are met. -/
theorem test_hyps_imageCommands :
    (∃ (s : State) (l : Load),
    s.firn.loads ≠ []) ∧
    (∃ (s : State) (r : Nat) (c : Cmd) (io : HostIo) (v : _),
    s.takes r 0x38 c ∧ imgIdOk (imgId c.sqe) = true ∧ (fld c.sqe 36 1 = 0 ∨ fld c.sqe 36 1 = 3) ∧
      (s.image (imgId c.sqe)).state = 0 ∧ admDataAddr c.sqe ≠ 0 ∧ io.read = .ok ∧
      manifestOf (padTo (admDataLen c.sqe) io.data) (admDataLen c.sqe) (fld c.sqe 36 1) = some v ∧ v.pref = fld c.sqe 36 1) ∧
    (∃ (s : State) (r : Nat) (c : Cmd) (io : HostIo),
    s.takes r 0x38 c ∧ imgIdOk (imgId c.sqe) = true ∧ fld c.sqe 36 1 = 0 ∧ (s.image (imgId c.sqe)).state ≠ 0) ∧
    (∃ (s : State) (r : Nat) (c : Cmd) (io : HostIo) (p : _),
    s.takes r 0x39 c ∧ imgIdOk (imgId c.sqe) = true ∧ (s.image (imgId c.sqe)).staged = some p) ∧
    (∃ (s : State) (r : Nat) (c : Cmd) (io : HostIo),
    s.takes r 0x39 c ∧ imgIdOk (imgId c.sqe) = true ∧ (s.image (imgId c.sqe)).staged = none) ∧
    (∃ (s : State) (r : Nat) (c : Cmd) (io : HostIo) (v : _),
    s.takes r 0x3A c ∧ imgIdOk (imgId c.sqe) = true ∧ (fld c.sqe 36 1 = 0 ∨ fld c.sqe 36 1 = 3) ∧
      ((s.image (imgId c.sqe)).state = 3 ∨ (s.image (imgId c.sqe)).state = 5) ∧ admDataAddr c.sqe ≠ 0 ∧ io.read = .ok ∧
      manifestOf (padTo (admDataLen c.sqe) io.data) (admDataLen c.sqe) (fld c.sqe 36 1) = some v ∧ v.pref = fld c.sqe 36 1) ∧
    (∃ (s : State) (r : Nat) (c : Cmd) (io : HostIo),
    s.takes r 0x3B c ∧ imgIdOk (imgId c.sqe) = true ∧ (s.firn.loads.any (·.image == imgId c.sqe)) = false ∧
      (s.image (imgId c.sqe)).staged = none ∧ (s.image (imgId c.sqe)).current ≠ 0 ∧ s.imageUsed (imgId c.sqe) = false) ∧
    (∃ (s : State) (r : Nat) (c : Cmd) (io : HostIo),
    s.takes r 0x3B c ∧ imgIdOk (imgId c.sqe) = true ∧ (s.firn.loads.any (·.image == imgId c.sqe)) = true) :=
  ⟨⟨{ on with firn := { loads := [{ cmd := 0, image := 1, kind := 0, pref := 0, timeoutMs := 1, ver := { digest := [], pref := 0, layers := 1, bytes := 0 } }] } },
      { cmd := 0, image := 1, kind := 0, pref := 0, timeoutMs := 1, ver := { digest := [], pref := 0, layers := 1, bytes := 0 } },
      by decide +kernel⟩,
   ⟨withCmd on (admin 0x38 [(32, 4, 1), (12, 8, 4096), (20, 4, 256)]), 0, (admin 0x38 [(32, 4, 1), (12, 8, 4096), (20, 4, 256)]),
      { data := bytes 256 [(0, 4, 0x4D495856), (4, 2, 1), (8, 4, 1), (12, 4, 1), (16, 4, 1), (24, 8, 4096), (32, 8, 256), (144, 4, 4096), (214, 1, 1), (216, 4, 1), (220, 4, 1), (232, 8, 1), (240, 8, 1)] },
      _, takes_of (by decide +kernel), by decide +kernel, by decide +kernel, by decide +kernel, by decide +kernel,
      by decide +kernel, some_of (by decide +kernel), by decide +kernel⟩,
   ⟨withCmd ({ on with firn := { images := [(1, { state := 3 })] } }) (admin 0x38 [(32, 4, 1)]), 0, (admin 0x38 [(32, 4, 1)]), {},
      takes_of (by decide +kernel), by decide +kernel, by decide +kernel, by decide +kernel⟩,
   ⟨withCmd ({ on with firn := { images := [(1, { staged := some (1, { digest := [], pref := 0, layers := 1, bytes := 0 }) })] } }) (admin 0x39 [(32,
      4, 1)]), 0, (admin 0x39 [(32, 4, 1)]), {}, _, takes_of (by decide +kernel), by decide +kernel, some_of (by decide +kernel)⟩,
   ⟨withCmd on (admin 0x39 [(32, 4, 1)]), 0, (admin 0x39 [(32, 4, 1)]), {}, takes_of (by decide +kernel), by decide +kernel,
      by decide +kernel⟩,
   ⟨withCmd ({ on with firn := { images := [(1, { state := 3 })] } }) (admin 0x3A [(32, 4, 1), (12, 8, 4096), (20, 4, 256)]), 0,
      (admin 0x3A [(32, 4, 1), (12, 8, 4096), (20, 4, 256)]),
      { data := bytes 256 [(0, 4, 0x4D495856), (4, 2, 1), (8, 4, 1), (12, 4, 1), (16, 4, 1), (24, 8, 4096), (32, 8, 256), (144, 4, 4096), (214, 1, 1), (216, 4, 1), (220, 4, 1), (232, 8, 1), (240, 8, 1)] },
      _, takes_of (by decide +kernel), by decide +kernel, by decide +kernel, by decide +kernel, by decide +kernel,
      by decide +kernel, some_of (by decide +kernel), by decide +kernel⟩,
   ⟨withCmd ({ on with firn := { images := [(1, { state := 3, current := 1 })] } }) (admin 0x3B [(32, 4, 1)]), 0, (admin 0x3B [(32,
      4, 1)]), {}, takes_of (by decide +kernel), by decide +kernel, by decide +kernel, by decide +kernel, by decide +kernel,
      by decide +kernel⟩,
   ⟨withCmd ({ on with firn := { loads := [{ cmd := 0, image := 1, kind := 0, pref := 0, timeoutMs := 1, ver := { digest := [], pref := 0, layers := 1, bytes := 0 } }] } }) (admin 0x3B [(32,
      4, 1)]), 0, (admin 0x3B [(32, 4, 1)]), {}, takes_of (by decide +kernel), by decide +kernel, by decide +kernel⟩⟩

/-- The hypotheses of ImageLoading are met. -/
theorem test_hyps_imageLoading :
    (∃ (s : State) (l : _) (rest : _),
    s.firn.loads = l :: rest ∧ l.begun = false ∧ s.firnRuns = true) ∧
    (∃ (s : State) (l : _) (rest : _) (st : Status) (c : _),
    s.firn.loads = l :: rest ∧ l.begun = false ∧ s.firnRuns = true ∧ s.loadTurn l = .fail st ∧ tget? s.cmds l.cmd = some c ∧
      c.decided = none) ∧
    (∃ (s : State) (i : _) (l : _) (x : _) (b : _),
    s.loadShard i = some (l, x) ∧ x.inFlight = true ∧ s.firnRuns = true ∧ sha384 (padTo x.length b) = x.digest) ∧
    (∃ (s : State) (i : _) (l : _) (x : _) (b : _),
    s.loadShard i = some (l, x) ∧ x.inFlight = true ∧ s.firnRuns = true ∧ sha384 (padTo x.length b) ≠ x.digest ∧ x.badDigests < 3) ∧
    (∃ (s : State) (i : _) (l : _) (x : _) (resp : HostResp),
    s.loadShard i = some (l, x) ∧ x.inFlight = true ∧ s.firnRuns = true ∧ resp ≠ .ok) ∧
    (∃ (s : State) (i : _) (l : _) (x : _) (t0 : _),
    s.loadShard i = some (l, x) ∧ x.retryAt = some t0 ∧ t0 < x.firstRead.getD 0 + l.timeoutNs ∧ s.firnRuns = true) ∧
    (∃ (s : State) (i : _) (l : _) (x : _) (c : _),
    s.loadShard i = some (l, x) ∧ x.retryAt.isSome = true ∧ s.firnRuns = true ∧ tget? s.cmds l.cmd = some c ∧ c.decided = none) ∧
    (∃ (s : State) (l : _) (rest : _) (c : _) (io : HostIo),
    s.firn.loads = l :: rest ∧ l.begun = true ∧ s.firn.loadState = 2 ∧ s.firnRuns = true ∧ tget? s.cmds l.cmd = some c ∧
      c.decided = none ∧ sha384 (l.ver.shards.flatMap (·.data)) = l.ver.digest ∧ io.write = .ok) ∧
    (∃ (s : State) (l : _) (rest : _) (c : _),
    s.firn.loads = l :: rest ∧ l.begun = true ∧ s.firn.loadState = 2 ∧ s.firnRuns = true ∧ tget? s.cmds l.cmd = some c ∧
      c.decided = none ∧ sha384 (l.ver.shards.flatMap (·.data)) ≠ l.ver.digest) :=
  ⟨⟨{ on with firn := { loads := [{ cmd := 0, image := 1, kind := 0, pref := 0, timeoutMs := 1, ver := { digest := [], pref := 0, layers := 1, bytes := 0 } }] } },
      _, _, rfl, by decide +kernel, by decide +kernel⟩,
   ⟨{ on with firn := { loads := [{ cmd := 0, image := 1, pref := 0, timeoutMs := 1, ver := { digest := [], pref := 0, layers := 1, bytes := 0 }, kind := 1 }] }, cmds := [(0, { q := 0, fn := 0, gen := 0, sqe := [], stage := .running })] },
      _, _, .imageNotStaged, _, rfl, by decide +kernel, by decide +kernel, by decide +kernel, some_of (by decide +kernel),
      by decide +kernel⟩,
   ⟨{ on with firn := { loads := [{ cmd := 0, image := 1, kind := 0, pref := 0, timeoutMs := 1, ver := { digest := [], pref := 0, layers := 1, bytes := 0, shards := [{ addr := 0, offset := 0, length := 0, digest := sha384 [], inFlight := true }] }, begun := true }], loadState := 1 } },
      0, _, _, [], some2_of (by decide +kernel), by decide +kernel, by decide +kernel, by decide +kernel⟩,
   ⟨{ on with firn := { loads := [{ cmd := 0, image := 1, kind := 0, pref := 0, timeoutMs := 1, ver := { digest := [], pref := 0, layers := 1, bytes := 0, shards := [{ addr := 0, offset := 0, length := 0, digest := [], inFlight := true }] }, begun := true }], loadState := 1 } },
      0, _, _, [], some2_of (by decide +kernel), by decide +kernel, by decide +kernel, by decide +kernel, by decide +kernel⟩,
   ⟨{ on with firn := { loads := [{ cmd := 0, image := 1, kind := 0, pref := 0, timeoutMs := 1, ver := { digest := [], pref := 0, layers := 1, bytes := 0, shards := [{ addr := 0, offset := 0, length := 0, digest := [], inFlight := true }] }, begun := true }], loadState := 1 } },
      0, _, _, .ur, some2_of (by decide +kernel), by decide +kernel, by decide +kernel, by decide +kernel⟩,
   ⟨{ on with firn := { loads := [{ cmd := 0, image := 1, kind := 0, pref := 0, timeoutMs := 1, ver := { digest := [], pref := 0, layers := 1, bytes := 0, shards := [{ addr := 0, offset := 0, length := 0, digest := [], retryAt := some 0 }] }, begun := true }], loadState := 1 } },
      0, _, _, _, some2_of (by decide +kernel), some_of (by decide +kernel), by decide +kernel, by decide +kernel⟩,
   ⟨{ on with firn := { loads := [{ cmd := 0, image := 1, kind := 0, pref := 0, timeoutMs := 1, ver := { digest := [], pref := 0, layers := 1, bytes := 0, shards := [{ addr := 0, offset := 0, length := 0, digest := [], retryAt := some 0 }] }, begun := true }], loadState := 1 }, cmds := [(0, { q := 0, fn := 0, gen := 0, sqe := [], stage := .running })] },
      0, _, _, _, some2_of (by decide +kernel), by decide +kernel, by decide +kernel, some_of (by decide +kernel),
      by decide +kernel⟩,
   ⟨{ on with firn := { loads := [{ cmd := 0, image := 1, kind := 0, pref := 0, timeoutMs := 1, ver := { digest := sha384 [], pref := 0, layers := 1, bytes := 0 }, begun := true }], loadState := 2 }, cmds := [(0, { q := 0, fn := 0, gen := 0, sqe := [], stage := .running })] },
      _, _, _, {}, rfl, by decide +kernel, by decide +kernel, by decide +kernel, some_of (by decide +kernel), by decide +kernel,
      by decide +kernel, by decide +kernel⟩,
   ⟨{ on with firn := { loads := [{ cmd := 0, image := 1, kind := 0, pref := 0, timeoutMs := 1, ver := { digest := [], pref := 0, layers := 1, bytes := 0 }, begun := true }], loadState := 2 }, cmds := [(0, { q := 0, fn := 0, gen := 0, sqe := [], stage := .running })] },
      _, _, _, rfl, by decide +kernel, by decide +kernel, by decide +kernel, some_of (by decide +kernel), by decide +kernel,
      by decide +kernel⟩⟩

/-- The hypotheses of VariantCommands are met. -/
theorem test_hyps_variantCommands :
    (∃ (s : State) (r : Nat) (c : Cmd) (io : HostIo) (d : _) (a : _) (x : _) (clear : _) (u : _) (c1 : _),
    s.takes r 0x40 c ∧ s.registerCheck c = none ∧ admDataAddr c.sqe ≠ 0 ∧ io.read = .ok ∧ io.write = .ok ∧
      varDesc (padTo (admDataLen c.sqe) io.data) (admDataLen c.sqe) (s.layersOf (fld c.sqe 36 4)) false = some d ∧ d.inHost = true ∧
      s.storageCheck c.fn d.alloc (fld c.sqe 34 2) (layoutOf d.entries d.trainable d.saveBytes).2.2 = none ∧
      tget? s.allocs d.alloc = some a ∧ s.ctxOf c.fn (fld c.sqe 32 2) = some x ∧ tfree s.silt.variants 1 ≤ 65536 ∧
      s.unwrap (fld c.sqe 34 2) (fld c.sqe 36 4) (adapterBytes d.entries) (padTo d.len (io.data.drop (admDataLen c.sqe))) = .ok clear ∧
      u = ((s.begun r).hostRead c.fn (admDataAddr c.sqe) (admDataLen c.sqe)).hostRead c.fn d.addr d.len ∧
      tget? (u.loadAdapter r c a { fn := c.fn, image := fld c.sqe 36 4, key := fld c.sqe 34 2, alloc := d.alloc, trainable := d.trainable, saveBytes := d.saveBytes, entries := d.entries } clear).cmds r = some c1 ∧
      c1.decided = none) ∧
    (∃ (s : State) (r : Nat) (c : Cmd) (io : HostIo) (v : _),
    s.takes r 0x41 c ∧ s.variantOfFn c.fn (fld c.sqe 32 4) = some v ∧ v.torn = false ∧ v.sealed = true) ∧
    (∃ (s : State) (r : Nat) (c : Cmd) (io : HostIo) (v : _),
    s.takes r 0x41 c ∧ s.variantOfFn c.fn (fld c.sqe 32 4) = some v ∧ v.torn = false ∧ v.sealed = false) ∧
    (∃ (s : State) (r : Nat) (c : Cmd) (io : HostIo) (v : _),
    s.takes r 0x42 c ∧ s.variantOfFn c.fn (fld c.sqe 32 4) = some v ∧ v.torn = false ∧ v.sealCmds = [] ∧
      (tany s.pools fun _ p => p.variant == fld c.sqe 32 4) = false ∧ admDataAddr c.sqe ≠ 0 ∧ io.read = .ok ∧
      48 ≤ admDataLen c.sqe ∧ fld (padTo (admDataLen c.sqe) io.data) 4 4 = 0 ∧
      s.tokenOk (fld c.sqe 32 4) v (padTo (admDataLen c.sqe) io.data) = true) ∧
    (∃ (s : State) (r : Nat) (c : Cmd) (io : HostIo) (v : _),
    s.takes r 0x43 c ∧ s.variantOfFn c.fn (fld c.sqe 32 4) = some v ∧ v.sealed = true) ∧
    (∃ (s : State) (r : Nat) (c : Cmd) (io : HostIo) (v : _) (d : _),
    s.takes r 0x43 c ∧ s.variantOfFn c.fn (fld c.sqe 32 4) = some v ∧ v.sealed = false ∧ v.changer = none ∧ v.torn = false ∧
      (s.begun r).variantUsed (fld c.sqe 32 4) (fun _ => true) = false ∧ admDataAddr c.sqe ≠ 0 ∧ io.read = .ok ∧
      varDesc (padTo (admDataLen c.sqe) io.data) (admDataLen c.sqe) (s.layersOf v.image) true = some d ∧ s.updateOk v d = true ∧
      d.len = 0) ∧
    (∃ (s : State) (r : Nat) (c : Cmd) (io : HostIo) (v : _),
    s.takes r 0x44 c ∧ s.variantOfFn c.fn (fld c.sqe 32 4) = some v ∧ v.changer = none ∧ v.sealCmds = [] ∧
      (s.begun r).variantUsed (fld c.sqe 32 4) (fun _ => true) = false) ∧
    (∃ (s : State) (r : Nat) (c : Cmd) (v : _),
    s.takes r 0x44 c ∧ s.variantOfFn c.fn (fld c.sqe 32 4) = some v ∧ v.changer = none ∧
      (s.begun r).variantUsed (fld c.sqe 32 4) (fun _ => true) = true ∧ bit (fld c.sqe 36 1) 0 = false) ∧
    (∃ (s : State) (r : Nat) (c : Cmd) (v : _),
    s.waitingCmd r 0x44 = some c ∧ tget? s.silt.variants (fld c.sqe 32 4) = some v ∧ v.changer = some r ∧ v.sealCmds = [] ∧
      s.variantUsed (fld c.sqe 32 4) (fun _ => true) = false) ∧
    (∃ (s : State) (r : Nat) (c : Cmd) (id : _) (v : _),
    tget? s.silt.variants id = some v ∧ v.sealCmds = [r] ∧ v.changer = none ∧ s.tarnRuns = true ∧
      s.variantUsed id (·.opcode == 0x81) = false ∧ tget? s.cmds r = some c ∧ c.decided = none) :=
  ⟨⟨withCmd ({ onMem with firn := images, kao := keyed, ctxs := [(1, { fn := 0, clusters := 1, image := 1 })], allocs := [(1, { fn := 0, size := 2097152, tier := 0, prot := 0, key := 16, frames := [(0, 0)] })], esk := { frames := [(0, { prot := 0, key := 16 })] } }) (admin 0x40 [(32,
      2, 1), (34, 2, 16), (36, 4, 1), (12, 8, 4096), (20, 4, 96)]), 0, (admin 0x40 [(32, 2, 1), (34, 2, 16), (36, 4, 1), (12, 8,
      4096), (20, 4, 96)]), { data := varBytes 208 ++ wrapped }, _, _, _, unwrapped, _, _, takes_of (by decide +kernel),
      by decide +kernel, by decide +kernel, by decide +kernel, by decide +kernel, some_of (by decide +kernel), by decide +kernel,
      by decide +kernel, some_of (by decide +kernel), some_of (by decide +kernel), by decide +kernel,
      unwrap_wrapped rfl (by decide +kernel) (by decide +kernel) (wrapped_drop (by decide +kernel) (by decide +kernel)), rfl,
      some_of (by decide +kernel), by decide +kernel⟩,
   ⟨withCmd ({ on with silt := { variants := [(1, { adapted with sealed := true })] } }) (admin 0x41 [(32, 4, 1)]), 0,
      (admin 0x41 [(32, 4, 1)]), {}, _, takes_of (by decide +kernel), some_of (by decide +kernel), by decide +kernel,
      by decide +kernel⟩,
   ⟨withCmd ({ on with silt := { variants := [(1, adapted)] } }) (admin 0x41 [(32, 4, 1)]), 0, (admin 0x41 [(32, 4, 1)]), {}, _,
      takes_of (by decide +kernel), some_of (by decide +kernel), by decide +kernel, by decide +kernel⟩,
   ⟨withCmd ({ on with silt := { variants := [(1, { adapted with sealed := true })] }, kao := keyed }) (admin 0x42 [(32, 4, 1), (12,
      8, 4096), (20, 4, 48)]), 0, (admin 0x42 [(32, 4, 1), (12, 8, 4096), (20, 4, 48)]), { data := token }, _,
      takes_of (by decide +kernel), some_of (by decide +kernel), by decide +kernel, by decide +kernel, by decide +kernel,
      by decide +kernel, by decide +kernel, by decide +kernel, by decide +kernel, by decide +kernel⟩,
   ⟨withCmd ({ on with silt := { variants := [(1, { adapted with sealed := true })] } }) (admin 0x43 [(32, 4, 1)]), 0,
      (admin 0x43 [(32, 4, 1)]), {}, _, takes_of (by decide +kernel), some_of (by decide +kernel), by decide +kernel⟩,
   ⟨withCmd ({ on with silt := { variants := [(1, adapted)] }, firn := images, allocs := [(1, { fn := 0, size := 2097152, tier := 0, prot := 0, key := 16, frames := [(0, 0)] })] }) (admin 0x43 [(32,
      4, 1), (12, 8, 4096), (20, 4, 96)]), 0, (admin 0x43 [(32, 4, 1), (12, 8, 4096), (20, 4, 96)]), { data := varBytes 0 }, _, _,
      takes_of (by decide +kernel), some_of (by decide +kernel), by decide +kernel, by decide +kernel, by decide +kernel,
      by decide +kernel, by decide +kernel, by decide +kernel, some_of (by decide +kernel), by decide +kernel, by decide +kernel⟩,
   ⟨withCmd ({ on with silt := { variants := [(1, adapted)] } }) (admin 0x44 [(32, 4, 1)]), 0, (admin 0x44 [(32, 4, 1)]), {}, _,
      takes_of (by decide +kernel), some_of (by decide +kernel), by decide +kernel, by decide +kernel, by decide +kernel⟩,
   ⟨{ { on with silt := { variants := [(1, adapted)] } } with cmds := [(0, (admin 0x44 [(32, 4, 1)])), (1, { q := 1, fn := 0, gen := 0, sqe := [], variants := [{ id := 1, rev := 1, digestRev := 1, digest := [] }] })] },
      0, (admin 0x44 [(32, 4, 1)]), _, takes_of (by decide +kernel), some_of (by decide +kernel), by decide +kernel,
      by decide +kernel, by decide +kernel⟩,
   ⟨withCmd ({ on with silt := { variants := [(1, { adapted with changer := some 0 })] } }) { admin 0x44 [(32, 4, 1)] with stage := .running, parked := true },
      0, { admin 0x44 [(32, 4, 1)] with stage := .running, parked := true }, _, by decide +kernel, some_of (by decide +kernel),
      by decide +kernel, by decide +kernel, by decide +kernel⟩,
   ⟨withCmd ({ on with silt := { variants := [(1, { adapted with sealCmds := [0] })] } }) { q := 0, fn := 0, gen := 0, sqe := [], stage := .running },
      0, { q := 0, fn := 0, gen := 0, sqe := [], stage := .running }, 1, _, some_of (by decide +kernel), by decide +kernel,
      by decide +kernel, by decide +kernel, by decide +kernel, by decide +kernel, by decide +kernel⟩⟩

/-- The hypotheses of UnsealBusyUnderPool are met. -/
theorem test_hyps_unsealBusyUnderPool :
    (∃ (s : State) (r : Nat) (c : Cmd) (io : HostIo) (v : Variant),
    s.takes r 0x42 c ∧ s.variantOfFn c.fn (fld c.sqe 32 4) = some v ∧ v.torn = false ∧ (∃ k p, (k, p) ∈ s.pools ∧
      p.variant = fld c.sqe 32 4)) :=
  ⟨withCmd ({ on with silt := { variants := [(1, { adapted with sealed := true })] }, pools := [(1, { fn := 0, variant := 1, image := 1, imageVer := 1, arith := 0, quantumUs := 0, cls := 0 })] }) (admin 0x42 [(32,
      4, 1)]), 0, (admin 0x42 [(32, 4, 1)]), {}, _, takes_of (by decide +kernel), some_of (by decide +kernel), by decide +kernel,
      ⟨1, _, List.mem_singleton_self _, rfl⟩⟩

/-- The hypotheses of GraphCommands are met. -/
theorem test_hyps_graphCommands :
    (∃ (s : State) (r : Nat) (c : Cmd) (io : HostIo) (b : _) (nodes : _) (ix : _) (g : _),
    s.takes r 0x48 c ∧ fld c.sqe 32 1 ≤ 1 ∧ admDataAddr c.sqe ≠ 0 ∧ io.read = .ok ∧ io.write = .ok ∧
      b = padTo (admDataLen c.sqe) io.data ∧ imageHeadOk b (fld c.sqe 32 1) = true ∧ s.capPresent (fld b 12 4) = true ∧
      s.imageNodes b = some nodes ∧
      ix = freeIndex ((s.graphs.filter (·.fn == c.fn)).map (·.index)) ((s.graphs.filter (·.fn == c.fn)).map (·.index)).length 1 ∧
      ix ≤ 16383 ∧ g = newGraph c.fn (fld c.sqe 32 1) ix (fld b 12 4) nodes ∧ storeUsed (g :: s.graphs) ≤ s.storeBytes) ∧
    (∃ (s : State) (r : Nat) (c : Cmd) (io : HostIo) (b : _) (g : _) (p : _) (nodes : _),
    s.takes r 0x49 c ∧ s.graphOf c.fn (fld c.sqe 32 4) = some g ∧ fld c.sqe 36 2 = g.current ∧ g.live < 4 ∧ admDataAddr c.sqe ≠ 0 ∧
      io.read = .ok ∧ io.write = .ok ∧ b = padTo (admDataLen c.sqe) io.data ∧ imageHeadOk b 2 = true ∧ fld b 12 4 = g.cap ∧
      s.imageNodes b = some p ∧ patchNodes g.nodes p = some nodes ∧ storeUsed (s.graphs.map fun x => if x.fn = g.fn ∧
      x.index = g.index then { g with versions := tset g.versions (freshVersion (tkeys g.versions) g.versions.length g.current) nodes } else x) ≤ s.storeBytes) ∧
    (∃ (s : State) (r : Nat) (c : Cmd) (io : HostIo) (g : _),
    s.takes r 0x49 c ∧ s.graphOf c.fn (fld c.sqe 32 4) = some g ∧ fld c.sqe 36 2 ≠ g.current) ∧
    (∃ (s : State) (r : Nat) (c : Cmd) (io : HostIo) (g : _),
    s.takes r 0x4A c ∧ s.graphOf c.fn (fld c.sqe 32 4) = some g) ∧
    (∃ (s : State) (r : Nat) (c : Cmd) (io : HostIo),
    s.takes r 0x4A c ∧ s.graphOf c.fn (fld c.sqe 32 4) = none) :=
  ⟨⟨withCmd onTop (admin 0x48 [(12, 8, 4096), (20, 4, 136)]), 0, (admin 0x48 [(12, 8, 4096), (20, 4, 136)]),
      { data := graphBytes 0 }, _, _, _, _, takes_of (by decide +kernel), by decide +kernel, by decide +kernel, by decide +kernel,
      by decide +kernel, rfl, by decide +kernel, by decide +kernel, some_of (by decide +kernel), rfl, by decide +kernel, rfl,
      by decide +kernel⟩,
   ⟨withCmd ({ onTop with graphs := [{ fn := 0, kind := 0, index := 1, cap := 0, versions := [(1, [node])] }] }) (admin 0x49 [(32,
      4, 1), (36, 2, 1), (12, 8, 4096), (20, 4, 136)]), 0, (admin 0x49 [(32, 4, 1), (36, 2, 1), (12, 8, 4096), (20, 4, 136)]),
      { data := graphBytes 2 }, _, _, _, _, takes_of (by decide +kernel), some_of (by decide +kernel), by decide +kernel,
      by decide +kernel, by decide +kernel, by decide +kernel, by decide +kernel, rfl, by decide +kernel, by decide +kernel,
      some_of (by decide +kernel), some_of (by decide +kernel), by decide +kernel⟩,
   ⟨withCmd ({ onTop with graphs := [{ fn := 0, kind := 0, index := 1, cap := 0, versions := [(1, [node])] }] }) (admin 0x49 [(32,
      4, 1), (36, 2, 2)]), 0, (admin 0x49 [(32, 4, 1), (36, 2, 2)]), {}, _, takes_of (by decide +kernel),
      some_of (by decide +kernel), by decide +kernel⟩,
   ⟨withCmd ({ onTop with graphs := [{ fn := 0, kind := 0, index := 1, cap := 0, versions := [(1, [node])] }] }) (admin 0x4A [(32,
      4, 1)]), 0, (admin 0x4A [(32, 4, 1)]), {}, _, takes_of (by decide +kernel), some_of (by decide +kernel)⟩,
   ⟨withCmd on (admin 0x4A [(32, 4, 1)]), 0, (admin 0x4A [(32, 4, 1)]), {}, takes_of (by decide +kernel), by decide +kernel⟩⟩

/-- The hypotheses of LedgerCommands are met. -/
theorem test_hyps_ledgerCommands :
    (∃ (s : State) (r : Nat) (c : Cmd) (io : HostIo) (f : _) (l : _),
    s.takes r 0x50 c ∧ namedFn c (fld c.sqe 44 2) = some f ∧ admDataAddr c.sqe ≠ 0 ∧ 1 ≤ fld c.sqe 40 4 ∧ fld c.sqe 40 4 ≤ 65536 ∧
      fld c.sqe 40 4 * 256 ≤ admDataLen c.sqe ∧ io.write = .ok ∧
      l = ((s.heldReceipts f).filter fun x => decide (fld c.sqe 32 8 ≤ x.1)).take (fld c.sqe 40 4)) ∧
    (∃ (s : State) (r : Nat) (c : Cmd) (io : HostIo) (f : _),
    s.takes r 0x51 c ∧ namedFn c (fld c.sqe 32 2) = some f ∧ admDataAddr c.sqe ≠ 0 ∧ 256 ≤ admDataLen c.sqe ∧
      (s.ledg.queue.any fun x => x.fn == f && bit x.flags 0) = false) ∧
    (∃ (s : State) (r : Nat) (c : Cmd) (io : HostIo) (f : _),
    s.takes r 0x51 c ∧ namedFn c (fld c.sqe 32 2) = some f ∧ admDataAddr c.sqe ≠ 0 ∧ 256 ≤ admDataLen c.sqe ∧
      (s.ledg.queue.any fun x => x.fn == f && bit x.flags 0) = true) ∧
    (∃ (s : State) (r : Nat) (c : Cmd) (io : HostIo) (k : _) (rest : _) (m : _),
    s.ledg.queue = k :: rest ∧ s.tarnRuns = true ∧ s.pwr.cut = false ∧ k.cmd = some r ∧ tget? s.cmds r = some m ∧ m.decided = none ∧
      io.write = .ok) ∧
    (∃ (s : State) (r : Nat) (c : Cmd) (x : _) (rest : _),
    s.ledg.buffer = x :: rest ∧ s.stagesRun = true ∧ s.engDown 0x0E00 = false ∧ Memory.wf s.mem = true ∧ x.fn < 4096) :=
  ⟨⟨withCmd on (admin 0x50 [(12, 8, 4096), (20, 4, 256), (40, 4, 1)]), 0, (admin 0x50 [(12, 8, 4096), (20, 4, 256), (40, 4, 1)]),
      {}, 0, _, takes_of (by decide +kernel), by decide +kernel, by decide +kernel, by decide +kernel, by decide +kernel,
      by decide +kernel, by decide +kernel, rfl⟩,
   ⟨withCmd on (admin 0x51 [(12, 8, 4096), (20, 4, 256)]), 0, (admin 0x51 [(12, 8, 4096), (20, 4, 256)]), {}, 0,
      takes_of (by decide +kernel), by decide +kernel, by decide +kernel, by decide +kernel, by decide +kernel⟩,
   ⟨withCmd ({ on with ledg := { queue := [{ fn := 0, seq := 0, digest := [], time := 0, flags := 1 }] } }) (admin 0x51 [(12, 8,
      4096), (20, 4, 256)]), 0, (admin 0x51 [(12, 8, 4096), (20, 4, 256)]), {}, 0, takes_of (by decide +kernel), by decide +kernel,
      by decide +kernel, by decide +kernel, by decide +kernel⟩,
   ⟨withCmd ({ on with ledg := { queue := [{ fn := 0, seq := 0, digest := [], time := 0, cmd := some 0 }] } }) { q := 0, fn := 0, gen := 0, sqe := [], stage := .running },
      0, { q := 0, fn := 0, gen := 0, sqe := [], stage := .running }, {}, _, _, _, rfl, by decide +kernel, by decide +kernel,
      by decide +kernel, some_of (by decide +kernel), by decide +kernel, by decide +kernel⟩,
   ⟨{ withCmd on (admin 0x50 []) with ledg := { buffer := [{}] } }, 0, (admin 0x50 []), _, _, rfl, by decide +kernel,
      by decide +kernel, by decide +kernel, by decide +kernel⟩⟩

/-- The hypotheses of PoolCommands are met. -/
theorem test_hyps_poolCommands :
    (∃ (s : State) (r : Nat) (c : Cmd) (io : HostIo) (v : _) (p : _),
    s.takes r 0x58 c ∧ arithFieldsOk (fld c.sqe 36 4) = true ∧ arithFormatsOk (fld c.sqe 36 4) = true ∧ fld c.sqe 44 1 ≤ 2 ∧
      s.variantOfFn c.fn (fld c.sqe 32 4) = some v ∧ v.torn = false ∧ v.sealed = true ∧ (s.image v.image).current ≠ 0 ∧
      tfree s.pools 1 ≤ 1023 ∧ io.write = .ok ∧
      p = ({ fn := c.fn, variant := fld c.sqe 32 4, image := v.image, imageVer := (s.image v.image).current, arith := fld c.sqe 36 4, quantumUs := fld c.sqe 40 4, cls := fld c.sqe 44 1 } : Pool)) ∧
    (∃ (s : State) (r : Nat) (c : Cmd) (io : HostIo) (v : _),
    s.takes r 0x58 c ∧ arithFieldsOk (fld c.sqe 36 4) = true ∧ arithFormatsOk (fld c.sqe 36 4) = true ∧ fld c.sqe 44 1 ≤ 2 ∧
      s.variantOfFn c.fn (fld c.sqe 32 4) = some v ∧ v.torn = false ∧ v.sealed = false ∧ (s.image v.image).current ≠ 0) ∧
    (∃ (s : State) (r : Nat) (c : Cmd) (io : HostIo) (y : _) (z : _),
    s.takes r 0x59 c ∧ s.poolOf c.fn (fld c.sqe 32 2) = some y ∧ s.ctxOf c.fn (fld c.sqe 34 2) = some z ∧
      (z.image ≠ y.image ∨ (s.begun r).formatClash (fld c.sqe 32 2) z = true)) ∧
    (∃ (s : State) (r : Nat) (c : Cmd) (io : HostIo) (y : _) (z : _),
    s.takes r 0x59 c ∧ s.poolOf c.fn (fld c.sqe 32 2) = some y ∧ s.ctxOf c.fn (fld c.sqe 34 2) = some z ∧ z.image = y.image ∧
      (s.begun r).formatClash (fld c.sqe 32 2) z = false ∧ z.pool = 0 ∧ (s.begun r).ctxBusy (fld c.sqe 34 2) = false) ∧
    (∃ (s : State) (r : Nat) (c : Cmd) (io : HostIo) (y : _) (z : _),
    s.takes r 0x5A c ∧ s.poolOf c.fn (fld c.sqe 32 2) = some y ∧ s.ctxOf c.fn (fld c.sqe 34 2) = some z ∧ z.pool ≠ fld c.sqe 32 2) ∧
    (∃ (s : State) (r : Nat) (c : Cmd) (io : HostIo) (y : _) (z : _),
    s.takes r 0x5A c ∧ s.poolOf c.fn (fld c.sqe 32 2) = some y ∧ s.ctxOf c.fn (fld c.sqe 34 2) = some z ∧ z.pool = fld c.sqe 32 2 ∧
      (s.begun r).ctxBusy (fld c.sqe 34 2) = false) ∧
    (∃ (s : State) (r : Nat) (c : Cmd) (io : HostIo) (y : _),
    s.takes r 0x5B c ∧ s.poolOf c.fn (fld c.sqe 32 2) = some y ∧ (tany s.ctxs fun _ z => z.pool == fld c.sqe 32 2) = true) ∧
    (∃ (s : State) (r : Nat) (c : Cmd) (io : HostIo) (y : _),
    s.takes r 0x5B c ∧ s.poolOf c.fn (fld c.sqe 32 2) = some y ∧ (tany s.ctxs fun _ z => z.pool == fld c.sqe 32 2) = false) :=
  ⟨⟨withCmd ({ on with silt := { variants := [(1, { adapted with sealed := true })] }, firn := images }) (admin 0x58 [(32, 4, 1),
      (36, 4, 0x11)]), 0, (admin 0x58 [(32, 4, 1), (36, 4, 0x11)]), {}, _, _, takes_of (by decide +kernel), by decide +kernel,
      by decide +kernel, by decide +kernel, some_of (by decide +kernel), by decide +kernel, by decide +kernel, by decide +kernel,
      by decide +kernel, by decide +kernel, rfl⟩,
   ⟨withCmd ({ on with silt := { variants := [(1, adapted)] }, firn := images }) (admin 0x58 [(32, 4, 1), (36, 4, 0x11)]), 0,
      (admin 0x58 [(32, 4, 1), (36, 4, 0x11)]), {}, _, takes_of (by decide +kernel), by decide +kernel, by decide +kernel,
      by decide +kernel, some_of (by decide +kernel), by decide +kernel, by decide +kernel, by decide +kernel⟩,
   ⟨withCmd ({ on with pools := [(1, { fn := 0, variant := 1, image := 1, imageVer := 1, arith := 0, quantumUs := 0, cls := 0 })], ctxs := [(1, { fn := 0, clusters := 1, image := 2 })] }) (admin 0x59 [(32,
      2, 1), (34, 2, 1)]), 0, (admin 0x59 [(32, 2, 1), (34, 2, 1)]), {}, _, _, takes_of (by decide +kernel),
      some_of (by decide +kernel), some_of (by decide +kernel), by decide +kernel⟩,
   ⟨withCmd ({ on with pools := [(1, { fn := 0, variant := 1, image := 1, imageVer := 1, arith := 0, quantumUs := 0, cls := 0 })], ctxs := [(1, { fn := 0, clusters := 1, image := 1 })] }) (admin 0x59 [(32,
      2, 1), (34, 2, 1)]), 0, (admin 0x59 [(32, 2, 1), (34, 2, 1)]), {}, _, _, takes_of (by decide +kernel),
      some_of (by decide +kernel), some_of (by decide +kernel), by decide +kernel, by decide +kernel, by decide +kernel,
      by decide +kernel⟩,
   ⟨withCmd ({ on with pools := [(1, { fn := 0, variant := 1, image := 1, imageVer := 1, arith := 0, quantumUs := 0, cls := 0 })], ctxs := [(1, { fn := 0, clusters := 1, image := 1 })] }) (admin 0x5A [(32,
      2, 1), (34, 2, 1)]), 0, (admin 0x5A [(32, 2, 1), (34, 2, 1)]), {}, _, _, takes_of (by decide +kernel),
      some_of (by decide +kernel), some_of (by decide +kernel), by decide +kernel⟩,
   ⟨withCmd ({ on with pools := [(1, { fn := 0, variant := 1, image := 1, imageVer := 1, arith := 0, quantumUs := 0, cls := 0 })], ctxs := [(1, { fn := 0, clusters := 1, image := 1, pool := 1 })] }) (admin 0x5A [(32,
      2, 1), (34, 2, 1)]), 0, (admin 0x5A [(32, 2, 1), (34, 2, 1)]), {}, _, _, takes_of (by decide +kernel),
      some_of (by decide +kernel), some_of (by decide +kernel), by decide +kernel, by decide +kernel⟩,
   ⟨withCmd ({ on with pools := [(1, { fn := 0, variant := 1, image := 1, imageVer := 1, arith := 0, quantumUs := 0, cls := 0 })], ctxs := [(1, { fn := 0, clusters := 1, image := 1, pool := 1 })] }) (admin 0x5B [(32,
      2, 1)]), 0, (admin 0x5B [(32, 2, 1)]), {}, _, takes_of (by decide +kernel), some_of (by decide +kernel), by decide +kernel⟩,
   ⟨withCmd ({ on with pools := [(1, { fn := 0, variant := 1, image := 1, imageVer := 1, arith := 0, quantumUs := 0, cls := 0 })], ctxs := [(1, { fn := 0, clusters := 1, image := 1 })] }) (admin 0x5B [(32,
      2, 1)]), 0, (admin 0x5B [(32, 2, 1)]), {}, _, takes_of (by decide +kernel), some_of (by decide +kernel), by decide +kernel⟩⟩

/-- The hypotheses of PoolCommandsComplete are met. -/
theorem test_hyps_poolCommandsComplete :
    (∃ (s : State) (r : Nat) (c : Cmd) (io : HostIo) (v : _) (id : _) (ver : _) (b : _),
    s.takes r 0x58 c ∧ arithFieldsOk (fld c.sqe 36 4) = true ∧ arithFormatsOk (fld c.sqe 36 4) = true ∧ fld c.sqe 44 1 ≤ 2 ∧
      s.variantOfFn c.fn (fld c.sqe 32 4) = some v ∧ v.torn = false ∧ v.sealed = true ∧ ver = (s.image v.image).current ∧ ver ≠ 0 ∧
      id = tfree s.pools 1 ∧ id ≤ 1023 ∧ io.write = .ok ∧ b = leBytes 2 id ++ leBytes 2 ver) ∧
    (∃ (s : State) (r : Nat) (c : Cmd) (io : HostIo) (y : _) (z : _),
    s.takes r 0x59 c ∧ s.poolOf c.fn (fld c.sqe 32 2) = some y ∧ s.ctxOf c.fn (fld c.sqe 34 2) = some z ∧ z.image = y.image ∧
      (s.begun r).formatClash (fld c.sqe 32 2) z = false ∧ z.pool = 0 ∧ (s.begun r).ctxBusy (fld c.sqe 34 2) = false) ∧
    (∃ (s : State) (r : Nat) (c : Cmd) (io : HostIo) (y : _) (z : _),
    s.takes r 0x5A c ∧ s.poolOf c.fn (fld c.sqe 32 2) = some y ∧ s.ctxOf c.fn (fld c.sqe 34 2) = some z ∧ z.pool = fld c.sqe 32 2 ∧
      (s.begun r).ctxBusy (fld c.sqe 34 2) = false) ∧
    (∃ (s : State) (r : Nat) (c : Cmd) (io : HostIo) (y : _),
    s.takes r 0x5B c ∧ s.poolOf c.fn (fld c.sqe 32 2) = some y ∧ (tany s.ctxs fun _ z => z.pool == fld c.sqe 32 2) = false) ∧
    (∃ (s : State) (v : _) (k : _) (u : _),
    s.reachable = true ∧ s.noHalf 0 ∧ v % 2 ^ 64 % frameBytes = 0 ∧ s.chooseChunks 1 [] = some [k] ∧
      s.takeChunks { prot := 0, key := kvKey } [(k, v % 2 ^ 64)] = some u) :=
  ⟨⟨withCmd ({ on with silt := { variants := [(1, { adapted with sealed := true })] }, firn := images }) (admin 0x58 [(32, 4, 1),
      (36, 4, 0x11)]), 0, (admin 0x58 [(32, 4, 1), (36, 4, 0x11)]), {}, _, _, 1, _, takes_of (by decide +kernel), by decide +kernel,
      by decide +kernel, by decide +kernel, some_of (by decide +kernel), by decide +kernel, by decide +kernel, by decide +kernel,
      by decide +kernel, rfl, by decide +kernel, by decide +kernel, rfl⟩,
   ⟨withCmd ({ on with pools := [(1, { fn := 0, variant := 1, image := 1, imageVer := 1, arith := 0, quantumUs := 0, cls := 0 })], ctxs := [(1, { fn := 0, clusters := 1, image := 1 })] }) (admin 0x59 [(32,
      2, 1), (34, 2, 1)]), 0, (admin 0x59 [(32, 2, 1), (34, 2, 1)]), {}, _, _, takes_of (by decide +kernel),
      some_of (by decide +kernel), some_of (by decide +kernel), by decide +kernel, by decide +kernel, by decide +kernel,
      by decide +kernel⟩,
   ⟨withCmd ({ on with pools := [(1, { fn := 0, variant := 1, image := 1, imageVer := 1, arith := 0, quantumUs := 0, cls := 0 })], ctxs := [(1, { fn := 0, clusters := 1, image := 1, pool := 1 })] }) (admin 0x5A [(32,
      2, 1), (34, 2, 1)]), 0, (admin 0x5A [(32, 2, 1), (34, 2, 1)]), {}, _, _, takes_of (by decide +kernel),
      some_of (by decide +kernel), some_of (by decide +kernel), by decide +kernel, by decide +kernel⟩,
   ⟨withCmd ({ on with pools := [(1, { fn := 0, variant := 1, image := 1, imageVer := 1, arith := 0, quantumUs := 0, cls := 0 })], ctxs := [(1, { fn := 0, clusters := 1, image := 1 })] }) (admin 0x5B [(32,
      2, 1)]), 0, (admin 0x5B [(32, 2, 1)]), {}, _, takes_of (by decide +kernel), some_of (by decide +kernel), by decide +kernel⟩,
   ⟨onMem, 2097152, 0, _, by decide +kernel, noHalf_of (by decide +kernel), by decide +kernel, by decide +kernel,
      some_of (by decide +kernel)⟩⟩

/-- The hypotheses of WorkCommands are met. -/
theorem test_hyps_workCommands :
    (∃ (s : State) (r : Nat) (c : Cmd) (i : Instr) (opc : _),
    ((i = .inferStep r ∧ opc = 0x80) ∨ (i = .trainStep r ∧ opc = 0x81) ∨ (i = .graphLaunch r ∧ opc = 0x82) ∨ (i = .kernelLaunch r ∧
      opc = 0x83)) ∧ s.ioCmd r opc = some c) ∧
    (∃ (s : State) (r : Nat) (c : Cmd) (x : _) (l : _) (va : _),
    s.ioCmd r 0x84 = some c ∧ tget? s.ctxs c.ctx = some x ∧ (s.crevAny fun v => v.unsettled && v.stuck.contains r) = false ∧
      l = ([⟨5, ioBufAddr c.sqe 5, fld c.sqe 40 8, 1⟩, ⟨6, ioBufAddr c.sqe 6, fld c.sqe 40 8, 2⟩] : List VaSpan) ∧
      (s.checkSpans c x 0x0700 l).1 = .rights va) ∧
    (∃ (s : State) (r : Nat) (c : Cmd) (x : _) (l : _) (k : _) (u : _) (y : _) (c1 : _),
    s.ioCmd r 0x84 = some c ∧ tget? s.ctxs c.ctx = some x ∧ (s.crevAny fun v => v.unsettled && v.stuck.contains r) = false ∧
      l = ([⟨5, ioBufAddr c.sqe 5, fld c.sqe 40 8, 1⟩, ⟨6, ioBufAddr c.sqe 6, fld c.sqe 40 8, 2⟩] : List VaSpan) ∧
      k = s.checkSpans c x 0x0700 l ∧ k.1 = .ok ∧ u = s.modCmd r (fun z => { z with descs := k.2.descs }) ∧
      u.lackReads r c (s.epochOf 0x0700) (k.2.pieces 5 (ioBufAddr c.sqe 5) (fld c.sqe 40 8)) = [] ∧
      y = (u.modCmd r fun z => { z with stage := .running, start := some (z.start.getD s.now) }).readPieces r c (s.epochOf 0x0700) (k.2.pieces 5 (ioBufAddr c.sqe 5) (fld c.sqe 40 8)) ∧
      tget? y.2.cmds r = some c1 ∧ c1.decided = none) ∧
    (∃ (s : State) (r : Nat) (c : Cmd) (x : _),
    s.ioCmd r 0x88 = some c ∧ tget? s.ctxs c.ctx = some x ∧ (s.crevAny fun v => v.unsettled && v.stuck.contains r) = false ∧
      (s.checkSpans c x 0x0700 [⟨7, ioBufAddr c.sqe 7, 8, 2⟩]).1 = .ok) ∧
    (∃ (s : State) (r : Nat) (c : Cmd),
    s.ioCmd r 0x89 = some c) ∧
    (∃ (s : State) (r : Nat) (c : Cmd),
    s.ioCmd r 0x8A = some c ∧ tget? s.snow.seqs (fld c.sqe 24 4) = none) ∧
    (∃ (s : State) (r : Nat) (c : Cmd) (q : _),
    s.ioCmd r 0x8A = some c ∧ tget? s.snow.seqs (fld c.sqe 24 4) = some q) :=
  ⟨⟨withCmd on (work 0x80 []), 0, (work 0x80 []), .inferStep 0, 0x80, .inl ⟨rfl, rfl⟩, by decide +kernel⟩,
   ⟨withCmd ({ onTop with ctxs := [(1, ctx1 (leaf true false))], esk := { frames := [(0, { prot := 1, key := 16 })] } }) { work 0x84 [(40, 8, 64)] with descs := [desc 5 1 64 (leaf true false), desc 6 2 64 (leaf true false)] },
      0, { work 0x84 [(40, 8, 64)] with descs := [desc 5 1 64 (leaf true false), desc 6 2 64 (leaf true false)] }, _, _, 0,
      by decide +kernel, some_of (by decide +kernel), by decide +kernel, rfl, by decide +kernel⟩,
   ⟨withCmd ({ onTop with ctxs := [(1, ctx1 (leaf true true))], esk := { frames := [(0, { prot := 1, key := 16 })] } }) { work 0x84 [(40, 8, 64)] with descs := [desc 5 1 64 (leaf true true), desc 6 2 64 (leaf true true)] },
      0, { work 0x84 [(40, 8, 64)] with descs := [desc 5 1 64 (leaf true true), desc 6 2 64 (leaf true true)] }, _, _, _, _, _, _,
      by decide +kernel, some_of (by decide +kernel), by decide +kernel, rfl, rfl, by decide +kernel, rfl, by decide +kernel, rfl,
      some_of (by decide +kernel), by decide +kernel⟩,
   ⟨withCmd ({ onTop with ctxs := [(1, ctx1 (leaf true true))], esk := { frames := [(0, { prot := 1, key := 16 })] } }) { work 0x88 [] with descs := [desc 7 2 8 (leaf true true)] },
      0, { work 0x88 [] with descs := [desc 7 2 8 (leaf true true)] }, _, by decide +kernel, some_of (by decide +kernel),
      by decide +kernel, by decide +kernel⟩,
   ⟨withCmd on (work 0x89 []), 0, (work 0x89 []), by decide +kernel⟩,
   ⟨withCmd on (work 0x8A []), 0, (work 0x8A []), by decide +kernel, by decide +kernel⟩,
   ⟨withCmd ({ on with snow := { seqs := [(1, { ctx := 1, fn := 1, image := 1 })] } }) (work 0x8A [(24, 4, 1)]), 0, (work 0x8A [(24,
      4, 1)]), _, by decide +kernel, some_of (by decide +kernel)⟩⟩

/-- The hypotheses of TurnCommands are met. -/
theorem test_hyps_turnCommands :
    (∃ (s : State) (u : Nat) (p : _),
    s.stagesRun = true ∧ s.unitOk u = true ∧ (s.unit u).turn = none ∧ (s.unit u).restore = none ∧ (s.unit u).framePos ≠ 0 ∧
      s.pick u = some p) ∧
    (∃ (s : State) (u : Nat) (p : _),
    s.stagesRun = true ∧ s.unitOk u = true ∧ (s.unit u).turn = none ∧ (s.unit u).restore = none ∧ (s.unit u).framePos ≠ 0 ∧
      s.pick u = some p ∧ p.who = none) ∧
    (∃ (s : State) (u : Nat) (t : _),
    s.stagesRun = true ∧ s.unitOk u = true ∧ (s.unit u).turn = some t ∧ (t.ctx = none ∨ (s.unit u).holder = t.ctx)) ∧
    (∃ (s : State) (u : Nat) (t : _) (x : _),
    s.stagesRun = true ∧ s.unitOk u = true ∧ (s.unit u).turn = some t ∧ t.ctx = some x ∧ t.pool = false ∧
      (s.unit u).holder = some x ∧ s.ctxClass x ≠ 0 ∧ s.slotsOfClass u 0 ≠ [] ∧ (s.unit u).rtNew = true) ∧
    (∃ (s : State) (u : Nat) (p : _),
    s.stagesRun = true ∧ s.unitOk u = true ∧ (s.unit u).preempt = some p ∧ p.mode = 0 ∧ p.reached = none ∧
      (s.unit u).hasCredit 0 = true) ∧
    (∃ (s : State) (u : Nat) (x : _),
    s.stagesRun = true ∧ s.unitOk u = true ∧ s.swapDue x = true) ∧
    (∃ (s : State) (u : Nat) (x : _),
    s.stagesRun = true ∧ s.unitOk u = true ∧ s.evictDue u = some x) ∧
    (∃ (s : State) (u : Nat) (x : _) (c : _) (t0 : _),
    s.stagesRun = true ∧ s.unitOk u = true ∧ tget? s.ctxs x = some c ∧ c.waitSince = some t0 ∧ c.aged = false) :=
  ⟨⟨{ issuing [leaf true true] [desc 0 1 64 (leaf true true)] with serac := { units := [(0, { unit0 none none with framePos := 1 })] } },
      0, _, by decide +kernel, by decide +kernel, by decide +kernel, by decide +kernel, by decide +kernel,
      some_of (by decide +kernel)⟩,
   ⟨{ issuing [leaf true true] [desc 0 1 64 (leaf true true)] with serac := { units := [(0, { unit0 none none with framePos := 1, reserve := 64 })] }, ctxs := [(1, { ctx1 (leaf true true) with cls := 2 })] },
      0, _, by decide +kernel, by decide +kernel, by decide +kernel, by decide +kernel, by decide +kernel,
      some_of (by decide +kernel), by decide +kernel⟩,
   ⟨withUnit onTop { turn := some { turn with ctx := none } }, 0, _, by decide +kernel, by decide +kernel,
      some_of (by decide +kernel), by decide +kernel⟩,
   ⟨{ withUnit onTop { unit0 (some turn) (some 1) with slots := [(0, 1), (1, 2)], rtNew := true, works := [{ tag := 1, cmd := 0, ctx := 2, node := 0, tile := 0 }] } with ctxs := [(1, { ctx1 (leaf true true) with cls := 2 }), (2, ctx1 (leaf true true))] },
      0, _, 1, by decide +kernel, by decide +kernel, some_of (by decide +kernel), by decide +kernel, by decide +kernel,
      by decide +kernel, by decide +kernel, by decide +kernel, by decide +kernel⟩,
   ⟨withUnit onTop { unit0 none (some 1) with preempt := some { ctx := 1, mode := 0, sentAt := 0, bound := 0 } }, 0, _,
      by decide +kernel, by decide +kernel, some_of (by decide +kernel), by decide +kernel, by decide +kernel, by decide +kernel⟩,
   ⟨{ onTop with ctxs := [(1, { ctx1 (leaf true true) with waitSince := some 0 })] }, 0, 1, by decide +kernel, by decide +kernel,
      by decide +kernel⟩,
   ⟨{ withUnit onTop { slots := (List.range 16).map fun i => (i, i + 1) } with ctxs := [(20, { ctx1 (leaf true true) with waitSince := some 0 })] },
      0, _, by decide +kernel, by decide +kernel, some_of (by decide +kernel)⟩,
   ⟨{ onTop with ctxs := [(1, { ctx1 (leaf true true) with waitSince := some 0 })] }, 0, 1, _, _, by decide +kernel,
      by decide +kernel, some_of (by decide +kernel), some_of (by decide +kernel), by decide +kernel⟩⟩

/-- The hypotheses of TilePackets are met. -/
theorem test_hyps_tilePackets :
    (∃ (s : State) (u : Nat) (p : TilePkt) (w : _) (c : _),
    s.stagesRun = true ∧ s.unitOk u = true ∧ packetSound p ∧ p.typ = 0x11 ∧ (s.unit u).works.find? (·.tag == p.tag) = some w ∧
      tget? s.cmds w.cmd = some c ∧ fld (w.got ++ p.payload) 0 4 = w.bytes ∧
      (w.got ++ p.payload).length < 16 + fld (w.got ++ p.payload) 0 4) ∧
    (∃ (s : State) (u : Nat) (p : TilePkt) (w : _) (c : _),
    s.stagesRun = true ∧ s.unitOk u = true ∧ packetSound p ∧ p.typ = 0x11 ∧ (s.unit u).works.find? (·.tag == p.tag) = some w ∧
      tget? s.cmds w.cmd = some c ∧ fld (w.got ++ p.payload) 0 4 = w.bytes ∧
      16 + fld (w.got ++ p.payload) 0 4 ≤ (w.got ++ p.payload).length) ∧
    (∃ (s : State) (u : Nat) (p : TilePkt) (q : _),
    s.stagesRun = true ∧ s.unitOk u = true ∧ packetSound p ∧ p.typ = 0x12 ∧
      s.cleaveOk u p.ctx (fld p.payload 6 2) (fld p.payload 4 2) (fld p.payload 8 8) = true ∧ (s.unit u).preempt = some q ∧
      q.ctx = p.ctx ∧ q.mode ≠ 2 ∧ q.reached = none) ∧
    (∃ (s : State) (u : Nat) (p : TilePkt) (q : _),
    s.stagesRun = true ∧ s.unitOk u = true ∧ packetSound p ∧ p.typ = 0x11 ∧ (s.unit u).preempt = some q ∧ q.mode ≠ 2 ∧
      q.ctx = p.ctx ∧ p.index = q.seq ∧ fld p.payload 8 4 = (p.payload.drop 16).length ∧
      q.bytes + (p.payload.drop 16).length ≤ s.saveLimit u q) ∧
    (∃ (s : State) (u : Nat) (p : TilePkt) (q : _),
    s.stagesRun = true ∧ s.unitOk u = true ∧ packetSound p ∧ p.typ = 0x12 ∧ (s.unit u).preempt = some q ∧ q.ctx = p.ctx ∧
      q.mode ≠ 2 ∧ fld p.payload 0 1 ≠ 2 ∧ q.endOk (s.fullSave u) p.index p.payload = true) ∧
    (∃ (s : State) (u : Nat) (p : TilePkt),
    s.stagesRun = true ∧ s.unitOk u = true ∧ packetSound p ∧ p.typ = 0x13 ∧ fld p.payload 3 1 = 1) ∧
    (∃ (s : State) (u : Nat) (p : TilePkt) (w : _),
    s.stagesRun = true ∧ s.unitOk u = true ∧ packetSound p ∧ p.typ = 0x13 ∧ fld p.payload 3 1 = 0 ∧
      (s.unit u).works.find? (·.tag == p.tag) = some w) :=
  ⟨⟨{ withUnit onTop { unit0 (some turn) (some 1) with works := [{ tag := 1, cmd := 0, ctx := 1, node := 0, tile := 0, out := [.clip 8] }] } with cmds := [(0, stepCmd [])] },
      0, { typ := 0x11, ctx := 1, tag := 1, payload := bytes 16 [(0, 4, 8)] },
      { tag := 1, cmd := 0, ctx := 1, node := 0, tile := 0, out := [.clip 8] }, stepCmd [], by decide +kernel, by decide +kernel,
      sound_of rfl, by decide +kernel, by decide +kernel, by decide +kernel, by decide +kernel, by decide +kernel⟩,
   ⟨{ withUnit onTop { unit0 (some turn) (some 1) with works := [{ tag := 1, cmd := 0, ctx := 1, node := 0, tile := 0, out := [.clip 8] }] } with cmds := [(0, stepCmd [])] },
      0, { typ := 0x11, ctx := 1, tag := 1, payload := bytes 24 [(0, 4, 8)] },
      { tag := 1, cmd := 0, ctx := 1, node := 0, tile := 0, out := [.clip 8] }, stepCmd [], by decide +kernel, by decide +kernel,
      sound_of rfl, by decide +kernel, by decide +kernel, by decide +kernel, by decide +kernel, by decide +kernel⟩,
   ⟨withUnit onTop { unit0 none (some 1) with preempt := some { ctx := 1, mode := 1, sentAt := 0, bound := 0 } }, 0,
      { typ := 0x12, ctx := 1, payload := bytes 16 [(4, 2, 0xFFFF)] }, _, by decide +kernel, by decide +kernel, sound_of rfl,
      by decide +kernel, by decide +kernel, some_of (by decide +kernel), by decide +kernel, by decide +kernel, by decide +kernel⟩,
   ⟨withUnit onTop { unit0 none (some 1) with preempt := some { ctx := 1, mode := 1, sentAt := 0, bound := 0, reached := some (0, 16) } },
      0, { typ := 0x11, ctx := 1, payload := bytes 32 [(8, 4, 16)] }, _, by decide +kernel, by decide +kernel, sound_of rfl,
      by decide +kernel, some_of (by decide +kernel), by decide +kernel, by decide +kernel, by decide +kernel, by decide +kernel,
      by decide +kernel⟩,
   ⟨withUnit onTop { unit0 none (some 1) with preempt := some { ctx := 1, mode := 1, sentAt := 0, bound := 0 } }, 0,
      { typ := 0x12, ctx := 1, payload := bytes 12 [(0, 1, 1)] }, _, by decide +kernel, by decide +kernel, sound_of rfl,
      by decide +kernel, some_of (by decide +kernel), by decide +kernel, by decide +kernel, by decide +kernel, by decide +kernel⟩,
   ⟨onTop, 0, { typ := 0x13, ctx := 1, payload := bytes 8 [(3, 1, 1)] }, by decide +kernel, by decide +kernel, sound_of rfl,
      by decide +kernel, by decide +kernel⟩,
   ⟨{ withUnit onTop { unit0 (some turn) (some 1) with works := [{ tag := 1, cmd := 0, ctx := 1, node := 0, tile := 0, out := [.clip 8] }] } with cmds := [(0, stepCmd [])] },
      0, { typ := 0x13, ctx := 1, tag := 1, payload := bytes 8 [] }, _, by decide +kernel, by decide +kernel, sound_of rfl,
      by decide +kernel, by decide +kernel, some_of (by decide +kernel)⟩⟩

/-- The hypotheses of PortEvents are met. -/
theorem test_hyps_portEvents :
    (∃ (s : State) (u : Nat) (l : _),
    s.stagesRun = true ∧ s.snow.passDue = true ∧ s.engDown 0x0A00 = false ∧
      l = (s.pass.cmds.filter fun e => e.2.opcode == 0x88 && e.2.stage == .running && e.2.decided.isNone && !e.2.result.isEmpty)) ∧
    (∃ (s : State) (u : Nat) (k : _) (r : _) (c : _) (t : _) (x : _) (n : _) (w : _) (d : _) (va : _),
    s.stagesRun = true ∧ s.mayIssue u = some k ∧ s.ctxParked k = false ∧ s.nextTile k u = some (r, c, t) ∧ tget? s.ctxs k = some x ∧
      tileAt (s.nodesOf c) t = some (n, w) ∧ w.writesTable c = false ∧ s.checkSpans c x (seracEngine u) (w.vaSpans c) = d ∧
      d.1 = .missing va) ∧
    (∃ (s : State) (u : Nat) (k : _) (r : _) (c : _) (t : _) (x : _) (n : _) (w : _) (d : _) (va : _),
    s.stagesRun = true ∧ s.mayIssue u = some k ∧ s.ctxParked k = false ∧ s.nextTile k u = some (r, c, t) ∧ tget? s.ctxs k = some x ∧
      tileAt (s.nodesOf c) t = some (n, w) ∧ w.writesTable c = false ∧ s.checkSpans c x (seracEngine u) (w.vaSpans c) = d ∧
      d.1 = .rights va) ∧
    (∃ (s : State) (u : Nat) (k : _) (r : _) (c : _) (t : _) (x : _) (n : _) (w : _) (d : _) (v : _) (ins : _) (y : _) (c1 : _),
    s.stagesRun = true ∧ s.mayIssue u = some k ∧ s.ctxParked k = false ∧ s.nextTile k u = some (r, c, t) ∧ tget? s.ctxs k = some x ∧
      tileAt (s.nodesOf c) t = some (n, w) ∧ w.writesTable c = false ∧ s.checkSpans c x (seracEngine u) (w.vaSpans c) = d ∧
      d.1 = .ok ∧ v = (s.modCmd r fun z => { z with descs := d.2.descs }) ∧
      ins = ((w.spans.filter fun z => bit z.access 0).flatMap fun z => v.spanPieces d.2 z) ∧
      v.lackReads r d.2 (v.epochOf (seracEngine u)) ins = [] ∧ (v.unit u).hasCredit 0 = true ∧
      y = (v.modCmd r fun z => { z with descs := v.kvRefresh z w }).readPieces r d.2 (v.epochOf (seracEngine u)) ins ∧
      tget? y.2.cmds r = some c1 ∧ c1.decided = none) ∧
    (∃ (s : State) (u : Nat) (r : _) (t : _),
    s.stagesRun = true ∧ s.crevReady = r :: t) ∧
    (∃ (s : State) (u : Nat),
    s.stagesRun = true ∧ s.unitOk u = true ∧ s.engDown 0x0800 = false) ∧
    (∃ (s : State) (k : _) (w : _) (x : _) (l : _),
    s.stagesRun = true ∧ tget? s.esk.walks k = some w ∧ s.engDown (0x0600 + k) = false ∧ tget? s.ctxs w.ctx = some x ∧
      x.badAt w.va 1 = false ∧ s.walkStale w x = false ∧ leafAt x.leaves w.va = some l) ∧
    (∃ (s : State) (k : _) (w : _) (x : _) (lv : _) (n : _),
    s.stagesRun = true ∧ tget? s.esk.walks k = some w ∧ s.engDown (0x0600 + k) = false ∧ tget? s.ctxs w.ctx = some x ∧
      w.cmd = none ∧ n = tableSpan (min lv (walkDepth x.leaves w.va))) ∧
    (∃ (s : State) (u : Nat) (r : _),
    s.stagesRun = true ∧ s.unitOk u = true ∧ (s.unit u).restore = some r) ∧
    (∃ (s : State) (u : Nat) (cls : _) (n : _),
    s.stagesRun = true ∧ cls < 4 ∧ s.present u = true ∧ (s.eng (seracEngine u)).fenced = false ∧ n ≠ 0 ∧ (s.unit u).turn = none ∧
      (s.unit u).rstAt = none ∧ (s.unit u).itemsAhead = 0) ∧
    (∃ (s : State) (u : Nat) (cls : _) (n : _),
    s.stagesRun = true ∧ cls < 4 ∧ s.present u = true ∧ (s.eng (seracEngine u)).fenced = false ∧ n ≠ 0 ∧ s.unitOk u = true ∧
      (s.unit u).up.getD cls 0 + n ≤ upMax.getD cls 0) ∧
    (∃ (s : State) (u : Nat) (j : _) (w : _) (i : _) (more : _) (k : Option Nat),
    s.stagesRun = true ∧ (s.unit u).nextStream = some (j, w) ∧ w.items = i :: more ∧ w.ahead = 0 ∧ s.repairMet u w = none ∧
      s.corruptMet u w k = none ∧ s.unitOk u = true ∧ s.meltServes u = true ∧ s.engDown 0x0900 = false ∧
      s.stageRoom u (i.payload w.pass w.imageVer).length = true ∧ (s.unit u).hasCredit 1 = true ∧ (s.unit u).itemsAhead = 0 ∧
      (∀ l x y, i ≠ .layerEnd l x y)) ∧
    (∃ (s : State) (u : Nat) (j : _) (w : _) (i : _) (more : _) (k : Option Nat),
    s.stagesRun = true ∧ (s.unit u).nextStream = some (j, w) ∧ w.items = i :: more ∧ w.ahead = 0 ∧ s.repairMet u w = none ∧
      s.corruptMet u w k = none ∧ s.unitOk u = true ∧ s.meltServes u = true ∧ s.engDown 0x0900 = false ∧
      s.stageRoom u (i.payload w.pass w.imageVer).length = true ∧ (s.unit u).hasCredit 1 = false) ∧
    (∃ (s : State) (u : Nat) (j : _) (w : _) (i : _) (k : _) (e : _),
    s.stagesRun = true ∧ (s.unit u).nextStream = some (j, w) ∧ w.items[w.ahead]? = some i ∧ s.repairMet u w = none ∧
      s.corruptMet u w (some k) = some e ∧ s.unitOk u = true ∧ s.meltServes u = true ∧ s.engDown 0x0900 = false ∧
      s.stageRoom u (i.payload w.pass w.imageVer).length = true) :=
  ⟨⟨{ on with snow := { passDue := true } }, 0, _, by decide +kernel, by decide +kernel, by decide +kernel, rfl⟩,
   ⟨issuing [] [{ desc 0 1 64 (leaf true true) with slots := [.hole] }], 0, 1, _, _, _, _, _, _, _, 0, by decide +kernel,
      by decide +kernel, by decide +kernel, rfl, some_of (by decide +kernel), some2_of (by decide +kernel), by decide +kernel, rfl,
      by decide +kernel⟩,
   ⟨issuing [leaf false true] [desc 0 1 64 (leaf false true)], 0, 1, _, _, _, _, _, _, _, 0, by decide +kernel, by decide +kernel,
      by decide +kernel, rfl, some_of (by decide +kernel), some2_of (by decide +kernel), by decide +kernel, rfl, by decide +kernel⟩,
   ⟨issuing [leaf true true] [desc 0 1 64 (leaf true true)], 0, 1, _, _, _, _, _, _, _, _, _, _, _, by decide +kernel,
      by decide +kernel, by decide +kernel, rfl, some_of (by decide +kernel), some2_of (by decide +kernel), by decide +kernel, rfl,
      by decide +kernel, rfl, rfl, by decide +kernel, by decide +kernel, rfl, some_of (by decide +kernel), by decide +kernel⟩,
   ⟨{ on with esk := { crevWaiting := [{ ctx := 1 }] } }, 0, _, _, by decide +kernel, rfl⟩,
   ⟨onTop, 0, by decide +kernel, by decide +kernel, by decide +kernel⟩,
   ⟨{ on with esk := { walks := [(0, { ctx := 1, va := 0, epoch := 0 })] }, ctxs := [(1, ctx1 (leaf true true))] }, 0, _, _, _,
      by decide +kernel, some_of (by decide +kernel), by decide +kernel, some_of (by decide +kernel), by decide +kernel,
      by decide +kernel, some_of (by decide +kernel)⟩,
   ⟨{ on with esk := { walks := [(0, { ctx := 1, va := 0, epoch := 0 })] }, ctxs := [(1, ctx1 (leaf true true))] }, 0, _, _, 3, _,
      by decide +kernel, some_of (by decide +kernel), by decide +kernel, some_of (by decide +kernel), by decide +kernel, rfl⟩,
   ⟨withUnit onTop { unit0 none none with restore := some { ctx := 1 } }, 0, _, by decide +kernel, by decide +kernel,
      some_of (by decide +kernel)⟩,
   ⟨onTop, 0, 3, 1, by decide +kernel, by decide +kernel, by decide +kernel, by decide +kernel, by decide +kernel,
      by decide +kernel, by decide +kernel, by decide +kernel⟩,
   ⟨withUnit onTop { unit0 none none with up := [0, 0, 0, 0] }, 0, 3, 1, by decide +kernel, by decide +kernel, by decide +kernel,
      by decide +kernel, by decide +kernel, by decide +kernel, by decide +kernel⟩,
   ⟨withUnit onTop { unit0 none none with streams := [{ ctx := 1, cmd := 0, tag := 1, pass := 0, image := 1, imageVer := 1, items := [.block 0 0 0 0 1 0 [1]] }] },
      0, 0, _, _, _, none, by decide +kernel, rfl, rfl, by decide +kernel, by decide +kernel, by decide +kernel, by decide +kernel,
      by decide +kernel, by decide +kernel, by decide +kernel, by decide +kernel, by decide +kernel, fun _ _ _ h => by cases h⟩,
   ⟨withUnit onTop { unit0 none none with down := [16, 0, 16, 16], streams := [{ ctx := 1, cmd := 0, tag := 1, pass := 0, image := 1, imageVer := 1, items := [.block 0 0 0 0 1 0 [1]] }] },
      0, 0, _, _, _, none, by decide +kernel, rfl, rfl, by decide +kernel, by decide +kernel, by decide +kernel, by decide +kernel,
      by decide +kernel, by decide +kernel, by decide +kernel, by decide +kernel⟩,
   ⟨{ withUnit onTop { unit0 none none with streams := [{ ctx := 1, cmd := 0, tag := 1, pass := 0, image := 1, imageVer := 1, items := [.block 0 0 0 0 1 0 [1]] }] } with topo := laidTopo, firn := { images := [(1, { state := 3, current := 1, versions := [(1, { digest := [], pref := 0, layers := 1, bytes := 0, tensors := [{ layer := 0, index := 0, fmt := 1, backward := false, rows := 32, cols := 1, offset := 0, stored := 1, decoded := 1, board := true, data := bytes 72 [(16, 4, 1)] }] })] })] } },
      0, _, _, _, 0, _, by decide +kernel, some2_of (by decide +kernel), some_of (by decide +kernel), by decide +kernel,
      some_of (by decide +kernel), by decide +kernel, by decide +kernel, by decide +kernel, by decide +kernel⟩⟩

/-- The hypotheses of TapsAndTraining are met. -/
theorem test_hyps_tapsAndTraining :
    (∃ (s : State) (u : Nat) (p : TilePkt),
    s.stagesRun = true ∧ s.unitOk u = true ∧ packetSound p ∧ p.typ = 0x11 ∧ tget? s.silt.partials u = none ∧
      (s.silt.taps.any fun y => y.port == u && y.tag == p.index) = false ∧ 32 ≤ p.payload.length ∧
      p.payload.length < 32 + fld p.payload 24 4) ∧
    (∃ (s : State) (u : Nat) (p : TilePkt),
    s.stagesRun = true ∧ s.unitOk u = true ∧ packetSound p ∧ p.typ = 0x11 ∧ tget? s.silt.partials u = none ∧
      (s.silt.taps.any fun y => y.port == u && y.tag == p.index) = false ∧ 32 + fld p.payload 24 4 ≤ p.payload.length) ∧
    (∃ (s : State) (u : Nat) (e : _) (x : _) (rest : _),
    s.stagesRun = true ∧ s.unitOk u = true ∧ (s.siltEng e).fetches = x :: rest ∧ s.siltOk e = true ∧ s.sliceBad x = false) ∧
    (∃ (s : State) (u : Nat) (tag : _) (t : _),
    s.stagesRun = true ∧ s.unitOk u = true ∧ s.silt.taps.find? (fun t => t.port == u && t.tag == tag) = some t ∧ t.null = true ∧
      (s.unit u).hasCredit 2 = true) ∧
    (∃ (s : State) (u : Nat) (tag : _) (t : _) (c : _) (e : _),
    s.stagesRun = true ∧ s.unitOk u = true ∧ s.silt.taps.find? (fun t => t.port == u && t.tag == tag) = some t ∧ t.null = false ∧
      tget? s.cmds t.cmd = some c ∧ s.tapReady t c = true ∧ s.tapEngine t c = some e ∧ (s.unit u).hasCredit 2 = true) ∧
    (∃ (s : State) (u : Nat) (r : _) (c : _) (x : _) (d : _) (v : _) (y : _) (c1 : _),
    s.stagesRun = true ∧ s.unitOk u = true ∧ tget? s.cmds r = some c ∧ c.opcode = 0x81 ∧ c.stage = .running ∧ c.live = true ∧
      c.updating = false ∧ c.waitProv = false ∧ s.workDone r c = true ∧ tget? s.ctxs c.ctx = some x ∧
      (s.crevAny fun v => v.unsettled && v.stuck.contains r) = false ∧ s.checkSpans c x 0x0700 [⟨3, ioBufAddr c.sqe 3, 32, 1⟩] = d ∧
      d.1 = .ok ∧ v = (s.modCmd r fun z => { z with descs := d.2.descs }) ∧
      v.lackReads r c (s.epochOf 0x0700) (d.2.pieces 3 (ioBufAddr c.sqe 3) 32) = [] ∧
      y = v.readPieces r c (s.epochOf 0x0700) (d.2.pieces 3 (ioBufAddr c.sqe 3) 32) ∧ tget? y.2.cmds r = some c1 ∧
      c1.decided = none) ∧
    (∃ (s : State) (u : Nat) (r : _) (c : _),
    s.stagesRun = true ∧ s.unitOk u = true ∧ tget? s.cmds r = some c ∧ c.updating = true ∧ c.decided = none ∧ ((∀ x,
      tget? s.ctxs c.ctx = some x → x.resetting = false))) :=
  ⟨⟨onTop, 0, { typ := 0x11, ctx := 1, payload := bytes 32 [(24, 4, 64)] }, by decide +kernel, by decide +kernel, sound_of rfl,
      by decide +kernel, by decide +kernel, by decide +kernel, by decide +kernel, by decide +kernel⟩,
   ⟨onTop, 0, { typ := 0x11, ctx := 1, payload := bytes 32 [] }, by decide +kernel, by decide +kernel, sound_of rfl,
      by decide +kernel, by decide +kernel, by decide +kernel, by decide +kernel⟩,
   ⟨{ onTop with silt := { engines := [(0, { fetches := [{ variant := 0, layer := 0, site := 0, kind := 0, index := 0, bytes := 0 }] })] } },
      0, 0, _, _, by decide +kernel, by decide +kernel, rfl, by decide +kernel, by decide +kernel⟩,
   ⟨{ withUnit onTop (unit0 none none) with silt := { taps := [{ port := 0, tag := 0, ctx := 1, wtag := 0, cmd := 0, phase := 0, site := 0, layer := 0, first := 0, tokens := 0, ansFirst := 0, ansCount := 0, scale := 0, fmt := 0, data := [], null := true }] } },
      0, 0, _, by decide +kernel, by decide +kernel, some_of (by decide +kernel), by decide +kernel, by decide +kernel⟩,
   ⟨{ withUnit onTop (unit0 none none) with silt := { taps := [{ port := 0, tag := 0, ctx := 1, wtag := 0, cmd := 0, phase := 0, site := 0, layer := 0, first := 0, tokens := 0, ansFirst := 0, ansCount := 0, scale := 0, fmt := 0, data := [] }] }, cmds := [(0, stepCmd [])] },
      0, 0, _, _, _, by decide +kernel, by decide +kernel, some_of (by decide +kernel), by decide +kernel,
      some_of (by decide +kernel), by decide +kernel, some_of (by decide +kernel), by decide +kernel⟩,
   ⟨{ onTop with cmds := [(0, { work 0x81 [(20, 4, 1)] with stage := .running, graphVer := 1, descs := [desc 3 1 32 (leaf true true)] })], ctxs := [(1, ctx1 (leaf true true))], esk := { frames := [(0, { prot := 1, key := 16 })] } },
      0, 0, _, _, _, _, _, _, by decide +kernel, by decide +kernel, some_of (by decide +kernel), by decide +kernel,
      by decide +kernel, by decide +kernel, by decide +kernel, by decide +kernel, by decide +kernel, rfl, rfl, rfl,
      by decide +kernel, rfl, by decide +kernel, rfl, some_of (by decide +kernel), by decide +kernel⟩,
   ⟨{ onTop with cmds := [(0, { work 0x81 [(20, 4, 1)] with stage := .running, graphVer := 1, descs := [], updating := true })] },
      0, 0, _, by decide +kernel, by decide +kernel, some_of (by decide +kernel), by decide +kernel, by decide +kernel,
      fun _ h => by cases h⟩⟩

/-- The hypotheses of MemoryPorts are met. -/
theorem test_hyps_memoryPorts :
    (∃ (s : State) (q : MemReq) (b : Blob),
    s.stagesRun = true ∧ reqFormed q = true ∧ reqParts q = [q] ∧ s.requestWaits q = false ∧ q.write = some b ∧ s.portEnd q = .pass ∧
      s.verifyFirst q = [] ∧
      (if q.hot && q.ctx != 0 then s.hotCount q.tier q.offset q.epoch else s).pageBad q.tier q.offset = false ∧
      Memory.wf s.mem = true) ∧
    (∃ (s : State) (q : MemReq),
    s.stagesRun = true ∧ reqFormed q = true ∧ (reqParts q).any s.requestWaits = false) ∧
    (∃ (s : State) (q : MemReq),
    s.stagesRun = true ∧ reqFormed q = true ∧ (reqParts q).any s.requestWaits = false ∧ reqParts q = [q] ∧ s.portEnd q = .pass ∧
      q.write = none) ∧
    (∃ (s : State) (q : MemReq),
    s.stagesRun = true ∧ reqFormed q = true ∧ (reqParts q).any s.requestWaits = false ∧ reqParts q = [q] ∧ s.portEnd q = .denied ∧
      s.tierHas q.tier q.offset = true) ∧
    (∃ (s : State) (q : MemReq),
    s.stagesRun = true ∧ reqFormed q = true ∧ (reqParts q).any s.requestWaits = false ∧ reqParts q = [q] ∧ s.portEnd q = .stale ∧
      q.write = none) ∧
    (∃ (s : State) (port : Nat) (tag : Nat) (q : MemReq),
    s.stagesRun = true ∧ tget? s.glz.reads (port * 1024 + tag) = some q ∧ s.glazedPage q = none ∧ q.cmd = none) ∧
    (∃ (s : State) (key : Nat) (k : Nat) (p : Nat) (rest : List (Nat × Nat)),
    s.stagesRun = true ∧ (s.key key).walk = some ((k, p) :: rest) ∧ rest ≠ [] ∧ s.glazeHeld k p = false ∧
      (s.glz.writes.any fun w => s.glazedPage w.req == some (k, p)) = false) ∧
    (∃ (s : State) (level : Nat) (pos : Nat),
    s.stagesRun = true ∧ s.varve.isDirty level pos = true ∧ s.varve.lastWrite.find? (·.1 == (level, pos)) = none) ∧
    (∃ (s : State),
    s.stagesRun = true) ∧
    (∃ (s : State) (u : State) (f : Nat) (frame : Nat) (dest : Nat),
    s.vx1Due f frame = true ∧ s.freeFrames 0 ≠ 0 ∧ s.frameFree 0 dest = true ∧ s.moveFrame (1, frame) (0, dest) = some u) :=
  ⟨⟨{ onMem with esk := { frames := [(0, { prot := 0, key := 16 })] } },
      { ctx := 1, offset := 0, len := 64, tier := 0, fn := 1, key := 16, prot := 0, write := some (bytes 64 []) }, (bytes 64 []),
      by decide +kernel, by decide +kernel, by decide +kernel, by decide +kernel, by decide +kernel, by decide +kernel,
      by decide +kernel, by decide +kernel, by decide +kernel⟩,
   ⟨{ onMem with esk := { frames := [(0, { prot := 0, key := 16 })] } },
      { ctx := 1, offset := 0, len := 64, tier := 0, fn := 1, key := 16, prot := 0 }, by decide +kernel, by decide +kernel,
      by decide +kernel⟩,
   ⟨{ onMem with esk := { frames := [(0, { prot := 0, key := 16 })] } },
      { ctx := 1, offset := 0, len := 64, tier := 0, fn := 1, key := 16, prot := 0 }, by decide +kernel, by decide +kernel,
      by decide +kernel, by decide +kernel, by decide +kernel, by decide +kernel⟩,
   ⟨onMem, { ctx := 1, offset := 0, len := 64, tier := 0, fn := 1, key := 16, prot := 0 }, by decide +kernel, by decide +kernel,
      by decide +kernel, by decide +kernel, by decide +kernel, by decide +kernel⟩,
   ⟨onMem, { ctx := 1, offset := 0, len := 64, tier := 0, fn := 1, key := 16, prot := 0, gen := 1 }, by decide +kernel,
      by decide +kernel, by decide +kernel, by decide +kernel, by decide +kernel, by decide +kernel⟩,
   ⟨{ onMem with glz := { reads := [(0, { ctx := 1, offset := 0, len := 64, tier := 0, fn := 1, key := 16, prot := 1 })] } }, 0, 0,
      _, by decide +kernel, some_of (by decide +kernel), by decide +kernel, by decide +kernel⟩,
   ⟨{ on with kao := { slots := [(16, { walk := some [(0, 0), (0, 1)] })] } }, 16, 0, 0, [(0, 1)], by decide +kernel,
      by decide +kernel, by decide +kernel, by decide +kernel, by decide +kernel⟩,
   ⟨{ on with varve := { dirty := [(0, 0)] } }, 0, 0, by decide +kernel, by decide +kernel, by decide +kernel⟩,
   ⟨on, by decide +kernel⟩,
   ⟨{ onMem with fns := [(0, { phase := .enabled }), (1, { vx1 := true })], cfg := { on.cfg with hotThreshold := 1 }, esk := { hot := [(0, 1)], frames := [(32, { prot := 1, key := 16 })] }, allocs := [(1, { fn := 1, size := 2097152, tier := 1, prot := 0, key := 16, frames := [(1, 0)] })] },
      _, 1, 0, 0, by decide +kernel, by decide +kernel, by decide +kernel, some_of (by decide +kernel)⟩⟩

/-- The hypotheses of VectorsAndWindows are met. -/
theorem test_hyps_vectorsAndWindows :
    (∃ (s : State) (fn : Nat),
    fn < 4096 ∧ s.configurable = true) ∧
    (∃ (s : State) (fn : Nat) (v : Nat),
    fn < 4096 ∧ v < (if fn = 0 then 256 else 8) ∧ s.reachable = true ∧ s.noHalf fn) ∧
    (∃ (s : State) (r : Nat) (w : Nat) (c : Cmd) (st : Status),
    tget? s.cmds r = some c ∧ c.decided = some st ∧ c.window = some w ∧ c.admin = false ∧ c.updating = false ∧ c.unfinished = true ∧
      s.holdsEngine r = true ∧ s.stagesRun = true) ∧
    (∃ (s : State) (r : Nat) (w : Nat) (c : Cmd) (st : Status),
    tget? s.cmds r = some c ∧ c.decided = some st ∧ c.window = some w ∧ c.admin = false ∧ c.updating = false ∧ c.unfinished = true ∧
      s.holdsEngine r = true ∧ s.stagesRun = true ∧ ((s.advanceTo w).fn c.fn).phase ≠ .resetting) ∧
    (∃ (s : State) (r : Nat) (w : Nat) (c : Cmd) (st : Status),
    tget? s.cmds r = some c ∧ c.decided = some st ∧ c.window = some w ∧ c.admin = false ∧ c.updating = false ∧ c.unfinished = true ∧
      s.holdsEngine r = true ∧ s.stagesRun = true ∧ ((s.advanceTo w).fn c.fn).phase = .resetting) ∧
    (∃ (s : State) (inv : Nat) (engine : Nat) (i : Inval),
    s.stagesRun = true ∧ invalEngines.contains engine = true ∧ s.esk.invals.find? (·.id == inv) = some i ∧
      i.acked.contains engine = false ∧ (s.eng engine).rst = none ∧ ((engine / 256 = 1 → s.tileInRange (engine % 256) i = false)) ∧
      invalEngines.all (engine :: i.acked).contains = true) ∧
    (∃ (s : State) (inv : Nat) (engine : Nat) (i : Inval),
    s.stagesRun = true ∧ invalEngines.contains engine = true ∧ s.esk.invals.find? (·.id == inv) = some i ∧
      i.acked.contains engine = false ∧ (s.eng engine).rst = none ∧ ((engine / 256 = 1 → s.tileInRange (engine % 256) i = false)) ∧
      invalEngines.all (engine :: i.acked).contains = false) :=
  ⟨⟨on, 0, by decide +kernel, by decide +kernel⟩,
   ⟨on, 0, 0, by decide +kernel, by decide +kernel, by decide +kernel, noHalf_of (by decide +kernel)⟩,
   ⟨{ onTop with serac := { units := [(0, { unit0 (some turn) (some 1) with works := [{ tag := 1, cmd := 0, ctx := 1, node := 0, tile := 0, out := [.clip 8] }] })] }, cmds := [(0, { stepCmd [] with window := some 5, decided := some .timeout, stage := .running })] },
      0, 5, _, .timeout, some_of (by decide +kernel), by decide +kernel, by decide +kernel, by decide +kernel, by decide +kernel,
      by decide +kernel, by decide +kernel, by decide +kernel⟩,
   ⟨{ onTop with serac := { units := [(0, { unit0 (some turn) (some 1) with works := [{ tag := 1, cmd := 0, ctx := 1, node := 0, tile := 0, out := [.clip 8] }] })] }, cmds := [(0, { stepCmd [] with window := some 5, decided := some .timeout, stage := .running })] },
      0, 5, _, .timeout, some_of (by decide +kernel), by decide +kernel, by decide +kernel, by decide +kernel, by decide +kernel,
      by decide +kernel, by decide +kernel, by decide +kernel, by decide +kernel⟩,
   ⟨{ onTop with serac := { units := [(0, { unit0 (some turn) (some 1) with works := [{ tag := 1, cmd := 0, ctx := 1, node := 0, tile := 0, out := [.clip 8] }] })] }, cmds := [(0, { stepCmd [] with window := some 5, decided := some .timeout, stage := .running })], fns := [(0, { phase := .enabled }), (1, { phase := .resetting })] },
      0, 5, _, .timeout, some_of (by decide +kernel), by decide +kernel, by decide +kernel, by decide +kernel, by decide +kernel,
      by decide +kernel, by decide +kernel, by decide +kernel, by decide +kernel⟩,
   ⟨{ on with esk := { invals := [{ id := 1, ctx := 1, lo := 0, hi := 4096, epoch := 0, acked := invalEngines.drop 1 }] } }, 1,
      0x0800, _, by decide +kernel, by decide +kernel, some_of (by decide +kernel), by decide +kernel, by decide +kernel,
      by decide +kernel, by decide +kernel⟩,
   ⟨{ on with esk := { invals := [{ id := 1, ctx := 1, lo := 0, hi := 4096, epoch := 0 }] } }, 1, 0x0800, _, by decide +kernel,
      by decide +kernel, some_of (by decide +kernel), by decide +kernel, by decide +kernel, by decide +kernel, by decide +kernel⟩⟩

/-- The hypotheses of LowPowerEntry are met. -/
theorem test_hyps_lowPowerEntry :
    (∃ (s : State),
    ((s.pwr.target = .freeze ∨ s.pwr.target = .permafrost)) ∧ s.stagesRun = true ∧
      (s.cmds.any fun e => e.2.opcode == 0x1D && e.2.admin) = false ∧
      (tany s.queues fun _ q => q.admin && q.fn == 0 && !q.burst.isEmpty) = false) :=
  ⟨{ on with pwr := { target := .freeze } }, by decide +kernel, by decide +kernel, by decide +kernel, by decide +kernel⟩

/-- The hypotheses of RepairEvents are met. -/
theorem test_hyps_repairEvents :
    (∃ (s : State) (p : Repair) (q : Repair),
    s.firnRuns = true ∧ s.firn.repairs.find? Repair.waitsTag = none ∧ s.firn.repairs.countP (·.started) < 8 ∧
      (s.firn.repairs.find? fun p => !p.started) = some p ∧
      q = { p with started := true, epoch := s.epochOf 0x0900, peerRec := s.peerRec p.image, peers := (maskBits 64 (match s.peerRec p.image with | some b => fld b 8 8 | none => 0)).filter (· != s.nodeId) }) ∧
    (∃ (s : State) (p : Repair),
    s.firnRuns = true ∧ s.firn.repairs.find? Repair.waitsTag = some p) ∧
    (∃ (s : State) (id : Nat) (p : Repair) (a : Nat × Nat),
    s.firnRuns = true ∧ s.firn.repairs.find? (·.id == id) = some p ∧ p.asked = some a) ∧
    (∃ (s : State) (id : Nat) (p : Repair) (resp : HostResp),
    s.firnRuns = true ∧ s.firn.repairs.find? (·.id == id) = some p ∧ p.canonical = true ∧ resp ≠ .ok) ∧
    (∃ (s : State) (id : Nat) (p : Repair) (m : Blob) (d : Blob) (b : Blob),
    s.firnRuns = true ∧ s.firn.repairs.find? (·.id == id) = some p ∧ p.canonical = true ∧
      s.fromCanonical p (padTo (p.peerRec.elim 0 fun b => fld b 24 4) m) d = some b) ∧
    (∃ (s : State) (id : Nat) (p : Repair) (ecc : Ecc),
    s.firnRuns = true ∧ s.firn.repairs.find? (·.id == id) = some p ∧ p.got.isSome = true ∧ p.moving = none ∧
      ((ecc = .clean ∨ ecc = .corrected))) ∧
    (∃ (s : State) (id : Nat) (p : Repair) (ecc : Ecc),
    s.firnRuns = true ∧ s.firn.repairs.find? (·.id == id) = some p ∧ p.got.isSome = true ∧ p.moving = none ∧
      ((ecc = .clean ∨ ecc = .corrected)) ∧ (∀ q ∈ s.firn.repairs, q.moving = none)) ∧
    (∃ (s : State) (id : Nat) (p : Repair) (ecc : Ecc) (frame : Option Nat) (bad : List (Nat × Nat)),
    s.firnRuns = true ∧ s.firn.repairs.find? (·.id == id) = some p ∧ p.got.isSome = true ∧ p.moving = none ∧
      ((ecc = .uncorrectable ∨ ecc = .poisoned)) ∧ (s.repairFrame p).any s.movesFrame = false ∧ s.beginMove p frame bad = none) ∧
    (∃ (s : State) (id : Nat) (p : Repair) (ecc : Ecc) (frame : Option Nat) (bad : List (Nat × Nat)) (u : _),
    s.firnRuns = true ∧ s.firn.repairs.find? (·.id == id) = some p ∧ p.got.isSome = true ∧ p.moving = none ∧
      ((ecc = .uncorrectable ∨ ecc = .poisoned)) ∧ (s.repairFrame p).any s.movesFrame = false ∧ s.beginMove p frame bad = some u) :=
  ⟨⟨repairing { repair with tag := 0 }, repair, _, by decide +kernel, by decide +kernel, by decide +kernel, by decide +kernel, rfl⟩,
   ⟨repairing { repair with started := true, peers := [5] }, _, by decide +kernel, some_of (by decide +kernel)⟩,
   ⟨repairing { repair with asked := some (1, 0) }, 1, _, _, by decide +kernel, some_of (by decide +kernel),
      some_of (by decide +kernel)⟩,
   ⟨repairing { repair with canonical := true }, 1, _, .ur, by decide +kernel, some_of (by decide +kernel), by decide +kernel,
      by decide +kernel⟩,
   ⟨repairing { repair with canonical := true, peerRec := some (bytes 32 [(0, 4, 1), (24, 4, 256)]) }, 1,
      { repair with canonical := true, peerRec := some (bytes 32 [(0, 4, 1), (24, 4, 256)]) }, manifest, [], _, by decide +kernel,
      by decide +kernel, by decide +kernel, some_of (by decide +kernel)⟩,
   ⟨repairing { repair with got := some [] }, 1, _, .clean, by decide +kernel, some_of (by decide +kernel), by decide +kernel,
      by decide +kernel, by decide +kernel⟩,
   ⟨repairing { repair with got := some [] }, 1, _, .clean, by decide +kernel, some_of (by decide +kernel), by decide +kernel,
      by decide +kernel, by decide +kernel, by decide +kernel⟩,
   ⟨{ onMem with firn := { repairs := [{ repair with got := some [] }] } }, 1, _, .uncorrectable, none, [], by decide +kernel,
      some_of (by decide +kernel), by decide +kernel, by decide +kernel, by decide +kernel, by decide +kernel, by decide +kernel⟩,
   ⟨repairing { repair with got := some [] }, 1, _, .uncorrectable, none, [], _, by decide +kernel, some_of (by decide +kernel),
      by decide +kernel, by decide +kernel, by decide +kernel, by decide +kernel, some_of (by decide +kernel)⟩⟩

/-- The hypotheses of FailureDetection are met. -/
theorem test_hyps_failureDetection :
    (∃ (s : State) (e : _),
    s.detects = true ∧ s.engineExists e = true) ∧
    (∃ (s : State) (e : _),
    s.stagesRun = true ∧ s.engineExists e = true) ∧
    (∃ (s : State) (u : _),
    s.tarnRuns = true ∧ s.tarn.phase ≠ 6 ∧ u = s.advanceTo (s.loess.sampledAt + 200000) ∧ (sampledEngines.any u.stalled) = false) ∧
    (∃ (s : State) (e : _) (u : _) (v : _),
    s.tarnRuns = true ∧ s.tarn.phase ≠ 6 ∧ u = s.advanceTo (s.loess.sampledAt + 200000) ∧ sampledEngines.filter u.stalled = [e] ∧
      v = { u.pulse 1 with loess := { u.loess with sampledAt := u.now } } ∧ v.stalled e = true) ∧
    (∃ (s : State),
    s.tarnRuns = true ∧ s.loess.hbStopped = false) ∧
    (∃ (s : State),
    s.tarnRuns = true ∧ s.loess.oos = false ∧ s.loess.hbLast + 300000 + (s.pwr.heldNs - s.loess.hbHeldAt) ≤ s.now) ∧
    (∃ (s : State) (e : _),
    s.loess.oos = false ∧ s.loess.halted = false ∧ s.engineExists e = true ∧ (s.eng e).fenced = false ∧ e / 256 ≠ 0x0B ∧
      e / 256 < 0x0C ∧ (s.eng e).rst = none ∧ (inDomain e && s.loess.domain.isSome) = false ∧ (s.recentResets e).length < 2) :=
  ⟨⟨on, 0x0200, by decide +kernel, by decide +kernel⟩,
   ⟨on, 0x0200, by decide +kernel, by decide +kernel⟩,
   ⟨on, _, by decide +kernel, by decide +kernel, rfl, by decide +kernel⟩,
   ⟨{ on with esk := { walks := [(0, { ctx := 1, va := 0, epoch := 0 })] }, cfg := { on.cfg with stallUs := 1 }, tarn := { phase := 1 }, now := 1000 },
      0x0600, _, _, by decide +kernel, by decide +kernel, rfl, by decide +kernel, rfl, by decide +kernel⟩,
   ⟨on, by decide +kernel, by decide +kernel⟩,
   ⟨{ on with now := 300000 }, by decide +kernel, by decide +kernel, by decide +kernel⟩,
   ⟨on, 0x0200, by decide +kernel, by decide +kernel, by decide +kernel, by decide +kernel, by decide +kernel, by decide +kernel,
      by decide +kernel, by decide +kernel, by decide +kernel⟩⟩

/-- The hypotheses of ResetDeadlines are met. -/
theorem test_hyps_resetDeadlines :
    (∃ (s : State),
    s.loess.oos = false) ∧
    (∃ (s : State),
    s.loess.oos = false) ∧
    (∃ (s : State) (e : _) (x : _),
    s.loess.oos = false ∧ (s.eng e).rst = some x ∧ s.detects = true ∧ s.now ≤ s.dueAt x ∧
      ((e / 256 = 1 → (s.unit (e % 256)).credited.length = 4))) ∧
    (∃ (s : State) (e : _) (x : _),
    s.loess.oos = false ∧ (s.eng e).rst = some x ∧ s.detects = true) ∧
    (∃ (s : State) (e : _) (x : _),
    s.loess.oos = false ∧ (s.eng e).rst = some x ∧ s.detects = true ∧ s.timeHeld = false) ∧
    (∃ (s : State) (k : _) (c : _) (t : _),
    s.loess.oos = false ∧ tget? s.ctxs k = some c ∧ c.resetting = true ∧ s.detects = true ∧ s.timeHeld = false ∧
      t = s.advanceTo (s.ctxDueAt c)) ∧
    (∃ (s : State) (k : _) (c : _) (t : _),
    s.loess.oos = false ∧ tget? s.ctxs k = some c ∧ c.resetting = true ∧ s.detects = true ∧ s.timeHeld = false ∧
      t = s.advanceTo (s.ctxDueAt c) ∧ (c.resetWait.filter fun u => !t.engDown (seracEngine u) && t.loess.domain.isNone) = []) ∧
    (∃ (s : State) (k : _) (c : _) (t : _) (u : _) (n : _),
    s.loess.oos = false ∧ tget? s.ctxs k = some c ∧ c.resetting = true ∧ s.detects = true ∧ s.timeHeld = false ∧
      t = s.advanceTo (s.ctxDueAt c) ∧ (c.resetWait.filter fun u => !t.engDown (seracEngine u) && t.loess.domain.isNone) = [u] ∧
      c.resetRecord = some n) ∧
    (∃ (s : State) (x : _),
    s.loess.oos = false ∧ s.loess.domain = some x ∧ s.detects = true ∧ s.now ≤ s.dueAt x) ∧
    (∃ (s : State) (x : _),
    s.loess.oos = false ∧ s.loess.domain = some x ∧ s.detects = true) ∧
    (∃ (s : State) (x : _),
    s.loess.oos = false ∧ s.loess.domain = some x ∧ s.detects = true ∧ s.timeHeld = false) ∧
    (∃ (s : State) (x : _),
    s.loess.oos = false ∧ s.loess.restart = some x ∧ s.stagesRun = true ∧ s.now ≤ s.dueAt x) ∧
    (∃ (s : State) (x : _),
    s.loess.oos = false ∧ s.loess.restart = some x ∧ s.stagesRun = true) :=
  ⟨⟨on, by decide +kernel⟩,
   ⟨on, by decide +kernel⟩,
   ⟨{ on with loess := { engines := [(0x0200, { rst := some { start := 0, deadline := 100000, slot := 0 } })] } }, 0x0200, _,
      by decide +kernel, some_of (by decide +kernel), by decide +kernel, by decide +kernel, by decide +kernel⟩,
   ⟨{ on with loess := { engines := [(0x0200, { rst := some { start := 0, deadline := 100000, slot := 0 } })] } }, 0x0200, _,
      by decide +kernel, some_of (by decide +kernel), by decide +kernel⟩,
   ⟨{ on with loess := { engines := [(0x0200, { rst := some { start := 0, deadline := 100000, slot := 0 } })] } }, 0x0200, _,
      by decide +kernel, some_of (by decide +kernel), by decide +kernel, by decide +kernel⟩,
   ⟨{ on with ctxs := [(1, { ctx1 (leaf true true) with resetting := true, resetWait := [], resetRecord := some 0 })] }, 1, _, _,
      by decide +kernel, some_of (by decide +kernel), by decide +kernel, by decide +kernel, by decide +kernel, rfl⟩,
   ⟨{ on with ctxs := [(1, { ctx1 (leaf true true) with resetting := true, resetWait := [], resetRecord := some 0 })] }, 1, _, _,
      by decide +kernel, some_of (by decide +kernel), by decide +kernel, by decide +kernel, by decide +kernel, rfl,
      by decide +kernel⟩,
   ⟨{ on with ctxs := [(1, { ctx1 (leaf true true) with resetting := true, resetWait := [0], resetRecord := some 0 })] }, 1, _, _,
      0, _, by decide +kernel, some_of (by decide +kernel), by decide +kernel, by decide +kernel, by decide +kernel, rfl,
      by decide +kernel, some_of (by decide +kernel)⟩,
   ⟨{ on with loess := { domain := some { start := 0, deadline := 100000, slot := 0 } } }, _, by decide +kernel,
      some_of (by decide +kernel), by decide +kernel, by decide +kernel⟩,
   ⟨{ on with loess := { domain := some { start := 0, deadline := 100000, slot := 0 } } }, _, by decide +kernel,
      some_of (by decide +kernel), by decide +kernel⟩,
   ⟨{ on with loess := { domain := some { start := 0, deadline := 100000, slot := 0 } } }, _, by decide +kernel,
      some_of (by decide +kernel), by decide +kernel, by decide +kernel⟩,
   ⟨{ on with loess := { restart := some { start := 0, deadline := 100000, slot := 0 } } }, _, by decide +kernel,
      some_of (by decide +kernel), by decide +kernel, by decide +kernel⟩,
   ⟨{ on with loess := { restart := some { start := 0, deadline := 100000, slot := 0 } } }, _, by decide +kernel,
      some_of (by decide +kernel), by decide +kernel⟩⟩

/-- The hypotheses of BlockResetClearsFences are met. -/
theorem test_hyps_blockResetClearsFences :
    (∃ (ns : Nat),
    5 ≤ ns) :=
  ⟨5, by decide +kernel⟩

/-- The hypotheses of RemoteMessages are met. -/
theorem test_hyps_remoteMessages :
    (∃ (s : State) (link : Nat) (m : FloeMsg),
    s.linkUpNow link = true ∧ m.dst = s.nodeId ∧ msgOk m 0x01 = true) ∧
    (∃ (s : State) (link : Nat) (m : FloeMsg),
    s.linkUpNow link = true ∧ m.dst = s.nodeId ∧ msgOk m 0x02 = true) ∧
    (∃ (s : State) (link : Nat) (m : FloeMsg),
    s.linkUpNow link = true ∧ m.dst = s.nodeId ∧ msgOk m 0x03 = true) ∧
    (∃ (s : State) (link : Nat) (m : FloeMsg) (x : _) (r : _),
    s.linkUpNow link = true ∧ m.dst = s.nodeId ∧ tget? s.floe.remotes m.tag = some x ∧ x.hold = false ∧ x.q.node = m.src ∧
      msgOk m 0x11 = true ∧ x.q.write = none ∧ m.status = 0 ∧ x.q.cmd = some r) ∧
    (∃ (s : State) (link : Nat) (m : FloeMsg) (x : _),
    s.linkUpNow link = true ∧ m.dst = s.nodeId ∧ tget? s.floe.remotes m.tag = some x ∧ x.hold = false ∧ x.q.node = m.src ∧
      msgOk m 0x12 = true ∧ x.q.write.isSome = true ∧ m.status = 0) ∧
    (∃ (s : State) (link : Nat) (m : FloeMsg) (x : _),
    s.linkUpNow link = true ∧ m.dst = s.nodeId ∧ tget? s.floe.remotes m.tag = some x ∧ x.hold = false ∧ x.q.node = m.src ∧
      msgOk m 0x12 = true ∧ x.q.write.isSome = true ∧ m.status ≠ 0) ∧
    (∃ (s : State) (link : Nat) (m : FloeMsg) (x : _),
    s.linkUpNow link = true ∧ m.dst = s.nodeId ∧ tget? s.floe.remotes m.tag = some x ∧ x.hold = false ∧ x.q.node = m.src ∧
      msgOk m 0x11 = true ∧ x.q.write = none ∧ m.status ≠ 0) ∧
    (∃ (s : State) (link : Nat) (m : FloeMsg),
    s.linkUpNow link = true ∧ m.dst = s.nodeId ∧ tget? s.floe.remotes m.tag = none ∧ msgOk m 0x11 = true) ∧
    (∃ (s : State) (link : Nat) (m : FloeMsg),
    s.linkUpNow link = true ∧ m.dst = s.nodeId ∧ tget? s.floe.remotes m.tag = none ∧ msgOk m 0x12 = true) ∧
    (∃ (s : State) (link : Nat) (m : FloeMsg) (p : _),
    s.linkUpNow link = true ∧ m.dst = s.nodeId ∧
      s.firn.repairs.find? (fun p => p.tag == m.tag && p.asked.any fun a => a.1 == m.src) = some p ∧ msgOk m 0x13 = true ∧
      m.status = 0) ∧
    (∃ (s : State) (link : Nat) (m : FloeMsg) (p : _),
    s.linkUpNow link = true ∧ m.dst = s.nodeId ∧
      s.firn.repairs.find? (fun p => p.tag == m.tag && p.asked.any fun a => a.1 == m.src) = some p ∧ msgOk m 0x13 = true ∧
      m.status ≠ 0) :=
  ⟨⟨{ onMem with floe := { links := [(0, { st := .up, reason := 0 })], remotes := [], rings := [] } }, 0,
      { typ := 0x01, body := leBytes 4 64, tag := 0 }, by decide +kernel, by decide +kernel, by decide +kernel⟩,
   ⟨{ onMem with floe := { links := [(0, { st := .up, reason := 0 })], remotes := [], rings := [] } }, 0,
      { typ := 0x02, body := bytes 64 [], tag := 0 }, by decide +kernel, by decide +kernel, by decide +kernel⟩,
   ⟨{ onMem with floe := { links := [(0, { st := .up, reason := 0 })], remotes := [], rings := [] } }, 0,
      { typ := 0x03, body := bytes 60 [], tag := 0 }, by decide +kernel, by decide +kernel, by decide +kernel⟩,
   ⟨{ onMem with floe := { links := [(0, { st := .up, reason := 0 })], remotes := [(0, { q := { fn := 1, cmd := some 0, node := 0 }, deadline := 100 })], rings := [] } },
      0, { typ := 0x11, body := bytes 64 [], tag := 0 }, _, _, by decide +kernel, by decide +kernel, some_of (by decide +kernel),
      by decide +kernel, by decide +kernel, by decide +kernel, by decide +kernel, by decide +kernel, some_of (by decide +kernel)⟩,
   ⟨{ onMem with floe := { links := [(0, { st := .up, reason := 0 })], remotes := [(0, { q := { fn := 1, cmd := some 0, node := 0, write := some (bytes 64 []) }, deadline := 100 })], rings := [] } },
      0, { typ := 0x12, body := [], tag := 0 }, _, by decide +kernel, by decide +kernel, some_of (by decide +kernel),
      by decide +kernel, by decide +kernel, by decide +kernel, by decide +kernel, by decide +kernel⟩,
   ⟨{ onMem with floe := { links := [(0, { st := .up, reason := 0 })], remotes := [(0, { q := { fn := 1, cmd := some 0, node := 0, write := some (bytes 64 []) }, deadline := 100 })], rings := [] } },
      0, { typ := 0x12, body := [], status := 3 }, _, by decide +kernel, by decide +kernel, some_of (by decide +kernel),
      by decide +kernel, by decide +kernel, by decide +kernel, by decide +kernel, by decide +kernel⟩,
   ⟨{ onMem with floe := { links := [(0, { st := .up, reason := 0 })], remotes := [(0, { q := { fn := 1, cmd := some 0, node := 0 }, deadline := 100 })], rings := [] } },
      0, { typ := 0x11, body := [], status := 3 }, _, by decide +kernel, by decide +kernel, some_of (by decide +kernel),
      by decide +kernel, by decide +kernel, by decide +kernel, by decide +kernel, by decide +kernel⟩,
   ⟨{ onMem with floe := { links := [(0, { st := .up, reason := 0 })], remotes := [], rings := [] } }, 0,
      { typ := 0x11, body := bytes 64 [], tag := 0 }, by decide +kernel, by decide +kernel, by decide +kernel, by decide +kernel⟩,
   ⟨{ onMem with floe := { links := [(0, { st := .up, reason := 0 })], remotes := [], rings := [] } }, 0,
      { typ := 0x12, body := [], tag := 0 }, by decide +kernel, by decide +kernel, by decide +kernel, by decide +kernel⟩,
   ⟨{ onMem with floe := { links := [(0, { st := .up, reason := 0 })], remotes := [], rings := [] }, firn := { repairs := [{ repair with asked := some (0, 0) }] } },
      0, { typ := 0x13, body := bytes 4096 [], tag := 0 }, _, by decide +kernel, by decide +kernel, some_of (by decide +kernel),
      by decide +kernel, by decide +kernel⟩,
   ⟨{ onMem with floe := { links := [(0, { st := .up, reason := 0 })], remotes := [], rings := [] }, firn := { repairs := [{ repair with asked := some (0, 0) }] } },
      0, { typ := 0x13, body := [], status := 3 }, _, by decide +kernel, by decide +kernel, some_of (by decide +kernel),
      by decide +kernel, by decide +kernel⟩⟩

/-- The hypotheses of LinkEvents are met. -/
theorem test_hyps_linkEvents :
    (∃ (s : State) (n : Nat) (f : Blob),
    s.linkUpNow n = true ∧ ((f.length ≠ 256 ∨ crc64 ((padTo 256 f).take 248) ≠ fld (padTo 256 f) 248 8))) ∧
    (∃ (s : State) (n : Nat) (f : Blob) (u : _),
    s.linkUpNow n = true ∧ f.length = 256 ∧ crc64 (f.take 248) = fld f 248 8 ∧
      u = (s.updLink n fun l => l.takeHead s.now f).progress (floeEngine n) ∧ fld f 0 1 = 0) ∧
    (∃ (s : State) (n : Nat) (f : Blob) (u : _),
    s.linkUpNow n = true ∧ f.length = 256 ∧ crc64 (f.take 248) = fld f 248 8 ∧
      u = (s.updLink n fun l => l.takeHead s.now f).progress (floeEngine n) ∧ fld f 0 1 = 2) ∧
    (∃ (s : State) (n : Nat) (f : Blob) (u : _),
    s.linkUpNow n = true ∧ f.length = 256 ∧ crc64 (f.take 248) = fld f 248 8 ∧
      u = (s.updLink n fun l => l.takeHead s.now f).progress (floeEngine n) ∧ fld f 0 1 = 1 ∧ fld f 1 1 % 4 ≠ 3 ∧
      fld f 2 2 = (u.link n).rxSeq) ∧
    (∃ (s : State) (n : Nat) (f : Blob) (u : _),
    s.linkUpNow n = true ∧ f.length = 256 ∧ crc64 (f.take 248) = fld f 248 8 ∧
      u = (s.updLink n fun l => l.takeHead s.now f).progress (floeEngine n) ∧ fld f 0 1 = 1 ∧
      ((fld f 1 1 % 4 = 3 ∨ fld f 2 2 ≠ (u.link n).rxSeq))) ∧
    (∃ (s : State) (n : Nat),
    s.linkUpNow n = true ∧ (s.link n).retry ≠ []) ∧
    (∃ (s : State) (n : Nat),
    s.linkUpNow n = true) ∧
    (∃ (s : State) (n : Nat),
    s.floeRuns n = true ∧ (s.link n).st = .training) ∧
    (∃ (s : State) (n : Nat) (d : _),
    s.floeRuns n = true ∧ (s.link n).st = .training ∧ (s.link n).trainDeadline = some d) ∧
    (∃ (s : State) (n : Nat),
    s.floeRuns n = true ∧ (s.link n).st = .hello ∧ (s.ring (n / 2)).st ≠ 1 ∧ (s.ring (n / 2)).st ≠ 5) ∧
    (∃ (s : State) (n : Nat) (m : _),
    s.floeRuns n = true ∧ (s.link n).st = .hello ∧ (s.ring (n / 2)).st ≠ 1 ∧ (s.ring (n / 2)).st ≠ 5 ∧ msgOk m 0x21 = true ∧
      fld m.body 1 1 = n / 2 * 2 + (1 - n % 2) ∧ fld m.body 0 1 % 64 ≠ s.nodeId) ∧
    (∃ (s : State) (n : Nat) (m : _),
    s.floeRuns n = true ∧ (s.link n).st = .hello ∧ (s.ring (n / 2)).st ≠ 1 ∧ (s.ring (n / 2)).st ≠ 5 ∧ msgOk m 0x21 = true ∧
      ((fld m.body 1 1 ≠ n / 2 * 2 + (1 - n % 2) ∨ fld m.body 0 1 % 64 = s.nodeId))) :=
  ⟨⟨{ onMem with floe := { links := [(0, { st := .up, reason := 0 })], remotes := [], rings := [] } }, 0, [], by decide +kernel,
      by decide +kernel⟩,
   ⟨{ onMem with floe := { links := [(0, { st := .up, reason := 0 })], remotes := [], rings := [] } }, 0, frameOf (bytes 248 [(0, 1,
      0), (2, 2, 0)]), _, by decide +kernel, by decide +kernel, by decide +kernel, rfl, by decide +kernel⟩,
   ⟨{ onMem with floe := { links := [(0, { st := .up, reason := 0 })], remotes := [], rings := [] } }, 0, frameOf (bytes 248 [(0, 1,
      2), (2, 2, 0)]), _, by decide +kernel, by decide +kernel, by decide +kernel, rfl, by decide +kernel⟩,
   ⟨{ onMem with floe := { links := [(0, { st := .up, reason := 0 })], remotes := [], rings := [] } }, 0, frameOf (bytes 248 [(0, 1,
      1), (2, 2, 0)]), _, by decide +kernel, by decide +kernel, by decide +kernel, rfl, by decide +kernel, by decide +kernel,
      by decide +kernel⟩,
   ⟨{ onMem with floe := { links := [(0, { st := .up, reason := 0 })], remotes := [], rings := [] } }, 0, frameOf (bytes 248 [(0, 1,
      1), (2, 2, 5)]), _, by decide +kernel, by decide +kernel, by decide +kernel, rfl, by decide +kernel, by decide +kernel⟩,
   ⟨{ onMem with floe := { links := [(0, { st := .up, retry := [{ seq := 0, stream := 0, first := 0, payload := [] }] })], remotes := [], rings := [] } },
      0, by decide +kernel, by decide +kernel⟩,
   ⟨{ onMem with floe := { links := [(0, { st := .up, reason := 0 })], remotes := [], rings := [] } }, 0, by decide +kernel⟩,
   ⟨{ onMem with floe := { links := [(0, { st := .training, reason := 0 })], remotes := [], rings := [] } }, 0, by decide +kernel,
      by decide +kernel⟩,
   ⟨{ onMem with floe := { links := [(0, { st := .training, trainDeadline := some 5 })], remotes := [], rings := [] } }, 0, _,
      by decide +kernel, by decide +kernel, some_of (by decide +kernel)⟩,
   ⟨{ onMem with floe := { links := [(0, { st := .hello, reason := 0 })], remotes := [], rings := [] } }, 0, by decide +kernel,
      by decide +kernel, by decide +kernel, by decide +kernel⟩,
   ⟨{ onMem with floe := { links := [(0, { st := .hello, reason := 0 })], remotes := [], rings := [] } }, 0,
      { typ := 0x21, body := bytes 16 [(0, 1, 5), (1, 1, 1)], tag := 0 }, by decide +kernel, by decide +kernel, by decide +kernel,
      by decide +kernel, by decide +kernel, by decide +kernel, by decide +kernel⟩,
   ⟨{ onMem with floe := { links := [(0, { st := .hello, reason := 0 })], remotes := [], rings := [] } }, 0,
      { typ := 0x21, body := bytes 16 [], tag := 0 }, by decide +kernel, by decide +kernel, by decide +kernel, by decide +kernel,
      by decide +kernel, by decide +kernel⟩⟩

/-- The hypotheses of RingEvents are met. -/
theorem test_hyps_ringEvents :
    (∃ (s : State) (k : Nat) (t : _),
    s.stagesRun = true ∧ (s.ring k).censusSent = some t ∧ (s.link (2 * k + 1)).st = .up) ∧
    (∃ (s : State) (k : Nat) (t : _),
    s.stagesRun = true ∧ (s.ring k).joinDeadline = some t ∧ (s.ring k).st = 2) ∧
    (∃ (s : State) (k : Nat) (rest : _),
    s.stagesRun = true ∧ s.floe.ctl = (k, true) :: rest ∧ s.loess.oos = false ∧ s.joinBusy = false) ∧
    (∃ (s : State) (k : Nat) (rest : _),
    s.stagesRun = true ∧ s.floe.joins = k :: rest ∧ s.floe.ctl.head? ≠ some (k, true) ∧ s.loess.oos = false ∧ s.joinBusy = false ∧
      s.ringJoinable k = true ∧ (s.ring k).st ≠ 3 ∧ (s.ring k).st ≠ 4) ∧
    (∃ (s : State) (k : Nat) (m : FloeMsg) (link : _),
    s.stagesRun = true ∧ link = 2 * k ∧ s.linkUpNow link = true ∧ msgOk m 0x22 = true ∧ fld m.body 2 1 ≤ 64) ∧
    (∃ (s : State) (tag : _) (x : _) (t : _),
    s.stagesRun = true ∧ tget? s.floe.remotes tag = some x ∧ t = s.advanceTo x.deadline) ∧
    (∃ (s : State) (tag : _) (x : _) (t : _),
    s.stagesRun = true ∧ tget? s.floe.remotes tag = some x ∧ t = s.advanceTo x.deadline ∧ x.hold = true) ∧
    (∃ (s : State) (tag : _) (x : _) (t : _),
    s.stagesRun = true ∧ tget? s.floe.remotes tag = some x ∧ t = s.advanceTo x.deadline ∧ x.hold = false ∧ t.staleGen x.q = false ∧
      x.resent = true) ∧
    (∃ (s : State) (tag : _) (x : _) (t : _),
    s.stagesRun = true ∧ tget? s.floe.remotes tag = some x ∧ t = s.advanceTo x.deadline ∧ x.hold = false ∧ t.staleGen x.q = true) ∧
    (∃ (s : State) (tag : _) (x : _) (t : _),
    s.stagesRun = true ∧ tget? s.floe.remotes tag = some x ∧ t = s.advanceTo x.deadline ∧ x.hold = false ∧ t.staleGen x.q = false ∧
      x.resent = false ∧ t.route x.q.node (some (!x.downstream)) = none) ∧
    (∃ (s : State) (tag : _) (x : _) (t : _) (r : _),
    s.stagesRun = true ∧ tget? s.floe.remotes tag = some x ∧ t = s.advanceTo x.deadline ∧ x.hold = false ∧ t.staleGen x.q = false ∧
      x.resent = false ∧ t.route x.q.node (some (!x.downstream)) = some r) :=
  ⟨⟨{ onMem with floe := { links := [(0, { st := .up }), (1, { st := .up })], rings := [(0, { censusSent := some 0 })] } }, 0, _,
      by decide +kernel, some_of (by decide +kernel), by decide +kernel⟩,
   ⟨{ onMem with floe := { links := [(0, { st := .up }), (1, { st := .up })], rings := [(0, { st := 2, joinDeadline := some 5 })] } },
      0, _, by decide +kernel, some_of (by decide +kernel), by decide +kernel⟩,
   ⟨{ onMem with floe := { ctl := [(0, true)] } }, 0, _, by decide +kernel, rfl, by decide +kernel, by decide +kernel⟩,
   ⟨{ onMem with topo := { onMem.topo with links := some (bytes 288 [(0, 1, 1), (8, 1, 1)]) }, floe := { joins := [0] } }, 0, _,
      by decide +kernel, rfl, by decide +kernel, by decide +kernel, by decide +kernel, by decide +kernel, by decide +kernel,
      by decide +kernel⟩,
   ⟨{ onMem with floe := { links := [(0, { st := .up, reason := 0 })], remotes := [], rings := [] } }, 0,
      { typ := 0x22, body := bytes 68 [], tag := 0 }, 0, by decide +kernel, by decide +kernel, by decide +kernel, by decide +kernel,
      by decide +kernel⟩,
   ⟨{ onMem with floe := { remotes := [(5, { q := { fn := 1, node := 2 }, deadline := 100 })] } }, 5, _, _, by decide +kernel,
      some_of (by decide +kernel), rfl⟩,
   ⟨{ onMem with floe := { remotes := [(5, { q := { fn := 1, node := 2 }, deadline := 100, hold := true })] } }, 5, _, _,
      by decide +kernel, some_of (by decide +kernel), rfl, by decide +kernel⟩,
   ⟨{ onMem with floe := { remotes := [(5, { q := { fn := 1, node := 2 }, deadline := 100, resent := true })] } }, 5, _, _,
      by decide +kernel, some_of (by decide +kernel), rfl, by decide +kernel, by decide +kernel, by decide +kernel⟩,
   ⟨{ onMem with floe := { remotes := [(5, { q := { fn := 1, gen := 1, node := 2 }, deadline := 100 })] } }, 5, _, _,
      by decide +kernel, some_of (by decide +kernel), rfl, by decide +kernel, by decide +kernel⟩,
   ⟨{ onMem with floe := { remotes := [(5, { q := { fn := 1, node := 2 }, deadline := 100 })] } }, 5, _, _, by decide +kernel,
      some_of (by decide +kernel), rfl, by decide +kernel, by decide +kernel, by decide +kernel, by decide +kernel⟩,
   ⟨{ onMem with floe := { remotes := [(5, { q := { fn := 1, node := 2 }, deadline := 100 })], rings := [(0, { st := 3, members := [0, 2] })] } },
      5, _, _, _, by decide +kernel, some_of (by decide +kernel), rfl, by decide +kernel, by decide +kernel, by decide +kernel,
      rfl⟩⟩

/-- The hypotheses of MailboxCommands are met. -/
theorem test_hyps_mailboxCommands :
    (∃ (s : State) (fn : Nat) (d : Blob),
    fn < 4096 ∧ s.configurable = true ∧ s.loess.halted = false ∧ 0 < d.length ∧ d.length ≤ 65536 ∧ (s.box fn).inObj = none ∧
      isDiscovery d = false) ∧
    (∃ (s : State) (fn : Nat) (d : Blob),
    fn < 4096 ∧ s.configurable = true ∧ s.loess.halted = false ∧ 0 < d.length ∧ d.length ≤ 65536 ∧ (s.box fn).inObj = none ∧
      isDiscovery d = true) ∧
    (∃ (s : State) (fn : Nat) (d : Blob),
    fn < 4096 ∧ s.configurable = true ∧ s.loess.halted = false ∧ 0 < d.length ∧ d.length ≤ 65536 ∧ (s.box fn).inObj.isSome = true) ∧
    (∃ (s : State) (fn : Nat),
    fn < 4096 ∧ s.configurable = true ∧ s.loess.halted = false) ∧
    (∃ (s : State) (fn : Nat),
    fn < 4096 ∧ s.doeHeld fn = true) ∧
    (∃ (s : State) (fn : Nat),
    fn < 4096 ∧ s.doeHeld fn = true) ∧
    (∃ (s : State) (fn : Nat),
    fn < 4096 ∧ s.doeHeld fn = true) ∧
    (∃ (s : State) (fn : Nat),
    fn < 4096 ∧ s.doeHeld fn = true ∧ (s.box fn).conn < 3) ∧
    (∃ (s : State) (fn : Nat) (i : _) (b : _) (l : _),
    fn < 4096 ∧ s.doeHeld fn = true ∧ 3 ≤ (s.box fn).conn ∧ i ≠ 0 ∧ i ≠ 0xFF ∧ s.measurement fn i = some b ∧
      l = leBytes 1 1 ++ leBytes 3 b.length ++ b) ∧
    (∃ (s : State) (fn : Nat) (i : _) (b : _),
    fn < 4096 ∧ s.doeHeld fn = true ∧ 3 ≤ (s.box fn).conn ∧ i ≠ 0 ∧ i ≠ 0xFF ∧ s.measurement fn i = some b) :=
  ⟨⟨on, 0, bytes 8 [], by decide +kernel, by decide +kernel, by decide +kernel, by decide +kernel, by decide +kernel,
      by decide +kernel, by decide +kernel⟩,
   ⟨on, 0, bytes 8 [(0, 3, 1)], by decide +kernel, by decide +kernel, by decide +kernel, by decide +kernel, by decide +kernel,
      by decide +kernel, by decide +kernel⟩,
   ⟨{ on with kao := { boxes := [(0, { inObj := some [] })] } }, 0, bytes 8 [], by decide +kernel, by decide +kernel,
      by decide +kernel, by decide +kernel, by decide +kernel, by decide +kernel⟩,
   ⟨on, 0, by decide +kernel, by decide +kernel, by decide +kernel⟩,
   ⟨{ on with kao := { boxes := [(0, { inObj := some [] })] } }, 0, by decide +kernel, by decide +kernel⟩,
   ⟨{ on with kao := { boxes := [(0, { inObj := some [] })] } }, 0, by decide +kernel, by decide +kernel⟩,
   ⟨{ on with kao := { boxes := [(0, { inObj := some [] })] } }, 0, by decide +kernel, by decide +kernel⟩,
   ⟨{ on with kao := { boxes := [(0, { inObj := some [] })] } }, 0, by decide +kernel, by decide +kernel, by decide +kernel⟩,
   ⟨{ on with kao := { boxes := [(0, { inObj := some [], conn := 3 })] } }, 0, 2, _, _, by decide +kernel, by decide +kernel,
      by decide +kernel, by decide +kernel, by decide +kernel, some_of (by decide +kernel), rfl⟩,
   ⟨{ on with kao := { boxes := [(0, { inObj := some [], conn := 3 })] } }, 0, 2, _, by decide +kernel, by decide +kernel,
      by decide +kernel, by decide +kernel, by decide +kernel, some_of (by decide +kernel)⟩⟩

/-- The hypotheses of TenantRecords are met. -/
theorem test_hyps_tenantRecords :
    (∃ (s : State) (fn : Nat),
    s.doeHeld fn = true) :=
  ⟨{ on with kao := { boxes := [(0, { inObj := some [] })] } }, 0, by decide +kernel⟩

/-- The hypotheses of HoldupAndWake are met. -/
theorem test_hyps_holdupAndWake :
    (∃ (s : State) (ns : Nat),
    5 ≤ ns ∧ s.pins.holdupN = true ∧ s.held = none ∧ s.loess.halted = false ∧ s.ledg.flushing = false ∧ s.resident = false ∧
      s.pwr.st ≠ .waking ∧ s.pwr.target = .active) ∧
    (∃ (s : State) (ns : Nat),
    5 ≤ ns ∧ s.pins.holdupN = true ∧ s.held = none ∧ s.loess.halted = false ∧ s.ledg.flushing = false ∧ s.resident = true ∧
      s.pwr.holdup = false) ∧
    (∃ (s : State) (ns : Nat),
    5 ≤ ns ∧ s.pins.holdupN = false) ∧
    (∃ (s : State) (t0 : Nat),
    s.pwr.holdupHigh = some t0 ∧ s.pwr.holdup = true ∧ s.resident = true ∧ s.pins.holdupN = true ∧ s.held = none) ∧
    (∃ (s : State),
    s.ledg.flushing = true ∧ s.awake = true ∧ s.loess.halted = false ∧ s.pwr.brownout = false) ∧
    (∃ (s : State) (src : WakeSrc),
    s.resident = true ∧ s.pwr.holdup = false ∧ src ≠ .timer) ∧
    (∃ (s : State),
    s.resident = true ∧ s.pwr.holdup = false ∧ s.pwr.wakeAt ≠ 0) :=
  ⟨⟨on, 5, by decide +kernel, by decide +kernel, by decide +kernel, by decide +kernel, by decide +kernel, by decide +kernel,
      by decide +kernel, by decide +kernel⟩,
   ⟨{ on with pwr := { st := .freeze } }, 5, by decide +kernel, by decide +kernel, by decide +kernel, by decide +kernel,
      by decide +kernel, by decide +kernel, by decide +kernel⟩,
   ⟨{ on with pins := { holdupN := false } }, 5, by decide +kernel, by decide +kernel⟩,
   ⟨{ on with pwr := { st := .freeze, holdup := true, holdupHigh := some 0 } }, 0, by decide +kernel, by decide +kernel,
      by decide +kernel, by decide +kernel, by decide +kernel⟩,
   ⟨{ on with ledg := { flushing := true } }, by decide +kernel, by decide +kernel, by decide +kernel, by decide +kernel⟩,
   ⟨{ on with pwr := { st := .freeze } }, .uart, by decide +kernel, by decide +kernel, by decide +kernel⟩,
   ⟨{ on with pwr := { st := .freeze, wakeAt := 5 } }, by decide +kernel, by decide +kernel, by decide +kernel⟩⟩

/-- The hypotheses of SupplyPins are met. -/
theorem test_hyps_supplyPins :
    (∃ (s : State) (ns : Nat),
    5 ≤ ns ∧ s.pins.pwrGood = false ∧ s.held = none ∧ s.pwr.st = .waking) ∧
    (∃ (s : State) (ns : Nat),
    5 ≤ ns ∧ s.pins.pwrGood = false ∧ s.held = none ∧ s.pwr.st ≠ .waking ∧ s.pwr.goodHold = true ∧ s.pwr.brownout = false) ∧
    (∃ (s : State) (ns : Nat),
    5 ≤ ns ∧ s.pins.pwrGood = false ∧ s.held = none ∧ s.pwr.st ≠ .waking ∧ s.pwr.goodHold = false) ∧
    (∃ (s : State) (ns : Nat),
    5 ≤ ns ∧ s.pins.pwrGood = true ∧ ((s.awake = false ∨ s.loess.halted = true))) ∧
    (∃ (s : State) (ns : Nat),
    5 ≤ ns ∧ s.pins.pwrGood = true ∧ s.awake = true ∧ s.loess.halted = false ∧ s.pins.holdupN = true ∧ s.pwr.brownout = false ∧
      s.pwr.goodHold = false) ∧
    (∃ (s : State) (mv : Nat),
    s.awake = true ∧ 580 ≤ mv ∧ mv < 600 ∧ s.pwr.brownout = false ∧ s.pwr.goodHold = false) ∧
    (∃ (s : State) (mv : Nat),
    s.pwr.brownout = true ∧ 610 < mv ∧ s.held = none) ∧
    (∃ (s : State) (ns : Nat),
    5 ≤ ns ∧ s.pins.droopN = true ∧ s.held = none) ∧
    (∃ (s : State) (ns : Nat),
    5 ≤ ns ∧ s.pins.droopN = false) ∧
    (∃ (s : State) (ns : Nat) (low : _),
    5 ≤ ns ∧ s.pins.pwrbrakeN = low ∧ s.held = none) ∧
    (∃ (s : State) (t0 : Nat),
    s.pwr.droopHigh = some t0 ∧ s.pins.droopN = true ∧ s.pwr.droopPace = true) ∧
    (∃ (s : State),
    s.stagesRun = true) ∧
    (∃ (s : State) (e : Nat),
    s.pwr.st = .chill ∧ s.stagesRun = true ∧ s.engineExists e = true ∧ s.workPending e = false ∧
      s.pwr.relaxed.contains e = false) :=
  ⟨⟨{ on with pwr := { st := .waking }, pins := { pwrGood := false } }, 5, by decide +kernel, by decide +kernel, by decide +kernel,
      by decide +kernel⟩,
   ⟨{ on with pwr := { goodHold := true }, pins := { pwrGood := false } }, 5, by decide +kernel, by decide +kernel,
      by decide +kernel, by decide +kernel, by decide +kernel, by decide +kernel⟩,
   ⟨{ on with pins := { pwrGood := false } }, 5, by decide +kernel, by decide +kernel, by decide +kernel, by decide +kernel,
      by decide +kernel⟩,
   ⟨{ on with pwr := { st := .freeze } }, 5, by decide +kernel, by decide +kernel, by decide +kernel⟩,
   ⟨on, 5, by decide +kernel, by decide +kernel, by decide +kernel, by decide +kernel, by decide +kernel, by decide +kernel,
      by decide +kernel⟩,
   ⟨on, 590, by decide +kernel, by decide +kernel, by decide +kernel, by decide +kernel, by decide +kernel⟩,
   ⟨{ on with pwr := { brownout := true } }, 611, by decide +kernel, by decide +kernel, by decide +kernel⟩,
   ⟨on, 5, by decide +kernel, by decide +kernel, by decide +kernel⟩,
   ⟨{ on with pins := { droopN := false } }, 5, by decide +kernel, by decide +kernel⟩,
   ⟨on, 5, true, by decide +kernel, by decide +kernel, by decide +kernel⟩,
   ⟨{ on with pwr := { droopHigh := some 0, droopPace := true } }, 0, by decide +kernel, by decide +kernel, by decide +kernel⟩,
   ⟨on, by decide +kernel⟩,
   ⟨{ on with pwr := { st := .chill } }, 0x0200, by decide +kernel, by decide +kernel, by decide +kernel, by decide +kernel,
      by decide +kernel⟩⟩

/-- The hypotheses of ResetPins are met. -/
theorem test_hyps_resetPins :
    (∃ (ns : Nat),
    5 ≤ ns) ∧
    (∃ (s : State) (ns : Nat),
    5 ≤ ns ∧ s.pins.coldRstN = false ∧ s.pwr.monitorReset = none ∧ s.pins.rstN = true ∧ s.held = some true) ∧
    (∃ (s : State) (ns : Nat),
    5 ≤ ns ∧ s.pins.coldRstN = false ∧ s.pwr.monitorReset = none ∧ s.pins.rstN = false ∧ s.held = some true) ∧
    (∃ (s : State) (ns : Nat),
    5 ≤ ns ∧ s.coldCause = false ∧ s.held = none) ∧
    (∃ (s : State) (ns : Nat),
    5 ≤ ns ∧ s.coldCause = false ∧ s.pins.rstN = false ∧ s.held = some false) ∧
    (∃ (s : State) (rail : Rail) (mv : Nat) (l : Nat),
    s.resetLevel rail = some l ∧ mv < l ∧ s.pwr.monitorReset = none) ∧
    (∃ (s : State) (rail : Rail) (mv : Nat) (l : Nat),
    s.pwr.monitorReset = some (rail, l) ∧ l + 20 < mv ∧ s.pins.coldRstN = true ∧ s.pins.rstN = true ∧ s.held = some true) ∧
    (∃ (s : State),
    s.held = none ∧ s.tarn.phase = 0 ∧ s.loess.oos = false) ∧
    (∃ (s : State) (code : _),
    s.held = none ∧ s.tarn.phase = 0 ∧ s.loess.oos = false ∧ code ≠ 0 ∧ code ≤ 6) :=
  ⟨⟨5, by decide +kernel⟩,
   ⟨{ on with held := some true, pins := { coldRstN := false } }, 5, by decide +kernel, by decide +kernel, by decide +kernel,
      by decide +kernel, by decide +kernel⟩,
   ⟨{ on with held := some true, pins := { coldRstN := false, rstN := false } }, 5, by decide +kernel, by decide +kernel,
      by decide +kernel, by decide +kernel, by decide +kernel⟩,
   ⟨on, 5, by decide +kernel, by decide +kernel, by decide +kernel⟩,
   ⟨{ on with held := some false, pins := { rstN := false } }, 5, by decide +kernel, by decide +kernel, by decide +kernel,
      by decide +kernel⟩,
   ⟨on, .vdd, 579, 580, by decide +kernel, by decide +kernel, by decide +kernel⟩,
   ⟨{ on with held := some true, pwr := { monitorReset := some (.vdd, 580) } }, .vdd, 601, 580, by decide +kernel,
      by decide +kernel, by decide +kernel, by decide +kernel, by decide +kernel⟩,
   ⟨{}, by decide +kernel, by decide +kernel, by decide +kernel⟩,
   ⟨{}, 1, by decide +kernel, by decide +kernel, by decide +kernel, by decide +kernel, by decide +kernel⟩⟩

/-- The hypotheses of CoreInterrupts are met. -/
theorem test_hyps_coreInterrupts :
    (∃ (s : State) (n : _),
    s.coreRuns = true ∧ s.ticBest = some n ∧ s.tarn.stack.length < 16) ∧
    (∃ (s : State),
    s.coreRuns = true ∧ s.ticBest = none) ∧
    (∃ (s : State) (n : _),
    s.coreRuns = true ∧ n < 256 ∧ (s.ticSrc n).active = true) ∧
    (∃ (s : State) (n : _) (p : _) (rest : _),
    s.coreRuns = true ∧ s.tarn.stack = (n, p) :: rest ∧ (s.ticSrc n).again = false) ∧
    (∃ (s : State) (a : _) (k : _),
    s.coreRuns = true ∧ coreFaults a k = true) ∧
    (∃ (s : State) (a : _) (k : _),
    s.coreRuns = true ∧ coreFaults a k = false) :=
  ⟨⟨{ on with tarn := { phase := 1, sources := [(3, { vector := 0x40C, enable := true, pending := true, prio := 1 })] } }, 3,
      by decide +kernel, by decide +kernel, by decide +kernel⟩,
   ⟨on, by decide +kernel, by decide +kernel⟩,
   ⟨{ on with tarn := { phase := 1, sources := [(3, { vector := 0x40C, active := true })] } }, 3, by decide +kernel,
      by decide +kernel, by decide +kernel⟩,
   ⟨{ on with tarn := { phase := 1, stack := [(3, 1)] } }, 3, 1, [], by decide +kernel, by decide +kernel, by decide +kernel⟩,
   ⟨on, 0x7FFFFFFF, .read, by decide +kernel, by decide +kernel⟩,
   ⟨on, 0, .read, by decide +kernel, by decide +kernel⟩⟩

/-- The hypotheses of MonitorLine are met. -/
theorem test_hyps_monitorLine :
    (∃ (s : State) (c : Byte),
    s.coreRuns = true ∧ 32 ≤ c.toNat ∧ c.toNat ≤ 126) ∧
    (∃ (s : State) (c : Byte),
    s.coreRuns = true ∧ ((c.toNat = 8 ∨ c.toNat = 127)) ∧ s.tarn.line ≠ []) ∧
    (∃ (s : State),
    s.coreRuns = true) ∧
    (∃ (s : State) (u : State),
    s.coreRuns = true ∧ u.tarn = { (s.pulse 64).tarn with line := [], lastCr := true } ∧ u = { s with tarn := u.tarn }) ∧
    (∃ (s : State),
    s.coreRuns = true ∧ s.tarn.lastCr = true) :=
  ⟨⟨on, 0x41, by decide +kernel, by decide +kernel, by decide +kernel⟩,
   ⟨{ on with tarn := { phase := 1, line := [0x41] } }, 8, by decide +kernel, by decide +kernel, by decide +kernel⟩,
   ⟨on, by decide +kernel⟩,
   ⟨on, { on with tarn := { (on.pulse 64).tarn with line := [], lastCr := true } }, by decide +kernel, rfl, rfl⟩,
   ⟨{ on with tarn := { phase := 1, lastCr := true } }, by decide +kernel, by decide +kernel⟩⟩

/-- The hypotheses of MonitorCommands are met. -/
theorem test_hyps_monitorCommands :
    (∃ (s : State),
    s.coreRuns = true) :=
  ⟨on, by decide +kernel⟩

/-- The hypotheses of ConfigurationAndScan are met. -/
theorem test_hyps_configurationAndScan :
    (∃ (s : State) (fn : Nat),
    fn < 4096 ∧ s.configurable = true) ∧
    (∃ (s : State) (fn : Nat),
    fn < 4096 ∧ s.configurable = true) ∧
    (∃ (s : State) (fn : Nat),
    fn < 4096 ∧ s.configurable = true) ∧
    (∃ (s : State) (fn : Nat),
    fn < 4096 ∧ s.configurable = true) ∧
    (∃ (s : State) (fn : Nat),
    fn < 4096 ∧ s.held = none ∧ ((s.tarn.phase = 0 ∨ s.tarn.phase = 6 ∨ s.pwr.holdup = true))) :=
  ⟨⟨on, 0, by decide +kernel, by decide +kernel⟩,
   ⟨on, 0, by decide +kernel, by decide +kernel⟩,
   ⟨on, 0, by decide +kernel, by decide +kernel⟩,
   ⟨on, 0, by decide +kernel, by decide +kernel⟩,
   ⟨{}, 0, by decide +kernel, by decide +kernel, by decide +kernel⟩⟩

/-- The hypotheses of StepRunsFront are met. -/
theorem test_hyps_stepRunsFront :
    (∃ (s : State) (c : Instr) (rest : _),
    s.pending = c :: rest) :=
  ⟨{ on with pending := [.eventEntryWrite 0] }, .eventEntryWrite 0, [], by decide +kernel⟩

/-- The hypotheses of IdleStep are met. -/
theorem test_hyps_idleStep :
    (∃ (s : State),
    s.pending = []) :=
  ⟨on, by decide +kernel⟩

/-- The hypotheses of QueueRunsInOrder are met. -/
theorem test_hyps_queueRunsInOrder :
    (∃ (n : Nat) (s : State),
    n ≤ s.pending.length) :=
  ⟨1, { on with pending := [.eventEntryWrite 0] }, by decide +kernel⟩

/-- The hypotheses of StepKeepsMemoryCanonical are met. -/
theorem test_hyps_stepKeepsMemoryCanonical :
    (∃ (s : State) (t : State),
    s.Inv ∧ Sys2Proof.Machine.step s = .next t) :=
  ⟨{}, _, (by decide +kernel : Memory.wf _ = true), rfl⟩

/-- The hypotheses of MemoryFrame are met. -/
theorem test_hyps_memoryFrame :
    (∃ (c : Instr) (s : State),
    keepsMemory c = true) :=
  ⟨.eventEntryWrite 0, on, by decide +kernel⟩

end Sys2Proof.Tests
end

section
/-! PROOFS. Doorbell writes that no enabled queue takes (03_queues.md, R97). -/

namespace Sys2Proof.Machine

open Sys2Proof

/-- A doorbell block that takes writes belongs to a queue of an Enabled function (R97). -/
theorem State.doorQueue_enabled {s : State} {d : Door} {i : Nat} {q : Queue} (h : s.doorQueue d = some (i, q)) :
    (s.fn q.fn).phase = .enabled := by
  cases d with
  | own f l =>
    simp only [State.doorQueue] at h
    split at h
    · cases h
    · rename_i hbar
      have henabled : (s.fn f).phase = .enabled := Decidable.not_not.mp fun hne => hbar (.inr (.inl hne))
      obtain ⟨x, -, hx⟩ := Option.bind_eq_some_iff.mp h
      split at hx
      · rename_i howner
        cases hx
        rw [howner]; exact henabled
      · cases hx
  | pf0 j =>
    obtain ⟨x, -, hx⟩ := Option.bind_eq_some_iff.mp h
    split at hx
    · rename_i howner
      cases hx
      rw [howner.1]; exact howner.2
    · cases hx

/-- Where the block names no queue of an Enabled function, no queue takes the write. -/
theorem State.doorQueue_eq_none {s : State} {d : Door} (h : ∀ i q, s.blockQueue d = some (i, q) → (s.fn q.fn).phase ≠ .enabled) :
    s.doorQueue d = none :=
  Option.eq_none_iff_forall_ne_some.mpr fun (i, q) hq => h i q (door_pf0 hq).2 (State.doorQueue_enabled hq)

/-- SQ_TAIL (register 0) and CQ_HEAD (register 1) of a block that no queue takes: the write is counted and nothing else, be the block
another owner's (R96) or not (R97). -/
theorem State.doorWrite_rejected {s : State} {d : Door} {k : Nat} (v : Nat) (hk : k < 2) (h : s.doorQueue d = none) :
    s.doorWrite d k v = s.rejectDoorbell := by
  unfold State.doorWrite
  extract_lets foreign
  split
  · rfl
  · obtain rfl | rfl : k = 0 ∨ k = 1 := by omega
    all_goals simp only [h]

/-- The same for a write that the host makes. -/
theorem State.doorVia_rejected {s : State} {d : Door} {k : Nat} {c : Instr} (v : Nat) (hc : accessor c = none) (hs : s.reachable = true)
    (hd : doorOk d = true) (hn : s.noHalf (requester (doorAt d).1)) (hk : k < 2)
    (h : ∀ i q, s.blockQueue d = some (i, q) → (s.fn q.fn).phase ≠ .enabled) : s.doorVia c d k v = s.rejectDoorbell :=
  calc s.doorVia c d k v
    _ = s.doorWrite d k (v % 2 ^ 32) := door_exec hc hs hd hn (by omega)
    _ = s.rejectDoorbell := State.doorWrite_rejected _ hk (State.doorQueue_eq_none h)

/-- Settles O12: with no queue to take it, either write comes down to `rejectDoorbell`. -/
theorem doorbellRejected : Obligations.DoorbellRejected := by
  intro s d v hs hd hn hq
  exact ⟨congrArg Host.Outcome.next (State.doorVia_rejected v rfl hs hd hn (by decide) hq),
    congrArg Host.Outcome.next (State.doorVia_rejected v rfl hs hd hn (by decide) hq)⟩

end Sys2Proof.Machine
end

section
/-! PROOFS. Resets and what they stop or clear (13_reliability.md): PWR_STATE during an engine reset or a compute-domain reset (R536), and
what a block reset leaves of Loess (R553). -/

namespace Sys2Proof.Machine

open Sys2Proof

/-- Taking a command up starts and ends no reset. -/
@[simp] theorem State.begun_computeReset (s : State) (r : Nat) : (s.begun r).computeReset = s.computeReset := rfl

/-- The compute domain in reset, or an engine in reset, is a reset that PWR_STATE waits out. -/
theorem State.computeReset_of {s : State}
    (h : s.loess.domain.isSome = true ∨ ∃ k e, (k, e) ∈ s.loess.engines ∧ e.rst.isSome = true) : s.computeReset = true := by
  refine Bool.or_eq_true_iff.mpr ?_
  obtain hdomain | ⟨k, e, hmem, hrst⟩ := h
  · exact .inl hdomain
  · exact .inr (tany_of hmem hrst)

/-- PWR_STATE to a power state, during such a reset, is reported BUSY and does nothing else (R536). -/
theorem execPwrState_busy {s : State} {r : Nat} {c : Cmd} (io : HostIo) (h : s.takes r 0x1D c) (hk : fld c.sqe 32 1 ≤ 3)
    (hreset : s.computeReset = true) : execPwrState r io s = .next ((s.begun r).report r .busy) :=
  exec_of_takes h rfl (by
    dsimp only
    rw [if_neg (Nat.not_lt.mpr hk), if_pos ((s.begun_computeReset r).trans hreset)])

/-- Settles O19: the command is only reported, and a report changes nothing but the command's record. -/
theorem powerStateBusyDuringReset : Obligations.PowerStateBusyDuringReset := by
  intro s r c io h hk hreset
  have hundecided : c.decided = none := State.takes_decided h
  have hended : ((s.begun r).report r .busy).ended r .busy := State.report_ended .busy (State.begun_cmd h) hundecided
  exact .of_eq (execPwrState_busy io h hk (State.computeReset_of hreset)) ⟨hended, by simp, by simp, rfl⟩

/-- Loess with no engine record, no window of compute-domain resets and no reset record, its ring at the start (R553). -/
def Loess.Cleared (l : Loess) : Prop :=
  l.engines = [] ∧ l.domainTimes = [] ∧ l.records = [] ∧ l.head = 0 ∧ l.tail = 0

/-- Every block reset clears Loess: a halt and its seal record, which a warm reset keeps, are no part of what is cleared. -/
theorem State.atReset_cleared (s : State) (cold : Bool) : (s.atReset cold).loess.Cleared := by
  unfold State.atReset
  dsimp only
  split <;> exact ⟨rfl, rfl, rfl, rfl, rfl⟩

/-- While a cause of a block reset stands, cold or warm, the block is held as that reset leaves it. -/
theorem State.relevel_cleared {s : State} (h : s.coldCause = true ∨ s.pins.rstN = false) : s.relevel.loess.Cleared := by
  by_cases hcold : s.coldCause = true
  · rw [State.relevel, if_pos hcold]
    exact s.atReset_cleared true
  · have hlow : s.pins.rstN = false := h.resolve_left hcold
    have hnone : s.coldCause = false := Bool.eq_false_iff.mpr hcold
    by_cases hheld : s.held = some true
    · rw [relevel_cold hnone hheld, if_pos hlow]
      exact State.atReset_cleared _ false
    · rw [relevel_warm hnone hheld, if_pos hlow]
      exact s.atReset_cleared false

/-- Settles O41: a reset pin that stays low for 5 ns is a cause that stands. -/
theorem blockResetClearsFences : Obligations.BlockResetClearsFences := by
  intro s ns hns
  have hlasts : lasts ns = true := decide_eq_true hns
  exact ⟨.of_eq (congrArg Host.Outcome.next (if_pos hlasts)) (State.relevel_cleared (.inl rfl)),
    .of_eq (congrArg Host.Outcome.next (if_pos hlasts)) (State.relevel_cleared (.inr rfl))⟩

end Sys2Proof.Machine
end

section
/-! PROOFS. What holds of every command and of every step: a next state, the queue of waiting commands, device memory in canonical form
(95_what_each_step_holds.md). -/

namespace Sys2Proof.Machine

open Sys2Proof

/-- No command changes the queue of waiting commands, and each answers a next state: command by command. -/
theorem exec_pending (c : Instr) (s : State) : Answers (exec c s) fun t => t.pending = s.pending := by
  cases c with
  | registerWrite sp off width value => exact execRegisterWrite_pending sp off width value s
  | unmappedAccess sp off width value => exact execUnmappedAccess_pending sp off width value s
  | splitLowRead sp off => exact execSplitLowRead_pending sp off s
  | splitLowWrite sp off value => exact execSplitLowWrite_pending sp off value s
  | splitHighWrite sp off value => exact execSplitHighWrite_pending sp off value s
  | sqTail d value => exact execSqTail_pending d value s
  | cqHead d value => exact execCqHead_pending d value s
  | cqIntMask d value => exact execCqIntMask_pending d value s
  | msixMaskClear fn vector => exact execMsixMaskClear_pending fn vector s
  | cirqRtReserve value => exact execCirqRtReserve_pending value s
  | cirqFnQcfg fn value => exact execCirqFnQcfg_pending fn value s
  | cirqAdminResume value => exact execCirqAdminResume_pending value s
  | moraineClear fn value => exact execMoraineClear_pending fn value s
  | wplogFlush fn value => exact execWplogFlush_pending fn value s
  | wplogFlushDone fn => exact execWplogFlushDone_pending fn s
  | crevRetry slot => exact execCrevRetry_pending slot s
  | crevAbort slot => exact execCrevAbort_pending slot s
  | crevHeadWrite value => exact execCrevHeadWrite_pending value s
  | snowHostAdd value => exact execSnowHostAdd_pending value s
  | snowImageCfg image value => exact execSnowImageCfg_pending image value s
  | snowFnQuota fn value => exact execSnowFnQuota_pending fn value s
  | ringJoinRequest ring => exact execRingJoinRequest_pending ring s
  | ringReleaseRequest ring => exact execRingReleaseRequest_pending ring s
  | adminQueueEnable value => exact execAdminQueueEnable_pending value s
  | engineResetRequest engine => exact execEngineResetRequest_pending engine s
  | computeDomainResetRequest => exact execComputeDomainResetRequest_pending s
  | resetHeadWrite value => exact execResetHeadWrite_pending value s
  | sqFetch q => exact execSqFetch_pending q s
  | sqFetchDone q entries resp => exact execSqFetchDone_pending q entries resp s
  | admitEntry q rd away => exact execAdmitEntry_pending q rd away s
  | dispatch r => exact execDispatch_pending r s
  | commandComplete r => exact execCommandComplete_pending r s
  | receiptAppend r => exact execReceiptAppend_pending r s
  | cqeWrite r => exact execCqeWrite_pending r s
  | cqConfirmReadDone q resp => exact execCqConfirmReadDone_pending q resp s
  | eventEntryWrite fn => exact execEventEntryWrite_pending fn s
  | intTimeExpiry q => exact execIntTimeExpiry_pending q s
  | commandDeadlineExpiry r => exact execCommandDeadlineExpiry_pending r s
  | drainComplete r => exact execDrainComplete_pending r s
  | drainWindowExpiry r => exact execDrainWindowExpiry_pending r s
  | identify r io => exact execIdentify_pending r io s
  | qpCreate r io => exact execQpCreate_pending r io s
  | qpDelete r io => exact execQpDelete_pending r io s
  | cqResume r io => exact execCqResume_pending r io s
  | fnEnable r io => exact execFnEnable_pending r io s
  | enableTakesEffect fn io => exact execEnableTakesEffect_pending fn io s
  | fnQuiesce r io => exact execFnQuiesce_pending r io s
  | quiesceComplete fn => exact execQuiesceComplete_pending fn s
  | fnReset r io => exact execFnReset_pending r io s
  | vfFunctionLevelReset fn => exact execVfFunctionLevelReset_pending fn s
  | functionResetEnd fn io => exact execFunctionResetEnd_pending fn io s
  | pf0FunctionLevelReset => exact execPf0FunctionLevelReset_pending s
  | fnExport r io => exact execFnExport_pending r io s
  | fnImport r io frames => exact execFnImport_pending r io frames s
  | wplogCtl r io => exact execWplogCtl_pending r io s
  | topoWrite r io => exact execTopoWrite_pending r io s
  | topoCommit r io => exact execTopoCommit_pending r io s
  | configSet r io => exact execConfigSet_pending r io s
  | configAdopt engine io => exact execConfigAdopt_pending engine io s
  | pwrState r io => exact execPwrState_pending r io s
  | powerStateEntry => exact execPowerStateEntry_pending s
  | pwrLimit r io => exact execPwrLimit_pending r io s
  | patchLoad r io => exact execPatchLoad_pending r io s
  | monUnlock r io => exact execMonUnlock_pending r io s
  | keyAssign r io => exact execKeyAssign_pending r io s
  | keyRelease r io => exact execKeyRelease_pending r io s
  | ctxCreate r io => exact execCtxCreate_pending r io s
  | ctxDestroy r io => exact execCtxDestroy_pending r io s
  | ctxReset r io => exact execCtxReset_pending r io s
  | memAlloc r io frames => exact execMemAlloc_pending r io frames s
  | memFree r io => exact execMemFree_pending r io s
  | mapRange r io => exact execMapRange_pending r io s
  | unmapRange r io => exact execUnmapRange_pending r io s
  | memShare r io => exact execMemShare_pending r io s
  | mapRemote r io => exact execMapRemote_pending r io s
  | invalidationAck inv engine => exact execInvalidationAck_pending inv engine s
  | imgLoad r io => exact execImgLoad_pending r io s
  | imgResumeLoad r io => exact execImgResumeLoad_pending r io s
  | imgReplace r io => exact execImgReplace_pending r io s
  | imgDrop r io => exact execImgDrop_pending r io s
  | imgLoadBegin frames => exact execImgLoadBegin_pending frames s
  | shardReadDone shard resp data => exact execShardReadDone_pending shard resp data s
  | shardRetryTimer shard => exact execShardRetryTimer_pending shard s
  | shardTimeout shard => exact execShardTimeout_pending shard s
  | bodyDigestDone io => exact execBodyDigestDone_pending io s
  | varRegister r io ecc => exact execVarRegister_pending r io ecc s
  | varSeal r io => exact execVarSeal_pending r io s
  | sealTakesEffect variant => exact execSealTakesEffect_pending variant s
  | varUnseal r io => exact execVarUnseal_pending r io s
  | varUpdate r io => exact execVarUpdate_pending r io s
  | varDrop r io => exact execVarDrop_pending r io s
  | variantWaitEnd r io => exact execVariantWaitEnd_pending r io s
  | graphStore r io => exact execGraphStore_pending r io s
  | graphPatch r io => exact execGraphPatch_pending r io s
  | graphFree r io => exact execGraphFree_pending r io s
  | rcptRead r io => exact execRcptRead_pending r io s
  | ckptRequest r io => exact execCkptRequest_pending r io s
  | checkpointSigned io => exact execCheckpointSigned_pending io s
  | poolCreate r io => exact execPoolCreate_pending r io s
  | poolJoin r io => exact execPoolJoin_pending r io s
  | poolLeave r io => exact execPoolLeave_pending r io s
  | poolDestroy r io => exact execPoolDestroy_pending r io s
  | inferStep r => exact execInferStep_pending r s
  | trainStep r => exact execTrainStep_pending r s
  | graphLaunch r => exact execGraphLaunch_pending r s
  | kernelLaunch r => exact execKernelLaunch_pending r s
  | copy r ecc => exact execCopy_pending r ecc s
  | seqCreate r => exact execSeqCreate_pending r s
  | seqRelease r => exact execSeqRelease_pending r s
  | seqTruncate r => exact execSeqTruncate_pending r s
  | provisioningPass => exact execProvisioningPass_pending s
  | turnGrant u => exact execTurnGrant_pending u s
  | quantumExpiry u => exact execQuantumExpiry_pending u s
  | minTurnExpiry u => exact execMinTurnExpiry_pending u s
  | cleaveBoundExpiry u => exact execCleaveBoundExpiry_pending u s
  | issue u => exact execIssue_pending u s
  | crevasseWaitingPost => exact execCrevasseWaitingPost_pending s
  | runAhead u => exact execRunAhead_pending u s
  | tableWalkDone walker rd => exact execTableWalkDone_pending walker rd s
  | tileDone u p => exact execTileDone_pending u p s
  | cleaveReached u p => exact execCleaveReached_pending u p s
  | saveData u p => exact execSaveData_pending u p s
  | saveEnd u p => exact execSaveEnd_pending u p s
  | restoreData u => exact execRestoreData_pending u s
  | tileError u p => exact execTileError_pending u p s
  | creditReturn u down cls count => exact execCreditReturn_pending u down cls count s
  | swapIn ctx => exact execSwapIn_pending ctx s
  | eviction u => exact execEviction_pending u s
  | ageExpiry ctx => exact execAgeExpiry_pending ctx s
  | wblock b => exact execWblock_pending b s
  | tapIn u p => exact execTapIn_pending u p s
  | sliceFetchDone engine rd => exact execSliceFetchDone_pending engine rd s
  | tapAnswer u tag => exact execTapAnswer_pending u tag s
  | trainUpdate r => exact execTrainUpdate_pending r s
  | trainUpdateCommit r => exact execTrainUpdateCommit_pending r s
  | memoryRequest q => exact execMemoryRequest_pending q s
  | memoryReadResponse port tag ecc chk => exact execMemoryReadResponse_pending port tag ecc chk s
  | rekeyWalk key => exact execRekeyWalk_pending key s
  | varveNodeWriteback level pos => exact execVarveNodeWriteback_pending level pos s
  | hotWindowEnd => exact execHotWindowEnd_pending s
  | vx1FrameMove fn frame dest => exact execVx1FrameMove_pending fn frame dest s
  | repairStart => exact execRepairStart_pending s
  | peerAnswerTimeout repair => exact execPeerAnswerTimeout_pending repair s
  | canonicalReadDone repair resp manifest data => exact execCanonicalReadDone_pending repair resp manifest data s
  | repairReadback repair rd frame => exact execRepairReadback_pending repair rd frame s
  | railFault engine => exact execRailFault_pending engine s
  | stallSentinelExpiry engine => exact execStallSentinelExpiry_pending engine s
  | progressSample => exact execProgressSample_pending s
  | heartbeat => exact execHeartbeat_pending s
  | heartbeatWatchdogExpiry => exact execHeartbeatWatchdogExpiry_pending s
  | engineResetComplete engine => exact execEngineResetComplete_pending engine s
  | contextResetDeadline ctx => exact execContextResetDeadline_pending ctx s
  | engineResetDeadline engine => exact execEngineResetDeadline_pending engine s
  | computeDomainResetComplete => exact execComputeDomainResetComplete_pending s
  | computeDomainResetDeadline => exact execComputeDomainResetDeadline_pending s
  | tarnRestartComplete => exact execTarnRestartComplete_pending s
  | tarnRestartDeadline => exact execTarnRestartDeadline_pending s
  | frameReceive link frame => exact execFrameReceive_pending link frame s
  | ackTimeout link => exact execAckTimeout_pending link s
  | readReq link m ecc => exact execReadReq_pending link m ecc s
  | writeReq link m ecc => exact execWriteReq_pending link m ecc s
  | peerReq link m => exact execPeerReq_pending link m s
  | readResp link m => exact execReadResp_pending link m s
  | writeAck link m => exact execWriteAck_pending link m s
  | peerResp link m => exact execPeerResp_pending link m s
  | hello link m => exact execHello_pending link m s
  | census link m => exact execCensus_pending link m s
  | censusResendTimer ring => exact execCensusResendTimer_pending ring s
  | e2eTimerExpiry tag => exact execE2eTimerExpiry_pending tag s
  | ringHoldExpiry tag => exact execRingHoldExpiry_pending tag s
  | ringJoin ring => exact execRingJoin_pending ring s
  | joinTimeout ring => exact execJoinTimeout_pending ring s
  | lanesReady link => exact execLanesReady_pending link s
  | linkSignalLost link => exact execLinkSignalLost_pending link s
  | trainTimeout link => exact execTrainTimeout_pending link s
  | doeObject fn data => exact execDoeObject_pending fn data s
  | doeAbort fn => exact execDoeAbort_pending fn s
  | spdmMessage fn msg => exact execSpdmMessage_pending fn msg s
  | getMeasurements fn index signed => exact execGetMeasurements_pending fn index signed s
  | keyPut fn session payload => exact execKeyPut_pending fn session payload s
  | keyInfo fn session payload => exact execKeyInfo_pending fn session payload s
  | keyClear fn session payload => exact execKeyClear_pending fn session payload s
  | migPut fn session payload => exact execMigPut_pending fn session payload s
  | migClear fn session payload => exact execMigClear_pending fn session payload s
  | persistWriteDone => exact execPersistWriteDone_pending s
  | holdupFall ns => exact execHoldupFall_pending ns s
  | ledgerFlushDone => exact execLedgerFlushDone_pending s
  | holdupRise ns => exact execHoldupRise_pending ns s
  | holdupEnd => exact execHoldupEnd_pending s
  | wake src => exact execWake_pending src s
  | pwrGoodRise ns => exact execPwrGoodRise_pending ns s
  | pwrGoodFall ns => exact execPwrGoodFall_pending ns s
  | brownoutHoldEnter mv => exact execBrownoutHoldEnter_pending mv s
  | brownoutHoldExit mv => exact execBrownoutHoldExit_pending mv s
  | voltageMonitorReset rail mv => exact execVoltageMonitorReset_pending rail mv s
  | voltageMonitorRelease rail mv => exact execVoltageMonitorRelease_pending rail mv s
  | droopFall ns => exact execDroopFall_pending ns s
  | droopRise ns => exact execDroopRise_pending ns s
  | droopPaceEnd => exact execDroopPaceEnd_pending s
  | pwrbrakeChange low ns => exact execPwrbrakeChange_pending low ns s
  | paceUpdate mw => exact execPaceUpdate_pending mw s
  | assistRelax engine => exact execAssistRelax_pending engine s
  | coldResetAssert ns => exact execColdResetAssert_pending ns s
  | coldResetRelease ns => exact execColdResetRelease_pending ns s
  | warmResetAssert ns => exact execWarmResetAssert_pending ns s
  | warmResetRelease ns => exact execWarmResetRelease_pending ns s
  | selftestDone code => exact execSelftestDone_pending code s
  | selftestLimitExpiry => exact execSelftestLimitExpiry_pending s
  | interruptEntry => exact execInterruptEntry_pending s
  | eoi src => exact execEoi_pending src s
  | mret => exact execMret_pending s
  | accessFault addr kind => exact execAccessFault_pending addr kind s
  | uartCharacter c => exact execUartCharacter_pending c s
  | uartFramingError => exact execUartFramingError_pending s
  | monHelp => exact execMonHelp_pending s
  | monVer => exact execMonVer_pending s
  | monHb => exact execMonHb_pending s
  | monSt => exact execMonSt_pending s
  | monRd off count => exact execMonRd_pending off count s
  | monRq off count => exact execMonRq_pending off count s
  | monWr off value => exact execMonWr_pending off value s
  | monWq off value => exact execMonWq_pending off value s
  | monFn fn => exact execMonFn_pending fn s
  | monRec count => exact execMonRec_pending count s
  | monRing => exact execMonRing_pending s
  | monPwr => exact execMonPwr_pending s
  | monSeal => exact execMonSeal_pending s
  | monBaud rate => exact execMonBaud_pending rate s
  | monLock => exact execMonLock_pending s
  | configurationRequest fn a => exact execConfigurationRequest_pending fn a s
  | boundaryScanTestMode cells => exact execBoundaryScanTestMode_pending cells s

/-- The commands that `keepsMemory` names leave memory as the same list of cells: command by command. -/
theorem exec_mem {c : Instr} (s : State) (h : keepsMemory c = true) : Answers (exec c s) fun t => t.mem = s.mem := by
  cases c with
  | splitLowRead sp off => exact execSplitLowRead_mem sp off s
  | moraineClear fn value => exact execMoraineClear_mem fn value s
  | wplogFlush fn value => exact execWplogFlush_mem fn value s
  | wplogFlushDone fn => exact execWplogFlushDone_mem fn s
  | crevRetry slot => exact execCrevRetry_mem slot s
  | crevHeadWrite value => exact execCrevHeadWrite_mem value s
  | ringJoinRequest ring => exact execRingJoinRequest_mem ring s
  | ringReleaseRequest ring => exact execRingReleaseRequest_mem ring s
  | resetHeadWrite value => exact execResetHeadWrite_mem value s
  | sqFetch q => exact execSqFetch_mem q s
  | sqFetchDone q entries resp => exact execSqFetchDone_mem q entries resp s
  | dispatch r => exact execDispatch_mem r s
  | cqConfirmReadDone q resp => exact execCqConfirmReadDone_mem q resp s
  | eventEntryWrite fn => exact execEventEntryWrite_mem fn s
  | intTimeExpiry q => exact execIntTimeExpiry_mem q s
  | identify r io => exact execIdentify_mem r io s
  | qpCreate r io => exact execQpCreate_mem r io s
  | qpDelete r io => exact execQpDelete_mem r io s
  | cqResume r io => exact execCqResume_mem r io s
  | fnEnable r io => exact execFnEnable_mem r io s
  | fnQuiesce r io => exact execFnQuiesce_mem r io s
  | quiesceComplete fn => exact execQuiesceComplete_mem fn s
  | fnExport r io => exact execFnExport_mem r io s
  | wplogCtl r io => exact execWplogCtl_mem r io s
  | topoWrite r io => exact execTopoWrite_mem r io s
  | configSet r io => exact execConfigSet_mem r io s
  | configAdopt engine io => exact execConfigAdopt_mem engine io s
  | pwrState r io => exact execPwrState_mem r io s
  | pwrLimit r io => exact execPwrLimit_mem r io s
  | patchLoad r io => exact execPatchLoad_mem r io s
  | monUnlock r io => exact execMonUnlock_mem r io s
  | keyAssign r io => exact execKeyAssign_mem r io s
  | keyRelease r io => exact execKeyRelease_mem r io s
  | ctxCreate r io => exact execCtxCreate_mem r io s
  | memShare r io => exact execMemShare_mem r io s
  | invalidationAck inv engine => exact execInvalidationAck_mem inv engine s
  | imgLoad r io => exact execImgLoad_mem r io s
  | imgResumeLoad r io => exact execImgResumeLoad_mem r io s
  | imgReplace r io => exact execImgReplace_mem r io s
  | imgDrop r io => exact execImgDrop_mem r io s
  | imgLoadBegin frames => exact execImgLoadBegin_mem frames s
  | shardReadDone shard resp data => exact execShardReadDone_mem shard resp data s
  | shardRetryTimer shard => exact execShardRetryTimer_mem shard s
  | shardTimeout shard => exact execShardTimeout_mem shard s
  | bodyDigestDone io => exact execBodyDigestDone_mem io s
  | varSeal r io => exact execVarSeal_mem r io s
  | sealTakesEffect variant => exact execSealTakesEffect_mem variant s
  | varUnseal r io => exact execVarUnseal_mem r io s
  | varDrop r io => exact execVarDrop_mem r io s
  | graphStore r io => exact execGraphStore_mem r io s
  | graphPatch r io => exact execGraphPatch_mem r io s
  | graphFree r io => exact execGraphFree_mem r io s
  | rcptRead r io => exact execRcptRead_mem r io s
  | ckptRequest r io => exact execCkptRequest_mem r io s
  | poolCreate r io => exact execPoolCreate_mem r io s
  | poolJoin r io => exact execPoolJoin_mem r io s
  | poolLeave r io => exact execPoolLeave_mem r io s
  | poolDestroy r io => exact execPoolDestroy_mem r io s
  | inferStep r => exact execInferStep_mem r s
  | trainStep r => exact execTrainStep_mem r s
  | graphLaunch r => exact execGraphLaunch_mem r s
  | kernelLaunch r => exact execKernelLaunch_mem r s
  | seqRelease r => exact execSeqRelease_mem r s
  | turnGrant u => exact execTurnGrant_mem u s
  | quantumExpiry u => exact execQuantumExpiry_mem u s
  | minTurnExpiry u => exact execMinTurnExpiry_mem u s
  | cleaveBoundExpiry u => exact execCleaveBoundExpiry_mem u s
  | crevasseWaitingPost => exact execCrevasseWaitingPost_mem s
  | creditReturn u down cls count => exact execCreditReturn_mem u down cls count s
  | swapIn ctx => exact execSwapIn_mem ctx s
  | ageExpiry ctx => exact execAgeExpiry_mem ctx s
  | sliceFetchDone engine rd => exact execSliceFetchDone_mem engine rd s
  | rekeyWalk key => exact execRekeyWalk_mem key s
  | varveNodeWriteback level pos => exact execVarveNodeWriteback_mem level pos s
  | hotWindowEnd => exact execHotWindowEnd_mem s
  | heartbeat => exact execHeartbeat_mem s
  | frameReceive link frame => exact execFrameReceive_mem link frame s
  | ackTimeout link => exact execAckTimeout_mem link s
  | readReq link m ecc => exact execReadReq_mem link m ecc s
  | peerReq link m => exact execPeerReq_mem link m s
  | hello link m => exact execHello_mem link m s
  | census link m => exact execCensus_mem link m s
  | censusResendTimer ring => exact execCensusResendTimer_mem ring s
  | ringJoin ring => exact execRingJoin_mem ring s
  | joinTimeout ring => exact execJoinTimeout_mem ring s
  | lanesReady link => exact execLanesReady_mem link s
  | linkSignalLost link => exact execLinkSignalLost_mem link s
  | trainTimeout link => exact execTrainTimeout_mem link s
  | doeObject fn data => exact execDoeObject_mem fn data s
  | doeAbort fn => exact execDoeAbort_mem fn s
  | spdmMessage fn msg => exact execSpdmMessage_mem fn msg s
  | getMeasurements fn index signed => exact execGetMeasurements_mem fn index signed s
  | keyPut fn session payload => exact execKeyPut_mem fn session payload s
  | keyInfo fn session payload => exact execKeyInfo_mem fn session payload s
  | keyClear fn session payload => exact execKeyClear_mem fn session payload s
  | migPut fn session payload => exact execMigPut_mem fn session payload s
  | migClear fn session payload => exact execMigClear_mem fn session payload s
  | holdupFall ns => exact execHoldupFall_mem ns s
  | holdupRise ns => exact execHoldupRise_mem ns s
  | holdupEnd => exact execHoldupEnd_mem s
  | wake src => exact execWake_mem src s
  | pwrGoodFall ns => exact execPwrGoodFall_mem ns s
  | brownoutHoldEnter mv => exact execBrownoutHoldEnter_mem mv s
  | droopFall ns => exact execDroopFall_mem ns s
  | droopRise ns => exact execDroopRise_mem ns s
  | droopPaceEnd => exact execDroopPaceEnd_mem s
  | pwrbrakeChange low ns => exact execPwrbrakeChange_mem low ns s
  | paceUpdate mw => exact execPaceUpdate_mem mw s
  | assistRelax engine => exact execAssistRelax_mem engine s
  | interruptEntry => exact execInterruptEntry_mem s
  | eoi src => exact execEoi_mem src s
  | mret => exact execMret_mem s
  | accessFault addr kind => exact execAccessFault_mem addr kind s
  | uartFramingError => exact execUartFramingError_mem s
  | configurationRequest fn a => exact execConfigurationRequest_mem fn a s
  | boundaryScanTestMode cells => exact execBoundaryScanTestMode_mem cells s
  | _ => cases h

/-- The other commands may write memory, each through writes that keep the canonical form: command by command. -/
theorem exec_wf_of_not_keepsMemory {c : Instr} {s : State} (h : keepsMemory c = false) (w : s.Inv) : Answers (exec c s) State.Inv := by
  cases c with
  | registerWrite sp off width value => exact execRegisterWrite_wf sp off width value s w
  | unmappedAccess sp off width value => exact execUnmappedAccess_wf sp off width value s w
  | splitLowWrite sp off value => exact execSplitLowWrite_wf sp off value s w
  | splitHighWrite sp off value => exact execSplitHighWrite_wf sp off value s w
  | sqTail d value => exact execSqTail_wf d value s w
  | cqHead d value => exact execCqHead_wf d value s w
  | cqIntMask d value => exact execCqIntMask_wf d value s w
  | msixMaskClear fn vector => exact execMsixMaskClear_wf fn vector s w
  | cirqRtReserve value => exact execCirqRtReserve_wf value s w
  | cirqFnQcfg fn value => exact execCirqFnQcfg_wf fn value s w
  | cirqAdminResume value => exact execCirqAdminResume_wf value s w
  | crevAbort slot => exact execCrevAbort_wf slot s w
  | snowHostAdd value => exact execSnowHostAdd_wf value s w
  | snowImageCfg image value => exact execSnowImageCfg_wf image value s w
  | snowFnQuota fn value => exact execSnowFnQuota_wf fn value s w
  | adminQueueEnable value => exact execAdminQueueEnable_wf value s w
  | engineResetRequest engine => exact execEngineResetRequest_wf engine s w
  | computeDomainResetRequest => exact execComputeDomainResetRequest_wf s w
  | admitEntry q rd away => exact execAdmitEntry_wf q rd away s w
  | commandComplete r => exact execCommandComplete_wf r s w
  | receiptAppend r => exact execReceiptAppend_wf r s w
  | cqeWrite r => exact execCqeWrite_wf r s w
  | commandDeadlineExpiry r => exact execCommandDeadlineExpiry_wf r s w
  | drainComplete r => exact execDrainComplete_wf r s w
  | drainWindowExpiry r => exact execDrainWindowExpiry_wf r s w
  | enableTakesEffect fn io => exact execEnableTakesEffect_wf fn io s w
  | fnReset r io => exact execFnReset_wf r io s w
  | vfFunctionLevelReset fn => exact execVfFunctionLevelReset_wf fn s w
  | functionResetEnd fn io => exact execFunctionResetEnd_wf fn io s w
  | pf0FunctionLevelReset => exact execPf0FunctionLevelReset_wf s w
  | fnImport r io frames => exact execFnImport_wf r io frames s w
  | topoCommit r io => exact execTopoCommit_wf r io s w
  | powerStateEntry => exact execPowerStateEntry_wf s w
  | ctxDestroy r io => exact execCtxDestroy_wf r io s w
  | ctxReset r io => exact execCtxReset_wf r io s w
  | memAlloc r io frames => exact execMemAlloc_wf r io frames s w
  | memFree r io => exact execMemFree_wf r io s w
  | mapRange r io => exact execMapRange_wf r io s w
  | unmapRange r io => exact execUnmapRange_wf r io s w
  | mapRemote r io => exact execMapRemote_wf r io s w
  | varRegister r io ecc => exact execVarRegister_wf r io ecc s w
  | varUpdate r io => exact execVarUpdate_wf r io s w
  | variantWaitEnd r io => exact execVariantWaitEnd_wf r io s w
  | checkpointSigned io => exact execCheckpointSigned_wf io s w
  | copy r ecc => exact execCopy_wf r ecc s w
  | seqCreate r => exact execSeqCreate_wf r s w
  | seqTruncate r => exact execSeqTruncate_wf r s w
  | provisioningPass => exact execProvisioningPass_wf s w
  | issue u => exact execIssue_wf u s w
  | runAhead u => exact execRunAhead_wf u s w
  | tableWalkDone walker rd => exact execTableWalkDone_wf walker rd s w
  | tileDone u p => exact execTileDone_wf u p s w
  | cleaveReached u p => exact execCleaveReached_wf u p s w
  | saveData u p => exact execSaveData_wf u p s w
  | saveEnd u p => exact execSaveEnd_wf u p s w
  | restoreData u => exact execRestoreData_wf u s w
  | tileError u p => exact execTileError_wf u p s w
  | eviction u => exact execEviction_wf u s w
  | wblock b => exact execWblock_wf b s w
  | tapIn u p => exact execTapIn_wf u p s w
  | tapAnswer u tag => exact execTapAnswer_wf u tag s w
  | trainUpdate r => exact execTrainUpdate_wf r s w
  | trainUpdateCommit r => exact execTrainUpdateCommit_wf r s w
  | memoryRequest q => exact execMemoryRequest_wf q s w
  | memoryReadResponse port tag ecc chk => exact execMemoryReadResponse_wf port tag ecc chk s w
  | vx1FrameMove fn frame dest => exact execVx1FrameMove_wf fn frame dest s w
  | repairStart => exact execRepairStart_wf s w
  | peerAnswerTimeout repair => exact execPeerAnswerTimeout_wf repair s w
  | canonicalReadDone repair resp manifest data => exact execCanonicalReadDone_wf repair resp manifest data s w
  | repairReadback repair rd frame => exact execRepairReadback_wf repair rd frame s w
  | railFault engine => exact execRailFault_wf engine s w
  | stallSentinelExpiry engine => exact execStallSentinelExpiry_wf engine s w
  | progressSample => exact execProgressSample_wf s w
  | heartbeatWatchdogExpiry => exact execHeartbeatWatchdogExpiry_wf s w
  | engineResetComplete engine => exact execEngineResetComplete_wf engine s w
  | contextResetDeadline ctx => exact execContextResetDeadline_wf ctx s w
  | engineResetDeadline engine => exact execEngineResetDeadline_wf engine s w
  | computeDomainResetComplete => exact execComputeDomainResetComplete_wf s w
  | computeDomainResetDeadline => exact execComputeDomainResetDeadline_wf s w
  | tarnRestartComplete => exact execTarnRestartComplete_wf s w
  | tarnRestartDeadline => exact execTarnRestartDeadline_wf s w
  | writeReq link m ecc => exact execWriteReq_wf link m ecc s w
  | readResp link m => exact execReadResp_wf link m s w
  | writeAck link m => exact execWriteAck_wf link m s w
  | peerResp link m => exact execPeerResp_wf link m s w
  | e2eTimerExpiry tag => exact execE2eTimerExpiry_wf tag s w
  | ringHoldExpiry tag => exact execRingHoldExpiry_wf tag s w
  | persistWriteDone => exact execPersistWriteDone_wf s w
  | ledgerFlushDone => exact execLedgerFlushDone_wf s w
  | pwrGoodRise ns => exact execPwrGoodRise_wf ns s w
  | brownoutHoldExit mv => exact execBrownoutHoldExit_wf mv s w
  | voltageMonitorReset rail mv => exact execVoltageMonitorReset_wf rail mv s w
  | voltageMonitorRelease rail mv => exact execVoltageMonitorRelease_wf rail mv s w
  | coldResetAssert ns => exact execColdResetAssert_wf ns s w
  | coldResetRelease ns => exact execColdResetRelease_wf ns s w
  | warmResetAssert ns => exact execWarmResetAssert_wf ns s w
  | warmResetRelease ns => exact execWarmResetRelease_wf ns s w
  | selftestDone code => exact execSelftestDone_wf code s w
  | selftestLimitExpiry => exact execSelftestLimitExpiry_wf s w
  | uartCharacter c => exact execUartCharacter_wf c s w
  | monHelp => exact execMonHelp_wf s w
  | monVer => exact execMonVer_wf s w
  | monHb => exact execMonHb_wf s w
  | monSt => exact execMonSt_wf s w
  | monRd off count => exact execMonRd_wf off count s w
  | monRq off count => exact execMonRq_wf off count s w
  | monWr off value => exact execMonWr_wf off value s w
  | monWq off value => exact execMonWq_wf off value s w
  | monFn fn => exact execMonFn_wf fn s w
  | monRec count => exact execMonRec_wf count s w
  | monRing => exact execMonRing_wf s w
  | monPwr => exact execMonPwr_wf s w
  | monSeal => exact execMonSeal_wf s w
  | monBaud rate => exact execMonBaud_wf rate s w
  | monLock => exact execMonLock_wf s w
  | _ => cases h

/-- Every command keeps memory in canonical form. -/
theorem exec_wf (c : Instr) {s : State} (w : s.Inv) : Answers (exec c s) State.Inv := by
  cases h : keepsMemory c with
  | true =>
    obtain ⟨t, ht, hmem⟩ := exec_mem s h
    exact ⟨t, ht, (congrArg Memory.wf hmem).trans w⟩
  | false => exact exec_wf_of_not_keepsMemory h w

/-- A step with no command waiting is one period of the reference clock. -/
theorem step_idle {s : State} (h : s.pending = []) : step s = .next ((s.elapse 10).releasePorts (s.now + 10)) := by
  unfold step
  rw [h]

/-- A step with commands waiting runs the first on the state with the rest. -/
theorem step_cons {s : State} {c : Instr} {rest : List Instr} (h : s.pending = c :: rest) :
    step s = exec c { s with pending := rest } := by
  unfold step
  rw [h]

/-- A period of the reference clock leaves memory alone. -/
theorem idle_mem (s : State) : ((s.elapse 10).releasePorts (s.now + 10)).mem = s.mem := by
  rw [State.releasePorts_eq]; rfl

/-- Every step answers a next state, and takes from the queue the command it runs alone. -/
theorem step_pending (s : State) : Answers (step s) fun t => t.pending = s.pending.drop 1 := by
  cases h : s.pending with
  | nil => exact .of_eq (step_idle h) (by rw [State.releasePorts_eq]; exact h)
  | cons c rest =>
    rw [step_cons h]
    exact exec_pending c { s with pending := rest }

/-- Every step keeps memory in canonical form. -/
theorem step_wf {s : State} (w : s.Inv) : Answers (step s) State.Inv := by
  cases h : s.pending with
  | nil => exact .of_eq (step_idle h) ((congrArg Memory.wf (idle_mem s)).trans w)
  | cons c rest =>
    rw [step_cons h]
    exact exec_wf c (s := { s with pending := rest }) w

/-- A run of one step more is a run from the next state. -/
theorem run_succ {s t : State} (n : Nat) (h : step s = .next t) : core.run (n + 1) s = core.run n t := by
  have hstep : core.step s = .next t := h
  simp only [Host.Core.run, hstep]

/-- Settles O57, by induction on the number of steps: each takes the command at the front and leaves the rest in order. -/
theorem queueRunsInOrder : Obligations.QueueRunsInOrder := by
  unfold Obligations.QueueRunsInOrder
  intro n
  induction n with
  | zero => exact fun s _ => ⟨s, rfl, rfl⟩
  | succ n ih =>
    intro s hn
    obtain ⟨t, ht, hpending⟩ := step_pending s
    have hlength : n ≤ t.pending.length := by rw [hpending, List.length_drop]; omega
    obtain ⟨u, hu, hrest⟩ := ih t hlength
    exact ⟨u, (run_succ n ht).trans hu, by simp only [hrest, hpending, List.drop_drop, Nat.add_comm]⟩

/-- Settles O59: a step answers one state, and that state is in canonical form. -/
theorem stepKeepsMemoryCanonical : Obligations.StepKeepsMemoryCanonical := by
  intro s t w ht
  obtain ⟨u, hu, hwf⟩ := step_wf w
  cases ht.symm.trans hu
  exact hwf

/-- Settles O56. -/
theorem everyCommandCompletes : Obligations.EveryCommandCompletes := exec_pending

/-- Settles O60. -/
theorem memoryFrame : Obligations.MemoryFrame := by
  intro c s h
  obtain ⟨t, ht, hmem⟩ := exec_mem s h
  exact ⟨t, ht, fun a => congrArg (memGet · a) hmem⟩

/-- Settles O58: the reset state lists no cell. -/
theorem resetMemoryCanonical : Obligations.ResetMemoryCanonical := rfl

/-- Settles O54. -/
theorem stepRunsFront : Obligations.StepRunsFront :=
  fun _ _ => ⟨fun _ h => step_cons h, rfl⟩

/-- The ports and pins that a release of tile ports leaves, whether or not any port rises. -/
theorem State.releasePorts_portsAndPins (s : State) (t : Nat) :
    (s.releasePorts t).ports = { s.ports with credits := s.ports.credits ++ (s.risingPorts t).flatMap upGrants } ∧
    (s.releasePorts t).pins = { s.pins with tpRstN := (s.risingPorts t).foldl (fun m p => m ||| (1#32 <<< p)) s.pins.tpRstN } := by
  unfold State.releasePorts
  cases hrising : s.risingPorts t with
  | nil => simp
  | cons p l => simp

/-- Settles O55: the period passes, and ports may rise. -/
theorem idleStep : Obligations.IdleStep := by
  intro s hs
  obtain ⟨hports, hpins⟩ := State.releasePorts_portsAndPins (s.elapse 10) (s.now + 10)
  rw [elapse_rising] at hports hpins
  have hframe := State.releasePorts_eq (s.elapse 10) (s.now + 10)
  refine .of_eq (step_idle hs) ⟨?_, ?_, idle_mem s, ?_, ?_, ?_, ?_, ?_, ?_, hports, hpins⟩ <;> rw [hframe]
  · rfl
  · exact hs
  all_goals rfl

/-- Settles O2: each write is one record update of the field it names. -/
theorem registerFields : Obligations.RegisterFields := fun _ _ => ⟨rfl, rfl, rfl, rfl, rfl⟩

end Sys2Proof.Machine
end

section
/-! PROOFS. Accesses of the host at the registers (02_edges.md, Address windows): full-width and split accesses, accesses that reach no
register, and the doorbell blocks of queues that exist (03_queues.md, Doorbell blocks). -/

namespace Sys2Proof.Machine

open Sys2Proof

/-- A host write that is carried out acts on the bus; the window is not Tarn's own. -/
theorem State.writeVia_reached {s : State} {c : Instr} {sp : Space} (off w v : Nat) (h : s.reachable = true) (hc : accessor c = none)
    (hsp : sp ≠ .tarn) : s.writeVia c sp off w v = s.busWrite sp off w v := by
  cases sp with
  | tarn => exact absurd rfl hsp
  | bar0 | bar2 | vf f => exact State.access_own (f := fun t => t.busWrite _ off w v) false h hc

/-- A host read that is carried out is answered at the host port. -/
theorem State.readVia_reached {s : State} {c : Instr} {sp : Space} (off w : Nat) (h : s.reachable = true) (hc : accessor c = none)
    (hsp : sp ≠ .tarn) : s.readVia c sp off w = (s.busRead sp off w).2.pushHost (.readData (s.busRead sp off w).1) := by
  cases sp with
  | tarn => exact absurd rfl hsp
  | bar0 | bar2 | vf f => exact State.access_own (f := fun t => (t.busRead _ off w).2.pushHost (.readData (t.busRead _ off w).1)) true h hc

/-- A multiple of 4 is aligned for an access of 4 bytes. -/
theorem aligned_four {off : Nat} (h : off % 4 = 0) : aligned off 4 = true := by simp [aligned, h]

/-- A 4-byte write at the low half of an 8-byte register is held. -/
theorem State.busWrite_low {s : State} {sp : Space} {off : Nat} (v : Nat) {r : Reg} (h : s.reachable = true) (hb : inBar sp off = true)
    (ha : off % 4 = 0) (hp : placeAt sp off = some (.reg r 0)) (hw : r.width = 8) :
    s.busWrite sp off 4 v = s.writeLow sp off (v % 2 ^ 32) := by
  simp [State.busWrite, hb, aligned_four ha, hp, hw, State.reachable_halted h]

/-- A 4-byte write at the high half of an 8-byte register joins the low half that its requester holds. -/
theorem State.busWrite_high {s : State} {sp : Space} {off lo : Nat} (v : Nat) {r : Reg} (h : s.reachable = true)
    (hb : inBar sp (off + 4) = true) (ha : off % 4 = 0) (hp : placeAt sp (off + 4) = some (.reg r 4)) (hw : r.width = 8)
    (hheld : (s.halves (requester sp)).held = some (sp, off, lo)) :
    s.busWrite sp (off + 4) 4 v =
      (s.updHalves (requester sp) fun x => { x with held := none }).regWrite r (lo + at_ (v % 2 ^ 32) 32) := by
  have haligned : aligned (off + 4) 4 = true := aligned_four (by omega)
  simp [State.busWrite, State.writeHigh, hb, haligned, hp, hw, hheld, State.reachable_halted h]

/-- A read of the low half answers the low word and captures the high word. -/
theorem State.readHalf_low (s : State) (sp : Space) (off : Nat) (r : Reg) :
    s.readHalf sp off r 0 = (s.regRead r % 2 ^ 32, s.updHalves (requester sp) fun h =>
      { h with captured := (sp, halfPlace (.reg r 0) off, s.regRead r / 2 ^ 32) ::
          h.captured.filter fun c => !(c.1 == sp && c.2.1 == halfPlace (.reg r 0) off) }) := by
  rw [State.readHalf, if_pos rfl]

/-- A 4-byte read at the low half of an 8-byte register captures the high half. -/
theorem State.busRead_low {s : State} {sp : Space} {off : Nat} {r : Reg} (h : s.reachable = true) (hb : inBar sp off = true)
    (ha : off % 4 = 0) (hp : placeAt sp off = some (.reg r 0)) (hw : r.width = 8) (hn : s.noHalf (requester sp)) :
    s.busRead sp off 4 = s.readHalf sp off r 0 := by
  simp [State.busRead, hb, aligned_four ha, hp, hw, State.dropHeld_noHalf hn, State.reachable_halted h]

/-- A write that is not aligned or finds no register is counted. -/
theorem State.busWrite_unmapped {s : State} {sp : Space} {off w : Nat} (v : Nat) (h : s.reachable = true) (hb : inBar sp off = true)
    (hn : s.noHalf (requester sp)) (hu : aligned off w = false ∨ placeAt sp off = none) : s.busWrite sp off w v = s.countUnmapped 1 := by
  unfold State.busWrite
  rw [State.dropHeld_noHalf hn, hb, State.reachable_halted h]
  cases ha : aligned off w with
  | false => rfl
  | true =>
    have hp : placeAt sp off = none := hu.resolve_left (by simp [ha])
    rw [hp]; rfl

/-- A read of that kind is counted, and answers 0. -/
theorem State.busRead_unmapped {s : State} {sp : Space} {off w : Nat} (h : s.reachable = true) (hb : inBar sp off = true)
    (hn : s.noHalf (requester sp)) (hu : aligned off w = false ∨ placeAt sp off = none) : s.busRead sp off w = (0, s.countUnmapped 1) := by
  unfold State.busRead
  rw [State.dropHeld_noHalf hn, hb, State.reachable_halted h]
  cases ha : aligned off w with
  | false => rfl
  | true =>
    have hp : placeAt sp off = none := hu.resolve_left (by simp [ha])
    rw [hp]; rfl

/-- Settles O1: the access reaches the bus, and the bus the register. -/
theorem registerWrites : Obligations.RegisterWrites := by
  intro s sp off w v r hs hsp hb ha hp hw hn
  exact congrArg Host.Outcome.next ((State.writeVia_reached off w v hs rfl hsp).trans (State.busWrite_reg hs hb ha hp hw hn))

/-- Settles O3, half by half. -/
theorem splitAccess : Obligations.SplitAccess := by
  refine ⟨?_, ?_, ?_⟩
  · intro s sp off v r hs hsp hb ha hp hw
    refine .of_eq (congrArg Host.Outcome.next ((State.writeVia_reached off 4 v hs rfl hsp).trans (State.busWrite_low v hs hb ha hp hw))) ?_
    simp [State.writeLow]
  · intro s sp off v lo r hs hsp hb ha hp hw hheld
    exact congrArg Host.Outcome.next ((State.writeVia_reached (off + 4) 4 v hs rfl hsp).trans (State.busWrite_high v hs hb ha hp hw hheld))
  · intro s sp off r hs hsp hb ha hp hw hn
    refine .of_eq (congrArg Host.Outcome.next (State.readVia_reached off 4 hs rfl hsp)) ?_
    rw [State.busRead_low hs hb ha hp hw hn, State.readHalf_low]
    refine ⟨?_, rfl⟩
    have hcaptured := halves_upd s (requester sp) fun h =>
      { h with captured := (sp, halfPlace (.reg r 0) off, s.regRead r / 2 ^ 32) ::
          h.captured.filter fun c => !(c.1 == sp && c.2.1 == halfPlace (.reg r 0) off) }
    exact (congrArg Halves.captured hcaptured) ▸ List.mem_cons_self

/-- Settles O11: each access is one count. -/
theorem unmappedAccesses : Obligations.UnmappedAccesses := by
  intro s sp off w hs hsp hb hn hu
  refine ⟨fun v => ?_, ?_⟩
  · exact congrArg Host.Outcome.next ((State.writeVia_reached off w v hs rfl hsp).trans (State.busWrite_unmapped v hs hb hn hu))
  · refine congrArg Host.Outcome.next ((State.readVia_reached off w hs rfl hsp).trans ?_)
    rw [State.busRead_unmapped hs hb hn hu]

/-! ## Doorbells of a queue that exists -/

/-- A write to the block of a queue that takes it, register by register. -/
theorem State.doorWrite_eq {s : State} {d : Door} {i : Nat} {q : Queue} (v : Nat) (h : s.doorQueue d = some (i, q)) :
    s.doorWrite d 0 v = s.ringTail i q (v % 65536) ∧ s.doorWrite d 1 v = s.ringHead i q (v % 65536) ∧
      s.doorWrite d 5 v = s.ringMask i q v := by
  obtain ⟨hown, hblock⟩ := door_pf0 h
  unfold State.doorWrite
  cases d with
  | pf0 n =>
    rw [hblock] at hown
    simp only [hblock, h, hown]
    exact ⟨rfl, rfl, rfl⟩
  | own f n =>
    simp only [hblock, h]
    exact ⟨rfl, rfl, rfl⟩

/-- The queue that a change of it leaves. -/
theorem State.modQ_queueHas {s : State} {i : Nat} {q : Queue} {g : Queue → Queue} {P : Queue → Prop} (h : tget? s.queues i = some q)
    (p : P (g q)) : (s.modQ i g).queueHas i P :=
  ⟨g q, by rw [State.modQ_queues, tget?_tmod, h]; rfl, p⟩

/-- A refused doorbell write sets the error flag alone. -/
theorem State.refuseDoorbell_queue {s : State} {i : Nat} {q : Queue} (h : tget? s.queues i = some q) :
    tget? (s.refuseDoorbell i q).queues i = some { q with dbError := true } := by
  rw [State.refuseDoorbell, postEvent_queues, State.modQ_queues, tget?_tmod, h]; rfl

/-- The end of a replay changes no queue whose replay is over. -/
theorem State.replayEnd_none {s : State} {i : Nat} {q : Queue} (h : tget? s.queues i = some q) (hr : q.replay = none) : s.replayEnd i = s := by
  unfold State.replayEnd
  simp only [h, hr]

/-- A queue with no replay is left alone by the step of replays. -/
theorem State.replayStep_queue {s : State} {i : Nat} {q : Queue} (h : tget? s.queues i = some q) (hr : q.replay = none) :
    tget? (s.replayStep i).queues i = some q := by
  have honward : tget? s.replayOnward.queues i = some q := State.replayOnward_other s h hr
  unfold State.replayStep
  rw [h]
  dsimp only
  split
  · exact h
  · rw [State.replayEnd_none honward hr]; exact honward

/-- Settles O4: each write comes down to one operation of the queue. -/
theorem doorbells : Obligations.Doorbells := by
  intro s d v i q hs hd hn hdoor hq
  obtain ⟨htail, hhead, hmask⟩ := State.doorWrite_eq (v % 2 ^ 32) hdoor
  have hv : v % 2 ^ 32 % 65536 = v % 65536 := by omega
  rw [hv] at htail hhead
  have hsqTail : exec (.sqTail d v) s = .next (s.ringTail i q (v % 65536)) :=
    congrArg Host.Outcome.next ((door_exec rfl hs hd hn (by decide)).trans htail)
  have hcqHead : exec (.cqHead d v) s = .next (s.ringHead i q (v % 65536)) :=
    congrArg Host.Outcome.next ((door_exec rfl hs hd hn (by decide)).trans hhead)
  have hcqInt : exec (.cqIntMask d v) s = .next (s.ringMask i q (v % 2 ^ 32)) :=
    congrArg Host.Outcome.next ((door_exec rfl hs hd hn (by decide)).trans hmask)
  refine ⟨fun hlt => .of_eq hsqTail ?_, fun hge => .of_eq hsqTail ?_, fun hge => .of_eq hcqHead ?_, fun hlt hunread hreplay => .of_eq hcqHead ?_,
    .of_eq hcqInt ?_⟩
  · rw [State.ringTail, if_neg (Nat.not_le.mpr hlt)]
    exact State.modQ_queueHas hq ⟨rfl, rfl, rfl⟩
  · rw [State.ringTail, if_pos hge]
    exact ⟨_, State.refuseDoorbell_queue hq, rfl, rfl⟩
  · rw [State.ringHead, if_pos hge]
    exact ⟨_, State.refuseDoorbell_queue hq, rfl, rfl⟩
  · rw [State.ringHead, if_neg (Nat.not_le.mpr hlt), if_neg (Nat.not_lt.mpr hunread)]
    have hmoved : tget? (s.modQ i fun x => Queue.liveEvents { x with cqHead := v % 65536 }).queues i =
        some (Queue.liveEvents { q with cqHead := v % 65536 }) := by rw [State.modQ_queues, tget?_tmod, hq]; rfl
    exact ⟨_, State.replayStep_queue hmoved hreplay, rfl, rfl⟩
  · have hbit : bit (v % 2 ^ 32) 0 = bit v 0 := by unfold bit; congr 1; omega
    have hmasked : tget? (s.modQ i fun x => { x with mask := bit (v % 2 ^ 32) 0 }).queues i =
        some { q with mask := bit (v % 2 ^ 32) 0 } := by rw [State.modQ_queues, tget?_tmod, hq]; rfl
    unfold State.ringMask
    dsimp only
    split
    · exact ⟨_, State.signalCq_cq _ _ _ hmasked, hbit, rfl⟩
    · exact ⟨_, hmasked, hbit, rfl⟩

end Sys2Proof.Machine
end

section
/-! PROOFS. Fetching submission entries (03_queues.md, Fetch and admission). -/

namespace Sys2Proof.Machine

open Sys2Proof

/-- A fetch reads the run of entries at the head, and leaves the head. -/
theorem State.grantFetch_eff {s : State} {i : Nat} {q : Queue} (slot : Nat) (h : tget? s.queues i = some q) :
    tget? (s.grantFetch i slot).queues i = some { q with fetching := s.fetchSize i q, fetchDead := false } ∧
    (s.grantFetch i slot).ports.host = s.ports.host ++ s.readTx q.fn (q.sqBase + 64 * q.sqHead) (64 * s.fetchSize i q) ∧
    (s.grantFetch i slot).cirq.fetchSlot = slot := by
  unfold State.grantFetch
  simp only [h]
  refine ⟨?_, rfl, trivial⟩
  show tget? (tmod s.queues i _) i = _
  rw [tget?_tmod, h]; rfl

/-- An event that is posted waits for its function. -/
theorem State.postEvent_waits (s : State) (f : Nat) (e : Event) (p : Nat) : ∃ x ∈ ((s.postEvent f e p).fn f).events, x.code = e := by
  unfold State.postEvent
  rw [State.fn_updFn]
  split
  · rename_i hwaiting
    obtain ⟨x, hx, hcode⟩ := List.any_eq_true.mp hwaiting
    exact ⟨x, hx, eq_of_beq hcode⟩
  · exact ⟨_, List.mem_append_right _ List.mem_cons_self, rfl⟩

/-- Settles O5. -/
theorem queueFetch : Obligations.QueueFetch := by
  refine ⟨?_, ?_⟩
  · intro s q slot x hgrant hx
    obtain ⟨hqueue, hhost, hslot⟩ := State.grantFetch_eff slot hx
    refine .of_eq (t := s.grantFetch q slot) ?_ ⟨⟨_, hqueue, rfl, rfl⟩, hhost, hslot⟩
    show Host.Outcome.next _ = _
    rw [hgrant]; exact congrArg Host.Outcome.next (if_pos rfl)
  · intro s q x l hx hfetching
    refine ⟨fun hsq hcq hdead hphase => ?_, fun resp hresp => ?_⟩
    · refine .of_eq (t := s.modQ q fun y => y.takeEntries ((List.range y.fetching).map fun i => l.getD i [])) ?_
        (State.modQ_queueHas hx ⟨rfl, ?_, ?_⟩)
      · show Host.Outcome.next _ = _
        simp only [hx, if_neg hfetching, hsq, hcq, hdead, hphase]; rfl
      · simp [Queue.takeEntries]
      · simp [Queue.takeEntries]
    · refine .of_eq (t := (s.modQ q fun y => { y.takeEntries (if x.fetchDead || x.sqBroken || x.cqBroken || (s.fn x.fn).phase != .enabled then []
          else l.take y.fetching) with sqBroken := true }).postEvent x.eventFn .sqFetchFailed (queueParam q x.fn)) ?_ ?_
      · show Host.Outcome.next _ = _
        simp only [hx, if_neg hfetching, if_neg hresp]
      · have hqueue := State.modQ_queueHas (P := fun y => y.fetching = 0 ∧ y.sqBroken = true)
          (g := fun y => { y.takeEntries (if x.fetchDead || x.sqBroken || x.cqBroken || (s.fn x.fn).phase != .enabled then []
            else l.take y.fetching) with sqBroken := true }) hx ⟨rfl, rfl⟩
        exact ⟨hqueue, State.postEvent_waits _ _ _ _⟩

end Sys2Proof.Machine
end

section
/-! PROOFS. The path of a command from admission to its completion entry, and the confirmations, interrupts, event entries, deadlines and
drains of queues (03_queues.md). -/

namespace Sys2Proof.Machine

open Sys2Proof

/-- Cirque works only while the stages run, and outside its reset. -/
theorem State.cirqueRuns_parts {s : State} (h : s.cirqueRuns = true) : s.stagesRun = true ∧ s.engDown 0x0700 = false := by
  simp only [State.cirqueRuns, Bool.and_eq_true, Bool.not_eq_true'] at h
  exact h.1

/-! ## Admission -/

theorem State.takeEntry_queue {s : State} {i : Nat} {q : Queue} (e : Fetched) (l : List Fetched) (h : tget? s.queues i = some q) :
    tget? (s.takeEntry i q e l).queues i = some { q with fetched := l } := by
  show tget? (tmod s.queues i _) i = _
  rw [tget?_tmod, h]; rfl

/-- An entry that is refused stands completed with its status at the lowest free record. -/
theorem State.refuseEntry_completed (s : State) (c : Cmd) (st : Status) : (s.refuseEntry c st).completed (tfree s.cmds 0) st :=
  ⟨_, tget?_tset _ _ _, rfl, rfl⟩

/-- An admission whose conditions hold: what becomes of the entry taken. -/
theorem State.admitOne_eq {s : State} {i : Nat} {q : Queue} {e : Fetched} {l : List Fetched} (ecc : Ecc) (chk : PathCheck) (b : Blob)
    (hq : tget? s.queues i = some q) (hl : q.fetched = e :: l) (hruns : s.cirqueRuns = true) (hfree : s.recordFree = true)
    (hopen : s.admitsOpen = true) (hphase : (s.fn q.fn).phase = .enabled) :
    s.admitOne i ecc chk b = State.settle (match (s.takeEntry i q e l).checkEntry q e.sqe with
      | some st => (s.takeEntry i q e l).refuseEntry (s.recordOf i q e) st
      | none =>
        if q.admin then ({ s.takeEntry i q e l with cmds := tset s.cmds (tfree s.cmds 0) (s.recordOf i q e) } : State).noteAdmitted (s.recordOf i q e)
        else match (s.takeEntry i q e l).ctxOf q.fn (sqeContext e.sqe) with
          | some x => (s.takeEntry i q e l).admitIo q (s.recordOf i q e) x ecc chk b
          | none => (s.takeEntry i q e l).refuseEntry (s.recordOf i q e) .invalidContext) := by
  obtain ⟨hstages, hup⟩ := State.cirqueRuns_parts hruns
  unfold State.admitOne
  simp only [hq, hl, hstages, hup, hfree, hopen, hphase]
  rfl

/-! ## Completion entries -/

/-- A completion entry moves the tail by one place of the ring, and begins no replay. -/
theorem State.emitCqe_tail {s : State} {i : Nat} {q : Queue} (e : Cqe) (h : tget? s.queues i = some q) :
    (s.emitCqe i e).queueHas i fun y => y.replay = q.replay ∧ y.cqTail = if q.cqTail + 1 = q.depth then 0 else q.cqTail + 1 := by
  unfold State.emitCqe
  simp only [h]
  generalize hs1 : State.hostRead _ _ _ _ = s1
  have hq1 : tget? s1.queues i = some q := by rw [← hs1]; simpa [hostWrite_queues] using h
  have hmoved : (s1.modQ i fun x =>
      { x with
        cqTail := if q.cqTail + 1 == q.depth then 0 else x.cqTail + 1, phase := if q.cqTail + 1 == q.depth then !x.phase else x.phase
        eventSlots := if e.event then x.eventSlots ++ [x.cqTail] else x.eventSlots
        burst := x.burst ++ [e], burstStart := if x.burst.isEmpty then x.cqTail else x.burstStart
        burstPhase := if x.burst.isEmpty then x.phase else x.burstPhase
        unsignalled := x.unsignalled + 1, unsigSince := if x.unsigSince.isNone then some s.now else x.unsigSince }).queueHas i
      fun y => y.replay = q.replay ∧ y.cqTail = if q.cqTail + 1 = q.depth then 0 else q.cqTail + 1 :=
    State.modQ_queueHas hq1 ⟨rfl, by simp⟩
  split
  · exact State.interruptCq_cq (fun _ h => h) hmoved
  · exact hmoved

/-- The completion of a command frees its record and puts its entry into a queue that is not broken. -/
theorem State.completeOut_eff {s : State} {r : Nat} {c : Cmd} {q : Queue} (hq : tget? s.queues c.q = some q) (hbroken : q.cqBroken = false) :
    (s.completeOut r c).cmds = tdel s.cmds r ∧ (s.completeOut r c).queueHas c.q fun y =>
      y.replay = q.replay ∧ y.cqTail = if q.cqTail + 1 = q.depth then 0 else q.cqTail + 1 := by
  unfold State.completeOut State.produceCqe
  simp only [hq, hbroken]
  refine ⟨by simp, ?_⟩
  obtain ⟨y, hy, hP⟩ := State.emitCqe_tail (s := { s with cmds := tdel s.cmds r }) { s.cqeOf c with intNow := sqeIntNow c.sqe } hq
  exact ⟨y, by simpa using hy, hP⟩

/-- A receipt joins its function's chain. -/
theorem State.append_eff (s : State) (f : Nat) (r : Receipt) :
    (s.append f r).ledg.buffer.length = s.ledg.buffer.length + 1 ∧ ((s.append f r).head f).seq = (s.head f).seq + 1 := by
  unfold State.append
  dsimp only
  split <;> split <;> exact ⟨by simp, by simp [State.head, tget]⟩

/-- No restart receipt is due where none is owed. -/
theorem State.restartDue_none {s : State} {f : Nat} (h : s.restartOwed f = false) : s.restartDue f = s := by
  unfold State.restartDue
  rw [h]; rfl

/-- The record that a change of it leaves. -/
theorem State.modCmd_cmdHas {s : State} {r : Nat} {c : Cmd} {g : Cmd → Cmd} {P : Cmd → Prop} (h : tget? s.cmds r = some c) (p : P (g c)) :
    (s.modCmd r g).cmdHas r P :=
  ⟨g c, by rw [State.modCmd_cmds, tget?_tmod, h]; rfl, p⟩

/-- ADMIT_ENTRY, first clause of O6. -/
theorem admitEntry_path {s : State} {i : Nat} {q : Queue} {e : Fetched} {l : List Fetched} (ecc : Ecc) (chk : PathCheck) (b : Blob)
    (hq : tget? s.queues i = some q) (hl : q.fetched = e :: l) (hruns : s.cirqueRuns = true) (hfree : s.recordFree = true)
    (hopen : s.admitsOpen = true) (hphase : (s.fn q.fn).phase = .enabled) :
    (∀ st, (s.takeEntry i q e l).checkEntry q e.sqe = some st → AnswersSettled (exec (.admitEntry i { ecc := ecc, chk := chk } b) s) fun t =>
      t.completed (tfree s.cmds 0) st ∧ t.queueHas i fun y => y.fetched = l) ∧
    ((s.takeEntry i q e l).checkEntry q e.sqe = none → q.admin = true →
      AnswersSettled (exec (.admitEntry i { ecc := ecc, chk := chk } b) s) fun t =>
        t.cmdHas (tfree s.cmds 0) (fun c => c.sqe = e.sqe ∧ c.stage = .accepted ∧ c.fn = q.fn) ∧ t.queueHas i fun y => y.fetched = l) := by
  have hadmit : exec (.admitEntry i { ecc := ecc, chk := chk } b) s = .next _ :=
    congrArg Host.Outcome.next (State.admitOne_eq ecc chk b hq hl hruns hfree hopen hphase)
  have hqueue := State.takeEntry_queue e l hq
  refine ⟨fun st hst => ?_, fun hnone hadmin => ?_⟩
  · simp only [hst] at hadmit
    exact .of_eq hadmit ⟨State.refuseEntry_completed _ _ st, _, hqueue, rfl⟩
  · simp only [hnone, hadmin, if_true] at hadmit
    refine .of_eq hadmit ⟨⟨_, tget?_tset _ _ _, rfl, rfl, rfl⟩, State.modQ_queueHas hqueue rfl⟩

/-- Settles O6, stage by stage. -/
theorem commandPath : Obligations.CommandPath := by
  refine ⟨fun s i q e l ecc chk b hq hl hruns hfree hopen hphase => admitEntry_path ecc chk b hq hl hruns hfree hopen hphase, ?_, ?_, ?_⟩
  · intro s r c hc hruns
    refine ⟨fun hstage hdecided horder hadmin => ?_, fun hstage hgrant => ?_⟩
    · have hroom : (!c.admin || decide (s.adminRunning < 64)) = true := by
        cases h : c.admin with
        | false => rfl
        | true => simpa using hadmin h
      refine .of_eq (u := { ((if c.admin then s.pulse 32 else s).modCmd r fun x => { x with stage := .dispatched, seqno := s.cirq.accepts + 1 }) with
            cirq := { s.cirq with accepts := s.cirq.accepts + 1 } }) ?_ ⟨⟨{ c with stage := .dispatched, seqno := s.cirq.accepts + 1 }, ?_, rfl⟩, rfl⟩
      · show Host.Outcome.next _ = _
        simp only [hc, hruns, hstage, hdecided, horder, hroom]; rfl
      · have hkept : tget? (if c.admin then s.pulse 32 else s).cmds r = some c := by split <;> simp [hc]
        show tget? (tmod _ r _) r = _
        rw [tget?_tmod, hkept]; rfl
    · refine .of_eq (u := ({ s with cirq := { s.cirq with compLast := c.unit + 1 } } : State).finish r c.status) ?_
        (State.finish_completed _ hc)
      show Host.Outcome.next _ = _
      simp [hc, hruns, hstage, hgrant]
  · intro s r c hc hadmin hstage hstages hcut hstale horder howed hfull hlost hfirst
    refine .of_eq (t := (s.append c.fn (s.receiptOf c)).modCmd r fun x => { x with stage := .receipted }) ?_ ⟨State.modCmd_cmdHas (c := c) (by simp [hc]) rfl, ?_⟩
    · show Host.Outcome.next _ = _
      simp [hc, hadmin, hstage, hstages, hcut, hstale, horder, State.restartDue_none howed, howed, hfull, hlost, hfirst]
    · exact State.append_eff _ _ _
  · intro s r c q hc hq hruns hcut hstage hstale hfirst hbroken hreplay horder hgrant
    have hdue : s.cqeDue c = true := by
      rcases hstage with h | ⟨h, hadmin⟩ <;> simp [State.cqeDue, *]
    have hnext : s.cqeNext c = true := by simp [State.cqeNext, hdue, hstale, hfirst]
    obtain ⟨hcmds, y, hy, hyreplay, hytail⟩ := State.completeOut_eff (s := s.tookCqe c.q) (r := r) hq hbroken
    refine .of_eq (t := ((s.tookCqe c.q).completeOut r c).replayOnward) ?_ ⟨?_, State.replayOnward_has ⟨y, hy, hyreplay.trans hreplay, hytail⟩⟩
    · show Host.Outcome.next _ = _
      simp [hc, hdue, hruns, hcut, hstale, hnext, hq, hbroken, hgrant]
    · rw [State.replayOnward_cmds, hcmds]; rfl

/-! ## Confirmations, interrupts and event entries -/

/-- A read that is out in its turn leaves a queue without a replay as it is. -/
theorem Queue.firstRead_map {q : Queue} (h : q.firstRead = none) : { q with firstRead := q.firstRead.map (· - 1) } = q := by
  rw [h, Option.map_none, ← h]

/-- CQ_CONFIRM_READ_DONE of a queue with no replay, first clauses of O7. -/
theorem confirmRead_queue {s : State} {i : Nat} {q : Queue} (hq : tget? s.queues i = some q) (hfirst : q.firstRead = none) :
    (q.deadReads = 0 → q.burst ≠ [] → q.replay = none → Answers (exec (.cqConfirmReadDone i .ok) s) fun t => t.queueHas i fun y => y = q.confirmOne) ∧
    (q.deadReads ≠ 0 → ∀ resp, Answers (exec (.cqConfirmReadDone i resp) s) fun t => t.queueHas i fun y => y = { q with deadReads := q.deadReads - 1 }) := by
  have hmoved : tget? (s.modQ i fun y => { y with firstRead := y.firstRead.map (· - 1) }).queues i = some q := by
    rw [State.modQ_queues, tget?_tmod, hq]; exact congrArg some (Queue.firstRead_map hfirst)
  have hnot : ¬ q.firstRead = some 0 := by simp [hfirst]
  generalize hs1 : (s.modQ i fun y => { y with firstRead := y.firstRead.map (· - 1) }) = s1 at hmoved
  refine ⟨fun hdead hburst hreplay => ?_, fun hdead resp => ?_⟩
  · refine .of_eq (t := (s1.modQ i Queue.confirmOne).replayStep i) ?_ ⟨_, State.replayStep_queue (q := q.confirmOne) ?_ hreplay, rfl⟩
    · show Host.Outcome.next _ = _
      simp only [hq, if_neg hnot, hdead, hs1, List.isEmpty_iff, if_neg hburst]; rfl
    · rw [State.modQ_queues, tget?_tmod, hmoved]; rfl
  · refine .of_eq (t := s1.modQ i fun y => { y with deadReads := y.deadReads - 1 }) ?_ (State.modQ_queueHas hmoved rfl)
    show Host.Outcome.next _ = _
    simp only [hq, if_neg hnot, hs1, if_pos hdead]

/-- INT_TIME_EXPIRY, third clause of O7. -/
theorem intTimeExpiry_signals {s : State} {i : Nat} {q : Queue} {t0 : Nat} (hq : tget? s.queues i = some q) (ht : q.unsigSince = some t0)
    (hmask : q.mask = false) : Answers (exec (.intTimeExpiry i) s) fun t =>
      t.queueHas i (fun y => y.unsignalled = 0 ∧ y.unsigSince = none) ∧ t0 + 1000 * q.intTime ≤ t.now := by
  have hkept : tget? (s.advanceTo (t0 + 1000 * q.intTime)).queues i = some q := by simpa using hq
  refine .of_eq (t := (s.advanceTo (t0 + 1000 * q.intTime)).signalCq i) ?_ ⟨⟨_, State.signalCq_cq _ _ _ hkept, rfl, rfl⟩, ?_⟩
  · show Host.Outcome.next _ = _
    simp [hq, ht, hmask, State.interruptCq]
  · rw [State.signalCq_now]; exact State.advanceTo_le _ _

/-- EVENT_ENTRY_WRITE, fourth clause of O7. -/
theorem eventEntryWrite_tail {s : State} {f i : Nat} {q : Queue} {e : PendEvent} {l : List PendEvent} (hat : s.queueAt? f 0 = some (i, q))
    (hq : tget? s.queues i = some q) (hevents : (s.fn f).events = e :: l) (hreplay : q.replay = none) (hdue : s.eventDue i q = true)
    (hgrant : s.cqeGrant = some i) (hruns : s.cirqueRuns = true) (hcut : s.pwr.cut = false) :
    Answers (exec (.eventEntryWrite f) s) fun t => t.queueHas i fun y => y.cqTail = if q.cqTail + 1 = q.depth then 0 else q.cqTail + 1 := by
  obtain ⟨y, hy, hyreplay, hytail⟩ := State.emitCqe_tail (s := (s.updFn f fun x => { x with events := l }).tookCqe i) e.cqe hq
  refine .of_eq (t := (((s.updFn f fun x => { x with events := l }).tookCqe i).emitCqe i e.cqe).replayOnward) ?_
    (State.replayOnward_has ⟨y, hy, hyreplay.trans hreplay, hytail⟩)
  show Host.Outcome.next (s.writeEvent f) = _
  unfold State.writeEvent
  simp [hat, hevents, hdue, hgrant, hruns, hcut]

/-! ## Deadlines and drains -/

/-- A live command that fails drains with the status. -/
theorem State.failCmd_decided {s : State} {r : Nat} {c : Cmd} (st : Status) (h : tget? s.cmds r = some c) (hlive : c.live = true) :
    tget? (s.failCmd r st).cmds r = some { c with decided := some st, window := some (s.now + s.drainNs c.fn), tiles := [] } := by
  have hkept : tget? (if (tget? s.cmds r).any (·.live) then (s.dropStreams r).crevLeave r else s).cmds r = some c := by
    split <;> simp [h]
  unfold State.failCmd
  rw [State.modCmd_cmds, tget?_tmod, hkept, Option.map_some, if_pos hlive]

/-- A draining command is completed where nothing of it is held, and else drains on. -/
theorem State.drainIfIdle_or {s : State} {r : Nat} {c : Cmd} {st : Status} (h : tget? s.cmds r = some c) (hd : c.decided = some st) :
    (s.drainIfIdle r).decides r st ∨ (s.drainIfIdle r).completed r st := by
  unfold State.drainIfIdle
  simp only [h, hd]
  split
  · exact .inl ⟨c, h, hd⟩
  · exact .inr (State.finish_completed st h)

/-- A draining command of which nothing is held is finished. -/
theorem State.drainIfIdle_finish {s : State} {r : Nat} {c : Cmd} {st : Status} (h : tget? s.cmds r = some c) (hd : c.decided = some st)
    (hheld : s.holdsEngine r = false) (hupd : c.updating = false) (hreset : c.admin = true ∨ s.resetHolds c.ctx = false)
    (hunfinished : c.unfinished = true) : s.drainIfIdle r = s.finish r st := by
  have hopen : (c.stage == .completed || c.stage == .receipted) = false := by
    cases hs : c.stage <;> simp_all [Cmd.unfinished]
  have hfree : (!c.admin && s.resetHolds c.ctx) = false := by
    rcases hreset with h | h <;> simp [h]
  unfold State.drainIfIdle
  simp only [h, hd, hheld, hupd, hfree, Bool.false_or, hopen]
  rfl

/-- Time that passes stops no stage and does not touch Tarn. -/
theorem State.advanceTo_stagesRun (s : State) (t : Nat) : (s.advanceTo t).stagesRun = s.stagesRun := by
  unfold State.stagesRun
  rw [State.advanceTo_pwr, State.advanceTo_held, State.advanceTo_loess]

theorem State.advanceTo_tarnRuns (s : State) (t : Nat) : (s.advanceTo t).tarnRuns = s.tarnRuns := by
  unfold State.tarnRuns
  rw [State.advanceTo_stagesRun, State.advanceTo_tarn, State.advanceTo_loess]

/-- A pulse of an interrupt source does not stop Tarn. -/
theorem State.pulse_tarnRuns (s : State) (n : Nat) : (s.pulse n).tarnRuns = s.tarnRuns := by
  unfold State.pulse
  dsimp only
  split <;> rfl

/-- A drain that may be over passes no time. -/
theorem State.drainIfIdle_now (s : State) (r : Nat) : (s.drainIfIdle r).now = s.now := by
  unfold State.drainIfIdle
  split
  · rfl
  · split
    · rfl
    · split
      · rfl
      · exact State.finish_now _ _ _

/-- COMMAND_DEADLINE_EXPIRY, by what the command has reached: live, ended with a failure, ended SUCCESS. -/
theorem commandDeadlineExpiry_clauses {s : State} {r : Nat} {c : Cmd} (hc : tget? s.cmds r = some c) (hstages : s.stagesRun = true) :
    (c.live = true → (c.admin = true → s.tarnRuns = true) → AnswersSettled (exec (.commandDeadlineExpiry r) s) fun t =>
      (t.decides r .timeout ∨ t.completed r .timeout) ∧ c.deadline ≤ t.now) ∧
    (c.stage = .ended → c.decided = none → c.status ≠ .success → exec (.commandDeadlineExpiry r) s = .next s) ∧
    (c.stage = .ended → c.decided = none → c.status = .success → AnswersSettled (exec (.commandDeadlineExpiry r) s) fun t =>
      t.completed r .timeout ∧ c.deadline ≤ t.now) := by
  generalize hs1 : (if c.admin then (s.advanceTo c.deadline).pulse 2 else s.advanceTo c.deadline) = s1
  have hkept : tget? s1.cmds r = some c := by rw [← hs1]; split <;> simp [hc]
  have hnow : c.deadline ≤ s1.now := by
    have := State.advanceTo_le s c.deadline
    rw [← hs1]; split <;> simpa using this
  have htarn : s1.tarnRuns = s.tarnRuns := by
    rw [← hs1]; split <;> simp only [State.pulse_tarnRuns, State.advanceTo_tarnRuns]
  refine ⟨fun hlive hadmin => ?_, fun hstage hd hst => ?_, fun hstage hd hst => ?_⟩
  · have hunfinished : c.unfinished = true := by
      cases hs : c.stage <;> simp_all [Cmd.live, Cmd.unfinished]
    have hnotEnded : (c.stage == .ended) = false := by
      cases hs : c.stage <;> simp_all [Cmd.live]
    have hundecided : c.decided.isSome = false := by
      cases hs : c.decided <;> simp_all [Cmd.live]
    have hruns : (c.admin && !s1.tarnRuns) = false := by
      cases h : c.admin with
      | false => rfl
      | true => simp [htarn, hadmin h]
    refine .of_eq (u := s1.fail r .timeout) ?_ ⟨State.drainIfIdle_or (State.failCmd_decided .timeout hkept hlive) rfl, ?_⟩
    · show Host.Outcome.next _ = _
      simp [hc, hunfinished, hundecided, Cmd.failedFirst, hnotEnded, hstages, hs1, hruns]
    · rw [State.fail, State.drainIfIdle_now, State.failCmd_now]
      exact hnow
  · show Host.Outcome.next _ = _
    simp [hc, hd, Cmd.failedFirst, hstage, hst]
  · refine .of_eq (u := s1.finish r .timeout) ?_ ⟨State.finish_completed .timeout hkept, by simpa using hnow⟩
    show Host.Outcome.next _ = _
    simp [hc, hd, Cmd.failedFirst, hstage, hst, Cmd.unfinished, hstages, hs1]

/-- Settles O7. -/
theorem queueEvents : Obligations.QueueEvents := by
  refine ⟨fun s i q hq => ⟨fun hdead hburst hreplay hfirst => (confirmRead_queue hq hfirst).1 hdead hburst hreplay,
    fun hdead hfirst resp => (confirmRead_queue hq hfirst).2 hdead resp, fun t0 ht hmask => intTimeExpiry_signals hq ht hmask⟩,
    fun s f i q e l hat hq hevents hreplay hdue hgrant hruns hcut => eventEntryWrite_tail hat hq hevents hreplay hdue hgrant hruns hcut,
    fun s r c hc hstages => ?_⟩
  obtain ⟨hlive, hfailed, hended⟩ := commandDeadlineExpiry_clauses hc hstages
  refine ⟨hlive, hfailed, hended, fun st hd hunfinished htarn hheld hupd hreset => ?_⟩
  refine .of_eq (u := s.drainIfIdle r) ?_ ?_
  · have hruns : (!c.admin || s.tarnRuns) = true := by
      cases h : c.admin with
      | false => rfl
      | true => simp [htarn h]
    show Host.Outcome.next _ = _
    simp [hc, hunfinished, hstages, hruns]
  · rw [State.drainIfIdle_finish hc hd hheld hupd hreset hunfinished]
    exact State.finish_completed st hc

end Sys2Proof.Machine
end

section
/-! PROOFS. Writes of registers that are commands: those of the whole block, those of one function, and the control writes to Esker, Floe
and Loess. -/

namespace Sys2Proof.Machine

open Sys2Proof

/-- Bit 0 of a 4-byte value. -/
theorem bit_zero_mod (v : Nat) : bit (v % 2 ^ 32) 0 = bit v 0 := by unfold bit; congr 1; omega

/-! ## Registers of the whole block -/

/-- The configuration register of image `n`. -/
theorem imageCfg_place {n : Nat} (h0 : 0 < n) (h : n < 64) : placeAt .bar0 (0xB00100 + 4 * n) = some (.reg (.imageCfg n) 0) := by
  have : ∀ n < 64, 0 < n → placeAt .bar0 (0xB00100 + 4 * n) = some (.reg (.imageCfg n) 0) := by decide
  exact this n h h0

/-- Pages that join the pools change neither the total nor the count of refused chunks. -/
theorem Snow.put_totals (w : Snow) (p : Page) : (w.put p).hostTotal = w.hostTotal ∧ (w.put p).hostRejects = w.hostRejects := by
  unfold Snow.put
  split
  · exact ⟨rfl, rfl⟩
  · split <;> exact ⟨rfl, rfl⟩

theorem Snow.puts_totals (k : Nat) (l : List Nat) (w : Snow) :
    (l.foldl (fun (w : Snow) i => w.put { tier := 2, page := 8 * k + i }) w).hostTotal = w.hostTotal ∧
    (l.foldl (fun (w : Snow) i => w.put { tier := 2, page := 8 * k + i }) w).hostRejects = w.hostRejects := by
  induction l generalizing w with
  | nil => exact ⟨rfl, rfl⟩
  | cons i l ih =>
    obtain ⟨htotal, hrejects⟩ := ih (w.put { tier := 2, page := 8 * k + i })
    obtain ⟨hputTotal, hputRejects⟩ := Snow.put_totals w { tier := 2, page := 8 * k + i }
    exact ⟨htotal.trans hputTotal, hrejects.trans hputRejects⟩

/-- A boundary makes a pass due, and changes nothing else of Snowpack. -/
theorem State.passBoundary_snow (s : State) : s.passBoundary.snow = { s.snow with passDue := true } := by
  unfold State.passBoundary
  split
  · rename_i hdue
    rw [← hdue]
  · rfl

/-- The state after a chunk of host memory has joined the pools. -/
def State.chunkAdded (u : State) (k : Nat) : State :=
  { u with snow := { (List.range 8).foldl (fun (w : Snow) i => w.put { tier := 2, page := 8 * k + i }) u.snow with
      hostTotal := ((List.range 8).foldl (fun (w : Snow) i => w.put { tier := 2, page := 8 * k + i }) u.snow).hostTotal + 8 } }

theorem State.chunkAdded_totals (u : State) (k : Nat) :
    (u.chunkAdded k).snow.hostTotal = u.snow.hostTotal + 8 ∧ (u.chunkAdded k).snow.hostRejects = u.snow.hostRejects := by
  obtain ⟨htotal, hrejects⟩ := Snow.puts_totals k (List.range 8) u.snow
  unfold State.chunkAdded
  dsimp only
  rw [htotal, hrejects]
  exact ⟨rfl, rfl⟩

@[simp] theorem State.chunkAdded_esk (u : State) (k : Nat) : (u.chunkAdded k).esk = u.esk := by unfold State.chunkAdded; dsimp only

theorem State.hostAddWrite_taken {s u : State} {k v : Nat} (hv : v % frameBytes = 0) (hk : s.chooseChunks 1 [] = some [k])
    (hu : s.takeChunks { prot := 0, key := kvKey } [(k, v)] = some u) : s.hostAddWrite v = (u.chunkAdded k).passBoundary := by
  unfold State.hostAddWrite
  simp only [hv, hk, hu]
  rfl

/-- SNOW_HOST_ADD writes its register. -/
theorem exec_snowHostAdd {s : State} (v : Nat) (hs : s.reachable = true) (hn : s.noHalf 0) :
    exec (.snowHostAdd v) s = .next (s.hostAddWrite (v % 2 ^ 64)) :=
  congrArg Host.Outcome.next (State.reg_exec (r := .snowHostAdd) hs hn rfl (by decide) (by decide) (by decide) rfl)

/-- Settles O8, register by register. -/
theorem sharedRegisters : Obligations.SharedRegisters := by
  intro s v hs hn
  refine ⟨?_, fun i q hat hq hreplay hphase hbit => ?_, fun hv => ?_, fun k u hv hk hu => ?_, fun hdisabled hphase hbit => ?_,
    fun n h0 hn64 hunused => ?_⟩
  · refine congrArg Host.Outcome.next ((State.reg_exec (r := .rtReserve) hs hn rfl (by decide) (by decide) (by decide) rfl).trans ?_)
    have hmod : v % 2 ^ 32 % 32 = v % 32 := by omega
    show s.rtReserveWrite (v % 2 ^ 32) = _
    unfold State.rtReserveWrite
    rw [hmod]
  · refine .of_eq (congrArg Host.Outcome.next ((State.reg_exec (r := .adminResume) hs hn rfl (by decide) (by decide) (by decide) rfl).trans
      (?_ : _ = (s.hostRead 0 (q.cqBase + 28) 4).modQ i fun x =>
        { x with replay := some none, replayOn := false, firstRead := some (x.deadReads + x.burst.length) }))) ⟨State.modQ_queueHas hq ⟨rfl, rfl⟩, rfl⟩
    show s.adminResumeWrite (v % 2 ^ 32) = _
    unfold State.adminResumeWrite
    rw [bit_zero_mod, hbit]
    simp [hat, hreplay, hphase]
  · refine .of_eq (exec_snowHostAdd v hs hn) ?_
    unfold State.hostAddWrite
    rw [if_pos hv]
    exact ⟨rfl, rfl⟩
  · refine .of_eq ((exec_snowHostAdd v hs hn).trans (congrArg Host.Outcome.next (State.hostAddWrite_taken hv hk hu))) ?_
    obtain ⟨htotal, hrejects⟩ := u.chunkAdded_totals k
    rw [State.takeChunks_snow hu] at htotal hrejects
    rw [State.passBoundary_snow, State.passBoundary_esk, State.chunkAdded_esk]
    dsimp only
    exact ⟨htotal, hrejects, rfl, rfl⟩
  · refine .of_eq (t := s.adminCtlWrite (v % 2 ^ 32))
      (congrArg Host.Outcome.next (State.reg_exec (r := .adminCtl) hs hn rfl (by decide) (by decide) (by decide) rfl)) ?_
    unfold State.adminCtlWrite
    rw [bit_zero_mod, hbit, hdisabled, hphase]
    cases hok : s.adminCfgOk with
    | true => exact ⟨rfl, rfl, by simp [State.fn, State.updFn], by simp [State.fn, State.updFn], _, tget?_tset _ _ _, rfl, rfl, rfl, rfl, rfl⟩
    | false => exact ⟨rfl, hdisabled⟩
  · have hplace := imageCfg_place h0 hn64
    have hbar : inBar .bar0 (0xB00100 + 4 * n) = true := decide_eq_true (by omega)
    have haligned : aligned (0xB00100 + 4 * n) 4 = true := aligned_four (by omega)
    refine .of_eq (t := s.imageCfgWrite n (v % 2 ^ 32)) ?_ ?_
    · refine congrArg Host.Outcome.next ((if_neg (by omega)).trans ?_)
      exact State.reg_exec hs hn rfl hplace hbar haligned rfl
    · unfold State.imageCfgWrite
      rw [hunused]
      exact tget?_tset _ _ _

/-! ## Registers of one function -/

/-- A write of a register in the shadow window of a function. -/
theorem shadow_exec {s : State} {c : Instr} {f o w : Nat} {r : Reg} (v : Nat) (hs : s.reachable = true) (hn : s.noHalf 0) (hf : f < 4096)
    (hc : accessor c = none) (ho : o < 0x2000) (hp : shadowPlace f o = some (.reg r 0)) (hwidth : w = 4 ∨ w = 8) (ha : o % w = 0)
    (hw : w = r.width) :
    (if 4096 ≤ f then s else s.access c false fun t => t.busWrite .bar0 (shadowAt f + o) w v) = s.regWrite r (v % 2 ^ (8 * w)) := by
  rw [if_neg (by omega)]
  refine State.reg_exec hs hn hc ((shadow_place hf ho).trans hp) (shadow_inBar hf ho) ?_ hw
  have : (shadowAt f + o) % w = 0 := by unfold shadowAt; rcases hwidth with rfl | rfl <;> omega
  rcases hwidth with rfl | rfl <;> simp [aligned, this]

/-- A check of the park changes of a function its fetching alone. -/
theorem State.checkPark_fn (s : State) (f : Nat) : ∃ b, (s.checkPark f).fn f = { s.fn f with fetchStopped := b } := by
  unfold State.checkPark
  dsimp only
  split
  · exact ⟨(s.fn f).fetchStopped, rfl⟩
  · exact ⟨_, State.fn_updFn _ _ _⟩

/-- A write of CIRQ_FN_QCFG of a VF. -/
theorem State.qcfgWrite_fn (s : State) {f : Nat} (v : Nat) (hf : f ≠ 0) : ∃ b, (s.qcfgWrite f v).fn f =
    { (if (s.fn f).phase = .disabled then
        { s.fn f with
          parkCap := clampTo 2 1024 (bits v 52 42), classes := bits v 34 32, qCount := min 1024 (bits v 26 16), qBase := bits v 12 0 }
      else { s.fn f with parkCap := clampTo 2 1024 (bits v 52 42) }) with fetchStopped := b } := by
  have hfixed : s.adminFixed f = false := by simp [State.adminFixed, hf]
  unfold State.qcfgWrite
  rw [hfixed]
  simp only [if_neg hf]
  obtain ⟨b, hb⟩ := State.checkPark_fn (s.updFn f fun x =>
      if x.phase = .disabled then
        { x with
          parkCap := clampTo 2 1024 (bits v 52 42), classes := bits v 34 32, qCount := min 1024 (bits v 26 16)
          qBase := bits v 12 0 }
      else { x with parkCap := clampTo 2 1024 (bits v 52 42) }) f
  rw [State.fn_updFn] at hb
  exact ⟨b, hb⟩

/-- CIRQ_FN_QCFG writes its register. -/
theorem exec_cirqFnQcfg {s : State} {f : Nat} (v : Nat) (hs : s.reachable = true) (hn : s.noHalf 0) (hf : f < 4096) :
    exec (.cirqFnQcfg f v) s = .next (s.qcfgWrite f (v % 2 ^ 64)) :=
  congrArg Host.Outcome.next (shadow_exec (r := .fnQcfg f) v hs hn hf rfl (by decide) rfl (.inr rfl) rfl rfl)

/-- Fields of an 8-byte value. -/
theorem bits_mod_long {v hi : Nat} (lo : Nat) (h : hi < 64) : bits (v % 2 ^ 64) hi lo = bits v hi lo := by
  unfold bits
  rcases Nat.lt_or_ge hi lo with hlo | hlo
  · rw [show hi + 1 - lo = 0 by omega, Nat.pow_zero, Nat.mod_one, Nat.mod_one]
  · have hsplit : 2 ^ 64 = 2 ^ lo * 2 ^ (64 - lo) := by rw [← Nat.pow_add]; congr 1; omega
    have hdvd : 2 ^ (hi + 1 - lo) ∣ 2 ^ (64 - lo) := Nat.pow_dvd_pow 2 (by omega)
    rw [hsplit, Nat.mod_mul_right_div_self, Nat.mod_mod_of_dvd _ hdvd]

/-- Settles O9, register by register. -/
theorem functionRegisters : Obligations.FunctionRegisters := by
  intro s f v hf hs hn
  have hfields : ∀ hi lo, hi < 64 → bits (v % 2 ^ 64) hi lo = bits v hi lo := fun _ lo h => bits_mod_long lo h
  have hmoraine : exec (.moraineClear f v) s = .next (s.moraineClear f v) := congrArg Host.Outcome.next (State.access_zero false hs rfl hn)
  have hflush : exec (.wplogFlush f v) s = .next (s.wplogFlush f v) := congrArg Host.Outcome.next (State.access_zero false hs rfl hn)
  refine ⟨fun h0 hphase => ?_, fun h0 hphase => ?_, ?_, fun hbit => ?_, fun hbit => ?_, fun hbit => ?_⟩
  · obtain ⟨b, hb⟩ := s.qcfgWrite_fn (v % 2 ^ 64) h0
    refine .of_eq (exec_cirqFnQcfg v hs hn hf) ?_
    rw [hb, if_pos hphase, hfields 52 42 (by decide), hfields 34 32 (by decide), hfields 26 16 (by decide), hfields 12 0 (by decide)]
    exact ⟨rfl, rfl, rfl, rfl⟩
  · obtain ⟨b, hb⟩ := s.qcfgWrite_fn (v % 2 ^ 64) h0
    refine .of_eq (exec_cirqFnQcfg v hs hn hf) ?_
    rw [hb, if_neg hphase, hfields 52 42 (by decide)]
    exact ⟨rfl, rfl, rfl, rfl⟩
  · refine .of_eq (t := s.quotaWrite f (v % 2 ^ 32))
      (congrArg Host.Outcome.next (shadow_exec (r := .fnQuota f) v hs hn hf rfl (by decide) rfl (.inl rfl) rfl rfl)) ?_
    unfold State.quotaWrite
    dsimp only
    split
    · exact ⟨by simp [State.fn, State.updFn], fun _ _ => by rw [State.passBoundary_snow]⟩
    · rename_i hsame
      exact ⟨by rw [State.fn_updFn], fun h0 hraised => absurd ⟨h0, hraised⟩ hsame⟩
  · exact .of_eq (hmoraine.trans (congrArg Host.Outcome.next (if_pos ⟨hf, hbit⟩))) (State.fn_updFn _ _ _)
  · exact .of_eq (hflush.trans (congrArg Host.Outcome.next (if_pos ⟨hf, hbit⟩))) (State.fn_updFn _ _ _)
  · have hnot : ¬ (f < 4096 ∧ bit v 0 = true) := by simp [hbit]
    exact ⟨hmoraine.trans (congrArg Host.Outcome.next (if_neg hnot)), hflush.trans (congrArg Host.Outcome.next (if_neg hnot))⟩

/-! ## Control writes -/

/-- ESK_CREV_HEAD past records that are all settled moves the head to the value written. -/
theorem State.crevHeadWrite_settled {s : State} {v n : Nat} (hn : n = (v % 1024 + 1024 - s.esk.crevHead) % 1024) (hhead : s.esk.crevHead < 1024)
    (hheld : n ≤ s.esk.crevHeld) (hsettled : ∀ i ∈ s.esk.crevSlots.take n, ∀ r, tget? s.esk.crev i = some r → r.status ≠ 0) :
    (s.crevHeadWrite v).esk.crevHead = v % 1024 ∧ (s.crevHeadWrite v).esk.crev = s.esk.crev := by
  have hsame : (if v % 1024 = s.esk.crevHead then 0 else (v % 1024 + 1024 - s.esk.crevHead) % 1024) = n := by
    split <;> omega
  have hnone : ((s.esk.crevSlots.take n).findIdx? fun i => (tget? s.esk.crev i).any fun r => r.status == 0) = none := by
    rw [List.findIdx?_eq_none_iff]
    intro i hi
    cases hr : tget? s.esk.crev i with
    | none => rfl
    | some r => simpa using hsettled i hi r hr
  unfold State.crevHeadWrite
  simp only [hsame, hnone, if_neg (Nat.not_lt.mpr hheld)]
  exact ⟨by simp only [Option.getD_none]; omega, trivial⟩

/-- Opening a reset record leaves the domain and its count alone. -/
theorem State.openRecord_domains (s : State) (r : RstRec) : (s.openRecord r).2.loess.domains = s.loess.domains := by
  unfold State.openRecord
  dsimp only
  unfold State.pulse
  dsimp only
  split <;> split <;> rfl

/-- A reset of the compute domain that is no fourth within 60 s opens the reset. -/
theorem State.domainReset_begins {s : State} (cause : Nat) (guilty : Option Nat) (engine esc : Nat) (lost : List (Nat × Nat)) (hoos : s.loess.oos = false)
    (hhalted : s.loess.halted = false) (hnone : s.loess.domain = none)
    (hrecent : (s.loess.domainTimes.filter fun t => decide (s.now < t + 60000000000)).length < 3) :
    (s.domainReset cause guilty engine esc lost).loess.domain.any
        (fun x => x.start == s.now && x.deadline == s.now + 5000000 && x.heldAt == s.pwr.heldNs) = true ∧
      (s.domainReset cause guilty engine esc lost).loess.domains = satAdd s.loess.domains 1 0xFFFF := by
  unfold State.domainReset
  simp only [hoos, hhalted, hnone]
  rw [if_neg (by simp), if_neg (Nat.not_le.mpr hrecent)]
  exact ⟨by simp, by rw [State.openRecord_domains]⟩

/-- A reset request is taken where nothing is out of service. -/
theorem State.resetReqOk_oos {s : State} (h : s.resetReqOk = true) : s.loess.oos = false := by
  simp only [State.resetReqOk, Bool.and_eq_true, Bool.not_eq_true'] at h
  exact h.1.2

/-- Settles O10, write by write. -/
theorem controlWrites : Obligations.ControlWrites := by
  intro s hs hn
  have hretry : ∀ slot, exec (.crevRetry slot) s = .next (s.crevRetry slot) := fun _ => congrArg Host.Outcome.next (State.access_zero false hs rfl hn)
  refine ⟨fun slot r x hopen hctx hmapped => (hretry slot).trans ?_, fun slot r x hopen hctx hmapped => (hretry slot).trans ?_,
    fun slot r hopen => congrArg Host.Outcome.next ((State.access_zero false hs rfl hn).trans ?_), fun v n hv hhead hheld hsettled => ?_,
    fun k hk => ⟨fun hpresent => ?_, ?_⟩, fun e hreq hexists hclass => ?_, fun hreq hnone hrecent => ?_, fun v hle => ?_, fun v hlt => ?_⟩
  · simp [State.crevRetry, hopen, hctx, hmapped]
  · simp [State.crevRetry, hopen, hctx, hmapped]
  · simp [State.crevAbort, hopen]
  · exact .of_eq (congrArg Host.Outcome.next (State.access_zero false hs rfl hn)) (State.crevHeadWrite_settled hv hhead hheld hsettled)
  · refine congrArg Host.Outcome.next ((State.access_zero false hs rfl hn).trans ?_)
    obtain ⟨hfirst, hsecond⟩ : s.linkPresent (2 * k) = true ∧ s.linkPresent (2 * k + 1) = true := by simpa using hpresent
    simp [State.ringWrite, hk, hfirst, hsecond]
  · refine congrArg Host.Outcome.next ((State.access_zero false hs rfl hn).trans ?_)
    simp [State.ringWrite, hk]
  · refine congrArg Host.Outcome.next ((State.access_zero false hs rfl hn).trans ?_)
    simp [State.engineRequest, hreq, hexists, hclass]
  · refine .of_eq (congrArg Host.Outcome.next ((State.access_zero false hs rfl hn).trans (if_pos hreq)))
      (State.domainReset_begins 12 none 0 0xFFFF [] (State.resetReqOk_oos hreq) (State.reachable_halted hs) hnone hrecent)
  · refine .of_eq (congrArg Host.Outcome.next ((State.access_zero false hs rfl hn).trans (if_pos hle))) ⟨rfl, rfl⟩
  · exact congrArg Host.Outcome.next ((State.access_zero false hs rfl hn).trans (if_neg (Nat.not_le.mpr hlt)))

end Sys2Proof.Machine
end

section
/-! PROOFS. Admin commands of queues (03_queues.md, Queue pairs and their owners) and of functions (05_functions.md). -/

namespace Sys2Proof.Machine

open Sys2Proof

/-! ## Queues -/

/-- What a result write asks of the host where no written-page log is kept. -/
theorem State.writeResult_host {s : State} {c : Cmd} {b : Blob} (h : (s.fn c.fn).wplog.active = false) :
    (s.writeResult c b).ports.host = s.ports.host ++ (s.writeTx c.fn (admResult c.sqe) (padTo 64 b) ++ s.readTx c.fn (admResult c.sqe + 60) 4) := by
  unfold State.writeResult State.hostWrite
  simp only [h]
  exact List.append_assoc _ _ _

/-- An answer asks of the host the write of its result alone. -/
theorem State.answer_host {s : State} {r : Nat} {c : Cmd} {io : HostIo} {b : Blob} (hio : io.write = .ok) (h : (s.fn c.fn).wplog.active = false) :
    (s.answer r c io b id).ports.host =
      s.ports.host ++ (s.writeTx c.fn (admResult c.sqe) (padTo 64 b) ++ s.readTx c.fn (admResult c.sqe + 60) 4) := by
  rw [State.answer_ok _ _ _ _ _ _ hio]
  exact State.writeResult_host h

/-- An answer whose write fails ends the command. -/
theorem State.answer_failed {s : State} {r : Nat} {c0 c : Cmd} {io : HostIo} {b : Blob} {eff : State → State} (hio : io.write ≠ .ok)
    (h : tget? s.cmds r = some c0) (hd : c0.decided = none) : (s.answer r c io b eff).ended r .hostAccessFailed := by
  unfold State.answer
  simp only [if_neg hio]
  exact State.report_ended (c := c0) .hostAccessFailed (by rw [State.writeResult_cmds, h]) hd

/-- The ordinal check of a queue named does not read the commands. -/
theorem State.begun_namedQueue (s : State) (r : Nat) (c : Cmd) (b : Bool) : (s.begun r).namedQueue c b = s.namedQueue c b := rfl

/-- Settles O13, command by command. -/
theorem adminQueueCommands : Obligations.AdminQueueCommands := by
  intro s r c io
  refine ⟨fun h hio => takes_answer h ⟨?_, ?_, ?_⟩, fun h hio => takes_answer h ?_, fun h f hf => ⟨fun st hst => ?_, fun hnone => ?_⟩,
    fun h i q hq => ⟨fun hbusy => takes_answer h ?_, fun hbusy => takes_answer h ?_⟩,
    fun h i q hq => ⟨fun hfail => takes_answer h ?_, fun hread hreplay => ?_⟩⟩
  · exact State.answer_ended hio (State.begun_cmd h) fun _ => rfl
  · exact State.answer_result hio (State.begun_cmd h) fun _ => rfl
  · exact fun hlog => State.answer_host hio hlog
  · have hdecided := State.takes_decided h
    exact State.answer_failed hio (State.begun_cmd h) hdecided
  · refine takes_answer h ?_
    simp only [hf, hst]
    exact ⟨State.report_ended st (State.begun_cmd h), rfl⟩
  · refine takes_answer h ?_
    simp only [hf, hnone]
    refine ⟨State.commit_ended (State.begun_cmd h), ⟨_, tget?_tset _ _ _, rfl, rfl, rfl, rfl, rfl, rfl, rfl, rfl, rfl, rfl, rfl⟩, fun k hk => ?_⟩
    exact tget?_tset_ne _ _ hk
  · simp only [State.begun_namedQueue, hq, hbusy]
    exact ⟨State.report_ended .busy (State.begun_cmd h), rfl⟩
  · simp only [State.begun_namedQueue, hq, hbusy]
    exact ⟨State.commit_ended (State.begun_cmd h), rfl⟩
  · simp only [State.begun_namedQueue, hq, if_pos hfail]
    exact State.report_ended .cqStillBroken (State.begun_cmd h)
  · refine exec_of_takes h rfl ?_
    simp only [State.begun_namedQueue, hq]
    rw [if_neg (by simp [hread, hreplay])]

/-! ## Functions -/

/-- Stopping the fetches of a function leaves nothing fetched in its queues, and their reads out are dead. -/
theorem State.stopFetch_queue {s : State} {f i : Nat} {q : Queue} (h : tget? (s.stopFetch f).queues i = some q) (hf : q.fn = f) :
    q.fetched = [] ∧ (q.fetching ≠ 0 → q.fetchDead = true) := by
  rw [State.stopFetch, tget?_tmap] at h
  obtain ⟨x, hx, rfl⟩ := Option.map_eq_some_iff.mp h
  split at hf
  · rename_i hx
    rw [if_pos hx]
    unfold Queue.unfetch
    exact ⟨rfl, fun hfetching => by simpa using hfetching⟩
  · rename_i hx
    exact absurd hf hx

/-- FN_RESET of a function that stands in no transition: the result is written, and the reset begins. -/
theorem State.runReset_begins {s : State} {f r : Nat} {c : Cmd} {io : HostIo} (hc : tget? s.cmds r = some c)
    (hphase : (s.fn f).phase = .enabled ∨ (s.fn f).phase = .disabled ∨ (s.fn f).phase = .quiescing) (hio : io.write = .ok) :
    s.runReset f r io = (((((s.writeResult c (leBytes 2 (nextGen (s.fn f).generation))).modCmd r fun x =>
      { x with result := padTo 64 (leBytes 2 (nextGen (s.fn f).generation)) }).handOver r).updFn f fun x => { x with resetters := [r] }).beginReset f) := by
  unfold State.runReset
  rcases hphase with h | h | h <;> simp only [h, hc, hio, ne_eq, not_true_eq_false, if_false]

/-- Settles O14, command by command and phase by phase. -/
theorem adminFunctionCommands : Obligations.AdminFunctionCommands := by
  intro s r c io f hf hvf
  subst hf
  refine ⟨fun h hphase hcheck => takes_answer h ?_, fun h hphase hio => takes_answer h ?_, fun h hphase hbit => takes_answer h ?_,
    fun h hphase => takes_answer h ?_, fun h hphase => takes_answer h ?_, fun h hphase hio => exec_of_takes h rfl ?_,
    fun h hphase => takes_answer h ?_, fun hconf hphase => ?_, fun hconf => ?_⟩
  · have hbegun : ((s.begun r).fn (fld c.sqe 32 2)).phase = .disabled := hphase
    simp only [hvf, hbegun, hcheck, Bool.not_true, Bool.false_eq_true, if_false]
    exact ⟨by rw [State.fn_park, State.fn_updFn]; rfl, State.modCmd_cmdHas (State.begun_cmd h) ⟨rfl, rfl⟩⟩
  · have hbegun : ((s.begun r).fn (fld c.sqe 32 2)).phase = .enabled := hphase
    simp only [hvf, hbegun, Bool.not_true, Bool.false_eq_true, if_false]
    exact ⟨State.answer_ended hio (State.begun_cmd h) fun _ => rfl, State.answer_result hio (State.begun_cmd h) fun _ => rfl⟩
  · have hbegun : ((s.begun r).fn (fld c.sqe 32 2)).phase = .quiescing := hphase
    simp only [hvf, hbegun, hbit, Bool.not_true, Bool.false_eq_true, if_false]
    exact ⟨State.report_ended .busyQuiescing (State.begun_cmd h), rfl⟩
  · have hbegun : ((s.begun r).fn (fld c.sqe 32 2)).phase = .enabled := hphase
    simp only [hvf, State.runQuiesce, hbegun, Bool.not_true, Bool.false_eq_true, if_false]
    exact ⟨by rw [State.fn_handOver, State.fn_stopFetch, State.fn_updFn]; rfl, State.modCmd_cmdHas (State.begun_cmd h) rfl, fun i q hq hfn => State.stopFetch_queue hq hfn⟩
  · have hbegun : ((s.begun r).fn (fld c.sqe 32 2)).phase = .disabled := hphase
    simp only [hvf, State.runQuiesce, hbegun, Bool.not_true, Bool.false_eq_true, if_false]
    exact ⟨State.report_ended .notReady (State.begun_cmd h), rfl⟩
  · simp only [hvf, Bool.not_true, Bool.false_eq_true, if_false]
    exact State.runReset_begins (State.begun_cmd h) hphase hio
  · have hbegun : ((s.begun r).fn (fld c.sqe 32 2)).phase = .resetting := hphase
    simp only [hvf, State.runReset, hbegun, Bool.not_true, Bool.false_eq_true, if_false]
    rw [State.fn_handOver, State.fn_updFn]
    exact ⟨rfl, hphase⟩
  · refine congrArg Host.Outcome.next ((if_neg (by simp [hvf])).trans ((State.config_ok hconf).trans ?_))
    rcases hphase with h | h | h <;> simp only [h]
  · exact .of_eq (congrArg Host.Outcome.next (State.config_ok hconf)) ⟨rfl, rfl, rfl, rfl, rfl⟩

end Sys2Proof.Machine
end

section
/-! PROOFS. Ends of the transitions of a function: enable, quiesce, reset and the flush of its written-page log (05_functions.md). -/

namespace Sys2Proof.Machine

open Sys2Proof

/-- What the lives of a function agreeing says, field by field. -/
theorem Fn.life_fields {x y : Fn} (h : x.life = y.life) : x.phase = y.phase ∧ x.generation = y.generation ∧ x.vx1 = y.vx1 ∧
    x.vx1Next = y.vx1Next ∧ x.enablers = y.enablers ∧ x.afterwards = y.afterwards := by
  simpa only [Fn.life, Prod.mk.injEq] using h

/-- An enable whose result is written: the function stands Enabled under the next generation. -/
theorem enableTakesEffect_enabled {s : State} {f r : Nat} {l : List Nat} {c : Cmd} {io : HostIo} (hphase : (s.fn f).phase = .enabling)
    (hruns : s.tarnRuns = true) (hwaits : s.restartWaits f = false) (hl : (s.fn f).enablers = r :: l) (hc : tget? s.cmds r = some c)
    (hd : c.decided = none) (hafter : (s.fn f).afterwards = []) (hio : io.write = .ok) :
    Answers (exec (.enableTakesEffect f io) s) fun t =>
      (t.fn f).phase = .enabled ∧ (t.fn f).generation = nextGen (s.fn f).generation ∧ (t.fn f).vx1 = (s.fn f).vx1Next ∧ (t.fn f).enablers = [] ∧
        t.ended r .success ∧ t.cmdHas r fun x => x.result = padTo 64 (leBytes 2 (nextGen (s.fn f).generation)) := by
  generalize hs1 : s.writeResult c (leBytes 2 (nextGen (s.fn f).generation)) = s1
  have hlife := enableNow_life s1 f r io l
  obtain ⟨-, hgen, -, hnext, -, hafter1⟩ := Fn.life_fields (hs1 ▸ writeResult_life s c (leBytes 2 (nextGen (s.fn f).generation)) f)
  simp only [Fn.life, Prod.mk.injEq, hgen, hnext, hafter1, hafter] at hlife
  obtain ⟨henabled, hgen2, hvx1, -, henablers, hnone⟩ := hlife
  refine .of_eq (t := s1.enableNow f r io l) ?_ ⟨henabled, hgen2, hvx1, henablers, ?_⟩
  · show Host.Outcome.next _ = _
    simp only [hphase, hruns, hwaits, hl, hc, hio, hs1, if_true, afterTransition_none io hnone]
    rfl
  · have hc1 : tget? s1.cmds r = some c := by rw [← hs1, State.writeResult_cmds, hc]
    obtain ⟨x, hx, hstage, hstatus, -, hresult, -⟩ := enableNow_ends (f := f) (l := l) hio hc1 hd
    exact ⟨⟨x, hx, hstage, hstatus⟩, x, hx, hgen ▸ hresult⟩

/-- An enable whose result is not written: the function stands Disabled, and its enables end. -/
theorem enableTakesEffect_failed {s : State} {f r : Nat} {l : List Nat} {c : Cmd} {io : HostIo} (hphase : (s.fn f).phase = .enabling)
    (hruns : s.tarnRuns = true) (hwaits : s.restartWaits f = false) (hl : (s.fn f).enablers = r :: l) (hc : tget? s.cmds r = some c)
    (hd : c.decided = none) (hafter : (s.fn f).afterwards = []) (hio : io.write ≠ .ok) :
    Answers (exec (.enableTakesEffect f io) s) fun t =>
      (t.fn f).phase = .disabled ∧ (t.fn f).generation = (s.fn f).generation ∧ (t.fn f).enablers = [] ∧ t.ended r .hostAccessFailed := by
  generalize hs1 : s.writeResult c (leBytes 2 (nextGen (s.fn f).generation)) = s1
  generalize hs2 : (r :: l).foldl (fun u k => u.report k .hostAccessFailed) s1 = s2
  have hlife : (s2.fn f).life = (s.fn f).life := by
    rw [← hs2, foldl_life _ _ fun t k => congrArg Fn.life (State.fn_report t k f _), ← hs1, writeResult_life]
  obtain ⟨-, hgen, -, -, -, hafter2⟩ := Fn.life_fields hlife
  have hfn := State.fn_updFn s2 f fun y => { y with phase := .disabled, enablers := [] }
  refine .of_eq (t := s2.updFn f fun y => { y with phase := .disabled, enablers := [] }) ?_ ?_
  · show Host.Outcome.next _ = _
    simp only [hphase, hruns, hwaits, hl, hc, hio, hs1, hs2, if_false]
    exact congrArg Host.Outcome.next (afterTransition_none io (by rw [hfn]; exact hafter2.trans hafter))
  · have hc1 : tget? s1.cmds r = some c := by rw [← hs1, State.writeResult_cmds, hc]
    obtain ⟨x, hx, hstage, hstatus, -⟩ := reports_end (l := l) (st := .hostAccessFailed) hc1 hd
    rw [hfn]
    exact ⟨rfl, hgen, rfl, x, hs2 ▸ hx, hstage, hstatus⟩

/-- Enables wait on no function that has none. -/
theorem State.enableWaiting_none {s : State} {f : Nat} (h : (s.fn f).enablers = []) : s.enableWaiting f = s := by
  unfold State.enableWaiting
  simp [h]

/-- A quiesce with no command left disables the function and ends its commands. -/
theorem quiesceComplete_disables {s : State} {f : Nat} (hphase : (s.fn f).phase = .quiescing) (hcmds : s.cmdsOf f = []) (hruns : s.tarnRuns = true)
    (hnone : (s.fn f).enablers = []) :
    Answers (exec (.quiesceComplete f) s) fun t => t.fn f = { s.fn f with phase := .disabled, quiescers := [] } ∧
      ∀ r c, r ∈ (s.fn f).quiescers → tget? s.cmds r = some c → c.decided = none → t.ended r .success := by
  have hfn := (commits_fn (s.fn f).quiescers (s.updFn f fun y => { y with phase := .disabled, quiescers := [] }) f).trans (State.fn_updFn _ _ _)
  refine .of_eq (t := (s.fn f).quiescers.foldl State.commit (s.updFn f fun y => { y with phase := .disabled, quiescers := [] })) ?_
    ⟨hfn, fun r c hr hc hd => commits_end hr hc hd⟩
  show Host.Outcome.next _ = _
  simp only [hphase, hcmds, hruns]
  exact congrArg Host.Outcome.next (State.enableWaiting_none (by rw [hfn]; exact hnone))

/-- A drained reset with no mapping left tears the function down, and leaves it as it stood. -/
theorem functionResetEnd_tearsDown {s v : State} {f : Nat} (io : HostIo) (hphase : (s.fn f).phase = .resetting) (hdrained : s.resetDrained f = true)
    (hruns : s.tarnRuns = true) (hv : v = ((s.cmdsOf f).foldl State.discard s).discardParked f) (hnone : v.mappedCtxs f = [])
    (hafter : ((v.teardown f).fn f).afterwards = []) (henablers : ((v.teardown f).fn f).enablers = []) :
    AnswersSettled (exec (.functionResetEnd f io) s) fun t =>
      (t.fn f).phase = (if (s.fn f).wasEnabled then .enabled else .disabled) ∧ (t.fn f).generation = ((v.teardown f).fn f).generation ∧
      (∀ i q, tget? t.queues i = some q → q.fn = f → q.admin = true ∧ q.sqHead = 0 ∧ q.sqTail = 0 ∧ q.cqHead = 0 ∧ q.cqTail = 0 ∧ q.phase = true) := by
  generalize hs2 : ((v.teardown f).updFn f fun y =>
    { y with phase := if (s.fn f).wasEnabled then .enabled else .disabled, wasEnabled := false, tearing := [], quiescers := [], resetters := []
             enablers := if (s.fn f).wasEnabled then [] else y.enablers }) = s2
  generalize hs3 : (s.fn f).quiescers.foldl State.commit (s2.answerGen f io (s.fn f).resetters) = s3
  have hlife : (s3.fn f).life = (s2.fn f).life := by rw [← hs3, commits_fn, answerGen_life]
  have hqueues : s3.queues = (v.teardown f).queues := by rw [← hs3, commits_queues, answerGen_queues, ← hs2, State.updFn_queues]
  obtain ⟨hphase3, hgen3, -, -, henablers3, hafter3⟩ := Fn.life_fields hlife
  rw [← hs2, State.fn_updFn] at hphase3 hgen3 henablers3 hafter3
  dsimp only at hphase3 hgen3 henablers3 hafter3
  have hexec : exec (.functionResetEnd f io) s = .next (if (s.fn f).wasEnabled then ((s3.answerGen f io (s.fn f).enablers).afterTransition f io).settle
      else ((s3.afterTransition f io).enableWaiting f).settle) := by
    show Host.Outcome.next _ = _
    dsimp only
    rw [if_neg (by simp [hphase, hdrained, hruns]), ← hv, if_neg (by simp [hnone]), hs2, hs3]
  cases hwas : (s.fn f).wasEnabled with
  | true =>
    have hlife4 := answerGen_life s3 f io (s.fn f).enablers f
    obtain ⟨hphase4, hgen4, -, -, -, hafter4⟩ := Fn.life_fields hlife4
    refine ⟨s3.answerGen f io (s.fn f).enablers, ?_, ?_, hgen4.trans hgen3, fun i q hq hf => ?_⟩
    · rw [hexec, hwas, if_pos rfl]
      exact congrArg (fun t => Host.Outcome.next (State.settle t)) (afterTransition_none io (hafter4.trans (hafter3.trans hafter)))
    · rw [hphase4, hphase3, hwas]
    · rw [answerGen_queues, hqueues] at hq
      exact teardown_queue v f hq hf
  | false =>
    refine ⟨s3, ?_, ?_, hgen3, fun i q hq hf => teardown_queue v f (hqueues ▸ hq) hf⟩
    · rw [hexec, hwas, if_neg (by decide)]
      have hwaiting : (s3.fn f).enablers = [] := by rw [henablers3, hwas]; exact henablers
      exact congrArg (fun t => Host.Outcome.next (State.settle t))
        ((congrArg (State.enableWaiting · f) (afterTransition_none io (hafter3.trans hafter))).trans (State.enableWaiting_none hwaiting))
    · rw [hphase3, hwas]

/-- Settles O15, transition by transition. -/
theorem functionTransitions : Obligations.FunctionTransitions := by
  intro s f io
  refine ⟨fun r l c hphase hruns hwaits hl hc hd hafter => ⟨enableTakesEffect_enabled hphase hruns hwaits hl hc hd hafter,
      enableTakesEffect_failed hphase hruns hwaits hl hc hd hafter⟩, quiesceComplete_disables,
    fun hphase hdrained hruns => ⟨fun hmapped => ?_, fun v hv hnone hafter henablers => functionResetEnd_tearsDown io hphase hdrained hruns hv hnone hafter henablers⟩,
    fun hflushing hstages => ⟨fun hstop => ?_, fun x hstop => ?_⟩⟩
  · refine ⟨(((s.cmdsOf f).foldl State.discard s).discardParked f).unmapFn f, ?_, congrArg Fn.tearing (State.fn_updFn _ _ _)⟩
    show Host.Outcome.next _ = _
    simp [hphase, hdrained, hruns, hmapped]
  · refine .of_eq (t := s.updFn f fun x => { x with wplog := { x.wplog with
      flushing := false, flushDone := true, filter := [], stopper := none, active := x.wplog.active && !(s.fn f).wplog.stopper.isSome } }) ?_ ⟨?_, rfl⟩
    · show Host.Outcome.next _ = _
      simp [hflushing, hstages, hstop]
    · rw [State.fn_updFn]
      simp [hstop]
  · refine .of_eq (t := (s.stopsOf f).foldl State.commit (s.updFn f fun x => { x with wplog := { x.wplog with
      flushing := false, flushDone := true, filter := [], stopper := none, active := x.wplog.active && !(s.fn f).wplog.stopper.isSome } })) ?_
      ⟨?_, fun r c hr hc hd => commits_end hr hc hd⟩
    · show Host.Outcome.next _ = _
      simp [hflushing, hstages, hstop]
    · rw [commits_fn, State.fn_updFn]
      simp [hstop]

end Sys2Proof.Machine
end

section
/-! PROOFS. Admin commands of migration and of the written-page log (05_functions.md, Live migration), of the topology table and of
configuration items. -/

namespace Sys2Proof.Machine

open Sys2Proof

/-- A failure that writes its result ends the command with the status of the failure. -/
theorem State.failWith_ended {s : State} {r : Nat} {c0 : Cmd} (c : Cmd) {io : HostIo} (b : Blob) (st : Status) (hio : io.write = .ok)
    (h : tget? s.cmds r = some c0) (hd : c0.decided = none) : (s.failWith r c io b st).ended r st := by
  unfold State.failWith
  rw [if_pos hio]
  exact State.report_ended (c := c0) st (by rw [State.writeResult_cmds, h]) hd

/-! ## Migration and the written-page log -/

theorem State.failWith_kao (s : State) (r : Nat) (c : Cmd) (io : HostIo) (b : Blob) (st : Status) : (s.failWith r c io b st).kao = s.kao :=
  s.writeResult_kao c b

/-- Writes of a blob to the host leave the commands and Kaolin alone. -/
theorem hostWrites_frame (f : Nat) (l : List (Nat × Blob)) (s : State) :
    (l.foldl (fun w e => w.hostWrite f e.1 e.2) s).cmds = s.cmds ∧ (l.foldl (fun w e => w.hostWrite f e.1 e.2) s).kao = s.kao := by
  induction l generalizing s with
  | nil => exact ⟨rfl, rfl⟩
  | cons e l ih =>
    obtain ⟨hcmds, hkao⟩ := ih (s.hostWrite f e.1 e.2)
    rw [State.hostWrite_eq] at hcmds hkao
    rw [List.foldl_cons, State.hostWrite_eq]
    exact ⟨hcmds, hkao⟩

/-- Reads of a blob from the host leave the commands, the allocations and the contexts alone. -/
theorem hostReads_frame (f : Nat) (l : List Nat) (s : State) :
    (l.foldl (fun w a => w.hostRead f a frameBytes) s).cmds = s.cmds ∧ (l.foldl (fun w a => w.hostRead f a frameBytes) s).allocs = s.allocs ∧
      (l.foldl (fun w a => w.hostRead f a frameBytes) s).ctxs = s.ctxs := by
  induction l generalizing s with
  | nil => exact ⟨rfl, rfl, rfl⟩
  | cons a l ih => exact ih (s.hostRead f a frameBytes)

/-- FN_EXPORT of a disabled function with a migration key: the blob is written and the count raised, or it does not fit. -/
theorem fnExport_blob {s : State} {r f : Nat} {c : Cmd} {io : HostIo} {m : Mig} {l : List Nat} (hf : f = fld c.sqe 32 2) (hvf : vfField f = true)
    (h : s.takes r 0x13 c) (hm : tget? s.kao.migs f = some m) (hphase : (s.fn f).phase = .disabled) (haddr : admDataAddr c.sqe ≠ 0)
    (hread : io.read = .ok) (hwrite : io.write = .ok) (hl : chunkList (padTo (admDataLen c.sqe) io.data) = some l) :
    Answers (exec (.fnExport r io) s) fun t =>
      if (((s.begun r).hostRead c.fn (admDataAddr c.sqe) (admDataLen c.sqe)).blob f m).length ≤ l.length * frameBytes then
        t.ended r .success ∧ tget? t.kao.migs f = some { m with exports := m.exports + 1 }
      else t.ended r .invalidField ∧ t.kao = s.kao := by
  subst hf
  have hmig : tget? (s.begun r).kao.migs (fld c.sqe 32 2) = some m := hm
  have hbegun : ((s.begun r).fn (fld c.sqe 32 2)).phase = .disabled := hphase
  refine takes_answer h ?_
  simp only [hvf, hmig, hbegun, State.withData_ok _ _ _ _ _ _ hread haddr, hl, Bool.not_true, Bool.false_eq_true, if_false, ne_eq, not_true_eq_false]
  generalize hu : (s.begun r).hostRead c.fn (admDataAddr c.sqe) (admDataLen c.sqe) = u
  have hc : tget? u.cmds r = some { c with stage := .running, start := some s.now } := by rw [← hu]; exact State.begun_cmd h
  have hkao : u.kao = s.kao := by rw [← hu]; rfl
  by_cases hfits : (u.blob (fld c.sqe 32 2) m).length ≤ l.length * frameBytes
  · simp only [if_pos hfits, if_neg (Nat.not_lt.mpr hfits)]
    obtain ⟨hcmds, hkept⟩ := hostWrites_frame c.fn (l.zip (chunks frameBytes l.length (u.blob (fld c.sqe 32 2) m)))
      { u with ledg := { u.ledg with queue := u.ledg.queue ++ [u.ckptNow (fld c.sqe 32 2) 2 none] } }
    have hdecided := State.takes_decided h
    refine ⟨State.answer_ended (c0 := { c with stage := .running, start := some s.now }) hwrite (by rw [State.drawn_cmds, hcmds]; exact hc)
      (fun _ => rfl) hdecided, ?_⟩
    rw [State.answer_ok _ _ _ _ _ _ hwrite]
    rw [State.commit_kao, State.modCmd_kao]
    dsimp only
    rw [tget?_tmod, State.writeResult_kao, State.drawn_kao, hkept]
    show Option.map _ (tget? u.kao.migs _) = _
    rw [hkao, hm]; rfl
  · simp only [if_neg hfits, if_pos (Nat.not_le.mp hfits)]
    exact ⟨State.failWith_ended c _ _ hwrite hc (State.takes_decided h :), (State.failWith_kao _ _ _ _ _ _).trans hkao⟩

/-- Settles O16, command by command. -/
theorem migrationAndLogCommands : Obligations.MigrationAndLogCommands := by
  intro s r c io f hf hvf
  subst hf
  refine ⟨fun m l h hm hphase haddr hread hwrite hl => fnExport_blob rfl hvf h hm hphase haddr hread hwrite hl, fun h hnone => takes_answer h ?_,
    fun as frames v b h haddr hread has hv hb hhead => ?_, fun h hact hentries haddr hlen hactive hroom => takes_answer h ?_,
    fun h hact hactive => takes_answer h ?_⟩
  · have hmig : tget? (s.begun r).kao.migs (fld c.sqe 32 2) = none := hnone
    simp only [hvf, hmig, Bool.not_true, Bool.false_eq_true, if_false]
    exact ⟨State.report_ended .keyUnavailable (State.begun_cmd h), rfl⟩
  · obtain ⟨hcmds, hallocs, hctxs⟩ := hostReads_frame c.fn as ((s.begun r).hostRead c.fn (admDataAddr c.sqe) (admDataLen c.sqe))
    rw [← hv] at hcmds hallocs hctxs
    cases hopen : v.openBlob (fld c.sqe 32 2) b with
    | none =>
      refine takes_answer h ?_
      simp only [hvf, State.withData_ok _ _ _ _ _ _ hread haddr, has, ← hv, ← hb, hhead, hopen, Bool.not_true, Bool.false_eq_true, if_false]
      exact ⟨State.report_ended .authFailed (hcmds ▸ State.begun_cmd h), hallocs, hctxs⟩
    | some z =>
      intro himportable hfits himages hinstalls
      refine exec_of_takes h rfl ?_
      obtain ⟨w, hw⟩ := Option.isSome_iff_exists.mp hinstalls
      simp only [hvf, State.withData_ok _ _ _ _ _ _ hread haddr, has, ← hv, ← hb, hhead, hopen, himportable, hfits, himages, hw,
        Bool.not_true, Bool.false_eq_true, if_false]
  · have hbegun : ((s.begun r).fn (fld c.sqe 32 2)).wplog.active = false := hactive
    have hcount : ¬ 64 ≤ tcount (s.begun r).fns fun _ x => x.wplog.active := Nat.not_le.mpr hroom
    simp only [hvf, hact, hentries, hlen, hbegun, hcount, beq_eq_false_iff_ne.mpr haddr, Bool.not_true, bne_self_eq_false,
      decide_false, Bool.false_eq_true, if_false, if_true, Nat.lt_irrefl, Bool.or_false]
    refine ⟨State.commit_ended (State.begun_cmd h), ?_⟩
    rw [State.fn_commit, State.fn_updFn]
    exact ⟨rfl, rfl, rfl, rfl, rfl⟩
  · have hbegun : ((s.begun r).fn (fld c.sqe 32 2)).wplog.active = true := hactive
    simp only [hvf, hact, hbegun, Bool.not_true, Bool.false_or, Nat.not_lt_zero, decide_false, Bool.false_eq_true, if_false, Nat.zero_ne_one]
    rw [State.fn_handOver, State.fn_updFn]
    rfl

/-! ## The topology table and configuration items -/

/-- What an effect that an answer has leaves of the topology table. -/
theorem State.answer_effectTopo {s : State} {r : Nat} {c : Cmd} {io : HostIo} {b : Blob} {eff : State → State} (hio : io.write = .ok) :
    (s.answer r c io b eff).topo = (eff (s.writeResult c b)).topo := by
  rw [State.answer_ok _ _ _ _ _ _ hio]; rfl

/-- TOPO_WRITE of a section before the commit, once its bytes are there. -/
theorem State.answer_section {s : State} {r k : Nat} {c c0 : Cmd} {io : HostIo} (b : Blob) (hio : io.write = .ok) (h : tget? s.cmds r = some c0)
    (hd : c0.decided = none) : (s.answer r c io (topoResult k 0) fun v => { v with topo := v.topo.put k b }).ended r .success ∧
      (s.answer r c io (topoResult k 0) fun v => { v with topo := v.topo.put k b }).topo = s.topo.put k b := by
  refine ⟨State.answer_ended hio h (fun _ => rfl) hd, (State.answer_effectTopo hio).trans ?_⟩
  rw [State.writeResult_topo]

/-- Settles O17, command by command. -/
theorem topologyAndConfiguration : Obligations.TopologyAndConfiguration := by
  intro s r c io
  refine ⟨fun k h hk h1 h4 hopen haddr hread hwrite hlen => takes_answer h ?_, fun k h hk h1 h2 hcommitted => takes_answer h ?_,
    fun h hcommitted hwrite => takes_answer h ?_, fun e h hopen hfault hwrite => takes_answer h ?_, fun h hopen hfault hwrite => exec_of_takes h rfl ?_,
    fun i b h hi hallowed hb => ⟨fun hwrite u hu => exec_of_takes h rfl ?_, fun hwrite => takes_answer h ?_⟩, fun h hi => takes_answer h ?_,
    fun e x hruns hfind hsafe => ?_⟩
  · subst hk
    have hcommit : (s.begun r).topo.committed = false := hopen
    have hrange : ¬ (fld c.sqe 32 1 = 0 ∨ 4 < fld c.sqe 32 1) := by omega
    have hunlocked : ¬ ((s.begun r).topo.committed && decide (fld c.sqe 32 1 ≤ 2)) = true := by rw [hcommit]; simp
    have hdecided := State.takes_decided h
    rw [if_neg hrange, if_neg hunlocked]
    by_cases hempty : fld c.sqe 32 1 = 4 ∧ admDataLen c.sqe = 0
    · have hnone : padTo (admDataLen c.sqe) io.data = [] := List.eq_nil_of_length_eq_zero (by rw [padTo_length, hempty.2])
      rw [hempty.2] at hlen
      rw [if_pos hempty, hnone, hcommit]
      simp only [Bool.not_false, if_true, List.length_nil, hlen]
      exact State.answer_section [] hwrite (State.begun_cmd h) hdecided
    · rw [← padTo_length (admDataLen c.sqe) io.data] at hlen
      rw [if_neg hempty, State.withData_ok _ _ _ _ _ _ hread haddr, hcommit]
      simp only [Bool.not_false, if_true, hlen]
      exact State.answer_section _ hwrite (State.begun_cmd h) hdecided
  · subst hk
    have hcommit : (s.begun r).topo.committed = true := hcommitted
    rw [if_neg (by omega), if_pos (by rw [hcommit]; simpa using h2)]
    exact ⟨State.report_ended .topologyLocked (State.begun_cmd h), rfl⟩
  · have hcommit : (s.begun r).topo.committed = true := hcommitted
    rw [if_pos hcommit]
    exact ⟨State.answer_ended hwrite (State.begun_cmd h) fun _ => rfl, (State.answer_effectTopo hwrite).trans (State.writeResult_topo _ _ _)⟩
  · have hcommit : ¬ (s.begun r).topo.committed = true := by simpa using hopen
    rw [if_neg hcommit]
    simp only [hfault]
    have hdecided := State.takes_decided h
    exact ⟨State.failWith_ended c _ _ hwrite (State.begun_cmd h) hdecided, State.failWith_topo _ _ _ _ _ _⟩
  · have hcommit : ¬ (s.begun r).topo.committed = true := by simpa using hopen
    rw [if_neg hcommit]
    simp only [hfault]
    exact State.answer_ok _ _ _ _ _ _ hwrite
  · simp only [hi, hallowed]
    unfold State.stageFor
    rw [if_pos hwrite, hu, hb]
    rfl
  · simp only [hi, hallowed]
    unfold State.stageFor
    rw [if_neg hwrite]
    exact ⟨State.report_ended (c := { c with stage := .running, start := some s.now }) .hostAccessFailed (by rw [State.writeResult_cmds]; exact State.begun_cmd h)
      (State.takes_decided h :), State.writeResult_cfg _ _ _⟩
  · simp only [hi]
    exact ⟨State.report_ended .invalidField (State.begun_cmd h), rfl⟩
  · refine congrArg Host.Outcome.next ((if_pos hruns).trans (congrArg State.completeDue ?_))
    unfold State.adoptOne
    rw [hfind]
    exact if_pos (by simp [hsafe])

end Sys2Proof.Machine
end

section
/-! PROOFS. Admin commands of power, patches, the monitor and keys. -/

namespace Sys2Proof.Machine

open Sys2Proof

/-- Tarn takes a command up only outside its restart. -/
theorem State.takes_noRestart {s : State} {r opc : Nat} {c : Cmd} (h : s.takes r opc c) : s.loess.restart = none := by
  have hruns := State.takes_runs h
  simp only [State.tarnRuns, Bool.and_eq_true, Option.isNone_iff_eq_none] at hruns
  exact hruns.2

/-- What PATCH_LOAD runs once it is alone: the image is taken from its buffer, or is the ROM's where there is none. -/
def State.patchRun (t : State) (r : Nat) (io : HostIo) (c : Cmd) : State :=
  if admDataAddr c.sqe = 0 ∧ admDataLen c.sqe = 0 then t.loadPatch r c io [] 0
  else if 131072 < admDataLen c.sqe then t.report r .invalidField
  else t.withData r c io (admDataLen c.sqe) fun u b =>
    match patchFault b (admDataLen c.sqe) with
    | some st => u.report r st
    | none => u.loadPatch r c io (b.take (admDataLen c.sqe - 96)) (fld b 8 4)

/-- PATCH_LOAD taken up while no other admin command runs: the mark of the command is cleared unless Tarn restarts for it. -/
theorem execPatchLoad_alone {s t : State} {r : Nat} {c : Cmd} {io : HostIo} (h : s.takes r 0x1F c) (hnone : s.tarn.patchCmd = none)
    (halone : ∀ e ∈ s.cmds, e.2.admin = true → e.1 ≠ r → e.2.stage ≠ .running ∧ e.2.stage ≠ .dispatched)
    (ht : (({ s with tarn := { s.tarn with patchCmd := some r } } : State).begun r).patchRun r io c = t) :
    execPatchLoad r io s = .next (if t.loess.restart.isSome then t else { t with tarn := { t.tarn with patchCmd := none } }) := by
  have hidle : (s.cmds.any fun e => e.2.admin && e.1 != r && (e.2.stage == .running || e.2.stage == .dispatched)) = false := by
    rw [List.any_eq_false]
    intro e he hbusy
    simp only [Bool.and_eq_true, bne_iff_ne, Bool.or_eq_true, beq_iff_eq] at hbusy
    obtain ⟨hrunning, hdispatched⟩ := halone e he hbusy.1.1 hbusy.1.2
    exact hbusy.2.elim hrunning hdispatched
  have htakes : ({ s with tarn := { s.tarn with patchCmd := some r } } : State).takes r 0x1F c := h
  unfold execPatchLoad
  simp only [h.1, hnone, hidle, Option.any_none, Bool.false_eq_true, if_false, State.runAdmin_takes htakes]
  rw [← ht]
  rfl

/-- A patch that is loaded: the result is written, and Tarn restarts into the new image. -/
theorem State.loadPatch_restarts {s : State} {r : Nat} {c c0 : Cmd} {io : HostIo} (image : Blob) (svn : Nat) (hio : io.write = .ok)
    (h : tget? s.cmds r = some c0) :
    (s.loadPatch r c io image svn).tarn.patch = image ∧ (s.loadPatch r c io image svn).tarn.svn = svn ∧
    (s.loadPatch r c io image svn).tarn.digest = (if image.isEmpty then [] else sha384 image) ∧
    (s.loadPatch r c io image svn).loess.restartForPatch = true ∧
    (s.loadPatch r c io image svn).loess.restart = some { start := s.now, deadline := s.now + 1000000, slot := 0, heldAt := s.pwr.heldNs } ∧
    (s.loadPatch r c io image svn).cmdHas r fun x =>
      x.journal = .committed ∧ x.result = padTo 64 (if image.isEmpty then zeros 48 else sha384 image) := by
  unfold State.loadPatch
  dsimp only
  rw [if_neg (not_not_intro hio)]
  refine ⟨rfl, rfl, ?_, rfl, ?_, { c0 with journal := .committed, result := padTo 64 (if image.isEmpty then zeros 48 else sha384 image), parked := true }, ?_, rfl, rfl⟩
  · show (if image.isEmpty then [] else if image.isEmpty then zeros 48 else sha384 image) = _
    split <;> rfl
  · show some ({ start := (s.writeResult c _).now, deadline := (s.writeResult c _).now + 1000000, slot := 0, heldAt := (s.writeResult c _).pwr.heldNs } : Rst) = _
    rw [State.writeResult_now, State.writeResult_pwr]
  · show tget? (tmod (s.writeResult c _).cmds r _) r = _
    rw [tget?_tmod, State.writeResult_cmds, h]; rfl

/-- PATCH_LOAD of a buffer that is read. -/
theorem State.patchRun_data {t : State} (r : Nat) {io : HostIo} {c : Cmd} (haddr : admDataAddr c.sqe ≠ 0) (hlen : admDataLen c.sqe ≤ 131072)
    (hread : io.read = .ok) : t.patchRun r io c =
      match patchFault (padTo (admDataLen c.sqe) io.data) (admDataLen c.sqe) with
      | some st => (t.hostRead c.fn (admDataAddr c.sqe) (admDataLen c.sqe)).report r st
      | none => (t.hostRead c.fn (admDataAddr c.sqe) (admDataLen c.sqe)).loadPatch r c io
          ((padTo (admDataLen c.sqe) io.data).take (admDataLen c.sqe - 96)) (fld (padTo (admDataLen c.sqe) io.data) 8 4) := by
  unfold State.patchRun
  rw [if_neg (fun h => haddr h.1), if_neg (Nat.not_lt.mpr hlen), State.withData_ok _ _ _ _ _ _ hread haddr]

/-- A key that is assigned has the owner given. -/
theorem State.fillKey_owner (s : State) (k f : Nat) : (s.fillKey k (some f)).ownsKey f k = decide (16 ≤ k) := by
  unfold State.ownsKey
  show (decide (16 ≤ k) && (match tget? (tset s.kao.slots k _) k with | some x => x.owner == some f | none => false)) = _
  rw [tget?_tset]
  simp

/-- Settles O18, command by command. -/
theorem powerPatchAndKeyCommands : Obligations.PowerPatchAndKeyCommands := by
  intro s r c io
  refine ⟨fun h hidle hk => takes_answer h ?_, fun h hidle hk => takes_answer h ?_, fun k h hidle hk hk23 hbusy => takes_answer h ?_,
    fun h hreset hk => .of_eq (execPwrState_busy io h hk hreset) ⟨State.report_ended .busy (State.begun_cmd h), rfl⟩,
    fun h he hel hl => takes_answer h ?_, fun h hl => takes_answer h ?_, fun h hnone halone haddr hlen hwrite => ?_,
    fun b h hnone halone haddr hlen hread hwrite hb => ?_, fun h hbit hzero => takes_answer h ?_, fun h hbit hlock => takes_answer h ?_,
    fun h hbit hlock => takes_answer h ?_, fun k h hk hfree => takes_answer h ?_, fun k h hk howns hused => takes_answer h ?_,
    fun k h hk howns hused => takes_answer h ?_⟩
  · simp only [State.begun_computeReset, hidle, hk]
    exact ⟨State.commit_ended (State.begun_cmd h), rfl⟩
  · simp only [State.begun_computeReset, hidle, hk]
    exact ⟨State.commit_ended (State.begun_cmd h), rfl⟩
  · rw [if_neg (by omega), if_neg (by simp [hidle]), if_neg (by omega), if_neg (by omega), if_neg (by simp [hbusy]), ← hk]
    exact ⟨State.commit_ended (State.begun_cmd h), rfl⟩
  · rw [if_neg (by omega)]
    exact ⟨State.commit_ended (State.begun_cmd h), rfl⟩
  · rw [if_pos (by omega)]
    exact ⟨State.report_ended .invalidField (State.begun_cmd h), rfl⟩
  · have hbegun : tget? (({ s with tarn := { s.tarn with patchCmd := some r } } : State).begun r).cmds r = some { c with stage := .running, start := some s.now } :=
      State.begun_cmd h
    obtain ⟨hpatch, hsvn, hdigest, hfor, hrestart, hcmd⟩ := State.loadPatch_restarts (c := c) [] 0 hwrite hbegun
    refine .of_eq ((execPatchLoad_alone h hnone halone (if_pos ⟨haddr, hlen⟩)).trans (congrArg Host.Outcome.next (if_pos ?_)))
      ⟨hpatch, hsvn, hdigest, hfor, hrestart, hcmd⟩
    rw [hrestart]; rfl
  · have hrun := State.patchRun_data (t := ({ s with tarn := { s.tarn with patchCmd := some r } } : State).begun r) r haddr hlen hread
    rw [← hb] at hrun
    cases hfault : patchFault b (admDataLen c.sqe) with
    | none =>
      simp only [hfault] at hrun
      have hbegun : tget? ((({ s with tarn := { s.tarn with patchCmd := some r } } : State).begun r).hostRead c.fn (admDataAddr c.sqe) (admDataLen c.sqe)).cmds r =
        some { c with stage := .running, start := some s.now } := State.begun_cmd h
      obtain ⟨hpatch, hsvn, -, -, hrestart, -⟩ := State.loadPatch_restarts (c := c) (b.take (admDataLen c.sqe - 96)) (fld b 8 4) hwrite hbegun
      have hsome := congrArg Option.isSome hrestart
      exact .of_eq ((execPatchLoad_alone h hnone halone hrun).trans (congrArg Host.Outcome.next (if_pos hsome))) ⟨hpatch, hsvn, hsome⟩
    | some st =>
      simp only [hfault] at hrun
      have hno : ¬ s.loess.restart.isSome = true := by rw [State.takes_noRestart h]; simp
      refine .of_eq ((execPatchLoad_alone h hnone halone hrun).trans (congrArg Host.Outcome.next (if_neg hno)))
        ⟨State.report_ended st (State.begun_cmd h), ?_⟩
      show { s.tarn with patchCmd := none } = s.tarn
      rw [← hnone]
  · simp only [hbit, hzero, if_true]
    exact ⟨State.commit_ended (State.begun_cmd h), rfl⟩
  · have hopen : (s.begun r).tarn.lockout = false := hlock
    have hnot : ¬ (s.begun r).tarn.lockout = true := by rw [hopen]; simp
    by_cases hcode : slice c.sqe 32 16 = s.unlockCode
    · have hbegun : slice c.sqe 32 16 = (s.begun r).unlockCode := hcode
      simp only [hbit, if_pos hcode, if_neg hnot, if_pos hbegun, Bool.false_eq_true, if_false]
      exact ⟨State.commit_ended (State.begun_cmd h), rfl⟩
    · have hbegun : ¬ slice c.sqe 32 16 = (s.begun r).unlockCode := hcode
      simp only [hbit, if_neg hcode, if_neg hnot, if_neg hbegun, Bool.false_eq_true, if_false]
      exact ⟨State.report_ended .authFailed (State.begun_cmd h), rfl⟩
  · have hlocked : (s.begun r).tarn.lockout = true := hlock
    simp only [hbit, hlocked, Bool.false_eq_true, if_false, if_true]
    exact ⟨State.report_ended .authFailed (State.begun_cmd h), rfl⟩
  · have hnew : tget? (s.begun r).kao.slots k = none := hfree
    simp only [hk, List.any_cons, List.any_nil, hnew, Option.isSome_none, Bool.or_false, Bool.false_eq_true, if_false, List.foldl_cons, List.foldl_nil]
    refine ⟨State.commit_ended (State.begun_cmd h), ?_, State.fillKey_owner (s.begun r) k _⟩
    simp [State.ownsKey, hfree]
  · have hmine : (s.begun r).ownsKey (fld c.sqe 32 2) k = true := howns
    have hunused : (s.begun r).keyUsed k = false := hused
    simp only [hk, List.any_cons, List.any_nil, hmine, hunused, Bool.not_true, Bool.or_false, Bool.false_eq_true, if_false, List.foldl_cons, List.foldl_nil]
    exact ⟨State.commit_ended (State.begun_cmd h), rfl⟩
  · have hmine : (s.begun r).ownsKey (fld c.sqe 32 2) k = true := howns
    have hinuse : (s.begun r).keyUsed k = true := hused
    simp only [hk, List.any_cons, List.any_nil, hmine, hinuse, Bool.not_true, Bool.or_false, Bool.false_eq_true, if_false, if_true]
    exact ⟨State.report_ended .busy (State.begun_cmd h), rfl⟩

end Sys2Proof.Machine
end

section
/-! PROOFS. Contexts, allocations and the tables of a context (04_commands_and_graphs.md; 06_translation.md). -/

namespace Sys2Proof.Machine

open Sys2Proof

/-- What an effect that an answer has leaves of the contexts and of the allocations. -/
theorem State.answer_effectObjects {s : State} {r : Nat} {c : Cmd} {io : HostIo} {b : Blob} {eff : State → State} (hio : io.write = .ok) :
    (s.answer r c io b eff).ctxs = (eff (s.writeResult c b)).ctxs ∧ (s.answer r c io b eff).allocs = (eff (s.writeResult c b)).allocs := by
  rw [State.answer_ok _ _ _ _ _ _ hio]; exact ⟨rfl, rfl⟩

/-- The checks of CTX_CREATE pass a context whose fields are in range, whose image is ready and whose clusters its function may use. -/
theorem State.ctxChecks_pass {s : State} {f id : Nat} {x : Ctx} (hprio : x.prio ≤ 15) (h1 : 1 ≤ x.image) (h63 : x.image ≤ 63)
    (hready : s.imageReady x.image = true) (hmask : x.clusters ≠ 0)
    (hclusters : ∀ u ∈ x.clusterList, bit (s.fn f).clusters u = true ∧ (s.eng (seracEngine u)).fenced = false) (hid : id ≤ 65535)
    (hslots : s.slotStates + x.clusterList.length ≤ 262144) :
    firstSome [
      failIf (decide (15 < x.prio) || x.image == 0 || decide (63 < x.image)) .invalidField,
      failIf (!s.imageReady x.image) .invalidImage,
      failIf (x.clusters == 0 || x.clusterList.any fun u => !bit (s.fn f).clusters u || (s.eng (seracEngine u)).fenced) .notPermitted,
      failIf (decide (65535 < id)) .noContextId,
      failIf (decide (262144 < s.slotStates + x.clusterList.length)) .outOfMemory ] = none := by
  have hrange : (decide (15 < x.prio) || x.image == 0 || decide (63 < x.image)) = false := by simp; omega
  have hany : (x.clusterList.any fun u => !bit (s.fn f).clusters u || (s.eng (seracEngine u)).fenced) = false := by
    rw [List.any_eq_false]
    intro u hu
    obtain ⟨hallowed, hopen⟩ := hclusters u hu
    simp [hallowed, hopen]
  have hidOk : decide (65535 < id) = false := decide_eq_false (Nat.not_lt.mpr hid)
  have hroom : decide (262144 < s.slotStates + x.clusterList.length) = false := decide_eq_false (Nat.not_lt.mpr hslots)
  simp [firstSome, failIf, hrange, hready, hmask, hany, hidOk, hroom]

/-- MEM_ALLOC whose frames are placed gives the allocation. -/
theorem State.allocDevice_placed {t u : State} {r : Nat} {c : Cmd} {io : HostIo} {asked : List Nat} {l : List (Nat × List Nat)}
    (h : t.placeAlloc (t.fn c.fn).vx1 (fld c.sqe 40 1) (fld c.sqe 32 8 / frameBytes) asked
      { prot := fld c.sqe 41 1, key := fld c.sqe 42 2, fn := c.fn, alloc := tfree t.allocs 1 } = some (l, u)) :
    t.allocDevice r c io asked = t.giveAlloc u r c io (l.flatMap fun p => p.2.map fun f => (p.1, f)) := by
  unfold State.allocDevice
  simp only [h]

/-- MEM_ALLOC whose frames are not placed ends. -/
theorem State.allocDevice_full {t : State} {r : Nat} {c : Cmd} {io : HostIo} {asked : List Nat}
    (h : t.placeAlloc (t.fn c.fn).vx1 (fld c.sqe 40 1) (fld c.sqe 32 8 / frameBytes) asked
      { prot := fld c.sqe 41 1, key := fld c.sqe 42 2, fn := c.fn, alloc := tfree t.allocs 1 } = none) :
    t.allocDevice r c io asked = t.report r .outOfMemory := by
  unfold State.allocDevice
  simp only [h]

/-- Freeing an allocation takes its record away alone. -/
theorem State.freeAlloc_takes {s : State} {a : Nat} {x : Alloc} (h : tget? s.allocs a = some x) : (s.freeAlloc a).allocs = tdel s.allocs a := by
  unfold State.freeAlloc
  simp only [h]
  show tdel (List.foldl (fun (t : State) f => t.releaseFrame f.1 f.2) s x.frames).allocs a = _
  rw [foldl_allocs (fun (t : State) (f : Nat × Nat) => t.releaseFrame f.1 f.2) _ _ fun t f => State.releaseFrame_allocs t f.1 f.2]

/-- An allocation that is named by its function stands in the table. -/
theorem allocOf_get {s : State} {f a : Nat} {x : Alloc} (h : s.allocOf f a = some x) : tget? s.allocs a = some x := by
  unfold State.allocOf at h
  split at h
  · split at h
    · cases h; assumption
    · cases h
  · cases h

/-- An allocation that is given stands under the lowest free number, and no other changes. -/
theorem State.giveAlloc_allocs {s : State} (t : State) {r : Nat} {c : Cmd} {io : HostIo} (frames : List (Nat × Nat)) (hio : io.write = .ok) :
    (s.giveAlloc t r c io frames).allocs = tset s.allocs (tfree s.allocs 1)
      { fn := c.fn, size := fld c.sqe 32 8, tier := (frames.map (·.1)).foldl max 0, prot := fld c.sqe 41 1, key := fld c.sqe 42 2, frames := frames } := by
  unfold State.giveAlloc
  rw [(State.answer_effectObjects hio).2]
  show tset (s.writeResult c _).allocs _ _ = _
  rw [State.writeResult_allocs]

/-- MEM_ALLOC of tier 0, 1 or 3 whose fields and key are good asks for frames of the device. -/
theorem execMemAlloc_device {s : State} {r : Nat} {c : Cmd} (io : HostIo) (frames : List Nat) (h : s.takes r 0x30 c)
    (hparams : allocParamsOk c.sqe (s.fn c.fn).vx1 = true) (hkey : s.ownsKey c.fn (fld c.sqe 42 2) = true) (htier : fld c.sqe 40 1 ≠ 2) :
    execMemAlloc r io frames s = .next ((s.begun r).allocDevice r c io frames) := by
  have hfields : allocParamsOk c.sqe ((s.begun r).fn c.fn).vx1 = true := hparams
  have hown : (s.begun r).ownsKey c.fn (fld c.sqe 42 2) = true := hkey
  have htier2 : (fld c.sqe 40 1 == 2) = false := beq_eq_false_iff_ne.mpr htier
  refine exec_of_takes h rfl ?_
  simp only [hfields, hown, htier2, Bool.not_true, Bool.and_false, Bool.false_eq_true, if_false]

/-- Settles O20, command by command. -/
theorem contextAndMemoryCommands : Obligations.ContextAndMemoryCommands := by
  intro s r c io
  refine ⟨fun x id h hwrite hid hx hprio h1 h63 hready hmask hclusters hids hslots => takes_answer h ?_,
    fun y h hwaits hy => ⟨fun hpool => ?_, fun hpool hidle => ?_⟩, fun y h hy => exec_of_takes h rfl ?_, fun h hnone => takes_answer h ?_,
    fun l u frames h hparams hprot hkey htier hwrite hplace => .of_eq ((execMemAlloc_device io frames h hparams hkey htier).trans
      (congrArg Host.Outcome.next (State.allocDevice_placed hplace))) ⟨?_, ⟨_, (congrArg (tget? · _) (State.giveAlloc_allocs u _ hwrite)).trans (tget?_tset _ _ _), rfl, rfl, hprot, rfl, rfl⟩, fun k hk => ?_⟩,
    fun frames h hparams hprot hkey htier hplace => .of_eq ((execMemAlloc_device io frames h hparams hkey htier).trans
      (congrArg Host.Outcome.next (State.allocDevice_full hplace))) ⟨State.report_ended .outOfMemory (State.begun_cmd h), rfl⟩,
    fun a h ha hfree => takes_answer h ?_, fun a h ha hused => takes_answer h ?_,
    fun a h ha hlen haddr htier hprot hvx1 hvariant hwrite => takes_answer h ?_⟩
  · subst hx hid
    have hchecks := State.ctxChecks_pass (s := s.begun r) (f := c.fn) (id := tfree (s.begun r).ctxs 1) hprio h1 h63 hready hmask hclusters hids hslots
    dsimp only at hchecks
    simp only [hchecks]
    have hdecided := State.takes_decided h
    refine ⟨State.answer_ended (c0 := { c with stage := .running, start := some s.now }) hwrite (State.begun_cmd h) (fun _ => rfl) hdecided, ?_,
      State.answer_result (c0 := { c with stage := .running, start := some s.now }) hwrite (State.begun_cmd h) (fun _ => rfl) hdecided⟩
    rw [(State.answer_effectObjects hwrite).1, State.writeResult_eq]
    rfl
  · have hmine : (s.begun r).ctxOf c.fn (fld c.sqe 32 2) = some y := hy
    refine .of_eq (t := (s.begun r).report r .busy) ?_ ⟨State.report_ended .busy (State.begun_cmd h), rfl⟩
    show Host.Outcome.next _ = _
    simp only [h.1, hwaits, State.runAdmin_takes h, hmine, if_pos (Or.inl hpool), Bool.false_eq_true, if_false]
  · have hmine : (s.begun r).ctxOf c.fn (fld c.sqe 32 2) = some y := hy
    show Host.Outcome.next _ = _
    have hfree : ¬ (y.pool ≠ 0 ∨ (s.begun r).ctxBusy (fld c.sqe 32 2) = true) := by simp [hpool, hidle]
    simp only [h.1, hwaits, State.runAdmin_takes h, hmine, if_neg hfree, Bool.false_eq_true, if_false]
  · have hctx : ((s.begun r).ctxOf c.fn (fld c.sqe 32 2)).isNone = false := by
      show (s.ctxOf c.fn (fld c.sqe 32 2)).isNone = false
      rw [hy]; rfl
    simp only [hctx]
    rfl
  · have hctx : ((s.begun r).ctxOf c.fn (fld c.sqe 32 2)).isNone = true := by
      show (s.ctxOf c.fn (fld c.sqe 32 2)).isNone = true
      rw [hnone]; rfl
    simp only [hctx, if_true]
    exact ⟨State.report_ended .invalidContext (State.begun_cmd h), rfl⟩
  · have hdecided := State.takes_decided h
    exact State.answer_ended (c0 := { c with stage := .running, start := some s.now }) hwrite (State.begun_cmd h) (fun _ => rfl) hdecided
  · rw [State.giveAlloc_allocs u _ hwrite]
    exact tget?_tset_ne _ _ hk
  · have hget : tget? (s.begun r).allocs (fld c.sqe 32 4) = some a := allocOf_get ha
    have hnone : ¬ ((s.begun r).allocOf c.fn (fld c.sqe 32 4)).isNone = true := by
      show ¬ (s.allocOf c.fn (fld c.sqe 32 4)).isNone = true
      rw [ha]; simp
    have hidle : ¬ ((s.begun r).allocMapped (fld c.sqe 32 4) || (s.begun r).allocOfVariant (fld c.sqe 32 4)) = true := Bool.eq_false_iff.mp hfree
    simp only [if_neg hnone, if_neg hidle]
    exact ⟨State.commit_ended (by rw [State.freeAlloc_cmds]; exact State.begun_cmd h), State.freeAlloc_takes hget⟩
  · have hnone : ¬ ((s.begun r).allocOf c.fn (fld c.sqe 32 4)).isNone = true := by
      show ¬ (s.allocOf c.fn (fld c.sqe 32 4)).isNone = true
      rw [ha]; simp
    have hbusy : ((s.begun r).allocMapped (fld c.sqe 32 4) || (s.begun r).allocOfVariant (fld c.sqe 32 4)) = true := hused
    simp only [if_neg hnone, if_pos hbusy]
    exact ⟨State.report_ended .busy (State.begun_cmd h), rfl⟩
  · have hmine : (s.begun r).allocOf c.fn (fld c.sqe 32 4) = some a := ha
    have hplain : ((s.begun r).fn c.fn).vx1 = false := hvx1
    have hunused : (s.begun r).allocOfVariant (fld c.sqe 32 4) = false := hvariant
    have hok : ¬ (admDataAddr c.sqe = 0 ∨ a.tier = 2 ∨ a.prot ≠ 0 ∨ ((s.begun r).fn c.fn).vx1 = true) := by
      rw [hplain]; simp [haddr, htier, hprot]
    simp only [hmine, if_neg (Nat.not_lt.mpr hlen), if_neg hok, hunused, Bool.false_eq_true, if_false]
    generalize hu : (s.begun r).hostWrite c.fn (admDataAddr c.sqe) _ = u
    have hc : tget? u.cmds r = some { c with stage := .running, start := some s.now } := by
      rw [← hu, State.hostWrite_cmds]; exact State.begun_cmd h
    have hallocs : u.allocs = s.allocs := by rw [← hu, State.hostWrite_allocs]; rfl
    have hdecided := State.takes_decided h
    refine ⟨State.answer_ended hwrite hc (fun _ => rfl) hdecided, ?_, State.answer_result hwrite hc (fun _ => rfl) hdecided⟩
    rw [(State.answer_effectObjects hwrite).2, State.writeResult_allocs, hallocs]

end Sys2Proof.Machine
end

section
/-! PROOFS. MAP, UNMAP, MAP_REMOTE and the invalidations they wait for (06_translation.md, Range invalidation). -/

namespace Sys2Proof.Machine

open Sys2Proof

/-- A change of the tables is handed over to the invalidation that waits for it. -/
theorem State.writeTables_cmd {s : State} {r x : Nat} {c : Cmd} (ls : List Leaf) (lo hi : Nat) (m : Bool) (h : tget? s.cmds r = some c) :
    (s.writeTables r x ls lo hi m).cmdHas r fun y => y.journal = .handedOver := by
  unfold State.writeTables
  refine ⟨{ c with journal := .handedOver, parked := true }, ?_, rfl⟩
  show tget? (tmod (s.putTables x ls).cmds r _) r = _
  rw [tget?_tmod, State.putTables_cmds, h]; rfl

/-- The context that a change of it leaves. -/
theorem State.modCtx_get {s : State} {x : Nat} {y : Ctx} (g : Ctx → Ctx) (h : tget? s.ctxs x = some y) :
    tget? (s.modCtx x g).ctxs x = some (g y) := by
  show tget? (tmod s.ctxs x g) x = _
  rw [tget?_tmod, h]; rfl

/-- The change of the tables that an invalidation carries gives its context the leaves and keeps the epoch. -/
theorem State.applyChange_ctx {s : State} {x : Nat} {y : Ctx} (z : Change) (h : tget? s.ctxs x = some y) :
    ∃ w, tget? (s.applyChange x z).ctxs x = some w ∧ w.leaves = z.leaves ∧ w.epoch = y.epoch := by
  unfold State.applyChange
  dsimp only
  split
  · rw [State.crevResolve_ctxs]
    exact ⟨_, State.modCtx_get _ h, rfl, rfl⟩
  · exact ⟨_, State.modCtx_get _ h, rfl, rfl⟩

/-- A command of the tables of a context that no invalidation holds is taken up. -/
theorem State.runAdmin_unlessWaiting {s : State} {r opc : Nat} {c : Cmd} {f : State → Cmd → State} (h : s.takes r opc c)
    (hwaits : s.invalWaits c.fn (fld c.sqe 32 2) = false) :
    (match s.adminCmd r opc with
      | none => s
      | some c0 => if s.invalWaits c0.fn (fld c0.sqe 32 2) then s else s.runAdmin r opc f) = f (s.begun r) c := by
  simp only [h.1, hwaits, State.runAdmin_takes h, Bool.false_eq_true, if_false]

/-- The last acknowledgement of an invalidation makes the change it carries. -/
theorem invalidationAck_changes {s : State} {x : Ctx} {i : Inval} {z : Change} {e : Nat} (hfind : s.esk.invals.find? (·.id == i.id) = some i)
    (hx : tget? s.ctxs i.ctx = some x) (hchange : i.change = some z) (hstages : s.stagesRun = true) (hengine : invalEngines.contains e = true)
    (hfresh : i.acked.contains e = false) (hrst : (s.eng e).rst = none) (htile : (e / 256 == 1 && s.tileInRange (e % 256) i) = false)
    (hlast : invalEngines.all (e :: i.acked).contains = true) :
    AnswersSettled (exec (.invalidationAck i.id e) s) fun t => ∃ y, tget? t.ctxs i.ctx = some y ∧ y.leaves = z.leaves ∧ y.epoch = x.epoch := by
  have hacked : tget? (s.ackEffect e i).ctxs i.ctx = some x := by rw [State.ackEffect_ctxs, hx]
  generalize hs1 : ({ s.ackEffect e i with esk := { (s.ackEffect e i).esk with
    invals := ((s.ackEffect e i).esk.invals.filter fun (x : Inval) => x.id != i.id) ++ (s.ackEffect e i).esk.invalWait.take 1
    invalWait := (s.ackEffect e i).esk.invalWait.drop 1
    moving := (s.ackEffect e i).esk.moving.filter (· != i.id) } } : State) = s1
  have hkept : tget? s1.ctxs i.ctx = some x := by rw [← hs1]; exact hacked
  refine ⟨match i.cmd with | some r => (s1.applyChange i.ctx z).commit r | none => s1.applyChange i.ctx z, ?_, ?_⟩
  · show Host.Outcome.next _ = _
    simp only [hfind, hstages, hengine, hfresh, hrst, htile, hlast, Bool.not_true, Bool.or_false, Option.isSome_none, Bool.false_eq_true, if_false, if_true]
    unfold State.invalDone
    simp only [hchange, hs1] <;> rfl
  · cases i.cmd with
    | none => exact State.applyChange_ctx z hkept
    | some r => exact State.applyChange_ctx z hkept

/-- Settles O21. -/
theorem translationCommands : Obligations.TranslationCommands := by
  refine ⟨fun s x i z e hfind hx hchange hstages hengine hfresh hrst htile hlast =>
      invalidationAck_changes hfind hx hchange hstages hengine hfresh hrst htile hlast,
    fun s r c io x hwaits hx hepoch => ⟨fun a ls h hsize hrange halign ha hlen hvariant hls => ?_, fun h hrange => ?_,
      fun n l ls h hn hn8 hrange hrights haddr hread hl hcheck hls hfit => ?_⟩⟩
  · have hctx : (s.begun r).ctxOf c.fn (fld c.sqe 32 2) = some x := hx
    have halloc : (s.begun r).allocOf c.fn (fld c.sqe 36 4) = some a := ha
    have hfields : ¬ (decide (2 < fld c.sqe 35 1) || !rangeOk (fld c.sqe 40 8) (fld c.sqe 56 8) (pageBytes (fld c.sqe 35 1)) ||
        fld c.sqe 48 8 % pageBytes (fld c.sqe 35 1) != 0) = true := by
      simp [hrange, halign]; omega
    have hidle : ¬ ((s.begun r).allocOfVariant (fld c.sqe 36 4) || decide (topEpoch ≤ x.epoch)) = true := by
      simp [show (s.begun r).allocOfVariant (fld c.sqe 36 4) = false from hvariant, hepoch]
    have hrun : exec (.mapRange r io) s = .next (if !(s.begun r).tablesFit x ls then (s.begun r).report r .outOfMemory
        else (s.begun r).writeTables r (fld c.sqe 32 2) ls (fld c.sqe 40 8) (fld c.sqe 40 8 + fld c.sqe 56 8) true) := by
      refine congrArg Host.Outcome.next ((State.runAdmin_unlessWaiting h hwaits).trans ?_)
      simp only [if_neg hfields, hctx, halloc, if_neg (Nat.not_lt.mpr hlen), if_neg hidle, hls]
      rfl
    refine ⟨fun hfit => ?_, fun hfull => ?_⟩
    · obtain ⟨hepoch1, hwaiting⟩ := writeTables_eff (s := s.begun r) (r := r) ls (fld c.sqe 40 8) (fld c.sqe 40 8 + fld c.sqe 56 8) true (ctxOf_get hctx)
      exact .of_eq (hrun.trans (congrArg Host.Outcome.next (if_neg (by simp [show (s.begun r).tablesFit x ls = true from hfit]))))
        ⟨hepoch1, hwaiting, State.writeTables_cmd ls _ _ true (State.begun_cmd h)⟩
    · exact .of_eq (hrun.trans (congrArg Host.Outcome.next (if_pos (by simp [show (s.begun r).tablesFit x ls = false from hfull]))))
        ⟨State.report_ended .outOfMemory (State.begun_cmd h), rfl⟩
  · have hctx : (s.begun r).ctxOf c.fn (fld c.sqe 32 2) = some x := hx
    refine .of_eq (congrArg Host.Outcome.next ((State.runAdmin_unlessWaiting h hwaits).trans ?_))
      (writeTables_eff (s := s.begun r) (r := r) (unmapLeaves x.leaves (fld c.sqe 40 8) (fld c.sqe 40 8 + fld c.sqe 48 8)) (fld c.sqe 40 8)
        (fld c.sqe 40 8 + fld c.sqe 48 8) false (ctxOf_get hctx))
    simp only [hrange, hctx, if_neg (Nat.not_le.mpr hepoch), Bool.not_true, Bool.false_eq_true, if_false]
  · subst hn
    have hctx : (s.begun r).ctxOf c.fn (fld c.sqe 32 2) = some x := hx
    have hfields : ¬ (decide (admDataLen c.sqe % 8 ≠ 0) || !rangeOk (fld c.sqe 40 8) (admDataLen c.sqe / 8 * frameBytes) frameBytes ||
        decide (3 < fld c.sqe 34 1)) = true := by
      simp [hrange, hn8]; omega
    generalize hu : (s.begun r).hostRead c.fn (admDataAddr c.sqe) (8 * (admDataLen c.sqe / 8)) = u
    have hget : tget? u.ctxs (fld c.sqe 32 2) = some x := by rw [← hu]; exact ctxOf_get hctx
    have hlist : u.checkRemoteList c.fn l = none := by rw [← hu]; exact hcheck
    have hroom : u.tablesFit x ls = true := by rw [← hu]; exact hfit
    refine .of_eq (congrArg Host.Outcome.next ((State.runAdmin_unlessWaiting h hwaits).trans ?_))
      (writeTables_eff (s := u) (r := r) ls (fld c.sqe 40 8) (fld c.sqe 40 8 + admDataLen c.sqe / 8 * frameBytes) true hget)
    simp only [if_neg hfields, hctx, if_neg (Nat.not_le.mpr hepoch), State.withData_ok _ _ _ _ _ _ hread haddr, hu, ← hl, hlist, ← hls, hroom,
      Bool.not_true, Bool.false_eq_true, if_false]

end Sys2Proof.Machine
end

section
/-! PROOFS. Image commands and loads (07_base_weights.md, Loading). -/

namespace Sys2Proof.Machine

open Sys2Proof

/-! ## What image operations leave of the loads -/

/-- The loads that wait and the registers of the last one. -/
def Firn.loadPart (f : Firn) : List Load × Nat × Nat × Nat := (f.loads, f.loadState, f.loadFail, f.failedShard)

theorem State.modImage_loadPart (s : State) (i : Nat) (g : Image → Image) : (s.modImage i g).firn.loadPart = s.firn.loadPart := rfl

theorem State.absentImage_loadPart (s : State) (i : Nat) : (s.absentImage i).firn.loadPart = s.firn.loadPart := by
  unfold State.absentImage
  split
  · rfl
  · split <;> rfl

theorem State.undrain_loadPart (s : State) (i : Nat) : (s.undrain i).firn.loadPart = s.firn.loadPart := by
  unfold State.undrain
  split
  · exact s.absentImage_loadPart i
  · rfl

theorem State.pruneImages_loadPart (s : State) : s.pruneImages.firn.loadPart = s.firn.loadPart := by
  unfold State.pruneImages
  dsimp only
  split <;> rfl

theorem State.dropLoadVersion_loadPart (s : State) (l : Load) : (s.dropLoadVersion l).firn.loadPart = s.firn.loadPart := by
  unfold State.dropLoadVersion
  split
  · rfl
  · dsimp only
    split
    · exact State.absentImage_loadPart _ _
    · rfl

/-- What a load that is refused leaves behind, before its command is reported: the load itself is gone from the front. -/
theorem State.refuseLoad_report (s : State) (l : Load) (st : Status) :
    ∃ u : State, s.refuseLoad l st = u.report l.cmd st ∧ u.cmds = s.cmds ∧ u.firn.loads = s.firn.loads.drop 1 := by
  generalize hgone : (if l.kind = 0 then s.popLoad.absentImage l.image else if l.draining then s.popLoad.undrain l.image else s.popLoad) = u
  have hkept : u.cmds = s.cmds ∧ u.firn.loadPart = s.popLoad.firn.loadPart := by
    rw [← hgone]
    split
    · exact ⟨State.absentImage_cmds _ _, State.absentImage_loadPart _ _⟩
    · split
      · exact ⟨State.undrain_cmds _ _, State.undrain_loadPart _ _⟩
      · exact ⟨rfl, rfl⟩
  obtain ⟨hcmds, hpart⟩ := hkept
  have hloads : u.firn.loads = s.firn.loads.drop 1 := congrArg Prod.fst hpart
  unfold State.refuseLoad
  simp only [hgone]
  refine ⟨_, rfl, ?_, ?_⟩
  · split
    · exact hcmds
    · exact hcmds
  · split
    · exact hloads
    · exact hloads

/-- A load that joins others waits behind them. -/
theorem State.queueLoad_behind {s : State} (l : Load) (h : s.firn.loads ≠ []) : (s.queueLoad l).firn.loads = s.firn.loads ++ [l] := by
  obtain ⟨x, rest, hloads⟩ := List.exists_cons_of_ne_nil h
  unfold State.queueLoad State.turnNow
  simp only [State.modCmd_firn, State.park_firn, hloads]
  split
  · rename_i heq
    simp at heq
  · rfl

/-- A load takes its bytes from a manifest that is read, and that its form allows. -/
theorem State.withManifest_ok {s : State} (r : Nat) {c : Cmd} {io : HostIo} {v : ImgVer} (f : State → ImgVer → State) (haddr : admDataAddr c.sqe ≠ 0)
    (hread : io.read = .ok) (hv : manifestOf (padTo (admDataLen c.sqe) io.data) (admDataLen c.sqe) (fld c.sqe 36 1) = some v) (hpref : v.pref ≠ 1) :
    s.withManifest r c io f = f (s.hostRead c.fn (admDataAddr c.sqe) (admDataLen c.sqe)) v := by
  unfold State.withManifest
  rw [State.withData_ok _ _ _ _ _ _ hread haddr]
  simp only [hv]
  exact if_neg fun h => hpref h.1

/-- Settles O22, command by command. -/
theorem imageCommands : Obligations.ImageCommands := by
  refine ⟨fun s l hl => State.queueLoad_behind l hl, fun s r c io => ⟨fun v h hid hpref hstate haddr hread hv hvpref => ?_,
    fun h hid hpref hstate => takes_answer h ?_, fun p h hid hp => exec_of_takes h rfl ?_, fun h hid hp => takes_answer h ?_,
    fun v h hid hpref hstate haddr hread hv hvpref => ?_, fun h hid hloads hstaged hcurrent hused => exec_of_takes h rfl ?_,
    fun h hid hloads => takes_answer h ?_⟩⟩
  · have hform : (!imgIdOk (imgId c.sqe) || (fld c.sqe 36 1 != 0 && fld c.sqe 36 1 != 1 && fld c.sqe 36 1 != 3)) = false := by
      rcases hpref with hp | hp <;> simp [hid, hp]
    have hbegun : ((s.begun r).image (imgId c.sqe)).state = 0 := hstate
    have hnot1 : v.pref ≠ 1 := by omega
    generalize hu : (s.begun r).hostRead c.fn (admDataAddr c.sqe) (admDataLen c.sqe) = u
    have hfirn : u.firn = s.firn := by rw [← hu]; rfl
    refine ⟨{ u with firn := { u.firn with images := tupd u.firn.images {} (imgId c.sqe) fun x => { x with state := 1 } } }, ?_, ?_, exec_of_takes h rfl ?_⟩
    · rw [hfirn]
    · rw [hfirn]
    · simp only [hform, hbegun, State.withManifest_ok r _ haddr hread hv hnot1, hu, Bool.false_eq_true, if_false, ne_eq, not_true_eq_false]
  · have hbegun : ((s.begun r).image (imgId c.sqe)).state ≠ 0 := hstate
    have hform : (!imgIdOk (imgId c.sqe) || (fld c.sqe 36 1 != 0 && fld c.sqe 36 1 != 1 && fld c.sqe 36 1 != 3)) = false := by simp [hid, hpref]
    simp only [hform, if_pos hbegun, Bool.false_eq_true, if_false]
    exact ⟨State.report_ended .busy (State.begun_cmd h), rfl⟩
  · have hbegun : ((s.begun r).image (imgId c.sqe)).staged = some p := hp
    simp only [hid, hbegun, Bool.not_true, Bool.false_eq_true, if_false]
  · have hbegun : ((s.begun r).image (imgId c.sqe)).staged = none := hp
    simp only [hid, hbegun, Bool.not_true, Bool.false_eq_true, if_false]
    exact ⟨State.report_ended .imageNotStaged (State.begun_cmd h), rfl⟩
  · have hform : (!imgIdOk (imgId c.sqe) || (fld c.sqe 36 1 != 0 && fld c.sqe 36 1 != 1 && fld c.sqe 36 1 != 3)) = false := by
      rcases hpref with hp | hp <;> simp [hid, hp]
    have hbegun : ¬ (((s.begun r).image (imgId c.sqe)).state ≠ 3 ∧ ((s.begun r).image (imgId c.sqe)).state ≠ 5) := by
      show ¬ ((s.image (imgId c.sqe)).state ≠ 3 ∧ (s.image (imgId c.sqe)).state ≠ 5)
      omega
    have hnot1 : v.pref ≠ 1 := by omega
    refine ⟨(s.begun r).hostRead c.fn (admDataAddr c.sqe) (admDataLen c.sqe), rfl, exec_of_takes h rfl ?_⟩
    simp only [hform, if_neg hbegun, State.withManifest_ok r _ haddr hread hv hnot1, Bool.false_eq_true, if_false]
  · have hqueued : ((s.begun r).firn.loads.any (·.image == imgId c.sqe)) = false := hloads
    have hnone : ((s.begun r).image (imgId c.sqe)).staged = none := hstaged
    have hpresent : ((s.begun r).image (imgId c.sqe)).current ≠ 0 := hcurrent
    have hunused : (s.begun r).imageUsed (imgId c.sqe) = false := hused
    simp only [hid, hqueued, hnone, if_neg hpresent, hunused, Bool.not_true, Bool.false_eq_true, if_false]
  · have hqueued : ((s.begun r).firn.loads.any (·.image == imgId c.sqe)) = true := hloads
    simp only [hid, hqueued, Bool.not_true, Bool.false_eq_true, if_false, if_true]
    exact ⟨State.report_ended .busy (State.begun_cmd h), rfl⟩

/-! ## Loads -/

/-- A load that is staged again ends its command with the failure, and the failure is registered. -/
theorem State.stageLoad_ended {s : State} {l : Load} {c : Cmd} (i fail : Nat) (st : Status) (h : tget? s.cmds l.cmd = some c) (hd : c.decided = none) :
    (s.stageLoad l i fail st).ended l.cmd st ∧ (s.stageLoad l i fail st).firn.failedShard = i ∧ (s.stageLoad l i fail st).firn.loadFail = fail ∧
      (s.stageLoad l i fail st).now = s.now :=
  ⟨State.report_ended st h hd, rfl, rfl, rfl⟩

/-- A load that is spoilt ends its command MANIFEST_INVALID, and the failure is registered. -/
theorem State.spoilLoad_ended {s : State} {l : Load} {c : Cmd} (i : Nat) (h : tget? s.cmds l.cmd = some c) (hd : c.decided = none) :
    (s.spoilLoad l i).ended l.cmd .manifestInvalid ∧ (s.spoilLoad l i).firn.loadFail = 3 := by
  refine ⟨State.report_ended (c := c) .manifestInvalid ?_ hd, rfl⟩
  show tget? (s.popLoad.dropLoadVersion l).cmds l.cmd = _
  rw [State.dropLoadVersion_cmds]
  exact h

/-- A version that is put in use ends the load with no failure registered. -/
theorem State.activate_firn (s : State) (l : Load) : (s.activate l).firn.loads = s.firn.loads.drop 1 ∧ (s.activate l).firn.loadFail = 0 := by
  unfold State.activate
  dsimp only
  rw [State.pulse_firn]
  generalize hu : State.popLoad _ = u
  have hpart := u.pruneImages_loadPart
  have hfields := hpart
  simp only [Firn.loadPart, Prod.mk.injEq] at hfields
  obtain ⟨hloads, -, hfail, -⟩ := hfields
  rw [hloads, hfail, ← hu]
  exact ⟨rfl, rfl⟩

/-- What a change of a shard and the passing of time ask of the host: nothing. -/
theorem State.modShard_host (s : State) (i : Nat) (f : Shard → Shard) :
    (s.modShard i f).ports = s.ports ∧ (s.modShard i f).fns = s.fns ∧ (s.modShard i f).now = s.now := by
  unfold State.modShard
  exact ⟨State.modLoad_ports _ _, State.modLoad_fns _ _, State.modLoad_now _ _⟩

/-- A read of the host is asked at the host port. -/
theorem State.hostRead_host {s t : State} (f a n : Nat) (hports : t.ports.host = s.ports.host) (hfns : t.fns = s.fns) :
    (t.hostRead f a n).ports.host = s.ports.host ++ s.readTx f a n := by
  show t.ports.host ++ t.readTx f a n = _
  unfold State.readTx State.fn
  rw [hports, hfns]

/-- Settles O23, event by event. -/
theorem imageLoading : Obligations.ImageLoading := by
  intro s
  refine ⟨fun l rest frames hl hbegun hruns => ?_, fun l rest st frames c hl hbegun hruns hturn hc hd => ?_,
    fun i l x b hx hflight hruns => ⟨fun hgood => ?_, fun hbad hfew => ?_, fun resp hresp => ?_⟩,
    fun i l x t0 hx hretry ht hruns => ?_, fun i l x c hx hretry hruns hc hd => ?_, fun l rest c io hl hbegun hstate hruns hc hd hdigest hio => ?_,
    fun l rest c io hl hbegun hstate hruns hc hd hdigest => ?_⟩
  · show Host.Outcome.next _ = _
    simp [hl, hbegun, hruns] <;> rfl
  · obtain ⟨u, hrefused, hcmds, hloads⟩ := s.refuseLoad_report l st
    refine .of_eq (t := s.refuseLoad l st) ?_ ?_
    · show Host.Outcome.next _ = _
      simp [hl, hbegun, hruns, hturn]
    · rw [hrefused]
      exact ⟨State.report_ended st (hcmds ▸ hc) hd, hloads.trans (by rw [hl]; rfl)⟩
  · show Host.Outcome.next _ = _
    simp [hx, hflight, hruns, hgood]
  · refine .of_eq (t := (s.modShard i fun y => { y with badDigests := y.badDigests + 1 }).hostRead 0 x.addr x.length) ?_ ⟨?_, rfl⟩
    · show Host.Outcome.next _ = _
      simp [hx, hflight, hruns, hbad, Nat.ne_of_lt hfew]
    · obtain ⟨hports, hfns, -⟩ := s.modShard_host i fun y => { y with badDigests := y.badDigests + 1 }
      exact State.hostRead_host 0 _ _ (congrArg _ hports) hfns
  · refine .of_eq ?_ rfl
    show Host.Outcome.next _ = _
    simp [hx, hflight, hruns, hresp]
  · refine .of_eq (t := ((s.advanceTo t0).modShard i fun y => { y with inFlight := true, retryAt := none }).hostRead 0 x.addr x.length) ?_ ⟨?_, ?_⟩
    · show Host.Outcome.next _ = _
      simp [hx, hretry, hruns, Nat.not_le.mpr ht]
    · obtain ⟨-, -, hnow⟩ := (s.advanceTo t0).modShard_host i fun y => { y with inFlight := true, retryAt := none }
      exact Nat.le_trans (State.advanceTo_le s t0) (Nat.le_of_eq hnow.symm)
    · obtain ⟨hports, hfns, -⟩ := (s.advanceTo t0).modShard_host i fun y => { y with inFlight := true, retryAt := none }
      have hhost : (s.advanceTo t0).ports.host = s.ports.host := by rw [State.advanceTo_ports]
      exact State.hostRead_host 0 _ _ ((congrArg Ports.host hports).trans hhost) (hfns.trans (State.advanceTo_fns _ _))
  · obtain ⟨hended, hshard, hfail, hnow⟩ := State.stageLoad_ended (s := s.advanceTo (x.firstRead.getD 0 + l.timeoutNs)) i 1 .shardMissing
      (by rw [State.advanceTo_cmds, hc]) hd
    refine .of_eq ?_ ⟨hended, hshard, hfail, Nat.le_trans (State.advanceTo_le _ _) (Nat.le_of_eq hnow.symm)⟩
    show Host.Outcome.next _ = _
    simp [hx, hretry, hruns]
  · obtain ⟨hloads, hfail⟩ := (s.writeResult c (leBytes 2 l.number)).activate_firn l
    refine .of_eq (t := (((s.writeResult c (leBytes 2 l.number)).activate l).modCmd l.cmd fun x => { x with result := padTo 64 (leBytes 2 l.number) }).commit l.cmd)
      ?_ ⟨State.commit_ended (c := { c with result := padTo 64 (leBytes 2 l.number) }) ?_ hd, ?_, ?_⟩
    · show Host.Outcome.next _ = _
      simp [hl, hbegun, hstate, hruns, hc, hdigest, hio]
    · rw [State.modCmd_cmds, tget?_tmod, State.activate_cmds, State.writeResult_cmds, hc]; rfl
    · rw [State.commit_firn, State.modCmd_firn, hloads, State.writeResult_firn, hl]; rfl
    · rw [State.commit_firn, State.modCmd_firn, hfail]
  · refine .of_eq ?_ (State.spoilLoad_ended (s := s.drawn) (s.draw % 65536) hc hd)
    show Host.Outcome.next _ = _
    simp [hl, hbegun, hstate, hruns, hc, hdigest]

end Sys2Proof.Machine
end

section
/-! PROOFS. Variant commands (08_adapters.md; 04_commands_and_graphs.md). -/

namespace Sys2Proof.Machine

open Sys2Proof

/-- A registration whose result is written makes the variant at the lowest free number. -/
theorem State.register_makes {s : State} {r key img : Nat} {c c1 : Cmd} {io : HostIo} {d : VarDesc} {a : Alloc} {clear : Blob} (hio : io.write = .ok)
    (hroom : tfree s.silt.variants 1 ≤ 65536)
    (hc : tget? (s.loadAdapter r c a { fn := c.fn, image := img, key := key, alloc := d.alloc, trainable := d.trainable, saveBytes := d.saveBytes, entries := d.entries }
      clear).cmds r = some c1) (hd : c1.decided = none) :
    (s.register r c io d a key img clear).ended r .success ∧
    (∃ v, tget? (s.register r c io d a key img clear).silt.variants (tfree s.silt.variants 1) = some v ∧ v.fn = c.fn ∧ v.image = img ∧ v.key = key ∧
      v.alloc = d.alloc ∧ v.sealed = false ∧ v.entries = d.entries) ∧
    (s.register r c io d a key img clear).cmdHas r fun y => y.result = padTo 64 (leBytes 4 (tfree s.silt.variants 1)) := by
  unfold State.register
  dsimp only
  rw [if_neg (Nat.not_lt.mpr hroom), if_pos hio]
  refine ⟨State.answer_ended hio hc (fun _ => rfl) hd, ?_, State.answer_result hio hc (fun _ => rfl) hd⟩
  rw [State.answer_ok _ _ _ _ _ _ hio]
  exact ⟨_, tget?_tset _ _ _, rfl, rfl, rfl, rfl, rfl, rfl⟩

/-- The end of a drop: the variant is gone, and the seals that waited on it end. -/
theorem State.runDrop_ended {s : State} {r id : Nat} {c : Cmd} {v : Variant} (h : tget? s.cmds r = some c) (hd : c.decided = none) (hseals : v.sealCmds = []) :
    (s.runDrop r id v).ended r .success ∧ (s.runDrop r id v).silt.variants = tdel s.silt.variants id := by
  unfold State.runDrop
  rw [hseals]
  exact ⟨State.commit_ended (c := c) h hd, rfl⟩

/-- A change of a variant that no command uses runs at once. -/
theorem State.changeOrWait_runs {s : State} (r : Nat) {id : Nat} (c : Cmd) (run : State → State) (h : s.variantUsed id (fun _ => true) = false) :
    s.changeOrWait r id c run = run s := by
  unfold State.changeOrWait
  rw [h]; rfl

/-- A change of a variant in use that may not wait is refused. -/
theorem State.changeOrWait_busy {s : State} (r : Nat) {id : Nat} {c : Cmd} (run : State → State) (h : s.variantUsed id (fun _ => true) = true)
    (hwait : bit (fld c.sqe 36 1) 0 = false) : s.changeOrWait r id c run = s.report r .busy := by
  unfold State.changeOrWait
  rw [h, hwait]; rfl

/-- A command that waits is one of the table, live, while Tarn runs. -/
theorem State.waitingCmd_parts {s : State} {r opc : Nat} {c : Cmd} (h : s.waitingCmd r opc = some c) :
    tget? s.cmds r = some c ∧ c.opcode = opc ∧ c.decided = none := by
  unfold State.waitingCmd at h
  split at h
  · rename_i x hx
    split at h
    · rename_i hall
      cases h
      simp only [Bool.and_eq_true, beq_iff_eq, Option.isNone_iff_eq_none] at hall
      exact ⟨hx, hall.1.1.1.1.2, hall.1.1.1.2⟩
    · cases h
  · cases h

/-- VAR_REGISTER of an adapter wrapped in the host. -/
theorem varRegister_host {s : State} {r : Nat} {c c1 : Cmd} {io : HostIo} {d : VarDesc} {a : Alloc} {x : Ctx} {clear : Blob} {u : State} (ecc : Ecc)
    (h : s.takes r 0x40 c) (hcheck : s.registerCheck c = none) (haddr : admDataAddr c.sqe ≠ 0) (hread : io.read = .ok) (hwrite : io.write = .ok)
    (hdesc : varDesc (padTo (admDataLen c.sqe) io.data) (admDataLen c.sqe) (s.layersOf (fld c.sqe 36 4)) false = some d) (hhost : d.inHost = true)
    (hstorage : s.storageCheck c.fn d.alloc (fld c.sqe 34 2) (layoutOf d.entries d.trainable d.saveBytes).2.2 = none)
    (ha : tget? s.allocs d.alloc = some a) (hx : s.ctxOf c.fn (fld c.sqe 32 2) = some x) (hroom : tfree s.silt.variants 1 ≤ 65536)
    (hunwrap : s.unwrap (fld c.sqe 34 2) (fld c.sqe 36 4) (adapterBytes d.entries) (padTo d.len (io.data.drop (admDataLen c.sqe))) = .ok clear)
    (hu : u = ((s.begun r).hostRead c.fn (admDataAddr c.sqe) (admDataLen c.sqe)).hostRead c.fn d.addr d.len)
    (hc : tget? (u.loadAdapter r c a
        { fn := c.fn, image := fld c.sqe 36 4, key := fld c.sqe 34 2, alloc := d.alloc, trainable := d.trainable, saveBytes := d.saveBytes, entries := d.entries }
        clear).cmds r = some c1) (hd : c1.decided = none) :
    Answers (exec (.varRegister r io ecc) s) fun t => t.ended r .success ∧
      (∃ v, tget? t.silt.variants (tfree s.silt.variants 1) = some v ∧ v.fn = c.fn ∧ v.image = fld c.sqe 36 4 ∧ v.key = fld c.sqe 34 2 ∧
        v.alloc = d.alloc ∧ v.sealed = false ∧ v.entries = d.entries) ∧
      t.cmdHas r fun y => y.result = padTo 64 (leBytes 4 (tfree s.silt.variants 1)) := by
  have hlack : s.registerLack r c io = [] := by
    unfold State.registerLack
    simp [hx, hdesc, hhost]
  have hunwrapped : u.unwrap (fld c.sqe 34 2) (fld c.sqe 36 4) (adapterBytes d.entries) (padTo d.len (io.data.drop (admDataLen c.sqe))) = .ok clear := by
    rw [hu]; exact hunwrap
  have hvariants : u.silt = s.silt := by rw [hu]; rfl
  refine .of_eq (t := u.register r c io d a (fld c.sqe 34 2) (fld c.sqe 36 4) clear) ?_ ?_
  · have hbegun : (s.begun r).registerCheck c = none := hcheck
    generalize hv : (s.begun r).hostRead c.fn (admDataAddr c.sqe) (admDataLen c.sqe) = v at hu
    have hdescV : varDesc (padTo (admDataLen c.sqe) io.data) (admDataLen c.sqe) (v.layersOf (fld c.sqe 36 4)) false = some d := by rw [← hv]; exact hdesc
    have hstorageV : v.storageCheck c.fn d.alloc (fld c.sqe 34 2) (layoutOf d.entries d.trainable d.saveBytes).2.2 = none := by rw [← hv]; exact hstorage
    have haV : tget? v.allocs d.alloc = some a := by rw [← hv]; exact ha
    have hxV : v.ctxOf c.fn (fld c.sqe 32 2) = some x := by rw [← hv]; exact hx
    show Host.Outcome.next _ = _
    simp only [h.1, hlack, List.isEmpty_nil, Bool.not_true, Bool.and_false, Bool.false_eq_true, if_false, State.runAdmin_takes h, hbegun,
      State.withData_ok _ _ _ _ _ _ hread haddr, hv, hdescV, hstorageV, haV, hxV, hhost, if_true, ← hu]
    unfold State.unwrapAndRegister
    simp only [hunwrapped]
  · rw [← hvariants] at hroom ⊢
    exact State.register_makes hwrite hroom hc hd

/-- Settles O24, command by command. -/
theorem variantCommands : Obligations.VariantCommands := by
  intro s r c io
  refine ⟨fun d a x clear ecc u c1 h hcheck haddr hread hwrite hdesc hhost hstorage ha hx hroom hunwrap hu hc hd =>
      varRegister_host ecc h hcheck haddr hread hwrite hdesc hhost hstorage ha hx hroom hunwrap hu hc hd,
    fun v h hv htorn hsealed => takes_answer h ?_, fun v h hv htorn hsealed => takes_answer h ?_,
    fun v h hv htorn hseals hpool haddr hread hlen hzero htoken => takes_answer h ?_, fun v h hv hsealed => takes_answer h ?_,
    fun v d h hv hsealed hchanger htorn hused haddr hread hdesc hok hlen => ?_, fun v h hv hchanger hseals hused => takes_answer h ?_,
    fun v h hv hchanger hused hwait => takes_answer h ?_, fun v hwaiting hv hchanger hseals hused => ?_,
    fun id v hv hseals hchanger hruns hused hc hd => ?_⟩
  · have hmine : (s.begun r).variantOfFn c.fn (fld c.sqe 32 4) = some v := hv
    simp only [hmine, htorn, hsealed, Bool.false_eq_true, if_false, if_true]
    exact ⟨State.commit_ended (State.begun_cmd h), rfl⟩
  · have hmine : (s.begun r).variantOfFn c.fn (fld c.sqe 32 4) = some v := hv
    simp only [hmine]
    rw [if_neg (by simp [htorn]), if_neg (by simp [hsealed])]
    refine ⟨?_, State.modCmd_cmdHas (State.begun_cmd h) rfl⟩
    show tget? (tmod s.silt.variants (fld c.sqe 32 4) _) _ = _
    rw [tget?_tmod, vof_get hv]; rfl
  · have hmine : (s.begun r).variantOfFn c.fn (fld c.sqe 32 4) = some v := hv
    have hunpooled : (tany (s.begun r).pools fun _ p => p.variant == fld c.sqe 32 4) = false := hpool
    generalize hu : (s.begun r).hostRead c.fn (admDataAddr c.sqe) (admDataLen c.sqe) = u
    have htokenU : u.tokenOk (fld c.sqe 32 4) v (padTo (admDataLen c.sqe) io.data) = true := by rw [← hu]; exact htoken
    have hcmd : tget? u.cmds r = some { c with stage := .running, start := some s.now } := by rw [← hu]; exact State.begun_cmd h
    have hform : ¬ (admDataLen c.sqe < 48 ∨ fld (padTo (admDataLen c.sqe) io.data) 4 4 ≠ 0) := by omega
    simp only [hmine, htorn, hseals, hunpooled, State.withData_ok _ _ _ _ _ _ hread haddr, hu, if_neg hform, htokenU, List.isEmpty_nil, Bool.not_true,
      Bool.or_false, Bool.false_eq_true, if_false]
    have hdecided := State.takes_decided h
    exact ⟨State.commit_ended (c := { c with stage := .running, start := some s.now }) hcmd hdecided, tget?_tset _ _ _⟩
  · have hmine : (s.begun r).variantOfFn c.fn (fld c.sqe 32 4) = some v := hv
    simp only [hmine, hsealed, if_true]
    exact ⟨State.report_ended .variantSealed (State.begun_cmd h), rfl⟩
  · have hmine : (s.begun r).variantOfFn c.fn (fld c.sqe 32 4) = some v := hv
    generalize hu : (s.begun r).hostRead c.fn (admDataAddr c.sqe) (admDataLen c.sqe) = u
    have hdescU : varDesc (padTo (admDataLen c.sqe) io.data) (admDataLen c.sqe) (u.layersOf v.image) true = some d := by rw [← hu]; exact hdesc
    have hokU : u.updateOk v d = true := by rw [← hu]; exact hok
    refine ⟨u, by rw [← hu]; rfl, by rw [← hu]; rfl, by rw [← hu]; rfl, exec_of_takes h rfl ?_⟩
    simp only [hmine, hsealed, hchanger, State.changeOrWait_runs r c _ hused, Option.isSome_none, Bool.false_eq_true, if_false]
    unfold State.runUpdate
    simp only [State.withData_ok _ _ _ _ _ _ hread haddr, hu, hdescU, hokU, hlen, htorn, Bool.not_true, Bool.false_eq_true, if_false, if_true]
  · have hmine : (s.begun r).variantOfFn c.fn (fld c.sqe 32 4) = some v := hv
    simp only [hmine, hchanger, State.changeOrWait_runs r c _ hused, Option.isSome_none, Bool.false_eq_true, if_false]
    exact State.runDrop_ended (State.begun_cmd h) (State.takes_decided h :) hseals
  · have hmine : (s.begun r).variantOfFn c.fn (fld c.sqe 32 4) = some v := hv
    simp only [hmine, hchanger, State.changeOrWait_busy r _ hused hwait, Option.isSome_none, Bool.false_eq_true, if_false]
    exact ⟨State.report_ended .busy (State.begun_cmd h), rfl⟩
  · obtain ⟨hc, hopcode, hd⟩ := State.waitingCmd_parts hwaiting
    rw [← hopcode] at hwaiting
    refine .of_eq (t := (s.unchange (fld c.sqe 32 4)).runDrop r (fld c.sqe 32 4) v) ?_ (State.runDrop_ended (s := s.unchange (fld c.sqe 32 4)) hc hd hseals)
    have hready : ¬ (v.changer ≠ some r ∨ s.variantUsed (fld c.sqe 32 4) (fun _ => true) = true) := by simp [hchanger, hused]
    have hdrop : ¬ c.opcode = 0x43 := by rw [hopcode]; decide
    show Host.Outcome.next _ = _
    simp only [hc, hwaiting, hv, if_neg hready, if_neg hdrop]
  · refine .of_eq (t := State.commit { s with silt := { s.silt with variants := tset s.silt.variants id { v with
      sealed := true, digest := s.variantDigest v, digestRev := v.rev, sealCmds := [] } } } r) ?_
      ⟨State.commit_ended (c := c) hc hd, tget?_tset _ _ _⟩
    show Host.Outcome.next _ = _
    simp only [hv, hseals, hchanger, hruns, hused, List.isEmpty_cons, Option.isSome_none, Bool.not_true, Bool.or_false, Bool.false_eq_true, if_false,
      List.foldl_cons, List.foldl_nil]

/-- Settles O25: the pool makes the variant busy before its token is read. -/
theorem unsealBusyUnderPool : Obligations.UnsealBusyUnderPool := by
  intro s r c io v h hv htorn ⟨k, p, hp, hvariant⟩
  have hmine : (s.begun r).variantOfFn c.fn (fld c.sqe 32 4) = some v := hv
  have hpooled : (tany (s.begun r).pools fun _ p => p.variant == fld c.sqe 32 4) = true := tany_of hp (beq_iff_eq.mpr hvariant)
  refine takes_answer h ?_
  simp only [hmine, htorn, hpooled, Bool.or_true, Bool.false_eq_true, if_false, if_true]
  exact ⟨State.report_ended .busy (State.begun_cmd h), rfl, rfl, rfl⟩

end Sys2Proof.Machine
end

section
/-! PROOFS. Stored graphs (04_commands_and_graphs.md, Stored graphs). -/

namespace Sys2Proof.Machine

open Sys2Proof

/-- What an effect that an answer has leaves of the graphs. -/
theorem State.answer_effectGraphs {s : State} {r : Nat} {c : Cmd} {io : HostIo} {b : Blob} {eff : State → State} (hio : io.write = .ok) :
    (s.answer r c io b eff).graphs = (eff (s.writeResult c b)).graphs := by
  rw [State.answer_ok _ _ _ _ _ _ hio]; rfl

/-- GRAPH_STORE of an image whose form, capability, nodes and size pass. -/
theorem graphStore_adds {s : State} {r ix : Nat} {c : Cmd} {io : HostIo} {b : Blob} {nodes : List Node} {g : Graph} (h : s.takes r 0x48 c)
    (hkind : fld c.sqe 32 1 ≤ 1) (haddr : admDataAddr c.sqe ≠ 0) (hread : io.read = .ok) (hwrite : io.write = .ok)
    (hb : b = padTo (admDataLen c.sqe) io.data) (hhead : imageHeadOk b (fld c.sqe 32 1) = true) (hcap : s.capPresent (fld b 12 4) = true)
    (hnodes : s.imageNodes b = some nodes)
    (hix : ix = freeIndex ((s.graphs.filter (·.fn == c.fn)).map (·.index)) ((s.graphs.filter (·.fn == c.fn)).map (·.index)).length 1)
    (hroom : ix ≤ 16383) (hg : g = newGraph c.fn (fld c.sqe 32 1) ix (fld b 12 4) nodes) (hsize : storeUsed (g :: s.graphs) ≤ s.storeBytes) :
    Answers (exec (.graphStore r io) s) fun t => t.ended r .success ∧ t.graphs = s.graphs ++ [g] ∧
      t.cmdHas r fun x => x.result = padTo 64 (leBytes 4 g.handle ++ leBytes 2 1) := by
  generalize hu : (s.begun r).hostRead c.fn (admDataAddr c.sqe) (admDataLen c.sqe) = u
  have hcmd : tget? u.cmds r = some { c with stage := .running, start := some s.now } := by rw [← hu]; exact State.begun_cmd h
  have hgraphs : u.graphs = s.graphs := by rw [← hu]; rfl
  have hcapU : u.capPresent (fld b 12 4) = true := by rw [← hu]; exact hcap
  have hnodesU : u.imageNodes b = some nodes := by rw [← hu]; exact hnodes
  have hsizeU : storeUsed (g :: s.graphs) ≤ u.storeBytes := by rw [← hu]; exact hsize
  have hdecided := State.takes_decided h
  refine .of_eq (t := u.answer r c io (leBytes 4 g.handle ++ leBytes 2 1) fun w => { w with graphs := w.graphs ++ [g] }) (exec_of_takes h rfl ?_)
    ⟨State.answer_ended hwrite hcmd (fun _ => rfl) hdecided, ?_, State.answer_result hwrite hcmd (fun _ => rfl) hdecided⟩
  · simp only [if_neg (Nat.not_lt.mpr hkind), State.withData_ok _ _ _ _ _ _ hread haddr, hu, ← hb, hhead, hcapU, hnodesU, hgraphs, ← hix, ← hg,
      if_neg (Nat.not_lt.mpr hroom), if_neg (Nat.not_lt.mpr hsizeU), Bool.not_true, Bool.false_eq_true, if_false]
  · rw [State.answer_effectGraphs hwrite, State.writeResult_graphs, hgraphs]

/-- GRAPH_PATCH of the current version, of an image that fits it, gives the graph a version. -/
theorem graphPatch_addsVersion {s : State} {r : Nat} {c : Cmd} {io : HostIo} {b : Blob} {g : Graph} {p nodes : List Node} (h : s.takes r 0x49 c)
    (hg : s.graphOf c.fn (fld c.sqe 32 4) = some g) (hversion : fld c.sqe 36 2 = g.current) (hlive : g.live < 4) (haddr : admDataAddr c.sqe ≠ 0)
    (hread : io.read = .ok) (hwrite : io.write = .ok) (hb : b = padTo (admDataLen c.sqe) io.data) (hhead : imageHeadOk b 2 = true)
    (hcap : fld b 12 4 = g.cap) (hp : s.imageNodes b = some p) (hnodes : patchNodes g.nodes p = some nodes)
    (hsize : storeUsed (s.graphs.map fun x => if x.fn = g.fn ∧ x.index = g.index then
        { g with versions := tset g.versions (freshVersion (tkeys g.versions) g.versions.length g.current) nodes } else x) ≤ s.storeBytes) :
    ∃ u : State, u.graphs = s.graphs ∧ Answers (exec (.graphPatch r io) s) fun t => t.ended r .success ∧
      t.graphs = (u.addVersion g (freshVersion (tkeys g.versions) g.versions.length g.current) nodes).graphs := by
  generalize hu : (s.begun r).hostRead c.fn (admDataAddr c.sqe) (admDataLen c.sqe) = u
  generalize hv : freshVersion (tkeys g.versions) g.versions.length g.current = v at hsize
  have hcmd : tget? u.cmds r = some { c with stage := .running, start := some s.now } := by rw [← hu]; exact State.begun_cmd h
  have hgraphs : u.graphs = s.graphs := by rw [← hu]; rfl
  have hbegun : (s.begun r).graphOf c.fn (fld c.sqe 32 4) = some g := hg
  have hpU : (u.imageNodes b).bind (patchNodes g.nodes) = some nodes := by
    have himage : u.imageNodes b = some p := by rw [← hu]; exact hp
    rw [himage]; exact hnodes
  have hfits : ¬ u.storeBytes < storeUsed (u.graphs.map fun x => if x.fn = g.fn ∧ x.index = g.index then { g with versions := tset g.versions v nodes } else x) := by
    rw [hgraphs, ← hu]; exact Nat.not_lt.mpr hsize
  have hdecided := State.takes_decided h
  refine ⟨u.writeResult c (leBytes 2 v), by rw [State.writeResult_graphs, hgraphs],
    .of_eq (t := u.answer r c io (leBytes 2 v) fun w => w.addVersion g v nodes) (exec_of_takes h rfl ?_)
      ⟨State.answer_ended hwrite hcmd (fun _ => State.addVersion_cmds _ _ _ _) hdecided, State.answer_effectGraphs hwrite⟩⟩
  simp only [hbegun, hversion, ne_eq, not_true_eq_false, if_neg (Nat.not_le.mpr hlive), State.withData_ok _ _ _ _ _ _ hread haddr, hu, ← hb, hhead, hcap,
    hpU, hv, if_neg hfits, Bool.not_true, bne_self_eq_false, Bool.or_self, Bool.false_eq_true, if_false]

/-- Settles O26, command by command. -/
theorem graphCommands : Obligations.GraphCommands := by
  intro s r c io
  refine ⟨fun b nodes ix g h hkind haddr hread hwrite hb hhead hcap hnodes hix hroom hg hsize =>
      graphStore_adds h hkind haddr hread hwrite hb hhead hcap hnodes hix hroom hg hsize,
    fun b g p nodes h hg hversion hlive haddr hread hwrite hb hhead hcap hp hnodes hsize =>
      graphPatch_addsVersion h hg hversion hlive haddr hread hwrite hb hhead hcap hp hnodes hsize,
    fun g h hg hversion => takes_answer h ?_, fun g h hg => ?_, fun h hnone => takes_answer h ?_⟩
  · have hbegun : (s.begun r).graphOf c.fn (fld c.sqe 32 4) = some g := hg
    simp only [hbegun, if_pos hversion]
    exact ⟨State.report_ended .versionConflict (State.begun_cmd h), rfl⟩
  · have hbegun : (s.begun r).graphOf c.fn (fld c.sqe 32 4) = some g := hg
    refine ⟨{ s.begun r with graphs := s.graphs.map fun x => if x.fn = g.fn ∧ x.index = g.index then { x with retired := true } else x }, rfl,
      takes_answer h ?_⟩
    simp only [hbegun]
    exact ⟨State.commit_ended (State.begun_cmd h), rfl⟩
  · have hbegun : (s.begun r).graphOf c.fn (fld c.sqe 32 4) = none := hnone
    simp only [hbegun]
    exact ⟨State.report_ended .invalidHandle (State.begun_cmd h), rfl⟩

end Sys2Proof.Machine
end

section
/-! PROOFS. Receipts, checkpoints and the persist region (12_receipts.md). -/

namespace Sys2Proof.Machine

open Sys2Proof

/-- RCPT_READ answers how many receipts it gives, and where the chain stands; the ledger stays as it is. -/
theorem rcptRead_answers {s : State} {r f : Nat} {c : Cmd} {io : HostIo} {l : List (Nat × Blob)} (h : s.takes r 0x50 c)
    (hf : namedFn c (fld c.sqe 44 2) = some f) (haddr : admDataAddr c.sqe ≠ 0) (h1 : 1 ≤ fld c.sqe 40 4) (hmax : fld c.sqe 40 4 ≤ 65536)
    (hlen : fld c.sqe 40 4 * 256 ≤ admDataLen c.sqe) (hio : io.write = .ok)
    (hl : l = ((s.heldReceipts f).filter fun x => decide (fld c.sqe 32 8 ≤ x.1)).take (fld c.sqe 40 4)) :
    Answers (exec (.rcptRead r io) s) fun t => t.ended r .success ∧ t.ledg = s.ledg ∧
      t.cmdHas r fun x => x.result = padTo 64 (leBytes 4 l.length ++ zeros 4 ++ leBytes 8 (s.head f).seq) := by
  have hform : ¬ (admDataAddr c.sqe = 0 ∨ fld c.sqe 40 4 = 0 ∨ 65536 < fld c.sqe 40 4 ∨ admDataLen c.sqe < fld c.sqe 40 4 * 256) := by omega
  have hlist : (((s.begun r).heldReceipts f).filter fun x => decide (fld c.sqe 32 8 ≤ x.1)).take (fld c.sqe 40 4) = l := hl.symm
  have hhead : ((s.begun r).head f).seq = (s.head f).seq := rfl
  generalize hu : (if l.isEmpty then s.begun r else (s.begun r).hostWrite c.fn (admDataAddr c.sqe) (l.flatMap (·.2))) = u
  have hkept : tget? u.cmds r = some { c with stage := .running, start := some s.now } ∧ u.ledg = s.ledg := by
    rw [← hu]
    split
    · exact ⟨State.begun_cmd h, rfl⟩
    · rw [State.hostWrite_cmds, State.hostWrite_ledg]
      exact ⟨State.begun_cmd h, rfl⟩
  obtain ⟨hcmd, hledg⟩ := hkept
  have hdecided := State.takes_decided h
  refine .of_eq (t := u.answer r c io (leBytes 4 l.length ++ zeros 4 ++ leBytes 8 (s.head f).seq) id) (exec_of_takes h rfl ?_)
    ⟨State.answer_ended hio hcmd (fun _ => rfl) hdecided, ?_, State.answer_result hio hcmd (fun _ => rfl) hdecided⟩
  · simp only [hf, if_neg hform, hlist, hu, hhead]
  · rw [State.answer_ok _ _ _ _ _ _ hio, State.commit_ledg, State.modCmd_ledg]
    exact (State.writeResult_ledg _ _ _).trans hledg

/-- A checkpoint that is stored is the last of its function, and leaves the queue as it is. -/
theorem State.storeCkpt_ledg (s : State) (k : Ckpt) : (s.storeCkpt k).ledg.queue = s.ledg.queue ∧ ((s.storeCkpt k).head k.fn).ckpt = k.seq := by
  have hledg : (s.storeCkpt k).ledg.queue = s.ledg.queue ∧
      (s.storeCkpt k).ledg.heads = tupd s.ledg.heads {} k.fn fun h => { h with ckpt := k.seq } := by
    unfold State.storeCkpt
    dsimp only
    split <;> exact ⟨rfl, rfl⟩
  refine ⟨hledg.1, ?_⟩
  unfold State.head
  rw [hledg.2, tget_tupd]

/-- CHECKPOINT_SIGNED of a checkpoint that a command asked for: it is written out, stored, and the command ends. -/
theorem checkpointSigned_ends {s : State} {r : Nat} {io : HostIo} {k : Ckpt} {rest : List Ckpt} {m : Cmd} (hqueue : s.ledg.queue = k :: rest)
    (hruns : s.tarnRuns = true) (hcut : s.pwr.cut = false) (hk : k.cmd = some r) (hm : tget? s.cmds r = some m) (hd : m.decided = none) (hio : io.write = .ok) :
    Answers (exec (.checkpointSigned io) s) fun t => t.ended r .success ∧ t.ledg.queue = rest ∧ (t.head k.fn).ckpt = k.seq ∧
      t.cmdHas r fun x => x.result = padTo 64 (leBytes 8 k.seq) := by
  generalize hz : ({ k with prev := (s.head k.fn).ckpt } : Ckpt) = z
  have hfn : z.fn = k.fn := by rw [← hz]
  have hseq : z.seq = k.seq := by rw [← hz]
  generalize hu : (({ s with ledg := { s.ledg with queue := rest } } : State).pulse 25) = u
  have hcmd : tget? u.cmds r = some m := by rw [← hu, State.pulse_cmds, hm]
  have hrest : u.ledg.queue = rest := by rw [← hu, State.pulse_ledg]
  generalize hv : u.hostWrite m.fn (admDataAddr m.sqe) (u.ckptBytes z) = v
  have hcmdV : tget? v.cmds r = some m := by rw [← hv, State.hostWrite_cmds, hcmd]
  obtain ⟨hqueueV, hckpt⟩ := (v.writeResult m (leBytes 8 z.seq)).storeCkpt_ledg z
  have hledg : (v.answer r m io (leBytes 8 z.seq) fun u => u.storeCkpt z).ledg = ((v.writeResult m (leBytes 8 z.seq)).storeCkpt z).ledg := by
    rw [State.answer_ok _ _ _ _ _ _ hio]; rfl
  refine .of_eq (t := v.answer r m io (leBytes 8 z.seq) fun u => u.storeCkpt z) ?_
    ⟨State.answer_ended hio hcmdV (fun _ => State.storeCkpt_cmds _ _) hd, ?_, ?_, ?_⟩
  · have hbound : (k.cmd.bind fun r => (tget? s.cmds r).map fun m => (r, m)) = some (r, m) := by rw [hk]; simp [hm]
    show Host.Outcome.next _ = _
    simp only [hqueue, hruns, hcut, hbound, hz, hu, hv, hseq, Bool.not_true, Bool.or_self, Bool.false_eq_true, if_false]
  · rw [hledg, hqueueV, State.writeResult_ledg, ← hv, State.hostWrite_ledg, hrest]
  · rw [← hfn, head_ledg hledg, hckpt, hseq]
  · rw [← hseq]
    exact State.answer_result hio hcmdV (fun _ => State.storeCkpt_cmds _ _) hd

/-- A persist write leaves the receipts that wait, and moves the tail of the ring one place on. -/
theorem State.persistOne_ledg (s : State) (x : Receipt) : (s.persistOne x).ledg.buffer = s.ledg.buffer ∧
    (s.persistOne x).ledg.persist.tail = (s.ledg.persist.tail + 1) % max 1 s.ledg.capacity := by
  unfold State.persistOne State.putHeader State.persistPut
  exact ⟨rfl, rfl⟩

/-- Settles O27, command by command. -/
theorem ledgerCommands : Obligations.LedgerCommands := by
  intro s r c io
  refine ⟨fun f l h hf haddr h1 hmax hlen hio hl => rcptRead_answers h hf haddr h1 hmax hlen hio hl, fun f h hf haddr hlen hnone => takes_answer h ?_,
    fun f h hf haddr hlen hany => takes_answer h ?_, fun k rest m hqueue hruns hcut hk hm hd hio => checkpointSigned_ends hqueue hruns hcut hk hm hd hio,
    fun x rest hbuffer hstages hup w hx => ?_⟩
  · have hform : ¬ (admDataAddr c.sqe = 0 ∨ admDataLen c.sqe < 256) := by omega
    have hnew : ((s.begun r).ledg.queue.any fun x => x.fn == f && bit x.flags 0) = false := hnone
    simp only [hf, if_neg hform, hnew, Bool.false_eq_true, if_false]
    refine ⟨rfl, State.modCmd_cmdHas (c := { c with stage := .running, start := some s.now }) ?_ rfl⟩
    show tget? ((s.begun r).pulse 44).cmds r = _
    rw [State.pulse_cmds]
    exact State.begun_cmd h
  · have hform : ¬ (admDataAddr c.sqe = 0 ∨ admDataLen c.sqe < 256) := by omega
    have hqueued : ((s.begun r).ledg.queue.any fun x => x.fn == f && bit x.flags 0) = true := hany
    simp only [hf, if_neg hform, hqueued, if_true]
    exact ⟨State.report_ended .busy (State.begun_cmd h), rfl⟩
  · obtain ⟨hbufferU, htail⟩ := ({ s with ledg := { s.ledg with buffer := rest } } : State).persistOne_ledg x
    refine .of_eq (t := (({ s with ledg := { s.ledg with buffer := rest } } : State).persistOne x).progress 0x0E00) ?_
      ⟨?_, ?_, ?_⟩
    · show Host.Outcome.next _ = _
      simp only [hbuffer, hstages, hup, Bool.not_true, Bool.or_self, Bool.false_eq_true, if_false]
    · rw [State.progress_ledg]; exact hbufferU
    · rw [State.progress_mem]
      exact State.persistOne_entry (s := { s with ledg := { s.ledg with buffer := rest } }) w hx
    · rw [State.progress_ledg]; exact htail

end Sys2Proof.Machine
end

section
/-! PROOFS. Equal-treatment pools (04_commands_and_graphs.md, Equal-treatment pools): the next state of each command, and what follows from it. -/

namespace Sys2Proof.Machine

open Sys2Proof

/-- The pool that POOL_CREATE makes of a variant. -/
def poolMade (c : Cmd) (img ver : Nat) : Pool :=
  { fn := c.fn, variant := fld c.sqe 32 4, image := img, imageVer := ver, arith := fld c.sqe 36 4, quantumUs := fld c.sqe 40 4, cls := fld c.sqe 44 1 }

/-- POOL_CREATE of a sealed variant whose image is present makes the pool at the lowest free number. -/
theorem poolCreate_next {s : State} {r : Nat} {c : Cmd} {io : HostIo} {v : Variant} (h : s.takes r 0x58 c) (hfields : arithFieldsOk (fld c.sqe 36 4) = true)
    (hformats : arithFormatsOk (fld c.sqe 36 4) = true) (hcls : fld c.sqe 44 1 ≤ 2) (hv : s.variantOfFn c.fn (fld c.sqe 32 4) = some v)
    (htorn : v.torn = false) (hsealed : v.sealed = true) (hpresent : (s.image v.image).current ≠ 0) (hroom : tfree s.pools 1 ≤ 1023) :
    exec (.poolCreate r io) s = .next ((s.begun r).answer r c io (leBytes 2 (tfree s.pools 1) ++ leBytes 2 (s.image v.image).current) fun u =>
      { u with pools := tset u.pools (tfree s.pools 1) (poolMade c v.image (s.image v.image).current) }) := by
  have hform : (!arithFieldsOk (fld c.sqe 36 4) || !arithFormatsOk (fld c.sqe 36 4) || decide (2 < fld c.sqe 44 1)) = false := by
    simp [hfields, hformats, hcls]
  have hmine : (s.begun r).variantOfFn c.fn (fld c.sqe 32 4) = some v := hv
  have himage : ¬ ((s.begun r).image v.image).current = 0 := hpresent
  have hfree : ¬ 1023 < tfree (s.begun r).pools 1 := Nat.not_lt.mpr hroom
  refine exec_of_takes h rfl ?_
  simp only [hform, hmine, htorn, if_neg himage, hsealed, if_neg hfree, Bool.not_true, Bool.false_eq_true, if_false]
  rfl

/-- POOL_JOIN of a context of the same image in no pool puts it in the pool. -/
theorem poolJoin_next {s : State} {r : Nat} {c : Cmd} {y : Pool} {z : Ctx} (io : HostIo) (h : s.takes r 0x59 c) (hy : s.poolOf c.fn (fld c.sqe 32 2) = some y)
    (hz : s.ctxOf c.fn (fld c.sqe 34 2) = some z) (himage : z.image = y.image) (hclash : (s.begun r).formatClash (fld c.sqe 32 2) z = false)
    (hnone : z.pool = 0) (hidle : (s.begun r).ctxBusy (fld c.sqe 34 2) = false) :
    exec (.poolJoin r io) s = .next (((s.begun r).modCtx (fld c.sqe 34 2) fun k => { k with pool := fld c.sqe 32 2 }).commit r) := by
  have hpool : (s.begun r).poolOf c.fn (fld c.sqe 32 2) = some y := hy
  have hctx : (s.begun r).ctxOf c.fn (fld c.sqe 34 2) = some z := hz
  have hfits : ¬ (z.image ≠ y.image ∨ (s.begun r).formatClash (fld c.sqe 32 2) z = true) := by simp [himage, hclash]
  refine exec_of_takes h rfl ?_
  simp only [hpool, hctx, if_neg hfits, hidle, hnone, bne_self_eq_false, Bool.or_self, Bool.false_eq_true, if_false]

/-- POOL_LEAVE of a member takes it out of the pool. -/
theorem poolLeave_next {s : State} {r : Nat} {c : Cmd} {y : Pool} {z : Ctx} (io : HostIo) (h : s.takes r 0x5A c) (hy : s.poolOf c.fn (fld c.sqe 32 2) = some y)
    (hz : s.ctxOf c.fn (fld c.sqe 34 2) = some z) (hmember : z.pool = fld c.sqe 32 2) (hidle : (s.begun r).ctxBusy (fld c.sqe 34 2) = false) :
    exec (.poolLeave r io) s = .next (((s.begun r).modCtx (fld c.sqe 34 2) fun k => { k with pool := 0 }).commit r) := by
  have hpool : (s.begun r).poolOf c.fn (fld c.sqe 32 2) = some y := hy
  have hctx : (s.begun r).ctxOf c.fn (fld c.sqe 34 2) = some z := hz
  refine exec_of_takes h rfl ?_
  simp only [hpool, hctx, hmember, ne_eq, not_true_eq_false, hidle, Bool.false_eq_true, if_false]

/-- POOL_DESTROY of a pool with no member removes it. -/
theorem poolDestroy_next {s : State} {r : Nat} {c : Cmd} {y : Pool} (io : HostIo) (h : s.takes r 0x5B c) (hy : s.poolOf c.fn (fld c.sqe 32 2) = some y)
    (hempty : (tany s.ctxs fun _ z => z.pool == fld c.sqe 32 2) = false) :
    exec (.poolDestroy r io) s = .next ((({ s.begun r with pools := tdel s.pools (fld c.sqe 32 2) } : State).pruneImages).commit r) := by
  have hpool : (s.begun r).poolOf c.fn (fld c.sqe 32 2) = some y := hy
  have hleft : (tany (s.begun r).ctxs fun _ z => z.pool == fld c.sqe 32 2) = false := hempty
  refine exec_of_takes h rfl ?_
  simp only [hpool, hleft, Bool.false_eq_true, if_false]
  rfl

/-- Settles O29: each clause is the next state of its command. -/
theorem poolCommandsComplete : Obligations.PoolCommandsComplete := by
  intro s r c io
  refine ⟨fun v id ver b h hfields hformats hcls hv htorn hsealed hver hpresent hid hroom hio hb => ?_,
    fun y z h hy hz himage hclash hnone hidle => poolJoin_next io h hy hz himage hclash hnone hidle,
    fun y z h hy hz hmember hidle => poolLeave_next io h hy hz hmember hidle, fun y h hy hempty => poolDestroy_next io h hy hempty,
    fun v k u hs hn hv hk hu => ?_⟩
  · subst hver hid hb
    rw [poolCreate_next h hfields hformats hcls hv htorn hsealed hpresent hroom, State.answer_ok _ _ _ _ _ _ hio, State.writeResult_pools]
    rfl
  · exact (exec_snowHostAdd v hs hn).trans (congrArg Host.Outcome.next (State.hostAddWrite_taken hv hk hu))

/-- Settles O28: what succeeds from the next state of its command, and what fails from the check that fails. -/
theorem poolCommands : Obligations.PoolCommands := by
  intro s r c io
  refine ⟨fun v p h hfields hformats hcls hv htorn hsealed hpresent hroom hio hp => ?_, fun v h hfields hformats hcls hv htorn hsealed hpresent => takes_answer h ?_,
    fun y z h hy hz => ⟨fun hclash => takes_answer h ?_, fun himage hclash hnone hidle => ?_⟩,
    fun y z h hy hz => ⟨fun hmember => takes_answer h ?_, fun hmember hidle => ?_⟩,
    fun y h hy => ⟨fun hmembers => takes_answer h ?_, fun hempty => ?_⟩⟩
  · subst hp
    have hdecided := State.takes_decided h
    refine .of_eq (poolCreate_next h hfields hformats hcls hv htorn hsealed hpresent hroom)
      ⟨State.answer_ended (c0 := { c with stage := .running, start := some s.now }) hio (State.begun_cmd h) (fun _ => rfl) hdecided, ?_,
        State.answer_result (c0 := { c with stage := .running, start := some s.now }) hio (State.begun_cmd h) (fun _ => rfl) hdecided⟩
    rw [State.answer_ok _ _ _ _ _ _ hio, State.commit_pools, State.modCmd_pools, State.writeResult_pools]
    rfl
  · have hform : (!arithFieldsOk (fld c.sqe 36 4) || !arithFormatsOk (fld c.sqe 36 4) || decide (2 < fld c.sqe 44 1)) = false := by
      simp [hfields, hformats, hcls]
    have hmine : (s.begun r).variantOfFn c.fn (fld c.sqe 32 4) = some v := hv
    have himage : ¬ ((s.begun r).image v.image).current = 0 := hpresent
    simp only [hform, hmine, htorn, if_neg himage, hsealed, Bool.not_false, Bool.false_eq_true, if_false, if_true]
    exact ⟨State.report_ended .variantNotSealed (State.begun_cmd h), rfl⟩
  · have hpool : (s.begun r).poolOf c.fn (fld c.sqe 32 2) = some y := hy
    have hctx : (s.begun r).ctxOf c.fn (fld c.sqe 34 2) = some z := hz
    simp only [hpool, hctx, if_pos hclash]
    exact ⟨State.report_ended .poolConfigMismatch (State.begun_cmd h), rfl⟩
  · exact .of_eq (poolJoin_next io h hy hz himage hclash hnone hidle) ⟨State.commit_ended (State.begun_cmd h), State.modCtx_get _ (ctxOf_get hz)⟩
  · have hpool : (s.begun r).poolOf c.fn (fld c.sqe 32 2) = some y := hy
    have hctx : (s.begun r).ctxOf c.fn (fld c.sqe 34 2) = some z := hz
    simp only [hpool, hctx, if_pos hmember]
    exact ⟨State.report_ended .invalidContext (State.begun_cmd h), rfl⟩
  · exact .of_eq (poolLeave_next io h hy hz hmember hidle) ⟨State.commit_ended (State.begun_cmd h), State.modCtx_get _ (ctxOf_get hz)⟩
  · have hpool : (s.begun r).poolOf c.fn (fld c.sqe 32 2) = some y := hy
    have hleft : (tany (s.begun r).ctxs fun _ z => z.pool == fld c.sqe 32 2) = true := hmembers
    simp only [hpool, hleft, if_true]
    exact ⟨State.report_ended .busy (State.begun_cmd h), rfl⟩
  · refine .of_eq (poolDestroy_next io h hy hempty) ⟨State.commit_ended (c := { c with stage := .running, start := some s.now }) ?_ (State.takes_decided h :), ?_⟩
    · rw [State.pruneImages_cmds]
      exact State.begun_cmd h
    · rw [State.commit_pools, State.pruneImages_pools]

end Sys2Proof.Machine
end

section
/-! PROOFS. Work of an I/O queue taken up (04_commands_and_graphs.md, I/O opcodes; 10_sequences.md). -/

namespace Sys2Proof.Machine

open Sys2Proof

/-- Work of tiles that is taken up runs with the tiles of its graph. -/
theorem State.takeUpTiles_runs {s : State} {r opc : Nat} {c : Cmd} (h : s.ioCmd r opc = some c) :
    AnswersSettled (.next (s.takeUpTiles r opc)) fun t =>
      t.cmdHas r (fun x => x.stage = .running ∧ x.tiles = tilesFor (s.nodesOf c) (s.clustersOf c.ctx)) ∧ t.serac = s.serac ∧ t.mem = s.mem := by
  refine ⟨s.modCmd r fun x => { x with stage := .running, tiles := tilesFor (s.nodesOf c) (s.clustersOf c.ctx) }, ?_,
    State.modCmd_cmdHas (ioCmd_get h) ⟨rfl, rfl⟩, rfl, rfl⟩
  unfold State.takeUpTiles
  simp only [h]

/-- A command of Cirque whose spans no Crevasse record holds is checked against its context. -/
theorem State.cirqueSpans_eq {s : State} {r : Nat} {c : Cmd} {x : Ctx} (l : List VaSpan) (f : State → Cmd → State) (hx : tget? s.ctxs c.ctx = some x)
    (hfree : (s.crevAny fun v => v.unsettled && v.stuck.contains r) = false) : s.cirqueSpans r c l f = s.withSpans r c x 32 0x0700 l f := by
  unfold State.cirqueSpans
  simp only [hx, hfree, Bool.false_eq_true, if_false]

/-- Spans that are wholly mapped with their rights: the command goes on with its descriptors brought up to date. -/
theorem State.withSpans_ok {s : State} {r : Nat} {c : Cmd} {x : Ctx} {n engine : Nat} {l : List VaSpan} (f : State → Cmd → State)
    (h : (s.checkSpans c x engine l).1 = .ok) :
    s.withSpans r c x n engine l f = f (s.modCmd r fun z => { z with descs := (s.checkSpans c x engine l).2.descs }) (s.checkSpans c x engine l).2 := by
  unfold State.withSpans
  simp only [h]

/-- Spans that lack a right: the fault is recorded, and the command fails. -/
theorem State.withSpans_rights {s : State} {r : Nat} {c : Cmd} {x : Ctx} {n engine va : Nat} {l : List VaSpan} (f : State → Cmd → State)
    (h : (s.checkSpans c x engine l).1 = .rights va) : ∃ u : State, u.mem = s.mem ∧ s.withSpans r c x n engine l f = u.fail r .rightsViolation := by
  unfold State.withSpans
  simp only [h]
  exact ⟨(s.modCmd r fun z => { z with descs := (s.checkSpans c x engine l).2.descs }).rightsFault c (2 ^ n) (spanAccess l) va (spanRanges l)
      (lackRanges (l.flatMap (s.checkSpans c x engine l).2.parts)), State.rightsFault_mem _ _ _ _ _ _ _, rfl⟩

/-- COPY of a range that lacks a right. -/
theorem copy_rights {s : State} {r va : Nat} {c : Cmd} {x : Ctx} (ecc : Ecc) {l : List VaSpan} (h : s.ioCmd r 0x84 = some c) (hx : tget? s.ctxs c.ctx = some x)
    (hfree : (s.crevAny fun v => v.unsettled && v.stuck.contains r) = false)
    (hl : l = [⟨5, ioBufAddr c.sqe 5, fld c.sqe 40 8, 1⟩, ⟨6, ioBufAddr c.sqe 6, fld c.sqe 40 8, 2⟩]) (hva : (s.checkSpans c x 0x0700 l).1 = .rights va) :
    Answers (exec (.copy r ecc) s) fun t => ∃ u : State, u.mem = s.mem ∧ t = (u.fail r .rightsViolation).settle := by
  subst hl
  refine ⟨_, rfl, ?_⟩
  simp only [h, State.cirqueSpans_eq _ _ hx hfree]
  obtain ⟨u, hmem, hu⟩ := State.withSpans_rights (r := r) (n := 32) _ hva
  exact ⟨u, hmem, congrArg State.settle hu⟩

/-- COPY of bytes that are all at hand: they are read, and then written. -/
theorem copy_moves {s u : State} {r : Nat} {c c1 : Cmd} {x : Ctx} {l : List VaSpan} {k : Check × Cmd} {y : Blob × State} (h : s.ioCmd r 0x84 = some c)
    (hx : tget? s.ctxs c.ctx = some x) (hfree : (s.crevAny fun v => v.unsettled && v.stuck.contains r) = false)
    (hl : l = [⟨5, ioBufAddr c.sqe 5, fld c.sqe 40 8, 1⟩, ⟨6, ioBufAddr c.sqe 6, fld c.sqe 40 8, 2⟩]) (hk : k = s.checkSpans c x 0x0700 l)
    (hok : k.1 = .ok) (hu : u = s.modCmd r fun z => { z with descs := k.2.descs })
    (hlack : u.lackReads r c (s.epochOf 0x0700) (k.2.pieces 5 (ioBufAddr c.sqe 5) (fld c.sqe 40 8)) = [])
    (hy : y = (u.modCmd r fun z => { z with stage := .running, start := some (z.start.getD s.now) }).readPieces r c (s.epochOf 0x0700)
      (k.2.pieces 5 (ioBufAddr c.sqe 5) (fld c.sqe 40 8)))
    (hc1 : tget? y.2.cmds r = some c1) (hd : c1.decided = none) :
    exec (.copy r .clean) s = .next ((((y.2.writePieces r c1 (s.epochOf 0x0700) (k.2.pieces 6 (ioBufAddr c.sqe 6) (fld c.sqe 40 8)) y.1).remotePump r).workMoved r).settle) := by
  subst hl
  have hokS : (s.checkSpans c x 0x0700 [⟨5, ioBufAddr c.sqe 5, fld c.sqe 40 8, 1⟩, ⟨6, ioBufAddr c.sqe 6, fld c.sqe 40 8, 2⟩]).1 = .ok := hk ▸ hok
  have hnow : u.now = s.now := by rw [hu]; rfl
  show Host.Outcome.next _ = _
  simp only [h, State.cirqueSpans_eq _ _ hx hfree, State.withSpans_ok _ hokS, ← hk, ← hu, hlack, List.isEmpty_nil, hnow, ← hy, hc1, hd]
  rfl

/-- Settles O30, command by command. -/
theorem workCommands : Obligations.WorkCommands := by
  intro s r c
  refine ⟨fun i opc hi h => ?_, fun x ecc l h hx hfree hl => ⟨fun va hva => copy_rights ecc h hx hfree hl hva,
      fun k u y hk hok hu hlack hy c1 hc1 hd => copy_moves h hx hfree hl hk hok hu hlack hy hc1 hd⟩,
    fun x h hx hfree hok => ?_, fun h => ?_, fun h hnone => ?_, fun q h hq => ?_⟩
  · rcases hi with ⟨rfl, rfl⟩ | ⟨rfl, rfl⟩ | ⟨rfl, rfl⟩ | ⟨rfl, rfl⟩ <;> exact State.takeUpTiles_runs h
  · refine ⟨((({ (s.modCmd r fun z => { z with descs := (s.checkSpans c x 0x0700 [⟨7, ioBufAddr c.sqe 7, 8, 2⟩]).2.descs }) with
        snow := { s.snow with creates := s.snow.creates ++ [r] } } : State).modCmd r fun z => { z with stage := .running }).passBoundary), ?_, ?_, ?_, ?_⟩
    · show Host.Outcome.next _ = _
      simp only [h, State.cirqueSpans_eq _ _ hx hfree, State.withSpans_ok _ hok]
      rfl
    · rw [State.passBoundary_snow]; rfl
    · rw [State.passBoundary_snow]
    · unfold State.cmdHas
      rw [State.passBoundary_cmds]
      exact State.modCmd_cmdHas (c := { c with descs := (s.checkSpans c x 0x0700 [⟨7, ioBufAddr c.sqe 7, 8, 2⟩]).2.descs })
        (by show tget? (tmod s.cmds r _) r = _; rw [tget?_tmod, ioCmd_get h]; rfl) rfl
  · refine .of_eq (t := (s.modCmd r fun x => { x with stage := .running }).passBoundary) ?_ ⟨?_, ?_⟩
    · show Host.Outcome.next _ = _
      simp only [h]
    · rw [State.passBoundary_snow]; rfl
    · unfold State.cmdHas
      rw [State.passBoundary_cmds]
      exact State.modCmd_cmdHas (ioCmd_get h) rfl
  · refine .of_eq (t := ((s.modCmd r fun x => { x with stage := .running }).modCmd r fun x => { x with start := some s.now }).report r .success) ?_ ⟨?_, rfl⟩
    · show Host.Outcome.next _ = _
      simp only [h, hnone]
    · have hdecided := ioCmd_decided h
      refine State.report_ended (c := { c with stage := .running, start := some s.now }) .success ?_ hdecided
      rw [State.modCmd_cmds, tget?_tmod, State.modCmd_cmds, tget?_tmod, ioCmd_get h]; rfl
  · generalize hu : ({ s.modCmd r fun x => { x with stage := .running } with snow := { s.snow with seqs := tmod s.snow.seqs (fld c.sqe 24 4) fun q =>
        { q with pendingKeep := some (fld c.sqe 28 4), truncators := q.truncators ++ [r] } } } : State) = u
    have hseq : tget? u.snow.seqs (fld c.sqe 24 4) = some { q with pendingKeep := some (fld c.sqe 28 4), truncators := q.truncators ++ [r] } := by
      rw [← hu]
      show tget? (tmod s.snow.seqs _ _) _ = _
      rw [tget?_tmod, hq]; rfl
    refine .of_eq (t := u.passBoundary.syncSeqs) ?_ ?_
    · show Host.Outcome.next _ = _
      simp only [h, hq]
      exact congrArg (fun t : State => Host.Outcome.next t.passBoundary.syncSeqs) hu
    · rw [State.syncSeqs_snow, State.passBoundary_snow]
      exact ⟨hseq, rfl⟩

end Sys2Proof.Machine
end

section
/-! PROOFS. Interrupts and faults of Tarn's core, the serial monitor (16_tarn.md) and configuration requests (02_edges.md). -/

namespace Sys2Proof.Machine

open Sys2Proof

/-- The interrupt taken: its source becomes active, and the core goes to its vector. -/
theorem State.ticTake_source (s : State) (n : Nat) : (s.ticTake n).ticSrc n = { s.ticSrc n with active := true, pending := false, again := false } :=
  src_updSrc s n fun x => { x with active := true, pending := false, again := false }

/-- Settles O50, by the source offered, the source ended and the faulting access. -/
theorem coreInterrupts : Obligations.CoreInterrupts := by
  intro s hcore
  refine ⟨fun n hbest hroom => ?_, fun hbest => ?_, fun n hn hactive => ?_, fun n p rest hstack hagain => ?_, fun a k hf => ?_, fun a k hf => ?_⟩
  · refine .of_eq (t := s.ticTake n) ?_ ⟨rfl, rfl, s.ticTake_source n, rfl, rfl⟩
    show Host.Outcome.next _ = _
    simp only [hbest, hcore, hroom, decide_true, Bool.and_self, if_true]
  · show Host.Outcome.next _ = _
    simp only [hbest]
  · refine .of_eq (t := s.updSrc n fun x => { x with active := false }) ?_ ⟨src_updSrc s n _, rfl, rfl⟩
    show Host.Outcome.next _ = _
    simp only [hcore, hn, decide_true, Bool.and_self, if_true, State.ticEoi, hactive]
  · refine .of_eq (t := { s with tarn := { s.tarn with stack := rest, pc := p } }) ?_ ⟨rfl, rfl⟩
    show Host.Outcome.next _ = _
    simp only [hstack, hcore, hagain, Bool.not_true, Bool.false_and, Bool.false_eq_true, if_false]
  · refine .of_eq (t := { s with loess := { s.loess with hbStopped := true } }) ?_ ⟨rfl, rfl⟩
    show Host.Outcome.next _ = _
    simp only [hcore, hf, Bool.and_self, if_true]
  · show Host.Outcome.next _ = _
    simp only [hf, Bool.and_false, Bool.false_eq_true, if_false]

/-- A character that arrives while the core runs pulses the source of the line. -/
theorem exec_uartCharacter {s : State} (c : Byte) (h : s.coreRuns = true) : exec (.uartCharacter c) s = .next ((s.pulse 64).monChar c.toNat) := by
  show Host.Outcome.next _ = _
  rw [if_pos h]

/-- A printable character joins the line and is echoed. -/
theorem State.monChar_printable {s : State} {c : Nat} (h1 : 32 ≤ c) (h2 : c ≤ 126) :
    s.monChar c = (s.setLine (s.tarn.line ++ [c]) false).sendUart [c] := by
  unfold State.monChar
  dsimp only
  rw [if_neg (by omega), if_neg (by omega), if_neg (by omega), if_neg (by omega), if_pos ⟨h1, h2⟩]

/-- Backspace and delete take the last character off a line. -/
theorem State.monChar_erases {s : State} {c : Nat} (h : c = 8 ∨ c = 127) (hl : s.tarn.line ≠ []) :
    s.monChar c = (s.setLine s.tarn.line.dropLast false).sendUart [8, 32, 8] := by
  unfold State.monChar
  dsimp only
  rw [if_neg (by omega), if_pos h, if_neg (by simpa using hl)]

/-- A line feed after a carriage return ends no second line. -/
theorem State.monChar_secondEnd {s : State} (h : s.tarn.lastCr = true) : s.monChar 10 = s.setLine s.tarn.line false := by
  unfold State.monChar
  simp [h]

/-- Settles O51, character by character. -/
theorem monitorLine : Obligations.MonitorLine := by
  intro s hcore
  obtain ⟨hline, hcr, hports, hmem⟩ := pulse_line s 64
  refine ⟨fun c h1 h2 => ?_, fun c hc hl => ?_, ?_, fun u hu1 hu2 => ?_, fun hlast => ?_, ?_⟩
  · refine .of_eq (t := ((s.pulse 64).setLine (s.tarn.line ++ [c.toNat]) false).sendUart [c.toNat]) ?_
      ⟨rfl, rfl, congrArg (fun p : Ports => p.uart ++ [c.toNat]) hports, hmem⟩
    rw [exec_uartCharacter c hcore, State.monChar_printable h1 h2, hline]
  · refine .of_eq (t := ((s.pulse 64).setLine s.tarn.line.dropLast false).sendUart [8, 32, 8]) ?_ ⟨rfl, congrArg (fun p : Ports => p.uart ++ [8, 32, 8]) hports⟩
    rw [exec_uartCharacter c hcore, State.monChar_erases hc (by rwa [hline]), hline]
  · exact .of_eq (t := (s.pulse 64).setLine [] false) (exec_uartCharacter 3 hcore) ⟨rfl, hports⟩
  · have hset : (s.pulse 64).setLine [] true = u := by
      rw [hu2, hu1]
      conv => lhs; rw [pulse_eq]
      rfl
    rw [exec_uartCharacter 13 hcore, ← hset, ← hline]
    rfl
  · refine .of_eq (t := (s.pulse 64).setLine (s.pulse 64).tarn.line false) ?_ ⟨hline, rfl, hports⟩
    rw [exec_uartCharacter 10 hcore]
    exact congrArg Host.Outcome.next (State.monChar_secondEnd (hcr.trans hlast))
  · obtain ⟨-, -, hports, hmem⟩ := pulse_line s 66
    refine .of_eq (t := (s.pulse 66).setLine [] false) ?_ ⟨rfl, hports, hmem⟩
    show Host.Outcome.next _ = _
    rw [if_pos hcore]

/-- A command of the monitor while the core runs: locked, out of range, or done. -/
theorem State.monRow_runs {s : State} (c : MonCmd) (h : s.coreRuns = true) : s.monRow c = s.monitor c := if_pos h

/-- A command that the locked monitor does not answer. -/
theorem State.monRow_locked {s : State} {c : MonCmd} (h : s.coreRuns = true) (hl : s.tarn.unlocked = false) (hc : monOpen c = false) :
    (.next (s.monRow c) : Out) = .next (s.monRefuse .locked) := by
  rw [State.monRow_runs c h, State.monitor, hl, hc]
  rfl

/-- A command that answers in every lock state. -/
theorem State.monRow_open {s : State} {c : MonCmd} (h : s.coreRuns = true) (hc : monOpen c = true) (hr : monRange c = false) :
    (.next (s.monRow c) : Out) = .next (s.monDo c) := by
  rw [State.monRow_runs c h, State.monitor, hc, hr]
  simp

/-- A command of the unlocked monitor whose arguments are in range. -/
theorem State.monRow_unlocked {s : State} {c : MonCmd} (h : s.coreRuns = true) (hu : s.tarn.unlocked = true) (hr : monRange c = false) :
    (.next (s.monRow c) : Out) = .next (s.monDo c) := by
  rw [State.monRow_runs c h, State.monitor, hu, hr]
  rfl

/-- A command of the unlocked monitor with an argument out of its range. -/
theorem State.monRow_range {s : State} {c : MonCmd} (h : s.coreRuns = true) (hu : s.tarn.unlocked = true) (hr : monRange c = true) :
    (.next (s.monRow c) : Out) = .next (s.monRefuse .range) := by
  rw [State.monRow_runs c h, State.monitor, hu, hr]
  rfl

/-- What an answer leaves alone, and what it sends. -/
theorem State.monAnswer_parts (s : State) (l : List (List Nat)) (e : Option MonErr) :
    (s.monAnswer l e).mem = s.mem ∧ (s.monAnswer l e).tarn.unlocked = s.tarn.unlocked ∧
    (s.monAnswer l e).ports = (s.sendUart ((l ++ [match e with | none => asc "ok" | some x => spaced [asc "err", monWord x]]).flatMap textLine ++ asc "> ")).ports := by
  cases e <;> (unfold State.monAnswer State.pulse; dsimp only; split) <;> exact ⟨rfl, rfl, rfl⟩

/-- The place of a listed rate is the place of its first occurrence: no rate is listed twice. -/
theorem idxOf_baudRates {i r : Nat} (h : baudRates[i]? = some r) : idxOf baudRates r = i := by
  obtain ⟨hi, rfl⟩ := List.getElem?_eq_some_iff.mp h
  have hall : ∀ k : Fin 8, idxOf baudRates baudRates[k] = k := by decide
  exact hall ⟨i, hi⟩

/-- Settles O52, command by command through the lock and the ranges. -/
theorem monitorCommands : Obligations.MonitorCommands := by
  intro s h
  refine ⟨_, rfl, fun hl => ⟨s.monRefuse .locked, rfl, (s.monAnswer_parts [] _).1, fun o v n => ?_⟩, ?_, ?_, ?_, fun hu => ?_⟩
  · refine ⟨?_, ?_, ?_, ?_, ?_, ?_, ?_, ?_, ?_, ?_, ?_, ?_⟩ <;> exact State.monRow_locked h hl rfl
  · exact State.monRow_open h rfl rfl
  · exact State.monRow_open h rfl rfl
  · exact State.monRow_open h rfl rfl
  · refine ⟨fun o n h1 h2 h3 => ?_, fun o n h1 h2 h3 => ?_, fun o v h1 h2 => ?_, fun o v h1 h2 => ?_, ⟨_, rfl, ?_⟩, fun f hf => ⟨_, rfl, ?_⟩,
      fun n h1 h2 => ⟨_, rfl, ?_⟩, ?_, ⟨_, rfl, ?_⟩, ⟨_, rfl, ?_⟩, fun i r hr => ?_, ?_, fun o ho => ⟨s.monRefuse .range, rfl, fun n v => ?_⟩⟩
    · exact State.monRow_unlocked (c := .rd o n) h hu (by simp [monRange, h1, h2, h3])
    · exact State.monRow_unlocked (c := .rq o n) h hu (by simp [monRange, h1, h2, h3])
    · exact State.monRow_unlocked (c := .wr o v) h hu (by simpa [monRange, h1] using h2)
    · exact State.monRow_unlocked (c := .wq o v) h hu (by simpa [monRange, h1] using h2)
    · exact State.monRow_unlocked h hu rfl
    · exact State.monRow_unlocked (c := .fn f) h hu (by simp [monRange, hf])
    · exact State.monRow_unlocked (c := .rec_ n) h hu (by simp [monRange, h1, h2])
    · exact State.monRow_unlocked h hu rfl
    · exact State.monRow_unlocked h hu rfl
    · exact State.monRow_unlocked h hu rfl
    · refine .of_eq (State.monRow_unlocked (c := .baud r) h hu ?_) ⟨idxOf_baudRates hr, rfl, (s.monAnswer_parts [] none).1⟩
      simp [monRange, List.mem_of_getElem? hr]
    · refine .of_eq (t := ({ s with tarn := { s.tarn with unlocked := false } } : State).monAnswer [] none) (State.monRow_unlocked h hu rfl) ?_
      obtain ⟨hmem, hlock, hports⟩ := State.monAnswer_parts ({ s with tarn := { s.tarn with unlocked := false } } : State) [] none
      exact ⟨hlock, hports.trans (State.monAnswer_parts s [] none).2.2.symm, hmem⟩
    · have hn : ∀ k, ¬ o + k ≤ 0x4000000 - 1 := fun k => by omega
      refine ⟨State.monRow_range (c := .rd o n) h hu ?_, State.monRow_range (c := .rq o n) h hu ?_,
        State.monRow_range (c := .wr o v) h hu ?_, State.monRow_range (c := .wq o v) h hu ?_⟩
      all_goals simp [monRange]; omega

/-- A configuration request that is carried out. -/
theorem exec_configurationRequest {s : State} {fn : Nat} (a : CfgAccess) (hfn : fn < 4096) (h : s.configurable = true) :
    exec (.configurationRequest fn a) s = .next (s.configAccess fn a) := by
  show Host.Outcome.next _ = _
  rw [if_neg (by omega), State.config_ok h]

/-- Settles O53, place by place of configuration space. -/
theorem configurationAndScan : Obligations.ConfigurationAndScan := by
  refine ⟨fun s fn hfn h => ⟨fun e m => exec_configurationRequest _ hfn h, .of_eq (exec_configurationRequest _ hfn h) ⟨rfl, rfl⟩,
      fun d => .of_eq (exec_configurationRequest _ hfn h) ⟨State.fn_updFn s fn _, rfl⟩, .of_eq (exec_configurationRequest _ hfn h) rfl,
      fun o => .of_eq (exec_configurationRequest _ hfn h) ⟨rfl, s.draw % 2 ^ 32, rfl, Nat.mod_lt _ (by omega)⟩⟩,
    fun s fn a hfn hheld hretry => ?_, fun s cells => rfl⟩
  refine .of_eq (t := s.pushHost .cfgRetry) ?_ ⟨rfl, rfl, rfl⟩
  have hcond : (s.tarn.phase = 0 || s.tarn.phase = 6 || s.pwr.holdup : Bool) = true := by simpa [or_assoc] using hretry
  show Host.Outcome.next _ = _
  rw [if_neg (by omega), State.config, hheld, if_neg (by simp), if_pos hcond]

end Sys2Proof.Machine
end

section
/-! PROOFS. Supply pins, resets of the block and the self-test (02_edges.md, Supply, reset, timebase and management signals;
15_power_and_supply.md; 16_tarn.md, Start-up). -/

namespace Sys2Proof.Machine

open Sys2Proof

/-- An edge of a pin that stays 5 ns is seen (R64). -/
theorem lasts_of_le {ns : Nat} (h : 5 ≤ ns) : lasts ns = true := decide_eq_true h

/-- Releasing rings one after another leaves memory and queues alone. -/
theorem State.releaseRings_parts (l : List Nat) (reason : Nat) (b : Bool) (s : State) :
    (l.foldl (fun t k => t.releaseRing k reason b) s).mem = s.mem ∧ (l.foldl (fun t k => t.releaseRing k reason b) s).queues = s.queues :=
  ⟨foldl_mem _ _ _ fun t k => State.releaseRing_mem t k reason b, foldl_queues _ _ _ fun t k => State.releaseRing_queues t k reason b⟩

/-- VX_PWR_GOOD rises: the wake ends, the hold ends, or nothing else happens. -/
theorem pwrGoodRise_cases {s : State} {ns : Nat} (hns : 5 ≤ ns) (hlow : s.pins.pwrGood = false) (hheld : s.held = none) :
    exec (.pwrGoodRise ns) s = .next (
      let t : State := { s with pins := { s.pins with pwrGood := true } }
      if s.pwr.st == .waking then t.endWake.deliverAll
      else if s.pwr.goodHold then
        let u : State := { t with pwr := { t.pwr with goodHold := false } }
        if s.pwr.brownout then u else u.deliverAll
      else t) := by
  show Host.Outcome.next _ = _
  rw [lasts_of_le hns, hlow, hheld]
  rfl

/-- VX_PWR_GOOD falls. -/
theorem pwrGoodFall_holds {s : State} {ns : Nat} (hns : 5 ≤ ns) (hhigh : s.pins.pwrGood = true) :
    ((s.awake = false ∨ s.loess.halted = true) →
      exec (.pwrGoodFall ns) s = .next { s with pins := { s.pins with pwrGood := false, byp := 0 } }) ∧
    (s.awake = true → s.loess.halted = false → s.pins.holdupN = true → s.pwr.brownout = false → s.pwr.goodHold = false →
      Answers (exec (.pwrGoodFall ns) s) fun t => t.pwr.goodHold = true ∧ t.mem = s.mem ∧ t.queues = s.queues) := by
  refine ⟨fun hidle => ?_, fun hawake hrun hholdup _ _ => ?_⟩
  · have hcond : (!s.awake || s.loess.halted) = true := by simpa using hidle
    show Host.Outcome.next _ = _
    rw [lasts_of_le hns, hhigh, if_neg (by simp), if_pos hcond]
  · let s1 : State := { s with pins := { s.pins with pwrGood := false, byp := 0 } }
    let s2 := s1.ringsHeld.foldl (fun t k => t.releaseRing k 6 false) s1
    obtain ⟨hmem, hqueues⟩ := State.releaseRings_parts s1.ringsHeld 6 false s1
    refine .of_eq (t := { s2.holdBegins with pwr := { s2.holdBegins.pwr with goodHold := true } }) ?_
      ⟨rfl, (State.holdBegins_mem s2).trans hmem, (State.holdBegins_queues s2).trans hqueues⟩
    show Host.Outcome.next _ = _
    rw [lasts_of_le hns, hhigh, if_neg (by simp), if_neg (by simp [hawake, hrun]), if_pos hholdup]

/-- The edges of the droop and the brake pin. -/
theorem droopAndBrake {s : State} {ns : Nat} (hns : 5 ≤ ns) :
    (s.pins.droopN = true → s.held = none → Answers (exec (.droopFall ns) s) fun t =>
      t.pins.droopN = false ∧ t.pins.droopSeen = true ∧ t.pwr = { s.pwr with droopPace := true, droopHigh := none, droops := satAdd s.pwr.droops 1 0xFFFF } ∧
      (t.ticSrc 57).pending = true) ∧
    (s.pins.droopN = false → exec (.droopRise ns) s =
      .next { s with pins := { s.pins with droopN := true }, pwr := { s.pwr with droopHigh := some s.now } }) ∧
    (∀ low, s.pins.pwrbrakeN = low → s.held = none → Answers (exec (.pwrbrakeChange low ns) s) fun t =>
      t.pins.pwrbrakeN = !low ∧ t.pwr = { s.pwr with brake := low } ∧ (t.ticSrc 58).pending = true) := by
  have hlasts := lasts_of_le hns
  refine ⟨fun hhigh hheld => ?_, fun hlow => ?_, fun low hpin hheld => ?_⟩
  · refine .of_eq (t := ({ s with pins := { s.pins with droopN := false, droopSeen := true }
                                  pwr := { s.pwr with droopPace := true, droopHigh := none, droops := satAdd s.pwr.droops 1 0xFFFF } } : State).pulse 57) ?_ ?_
    · show Host.Outcome.next _ = _
      rw [hlasts, hhigh, hheld]
      rfl
    · exact ⟨by rw [pulse_eq], by rw [pulse_eq], by rw [pulse_eq], ticSrc_pulse _ 57⟩
  · show Host.Outcome.next _ = _
    rw [hlasts, hlow]
    rfl
  · refine .of_eq (t := ({ s with pins := { s.pins with pwrbrakeN := !low }, pwr := { s.pwr with brake := low } } : State).pulse 58) ?_ ?_
    · show Host.Outcome.next _ = _
      rw [hlasts, hpin, hheld, if_neg (by simp)]
      rfl
    · exact ⟨by rw [pulse_eq], by rw [pulse_eq], ticSrc_pulse _ 58⟩

/-- Settles O48, pin by pin. -/
theorem supplyPins : Obligations.SupplyPins := by
  refine ⟨fun s ns hns hlow hheld => ?_, fun s ns hns hhigh => pwrGoodFall_holds hns hhigh, fun s mv hawake h1 h2 hb hg => ?_,
    fun s mv hb hmv hheld => ?_, fun s ns hns => droopAndBrake hns, fun s t0 hhigh hn hpace => ?_, fun s mw hrun => ?_,
    fun s e hchill hrun he hidle hnew => ?_⟩
  · rw [pwrGoodRise_cases hns hlow hheld]
    refine ⟨fun hw => ⟨_, rfl, ?_⟩, fun hw hgood hb => ⟨{ s with pins := { s.pins with pwrGood := true }, pwr := { s.pwr with goodHold := false } }, rfl, rfl, ?_⟩,
      fun hw hgood => ?_⟩
    · simp [hw]
    · simp [hw, hgood, hb]
    · simp [hw, hgood]
  · refine .of_eq (t := { s.holdBegins with pwr := { s.holdBegins.pwr with brownout := true } }) ?_ ?_
    · show Host.Outcome.next _ = _
      rw [hawake, hb, if_neg (by simp; omega)]
    · unfold State.holdBegins
      rw [hb, hg]
      exact ⟨rfl, rfl, rfl, rfl, rfl⟩
  · refine ⟨{ s.advanceTo (s.now + 1000) with pwr := { (s.advanceTo (s.now + 1000)).pwr with brownout := false } }, rfl, State.advanceTo_le s _,
      fun hg => ?_, fun hg => ?_⟩ <;>
    · show Host.Outcome.next _ = _
      rw [hb, hg, hheld, if_neg (by simp; omega)]
      rfl
  · refine .of_eq (t := { s.advanceTo (t0 + 10000) with pwr := { (s.advanceTo (t0 + 10000)).pwr with droopPace := false, droopHigh := none } }) ?_
      ⟨State.advanceTo_le s _, rfl, rfl⟩
    show Host.Outcome.next _ = _
    simp only [hhigh, hn, hpace, Bool.and_self, if_true]
  · generalize hu : s.advanceTo (s.now / 1000 * 1000 + 1000) = u
    have hnow : s.now / 1000 * 1000 + 1000 ≤ u.now := hu ▸ State.advanceTo_le s _
    refine .of_eq (t := { u with pwr := { u.pwr with estimates := (mw :: u.pwr.estimates).take 100
                                                     limitPace := clampTo 1 16 (Config.pace ((mw :: u.pwr.estimates).take 100) u.limitNow) } }) ?_
      ⟨?_, (clamp_le 1 16 _ (by omega)).1, (clamp_le 1 16 _ (by omega)).2, by show s.now < u.now; omega⟩
    · rw [← hu]
      show Host.Outcome.next _ = _
      rw [hrun, if_neg (by simp)]
    · show (mw :: u.pwr.estimates).take 100 = _
      rw [← hu, (adv_pwr s _).1]
  · generalize hu : s.advanceTo (s.now + 1000) = u
    refine .of_eq (t := { u with pwr := { u.pwr with relaxed := u.pwr.relaxed ++ [e] } }) ?_ ⟨?_, hu ▸ State.advanceTo_le s _⟩
    · rw [← hu]
      show Host.Outcome.next _ = _
      rw [hchill, hrun, he, hidle, hnew, if_neg (by simp)]
    · show u.pwr.relaxed ++ [e] = _
      rw [← hu, (adv_pwr s _).2.1]

/-- A pin or a monitor that asks for a cold reset holds the block, emptied. -/
theorem State.relevel_held {s : State} (h : s.coldCause = true) : s.relevel = { s.atReset true with held := some true } := if_pos h

/-- The end of a cold reset, with no warm reset asked for: timebase 0. -/
theorem State.relevel_released {s : State} (h : s.coldCause = false) (hheld : s.held = some true) (hrst : s.pins.rstN = true) :
    s.relevel = { ({ s with now := 0 } : State).atReset false with
      held := none, tarn := { (({ s with now := 0 } : State).atReset false).tarn with released := 0 } } := by
  rw [relevel_cold h hheld, hrst, if_neg (by simp)]

/-- A warm reset keeps a halt, and nothing else of Loess. -/
theorem State.atReset_warm_loess (s : State) : (s.atReset false).loess.halted = s.loess.halted ∧ (s.loess.halted = false → (s.atReset false).loess = {}) := by
  unfold State.atReset
  dsimp only
  cases s.loess.halted <;> simp

/-- The release of the cold reset pin. -/
theorem coldResetRelease_ends {s : State} {ns : Nat} (hns : 5 ≤ ns) (hpin : s.pins.coldRstN = false) (hmon : s.pwr.monitorReset = none) :
    (s.pins.rstN = true → s.held = some true → Answers (exec (.coldResetRelease ns) s) fun t =>
      t.held = none ∧ t.now = 0 ∧ t.tarn.released = 0 ∧ t.tarn.phase = 0 ∧ t.pins.coldRstN = true ∧ t.cmds = [] ∧ t.mem = s.boardKept) ∧
    (s.pins.rstN = false → s.held = some true → Answers (exec (.coldResetRelease ns) s) fun t =>
      t.held = some false ∧ t.now = 0 ∧ t.pins.coldRstN = true) := by
  have hexec : exec (.coldResetRelease ns) s = .next ({ s with pins := { s.pins with coldRstN := true } } : State).relevel := by
    show Host.Outcome.next _ = _
    rw [lasts_of_le hns, hpin]
    rfl
  have hcause : ({ s with pins := { s.pins with coldRstN := true } } : State).coldCause = false := by simp [State.coldCause, hmon]
  refine ⟨fun hrst hheld => ?_, fun hrst hheld => ?_⟩
  · rw [hexec, State.relevel_released hcause hheld hrst]
    exact ⟨_, rfl, rfl, rfl, rfl, rfl, rfl, rfl, rfl⟩
  · rw [hexec, relevel_cold hcause hheld, if_pos hrst]
    exact ⟨_, rfl, rfl, rfl, rfl⟩

/-- The warm reset pin, asserted and released. -/
theorem warmReset_parts {s : State} {ns : Nat} (hns : 5 ≤ ns) (hcause : s.coldCause = false) :
    (s.held = none → Answers (exec (.warmResetAssert ns) s) fun t =>
      t.held = some false ∧ t.pins.rstN = false ∧ t.now = s.now ∧ t.mem = s.boardKept ∧ t.cmds = [] ∧ t.queues = [] ∧ t.fns = [] ∧
        t.loess.halted = s.loess.halted ∧ (s.loess.halted = false → t.loess = {})) ∧
    (s.pins.rstN = false → s.held = some false → Answers (exec (.warmResetRelease ns) s) fun t =>
      t.held = none ∧ t.pins.rstN = true ∧ t.now = s.now ∧ t.tarn.released = s.now ∧ t.tarn.phase = 0 ∧ t.loess.halted = s.loess.halted) := by
  refine ⟨fun hheld => ?_, fun hrst hheld => ?_⟩
  · let u : State := { s with pins := { s.pins with rstN := false } }
    obtain ⟨hhalt, hclear⟩ := State.atReset_warm_loess u
    refine .of_eq (t := { u.atReset false with held := some false }) ?_ ⟨rfl, rfl, rfl, rfl, rfl, rfl, rfl, hhalt, hclear⟩
    show Host.Outcome.next _ = _
    rw [lasts_of_le hns, if_pos rfl, relevel_warm (u := u) hcause (by show s.held ≠ _; simp [hheld]), if_pos rfl]
  · let u : State := { s with pins := { s.pins with rstN := true } }
    refine .of_eq (t := { u.atReset false with held := none, tarn := { (u.atReset false).tarn with released := u.now } }) ?_
      ⟨rfl, rfl, rfl, rfl, rfl, (State.atReset_warm_loess u).1⟩
    show Host.Outcome.next _ = _
    rw [lasts_of_le hns, hrst]
    refine congrArg Host.Outcome.next ((relevel_warm (u := u) hcause (by show s.held ≠ _; simp [hheld])).trans ?_)
    rw [if_neg (by simp [u]), if_pos (by show s.held.isSome = _; simp [hheld])]

/-- A voltage monitor holds the block, and lets it go 20 mV higher. -/
theorem voltageMonitor_parts {s : State} (rail : Rail) (mv l : Nat) :
    (s.resetLevel rail = some l → mv < l → s.pwr.monitorReset = none →
      Answers (exec (.voltageMonitorReset rail mv) s) fun t => t.held = some true ∧ t.pwr.monitorReset = some (rail, l) ∧ t.mem = s.boardKept ∧ t.cmds = []) ∧
    (s.pwr.monitorReset = some (rail, l) → l + 20 < mv → s.pins.coldRstN = true → s.pins.rstN = true → s.held = some true →
      Answers (exec (.voltageMonitorRelease rail mv) s) fun t => t.held = none ∧ t.pwr.monitorReset = none ∧ t.now = 0 ∧ t.tarn.phase = 0) := by
  refine ⟨fun hl hlow hnone => ?_, fun hmon hhigh hcold hrst hheld => ?_⟩
  · let u : State := { s with pwr := { s.pwr with monitorReset := some (rail, l) } }
    refine .of_eq (t := { u.atReset true with held := some true }) ?_ ⟨rfl, rfl, rfl, rfl⟩
    show Host.Outcome.next _ = _
    simp only [hl, if_pos (And.intro hlow hnone)]
    exact congrArg Host.Outcome.next (State.relevel_held (s := u) (by simp [u, State.coldCause]))
  · let u : State := { s.advanceTo (s.now + 10000) with pwr := { (s.advanceTo (s.now + 10000)).pwr with monitorReset := none } }
    have hpins : u.pins.coldRstN = true ∧ u.pins.rstN = true := by
      show (s.advanceTo _).pins.coldRstN = true ∧ (s.advanceTo _).pins.rstN = true
      rw [State.advanceTo_pins]; exact ⟨hcold, hrst⟩
    have hu : u.held = some true := (State.advanceTo_held s _).trans hheld
    refine .of_eq (t := u.relevel) ?_ ?_
    · show Host.Outcome.next _ = _
      simp only [hmon]
      exact congrArg Host.Outcome.next (if_pos ⟨trivial, hhigh⟩)
    · rw [State.relevel_released (by simp [State.coldCause, hpins.1]; rfl) hu hpins.2]
      exact ⟨rfl, rfl, rfl, rfl⟩

/-- Settles O49, pin by pin, monitor by monitor, and by the self-test's result. -/
theorem resetPins : Obligations.ResetPins := by
  refine ⟨fun s ns hns => ?_, fun s ns hns => coldResetRelease_ends hns, fun s ns hns hcause => (warmReset_parts hns hcause).1,
    fun s ns hns hcause => (warmReset_parts hns hcause).2, fun s rail mv l => (voltageMonitor_parts rail mv l).1,
    fun s rail mv l => (voltageMonitor_parts rail mv l).2, fun s hheld hphase hoos => ⟨?_, fun code h0 h6 => ?_, State.advanceTo_le s _, ?_⟩⟩
  · let u : State := { s with pins := { s.pins with coldRstN := false } }
    refine .of_eq (t := { u.atReset true with held := some true }) ?_ ⟨rfl, rfl, rfl, rfl, rfl, rfl, rfl, ?_, ?_, rfl, rfl⟩
    · show Host.Outcome.next _ = _
      rw [lasts_of_le hns, if_pos rfl, State.relevel_held rfl]
    · unfold State.atReset; simp
    · unfold State.atReset; simp
  · refine ⟨{ s.newChallenge with tarn := { s.newChallenge.tarn with phase := 1 } }, rfl, rfl, ?_⟩
    show Host.Outcome.next _ = _
    rw [hheld, hphase, hoos]
    rfl
  · refine ⟨{ s with tarn := { s.tarn with phase := 6, selftest := code } }, rfl, ?_⟩
    show Host.Outcome.next _ = _
    rw [hheld, hphase, hoos, if_neg (by simp; omega), if_neg h0]
  · show Host.Outcome.next _ = _
    rw [hheld, hphase, hoos, if_neg (by simp)]

end Sys2Proof.Machine
end

section
/-! PROOFS. Entering Freeze and Permafrost, hold-up and waking (15_power_and_supply.md). -/

namespace Sys2Proof.Machine

open Sys2Proof

/-- The receipts and the clean header that go to the persist region touch no table of the topology or the pools. -/
theorem State.persisted_tables (s : State) : (s.persistAll.markHeader true).topo = s.topo ∧ (s.persistAll.markHeader true).pools = s.pools :=
  ⟨by rw [State.markHeader_topo, State.persistAll_topo], by rw [State.markHeader_pools, State.persistAll_pools]⟩

/-- Releasing rings one after another leaves memory, the topology and the pools alone. -/
theorem State.releaseRings_tables (l : List Nat) (reason : Nat) (b : Bool) (s : State) :
    (l.foldl (fun t k => t.releaseRing k reason b) s).mem = s.mem ∧ (l.foldl (fun t k => t.releaseRing k reason b) s).topo = s.topo ∧
    (l.foldl (fun t k => t.releaseRing k reason b) s).pools = s.pools :=
  ⟨(State.releaseRings_parts l reason b s).1, foldl_topo _ _ _ fun t k => State.releaseRing_topo t k reason b,
    foldl_pools _ _ _ fun t k => State.releaseRing_pools t k reason b⟩

/-- Settles O37, with the hold-up that waited and without it. -/
theorem lowPowerEntry : Obligations.LowPowerEntry := by
  intro s htarget hrun hanswered hsent
  let s2 : State := { s.persistAll.markHeader true with ledg := { (s.persistAll.markHeader true).ledg with
    flushDone := true, flushReceipts := s.ledg.buffer.length, flushNs := 0 } }
  let s3 := s2.ringsHeld.foldl (fun t i => t.releaseRing i 6 false) s2
  let s4 := ({ s3 with pwr := { s3.pwr with ret := s.pwr.st, rejoin := s2.ringsUp } } : State).powerDown s.pwr.target
  obtain ⟨hmem, htopo, hpools⟩ := State.releaseRings_tables s2.ringsHeld 6 false s2
  obtain ⟨htopo2, hpools2⟩ := s.persisted_tables
  refine .of_eq (t := if s4.pwr.holdupDue then
    { s4 with pwr := { s4.pwr with holdup := true, holdupDue := false, holdups := satAdd s4.pwr.holdups 1 65535 } } else s4) ?_ ?_
  · have hk : (s.pwr.target != .freeze && s.pwr.target != .permafrost) = false := by rcases htarget with h | h <;> rw [h] <;> rfl
    refine congrArg Host.Outcome.next (if_neg ?_)
    rw [hk, hrun, hanswered, hsent]
    simp
  · split <;> exact ⟨rfl, rfl, rfl, rfl, rfl, hmem, htopo.trans htopo2, hpools.trans hpools2⟩

/-- VX_HOLDUP_N falls in Freeze or Permafrost, or while the block is awake. -/
theorem holdupFall_parts {s : State} {ns : Nat} (hns : 5 ≤ ns) (hpin : s.pins.holdupN = true) (hheld : s.held = none) (hrun : s.loess.halted = false)
    (hflush : s.ledg.flushing = false) :
    (s.resident = false → s.pwr.st ≠ .waking → s.pwr.target = .active → Answers (exec (.holdupFall ns) s) fun t =>
      t.pins.holdupN = false ∧ t.pins.holdupSeen = true ∧ t.pwr.cut = true ∧ t.ledg.flushing = true ∧ t.ledg.flushStart = s.now ∧ t.mem = s.mem ∧ t.cmds = s.cmds) ∧
    (s.resident = true → s.pwr.holdup = false → Answers (exec (.holdupFall ns) s) fun t =>
      t.pins.holdupN = false ∧ t.pins.holdupSeen = true ∧ t.pwr.holdup = true ∧ t.pwr.holdups = satAdd s.pwr.holdups 1 0xFFFF ∧ t.ledg = s.ledg) := by
  let s1 : State := { s with pins := { s.pins with holdupN := false, holdupSeen := true }, pwr := { s.pwr with holdupHigh := none } }
  let s2 := s1.pulse 9
  have hs2 : s2 = { s1 with tarn := s2.tarn } := pulse_eq s1 9
  refine ⟨fun hres hwake htarget => .of_eq (t := s2.holdupBegin) ?_ ?_, fun hres hhold => .of_eq (t := s2.holdupState) ?_ ?_⟩
  · refine congrArg Host.Outcome.next ((if_neg ?_).trans ((if_neg ?_).trans ((if_neg ?_).trans ((if_neg ?_).trans (if_neg ?_)))))
    · simp [lasts_of_le hns, hpin]
    · simp [hheld]
    · simp [hrun, hflush]
    · simp [hres]
    · simp [hwake, htarget]
  · rw [hs2]
    exact ⟨rfl, rfl, rfl, rfl, rfl, rfl, rfl⟩
  · refine congrArg Host.Outcome.next ((if_neg ?_).trans ((if_neg ?_).trans ((if_neg ?_).trans ((if_pos hres).trans (if_neg ?_)))))
    · simp [lasts_of_le hns, hpin]
    · simp [hheld]
    · simp [hrun, hflush]
    · simp [hhold]
  · rw [hs2]
    exact ⟨rfl, rfl, rfl, rfl, rfl⟩

/-- The flush of a hold-up ends in Freeze in hold-up. -/
theorem ledgerFlushDone_freezes {s : State} (hflush : s.ledg.flushing = true) (hawake : s.awake = true) (hrun : s.loess.halted = false)
    (hbrown : s.pwr.brownout = false) :
    Answers (exec .ledgerFlushDone s) fun t => t.pwr.st = .freeze ∧ t.pwr.target = .active ∧ t.pwr.ret = s.pwr.st ∧ t.pwr.holdup = true ∧
      t.pwr.goodHold = false ∧ t.pins.vddSel = 1 ∧ t.pins.retEn = false ∧ (s.ledgerLost = true → t.mem = s.mem) ∧
      (s.ledgerLost = false → t.mem = (s.persistAll.markHeader true).mem) := by
  let s1 := if s.ledgerLost then s else s.persistAll.markHeader true
  let s2 : State := { s1 with ledg := { s1.ledg with
    flushing := false, flushDone := true, flushReceipts := s.ledg.buffer.length, flushNs := (s.now - s.ledg.flushStart) % 2 ^ 32 } }
  have hmem : s2.leaveRings.mem = s1.mem := State.leaveRings_mem s2
  refine .of_eq (t := (({ s2.leaveRings with pwr := { s2.leaveRings.pwr with ret := s.pwr.st, goodHold := false } } : State).powerDown .freeze).holdupState) ?_
    ⟨rfl, rfl, rfl, rfl, rfl, rfl, rfl, fun hlost => hmem.trans ?_, fun hlost => hmem.trans ?_⟩
  · show Host.Outcome.next _ = _
    rw [hflush, hawake, hrun, hbrown, if_neg (by simp)]
  · show (if s.ledgerLost then s else s.persistAll.markHeader true).mem = _
    rw [if_pos hlost]
  · show (if s.ledgerLost then s else s.persistAll.markHeader true).mem = _
    rw [if_neg (by simp [hlost])]

/-- A wake of a block in Freeze or Permafrost that is not in hold-up. -/
theorem State.startWake_eq {s : State} (src : WakeSrc) (hres : s.resident = true) (hhold : s.pwr.holdup = false) :
    s.startWake src = ({ s.pulse (wakeSource src) with pwr := { (s.pulse (wakeSource src)).pwr with wakeLatch := some src } } : State).beginWake := by
  unfold State.startWake
  rw [hres, hhold]
  rfl

/-- Settles O47, event by event. -/
theorem holdupAndWake : Obligations.HoldupAndWake := by
  refine ⟨fun s ns hns hpin hheld hrun hflush => holdupFall_parts hns hpin hheld hrun hflush, fun s ns hns hpin => ?_,
    fun s t0 hhigh hhold hres hpin hheld => ?_, fun s hflush hawake hrun hbrown => ledgerFlushDone_freezes hflush hawake hrun hbrown,
    fun s hres hhold => ⟨fun src hsrc => ?_, fun hat => ?_⟩⟩
  · show Host.Outcome.next _ = _
    rw [lasts_of_le hns, hpin]
    rfl
  · refine .of_eq ?_ (wake_parts (s.advanceTo (t0 + 10000000)) (t0 + 10000000) (State.advanceTo_le s _))
    show Host.Outcome.next _ = _
    simp only [hhigh]
    rw [hhold, hres, hpin, hheld, if_neg (by simp)]
  · refine .of_eq (t := s.startWake src) ?_ ?_
    · cases src with
      | timer => exact absurd rfl hsrc
      | _ => rfl
    · rw [State.startWake_eq src hres hhold, pulse_eq]
      exact ⟨rfl, rfl, rfl, rfl, rfl, rfl, rfl, rfl, rfl⟩
  · let u := s.advanceTo s.pwr.wakeAt
    have hpwr : u.pwr = { s.pwr with heldNs := u.pwr.heldNs, pacedNs := u.pwr.pacedNs } := State.advanceTo_pwr s _
    have hures : u.resident = true := by
      rw [State.resident, hpwr]; exact hres
    have huhold : u.pwr.holdup = false := by rw [hpwr]; exact hhold
    refine .of_eq (t := u.startWake .timer) ?_ ?_
    · show Host.Outcome.next _ = _
      simp only [hres, hhold, hat, decide_false, Bool.not_true, Bool.or_self, Bool.false_eq_true, if_false]
      rfl
    · rw [State.startWake_eq .timer hures huhold, pulse_eq]
      exact ⟨State.advanceTo_le s _, rfl, rfl, rfl⟩

end Sys2Proof.Machine
end

section
/-! PROOFS. The DOE mailbox, SPDM, measurements and tenant records (02_edges.md, Host port; 11_protection.md). -/

namespace Sys2Proof.Machine

open Sys2Proof

/-- A pulse of an interrupt source changes no measurement. -/
theorem State.measurement_pulse (s : State) (n f i : Nat) : (s.pulse n).measurement f i = s.measurement f i := by
  unfold State.pulse
  dsimp only
  split <;> rfl

/-- An object arrives at a mailbox of a block that can be configured. -/
theorem exec_doeObject {s : State} {fn : Nat} {d : Blob} (hfn : fn < 4096) (hcfg : s.configurable = true) (hrun : s.loess.halted = false)
    (h0 : 0 < d.length) (h1 : d.length ≤ 65536) : exec (.doeObject fn d) s = .next (
      if (s.box fn).inObj.isSome then s.updBox fn fun x => { x with busy := true }
      else if isDiscovery d then (s.pulse 33).doeAnswer fn (discoveryAnswer d)
      else (s.updBox fn fun x => { x with inObj := some d, outObj := none }).pulse 33) := by
  show Host.Outcome.next _ = _
  rw [State.config_ok hcfg, if_neg (by simp [nonempty h0, hrun]; omega)]

/-- The mailbox while no message is taken from it. -/
theorem mailbox_objects {s : State} {fn : Nat} (hfn : fn < 4096) (hcfg : s.configurable = true) (hrun : s.loess.halted = false) :
    (∀ d : Blob, 0 < d.length → d.length ≤ 65536 → (s.box fn).inObj = none →
      (isDiscovery d = false → Answers (exec (.doeObject fn d) s) fun t =>
        t.box fn = { s.box fn with inObj := some d, outObj := none } ∧ (t.ticSrc 33).pending = true) ∧
      (isDiscovery d = true → Answers (exec (.doeObject fn d) s) fun t =>
        t.box fn = { s.box fn with inObj := none, outObj := some (discoveryAnswer d), busy := false } ∧
        t.ports.host = s.ports.host ++ [.doe fn (discoveryAnswer d)])) ∧
    (∀ d : Blob, 0 < d.length → d.length ≤ 65536 → (s.box fn).inObj.isSome = true → Answers (exec (.doeObject fn d) s) fun t =>
      t.box fn = { s.box fn with busy := true } ∧ t.mem = s.mem) ∧
    (Answers (exec (.doeAbort fn) s) fun t =>
      t.box fn = { s.box fn with inObj := none, outObj := none, busy := false } ∧ (t.ticSrc 34).pending = true) := by
  refine ⟨fun d h0 h1 hempty => ⟨fun hd => ?_, fun hd => ?_⟩, fun d h0 h1 hheld => ?_, ?_⟩
  · refine .of_eq (exec_doeObject hfn hcfg hrun h0 h1) ?_
    rw [hempty, hd]
    exact ⟨by rw [if_neg (by simp), if_neg (by simp), box_pulse, box_updBox], ticSrc_pulse _ 33⟩
  · refine .of_eq (exec_doeObject hfn hcfg hrun h0 h1) ?_
    rw [hempty, hd, if_neg (by simp), if_pos rfl, box_doeAnswer, box_pulse, pulse_eq]
    exact ⟨rfl, rfl⟩
  · refine .of_eq (exec_doeObject hfn hcfg hrun h0 h1) ?_
    rw [hheld, if_pos rfl, box_updBox]
    exact ⟨rfl, rfl⟩
  · refine .of_eq (t := (s.updBox fn fun x => { x with inObj := none, outObj := none, busy := false }).pulse 34) ?_
      ⟨by rw [box_pulse, box_updBox], ticSrc_pulse _ 34⟩
    show Host.Outcome.next _ = _
    rw [State.config_ok hcfg, if_neg (by simp [hrun]; omega)]

/-- An SPDM message that Tarn takes from a mailbox. -/
theorem exec_spdmMessage {s : State} {fn : Nat} (m : SpdmMsg) (h : s.doeHeld fn = true) :
    exec (.spdmMessage fn m) s = .next ((s.pulse 35).spdmAnswer fn m) := by
  show Host.Outcome.next _ = _
  rw [if_pos h]

/-- GET_MEASUREMENTS before the connection is agreed. -/
theorem getMeasurements_early {s : State} {fn : Nat} (i : Nat) (signed : Bool) (h : s.doeHeld fn = true) (hconn : (s.box fn).conn < 3) :
    exec (.getMeasurements fn i signed) s = .next ((s.pulse 35).doeAnswer fn (spdmError 0x04 0)) := by
  show Host.Outcome.next _ = _
  rw [h, if_neg (by simp), State.agreed, if_neg (by rw [box_pulse]; omega)]

/-- GET_MEASUREMENTS of one index. -/
theorem getMeasurements_one {s : State} {fn i : Nat} {b : Blob} (signed : Bool) (h : s.doeHeld fn = true) (hconn : 3 ≤ (s.box fn).conn) (h0 : i ≠ 0)
    (hall : i ≠ 0xFF) (hb : s.measurement fn i = some b) : exec (.getMeasurements fn i signed) s = .next (
      if signed then (s.pulse 35).signedAnswer fn 0x60 0 0 (leBytes 1 1 ++ leBytes 3 b.length ++ b)
      else (s.pulse 35).doeAnswer fn (spdm 0x60 0 0 (leBytes 1 1 ++ leBytes 3 b.length ++ b))) := by
  have hblocks : (s.pulse 35).measBlocks fn i = some [b] := by
    rw [State.measBlocks, if_neg h0, if_neg hall, State.measurement_pulse, hb]; rfl
  show Host.Outcome.next _ = _
  rw [h, if_neg (by simp), State.agreed, if_pos (by rw [box_pulse]; exact hconn)]
  simp [hblocks, h0]

/-- Settles O45, object by object and message by message. -/
theorem mailboxCommands : Obligations.MailboxCommands := by
  intro s fn hfn
  refine ⟨fun hcfg hrun => mailbox_objects hfn hcfg hrun, fun h => ⟨fun m => exec_spdmMessage m h, ?_, fun code => ?_, fun i signed hconn => ?_,
    fun i b l hconn h0 hall hb hl => ?_, fun i b hconn h0 hall hb => ?_⟩⟩
  · refine .of_eq (exec_spdmMessage _ h) ?_
    unfold State.spdmAnswer
    dsimp only
    rw [if_pos rfl, box_doeAnswer, box_updBox]
    exact ⟨rfl, rfl⟩
  · refine .of_eq (exec_spdmMessage _ h) ?_
    unfold State.spdmAnswer
    dsimp only
    rw [box_doeAnswer, box_pulse]
  · refine .of_eq (getMeasurements_early i signed h hconn) ?_
    rw [box_doeAnswer, box_pulse]
  · refine .of_eq (getMeasurements_one false h hconn h0 hall hb) ?_
    rw [if_neg (by simp), box_doeAnswer, box_pulse, hl]
  · refine .of_eq (getMeasurements_one true h hconn h0 hall hb) ?_
    rw [if_pos rfl, State.signedAnswer, box_doeAnswer, pulse_eq]
    exact ⟨rfl, _, rfl, rfl⟩

/-- A pulse leaves the checks of a vendor command as they are. -/
theorem vendor_pulse (s : State) (n f : Nat) : (∀ ses p l a, (s.pulse n).vendorGate f ses p l a = s.vendorGate f ses p l a) ∧
    (∀ k who, (s.pulse n).keyGate f k who = s.keyGate f k who) ∧ (∀ k, (s.pulse n).keyMine f k = s.keyMine f k) ∧
    (∀ who, (s.pulse n).migBound f who = s.migBound f who) ∧ (∀ k, (s.pulse n).key k = s.key k) ∧ (s.pulse n).kao = s.kao := by
  rw [pulse_eq]
  exact ⟨fun _ _ _ _ => rfl, fun _ _ => rfl, fun _ => rfl, fun _ => rfl, fun _ => rfl, rfl⟩

/-- The answer of a vendor command leaves the records alone. -/
theorem vendorAnswer_records (t : State) (f : Nat) (ses : Option Nat) (r : Nat) (b : Blob) :
    (t.vendorAnswer f ses r b).kao.slots = t.kao.slots ∧ (t.vendorAnswer f ses r b).kao.migs = t.kao.migs ∧
    (∀ k, (t.vendorAnswer f ses r b).key k = t.key k) ∧ (t.vendorAnswer f ses r b).mem = t.mem := by
  rw [vendorAnswer_eq]
  exact ⟨rfl, rfl, fun _ => rfl, rfl⟩

theorem vendorAnswer_key (t : State) (f : Nat) (ses : Option Nat) (r : Nat) (b : Blob) (k : Nat) : (t.vendorAnswer f ses r b).key k = t.key k :=
  (vendorAnswer_records t f ses r b).2.2.1 k

theorem vendorAnswer_migs (t : State) (f : Nat) (ses : Option Nat) (r : Nat) (b : Blob) : (t.vendorAnswer f ses r b).kao.migs = t.kao.migs :=
  (vendorAnswer_records t f ses r b).2.1

/-- The mailbox of function `f` after a vendor command is answered in `u`, which `s` led to. -/
theorem vendorAnswer_box {s u : State} (f : Nat) (ses : Option Nat) (r : Nat) (b : Blob) (h : u.kao.boxes = s.kao.boxes ∧ u.kao.sessions = s.kao.sessions) :
    (u.vendorAnswer f ses r b).box f = { s.box f with inObj := none, outObj := some (match ses.bind fun n => s.session f n with
      | some x => x.record (ses.getD 0) (vendorMessage r b) | none => vendorMessage r b), busy := false } := by
  obtain ⟨hboxes, hsessions⟩ := h
  exact box_vendorAnswer s u f ses r b (by rw [State.box, hboxes]; rfl) hsessions

/-- A vendor command that is refused changes no record. -/
theorem vendor_refused (s : State) (f : Nat) (ses : Option Nat) (e : Nat) : ((s.pulse 35).vendorAnswer f ses e []).kao.slots = s.kao.slots ∧
    ((s.pulse 35).vendorAnswer f ses e []).kao.migs = s.kao.migs := by
  obtain ⟨hslots, hmigs, -, -⟩ := vendorAnswer_records (s.pulse 35) f ses e []
  obtain ⟨-, -, -, -, -, hkao⟩ := vendor_pulse s 35 f
  exact ⟨hslots.trans (congrArg (·.slots) hkao), hmigs.trans (congrArg (·.migs) hkao)⟩

section
variable {s : State} {fn : Nat} (ses : Option Nat) (p : Blob)

/-- The five vendor commands that the gate refuses. -/
theorem vendor_gateRefuses (h : s.doeHeld fn = true) :
    (∀ e, s.vendorGate fn ses p 34 true = .error e → exec (.keyPut fn ses p) s = .next ((s.pulse 35).vendorAnswer fn ses e [])) ∧
    (∀ e, s.vendorGate fn ses p 2 true = .error e → exec (.keyClear fn ses p) s = .next ((s.pulse 35).vendorAnswer fn ses e [])) ∧
    (∀ e, s.vendorGate fn ses p 2 false = .error e → exec (.keyInfo fn ses p) s = .next ((s.pulse 35).vendorAnswer fn ses e [])) ∧
    (∀ e, s.vendorGate fn ses p 32 true = .error e → exec (.migPut fn ses p) s = .next ((s.pulse 35).vendorAnswer fn ses e [])) ∧
    (∀ e, s.vendorGate fn ses p 0 true = .error e → exec (.migClear fn ses p) s = .next ((s.pulse 35).vendorAnswer fn ses e [])) := by
  obtain ⟨hgate, -, -, -, -, -⟩ := vendor_pulse s 35 fn
  refine ⟨fun e hg => ?_, fun e hg => ?_, fun e hg => ?_, fun e hg => ?_, fun e hg => ?_⟩ <;>
  · show Host.Outcome.next _ = _
    simp only [h, hgate, hg, Bool.not_true, Bool.false_eq_true, if_false]

/-- KEY_PUT and KEY_CLEAR through the gate of the session. -/
theorem keyChange_gated {who : Blob} (h : s.doeHeld fn = true) :
    (s.vendorGate fn ses p 34 true = .ok who → exec (.keyPut fn ses p) s = .next (match s.keyGate fn (fld p 0 2) who with
      | some e => (s.pulse 35).vendorAnswer fn ses e []
      | none => ((s.pulse 35).updKey (fld p 0 2) fun x => { x with tenant := some { root := fld p 2 32, binder := who } }).vendorAnswer fn ses 0
          (leBytes 1 (b2n (s.key (fld p 0 2)).tenant.isNone)))) ∧
    (s.vendorGate fn ses p 2 true = .ok who → exec (.keyClear fn ses p) s = .next (match s.keyGate fn (fld p 0 2) who with
      | some e => (s.pulse 35).vendorAnswer fn ses e []
      | none => ((s.pulse 35).updKey (fld p 0 2) fun x => { x with tenant := none }).vendorAnswer fn ses 0 [])) := by
  obtain ⟨hgate, hkey, -, -, hslot, -⟩ := vendor_pulse s 35 fn
  refine ⟨fun hg => ?_, fun hg => ?_⟩ <;>
  · show Host.Outcome.next _ = _
    simp only [h, hgate, hg, hkey, hslot, Bool.not_true, Bool.false_eq_true, if_false] <;> cases s.keyGate fn (fld p 0 2) who <;> rfl

/-- KEY_INFO of a slot that the function owns. -/
theorem keyInfo_shows {who : Blob} (h : s.doeHeld fn = true) (hg : s.vendorGate fn ses p 2 false = .ok who) (hmine : s.keyMine fn (fld p 0 2) = true) :
    exec (.keyInfo fn ses p) s = .next (match (s.key (fld p 0 2)).tenant with
      | some x => (s.pulse 35).vendorAnswer fn ses 0 (leBytes 1 1 ++ padTo 48 x.binder)
      | none => (s.pulse 35).vendorAnswer fn ses 0 (leBytes 1 0 ++ zeros 48)) := by
  obtain ⟨hgate, -, hkey, -, hslot, -⟩ := vendor_pulse s 35 fn
  show Host.Outcome.next _ = _
  simp only [h, hgate, hg, hkey, hmine, hslot, Bool.not_true, Bool.false_eq_true, if_false] <;> cases (s.key (fld p 0 2)).tenant <;> rfl

/-- MIG_PUT and MIG_CLEAR of a function whose record no other requester holds. -/
theorem migChange_gated {who : Blob} (h : s.doeHeld fn = true) (hfree : s.migBound fn who = false) :
    (s.vendorGate fn ses p 32 true = .ok who → exec (.migPut fn ses p) s = .next (({ s.pulse 35 with kao := { (s.pulse 35).kao with
      migs := tset (s.pulse 35).kao.migs fn { key := leVal p, binder := who } } } : State).vendorAnswer fn ses 0 [])) ∧
    (s.vendorGate fn ses p 0 true = .ok who → exec (.migClear fn ses p) s = .next (({ s.pulse 35 with kao := { (s.pulse 35).kao with
      migs := tdel (s.pulse 35).kao.migs fn } } : State).vendorAnswer fn ses 0 [])) := by
  obtain ⟨hgate, -, -, hbound, -, -⟩ := vendor_pulse s 35 fn
  refine ⟨fun hg => ?_, fun hg => ?_⟩ <;>
  · show Host.Outcome.next _ = _
    simp only [h, hgate, hg, hbound, hfree, Bool.not_true, Bool.false_eq_true, if_false]
end

/-- Settles O46, command by command: through the gate of the session, and refused. -/
theorem tenantRecords : Obligations.TenantRecords := by
  intro s fn ses p h
  obtain ⟨-, -, -, -, hslot, hkao⟩ := vendor_pulse s 35 fn
  have hsame : (s.pulse 35).kao.boxes = s.kao.boxes ∧ (s.pulse 35).kao.sessions = s.kao.sessions := ⟨congrArg (·.boxes) hkao, congrArg (·.sessions) hkao⟩
  obtain ⟨hputRef, hclearRef, hinfoRef, hmigPutRef, hmigClearRef⟩ := vendor_gateRefuses ses p h
  refine ⟨_, rfl, fun who hg hk => ?_, fun who hg hk => ?_, fun who x hg hmine hx => ?_, fun who hg hmine hx => ?_, fun who hg hfree => ?_, fun who hg hfree => ?_,
    fun e hg => .of_eq (hputRef e hg) ⟨(vendor_refused s fn ses e).1, vendorAnswer_box fn ses e [] hsame⟩,
    fun e hg => .of_eq (hclearRef e hg) ⟨(vendor_refused s fn ses e).1, vendorAnswer_box fn ses e [] hsame⟩,
    fun e hg => .of_eq (hinfoRef e hg) ⟨(vendor_refused s fn ses e).1, vendorAnswer_box fn ses e [] hsame⟩,
    fun e hg => .of_eq (hmigPutRef e hg) ⟨(vendor_refused s fn ses e).2, vendorAnswer_box fn ses e [] hsame⟩,
    fun e hg => .of_eq (hmigClearRef e hg) ⟨(vendor_refused s fn ses e).2, vendorAnswer_box fn ses e [] hsame⟩,
    fun who e hg hk => .of_eq ((keyChange_gated ses p h).1 hg) ?_, fun who e hg hk => .of_eq ((keyChange_gated ses p h).2 hg) ?_⟩
  · refine .of_eq ((keyChange_gated ses p h).1 hg) ?_
    rw [hk]
    obtain ⟨-, -, hkey, hmem⟩ := vendorAnswer_records ((s.pulse 35).updKey (fld p 0 2) fun x => { x with tenant := some { root := fld p 2 32, binder := who } })
      fn ses 0 (leBytes 1 (b2n (s.key (fld p 0 2)).tenant.isNone))
    exact ⟨by rw [hkey, key_updKey, hslot], vendorAnswer_box fn ses 0 _ hsame, hmem.trans (State.pulse_mem s 35)⟩
  · refine .of_eq ((keyChange_gated ses p h).2 hg) ?_
    rw [hk]
    obtain ⟨-, -, hkey, hmem⟩ := vendorAnswer_records ((s.pulse 35).updKey (fld p 0 2) fun x => { x with tenant := none }) fn ses 0 []
    exact ⟨by rw [hkey, key_updKey, hslot], vendorAnswer_box fn ses 0 _ hsame, hmem.trans (State.pulse_mem s 35)⟩
  · refine .of_eq (keyInfo_shows ses p h hg hmine) ?_
    rw [hx]
    exact ⟨(vendorAnswer_key _ _ _ _ _ _).trans (hslot _), vendorAnswer_box fn ses 0 _ hsame⟩
  · refine .of_eq (keyInfo_shows ses p h hg hmine) ?_
    rw [hx]
    exact ⟨(vendorAnswer_key _ _ _ _ _ _).trans (hslot _), vendorAnswer_box fn ses 0 _ hsame⟩
  · refine .of_eq ((migChange_gated ses p h hfree).1 hg) ⟨?_, vendorAnswer_box fn ses 0 _ hsame⟩
    rw [vendorAnswer_migs, hkao]
  · refine .of_eq ((migChange_gated ses p h hfree).2 hg) ⟨?_, vendorAnswer_box fn ses 0 _ hsame⟩
    rw [vendorAnswer_migs, hkao]
  · rw [hk]
    exact ⟨(vendor_refused s fn ses e).1, vendorAnswer_box fn ses e [] hsame⟩
  · rw [hk]
    exact ⟨(vendor_refused s fn ses e).1, vendorAnswer_box fn ses e [] hsame⟩

end Sys2Proof.Machine
end

section
/-! PROOFS. Requests and answers of other nodes (14_links.md, Routing and remote requests; 14_links.md, Messages). -/

namespace Sys2Proof.Machine

open Sys2Proof

/-- READ_REQ for this node: answered by the status of its check. -/
theorem readReq_answers {s : State} {link : Nat} {m : FloeMsg} (ecc : Ecc) {n : Nat} {q : MemReq} (hup : s.linkUpNow link = true) (hdst : m.dst = s.nodeId)
    (hok : msgOk m 0x01 = true) (hn : n = leVal m.body) (hq : q = s.remoteReq m n) :
    (s.remoteStatus q ecc = .success → exec (.readReq link m ecc) s = .next ((s.portRead q n).2.answerMsg m 0x11 0 (s.portRead q n).1)) ∧
    (s.remoteStatus q ecc = .frameKeyDenied → exec (.readReq link m ecc) s = .next ((s.fktDeny q).answerMsg m 0x11 0x4004 [])) ∧
    (s.remoteStatus q ecc = .memoryUncorrectable → exec (.readReq link m ecc) s = .next (s.answerMsg m 0x11 0x4005 [])) ∧
    (s.remoteStatus q ecc = .integrityUnverifiable → exec (.readReq link m ecc) s = .next (s.answerMsg m 0x11 0x6002 [])) := by
  subst hq hn
  refine ⟨fun hst => ?_, fun hst => ?_, fun hst => ?_, fun hst => ?_⟩ <;>
  · show Host.Outcome.next _ = _
    simp only [arrived_own hup hdst hok, hst, Status.code]

/-- WRITE_REQ for this node: answered by the status of its check. -/
theorem writeReq_answers {s : State} {link : Nat} {m : FloeMsg} (ecc : Ecc) {q : MemReq} (hup : s.linkUpNow link = true) (hdst : m.dst = s.nodeId)
    (hok : msgOk m 0x02 = true) (hq : q = s.remoteReq m m.body.length) :
    (s.remoteStatus q ecc = .success → exec (.writeReq link m ecc) s = .next ((s.portWrite q m.body).answerMsg m 0x12 0 [])) ∧
    (s.remoteStatus q ecc = .frameKeyDenied → exec (.writeReq link m ecc) s = .next ((s.fktDeny q).answerMsg m 0x12 0x4004 [])) ∧
    (s.remoteStatus q ecc = .memoryUncorrectable → exec (.writeReq link m ecc) s = .next (s.answerMsg m 0x12 0x4005 [])) ∧
    (s.remoteStatus q ecc = .integrityUnverifiable → exec (.writeReq link m ecc) s = .next (s.answerMsg m 0x12 0x6002 [])) := by
  subst hq
  refine ⟨fun hst => ?_, fun hst => ?_, fun hst => ?_, fun hst => ?_⟩ <;>
  · show Host.Outcome.next _ = _
    simp only [arrived_own hup hdst hok, hst, Status.code]

/-- A response that an outstanding request waits for. -/
theorem State.remoteAnswer_expected {s : State} {m : FloeMsg} {x : Remote} {w : Bool} (hx : tget? s.floe.remotes m.tag = some x) (hhold : x.hold = false)
    (hsrc : x.q.node = m.src) (hw : x.q.write.isSome = w) : s.remoteAnswer m w =
      let s1 : State := { s with floe := { s.floe with remotes := tdel s.floe.remotes m.tag } }
      if m.status ≠ 0 then (s1.endWork x.q (remoteEnd m.status)).remoteMoved x.q
      else
        (match x.q.cmd, w with
          | some r, false => s1.modCmd r fun c => { c with
              remoteData := c.remoteData ++ [(dpaOf x.q.key x.q.node x.q.tier x.q.offset, padTo x.q.len m.body)] }
          | _, _ => s1).remoteMoved x.q := by
  unfold State.remoteAnswer
  simp only [hx]
  rw [if_neg (by simp [hhold, hw, hsrc])] <;> rfl

/-- The responses to a request that is outstanding. -/
theorem responses_expected {s : State} {link : Nat} {m : FloeMsg} {x : Remote} (hup : s.linkUpNow link = true) (hdst : m.dst = s.nodeId)
    (hx : tget? s.floe.remotes m.tag = some x) (hhold : x.hold = false) (hsrc : x.q.node = m.src) :
    (msgOk m 0x11 = true → x.q.write = none → m.status = 0 → ∀ r, x.q.cmd = some r → ∃ u : State,
      exec (.readResp link m) s = .next (u.remoteMoved x.q) ∧ u.floe = { s.floe with remotes := tdel s.floe.remotes m.tag } ∧
      ∀ c, tget? s.cmds r = some c → u.cmdHas r fun y =>
        y.remoteData = c.remoteData ++ [(dpaOf x.q.key x.q.node x.q.tier x.q.offset, padTo x.q.len m.body)]) ∧
    (msgOk m 0x12 = true → x.q.write.isSome = true → m.status = 0 →
      exec (.writeAck link m) s = .next (({ s with floe := { s.floe with remotes := tdel s.floe.remotes m.tag } } : State).remoteMoved x.q)) ∧
    (msgOk m 0x12 = true → x.q.write.isSome = true → m.status ≠ 0 → exec (.writeAck link m) s =
      .next ((({ s with floe := { s.floe with remotes := tdel s.floe.remotes m.tag } } : State).endWork x.q (remoteEnd m.status)).remoteMoved x.q)) ∧
    (msgOk m 0x11 = true → x.q.write = none → m.status ≠ 0 → exec (.readResp link m) s =
      .next ((({ s with floe := { s.floe with remotes := tdel s.floe.remotes m.tag } } : State).endWork x.q (remoteEnd m.status)).remoteMoved x.q)) := by
  refine ⟨fun hok hread hst r hr => ?_, fun hok hwrite hst => ?_, fun hok hwrite hst => ?_, fun hok hread hst => ?_⟩
  · refine ⟨({ s with floe := { s.floe with remotes := tdel s.floe.remotes m.tag } } : State).modCmd r fun c => { c with
        remoteData := c.remoteData ++ [(dpaOf x.q.key x.q.node x.q.tier x.q.offset, padTo x.q.len m.body)] }, ?_, rfl, fun c hc => State.modCmd_cmdHas hc rfl⟩
    show Host.Outcome.next _ = _
    rw [arrived_own hup hdst hok, State.remoteAnswer_expected hx hhold hsrc (by rw [hread]; rfl)]
    simp only [hst, hr]
    rfl
  · show Host.Outcome.next _ = _
    rw [arrived_own hup hdst hok, State.remoteAnswer_expected hx hhold hsrc hwrite]
    simp only [hst]
    cases x.q.cmd <;> rfl
  · show Host.Outcome.next _ = _
    rw [arrived_own hup hdst hok, State.remoteAnswer_expected hx hhold hsrc hwrite]
    exact congrArg Host.Outcome.next (if_pos hst)
  · show Host.Outcome.next _ = _
    rw [arrived_own hup hdst hok, State.remoteAnswer_expected (w := false) hx hhold hsrc (by rw [hread]; rfl)]
    exact congrArg Host.Outcome.next (if_pos hst)

/-- A response that no request waits for. -/
theorem State.remoteAnswer_stale {s : State} {m : FloeMsg} (w : Bool) (h : tget? s.floe.remotes m.tag = none) : s.remoteAnswer m w = s.floeStale := by
  unfold State.remoteAnswer
  rw [h]

/-- A peer's answer to a repair that asked it. -/
theorem peerResp_asked {s : State} {link : Nat} {m : FloeMsg} {p : Repair} (hup : s.linkUpNow link = true) (hdst : m.dst = s.nodeId)
    (hok : msgOk m 0x13 = true) (hp : s.firn.repairs.find? (fun p => p.tag == m.tag && p.asked.any fun a => a.1 == m.src) = some p) :
    exec (.peerResp link m) s = .next (if m.status = 0 then (s.gotUnit p m.body false).pumpRemotes
      else ((s.modRepair p.id fun y => { y with asked := none }).askNext { p with asked := none }).pumpRemotes) := by
  have hfind : (s.firn.repairs.find? fun p => p.tag == m.tag && (match p.asked with | some a => a.1 == m.src | none => false)) = some p := by
    rw [← hp]
    congr 1
    funext y
    cases y.asked <;> rfl
  show Host.Outcome.next _ = _
  rw [arrived_own hup hdst hok]
  split
  · next h => exact nomatch h.symm.trans hfind
  · next q h => cases h.symm.trans hfind; rfl

/-- Settles O42, message by message. -/
theorem remoteMessages : Obligations.RemoteMessages := by
  intro s link m hup hdst
  refine ⟨fun ecc hok => ⟨_, _, rfl, rfl, readReq_answers ecc hup hdst hok rfl rfl⟩, fun ecc hok => ⟨_, rfl, writeReq_answers ecc hup hdst hok rfl⟩,
    fun hok => ⟨_, rfl, ?_⟩, fun x hx hhold hsrc => responses_expected hup hdst hx hhold hsrc, fun hnone => ⟨fun hok => ?_, fun hok => ?_⟩,
    fun p hp hok => ⟨fun hst => ?_, fun hst => ?_⟩⟩
  · show Host.Outcome.next _ = _
    rw [arrived_own hup hdst hok]
    cases s.heldUnit (m.body.take 48) (fld m.body 48 4) (fld m.body 52 4) (fld m.body 56 1) <;> rfl
  · refine .of_eq (t := s.floeStale) ?_ ⟨rfl, rfl⟩
    show Host.Outcome.next _ = _
    rw [arrived_own hup hdst hok, State.remoteAnswer_stale false hnone]
  · refine .of_eq (t := s.floeStale) ?_ ⟨rfl, rfl⟩
    show Host.Outcome.next _ = _
    rw [arrived_own hup hdst hok, State.remoteAnswer_stale true hnone]
  · rw [peerResp_asked hup hdst hok hp, if_pos hst]
  · rw [peerResp_asked hup hdst hok hp, if_neg hst]

end Sys2Proof.Machine
end

section
/-! PROOFS. Frames and the states of a link (14_links.md, Frames; 14_links.md, Link states and the bypass). -/

namespace Sys2Proof.Machine

open Sys2Proof

/-- Bytes padded to their own number. -/
theorem padTo_self {n : Nat} {b : Blob} (h : b.length = n) : padTo n b = b := by
  unfold padTo slice
  simp [← h]

/-- A frame whose check fails, at a link that is up. -/
theorem frameReceive_bad {s : State} {n : Nat} {f : Blob} (hup : s.linkUpNow n = true)
    (hbad : f.length ≠ 256 ∨ crc64 ((padTo 256 f).take 248) ≠ fld (padTo 256 f) 248 8) :
    exec (.frameReceive n f) s = .next (
      if fld (padTo 256 f) 0 1 = 1 then (s.updLink n fun l => { l with crc := satAdd l.crc 1 0xFFFFFFFF }).nakOnce n
      else s.updLink n fun l => { l with crc := satAdd l.crc 1 0xFFFFFFFF }) := by
  show Host.Outcome.next _ = _
  rw [hup, if_neg (by simp), if_pos hbad]

/-- A frame whose check holds, of a type that a frame can have. -/
theorem frameReceive_good {s u : State} {n : Nat} {f : Blob} (hup : s.linkUpNow n = true) (hlen : f.length = 256) (hcrc : crc64 (f.take 248) = fld f 248 8)
    (htype : ¬ 2 < fld f 0 1) (hu : u = (s.updLink n fun l => l.takeHead s.now f).progress (floeEngine n)) :
    exec (.frameReceive n f) s = .next (
      if fld f 0 1 = 2 then (u.resend n).pump n
      else if fld f 0 1 = 0 then u.pump n
      else if fld f 1 1 % 4 = 3 ∨ fld f 2 2 ≠ (u.link n).rxSeq then (u.nakOnce n).pump n
      else ((u.takeData n f).pump n).ackFrame n u.ports.frames.length) := by
  subst hu
  have hpad := padTo_self hlen
  show Host.Outcome.next _ = _
  simp only [hpad]
  rw [hup, if_neg (by simp), if_neg (by simp [hlen, hcrc]), if_neg htype]

/-- What a link that is up does with frames, a late acknowledgement and the loss of its signal. -/
theorem link_up {s : State} {n : Nat} (hup : s.linkUpNow n = true) :
    (∀ f : Blob, (f.length ≠ 256 ∨ crc64 ((padTo 256 f).take 248) ≠ fld (padTo 256 f) 248 8) → ∃ u : State,
      (fld (padTo 256 f) 0 1 = 1 → exec (.frameReceive n f) s = .next (u.nakOnce n)) ∧
      (fld (padTo 256 f) 0 1 ≠ 1 → exec (.frameReceive n f) s = .next u) ∧ (u.link n).crc = satAdd (s.link n).crc 1 0xFFFFFFFF ∧
      (u.link n).rxSeq = (s.link n).rxSeq ∧ (u.link n).rx = (s.link n).rx ∧ u.mem = s.mem) ∧
    (∀ (f : Blob) u, f.length = 256 → crc64 (f.take 248) = fld f 248 8 → u = (s.updLink n fun l => l.takeHead s.now f).progress (floeEngine n) →
      (fld f 0 1 = 0 → exec (.frameReceive n f) s = .next (u.pump n)) ∧
      (fld f 0 1 = 2 → exec (.frameReceive n f) s = .next ((u.resend n).pump n)) ∧
      (fld f 0 1 = 1 → fld f 1 1 % 4 ≠ 3 → fld f 2 2 = (u.link n).rxSeq → exec (.frameReceive n f) s =
        .next (((u.takeData n f).pump n).ackFrame n u.ports.frames.length)) ∧
      (fld f 0 1 = 1 → (fld f 1 1 % 4 = 3 ∨ fld f 2 2 ≠ (u.link n).rxSeq) →
        exec (.frameReceive n f) s = .next ((u.nakOnce n).pump n))) ∧
    ((s.link n).retry ≠ [] → (s.link n).ackTime + 10000 ≤ (s.advanceTo ((s.link n).ackTime + 10000)).now ∧
      exec (.ackTimeout n) s = .next ((s.advanceTo ((s.link n).ackTime + 10000)).resend n)) ∧
    (exec (.linkSignalLost n) s = .next (s.retrain n 1 true)) := by
  obtain ⟨hruns, hst⟩ := linkUpNow_parts hup
  refine ⟨fun f hbad => ?_, fun f u hlen hcrc hu => ⟨fun ht => ?_, fun ht => ?_, fun ht hstream hseq => ?_, fun ht hseq => ?_⟩,
    fun hretry => ⟨State.advanceTo_le s _, ?_⟩, ?_⟩
  · refine ⟨s.updLink n fun l => { l with crc := satAdd l.crc 1 0xFFFFFFFF }, fun ht => ?_, fun ht => ?_, ?_⟩
    · rw [frameReceive_bad hup hbad, if_pos ht]
    · rw [frameReceive_bad hup hbad, if_neg ht]
    · rw [link_updLink]
      exact ⟨rfl, rfl, rfl, rfl⟩
  · rw [frameReceive_good hup hlen hcrc (by omega) hu, if_neg (by omega), if_pos ht]
  · rw [frameReceive_good hup hlen hcrc (by omega) hu, if_pos ht]
  · rw [frameReceive_good hup hlen hcrc (by omega) hu, if_neg (by omega), if_neg (by omega), if_neg (by omega)]
  · rw [frameReceive_good hup hlen hcrc (by omega) hu, if_neg (by omega), if_neg (by omega), if_pos hseq]
  · show Host.Outcome.next _ = _
    rw [hup, if_neg (by simpa using hretry)]
  · show Host.Outcome.next _ = _
    rw [hruns, hst]
    rfl

/-- A link that trains: its lanes are ready, or its training time passes. -/
theorem link_training {s : State} {n : Nat} (hruns : s.floeRuns n = true) (hst : (s.link n).st = .training) :
    (Answers (exec (.lanesReady n) s) fun t => ∃ (u : State) (m : FloeMsg), t = u.linkMoved (n / 2) ∧ (u.link n).st = .hello ∧
      u.ports.floe = s.ports.floe ++ [(n, m)] ∧ m.typ = 0x21 ∧ m.src = s.nodeId ∧ m.body.take 2 = leBytes 1 s.nodeId ++ leBytes 1 n) ∧
    (∀ d, (s.link n).trainDeadline = some d → d ≤ (s.advanceTo d).now ∧
      exec (.trainTimeout n) s = .next ((s.advanceTo d).releaseRing (n / 2) 3 true)) := by
  let m : FloeMsg := { typ := 0x21, ring := n / 2, src := s.nodeId, body := leBytes 1 s.nodeId ++ leBytes 1 n ++ zeros 6 ++ leBytes 8 Config.deviceSerial }
  refine ⟨.of_eq ?_ ⟨(s.updLink n fun l => { l with st := .hello }).sendFloe n m, m, rfl, ?_, rfl, rfl, rfl, rfl⟩, fun d hd => ⟨State.advanceTo_le s _, ?_⟩⟩
  · show Host.Outcome.next _ = _
    rw [hruns, hst, if_neg (by simp), if_neg (by simp)]
  · exact congrArg Link.st (link_updLink s n _)
  · show Host.Outcome.next _ = _
    rw [hd]
    exact congrArg Host.Outcome.next (if_pos hruns)

/-- A HELLO at a link in Hello whose ring is not released. -/
theorem hello_taken {s : State} {n : Nat} {m : FloeMsg} (hruns : s.floeRuns n = true) (hst : (s.link n).st = .hello) (h1 : (s.ring (n / 2)).st ≠ 1)
    (h5 : (s.ring (n / 2)).st ≠ 5) (hok : msgOk m 0x21 = true) : exec (.hello n m) s = .next (
      if fld m.body 1 1 = n / 2 * 2 + (1 - n % 2) ∧ fld m.body 0 1 % 64 ≠ s.nodeId then s.linkUp n (fld m.body 0 1 % 64) (fld m.body 1 1 % 64)
      else ((s.updLink n fun l => { l with farNode := fld m.body 0 1 % 64, farLink := fld m.body 1 1 % 64, mismatches := satAdd l.mismatches 1 0xFF }).releaseRing
        (n / 2) 4 true).updLink n fun l => { l with st := .hello }) := by
  show Host.Outcome.next _ = _
  rw [hruns, hst, hok, if_neg (by simp [h1, h5]), if_neg (by simp)]

/-- Settles O43, by the state of the link. -/
theorem linkEvents : Obligations.LinkEvents := by
  intro s n
  refine ⟨fun hup => link_up hup, fun hruns hst => link_training hruns hst, fun hruns hst h1 h5 => ⟨?_, fun m hok hfar hnode => ?_, fun m hok hbad => ?_⟩⟩
  · refine ⟨s.updLink n fun l => { l with st := .training }, ?_, congrArg Link.st (link_updLink s n _), rfl⟩
    show Host.Outcome.next _ = _
    rw [hruns, hst]
    rfl
  · refine .of_eq ((hello_taken hruns hst h1 h5 hok).trans (congrArg Host.Outcome.next (if_pos ⟨hfar, hnode⟩)))
      ⟨s.updLink n fun l => { (l.fresh .up none) with
        farLink := fld m.body 1 1 % 64, farNode := fld m.body 0 1 % 64, bypassed := decide (fld m.body 0 1 % 64 ≠ fld (s.linkRec n) 1 1), upSince := s.now
        credit := [24, 24, 28, 28, 12, 12] }, ?_⟩
    rw [link_updLink]
    exact ⟨rfl, rfl, rfl, rfl, rfl, rfl, rfl, rfl⟩
  · refine ⟨s.updLink n fun l => { l with farNode := fld m.body 0 1 % 64, farLink := fld m.body 1 1 % 64, mismatches := satAdd l.mismatches 1 0xFF }, _,
      (hello_taken hruns hst h1 h5 hok).trans (congrArg Host.Outcome.next (if_neg ?_)), congrArg Link.st (link_updLink _ n _), rfl, ?_⟩
    · rintro ⟨hfar, hnode⟩
      exact hbad.elim (fun h => h hfar) fun h => hnode h
    · rw [link_updLink]
      exact ⟨rfl, rfl⟩

end Sys2Proof.Machine
end

section
/-! PROOFS. The census of a ring, joins, and remote requests that time out (14_links.md). -/

namespace Sys2Proof.Machine

open Sys2Proof

/-- The list of nodes that a census message carries. -/
def censusNodes (m : FloeMsg) : List Nat := ((m.body.drop 4).take (fld m.body 2 1)).map BitVec.toNat

/-- A census message is sent on along its ring, or discarded where it cannot be. -/
def State.passCensus (t : State) (k : Nat) (m : FloeMsg) (d : Bool) (l : List Nat) : State :=
  if (t.link (2 * k + 1)).st = .up ∧ m.hops < 63 then
    t.toLink (2 * k + 1) (t.forwardVc (2 * k) m.src) { censusMsg k (fld m.body 0 1) d l with src := m.src, hops := m.hops + 1 }
  else t.floeDiscard

/-- A census message that arrives on the even link of a ring. -/
theorem exec_census {s : State} {k : Nat} {m : FloeMsg} (hup : s.linkUpNow (2 * k) = true) (hok : msgOk m 0x22 = true) (hlen : fld m.body 2 1 ≤ 64) :
    exec (.census (2 * k) m) s = .next (
      if !bit (fld m.body 1 1) 0 then
        if fld m.body 0 1 = s.nodeId then
          (if distinct (censusNodes m) then (s.toLink (2 * k + 1) 0 (censusMsg k s.nodeId true (censusNodes m))).adoptCensus k (censusNodes m) else s)
        else if 64 ≤ fld m.body 2 1 then s.floeDiscard
        else s.passCensus k m false (censusNodes m ++ [s.nodeId])
      else if fld m.body 0 1 = s.nodeId then s
      else if (censusNodes m).count s.nodeId = 1 then (s.adoptCensus k (censusNodes m)).passCensus k m true (censusNodes m)
      else s.floeDiscard) := by
  have hhalf : 2 * k / 2 = k := by omega
  show Host.Outcome.next _ = _
  simp only [hhalf]
  rw [hup, hok, if_neg (by simp), if_neg (by simp; omega)]
  rfl

/-- A census message that its ring can carry on. -/
theorem State.passCensus_sends {t : State} {k : Nat} {m : FloeMsg} (d : Bool) (l : List Nat) (hup : (t.link (2 * k + 1)).st = .up) (hhops : m.hops < 63) :
    t.passCensus k m d l =
      t.toLink (2 * k + 1) (t.forwardVc (2 * k) m.src) { censusMsg k (fld m.body 0 1) d l with src := m.src, hops := m.hops + 1 } :=
  if_pos ⟨hup, hhops⟩

/-- A census message on the even link of a ring: its origin, its members and its 64th hop. -/
theorem census_parts {s : State} {k : Nat} {m : FloeMsg} {link : Nat} (hlink : link = 2 * k) (hup : s.linkUpNow link = true) (hok : msgOk m 0x22 = true)
    (hlen : fld m.body 2 1 ≤ 64) :
    ∃ nodes, nodes = ((m.body.drop 4).take (fld m.body 2 1)).map BitVec.toNat ∧
      (bit (fld m.body 1 1) 0 = false → fld m.body 0 1 = s.nodeId → distinct nodes = true → exec (.census link m) s =
        .next ((s.toLink (2 * k + 1) 0 (censusMsg k s.nodeId true nodes)).adoptCensus k nodes)) ∧
      (bit (fld m.body 1 1) 0 = false → fld m.body 0 1 = s.nodeId → distinct nodes = false → exec (.census link m) s = .next s) ∧
      (bit (fld m.body 1 1) 0 = false → fld m.body 0 1 ≠ s.nodeId → fld m.body 2 1 < 64 → (s.link (2 * k + 1)).st = .up → m.hops < 63 →
        exec (.census link m) s =
        .next (s.toLink (2 * k + 1) (s.forwardVc link m.src) { censusMsg k (fld m.body 0 1) false (nodes ++ [s.nodeId]) with src := m.src, hops := m.hops + 1 })) ∧
      (bit (fld m.body 1 1) 0 = true → fld m.body 0 1 = s.nodeId → exec (.census link m) s = .next s) ∧
      (bit (fld m.body 1 1) 0 = true → fld m.body 0 1 ≠ s.nodeId → nodes.count s.nodeId = 1 → ((s.adoptCensus k nodes).link (2 * k + 1)).st = .up → m.hops < 63 →
        exec (.census link m) s = .next ((s.adoptCensus k nodes).toLink (2 * k + 1) ((s.adoptCensus k nodes).forwardVc link m.src)
          { censusMsg k (fld m.body 0 1) true nodes with src := m.src, hops := m.hops + 1 })) ∧
      (63 ≤ m.hops → bit (fld m.body 1 1) 0 = false → fld m.body 0 1 ≠ s.nodeId → exec (.census link m) s = .next s.floeDiscard) := by
  subst hlink
  refine ⟨censusNodes m, rfl, ?_⟩
  rw [exec_census hup hok hlen]
  refine ⟨fun hdone hmine hone => ?_, fun hdone hmine htwice => ?_, fun hdone hother hroom hnext hhops => ?_, fun hdone hmine => ?_,
    fun hdone hother hcount hnext hhops => ?_, fun hhops hdone hother => ?_⟩
  · rw [hdone, if_pos Bool.not_false, if_pos hmine, if_pos hone]
  · rw [hdone, if_pos Bool.not_false, if_pos hmine, if_neg (by simp [htwice])]
  · rw [hdone, if_pos Bool.not_false, if_neg hother, if_neg (by omega), State.passCensus_sends false _ hnext hhops]
  · rw [hdone, if_neg (by simp), if_pos hmine]
  · rw [hdone, if_neg (by simp), if_neg hother, if_pos hcount, State.passCensus_sends true _ hnext hhops]
  · have hlast : s.passCensus k m false (censusNodes m ++ [s.nodeId]) = s.floeDiscard := if_neg fun h => absurd h.2 (by omega)
    rw [hdone, if_pos Bool.not_false, if_neg hother, hlast, ite_self]

/-- A remote request whose time ends. -/
theorem remote_timeout {s t : State} {tag : Nat} {x : Remote} (hrun : s.stagesRun = true) (hx : tget? s.floe.remotes tag = some x)
    (ht : t = s.advanceTo x.deadline) : x.deadline ≤ t.now ∧
      (x.hold = true → exec (.ringHoldExpiry tag) s = .next ((t.unreachable tag x.q).remoteMoved x.q)) ∧
      (x.hold = false → t.staleGen x.q = false → x.resent = true → exec (.e2eTimerExpiry tag) s = .next ((t.unreachable tag x.q).remoteMoved x.q)) ∧
      (x.hold = false → t.staleGen x.q = true → exec (.e2eTimerExpiry tag) s =
        .next ((({ t with floe := { t.floe with remotes := tdel t.floe.remotes tag } } : State).staleRemote x.q).remoteMoved x.q)) ∧
      (x.hold = false → t.staleGen x.q = false → x.resent = false → t.route x.q.node (some (!x.downstream)) = none →
        exec (.e2eTimerExpiry tag) s = .next (
          if (t.route x.q.node none).isNone && t.ringsComing then
            t.setRemote tag { x with hold := true, again := true, deadline := t.now + t.floe.holdMs * 1000000 }
          else (t.unreachable tag x.q).remoteMoved x.q)) ∧
      (∀ r, x.hold = false → t.staleGen x.q = false → x.resent = false → t.route x.q.node (some (!x.downstream)) = some r →
        exec (.e2eTimerExpiry tag) s = .next (({ t with floe := { t.floe with resent := satAdd t.floe.resent 1 0xFFFF } } : State).sendRemote tag
          { x with ring := r.1, downstream := r.2, resent := true, deadline := t.now + t.floe.e2eUs * 1000 })) := by
  refine ⟨ht ▸ State.advanceTo_le s _, fun hhold => ?_, fun hhold hgen hre => ?_, fun hhold hgen => ?_, fun hhold hgen hre hroute => ?_,
    fun r hhold hgen hre hroute => ?_⟩ <;> (show Host.Outcome.next _ = _; simp only [hx, ← ht])
  · rw [hhold, hrun, if_neg (by simp)]
  · rw [hhold, hrun, hgen, hre]
    rfl
  · rw [hhold, hrun, hgen]
    rfl
  · simp only [hhold, hrun, hgen, hre, hroute, Bool.not_true, Bool.or_self, Bool.false_eq_true, if_false, Bool.not_false, Bool.true_and]
  · simp only [hhold, hrun, hgen, hre, hroute, Bool.not_true, Bool.or_self, Bool.false_eq_true, if_false]

/-- A ring that is joined trains its links until the join's time limit. -/
theorem State.beginJoin_ring (s : State) (k : Nat) : ((s.beginJoin k).ring k).st = 2 ∧
    ((s.beginJoin k).ring k).joinDeadline = some (s.now + s.floe.joinMs * 1000000) := by
  unfold State.beginJoin
  dsimp only
  rw [ring_updRing]
  exact ⟨rfl, rfl⟩

/-- A join at the front of the requests that came by register. -/
theorem ringJoin_requested {s : State} {k : Nat} {rest : List (Nat × Bool)} (hrun : s.stagesRun = true) (hctl : s.floe.ctl = (k, true) :: rest)
    (hoos : s.loess.oos = false) (hbusy : s.joinBusy = false) :
    ∃ u : State, u = { s with floe := { s.floe with ctl := rest } } ∧
      (s.ringJoinable k = true → (s.ring k).st ≠ 3 → (s.ring k).st ≠ 4 →
        exec (.ringJoin k) s = .next (State.runReleases rest.length (u.beginJoin k)) ∧
        ((u.beginJoin k).ring k).st = 2 ∧ ((u.beginJoin k).ring k).joinDeadline = some (s.now + s.floe.joinMs * 1000000)) ∧
      (s.ringJoinable k = false → exec (.ringJoin k) s = .next (State.runReleases rest.length u)) := by
  refine ⟨_, rfl, fun hjoin h3 h4 => ⟨?_, State.beginJoin_ring _ k⟩, fun hjoin => ?_⟩
  · refine congrArg Host.Outcome.next ((if_neg (by simp [hrun, hoos, hbusy])).trans ((if_pos (by rw [hctl]; rfl)).trans ?_))
    rw [hctl]
    exact congrArg (State.runReleases rest.length) (if_pos (by
      show (s.ringJoinable k && (s.ring k).st != 3 && (s.ring k).st != 4) = true
      simp [hjoin, h3, h4]))
  · refine congrArg Host.Outcome.next ((if_neg (by simp [hrun, hoos, hbusy])).trans ((if_pos (by rw [hctl]; rfl)).trans ?_))
    rw [hctl]
    exact congrArg (State.runReleases rest.length) (if_neg (by
      show ¬ (s.ringJoinable k && (s.ring k).st != 3 && (s.ring k).st != 4) = true
      simp [hjoin]))

/-- Settles O44, event by event. -/
theorem ringEvents : Obligations.RingEvents := by
  intro s k hrun
  refine ⟨fun t hsent hup => ⟨State.advanceTo_le s _, ?_⟩, fun t hd hst => ⟨State.advanceTo_le s _, ?_⟩,
    fun rest hctl hoos hbusy => ringJoin_requested hrun hctl hoos hbusy, fun rest hjoins hctl hoos hbusy hjoin h3 h4 => ?_,
    fun m link hlink hup hok hlen => census_parts hlink hup hok hlen, fun tag x t hx ht => remote_timeout hrun hx ht⟩
  · show Host.Outcome.next _ = _
    simp only [hsent, hrun, hup]
    rfl
  · show Host.Outcome.next _ = _
    simp only [hd, hrun, hst]
    rfl
  · refine congrArg Host.Outcome.next ((if_neg (by simp [hrun, hoos, hbusy])).trans ((if_neg hctl).trans ((if_pos (by rw [hjoins]; rfl)).trans ?_)))
    rw [hjoins]
    exact if_pos (by
      show (s.ringJoinable k && (s.ring k).st != 3 && (s.ring k).st != 4) = true
      simp [hjoin, h3, h4])

end Sys2Proof.Machine
end

section
/-! PROOFS. Repair of image data (07_base_weights.md, Uncorrectable errors in image data). -/

namespace Sys2Proof.Machine

open Sys2Proof

/-- Reading the canonical copy touches no repair and no counter. -/
theorem State.readCanonical_firn (s : State) (p : Repair) (m d : Blob) : (s.readCanonical p m d).firn = s.firn := by
  unfold State.readCanonical
  split
  · exact foldl_firn _ (fun t z => State.hostRead_firn t 0 _ _) _ _
  · rfl

/-- Nothing ends where no unit moves. -/
theorem State.endMoves_none {s : State} (h : ∀ p ∈ s.firn.repairs, p.moving = none) : s.endMoves = s := by
  unfold State.endMoves
  generalize s.firn.repairs = l at h
  induction l with
  | nil => rfl
  | cons p l ih =>
    rw [List.foldl_cons, h p List.mem_cons_self]
    exact ih fun q hq => h q (List.mem_cons_of_mem p hq)

/-- A repair ended is gone, and the streams that it stalled go on. -/
theorem State.endRepair_parts (s : State) (id : Nat) : (s.endRepair id).firn.repairs = s.firn.repairs.filter (fun p => p.id != id) ∧
    (s.endRepair id).serac.units = tmap s.serac.units fun _ u => { u with
      streams := u.streams.map fun w => if w.stall = some id then { w with stall := none } else w } := ⟨rfl, rfl⟩

/-- The canonical copy's answer: the unit, or a version poisoned. -/
theorem canonicalReadDone_takes {s : State} {id : Nat} {p : Repair} (m d b : Blob) (hrun : s.firnRuns = true)
    (hp : s.firn.repairs.find? (·.id == id) = some p) (hcanon : p.canonical = true) :
    (∀ resp, resp ≠ .ok → exec (.canonicalReadDone id resp m d) s = .next (s.poison p.image p.ver)) ∧
    (s.fromCanonical p (padTo (p.peerRec.elim 0 fun b => fld b 24 4) m) d = some b →
      Answers (exec (.canonicalReadDone id .ok m d) s) fun t => t.firn.fromHost = satAdd s.firn.fromHost 1 0xFFFF ∧
        t.firn.fromPeer = s.firn.fromPeer ∧ t.firn.repairs = (s.modRepair p.id fun y => { y with asked := none, peers := [], canonical := false, got := some b }).firn.repairs) := by
  refine ⟨fun resp hresp => ?_, fun hb => ?_⟩
  · show Host.Outcome.next _ = _
    simp only [hp, hcanon, hrun, hresp, Bool.not_true, Bool.or_self, Bool.false_eq_true, if_false]
  · generalize hlen : (p.peerRec.elim 0 fun b => fld b 24 4) = n at hb
    generalize hu : s.readCanonical p (padTo n m) d = u
    have hfirn : u.firn = s.firn := hu ▸ State.readCanonical_firn s p _ d
    refine .of_eq (t := u.gotUnit p b true) ?_ ⟨?_, ?_, ?_⟩
    · rw [← hu, ← hlen]
      rw [← hlen] at hb
      show Host.Outcome.next _ = _
      simp only [hp, hcanon, hrun, Bool.not_true, Bool.or_self, Bool.false_eq_true, if_false, if_true]
      cases hrec : p.peerRec with
      | none => rw [hrec] at hb; rw [show s.fromCanonical p (padTo 0 m) d = some b from hb]; rfl
      | some x => rw [hrec] at hb; rw [show s.fromCanonical p (padTo (fld x 24 4) m) d = some b from hb]; rfl
    · show satAdd u.firn.fromHost 1 0xFFFF = _
      rw [hfirn]
    · show u.firn.fromPeer = _
      rw [hfirn]
    · show u.firn.repairs.map _ = _
      rw [hfirn]
      rfl

/-- The read-back of a repaired unit, by what the read finds. -/
theorem repairReadback_cases {s : State} {id : Nat} {p : Repair} (rd : Readback) (frame : Option Nat) (hrun : s.firnRuns = true)
    (hp : s.firn.repairs.find? (·.id == id) = some p) (hgot : p.got.isSome = true) (hmoving : p.moving = none) :
    exec (.repairReadback id rd frame) s = .next (
      if rd.ecc = .clean ∨ rd.ecc = .corrected ∨ (s.repairFrame p).any s.movesFrame = true then (s.endRepair id).endMoves.settle
      else match s.beginMove p frame rd.bad with
        | some t => t.endMoves.settle
        | none => s.poison p.image p.ver) := by
  obtain ⟨b, hb⟩ := Option.isSome_iff_exists.mp hgot
  show Host.Outcome.next _ = _
  simp only [hp, hb, hmoving, hrun]
  rfl

/-- Settles O38, event by event. -/
theorem repairEvents : Obligations.RepairEvents := by
  refine ⟨fun s p q hrun hwait hroom hp hq => ?_, fun s p hrun hp => ?_, fun s id p a hrun hp ha => ⟨State.advanceTo_le s _, ?_⟩,
    fun s id p m d b hrun hp hcanon => canonicalReadDone_takes m d b hrun hp hcanon,
    fun s id p ecc frame bad hrun hp hgot hmoving => ⟨fun hecc => ⟨?_, fun hnone => ⟨s.endRepair id, ?_, State.endRepair_parts s id⟩⟩,
      fun hecc hstays => ⟨fun hmove => ?_, fun u hmove => ?_⟩⟩⟩
  · subst hq
    show Host.Outcome.next _ = _
    simp only [hrun, hwait, hp, Bool.not_true, Bool.false_eq_true, if_false]
    rw [if_neg (by omega)] <;> rfl
  · show Host.Outcome.next _ = _
    simp only [hrun, hp, Bool.not_true, Bool.false_eq_true, if_false]
  · show Host.Outcome.next _ = _
    simp only [hp, ha, hrun, Bool.not_true, Bool.false_eq_true, if_false]
  · rw [repairReadback_cases _ frame hrun hp hgot hmoving, if_pos (or_assoc.mp (.inl hecc))]
  · have hends : (s.endRepair id).endMoves = s.endRepair id := State.endMoves_none fun q hq => hnone q (List.mem_filter.mp hq).1
    rw [repairReadback_cases _ frame hrun hp hgot hmoving, if_pos (or_assoc.mp (.inl hecc)), hends]
  · have hbad : ¬ (ecc = .clean ∨ ecc = .corrected ∨ (s.repairFrame p).any s.movesFrame = true) := by
      rcases hecc with rfl | rfl <;> simp [hstays]
    rw [repairReadback_cases _ frame hrun hp hgot hmoving, if_neg hbad, hmove]
  · have hbad : ¬ (ecc = .clean ∨ ecc = .corrected ∨ (s.repairFrame p).any s.movesFrame = true) := by
      rcases hecc with rfl | rfl <;> simp [hstays]
    rw [repairReadback_cases _ frame hrun hp hgot hmoving, if_neg hbad, hmove]

end Sys2Proof.Machine
end

section
/-! PROOFS. Detectors and the reset of an engine (13_reliability.md, Detectors; Reset domains; Reset records). -/

namespace Sys2Proof.Machine

open Sys2Proof

/-- Time that has come is not waited for. -/
theorem State.advanceTo_past {s : State} {t : Nat} (h : t ≤ s.now) : s.advanceTo t = s := if_neg (Nat.not_lt.mpr h)

/-- A reset record opened stands at the tail of the ring. -/
theorem State.openRecord_parts (s : State) (r : RstRec) : (s.openRecord r).1 = s.loess.tail ∧
    tget? (s.openRecord r).2.loess.records s.loess.tail = some { r with seq := (s.loess.seq + 1) % 65536, startTime := s.now } := by
  refine ⟨rfl, ?_⟩
  unfold State.openRecord
  dsimp only
  rw [pulse_eq]
  split <;> exact tget?_tset _ _ _

/-- What is written of an engine leaves the reset records alone. -/
theorem State.updEng_records (s : State) (e : Nat) (g : Eng → Eng) : (s.updEng e g).loess.records = s.loess.records := rfl

/-- The reset of an engine that is no third within 10 s begins, with a record open. -/
theorem State.engineReset_begins {s : State} {e : Nat} (cause : Nat) (hoos : s.loess.oos = false) (hhalt : s.loess.halted = false)
    (hexists : s.engineExists e = true) (hfence : (s.eng e).fenced = false) (hb : e / 256 ≠ 0x0B) (hc : e / 256 < 0x0C) (hrst : (s.eng e).rst = none)
    (hdom : (inDomain e && s.loess.domain.isSome) = false) (hrecent : (s.recentResets e).length < 2) : ∃ u : State,
    s.engineReset e cause none 0 0xFFFF = u.engineBegin e ∧ (u.eng e).history = s.recentResets e ++ [s.now] ∧
      ∃ x, (u.eng e).rst = some x ∧ x.start = s.now ∧ x.deadline = s.now + 200000 ∧ x.heldAt = s.pwr.heldNs ∧ x.slot = s.loess.tail ∧
        ∃ y, tget? u.loess.records s.loess.tail = some y ∧ y.cause = cause ∧ y.engine = e ∧ y.startTime = s.now ∧ y.seq = (s.loess.seq + 1) % 65536 := by
  let r : RstRec := { domain := 2, cause := cause, engine := e, guiltyCtx := 0, guiltyFn := s.fnOfCtx none, escFrom := 0xFFFF, detail := 0 }
  let lost := if e / 256 = 1 then (s.unit (e % 256)).losers.map fun x => (x, e % 256) else []
  let x : Rst := { start := s.now, deadline := s.now + 200000, slot := s.loess.tail, heldAt := s.pwr.heldNs, guilty := none, lost := lost }
  obtain ⟨-, hrec⟩ := State.openRecord_parts s r
  refine ⟨((s.openRecord r).2.updEng e fun z => { z with history := s.recentResets e ++ [s.now] }).updEng e fun z => { z with rst := some x }, ?_, ?_, x, ?_,
    rfl, rfl, rfl, rfl, { r with seq := (s.loess.seq + 1) % 65536, startTime := s.now }, ?_, rfl, rfl, rfl, rfl⟩
  · unfold State.engineReset
    rw [if_neg (by simp [hoos, hhalt, hexists, hfence]), if_neg hb, if_neg (by omega), if_neg (by simp [hrst, hdom])]
    dsimp only
    rw [if_neg (by omega)]
    rfl
  · rw [eng_updEng, eng_updEng]
  · rw [eng_updEng]
  · rw [State.updEng_records, State.updEng_records]
    exact hrec

/-- The sample of the progress counters resets the engine that alone is stalled. -/
theorem State.sample_one {u v : State} {e : Nat} (hone : sampledEngines.filter u.stalled = [e])
    (hv : v = { u.pulse 1 with loess := { u.loess with sampledAt := u.now } }) (hstalled : v.stalled e = true) :
    u.sample = (v.setErr 2).engineReset e 8 (v.stallGuilty e) 0 0xFFFF := by
  unfold State.sample
  rw [hone, ← hv, List.foldl_cons, List.foldl_nil, if_pos hstalled]

/-- A sample that finds no engine stalled. -/
theorem State.sample_none {u : State} (h : sampledEngines.any u.stalled = false) :
    u.sample = { u.pulse 1 with loess := { u.loess with sampledAt := u.now } } := by
  have hnone : sampledEngines.filter u.stalled = [] := by
    rw [List.filter_eq_nil_iff]
    intro e he hs
    exact absurd (List.any_eq_true.mpr ⟨e, he, hs⟩) (by simp [h])
  unfold State.sample
  rw [hnone, List.foldl_nil]

/-- The block after a heartbeat. -/
def State.beat (u : State) : State :=
  { u.pulse 0 with loess := { (u.pulse 0).loess with hbLast := (u.pulse 0).now, hbHeldAt := (u.pulse 0).pwr.heldNs } }

/-- The interrupt sources are Tarn's. -/
theorem ticSrc_of_tarn {s t : State} (h : s.tarn = t.tarn) (n : Nat) : s.ticSrc n = t.ticSrc n := by
  unfold State.ticSrc
  rw [h]

/-- A heartbeat notes its time and the time held. -/
theorem State.beat_parts (u : State) : u.beat.loess.hbLast = u.beat.now ∧ u.beat.loess.hbHeldAt = u.beat.pwr.heldNs ∧ u.beat.now = u.now ∧ u.beat.mem = u.mem ∧
    (u.beat.ticSrc 0).pending = true :=
  ⟨rfl, rfl, State.pulse_now u 0, State.pulse_mem u 0, by rw [ticSrc_of_tarn (s := u.beat) (t := u.pulse 0) rfl]; exact ticSrc_pulse u 0⟩

/-- Settles O39, detector by detector. -/
theorem failureDetection : Obligations.FailureDetection := by
  intro s
  refine ⟨fun e hd he => ?_, fun e hrun he => ?_, fun u hrun hphase hu hnone => ?_, fun e u v hrun hphase hu hone hv hstalled => ?_, fun hrun hbeats => ?_,
    fun hrun hoos hlate => ?_, fun e hoos hhalt hexists hfence hb hc hrst hdom hrecent cause =>
      State.engineReset_begins cause hoos hhalt hexists hfence hb hc hrst hdom hrecent⟩
  · refine congrArg Host.Outcome.next (if_pos ?_)
    simp [hd, he]
  · refine congrArg Host.Outcome.next (if_pos ?_)
    simp [hrun, he]
  · subst hu
    refine congrArg Host.Outcome.next ((if_neg ?_).trans (congrArg State.settle (State.sample_none hnone)))
    simp [hrun, hphase]
  · subst hu
    refine congrArg Host.Outcome.next ((if_neg ?_).trans (congrArg State.settle (State.sample_one hone hv hstalled)))
    simp [hrun, hphase]
  · have hexec : exec .heartbeat s = .next (State.beat (s.advanceTo (s.loess.hbLast + 100000))) := congrArg Host.Outcome.next (if_neg (by simp [hrun, hbeats]))
    obtain ⟨hlast, hheld, hnow, hmem, hsource⟩ := State.beat_parts (s.advanceTo (s.loess.hbLast + 100000))
    refine .of_eq hexec ⟨hlast, ?_, hheld, hsource, hmem.trans (State.advanceTo_mem s _)⟩
    rw [hnow]
    exact State.advanceTo_le s _
  · refine congrArg Host.Outcome.next ((if_neg ?_).trans ?_)
    · simp [hrun, hoos]
    · exact congrArg (fun t : State => (t.tarnRestart 13 0xFFFF).settle) (State.advanceTo_past hlate)

end Sys2Proof.Machine
end

section
/-! PROOFS. Resets that complete or are overdue (13_reliability.md, Reset domains; Escalation and fencing; Tarn restart). -/

namespace Sys2Proof.Machine

open Sys2Proof

/-- An engine back from its reset. -/
def Eng.back (y : Eng) (now held : Nat) : Eng := { y with rst := none, count := y.count + 1, stamp := now, heldAt := held }

/-- The work of an engine that its reset cut, taken up again by its class (R529). -/
def State.resumeEngine (s : State) (e : Nat) : State :=
  if e = 0x0700 then s.queues.foldl (fun t q => t.rewriteBurst q.2) s else if e / 256 = 6 then s.nextWalk
  else if e / 256 = 4 then s.readAgain (e % 256) else if e / 256 = 5 then s.retrainAfter (e % 256) else s

/-- An engine whose reset ends comes back, its record closed. -/
theorem State.engineDone_eq {s : State} {e : Nat} {x : Rst} (h : (s.eng e).rst = some x) : s.engineDone e =
    (((((s.updEng e fun y => y.back s.now s.pwr.heldNs).recover x.slot x.blamed x.lost).closeIfOpen x.slot 0).resumeEngine e).adoptAll e).settle := by
  unfold State.engineDone
  simp only [h]
  rfl

/-- The reset of an engine, complete or overdue. -/
theorem engineReset_ends {s : State} {e : Nat} {x : Rst} (hoos : s.loess.oos = false) (hrst : (s.eng e).rst = some x) (hdet : s.detects = true) :
    (s.now ≤ s.dueAt x → (e / 256 = 1 → (s.unit (e % 256)).credited.length = 4) → ∃ u v : State,
      exec (.engineResetComplete e) s = .next ((v.adoptAll e).settle).replayOnward ∧
      (e ≠ 0x0700 → e / 256 ≠ 4 → e / 256 ≠ 5 → e / 256 ≠ 6 → v = (u.recover x.slot x.blamed x.lost).closeIfOpen x.slot 0) ∧
      (e = 0x0700 → v = ((u.recover x.slot x.blamed x.lost).closeIfOpen x.slot 0).queues.foldl (fun t q => t.rewriteBurst q.2)
        ((u.recover x.slot x.blamed x.lost).closeIfOpen x.slot 0)) ∧
      (u.eng e).rst = none ∧ (u.eng e).count = (s.eng e).count + 1 ∧ (u.eng e).stamp = s.now ∧ (u.eng e).history = (s.eng e).history) ∧
    s.dueAt x ≤ (s.advanceTo (s.dueAt x)).now ∧
    (s.timeHeld = false → exec (.engineResetDeadline e) s = .next ((s.advanceTo (s.dueAt x)).engineOverdue e).settle) := by
  refine ⟨fun hdue hcredited => ?_, State.advanceTo_le s _, fun hheld => ?_⟩
  · let u := s.updEng e fun y => y.back s.now s.pwr.heldNs
    let w := (u.recover x.slot x.blamed x.lost).closeIfOpen x.slot 0
    have hports : (e / 256 == 1 && (s.unit (e % 256)).credited.length != 4) = false := by
      by_cases h1 : e / 256 = 1
      · simp [h1, hcredited h1]
      · simp [h1]
    refine ⟨u, w.resumeEngine e, ?_, fun h7 h4 h5 h6 => ?_, fun h7 => if_pos h7, ?_⟩
    · show Host.Outcome.next _ = _
      simp only [hrst, hdet, hoos, hports]
      rw [if_neg (by simp; omega), State.engineDone_eq hrst]
    · unfold State.resumeEngine
      rw [if_neg h7, if_neg h6, if_neg h4, if_neg h5]
    · rw [State.eng_updEng]
      exact ⟨rfl, rfl, rfl, rfl⟩
  · show Host.Outcome.next _ = _
    simp only [hrst, hdet, hheld, hoos, Bool.not_true, Bool.or_self, Bool.false_eq_true, if_false]

/-- A context reset that is overdue resets the units it waits for. -/
theorem contextReset_overdue {s t : State} {k : Nat} {c : Ctx} (hoos : s.loess.oos = false) (hc : tget? s.ctxs k = some c) (hreset : c.resetting = true)
    (hdet : s.detects = true) (hheld : s.timeHeld = false) (ht : t = s.advanceTo (s.ctxDueAt c)) :
    ((c.resetWait.filter fun u => !t.engDown (seracEngine u) && t.loess.domain.isNone) = [] → exec (.contextResetDeadline k) s = .next t.settle) ∧
    (∀ u, (c.resetWait.filter fun u => !t.engDown (seracEngine u) && t.loess.domain.isNone) = [u] → ∀ n, c.resetRecord = some n →
      exec (.contextResetDeadline k) s = .next ((t.closeRecord n 1 false).engineReset (seracEngine u) 11 (some k) 0 n).settle) := by
  refine ⟨fun hnone => ?_, fun u hone n hrec => ?_⟩ <;> (show Host.Outcome.next _ = _; simp only [hc, hreset, hdet, hheld, hoos, ← ht])
  · simp only [hnone, List.isEmpty_nil, List.foldl_nil, if_true, Bool.not_true, Bool.or_self, Bool.false_eq_true, if_false]
    cases c.resetRecord <;> rfl
  · simp only [hone, hrec, List.isEmpty_cons, List.foldl_cons, List.foldl_nil, Bool.not_true, Bool.or_self, Bool.false_eq_true, if_false]
    rfl

/-- The reset of the compute domain, complete or overdue. -/
theorem domainReset_ends {s : State} {x : Rst} (hoos : s.loess.oos = false) (hdom : s.loess.domain = some x) (hdet : s.detects = true) :
    (s.now ≤ s.dueAt x → exec .computeDomainResetComplete s = .next s.domainDone) ∧ s.dueAt x ≤ (s.advanceTo (s.dueAt x)).now ∧
    (s.timeHeld = false → exec .computeDomainResetDeadline s =
      .next (((s.advanceTo (s.dueAt x)).closeRecord x.slot 1 false).outOfService 1 0).settle) := by
  refine ⟨fun hdue => ?_, State.advanceTo_le s _, fun hheld => ?_⟩
  · show Host.Outcome.next _ = _
    simp only [hdom, hdet, hoos]
    rw [if_neg (by simp; omega)]
  · show Host.Outcome.next _ = _
    simp only [hdom, hdet, hheld, hoos, Bool.not_true, Bool.or_self, Bool.false_eq_true, if_false]

/-- The restart of Tarn, complete or overdue. -/
theorem tarnRestart_ends {s : State} {x : Rst} (hoos : s.loess.oos = false) (hrst : s.loess.restart = some x) (hrun : s.stagesRun = true) :
    (s.now ≤ s.dueAt x → exec .tarnRestartComplete s = .next (s.restartDone x).settle) ∧ s.dueAt x ≤ (s.advanceTo (s.dueAt x)).now ∧
    ∃ u : State, u.loess.restart = none ∧ (s.loess.restartForPatch = true → u.loess.records = (s.advanceTo (s.dueAt x)).loess.records) ∧
      exec .tarnRestartDeadline s = .next (u.outOfService 6 0x0B00).settle := by
  refine ⟨fun hdue => ?_, State.advanceTo_le s _, ?_⟩
  · show Host.Outcome.next _ = _
    simp only [hrst, hrun]
    rw [if_neg (by simp; omega)]
  · let t1 := if s.loess.restartForPatch then s.advanceTo (s.dueAt x) else (s.advanceTo (s.dueAt x)).closeRecord x.slot 3 false
    refine ⟨{ t1 with loess := { t1.loess with restart := none } }, rfl, fun hpatch => ?_, ?_⟩
    · show (if s.loess.restartForPatch then s.advanceTo (s.dueAt x) else _ : State).loess.records = _
      rw [if_pos hpatch]
    · show Host.Outcome.next _ = _
      simp only [hrst, hrun, hoos, Bool.not_true, Bool.or_self, Bool.false_eq_true, if_false]
      rfl

/-- Settles O40, reset by reset. -/
theorem resetDeadlines : Obligations.ResetDeadlines := fun s hoos =>
  ⟨fun _ => rfl, fun _ => rfl, fun _ _ hrst hdet => engineReset_ends hoos hrst hdet,
    fun _ _ _ hc hreset hdet hheld ht => ⟨ht ▸ State.advanceTo_le s _, contextReset_overdue hoos hc hreset hdet hheld ht⟩,
    fun _ hdom hdet => domainReset_ends hoos hdom hdet, fun _ hrst hrun => tarnRestart_ends hoos hrst hrun⟩

end Sys2Proof.Machine
end

section
/-! PROOFS. Interrupt vectors, drain windows and invalidation answers (03_queues.md; 06_translation.md, Range invalidation). -/

namespace Sys2Proof.Machine

open Sys2Proof

/-- What the answer of one engine does to the block leaves the open invalidations and memory alone. -/
theorem State.ackEffect_parts (s : State) (e : Nat) (i : Inval) : (s.ackEffect e i).esk.invals = s.esk.invals ∧ (s.ackEffect e i).mem = s.mem := by
  have hinvals : ((s.progress 0x0800).pulse 41).esk.invals = s.esk.invals := by rw [State.pulse_esk, State.progress_esk]
  have hmem : ((s.progress 0x0800).pulse 41).mem = s.mem := (State.pulse_mem _ 41).trans (State.progress_mem s 0x0800)
  unfold State.ackEffect
  dsimp only
  split
  · exact ⟨hinvals, hmem⟩
  · split <;> exact ⟨hinvals, hmem⟩

/-- The answer of an engine that an invalidation waits for. -/
theorem invalidationAck_taken {s : State} {inv engine : Nat} {i : Inval} (hrun : s.stagesRun = true) (he : invalEngines.contains engine = true)
    (hi : s.esk.invals.find? (·.id == inv) = some i) (hnew : i.acked.contains engine = false) (hrst : (s.eng engine).rst = none)
    (hrange : engine / 256 = 1 → s.tileInRange (engine % 256) i = false) : exec (.invalidationAck inv engine) s = .next (
      if invalEngines.all (engine :: i.acked).contains then (s.ackEffect engine i).invalDone { i with acked := engine :: i.acked }
      else { s.ackEffect engine i with esk := { (s.ackEffect engine i).esk with
        invals := (s.ackEffect engine i).esk.invals.map fun x => if x.id = inv then { i with acked := engine :: i.acked } else x } }) := by
  have htile : (engine / 256 == 1 && s.tileInRange (engine % 256) i) = false := by
    by_cases h1 : engine / 256 = 1
    · simp [h1, hrange h1]
    · simp [h1]
  show Host.Outcome.next _ = _
  simp only [hi]
  rw [if_neg (by rw [hrun, he, hnew, hrst, htile]; simp)]

/-- A vector unmasked: its mask alone changes, and what is pending is released. -/
theorem msixUnmask_vector {s : State} {fn v : Nat} (hfn : fn < 4096) (hv : v < (if fn = 0 then 256 else 8)) (hs : s.reachable = true) (hn : s.noHalf fn) :
    Answers (exec (.msixMaskClear fn (some v)) s) fun t => ∃ u : State, t = u.releaseVectors fn ∧
      (tget (u.fn fn).vectors {} v).masked = false ∧ (tget (u.fn fn).vectors {} v).pending = (tget (s.fn fn).vectors {} v).pending ∧
      ∀ n, n ≠ v → tget (u.fn fn).vectors {} n = tget (s.fn fn).vectors {} n := by
  obtain ⟨hvectors, hwrite⟩ := vec_parts s fn v
  refine .of_eq (msix_exec hfn hv hs hn) ⟨_, hwrite, ?_, ?_, fun n hnv => ?_⟩
  · rw [hvectors, vec_upd]
    exact putBytes_bit _
  · rw [hvectors, vec_upd]
  · rw [hvectors, vec_upd_ne _ _ _ _ hnv]

/-- A drain window that ends while its command holds the engine. -/
theorem drainWindow_ends {s : State} {r w : Nat} {c : Cmd} {st : Status} (hc : tget? s.cmds r = some c) (hd : c.decided = some st) (hw : c.window = some w)
    (hadmin : c.admin = false) (hupd : c.updating = false) (hun : c.unfinished = true) (hholds : s.holdsEngine r = true) (hrun : s.stagesRun = true) :
    exec (.drainWindowExpiry r) s = .next (
      if ((s.advanceTo w).fn c.fn).phase = .resetting then
        ((((s.advanceTo w).contextReset c.ctx 0 0 none none).cmdsOfCtx c.ctx).foldl State.discard ((s.advanceTo w).contextReset c.ctx 0 0 none none)).settle
      else ((s.advanceTo w).contextReset c.ctx 1 0 (some (r, if st == .timeout then .timeoutKilled else st)) none).settle) := by
  show Host.Outcome.next _ = _
  simp only [hc, hd, hw, hadmin, hupd, hun, hholds, hrun, Bool.not_true, Bool.or_self, Bool.false_eq_true, if_false]

/-- Settles O36, event by event. -/
theorem vectorsAndWindows : Obligations.VectorsAndWindows := by
  refine ⟨fun s fn hfn hcfg => ?_, fun s fn v hfn hv hs hn => msixUnmask_vector hfn hv hs hn,
    fun s r w c st hc hd hw hadmin hupd hun hholds hrun => ⟨State.advanceTo_le s w, fun hphase => ?_, fun hphase => ⟨_, rfl, ?_⟩⟩,
    fun s inv engine i hrun he hi hnew hrst hrange => ⟨fun hall => ?_, fun hall => ?_⟩⟩
  · refine congrArg Host.Outcome.next ((if_neg (by omega)).trans ?_)
    exact State.config_ok hcfg
  · rw [drainWindow_ends hc hd hw hadmin hupd hun hholds hrun, if_neg hphase]
  · rw [drainWindow_ends hc hd hw hadmin hupd hun hholds hrun, if_pos hphase]
  · rw [invalidationAck_taken hrun he hi hnew hrst hrange, if_pos hall]
  · obtain ⟨hinvals, hmem⟩ := s.ackEffect_parts engine i
    refine .of_eq ((invalidationAck_taken hrun he hi hnew hrst hrange).trans (congrArg Host.Outcome.next (if_neg (by simp [hall])))) ⟨?_, hmem⟩
    exact congrArg (List.map fun x => if x.id = inv then { i with acked := engine :: i.acked } else x) hinvals

end Sys2Proof.Machine
end

section
/-! PROOFS. Requests, answers and walks of memory (06_translation.md; 11_protection.md, Glaze; 11_protection.md, Varve). -/

namespace Sys2Proof.Machine

open Sys2Proof

/-- A granule written: its bytes stand at its address, and nothing else in memory changes. -/
theorem State.putGranule_stores {s : State} {q : MemReq} {b : Blob}
    (hgood : (if q.hot && q.ctx != 0 then s.hotCount q.tier q.offset q.epoch else s).pageBad q.tier q.offset = false) :
    (s.putGranule q b).mem = memWrite s.mem (devAddr q.tier q.offset) b := by
  have hcount : (if q.hot && q.ctx != 0 then s.hotCount q.tier q.offset q.epoch else s).mem = s.mem := by split <;> simp
  unfold State.putGranule
  dsimp only
  generalize (if q.hot && q.ctx != 0 then s.hotCount q.tier q.offset q.epoch else s) = s1 at hgood hcount ⊢
  rw [if_neg (by simp [hgood]), State.chunkWrite_mem]
  show memWrite (if q.prot = 0 then _ else _ : State).mem _ b = _
  split <;> split <;> simp [hcount]

/-- A failing command leaves what the frame key table has counted and logged. -/
theorem State.failCmd_fkt (s : State) (r : Nat) (st : Status) : (s.failCmd r st).esk.fktCount = s.esk.fktCount ∧ (s.failCmd r st).esk.fktLog = s.esk.fktLog := by
  unfold State.failCmd
  split <;> exact ⟨rfl, rfl⟩

/-- A request denied is counted, and the first of them is logged. -/
theorem State.fktDeny_parts (s : State) (q : MemReq) : (s.fktDeny q).esk.fktCount = satAdd s.esk.fktCount 1 0xFFFFFFFF ∧
    (s.fktDeny q).esk.fktLog.valid = true ∧ (s.fktDeny q).mem = s.mem := by
  refine ⟨?_, ?_, by simp⟩
  · unfold State.fktDeny
    dsimp only
    split
    · split
      · rfl
      · exact (State.failCmd_fkt _ _ _).1
    · rfl
  · have hlog : ∀ l : FktLog, l.valid = true → (if s.esk.fktLog.valid then s.esk.fktLog else l).valid = true := by
      intro l hl; split <;> assumption
    unfold State.fktDeny
    dsimp only
    split
    · split
      · exact hlog _ rfl
      · rw [(State.failCmd_fkt _ _ _).2]; exact hlog _ rfl
    · exact hlog _ rfl

/-- A memory request that waits for nothing is served part by part. -/
theorem exec_memoryRequest {s : State} {q : MemReq} (hrun : s.stagesRun = true) (hok : reqFormed q = true) (hfree : (reqParts q).any s.requestWaits = false) :
    exec (.memoryRequest q) s = .next ((reqParts q).foldl State.serveRequest s) :=
  congrArg Host.Outcome.next (if_neg (by simp [hrun, hok, hfree]))

/-- A memory request of one part. -/
theorem memoryRequest_one {s : State} {q : MemReq} (hrun : s.stagesRun = true) (hok : reqFormed q = true) (hfree : (reqParts q).any s.requestWaits = false)
    (hone : reqParts q = [q]) : exec (.memoryRequest q) s = .next (s.serveRequest q) := by
  rw [exec_memoryRequest hrun hok hfree, hone]
  rfl

/-- A request by what its checks at the port say. -/
theorem State.serveRequest_ends (s : State) (q : MemReq) :
    (∀ b, s.portEnd q = .pass → q.write = some b → s.verifyFirst q = [] → s.serveRequest q = s.putGranule q b) ∧
    (s.portEnd q = .pass → q.write = none → s.serveRequest q = s.readRequest q) ∧
    (s.portEnd q = .denied → s.tierHas q.tier q.offset = true → s.serveRequest q = s.fktDeny q) ∧
    (s.portEnd q = .stale → q.write = none → s.serveRequest q = s) := by
  refine ⟨fun b hend hw hfirst => ?_, fun hend hw => ?_, fun hend htier => ?_, fun hend hw => ?_⟩ <;> unfold State.serveRequest
  · simp only [hend, hw, State.writeRequest, hfirst]
  · simp only [hend, hw]
  · simp only [hend, htier, if_true]
  · simp only [hend, hw, Option.isSome_none, Bool.false_eq_true, if_false]

/-- A write request of one part stores its bytes, and nothing else changes. -/
theorem memoryRequest_stores {s : State} {q : MemReq} {b : Blob} (hrun : s.stagesRun = true) (hok : reqFormed q = true) (hone : reqParts q = [q])
    (hfree : s.requestWaits q = false) (hw : q.write = some b) (hend : s.portEnd q = .pass) (hfirst : s.verifyFirst q = [])
    (hgood : (if q.hot && q.ctx != 0 then s.hotCount q.tier q.offset q.epoch else s).pageBad q.tier q.offset = false) (hwf : Memory.wf s.mem = true) :
    Answers (exec (.memoryRequest q) s) fun t => memRead t.mem (devAddr q.tier q.offset) b.length = b ∧
      SameOutside s t (devAddr q.tier q.offset) b.length ∧ t.allocs = s.allocs ∧ t.queues = s.queues := by
  obtain ⟨hserve, -, -, -⟩ := s.serveRequest_ends q
  have hmem := State.putGranule_stores (b := b) hgood
  refine .of_eq ((memoryRequest_one hrun hok (by simp [hone, hfree]) hone).trans (congrArg Host.Outcome.next (hserve b hend hw hfirst)))
    ⟨?_, fun a ha => ?_, State.putGranule_allocs s q b, State.putGranule_queues s q b⟩
  · rw [hmem, memRead_memWrite _ _ hwf]
  · rw [hmem, memGet_memWrite_out _ _ hwf ha]

/-- Data of a page outside Glaze that no command waits for. -/
theorem memoryReadResponse_plain {s : State} {port tag : Nat} {q : MemReq} (hrun : s.stagesRun = true) (hq : tget? s.glz.reads (port * 1024 + tag) = some q)
    (hplain : s.glazedPage q = none) (hcmd : q.cmd = none) : Answers (exec (.memoryReadResponse port tag .clean .good) s) fun t =>
      t.glz.reads = tdel s.glz.reads (port * 1024 + tag) ∧ t.mem = s.mem := by
  have hhalt : s.loess.halted = false := by simp only [State.stagesRun, Bool.and_eq_true] at hrun; simp_all
  have hpage : ({ s with glz := { s.glz with reads := tdel s.glz.reads (port * 1024 + tag) } } : State).glazedPage q = none := hplain
  refine .of_eq (t := { s with glz := { s.glz with reads := tdel s.glz.reads (port * 1024 + tag) } }) ?_ ⟨rfl, rfl⟩
  show Host.Outcome.next _ = _
  simp only [hq, hrun, hhalt, hpage, State.dataGood, hcmd]
  rfl

/-- A page of a VX1 function moves to a free frame of HBM. -/
theorem State.vx1Move_room {s u : State} {f frame dest : Nat} (hfree : s.freeFrames 0 ≠ 0) (hdest : s.frameFree 0 dest = true)
    (hmove : s.moveFrame (1, frame) (0, dest) = some u) :
    s.vx1Move f frame dest = some (u.updFn f fun x => { x with vx1Frames := x.vx1Frames ++ [dest], vx1LastMove := some s.now }) := by
  have hroom : s.vx1Room f dest = some s := if_pos hfree
  rw [State.vx1Move, hroom, Option.bind_some, if_pos hdest, hmove, Option.map_some]

/-- A new window of hot pages is empty and begins now. -/
theorem State.newWindow_parts (u : State) : u.newWindow.esk.hot = [] ∧ u.newWindow.esk.hotListed = [] ∧ u.newWindow.esk.windowStart = u.newWindow.now ∧
    u.newWindow.esk.windowMs = u.esk.windowNext ∧ u.newWindow.now = u.now := ⟨rfl, rfl, rfl, rfl, rfl⟩

/-- Settles O35, port by port. -/
theorem memoryPorts : Obligations.MemoryPorts := by
  refine ⟨fun s q b hrun hok hone hfree hw hend hfirst hgood hwf => memoryRequest_stores hrun hok hone hfree hw hend hfirst hgood hwf,
    fun s q hrun hok hfree => ⟨exec_memoryRequest hrun hok hfree, fun hone => ?_⟩, fun s port tag q hrun hq hplain hcmd => ?_,
    fun s key k p rest hrun hwalk hrest hheld hwrites => ?_, fun s level pos hrun hdirty hlast => ?_, fun s hrun => ?_,
    fun s u f frame dest hdue hfree hdest hmove => ?_⟩
  · obtain ⟨-, hread, hdenied, hstale⟩ := s.serveRequest_ends q
    rw [memoryRequest_one hrun hok hfree hone]
    exact ⟨fun hend hw => congrArg Host.Outcome.next (hread hend hw),
      fun hend htier => .of_eq (congrArg Host.Outcome.next (hdenied hend htier)) (s.fktDeny_parts q),
      fun hend hw => congrArg Host.Outcome.next (hstale hend hw)⟩
  · exact memoryReadResponse_plain hrun hq hplain hcmd
  · let u := match tget? s.varve.slots k with | some v => s.recrypt k p { v.page p with epochBit := s.keyBit key } | none => s
    refine .of_eq (t := u.updKey key fun x => { x with walk := some rest }) ?_ (congrArg KeySlot.walk (key_updKey u key _))
    show Host.Outcome.next _ = _
    simp only [hrun, hwalk, hheld, hwrites, Bool.not_true, Bool.or_self, Bool.false_eq_true, if_false]
    rw [if_neg (by simpa using hrest)] <;> rfl
  · refine .of_eq (t := s.writeNode level pos) ?_ ⟨rfl, State.writeNode_mem s level pos⟩
    show Host.Outcome.next _ = _
    simp only [hlast, hrun, hdirty, Bool.and_self, if_true]
  · obtain ⟨hhot, hlisted, hstart, hnext, hnow⟩ := (s.advanceTo s.windowEnd).newWindow_parts
    refine .of_eq (congrArg Host.Outcome.next (if_neg (by simp [hrun]))) ⟨hhot, hlisted, hstart, by rw [hnext, State.advanceTo_esk], ?_⟩
    rw [hnow]
    exact State.advanceTo_le s _
  · refine ⟨u.updFn f fun x => { x with vx1Frames := x.vx1Frames ++ [dest], vx1LastMove := some s.now }, ?_, rfl⟩
    show Host.Outcome.next _ = _
    rw [if_pos hdue, State.vx1Move_room hfree hdest hmove]

end Sys2Proof.Machine
end

section
/-! PROOFS. Turns, switches and residency (09_scheduling.md, Turns; Switching the occupant; Residency). -/

namespace Sys2Proof.Machine

open Sys2Proof

/-- A turn granted to no context. -/
theorem State.grantTurn_idle {s : State} {u : Nat} {p : Pick} (h : p.who = none) : ((s.grantTurn u p).unit u).turn = some
    { no := s.ledg.turnCount + 1, ctx := none, start := s.now, quantumNs := s.serac.rtUs * 1000, reserved := p.reserved, pool := false } := by
  unfold State.grantTurn
  simp only [h]
  exact congrArg SUnit.turn (State.unit_updUnit s u _)

/-- A second preemption of a unit changes its mode alone, and its packet goes to the port. -/
theorem State.sendPreempt_again {s : State} {u : Nat} {p : Preempt} (h : (s.unit u).preempt = some p) : ((s.sendPreempt u p.ctx 1).unit u).preempt = some { p with mode := 1 } ∧
    (s.sendPreempt u p.ctx 1).now = s.now ∧
    (s.sendPreempt u p.ctx 1).ports.tile = s.ports.tile ++ [{ port := u, cls := 0, typ := 2, index := 0, tag := 0, ctx := p.ctx, payload := preemptBytes 1 }] := by
  have hspent : ((s.sendTile { port := u, cls := 0, typ := 2, index := 0, tag := 0, ctx := p.ctx, payload := preemptBytes 1 }).unit u).preempt = some p := by
    show ((s.updUnit u _).unit u).preempt = _
    rw [State.unit_updUnit, spend_preempt, h]
  refine ⟨?_, rfl, rfl⟩
  unfold State.sendPreempt
  dsimp only
  rw [if_neg (by simp), State.unit_updUnit, hspent]

/-- What is written of a unit leaves the counters of the scheduler alone. -/
theorem State.foldl_updUnit_swapIns (l : List Nat) (g : Nat → SUnit → SUnit) (s : State) :
    (l.foldl (fun t u => t.updUnit u (g u)) s).serac.swapIns = s.serac.swapIns := by
  induction l generalizing s with
  | nil => rfl
  | cons u l ih => rw [List.foldl_cons, ih]; rfl

/-- A context swapped in is resident from now on. -/
theorem State.swapInCtx_parts (s : State) (x : Nat) : (s.swapInCtx x).serac.swapIns = satAdd s.serac.swapIns 1 0xFFFFFFFF ∧
    ∀ c, tget? s.ctxs x = some c → ∃ d, tget? (s.swapInCtx x).ctxs x = some d ∧ d.resident = true ∧ d.residentSince = s.now := by
  refine ⟨congrArg (satAdd · 1 0xFFFFFFFF) (State.foldl_updUnit_swapIns (s.clustersOf x) (fun _ y => { y with slots := tset y.slots (tfree y.slots 0) x }) s),
    fun c hc => ⟨{ c with resident := true, residentSince := s.now, waitSince := none, aged := false }, ?_, rfl, rfl⟩⟩
  refine State.modCtx_get (fun c => { c with resident := true, residentSince := s.now, waitSince := none, aged := false }) ?_
  rw [foldl_ctxs _ _ _ fun t u => State.updUnit_ctxs t u _]
  exact hc

/-- Settles O31, event by event. -/
theorem turnCommands : Obligations.TurnCommands := by
  intro s u hrun hok
  refine ⟨fun p hturn hrestore hframe hpick => ⟨?_, State.grantTurn_idle⟩, fun t hturn hheld => ⟨?_, State.advanceTo_le s _⟩,
    fun t x hturn hx hpool hheld hclass hslots hnew => ?_, fun p hp hmode hreached hcredit => ?_, fun x hdue => ?_, fun x hdue => ?_,
    fun x c t0 hc hwait haged => ?_⟩
  · show Host.Outcome.next _ = _
    simp only [hturn, hrestore, hrun, hok, hframe, hpick, Option.isSome_none, Bool.not_true, Bool.or_self, Bool.false_eq_true, if_false]
  · have hholds : (t.ctx.isSome && (s.unit u).holder != t.ctx) = false := by
      rcases hheld with h | h <;> simp [h]
    show Host.Outcome.next _ = _
    simp only [hturn, hrun, hok, hholds, Bool.not_true, Bool.or_self, Bool.false_eq_true, if_false]
  · obtain ⟨no, ctx, start, quantum, reserved, pool⟩ := t
    dsimp only at hx hpool
    subst hx hpool
    show Host.Outcome.next _ = _
    simp only [hturn]
    rw [if_neg (by simp [hrun, hok, hheld, hclass, hslots, hnew])]
  · generalize hv : s.advanceTo (p.sentAt + p.bound) = v
    have hpv : (v.unit u).preempt = some p := by rw [← hv, State.advanceTo_preempt, hp]
    obtain ⟨hpre, hnow, htile⟩ := State.sendPreempt_again hpv
    refine .of_eq (t := v.sendPreempt u p.ctx 1) ?_ ⟨hpre, ?_, ?_⟩
    · rw [← hv]
      show Host.Outcome.next _ = _
      simp only [hp]
      rw [if_neg (by simp [hrun, hok, hmode, hreached, hcredit])]
    · rw [hnow, ← hv]
      exact State.advanceTo_le s _
    · rw [htile, ← hv, State.advanceTo_ports]
  · exact ⟨s.swapInCtx x, congrArg Host.Outcome.next (if_pos (by simp [hrun, hdue])), s.swapInCtx_parts x⟩
  · let v := (s.writeSlotStates x).freeSlots x
    refine ⟨{ v with serac := { v.serac with evictions := satAdd v.serac.evictions 1 0xFFFFFFFF } }, ?_, congrArg (satAdd · 1 0xFFFFFFFF) (slotEv s x)⟩
    show Host.Outcome.next _ = _
    rw [if_pos hrun, hdue]
    rfl
  · refine .of_eq (t := (s.advanceTo (t0 + 1000 * s.serac.ageUs)).modCtx x fun y => { y with aged := true }) ?_
      ⟨State.modCtx_get _ (by rw [State.advanceTo_ctxs]; exact hc), State.advanceTo_le s _⟩
    show Host.Outcome.next _ = _
    simp only [hc, hwait, haged, Bool.false_eq_true, if_false]

end Sys2Proof.Machine
end

section
/-! PROOFS. Packets of a tile port's up direction (02_edges.md, Tile ports; 09_scheduling.md; 13_reliability.md, Detectors). -/

namespace Sys2Proof.Machine

open Sys2Proof

/-- Taking a packet up leaves the checks of a switch as they are. -/
theorem State.tookUp_cleaveOk (s : State) (u cls : Nat) (p : TilePkt) (x node idx live : Nat) :
    (s.tookUp u cls p).cleaveOk u x node idx live = s.cleaveOk u x node idx live := by
  unfold State.cleaveOk
  rw [State.tookUp_unit]
  rfl

section
variable {s : State} {u : Nat} {p : TilePkt}

/-- DONE of a tile at work: it gathers, or ends the tile. -/
theorem exec_tileDone {w : Work} {c : Cmd} (hrun : s.stagesRun = true) (hok : s.unitOk u = true) (hsound : packetSound p) (htyp : p.typ = 0x11)
    (hw : (s.unit u).works.find? (·.tag == p.tag) = some w) (hc : tget? s.cmds w.cmd = some c) : exec (.tileDone u p) s = .next (
      if fld (w.got ++ p.payload) 0 4 = w.bytes ∧ (w.got ++ p.payload).length < 16 + fld (w.got ++ p.payload) 0 4 then
        (s.tookUp u 0 p).updUnit u fun y => { y with works := y.works.map fun x => if x.tag = p.tag then { x with got := w.got ++ p.payload } else x }
      else (s.tookUp u 0 p).finishWork u w c (w.got ++ p.payload)) := by
  show Host.Outcome.next _ = _
  rw [State.takeUp_ok hrun hok hsound (by decide) htyp]
  simp only [State.tookUp_works, hw, State.tookUp_cmds, hc]

/-- CLEAVE_REACHED of the switch under way. -/
theorem cleaveReached_noted {q : Preempt} (hrun : s.stagesRun = true) (hok : s.unitOk u = true) (hsound : packetSound p) (htyp : p.typ = 0x12)
    (hcleave : s.cleaveOk u p.ctx (fld p.payload 6 2) (fld p.payload 4 2) (fld p.payload 8 8) = true) (hq : (s.unit u).preempt = some q)
    (hctx : q.ctx = p.ctx) (hmode : q.mode ≠ 2) (hreached : q.reached = none) : exec (.cleaveReached u p) s = .next (
      (s.tookUp u 0 p).updUnit u fun y => { y with preempt := some { q with reached := some (fld p.payload 4 2, fld p.payload 8 8) } }) := by
  show Host.Outcome.next _ = _
  rw [State.takeUp_ok hrun hok hsound (by decide) htyp]
  simp only [State.tookUp_cleaveOk, hcleave, State.tookUp_preempt, hq, Bool.not_true, Bool.false_eq_true, if_false]
  rw [if_pos ⟨hctx, hmode, by rw [hreached]; rfl⟩]

/-- SAVE_DATA of the switch under way, in its turn and within its limit. -/
theorem saveData_taken {q : Preempt} (hrun : s.stagesRun = true) (hok : s.unitOk u = true) (hsound : packetSound p) (htyp : p.typ = 0x11)
    (hq : (s.unit u).preempt = some q) (hmode : q.mode ≠ 2) (hctx : q.ctx = p.ctx) (hseq : p.index = q.seq)
    (hlen : fld p.payload 8 4 = (p.payload.drop 16).length) (hlimit : q.bytes + (p.payload.drop 16).length ≤ s.saveLimit u q) :
    Answers (exec (.saveData u p) s) fun t =>
      (t.unit u).preempt = some { q with seq := q.seq + 1, bytes := q.bytes + (p.payload.drop 16).length } := by
  let t := s.tookUp u 3 p
  let t1 := (t.modSave q.ctx u fun a =>
    { (if q.seq = 0 then { index := t.areaFor q.ctx u } else a) with
      chunks := (if q.seq = 0 then { index := t.areaFor q.ctx u } else a).chunks ++ [(fld p.payload 0 8, (p.payload.drop 16).length)] }).regionWrite
        (t.savePoint u (t.areaFor q.ctx u) + q.bytes) (p.payload.drop 16)
  have hfits : ¬ (q.ctx ≠ p.ctx ∨ p.index ≠ q.seq ∨ fld p.payload 8 4 ≠ (p.payload.drop 16).length ∨
      (s.tookUp u 3 p).saveLimit u q < q.bytes + (p.payload.drop 16).length) := by
    have hsame : (s.tookUp u 3 p).saveLimit u q = s.saveLimit u q := rfl
    rw [hsame]
    rintro (h | h | h | h)
    · exact h hctx
    · exact h hseq
    · exact h hlen
    · omega
  refine .of_eq (t := t1.updUnit u fun y => { y with
    preempt := some { q with seq := q.seq + 1, bytes := q.bytes + (p.payload.drop 16).length }
    saveBytes := (y.saveBytes + (p.payload.drop 16).length) % 2 ^ 64 }) ?_ (congrArg SUnit.preempt (State.unit_updUnit t1 u _))
  show Host.Outcome.next _ = _
  rw [State.takeUp_ok hrun hok hsound (by decide) htyp]
  simp only [State.tookUp_preempt, hq, if_neg hmode, if_neg hfits]
  rfl

/-- SAVE_END of the switch under way. -/
theorem saveEnd_done {q : Preempt} (hrun : s.stagesRun = true) (hok : s.unitOk u = true) (hsound : packetSound p) (htyp : p.typ = 0x12)
    (hq : (s.unit u).preempt = some q) (hctx : q.ctx = p.ctx) (hmode : q.mode ≠ 2) (hkind : fld p.payload 0 1 ≠ 2)
    (hend : q.endOk (s.fullSave u) p.index p.payload = true) :
    exec (.saveEnd u p) s = .next ((((s.tookUp u 3 p).saveDone u q p.payload).switchOn u).settle) := by
  have hfull : (s.tookUp u 3 p).fullSave u = s.fullSave u := rfl
  show Host.Outcome.next _ = _
  rw [State.takeUp_ok hrun hok hsound (by decide) htyp]
  simp only [State.tookUp_preempt, hq, if_neg hmode, hfull, hend]
  rw [if_neg (by simp [hctx]), if_neg (by simp [hkind])]

/-- TILE_ERROR, by its severity. -/
theorem tileError_ends (hrun : s.stagesRun = true) (hok : s.unitOk u = true) (hsound : packetSound p) (htyp : p.typ = 0x13) :
    (fld p.payload 3 1 = 1 → exec (.tileError u p) s = .next (((s.tookUp u 0 p).contextReset p.ctx 4 (fld p.payload 4 4) none none).settle)) ∧
    (∀ w, fld p.payload 3 1 = 0 → (s.unit u).works.find? (·.tag == p.tag) = some w → exec (.tileError u p) s =
      .next (((((s.tookUp u 0 p).updUnit u fun y => { y with works := y.works.filter (·.tag != p.tag) }).failCmd w.cmd .tileError).workMoved w.cmd))) := by
  refine ⟨fun hsev => ?_, fun w hsev hw => ?_⟩ <;>
    (show Host.Outcome.next _ = _; rw [State.takeUp_ok hrun hok hsound (by decide) htyp]; simp only [hsev])
  simp only [State.tookUp_works, hw]

end

/-- Settles O32, packet by packet. -/
theorem tilePackets : Obligations.TilePackets := by
  intro s u p hrun hok hsound
  refine ⟨fun w c htyp hw hc => ⟨fun hbytes hmore => ?_, fun hbytes hall => ?_⟩, fun q htyp hcleave hq hctx hmode hreached => ?_,
    fun q htyp hq hmode hctx hseq hlen hlimit => saveData_taken hrun hok hsound htyp hq hmode hctx hseq hlen hlimit,
    fun q htyp hq hctx hmode hkind hend => saveEnd_done hrun hok hsound htyp hq hctx hmode hkind hend,
    fun htyp hsev => (tileError_ends hrun hok hsound htyp).1 hsev, fun w htyp hsev hw => (tileError_ends hrun hok hsound htyp).2 w hsev hw⟩
  · refine .of_eq ((exec_tileDone hrun hok hsound htyp hw hc).trans (congrArg Host.Outcome.next (if_pos ⟨hbytes, hmore⟩))) ?_
    rw [State.unit_updUnit]
    exact congrArg (List.map _) (State.tookUp_works s u 0 p)
  · rw [exec_tileDone hrun hok hsound htyp hw hc, if_neg (by omega)]
  · exact .of_eq (cleaveReached_noted hrun hok hsound htyp hcleave hq hctx hmode hreached) (congrArg SUnit.preempt (State.unit_updUnit _ u _))

end Sys2Proof.Machine
end

section
/-! PROOFS. The tap exchange and the training update (08_adapters.md). -/

namespace Sys2Proof.Machine

open Sys2Proof

theorem State.siltEng_updSilt (s : State) (n : Nat) (g : SiltEng → SiltEng) : (s.updSilt n g).siltEng n = g (s.siltEng n) := by
  unfold State.updSilt State.siltEng tupd tget
  dsimp only
  rw [tget?_tset]
  rfl

section
variable {s : State} {u : Nat} {p : TilePkt}

/-- The first packet of a tap whose tag is free at its port. -/
theorem exec_tapIn (hrun : s.stagesRun = true) (hok : s.unitOk u = true) (hsound : packetSound p) (htyp : p.typ = 0x11)
    (hpart : tget? s.silt.partials u = none) (hfree : (s.silt.taps.any fun y => y.port == u && y.tag == p.index) = false) : exec (.tapIn u p) s = .next (
      if 32 ≤ p.payload.length ∧ p.payload.length < 32 + fld p.payload 24 4 then
        { s.tookUp u 2 p with silt := { s.silt with partials := tset s.silt.partials u (p.index, p.payload) } }
      else (({ s.tookUp u 2 p with silt := { s.silt with partials := tdel s.silt.partials u } } : State).takeTap u (tapOf u p p.payload) p.payload).settle) := by
  show Host.Outcome.next _ = _
  rw [State.takeUp_ok hrun hok hsound (by decide) htyp]
  simp only [State.tookUp_silt, hpart, hfree, List.nil_append, Bool.false_eq_true, if_false]

/-- A slice fetched joins the cache of its engine. -/
theorem State.cacheSlice_slices (s : State) (e : Nat) (x : Slice) : ((s.cacheSlice e x).siltEng e).slices =
      evictSlices (s.neededSlices ++ [x]) ((s.siltEng e).slices.length + 1) ((s.siltEng e).slices ++ [x]) ∧
    ((s.cacheSlice e x).siltEng e).fetches = (s.siltEng e).fetches := by
  unfold State.cacheSlice
  dsimp only
  rw [State.siltEng_updSilt]
  exact ⟨rfl, rfl⟩

/-- A fetch of a slice that is good ends with the slice in the cache. -/
theorem sliceFetchDone_caches {e : Nat} {x : Slice} {rest : List Slice} (g : Nat) (hrun : s.stagesRun = true) (hx : (s.siltEng e).fetches = x :: rest)
    (hsilt : s.siltOk e = true) (hgood : s.sliceBad x = false) : Answers (exec (.sliceFetchDone e { place := g }) s) fun t => (t.siltEng e).fetches = rest ∧
      ∃ need, (t.siltEng e).slices = evictSlices (need ++ [x]) ((s.siltEng e).slices.length + 1) ((s.siltEng e).slices ++ [x]) := by
  let s1 := s.updSilt e fun y => { y with fetches := rest }
  have hs1 : s1.siltEng e = { s.siltEng e with fetches := rest } := State.siltEng_updSilt s e _
  obtain ⟨hslices, hfetches⟩ := s1.cacheSlice_slices e x
  have hv : (((s1.cacheSlice e x).updSilt e SiltEng.trim).progress (siltEngine e)).siltEng e = ((s1.cacheSlice e x).siltEng e).trim :=
    State.siltEng_updSilt _ e SiltEng.trim
  refine .of_eq (t := ((s1.cacheSlice e x).updSilt e SiltEng.trim).progress (siltEngine e)) ?_ ⟨?_, s1.neededSlices, ?_⟩
  · show Host.Outcome.next _ = _
    simp only [hx, hrun, hsilt, hgood, Bool.not_true, Bool.or_self, Bool.false_eq_true, if_false]
    rfl
  · rw [hv]
    exact hfetches.trans (congrArg SiltEng.fetches hs1)
  · rw [hv]
    refine hslices.trans ?_
    rw [hs1]

/-- A null tap is answered where the port has credit. -/
theorem tapAnswer_null {tag : Nat} {t : Tap} (hrun : s.stagesRun = true) (hok : s.unitOk u = true)
    (ht : s.silt.taps.find? (fun t => t.port == u && t.tag == tag) = some t) (hnull : t.null = true) (hcredit : (s.unit u).hasCredit 2 = true) :
    exec (.tapAnswer u tag) s = .next (((s.dropTap t).answerNull t).workMoved t.cmd) := by
  show Host.Outcome.next _ = _
  simp only [ht, hrun, hok, hnull, hcredit, Bool.not_true, Bool.or_self, Bool.false_eq_true, if_false, if_true]

/-- A ready tap is answered where the port has credit. -/
theorem tapAnswer_ready {tag e : Nat} {t : Tap} {c : Cmd} (hrun : s.stagesRun = true) (hok : s.unitOk u = true)
    (ht : s.silt.taps.find? (fun t => t.port == u && t.tag == tag) = some t) (hnull : t.null = false) (hc : tget? s.cmds t.cmd = some c)
    (hready : s.tapReady t c = true) (he : s.tapEngine t c = some e) (hcredit : (s.unit u).hasCredit 2 = true) :
    ∃ v : State, v = { (((t.packets 1 (s.tapAdd t c)).foldl State.sendTile (s.dropTap t)).keepInters t c).accumulateTap t c with free := s.free + tapDraws } ∧
      exec (.tapAnswer u tag) s =
        .next (((v.updSilt e fun g => { g with taps := (g.taps + 1) % 2 ^ 64 }).progress (siltEngine e)).workMoved t.cmd).settle := by
  refine ⟨_, rfl, ?_⟩
  show Host.Outcome.next _ = _
  simp only [ht, hrun, hok, hnull, hc, hready, he, hcredit, Bool.not_true, Bool.or_self, Bool.false_eq_true, if_false]

/-- The update of a training step begins with its optimizer block. -/
theorem trainUpdate_begins {r : Nat} {c c1 : Cmd} {x : Ctx} {d : Check × Cmd} {v : State} {y : Blob × State} (hrun : s.stagesRun = true)
    (hc : tget? s.cmds r = some c) (hop : c.opcode = 0x81) (hstage : c.stage = .running) (hlive : c.live = true) (hupd : c.updating = false)
    (hprov : c.waitProv = false) (hdone : s.workDone r c = true) (hx : tget? s.ctxs c.ctx = some x)
    (hfree : (s.crevAny fun v => v.unsettled && v.stuck.contains r) = false) (hcheck : s.checkSpans c x 0x0700 [⟨3, ioBufAddr c.sqe 3, 32, 1⟩] = d)
    (hok : d.1 = .ok) (hv : v = (s.modCmd r fun z => { z with descs := d.2.descs }))
    (hlack : v.lackReads r c (s.epochOf 0x0700) (d.2.pieces 3 (ioBufAddr c.sqe 3) 32) = [])
    (hy : y = v.readPieces r c (s.epochOf 0x0700) (d.2.pieces 3 (ioBufAddr c.sqe 3) 32)) (hc1 : tget? y.2.cmds r = some c1) (hd : c1.decided = none) :
    exec (.trainUpdate r) s = .next (y.2.beginUpdate r c1 y.1).settle := by
  have hspans : (s.checkSpans c x 0x0700 [⟨3, ioBufAddr c.sqe 3, 32, 1⟩]).1 = .ok := hcheck ▸ hok
  show Host.Outcome.next _ = _
  simp only [hc, hop, hstage, hlive, hupd, hprov, hdone, hrun]
  simp only [State.cirqueSpans_eq _ _ hx hfree, State.withSpans_ok _ hspans, hcheck, ← hv, hlack, ← hy, hc1, hd]
  rfl

/-- The tokens of a step are taken without a change to its context or to Silt. -/
theorem State.commitTokens_parts {r : Nat} (c : Cmd) {y : Cmd} (h : tget? s.cmds r = some y) :
    (∃ b, tget? (s.commitTokens r c).cmds r = some { y with tookTokens := b }) ∧ (s.commitTokens r c).ctxs = s.ctxs ∧ (s.commitTokens r c).silt = s.silt := by
  unfold State.commitTokens
  split
  · rw [State.syncSeqs_cmds, State.syncSeqs_ctxs, State.syncSeqs_silt]
    refine ⟨⟨true, ?_⟩, rfl, rfl⟩
    rw [State.modCmd_cmds, tget?_tmod, State.takeTokens_cmds, h]
    rfl
  · exact ⟨⟨y.tookTokens, h⟩, rfl, rfl⟩

/-- A context that is not being reset has nothing to settle. -/
theorem State.ctxResetSettle_none {x : Nat} (h : ∀ c, tget? s.ctxs x = some c → c.resetting = false) : s.ctxResetSettle x = s := by
  unfold State.ctxResetSettle
  split
  · rfl
  · next c hc => rw [h c hc]; rfl

/-- The update of a training step commits. -/
theorem trainUpdateCommit_ends {r : Nat} {c : Cmd} (hrun : s.stagesRun = true) (hc : tget? s.cmds r = some c) (hupd : c.updating = true)
    (hd : c.decided = none) (hctx : ∀ x, tget? s.ctxs c.ctx = some x → x.resetting = false) :
    AnswersSettled (exec (.trainUpdateCommit r) s) fun t => t.ended r .success ∧ t.cmdHas r (fun x => x.updating = false) ∧
      t.silt.variants = tmap s.silt.variants fun k v => if c.variants.any (·.id == k) then v.commitStep else v := by
  generalize hs1 : (({ s with silt := { s.silt with variants := tmap s.silt.variants fun k v => if c.variants.any (·.id == k) then v.commitStep else v } } : State).modCmd r
    fun x => { x with updating := false, updated := c.variants.any fun y => (tget? s.silt.variants y.id).any Variant.trains }) = s1
  have hcmd : tget? s1.cmds r = some { c with updating := false, updated := c.variants.any fun y => (tget? s.silt.variants y.id).any Variant.trains } := by
    rw [← hs1, State.modCmd_cmds, tget?_tmod, hc]
    rfl
  have hctxs : s1.ctxs = s.ctxs := by rw [← hs1]; rfl
  have hsilt : s1.silt.variants = tmap s.silt.variants fun k v => if c.variants.any (·.id == k) then v.commitStep else v := by rw [← hs1]; rfl
  obtain ⟨⟨b, hcmd2⟩, hctxs2, hsilt2⟩ := State.commitTokens_parts c hcmd
  have hsettle : ((s1.commitTokens r c).report r .success).ctxResetSettle c.ctx = (s1.commitTokens r c).report r .success :=
    State.ctxResetSettle_none fun x hx => hctx x (by rw [State.report_ctxs, hctxs2, hctxs] at hx; exact hx)
  refine ⟨(s1.commitTokens r c).report r .success, ?_, State.report_ended .success hcmd2 hd, State.cmdHas_report .success hcmd2 rfl hd, ?_⟩
  · refine Eq.trans ?_ (congrArg (fun t : State => Host.Outcome.next t.settle) hsettle)
    show Host.Outcome.next _ = _
    simp only [hc, hupd, hrun, hs1, hd, Bool.not_true, Bool.or_self, Bool.false_eq_true, if_false, Option.isSome_none]
  · rw [State.report_silt, hsilt2, hsilt]
end

/-- Settles O34, event by event. -/
theorem tapsAndTraining : Obligations.TapsAndTraining := by
  intro s u p hrun hok
  refine ⟨fun hsound htyp hpart hfree => ⟨fun h1 h2 => ?_, fun h => ⟨_, ?_, (exec_tapIn hrun hok hsound htyp hpart hfree).trans
      (congrArg Host.Outcome.next (if_neg (by omega)))⟩⟩,
    fun e x rest g hx hsilt hgood => sliceFetchDone_caches g hrun hx hsilt hgood, fun tag t ht hnull hcredit => tapAnswer_null hrun hok ht hnull hcredit,
    fun tag t c e ht hnull hc hready he hcredit => tapAnswer_ready hrun hok ht hnull hc hready he hcredit,
    fun r c x d v y c1 hc hop hstage hlive hupd hprov hdone hx hfree hcheck hd1 hv hlack hy hc1 hd =>
      trainUpdate_begins hrun hc hop hstage hlive hupd hprov hdone hx hfree hcheck hd1 hv hlack hy hc1 hd,
    fun r c hc hupd hd hctx => trainUpdateCommit_ends hrun hc hupd hd hctx⟩
  · refine .of_eq ((exec_tapIn hrun hok hsound htyp hpart hfree).trans (congrArg Host.Outcome.next (if_pos ⟨h1, h2⟩))) ⟨?_, rfl⟩
    exact tget?_tset _ _ _
  · rfl

end Sys2Proof.Machine
end

section
/-! PROOFS. Issue, streams, walks and credits (09_scheduling.md, Issuing work; 06_translation.md; 02_edges.md, Tile ports;
07_base_weights.md, The weight stream; 10_sequences.md, Boundaries and the provisioning pass). -/

namespace Sys2Proof.Machine

open Sys2Proof

section
variable {s : State} {u : Nat}

/-- Spans that lack a page fault, and spans that lack a right fail their command. -/
theorem State.withSpans_faults {r : Nat} {c : Cmd} {x : Ctx} {n engine va : Nat} {l : List VaSpan} {d : Check × Cmd} (f : State → Cmd → State)
    (hd : s.checkSpans c x engine l = d) :
    (d.1 = .missing va → s.withSpans r c x n engine l f =
      (s.modCmd r fun z => { z with descs := d.2.descs }).tileFault r c x.leaves (2 ^ n) (spanAccess l) va (spanRanges l) false) ∧
    (d.1 = .rights va → s.withSpans r c x n engine l f =
      ((s.modCmd r fun z => { z with descs := d.2.descs }).rightsFault c (2 ^ n) (spanAccess l) va (spanRanges l) (lackRanges (l.flatMap d.2.parts))).fail r .rightsViolation) := by
  subst hd
  refine ⟨fun h => ?_, fun h => ?_⟩ <;>
  · unfold State.withSpans
    simp only [h]

/-- The next tile of a context that is not parked goes through the check of its spans. -/
theorem exec_issue {k r : Nat} {c : Cmd} {t : TileRef} {x : Ctx} {n : Node} {w : Tile} (hk : s.mayIssue u = some k) (hpark : s.ctxParked k = false)
    (hnext : s.nextTile k u = some (r, c, t)) (hx : tget? s.ctxs k = some x) (hn : tileAt (s.nodesOf c) t = some (n, w)) (hw : w.writesTable c = false) :
    exec (.issue u) s = .next (s.withSpans r c x u (seracEngine u) (w.vaSpans c) fun s1 c1 => s1.issueTile u r c1 t n w).settle := by
  refine congrArg (fun t : State => Host.Outcome.next t.settle) ?_
  unfold State.issueNext
  simp only [hk, hpark, hnext, hx, hn, hw, Bool.false_eq_true, if_false]

/-- A tile with its data at hand and credit at its port is sent. -/
theorem State.issueTile_sends {v : State} {r : Nat} {c c1 : Cmd} {t : TileRef} {n : Node} {w : Tile} {ins : List Piece} {y : Blob × State}
    (hins : ins = ((w.spans.filter fun z => bit z.access 0).flatMap fun z => v.spanPieces c z))
    (hlack : v.lackReads r c (v.epochOf (seracEngine u)) ins = []) (hcredit : (v.unit u).hasCredit 0 = true)
    (hy : y = (v.modCmd r fun z => { z with descs := v.kvRefresh z w }).readPieces r c (v.epochOf (seracEngine u)) ins)
    (hc1 : tget? y.2.cmds r = some c1) (hd : c1.decided = none) : v.issueTile u r c t n w =
      y.2.sendIssue u r c1 t n ((w.spans.filter fun z => bit z.access 1).flatMap fun z => v.spanPieces c z) y.1 := by
  unfold State.issueTile
  simp only [← hins, hlack, hcredit, ← hy, hc1, hd]
  rfl

/-- The record that has waited longest and has a place is written at the tail of the Crevasse ring. -/
theorem State.crevWrite_parts (r : Crev) : (s.crevWrite r).esk.crevWaiting = s.esk.crevWaiting ∧ (s.crevWrite r).esk.crevTail = (s.esk.crevTail + 1) % 1024 ∧
    tget? (s.crevWrite r).esk.crev s.esk.crevTail = some { r with seq := (s.esk.crevSeq + 1) % 65536, time := s.now } := by
  unfold State.crevWrite
  dsimp only
  rw [State.postEvent_esk]
  exact ⟨rfl, rfl, tget?_tset _ _ _⟩

/-- A Crevasse record that waits is posted. -/
theorem crevasseWaitingPost_writes {r : Crev} {t : List Crev} (hrun : s.stagesRun = true) (hready : s.crevReady = r :: t) :
    Answers (exec .crevasseWaitingPost s) fun v =>
      v.esk.crevWaiting = s.esk.crevWaiting.erase r ∧ v.esk.crevTail = (s.esk.crevTail + 1) % 1024 ∧
      ∃ y, tget? v.esk.crev s.esk.crevTail = some y ∧ y.seq = (s.esk.crevSeq + 1) % 65536 ∧ y.ctx = r.ctx ∧ y.union = r.union ∧ y.time = s.now := by
  obtain ⟨hwaiting, htail, hrec⟩ := State.crevWrite_parts (s := { s with esk := { s.esk with crevWaiting := s.esk.crevWaiting.erase r } }) r
  refine .of_eq (t := ({ s with esk := { s.esk with crevWaiting := s.esk.crevWaiting.erase r } } : State).crevWrite r) ?_
    ⟨hwaiting, htail, _, hrec, rfl, rfl, rfl, rfl⟩
  show Host.Outcome.next _ = _
  rw [if_pos hrun, State.crevPostWaiting, hready]

/-- A table walk that reads its tables: the run it finds joins the cache, and a table that cannot be read is noted. -/
theorem tableWalkDone_ends {k lv : Nat} {w : Walk} {x : Ctx} (hrun : s.stagesRun = true) (hw : tget? s.esk.walks k = some w) (hup : s.engDown (0x0600 + k) = false)
    (hx : tget? s.ctxs w.ctx = some x) :
    (∀ l, x.badAt w.va 1 = false → s.walkStale w x = false → leafAt x.leaves w.va = some l → Answers (exec (.tableWalkDone k { place := lv }) s) fun t =>
      t.esk.walks = tdel s.esk.walks k ∧ ∃ old, old.length ≤ 65535 ∧
        t.esk.cache = old ++ [{ ctx := w.ctx, leaf := (runAt x.leaves l).1, run := (runAt x.leaves l).2 }]) ∧
    (∀ n, w.cmd = none → n = tableSpan (min lv (walkDepth x.leaves w.va)) →
      Answers (exec (.tableWalkDone k { ecc := .uncorrectable, place := lv }) s) fun t =>
        tget? t.ctxs w.ctx = some { x with badTables := x.badTables ++ [(w.va / n * n, n)] } ∧ t.esk.cache = s.esk.cache) := by
  let s1 : State := { s.progress (0x0600 + k) with esk := { s.esk with walks := tdel s.esk.walks k } }
  refine ⟨fun l hgood hfresh hl => ?_, fun n hcmd hn => ?_⟩
  · refine .of_eq (t := s1.cacheRun w.ctx (runAt x.leaves l).1 (runAt x.leaves l).2) ?_ ⟨rfl, _, ?_, rfl⟩
    · show Host.Outcome.next _ = _
      simp only [hw, hrun, hup, hx, hgood, hfresh, hl]
      rfl
    · rw [List.length_reverse]
      exact List.length_take_le _ _
  · refine .of_eq (t := s1.modCtx w.ctx fun y => { y with badTables := y.badTables ++ [(w.va / n * n, n)] }) ?_ ⟨?_, rfl⟩
    · show Host.Outcome.next _ = _
      simp only [hw, hrun, hup, hx, hcmd, hn]
      rfl
    · show tget? (tmod s.ctxs w.ctx _) w.ctx = _
      rw [tget?_tmod, hx]
      rfl

/-- Credit returned to a port whose cluster is idle, and credit that a cluster gives back. -/
theorem creditReturn_counts {cls n : Nat} (hrun : s.stagesRun = true) (hcls : cls < 4) (hpresent : s.present u = true)
    (hfence : (s.eng (seracEngine u)).fenced = false) (hn : n ≠ 0) :
    ((s.unit u).turn = none → (s.unit u).rstAt = none → (s.unit u).itemsAhead = 0 → Answers (exec (.creditReturn u true cls n) s) fun t =>
      (t.unit u).due = setAt (s.unit u).due cls ((s.unit u).due.getD cls 0 - n) ∧
      (t.unit u).down = setAt (s.unit u).down cls
        (min ((s.unit u).down.getD cls 0 + (n - (s.unit u).due.getD cls 0)) ((s.unit u).downMax.getD cls 0))) ∧
    (s.unitOk u = true → (s.unit u).up.getD cls 0 + n ≤ upMax.getD cls 0 → Answers (exec (.creditReturn u false cls n) s) fun t =>
      (t.unit u).up = setAt (s.unit u).up cls ((s.unit u).up.getD cls 0 + n) ∧ t.ports.credits = s.ports.credits ++ [(u, cls, n)]) := by
  have hopen : (decide (4 ≤ cls) || !s.present u || (s.eng (seracEngine u)).fenced || n == 0) = false := by simp [hcls, hpresent, hfence, hn]
  refine ⟨fun hturn hrst hahead => ?_, fun hok hroom => ?_⟩
  · generalize hs2 : (s.updUnit u fun y => { y.earn cls n with
      credited := if y.credited.contains cls then y.credited else y.credited ++ [cls] }) = s2
    have hunit : s2.unit u = { (s.unit u).earn cls n with
        credited := if (s.unit u).credited.contains cls then (s.unit u).credited else (s.unit u).credited ++ [cls] } := by rw [← hs2, State.unit_updUnit]
    have hnone : (s2.unit u).itemsAhead = 0 := by rw [hunit]; exact hahead
    have hidle : (s2.unit u).turn = none := by rw [hunit]; exact hturn
    refine .of_eq (t := s2) ?_ (by rw [hunit]; exact ⟨rfl, rfl⟩)
    show Host.Outcome.next _ = _
    simp only [hopen, hrst, Bool.false_eq_true, if_false, Bool.not_true]
    rw [hs2, hnone, State.sendAhead, State.switchOn, hidle]
  · refine .of_eq (t := { (s.updUnit u fun y => { y with up := setAt y.up cls ((s.unit u).up.getD cls 0 + n) }) with
      ports := { s.ports with credits := s.ports.credits ++ [(u, cls, n)] } }) ?_ ⟨?_, rfl⟩
    · show Host.Outcome.next _ = _
      simp only [hopen, Bool.false_eq_true, if_false, Bool.not_false, if_true]
      have hsend : (!s.stagesRun || !s.unitOk u || decide (upMax.getD cls 0 < (s.unit u).up.getD cls 0 + n)) = false := by
        rw [hrun, hok, decide_eq_false (Nat.not_lt.mpr hroom)]; rfl
      rw [State.returnUp, hsend] <;> rfl
    · exact congrArg SUnit.up (State.unit_updUnit s u _)

/-- A weight block of a stream that nothing stalls: found corrupt, sent, or prepared ahead of its credit. -/
theorem exec_wblock {j : Nat} {w : Stream} {i : StreamItem} {k : Option Nat} (hrun : s.stagesRun = true) (hnext : (s.unit u).nextStream = some (j, w))
    (hi : w.items[w.ahead]? = some i) (hrepair : s.repairMet u w = none) (hok : s.unitOk u = true) (hmelt : s.meltServes u = true)
    (hfirn : s.engDown 0x0900 = false) (hroom : s.stageRoom u (i.payload w.pass w.imageVer).length = true) :
    (∀ e, s.corruptMet u w k = some e → exec (.wblock { port := u, corrupt := k }) s =
      .next (({ s with firn := { s.firn with codeErr := satAdd s.firn.codeErr 1 0xFFFFFFFF } } : State).needRepair w.image w.imageVer e.1 e.2)) ∧
    (s.corruptMet u w k = none → exec (.wblock { port := u, corrupt := k }) s = .next (
      if (s.unit u).hasCredit 1 && (s.unit u).itemsAhead == 0 then
        ({ s with firn := { s.firn with nanCount := satAdd s.firn.nanCount i.nans 0xFFFFFFFF } } : State).sendItem u j w
      else (({ s with firn := { s.firn with nanCount := satAdd s.firn.nanCount i.nans 0xFFFFFFFF } } : State).updUnit u
        fun z => { z with streams := z.streams.set j { w with ahead := w.ahead + 1 } }).progress (0x0300 + s.meltOf u))) := by
  refine ⟨fun e he => ?_, fun he => ?_⟩ <;>
  · show Host.Outcome.next _ = _
    simp only [hnext, hi, hrepair, hrun, hok, hmelt, hfirn, hroom, he, Option.isSome_none, Bool.and_false, Bool.not_true, Bool.or_self, Bool.false_eq_true, if_false]

/-- A block of a stream is sent: the stream moves on, and the port has one packet more. -/
theorem State.sendItem_block {j : Nat} {w : Stream} {i : StreamItem} {more : List StreamItem} (hitems : w.items = i :: more) (hahead : w.ahead = 0)
    (hblock : ∀ l x y, i ≠ .layerEnd l x y) :
    ((s.sendItem u j w).unit u).streams = (if more.isEmpty then (s.unit u).streams.eraseIdx j else (s.unit u).streams.set j { w with items := more, begun := true }) ∧
    (s.sendItem u j w).ports.tile = s.ports.tile ++ [w.packet u i] := by
  have hw : { w with items := more, ahead := w.ahead - 1, begun := true } = { w with items := more, begun := true } := by rw [hahead]
  cases i with
  | layerEnd l x y => exact absurd rfl (hblock l x y)
  | block layer tensor tile offset fmt nans bytes =>
    unfold State.sendItem
    simp only [hitems]
    rw [State.unit_updUnit, hw]
    refine ⟨?_, rfl⟩
    have hstreams : (((s.sendTile (w.packet u (.block layer tensor tile offset fmt nans bytes))).progress (0x0300 + s.meltOf u)).unit u).streams = (s.unit u).streams := by
      show ((s.updUnit u _).unit u).streams = _
      rw [State.unit_updUnit]
      rfl
    rw [hstreams]

end

/-- Settles O33, event by event. -/
theorem portEvents : Obligations.PortEvents := by
  intro s u hrun
  refine ⟨fun l hdue hup hl => ?_, fun k r c t x n w d hk hpark hnext hx hn hw hd => ⟨fun va hva => ?_, fun va hva => ?_,
      fun v ins y c1 hok hv hins hlack hcredit hy hc1 hd1 => ?_⟩, fun r t hready => crevasseWaitingPost_writes hrun hready, fun hok hup => ?_,
    fun k w x l lv hw hup hx hgood hfresh hl => (tableWalkDone_ends hrun hw hup hx).1 l hgood hfresh hl,
    fun k w x lv n hw hup hx hcmd hn => (tableWalkDone_ends hrun hw hup hx).2 n hcmd hn, fun r hok hr => ?_,
    fun cls n hcls hpresent hfence hn => creditReturn_counts hrun hcls hpresent hfence hn,
    fun j w i more k hnext hitems hahead hrepair hgood hok hmelt hfirn hroom => ?_,
    fun j w i k e hnext hi hrepair he hok hmelt hfirn hroom => (exec_wblock hrun hnext hi hrepair hok hmelt hfirn hroom).1 e he⟩
  · subst hl
    refine congrArg Host.Outcome.next (if_neg ?_)
    simp [hdue, hrun, hup]
  · rw [exec_issue hk hpark hnext hx hn hw, (State.withSpans_faults _ hd).1 hva]
  · rw [exec_issue hk hpark hnext hx hn hw, (State.withSpans_faults _ hd).2 hva]
  · have hspans : (s.checkSpans c x (seracEngine u) (w.vaSpans c)).1 = .ok := hd ▸ hok
    rw [exec_issue hk hpark hnext hx hn hw, State.withSpans_ok _ hspans, hd, ← hv, State.issueTile_sends hins hlack hcredit hy hc1 hd1]
  · exact congrArg Host.Outcome.next (if_pos (by simp [hrun, hok, hup]))
  · show Host.Outcome.next _ = _
    simp only [hr, hrun, hok, Bool.and_self, if_true]
  · have hi : w.items[w.ahead]? = some i := by rw [hitems, hahead]; rfl
    obtain ⟨-, hsend⟩ := exec_wblock (k := k) hrun hnext hi hrepair hok hmelt hfirn hroom
    refine ⟨fun hcredit hidle hblock => ?_, fun hcredit => ?_⟩
    · refine .of_eq ((hsend hgood).trans (congrArg Host.Outcome.next (if_pos (by simp [hcredit, hidle])))) ?_
      exact State.sendItem_block hitems hahead hblock
    · refine .of_eq ((hsend hgood).trans (congrArg Host.Outcome.next (if_neg (by simp [hcredit])))) ⟨?_, rfl⟩
      refine (congrArg SUnit.streams (State.unit_updUnit _ u _)).trans ?_
      rw [hahead]
      rfl

end Sys2Proof.Machine
end
